-- ==== Sys2Proof/Word.lean ====
section
/-! DEFINITION. The word types of the machine and their plainest arithmetic (R2, R3). -/

namespace Sys2Proof

/-- One byte (R3). -/
abbrev Byte := BitVec 8
/-- A 64-bit scalar word (R107). -/
abbrev Word := BitVec 64
/-- A vector register v0-v63 (R107). -/
abbrev VReg := BitVec 4096
/-- A predicate register p0-p23 (R107). -/
abbrev PReg := BitVec 1024

end Sys2Proof
end

