-- ==== Sys2Proof/Config.lean ====
section
/-! DEFINITION. What one device fixes and the free values: opaque constants without a body, so that no proof can
see what they are. Each takes a plain counter of State (`free`) or the operands it depends on. -/

namespace Sys2Proof.Config

/-- Cycles a step takes beyond the one in which it issues (R21: contention adds cycles). Log entry 5. -/
opaque stepCycles : Nat → Nat
/-- What a fabric peer does with a request and the grant token it carries (R334): answers, does not answer, or rejects with a
sub-code (R322, R335). Log entry 6. -/
opaque peerAnswer : Nat → Word → Nat
/-- The byte a fabric peer returns (R226, R250). Log entry 6. -/
opaque peerByte : Nat → Nat → Byte
/-- The LID Sluice assigns, before it is made unique among the live launches (R59). Log entry 7. -/
opaque lidChoice : Nat → BitVec 16
/-- A grant key drawn by the security root (R333, R407). Log entry 12. -/
opaque grantKey : Nat → BitVec 256
/-- The bytes of a saved context record, whose layout is not architected (R39). Log entry 8. -/
opaque recordByte : Nat → Nat → Byte
/-- A byte of the signature that the device's identity key makes of an attestation report: which signing, which byte (R407, R408).
Log entry 9. -/
opaque signatureByte : Nat → Nat → Byte
/-- The images that the root verifies at a boot: anchor firmware 0, die supervisor 1, management 2 (R407). Log entry 9. -/
opaque bootImage : Nat → Nat → List Byte
/-- The result of a transcendental function whose correct rounding the interval evaluation does not settle within
its fuel: operation, format code, operand bits (R93, R165). Log entry 10. -/
opaque unsettled : Nat → Nat → Nat → BitVec 64
/-- A value a rule of the spec leaves open (the log entry names each use). Log entry 11. -/
opaque openValue : Nat → Nat → BitVec 64

end Sys2Proof.Config
end

