-- ==== Sys2Proof/Machine/Event.lean ====
section
/-! DEFINITION. The machine events of the opcode table as data the package can hold while they are under way.
Each constructor is one event row of the table, with the operands of the constructor of Instr of the same name. -/

namespace Sys2Proof.Machine

/-- A machine event with what it concerns. -/
inductive Event where
  /-- R57. -/
  | reportRound
  /-- R55. -/
  | launchDequeue (part : Nat)
  /-- R56. -/
  | launchCancel (order : Nat)
  /-- R58. -/
  | panClaim (core : Nat) (serial : Nat)
  /-- R57. -/
  | creationMessage (core : Nat) (serial : Nat) (tid : Nat) (restart : Bool)
  /-- R59. -/
  | endMessage (core : Nat) (serial : Nat) (tid : Nat)
  /-- R307. -/
  | tspawnRequest (core : Nat) (seq : Nat) (serial : Nat) (target : Nat)
  /-- R310. -/
  | gjoinRequest (core : Nat) (seq : Nat) (serial : Nat) (count : Nat)
  /-- R313. -/
  | wqryRequest (core : Nat) (seq : Nat) (serial : Nat) (list : Nat) (place : Nat) (off : Nat)
  /-- R312. -/
  | wqryOpenRequest (core : Nat) (serial : Nat) (list : Nat) (extent : BitVec 60)
  /-- R148. -/
  | trestartRequest (core : Nat) (target : Nat) (lid : Nat) (tid : Nat)
  /-- R366. -/
  | sluiceReply (core : Nat) (seq : Nat) (err : Nat)
  /-- R62. -/
  | preemptionMessage (core : Nat) (serial : Nat)
  /-- R62. -/
  | preemptionAcknowledgement (core : Nat) (serial : Nat)
  /-- R64. -/
  | resumptionMessage (core : Nat) (serial : Nat)
  /-- R49. -/
  | quantumExpiry (core : Nat)
  /-- R45. -/
  | stallPromisePassed (core : Nat)
  /-- R372. -/
  | tokenWake (core : Nat) (slot : Nat) (err : BitVec 24)
  /-- R366. -/
  | tokenRegistration (home : Nat) (token : BitVec 64) (core : Nat) (slot : Nat)
  /-- R366. -/
  | timerTokenReady (core : Nat) (slot : Nat)
  /-- R371. -/
  | awaitTimeout (core : Nat) (slot : Nat)
  /-- R383. -/
  | waituntilTime (core : Nat) (slot : Nat)
  /-- R419. -/
  | backgroundRestore (core : Nat)
  /-- R419. -/
  | backgroundRestoreDone (core : Nat)
  /-- R67. -/
  | thermalRankingTable (core : Nat) (table : List Nat)
  /-- R67. -/
  | thermalCclimStep (core : Nat) (hot : Bool)
  /-- R68. -/
  | mobileRecord (core : Nat) (slot : Nat) (target : Nat)
  /-- R32. -/
  | mailboxCsrWrite (core : Nat) (csr : BitVec 12) (value : BitVec 64)
  /-- R69. -/
  | levellingVisit (die : Nat)
  /-- R279. -/
  | delegation (core : Nat) (issuer : Nat) (seq : Nat) (part : Nat) (priv : Bool) (block : List (BitVec 64))
  /-- R279. -/
  | activeMessage (core : Nat) (issuer : Nat) (part : Nat) (priv : Bool) (block : List (BitVec 64))
  /-- R279. -/
  | delegationReply (core : Nat) (seq : Nat) (err : Nat)
  /-- R31. -/
  | serviceRoutineTimeout (core : Nat)
  /-- R70. -/
  | gangJoin (core : Nat) (member : Nat) (seq : Nat) (serial : Nat) (leaderTid : Nat) (index : Nat)
  /-- R70. -/
  | gangFormationTimeout (core : Nat)
  /-- R194. -/
  | gangOperandMessage (core : Nat) (chunk : List (BitVec 64))
  /-- R263. -/
  | presenceStoreLanding (core : Nat) (off : Nat) (value : BitVec 64)
  /-- R261. -/
  | ldaDataArrival (core : Nat) (id : Nat)
  /-- R274. -/
  | vamoElementArrival (core : Nat) (serial : Nat) (tid : Nat)
  /-- R272. -/
  | wellRefillLanding (core : Nat) (well : BitVec 3)
  /-- R267. -/
  | transferComplete (core : Nat) (ch : Nat) (id : Nat)
  /-- R327. -/
  | channelCellResume (core : Nat) (ch : Nat)
  /-- R246. -/
  | storeBufferDrain (core : Nat)
  /-- R252. -/
  | durableStoreAccept (num : Nat)
  /-- R253. -/
  | persistAcknowledgement (num : Nat)
  /-- R392. -/
  | containmentScrub (core : Nat) (pass : Bool)
  /-- R294. -/
  | queueWaiterWake (core : Nat) (slot : Nat)
  /-- R294. -/
  | waiterTableRetry (core : Nat) (slot : Nat)
  /-- R378. -/
  | wireBarrierRelease (line : Nat)
  /-- R380. -/
  | barrierTimeout (core : Nat) (slot : Nat)
  /-- R377. -/
  | deferredArrival (core : Nat) (ch : Nat) (id : Nat)
  /-- R383. -/
  | postedSignalRefused (core : Nat) (token : BitVec 64) (epc : BitVec 64) (serial : Nat) (tid : Nat)
  /-- R250. -/
  | fabricErrorResponse (num : Nat)
  /-- R335. -/
  | ingressRequest (kind : Nat) (peer : Nat) (part : Nat) (tpart : Nat) (off : Nat) (token : BitVec 64) (data : List (BitVec 8))
  /-- R337. -/
  | leaseExpiry (line : Nat)
  /-- R219. -/
  | retentionEntry (core : Nat) (pan : Nat)
  /-- R219. -/
  | retentionExit (core : Nat) (pan : Nat)
  /-- R360. -/
  | rakeJobStart (part : Nat) (job : Nat)
  /-- R360. -/
  | rakeLayerAdvance (part : Nat) (job : Nat)
  /-- R404. -/
  | hostMemRead (part : Nat) (off : Nat)
  /-- R404. -/
  | hostMemWrite (part : Nat) (off : Nat) (data : List (Option (BitVec 8)))
  /-- R300. -/
  | hostTailStore (part : Nat) (off : Nat) (tail : BitVec 32)
  /-- R405. -/
  | hostBiResponse (line : Nat)
  /-- R408. -/
  | attestationRequest (nonce : BitVec 256)
  /-- R408. -/
  | attestationSigned
  /-- R406. -/
  | stationDown (station : Nat)
  /-- R224. -/
  | bitternResize (die : Nat) (mib : Nat)
  /-- R409. -/
  | partitionLiveWrite (part : Nat)
  /-- R409. -/
  | grantKeyRotation (part : Nat) (slot : Nat)
  /-- R401. -/
  | controlSpaceWrite (pa : Nat) (data : List (BitVec 8))
  /-- R410. -/
  | adaptiveVoltagePeriod (die : Nat)
  /-- R410. -/
  | equalisationPeriod
  /-- R411. -/
  | thresholdPeriod (watts : Nat)
  /-- R410. -/
  | railDroop (die : Nat) (cycles : Nat)
  /-- R412. -/
  | overtemperature (celsius : Nat)
  /-- R399. -/
  | freezeSignal
  /-- R256. -/
  | powerLoss
  /-- R407. -/
  | packageReset (verified : Bool)
  /-- R83. -/
  | nonInstruction (word : BitVec 32)
  /-- R392. -/
  | coreCheckFailure (core : Nat)
  /-- R393. -/
  | mapOutDone (core : Nat)
  /-- R212. -/
  | panPreparationDone (core : Nat) (serial : Nat)
  /-- R225. -/
  | persistBufferDrain
  /-- R406. -/
  | stationUp (station : Nat)
  /-- R250. -/
  | fabricStoreAcknowledgement (num : Nat)
  /-- R360. -/
  | rakeCopyResume (part : Nat) (job : Nat)
deriving DecidableEq, Repr

end Sys2Proof.Machine
end

