-- ==== Sys2Proof/Machine/State.lean ====
section
/-! DEFINITION. The state of the package as plain data, the reasons a step can stop, and the state after reset.
The register set the executing core works on is held flat (`ctx`, `lc`, `core`); every other core that differs from
a reset core is listed in `others`. -/

namespace Sys2Proof.Machine

/-- Why a step stops. Neither is raised by an instruction's operands. -/
inductive Fault where
  /-- Raised by step while every clock of the package is stopped (R149, R399): nothing issues until package reset.
  Safe: the hardware does nothing either. -/
  | clocksStopped
  /-- Raised by step while power is lost (R256). Safe: the hardware does nothing either. -/
  | noPower
deriving DecidableEq, Repr

/-- Why the model has no answer. -/
inductive Refusal where
  /-- Raised by dispatch for an instruction without a meaning. Safe: no claim about it can be proved. -/
  | notModelled (mnemonic : String)
deriving DecidableEq, Repr

/-- The causes of R387, in code order from 1. -/
inductive Cause where
  | illegalInstruction | privileged | misaligned | translationNotPresent | protection | peerFault | peerUnreachable
  | peerRejected | storeLost | bounds | objectOverwrite | queueControlBlockCorrupt | rendezvousPhaseError
  | copyOnWrite | staleBlock | boundRegisterAccess | promiseMissed | barrierTimeout | awaitTimeout | invalidToken
  | matrixCheck | shadowMismatch | uncorrectableConsumed | preemption | debugFreeze
deriving DecidableEq, Repr

/-- Memory as sorted address and byte pairs; an unlisted address reads zero. -/
abbrev Mem := List Host.Cell

/-- A bound stream well (R269-R272): the 64-byte record as eight doublewords, word 6 being POS, and the registers of
the pending strip that have landed (numbered across all buffers for a ring). -/
structure Well where
  words : Vector Word 8
  landed : List Nat
deriving DecidableEq, Repr

/-- The vector clock of a die: entry k is the causal count of Dk as the die sees it, of which a read gives 16 bits (R244, R384). -/
abbrev Clock := Vector Nat 8

/-- The register set and task-scope CSRs of a task or of a service routine (R107, R117, R118, R37). -/
structure Ctx where
  pc : Word
  s : Vector Word 32
  v : Vector VReg 64
  p : Vector PReg 24
  ox : Vector Word 8
  wells : Vector (Option Well) 8
  vl : BitVec 11
  vty : BitVec 9
  vstart : BitVec 11
  vdmap : BitVec 64
  ffl : BitVec 5
  frm : BitVec 3
  tid : BitVec 32
  wcoord : BitVec 60
  lid : BitVec 16
  prio : BitVec 3
  xprom : Word
  gangst : BitVec 12
  epc : Word
  ecause : BitVec 24
  eaddr : Word
  bwmask : BitVec 3
  /-- hidden barrier parity (R379) -/
  parity : Bool
  /-- in-handler flag (R389) -/
  inHandler : Bool
  /-- the widest scope of a `fence.rel` with no store since (R236, R237) -/
  release : Option Nat
  /-- a request to persist everything earlier before anything later (R253 pbar.order): the epoch -/
  epoch : Nat
  /-- the clock that the last load read with a release (R244): what a `fence.acq` takes -/
  seen : Option Clock
deriving DecidableEq, Repr

/-- The launch-scope CSRs, one copy per launch present on a core (R116-R118). -/
structure LaunchCopy where
  serial : Nat
  ebacc : BitVec 48
  ehandler : Word
  lmtbase : BitVec 60
  awto : BitVec 32
  bwto : BitVec 32
  raketh : BitVec 32
  mckth : BitVec 32
  hs : Vector (BitVec 32) 16
deriving DecidableEq, Repr

/-- An instruction of a gang's stream as a follower gets it from its leader (R29): its sequence number, where it stands and
where the leader went on, its bytes, the leader's VL and VTY before and after it, and whether the leader sent its A (R194). -/
structure GangStep where
  seq : Nat
  pc : Word
  next : Word
  bytes : List Byte
  vl : BitVec 11
  vty : BitVec 9
  vlNext : BitVec 11
  vtyNext : BitVec 9
  sent : Bool
deriving DecidableEq, Repr

/-- Gang membership of a task (R29, R70). -/
inductive Gang where
  | none
  /-- the task has executed `gang`, its member index 0 as the leader: shape, index, its token's sequence number, the pc after
  it, the cycle, and what a leader has executed since -/
  | forming (shape : Nat) (index : Nat) (seq : Nat) (resume : Word) (start : Word) (backlog : List GangStep)
  /-- leader of a formed gang: shape, the members in order as (core, TID), the sequence number of its next instruction -/
  | leader (shape : Nat) (members : List (Nat × Nat)) (next : Nat)
  /-- follower: shape, member index, the leader's core and TID, the instructions it has still to execute -/
  | follower (shape : Nat) (index : Nat) (leader : Nat) (leaderTid : Nat) (stream : List GangStep)
  /-- a follower whose gang disbands through a trap: the gang instructions it has still to complete before it goes on alone (R71, R184) -/
  | parting (stream : List GangStep)
deriving DecidableEq, Repr

/-- A join that waits at the leader's core (R70). -/
structure GangJoin where
  serial : Nat
  leaderTid : Nat
  index : Nat
  core : Nat
  tid : Nat
  seq : Nat
deriving DecidableEq, Repr

/-- What the core knows of the task it runs beside its registers. -/
structure TaskInfo where
  serial : Nat
  tid : Nat
  /-- partition of its launch (R401) -/
  part : Nat
  /-- privileged mode (R124) -/
  priv : Bool
  /-- started-task entry (R28), which numbers its fault cell (R327) -/
  slot : Nat
  /-- suspension time (R27) -/
  susp : Word
  /-- address of a lost fabric store not yet reported (R250) -/
  lost : Option Word
  /-- the last wire-barrier arrival: its token and the cycle of its timeout, 0 where the next wait starts a new count
  (R379, R380) -/
  arrival : Option (Word × Word)
  /-- a cause the task takes when it next issues: cause, sub-code, address (R63, R230, R371, R380) -/
  due : Option (Cause × Nat × Word)
  /-- woken as the first waiter of a queue: it registers again at the front (R294) -/
  woken : Bool
  gang : Gang
  /-- the gang `mma` the task had entered when its gang disbanded: its pc and sequence number (R195) -/
  entered : Option (Word × Nat)
  /-- start of an await that tests its token again after the waiter table was full (R371, R372) -/
  waitFrom : Option Word
deriving DecidableEq, Repr

/-- What a waiting task waits for. -/
inductive WaitKind where
  | await | awaitT | awaitAny | waitUntil | queue | pageFault | repair | tableFull | spawnReply
deriving DecidableEq, Repr

/-- A wait under way (R371, R383, R293, R327, R357). -/
structure Wait where
  kind : WaitKind
  /-- token register of an await -/
  reg : BitVec 5
  /-- bytes of the instruction that waits -/
  size : Nat
  /-- the instruction that waits, as a gang's stream holds it (R29) -/
  code : List Byte
  tokens : List Word
  /-- start of the wait -/
  t0 : Word
  /-- the cycle from which the task stalls or is suspended, the start of a stall (R385) -/
  since : Word
  /-- index of the token that became ready -/
  which : Nat
  /-- error word bits of the signal: code and sub-code (R369); none without error status -/
  err : Option (BitVec 24)
  /-- await.t ran out (R371) -/
  timedOut : Bool
  /-- the wait is over: a gang goes on when every member's is (R29) -/
  isOver : Bool
  /-- the time a waituntil waits for (R383) -/
  till : Word
  /-- the cycle from which a task that found the waiter table full is made Ready again (R294, R372) -/
  retry : Word
  /-- bytes of the record saved if the task is switched out (R37, R38) -/
  bytes : Nat
deriving DecidableEq, Repr

/-- States of a suspended started task (R27). -/
inductive Phase where
  | waiting | ready | quiesced
deriving DecidableEq, Repr

/-- Where the record of a suspended task is held (R40-R43, R46). -/
inductive Place where
  | registers | cache | bittern | backing
deriving DecidableEq, Repr

/-- A suspended started task with its record. -/
structure Suspended where
  info : TaskInfo
  ctx : Ctx
  phase : Phase
  place : Place
  wait : Option Wait
  /-- ready bit of the spill index (R43) -/
  ready : Bool
  /-- bytes of the record (R37, R38) -/
  bytes : Nat
  /-- which free value the record's bytes in the backing come from (R39) -/
  stamp : Nat
  /-- its check code fails: a bit error in Bittern has damaged it (R39, R227) -/
  spoiled : Bool
deriving DecidableEq, Repr

/-- An entry of the creation list (R26, R28). -/
structure Created where
  serial : Nat
  tid : Nat
  time : Word
  restart : Bool
deriving DecidableEq, Repr

/-- Who holds the register file (R27, R45). -/
inductive Run where
  | idle
  | running (t : TaskInfo)
  | stalled (t : TaskInfo) (promise : Word) (w : Wait)
deriving DecidableEq, Repr

/-- A delegated routine or active message at a core's network interface (R32, R279). -/
structure Routine where
  issuer : Nat
  /-- sequence number of the reply token; none for an active message -/
  seq : Option Nat
  part : Nat
  priv : Bool
  block : List Word
deriving DecidableEq, Repr

/-- The routine the service context runs (R30, R31) and the registers of the task it interrupted. -/
structure Service where
  routine : Routine
  start : Word
  heldCtx : Ctx
  heldCopy : LaunchCopy
  /-- a cause the routine takes when it next issues (R63, R230) -/
  due : Option (Cause × Nat × Word)
deriving DecidableEq, Repr

/-- What a transfer of a channel does (R261, R267, R377). -/
inductive Job where
  /-- xcopy: source, destination, place flags, row length, rows, strides, the two PFMT and FRM of a converting
  copy, the checksum register of a carried check -/
  | copy (src dst : Word) (sp dp : Bool) (rowlen rows : Nat) (sstride dstride : Int)
      (conv : Option (BitVec 9 × BitVec 9)) (frm : BitVec 3) (ck : Option VReg)
  /-- lda: destination register, the data on its way or the error bits, whether the register is still the task's (R36) -/
  | load (reg : BitVec 5) (data : Word) (err : Option (BitVec 24)) (live : Bool)
  /-- deferred rendezvous arrival: object, parity, GEN read at issue, the token written -/
  | arrive (va : Word) (par : Bool) (gen : BitVec 16) (token : Word)
deriving DecidableEq, Repr

/-- An outstanding transfer of a channel (R368). -/
structure Transfer where
  id : BitVec 32
  promise : Word
  serial : Nat
  tid : Nat
  part : Nat
  priv : Bool
  pc : Word
  job : Job
  /-- waiting for the channel's fault cell (R327) -/
  parked : Bool
  /-- issued when a pan it names belonged to a pre-empted launch, whose core refuses it (R63) -/
  late : Bool
deriving DecidableEq, Repr

/-- A channel of the tile copy engine (R266-R268, R368). -/
structure Channel where
  nextId : BitVec 32
  /-- cycle from which the next transfer may start, the S of R268 -/
  nextStart : Word
  out : List Transfer
  /-- newest 256 completed ids with their error bits, zero for none -/
  status : List (BitVec 32 × BitVec 24)
  xdone : BitVec 32
deriving DecidableEq, Repr

/-- A store on its way from the store buffer to its point of order (R246): its address as the task named it, whether the vector
queue made it (R235), and whether it is a release store (R237). -/
structure Buffered where
  pa : Nat
  bytes : List Byte
  serial : Nat
  tid : Nat
  epoch : Nat
  va : Word
  vec : Bool
  rel : Bool
deriving DecidableEq, Repr

/-- A reduction collected in an update-only line and not yet combined at its home (R249): its bytes, the number of its operation
(R273), its operand, and the task and stream that made it. -/
structure Reduction where
  pa : Nat
  size : Nat
  op : Nat
  x : Word
  serial : Nat
  tid : Nat
  va : Word
  vec : Bool
deriving DecidableEq, Repr

/-- The clock of a release that crossed a die boundary, kept with a word it wrote (R244), and the task that wrote it (R245). -/
structure Stamp where
  word : Nat
  serial : Nat
  tid : Nat
  clock : Clock
deriving DecidableEq, Repr

/-- A stamped message that a die holds until its own entries catch up, with the event it brings (R384). -/
structure HeldStamp where
  die : Nat
  stamp : Clock
  event : Option Event
deriving DecidableEq, Repr

/-- A presence store on its way (R263): the core and offset it goes to, the core and task that made it, its stream, its partition and mode (R211), and the clock
it carries where it crosses a boundary (R244). -/
structure Flight where
  core : Nat
  off : Nat
  value : Word
  sender : Nat
  serial : Nat
  tid : Nat
  vec : Bool
  part : Nat
  priv : Bool
  stamp : Option Clock
deriving DecidableEq, Repr

/-- A line in the RDC of a die: a line homed on another die's HBM, by PA/128, or a fabric line of a partition with its bytes
(R222, R223). A line of another die's HBM is dirty while a store of its die has gone through it and nothing has written it back. -/
structure RdcLine where
  die : Nat
  key : Nat
  part : Nat
  bytes : List Byte
  dirty : Bool
deriving DecidableEq, Repr

/-- Retention of a pan (R219). -/
inductive Retention where
  | active | entering | retained | leaving
  /-- entering, with an access that waits for the end of the entry and then for the exit -/
  | recalled
deriving DecidableEq, Repr

/-- An element of an outstanding vamo: register group, element index, element width and the old value (R274). -/
structure VamoElem where
  serial : Nat
  tid : Nat
  group : Nat
  index : Nat
  sew : Nat
  value : Word
  live : Bool
deriving DecidableEq, Repr

/-- A core under containment (R392). -/
structure Containment where
  start : Word
  /-- tasks of the core as (serial, TID, restartable) -/
  tasks : List (Nat × Nat × Bool)
  drained : Nat
  code : Nat
  sub : Nat
  /-- map-out under way since this cycle, to the position the row's map leaves outside (R393) -/
  mapping : Option (Word × Nat)
deriving DecidableEq, Repr

/-- A posted signal whose home has refused it, until its core reports it (R383): the signal, and what its record names. -/
structure Posted where
  token : Word
  pc : Word
  serial : Nat
  tid : Nat
  part : Nat
  lid : Nat
  tag : Word
deriving DecidableEq, Repr

/-- What a plain load writes: a scalar register from n bytes at a physical address, or a group of vector registers. -/
inductive LateDest where
  | scalar (r : BitVec 5) (pa n : Nat)
  | vector (first count : Nat)
deriving DecidableEq, Repr

/-- A plain load that may still take effect later than where it was issued, until something orders it (R234, R235). Its task, its
bytes, the registers it was issued with, and what it writes. -/
structure LateLoad where
  serial : Nat
  tid : Nat
  code : List Byte
  ctx : Ctx
  dst : LateDest
deriving DecidableEq, Repr

/-- A `kvreq` between its conversion and its swap (R353): its task and pc, the pool, the entry as it was read, the new page, and the
new descriptor. -/
structure Requant where
  serial : Nat
  tid : Nat
  pc : Word
  pool : Word
  entry : Nat
  page : Nat
  desc : Nat
deriving DecidableEq, Repr

/-- The state of one core beside the register set in use. -/
structure Core where
  cclim : BitVec 6
  cclimSet : BitVec 6
  qntm : BitVec 32
  /-- quantum of the count under way: a write of QNTM applies from the next restart (R49, R134) -/
  qlim : BitVec 32
  swth : BitVec 16
  pmc : Vector Word 8
  run : Run
  /-- cycle at which the quantum count started (R49) -/
  qstart : Word
  created : List Created
  tasks : List Suspended
  copies : List LaunchCopy
  /-- background restore under way: the slot (R43, R419) -/
  restoring : Option Nat
  service : Option Service
  routines : List Routine
  /-- sealed (R147, R392) -/
  closed : Bool
  /-- absent after a failed map-out (R393) -/
  absent : Bool
  containing : Option Containment
  /-- thermal ranking table (R67) -/
  ranking : List Nat
  /-- temperature, in degrees Celsius (R67, R412) -/
  temp : Nat
  joins : List GangJoin
  ring : List (List Word)
  pfmt : Vector (BitVec 9) 16
  /-- launches whose tasks here are quiesced (R62) -/
  quiesced : List Nat
  /-- serial of the launch that claims each pan (R211) -/
  claims : Vector (Option Nat) 16
  retention : Vector Retention 16
  /-- cycle of each pan's last access, or at which its entry or exit began (R219) -/
  panTime : Vector Word 16
  /-- launches whose claimed pans are being prepared (R212), and creation messages held for them -/
  preparing : List Nat
  heldCreations : List Created
  chans : Vector Channel 4
  sbuf : List Buffered
  /-- next sequence number of Sluice-reply and delegation-reply tokens (R366) -/
  nextSeq : Nat
  /-- arrived replies: sequence number and error bits (R366, R369) -/
  replies : List (Nat × BitVec 24)
  /-- promises of Sluice-reply tokens by sequence number (R44) -/
  promises : List (Nat × Word)
  /-- kind 3 tokens of deferred arrivals that failed here, with their error bits (R377) -/
  failed : List (Word × BitVec 24)
  /-- posted signals that homes have refused (R383) -/
  posted : List Posted
  /-- the status Sluice or the Rake sent back for an instruction that waits for it (R148, R312, R358) -/
  answer : Option Word
  /-- the instruction that waits has sent its request -/
  asked : Bool
  /-- reservations of the running task: element index and 8-byte word (R275) -/
  resv : List (Nat × Nat)
  vamos : List VamoElem
  /-- reductions collected and not yet combined (R249) -/
  reductions : List Reduction
  /-- lines the L1 holds (R220), oldest first -/
  l1 : List Nat
  /-- halfwords the fetch path holds, by PA (R146) -/
  fetched : List (Nat × Nat)
  /-- loads that may still take effect later (R235) -/
  late : List LateLoad
  /-- the requantisation under way (R353) -/
  requant : Option Requant
deriving DecidableEq, Repr

/-- A core that is not executing, with the register set it holds. -/
structure Parked where
  id : Nat
  core : Core
  ctx : Ctx
  lc : LaunchCopy
deriving DecidableEq, Repr

/-- A grid work list (R312). -/
structure WorkList where
  extent : BitVec 60
  next : Nat
deriving DecidableEq, Repr

/-- Pre-emption of a live launch (R61-R64): the cores that have still to acknowledge, or still to restore. -/
inductive Preempted where
  | no
  | saving (waitFor : List Nat)
  | saved
  | resuming (waitFor : List Nat)
deriving DecidableEq, Repr

/-- A launch Sluice has placed and that has not ended (R58-R60). -/
structure Launch where
  serial : Nat
  lid : BitVec 16
  part : Nat
  priv : Bool
  /-- the 128-byte launch record as sixteen doublewords (R53), and its address -/
  words : Vector Word 16
  va : Word
  /-- dequeue order (R56) -/
  order : Nat
  /-- origins as (die, x0, y0) -/
  rects : List (Nat × Nat × Nat)
  nextTid : Nat
  ended : Nat
  /-- some task ended by containment (R60) -/
  damaged : Bool
  /-- TIDs ended by containment and not restarted since (R148) -/
  lostTids : List Nat
  preempted : Preempted
  lists : Vector (Option WorkList) 8
  /-- joins that wait: core, sequence number, count (R310) -/
  joins : List (Nat × Nat × Nat)
deriving DecidableEq, Repr

/-- A launch in the pending table (R55, R56, R61). -/
structure Pending where
  part : Nat
  serial : Nat
  lid : BitVec 16
  words : Vector Word 16
  va : Word
  order : Nat
  /-- consecutive reports at which placement failed -/
  fails : Nat
  /-- the placement chosen for it by pre-emption, and the victims whose acknowledgements it waits for -/
  rects : List (Nat × Nat × Nat)
  victims : List Nat
deriving DecidableEq, Repr

/-- What a waiter entry at a home waits on (R294, R372). -/
inductive WaiterOn where
  | enqueue (qcb : Nat)
  | dequeue (qcb : Nat)
  | token (t : Word)
deriving DecidableEq, Repr

/-- A waiter entry of a home, in registration order. Entries 0 to 63 of a core are its started tasks; 64 + channel is a
copy channel that waits for its fault cell (R327); 128 + job is a Rake job, `core` being its partition (R360). -/
structure Waiter where
  on : WaiterOn
  part : Nat
  core : Nat
  slot : Nat
  /-- home slice of the object: 32·die + slice, or 256 for the durable-tier controller (R294) -/
  home : Nat
  /-- the object of a cell or rendezvous token: its PA at the registration, none for one of a peer or for another kind (R372) -/
  obj : Option Nat
deriving DecidableEq, Repr

/-- A durable store past the store buffer (R252, R253). -/
structure Durable where
  num : Nat
  pa : Nat
  bytes : List Byte
  serial : Nat
  tid : Nat
  epoch : Nat
  core : Nat
  va : Word
  vec : Bool
  /-- the clock of a release store (R244) -/
  stamp : Option Clock
  accepted : Bool
deriving DecidableEq, Repr

/-- A posted fabric store whose peer has not answered (R250). -/
structure FabricStore where
  num : Nat
  core : Nat
  serial : Nat
  tid : Nat
  peer : Nat
  addr : Nat
  va : Word
  /-- the grant token it carries (R334) -/
  token : Word
  /-- the station it went out by (R406) -/
  station : Nat
  /-- the instruction that made it and its partition (R395) -/
  pc : Word
  part : Nat
deriving DecidableEq, Repr

/-- A leaf translation held in some TLB of the package: partition, first page (VA / 4096), size code, entry, its address (R323). -/
structure TlbEntry where
  part : Nat
  page : Nat
  size : Nat
  pte : Word
  entry : Nat
deriving DecidableEq, Repr

/-- A non-leaf entry held in some walk cache: partition, its level, the VA bits from that level up, the next table (R323). -/
structure WalkEntry where
  part : Nat
  level : Nat
  tag : Nat
  table : Nat
deriving DecidableEq, Repr

/-- A migration counter of a die (R330). -/
structure MigrationCounter where
  die : Nat
  way : Nat
  part : Nat
  region : Nat
  count : Nat
  posted : Bool
deriving DecidableEq, Repr

/-- A private descriptor of a Rake job: its index, the old one, the covered entries (R360). -/
structure RakeCopy where
  desc : Nat
  old : Nat
  entries : List Nat
deriving DecidableEq, Repr

/-- A Rake job slot (R358-R362). -/
structure RakeJob where
  part : Nat
  job : Nat
  /-- the job record as eight doublewords (R359) -/
  words : Vector Word 8
  threshold : BitVec 32
  active : Bool
  err : Bool
  cancelled : Bool
  /-- a layer has been started -/
  started : Bool
  /-- RTL of the layer has been written and signalled; the next layer or the end follows (R360) -/
  advanced : Bool
  layer : Nat
  /-- pool of the block table, as read at the start -/
  pool : Word
  /-- logical position of the first covered token -/
  pos : Nat
  /-- the covered entries as read at the start, and whether each named a SPLICED descriptor -/
  entries : List (Nat × Bool)
  copies : List RakeCopy
  /-- selected tokens: copy, slot in page, logical position -/
  selected : List (Nat × Nat × Nat)
  /-- waits for the resolution of a page fault (R360) -/
  parked : Bool
  tid : Nat
  serial : Nat
deriving DecidableEq, Repr

/-- A record a producer holds because its queue is full (R299). -/
structure HeldRecord where
  part : Nat
  mode : Nat
  words : List Word
deriving DecidableEq, Repr

/-- A leased line of an ingress atomic cache (R337). -/
structure Lease where
  line : Nat
  last : Word
deriving DecidableEq, Repr

/-- A wire-barrier line (R378): the arrivals in the phase under way, as task and parity, and the parities with which tasks had arrived
in the phase it released last. Lines are numbered die·33 + 0-15 rows, 16-31 columns, 32 die. -/
structure WireLine where
  line : Nat
  phase : Nat
  arrived : List ((Nat × Nat) × Bool)
  released : List Bool
deriving DecidableEq, Repr

/-- Power and current loops (R410-R412). -/
structure Power where
  level : Nat
  above : Nat
  below : Nat
  avEnabled : Bool
  rails : Vector Nat 8
  hold : Vector Nat 8
deriving DecidableEq, Repr

/-- What a soft error of a core strikes: the double computation of a vector or matrix instruction (R17, R191), that of an address
(R17), or an access on its path: the data that a load brings, or the request of a load, an atomic, a reduction or a place access,
which gets an error response (R397). -/
inductive StrikeOn where
  | compute | address | loadPath
deriving DecidableEq, Repr

/-- A soft error that the next instruction of its kind on a core meets: in element group, element or row `place` of its elements,
failing its check `times` times in a row. -/
structure Strike where
  core : Nat
  place : Nat
  times : Nat
  on : StrikeOn
deriving DecidableEq, Repr

/-- A place where a memory holds a word or line whose code a bit error breaks (R227): a scratchpad word of a core, a line of a core's
L1, 16 bytes in the home slice of an HBM address (with whether the slice's line is dirty), 16 bytes of a line of a die's RDC, a record in
Bittern (of a slot of a core), 32 bytes of HBM, a line of the durable tier or its persist buffer. -/
inductive MemoryAt where
  | pad (core : Nat) (word : Nat)
  | l1 (core : Nat) (line : Nat)
  | l2 (pa : Nat) (dirty : Bool)
  | rdc (die : Nat) (line : Nat) (part : Nat)
  | bittern (core : Nat) (slot : Nat)
  | hbm (pa : Nat)
  | durable (pa : Nat)
deriving DecidableEq, Repr

/-- A request whose address or control fields fail their path check (R397): the oldest store of a core's store buffer, the oldest
presence store a core has sent, the oldest delegation or active message under way from a core, the oldest transfer of a channel. -/
inductive PathRequest where
  | store | presence | delegation
  | transfer (ch : Nat)
deriving DecidableEq, Repr

/-- What happens to the package from outside its programs and is no event of the opcode table. -/
inductive Happening where
  /-- a soft error in a core's computation, address generation or load path (R17, R191, R397) -/
  | strike (x : Strike)
  /-- bits of one code word of a memory flip (R227) -/
  | bitError (at_ : MemoryAt) (bits : Nat)
  /-- a scrub or an eviction finds poison in a word: PA/8, or 2^60 and a scratchpad word (R228) -/
  | scrub (word : Nat)
  /-- a word fails its path check at a boundary it crosses in an eviction, a copy or a migration (R397) -/
  | pathWord (word : Nat)
  /-- the data of the oldest store of a core's store buffer fails its path check (R397) -/
  | pathStore (core : Nat)
  /-- the data of the oldest presence store on its way to a core fails its path check (R397) -/
  | pathPresence (core : Nat)
  /-- the address or control fields of a request of a core fail their check (R397) -/
  | pathControl (request : PathRequest) (core : Nat)
  /-- a program of a die supervisor enqueues a launch record in a launch queue of a partition (R54) -/
  | supervisorRecord (part : Nat) (prio : Nat) (record : List (BitVec 64))
  /-- management sets the lease of the ingress atomic caches (R337, R412) -/
  | leaseTime (cycles : Nat)
  /-- management sets the hot and cool thresholds, in degrees Celsius (R67, R412) -/
  | thresholds (hot : Nat) (cool : Nat)
  /-- a core's temperature (R67) -/
  | temperature (core : Nat) (degrees : Nat)
  /-- management enables or disables the adaptive voltage loop (R410) -/
  | adaptiveVoltage (on : Bool)
deriving DecidableEq, Repr

/-- Whose turn a step of the package is: a core issues, a machine event takes place, or something happens from outside. -/
inductive Turn where
  | core (c : Nat)
  | event (e : Event)
  | other (h : Happening)
deriving DecidableEq, Repr

/-- Where the executing instruction is to end inside its elements, for a suspension that falls due there (R49, R114, R189). -/
inductive Cut where
  | none
  /-- after this many of its element groups -/
  | after (groups : Nat)
  /-- it has ended there -/
  | ended
deriving DecidableEq, Repr

/-- The whole package. -/
structure State where
  cyc : Word
  /-- the executing core: 256·die + 16·y + x (R240) -/
  cur : Nat
  ctx : Ctx
  lc : LaunchCopy
  core : Core
  others : List Parked
  /-- HBM and durable bytes as their points of order hold them -/
  mem : Mem
  /-- device control space (R401) -/
  ctl : Mem
  /-- scratchpads: core·2^20 + offset (R209) -/
  pad : Mem
  /-- scratchpad words, core·2^17 + word, whose presence bit is 1 (R217) -/
  present : List Nat
  /-- granules, PA/16, whose object bit is 1 (R229) -/
  objects : List Nat
  /-- words, PA/8, whose full bit is 1 (R285) -/
  full : List Nat
  /-- poisoned words: PA/8 (R228) -/
  poison : List Nat
  /-- poisoned scratchpad words (R228) -/
  padPoison : List Nat
  /-- bits that have flipped in a pan in retention, by its 256-bit group, core·2^15 + offset/32, until its exit (R227) -/
  padFlips : List (Nat × Nat)
  /-- words whose latest poison came from a failed path check: PA/8, or 2^60 and a scratchpad word (R397) -/
  pathPoison : List Nat
  /-- durable bytes in the persist domain (R252) -/
  persisted : Mem
  durable : List Durable
  durableNext : Nat
  /-- lines in the persist buffer, oldest first (R225) -/
  pbuf : List Nat
  /-- presence stores on their way, oldest first (R263) -/
  flights : List Flight
  /-- the vector clock of each die (R244, R384) -/
  clocks : Vector Clock 8
  /-- the clocks of releases, with the words they wrote (R244) -/
  stamps : List Stamp
  /-- stamped messages that dies hold (R384) -/
  heldStamps : List HeldStamp
  /-- lines the RDCs hold (R222) -/
  rdc : List RdcLine
  /-- granules, PA/16, of cells that a pod-scope release has signalled (R223, R237) -/
  podSignals : List Nat
  fabric : List FabricStore
  fabricNext : Nat
  launches : List Launch
  pendingLaunches : List Pending
  nextOrder : Nat
  nextSerial : Nat
  /-- report rounds taken (R57) -/
  rounds : Nat
  /-- free creation entries of a core in Sluice's view, where they are not 64 (R57) -/
  view : List (Nat × Nat)
  /-- slots, PA/8, of launch records that a program of a die supervisor has enqueued (R54) -/
  supervised : List Nat
  /-- spawn requests Sluice holds and creation messages returned to it (R28, R57) -/
  returned : List Event
  waiters : List Waiter
  /-- control blocks of levelled queues, which the levelling units visit, with their partitions (R69, R297) -/
  levelled : List (Nat × Nat)
  tlb : List TlbEntry
  walkCache : List WalkEntry
  migration : List MigrationCounter
  /-- which draw of the security root each key slot holds, by 4·partition + slot (R333) -/
  keys : List (Nat × Nat)
  keyNext : Nat
  leases : List Lease
  leaseCycles : Nat
  rake : List RakeJob
  heldRecords : List HeldRecord
  lines : List WireLine
  /-- Bittern size of each die in MiB (R224) -/
  bittern : Vector Nat 8
  stationsDown : List Nat
  /-- rows whose spare is in use: die·16 + row (R393) -/
  sparesUsed : List Nat
  snoop : List Nat
  heldWrites : List Nat
  attest : List (BitVec 256)
  reports : List (List Byte)
  /-- an image failed verification at boot (R407) -/
  recovery : Bool
  /-- digests of the images verified at boot: anchor firmware, die supervisor, management (R407, R408) -/
  images : Vector (BitVec 512) 3
  /-- error log, newest first (R396) -/
  errLog : List (List Word)
  power : Power
  /-- hot and cool thresholds, in degrees Celsius (R67, R412) -/
  hot : Nat
  cool : Nat
  frozen : Bool
  powered : Bool
  schedule : List Turn
  /-- the suspension that falls due inside the instruction of this turn -/
  cut : Cut
  /-- soft errors that the schedule has brought and no instruction has met yet -/
  strikes : List Strike
  pending : List Event
  free : Nat
deriving DecidableEq, Repr

/-- The cleared register set of a new task or routine (R26); pc and identity at zero. -/
def Ctx.clear : Ctx where
  pc := 0
  s := Vector.replicate 32 0
  v := Vector.replicate 64 0
  p := Vector.replicate 24 0
  ox := Vector.replicate 8 0
  wells := Vector.replicate 8 none
  vl := 0
  vty := 4
  vstart := 0
  vdmap := 0
  ffl := 0
  frm := 0
  tid := 0
  wcoord := 0
  lid := 0
  prio := 0
  xprom := 0
  gangst := 0
  epc := 0
  ecause := 0
  eaddr := 0
  bwmask := 0
  parity := false
  inHandler := false
  release := none
  epoch := 0
  seen := none

/-- Launch-scope CSRs at their reset values (R117). -/
def LaunchCopy.clear : LaunchCopy where
  serial := 0
  ebacc := 0
  ehandler := 0
  lmtbase := 0
  awto := 1048576
  bwto := 65536
  raketh := 0
  mckth := 0x3A800000
  hs := Vector.replicate 16 0

/-- A copy-engine channel after package reset: ids start at 1 (R267). -/
def Channel.reset : Channel where
  nextId := 1
  nextStart := 0
  out := []
  status := []
  xdone := 0

/-- A core after package reset (R117, R213). -/
def Core.reset : Core where
  cclim := 48
  cclimSet := 48
  qntm := 65536
  qlim := 65536
  swth := 40
  pmc := Vector.replicate 8 0
  run := .idle
  qstart := 0
  created := []
  tasks := []
  copies := []
  restoring := none
  service := none
  routines := []
  closed := false
  absent := false
  containing := none
  ranking := []
  temp := 0
  joins := []
  ring := []
  pfmt := Vector.replicate 16 9
  quiesced := []
  claims := Vector.replicate 16 none
  retention := Vector.replicate 16 .active
  panTime := Vector.replicate 16 0
  preparing := []
  heldCreations := []
  chans := Vector.replicate 4 Channel.reset
  sbuf := []
  nextSeq := 1
  replies := []
  promises := []
  failed := []
  posted := []
  answer := none
  asked := false
  resv := []
  vamos := []
  reductions := []
  l1 := []
  fetched := []
  late := []
  requant := none

/-- The device control space after reset: PRIV of partition 0 (R402) and the column maps, which a log entry names (R384). -/
def ctlReset : Mem :=
  (0x3F0000000007, 0x80) ::
    (List.range 8).flatMap (fun d => (List.range 16).map (fun y => (0x3F0000100040 + 0x1000 * d + y, (16 : Byte))))

/-- The power loops after reset. -/
def Power.reset : Power where
  level := 0
  above := 0
  below := 0
  avEnabled := true
  rails := Vector.replicate 8 750
  hold := Vector.replicate 8 0

/-- The package right after reset. -/
def State.reset : State where
  cyc := 0
  cur := 0
  ctx := Ctx.clear
  lc := LaunchCopy.clear
  core := Core.reset
  others := []
  mem := []
  ctl := ctlReset
  pad := []
  present := []
  objects := []
  full := []
  poison := []
  padPoison := []
  padFlips := []
  pathPoison := []
  persisted := []
  durable := []
  durableNext := 0
  pbuf := []
  flights := []
  clocks := Vector.replicate 8 (Vector.replicate 8 0)
  stamps := []
  heldStamps := []
  rdc := []
  podSignals := []
  fabric := []
  fabricNext := 0
  launches := []
  pendingLaunches := []
  nextOrder := 0
  nextSerial := 1
  rounds := 0
  view := []
  supervised := []
  returned := []
  waiters := []
  levelled := []
  tlb := []
  walkCache := []
  migration := []
  keys := []
  keyNext := 256
  leases := []
  leaseCycles := 4096
  rake := []
  heldRecords := []
  lines := []
  bittern := Vector.replicate 8 8
  stationsDown := []
  sparesUsed := []
  snoop := []
  heldWrites := []
  attest := []
  reports := []
  recovery := false
  images := Vector.replicate 3 0
  errLog := []
  power := Power.reset
  hot := 0
  cool := 0
  frozen := false
  powered := true
  schedule := []
  cut := .none
  strikes := []
  pending := []
  free := 0

end Sys2Proof.Machine
end

