-- ==== Sys2Proof/Machine/Bytes.lean ====
section
/-! DEFINITION. Byte memory in canonical form, sorted sets of numbers, and little-endian access (R3). -/

namespace Sys2Proof.Machine

/-- The byte at an address; an unlisted address reads zero (log entry 2). -/
def memRead : Mem → Nat → Byte
  | [], _ => 0
  | (a, b) :: m, k => if k = a then b else if k < a then 0 else memRead m k

/-- Write one byte, keeping the pairs sorted and zero bytes unlisted. -/
def memWrite : Mem → Nat → Byte → Mem
  | [], k, v => if v = 0 then [] else [(k, v)]
  | (a, b) :: m, k, v =>
    if k < a then (if v = 0 then (a, b) :: m else (k, v) :: (a, b) :: m)
    else if k = a then (if v = 0 then m else (k, v) :: m)
    else (a, b) :: memWrite m k v

/-- Every listed address is above `lo`, addresses rise, no byte is zero. -/
def memWfFrom (lo : Nat) : Mem → Bool
  | [] => true
  | (a, b) :: m => decide (lo ≤ a) && decide (b ≠ 0) && memWfFrom (a + 1) m

/-- The canonical form of memory. -/
def Memory.wf (m : Mem) : Bool := memWfFrom 0 m

/-- Write bytes at rising addresses. -/
def memWriteBytes : Mem → Nat → List Byte → Mem
  | m, _, [] => m
  | m, a, b :: bs => memWriteBytes (memWrite m a b) (a + 1) bs

/-- `n` bytes from an address, lowest first. -/
def memReadBytes (m : Mem) (a : Nat) : Nat → List Byte
  | 0 => []
  | n + 1 => memRead m a :: memReadBytes m (a + 1) n

/-- Little-endian value of bytes (R3). -/
def leNat : List Byte → Nat
  | [] => 0
  | b :: bs => b.toNat + 256 * leNat bs

/-- The `n` low bytes of a value, lowest first (R3). -/
def natBytes : Nat → Nat → List Byte
  | 0, _ => []
  | n + 1, v => BitVec.ofNat 8 v :: natBytes n (v / 256)

/-- Little-endian value of `n` bytes of memory. -/
def memLe (m : Mem) (a n : Nat) : Nat := leNat (memReadBytes m a n)

/-- Doublewords of a byte list. -/
def bytesToWords : Nat → List Byte → List Word
  | 0, _ => []
  | n + 1, bs => BitVec.ofNat 64 (leNat (bs.take 8)) :: bytesToWords n (bs.drop 8)

/-- Bytes of doublewords. -/
def wordsToBytes (ws : List Word) : List Byte := ws.flatMap (fun w => natBytes 8 w.toNat)

/-- Insert into a rising list without repeats. -/
def setAdd : List Nat → Nat → List Nat
  | [], k => [k]
  | a :: l, k => if k < a then k :: a :: l else if k = a then a :: l else a :: setAdd l k

/-- Remove from a rising list. -/
def setDrop (l : List Nat) (k : Nat) : List Nat := l.filter (fun a => a ≠ k)

/-- Add the `n` numbers from `k`. -/
def setAddRange (l : List Nat) (k : Nat) : Nat → List Nat
  | 0 => l
  | n + 1 => setAddRange (setAdd l k) (k + 1) n

/-- Remove the `n` numbers from `k`. -/
def setDropRange (l : List Nat) (k n : Nat) : List Nat := l.filter (fun a => a < k || k + n ≤ a)

/-- Bits hi..lo of a word as a number (R2). -/
def bits (w : Word) (hi lo : Nat) : Nat := w.toNat / 2 ^ lo % 2 ^ (hi + 1 - lo)

/-- Replace bits hi..lo of a word. -/
def setBits (w : Word) (hi lo v : Nat) : Word :=
  w - BitVec.ofNat 64 (bits w hi lo * 2 ^ lo) + BitVec.ofNat 64 (v % 2 ^ (hi + 1 - lo) * 2 ^ lo)

/-- Two's-complement reading of the low `n` bits (R9 sext). -/
def sext (v n : Nat) : Int :=
  let r := v % 2 ^ n
  if n = 0 then 0 else if r < 2 ^ (n - 1) then (r : Int) else (r : Int) - (2 : Int) ^ n

/-- The low 64 bits of an integer (R9). -/
def wrap64 (i : Int) : Word := BitVec.ofInt 64 i

end Sys2Proof.Machine
end

