-- ==== Sys2Proof/Machine/Space.lean ====
section
/-! DEFINITION. The physical spaces (R206), the store buffer and reads through it (R246), object, full and
presence bits (R217, R229, R285), poison (R228), the device control space (R401) and its counters (R384). -/

namespace Sys2Proof.Machine

/-- The physical spaces of R206. -/
inductive Space where
  | hbm | durable | control | reserved
deriving DecidableEq, Repr

/-- R206. -/
def spaceOf (pa : Nat) : Space :=
  if pa < 0x010000000000 then .hbm
  else if pa < 0x040000000000 then .reserved
  else if pa < 0x080000000000 then .durable
  else if pa < 0x3F0000000000 then .reserved
  else if pa < 0x400000000000 then .control
  else .reserved

/-- Home die of an HBM address: PA[39:37] (R206). -/
def homeDie (pa : Nat) : Nat := pa / 2 ^ 37 % 8

/-- Home L2 slice of a line (R207). -/
def sliceOf (pa : Nat) : Nat := (pa / 2 ^ 7 % 32) ^^^ (pa / 2 ^ 12 % 32) ^^^ (pa / 2 ^ 17 % 32)

/-- Die, row and column of a core number. -/
def dieOf (c : Nat) : Nat := c / 256
def rowOf (c : Nat) : Nat := c / 16 % 16
def colOf (c : Nat) : Nat := c % 16
def coreAt (die y x : Nat) : Nat := 256 * die + 16 * y + x

/-- The bytes of a die's vector clock (R384). -/
def isClockByte (pa : Nat) : Bool :=
  decide (0x3F0000100000 ≤ pa) && decide (pa < 0x3F0000108000) && decide (pa % 0x1000 < 0x10)

/-- The vector clock of a die (R244). -/
def State.clockOf (s : State) (die : Nat) : Clock := s.clocks[die]?.getD (Vector.replicate 8 0)

/-- A byte of a die's vector clock: entry k at +2k (R384). -/
def clockByte (s : State) (pa : Nat) : Byte :=
  let off := pa % 0x1000
  BitVec.ofNat 8 (((s.clockOf ((pa - 0x3F0000100000) / 0x1000))[off / 2]?.getD 0) / 256 ^ (off % 2))

/-- A byte at its point of order. -/
def physByte (s : State) (pa : Nat) : Byte :=
  match spaceOf pa with
  | .control => if isClockByte pa then clockByte s pa else memRead s.ctl pa
  | _ => memRead s.mem pa

/-- The task that runs or is stalled. -/
def Run.task : Run → Option TaskInfo
  | .idle => none
  | .running t => some t
  | .stalled t _ _ => some t

/-- Change what the core knows of its running task. -/
def Run.mapTask (f : TaskInfo → TaskInfo) : Run → Run
  | .idle => .idle
  | .running t => .running (f t)
  | .stalled t p w => .stalled (f t) p w

/-- The task (serial, TID) on whose behalf the core executes; a service routine is (0, 0). -/
def State.taskKey (s : State) : Nat × Nat :=
  match s.core.service with
  | some _ => (0, 0)
  | none =>
    match s.core.run with
    | .running t => (t.serial, t.tid)
    | .stalled t _ _ => (t.serial, t.tid)
    | .idle => (0, 0)

/-! ### Stores a party has made and others may not see yet (R234, R235, R246) -/

/-- Whether a store covers an address. -/
def Buffered.covers (b : Buffered) (pa : Nat) : Bool := decide (b.pa ≤ pa) && decide (pa < b.pa + b.bytes.length)

/-- A durable store that is not accepted yet, as it stood in the store buffer. -/
def Durable.buffered (d : Durable) : Buffered := ⟨d.pa, d.bytes, d.serial, d.tid, d.epoch, d.va, d.vec, false⟩

/-- The stores of the executing party that have not reached their point of order, oldest first. -/
def State.ownStores (s : State) : List Buffered :=
  let key := s.taskKey
  (s.durable.filter (fun d => !d.accepted && decide (d.serial = key.1) && decide (d.tid = key.2)
      && (decide (key.1 ≠ 0) || decide (d.core = s.cur)))).map Durable.buffered
    ++ s.core.sbuf.filter (fun b => decide (b.serial = key.1) && decide (b.tid = key.2))

/-- The newest byte of a list of stores for an address. -/
def bufferedByte (pa : Nat) : List Buffered → Option Byte
  | [] => none
  | b :: l =>
    match bufferedByte pa l with
    | some v => some v
    | none => if b.covers pa then b.bytes[pa - b.pa]? else none

/-- Whether the stores and reductions of the other stream that an access touches reach their point of order before it: a free value
for each access (R235, log entry 21). -/
def State.seesOther (s : State) (pa : Nat) : Bool := (Config.openValue 22 (s.free * 2 ^ 46 + pa)).getLsbD 0

/-- `n` bytes as a stream of the executing party reads them: its own stores, else the point of order (R234). What it sees of the
other stream has reached its point of order before (`State.passOther`). -/
def viewBytes (s : State) (vec : Bool) (pa n : Nat) : List Byte :=
  let l := s.ownStores.filter (fun b => b.vec = vec)
  (List.range n).map (fun k => match bufferedByte (pa + k) l with
    | some b => b
    | none => physByte s (pa + k))

/-- Little-endian bytes at the point of order. -/
def physLe (s : State) (pa n : Nat) : Nat :=
  leNat ((List.range n).map (fun k => physByte s (pa + k)))

/-- A byte written to a partition block (R401): reserved bits stay zero, and only management writes PRIV (R402, R334). -/
def recordMerge (mgmt : Bool) (old : Byte) (off : Nat) (new : Byte) : Byte :=
  if off = 5 ∨ off = 112 then new &&& 0x3F
  else if off = 6 ∨ (112 < off ∧ off < 128) then 0
  else if off = 7 then if mgmt then new &&& 0xC0 else (new &&& 0x40) ||| (old &&& 0x80)
  else if 0x1000 ≤ off ∧ off % 16 = 10 then new &&& 0x07
  else if 0x1000 ≤ off ∧ 10 < off % 16 then 0
  else new

/-- A byte written to the control space: the vector clocks and column maps of a die block keep theirs (R384), and a peer
number has 12 bits (R406). -/
def ctlMerge (mgmt : Bool) (old : Byte) (pa : Nat) (new : Byte) : Byte :=
  if pa < 0x3F0000080000 then recordMerge mgmt old (pa % 0x2000) new
  else if 0x3F0000100000 ≤ pa && pa < 0x3F0000108000 && (pa % 0x1000 < 0x10 || (0x40 ≤ pa % 0x1000 && pa % 0x1000 < 0x50)) then old
  else if pa = 0x3F0000200001 then new &&& 0x0F
  else new

/-- A write to the control space by a privileged store or by management. -/
def ctlStore (mgmt : Bool) : Mem → Nat → List Byte → Mem
  | m, _, [] => m
  | m, a, b :: bs => ctlStore mgmt (memWrite m a (ctlMerge mgmt (memRead m a) a b)) (a + 1) bs

/-- A doubleword of a partition record (R402). -/
def partWord (s : State) (part k : Nat) : Word :=
  BitVec.ofNat 64 (memLe s.ctl (0x3F0000000000 + 0x2000 * part + 8 * k) 8)

/-- ROOT (R402). -/
def partRoot (s : State) (part : Nat) : Nat := bits (partWord s part 0) 45 0
/-- LIVE (R402). -/
def partLive (s : State) (part : Nat) : Bool := bits (partWord s part 0) 62 62 = 1
/-- PRIV (R402). -/
def partPriv (s : State) (part : Nat) : Bool := bits (partWord s part 0) 63 63 = 1
/-- Bit `peer` of the partition's peer mask (R401). -/
def peerAllowed (s : State) (part peer : Nat) : Bool :=
  (memRead s.ctl (0x3F0000000200 + 0x2000 * part + peer / 8)).getLsbD (peer % 8)
/-- The device's own peer number (R406). -/
def ownPeer (s : State) : Nat := memLe s.ctl 0x3F0000200000 2 % 4096

/-- Key slots of a partition: a new draw of the security root (R336). -/
def rotateSlot (part : Nat) (s : State) (slot : Nat) : State :=
  { s with keys := s.keys.filter (fun k => k.1 ≠ 4 * part + slot) ++ [(4 * part + slot, s.keyNext)], keyNext := s.keyNext + 1 }

/-- A store that has made a partition LIVE: its four slots were rotated first (R409). -/
def rotateIfLive (old s : State) (pa n : Nat) : State :=
  let first := (pa - 0x3F0000000000) / 0x2000
  if 0x3F0000000000 ≤ pa && pa < 0x3F0000080000 && decide (pa % 0x2000 ≤ 7 ∨ 0x2000 ≤ pa % 0x2000 + n) then
    ((List.range ((pa - 0x3F0000000000 + n) / 0x2000 - first + 1)).map (fun k => first + k)).foldl (fun s part =>
      if part < 64 && !partLive old part && partLive s part then [0, 1, 2, 3].foldl (rotateSlot part) s else s) s
  else s

/-- A local access to a leased line recalls it from the ingress atomic cache (R337). -/
def State.recall (s : State) (line n : Nat) : State :=
  if s.leases.isEmpty then s else { s with leases := s.leases.filter (fun l => l.line < line || line + n ≤ l.line) }

/-- Ends the reservations of every party on an 8-byte word but those the predicate keeps (R275). -/
def dropResv (words : List Nat) (r : List (Nat × Nat)) : List (Nat × Nat) :=
  r.filter (fun e => !words.contains e.2)

/-- The 8-byte words `n` bytes from an address touch. -/
def wordsTouched (pa n : Nat) : List Nat :=
  if n = 0 then [] else (List.range ((pa + n - 1) / 8 - pa / 8 + 1)).map (fun k => pa / 8 + k)

/-! ### Clocks and cached copies (R220, R222, R244) -/

/-- Entry by entry the later of two clocks (R384): their full counts are kept, of which a read gives 16 bits. -/
def clockJoin (a b : Clock) : Clock := Vector.ofFn (fun i => max a[i] b[i])

/-- Whether a stamp runs more than 2^15 ahead of a clock (R384). -/
def clockAhead (own stamp : Clock) : Bool := (List.finRange 8).any (fun i => decide (own[i] + 32768 < stamp[i]))

/-- A die applies a stamp: its entries take the maximum. -/
def State.joinClock (s : State) (die : Nat) (stamp : Clock) : State :=
  { s with clocks := s.clocks.setIfInBounds die (clockJoin (s.clockOf die) stamp) }

/-- Messages whose stamps have come within reach of their dies are applied (R384). -/
def applyHeld : Nat → State → State
  | 0, s => s
  | n + 1, s => match s.heldStamps.find? (fun h => !clockAhead (s.clockOf h.die) h.stamp) with
    | none => s
    | some h => applyHeld n { s.joinClock h.die h.stamp with
        heldStamps := s.heldStamps.erase h, pending := s.pending ++ h.event.toList }

/-- A stamped message, with the event it brings, reaches a die, which holds one that runs too far ahead until its own entries catch
up (R384). -/
def State.receive (s : State) (die : Nat) (stamp : Clock) (e : Option Event) : State :=
  if clockAhead (s.clockOf die) stamp then { s with heldStamps := s.heldStamps ++ [⟨die, stamp, e⟩] }
  else applyHeld s.heldStamps.length { s.joinClock die stamp with pending := s.pending ++ e.toList }

/-- A die's clock takes a stamp. -/
def State.mergeClock (s : State) (die : Nat) (stamp : Clock) : State := s.receive die stamp none

/-- A die's own entry advances: it sends a stamped message (R384). -/
def State.bumpClock (s : State) (die : Nat) : State :=
  let own := s.clockOf die
  { s with clocks := s.clocks.setIfInBounds die (own.setIfInBounds die (own[die]?.getD 0 + 1)) }

/-- A message that brings an event, or none, from a die to another: across a boundary it is stamped (R244). -/
def State.sendStamped (s : State) (a b : Nat) (e : Option Event) : State :=
  if a = b ∨ 8 ≤ a ∨ 8 ≤ b then { s with pending := s.pending ++ e.toList }
  else let s1 := s.bumpClock a; s1.receive b (s1.clockOf a) e

/-- A stamped message from a die to another, which applies it (R244). -/
def State.stampTo (s : State) (a b : Nat) : State := s.sendStamped a b none

/-- The stamps of the words of a range. -/
def State.stampsOf (s : State) (pa n : Nat) : List Stamp :=
  if s.stamps.isEmpty then [] else s.stamps.filter (fun e => (wordsTouched pa n).contains e.word)

/-- The clock of a release stays with the words it wrote, for the acquires that read them (R244, R245). -/
def State.keepStamp (s : State) (pa n serial tid : Nat) (stamp : Clock) : State :=
  { s with stamps := s.stamps ++ (wordsTouched pa n).map (fun w => ⟨w, serial, tid, stamp⟩) }

/-- The clock that an access to a range reads. -/
def State.stampRead (s : State) (pa n : Nat) : Option Clock :=
  match s.stampsOf pa n with
  | [] => none
  | e :: l => some (l.foldl (fun k x => clockJoin k x.clock) e.clock)

/-- The home of a line drops the copies RDCs hold of it, but for that of the storing die, through which the write has gone (R222,
R225): an invalidation by a home slice carries its die's clock (R244). A held line of another die's HBM that a store goes through is
dirty until it is written back. -/
def dropRemote (s : State) (keep : Option Nat) (pa n : Nat) : State :=
  if s.rdc.isEmpty then s
  else
    let named (l : RdcLine) : Bool := l.bytes.isEmpty && decide (pa / 128 ≤ l.key) && decide (l.key ≤ (pa + n - 1) / 128)
    let hit (l : RdcLine) : Bool := named l && decide (some l.die ≠ keep)
    let s1 := { s with rdc := (s.rdc.filter (fun l => !hit l)).map (fun l =>
      if named l && decide (spaceOf pa = .hbm) then { l with dirty := true } else l) }
    match spaceOf pa with
    | .hbm => (s.rdc.filter hit).foldl (fun s l => s.stampTo (homeDie pa) l.die) s1
    | _ => s1

/-- Lines of an L1 without those a write covers. -/
def dropLines (l : List Nat) (pa n : Nat) : List Nat :=
  l.filter (fun k => !(decide (pa / 128 ≤ k) && decide (k ≤ (pa + n - 1) / 128)))

/-- A core after a write by another party: its reservations on the words end, and its L1 loses the lines (R220, R275). -/
def Parked.overwritten (ws : List Nat) (pa n : Nat) (p : Parked) : Parked :=
  { p with core := { p.core with resv := dropResv ws p.core.resv, l1 := dropLines p.core.l1 pa n } }

/-- A write that arrives at its point of order, through the RDC of a die or of none: the bytes change, a whole written word loses its
poison (R228), the stamp of an earlier release goes (R245), the reservations of other cores on the words end (R275), the copies other
cores and dies hold of the lines go (R220, R222), the host's copies are gone (R405), and a lease of the lines ends (R337). -/
def writeThrough (keep : Option Nat) (s0 : State) (pa : Nat) (bytes : List Byte) : State :=
  match spaceOf pa with
  | .control => rotateIfLive s0 { s0 with ctl := ctlStore false s0.ctl pa bytes } pa bytes.length
  | _ =>
    let s := (dropRemote s0 keep pa bytes.length).recall (pa / 128) ((pa + bytes.length - 1) / 128 + 1 - pa / 128)
    let ws := wordsTouched pa bytes.length
    { s with
      mem := memWriteBytes s.mem pa bytes
      snoop := if s.snoop.isEmpty then s.snoop else
        s.snoop.filter (fun l => !(decide (pa / 128 ≤ l) && decide (l ≤ (pa + bytes.length - 1) / 128)))
      poison := if s.poison.isEmpty then s.poison else
        s.poison.filter (fun w => !(decide (pa ≤ 8 * w) && decide (8 * w + 8 ≤ pa + bytes.length)))
      stamps := if s.stamps.isEmpty then s.stamps else s.stamps.filter (fun e => !ws.contains e.word)
      others := if s.others.any (fun p => !p.core.resv.isEmpty || !p.core.l1.isEmpty) then
          s.others.map (Parked.overwritten ws pa bytes.length) else s.others }

/-- A store of the executing core that arrives at its point of order. -/
def storeWrite (s : State) (pa : Nat) (bytes : List Byte) : State := writeThrough (some (dieOf s.cur)) s pa bytes

/-- A write made elsewhere than in the executing core's store buffer: its L1 loses the lines too. -/
def physWrite (s : State) (pa : Nat) (bytes : List Byte) : State :=
  let s1 := writeThrough none s pa bytes
  { s1 with core := { s1.core with l1 := dropLines s1.core.l1 pa bytes.length } }

/-- Ends reservations of the executing core on words written by another of its parties (R275). -/
def State.dropOwnResv (s : State) (pa n : Nat) : State :=
  { s with core := { s.core with resv := dropResv (wordsTouched pa n) s.core.resv } }

/-- Whether a party (core, serial, TID) is the task the executing core holds, whose own writes its reservations outlast (R275). -/
def State.isHolder (s : State) (core serial tid : Nat) : Bool :=
  decide (core = s.cur) && (match s.core.run.task with | some t => decide (t.serial = serial) && decide (t.tid = tid) | none => false)

/-- The reservations of the executing core on words that a party writes end, but for its own task's (R275). -/
def State.endResvBy (s : State) (core serial tid pa n : Nat) : State :=
  if s.isHolder core serial tid then s else s.dropOwnResv pa n

/-- Whether any granule an access touches carries an object bit (R230). -/
def touchesObject (s : State) (pa n : Nat) : Bool :=
  if n = 0 then false else
    (List.range ((pa + n - 1) / 16 - pa / 16 + 1)).any (fun k => s.objects.contains (pa / 16 + k))

/-- Whether any word an access touches is poisoned (R228). -/
def touchesPoison (s : State) (pa n : Nat) : Bool :=
  if s.poison.isEmpty then false else (wordsTouched pa n).any (fun w => s.poison.contains w)

/-- A word takes the poison mark; `path` says that a failed path check made it (R228, R397). -/
def setPoison (s : State) (word : Nat) (path : Bool) : State :=
  { s with poison := setAdd s.poison word, pathPoison := if path then setAdd s.pathPoison word else setDrop s.pathPoison word }

/-- A scratchpad word takes the poison mark. -/
def setPadPoison (s : State) (word : Nat) (path : Bool) : State :=
  { s with
    padPoison := setAdd s.padPoison word
    pathPoison := if path then setAdd s.pathPoison (2 ^ 60 + word) else setDrop s.pathPoison (2 ^ 60 + word) }

/-- The sub-code of consumed poison: 1 where a failed path check made it (R387, R397). -/
def poisonSub (s : State) (words : List Nat) : Nat := if words.any (fun w => s.pathPoison.contains w) then 1 else 0

/-- The soft error that the executing instruction meets. -/
def State.strike (s : State) (on : StrikeOn) : Option Strike :=
  s.strikes.find? (fun x => decide (x.core = s.cur) && decide (x.on = on))

/-- An instruction has met a soft error. -/
def State.met (s : State) (x : Strike) : State := { s with strikes := s.strikes.erase x }

/-- Add one to a die's error counter: offset 0x10 correctable, 0x18 uncorrectable (R384). -/
def countError (s : State) (die off : Nat) : State :=
  let a := 0x3F0000100000 + 0x1000 * die + off
  { s with ctl := memWriteBytes s.ctl a (natBytes 8 (memLe s.ctl a 8 + 1)) }

/-- Add a number to a die's error counter. -/
def countErrors (s : State) (die off : Nat) : Nat → State
  | 0 => s
  | n + 1 => countErrors (countError s die off) die off n

/-- A fresh number for a free value. -/
def State.fresh (s : State) : State := { s with free := s.free + 1 }

end Sys2Proof.Machine
end

