-- ==== Sys2Proof/Machine/Launch.lean ====
section
/-! DEFINITION. The fields of a launch record (R53) and what follows from them: the placed cores and the work coordinate of
a TID (R59). -/

namespace Sys2Proof.Machine

def Launch.word (l : Launch) (k : Nat) : Word := l.words[k]?.getD 0
def Launch.backing (l : Launch) : Nat := bits (l.word 4) 51 0
def Launch.doneCell (l : Launch) : Word := BitVec.ofNat 64 (bits (l.word 5) 51 0)
def Launch.exm1 (l : Launch) : Nat := bits (l.word 6) 19 0
def Launch.eym1 (l : Launch) : Nat := bits (l.word 6) 39 20
def Launch.ezm1 (l : Launch) : Nat := bits (l.word 6) 59 40
def Launch.rwm1 (l : Launch) : Nat := bits (l.word 7) 3 0
def Launch.rhm1 (l : Launch) : Nat := bits (l.word 7) 7 4
def Launch.nrects (l : Launch) : Nat := bits (l.word 7) 10 8 + 1
def Launch.weight (l : Launch) : Nat := if bits (l.word 7) 39 32 = 0 then 1 else bits (l.word 7) 39 32
def Launch.prio (l : Launch) : Nat := bits (l.word 7) 42 40
def Launch.mobile (l : Launch) : Bool := (l.word 7).getLsbD 43
def Launch.restart (l : Launch) : Bool := (l.word 7).getLsbD 44
def Launch.noShadow (l : Launch) : Bool := (l.word 7).getLsbD 45
def Launch.panMask (l : Launch) : Nat := bits (l.word 8) 15 0
def Launch.tag (l : Launch) : Word := l.word 14
/-- Most tasks on one core at once: 0 and values above 64 are 64 (R53). -/
def coreTasksOf (w7 : Word) : Nat := if bits w7 31 24 = 0 ∨ 64 < bits w7 31 24 then 64 else bits w7 31 24
def Launch.coreTasks (l : Launch) : Nat := coreTasksOf (l.word 7)
/-- TCOUNT (R53). -/
def Launch.tcount (l : Launch) : Nat := (l.exm1 + 1) * (l.eym1 + 1) * (l.ezm1 + 1)
/-- Placed cores in the order of R59: by die, then y, then x. -/
def rectCores (w h : Nat) (r : Nat × Nat × Nat) : List Nat :=
  (List.range h).flatMap (fun j => (List.range w).map (fun i => coreAt r.1 (r.2.2 + j) (r.2.1 + i)))
def insertRect (r : Nat × Nat × Nat) : List (Nat × Nat × Nat) → List (Nat × Nat × Nat)
  | [] => [r]
  | q :: l => if r.1 < q.1 then r :: q :: l else q :: insertRect r l
def sortRects (l : List (Nat × Nat × Nat)) : List (Nat × Nat × Nat) := l.foldr insertRect []
def Launch.cores (l : Launch) : List Nat :=
  (sortRects l.rects).flatMap (rectCores (l.rwm1 + 1) (l.rhm1 + 1))

/-- Work coordinate of a TID (R59). -/
def Launch.coord (l : Launch) (tid : Nat) : BitVec 60 :=
  let ex := l.exm1 + 1
  let ey := l.eym1 + 1
  BitVec.ofNat 60 (tid % ex + tid / ex % ey * 2 ^ 20 + tid / (ex * ey) * 2 ^ 40)

end Sys2Proof.Machine
end

