-- ==== Sys2Proof/Machine/Translate.lean ====
section
/-! DEFINITION. Causes with what they carry, the page walk (R316-R320), rights and peers (R206, R259, R322),
place addresses (R80) and the pan rules (R211, R63). -/

namespace Sys2Proof.Machine

/-- A cause met: its sub-code, the address, token or word it names, and for a missing page the KIND, entry and level
of the fault record (R328). -/
structure Exc where
  cause : Cause
  sub : Nat
  addr : Word
  kind : Nat := 0
  pte : Word := 0
  level : Nat := 0
deriving DecidableEq, Repr

/-- A check or a value. -/
abbrev Res (α : Type) := Except Exc α

/-- What an access needs of its leaf: the right bits of R317 and the KIND of R328. -/
structure Need where
  mask : Word
  kind : Nat
deriving DecidableEq, Repr

def Need.read : Need := ⟨0x4, 0⟩
def Need.write : Need := ⟨0x8, 1⟩
def Need.exec : Need := ⟨0x10, 3⟩
def Need.atom : Need := ⟨0x20, 2⟩
/-- Queue operations, and the objects of the kv instructions (R288, R348). -/
def Need.queue : Need := ⟨0x2C, 2⟩
/-- A load that also needs ATOM (R348). -/
def Need.object : Need := ⟨0x24, 0⟩
def Need.copyRead : Need := ⟨0x4, 4⟩
def Need.copyWrite : Need := ⟨0x8, 5⟩
def Need.refill : Need := ⟨0x4, 6⟩

/-- A leaf found by the walk: its entry, the physical address of that entry, the frame of the VA's own 4 KiB page, the
page size 0 to 3 (4 KiB, 64 KiB, 2 MiB, 1 GiB). -/
structure Leaf where
  pte : Word
  entry : Nat
  frame : Nat
  size : Nat
deriving DecidableEq, Repr

/-- Why a walk fails: sub-code, entry met, level. -/
structure WalkFail where
  sub : Nat
  pte : Word
  level : Nat
deriving DecidableEq, Repr

/-- FRAME (R317). -/
def pteFrame (e : Word) : Nat := bits e 49 16
/-- MODE (R317). -/
def pteMode (e : Word) : Nat := bits e 11 10
/-- PEER (R317). -/
def ptePeer (e : Word) : Nat := bits e 61 50

/-- A page-table entry at its point of order. -/
def readEntry (s : State) (pa : Nat) : Word := BitVec.ofNat 64 (physLe s pa 8)

/-- Reserved bits of an entry for its kind and level (R317). -/
def reservedBitsSet (e : Word) (lvl : Nat) : Bool :=
  if e.getLsbD 1 then
    e.getLsbD 15 || bits e 63 62 ≠ 0 || (e.getLsbD 9 && lvl ≠ 1)
  else (e &&& ~~~0x0003FFFFFFFF0003) ≠ 0

/-- A leaf found at a level (R318, R319). -/
def finishLeaf (s : State) (va : Word) (e : Word) (entry lvl : Nat) : Except WalkFail Leaf :=
  let page := va.toNat / 4096
  if lvl = 4 then .error ⟨2, e, lvl⟩
  else if lvl = 3 then
    if pteFrame e % 2 ^ 18 ≠ 0 then .error ⟨3, e, lvl⟩
    else if pteMode e = 0 ∧ ptePeer e ≠ 0 then .error ⟨6, e, lvl⟩
    else .ok ⟨e, entry, pteFrame e + page % 2 ^ 18, 3⟩
  else if lvl = 2 then
    if pteFrame e % 2 ^ 9 ≠ 0 then .error ⟨3, e, lvl⟩
    else if pteMode e = 0 ∧ ptePeer e ≠ 0 then .error ⟨6, e, lvl⟩
    else .ok ⟨e, entry, pteFrame e + page % 2 ^ 9, 2⟩
  else if e.getLsbD 9 then
    let first := entry - 8 * (page % 16)
    let f := readEntry s first
    if (f &&& 0x203) ≠ 0x203 then .error ⟨4, f, lvl⟩
    else if reservedBitsSet f 1 then .error ⟨1, f, lvl⟩
    else if pteMode f = 0 ∧ ptePeer f ≠ 0 then .error ⟨6, f, lvl⟩
    else .ok ⟨f, first, pteFrame f + page % 16, 1⟩
  else if pteMode e = 0 ∧ ptePeer e ≠ 0 then .error ⟨6, e, lvl⟩
  else .ok ⟨e, entry, pteFrame e, 0⟩

/-- The levels of the walk from `lvl` down (R318). -/
def walkFrom (s : State) (va : Word) : Nat → Nat → Except WalkFail Leaf
  | 0, _ => .error ⟨0, 0, 0⟩
  | lvl + 1, table =>
    let idx := if lvl = 3 then bits va 51 39 else va.toNat / 2 ^ (12 + 9 * lvl) % 512
    let entry := table + 8 * idx
    let e := readEntry s entry
    if !e.getLsbD 0 then .error ⟨0, e, lvl + 1⟩
    else if reservedBitsSet e (lvl + 1) then .error ⟨1, e, lvl + 1⟩
    else if e.getLsbD 1 then finishLeaf s va e entry (lvl + 1)
    else if lvl = 0 then .error ⟨2, e, 1⟩
    else if spaceOf (pteFrame e * 4096) ≠ .hbm then .error ⟨7, e, lvl + 1⟩
    else walkFrom s va lvl (pteFrame e * 4096)

/-- One of several values the device may use: the first, where there is no other; else a free choice (log entry 19). -/
def openChoice {α : Type} (s : State) (kind va : Nat) (a : α) (l : List α) : α :=
  match l with
  | [] => a
  | _ => (a :: l)[(Config.openValue kind (s.free * 2 ^ 52 + va)).toNat % (l.length + 1)]?.getD a

/-- VA bits from a level up. -/
def walkTag (va : Nat) (level : Nat) : Nat := va / 2 ^ (12 + 9 * (level - 1))

/-- The walk from the root, every level read from memory (R318, R326). -/
def walkFresh (s : State) (part : Nat) (va : Word) : Except WalkFail Leaf :=
  if bits va 63 52 ≠ 0 then .error ⟨5, 0, 0⟩ else walkFrom s va 4 (partRoot s part)

/-- Walks that begin below a non-leaf entry a walk cache holds (R323). -/
def walksCached (s : State) (part : Nat) (va : Word) : List (Except WalkFail Leaf) :=
  if bits va 63 52 ≠ 0 then []
  else (s.walkCache.filter (fun w => w.part = part ∧ w.tag = walkTag va.toNat w.level)).map
    (fun w => walkFrom s va (w.level - 1) w.table)

/-- Whether a walk from a held entry, or a leaf a TLB holds, gives what the walk from the root gives; a held leaf may lack a
DIRTY that memory has. -/
def sameWalk (fresh held : Except WalkFail Leaf) : Bool :=
  match fresh, held with
  | .ok l, .ok h => decide (l = { h with pte := h.pte ||| (l.pte &&& 0x80) })
  | .error e, .error f => decide (e = f)
  | _, _ => false

/-- The walk of a partition's page table (R318): from the root, or from an entry a walk cache holds where that gives something
else; which of them is a free choice. -/
def walk (s : State) (part : Nat) (va : Word) : Except WalkFail Leaf :=
  let w := walkFresh s part va
  openChoice s 12 va.toNat w ((walksCached s part va).filter (fun h => !sameWalk w h))

/-- Pages of 4 KiB in a page of a size code. -/
def pageSpan : Nat → Nat
  | 0 => 1
  | 1 => 16
  | 2 => 512
  | _ => 262144

/-- Whether a TLB entry translates an address of a partition. -/
def TlbEntry.covers (e : TlbEntry) (part va : Nat) : Bool :=
  decide (e.part = part) && decide (e.page ≤ va / 4096) && decide (va / 4096 < e.page + pageSpan e.size)

/-- The leaf a TLB entry gives for an address it covers. -/
def TlbEntry.leaf (e : TlbEntry) (va : Nat) : Leaf := ⟨e.pte, e.entry, pteFrame e.pte + (va / 4096 - e.page), e.size⟩

/-- A translation in use: its leaf, the partition and address it was made for, and whether a TLB held it. -/
structure Use where
  leaf : Leaf
  part : Nat
  va : Nat
  cached : Bool
deriving DecidableEq, Repr

/-- Whether an access sets DIRTY. -/
def Need.writes (n : Need) : Bool := (n.mask &&& 0x28) ≠ 0

/-- Whether a held entry may serve an access: one whose DIRTY is 0 is compared with memory before a write, and a changed one
is walked again (R320). -/
def TlbEntry.serves (e : TlbEntry) (s : State) (need : Need) : Bool :=
  !need.writes || e.pte.getLsbD 7 || ((readEntry s e.entry ||| 0xC0) = (e.pte ||| 0xC0))

/-- The leaf of an access: from a TLB that holds one, or by a walk; where they differ, which of them is a free choice
(R323, R324). -/
def findLeaf (s : State) (part : Nat) (va : Word) (need : Need) : Except WalkFail Use :=
  let w := walk s part va
  let held := (s.tlb.filter (fun e => e.covers part va.toNat && e.serves s need)).map (fun e => e.leaf va.toNat)
  openChoice s 13 va.toNat (w.map (fun l => ⟨l, part, va.toNat, false⟩))
    ((held.filter (fun h => !sameWalk w (.ok h))).map (fun h => .ok ⟨h, part, va.toNat, true⟩))

/-- Where an access goes: a physical address, or a peer with a 46-bit fabric address (R321). -/
inductive Target where
  | phys (pa : Nat) (entry : Use)
  | peer (peer addr : Nat) (leaf : Use)
deriving DecidableEq, Repr

/-- Egress checks of a peer number (R322). -/
def peerFault (s : State) (part peer : Nat) : Option Nat :=
  if 0xFF0 ≤ peer then some 2
  else if peer = ownPeer s then some 3
  else if !peerAllowed s part peer then some 1
  else none

/-- Translation with every check of R259, R206, R318 and R322 that needs no data. -/
def translate (s : State) (part : Nat) (priv : Bool) (va : Word) (need : Need) : Res Target :=
  match findLeaf s part va need with
  | .error f => .error { cause := .translationNotPresent, sub := f.sub, addr := va, kind := need.kind, pte := f.pte, level := f.level }
  | .ok u =>
    let l := u.leaf
    let pa := l.frame * 4096 + va.toNat % 4096
    if pteMode l.pte = 0 then
      if (l.pte &&& need.mask) ≠ need.mask then .error { cause := .protection, sub := 0, addr := va }
      else match spaceOf pa with
        | .reserved => .error { cause := .protection, sub := 1, addr := va }
        | .control => if priv then .ok (.phys pa u) else .error { cause := .protection, sub := 2, addr := va }
        | _ => .ok (.phys pa u)
    else
      match peerFault s part (ptePeer l.pte) with
      | some k => .error { cause := .peerFault, sub := k, addr := va }
      | none =>
        if (l.pte &&& need.mask) ≠ need.mask then .error { cause := .protection, sub := 0, addr := va }
        else .ok (.peer (ptePeer l.pte) pa u)

/-- The non-leaf entries a walk passes, which the walk caches then hold. -/
def walkPath (s : State) (part : Nat) (va : Word) : Nat → Nat → List WalkEntry
  | 0, _ => []
  | lvl + 1, table =>
    let idx := if lvl = 3 then bits va 51 39 else va.toNat / 2 ^ (12 + 9 * lvl) % 512
    let e := readEntry s (table + 8 * idx)
    if e.getLsbD 1 || !e.getLsbD 0 || lvl = 0 then []
    else ⟨part, lvl + 1, walkTag va.toNat (lvl + 1), pteFrame e * 4096⟩ :: walkPath s part va lvl (pteFrame e * 4096)

/-- Add what is not there. -/
def addNew {α : Type} [DecidableEq α] (l : List α) (a : α) : List α := if l.contains a then l else l ++ [a]

/-- A leaf entry as a TLB holds it after the walker has marked it. -/
def Use.held (u : Use) (write : Bool) : TlbEntry :=
  ⟨u.part, u.va / 4096 / pageSpan u.leaf.size * pageSpan u.leaf.size, u.leaf.size, u.leaf.pte ||| (if write then 0xC0 else 0x40), u.leaf.entry⟩

/-- The walker's marks: ACC when the leaf fills a TLB, DIRTY on the first write through it (R320), and the entries that TLBs and
walk caches now hold (R323). The access recalls a lease of its line (R337). -/
def markUsed (s0 : State) (u : Use) (write : Bool) : State :=
  let s := if pteMode u.leaf.pte = 0 then s0.recall (u.leaf.frame * 32 + u.va % 4096 / 128) 1 else s0
  let b := memRead s.mem u.leaf.entry
  if u.cached then
    if write && !u.leaf.pte.getLsbD 7 then
      { s with
        mem := memWrite s.mem u.leaf.entry (b ||| 0x80)
        tlb := s.tlb.map (fun e => if e.entry = u.leaf.entry ∧ e.pte = u.leaf.pte then { e with pte := e.pte ||| 0x80 } else e) }
    else s
  else
    { s with
      mem := memWrite s.mem u.leaf.entry (b ||| (if write then 0xC0 else 0x40))
      tlb := addNew s.tlb (u.held write)
      walkCache := (walkPath s u.part (BitVec.ofNat 64 u.va) 4 (partRoot s u.part)).foldl addNew s.walkCache }

/-- An access of a partition to a page marks its leaf. -/
def State.touch (s : State) (part : Nat) (va : Nat) (need : Need) (write : Bool) : State :=
  match findLeaf s part (BitVec.ofNat 64 va) need with
  | .ok u => markUsed s u write
  | .error _ => s

/-- The state of a core: the executing one, a listed one, or a reset one. -/
def findParked : List Parked → Nat → Option Parked
  | [], _ => none
  | p :: l, c => if p.id = c then some p else findParked l c

/-- A core's state by number. -/
def State.coreOf (s : State) (c : Nat) : Core :=
  if c = s.cur then s.core
  else match findParked s.others c with
    | some p => p.core
    | none => Core.reset

/-- The register set a core holds. -/
def State.ctxOf (s : State) (c : Nat) : Ctx :=
  if c = s.cur then s.ctx
  else match findParked s.others c with
    | some p => p.ctx
    | none => Ctx.clear

/-- The launch copy in use on a core. -/
def State.copyOf (s : State) (c : Nat) : LaunchCopy :=
  if c = s.cur then s.lc
  else match findParked s.others c with
    | some p => p.lc
    | none => LaunchCopy.clear

/-- Insert or replace a parked core, by rising number. -/
def putParked : List Parked → Parked → List Parked
  | [], q => [q]
  | p :: l, q => if q.id < p.id then q :: p :: l else if q.id = p.id then q :: l else p :: putParked l q

/-- Replace a core's state. -/
def State.setCore (s : State) (c : Nat) (k : Core) : State :=
  if c = s.cur then { s with core := k }
  else { s with others := putParked s.others ⟨c, k, s.ctxOf c, s.copyOf c⟩ }

/-- Replace the register set a core holds. -/
def State.setCtx (s : State) (c : Nat) (x : Ctx) : State :=
  if c = s.cur then { s with ctx := x }
  else { s with others := putParked s.others ⟨c, s.coreOf c, x, s.copyOf c⟩ }

/-- Replace the launch copy in use on a core. -/
def State.setCopy (s : State) (c : Nat) (l : LaunchCopy) : State :=
  if c = s.cur then { s with lc := l }
  else { s with others := putParked s.others ⟨c, s.coreOf c, s.ctxOf c, l⟩ }

/-- The executing core becomes `c`; the one that executed is parked. -/
def State.switchTo (s : State) (c : Nat) : State :=
  if c = s.cur then s
  else
    let k := s.coreOf c
    let x := s.ctxOf c
    let l := s.copyOf c
    { s with
      others := (putParked s.others ⟨s.cur, s.core, s.ctx, s.lc⟩).filter (fun p => p.id ≠ c)
      cur := c, core := k, ctx := x, lc := l }

/-- Work of one core's units: the core becomes the executing one for it, and the one that executes comes back. -/
def State.onCore (s : State) (c : Nat) (f : State → State) : State := (f (s.switchTo c)).switchTo s.cur

/-- The live launch with a serial. -/
def State.launchOf (s : State) (serial : Nat) : Option Launch := s.launches.find? (fun l => l.serial = serial)

/-- Partition and mode of what the executing core runs (R124, R401). -/
def State.partMode (s : State) : Nat × Bool :=
  match s.core.service with
  | some v => (v.routine.part, v.routine.priv)
  | none =>
    match s.core.run with
    | .running t => (t.part, t.priv)
    | .stalled t _ _ => (t.part, t.priv)
    | .idle => (0, false)

/-- Resolution of a place address at an offset with an access size (R80): core and byte offset. -/
def resolvePlace (s : State) (w : Word) (off : Int) (size : Nat) : Res (Nat × Nat) :=
  let bad : Res (Nat × Nat) := .error { cause := .bounds, sub := 0, addr := w }
  if bits w 63 34 ≠ 0 then bad
  else
    let rel := bits w 33 33 = 1
    let x : Int := if rel then colOf s.cur + sext (bits w 24 20) 5 else bits w 24 20
    let y : Int := if rel then rowOf s.cur + sext (bits w 29 25) 5 else bits w 29 25
    let d : Int := if rel then dieOf s.cur + sext (bits w 32 30) 3 else bits w 32 30
    let o : Int := (bits w 19 0 : Int) + off
    if x < 0 ∨ 15 < x ∨ y < 0 ∨ 15 < y ∨ d < 0 ∨ 7 < d then bad
    else if o < 0 ∨ (1048576 : Int) < o + size then bad
    else .ok (coreAt d.toNat y.toNat x.toNat, o.toNat)

/-- Whether a pan belongs to a launch that is pre-empted on the core, its pans saved or not (R62, R63). -/
def panQuiesced (s : State) (k : Core) (pan : Nat) : Bool :=
  k.quiesced.any (fun serial => (match s.launchOf serial with | some l => l.panMask.testBit pan | none => false)
    && (match k.claims[pan]?.getD none with | some n => decide (n = serial) | none => true))

/-- The pan rules of an access by a party of a partition: sealed target (R147), pre-empted launch (R63), claims (R211). -/
def padRefusal (s : State) (part : Nat) (priv : Bool) (target pan : Nat) : Option Nat :=
  let k := s.coreOf target
  if target ≠ s.cur ∧ k.closed then some 8
  else if panQuiesced s k pan then some 7
  else if priv then none
  else
    match k.claims[pan]?.getD none with
    | none => some 3
    | some serial =>
      match s.launchOf serial with
      | none => some 3
      | some l => if l.part = part then none else some 3

/-- Address of a scratchpad byte in `pad`. -/
def padAddr (core off : Nat) : Nat := core * 1048576 + off
/-- Number of a scratchpad word in `present`. -/
def padWord (core off : Nat) : Nat := core * 131072 + off / 8

/-- Bytes of a scratchpad. -/
def padBytes (s : State) (core off n : Nat) : List Byte := memReadBytes s.pad (padAddr core off) n

/-- A scratchpad write; whole words written lose their poison. Presence bits are unchanged (R217). -/
def padWrite (s : State) (core off : Nat) (bytes : List Byte) : State :=
  { s with
    pad := memWriteBytes s.pad (padAddr core off) bytes
    padPoison := if s.padPoison.isEmpty then s.padPoison else
      s.padPoison.filter (fun w => !(decide (padAddr core off ≤ 8 * w) && decide (8 * w + 8 ≤ padAddr core off + bytes.length))) }

/-- Whether a scratchpad access touches poison (R228). -/
def padTouchesPoison (s : State) (core off n : Nat) : Bool :=
  if s.padPoison.isEmpty then false else (wordsTouched (padAddr core off) n).any (fun w => s.padPoison.contains w)

/-- The cause of a party that consumes poison in memory (R228, R397). -/
def consumed (s : State) (pa n : Nat) (addr : Word) : Exc :=
  { cause := .uncorrectableConsumed, sub := poisonSub s ((wordsTouched pa n).filter (fun w => s.poison.contains w)), addr := addr }

/-- The cause of a party that consumes poison in a scratchpad. -/
def padConsumed (s : State) (core off n : Nat) (addr : Word) : Exc :=
  { cause := .uncorrectableConsumed, addr := addr
    sub := poisonSub s (((wordsTouched (padAddr core off) n).filter (fun w => s.padPoison.contains w)).map (fun w => 2 ^ 60 + w)) }

/-! ### Routes (R14, R22) -/

/-- |a - b|. -/
def dist (a b : Int) : Nat := (a - b).natAbs

/-- The position of a row outside the mesh, from the die's column map (R22, R384). -/
def outsideColumn (s : State) (die row : Nat) : Nat := (memRead s.ctl (0x3F0000100040 + 0x1000 * die + row)).toNat

/-- One more hop where the row's column map skips a position between two columns (R22). -/
def mapSkip (s : State) (die row : Nat) (a b : Int) : Nat :=
  let m : Int := outsideColumn s die row
  let lo := if a < b then a else b
  let hi := if a < b then b else a
  if lo < m ∧ m ≤ hi then 1 else 0

/-- Hops and boundaries from a core to a target at a column (-1 to 16) and row of a die (R22). Dies 0 to 3 stand above
dies 4 to 7. R22 gives the further hop of a column map between two cores of one die only: the legs of a route to a core on
another die get it too, those of a route to a slice do not (DESIGN CHOICE, log entry 48). -/
def route (s : State) (core die : Nat) (col row : Int) : Nat × Nat :=
  let d0 := dieOf core
  let c0 := d0 % 4
  let c1 := die % 4
  let y0 : Int := rowOf core
  let x0 : Int := colOf core
  let skip (d : Nat) (r a b : Int) : Nat := if 0 ≤ col ∧ col ≤ 15 then mapSkip s d r.toNat a b else 0
  let acrossH := dist c0 c1
  let atTurn : Nat × Int × Int :=
    if c0 = c1 then (0, x0, y0)
    else if c0 < c1 then (dist x0 15 + skip d0 y0 x0 15 + 15 * (acrossH - 1), 0, y0)
    else (dist x0 0 + skip d0 y0 x0 0 + 15 * (acrossH - 1), 15, y0)
  let turnDie := d0 / 4 * 4 + c1
  let xc : Int := max 0 (min 15 col)
  let atLast : Nat × Int × Int :=
    if d0 / 4 = die / 4 then atTurn
    else
      let edge : Int := if d0 / 4 < die / 4 then 15 else 0
      (atTurn.1 + dist atTurn.2.1 xc + skip turnDie atTurn.2.2 atTurn.2.1 xc + dist atTurn.2.2 edge, xc, 15 - edge)
  (atLast.1 + dist atLast.2.1 col + skip die atLast.2.2 atLast.2.1 col + dist atLast.2.2 row,
    acrossH + (if d0 / 4 = die / 4 then 0 else 1))

/-- Route to another core. -/
def routeToCore (s : State) (core target : Nat) : Nat × Nat := route s core (dieOf target) (colOf target) (rowOf target)

end Sys2Proof.Machine
end

