-- ==== Sys2Proof/Machine/Stores.lean ====
section
/-! DEFINITION. What is on its way from a core and what happens when it arrives: presence stores (R217, R218, R263), the store
buffer (R246), durable stores (R225, R252); the sender's cause where its target refuses it (R63, R147, R230); wakes (R372); and
the publication of everything a party has under way, which a release waits for (R235). -/

namespace Sys2Proof.Machine

/-! ### The sender of what is refused -/

/-- A cause falls due for a task, unless one is due already. -/
def TaskInfo.blame (serial tid : Nat) (d : Cause × Nat × Word) (t : TaskInfo) : TaskInfo :=
  if t.serial = serial ∧ t.tid = tid ∧ t.due.isNone then { t with due := some d } else t

/-- A cause falls due for a task on a core. -/
def Core.blame (serial tid : Nat) (d : Cause × Nat × Word) (k : Core) : Core :=
  { k with run := k.run.mapTask (TaskInfo.blame serial tid d), tasks := k.tasks.map (fun u => { u with info := u.info.blame serial tid d }) }

/-- A cause falls due for the party that sent what is refused: a task wherever it is, or (0, 0) the routine of a core; it takes it
when it next issues. -/
def State.blame (s : State) (core serial tid : Nat) (d : Cause × Nat × Word) : State :=
  if serial = 0 then
    let k := s.coreOf core
    s.setCore core { k with service := k.service.map (fun v => if v.due.isNone then { v with due := some d } else v) }
  else { s with core := s.core.blame serial tid d, others := s.others.map (fun p => { p with core := p.core.blame serial tid d }) }

/-! ### Wakes -/

/-- The wake a waiter entry gets: a task's, a channel's that waits for its fault cell (entry 64 + channel, R327), or a Rake
job's (entry 128 + job of a partition, R360). -/
def wakeEvent (core slot : Nat) (err : BitVec 24) : Event :=
  if slot < 64 then Event.tokenWake core slot err
  else if slot < 128 then Event.channelCellResume core (slot - 64)
  else Event.rakeCopyResume core (slot - 128)

/-- The die from which a waiter is woken: the home's, or that of the core a token of kind 1, 5, 7, 8 or 9 names. -/
def Waiter.homeDie (w : Waiter) : Nat :=
  match w.on with
  | .token t => match bits t 63 60 with
    | 1 => bits t 44 42
    | 5 => bits t 32 30
    | 7 => bits t 14 12
    | 8 => bits t 42 40
    | 9 => bits t 42 40
    | _ => w.home / 32
  | _ => w.home / 32

/-- A waiter is woken: a signal to a core on another die carries the clock of the home's die (R244). -/
def sendWake (err : BitVec 24) (s : State) (w : Waiter) : State :=
  let e := wakeEvent w.core w.slot err
  if 128 ≤ w.slot then { s with pending := s.pending ++ [e] } else s.sendStamped w.homeDie (dieOf w.core) (some e)

/-- Every waiter entry a test selects wakes: its core gets a wake with the error bits of the signal (R372). -/
def wakeWaiters (s : State) (p : Waiter → Bool) (err : BitVec 24) : State :=
  let ws := s.waiters.filter p
  if ws.isEmpty then s else ws.foldl (sendWake err) { s with waiters := s.waiters.filter (fun w => !p w) }

/-- The kind 5 token of a word (R366). -/
def presenceToken (core off : Nat) : Word :=
  BitVec.ofNat 64 (off + colOf core * 2 ^ 20 + rowOf core * 2 ^ 25 + dieOf core * 2 ^ 30 + 5 * 2 ^ 60)

/-! ### Pans in retention (R219) -/

/-- A pan with RETEN may enter retention once its time has come. -/
def armRetention (s : State) (core pan : Nat) : State :=
  if ((s.coreOf core).pfmt[pan]?.getD 0).getLsbD 7 && !s.pending.contains (.retentionEntry core pan) then
    { s with pending := s.pending ++ [Event.retentionEntry core pan] }
  else s

/-- Whether a pan is neither in retention nor entering or leaving it. -/
def panAwake (s : State) (core pan : Nat) : Bool := decide ((s.coreOf core).retention[pan]?.getD .active = .active)

/-- The bits that have flipped in a group of a pan in retention: up to two are corrected at its exit, more poison its words (R227). -/
def settleGroup (s : State) (g : Nat × Nat) : State :=
  let die := dieOf (g.1 / 32768)
  if g.2 ≤ 2 then countError s die 0x10
  else countError ((List.range 4).foldl (fun s k => setPadPoison s (4 * g.1 + k) false) s) die 0x18

/-- A pan leaves retention: the code of each of its groups is checked (R227). -/
def settleFlips (s : State) (core pan : Nat) : State :=
  if s.padFlips.isEmpty then s
  else
    let mine (g : Nat × Nat) : Bool := decide (g.1 / 2048 = 16 * core + pan)
    (s.padFlips.filter mine).foldl settleGroup { s with padFlips := s.padFlips.filter (fun g => !mine g) }

/-- An access reaches a pan that is active: its time without an access begins again. -/
def wakePan (s0 : State) (core pan : Nat) : State :=
  let s := settleFlips s0 core pan
  let k := s.coreOf core
  armRetention (s.setCore core { k with retention := k.retention.setIfInBounds pan .active, panTime := k.panTime.setIfInBounds pan s.cyc })
    core pan

/-- An access reaches a pan that is not active and waits: the exit begins, or follows the entry under way. -/
def rousePan (s : State) (core pan : Nat) : State :=
  let k := s.coreOf core
  match k.retention[pan]?.getD .active with
  | .retained =>
    let s1 := s.setCore core { k with retention := k.retention.setIfInBounds pan .leaving, panTime := k.panTime.setIfInBounds pan s.cyc }
    { s1 with pending := s1.pending ++ [Event.retentionExit core pan] }
  | .entering => s.setCore core { k with retention := k.retention.setIfInBounds pan .recalled }
  | _ => s

/-! ### Presence stores -/

/-- A presence store lands: the word is written, its bit set, and its awaiters wake (R217, R263, R372). -/
def landPresence (s : State) (core off : Nat) (v : Word) : State :=
  let s1 := padWrite s core off (natBytes 8 v.toNat)
  wakeWaiters { s1 with present := setAdd s1.present (padWord core off) } (fun w => w.on = .token (presenceToken core off)) 0

/-- Why a core refuses a presence store that arrives: it is sealed or contained (sub-code 8, R147, R392), the pan belongs to a
pre-empted launch (sub-code 7, R63), or the sender's partition does not claim it (sub-code 3, R211). A core never refuses itself as
sealed. -/
def arrivalRefusal (s : State) (f : Flight) : Option Nat :=
  let k := s.coreOf f.core
  let pan := f.off / 65536
  if f.sender ≠ f.core ∧ k.closed then some 8
  else if panQuiesced s k pan then some 7
  else if f.priv then none
  else match (k.claims[pan]?.getD none).bind s.launchOf with
    | some l => if l.part = f.part then none else some 3
    | none => some 3

/-- A presence store is refused with Protection: its task raises the cause, and of one that Sluice sends (its sender 2,048 and more, its
TID the sequence number of the reply) the reply that follows carries it (R211, R313; log entry 18). -/
def refuseFlight (s : State) (f : Flight) (k : Nat) : State :=
  if 2048 ≤ f.sender then
    { s with pending := s.pending.map (fun e => if e = .sluiceReply (f.sender - 2048) f.tid 0 then .sluiceReply (f.sender - 2048) f.tid (5 + k * 256) else e) }
  else s.blame f.sender f.serial f.tid
    (.protection, k, BitVec.ofNat 64 (f.off + f.core % 16 * 2 ^ 20 + rowOf f.core * 2 ^ 25 + dieOf f.core * 2 ^ 30))

/-- A presence store arrives: it lands, or is refused (R63, R147, R211). -/
def landFlight (s0 : State) (f : Flight) : State :=
  let s := { s0 with flights := s0.flights.erase f, pending := s0.pending.erase (.presenceStoreLanding f.core f.off f.value) }
  let s1 := match f.stamp with | some c => s.mergeClock (dieOf f.core) c | none => s
  match arrivalRefusal s1 f with
  | some k => refuseFlight s1 f k
  | none => landPresence (wakePan s1 f.core (f.off / 65536)) f.core f.off f.value

/-- Whether a presence store waits at its target: its pan is in retention (R219), or its stamp runs too far ahead (R384). A turn that
would land one does not take place: the pan is roused, and what needed the landing waits (`heldTurn`). -/
def Flight.waits (s : State) (f : Flight) : Bool :=
  !panAwake s f.core (f.off / 65536) || (match f.stamp with | some c => clockAhead (s.clockOf (dieOf f.core)) c | none => false)

/-- A stamped message reaches a die: what its clock names has arrived there first (R244). -/
def landNamedBy (s : State) (die : Nat) (stamp : Clock) : State :=
  (s.flights.filter (fun f => decide (dieOf f.core = die) && (match f.stamp with
    | some st => let k := dieOf f.sender
      decide (st[k]?.getD 0 ≤ stamp[k]?.getD 0)
    | none => false))).foldl landFlight s

/-- An acquire that reads from a stamped release completes once its die has applied what the stamp names (R244). -/
def State.acquireStamp (s : State) (stamp : Option Clock) : State :=
  match stamp with
  | some c => (landNamedBy s (dieOf s.cur) c).mergeClock (dieOf s.cur) c
  | none => s

/-- An acquire of the executing party reads a range. -/
def State.acquireRange (s : State) (pa n : Nat) : State := s.acquireStamp (s.stampRead pa n)

/-- A presence store of a stream leaves for its word (R263); across a die boundary it carries the clock of its die (R244). -/
def sendPresence (s0 : State) (vec : Bool) (core off : Nat) (v : Word) : State :=
  let far := decide (dieOf core ≠ dieOf s0.cur)
  let s := if far then s0.bumpClock (dieOf s0.cur) else s0
  let key := s.taskKey
  { s with
    flights := s.flights ++ [⟨core, off, v, s.cur, key.1, key.2, vec, s.partMode.1, s.partMode.2, if far then some (s.clockOf (dieOf s.cur)) else none⟩]
    pending := s.pending ++ [Event.presenceStoreLanding core off v] }

/-- Presence stores of the executing party that are under way. -/
def State.ownFlights (s : State) : List Flight :=
  let key := s.taskKey
  s.flights.filter (fun f => decide (f.serial = key.1) && decide (f.tid = key.2) && (decide (key.1 ≠ 0) || decide (f.sender = s.cur)))

/-- The executing party's own presence stores to words of a range land before its access to them (R234). -/
def landInRange (s : State) (core off n : Nat) : State :=
  (s.ownFlights.filter (fun f => decide (f.core = core) && decide (f.off < off + n) && decide (off < f.off + 8))).foldl landFlight s

/-! ### Stores that leave the store buffer (R246) -/

/-- A store that reaches its home finds an object there: nothing is written, and its task raises Object overwrite (R230, R231). -/
def refuseStore (s : State) (b : Buffered) (core : Nat) : State := s.blame core b.serial b.tid (.objectOverwrite, 0, b.va)

/-- Whether a release that reaches an address leaves the executing core's die: its home is on another, or is the durable-tier
controller (R244). -/
def crosses (s : State) (pa : Nat) : Bool :=
  match spaceOf pa with
  | .hbm => decide (homeDie pa ≠ dieOf s.cur)
  | .durable => true
  | _ => false

/-- A release store that crosses a die boundary carries the clock of its die (R244). -/
def stampStore (s : State) (b : Buffered) : State :=
  if !b.rel || !crosses s b.pa then s
  else
    let die := dieOf s.cur
    let s1 := s.bumpClock die
    match spaceOf b.pa with
    | .hbm => (landNamedBy s1 (homeDie b.pa) (s1.clockOf die)).mergeClock (homeDie b.pa) (s1.clockOf die)
    | _ => s1

/-- A release of the executing core reaches a home on another die with the clock of its die (R244). -/
def stampHome (s : State) (pa : Nat) : State :=
  match spaceOf pa with
  | .hbm => s.stampTo (dieOf s.cur) (homeDie pa)
  | _ => s

/-- The clock with which a release of the executing core has reached an address stays with what it wrote (R244). -/
def State.markRelease (s : State) (pa n : Nat) : State :=
  if crosses s pa then s.keepStamp pa n s.taskKey.1 s.taskKey.2 (s.clockOf (dieOf s.cur)) else s

/-- The stamps that stay with the words a store of the same task overwrites: its release sequence (R245), or that of the store itself. -/
def restamp (old : State) (pa n serial tid : Nat) (stamp : Option Clock) (s : State) : State :=
  match stamp with
  | some c => s.keepStamp pa n serial tid c
  | none => if old.stamps.isEmpty then s
      else { s with stamps := s.stamps ++ (old.stampsOf pa n).filter (fun e => decide (e.serial = serial) && decide (e.tid = tid)) }

/-- Sends one store of the buffer to its point of order (R246); a durable store goes to the durable-tier controller
and changes memory when that accepts it (R252). -/
def sendStore (s0 : State) (b : Buffered) : State :=
  let s := stampStore s0 b
  let stamp := if b.rel && crosses s b.pa then some (s.clockOf (dieOf s.cur)) else none
  match spaceOf b.pa with
  | .durable =>
    { s with
      durable := s.durable ++ [{ num := s.durableNext, pa := b.pa, bytes := b.bytes, serial := b.serial, tid := b.tid,
                                 epoch := b.epoch, core := s.cur, va := b.va, vec := b.vec, stamp := stamp, accepted := false }]
      durableNext := s.durableNext + 1
      pending := s.pending ++ [Event.durableStoreAccept s.durableNext] }
  | _ =>
    if touchesObject s b.pa b.bytes.length then refuseStore s b s.cur
    else restamp s b.pa b.bytes.length b.serial b.tid stamp
      (storeWrite (s.endResvBy s.cur b.serial b.tid b.pa b.bytes.length) b.pa b.bytes)

/-- Capacity of the persist buffer in lines: 64 MiB (R13). -/
def persistLines : Nat := 524288

/-- A line enters the persist buffer. A full buffer accepts no store: what waits here waits for the oldest line to drain to the
stacks (R225). -/
def bufferLine (l : List Nat) (line : Nat) : List Nat :=
  let l1 := if l.length < persistLines then l else l.tail
  if l1.contains line then l1 else l1 ++ [line]

/-- The durable-tier controller accepts a store: it has persisted and is visible (R252). One that finds an object is refused
(R230). -/
def acceptDurable (s : State) (d : Durable) : State :=
  if touchesObject s d.pa d.bytes.length then
    refuseStore { s with durable := s.durable.filter (fun e => e.num ≠ d.num),
                         pending := s.pending.filter (fun i => i ≠ .durableStoreAccept d.num) } d.buffered d.core
  else
    let s1 := s.onCore d.core (fun s => restamp s d.pa d.bytes.length d.serial d.tid d.stamp
      (storeWrite (s.endResvBy d.core d.serial d.tid d.pa d.bytes.length) d.pa d.bytes))
    { s1 with
      persisted := memWriteBytes s1.persisted d.pa d.bytes
      pbuf := bufferLine s1.pbuf (d.pa / 128)
      durable := s1.durable.map (fun e => if e.num = d.num then { e with accepted := true } else e)
      pending := s1.pending.filter (fun i => i ≠ .durableStoreAccept d.num) ++ [.persistAcknowledgement d.num] }

/-- Stores leave the buffer, oldest first. -/
def sendAll : State → List Buffered → State
  | s, [] => s
  | s, b :: l => sendAll (sendStore s b) l

/-- Drains the executing core's store buffer. -/
def State.drain (s : State) : State := sendAll { s with core := { s.core with sbuf := [] } } s.core.sbuf

/-- Durable stores that have left a buffer are accepted, in order. -/
def acceptAll : State → List Durable → State
  | s, [] => s
  | s, d :: l => acceptAll (if d.accepted then s else acceptDurable s d) l

/-- Persist everything sent so far: what a complete persist barrier waits for (R253). -/
def State.persistAll (s : State) : State :=
  let s1 := acceptAll s s.durable
  { s1 with durable := [], pending := s1.pending.filter (fun i => match i with
      | .persistAcknowledgement _ => false
      | .durableStoreAccept _ => false
      | _ => true) }

/-- Every earlier access of the executing party is done and visible: the core's buffer is empty, durable stores are accepted, and
its presence stores have landed (R235, R246, R252). -/
def State.publish (s : State) : State :=
  let s1 := s.drain
  let s2 := acceptAll s1 s1.durable
  s2.ownFlights.foldl landFlight s2

/-- Whether a store must leave the buffer before a later one: the stores of different tasks leave in order (R246); of one task, those
of one stream that touch a common byte (R234), and a durable one before those that follow its persist barrier (R253). -/
def Buffered.before (a b : Buffered) : Bool :=
  decide ((a.serial, a.tid) ≠ (b.serial, b.tid))
    || (decide (a.vec = b.vec) && decide (a.pa < b.pa + b.bytes.length) && decide (b.pa < a.pa + a.bytes.length))
    || (decide (a.epoch < b.epoch) && decide (spaceOf a.pa = .durable) && decide (spaceOf b.pa = .durable))

/-- Whether two durable stores are of one party. -/
def Durable.sameParty (d e : Durable) : Bool := decide (e.serial = d.serial ∧ e.tid = d.tid ∧ (d.serial ≠ 0 ∨ e.core = d.core))

/-- Whether a durable store must be accepted before a later one: to its line (R252), or across a persist barrier (R253). -/
def Durable.before (d e : Durable) : Bool := decide (d.pa / 128 = e.pa / 128) || (d.sameParty e && decide (d.epoch < e.epoch))

/-- The members of a list that a test selects, and those that must come before one of them. -/
def needed {α : Type} (sel : α → Bool) (before : α → α → Bool) : List α → List α
  | [] => []
  | a :: l => let r := needed sel before l; if sel a || r.any (before a) then a :: r else r

/-- Stores of the executing party that a test selects are at their points of order, with those that must go before them. -/
def State.publishWhere (s : State) (sel : Buffered → Bool) : State :=
  let mine (b : Buffered) : Bool := decide ((b.serial, b.tid) = s.taskKey) && sel b
  let out := needed mine Buffered.before s.core.sbuf
  let s1 := sendAll { s with core := { s.core with sbuf := out.foldl (fun l b => l.erase b) s.core.sbuf } } out
  acceptAll s1 (needed (fun d => mine d.buffered && (decide (d.serial ≠ 0) || decide (d.core = s.cur))) Durable.before s1.durable)

/-- Every earlier access of one stream of the executing party is done: its stores are at their points of order, and its presence stores
have landed (R235). -/
def State.publishStream (s : State) (vec : Bool) : State :=
  let s1 := s.publishWhere (fun b => b.vec = vec)
  (s1.ownFlights.filter (fun f => f.vec = vec)).foldl landFlight s1

/-- Before an access of a stream to n bytes the stores of the other stream that it sees reach their point of order (R235, R241). -/
def State.passOther (s : State) (vec : Bool) (pa n : Nat) : State :=
  let other (b : Buffered) : Bool := decide (b.vec ≠ vec) && decide (b.pa < pa + n) && decide (pa < b.pa + b.bytes.length)
  if s.ownStores.any other && s.seesOther pa then s.publishWhere other else s

end Sys2Proof.Machine
end

