-- ==== Sys2Proof/Machine/QueueHome.lean ====
section
/-! DEFINITION. What the home of a queue control block does (R283-R287, R290, R297-R299): the block as a 512-bit
number, its check code, its slots and segments, reservation, and the enqueue of a device producer. -/

namespace Sys2Proof.Machine

/-- Field hi..lo of a record held as a number (R2). -/
def fieldOf (v hi lo : Nat) : Nat := v / 2 ^ lo % 2 ^ (hi + 1 - lo)

/-- Replace field hi..lo of a record. -/
def putField (v hi lo x : Nat) : Nat :=
  v - fieldOf v hi lo * 2 ^ lo + x % 2 ^ (hi + 1 - lo) * 2 ^ lo

/-- Eight shifts of the check code (R286). -/
def crcShift : Nat → BitVec 16 → BitVec 16
  | 0, c => c
  | n + 1, c => crcShift n (if c.getLsbD 15 then (c <<< 1) ^^^ 0x1021 else c <<< 1)

/-- CRC-16, polynomial 0x1021, from a running value (R286). -/
def crc16 (c : BitVec 16) : List Byte → BitVec 16
  | [] => c
  | b :: bs => crc16 (crcShift 8 (c ^^^ ((b.zeroExtend 16) <<< 8))) bs

/-- MODE of a control block. -/
def qMode (q : Nat) : Nat := fieldOf q 75 72
/-- Capacity C. -/
def qCap (q : Nat) : Nat := 2 ^ fieldOf q 68 64
/-- Element size n. -/
def qElem (q : Nat) : Nat := 8 * 2 ^ fieldOf q 71 69
def qBase (q : Nat) : Nat := fieldOf q 63 0
def qHead (q : Nat) : Nat := fieldOf q 127 96
def qTail (q : Nat) : Nat := fieldOf q 159 128
def qFree (q : Nat) : Nat := fieldOf q 191 160
def qEnqw (q : Nat) : Nat := fieldOf q 207 192
def qDeqw (q : Nat) : Nat := fieldOf q 223 208
def qGen (q : Nat) : Nat := fieldOf q 239 224
def qLost (q : Nat) : Nat := fieldOf q 383 352
/-- Entries in the queue. -/
def qCount (q : Nat) : Nat := (qTail q + 2 ^ 32 - qHead q) % 2 ^ 32

/-- The check code of a block (R286): a durable block counts ENQW, DEQW and QSD as zero. -/
def qCheck (q : Nat) : Nat :=
  let q1 := if qMode q = 3 then putField (putField (putField q 207 192 0) 223 208 0) 76 76 0 else q
  let bs := natBytes 64 q1
  (crc16 0xFFFF (bs.take 30 ++ bs.drop 32)).toNat

/-- The block with its check code recomputed (R286). -/
def qSeal (q : Nat) : Nat := putField q 255 240 (qCheck q)

/-- The block at a physical address. -/
def readQcb (s : State) (pa : Nat) : Nat := leNat ((List.range 64).map (fun k => physByte s (pa + k)))

/-- A write made by a home, durable lines entering the persist buffer and so persisting with it (R225, R252, R298). -/
def homeWrite (s : State) (pa : Nat) (bytes : List Byte) : State :=
  let s1 := physWrite s pa bytes
  match spaceOf pa with
  | .durable => { s1 with persisted := memWriteBytes s1.persisted pa bytes, pbuf := bufferLine s1.pbuf (pa / 128) }
  | _ => s1

/-- Write a block with its check code. In a durable block ENQW, DEQW and QSD persist as zero (R286). -/
def writeQcb (s : State) (pa q : Nat) : State :=
  let q1 := qSeal q
  let s1 := physWrite s pa (natBytes 64 q1)
  match spaceOf pa with
  | .durable =>
    let q2 := putField (putField (putField q1 207 192 0) 223 208 0) 76 76 0
    { s1 with persisted := memWriteBytes s1.persisted pa (natBytes 64 q2), pbuf := bufferLine s1.pbuf (pa / 128) }
  | _ => s1

/-- Whether a mode fixes the element size (R284). -/
def escAllowed (mode esc : Nat) : Bool := if mode = 4 then esc = 4 else if 5 ≤ mode then esc = 3 else true

/-- The checks of R287 on a block at a physical address: the sub-code of the first that fails. -/
def qcbFailure (s : State) (pa : Nat) : Option Nat :=
  let q := readQcb s pa
  if !((List.range 4).all (fun k => s.objects.contains (pa / 16 + k))) then some 1
  else if fieldOf q 255 240 ≠ qCheck q then some 2
  else if fieldOf q 79 77 ≠ 0 ∨ fieldOf q 319 316 ≠ 0 ∨ fieldOf q 511 384 ≠ 0 ∨ qMode q > 8 ∨ fieldOf q 71 69 = 7
      ∨ fieldOf q 68 64 > 24 ∨ !escAllowed (qMode q) (fieldOf q 71 69) then
    (if qCount q > qCap q ∨ qFree q > qCap q - qCount q then some 3 else some 4)
  else if qCount q > qCap q ∨ qFree q > qCap q - qCount q then some 3
  else none

/-- Segments of a levelled queue (R297). -/
def qSegs (q : Nat) : Nat := (fieldOf q 311 308 + 1) * (fieldOf q 315 312 + 1)

/-- Physical address of a VA for a home that acts in a partition, rights not checked. -/
def physOf (s : State) (part : Nat) (va : Nat) : Option Nat :=
  match walk s part (BitVec.ofNat 64 va) with
  | .ok l => if pteMode l.pte = 0 then some (l.frame * 4096 + va % 4096) else none
  | .error _ => none

/-- SHEAD and STAIL of a segment (R297). -/
def segCounts (s : State) (part q seg : Nat) : Nat × Nat :=
  match physOf s part (fieldOf q 307 256 + 16 * seg) with
  | some pa => (physLe s pa 4, physLe s (pa + 4) 4)
  | none => (0, 0)

/-- Entries in a segment. -/
def segCount (s : State) (part q seg : Nat) : Nat :=
  let c := segCounts s part q seg
  (c.2 + 2 ^ 32 - c.1) % 2 ^ 32

/-- Write SHEAD and STAIL of a segment. -/
def setSegCounts (s : State) (part q seg head tail : Nat) : State :=
  match physOf s part (fieldOf q 307 256 + 16 * seg) with
  | some pa => homeWrite (s.touch part (fieldOf q 307 256 + 16 * seg) Need.queue true) pa (natBytes 4 (head % 2 ^ 32) ++ natBytes 4 (tail % 2 ^ 32))
  | none => s

/-- Row and column of a segment's core. -/
def segPlace (q seg : Nat) : Nat × Nat :=
  let w := fieldOf q 311 308 + 1
  (fieldOf q 327 324 + seg / w, fieldOf q 323 320 + seg % w)

/-- Rank of a segment of a queue of a die for a core: hops, then the neighbour order +x, -x, +y, -y (R69), then the number (R297). -/
def segRank (s : State) (die q core seg : Nat) : Nat × Nat × Nat :=
  let p := segPlace q seg
  let x := colOf core
  let y := rowOf core
  let dir := if x < p.2 then 0 else if p.2 < x then 1 else if y < p.1 then 2 else if p.1 < y then 3 else 0
  ((route s core die p.2 p.1).1, dir, seg)

/-- Rank order. -/
def rankBefore (a b : Nat × Nat × Nat) : Bool :=
  a.1 < b.1 || (a.1 = b.1 && (a.2.1 < b.2.1 || (a.2.1 = b.2.1 && a.2.2 < b.2.2)))

/-- The best-ranked segment of a list. -/
def bestSegment (s : State) (die q core : Nat) : List Nat → Option Nat
  | [] => none
  | a :: l =>
    match bestSegment s die q core l with
    | none => some a
    | some b => if rankBefore (segRank s die q core a) (segRank s die q core b) then some a else some b

/-- Address of slot k, the count being the queue's or the segment's own (R285, R297). -/
def slotVa (q k : Nat) : Nat := qBase q + qElem q * (k % qCap q)
def segSlotVa (q seg k : Nat) : Nat :=
  let per := qCap q / qSegs q
  qBase q + qElem q * (seg * per + k % per)

/-- The slot an enqueue by a core takes in the queue at `qpa`: its VA and the segment (R290, R297). -/
def enqueueSlot (s : State) (part qpa q core : Nat) : Nat × Option Nat :=
  if qMode q = 2 then
    let per := qCap q / qSegs q
    match bestSegment s (homeDie qpa) q core ((List.range (qSegs q)).filter (fun g => segCount s part q g < per)) with
    | some g => (segSlotVa q g (segCounts s part q g).2, some g)
    | none => (slotVa q (qTail q), none)
  else (slotVa q (qTail q), none)

/-- The slot a dequeue by a core takes. -/
def dequeueSlot (s : State) (part qpa q core : Nat) : Nat × Option Nat :=
  if qMode q = 2 then
    match bestSegment s (homeDie qpa) q core ((List.range (qSegs q)).filter (fun g => 0 < segCount s part q g)) with
    | some g => (segSlotVa q g (segCounts s part q g).1, some g)
    | none => (slotVa q (qHead q), none)
  else (slotVa q (qHead q), none)

/-- Record a wake under way for the waiter entries of a home that a predicate selects, the first only (R294). -/
def takeFirstWaiter (p : Waiter → Bool) : List Waiter → Option (Waiter × List Waiter)
  | [] => none
  | w :: l =>
    if p w then some (w, l)
    else match takeFirstWaiter p l with
      | some (f, r) => some (f, w :: r)
      | none => none

/-- Wake the first dequeue waiter of a queue and count DEQW down (R294). -/
def wakeDequeuer (s : State) (qpa : Nat) : State :=
  match takeFirstWaiter (fun w => w.on = .dequeue qpa) s.waiters with
  | none => s
  | some (w, rest) =>
    let q := readQcb s qpa
    writeQcb { s with waiters := rest, pending := s.pending ++ [Event.queueWaiterWake w.core w.slot] } qpa
      (putField q 223 208 (qDeqw q - 1))

/-- Wake the first enqueue waiter of a queue and count ENQW down (R294). -/
def wakeEnqueuer (s : State) (qpa : Nat) : State :=
  match takeFirstWaiter (fun w => w.on = .enqueue qpa) s.waiters with
  | none => s
  | some (w, rest) =>
    let q := readQcb s qpa
    writeQcb { s with waiters := rest, pending := s.pending ++ [Event.queueWaiterWake w.core w.slot] } qpa
      (putField q 207 192 (qEnqw q - 1))

/-- Bytes of one piece of a slot: a slot longer than a line may cross a page. -/
def slotPiece (q : Nat) : Nat := min (qElem q) 128

/-- Physical addresses of the pieces of n bytes from a VA, with a need. -/
def piecesPhys (s : State) (part : Nat) (priv : Bool) (need : Need) (piece : Nat) : Nat → Nat → Res (List Nat)
  | 0, _ => .ok []
  | n + 1, va =>
    match translate s part priv (BitVec.ofNat 64 va) need with
    | .error e => .error e
    | .ok (.peer ..) => .error { cause := .protection, sub := 9, addr := BitVec.ofNat 64 va }
    | .ok (.phys pa _) =>
      match piecesPhys s part priv need piece n (va + piece) with
      | .error e => .error e
      | .ok l => .ok (pa :: l)

/-- Physical addresses of the pieces of a slot. -/
def slotPhys (s : State) (part : Nat) (priv : Bool) (need : Need) (q va : Nat) : Res (List Nat) :=
  piecesPhys s part priv need (slotPiece q) (qElem q / slotPiece q) va

/-- Write bytes to pieces in order. -/
def writePieces (piece : Nat) : State → List Nat → List Byte → State
  | s, [], _ => s
  | s, pa :: l, bs => writePieces piece (homeWrite s pa (bs.take piece)) l (bs.drop piece)

/-- The enqueue of R290 after its checks, of an element into a queue with room; the slot's pieces lie
at `slot`. -/
def enqueueAt (s : State) (part qpa : Nat) (slot : List Nat) (seg : Option Nat) (elem : List Byte) : State :=
  let q := readQcb s qpa
  let s1 := writeQcb s qpa (putField (putField q 159 128 (qTail q + 1)) 191 160 (qFree q - 1))
  let s2 := match seg with
    | some g => let c := segCounts s part q g; setSegCounts s1 part q g c.1 (c.2 + 1)
    | none => s1
  let s3 := writePieces (slotPiece q) s2 slot elem
  wakeDequeuer { s3 with full := setAdd s3.full (slot.headD 0 / 8) } qpa

/-- Add a record to the error log: the newest 8,192 are kept (R396). -/
def logRecord (s : State) (r : List Word) : State := { s with errLog := (r :: s.errLog).take 8192 }

/-- Outcome of a device enqueue (R299). -/
inductive Offer where
  | taken (s : State)
  | full (qpa : Nat)
  /-- the queue fails R287 with a sub-code -/
  | corrupt (sub : Nat)
  | noQueue
deriving DecidableEq, Repr

/-- A device enqueue: the enqueue of R290 with WAIT = 0 made by a producer at a core (R299). -/
def offerRecord (s : State) (part core : Nat) (qva : Word) (elem : List Byte) : Offer :=
  if qva = 0 then .noQueue
  else
    match translate s part true qva Need.queue with
    | .ok (.phys qpa _) =>
      match qcbFailure s qpa with
      | some k => .corrupt k
      | none =>
        let q := readQcb s qpa
        if qFree q = 0 then .full qpa
        else
          let slot := enqueueSlot s part qpa q core
          match slotPhys s part true Need.write q slot.1 with
          | .ok l => .taken (((enqueueAt s part qpa l slot.2 elem).touch part qva.toNat Need.queue true).touch part slot.1 Need.write true)
          | .error _ => .noQueue
    | _ => .noQueue

/-- VA of the partition's queue for a device mode 5 to 8 (R402). -/
def deviceQueue (s : State) (part mode : Nat) : Word := partWord s part (9 + (mode - 5))

/-- The fields of an error record (R395). -/
structure ErrInfo where
  code : Nat
  sub : Nat
  source : Nat
  nested : Bool := false
  contained : Bool := false
  restarted : Bool := false
  mapped : Bool := false
  lid : Nat := 0
  tid : Nat := 0
  core : Nat := 0
  part : Nat := 0
  epc : Word := 0
  eaddr : Word := 0
  tag : Word := 0
  drain : Nat := 0
  peer : Nat := 0
deriving DecidableEq, Repr

/-- An error record as eight doublewords (R395). -/
def errRecord (s : State) (e : ErrInfo) : List Word :=
  let b (x : Bool) : Nat := if x then 1 else 0
  let low := e.code % 256 + e.sub % 65536 * 2 ^ 8 + e.source % 16 * 2 ^ 24 + b e.nested * 2 ^ 28 + b e.contained * 2 ^ 29
    + b e.restarted * 2 ^ 30 + b e.mapped * 2 ^ 31 + e.lid % 65536 * 2 ^ 32 + e.tid % 2 ^ 32 * 2 ^ 48
    + colOf e.core * 2 ^ 80 + rowOf e.core * 2 ^ 84 + dieOf e.core * 2 ^ 88 + e.part % 64 * 2 ^ 91
  [BitVec.ofNat 64 low, BitVec.ofNat 64 (low / 2 ^ 64), e.epc, e.eaddr, e.tag, s.cyc,
    BitVec.ofNat 64 (e.drain % 65536 + e.peer % 4096 * 2 ^ 16), 0]

/-- An error record: into the log, and into the partition's error queue; LOST counts the ones that find it full (R299, R396). Where that
queue fails R287 itself, the log also takes the record of that: code 12, the sub-code, the QCB's address. -/
def reportError (s : State) (part core : Nat) (rec : List Word) : State :=
  let s0 := logRecord s rec
  let qva := deviceQueue s part 8
  match offerRecord s0 part core qva (wordsToBytes rec) with
  | .taken s1 => s1
  | .full qpa => let q := readQcb s0 qpa; writeQcb (s0.touch part qva.toNat Need.queue true) qpa (putField q 383 352 (qLost q + 1))
  | .corrupt k => logRecord s0 (errRecord s0 { code := 12, sub := k, source := 8, core := core, part := part, eaddr := qva })
  | .noQueue => s0

/-- A failed path check is logged with its address, and counts on the die (R397). -/
def pathFailed (s : State) (die part core : Nat) (addr : Word) : State :=
  logRecord (countError s die 0x18) (errRecord s { code := 23, sub := 1, source := 10, core := core, part := part, eaddr := addr })

/-- Report an error to its partition. -/
def report (s : State) (e : ErrInfo) : State := reportError s e.part e.core (errRecord s e)

/-- A party of the device that meets a queue which fails R287 reports it in the partition's error queue: code 12, the sub-code, the
QCB's address. -/
def reportCorrupt (s : State) (part core source sub : Nat) (qva : Word) : State :=
  report s { code := 12, sub := sub, source := source, core := core, part := part, eaddr := qva }

/-- SOURCE of a device producer by the mode of its queue: the Rake's, or the die supervisor's for the translation hardware and the
migration counters, for which R395 has no code of their own (DESIGN CHOICE, log entry 47). -/
def producerSource (mode : Nat) : Nat := if mode = 7 then 4 else 8

/-- A fault, migrate or repair record: held by its producer while the queue is full, and kept in the log where it cannot be enqueued
(R287, R299). -/
def produceRecord (s : State) (part mode core : Nat) (rec : List Word) : State :=
  match offerRecord s part core (deviceQueue s part mode) (wordsToBytes rec) with
  | .taken s1 => s1
  | .full _ => { s with heldRecords := s.heldRecords ++ [⟨part, mode, rec⟩] }
  | .corrupt k => reportCorrupt (logRecord s rec) part core (producerSource mode) k (deviceQueue s part mode)
  | .noQueue => logRecord s rec

/-- The physical address of the control block of a device queue. -/
def deviceQcb (s : State) (part mode : Nat) : Option Nat :=
  let va := deviceQueue s part mode
  if va = 0 then none else physOf s part va.toNat

/-- After a dequeue, the oldest record held for the queue of that control block is offered again (R299). -/
def offerHeld (s : State) (qpa : Nat) : State :=
  match s.heldRecords.find? (fun h => deviceQcb s h.part h.mode = some qpa) with
  | none => s
  | some h =>
    match offerRecord s h.part 0 (deviceQueue s h.part h.mode) (wordsToBytes h.words) with
    | .taken s1 => { s1 with heldRecords := s1.heldRecords.erase h }
    | _ => s

end Sys2Proof.Machine
end

