-- ==== Sys2Proof/Machine/Tasks.lean ====
section
/-! DEFINITION. Tasks on a core: the launch record's fields (R53), a new task's state (R26), the accounts (R65, R66),
suspension, eviction, the picker and switching (R37-R49), and the end of a task. -/

namespace Sys2Proof.Machine

/-- The register set a task begins with (R26); a restarted one begins at RESTARTPC, or ENTRY where that is 0 (R53). -/
def Launch.newCtx (l : Launch) (tid : Nat) (restart : Bool) : Ctx :=
  { Ctx.clear with
    pc := if restart ∧ l.word 13 ≠ 0 then l.word 13 else l.word 0
    s := Ctx.clear.s.set 1 (l.word 1)
    tid := BitVec.ofNat 32 tid
    wcoord := l.coord tid
    lid := l.lid
    prio := BitVec.ofNat 3 l.prio }

/-- The launch copy made when an account is created on a core (R66, R118). -/
def Launch.newCopy (l : Launch) (account : Nat) : LaunchCopy :=
  { LaunchCopy.clear with
    serial := l.serial
    ebacc := BitVec.ofNat 48 account
    ehandler := l.word 2
    lmtbase := BitVec.ofNat 60 (bits (l.word 3) 59 4 * 16) }

/-! ### Accounts (R65, R66) -/

/-- Weight and priority of a launch by serial; a launch that is gone counts weight 1, priority 0. -/
def State.weightOf (s : State) (serial : Nat) : Nat := match s.launchOf serial with | some l => l.weight | none => 1
def State.prioOf (s : State) (serial : Nat) : Nat := match s.launchOf serial with | some l => l.prio | none => 0
def State.orderOf (s : State) (serial : Nat) : Nat := match s.launchOf serial with | some l => l.order | none => 0

/-- Smallest quotient account / weight among copies of a priority, as (account, weight). -/
def smallestQuotient (s : State) (prio : Nat) : List LaunchCopy → Option (Nat × Nat)
  | [] => none
  | c :: l =>
    if s.prioOf c.serial = prio then
      match smallestQuotient s prio l with
      | none => some (c.ebacc.toNat, s.weightOf c.serial)
      | some (a, w) => if c.ebacc.toNat * w ≤ a * s.weightOf c.serial then some (c.ebacc.toNat, s.weightOf c.serial) else some (a, w)
    else smallestQuotient s prio l

/-- Start of a new account (R66). -/
def newAccount (s : State) (copies : List LaunchCopy) (l : Launch) : Nat :=
  match smallestQuotient s l.prio copies with
  | none => 0
  | some (a, w) => a * l.weight / w

/-- Smallest account of a list. -/
def smallestAccount : List LaunchCopy → Option Nat
  | [] => none
  | c :: l => match smallestAccount l with
    | none => some c.ebacc.toNat
    | some a => some (min a c.ebacc.toNat)

/-- Rebasing when the smallest account exceeds 2^32 (R66). -/
def rebase (s : State) : State :=
  match smallestAccount (s.lc :: s.core.copies) with
  | none => s
  | some a =>
    if a ≤ 2 ^ 32 then s
    else
      let f (c : LaunchCopy) : LaunchCopy := { c with ebacc := c.ebacc - BitVec.ofNat 48 a }
      { s with lc := f s.lc, core := { s.core with copies := s.core.copies.map f } }

/-- Charge the running launch (R65). A service routine is charged nothing (R30). -/
def State.charge (s : State) (beats : Nat) : State :=
  match s.core.service with
  | some _ => s
  | none => rebase { s with lc := { s.lc with ebacc := s.lc.ebacc + BitVec.ofNat 48 beats } }

/-- Add to an event counter of the core (R385). -/
def State.count (s : State) (k : Fin 8) (n : Nat) : State :=
  { s with core := { s.core with pmc := s.core.pmc.set k (s.core.pmc[k] + BitVec.ofNat 64 n) } }

/-- An instruction completes: its charge and PMC0 (R65, R385). -/
def State.retire (s : State) (beats : Nat) : State := (s.charge beats).count 0 1

/-- An instruction of the task that a service routine interrupts completes: its launch is charged (R65). -/
def State.retireHeld (s : State) (beats : Nat) : State :=
  let s1 := { s with core := { s.core with service := s.core.service.map (fun (v : Service) =>
    { v with heldCopy := { v.heldCopy with ebacc := v.heldCopy.ebacc + BitVec.ofNat 48 beats } }) } }
  s1.count 0 1

/-! ### Records (R37-R42) -/

/-- Number of 1 bits. -/
def popcount {n : Nat} (w : BitVec n) : Nat := (List.range n).foldl (fun k i => if w.getLsbD i then k + 1 else k) 0

/-- Bound wells. -/
def boundWells (c : Ctx) : Nat := (c.wells.toList.filter (fun w => w.isSome)).length

/-- Bytes of a record saved involuntarily or with no clearing (R38, R293). -/
def fullRecordBytes (c : Ctx) : Nat := 3320 + 512 * popcount c.vdmap + 64 * boundWells c

/-- Lines of a record (R39). -/
def recordLines (bytes : Nat) : Nat := (bytes + 127) / 128

/-- Lines of all records of a core in a place. -/
def linesIn (p : Place) : List Suspended → Nat
  | [] => 0
  | t :: l => (if t.place = p then recordLines t.bytes else 0) + linesIn p l

/-- Lines in use in a die's Bittern. -/
def bitternLines (s : State) (die : Nat) : Nat :=
  (if dieOf s.cur = die then linesIn .bittern s.core.tasks else 0)
    + (s.others.filter (fun p => dieOf p.id = die)).foldl (fun n p => n + linesIn .bittern p.core.tasks) 0

/-- Records in the cache. -/
def cached (l : List Suspended) : List Suspended := l.filter (fun t => t.place = .cache)

/-- The least recently suspended of a list. -/
def oldest : List Suspended → Option Suspended
  | [] => none
  | t :: l => match oldest l with
    | none => some t
    | some u => if t.info.susp.toNat ≤ u.info.susp.toNat then some t else some u

/-- Replace the entry of a slot. -/
def setTask (l : List Suspended) (t : Suspended) : List Suspended :=
  l.map (fun u => if u.info.slot = t.info.slot then t else u)

/-- Remove the entry of a slot. -/
def dropTask (l : List Suspended) (slot : Nat) : List Suspended := l.filter (fun u => u.info.slot ≠ slot)

/-- The entry of a slot. -/
def findTask (l : List Suspended) (slot : Nat) : Option Suspended := l.find? (fun u => u.info.slot = slot)

/-- Bytes of a record in the backing: its layout is not architected (R39, log entry 8). -/
def recordBytes (stamp n : Nat) : List Byte := (List.range n).map (Config.recordByte stamp)

/-- Physical pieces of `n` bytes of a partition's memory, line by line, with the rights of a kind (R42). -/
def linesPhys (s : State) (part : Nat) (va : Nat) (need : Need) : Nat → Res (List Nat)
  | 0 => .ok []
  | n + 1 =>
    match translate s part true (BitVec.ofNat 64 va) need with
    | .error e => .error e
    | .ok (.peer _ _ _) => .error { cause := .protection, sub := 9, addr := BitVec.ofNat 64 va }
    | .ok (.phys pa _) =>
      match linesPhys s part (va + 128) need n with
      | .error e => .error e
      | .ok l => .ok (pa :: l)

/-- Write lines of bytes to physical lines. -/
def writeLines : State → List Nat → List Byte → State
  | s, [], _ => s
  | s, pa :: l, bs => writeLines (homeWrite s pa (bs.take 128)) l (bs.drop 128)

/-- VA of a task's slot in the backing (R42). -/
def backingSlot (l : Launch) (tid : Nat) : Nat := l.backing + 36864 * tid

/-- Facts of a task for its error record. -/
def taskErr (s : State) (core : Nat) (t : TaskInfo) (c : Nat) (sub source : Nat) : ErrInfo :=
  { code := c, sub := sub, source := source, lid := match s.launchOf t.serial with | some l => l.lid.toNat | none => 0,
    tid := t.tid, core := core, part := t.part, tag := match s.launchOf t.serial with | some l => l.tag | none => 0 }

/-- Cause code (R387). -/
def Cause.code : Cause → Nat
  | .illegalInstruction => 1 | .privileged => 2 | .misaligned => 3 | .translationNotPresent => 4 | .protection => 5
  | .peerFault => 6 | .peerUnreachable => 7 | .peerRejected => 8 | .storeLost => 9 | .bounds => 10
  | .objectOverwrite => 11 | .queueControlBlockCorrupt => 12 | .rendezvousPhaseError => 13 | .copyOnWrite => 14
  | .staleBlock => 15 | .boundRegisterAccess => 16 | .promiseMissed => 17 | .barrierTimeout => 18 | .awaitTimeout => 19
  | .invalidToken => 20 | .matrixCheck => 21 | .shadowMismatch => 22 | .uncorrectableConsumed => 23
  | .preemption => 24 | .debugFreeze => 25

/-! ### The end of a wait -/

/-- Write a scalar register; s0 discards (R75, R107). -/
def Ctx.setS (c : Ctx) (r : BitVec 5) (v : Word) : Ctx :=
  if r = 0 then c else { c with s := c.s.set r.toNat v r.isLt }

/-- Read a scalar register; s0 reads zero (R107). -/
def Ctx.getS (c : Ctx) (r : BitVec 5) : Word := if r = 0 then 0 else c.s[r.toNat]'r.isLt

/-- The error word of R369. -/
def errorWord (e : BitVec 24) : Word := BitVec.ofNat 64 (e.toNat + 2 ^ 59)

/-- What a gang knows of an instruction its member has completed (R29): the leader of a gang that is forming keeps it for its
followers, and a follower, or one that was, has it no more before it. -/
def stepDone (t : TaskInfo) (code : List Byte) (before after : Ctx) : TaskInfo :=
  match t.gang with
  | .forming shape 0 seq resume start l =>
    let step : GangStep := ⟨l.length, before.pc, after.pc, code, before.vl, before.vty, after.vl, after.vty, false⟩
    { t with gang := .forming shape 0 seq resume start (l ++ [step]) }
  | .follower shape i l ltid (_ :: rest) => { t with gang := .follower shape i l ltid rest }
  | .parting [_] => { t with gang := .none }
  | .parting (_ :: rest) => { t with gang := .parting rest }
  | _ => t

/-- A wait that ended: an await completes with its swap and error word and moves on, or its timeout falls due; the other
waits execute their instruction again (R371, R369, R294, R327, R357). -/
def finishWait (c : Ctx) (t : TaskInfo) (w : Wait) : Ctx × TaskInfo :=
  match w.kind with
  | .await | .awaitT | .awaitAny =>
    if w.timedOut then
      (c, if t.due.isSome then t else { t with due := some (.awaitTimeout, 0, c.getS w.reg) })
    else
      let c1 := if w.which = 1 then (c.setS w.reg (c.getS (w.reg + 1))).setS (w.reg + 1) (c.getS w.reg) else c
      let c2 := match w.err with | some e => c1.setS w.reg (errorWord e) | none => c1
      let c3 := { c2 with pc := c2.pc + BitVec.ofNat 64 w.size }
      (c3, stepDone t w.code c c3)
  | .queue => (c, { t with woken := true })
  | _ => (c, t)

/-- Whether the end of a wait completes its instruction. -/
def Wait.completes (w : Wait) : Bool :=
  match w.kind with
  | .await | .awaitT | .awaitAny => !w.timedOut
  | _ => false

/-! ### Gangs (R29, R71) -/

/-- GANGST when a gang disbands: the reason, and no longer in a gang. -/
def gangstOut (g : BitVec 12) (reason : Nat) : BitVec 12 := (g &&& 0xFF0) ||| BitVec.ofNat 12 (reason % 8)

/-- What a core knows of a started task. -/
def infoOf (k : Core) (serial tid : Nat) : Option TaskInfo :=
  match k.run.task with
  | some t => if t.serial = serial ∧ t.tid = tid then some t
      else (k.tasks.find? (fun u => u.info.serial = serial ∧ u.info.tid = tid)).map (fun u => u.info)
  | none => (k.tasks.find? (fun u => u.info.serial = serial ∧ u.info.tid = tid)).map (fun u => u.info)

/-- The members of the gang a task belongs to, in order, as (core, TID). -/
def gangMembers (s : State) (t : TaskInfo) : List (Nat × Nat) :=
  match t.gang with
  | .leader _ ms _ => ms
  | .follower _ _ l ltid _ => match infoOf (s.coreOf l) t.serial ltid with
    | some u => (match u.gang with | .leader _ ms _ => ms | _ => [])
    | none => []
  | _ => []

/-- Change a started task of a core: what is known of it and its registers, wherever they are held. -/
def mapStarted (s : State) (core serial tid : Nat) (f : TaskInfo → TaskInfo) (g : Ctx → Ctx) : State :=
  let k := s.coreOf core
  match k.run.task with
  | some t =>
    if t.serial = serial ∧ t.tid = tid then
      let s1 := s.setCore core { k with run := k.run.mapTask f }
      match k.service with
      | some v => s1.setCore core { k with run := k.run.mapTask f, service := some { v with heldCtx := g v.heldCtx } }
      | none => s1.setCtx core (g (s1.ctxOf core))
    else s.setCore core { k with tasks := k.tasks.map (fun u =>
      if u.info.serial = serial ∧ u.info.tid = tid then { u with info := f u.info, ctx := g u.ctx } else u) }
  | none => s.setCore core { k with tasks := k.tasks.map (fun u =>
      if u.info.serial = serial ∧ u.info.tid = tid then { u with info := f u.info, ctx := g u.ctx } else u) }

/-- Registers of a started task of a core, wherever they are held. -/
def ctxOfTask (s : State) (core serial tid : Nat) : Option Ctx :=
  let k := s.coreOf core
  let suspended := (k.tasks.find? (fun u => u.info.serial = serial ∧ u.info.tid = tid)).map (fun u => u.ctx)
  match k.run.task with
  | some t =>
    if t.serial = serial ∧ t.tid = tid then
      match k.service with | some v => some v.heldCtx | none => some (s.ctxOf core)
    else suspended
  | none => suspended

/-- Cycles a task has been stalled at an await (R385). -/
def countStall (s : State) (w : Wait) : State :=
  match w.kind with
  | .await | .awaitT | .awaitAny => s.count 5 (s.cyc.toNat - w.since.toNat)
  | _ => s

/-- The wait of a slot of the executing core is over: a stalled task issues again, its await complete and charged (R65), and a
suspended one becomes Ready. -/
def releaseSlot (s : State) (slot : Nat) : State :=
  let suspended (s : State) : State :=
    { s with core := { s.core with tasks := s.core.tasks.map (fun u =>
        if u.info.slot = slot ∧ u.phase = .waiting then { u with phase := .ready } else u) } }
  match s.core.run with
  | .stalled t _ w =>
    if t.slot = slot then
      let s0 := countStall { s with pending := s.pending.filter (fun e => e ≠ Event.stallPromisePassed s.cur) } w
      match s0.core.service with
      | some v =>
        let r := finishWait v.heldCtx t w
        let s1 := { s0 with core := { s0.core with run := .running r.2, service := some { v with heldCtx := r.1 } } }
        if w.completes then s1.retireHeld 1 else s1
      | none =>
        let r := finishWait s0.ctx t w
        let s1 := { s0 with ctx := r.1, core := { s0.core with run := .running r.2 } }
        if w.completes then s1.retire 1 else s1
    else suspended s
  | _ => suspended s

/-- The wait of a slot of a core, whether its task is stalled or suspended. -/
def waitOf (k : Core) (slot : Nat) : Option (TaskInfo × Wait) :=
  match k.run with
  | .stalled t _ w => if t.slot = slot then some (t, w)
      else (findTask k.tasks slot).bind (fun u => u.wait.map (fun w => (u.info, w)))
  | _ => (findTask k.tasks slot).bind (fun u => u.wait.map (fun w => (u.info, w)))

/-- Slots of a ring that serve a task (R195): each message begins with the task's serial, its TID and the gang's sequence
number. -/
def servesTask (key : Nat × Nat) (m : List Word) : Bool :=
  match m with
  | a :: b :: _ => a.toNat = key.1 && b.toNat = key.2
  | _ => false

/-- The ring without the slots of a task but those of some sequence numbers (R195). -/
def dropSlots (k : Core) (key : Nat × Nat) (keep : List Nat) : Core :=
  { k with ring := k.ring.filter (fun m => !servesTask key m || keep.contains (m[2]?.getD 0).toNat) }

/-- The gang `mma` a member has entered and not completed: the one that trapped, or one that was ended inside its rows (R195). -/
def enteredMma (t : TaskInfo) (x : Ctx) (trapped : Bool) : Option (Word × Nat) :=
  match t.gang with
  | .follower _ _ _ _ (st :: _) => if st.sent ∧ st.pc = x.pc ∧ (trapped ∨ x.vstart ≠ 0) then some (st.pc, st.seq) else none
  | .parting (st :: _) => if st.sent ∧ st.pc = x.pc ∧ (trapped ∨ x.vstart ≠ 0) then some (st.pc, st.seq) else none
  | _ => t.entered

/-- The instructions a member of a gang has still to execute, up to one of a sequence number where that is given. -/
def pendingSteps (t : TaskInfo) (last : Option Nat) : List GangStep :=
  match t.gang with
  | .follower _ _ _ _ l => l.filter (fun st => match last with | some n => decide (st.seq ≤ n) | none => true)
  | _ => []

/-- A member leaves its gang: GANGST, its membership, and the operand slots that no instruction it has entered, or has still to
execute, consumes. -/
def leaveGang (s : State) (core serial tid reason : Nat) (trapped : Bool) (rest : List GangStep) : State :=
  match infoOf (s.coreOf core) serial tid, ctxOfTask s core serial tid with
  | some t, some x =>
    let e := enteredMma t x trapped
    let s1 := mapStarted s core serial tid (fun t => { t with gang := if rest.isEmpty then .none else .parting rest, entered := e })
      (fun x => { x with gangst := gangstOut x.gangst reason })
    s1.setCore core (dropSlots (s1.coreOf core) (serial, tid) ((e.map (fun p => p.2)).toList ++ rest.map (fun st => st.seq)))
  | _, _ => s

/-- A former member whose own wait is over goes on alone. -/
def releaseMember (s : State) (core serial tid : Nat) : State :=
  match (infoOf (s.coreOf core) serial tid).bind (fun t => waitOf (s.coreOf core) t.slot) with
  | some (t, w) => if w.isOver then s.onCore core (fun s => releaseSlot s t.slot) else s
  | none => s

/-- The gang of a task of a core disbands: one reason for that task, another for the other members. Each member goes on after the
last gang instruction that has completed (R71): after a trap the others first complete what their leader has executed, up to the
instruction of a follower that trapped (R184, log entry 23). -/
def disbandTask (s : State) (core : Nat) (t : TaskInfo) (own other : Nat) : State :=
  match t.gang with
  | .parting _ => leaveGang s core t.serial t.tid own true []
  | _ =>
    let ms := gangMembers s t
    let last := match t.gang with | .follower _ _ _ _ (st :: _) => some st.seq | _ => none
    let s1 := ms.foldl (fun s m =>
      let mine := decide (m = (core, t.tid))
      let rest := if mine ∨ other ≠ 3 then [] else ((infoOf (s.coreOf m.1) t.serial m.2).map (fun u => pendingSteps u last)).getD []
      leaveGang s m.1 t.serial m.2 (if mine then own else other) mine rest) s
    ms.foldl (fun s m => releaseMember s m.1 t.serial m.2) s1

/-! ### The end of a task -/

/-- Whether an event only concerns the wait of a slot of a core. -/
def concernsWait (core slot : Nat) (e : Event) : Bool :=
  match e with
  | .tokenWake c k _ => decide (c = core ∧ k = slot)
  | .timerTokenReady c k => decide (c = core ∧ k = slot)
  | .awaitTimeout c k => decide (c = core ∧ k = slot)
  | .waituntilTime c k => decide (c = core ∧ k = slot)
  | .waiterTableRetry c k => decide (c = core ∧ k = slot)
  | .barrierTimeout c k => decide (c = core ∧ k = slot)
  | .queueWaiterWake c k => decide (c = core ∧ k = slot)
  | .tokenRegistration _ _ c k => decide (c = core ∧ k = slot)
  | _ => false

/-- The waiter entries of a slot of a core are removed with what is under way for its wait, and the counts of the queues they
stood on fall (R302, R372). -/
def dropWaiters (s : State) (core slot : Nat) : State :=
  let mine := s.waiters.filter (fun w => w.core = core ∧ w.slot = slot)
  let s1 := { s with waiters := s.waiters.filter (fun w => !(w.core = core ∧ w.slot = slot)),
                     pending := s.pending.filter (fun e => !concernsWait core slot e) }
  mine.foldl (fun s w =>
    match w.on with
    | .enqueue q => writeQcb s q (putField (readQcb s q) 207 192 (qEnqw (readQcb s q) - 1))
    | .dequeue q => writeQcb s q (putField (readQcb s q) 223 208 (qDeqw (readQcb s q) - 1))
    | .token _ => s) s1

/-- Tasks of a launch on a core. -/
def coreHasTask (k : Core) (serial : Nat) : Bool :=
  k.created.any (fun c => c.serial = serial) || k.tasks.any (fun t => t.info.serial = serial)
    || (match k.run.task with | some t => t.serial = serial | none => false)

/-- A started task enrolled on wire-barrier lines: (line, serial, tid) of every task of the package with a BWMASK bit (R378). -/
def linesOfMask (core : Nat) (m : BitVec 3) : List Nat :=
  (if m.getLsbD 0 then [dieOf core * 33 + rowOf core] else []) ++ (if m.getLsbD 1 then [dieOf core * 33 + 16 + colOf core] else [])
    ++ (if m.getLsbD 2 then [dieOf core * 33 + 32] else [])

/-- Enrolments of one core. -/
def enrolledOf (core : Nat) (k : Core) (x : Ctx) : List (Nat × Nat × Nat) :=
  let own := match k.run.task with
    | some t =>
      let y := match k.service with | some v => v.heldCtx | none => x
      (linesOfMask core y.bwmask).map (fun l => (l, t.serial, t.tid))
    | none => []
  own ++ k.tasks.flatMap (fun t => (linesOfMask core t.ctx.bwmask).map (fun l => (l, t.info.serial, t.info.tid)))

/-- Enrolments of the package. -/
def enrolled (s : State) : List (Nat × Nat × Nat) :=
  enrolledOf s.cur s.core s.ctx ++ s.others.flatMap (fun p => enrolledOf p.id p.core p.ctx)

/-- The line record, or a fresh one. -/
def lineOf (s : State) (n : Nat) : WireLine := (s.lines.find? (fun l => l.line = n)).getD ⟨n, 0, [], []⟩

/-- Replace a line record. -/
def setLine (s : State) (l : WireLine) : State :=
  { s with lines := if s.lines.any (fun k => k.line = l.line) then s.lines.map (fun k => if k.line = l.line then l else k)
      else s.lines ++ [l] }

/-- Whether a task has arrived in the phase under way. -/
def WireLine.hasArrived (l : WireLine) (key : Nat × Nat) : Bool := l.arrived.any (fun a => a.1 = key)

/-- A line on which every enrolled task has arrived will release (R378). -/
def releaseIfComplete (s : State) (n : Nat) : State :=
  let l := lineOf s n
  let mem := (enrolled s).filter (fun e => e.1 = n)
  if !l.arrived.isEmpty ∧ mem.all (fun e => l.hasArrived e.2) ∧ !s.pending.contains (.wireBarrierRelease n) then
    { s with pending := s.pending ++ [Event.wireBarrierRelease n] }
  else s

/-- The end of an enrolment may release the lines (R378). -/
def endEnrolment (s : State) (lines : List Nat) : State := lines.foldl releaseIfComplete s

/-- The enrolments of a task that ends, and its arrivals, leave the lines (R378). -/
def leaveLines (s : State) (serial tid : Nat) (lines : List Nat) : State :=
  endEnrolment { s with lines := s.lines.map (fun l => { l with arrived := l.arrived.filter (fun a => a.1 ≠ (serial, tid)) }) } lines

/-- Results and transfers of an ended task: transfers run on, the results of its lda and vamo are discarded (R308). -/
def discardResults (k : Core) (serial tid : Nat) : Core :=
  { k with
    vamos := k.vamos.filter (fun v => !(v.serial = serial ∧ v.tid = tid))
    chans := k.chans.map (fun c => { c with out := c.out.map (fun t =>
      match t.job with
      | .load r data err _ => if t.serial = serial ∧ t.tid = tid then { t with job := .load r data err false } else t
      | _ => t) }) }

/-- The launch copies of a core: one without a task left is deleted (R66). -/
def pruneCopies (k : Core) : Core := { k with copies := k.copies.filter (fun c => coreHasTask k c.serial) }

/-- The registers and the launch copy of the task that holds the core, a service routine or not (R30). -/
def State.heldCtx (s : State) : Ctx := match s.core.service with | some v => v.heldCtx | none => s.ctx
def State.heldCopy (s : State) : LaunchCopy := match s.core.service with | some v => v.heldCopy | none => s.lc

/-- The running launch's copy goes back to the core's list. -/
def returnCopy (s : State) : State :=
  match s.core.run.task with
  | none => s
  | some _ => { s with core := { s.core with
      copies := s.core.copies.filter (fun c => c.serial ≠ s.heldCopy.serial) ++ [s.heldCopy] } }

/-- Sluice counts a task of a launch as ended by containment (R60, R391). -/
def markDamaged (s : State) (serial tid : Nat) : State :=
  { s with launches := s.launches.map (fun l =>
      if l.serial = serial then { l with damaged := true, lostTids := setAdd l.lostTids tid } else l) }

/-- The end message of a task (R59). -/
def sendEnd (s : State) (serial tid : Nat) : State :=
  { s with pending := s.pending ++ [Event.endMessage s.cur serial tid] }

/-! ### Eviction, saving and switching -/

/-- Whether the tasks of a launch are restartable (R53). -/
def State.restartable (s : State) (serial : Nat) : Bool := match s.launchOf serial with | some l => l.restart | none => false

/-- The results, the operand slots and, with its last task, the account and the launch CSRs of an ended task leave its core
(R66, R116, R195, R308). -/
def forgetTask (k : Core) (serial tid : Nat) : Core := pruneCopies (dropSlots (discardResults k serial tid) (serial, tid) [])

/-- A suspended task ends with a cause of its record (R42): its gang disbands, it leaves the core and is reported with SOURCE 8.
A restartable one is created again on the core, any other counts as ended by containment. -/
def endSuspended (s : State) (t : Suspended) (cause : Cause) (sub : Nat) (addr : Word) : State :=
  let s0 := disbandTask s s.cur t.info 2 3
  let s1 := dropWaiters { s0 with core := { s0.core with tasks := dropTask s0.core.tasks t.info.slot } } s.cur t.info.slot
  let s2 := { s1 with core := forgetTask s1.core t.info.serial t.info.tid }
  let s3 := leaveLines s2 t.info.serial t.info.tid (linesOfMask s.cur t.ctx.bwmask)
  let again := s3.restartable t.info.serial
  let s4 := report s3 { taskErr s3 s.cur t.info cause.code sub 8 with epc := t.ctx.pc, eaddr := addr, restarted := again }
  if again then { s4 with pending := s4.pending ++ [Event.creationMessage s.cur t.info.serial t.info.tid true] }
  else sendEnd (markDamaged s4 t.info.serial t.info.tid) t.info.serial t.info.tid

/-- Write a record to its backing slot (R42). -/
def toBacking (s : State) (t : Suspended) : State :=
  match s.launchOf t.info.serial with
  | none => s
  | some l =>
    match linesPhys s l.part (backingSlot l t.info.tid) Need.write (recordLines t.bytes) with
    | .error e => endSuspended s t e.cause e.sub e.addr
    | .ok pas =>
      let t' := { t with place := .backing, stamp := s.free }
      writeLines { s.fresh with core := { s.core with tasks := setTask s.core.tasks t' } } pas
        (recordBytes s.free (128 * recordLines t.bytes))

/-- Evict one record from the cache: to Bittern when it has room for all its lines, else to the backing (R41). -/
def evict (s : State) (t : Suspended) : State :=
  let s1 := s.count 3 1
  let die := dieOf s.cur
  if bitternLines s1 die + recordLines t.bytes ≤ (s1.bittern[die]?.getD 0) * 8192 then
    { s1 with core := { s1.core with tasks := setTask s1.core.tasks { t with place := .bittern } } }
  else toBacking s1 t

/-- Evict until a record of `lines` lines, counted as `extra` records, fits CCLIM and 512 KiB (R40, R41). `keep` is the slot of the record that the
switch takes: it is never evicted, and it still counts (`counted`) where the outgoing record is saved before the switch
begins (R418). -/
def makeRoom : Nat → State → Nat → Nat → Option Nat → Bool → State
  | 0, s, _, _, _, _ => s
  | fuel + 1, s, extra, lines, keep, counted =>
    let others := (cached s.core.tasks).filter (fun t => some t.info.slot ≠ keep)
    let held := if counted then cached s.core.tasks else others
    if held.length + extra ≤ s.core.cclim.toNat ∧ linesIn .cache held + lines ≤ 4096 then s
    else match oldest others with
      | none => s
      | some t => makeRoom fuel (evict s t) extra lines keep counted

/-- The record kept in the register file goes to the cache (R46, R47, R418). -/
def saveInPlace (s : State) (keep : Option Nat) (idled : Bool) : State :=
  match s.core.tasks.find? (fun t => t.place = .registers) with
  | none => s
  | some t =>
    let s1 := makeRoom 65 s 1 (recordLines t.bytes) keep idled
    { s1 with core := { s1.core with tasks := setTask s1.core.tasks { t with place := .cache } } }

/-- Candidate of the picker: a Ready task or a Created one, with its keys (R48). -/
inductive Candidate where
  | ready (t : Suspended)
  | created (c : Created)
deriving DecidableEq, Repr

def Candidate.serial : Candidate → Nat
  | .ready t => t.info.serial
  | .created c => c.serial
def Candidate.tid : Candidate → Nat
  | .ready t => t.info.tid
  | .created c => c.tid
def Candidate.susp : Candidate → Nat
  | .ready t => t.info.susp.toNat
  | .created c => c.time.toNat

/-- Account of a launch on the core; one that has none yet would start as R66 says. -/
def accountOf (s : State) (serial : Nat) : Nat :=
  match s.core.copies.find? (fun c => c.serial = serial) with
  | some c => c.ebacc.toNat
  | none => match s.launchOf serial with
    | some l => newAccount s s.core.copies l
    | none => 0

/-- The order of R48: whether `a` is picked before `b`. -/
def pickBefore (s : State) (a b : Candidate) : Bool :=
  let pa := s.prioOf a.serial
  let pb := s.prioOf b.serial
  if pa ≠ pb then pb < pa
  else
    let qa := accountOf s a.serial * s.weightOf b.serial
    let qb := accountOf s b.serial * s.weightOf a.serial
    if qa ≠ qb then qa < qb
    else if a.susp ≠ b.susp then a.susp < b.susp
    else if s.orderOf a.serial ≠ s.orderOf b.serial then s.orderOf a.serial < s.orderOf b.serial
    else a.tid < b.tid

/-- The best candidate. -/
def bestCandidate (s : State) : List Candidate → Option Candidate
  | [] => none
  | a :: l => match bestCandidate s l with
    | none => some a
    | some b => if pickBefore s b a then some b else some a

/-- Started tasks of a core (R28). -/
def startedCount (k : Core) : Nat := k.tasks.length + (match k.run.task with | some _ => 1 | none => 0)

/-- The candidates: Ready tasks, and Created ones while fewer than 64 have started (R28, R48). -/
def candidates (s : State) : List Candidate :=
  (s.core.tasks.filter (fun t => t.phase = .ready)).map .ready
    ++ (if startedCount s.core < 64 then
          (s.core.created.filter (fun c => !s.core.quiesced.contains c.serial)).map .created else [])

/-- The lowest free started entry. -/
def freeSlot (k : Core) : Nat :=
  ((List.range 64).find? (fun n => !(k.tasks.any (fun t => t.info.slot = n))
    && (match k.run.task with | some t => t.slot ≠ n | none => true))).getD 0

/-- Take the copy of a launch out of the core's list, making it if it is not there (R116). -/
def takeCopy (s : State) (serial : Nat) : LaunchCopy × List LaunchCopy :=
  match s.core.copies.find? (fun c => c.serial = serial) with
  | some c => (c, s.core.copies.filter (fun d => d.serial ≠ serial))
  | none => match s.launchOf serial with
    | some l => (l.newCopy (newAccount s s.core.copies l), s.core.copies)
    | none => ({ LaunchCopy.clear with serial := serial }, s.core.copies)

/-- The chosen task takes the register file; an await whose wait is over completes. -/
def enter (s : State) (t : TaskInfo) (c : Ctx) (w : Option Wait) : State :=
  let k := takeCopy s t.serial
  let r := match w with | some w => finishWait c t w | none => (c, t)
  let s1 := { s with ctx := r.1, lc := k.1, core := { s.core with run := .running r.2, copies := k.2, qstart := s.cyc, qlim := s.core.qntm, resv := [], fetched := [], late := [], requant := none } }
  if w.any Wait.completes then s1.retire 1 else s1

/-- A record that is restored from the backing must read as it was written (R39). -/
def recordIntact (s : State) (t : Suspended) : Bool :=
  match s.launchOf t.info.serial with
  | none => true
  | some l =>
    match linesPhys s l.part (backingSlot l t.info.tid) Need.read (recordLines t.bytes) with
    | .error _ => false
    | .ok pas => decide (pas.flatMap (fun pa => memReadBytes s.mem pa 128) = recordBytes t.stamp (128 * recordLines t.bytes))
        && !pas.any (fun pa => touchesPoison s pa 128)

/-- Cause due to a task whose record cannot be read back: the fault of the backing (R42), or a failed check there or in Bittern
(R39). -/
def restoreFault (s : State) (t : Suspended) : Option Exc :=
  let damaged : Exc := { cause := .uncorrectableConsumed, sub := 2, addr := 0 }
  match t.place, s.launchOf t.info.serial with
  | .backing, some l =>
    (match linesPhys s l.part (backingSlot l t.info.tid) Need.read (recordLines t.bytes) with
    | .error e => some e
    | .ok _ => if recordIntact s t then none else some damaged)
  | .bittern, _ => if t.spoiled then some damaged else none
  | _, _ => none

/-- The picker with at most `fuel` tasks that end while their record is restored (R41, R47, R48). `idled`: the core had been
idle, with a waiting task's registers in place (R46, R418). -/
def pickLoop (idled : Bool) : Nat → State → State
  | 0, s => s
  | fuel + 1, s =>
    match bestCandidate s (candidates s) with
    | none => s
    | some (.created c) =>
      let s1 := (saveInPlace s none idled).count 2 1
      let slot := freeSlot s1.core
      match s1.launchOf c.serial with
      | none => { s1 with core := { s1.core with created := s1.core.created.erase c } }
      | some l =>
        let t : TaskInfo := { serial := c.serial, tid := c.tid, part := l.part, priv := l.priv, slot := slot, susp := c.time,
                              lost := none, arrival := none, due := none, woken := false, gang := .none, entered := none, waitFrom := none }
        enter { s1 with core := { s1.core with created := s1.core.created.erase c } } t (l.newCtx c.tid c.restart) none
    | some (.ready t) =>
      match t.place with
      | .registers => enter { s with core := { s.core with tasks := dropTask s.core.tasks t.info.slot } } t.info t.ctx t.wait
      | .cache =>
        let s1 := (saveInPlace s (some t.info.slot) idled).count 2 1
        enter { s1 with core := { s1.core with tasks := dropTask s1.core.tasks t.info.slot } } t.info t.ctx t.wait
      | _ =>
        match restoreFault s t with
        | some e =>
          if e.cause = .uncorrectableConsumed then
            let s1 := (saveInPlace s (some t.info.slot) idled).count 2 1
            enter { s1 with core := { s1.core with tasks := dropTask s1.core.tasks t.info.slot } }
              { t.info with due := some (e.cause, e.sub, e.addr) } t.ctx none
          else pickLoop idled fuel (endSuspended s t e.cause e.sub e.addr)
        | none =>
          let s1 := ((saveInPlace s (some t.info.slot) idled).count 2 1).count 4 1
          enter { s1 with core := { s1.core with tasks := dropTask s1.core.tasks t.info.slot } } t.info t.ctx t.wait

/-- The core picks (R48). With no candidate it stays idle, a waiting task's registers in place (R46). -/
def State.pick (s : State) : State := pickLoop false 65 s

/-- The running task leaves the register file as Waiting or Ready; its record stays in place until another task is picked
(R44, R46). Reservations end (R275). A routine of the service context goes on (R30). -/
def leave (s : State) (t : TaskInfo) (phase : Phase) (w : Option Wait) (bytes : Nat) : State :=
  let s1 := returnCopy s
  { s1 with core := { s1.core with
      run := .idle
      resv := if s1.core.service.isSome then s1.core.resv else []
      tasks := s1.core.tasks ++ [{ info := { t with susp := s1.cyc }, ctx := s1.heldCtx, phase := phase, place := .registers,
                                   wait := w, ready := false, bytes := bytes, stamp := 0, spoiled := false }] } }

/-- Suspend the running task and pick; under a routine the core picks when that ends. -/
def suspendAndPick (s : State) (t : TaskInfo) (phase : Phase) (w : Option Wait) (bytes : Nat) : State :=
  let s1 := leave s t phase w bytes
  if s1.core.service.isSome then s1 else s1.pick

/-- The running task's entry goes away with everything that names it; the core does not pick yet (R308, R391). -/
def removeRunning (s : State) (t : TaskInfo) : State :=
  let s1 := dropWaiters (returnCopy s) s.cur t.slot
  let lines := linesOfMask s.cur s.ctx.bwmask
  let s2 := { s1 with core := forgetTask { s1.core with run := .idle, resv := [] } t.serial t.tid,
                      ctx := { s1.ctx with wells := Vector.replicate 8 none } }
  leaveLines s2 t.serial t.tid lines

end Sys2Proof.Machine
end

