-- ==== Sys2Proof/Machine/Ops.lean ====
section
/-! DEFINITION. The named operations every meaning uses: registers, completion, taking a cause (R387-R392) and the
return from a handler (R145, R390), the service context (R30, R31), gangs disbanding (R71), parking (R327). -/

namespace Sys2Proof.Machine

abbrev Out := Host.Outcome State Fault Refusal

/-! ### Registers of the executing context -/

/-- Scalar register (R107). -/
def State.x (s : State) (r : BitVec 5) : Word := s.ctx.getS r
/-- Write a scalar register; s0 discards (R75). -/
def State.setX (s : State) (r : BitVec 5) (v : Word) : State := { s with ctx := s.ctx.setS r v }

/-- Vector register as it reads: zero while its zero-valid bit is set (R108). -/
def Ctx.getV (c : Ctx) (n : Nat) : VReg := if c.vdmap.getLsbD n then c.v[n]?.getD 0 else 0
/-- Write a vector register and its VDMAP bit (R108, R113). -/
def Ctx.setV (c : Ctx) (n : Nat) (v : VReg) : Ctx :=
  { c with v := c.v.setIfInBounds n v, vdmap := c.vdmap ||| BitVec.ofNat 64 (2 ^ n) }
/-- Predicate register; p0 reads all-true (R107). -/
def Ctx.getP (c : Ctx) (n : Nat) : PReg := if n = 0 then BitVec.allOnes 1024 else c.p[n]?.getD 0
/-- Write a predicate register; p0 is never a destination (R75). -/
def Ctx.setP (c : Ctx) (n : Nat) (v : PReg) : Ctx := if n = 0 then c else { c with p := c.p.setIfInBounds n v }
/-- Operand-extension register (R82). -/
def Ctx.getOx (c : Ctx) (n : Nat) : Word := c.ox[n]?.getD 0
/-- Write an operand-extension register. -/
def Ctx.setOx (c : Ctx) (n : Nat) (v : Word) : Ctx := { c with ox := c.ox.setIfInBounds n v }

/-- Whether a service routine runs (R30). -/
def State.inService (s : State) : Bool := s.core.service.isSome

/-- Privileged mode of what runs (R124). -/
def State.privileged (s : State) : Bool := s.partMode.2

/-- Partition of what runs (R401). -/
def State.part (s : State) : Nat := s.partMode.1

/-! ### Completion -/

/-- The pc moves past the instruction (R72). -/
def State.advance (s : State) (size : Nat) : State := { s with ctx := { s.ctx with pc := s.ctx.pc + BitVec.ofNat 64 size } }

/-- A request an instruction makes and waits for: nothing else issues on the core until the answer is there
(R148, R312, R358). -/
def State.ask (s : State) (e : Event) (k : Word → State → Out) : Out :=
  match s.core.answer with
  | some v => k v { s with core := { s.core with answer := none, asked := false } }
  | none =>
    if s.core.asked then .next s
    else .next { s with core := { s.core with asked := true }, pending := s.pending ++ [e] }

/-- An instruction completes and the pc moves past it. -/
def complete (size beats : Nat) (s : State) : Out := .next ((s.advance size).retire beats)

/-- Nothing happens yet: the instruction executes again at the core's next turn. -/
def waitHere (s : State) : Out := .next s

/-- The running task's place in a gang; a routine has none. -/
def State.gang (s : State) : Gang :=
  if s.inService then .none else match s.core.run.task with | some t => t.gang | none => .none

/-- The instruction of its leader's stream that a follower, or one that was, executes next (R29, R184). -/
def State.headStep (s : State) : Option GangStep :=
  match s.gang with
  | .follower _ _ _ _ (st :: _) => some st
  | .parting (st :: _) => some st
  | _ => none

/-- The gang of the task a core runs disbands. -/
def disband (s : State) (c own other : Nat) : State :=
  match (s.coreOf c).run.task with
  | some t => disbandTask s c t own other
  | none => s

/-- Causes the launch handler takes (R387). -/
def Cause.toHandler : Cause → Bool
  | .copyOnWrite | .staleBlock | .promiseMissed | .barrierTimeout | .awaitTimeout | .matrixCheck => true
  | _ => false

/-! ### The service context (R30, R31, R279) -/

/-- The register set a routine starts with: s1 to s7 from the block, every other register zero, PC at ENTRY. -/
def routineCtx (r : Routine) : Ctx :=
  let w (k : Nat) : Word := r.block[k]?.getD 0
  { Ctx.clear with
    pc := w 0
    s := #v[0, w 1, w 2, w 3, w 4, w 5, w 6, w 7, 0, 0, 0, 0, 0, 0, 0, 0, 0, 0, 0, 0, 0, 0, 0, 0, 0, 0, 0, 0, 0, 0, 0, 0] }

/-- The next waiting routine takes the service context when it is idle and the core is not stopped. -/
def startRoutine (s : State) : State :=
  match s.core.service, s.core.containing, s.core.asked, s.core.routines with
  | none, none, false, r :: rest =>
    { s with
      ctx := routineCtx r
      lc := LaunchCopy.clear
      core := { s.core with routines := rest, service := some ⟨r, s.cyc, s.ctx, s.lc, none⟩ }
      pending := s.pending ++ [Event.serviceRoutineTimeout s.cur] }
  | _, _, _, _ => s

/-- An idle core picks, once no routine holds its register file. -/
def pickIfIdle (s : State) : State :=
  match s.core.run, s.core.service, s.core.containing with
  | .idle, none, none => pickLoop true 65 s
  | _, _, _ => s

/-- The reply of a routine, if it has one, is on its way to its issuer (R279), with the clock of its die (R244). -/
def replyRoutine (s : State) (r : Routine) (err : Nat) : State :=
  match r.seq with
  | some q => s.sendStamped (dieOf s.cur) (dieOf r.issuer) (some (Event.delegationReply r.issuer q err))
  | none => s

/-- The service context is left: the routine's accesses are done and visible (R248), the interrupted task gets its registers back,
its quantum has not run (R49), and the reply is on its way (R30, R31). -/
def leaveService (s0 : State) (err : Nat) : State :=
  match s0.core.service with
  | none => s0
  | some v =>
    let s := s0.publish
    let s1 := { s with
      ctx := v.heldCtx
      lc := v.heldCopy
      core := { discardResults s.core 0 0 with service := none, qstart := s.core.qstart + (s.cyc - v.start) }
      pending := s.pending.filter (fun e => e ≠ Event.serviceRoutineTimeout s.cur) }
    replyRoutine s1 v.routine err

/-- The routine ends; the next one starts at a boundary, where a pre-emption and a quantum that is over come first (R400). -/
def endRoutine (s : State) (err : Nat) : State := if s.core.service.isSome then pickIfIdle (leaveService s err) else s

/-- The error record of a routine that ends early (R31). -/
def reportRoutine (s : State) (v : Service) (code sub : Nat) (nested : Bool) (addr : Word) : State :=
  report s { code := code, sub := sub, source := 9, nested := nested, core := s.cur, part := v.routine.part, epc := s.ctx.pc, eaddr := addr }

/-- A service routine ends early: an error record with SOURCE 9 and the reply with error status (R31). -/
def failRoutine (s : State) (e : Exc) : State :=
  match s.core.service with
  | none => s
  | some v => endRoutine (reportRoutine s v e.cause.code e.sub e.cause.toHandler e.addr) (e.cause.code + e.sub % 65536 * 256)

/-- A routine ends by its own transfer to address 0: what it has under way is published first, and what a target refused ends it
early (R31, R230). -/
def closeRoutine (s : State) : State :=
  let s1 := s.publish
  match s1.core.service.bind (fun v => v.due) with
  | some d => failRoutine s1 { cause := d.1, sub := d.2.1, addr := d.2.2 }
  | none => endRoutine s1 0

/-- Messages that wait for the service context of a core that stops are refused as a sealed core refuses them (R279, R392). -/
def refuseRoutines (s : State) : State :=
  s.core.routines.foldl (fun s r => match r.seq with
    | some _ => replyRoutine s r (Cause.protection.code + 8 * 256)
    | none => report s { code := Cause.protection.code, sub := 8, source := 9, core := s.cur, part := r.part, epc := r.block.headD 0 })
    { s with core := { s.core with routines := [] } }

/-- The service context of a core that stops: its routine ends early. -/
def stopService (s : State) (code sub : Nat) (addr : Word) : State :=
  refuseRoutines (match s.core.service with
    | some v => leaveService (reportRoutine s v code sub false addr) (code % 256 + sub % 65536 * 256)
    | none => s)

/-! ### Control transfer -/

/-- A control transfer; in the service context a transfer to address 0 ends the routine (R279). -/
def State.jump (s : State) (target : Word) : State :=
  if s.inService ∧ target = 0 then closeRoutine s else { s with ctx := { s.ctx with pc := target } }

/-! ### Taking a cause -/

/-- Causes that contain the core (R387). -/
def Cause.contains : Cause → Bool
  | .shadowMismatch | .uncorrectableConsumed => true
  | _ => false

/-- The kind 2 token of a local cell (R366). -/
def cellToken (va : Nat) : Word := BitVec.ofNat 64 (va / 16 % 2 ^ 48 + 0xFFF * 2 ^ 48 + 2 * 2 ^ 60)
/-- The kind 11 token of a local cell (R366). -/
def faultToken (va : Nat) : Word := BitVec.ofNat 64 (va / 16 % 2 ^ 48 + 0xFFF * 2 ^ 48 + 11 * 2 ^ 60)

/-- Write a cell's granule as an initialisation does (R373, R383): COUNT 0, the target, GEN + 1, ERR 0, its object bit. -/
def initCell (s : State) (pa target : Nat) : State :=
  let gen := physLe s (pa + 8) 2
  let s1 := homeWrite s pa (natBytes 4 0 ++ natBytes 4 target ++ natBytes 2 ((gen + 1) % 65536) ++ natBytes 6 0)
  { s1 with objects := setAdd s1.objects (pa / 16), podSignals := setDrop s1.podSignals (pa / 16) }

/-- A resolution cell is made ready: count 0, target 1 (R327). The write marks its page (R320). -/
def initFaultCell (s : State) (part va pa : Nat) : State := initCell (s.touch part va Need.queue true) pa 1

/-- A fault record (R328). -/
def faultRecord (e : Exc) (celltok : Word) (lid tid core part : Nat) (engine : Bool) (pctok : Word) : List Word :=
  let hi := lid % 65536 + tid % 2 ^ 32 * 2 ^ 16 + colOf core * 2 ^ 48 + rowOf core * 2 ^ 52 + dieOf core * 2 ^ 56
    + (if engine then 2 ^ 59 else 0) + part % 64 * 2 ^ 60
  [BitVec.ofNat 64 (bits e.addr 51 0 + e.kind % 16 * 2 ^ 52 + e.sub % 256 * 2 ^ 56), celltok,
    BitVec.ofNat 64 hi, BitVec.ofNat 64 (hi / 2 ^ 64), pctok, e.pte, BitVec.ofNat 64 (e.level % 8), 0]

/-- Physical address of a resolution cell of the partition's fault-cell array, if the device can initialise it (R327). -/
def faultCell (s : State) (part index : Nat) : Option (Nat × Nat) :=
  let base := partWord s part 13
  if base = 0 then none
  else
    let va := base + BitVec.ofNat 64 (16 * index)
    match translate s part true va Need.queue with
    | .ok (.phys pa _) => if spaceOf pa = .control then none else some (va.toNat, pa)
    | _ => none

/-- Home of an object: an L2 slice or the durable-tier controller. -/
def homeSlice (pa : Nat) : Nat := match spaceOf pa with | .durable => 256 | _ => 32 * homeDie pa + sliceOf pa

/-- Register a waiter entry (R372), at the back of its list or at the front. -/
def addWaiter (s : State) (w : Waiter) (front : Bool) : State :=
  { s with waiters := if front then w :: s.waiters else s.waiters ++ [w] }

/-- Whether the waiter table of an object's home is full: 2,048 entries (R294, R372). -/
def tableFull (s : State) (pa : Nat) : Bool :=
  decide (2048 ≤ (s.waiters.filter (fun w => w.home = homeSlice pa)).length)

/-- A wait that registers nowhere: its instruction executes again. -/
def Wait.unregistered (w : Wait) : Wait := { w with kind := .tableFull }

/-- The running task is suspended to wait on an object: registered there, or, with the table full, made Ready again after
4,096 cycles (R294, R372). -/
def waitOn (s : State) (t : TaskInfo) (w : Wait) (on_ : WaiterOn) (pa : Nat) (front : Bool) : State :=
  if tableFull s pa then
    suspendAndPick { s with pending := s.pending ++ [Event.waiterTableRetry s.cur t.slot] } t .waiting
      (some w.unregistered) w.bytes
  else suspendAndPick (addWaiter s ⟨on_, t.part, s.cur, t.slot, homeSlice pa, some pa⟩ front) t .waiting (some w) w.bytes

/-- Park the running task on a missing page (R327). None when the cell cannot be initialised. -/
def parkOnPage (s : State) (t : TaskInfo) (e : Exc) : Option State :=
  match faultCell s t.part (s.cur * 64 + t.slot) with
  | none => none
  | some (va, pa) =>
    let s1 := initFaultCell s t.part va pa
    let lid := match s.launchOf t.serial with | some l => l.lid.toNat | none => 0
    let s2 := produceRecord s1 t.part 5 s.cur (faultRecord e (cellToken va) lid t.tid s.cur t.part false s.ctx.pc)
    let tok := faultToken va
    let w : Wait := { kind := .pageFault, reg := 0, size := 0, code := [], tokens := [tok], t0 := s.cyc, since := s.cyc, which := 0, err := none, timedOut := false, isOver := false, till := 0, retry := s.cyc + 4096, bytes := fullRecordBytes s.ctx }
    some (waitOn s2 t w (.token tok) pa false)

/-- The supervisor ends the task (R391): its stores drain, its entries go, its record is written with SOURCE 0. -/
def endBySupervisor (s : State) (t : TaskInfo) (e : Exc) (nested : Bool) : State :=
  let epc := s.ctx.pc
  let s1 := removeRunning s t
  let s2 := report s1 { taskErr s1 s.cur t e.cause.code e.sub 0 with nested := nested, epc := epc, eaddr := e.addr }
  (sendEnd (markDamaged s2 t.serial t.tid) t.serial t.tid).pick

/-- Tasks of a core as (serial, TID): the running one first. -/
def tasksOf (k : Core) : List (Nat × Nat) :=
  (match k.run.task with | some t => [(t.serial, t.tid)] | none => [])
    ++ k.tasks.map (fun t => (t.info.serial, t.info.tid)) ++ k.created.map (fun c => (c.serial, c.tid))

/-- One error record of a containment (R392 step 4). -/
def containRecord (s : State) (core : Nat) (key : Nat × Nat) (code sub source drain : Nat) (epc addr : Word) : State :=
  let l := s.launchOf key.1
  report s { code := code, sub := sub, source := source, contained := true,
             lid := match l with | some l => l.lid.toNat | none => 0, tid := key.2, core := core,
             part := match l with | some l => l.part | none => 0, epc := epc, eaddr := addr,
             tag := match l with | some l => l.tag | none => 0, drain := drain }

/-- Events of a core that its containment ends. -/
def endsWithCore (core : Nat) (e : Event) : Bool :=
  match e with
  | .stallPromisePassed c => decide (c = core)
  | .backgroundRestoreDone c => decide (c = core)
  | .gangOperandMessage c _ => decide (c = core)
  | .mobileRecord c _ _ => decide (c = core)
  | _ => false

/-- The core after steps 1 to 3 of R392: nothing of its tasks is left on it. -/
def Core.stopped (k : Core) (keys : List (Nat × Nat)) (c : Containment) : Core :=
  let k1 := keys.foldl (fun k key => discardResults k key.1 key.2) k
  { k1 with run := .idle, tasks := [], created := [], copies := [], resv := [], vamos := [], ring := [],
            restoring := none, asked := false, answer := none, closed := true, containing := some c, late := [], requant := none, failed := [] }

/-- Containment of the executing core, steps 1 to 4 of R392; `own` says that its task raised the cause.
Whether the built-in test at the end of the scrub passes is a free value (log entry 11). -/
def contain (s : State) (code sub : Nat) (addr : Word) (own : Bool) : State :=
  let epc := s.ctx.pc
  let n := s.core.sbuf.length
  let s0 := stopService s code sub addr
  let started := (match s0.core.run.task with | some t => [t] | none => []) ++ s0.core.tasks.map (fun u => u.info)
  let s1 := returnCopy (started.foldl (fun s t => disbandTask s s.cur t 4 4) s0)
  let s2 := s1.drain
  let keys := tasksOf s2.core
  let slots := (match s2.core.run.task with | some t => [t.slot] | none => []) ++ s2.core.tasks.map (fun t => t.info.slot)
  let lines := (enrolledOf s.cur s2.core s2.ctx).map (fun e => e.1)
  let s3 := slots.foldl (fun s k => dropWaiters s s.cur k) s2
  let restart (key : Nat × Nat) : Bool := match s3.launchOf key.1 with | some l => l.restart | none => false
  let held : Containment := { start := s3.cyc, tasks := keys.map (fun k => (k.1, k.2, restart k)), drained := n, code := code, sub := sub, mapping := none }
  let s4 := { s3 with core := s3.core.stopped keys held, pending := s3.pending.filter (fun e => !endsWithCore s.cur e) }
  let s5 := endEnrolment { s4 with lines := s4.lines.map (fun l => { l with arrived := l.arrived.filter (fun a => !keys.contains a.1) }) } lines
  let s6 := match keys with
    | [] => s5
    | k :: ks =>
      let first := if own then containRecord s5 s.cur k code sub 0 n epc addr else containRecord s5 s.cur k code sub 8 n 0 0
      ks.foldl (fun s k => containRecord s s.cur k code sub 8 n 0 0) first
  { s6 with pending := s6.pending ++ [Event.containmentScrub s.cur ((Config.openValue 16 s6.free).getLsbD 0)] }.fresh

/-- Entry into the launch handler (R389). -/
def enterHandler (s : State) (e : Exc) : State :=
  { s with ctx := { s.ctx with
      epc := s.ctx.pc
      ecause := BitVec.ofNat 24 (e.sub % 65536 * 256 + e.cause.code)
      eaddr := e.addr
      inHandler := true
      pc := s.lc.ehandler } }

/-- Poison consumed counts on the die (R384); the failed path check of a load's own data counts and is logged too (R397). -/
def countConsumed (s : State) (e : Exc) : State :=
  if e.cause = .uncorrectableConsumed ∧ e.sub ≤ 1 then
    let s1 := match s.strike .loadPath with
      | some x => if e.sub = 1 then pathFailed (s.met x) (dieOf s.cur) s.part s.cur e.addr else s
      | none => s
    countError s1 (dieOf s.cur) 0x18
  else s

/-- TAKING A CAUSE, by its route (R387, R388): the state holds what the instruction has committed. A trap disbands the task's
gang (R71); parking on a page is none (R388). -/
def takeCause (s : State) (e : Exc) : State :=
  if e.cause.contains then contain (countConsumed s e) e.cause.code e.sub e.addr (!s.inService)
  else if s.inService then failRoutine s e
  else
    match s.core.run.task with
    | none => s
    | some t =>
      if e.cause = .translationNotPresent ∧ e.sub = 0 then
        match parkOnPage s t e with
        | some s2 => s2
        | none => endBySupervisor (disband s s.cur 2 3) t e false
      else
        let s1 := disband s s.cur 2 3
        if e.cause.toHandler ∧ s1.lc.ehandler ≠ 0 ∧ s1.ctx.inHandler = false then enterHandler s1 e
        else endBySupervisor s1 t e e.cause.toHandler

/-- An instruction ends with a cause. -/
def raise (s : State) (e : Exc) : Out := .next (takeCause s e)

/-- Illegal instruction: EADDR holds the word (R83). -/
def illegal (word : Nat) (s : State) : Out :=
  raise s { cause := .illegalInstruction, sub := 0, addr := BitVec.ofNat 64 word }

/-- A cause with sub-code and address. -/
def exc (c : Cause) (sub : Nat) (addr : Word) : Exc := { cause := c, sub := sub, addr := addr }

/-- An access generates its address twice, and issues where the two agree (R17, R258). -/
def addressOk (s : State) (k : Out) : Out :=
  match s.strike .address with
  | some x => raise (s.met x) (exc .shadowMismatch 1 0)
  | none => k

/-- THE RETURN FROM A HANDLER (R145, R390): legal only inside the task's handler. -/
def returnFromHandler (s : State) : State :=
  { s with ctx := { s.ctx with inHandler := false, pc := s.ctx.epc } }

/-- Continue with a checked value, or take the cause met. -/
def withRes {α : Type} (s : State) (r : Res α) (k : α → Out) : Out :=
  match r with
  | .ok a => k a
  | .error e => raise s e

end Sys2Proof.Machine
end

