-- ==== Sys2Proof/Syntax.lean ====
section
/-! DEFINITION. The instruction set: one constructor per row of spec/opcode_table.json.
Field letters are those of the table (d destination, a and b sources, i immediate, p predicate, n its
complement bit, ...). The first 345 rows have an encoding; the last 86 are the machine events the table lists,
whose operands name the agent, the entry or the message concerned. -/

namespace Sys2Proof

/-- One constructor per row of the opcode table (R77, R79 and the event rows). -/
inductive Instr where
  /-- R127. Scalar add of s1 and s2 into sd, wrapping modulo 2^64. -/
  | add (d : BitVec 5) (a : BitVec 5) (b : BitVec 5)
  /-- R127. Scalar subtract s2 from s1 into sd. -/
  | sub (d : BitVec 5) (a : BitVec 5) (b : BitVec 5)
  /-- R127. Bitwise AND of s1 and s2 into sd. -/
  | and (d : BitVec 5) (a : BitVec 5) (b : BitVec 5)
  /-- R127. Bitwise OR of s1 and s2 into sd. -/
  | or (d : BitVec 5) (a : BitVec 5) (b : BitVec 5)
  /-- R127. Bitwise XOR of s1 and s2 into sd. -/
  | xor (d : BitVec 5) (a : BitVec 5) (b : BitVec 5)
  /-- R127. s1 AND NOT s2 into sd. -/
  | andn (d : BitVec 5) (a : BitVec 5) (b : BitVec 5)
  /-- R127. Shift s1 left by s2[5:0]. -/
  | shl (d : BitVec 5) (a : BitVec 5) (b : BitVec 5)
  /-- R127. Logical shift right of s1 by s2[5:0]. -/
  | shr (d : BitVec 5) (a : BitVec 5) (b : BitVec 5)
  /-- R127. Arithmetic shift right of s1 by s2[5:0]. -/
  | sar (d : BitVec 5) (a : BitVec 5) (b : BitVec 5)
  /-- R127. Rotate s1 left by s2[5:0]. -/
  | rol (d : BitVec 5) (a : BitVec 5) (b : BitVec 5)
  /-- R127. Signed minimum of s1 and s2. -/
  | min (d : BitVec 5) (a : BitVec 5) (b : BitVec 5)
  /-- R127. Signed maximum of s1 and s2. -/
  | max (d : BitVec 5) (a : BitVec 5) (b : BitVec 5)
  /-- R127. Unsigned minimum of s1 and s2. -/
  | minN (d : BitVec 5) (a : BitVec 5) (b : BitVec 5)
  /-- R127. Unsigned maximum of s1 and s2. -/
  | maxN (d : BitVec 5) (a : BitVec 5) (b : BitVec 5)
  /-- R127. Set sd to 1 if s1 < s2 signed. -/
  | slt (d : BitVec 5) (a : BitVec 5) (b : BitVec 5)
  /-- R127. Set sd to 1 if s1 < s2 unsigned. -/
  | sltN (d : BitVec 5) (a : BitVec 5) (b : BitVec 5)
  /-- R127. Set sd to 1 if s1 equals s2. -/
  | seq (d : BitVec 5) (a : BitVec 5) (b : BitVec 5)
  /-- R127. Low 64 bits of the signed product. -/
  | mul (d : BitVec 5) (a : BitVec 5) (b : BitVec 5)
  /-- R127. High 64 bits of the signed product. -/
  | mulh (d : BitVec 5) (a : BitVec 5) (b : BitVec 5)
  /-- R127. High 64 bits of the unsigned product. -/
  | mulhN (d : BitVec 5) (a : BitVec 5) (b : BitVec 5)
  /-- R127. Signed division under R91. -/
  | div (d : BitVec 5) (a : BitVec 5) (b : BitVec 5)
  /-- R127. Unsigned division under R91. -/
  | divN (d : BitVec 5) (a : BitVec 5) (b : BitVec 5)
  /-- R127. Signed remainder under R91. -/
  | rem (d : BitVec 5) (a : BitVec 5) (b : BitVec 5)
  /-- R127. Unsigned remainder under R91. -/
  | remN (d : BitVec 5) (a : BitVec 5) (b : BitVec 5)
  /-- R127. Count leading zero bits of s1. -/
  | clz (d : BitVec 5) (a : BitVec 5)
  /-- R127. Count trailing zero bits of s1. -/
  | ctz (d : BitVec 5) (a : BitVec 5)
  /-- R127. Count one bits of s1. -/
  | popc (d : BitVec 5) (a : BitVec 5)
  /-- R128. Add sign-extended imm14 to s1. -/
  | addi (d : BitVec 5) (a : BitVec 5) (i : BitVec 14)
  /-- R128. AND s1 with sign-extended imm14. -/
  | andi (d : BitVec 5) (a : BitVec 5) (i : BitVec 14)
  /-- R128. OR s1 with sign-extended imm14. -/
  | ori (d : BitVec 5) (a : BitVec 5) (i : BitVec 14)
  /-- R128. XOR s1 with sign-extended imm14. -/
  | xori (d : BitVec 5) (a : BitVec 5) (i : BitVec 14)
  /-- R128. Shift s1 left by an immediate amount. -/
  | shli (d : BitVec 5) (a : BitVec 5) (i : BitVec 6)
  /-- R128. Logical shift right by an immediate amount. -/
  | shri (d : BitVec 5) (a : BitVec 5) (i : BitVec 6)
  /-- R128. Arithmetic shift right by an immediate amount. -/
  | sari (d : BitVec 5) (a : BitVec 5) (i : BitVec 6)
  /-- R128. Set sd to 1 if s1 < imm14 signed. -/
  | slti (d : BitVec 5) (a : BitVec 5) (i : BitVec 14)
  /-- R129. Load sign-extended imm19 into sd. -/
  | li (d : BitVec 5) (i : BitVec 19)
  /-- R130. Shift sd left 16 and insert a 16-bit immediate. -/
  | lih (d : BitVec 5) (i : BitVec 16)
  /-- R131. Extract a bit field of s1, zero- or sign-extended. -/
  | ext (d : BitVec 5) (a : BitVec 5) (x : BitVec 1) (l : BitVec 6) (p : BitVec 6)
  /-- R131. Insert low bits of s1 into a field of sd. -/
  | ins (d : BitVec 5) (a : BitVec 5) (l : BitVec 6) (p : BitVec 6)
  /-- R132. Build a relative place address from an offset and core deltas. -/
  | mkpl (d : BitVec 5) (a : BitVec 5) (e : BitVec 3) (y : BitVec 5) (x : BitVec 5)
  /-- R132. Build an absolute place address from an offset and a core. -/
  | mkplAbs (d : BitVec 5) (a : BitVec 5) (e : BitVec 3) (y : BitVec 5) (x : BitVec 5)
  /-- R133. Read a CSR into sd. -/
  | csrr (d : BitVec 5) (c : BitVec 12)
  /-- R133. Write s1 to a CSR and return the old value, with per-register adjustments of R134. -/
  | csrw (d : BitVec 5) (a : BitVec 5) (c : BitVec 12)
  /-- R133. Set CSR bits named in s1 and return the old value. -/
  | csrs (d : BitVec 5) (a : BitVec 5) (c : BitVec 12)
  /-- R133. Clear CSR bits named in s1 and return the old value. -/
  | csrc (d : BitVec 5) (a : BitVec 5) (c : BitVec 12)
  /-- R137. Load K doublewords into consecutive operand-extension registers. -/
  | oxl (n : BitVec 5) (a : BitVec 5) (b : BitVec 5) (k : BitVec 3)
  /-- R136. Move a scalar into an operand-extension register. -/
  | oxm (n : BitVec 5) (a : BitVec 5)
  /-- R136. Read an operand-extension register into a scalar. -/
  | oxr (d : BitVec 5) (n : BitVec 5)
  /-- R138. Unconditional relative branch. -/
  | b (o : BitVec 24)
  /-- R138. Relative call writing the return address to s31. -/
  | call (o : BitVec 24)
  /-- R139. Jump to s1 plus offset, linking into sd; a jump to 0 ends a service routine. -/
  | jr (d : BitVec 5) (a : BitVec 5) (i : BitVec 14)
  /-- R140. Branch if s1 equals s2. -/
  | beq (a : BitVec 5) (b : BitVec 5) (o : BitVec 14)
  /-- R140. Branch if s1 differs from s2. -/
  | bne (a : BitVec 5) (b : BitVec 5) (o : BitVec 14)
  /-- R140. Branch if s1 < s2 signed. -/
  | blt (a : BitVec 5) (b : BitVec 5) (o : BitVec 14)
  /-- R140. Branch if s1 >= s2 signed. -/
  | bge (a : BitVec 5) (b : BitVec 5) (o : BitVec 14)
  /-- R140. Branch if s1 < s2 unsigned. -/
  | bltN (a : BitVec 5) (b : BitVec 5) (o : BitVec 14)
  /-- R140. Branch if s1 >= s2 unsigned. -/
  | bgeN (a : BitVec 5) (b : BitVec 5) (o : BitVec 14)
  /-- R141. Branch if any predicate bit below VL is set. -/
  | bpAny (p : BitVec 5) (o : BitVec 17)
  /-- R141. Branch if no predicate bit below VL is set. -/
  | bpNone (p : BitVec 5) (o : BitVec 17)
  /-- R141. Branch if every predicate bit below VL is set. -/
  | bpAll (p : BitVec 5) (o : BitVec 17)
  /-- R141. Branch if some predicate bit below VL is clear. -/
  | bpNall (p : BitVec 5) (o : BitVec 17)
  /-- R143. Does nothing for one cycle. -/
  | nop
  /-- R144. Raise Illegal instruction with sub-code 0x8000 plus s1[14:0]. -/
  | trap (a : BitVec 5)
  /-- R145. Leave the launch handler and resume at EPC from VSTART. -/
  | eret
  /-- R146. Drain stores and discard fetched instruction words. -/
  | fenceI
  /-- R147. Seal a core of the own die against inbound traffic and report status. -/
  | seal (d : BitVec 5) (a : BitVec 5)
  /-- R147. Unseal a core of the own die and report status. -/
  | unseal (d : BitVec 5) (a : BitVec 5)
  /-- R148. Ask Sluice to restart a task ended by containment on a named core. -/
  | trestart (d : BitVec 5) (a : BitVec 5) (b : BitVec 5)
  /-- R149. Record Debug freeze and stop every clock of the package. -/
  | dbgfreeze
  /-- R79. Compressed move, equal to or sa, sb, s0. -/
  | cMov (a : BitVec 5) (b : BitVec 5)
  /-- R79. Compressed add sa, sa, sb. -/
  | cAdd (a : BitVec 5) (b : BitVec 5)
  /-- R79. Compressed sub sa, sa, sb. -/
  | cSub (a : BitVec 5) (b : BitVec 5)
  /-- R79. Compressed and sa, sa, sb. -/
  | cAnd (a : BitVec 5) (b : BitVec 5)
  /-- R79. Compressed addi with a 5-bit signed immediate. -/
  | cAddi (a : BitVec 5) (i : BitVec 5)
  /-- R79. Compressed li with a 5-bit signed immediate. -/
  | cLi (a : BitVec 5) (i : BitVec 5)
  /-- R79. Compressed shli by 0 to 31. -/
  | cShli (a : BitVec 5) (i : BitVec 5)
  /-- R79. Compressed ld.i64 sa, [sb]. -/
  | cLd (a : BitVec 5) (b : BitVec 5)
  /-- R79. Compressed st.i64 sa, [sb]. -/
  | cSt (a : BitVec 5) (b : BitVec 5)
  /-- R79. Compressed branch with a 10-bit halfword offset. -/
  | cB (o : BitVec 10)
  /-- R79. Compressed branch if sa is zero. -/
  | cBeqz (a : BitVec 5) (i : BitVec 5)
  /-- R79. Compressed branch if sa is non-zero. -/
  | cBnez (a : BitVec 5) (i : BitVec 5)
  /-- R79. Compressed jr s31. -/
  | cRet
  /-- R79. Compressed await with live-mask index 0 to 15. -/
  | cAwait (a : BitVec 5) (i : BitVec 4)
  /-- R79. Compressed nop. -/
  | cNop
  /-- R79. Compressed or sa, sa, sb. -/
  | cOr (a : BitVec 5) (b : BitVec 5)
  /-- R79. Compressed xor sa, sa, sb. -/
  | cXor (a : BitVec 5) (b : BitVec 5)
  /-- R79. Compressed shri by 0 to 31. -/
  | cShri (a : BitVec 5) (i : BitVec 5)
  /-- R79. Compressed sari by 0 to 31. -/
  | cSari (a : BitVec 5) (i : BitVec 5)
  /-- R79. Compressed ld.n32 sa, [sb]. -/
  | cLdw (a : BitVec 5) (b : BitVec 5)
  /-- R79. Compressed st.n32 sa, [sb]. -/
  | cStw (a : BitVec 5) (b : BitVec 5)
  /-- R79. Compressed slt sa, sa, sb. -/
  | cSlt (a : BitVec 5) (b : BitVec 5)
  /-- R79. Compressed shl sa, sa, sb. -/
  | cShl (a : BitVec 5) (b : BitVec 5)
  /-- R79. Compressed shr sa, sa, sb. -/
  | cShr (a : BitVec 5) (b : BitVec 5)
  /-- R79. Compressed sub sa, s0, sb. -/
  | cNeg (a : BitVec 5) (b : BitVec 5)
  /-- R79. Compressed seq sa, sa, sb. -/
  | cSeq (a : BitVec 5) (b : BitVec 5)
  /-- R79. Compressed mul sa, sa, sb. -/
  | cMul (a : BitVec 5) (b : BitVec 5)
  /-- R79. Compressed yield. -/
  | cYield
  /-- R79. Compressed tend. -/
  | cTend
  /-- R79. Compressed min sa, sa, sb. -/
  | cMin (a : BitVec 5) (b : BitVec 5)
  /-- R79. Compressed max sa, sa, sb. -/
  | cMax (a : BitVec 5) (b : BitVec 5)
  /-- R158. Set VTY and choose VL from a requested count. -/
  | vset (d : BitVec 5) (a : BitVec 5) (f : BitVec 4) (g : BitVec 2) (s : BitVec 3)
  /-- R158. Set VTY keeping the current VL as request. -/
  | vsetKeep (d : BitVec 5) (f : BitVec 4) (g : BitVec 2) (s : BitVec 3)
  /-- R162. Elementwise integer add. -/
  | vadd (d : BitVec 6) (a : BitVec 6) (b : BitVec 6) (n : BitVec 1) (p : BitVec 5)
  /-- R162. Elementwise integer subtract. -/
  | vsub (d : BitVec 6) (a : BitVec 6) (b : BitVec 6) (n : BitVec 1) (p : BitVec 5)
  /-- R162. Elementwise integer multiply, low half. -/
  | vmul (d : BitVec 6) (a : BitVec 6) (b : BitVec 6) (n : BitVec 1) (p : BitVec 5)
  /-- R162. Elementwise integer multiply, high half. -/
  | vmulh (d : BitVec 6) (a : BitVec 6) (b : BitVec 6) (n : BitVec 1) (p : BitVec 5)
  /-- R162. Elementwise integer multiply-accumulate into vd. -/
  | vmacc (d : BitVec 6) (a : BitVec 6) (b : BitVec 6) (n : BitVec 1) (p : BitVec 5)
  /-- R162. Elementwise integer minimum. -/
  | vmin (d : BitVec 6) (a : BitVec 6) (b : BitVec 6) (n : BitVec 1) (p : BitVec 5)
  /-- R162. Elementwise integer maximum. -/
  | vmax (d : BitVec 6) (a : BitVec 6) (b : BitVec 6) (n : BitVec 1) (p : BitVec 5)
  /-- R162. Elementwise AND. -/
  | vand (d : BitVec 6) (a : BitVec 6) (b : BitVec 6) (n : BitVec 1) (p : BitVec 5)
  /-- R162. Elementwise OR. -/
  | vor (d : BitVec 6) (a : BitVec 6) (b : BitVec 6) (n : BitVec 1) (p : BitVec 5)
  /-- R162. Elementwise XOR. -/
  | vxor (d : BitVec 6) (a : BitVec 6) (b : BitVec 6) (n : BitVec 1) (p : BitVec 5)
  /-- R162. Elementwise shift left. -/
  | vshl (d : BitVec 6) (a : BitVec 6) (b : BitVec 6) (n : BitVec 1) (p : BitVec 5)
  /-- R162. Elementwise logical shift right. -/
  | vshr (d : BitVec 6) (a : BitVec 6) (b : BitVec 6) (n : BitVec 1) (p : BitVec 5)
  /-- R162. Elementwise arithmetic shift right. -/
  | vsar (d : BitVec 6) (a : BitVec 6) (b : BitVec 6) (n : BitVec 1) (p : BitVec 5)
  /-- R162. Elementwise saturating add. -/
  | vadds (d : BitVec 6) (a : BitVec 6) (b : BitVec 6) (n : BitVec 1) (p : BitVec 5)
  /-- R162. Elementwise saturating subtract. -/
  | vsubs (d : BitVec 6) (a : BitVec 6) (b : BitVec 6) (n : BitVec 1) (p : BitVec 5)
  /-- R163. Elementwise floating add, rounded once under FRM. -/
  | vfadd (d : BitVec 6) (a : BitVec 6) (b : BitVec 6) (n : BitVec 1) (p : BitVec 5)
  /-- R163. Elementwise floating subtract. -/
  | vfsub (d : BitVec 6) (a : BitVec 6) (b : BitVec 6) (n : BitVec 1) (p : BitVec 5)
  /-- R163. Elementwise floating multiply. -/
  | vfmul (d : BitVec 6) (a : BitVec 6) (b : BitVec 6) (n : BitVec 1) (p : BitVec 5)
  /-- R163. Fused a*b+d. -/
  | vfma (d : BitVec 6) (a : BitVec 6) (b : BitVec 6) (n : BitVec 1) (p : BitVec 5)
  /-- R163. Fused a*b-d. -/
  | vfms (d : BitVec 6) (a : BitVec 6) (b : BitVec 6) (n : BitVec 1) (p : BitVec 5)
  /-- R163. Fused -(a*b+d). -/
  | vfnma (d : BitVec 6) (a : BitVec 6) (b : BitVec 6) (n : BitVec 1) (p : BitVec 5)
  /-- R163. Elementwise floating minimum under R101. -/
  | vfmin (d : BitVec 6) (a : BitVec 6) (b : BitVec 6) (n : BitVec 1) (p : BitVec 5)
  /-- R163. Elementwise floating maximum under R101. -/
  | vfmax (d : BitVec 6) (a : BitVec 6) (b : BitVec 6) (n : BitVec 1) (p : BitVec 5)
  /-- R163. Elementwise floating divide. -/
  | vfdiv (d : BitVec 6) (a : BitVec 6) (b : BitVec 6) (n : BitVec 1) (p : BitVec 5)
  /-- R165. Copy elements bit for bit. -/
  | vmov (d : BitVec 6) (a : BitVec 6) (n : BitVec 1) (p : BitVec 5)
  /-- R165. Integer absolute value. -/
  | vabs (d : BitVec 6) (a : BitVec 6) (n : BitVec 1) (p : BitVec 5)
  /-- R165. Integer negate. -/
  | vneg (d : BitVec 6) (a : BitVec 6) (n : BitVec 1) (p : BitVec 5)
  /-- R165. Bitwise NOT. -/
  | vnot (d : BitVec 6) (a : BitVec 6) (n : BitVec 1) (p : BitVec 5)
  /-- R165. Count leading zeros per element. -/
  | vclz (d : BitVec 6) (a : BitVec 6) (n : BitVec 1) (p : BitVec 5)
  /-- R165. Count one bits per element. -/
  | vpopc (d : BitVec 6) (a : BitVec 6) (n : BitVec 1) (p : BitVec 5)
  /-- R165. Floating absolute value. -/
  | vfabs (d : BitVec 6) (a : BitVec 6) (n : BitVec 1) (p : BitVec 5)
  /-- R165. Floating negate. -/
  | vfneg (d : BitVec 6) (a : BitVec 6) (n : BitVec 1) (p : BitVec 5)
  /-- R165. Floating square root. -/
  | vfsqrt (d : BitVec 6) (a : BitVec 6) (n : BitVec 1) (p : BitVec 5)
  /-- R165. Floating reciprocal square root. -/
  | vfrsq (d : BitVec 6) (a : BitVec 6) (n : BitVec 1) (p : BitVec 5)
  /-- R165. Floating reciprocal. -/
  | vfrcp (d : BitVec 6) (a : BitVec 6) (n : BitVec 1) (p : BitVec 5)
  /-- R165. Floating 2^a. -/
  | vfexp2 (d : BitVec 6) (a : BitVec 6) (n : BitVec 1) (p : BitVec 5)
  /-- R165. Floating log2. -/
  | vflog2 (d : BitVec 6) (a : BitVec 6) (n : BitVec 1) (p : BitVec 5)
  /-- R165. Floating tanh. -/
  | vftanh (d : BitVec 6) (a : BitVec 6) (n : BitVec 1) (p : BitVec 5)
  /-- R165. One-hot class of each floating element. -/
  | vfclass (d : BitVec 6) (a : BitVec 6) (n : BitVec 1) (p : BitVec 5)
  /-- R168. Unpack low nibbles into bytes. -/
  | vunpk4Lo (d : BitVec 6) (a : BitVec 6) (n : BitVec 1) (p : BitVec 5)
  /-- R168. Unpack nibbles from VL onward into bytes. -/
  | vunpk4Hi (d : BitVec 6) (a : BitVec 6) (n : BitVec 1) (p : BitVec 5)
  /-- R168. Pack clamped bytes into nibbles. -/
  | vpack4 (d : BitVec 6) (a : BitVec 6) (n : BitVec 1) (p : BitVec 5)
  /-- R166. Convert from signed 8-bit into the VTY format. -/
  | vcvtI8 (d : BitVec 6) (a : BitVec 6) (n : BitVec 1) (p : BitVec 5)
  /-- R166. Convert from unsigned 8-bit. -/
  | vcvtN8 (d : BitVec 6) (a : BitVec 6) (n : BitVec 1) (p : BitVec 5)
  /-- R166. Convert from signed 16-bit. -/
  | vcvtI16 (d : BitVec 6) (a : BitVec 6) (n : BitVec 1) (p : BitVec 5)
  /-- R166. Convert from unsigned 16-bit. -/
  | vcvtN16 (d : BitVec 6) (a : BitVec 6) (n : BitVec 1) (p : BitVec 5)
  /-- R166. Convert from signed 32-bit. -/
  | vcvtI32 (d : BitVec 6) (a : BitVec 6) (n : BitVec 1) (p : BitVec 5)
  /-- R166. Convert from unsigned 32-bit. -/
  | vcvtN32 (d : BitVec 6) (a : BitVec 6) (n : BitVec 1) (p : BitVec 5)
  /-- R166. Convert from signed 64-bit. -/
  | vcvtI64 (d : BitVec 6) (a : BitVec 6) (n : BitVec 1) (p : BitVec 5)
  /-- R166. Convert from binary64. -/
  | vcvtF64 (d : BitVec 6) (a : BitVec 6) (n : BitVec 1) (p : BitVec 5)
  /-- R166. Convert from binary32. -/
  | vcvtF32 (d : BitVec 6) (a : BitVec 6) (n : BitVec 1) (p : BitVec 5)
  /-- R166. Convert from binary16. -/
  | vcvtF16 (d : BitVec 6) (a : BitVec 6) (n : BitVec 1) (p : BitVec 5)
  /-- R166. Convert from BF16. -/
  | vcvtBf16 (d : BitVec 6) (a : BitVec 6) (n : BitVec 1) (p : BitVec 5)
  /-- R166. Convert from E4M3. -/
  | vcvtE4m3 (d : BitVec 6) (a : BitVec 6) (n : BitVec 1) (p : BitVec 5)
  /-- R166. Convert from E5M2. -/
  | vcvtE5m2 (d : BitVec 6) (a : BitVec 6) (n : BitVec 1) (p : BitVec 5)
  /-- R166. Convert from E2M1. -/
  | vcvtE2m1 (d : BitVec 6) (a : BitVec 6) (n : BitVec 1) (p : BitVec 5)
  /-- R169. Integer compare equal into a predicate. -/
  | vcmpEq (d : BitVec 5) (a : BitVec 6) (b : BitVec 6) (p : BitVec 4)
  /-- R169. Integer compare not equal. -/
  | vcmpNe (d : BitVec 5) (a : BitVec 6) (b : BitVec 6) (p : BitVec 4)
  /-- R169. Integer compare less than. -/
  | vcmpLt (d : BitVec 5) (a : BitVec 6) (b : BitVec 6) (p : BitVec 4)
  /-- R169. Integer compare greater or equal. -/
  | vcmpGe (d : BitVec 5) (a : BitVec 6) (b : BitVec 6) (p : BitVec 4)
  /-- R169. Integer compare less or equal. -/
  | vcmpLe (d : BitVec 5) (a : BitVec 6) (b : BitVec 6) (p : BitVec 4)
  /-- R169. Integer compare greater than. -/
  | vcmpGt (d : BitVec 5) (a : BitVec 6) (b : BitVec 6) (p : BitVec 4)
  /-- R169. Floating compare equal. -/
  | vfcmpEq (d : BitVec 5) (a : BitVec 6) (b : BitVec 6) (p : BitVec 4)
  /-- R169. Floating compare not equal. -/
  | vfcmpNe (d : BitVec 5) (a : BitVec 6) (b : BitVec 6) (p : BitVec 4)
  /-- R169. Floating compare less than. -/
  | vfcmpLt (d : BitVec 5) (a : BitVec 6) (b : BitVec 6) (p : BitVec 4)
  /-- R169. Floating compare greater or equal. -/
  | vfcmpGe (d : BitVec 5) (a : BitVec 6) (b : BitVec 6) (p : BitVec 4)
  /-- R169. Floating compare less or equal. -/
  | vfcmpLe (d : BitVec 5) (a : BitVec 6) (b : BitVec 6) (p : BitVec 4)
  /-- R169. Floating compare greater than. -/
  | vfcmpGt (d : BitVec 5) (a : BitVec 6) (b : BitVec 6) (p : BitVec 4)
  /-- R169. Floating compare unordered. -/
  | vfcmpUno (d : BitVec 5) (a : BitVec 6) (b : BitVec 6) (p : BitVec 4)
  /-- R169. Floating compare ordered. -/
  | vfcmpOrd (d : BitVec 5) (a : BitVec 6) (b : BitVec 6) (p : BitVec 4)
  /-- R172. Select vs1 or vs2 per element by the predicate. -/
  | vmerge (d : BitVec 6) (a : BitVec 6) (b : BitVec 6) (n : BitVec 1) (p : BitVec 5)
  /-- R174. Slide elements up by a scalar count. -/
  | vslideup (d : BitVec 6) (a : BitVec 6) (s : BitVec 5) (n : BitVec 1) (p : BitVec 5)
  /-- R174. Rotate elements up by a scalar count. -/
  | vslideupRot (d : BitVec 6) (a : BitVec 6) (s : BitVec 5) (n : BitVec 1) (p : BitVec 5)
  /-- R174. Slide elements down by a scalar count. -/
  | vslidedn (d : BitVec 6) (a : BitVec 6) (s : BitVec 5) (n : BitVec 1) (p : BitVec 5)
  /-- R174. Rotate elements down by a scalar count. -/
  | vslidednRot (d : BitVec 6) (a : BitVec 6) (s : BitVec 5) (n : BitVec 1) (p : BitVec 5)
  /-- R173. Gather elements of vs1 at indices in vs2. -/
  | vgathr (d : BitVec 6) (a : BitVec 6) (b : BitVec 6) (n : BitVec 1) (p : BitVec 5)
  /-- R175. Pack selected elements to the front of vd. -/
  | vcompress (d : BitVec 6) (a : BitVec 6) (n : BitVec 1) (p : BitVec 5)
  /-- R175. Spread consecutive elements into active positions. -/
  | vexpand (d : BitVec 6) (a : BitVec 6) (n : BitVec 1) (p : BitVec 5)
  /-- R176. Broadcast a scalar to active elements. -/
  | vbcast (d : BitVec 6) (s : BitVec 5) (n : BitVec 1) (p : BitVec 5)
  /-- R176. Broadcast one element of vs1 to active elements. -/
  | vbcastE (d : BitVec 6) (a : BitVec 6) (s : BitVec 5) (n : BitVec 1) (p : BitVec 5)
  /-- R176. Extract one element into a scalar, zero-extended. -/
  | vextr (i : BitVec 5) (a : BitVec 6) (d : BitVec 5)
  /-- R176. Extract one element into a scalar, sign-extended. -/
  | vextrSx (i : BitVec 5) (a : BitVec 6) (d : BitVec 5)
  /-- R176. Insert a scalar into one element. -/
  | vins (d : BitVec 6) (i : BitVec 5) (s : BitVec 5) (n : BitVec 1) (p : BitVec 5)
  /-- R176. Insert a converted scalar into one element. -/
  | vinsCv (d : BitVec 6) (i : BitVec 5) (s : BitVec 5) (n : BitVec 1) (p : BitVec 5)
  /-- R177. Tree-fold integer sum into element 0 of vd. -/
  | vfoldSum (d : BitVec 6) (a : BitVec 6) (n : BitVec 1) (p : BitVec 5)
  /-- R177. Tree-fold integer minimum. -/
  | vfoldMin (d : BitVec 6) (a : BitVec 6) (n : BitVec 1) (p : BitVec 5)
  /-- R177. Tree-fold integer maximum. -/
  | vfoldMax (d : BitVec 6) (a : BitVec 6) (n : BitVec 1) (p : BitVec 5)
  /-- R177. Tree-fold AND. -/
  | vfoldAnd (d : BitVec 6) (a : BitVec 6) (n : BitVec 1) (p : BitVec 5)
  /-- R177. Tree-fold OR. -/
  | vfoldOr (d : BitVec 6) (a : BitVec 6) (n : BitVec 1) (p : BitVec 5)
  /-- R177. Tree-fold XOR. -/
  | vfoldXor (d : BitVec 6) (a : BitVec 6) (n : BitVec 1) (p : BitVec 5)
  /-- R177. Tree-fold floating sum, rounding each addition. -/
  | vfoldFsum (d : BitVec 6) (a : BitVec 6) (n : BitVec 1) (p : BitVec 5)
  /-- R177. Tree-fold floating minimum. -/
  | vfoldFmin (d : BitVec 6) (a : BitVec 6) (n : BitVec 1) (p : BitVec 5)
  /-- R177. Tree-fold floating maximum. -/
  | vfoldFmax (d : BitVec 6) (a : BitVec 6) (n : BitVec 1) (p : BitVec 5)
  /-- R178. Write each element's index. -/
  | vidx (d : BitVec 6) (n : BitVec 1) (p : BitVec 5)
  /-- R179. Step each element's generator state and write its draw. -/
  | vrand (d : BitVec 6) (n : BitVec 1) (p : BitVec 5)
  /-- R182. Add head slope times query-key distance, scalar key base. -/
  | vramp (d : BitVec 6) (s : BitVec 5) (n : BitVec 1) (p : BitVec 5)
  /-- R182. Causal distance ramp with scalar key base. -/
  | vrampC (d : BitVec 6) (s : BitVec 5) (n : BitVec 1) (p : BitVec 5)
  /-- R182. Distance ramp taking the key base from a well. -/
  | vrampW (d : BitVec 6) (wl : BitVec 5) (n : BitVec 1) (p : BitVec 5)
  /-- R182. Causal distance ramp with a well key base. -/
  | vrampCW (d : BitVec 6) (wl : BitVec 5) (n : BitVec 1) (p : BitVec 5)
  /-- R180. Multiply elements by their block scale. -/
  | vbsc (d : BitVec 6) (a : BitVec 6) (b : BitVec 6) (n : BitVec 1) (p : BitVec 5)
  /-- R181. Scale elements by 2^n from a scalar. -/
  | vfscl (d : BitVec 6) (a : BitVec 6) (s : BitVec 5) (n : BitVec 1) (p : BitVec 5)
  /-- R164. Integer add of a scalar to each element. -/
  | vaddVs (d : BitVec 6) (a : BitVec 6) (s : BitVec 5) (o : BitVec 1) (n : BitVec 1) (p : BitVec 5)
  /-- R164. Integer multiply of each element by a scalar. -/
  | vmulVs (d : BitVec 6) (a : BitVec 6) (s : BitVec 5) (o : BitVec 1) (n : BitVec 1) (p : BitVec 5)
  /-- R164. Floating add of a scalar. -/
  | vfaddVs (d : BitVec 6) (a : BitVec 6) (s : BitVec 5) (o : BitVec 1) (n : BitVec 1) (p : BitVec 5)
  /-- R164. Floating multiply by a scalar. -/
  | vfmulVs (d : BitVec 6) (a : BitVec 6) (s : BitVec 5) (o : BitVec 1) (n : BitVec 1) (p : BitVec 5)
  /-- R164. Fused a*s+vd with a scalar. -/
  | vfmaVs (d : BitVec 6) (a : BitVec 6) (s : BitVec 5) (o : BitVec 1) (n : BitVec 1) (p : BitVec 5)
  /-- R170. Predicate AND. -/
  | pand (d : BitVec 5) (a : BitVec 5) (b : BitVec 5)
  /-- R170. Predicate OR. -/
  | por (d : BitVec 5) (a : BitVec 5) (b : BitVec 5)
  /-- R170. Predicate XOR. -/
  | pxor (d : BitVec 5) (a : BitVec 5) (b : BitVec 5)
  /-- R170. Predicate AND NOT. -/
  | pandn (d : BitVec 5) (a : BitVec 5) (b : BitVec 5)
  /-- R170. Predicate NOT. -/
  | pnot (d : BitVec 5) (a : BitVec 5)
  /-- R170. Predicate copy. -/
  | pmov (d : BitVec 5) (a : BitVec 5)
  /-- R170. Set the first min(sN, VL) predicate bits. -/
  | psetn (d : BitVec 5) (a : BitVec 5)
  /-- R170. Clear predicate bits below VL. -/
  | pclr (d : BitVec 5)
  /-- R170. Index of the lowest set predicate bit into a scalar. -/
  | pfirst (d : BitVec 5) (a : BitVec 5)
  /-- R170. Count set predicate bits below VL into a scalar. -/
  | pcnt (d : BitVec 5) (a : BitVec 5)
  /-- R188. Matrix multiply-accumulate C += A*B in 8-row chunks with exact summation. -/
  | mma (c : BitVec 6) (a : BitVec 6) (b : BitVec 6) (f : BitVec 4)
  /-- R196. Write +0 to the rows of an accumulator group. -/
  | mzero (c : BitVec 6)
  /-- R199. Scale, bias, activate and round accumulators, with optional row checksums. -/
  | mepi (c : BitVec 6) (a : BitVec 6) (b : BitVec 6) (f : BitVec 4)
  /-- R201. Compute Fletcher-32 row checksums of a tile. -/
  | mcks (c : BitVec 6) (a : BitVec 6) (f : BitVec 4)
  /-- R260. Sign-extending scalar load. -/
  | ld (d : BitVec 5) (b : BitVec 5) (z : BitVec 2) (o : BitVec 12)
  /-- R260. Zero-extending scalar load. -/
  | ldN (d : BitVec 5) (b : BitVec 5) (z : BitVec 2) (o : BitVec 12)
  /-- R260. Scalar store through the store buffer. -/
  | st (d : BitVec 5) (b : BitVec 5) (z : BitVec 2) (o : BitVec 12)
  /-- R261. Asynchronous load returning a transfer token on channel 3. -/
  | lda (d : BitVec 5) (b : BitVec 5) (z : BitVec 2) (t : BitVec 5) (o : BitVec 7)
  /-- R262. Scalar place load from a scratchpad. -/
  | ldp (d : BitVec 5) (a : BitVec 5) (b : BitVec 5) (x : BitVec 1) (z : BitVec 2)
  /-- R262. Scalar place store leaving the presence bit unchanged. -/
  | stp (d : BitVec 5) (a : BitVec 5) (b : BitVec 5) (z : BitVec 2)
  /-- R262. Consuming place load that clears the presence bit. -/
  | ldpC (d : BitVec 5) (a : BitVec 5) (b : BitVec 5)
  /-- R264. Unit-stride vector load. -/
  | vld (d : BitVec 6) (b : BitVec 5) (n : BitVec 1) (p : BitVec 5)
  /-- R264. Strided vector load. -/
  | vldS (d : BitVec 6) (b : BitVec 5) (s : BitVec 5) (n : BitVec 1) (p : BitVec 5)
  /-- R264. Unit-stride vector store. -/
  | vst (d : BitVec 6) (b : BitVec 5) (n : BitVec 1) (p : BitVec 5)
  /-- R265. Vector store of a tile with per-row checksum checks. -/
  | vstCk (d : BitVec 6) (b : BitVec 5) (r : BitVec 2) (n : BitVec 1) (p : BitVec 5)
  /-- R264. Strided vector store. -/
  | vstS (d : BitVec 6) (b : BitVec 5) (s : BitVec 5) (n : BitVec 1) (p : BitVec 5)
  /-- R264. Indexed vector gather load. -/
  | vgld (d : BitVec 6) (b : BitVec 5) (i : BitVec 6) (n : BitVec 1) (p : BitVec 5)
  /-- R264. Indexed gather of paired 16 B elements. -/
  | vgldX2 (d : BitVec 6) (b : BitVec 5) (i : BitVec 6) (n : BitVec 1) (p : BitVec 5)
  /-- R264. Indexed vector scatter store. -/
  | vsst (d : BitVec 6) (b : BitVec 5) (i : BitVec 6) (n : BitVec 1) (p : BitVec 5)
  /-- R264. Vector place load from a scratchpad. -/
  | vldp (d : BitVec 6) (b : BitVec 5) (n : BitVec 1) (p : BitVec 5)
  /-- R264. Consuming vector place load clearing presence bits. -/
  | vldpC (d : BitVec 6) (b : BitVec 5) (n : BitVec 1) (p : BitVec 5)
  /-- R264. Vector place store to a scratchpad. -/
  | vstp (d : BitVec 6) (b : BitVec 5) (n : BitVec 1) (p : BitVec 5)
  /-- R263. Scalar presence store: write a word and set its presence bit, as a release. -/
  | pst (b : BitVec 5) (s : BitVec 5)
  /-- R263. Vector presence store of 64-bit elements. -/
  | pstV (d : BitVec 6) (b : BitVec 5) (n : BitVec 1) (p : BitVec 5)
  /-- R267. Issue an engine copy on a channel, returning a transfer token and promise. -/
  | xcopy (t : BitVec 5) (a : BitVec 5) (b : BitVec 5) (h : BitVec 2) (k : BitVec 1) (q : BitVec 1) (s : BitVec 1)
  /-- R269. Read a well descriptor and bind the well. -/
  | wbind (a : BitVec 5) (n : BitVec 3)
  /-- R269. Unbind a well, discarding refills in flight. -/
  | wunb (n : BitVec 3)
  /-- R269. Advance a well by a number of strips without reading. -/
  | wskip (a : BitVec 5) (n : BitVec 3)
  /-- R269. Read the position of a well's current strip. -/
  | wpos (d : BitVec 5) (n : BitVec 3)
  /-- R273. Atomic swap at the point of order. -/
  | amoSwap (d : BitVec 5) (a : BitVec 5) (b : BitVec 5) (c : BitVec 2) (o : BitVec 2) (z : BitVec 1)
  /-- R273. Atomic compare-and-swap. -/
  | amoCas (d : BitVec 5) (a : BitVec 5) (b : BitVec 5) (c : BitVec 2) (o : BitVec 2) (z : BitVec 1)
  /-- R273. Atomic add returning the old value. -/
  | amoAdd (d : BitVec 5) (a : BitVec 5) (b : BitVec 5) (c : BitVec 2) (o : BitVec 2) (z : BitVec 1)
  /-- R273. Atomic AND. -/
  | amoAnd (d : BitVec 5) (a : BitVec 5) (b : BitVec 5) (c : BitVec 2) (o : BitVec 2) (z : BitVec 1)
  /-- R273. Atomic OR. -/
  | amoOr (d : BitVec 5) (a : BitVec 5) (b : BitVec 5) (c : BitVec 2) (o : BitVec 2) (z : BitVec 1)
  /-- R273. Atomic XOR. -/
  | amoXor (d : BitVec 5) (a : BitVec 5) (b : BitVec 5) (c : BitVec 2) (o : BitVec 2) (z : BitVec 1)
  /-- R273. Atomic signed minimum. -/
  | amoMin (d : BitVec 5) (a : BitVec 5) (b : BitVec 5) (c : BitVec 2) (o : BitVec 2) (z : BitVec 1)
  /-- R273. Atomic signed maximum. -/
  | amoMax (d : BitVec 5) (a : BitVec 5) (b : BitVec 5) (c : BitVec 2) (o : BitVec 2) (z : BitVec 1)
  /-- R273. Atomic unsigned minimum. -/
  | amoMinN (d : BitVec 5) (a : BitVec 5) (b : BitVec 5) (c : BitVec 2) (o : BitVec 2) (z : BitVec 1)
  /-- R273. Atomic unsigned maximum. -/
  | amoMaxN (d : BitVec 5) (a : BitVec 5) (b : BitVec 5) (c : BitVec 2) (o : BitVec 2) (z : BitVec 1)
  /-- R273. Atomic floating add, RNE, no flags. -/
  | amoFadd (d : BitVec 5) (a : BitVec 5) (b : BitVec 5) (c : BitVec 2) (o : BitVec 2) (z : BitVec 1)
  /-- R273. Non-returning reduction add combined at the home. -/
  | redAdd (a : BitVec 5) (b : BitVec 5) (z : BitVec 1)
  /-- R273. Non-returning reduction AND. -/
  | redAnd (a : BitVec 5) (b : BitVec 5) (z : BitVec 1)
  /-- R273. Non-returning reduction OR. -/
  | redOr (a : BitVec 5) (b : BitVec 5) (z : BitVec 1)
  /-- R273. Non-returning reduction XOR. -/
  | redXor (a : BitVec 5) (b : BitVec 5) (z : BitVec 1)
  /-- R273. Non-returning signed minimum. -/
  | redMin (a : BitVec 5) (b : BitVec 5) (z : BitVec 1)
  /-- R273. Non-returning signed maximum. -/
  | redMax (a : BitVec 5) (b : BitVec 5) (z : BitVec 1)
  /-- R273. Non-returning unsigned minimum. -/
  | redMinN (a : BitVec 5) (b : BitVec 5) (z : BitVec 1)
  /-- R273. Non-returning unsigned maximum. -/
  | redMaxN (a : BitVec 5) (b : BitVec 5) (z : BitVec 1)
  /-- R273. Non-returning floating add. -/
  | redFadd (a : BitVec 5) (b : BitVec 5) (z : BitVec 1)
  /-- R274. Vector indexed atomics with the operation from ox3; results fill out of order. -/
  | vamo (d : BitVec 6) (b : BitVec 5) (i : BitVec 6) (n : BitVec 1) (p : BitVec 5)
  /-- R274. Vector indexed non-returning reductions. -/
  | vred (d : BitVec 6) (b : BitVec 5) (i : BitVec 6) (n : BitVec 1) (p : BitVec 5)
  /-- R274. Vector gather load taking per-element reservations. -/
  | gll (d : BitVec 6) (b : BitVec 5) (i : BitVec 6) (n : BitVec 1) (p : BitVec 5)
  /-- R274. Vector conditional store that succeeds where reservations stand. -/
  | scc (d : BitVec 6) (b : BitVec 5) (i : BitVec 6) (n : BitVec 1) (p : BitVec 5)
  /-- R276. Full fence at a scope. -/
  | fence (s : BitVec 3)
  /-- R276. Release fence making the next store a release. -/
  | fenceRel (s : BitVec 3)
  /-- R276. Acquire fence making the last load an acquire. -/
  | fenceAcq (s : BitVec 3)
  /-- R276. Package fence placed in a single total order. -/
  | fenceScPkg
  /-- R276. Order earlier scalar accesses before later vector-queue accesses. -/
  | fenceSv
  /-- R276. Order earlier vector-queue accesses before later scalar accesses. -/
  | fenceVs
  /-- R277. Order earlier durable stores before later ones without waiting. -/
  | pbarOrder
  /-- R277. Wait until earlier durable stores have persisted. -/
  | pbarComplete
  /-- R277. Wait until earlier durable stores to one line have persisted. -/
  | pflush (a : BitVec 5)
  /-- R278. Prefetch a line into the L1 and its fill levels. -/
  | prefL1 (b : BitVec 5) (z : BitVec 2) (o : BitVec 12)
  /-- R278. Prefetch a line into the home L2 or local RDC only. -/
  | prefL2 (b : BitVec 5) (z : BitVec 2) (o : BitVec 12)
  /-- R279. Send a delegation to a core's service context and return a reply token. -/
  | dlg (t : BitVec 5) (a : BitVec 5) (b : BitVec 5)
  /-- R279. Send an active message with no reply. -/
  | dlgAm (a : BitVec 5) (b : BitVec 5)
  /-- R280. Invalidate a line in the L1 and RDC. -/
  | cmoInv (a : BitVec 5)
  /-- R280. Write a dirty RDC copy to its home. -/
  | cmoWb (a : BitVec 5)
  /-- R280. Store 128 zero bytes to a line. -/
  | cmoZero (a : BitVec 5)
  /-- R280. Read a pan's PFMT. -/
  | cmoPfr (d : BitVec 5) (a : BitVec 5)
  /-- R280. Write a pan's PFMT under R214. -/
  | cmoPfw (a : BitVec 5) (b : BitVec 5)
  /-- R280. Privileged clear of a line's object bits. -/
  | cmoObjclr (a : BitVec 5)
  /-- R304. Initialise a queue control block from a template. -/
  | qinit (d : BitVec 5) (a : BitVec 5) (b : BitVec 5)
  /-- R305. Free an idle empty queue, clearing its object bits. -/
  | qfree (d : BitVec 5) (a : BitVec 5)
  /-- R305. Read one queue field. -/
  | qstat (d : BitVec 5) (a : BitVec 5) (b : BitVec 5)
  /-- R305. Copy the head element without dequeuing. -/
  | qpeek (d : BitVec 5) (a : BitVec 5) (b : BitVec 5)
  /-- R290. Enqueue an element or report failure in a predicate. -/
  | enqTry (p : BitVec 5) (a : BitVec 5) (b : BitVec 5)
  /-- R290. Enqueue an element, suspending as a waiter while full. -/
  | enqWait (a : BitVec 5) (b : BitVec 5)
  /-- R290. Dequeue an element or report failure in a predicate. -/
  | deqTry (p : BitVec 5) (a : BitVec 5) (b : BitVec 5)
  /-- R290. Dequeue an element, suspending as a waiter while empty. -/
  | deqWait (a : BitVec 5) (b : BitVec 5)
  /-- R292. Enqueue from a vector register, try form. -/
  | venqTry (d : BitVec 6) (a : BitVec 5) (p : BitVec 5)
  /-- R292. Enqueue from a vector register, blocking form. -/
  | venqWait (d : BitVec 6) (a : BitVec 5)
  /-- R292. Dequeue into a vector register, try form. -/
  | vdeqTry (d : BitVec 6) (a : BitVec 5) (p : BitVec 5)
  /-- R292. Dequeue into a vector register, blocking form. -/
  | vdeqWait (d : BitVec 6) (a : BitVec 5)
  /-- R307. Ask Sluice to create the next unassigned TID on a named core. -/
  | tspawn (d : BitVec 5) (a : BitVec 5)
  /-- R308. Drain stores, unbind wells, send the end message and pick. -/
  | tend
  /-- R309. Make the task Ready and pick. -/
  | yield
  /-- R310. Token signalled once Sluice counts enough ended tasks. -/
  | gjoin (d : BitVec 5) (a : BitVec 5)
  /-- R311. Join or lead gang formation, returning a kind 9 token. -/
  | gang (d : BitVec 5) (a : BitVec 5) (b : BitVec 5)
  /-- R311. Disband the gang with reason 1. -/
  | ungang
  /-- R313. Request the next coordinate of a grid work list into a reply word. -/
  | wqry (d : BitVec 5) (a : BitVec 5) (b : BitVec 5)
  /-- R312. Open a grid work list with an extent and wait for status. -/
  | wqryOpen (d : BitVec 5) (a : BitVec 5) (b : BitVec 5)
  /-- R326. Invalidate translations covering a VA in a partition. -/
  | tlbiVa (a : BitVec 5) (b : BitVec 5)
  /-- R326. Invalidate a partition's non-global translations. -/
  | tlbiPart (a : BitVec 5)
  /-- R326. Invalidate every translation. -/
  | tlbiAll
  /-- R326. Walk a partition's table without side effects and return the leaf. -/
  | probe (d : BitVec 5) (a : BitVec 5) (b : BitVec 5)
  /-- R336. Compute a grant token's MAC. -/
  | gissue (d : BitVec 5) (a : BitVec 5) (b : BitVec 5)
  /-- R336. Draw a new grant key for a slot. -/
  | grevoke (d : BitVec 5) (a : BitVec 5)
  /-- R336. Check a grant token's MAC and currency. -/
  | gcheck (d : BitVec 5) (a : BitVec 5) (b : BitVec 5)
  /-- R349. Take a free pool descriptor for a new NATIVE page. -/
  | kvalloc (d : BitVec 5) (a : BitVec 5) (b : BitVec 5)
  /-- R349. Build a pool from a template and chain its free list. -/
  | kvallocInit (d : BitVec 5) (a : BitVec 5) (b : BitVec 5)
  /-- R350. Add a reference to a descriptor. -/
  | kvref (d : BitVec 5) (a : BitVec 5) (b : BitVec 5)
  /-- R350. Drop a reference, freeing the descriptor at zero. -/
  | kvunref (d : BitVec 5) (a : BitVec 5) (b : BitVec 5)
  /-- R351. Reserve the next token slot of a sequence's last page. -/
  | kvapp (d : BitVec 5) (a : BitVec 5) (b : BitVec 5)
  /-- R352. Splice document pages into a block table at a position. -/
  | kvspl (d : BitVec 5) (a : BitVec 5) (b : BitVec 5)
  /-- R353. Requantise an entry's page into a new format and swap it in. -/
  | kvreq (d : BitVec 5) (a : BitVec 5) (b : BitVec 5)
  /-- R354. Read a source's version. -/
  | kvsrcGet (d : BitVec 5) (a : BitVec 5) (b : BitVec 5)
  /-- R354. Set a source's version. -/
  | kvsrcSet (d : BitVec 5) (a : BitVec 5) (b : BitVec 5)
  /-- R354. Increment a source's version, staling spliced pages. -/
  | kvsrcBump (d : BitVec 5) (a : BitVec 5) (b : BitVec 5)
  /-- R356. Gather K or V rows through block-table entries with version and repair checks. -/
  | kvg (d : BitVec 6) (b : BitVec 5) (e : BitVec 6) (m : BitVec 1)
  /-- R356. Gather skipping the version check. -/
  | kvgStale (d : BitVec 6) (b : BitVec 5) (e : BitVec 6) (m : BitVec 1)
  /-- R356. Gather, parking while a page's repair lags the layer. -/
  | kvgRep (d : BitVec 6) (b : BitVec 5) (e : BitVec 6) (m : BitVec 1)
  /-- R356. Gather with no repair check. -/
  | kvgAny (d : BitVec 6) (b : BitVec 5) (e : BitVec 6) (m : BitVec 1)
  /-- R358. Submit a Rake repair job record. -/
  | rkjob (d : BitVec 5) (a : BitVec 5)
  /-- R358. Read a Rake job's status. -/
  | rkstat (d : BitVec 5) (a : BitVec 5)
  /-- R362. Cancel a Rake job after its current operation. -/
  | rkcancel (d : BitVec 5) (a : BitVec 5)
  /-- R371. Check and await a token, clearing non-live registers and stalling or switching. -/
  | await (t : BitVec 5) (l : BitVec 8)
  /-- R371. Await with an AWTO timeout. -/
  | awaitT (t : BitVec 5) (l : BitVec 8)
  /-- R371. Await either of two tokens. -/
  | awaitany (t : BitVec 5) (l : BitVec 8)
  /-- R383. Initialise a cell and return its token. -/
  | celli (d : BitVec 5) (a : BitVec 5) (b : BitVec 5)
  /-- R383. Add to a cell's count as a release, posted or waiting. -/
  | signal (d : BitVec 5) (a : BitVec 5) (b : BitVec 5) (e : BitVec 1) (s : BitVec 3)
  /-- R383. Read one field of a cell or rendezvous. -/
  | cread (d : BitVec 5) (a : BitVec 5) (b : BitVec 5)
  /-- R383. Initialise a rendezvous object. -/
  | rvinit (d : BitVec 5) (a : BitVec 5) (b : BitVec 5)
  /-- R376. Arrive at a rendezvous, directly or deferred on a channel. -/
  | rvarr (d : BitVec 5) (a : BitVec 5) (b : BitVec 5)
  /-- R383. Free a rendezvous and fail its waiters. -/
  | rvfree (d : BitVec 5) (a : BitVec 5)
  /-- R379. Arrive on the wire-barrier lines in BWMASK and return a kind 7 token. -/
  | barw (d : BitVec 5)
  /-- R383. Wait until a time, then check that a transfer completed. -/
  | waituntil (a : BitVec 5) (b : BitVec 5)
  /-- R57. Every 1,024 cycles all dies report to Sluice, which updates its view and tries placements. -/
  | reportRound
  /-- R55. Sluice takes a launch record from a launch queue into its pending table. -/
  | launchDequeue (part : Nat)
  /-- R56. A pending launch whose dependence fails is cancelled and reported. -/
  | launchCancel (order : Nat)
  /-- R58. A claim message reaches a core, which prepares each claimed pan. -/
  | panClaim (core : Nat) (serial : Nat)
  /-- R57. A creation message reaches a core and enters its creation list or is returned. -/
  | creationMessage (core : Nat) (serial : Nat) (tid : Nat) (restart : Bool)
  /-- R59. Sluice receives a task end, counts it and sends the next TID. -/
  | endMessage (core : Nat) (serial : Nat) (tid : Nat)
  /-- R307. Sluice serves a spawn request, holding it while the target list is full. -/
  | tspawnRequest (core : Nat) (seq : Nat) (serial : Nat) (target : Nat)
  /-- R310. Sluice serves a join count request. -/
  | gjoinRequest (core : Nat) (seq : Nat) (serial : Nat) (count : Nat)
  /-- R313. Sluice answers a work-list query with a presence store and signal. -/
  | wqryRequest (core : Nat) (seq : Nat) (serial : Nat) (list : Nat) (place : Nat) (off : Nat)
  /-- R312. Sluice opens a work list and replies with status. -/
  | wqryOpenRequest (core : Nat) (serial : Nat) (list : Nat) (extent : BitVec 60)
  /-- R148. Sluice orders and grants or refuses a restart request. -/
  | trestartRequest (core : Nat) (target : Nat) (lid : Nat) (tid : Nat)
  /-- R366. A Sluice reply reaches the issuing core and signals its kind 8 token. -/
  | sluiceReply (core : Nat) (seq : Nat) (err : Nat)
  /-- R62. A core suspends and quiesces a victim launch's tasks and starts saving. -/
  | preemptionMessage (core : Nat) (serial : Nat)
  /-- R62. Once records and pans are saved the core acknowledges to Sluice. -/
  | preemptionAcknowledgement (core : Nat) (serial : Nat)
  /-- R64. A core restores a pre-empted launch's pans and tasks. -/
  | resumptionMessage (core : Nat) (serial : Nat)
  /-- R49. The running task's quantum expires and the core may pick another task. -/
  | quantumExpiry (core : Nat)
  /-- R45. A stalled task's promise passes unsignalled and the task is suspended. -/
  | stallPromisePassed (core : Nat)
  /-- R372. A wake for a signalled token reaches the waiting core and sets the ready bit or resumes issue. -/
  | tokenWake (core : Nat) (slot : Nat) (err : BitVec 24)
  /-- R366. A registration for a kind 1, 8 or 9 token reaches the named core. -/
  | tokenRegistration (home : Nat) (token : BitVec 64) (core : Nat) (slot : Nat)
  /-- R366. CYC reaches a timer token's time. -/
  | timerTokenReady (core : Nat) (slot : Nat)
  /-- R371. AWTO expires for an await.t and Await timeout is raised. -/
  | awaitTimeout (core : Nat) (slot : Nat)
  /-- R383. CYC reaches a waituntil time and the transfer is checked. -/
  | waituntilTime (core : Nat) (slot : Nat)
  /-- R419. A Ready spilled record starts coming back into the cache. -/
  | backgroundRestore (core : Nat)
  /-- R419. A background restore finishes. -/
  | backgroundRestoreDone (core : Nat)
  /-- R67. The die supervisor's ranking table reaches a core. -/
  | thermalRankingTable (core : Nat) (table : List Nat)
  /-- R67. Every 1,024 cycles a hot core lowers or a cool core raises CCLIM. -/
  | thermalCclimStep (core : Nat) (hot : Bool)
  /-- R68. A mobile record offered by a hot core is accepted or refused. -/
  | mobileRecord (core : Nat) (slot : Nat) (target : Nat)
  /-- R32. The die supervisor writes a core's CCLIM, QNTM or SWTH by mailbox. -/
  | mailboxCsrWrite (core : Nat) (csr : BitVec 12) (value : BitVec 64)
  /-- R69. Each balancing interval the levelling unit moves entries between segments. -/
  | levellingVisit (die : Nat)
  /-- R279. A delegation reaches a core and runs in its service context. -/
  | delegation (core : Nat) (issuer : Nat) (seq : Nat) (part : Nat) (priv : Bool) (block : List (BitVec 64))
  /-- R279. An active message reaches a core and runs with no reply. -/
  | activeMessage (core : Nat) (issuer : Nat) (part : Nat) (priv : Bool) (block : List (BitVec 64))
  /-- R279. A routine's reply reaches the issuer and signals its token. -/
  | delegationReply (core : Nat) (seq : Nat) (err : Nat)
  /-- R31. A service routine still running after QNTM cycles is ended. -/
  | serviceRoutineTimeout (core : Nat)
  /-- R70. A follower's join reaches the leader's core. -/
  | gangJoin (core : Nat) (member : Nat) (seq : Nat) (serial : Nat) (leaderTid : Nat) (index : Nat)
  /-- R70. Formation incomplete AWTO cycles after the leader's gang fails. -/
  | gangFormationTimeout (core : Nat)
  /-- R194. A chunk of A from the leader lands in a follower's spill ring. -/
  | gangOperandMessage (core : Nat) (chunk : List (BitVec 64))
  /-- R263. A presence store lands, sets the bit and signals presence tokens. -/
  | presenceStoreLanding (core : Nat) (off : Nat) (value : BitVec 64)
  /-- R261. An asynchronous load's data arrives and its token is signalled. -/
  | ldaDataArrival (core : Nat) (id : Nat)
  /-- R274. A vamo element's old value arrives and sets its valid bit. -/
  | vamoElementArrival (core : Nat) (serial : Nat) (tid : Nat)
  /-- R272. A well refill lands in its register group and sets CMP bits. -/
  | wellRefillLanding (core : Nat) (well : BitVec 3)
  /-- R267. A copy completes, its token is signalled and XDONE advances. -/
  | transferComplete (core : Nat) (ch : Nat) (id : Nat)
  /-- R327. A channel's fault cell is signalled and the waiting transfer walks again. -/
  | channelCellResume (core : Nat) (ch : Nat)
  /-- R246. A store leaves the store buffer toward its point of order. -/
  | storeBufferDrain (core : Nat)
  /-- R252. The durable-tier controller accepts a store into the persist buffer. -/
  | durableStoreAccept (num : Nat)
  /-- R253. A persist acknowledgement returns and releases persist waits. -/
  | persistAcknowledgement (num : Nat)
  /-- R392. At 262,144 cycles the core is scrubbed and tested, then unsealed or mapped out. -/
  | containmentScrub (core : Nat) (pass : Bool)
  /-- R294. A queue waiter is woken and re-executes its instruction. -/
  | queueWaiterWake (core : Nat) (slot : Nat)
  /-- R294. A task refused for a full waiter table is made Ready after 4,096 cycles. -/
  | waiterTableRetry (core : Nat) (slot : Nat)
  /-- R378. A line releases a phase 12 cycles after the last arrival. -/
  | wireBarrierRelease (line : Nat)
  /-- R380. A line unreleased BWTO cycles after a barw raises Barrier timeout. -/
  | barrierTimeout (core : Nat) (slot : Nat)
  /-- R377. A copy channel makes a deferred rendezvous arrival after earlier transfers. -/
  | deferredArrival (core : Nat) (ch : Nat) (id : Nat)
  /-- R383. A refused posted signal's error response arrives and an error record is enqueued. -/
  | postedSignalRefused (core : Nat) (token : BitVec 64) (epc : BitVec 64) (serial : Nat) (tid : Nat)
  /-- R250. An error response to a posted fabric store is logged for Store lost. -/
  | fabricErrorResponse (num : Nat)
  /-- R335. A fabric request arrives and passes or fails the ingress checks. -/
  | ingressRequest (kind : Nat) (peer : Nat) (part : Nat) (tpart : Nat) (off : Nat) (token : BitVec 64) (data : List (BitVec 8))
  /-- R337. An ingress atomic cache line's lease ends and it is written back. -/
  | leaseExpiry (line : Nat)
  /-- R219. An idle pan with RETEN enters retention after 4,096 cycles. -/
  | retentionEntry (core : Nat) (pan : Nat)
  /-- R219. A pan leaves retention and the waiting access proceeds. -/
  | retentionExit (core : Nat) (pan : Nat)
  /-- R360. The Rake makes private copies and starts the first layer. -/
  | rakeJobStart (part : Nat) (job : Nat)
  /-- R360. When the layer cell is signalled the Rake advances RTL and starts the next layer or ends the job. -/
  | rakeLayerAdvance (part : Nat) (job : Nat)
  /-- R404. A host CXL.mem read is translated and served. -/
  | hostMemRead (part : Nat) (off : Nat)
  /-- R404. A host CXL.mem write is translated and served or discarded. -/
  | hostMemWrite (part : Nat) (off : Nat) (data : List (Option (BitVec 8)))
  /-- R300. A validated host tail store publishes launch records. -/
  | hostTailStore (part : Nat) (off : Nat) (tail : BitVec 32)
  /-- R405. The host answers a back-invalidate and the held write proceeds. -/
  | hostBiResponse (line : Nat)
  /-- R408. A DOE request with a nonce queues an attestation report. -/
  | attestationRequest (nonce : BitVec 256)
  /-- R408. The security root finishes signing a report. -/
  | attestationSigned
  /-- R406. A UALink station goes down and its requests complete with errors. -/
  | stationDown (station : Nat)
  /-- R224. Management changes a die's Bittern size. -/
  | bitternResize (die : Nat) (mib : Nat)
  /-- R409. Making a partition LIVE rotates its four key slots first. -/
  | partitionLiveWrite (part : Nat)
  /-- R409. Management rotates a grant key slot. -/
  | grantKeyRotation (part : Nat) (slot : Nat)
  /-- R401. A write to device control-space state with no behaviour of its own. -/
  | controlSpaceWrite (pa : Nat) (data : List (BitVec 8))
  /-- R410. Every 4,096 cycles each die's rail voltage is set. -/
  | adaptiveVoltagePeriod (die : Nat)
  /-- R410. Every 1,024 cycles current is shared among rail phases and dies. -/
  | equalisationPeriod
  /-- R411. Every 1,024 cycles the throttle level is raised or lowered. -/
  | thresholdPeriod (watts : Nat)
  /-- R410. A rail droop holds issue on that rail's cores. -/
  | railDroop (die : Nat) (cycles : Nat)
  /-- R412. Junction temperature thresholds raise throttle or freeze the package. -/
  | overtemperature (celsius : Nat)
  /-- R399. The management freeze signal stops every clock. -/
  | freezeSignal
  /-- R256. Power is lost; only the persist domain and error log survive. -/
  | powerLoss
  /-- R407. Package reset clears volatile state and runs secure boot. -/
  | packageReset (verified : Bool)
  /-- R83. A fetched word that is not an instruction raises Illegal instruction precisely, with EPC at the word and EADDR holding it. -/
  | nonInstruction (word : BitVec 32)
  /-- R392. The die supervisor detects a failure of a core's built-in checks and contains that core. -/
  | coreCheckFailure (core : Nat)
  /-- R393. A map-out finishes 65,536 cycles after it began and containment continues at its restart step. -/
  | mapOutDone (core : Nat)
  /-- R212. A core finishes preparing its claimed pans, 128 cycles per pan, and then accepts the launch's creation messages. -/
  | panPreparationDone (core : Nat) (serial : Nat)
  /-- R225. The persist buffer drains lines to the stacks and frees room, so the controller again accepts durable stores that were waiting. -/
  | persistBufferDrain
  /-- R406. A UALink station that was down returns to service and rejoins the set of working stations that egress chooses from. -/
  | stationUp (station : Nat)
  /-- R250. A peer's acknowledgement of a fabric store arrives and releases pod-scope releases and fence.pod that wait for it. -/
  | fabricStoreAcknowledgement (num : Nat)
  /-- R360. A Rake page copy parked on a missing page resumes when its resolution cell is signalled. -/
  | rakeCopyResume (part : Nat) (job : Nat)
deriving DecidableEq, Repr

/-- The mnemonic of the opcode table. -/
def Instr.mnemonic : Instr → String
  | .add _ _ _ => "ADD"
  | .sub _ _ _ => "SUB"
  | .and _ _ _ => "AND"
  | .or _ _ _ => "OR"
  | .xor _ _ _ => "XOR"
  | .andn _ _ _ => "ANDN"
  | .shl _ _ _ => "SHL"
  | .shr _ _ _ => "SHR"
  | .sar _ _ _ => "SAR"
  | .rol _ _ _ => "ROL"
  | .min _ _ _ => "MIN"
  | .max _ _ _ => "MAX"
  | .minN _ _ _ => "MIN_N"
  | .maxN _ _ _ => "MAX_N"
  | .slt _ _ _ => "SLT"
  | .sltN _ _ _ => "SLT_N"
  | .seq _ _ _ => "SEQ"
  | .mul _ _ _ => "MUL"
  | .mulh _ _ _ => "MULH"
  | .mulhN _ _ _ => "MULH_N"
  | .div _ _ _ => "DIV"
  | .divN _ _ _ => "DIV_N"
  | .rem _ _ _ => "REM"
  | .remN _ _ _ => "REM_N"
  | .clz _ _ => "CLZ"
  | .ctz _ _ => "CTZ"
  | .popc _ _ => "POPC"
  | .addi _ _ _ => "ADDI"
  | .andi _ _ _ => "ANDI"
  | .ori _ _ _ => "ORI"
  | .xori _ _ _ => "XORI"
  | .shli _ _ _ => "SHLI"
  | .shri _ _ _ => "SHRI"
  | .sari _ _ _ => "SARI"
  | .slti _ _ _ => "SLTI"
  | .li _ _ => "LI"
  | .lih _ _ => "LIH"
  | .ext _ _ _ _ _ => "EXT"
  | .ins _ _ _ _ => "INS"
  | .mkpl _ _ _ _ _ => "MKPL"
  | .mkplAbs _ _ _ _ _ => "MKPL_ABS"
  | .csrr _ _ => "CSRR"
  | .csrw _ _ _ => "CSRW"
  | .csrs _ _ _ => "CSRS"
  | .csrc _ _ _ => "CSRC"
  | .oxl _ _ _ _ => "OXL"
  | .oxm _ _ => "OXM"
  | .oxr _ _ => "OXR"
  | .b _ => "B"
  | .call _ => "CALL"
  | .jr _ _ _ => "JR"
  | .beq _ _ _ => "BEQ"
  | .bne _ _ _ => "BNE"
  | .blt _ _ _ => "BLT"
  | .bge _ _ _ => "BGE"
  | .bltN _ _ _ => "BLT_N"
  | .bgeN _ _ _ => "BGE_N"
  | .bpAny _ _ => "BP_ANY"
  | .bpNone _ _ => "BP_NONE"
  | .bpAll _ _ => "BP_ALL"
  | .bpNall _ _ => "BP_NALL"
  | .nop => "NOP"
  | .trap _ => "TRAP"
  | .eret => "ERET"
  | .fenceI => "FENCE_I"
  | .seal _ _ => "SEAL"
  | .unseal _ _ => "UNSEAL"
  | .trestart _ _ _ => "TRESTART"
  | .dbgfreeze => "DBGFREEZE"
  | .cMov _ _ => "C_MOV"
  | .cAdd _ _ => "C_ADD"
  | .cSub _ _ => "C_SUB"
  | .cAnd _ _ => "C_AND"
  | .cAddi _ _ => "C_ADDI"
  | .cLi _ _ => "C_LI"
  | .cShli _ _ => "C_SHLI"
  | .cLd _ _ => "C_LD"
  | .cSt _ _ => "C_ST"
  | .cB _ => "C_B"
  | .cBeqz _ _ => "C_BEQZ"
  | .cBnez _ _ => "C_BNEZ"
  | .cRet => "C_RET"
  | .cAwait _ _ => "C_AWAIT"
  | .cNop => "C_NOP"
  | .cOr _ _ => "C_OR"
  | .cXor _ _ => "C_XOR"
  | .cShri _ _ => "C_SHRI"
  | .cSari _ _ => "C_SARI"
  | .cLdw _ _ => "C_LDW"
  | .cStw _ _ => "C_STW"
  | .cSlt _ _ => "C_SLT"
  | .cShl _ _ => "C_SHL"
  | .cShr _ _ => "C_SHR"
  | .cNeg _ _ => "C_NEG"
  | .cSeq _ _ => "C_SEQ"
  | .cMul _ _ => "C_MUL"
  | .cYield => "C_YIELD"
  | .cTend => "C_TEND"
  | .cMin _ _ => "C_MIN"
  | .cMax _ _ => "C_MAX"
  | .vset _ _ _ _ _ => "VSET"
  | .vsetKeep _ _ _ _ => "VSET_KEEP"
  | .vadd _ _ _ _ _ => "VADD"
  | .vsub _ _ _ _ _ => "VSUB"
  | .vmul _ _ _ _ _ => "VMUL"
  | .vmulh _ _ _ _ _ => "VMULH"
  | .vmacc _ _ _ _ _ => "VMACC"
  | .vmin _ _ _ _ _ => "VMIN"
  | .vmax _ _ _ _ _ => "VMAX"
  | .vand _ _ _ _ _ => "VAND"
  | .vor _ _ _ _ _ => "VOR"
  | .vxor _ _ _ _ _ => "VXOR"
  | .vshl _ _ _ _ _ => "VSHL"
  | .vshr _ _ _ _ _ => "VSHR"
  | .vsar _ _ _ _ _ => "VSAR"
  | .vadds _ _ _ _ _ => "VADDS"
  | .vsubs _ _ _ _ _ => "VSUBS"
  | .vfadd _ _ _ _ _ => "VFADD"
  | .vfsub _ _ _ _ _ => "VFSUB"
  | .vfmul _ _ _ _ _ => "VFMUL"
  | .vfma _ _ _ _ _ => "VFMA"
  | .vfms _ _ _ _ _ => "VFMS"
  | .vfnma _ _ _ _ _ => "VFNMA"
  | .vfmin _ _ _ _ _ => "VFMIN"
  | .vfmax _ _ _ _ _ => "VFMAX"
  | .vfdiv _ _ _ _ _ => "VFDIV"
  | .vmov _ _ _ _ => "VMOV"
  | .vabs _ _ _ _ => "VABS"
  | .vneg _ _ _ _ => "VNEG"
  | .vnot _ _ _ _ => "VNOT"
  | .vclz _ _ _ _ => "VCLZ"
  | .vpopc _ _ _ _ => "VPOPC"
  | .vfabs _ _ _ _ => "VFABS"
  | .vfneg _ _ _ _ => "VFNEG"
  | .vfsqrt _ _ _ _ => "VFSQRT"
  | .vfrsq _ _ _ _ => "VFRSQ"
  | .vfrcp _ _ _ _ => "VFRCP"
  | .vfexp2 _ _ _ _ => "VFEXP2"
  | .vflog2 _ _ _ _ => "VFLOG2"
  | .vftanh _ _ _ _ => "VFTANH"
  | .vfclass _ _ _ _ => "VFCLASS"
  | .vunpk4Lo _ _ _ _ => "VUNPK4_LO"
  | .vunpk4Hi _ _ _ _ => "VUNPK4_HI"
  | .vpack4 _ _ _ _ => "VPACK4"
  | .vcvtI8 _ _ _ _ => "VCVT_I8"
  | .vcvtN8 _ _ _ _ => "VCVT_N8"
  | .vcvtI16 _ _ _ _ => "VCVT_I16"
  | .vcvtN16 _ _ _ _ => "VCVT_N16"
  | .vcvtI32 _ _ _ _ => "VCVT_I32"
  | .vcvtN32 _ _ _ _ => "VCVT_N32"
  | .vcvtI64 _ _ _ _ => "VCVT_I64"
  | .vcvtF64 _ _ _ _ => "VCVT_F64"
  | .vcvtF32 _ _ _ _ => "VCVT_F32"
  | .vcvtF16 _ _ _ _ => "VCVT_F16"
  | .vcvtBf16 _ _ _ _ => "VCVT_BF16"
  | .vcvtE4m3 _ _ _ _ => "VCVT_E4M3"
  | .vcvtE5m2 _ _ _ _ => "VCVT_E5M2"
  | .vcvtE2m1 _ _ _ _ => "VCVT_E2M1"
  | .vcmpEq _ _ _ _ => "VCMP_EQ"
  | .vcmpNe _ _ _ _ => "VCMP_NE"
  | .vcmpLt _ _ _ _ => "VCMP_LT"
  | .vcmpGe _ _ _ _ => "VCMP_GE"
  | .vcmpLe _ _ _ _ => "VCMP_LE"
  | .vcmpGt _ _ _ _ => "VCMP_GT"
  | .vfcmpEq _ _ _ _ => "VFCMP_EQ"
  | .vfcmpNe _ _ _ _ => "VFCMP_NE"
  | .vfcmpLt _ _ _ _ => "VFCMP_LT"
  | .vfcmpGe _ _ _ _ => "VFCMP_GE"
  | .vfcmpLe _ _ _ _ => "VFCMP_LE"
  | .vfcmpGt _ _ _ _ => "VFCMP_GT"
  | .vfcmpUno _ _ _ _ => "VFCMP_UNO"
  | .vfcmpOrd _ _ _ _ => "VFCMP_ORD"
  | .vmerge _ _ _ _ _ => "VMERGE"
  | .vslideup _ _ _ _ _ => "VSLIDEUP"
  | .vslideupRot _ _ _ _ _ => "VSLIDEUP_ROT"
  | .vslidedn _ _ _ _ _ => "VSLIDEDN"
  | .vslidednRot _ _ _ _ _ => "VSLIDEDN_ROT"
  | .vgathr _ _ _ _ _ => "VGATHR"
  | .vcompress _ _ _ _ => "VCOMPRESS"
  | .vexpand _ _ _ _ => "VEXPAND"
  | .vbcast _ _ _ _ => "VBCAST"
  | .vbcastE _ _ _ _ _ => "VBCAST_E"
  | .vextr _ _ _ => "VEXTR"
  | .vextrSx _ _ _ => "VEXTR_SX"
  | .vins _ _ _ _ _ => "VINS"
  | .vinsCv _ _ _ _ _ => "VINS_CV"
  | .vfoldSum _ _ _ _ => "VFOLD_SUM"
  | .vfoldMin _ _ _ _ => "VFOLD_MIN"
  | .vfoldMax _ _ _ _ => "VFOLD_MAX"
  | .vfoldAnd _ _ _ _ => "VFOLD_AND"
  | .vfoldOr _ _ _ _ => "VFOLD_OR"
  | .vfoldXor _ _ _ _ => "VFOLD_XOR"
  | .vfoldFsum _ _ _ _ => "VFOLD_FSUM"
  | .vfoldFmin _ _ _ _ => "VFOLD_FMIN"
  | .vfoldFmax _ _ _ _ => "VFOLD_FMAX"
  | .vidx _ _ _ => "VIDX"
  | .vrand _ _ _ => "VRAND"
  | .vramp _ _ _ _ => "VRAMP"
  | .vrampC _ _ _ _ => "VRAMP_C"
  | .vrampW _ _ _ _ => "VRAMP_W"
  | .vrampCW _ _ _ _ => "VRAMP_C_W"
  | .vbsc _ _ _ _ _ => "VBSC"
  | .vfscl _ _ _ _ _ => "VFSCL"
  | .vaddVs _ _ _ _ _ _ => "VADD_VS"
  | .vmulVs _ _ _ _ _ _ => "VMUL_VS"
  | .vfaddVs _ _ _ _ _ _ => "VFADD_VS"
  | .vfmulVs _ _ _ _ _ _ => "VFMUL_VS"
  | .vfmaVs _ _ _ _ _ _ => "VFMA_VS"
  | .pand _ _ _ => "PAND"
  | .por _ _ _ => "POR"
  | .pxor _ _ _ => "PXOR"
  | .pandn _ _ _ => "PANDN"
  | .pnot _ _ => "PNOT"
  | .pmov _ _ => "PMOV"
  | .psetn _ _ => "PSETN"
  | .pclr _ => "PCLR"
  | .pfirst _ _ => "PFIRST"
  | .pcnt _ _ => "PCNT"
  | .mma _ _ _ _ => "MMA"
  | .mzero _ => "MZERO"
  | .mepi _ _ _ _ => "MEPI"
  | .mcks _ _ _ => "MCKS"
  | .ld _ _ _ _ => "LD"
  | .ldN _ _ _ _ => "LD_N"
  | .st _ _ _ _ => "ST"
  | .lda _ _ _ _ _ => "LDA"
  | .ldp _ _ _ _ _ => "LDP"
  | .stp _ _ _ _ => "STP"
  | .ldpC _ _ _ => "LDP_C"
  | .vld _ _ _ _ => "VLD"
  | .vldS _ _ _ _ _ => "VLD_S"
  | .vst _ _ _ _ => "VST"
  | .vstCk _ _ _ _ _ => "VST_CK"
  | .vstS _ _ _ _ _ => "VST_S"
  | .vgld _ _ _ _ _ => "VGLD"
  | .vgldX2 _ _ _ _ _ => "VGLD_X2"
  | .vsst _ _ _ _ _ => "VSST"
  | .vldp _ _ _ _ => "VLDP"
  | .vldpC _ _ _ _ => "VLDP_C"
  | .vstp _ _ _ _ => "VSTP"
  | .pst _ _ => "PST"
  | .pstV _ _ _ _ => "PST_V"
  | .xcopy _ _ _ _ _ _ _ => "XCOPY"
  | .wbind _ _ => "WBIND"
  | .wunb _ => "WUNB"
  | .wskip _ _ => "WSKIP"
  | .wpos _ _ => "WPOS"
  | .amoSwap _ _ _ _ _ _ => "AMO_SWAP"
  | .amoCas _ _ _ _ _ _ => "AMO_CAS"
  | .amoAdd _ _ _ _ _ _ => "AMO_ADD"
  | .amoAnd _ _ _ _ _ _ => "AMO_AND"
  | .amoOr _ _ _ _ _ _ => "AMO_OR"
  | .amoXor _ _ _ _ _ _ => "AMO_XOR"
  | .amoMin _ _ _ _ _ _ => "AMO_MIN"
  | .amoMax _ _ _ _ _ _ => "AMO_MAX"
  | .amoMinN _ _ _ _ _ _ => "AMO_MIN_N"
  | .amoMaxN _ _ _ _ _ _ => "AMO_MAX_N"
  | .amoFadd _ _ _ _ _ _ => "AMO_FADD"
  | .redAdd _ _ _ => "RED_ADD"
  | .redAnd _ _ _ => "RED_AND"
  | .redOr _ _ _ => "RED_OR"
  | .redXor _ _ _ => "RED_XOR"
  | .redMin _ _ _ => "RED_MIN"
  | .redMax _ _ _ => "RED_MAX"
  | .redMinN _ _ _ => "RED_MIN_N"
  | .redMaxN _ _ _ => "RED_MAX_N"
  | .redFadd _ _ _ => "RED_FADD"
  | .vamo _ _ _ _ _ => "VAMO"
  | .vred _ _ _ _ _ => "VRED"
  | .gll _ _ _ _ _ => "GLL"
  | .scc _ _ _ _ _ => "SCC"
  | .fence _ => "FENCE"
  | .fenceRel _ => "FENCE_REL"
  | .fenceAcq _ => "FENCE_ACQ"
  | .fenceScPkg => "FENCE_SC_PKG"
  | .fenceSv => "FENCE_SV"
  | .fenceVs => "FENCE_VS"
  | .pbarOrder => "PBAR_ORDER"
  | .pbarComplete => "PBAR_COMPLETE"
  | .pflush _ => "PFLUSH"
  | .prefL1 _ _ _ => "PREF_L1"
  | .prefL2 _ _ _ => "PREF_L2"
  | .dlg _ _ _ => "DLG"
  | .dlgAm _ _ => "DLG_AM"
  | .cmoInv _ => "CMO_INV"
  | .cmoWb _ => "CMO_WB"
  | .cmoZero _ => "CMO_ZERO"
  | .cmoPfr _ _ => "CMO_PFR"
  | .cmoPfw _ _ => "CMO_PFW"
  | .cmoObjclr _ => "CMO_OBJCLR"
  | .qinit _ _ _ => "QINIT"
  | .qfree _ _ => "QFREE"
  | .qstat _ _ _ => "QSTAT"
  | .qpeek _ _ _ => "QPEEK"
  | .enqTry _ _ _ => "ENQ_TRY"
  | .enqWait _ _ => "ENQ_WAIT"
  | .deqTry _ _ _ => "DEQ_TRY"
  | .deqWait _ _ => "DEQ_WAIT"
  | .venqTry _ _ _ => "VENQ_TRY"
  | .venqWait _ _ => "VENQ_WAIT"
  | .vdeqTry _ _ _ => "VDEQ_TRY"
  | .vdeqWait _ _ => "VDEQ_WAIT"
  | .tspawn _ _ => "TSPAWN"
  | .tend => "TEND"
  | .yield => "YIELD"
  | .gjoin _ _ => "GJOIN"
  | .gang _ _ _ => "GANG"
  | .ungang => "UNGANG"
  | .wqry _ _ _ => "WQRY"
  | .wqryOpen _ _ _ => "WQRY_OPEN"
  | .tlbiVa _ _ => "TLBI_VA"
  | .tlbiPart _ => "TLBI_PART"
  | .tlbiAll => "TLBI_ALL"
  | .probe _ _ _ => "PROBE"
  | .gissue _ _ _ => "GISSUE"
  | .grevoke _ _ => "GREVOKE"
  | .gcheck _ _ _ => "GCHECK"
  | .kvalloc _ _ _ => "KVALLOC"
  | .kvallocInit _ _ _ => "KVALLOC_INIT"
  | .kvref _ _ _ => "KVREF"
  | .kvunref _ _ _ => "KVUNREF"
  | .kvapp _ _ _ => "KVAPP"
  | .kvspl _ _ _ => "KVSPL"
  | .kvreq _ _ _ => "KVREQ"
  | .kvsrcGet _ _ _ => "KVSRC_GET"
  | .kvsrcSet _ _ _ => "KVSRC_SET"
  | .kvsrcBump _ _ _ => "KVSRC_BUMP"
  | .kvg _ _ _ _ => "KVG"
  | .kvgStale _ _ _ _ => "KVG_STALE"
  | .kvgRep _ _ _ _ => "KVG_REP"
  | .kvgAny _ _ _ _ => "KVG_ANY"
  | .rkjob _ _ => "RKJOB"
  | .rkstat _ _ => "RKSTAT"
  | .rkcancel _ _ => "RKCANCEL"
  | .await _ _ => "AWAIT"
  | .awaitT _ _ => "AWAIT_T"
  | .awaitany _ _ => "AWAITANY"
  | .celli _ _ _ => "CELLI"
  | .signal _ _ _ _ _ => "SIGNAL"
  | .cread _ _ _ => "CREAD"
  | .rvinit _ _ _ => "RVINIT"
  | .rvarr _ _ _ => "RVARR"
  | .rvfree _ _ => "RVFREE"
  | .barw _ => "BARW"
  | .waituntil _ _ => "WAITUNTIL"
  | .reportRound => "REPORT_ROUND"
  | .launchDequeue _ => "LAUNCH_DEQUEUE"
  | .launchCancel _ => "LAUNCH_CANCEL"
  | .panClaim _ _ => "PAN_CLAIM"
  | .creationMessage _ _ _ _ => "CREATION_MESSAGE"
  | .endMessage _ _ _ => "END_MESSAGE"
  | .tspawnRequest _ _ _ _ => "TSPAWN_REQUEST"
  | .gjoinRequest _ _ _ _ => "GJOIN_REQUEST"
  | .wqryRequest _ _ _ _ _ _ => "WQRY_REQUEST"
  | .wqryOpenRequest _ _ _ _ => "WQRY_OPEN_REQUEST"
  | .trestartRequest _ _ _ _ => "TRESTART_REQUEST"
  | .sluiceReply _ _ _ => "SLUICE_REPLY"
  | .preemptionMessage _ _ => "PREEMPTION_MESSAGE"
  | .preemptionAcknowledgement _ _ => "PREEMPTION_ACKNOWLEDGEMENT"
  | .resumptionMessage _ _ => "RESUMPTION_MESSAGE"
  | .quantumExpiry _ => "QUANTUM_EXPIRY"
  | .stallPromisePassed _ => "STALL_PROMISE_PASSED"
  | .tokenWake _ _ _ => "TOKEN_WAKE"
  | .tokenRegistration _ _ _ _ => "TOKEN_REGISTRATION"
  | .timerTokenReady _ _ => "TIMER_TOKEN_READY"
  | .awaitTimeout _ _ => "AWAIT_TIMEOUT"
  | .waituntilTime _ _ => "WAITUNTIL_TIME"
  | .backgroundRestore _ => "BACKGROUND_RESTORE"
  | .backgroundRestoreDone _ => "BACKGROUND_RESTORE_DONE"
  | .thermalRankingTable _ _ => "THERMAL_RANKING_TABLE"
  | .thermalCclimStep _ _ => "THERMAL_CCLIM_STEP"
  | .mobileRecord _ _ _ => "MOBILE_RECORD"
  | .mailboxCsrWrite _ _ _ => "MAILBOX_CSR_WRITE"
  | .levellingVisit _ => "LEVELLING_VISIT"
  | .delegation _ _ _ _ _ _ => "DELEGATION"
  | .activeMessage _ _ _ _ _ => "ACTIVE_MESSAGE"
  | .delegationReply _ _ _ => "DELEGATION_REPLY"
  | .serviceRoutineTimeout _ => "SERVICE_ROUTINE_TIMEOUT"
  | .gangJoin _ _ _ _ _ _ => "GANG_JOIN"
  | .gangFormationTimeout _ => "GANG_FORMATION_TIMEOUT"
  | .gangOperandMessage _ _ => "GANG_OPERAND_MESSAGE"
  | .presenceStoreLanding _ _ _ => "PRESENCE_STORE_LANDING"
  | .ldaDataArrival _ _ => "LDA_DATA_ARRIVAL"
  | .vamoElementArrival _ _ _ => "VAMO_ELEMENT_ARRIVAL"
  | .wellRefillLanding _ _ => "WELL_REFILL_LANDING"
  | .transferComplete _ _ _ => "TRANSFER_COMPLETE"
  | .channelCellResume _ _ => "CHANNEL_CELL_RESUME"
  | .storeBufferDrain _ => "STORE_BUFFER_DRAIN"
  | .durableStoreAccept _ => "DURABLE_STORE_ACCEPT"
  | .persistAcknowledgement _ => "PERSIST_ACKNOWLEDGEMENT"
  | .containmentScrub _ _ => "CONTAINMENT_SCRUB"
  | .queueWaiterWake _ _ => "QUEUE_WAITER_WAKE"
  | .waiterTableRetry _ _ => "WAITER_TABLE_RETRY"
  | .wireBarrierRelease _ => "WIRE_BARRIER_RELEASE"
  | .barrierTimeout _ _ => "BARRIER_TIMEOUT"
  | .deferredArrival _ _ _ => "DEFERRED_ARRIVAL"
  | .postedSignalRefused _ _ _ _ _ => "POSTED_SIGNAL_REFUSED"
  | .fabricErrorResponse _ => "FABRIC_ERROR_RESPONSE"
  | .ingressRequest _ _ _ _ _ _ _ => "INGRESS_REQUEST"
  | .leaseExpiry _ => "LEASE_EXPIRY"
  | .retentionEntry _ _ => "RETENTION_ENTRY"
  | .retentionExit _ _ => "RETENTION_EXIT"
  | .rakeJobStart _ _ => "RAKE_JOB_START"
  | .rakeLayerAdvance _ _ => "RAKE_LAYER_ADVANCE"
  | .hostMemRead _ _ => "HOST_MEM_READ"
  | .hostMemWrite _ _ _ => "HOST_MEM_WRITE"
  | .hostTailStore _ _ _ => "HOST_TAIL_STORE"
  | .hostBiResponse _ => "HOST_BI_RESPONSE"
  | .attestationRequest _ => "ATTESTATION_REQUEST"
  | .attestationSigned => "ATTESTATION_SIGNED"
  | .stationDown _ => "STATION_DOWN"
  | .bitternResize _ _ => "BITTERN_RESIZE"
  | .partitionLiveWrite _ => "PARTITION_LIVE_WRITE"
  | .grantKeyRotation _ _ => "GRANT_KEY_ROTATION"
  | .controlSpaceWrite _ _ => "CONTROL_SPACE_WRITE"
  | .adaptiveVoltagePeriod _ => "ADAPTIVE_VOLTAGE_PERIOD"
  | .equalisationPeriod => "EQUALISATION_PERIOD"
  | .thresholdPeriod _ => "THRESHOLD_PERIOD"
  | .railDroop _ _ => "RAIL_DROOP"
  | .overtemperature _ => "OVERTEMPERATURE"
  | .freezeSignal => "FREEZE_SIGNAL"
  | .powerLoss => "POWER_LOSS"
  | .packageReset _ => "PACKAGE_RESET"
  | .nonInstruction _ => "NON_INSTRUCTION"
  | .coreCheckFailure _ => "CORE_CHECK_FAILURE"
  | .mapOutDone _ => "MAP_OUT_DONE"
  | .panPreparationDone _ _ => "PAN_PREPARATION_DONE"
  | .persistBufferDrain => "PERSIST_BUFFER_DRAIN"
  | .stationUp _ => "STATION_UP"
  | .fabricStoreAcknowledgement _ => "FABRIC_STORE_ACKNOWLEDGEMENT"
  | .rakeCopyResume _ _ => "RAKE_COPY_RESUME"

/-- Bytes an instruction occupies: 2 or 4 (R72); 0 for an event row, which has no encoding. -/
def Instr.size : Instr → Nat
  | .add _ _ _ => 4
  | .sub _ _ _ => 4
  | .and _ _ _ => 4
  | .or _ _ _ => 4
  | .xor _ _ _ => 4
  | .andn _ _ _ => 4
  | .shl _ _ _ => 4
  | .shr _ _ _ => 4
  | .sar _ _ _ => 4
  | .rol _ _ _ => 4
  | .min _ _ _ => 4
  | .max _ _ _ => 4
  | .minN _ _ _ => 4
  | .maxN _ _ _ => 4
  | .slt _ _ _ => 4
  | .sltN _ _ _ => 4
  | .seq _ _ _ => 4
  | .mul _ _ _ => 4
  | .mulh _ _ _ => 4
  | .mulhN _ _ _ => 4
  | .div _ _ _ => 4
  | .divN _ _ _ => 4
  | .rem _ _ _ => 4
  | .remN _ _ _ => 4
  | .clz _ _ => 4
  | .ctz _ _ => 4
  | .popc _ _ => 4
  | .addi _ _ _ => 4
  | .andi _ _ _ => 4
  | .ori _ _ _ => 4
  | .xori _ _ _ => 4
  | .shli _ _ _ => 4
  | .shri _ _ _ => 4
  | .sari _ _ _ => 4
  | .slti _ _ _ => 4
  | .li _ _ => 4
  | .lih _ _ => 4
  | .ext _ _ _ _ _ => 4
  | .ins _ _ _ _ => 4
  | .mkpl _ _ _ _ _ => 4
  | .mkplAbs _ _ _ _ _ => 4
  | .csrr _ _ => 4
  | .csrw _ _ _ => 4
  | .csrs _ _ _ => 4
  | .csrc _ _ _ => 4
  | .oxl _ _ _ _ => 4
  | .oxm _ _ => 4
  | .oxr _ _ => 4
  | .b _ => 4
  | .call _ => 4
  | .jr _ _ _ => 4
  | .beq _ _ _ => 4
  | .bne _ _ _ => 4
  | .blt _ _ _ => 4
  | .bge _ _ _ => 4
  | .bltN _ _ _ => 4
  | .bgeN _ _ _ => 4
  | .bpAny _ _ => 4
  | .bpNone _ _ => 4
  | .bpAll _ _ => 4
  | .bpNall _ _ => 4
  | .nop => 4
  | .trap _ => 4
  | .eret => 4
  | .fenceI => 4
  | .seal _ _ => 4
  | .unseal _ _ => 4
  | .trestart _ _ _ => 4
  | .dbgfreeze => 4
  | .cMov _ _ => 2
  | .cAdd _ _ => 2
  | .cSub _ _ => 2
  | .cAnd _ _ => 2
  | .cAddi _ _ => 2
  | .cLi _ _ => 2
  | .cShli _ _ => 2
  | .cLd _ _ => 2
  | .cSt _ _ => 2
  | .cB _ => 2
  | .cBeqz _ _ => 2
  | .cBnez _ _ => 2
  | .cRet => 2
  | .cAwait _ _ => 2
  | .cNop => 2
  | .cOr _ _ => 2
  | .cXor _ _ => 2
  | .cShri _ _ => 2
  | .cSari _ _ => 2
  | .cLdw _ _ => 2
  | .cStw _ _ => 2
  | .cSlt _ _ => 2
  | .cShl _ _ => 2
  | .cShr _ _ => 2
  | .cNeg _ _ => 2
  | .cSeq _ _ => 2
  | .cMul _ _ => 2
  | .cYield => 2
  | .cTend => 2
  | .cMin _ _ => 2
  | .cMax _ _ => 2
  | .vset _ _ _ _ _ => 4
  | .vsetKeep _ _ _ _ => 4
  | .vadd _ _ _ _ _ => 4
  | .vsub _ _ _ _ _ => 4
  | .vmul _ _ _ _ _ => 4
  | .vmulh _ _ _ _ _ => 4
  | .vmacc _ _ _ _ _ => 4
  | .vmin _ _ _ _ _ => 4
  | .vmax _ _ _ _ _ => 4
  | .vand _ _ _ _ _ => 4
  | .vor _ _ _ _ _ => 4
  | .vxor _ _ _ _ _ => 4
  | .vshl _ _ _ _ _ => 4
  | .vshr _ _ _ _ _ => 4
  | .vsar _ _ _ _ _ => 4
  | .vadds _ _ _ _ _ => 4
  | .vsubs _ _ _ _ _ => 4
  | .vfadd _ _ _ _ _ => 4
  | .vfsub _ _ _ _ _ => 4
  | .vfmul _ _ _ _ _ => 4
  | .vfma _ _ _ _ _ => 4
  | .vfms _ _ _ _ _ => 4
  | .vfnma _ _ _ _ _ => 4
  | .vfmin _ _ _ _ _ => 4
  | .vfmax _ _ _ _ _ => 4
  | .vfdiv _ _ _ _ _ => 4
  | .vmov _ _ _ _ => 4
  | .vabs _ _ _ _ => 4
  | .vneg _ _ _ _ => 4
  | .vnot _ _ _ _ => 4
  | .vclz _ _ _ _ => 4
  | .vpopc _ _ _ _ => 4
  | .vfabs _ _ _ _ => 4
  | .vfneg _ _ _ _ => 4
  | .vfsqrt _ _ _ _ => 4
  | .vfrsq _ _ _ _ => 4
  | .vfrcp _ _ _ _ => 4
  | .vfexp2 _ _ _ _ => 4
  | .vflog2 _ _ _ _ => 4
  | .vftanh _ _ _ _ => 4
  | .vfclass _ _ _ _ => 4
  | .vunpk4Lo _ _ _ _ => 4
  | .vunpk4Hi _ _ _ _ => 4
  | .vpack4 _ _ _ _ => 4
  | .vcvtI8 _ _ _ _ => 4
  | .vcvtN8 _ _ _ _ => 4
  | .vcvtI16 _ _ _ _ => 4
  | .vcvtN16 _ _ _ _ => 4
  | .vcvtI32 _ _ _ _ => 4
  | .vcvtN32 _ _ _ _ => 4
  | .vcvtI64 _ _ _ _ => 4
  | .vcvtF64 _ _ _ _ => 4
  | .vcvtF32 _ _ _ _ => 4
  | .vcvtF16 _ _ _ _ => 4
  | .vcvtBf16 _ _ _ _ => 4
  | .vcvtE4m3 _ _ _ _ => 4
  | .vcvtE5m2 _ _ _ _ => 4
  | .vcvtE2m1 _ _ _ _ => 4
  | .vcmpEq _ _ _ _ => 4
  | .vcmpNe _ _ _ _ => 4
  | .vcmpLt _ _ _ _ => 4
  | .vcmpGe _ _ _ _ => 4
  | .vcmpLe _ _ _ _ => 4
  | .vcmpGt _ _ _ _ => 4
  | .vfcmpEq _ _ _ _ => 4
  | .vfcmpNe _ _ _ _ => 4
  | .vfcmpLt _ _ _ _ => 4
  | .vfcmpGe _ _ _ _ => 4
  | .vfcmpLe _ _ _ _ => 4
  | .vfcmpGt _ _ _ _ => 4
  | .vfcmpUno _ _ _ _ => 4
  | .vfcmpOrd _ _ _ _ => 4
  | .vmerge _ _ _ _ _ => 4
  | .vslideup _ _ _ _ _ => 4
  | .vslideupRot _ _ _ _ _ => 4
  | .vslidedn _ _ _ _ _ => 4
  | .vslidednRot _ _ _ _ _ => 4
  | .vgathr _ _ _ _ _ => 4
  | .vcompress _ _ _ _ => 4
  | .vexpand _ _ _ _ => 4
  | .vbcast _ _ _ _ => 4
  | .vbcastE _ _ _ _ _ => 4
  | .vextr _ _ _ => 4
  | .vextrSx _ _ _ => 4
  | .vins _ _ _ _ _ => 4
  | .vinsCv _ _ _ _ _ => 4
  | .vfoldSum _ _ _ _ => 4
  | .vfoldMin _ _ _ _ => 4
  | .vfoldMax _ _ _ _ => 4
  | .vfoldAnd _ _ _ _ => 4
  | .vfoldOr _ _ _ _ => 4
  | .vfoldXor _ _ _ _ => 4
  | .vfoldFsum _ _ _ _ => 4
  | .vfoldFmin _ _ _ _ => 4
  | .vfoldFmax _ _ _ _ => 4
  | .vidx _ _ _ => 4
  | .vrand _ _ _ => 4
  | .vramp _ _ _ _ => 4
  | .vrampC _ _ _ _ => 4
  | .vrampW _ _ _ _ => 4
  | .vrampCW _ _ _ _ => 4
  | .vbsc _ _ _ _ _ => 4
  | .vfscl _ _ _ _ _ => 4
  | .vaddVs _ _ _ _ _ _ => 4
  | .vmulVs _ _ _ _ _ _ => 4
  | .vfaddVs _ _ _ _ _ _ => 4
  | .vfmulVs _ _ _ _ _ _ => 4
  | .vfmaVs _ _ _ _ _ _ => 4
  | .pand _ _ _ => 4
  | .por _ _ _ => 4
  | .pxor _ _ _ => 4
  | .pandn _ _ _ => 4
  | .pnot _ _ => 4
  | .pmov _ _ => 4
  | .psetn _ _ => 4
  | .pclr _ => 4
  | .pfirst _ _ => 4
  | .pcnt _ _ => 4
  | .mma _ _ _ _ => 4
  | .mzero _ => 4
  | .mepi _ _ _ _ => 4
  | .mcks _ _ _ => 4
  | .ld _ _ _ _ => 4
  | .ldN _ _ _ _ => 4
  | .st _ _ _ _ => 4
  | .lda _ _ _ _ _ => 4
  | .ldp _ _ _ _ _ => 4
  | .stp _ _ _ _ => 4
  | .ldpC _ _ _ => 4
  | .vld _ _ _ _ => 4
  | .vldS _ _ _ _ _ => 4
  | .vst _ _ _ _ => 4
  | .vstCk _ _ _ _ _ => 4
  | .vstS _ _ _ _ _ => 4
  | .vgld _ _ _ _ _ => 4
  | .vgldX2 _ _ _ _ _ => 4
  | .vsst _ _ _ _ _ => 4
  | .vldp _ _ _ _ => 4
  | .vldpC _ _ _ _ => 4
  | .vstp _ _ _ _ => 4
  | .pst _ _ => 4
  | .pstV _ _ _ _ => 4
  | .xcopy _ _ _ _ _ _ _ => 4
  | .wbind _ _ => 4
  | .wunb _ => 4
  | .wskip _ _ => 4
  | .wpos _ _ => 4
  | .amoSwap _ _ _ _ _ _ => 4
  | .amoCas _ _ _ _ _ _ => 4
  | .amoAdd _ _ _ _ _ _ => 4
  | .amoAnd _ _ _ _ _ _ => 4
  | .amoOr _ _ _ _ _ _ => 4
  | .amoXor _ _ _ _ _ _ => 4
  | .amoMin _ _ _ _ _ _ => 4
  | .amoMax _ _ _ _ _ _ => 4
  | .amoMinN _ _ _ _ _ _ => 4
  | .amoMaxN _ _ _ _ _ _ => 4
  | .amoFadd _ _ _ _ _ _ => 4
  | .redAdd _ _ _ => 4
  | .redAnd _ _ _ => 4
  | .redOr _ _ _ => 4
  | .redXor _ _ _ => 4
  | .redMin _ _ _ => 4
  | .redMax _ _ _ => 4
  | .redMinN _ _ _ => 4
  | .redMaxN _ _ _ => 4
  | .redFadd _ _ _ => 4
  | .vamo _ _ _ _ _ => 4
  | .vred _ _ _ _ _ => 4
  | .gll _ _ _ _ _ => 4
  | .scc _ _ _ _ _ => 4
  | .fence _ => 4
  | .fenceRel _ => 4
  | .fenceAcq _ => 4
  | .fenceScPkg => 4
  | .fenceSv => 4
  | .fenceVs => 4
  | .pbarOrder => 4
  | .pbarComplete => 4
  | .pflush _ => 4
  | .prefL1 _ _ _ => 4
  | .prefL2 _ _ _ => 4
  | .dlg _ _ _ => 4
  | .dlgAm _ _ => 4
  | .cmoInv _ => 4
  | .cmoWb _ => 4
  | .cmoZero _ => 4
  | .cmoPfr _ _ => 4
  | .cmoPfw _ _ => 4
  | .cmoObjclr _ => 4
  | .qinit _ _ _ => 4
  | .qfree _ _ => 4
  | .qstat _ _ _ => 4
  | .qpeek _ _ _ => 4
  | .enqTry _ _ _ => 4
  | .enqWait _ _ => 4
  | .deqTry _ _ _ => 4
  | .deqWait _ _ => 4
  | .venqTry _ _ _ => 4
  | .venqWait _ _ => 4
  | .vdeqTry _ _ _ => 4
  | .vdeqWait _ _ => 4
  | .tspawn _ _ => 4
  | .tend => 4
  | .yield => 4
  | .gjoin _ _ => 4
  | .gang _ _ _ => 4
  | .ungang => 4
  | .wqry _ _ _ => 4
  | .wqryOpen _ _ _ => 4
  | .tlbiVa _ _ => 4
  | .tlbiPart _ => 4
  | .tlbiAll => 4
  | .probe _ _ _ => 4
  | .gissue _ _ _ => 4
  | .grevoke _ _ => 4
  | .gcheck _ _ _ => 4
  | .kvalloc _ _ _ => 4
  | .kvallocInit _ _ _ => 4
  | .kvref _ _ _ => 4
  | .kvunref _ _ _ => 4
  | .kvapp _ _ _ => 4
  | .kvspl _ _ _ => 4
  | .kvreq _ _ _ => 4
  | .kvsrcGet _ _ _ => 4
  | .kvsrcSet _ _ _ => 4
  | .kvsrcBump _ _ _ => 4
  | .kvg _ _ _ _ => 4
  | .kvgStale _ _ _ _ => 4
  | .kvgRep _ _ _ _ => 4
  | .kvgAny _ _ _ _ => 4
  | .rkjob _ _ => 4
  | .rkstat _ _ => 4
  | .rkcancel _ _ => 4
  | .await _ _ => 4
  | .awaitT _ _ => 4
  | .awaitany _ _ => 4
  | .celli _ _ _ => 4
  | .signal _ _ _ _ _ => 4
  | .cread _ _ _ => 4
  | .rvinit _ _ _ => 4
  | .rvarr _ _ _ => 4
  | .rvfree _ _ => 4
  | .barw _ => 4
  | .waituntil _ _ => 4
  | .reportRound => 0
  | .launchDequeue _ => 0
  | .launchCancel _ => 0
  | .panClaim _ _ => 0
  | .creationMessage _ _ _ _ => 0
  | .endMessage _ _ _ => 0
  | .tspawnRequest _ _ _ _ => 0
  | .gjoinRequest _ _ _ _ => 0
  | .wqryRequest _ _ _ _ _ _ => 0
  | .wqryOpenRequest _ _ _ _ => 0
  | .trestartRequest _ _ _ _ => 0
  | .sluiceReply _ _ _ => 0
  | .preemptionMessage _ _ => 0
  | .preemptionAcknowledgement _ _ => 0
  | .resumptionMessage _ _ => 0
  | .quantumExpiry _ => 0
  | .stallPromisePassed _ => 0
  | .tokenWake _ _ _ => 0
  | .tokenRegistration _ _ _ _ => 0
  | .timerTokenReady _ _ => 0
  | .awaitTimeout _ _ => 0
  | .waituntilTime _ _ => 0
  | .backgroundRestore _ => 0
  | .backgroundRestoreDone _ => 0
  | .thermalRankingTable _ _ => 0
  | .thermalCclimStep _ _ => 0
  | .mobileRecord _ _ _ => 0
  | .mailboxCsrWrite _ _ _ => 0
  | .levellingVisit _ => 0
  | .delegation _ _ _ _ _ _ => 0
  | .activeMessage _ _ _ _ _ => 0
  | .delegationReply _ _ _ => 0
  | .serviceRoutineTimeout _ => 0
  | .gangJoin _ _ _ _ _ _ => 0
  | .gangFormationTimeout _ => 0
  | .gangOperandMessage _ _ => 0
  | .presenceStoreLanding _ _ _ => 0
  | .ldaDataArrival _ _ => 0
  | .vamoElementArrival _ _ _ => 0
  | .wellRefillLanding _ _ => 0
  | .transferComplete _ _ _ => 0
  | .channelCellResume _ _ => 0
  | .storeBufferDrain _ => 0
  | .durableStoreAccept _ => 0
  | .persistAcknowledgement _ => 0
  | .containmentScrub _ _ => 0
  | .queueWaiterWake _ _ => 0
  | .waiterTableRetry _ _ => 0
  | .wireBarrierRelease _ => 0
  | .barrierTimeout _ _ => 0
  | .deferredArrival _ _ _ => 0
  | .postedSignalRefused _ _ _ _ _ => 0
  | .fabricErrorResponse _ => 0
  | .ingressRequest _ _ _ _ _ _ _ => 0
  | .leaseExpiry _ => 0
  | .retentionEntry _ _ => 0
  | .retentionExit _ _ => 0
  | .rakeJobStart _ _ => 0
  | .rakeLayerAdvance _ _ => 0
  | .hostMemRead _ _ => 0
  | .hostMemWrite _ _ _ => 0
  | .hostTailStore _ _ _ => 0
  | .hostBiResponse _ => 0
  | .attestationRequest _ => 0
  | .attestationSigned => 0
  | .stationDown _ => 0
  | .bitternResize _ _ => 0
  | .partitionLiveWrite _ => 0
  | .grantKeyRotation _ _ => 0
  | .controlSpaceWrite _ _ => 0
  | .adaptiveVoltagePeriod _ => 0
  | .equalisationPeriod => 0
  | .thresholdPeriod _ => 0
  | .railDroop _ _ => 0
  | .overtemperature _ => 0
  | .freezeSignal => 0
  | .powerLoss => 0
  | .packageReset _ => 0
  | .nonInstruction _ => 0
  | .coreCheckFailure _ => 0
  | .mapOutDone _ => 0
  | .panPreparationDone _ _ => 0
  | .persistBufferDrain => 0
  | .stationUp _ => 0
  | .fabricStoreAcknowledgement _ => 0
  | .rakeCopyResume _ _ => 0

end Sys2Proof
end

