-- ==== Sys2Proof/WellFormed.lean ====
section
/-! DEFINITION. Well-formed instructions: the field values the spec allows whatever the state (R75, R76, R83 and the
instruction descriptions). A word whose fields break one of them decodes, and raises Illegal instruction when it runs. -/

namespace Sys2Proof

/-- A governing predicate p0-p23, and no complement of p0 (R75). -/
def predOk (p : BitVec 5) (n : BitVec 1) : Bool := decide (p.toNat < 24) && !(decide (n = 1) && decide (p = 0))
/-- A predicate source p0-p23 (R75). -/
def predSrcOk (p : BitVec 5) : Bool := decide (p.toNat < 24)
/-- A predicate destination p1-p23 (R75). -/
def predDestOk (p : BitVec 5) : Bool := decide (p.toNat < 24) && decide (p ≠ 0)
/-- A bit field inside 64 bits: POS + LEN at most 64 (R131). -/
def fieldOk (l p : BitVec 6) : Bool := decide (p.toNat + (l.toNat + 1) ≤ 64)
/-- The CSR numbers of R117. -/
def csrAssigned (c : BitVec 12) : Bool :=
  let n := c.toNat
  decide (n ≤ 0x00E) || (decide (0x020 ≤ n) && decide (n ≤ 0x027)) || (decide (0x030 ≤ n) && decide (n ≤ 0x044))
    || (decide (0x048 ≤ n) && decide (n ≤ 0x04B)) || (decide (0x050 ≤ n) && decide (n ≤ 0x057))
/-- K registers from oxN: N below 8 and N + K at most 8 (R136). -/
def oxRangeOk (n : BitVec 5) (k : BitVec 3) : Bool := decide (n.toNat + (k.toNat + 1) ≤ 8)
/-- One ox number below 8 (R136). -/
def oxOk (n : BitVec 5) : Bool := decide (n.toNat < 8)
/-- An absolute place field: X and Y at most 15 (R132). -/
def absPlaceOk (y x : BitVec 5) : Bool := decide (y.toNat < 16) && decide (x.toNat < 16)
/-- A type of VTY: SEWC at most 4, FMT at most 10, and the widths R89 allows for the code (R158). -/
def vtypeOk (f : BitVec 4) (s : BitVec 3) : Bool :=
  match f.toNat with
  | 0 => decide (1 ≤ s.toNat) && decide (s.toNat ≤ 4)
  | 1 => decide (1 ≤ s.toNat) && decide (s.toNat ≤ 4)
  | 2 => decide (2 ≤ s.toNat) && decide (s.toNat ≤ 4)
  | 3 => decide (s.toNat = 2)
  | 4 => decide (s.toNat = 1)
  | 5 => decide (s.toNat = 1)
  | 6 => decide (s.toNat = 0)
  | 7 => decide (s.toNat = 1)
  | 8 => decide (s.toNat = 1)
  | 9 => decide (s.toNat = 0)
  | 10 => decide (s.toNat = 0)
  | _ => false
/-- An atomic's ordering fields: a scope only with an order (R273). -/
def orderOk (o c : BitVec 2) : Bool := !(decide (o = 0) && decide (c ≠ 0))
/-- A fence scope 0 to 5 (R276). -/
def fenceScopeOk (s : BitVec 3) : Bool := decide (s.toNat ≤ 5)
/-- A signal scope 1 to 5 (R382). -/
def signalScopeOk (s : BitVec 3) : Bool := decide (1 ≤ s.toNat) && decide (s.toNat ≤ 5)
/-- The two token registers of awaitany exist (R78). -/
def pairOk (t : BitVec 5) : Bool := decide (t ≠ 31)
/-- The destination and the token register of lda differ, and the token register is not s0 (R261). -/
def ldaOk (d t : BitVec 5) : Bool := decide (t ≠ d) && decide (t ≠ 0)


/-- The field values the spec allows, whatever the state. -/
def wellFormed : Instr → Bool
  | .add _ _ _ => true
  | .sub _ _ _ => true
  | .and _ _ _ => true
  | .or _ _ _ => true
  | .xor _ _ _ => true
  | .andn _ _ _ => true
  | .shl _ _ _ => true
  | .shr _ _ _ => true
  | .sar _ _ _ => true
  | .rol _ _ _ => true
  | .min _ _ _ => true
  | .max _ _ _ => true
  | .minN _ _ _ => true
  | .maxN _ _ _ => true
  | .slt _ _ _ => true
  | .sltN _ _ _ => true
  | .seq _ _ _ => true
  | .mul _ _ _ => true
  | .mulh _ _ _ => true
  | .mulhN _ _ _ => true
  | .div _ _ _ => true
  | .divN _ _ _ => true
  | .rem _ _ _ => true
  | .remN _ _ _ => true
  | .clz _ _ => true
  | .ctz _ _ => true
  | .popc _ _ => true
  | .addi _ _ _ => true
  | .andi _ _ _ => true
  | .ori _ _ _ => true
  | .xori _ _ _ => true
  | .shli _ _ _ => true
  | .shri _ _ _ => true
  | .sari _ _ _ => true
  | .slti _ _ _ => true
  | .li _ _ => true
  | .lih _ _ => true
  | .ext _ _ _ l p => fieldOk l p
  | .ins _ _ l p => fieldOk l p
  | .mkpl _ _ _ _ _ => true
  | .mkplAbs _ _ _ y x => absPlaceOk y x
  | .csrr _ c => csrAssigned c
  | .csrw _ _ c => csrAssigned c
  | .csrs _ _ c => csrAssigned c
  | .csrc _ _ c => csrAssigned c
  | .oxl n _ _ k => oxRangeOk n k
  | .oxm n _ => oxOk n
  | .oxr _ n => oxOk n
  | .b _ => true
  | .call _ => true
  | .jr _ _ _ => true
  | .beq _ _ _ => true
  | .bne _ _ _ => true
  | .blt _ _ _ => true
  | .bge _ _ _ => true
  | .bltN _ _ _ => true
  | .bgeN _ _ _ => true
  | .bpAny p _ => predSrcOk p
  | .bpNone p _ => predSrcOk p
  | .bpAll p _ => predSrcOk p
  | .bpNall p _ => predSrcOk p
  | .nop => true
  | .trap _ => true
  | .eret => true
  | .fenceI => true
  | .seal _ _ => true
  | .unseal _ _ => true
  | .trestart _ _ _ => true
  | .dbgfreeze => true
  | .cMov _ _ => true
  | .cAdd _ _ => true
  | .cSub _ _ => true
  | .cAnd _ _ => true
  | .cAddi _ _ => true
  | .cLi _ _ => true
  | .cShli _ _ => true
  | .cLd _ _ => true
  | .cSt _ _ => true
  | .cB _ => true
  | .cBeqz _ _ => true
  | .cBnez _ _ => true
  | .cRet => true
  | .cAwait _ _ => true
  | .cNop => true
  | .cOr _ _ => true
  | .cXor _ _ => true
  | .cShri _ _ => true
  | .cSari _ _ => true
  | .cLdw _ _ => true
  | .cStw _ _ => true
  | .cSlt _ _ => true
  | .cShl _ _ => true
  | .cShr _ _ => true
  | .cNeg _ _ => true
  | .cSeq _ _ => true
  | .cMul _ _ => true
  | .cYield => true
  | .cTend => true
  | .cMin _ _ => true
  | .cMax _ _ => true
  | .vset _ _ f _ s => vtypeOk f s
  | .vsetKeep _ f _ s => vtypeOk f s
  | .vadd _ _ _ n p => predOk p n
  | .vsub _ _ _ n p => predOk p n
  | .vmul _ _ _ n p => predOk p n
  | .vmulh _ _ _ n p => predOk p n
  | .vmacc _ _ _ n p => predOk p n
  | .vmin _ _ _ n p => predOk p n
  | .vmax _ _ _ n p => predOk p n
  | .vand _ _ _ n p => predOk p n
  | .vor _ _ _ n p => predOk p n
  | .vxor _ _ _ n p => predOk p n
  | .vshl _ _ _ n p => predOk p n
  | .vshr _ _ _ n p => predOk p n
  | .vsar _ _ _ n p => predOk p n
  | .vadds _ _ _ n p => predOk p n
  | .vsubs _ _ _ n p => predOk p n
  | .vfadd _ _ _ n p => predOk p n
  | .vfsub _ _ _ n p => predOk p n
  | .vfmul _ _ _ n p => predOk p n
  | .vfma _ _ _ n p => predOk p n
  | .vfms _ _ _ n p => predOk p n
  | .vfnma _ _ _ n p => predOk p n
  | .vfmin _ _ _ n p => predOk p n
  | .vfmax _ _ _ n p => predOk p n
  | .vfdiv _ _ _ n p => predOk p n
  | .vmov _ _ n p => predOk p n
  | .vabs _ _ n p => predOk p n
  | .vneg _ _ n p => predOk p n
  | .vnot _ _ n p => predOk p n
  | .vclz _ _ n p => predOk p n
  | .vpopc _ _ n p => predOk p n
  | .vfabs _ _ n p => predOk p n
  | .vfneg _ _ n p => predOk p n
  | .vfsqrt _ _ n p => predOk p n
  | .vfrsq _ _ n p => predOk p n
  | .vfrcp _ _ n p => predOk p n
  | .vfexp2 _ _ n p => predOk p n
  | .vflog2 _ _ n p => predOk p n
  | .vftanh _ _ n p => predOk p n
  | .vfclass _ _ n p => predOk p n
  | .vunpk4Lo _ _ n p => predOk p n
  | .vunpk4Hi _ _ n p => predOk p n
  | .vpack4 _ _ n p => predOk p n
  | .vcvtI8 _ _ n p => predOk p n
  | .vcvtN8 _ _ n p => predOk p n
  | .vcvtI16 _ _ n p => predOk p n
  | .vcvtN16 _ _ n p => predOk p n
  | .vcvtI32 _ _ n p => predOk p n
  | .vcvtN32 _ _ n p => predOk p n
  | .vcvtI64 _ _ n p => predOk p n
  | .vcvtF64 _ _ n p => predOk p n
  | .vcvtF32 _ _ n p => predOk p n
  | .vcvtF16 _ _ n p => predOk p n
  | .vcvtBf16 _ _ n p => predOk p n
  | .vcvtE4m3 _ _ n p => predOk p n
  | .vcvtE5m2 _ _ n p => predOk p n
  | .vcvtE2m1 _ _ n p => predOk p n
  | .vcmpEq d _ _ _ => predDestOk d
  | .vcmpNe d _ _ _ => predDestOk d
  | .vcmpLt d _ _ _ => predDestOk d
  | .vcmpGe d _ _ _ => predDestOk d
  | .vcmpLe d _ _ _ => predDestOk d
  | .vcmpGt d _ _ _ => predDestOk d
  | .vfcmpEq d _ _ _ => predDestOk d
  | .vfcmpNe d _ _ _ => predDestOk d
  | .vfcmpLt d _ _ _ => predDestOk d
  | .vfcmpGe d _ _ _ => predDestOk d
  | .vfcmpLe d _ _ _ => predDestOk d
  | .vfcmpGt d _ _ _ => predDestOk d
  | .vfcmpUno d _ _ _ => predDestOk d
  | .vfcmpOrd d _ _ _ => predDestOk d
  | .vmerge _ _ _ n p => predOk p n
  | .vslideup _ _ _ n p => predOk p n
  | .vslideupRot _ _ _ n p => predOk p n
  | .vslidedn _ _ _ n p => predOk p n
  | .vslidednRot _ _ _ n p => predOk p n
  | .vgathr _ _ _ n p => predOk p n
  | .vcompress _ _ n p => predOk p n
  | .vexpand _ _ n p => predOk p n
  | .vbcast _ _ n p => predOk p n
  | .vbcastE _ _ _ n p => predOk p n
  | .vextr _ _ _ => true
  | .vextrSx _ _ _ => true
  | .vins _ _ _ n p => predOk p n
  | .vinsCv _ _ _ n p => predOk p n
  | .vfoldSum _ _ n p => predOk p n
  | .vfoldMin _ _ n p => predOk p n
  | .vfoldMax _ _ n p => predOk p n
  | .vfoldAnd _ _ n p => predOk p n
  | .vfoldOr _ _ n p => predOk p n
  | .vfoldXor _ _ n p => predOk p n
  | .vfoldFsum _ _ n p => predOk p n
  | .vfoldFmin _ _ n p => predOk p n
  | .vfoldFmax _ _ n p => predOk p n
  | .vidx _ n p => predOk p n
  | .vrand _ n p => predOk p n
  | .vramp _ _ n p => predOk p n
  | .vrampC _ _ n p => predOk p n
  | .vrampW _ _ n p => predOk p n
  | .vrampCW _ _ n p => predOk p n
  | .vbsc _ _ _ n p => predOk p n
  | .vfscl _ _ _ n p => predOk p n
  | .vaddVs _ _ _ _ n p => predOk p n
  | .vmulVs _ _ _ _ n p => predOk p n
  | .vfaddVs _ _ _ _ n p => predOk p n
  | .vfmulVs _ _ _ _ n p => predOk p n
  | .vfmaVs _ _ _ _ n p => predOk p n
  | .pand d a b => (predDestOk d && predSrcOk a && predSrcOk b)
  | .por d a b => (predDestOk d && predSrcOk a && predSrcOk b)
  | .pxor d a b => (predDestOk d && predSrcOk a && predSrcOk b)
  | .pandn d a b => (predDestOk d && predSrcOk a && predSrcOk b)
  | .pnot d a => (predDestOk d && predSrcOk a)
  | .pmov d a => (predDestOk d && predSrcOk a)
  | .psetn d _ => predDestOk d
  | .pclr d => predDestOk d
  | .pfirst _ a => predSrcOk a
  | .pcnt _ a => predSrcOk a
  | .mma _ _ _ _ => true
  | .mzero _ => true
  | .mepi _ _ _ _ => true
  | .mcks _ _ _ => true
  | .ld _ _ _ _ => true
  | .ldN _ _ _ _ => true
  | .st _ _ _ _ => true
  | .lda d _ _ t _ => ldaOk d t
  | .ldp _ _ _ _ _ => true
  | .stp _ _ _ _ => true
  | .ldpC _ _ _ => true
  | .vld _ _ n p => predOk p n
  | .vldS _ _ _ n p => predOk p n
  | .vst _ _ n p => predOk p n
  | .vstCk _ _ _ n p => predOk p n
  | .vstS _ _ _ n p => predOk p n
  | .vgld _ _ _ n p => predOk p n
  | .vgldX2 _ _ _ n p => predOk p n
  | .vsst _ _ _ n p => predOk p n
  | .vldp _ _ n p => predOk p n
  | .vldpC _ _ n p => predOk p n
  | .vstp _ _ n p => predOk p n
  | .pst _ _ => true
  | .pstV _ _ n p => predOk p n
  | .xcopy _ _ _ _ _ _ _ => true
  | .wbind _ _ => true
  | .wunb _ => true
  | .wskip _ _ => true
  | .wpos _ _ => true
  | .amoSwap _ _ _ c o _ => orderOk o c
  | .amoCas _ _ _ c o _ => orderOk o c
  | .amoAdd _ _ _ c o _ => orderOk o c
  | .amoAnd _ _ _ c o _ => orderOk o c
  | .amoOr _ _ _ c o _ => orderOk o c
  | .amoXor _ _ _ c o _ => orderOk o c
  | .amoMin _ _ _ c o _ => orderOk o c
  | .amoMax _ _ _ c o _ => orderOk o c
  | .amoMinN _ _ _ c o _ => orderOk o c
  | .amoMaxN _ _ _ c o _ => orderOk o c
  | .amoFadd _ _ _ c o _ => orderOk o c
  | .redAdd _ _ _ => true
  | .redAnd _ _ _ => true
  | .redOr _ _ _ => true
  | .redXor _ _ _ => true
  | .redMin _ _ _ => true
  | .redMax _ _ _ => true
  | .redMinN _ _ _ => true
  | .redMaxN _ _ _ => true
  | .redFadd _ _ _ => true
  | .vamo _ _ _ n p => predOk p n
  | .vred _ _ _ n p => predOk p n
  | .gll _ _ _ n p => predOk p n
  | .scc _ _ _ n p => predOk p n
  | .fence s => fenceScopeOk s
  | .fenceRel s => fenceScopeOk s
  | .fenceAcq s => fenceScopeOk s
  | .fenceScPkg => true
  | .fenceSv => true
  | .fenceVs => true
  | .pbarOrder => true
  | .pbarComplete => true
  | .pflush _ => true
  | .prefL1 _ _ _ => true
  | .prefL2 _ _ _ => true
  | .dlg _ _ _ => true
  | .dlgAm _ _ => true
  | .cmoInv _ => true
  | .cmoWb _ => true
  | .cmoZero _ => true
  | .cmoPfr _ _ => true
  | .cmoPfw _ _ => true
  | .cmoObjclr _ => true
  | .qinit _ _ _ => true
  | .qfree _ _ => true
  | .qstat _ _ _ => true
  | .qpeek _ _ _ => true
  | .enqTry p _ _ => predDestOk p
  | .enqWait _ _ => true
  | .deqTry p _ _ => predDestOk p
  | .deqWait _ _ => true
  | .venqTry _ _ p => predDestOk p
  | .venqWait _ _ => true
  | .vdeqTry _ _ p => predDestOk p
  | .vdeqWait _ _ => true
  | .tspawn _ _ => true
  | .tend => true
  | .yield => true
  | .gjoin _ _ => true
  | .gang _ _ _ => true
  | .ungang => true
  | .wqry _ _ _ => true
  | .wqryOpen _ _ _ => true
  | .tlbiVa _ _ => true
  | .tlbiPart _ => true
  | .tlbiAll => true
  | .probe _ _ _ => true
  | .gissue _ _ _ => true
  | .grevoke _ _ => true
  | .gcheck _ _ _ => true
  | .kvalloc _ _ _ => true
  | .kvallocInit _ _ _ => true
  | .kvref _ _ _ => true
  | .kvunref _ _ _ => true
  | .kvapp _ _ _ => true
  | .kvspl _ _ _ => true
  | .kvreq _ _ _ => true
  | .kvsrcGet _ _ _ => true
  | .kvsrcSet _ _ _ => true
  | .kvsrcBump _ _ _ => true
  | .kvg _ _ _ _ => true
  | .kvgStale _ _ _ _ => true
  | .kvgRep _ _ _ _ => true
  | .kvgAny _ _ _ _ => true
  | .rkjob _ _ => true
  | .rkstat _ _ => true
  | .rkcancel _ _ => true
  | .await _ _ => true
  | .awaitT _ _ => true
  | .awaitany t _ => pairOk t
  | .celli _ _ _ => true
  | .signal _ _ _ _ s => signalScopeOk s
  | .cread _ _ _ => true
  | .rvinit _ _ _ => true
  | .rvarr _ _ _ => true
  | .rvfree _ _ => true
  | .barw _ => true
  | .waituntil _ _ => true
  | .reportRound => true
  | .launchDequeue _ => true
  | .launchCancel _ => true
  | .panClaim _ _ => true
  | .creationMessage _ _ _ _ => true
  | .endMessage _ _ _ => true
  | .tspawnRequest _ _ _ _ => true
  | .gjoinRequest _ _ _ _ => true
  | .wqryRequest _ _ _ _ _ _ => true
  | .wqryOpenRequest _ _ _ _ => true
  | .trestartRequest _ _ _ _ => true
  | .sluiceReply _ _ _ => true
  | .preemptionMessage _ _ => true
  | .preemptionAcknowledgement _ _ => true
  | .resumptionMessage _ _ => true
  | .quantumExpiry _ => true
  | .stallPromisePassed _ => true
  | .tokenWake _ _ _ => true
  | .tokenRegistration _ _ _ _ => true
  | .timerTokenReady _ _ => true
  | .awaitTimeout _ _ => true
  | .waituntilTime _ _ => true
  | .backgroundRestore _ => true
  | .backgroundRestoreDone _ => true
  | .thermalRankingTable _ _ => true
  | .thermalCclimStep _ _ => true
  | .mobileRecord _ _ _ => true
  | .mailboxCsrWrite _ _ _ => true
  | .levellingVisit _ => true
  | .delegation _ _ _ _ _ _ => true
  | .activeMessage _ _ _ _ _ => true
  | .delegationReply _ _ _ => true
  | .serviceRoutineTimeout _ => true
  | .gangJoin _ _ _ _ _ _ => true
  | .gangFormationTimeout _ => true
  | .gangOperandMessage _ _ => true
  | .presenceStoreLanding _ _ _ => true
  | .ldaDataArrival _ _ => true
  | .vamoElementArrival _ _ _ => true
  | .wellRefillLanding _ _ => true
  | .transferComplete _ _ _ => true
  | .channelCellResume _ _ => true
  | .storeBufferDrain _ => true
  | .durableStoreAccept _ => true
  | .persistAcknowledgement _ => true
  | .containmentScrub _ _ => true
  | .queueWaiterWake _ _ => true
  | .waiterTableRetry _ _ => true
  | .wireBarrierRelease _ => true
  | .barrierTimeout _ _ => true
  | .deferredArrival _ _ _ => true
  | .postedSignalRefused _ _ _ _ _ => true
  | .fabricErrorResponse _ => true
  | .ingressRequest _ _ _ _ _ _ _ => true
  | .leaseExpiry _ => true
  | .retentionEntry _ _ => true
  | .retentionExit _ _ => true
  | .rakeJobStart _ _ => true
  | .rakeLayerAdvance _ _ => true
  | .hostMemRead _ _ => true
  | .hostMemWrite _ _ _ => true
  | .hostTailStore _ _ _ => true
  | .hostBiResponse _ => true
  | .attestationRequest _ => true
  | .attestationSigned => true
  | .stationDown _ => true
  | .bitternResize _ _ => true
  | .partitionLiveWrite _ => true
  | .grantKeyRotation _ _ => true
  | .controlSpaceWrite _ _ => true
  | .adaptiveVoltagePeriod _ => true
  | .equalisationPeriod => true
  | .thresholdPeriod _ => true
  | .railDroop _ _ => true
  | .overtemperature _ => true
  | .freezeSignal => true
  | .powerLoss => true
  | .packageReset _ => true
  | .nonInstruction _ => true
  | .coreCheckFailure _ => true
  | .mapOutDone _ => true
  | .panPreparationDone _ _ => true
  | .persistBufferDrain => true
  | .stationUp _ => true
  | .fabricStoreAcknowledgement _ => true
  | .rakeCopyResume _ _ => true

end Sys2Proof
end

