-- ==== Sys2Proof/Machine/Operands.lean ====
section
/-! DEFINITION. Operand forms: immediates, branch targets, addresses, the registers the service context has, the
type and length in force, and the place operand of the scalar instructions (R73, R75, R31, R111, R112, R80). -/

namespace Sys2Proof.Machine

/-- A sign-extended immediate (R75). -/
def simm {n : Nat} (i : BitVec n) : Word := i.signExtend 64
/-- A zero-extended immediate. -/
def zimm {n : Nat} (i : BitVec n) : Word := i.zeroExtend 64

/-- Target of a branch: offsets count halfwords from the instruction (R73). -/
def State.branchTarget {n : Nat} (s : State) (o : BitVec n) : Word := s.ctx.pc + BitVec.ofInt 64 (2 * o.toInt)

/-- Bytes of a size field (R75). -/
def sizeBytes (z : BitVec 2) : Nat := 2 ^ z.toNat

/-- Address of format M: base plus a signed offset in units of the size (R75, R260). -/
def State.addrM (s : State) (b : BitVec 5) (z : BitVec 2) {n : Nat} (o : BitVec n) : Word :=
  s.x b + BitVec.ofInt 64 (o.toInt * 2 ^ z.toNat)

/-- SEW in bits (R111). -/
def Ctx.sew (c : Ctx) : Nat := 4 * 2 ^ (c.vty.toNat % 8)
/-- Group size G (R111). -/
def Ctx.group (c : Ctx) : Nat := 2 ^ (c.vty.toNat / 8 % 4)
/-- Element format code (R111). -/
def Ctx.fmt (c : Ctx) : Nat := c.vty.toNat / 32
/-- VTY of its fields (R111). -/
def vtyOf (f : BitVec 4) (g : BitVec 2) (s : BitVec 3) : BitVec 9 := BitVec.ofNat 9 (s.toNat + 8 * g.toNat + 32 * f.toNat)
/-- VLMAX of a type (R112). -/
def vlmaxOf (sew g : Nat) : Nat := min 1024 (g * 4096 / sew)

/-- A vector number the running context has: the service context has v0-v7 (R30, R31). -/
def vecHere (s : State) (n : Nat) : Bool := if s.inService then decide (n < 8) else decide (n < 64)
/-- A group the running context has, aligned to its size (R75, R31). -/
def groupHere (s : State) (v : BitVec 6) (g : Nat) : Bool := decide (v.toNat % g = 0) && vecHere s (v.toNat + g - 1)
/-- A predicate number the running context has: the service context has p0-p3 (R30, R31). -/
def predHere (s : State) (n : Nat) : Bool := if s.inService then decide (n < 4) else decide (n < 24)
/-- The service context has no operand-extension registers and no wells (R30, R31). -/
def State.hasOx (s : State) : Bool := !s.inService

/-- Bits 0 to VL - 1 of a predicate (R110, R141). -/
def Ctx.predBits (c : Ctx) (p : Nat) : List Bool := (List.range c.vl.toNat).map (fun i => (c.getP p).getLsbD i)

/-- The place operand of seal, unseal and trestart: a core, by a place address whose OFF is zero (R147, R148). -/
def coreOperand (s : State) (w : Word) : Res Nat :=
  match resolvePlace s w 0 0 with
  | .error e => .error e
  | .ok (c, _) => if bits w 19 0 ≠ 0 then .error (exc .bounds 0 w) else .ok c

/-- The target of seal, unseal and trestart is another core of the executing core's die (R147). -/
def otherCoreOfDie (s : State) (w : Word) (c : Nat) : Res Nat :=
  if dieOf c ≠ dieOf s.cur ∨ c = s.cur then .error (exc .protection 0 w) else .ok c

/-- An instruction the service context excludes (R31). -/
def outsideService (s : State) (word : Nat) (k : Out) : Out := if s.inService then illegal word s else k

/-- A privileged function (R77, R124). -/
def whenPrivileged (s : State) (k : Out) : Out := if s.privileged then k else raise s (exc .privileged 0 0)

/-- An instruction whose fields must satisfy a check of well-formedness (R83). -/
def whenOk (ok : Bool) (word : Nat) (s : State) (k : Out) : Out := if ok then k else illegal word s

end Sys2Proof.Machine
end

