-- ==== Sys2Proof/Machine/Flags.lean ====
section
/-! DEFINITION. The five sticky flags of FFL (R99) and the conditions of the branches (R140, R141). -/

namespace Sys2Proof.Machine

/-- The flags an operation raises (R99). -/
structure Flags where
  nx : Bool := false
  uf : Bool := false
  of : Bool := false
  dz : Bool := false
  nv : Bool := false
deriving DecidableEq, Repr

def Flags.none : Flags := {}
def Flags.invalid : Flags := { nv := true }

/-- Union of flags. -/
def Flags.union (a b : Flags) : Flags := ⟨a.nx || b.nx, a.uf || b.uf, a.of || b.of, a.dz || b.dz, a.nv || b.nv⟩

/-- FFL bits of flags: NX, UF, OF, DZ, NV from bit 0 (R99). -/
def Flags.bits (f : Flags) : BitVec 5 :=
  (if f.nx then 1 else 0) ||| (if f.uf then 2 else 0) ||| (if f.of then 4 else 0) ||| (if f.dz then 8 else 0)
    ||| (if f.nv then 16 else 0)

/-- Raise flags: FFL is sticky (R99). -/
def Ctx.raise (c : Ctx) (f : Flags) : Ctx := { c with ffl := c.ffl ||| f.bits }

/-- Signed less than (R140). -/
def ltSigned (a b : Word) : Bool := a.slt b
/-- Unsigned less than (R140). -/
def ltUnsigned (a b : Word) : Bool := a.ult b

/-- The value 1 or 0 of a condition (R127). -/
def boolWord (b : Bool) : Word := if b then 1 else 0

end Sys2Proof.Machine
end

