-- ==== Sys2Proof/Machine/Float.lean ====
section
/-! DEFINITION. Floating-point numbers: the formats (R92, R94), exact values, the one rounding (R97-R100), the exact
operations (R101, R163, R165) and conversions of special values (R101). A value with a remainder that is not represented
carries one extra low bit that is set, which every rounding mode treats as the remainder. -/

namespace Sys2Proof.Machine

/-- A floating-point element format (R92): width, mantissa bits, bias; whether it has infinities and NaNs. -/
structure FloatFormat where
  code : Nat
  width : Nat
  man : Nat
  bias : Nat
  hasInf : Bool
  hasNan : Bool
deriving DecidableEq, Repr

def fmtF64 : FloatFormat := ⟨2, 64, 52, 1023, true, true⟩
def fmtF32 : FloatFormat := ⟨2, 32, 23, 127, true, true⟩
def fmtF16 : FloatFormat := ⟨2, 16, 10, 15, true, true⟩
def fmtBf16 : FloatFormat := ⟨3, 16, 7, 127, true, true⟩
def fmtE4m3 : FloatFormat := ⟨4, 8, 3, 7, false, true⟩
def fmtE5m2 : FloatFormat := ⟨5, 8, 2, 15, true, true⟩
def fmtE2m1 : FloatFormat := ⟨6, 4, 1, 1, false, false⟩

/-- The format of a code and a width (R89). -/
def floatFormat (fmt sew : Nat) : FloatFormat :=
  match fmt with
  | 2 => if sew = 64 then fmtF64 else if sew = 32 then fmtF32 else fmtF16
  | 3 => fmtBf16
  | 4 => fmtE4m3
  | 5 => fmtE5m2
  | 6 => fmtE2m1
  | 7 => fmtE4m3
  | 8 => fmtE5m2
  | _ => fmtE2m1

/-- Exponent bits. -/
def FloatFormat.exp (f : FloatFormat) : Nat := f.width - 1 - f.man
/-- Sign bit of a code. -/
def FloatFormat.sign (f : FloatFormat) (b : Bool) : Nat := if b then 2 ^ (f.width - 1) else 0
/-- Code of +infinity, where there is one. -/
def FloatFormat.infCode (f : FloatFormat) : Nat := (2 ^ f.exp - 1) * 2 ^ f.man
/-- Code of the largest finite value (R92). -/
def FloatFormat.maxCode (f : FloatFormat) : Nat :=
  if f.hasInf then f.infCode - 1 else if f.hasNan then 2 ^ (f.width - 1) - 2 else 2 ^ (f.width - 1) - 1
/-- Canonical NaN (R94); a format without NaN stores +0 (R101). -/
def FloatFormat.nanCode (f : FloatFormat) : Nat :=
  if f.hasInf then f.infCode + 2 ^ (f.man - 1) else if f.hasNan then 2 ^ (f.width - 1) - 1 else 0
/-- Exponent of the unit of subnormals. -/
def FloatFormat.unit (f : FloatFormat) : Int := 1 - (f.bias : Int) - f.man

/-- A value: NaN, infinity, or the exact number (-1)^neg x m x 2^e. -/
inductive FVal where
  | nan (signalling : Bool)
  | inf (neg : Bool)
  | num (neg : Bool) (m : Nat) (e : Int)
deriving DecidableEq, Repr

/-- The value of a code (R92, R94). -/
def FloatFormat.decode (f : FloatFormat) (code : Nat) : FVal :=
  let neg := code / 2 ^ (f.width - 1) % 2 = 1
  let mag := code % 2 ^ (f.width - 1)
  let e := mag / 2 ^ f.man
  let m := mag % 2 ^ f.man
  if f.hasInf ∧ mag = f.infCode then .inf neg
  else if f.hasNan ∧ mag > f.maxCode then .nan (f.hasInf && decide (m / 2 ^ (f.man - 1) = 0))
  else if e = 0 then .num neg m f.unit
  else .num neg (2 ^ f.man + m) (f.unit + e - 1)

/-- Rounding modes (R97). -/
inductive RMode where
  | rne | rtz | rdn | rup | rna
  /-- stochastic, with its 24-bit draw (R98) -/
  | sr (u : Nat)
deriving DecidableEq, Repr

/-- FRM as an operation that is no narrowing conversion takes it: SR rounds as RNE (R97). -/
def rmodeOf (frm : BitVec 3) : RMode :=
  match frm.toNat with
  | 1 => .rtz
  | 2 => .rdn
  | 3 => .rup
  | 4 => .rna
  | _ => .rne

/-- Whether a magnitude rounds away from zero: its integer part is odd or even, `rem` of `unit` is left over (R97, R98). -/
def roundsUp (mode : RMode) (neg : Bool) (q rem unit : Nat) : Bool :=
  if rem = 0 then false
  else match mode with
    | .rne => decide (unit < 2 * rem) || (decide (2 * rem = unit) && decide (q % 2 = 1))
    | .rtz => false
    | .rdn => neg
    | .rup => !neg
    | .rna => decide (unit ≤ 2 * rem)
    | .sr u =>
      if neg then !decide (u < (unit - rem) * 2 ^ 24 / unit) else decide (u < rem * 2 ^ 24 / unit)

/-- m x 2^e in units of 2^q, rounded: the count and whether anything was lost. -/
def roundUnits (mode : RMode) (neg : Bool) (m : Nat) (e q : Int) : Nat × Bool :=
  if q ≤ e then (m * 2 ^ (e - q).toNat, false)
  else
    let unit := 2 ^ (q - e).toNat
    let lo := m / unit
    let rem := m % unit
    (if roundsUp mode neg lo rem unit then lo + 1 else lo, decide (rem ≠ 0))

/-- Floor of the base-2 logarithm of a non-zero number. -/
def lg2 (n : Nat) : Nat := Nat.log2 n

/-- Code of an overflowed result (R100). -/
def FloatFormat.overflow (f : FloatFormat) (mode : RMode) (neg : Bool) (exponent : Int) : Nat :=
  let mag := if f.hasInf then
      match mode with
      | .rne | .rna => f.infCode
      | .rtz => f.maxCode
      | .rup => if neg then f.maxCode else f.infCode
      | .rdn => if neg then f.infCode else f.maxCode
      | .sr _ => if exponent < f.unit + f.maxCode / 2 ^ f.man + f.man then f.maxCode else f.infCode
    else f.maxCode
  f.sign neg + mag

/-- THE ROUNDING of an exact number into a format, with its flags (R97-R100). -/
def FloatFormat.round (f : FloatFormat) (mode : RMode) (neg : Bool) (m : Nat) (e : Int) : Nat × Flags :=
  if m = 0 then (f.sign neg, Flags.none)
  else
    let top : Int := (lg2 m : Int) + e
    let qn := top - f.man
    let q := if f.unit ≤ qn then qn else f.unit
    let r := roundUnits mode neg m e q
    let code := (q - f.unit).toNat * 2 ^ f.man + r.1
    if f.maxCode < code then (f.overflow mode neg top, { of := true, nx := true })
    else
      let wide := roundUnits mode neg m e qn
      let tiny := decide (qn + (lg2 wide.1 : Int) < f.unit + f.man)
      (f.sign neg + code, { nx := r.2, uf := r.2 && tiny })

/-- A value into a format: specials by R101. -/
def FloatFormat.ofVal (f : FloatFormat) (mode : RMode) (v : FVal) : Nat × Flags :=
  match v with
  | .nan sg => (f.nanCode, { nv := sg || !f.hasNan })
  | .inf neg => if f.hasInf then (f.sign neg + f.infCode, Flags.none) else (f.sign neg + f.maxCode, { nv := true })
  | .num neg m e => f.round mode neg m e

/-! ### Exact operations on values (R101, R163). Each gives a value and the flags it raises before rounding. -/

/-- Sign of an exact zero sum of non-zero terms: + but for RDN (R101). The model takes it for a sum of zeros of both signs too, of which
R101 says nothing (DESIGN CHOICE, log entry 54). -/
def zeroSign (mode : RMode) : Bool := match mode with | .rdn => true | _ => false

/-- Signed sum of two exact numbers as integer and exponent. -/
def sumExact (na : Bool) (ma : Nat) (ea : Int) (nb : Bool) (mb : Nat) (eb : Int) : Int × Int :=
  let e := if ea ≤ eb then ea else eb
  let x : Int := (ma * 2 ^ (ea - e).toNat : Nat)
  let y : Int := (mb * 2 ^ (eb - e).toNat : Nat)
  ((if na then -x else x) + (if nb then -y else y), e)

/-- Signalling NaNs among operands raise NV (R101). -/
def FVal.signals : FVal → Bool
  | .nan sg => sg
  | _ => false

/-- Negation. -/
def FVal.negate : FVal → FVal
  | .nan sg => .nan sg
  | .inf n => .inf !n
  | .num n m e => .num (!n) m e

/-- a + b (R101). -/
def addVal (mode : RMode) (a b : FVal) : FVal × Flags :=
  match a, b with
  | .nan s, b => (.nan false, { nv := s || b.signals })
  | a, .nan s => (.nan false, { nv := s || a.signals })
  | .inf x, .inf y => if x = y then (.inf x, Flags.none) else (.nan false, Flags.invalid)
  | .inf x, .num .. => (.inf x, Flags.none)
  | .num .., .inf y => (.inf y, Flags.none)
  | .num na ma ea, .num nb mb eb =>
    let s := sumExact na ma ea nb mb eb
    if s.1 = 0 then
      (.num (if ma = 0 ∧ mb = 0 ∧ na = nb then na else zeroSign mode) 0 0, Flags.none)
    else (.num (decide (s.1 < 0)) s.1.natAbs s.2, Flags.none)

/-- a x b (R101). -/
def mulVal (a b : FVal) : FVal × Flags :=
  match a, b with
  | .nan s, b => (.nan false, { nv := s || b.signals })
  | a, .nan s => (.nan false, { nv := s || a.signals })
  | .inf x, .inf y => (.inf (x != y), Flags.none)
  | .inf x, .num n m _ => if m = 0 then (.nan false, Flags.invalid) else (.inf (x != n), Flags.none)
  | .num n m _, .inf y => if m = 0 then (.nan false, Flags.invalid) else (.inf (n != y), Flags.none)
  | .num na ma ea, .num nb mb eb => (.num (na != nb) (ma * mb) (ea + eb), Flags.none)

/-- a x b + c, one rounding to follow (R163). -/
def fmaVal (mode : RMode) (a b c : FVal) : FVal × Flags :=
  let p := mulVal a b
  let r := addVal mode p.1 c
  (r.1, p.2.union r.2)

/-- Quotient of two numbers with a set low bit where it is not exact. -/
def quotient (ma : Nat) (ea : Int) (mb : Nat) (eb : Int) : Nat × Int :=
  let k := lg2 mb + 70
  let n := ma * 2 ^ k
  let q := n / mb
  (2 * q + (if n % mb = 0 then 0 else 1), ea - eb - k - 1)

/-- a / b (R101, R163). -/
def divVal (a b : FVal) : FVal × Flags :=
  match a, b with
  | .nan s, b => (.nan false, { nv := s || b.signals })
  | a, .nan s => (.nan false, { nv := s || a.signals })
  | .inf _, .inf _ => (.nan false, Flags.invalid)
  | .inf x, .num n _ _ => (.inf (x != n), Flags.none)
  | .num n _ _, .inf y => (.num (n != y) 0 0, Flags.none)
  | .num na ma ea, .num nb mb eb =>
    if mb = 0 then
      if ma = 0 then (.nan false, Flags.invalid) else (.inf (na != nb), { dz := true })
    else
      let r := quotient ma ea mb eb
      (.num (na != nb) r.1 r.2, Flags.none)

/-- Newton steps from above for the integer square root. -/
def isqrtLoop : Nat → Nat → Nat → Nat
  | 0, _, x => x
  | k + 1, n, x =>
    let y := (x + n / x) / 2
    if x ≤ y then x else isqrtLoop k n y

/-- Integer square root. -/
def isqrt (n : Nat) : Nat := if n = 0 then 0 else isqrtLoop 64 n (2 ^ (lg2 n / 2 + 1))

/-- Square root (R165). -/
def sqrtVal (a : FVal) : FVal × Flags :=
  match a with
  | .nan s => (.nan false, { nv := s })
  | .inf neg => if neg then (.nan false, Flags.invalid) else (.inf false, Flags.none)
  | .num neg m e =>
    if m = 0 then (.num neg 0 0, Flags.none)
    else if neg then (.nan false, Flags.invalid)
    else
      let odd := (e % 2).toNat
      let n := m * 2 ^ (odd + 140)
      let r := isqrt n
      (.num false (2 * r + (if r * r = n then 0 else 1)) ((e - odd - 140) / 2 - 1), Flags.none)

/-- 1 / square root (R165). -/
def rsqrtVal (a : FVal) : FVal × Flags :=
  match a with
  | .nan s => (.nan false, { nv := s })
  | .inf neg => if neg then (.nan false, Flags.invalid) else (.num false 0 0, Flags.none)
  | .num neg m e =>
    if m = 0 then (.inf neg, { dz := true })
    else if neg then (.nan false, Flags.invalid)
    else
      let odd := (e % 2).toNat
      let n := m * 2 ^ odd
      let k := lg2 n + 80
      let r := isqrt (2 ^ (2 * k) / n)
      (.num false (2 * r + (if r * r * n = 2 ^ (2 * k) then 0 else 1)) (-((e - odd) / 2) - k - 1), Flags.none)

/-- Order of two numbers: the sign of a - b. -/
def cmpNum (na : Bool) (ma : Nat) (ea : Int) (nb : Bool) (mb : Nat) (eb : Int) : Int := (sumExact na ma ea (!nb) mb eb).1

/-- a < b for values that are not NaN; `zeros` orders -0 below +0 (R101). -/
def ltVal (zeros : Bool) (a b : FVal) : Bool :=
  match a, b with
  | .nan _, _ => false
  | _, .nan _ => false
  | .inf x, .inf y => x && !y
  | .inf x, .num .. => x
  | .num .., .inf y => !y
  | .num na ma ea, .num nb mb eb =>
    if ma = 0 ∧ mb = 0 then zeros && na && !nb else decide (cmpNum na ma ea nb mb eb < 0)

/-- a = b for values that are not NaN, -0 equal to +0 (R169). -/
def eqVal (a b : FVal) : Bool :=
  match a, b with
  | .inf x, .inf y => x = y
  | .num na ma ea, .num nb mb eb => if ma = 0 ∧ mb = 0 then true else decide (cmpNum na ma ea nb mb eb = 0)
  | _, _ => false

/-- Whether a value is NaN. -/
def FVal.isNan : FVal → Bool
  | .nan _ => true
  | _ => false

/-- vfmin: the non-NaN operand when exactly one is NaN, -0 below +0 (R101, R163). -/
def minVal (a b : FVal) : FVal × Flags :=
  let f : Flags := { nv := a.signals || b.signals }
  if a.isNan then (if b.isNan then (.nan false, f) else (b, f))
  else if b.isNan then (a, f)
  else (if ltVal true b a then b else a, f)

/-- vfmax (R101, R163). -/
def maxVal (a b : FVal) : FVal × Flags :=
  let f : Flags := { nv := a.signals || b.signals }
  if a.isNan then (if b.isNan then (.nan false, f) else (b, f))
  else if b.isNan then (a, f)
  else (if ltVal true a b then b else a, f)

/-- vfabs and vfneg: the sign changes, a NaN becomes canonical (R165). -/
def absVal : FVal → FVal × Flags
  | .nan s => (.nan false, { nv := s })
  | .inf _ => (.inf false, Flags.none)
  | .num _ m e => (.num false m e, Flags.none)

def negVal : FVal → FVal × Flags
  | .nan s => (.nan false, { nv := s })
  | v => (v.negate, Flags.none)

/-- Round the value an operation gives and join the flags. -/
def FloatFormat.finish (f : FloatFormat) (mode : RMode) (r : FVal × Flags) : Nat × Flags :=
  let c := f.ofVal mode r.1
  (c.1, r.2.union c.2)

/-- An operand of a format as a value. -/
def FloatFormat.val (f : FloatFormat) (code : Nat) : FVal := f.decode (code % 2 ^ f.width)

/-- An integer as a value. -/
def intVal (i : Int) : FVal := .num (decide (i < 0)) i.natAbs 0

/-- Range of an integer format (R91). -/
def intRange (signed : Bool) (n : Nat) : Int × Int :=
  if signed then (-(2 : Int) ^ (n - 1), (2 : Int) ^ (n - 1) - 1) else (0, (2 : Int) ^ n - 1)

/-- Saturate to an integer format (R91). -/
def saturate (signed : Bool) (n : Nat) (i : Int) : Int :=
  let r := intRange signed n
  if i < r.1 then r.1 else if r.2 < i then r.2 else i

/-- Code of an integer at a width. -/
def intCode (n : Nat) (i : Int) : Nat := (i % (2 : Int) ^ n).toNat

/-- Float to integer (R101): saturation and NaN raise NV alone, an inexact result in range NX. -/
def toInteger (mode : RMode) (signed : Bool) (n : Nat) (v : FVal) : Nat × Flags :=
  match v with
  | .nan _ => (0, Flags.invalid)
  | .inf neg => (intCode n (if neg then (intRange signed n).1 else (intRange signed n).2), Flags.invalid)
  | .num neg m e =>
    let r := roundUnits mode neg m e 0
    let i : Int := if neg then -(r.1 : Int) else r.1
    let s := saturate signed n i
    if s ≠ i then (intCode n s, Flags.invalid) else (intCode n i, { nx := r.2 })

/-- vfclass (R165). -/
def FloatFormat.classBit (f : FloatFormat) (code : Nat) : Nat :=
  let mag := code % 2 ^ (f.width - 1)
  match f.val code with
  | .nan sg => if sg then 8 else 9
  | .inf neg => if neg then 0 else 7
  | .num neg m _ =>
    if m = 0 then (if neg then 3 else 4)
    else if mag < 2 ^ f.man then (if neg then 2 else 5)
    else (if neg then 1 else 6)

end Sys2Proof.Machine
end

