-- ==== Sys2Proof/Machine/Blocks.lean ====
section
/-! DEFINITION. The block formats (R95, R96): decoding under a scale, and the conversions that choose a scale (R104, R105). -/

namespace Sys2Proof.Machine

/-- Multiply a value by 2^k. -/
def FVal.scale (k : Int) : FVal → FVal
  | .num n m e => .num n m (e + k)
  | v => v

/-- The power of a scale byte: E8M0 (R95) or DX4 (R96); none where the block is NaN. -/
def scalePower (dx4 : Bool) (b : Nat) : Option Int :=
  if dx4 then (if b % 64 = 63 then none else some ((b % 64 : Int) - 32))
  else (if b = 255 then none else some ((b : Int) - 127))

/-- Magnitudes of a DX4 type times 64, rising, with their codes, for one sign (R96). -/
def dx4Table (type : Nat) (neg : Bool) : List (Nat × Nat) :=
  match type with
  | 0 => if neg then [(0, 0), (64, 15), (128, 14), (192, 13), (256, 12), (320, 11), (384, 10), (448, 9), (512, 8)]
         else [(0, 0), (64, 1), (128, 2), (192, 3), (256, 4), (320, 5), (384, 6), (448, 7)]
  | 1 => let t := [(0, 0), (32, 1), (64, 2), (96, 3), (128, 4), (192, 5), (256, 6), (384, 7)]
         if neg then t.map (fun p => (p.1, p.2 + 8)) else t
  | 2 => let t := [(0, 7), (1, 6), (2, 5), (4, 4), (8, 3), (16, 2), (32, 1), (64, 0)]
         if neg then t.map (fun p => (p.1, p.2 + 8)) else t
  | _ => let t := [(0, 0), (32, 1), (64, 2), (128, 3), (192, 4), (256, 5), (320, 6), (384, 7)]
         if neg then t.map (fun p => (p.1, p.2 + 8)) else t

/-- Magnitude times 64 of a DX4 code of a type and its sign (R96). -/
def dx4Magnitude (type code : Nat) : Bool × Nat :=
  let neg := decide (8 ≤ code)
  if type = 0 then (neg, if neg then (16 - code) * 64 else code * 64)
  else (neg, (((dx4Table type neg).find? (fun p => p.2 = code)).map (fun p => p.1)).getD 0)

/-- Element of a block format under its scale byte (R95, R96): code 7 to 10. -/
def blockDecode (fmt scale code : Nat) : FVal :=
  if fmt = 10 then
    match scalePower true scale with
    | none => .nan false
    | some k => let d := dx4Magnitude (scale / 64) (code % 16); .num d.1 d.2 (k - 6)
  else
    let f := floatFormat fmt 8
    let v := f.val code
    if v.isNan then v
    else match scalePower false scale with
      | none => .nan false
      | some k => v.scale k

/-- Result of a block conversion: the scale byte, the codes, the flags. -/
structure Block where
  scale : Nat
  codes : List Nat
  flags : Flags
deriving DecidableEq, Repr

/-- An element of a block to convert: none where it is inactive; its rounding mode (with its own draw under SR). -/
abbrev BlockElem := Option (FVal × RMode)

/-- Magnitude of the larger of two numbers m x 2^e. -/
def largerMag (a b : Nat × Int) : Nat × Int := if cmpNum false a.1 a.2 false b.1 b.2 < 0 then b else a

/-- amax of a block: the largest finite magnitude (R104). -/
def blockMax : List BlockElem → Nat × Int
  | [] => (0, 0)
  | some (.num _ m e, _) :: l => largerMag (m, e) (blockMax l)
  | _ :: l => blockMax l

/-- Any active element meets a test. -/
def blockAny (p : FVal → Bool) (l : List BlockElem) : Bool :=
  l.any (fun x => match x with | some (v, _) => p v | none => false)

def FVal.isInf : FVal → Bool
  | .inf _ => true
  | _ => false

/-- One element of an MX block under 2^k: rounded, then clamped to the largest finite value; NX alone (R99, R104). -/
def mxElement (f : FloatFormat) (k : Int) : BlockElem → Nat × Flags
  | none => (0, Flags.none)
  | some (.inf neg, _) => (f.sign neg + f.infCode, Flags.none)
  | some (.nan _, _) => (0, Flags.none)
  | some (.num neg m e, mode) =>
    let r := f.round mode neg m (e - k)
    if r.2.of then (f.sign neg + f.maxCode, { nx := true }) else (r.1, { nx := r.2.nx })

/-- Union of flags. -/
def joinFlags (l : List (Nat × Flags)) : Flags := l.foldl (fun f r => f.union r.2) Flags.none

/-- Conversion into an MX block (R104). The finite elements of a block that takes a NaN scale set no NX (DESIGN CHOICE, log entry 67). -/
def mxBlock (fmt : Nat) (l : List BlockElem) : Block :=
  let f := floatFormat fmt 8
  let keepsInf := decide (fmt = 8)
  let nan := blockAny FVal.isNan l
  let inf := blockAny FVal.isInf l
  if nan || (inf && !keepsInf) then
    ⟨255, l.map (fun _ => 0), { nv := blockAny FVal.signals l || (inf && !keepsInf) }⟩
  else
    let a := blockMax l
    let emaxElem : Int := if fmt = 7 then 8 else if fmt = 8 then 15 else 2
    let e : Int := if a.1 = 0 then 127 else max 0 (min 254 ((lg2 a.1 : Int) + a.2 - emaxElem + 127))
    let rs := l.map (mxElement f (e - 127))
    ⟨e.toNat, rs.map (fun r => r.1), joinFlags rs⟩

/-- Nearest entry of a table by a rounding mode: x is a magnitude times 64 times 2^t, the entries are scaled alike. -/
def quantise (mode : RMode) (neg : Bool) (x t : Nat) : List (Nat × Nat) → (Nat × Nat) × Bool
  | [] => ((0, 0), false)
  | [p] => (p, decide (x ≠ p.1 * 2 ^ t))
  | p :: q :: l =>
    if q.1 * 2 ^ t ≤ x then quantise mode neg x t (q :: l)
    else
      let lo := p.1 * 2 ^ t
      let up := roundsUp mode neg p.2 (x - lo) (q.1 * 2 ^ t - lo)
      (if up then q else p, decide (x ≠ lo))

/-- An element under a DX4 type and the scale 2^k: its code and magnitude times 64, and whether it is inexact (R105). -/
def dx4Element (type : Nat) (k : Int) (mode : RMode) (neg : Bool) (m : Nat) (e : Int) : (Nat × Nat) × Bool :=
  let a := e - k + 6
  let t := (-a).toNat
  quantise mode neg (m * 2 ^ a.toNat) t (dx4Table type neg)

/-- Smallest c with top x 2^c at least m x 2^e. -/
def ceilLog2Ratio (m : Nat) (e : Int) (top : Nat) : Int :=
  let b := (lg2 m : Int) + e
  let ok (c : Int) : Bool := decide (0 ≤ cmpNum false top c false m e)
  if ok (b - 3) then b - 3 else if ok (b - 2) then b - 2 else if ok (b - 1) then b - 1 else if ok b then b else b + 1

/-- e_t of R105 step 3. -/
def dx4Exponent (a : Nat × Int) (type : Nat) : Int :=
  let top := if type = 0 then 7 else if type = 2 then 1 else 6
  max 0 (min 62 (ceilLog2Ratio a.1 a.2 top + 32))

/-- Lowest exponent among the elements of a block. -/
def lowestExp (k : Int) : List BlockElem → Int
  | [] => k
  | some (.num _ _ e, _) :: l => lowestExp (if e < k then e else k) l
  | _ :: l => lowestExp k l

/-- E_t: the sum of squared errors in units of the square of 2^base (R105). -/
def dx4Error (base : Int) (type : Nat) (k : Int) : List BlockElem → Nat
  | [] => 0
  | some (.num neg m e, _) :: l =>
    let q := (dx4Element type k .rne neg m e).1
    let d : Int := ((q.1 * 2 ^ (k - 6 - base).toNat : Nat) : Int) - ((m * 2 ^ (e - base).toNat : Nat) : Int)
    d.natAbs * d.natAbs + dx4Error base type k l
  | _ :: l => dx4Error base type k l

/-- The type with the smallest error; ties go to the lower type (R105). -/
def dx4Choose (l : List BlockElem) (a : Nat × Int) : Nat :=
  let es := [0, 1, 2, 3].map (dx4Exponent a)
  let base := lowestExp (es.foldl (fun k e => if e - 38 < k then e - 38 else k) 100) l
  let err (t : Nat) : Nat := dx4Error base t (dx4Exponent a t - 32) l
  [1, 2, 3].foldl (fun b t => if err t < err b then t else b) 0

/-- One element of a DX4 block (R105 step 5). -/
def dx4Final (type : Nat) (k : Int) : BlockElem → Nat × Flags
  | some (.num neg m e, mode) => let r := dx4Element type k mode neg m e; (r.1.2, { nx := r.2 })
  | _ => (0, Flags.none)

/-- Conversion into a DX4 block (R105). A block without an active element is taken as one of zeros, as R104 says of MX blocks (DESIGN
CHOICE, log entry 55). -/
def dx4Block (l : List BlockElem) : Block :=
  let inf := blockAny FVal.isInf l
  if blockAny FVal.isNan l || inf then ⟨0x3F, l.map (fun _ => 0), { nv := blockAny FVal.signals l || inf }⟩
  else
    let a := blockMax l
    if a.1 = 0 then
      ⟨0x60, l.map (fun x => match x with | some (.num true _ _, _) => 8 | _ => 0), Flags.none⟩
    else
      let t := dx4Choose l a
      let e := dx4Exponent a t
      let rs := l.map (dx4Final t (e - 32))
      ⟨t * 64 + e.toNat, rs.map (fun r => r.1), joinFlags rs⟩

/-- Conversion into a block format, codes 7 to 10 (R104, R105). -/
def toBlock (fmt : Nat) (l : List BlockElem) : Block := if fmt = 10 then dx4Block l else mxBlock fmt l

/-- One step of a generator state (R179). -/
def vrandStep (x : BitVec 32) : BitVec 32 :=
  let a := x ^^^ (x <<< 13)
  let b := a ^^^ (a >>> 17)
  b ^^^ (b <<< 5)

/-- The draw of a stepped state (R179). -/
def vrandDraw (x : BitVec 32) : Nat := x.toNat / 256

/-- Rounding mode of a stochastic or ordinary narrowing conversion (R97, R98). -/
def convMode (frm : BitVec 3) (stochastic : Bool) (draw : Nat) : RMode :=
  if frm = 5 ∧ stochastic then .sr draw else rmodeOf frm

end Sys2Proof.Machine
end

