-- ==== Sys2Proof/Machine/Elementary.lean ====
section
/-! DEFINITION. The transcendental functions of R165 and R199: the exact value is enclosed between two fixed-point bounds,
and both bounds round to the one correctly rounded result. Where they do not (log entry 10) the result is a free value. -/

namespace Sys2Proof.Machine

/-- Fraction bits of the fixed-point numbers. -/
def fracBits : Nat := 384
/-- One. -/
def fxOne : Nat := 2 ^ fracBits

/-- Sum of 1 / (k 2^k) for k from 1, each term rounded down. -/
def ln2Sum : Nat → Nat
  | 0 => 0
  | k + 1 => fxOne / ((k + 1) * 2 ^ (k + 1)) + ln2Sum k
/-- Bounds of ln 2: at most 400 truncations and a tail below one unit. -/
def ln2Lo : Nat := ln2Sum 400
def ln2Hi : Nat := ln2Lo + 402

/-- Alternating sum of atan(1/n): `p` holds fxOne / n^(2k+1). -/
def atanSum (n : Nat) : Nat → Nat → Nat → Int
  | 0, _, _ => 0
  | j + 1, k, p => (if k % 2 = 0 then (p / (2 * k + 1) : Int) else -(p / (2 * k + 1) : Int)) + atanSum n j (k + 1) (p / (n * n))
/-- Bounds of pi by Machin's formula; the truncations amount to less than 2^14 units. -/
def piMid : Nat := (16 * atanSum 5 200 0 (fxOne / 5) - 4 * atanSum 239 200 0 (fxOne / 239)).toNat
def piLo : Nat := piMid - 2 ^ 14
def piHi : Nat := piMid + 2 ^ 14

/-- Bounds of the square root of 2 / pi. -/
def gaussLo : Nat := isqrt (2 * fxOne * fxOne * fxOne / piHi)
def gaussHi : Nat := isqrt (2 * fxOne * fxOne * fxOne / piLo) + 1

/-- Taylor sum of e^z for z below 2: terms rounded down. -/
def expSum (z : Nat) : Nat → Nat → Nat → Nat
  | 0, _, _ => 0
  | j + 1, k, t => t + expSum z j (k + 1) (t * z / fxOne / (k + 1))
/-- Bounds of e^z for a z below 2 between two bounds. -/
def expLo (z : Nat) : Nat := expSum z 140 0 fxOne
def expHi (z : Nat) : Nat := expSum z 140 0 fxOne + 2048

/-- Bounds of a positive real: lo and hi in units of 2^e. -/
structure Bounds where
  lo : Nat
  hi : Nat
  e : Int
deriving DecidableEq, Repr

/-- The rounding both bounds agree on; the value lies strictly between them. -/
def settle (f : FloatFormat) (mode : RMode) (neg : Bool) (b : Bounds) (op : Nat) (operand : Nat) : Nat × Flags :=
  let r := f.round mode neg (2 * b.lo + 1) (b.e - 1)
  if r = f.round mode neg (2 * b.hi - 1) (b.e - 1) then r
  else ((Config.unsettled op f.code operand).toNat % 2 ^ f.width, { nx := true })

/-- A magnitude in fixed point, rounded down. -/
def fixed (m : Nat) (e : Int) : Nat :=
  if 0 ≤ e + fracBits then m * 2 ^ (e + fracBits).toNat else m / 2 ^ (-(e + fracBits)).toNat

/-- A signed number as fixed-point bounds: equal where it fits, one unit apart where bits are lost. -/
def fixedBounds (neg : Bool) (m : Nat) (e : Int) : Int × Int :=
  let k := fixed m e
  let k1 : Nat := if 0 ≤ e + fracBits then k else k + 1
  if neg then (-(k1 : Int), -(k : Int)) else (k, k1)

/-- Bounds of e^v for a v between two fixed-point bounds, |v| below 2^20. -/
def expBounds (lo hi : Int) : Bounds :=
  let n := lo / (ln2Hi : Int) - 1
  let zlo := if 0 ≤ n then lo - n * ln2Hi else lo - n * ln2Lo
  let zhi := if 0 ≤ n then hi - n * ln2Lo else hi - n * ln2Hi
  ⟨expLo zlo.toNat, expHi zhi.toNat, n - fracBits⟩

/-- 2^a (R165): exact for an integer. -/
def exp2Round (f : FloatFormat) (mode : RMode) (neg : Bool) (m : Nat) (e : Int) (operand : Nat) : Nat × Flags :=
  if m = 0 then f.round mode false 1 0
  else
    let top := (lg2 m : Int) + e
    if 14 ≤ top then f.round mode false 3 (if neg then -20000 else 20000)
    else if top < -100 then
      f.round mode false (if neg then 2 ^ 100 - 1 else 2 ^ 100 + 1) (-100)
    else
      let k : Int := if neg then -(fixed m e : Int) else fixed m e
      let n := k / (fxOne : Int)
      let fr := (k % (fxOne : Int)).toNat
      if fr = 0 then f.round mode false 1 n
      else settle f mode false ⟨expLo (fr * ln2Lo / fxOne), expHi (fr * ln2Hi / fxOne + 1), n - fracBits⟩ 11 operand

/-- Binary digits of log2 of a number in [1, 2) between two bounds, by squaring; stops when the next digit is open. -/
def log2Digits : Nat → Nat → Nat → Nat → Nat → Nat × Nat
  | 0, _, _, r, n => (r, n)
  | j + 1, lo, hi, r, n =>
    let l := lo * lo / fxOne
    let h := hi * hi / fxOne + 1
    if 2 * fxOne ≤ l then log2Digits j (l / 2) ((h + 1) / 2) (2 * r + 1) (n + 1)
    else if h < 2 * fxOne then log2Digits j l h (2 * r) (n + 1)
    else (r, n)

/-- log2 of a positive number (R165): exact for a power of two. -/
def log2Round (f : FloatFormat) (mode : RMode) (m : Nat) (e : Int) (operand : Nat) : Nat × Flags :=
  let l := lg2 m
  let n := (l : Int) + e
  if m = 2 ^ l then f.round mode (decide (n < 0)) n.natAbs 0
  else
    let x := m * 2 ^ (fracBits - l)
    let d := log2Digits 180 x x 0 0
    let lo := n * 2 ^ d.2 + d.1
    if lo < 0 then settle f mode true ⟨(-(lo + 1)).toNat, (-lo).toNat, -(d.2 : Int)⟩ 12 operand
    else settle f mode false ⟨lo.toNat, lo.toNat + 1, -(d.2 : Int)⟩ 12 operand

/-- Bounds of 1 / (1 + e^v), which lies below 1. -/
def logisticBounds (lo hi : Int) : Bounds :=
  -- with t = e^v in [t.lo, t.hi] 2^t.e
  let a := expBounds lo hi
  if a.e + fracBits ≤ 0 then
    let sh := (-(a.e + fracBits)).toNat
    let tlo := a.lo / 2 ^ sh
    let thi := a.hi / 2 ^ sh + 1
    ⟨fxOne * fxOne / (fxOne + thi), min fxOne (fxOne * fxOne / (fxOne + tlo) + 1), -(fracBits : Int)⟩
  else
    let n := (a.e + fracBits).toNat
    -- 1 / (1 + t) = 2^-n / (2^-n + t 2^-n)
    let one := fxOne / 2 ^ n
    ⟨fxOne * fxOne / (a.hi + one + 1), fxOne * fxOne / (a.lo + one) + 1, -(n : Int) - fracBits⟩

/-- Bounds of tanh x for a small positive x = m 2^e, e below 0: x - x^3/3 and x - x^3/3 + 2 x^5/15, in units of 2^(3e - 4). -/
def tanhSmall (m : Nat) (e : Int) : Bounds :=
  let k := (4 - 2 * e).toNat
  let cube := 16 * m ^ 3 / 3
  let fifth := 32 * m ^ 5 / (15 * 2 ^ (-(2 * e)).toNat)
  ⟨m * 2 ^ k - cube - 1, m * 2 ^ k - cube + fifth + 1, e - k⟩

/-- tanh of a non-zero number (R165): odd, below 1 and below its argument in magnitude. -/
def tanhRound (f : FloatFormat) (mode : RMode) (neg : Bool) (m : Nat) (e : Int) (operand : Nat) : Nat × Flags :=
  let top := (lg2 m : Int) + e
  if top < -40 then settle f mode neg (tanhSmall m e) 13 operand
  else if 7 ≤ top then f.round mode neg (2 ^ 100 - 1) (-100)
  else
    -- tanh a = 1 - 2 / (1 + e^2a)
    let k := fixedBounds false (2 * m) e
    let b := logisticBounds k.1 k.2
    let s := (-(b.e)).toNat
    settle f mode neg ⟨2 ^ s - 2 * b.hi, 2 ^ s - 2 * b.lo, b.e⟩ 13 operand

/-- Bounds of the magnitude of x/2 + q x^2 - t x^4 for a small x = m 2^e, e below 0, where q lies between two bounds in units of 2^-10
and t between 0 and 1/8; in units of 2^(2e - 10). -/
def halfSmall (neg : Bool) (m : Nat) (e : Int) (qlo qhi : Nat) : Bounds :=
  let half := m * 2 ^ (9 - e).toNat
  let fourth := 128 * m ^ 4 / 2 ^ (-(2 * e)).toNat + 1
  if neg then ⟨half - qhi, half - qlo + fourth, 2 * e - 10⟩ else ⟨half + qlo - fourth, half + qhi, 2 * e - 10⟩

/-- x / (1 + e^v) for a v near -x or below in the same sense: a small x halves and gains a square, between the bounds given, a large
positive x stays, a large negative x vanishes (R199). -/
def timesLogistic (f : FloatFormat) (mode : RMode) (neg : Bool) (m : Nat) (e : Int) (v : Int × Int) (square : Nat × Nat) (op operand : Nat) :
    Nat × Flags :=
  let top := (lg2 m : Int) + e
  if top < -100 then settle f mode neg (halfSmall neg m e square.1 square.2) op operand
  else if 8 ≤ top then
    if neg then f.round mode true 3 (-20000) else f.round mode false (m * 2 ^ 100 - 1) (e - 100)
  else
    let b := logisticBounds v.1 v.2
    settle f mode neg ⟨m * b.lo, m * b.hi, e + b.e⟩ op operand

/-- silu of a non-zero number (R199). -/
def siluRound (f : FloatFormat) (mode : RMode) (neg : Bool) (m : Nat) (e : Int) (operand : Nat) : Nat × Flags :=
  let top := (lg2 m : Int) + e
  let v := if top < 8 then fixedBounds (!neg) m e else (0, 0)
  timesLogistic f mode neg m e v (256 * m ^ 2, 256 * m ^ 2) 15 operand

/-- gelu of a non-zero number (R199): x times the logistic of 2u, u the argument of the tanh. -/
def geluRound (f : FloatFormat) (mode : RMode) (neg : Bool) (m : Nat) (e : Int) (operand : Nat) : Nat × Flags :=
  let top := (lg2 m : Int) + e
  let k := if top < 8 then fixedBounds false m e else (256 * (fxOne : Int), 256 * (fxOne : Int) + 1)
  let arg (x c : Nat) : Nat :=
    -- 2 c (x + 44715/1000000 x^3)
    2 * c * (x + x * x / fxOne * x / fxOne * 44715 / 1000000) / fxOne
  let lo := arg k.1.toNat gaussLo
  let hi := arg (k.2.toNat + 1) gaussHi + 1000
  let v : Int × Int := if neg then (lo, hi) else (-(hi : Int), -(lo : Int))
  if 8 ≤ top then
    if neg then f.round mode true 3 (-20000) else f.round mode false (m * 2 ^ 100 - 1) (e - 100)
  else timesLogistic f mode neg m e v (512 * m ^ 2 * gaussLo / fxOne, 512 * m ^ 2 * gaussHi / fxOne + 1) 14 operand

/-- vfexp2 (R165). -/
def FloatFormat.exp2 (f : FloatFormat) (mode : RMode) (code : Nat) : Nat × Flags :=
  match f.val code with
  | .nan s => (f.nanCode, { nv := s })
  | .inf neg => if neg then (0, Flags.none) else (f.infCode, Flags.none)
  | .num neg m e => exp2Round f mode neg m e code

/-- vflog2 (R165). -/
def FloatFormat.log2 (f : FloatFormat) (mode : RMode) (code : Nat) : Nat × Flags :=
  match f.val code with
  | .nan s => (f.nanCode, { nv := s })
  | .inf neg => if neg then (f.nanCode, Flags.invalid) else (f.infCode, Flags.none)
  | .num neg m e =>
    if m = 0 then (f.sign true + f.infCode, { dz := true })
    else if neg then (f.nanCode, Flags.invalid)
    else log2Round f mode m e code

/-- vftanh (R165). -/
def FloatFormat.tanh (f : FloatFormat) (mode : RMode) (code : Nat) : Nat × Flags :=
  match f.val code with
  | .nan s => (f.nanCode, { nv := s })
  | .inf neg => f.round mode neg 1 0
  | .num neg m e => if m = 0 then (f.sign neg, Flags.none) else tanhRound f mode neg m e code

end Sys2Proof.Machine
end

