-- ==== Sys2Proof/Decode.lean ====
section
/-! DEFINITION. The decoder, total on any bytes, and the encoder written from the same encoding tables
(R72, R74, R76, R77, R79). Function names follow the major opcode map. A word that matches no row of the
opcode table is rejected by name (R83).
The functions that build an `Instr` stand in a noncomputable section: the compiled runtime of Lean has no tag for a
constructor with operands beyond the 245th, while the kernel evaluates every one of them. -/

noncomputable section

namespace Sys2Proof

/-- Field w[lo+n-1:lo] of a word (R2). -/
def fld (w lo n : Nat) : BitVec n := BitVec.ofNat n (w / 2 ^ lo)

/-- Why bytes are no instruction (R72, R83). -/
inductive Reject where
  /-- fewer than two bytes were given -/
  | noHalfword
  /-- the first halfword announces a 32-bit form and the second is not there -/
  | noSecondHalfword
  /-- a 16-bit word of op 0, or one with a non-zero field marked 0 -/
  | compressedNotAnInstruction
  /-- a major the opcode map does not assign -/
  | majorReserved
  /-- an assigned major with a function, qualifier or reserved field the map does not assign -/
  | functionNotAssigned
deriving DecidableEq, Repr

/-- Major 0x01 (R77): R127. -/
def decodeMajor01 (w : Nat) : Option Instr :=
  if w / 256 % 512 = 0 then some (.add (fld w 27 5) (fld w 22 5) (fld w 17 5))
  else if w / 256 % 512 = 1 then some (.sub (fld w 27 5) (fld w 22 5) (fld w 17 5))
  else if w / 256 % 512 = 2 then some (.and (fld w 27 5) (fld w 22 5) (fld w 17 5))
  else if w / 256 % 512 = 3 then some (.or (fld w 27 5) (fld w 22 5) (fld w 17 5))
  else if w / 256 % 512 = 4 then some (.xor (fld w 27 5) (fld w 22 5) (fld w 17 5))
  else if w / 256 % 512 = 5 then some (.andn (fld w 27 5) (fld w 22 5) (fld w 17 5))
  else if w / 256 % 512 = 6 then some (.shl (fld w 27 5) (fld w 22 5) (fld w 17 5))
  else if w / 256 % 512 = 7 then some (.shr (fld w 27 5) (fld w 22 5) (fld w 17 5))
  else if w / 256 % 512 = 8 then some (.sar (fld w 27 5) (fld w 22 5) (fld w 17 5))
  else if w / 256 % 512 = 9 then some (.rol (fld w 27 5) (fld w 22 5) (fld w 17 5))
  else if w / 256 % 512 = 10 then some (.min (fld w 27 5) (fld w 22 5) (fld w 17 5))
  else if w / 256 % 512 = 11 then some (.max (fld w 27 5) (fld w 22 5) (fld w 17 5))
  else if w / 256 % 512 = 12 then some (.minN (fld w 27 5) (fld w 22 5) (fld w 17 5))
  else if w / 256 % 512 = 13 then some (.maxN (fld w 27 5) (fld w 22 5) (fld w 17 5))
  else if w / 256 % 512 = 14 then some (.slt (fld w 27 5) (fld w 22 5) (fld w 17 5))
  else if w / 256 % 512 = 15 then some (.sltN (fld w 27 5) (fld w 22 5) (fld w 17 5))
  else if w / 256 % 512 = 16 then some (.seq (fld w 27 5) (fld w 22 5) (fld w 17 5))
  else if w / 256 % 512 = 17 then some (.mul (fld w 27 5) (fld w 22 5) (fld w 17 5))
  else if w / 256 % 512 = 18 then some (.mulh (fld w 27 5) (fld w 22 5) (fld w 17 5))
  else if w / 256 % 512 = 19 then some (.mulhN (fld w 27 5) (fld w 22 5) (fld w 17 5))
  else if w / 256 % 512 = 20 then some (.div (fld w 27 5) (fld w 22 5) (fld w 17 5))
  else if w / 256 % 512 = 21 then some (.divN (fld w 27 5) (fld w 22 5) (fld w 17 5))
  else if w / 256 % 512 = 22 then some (.rem (fld w 27 5) (fld w 22 5) (fld w 17 5))
  else if w / 256 % 512 = 23 then some (.remN (fld w 27 5) (fld w 22 5) (fld w 17 5))
  else if w / 256 % 16384 = 24 then some (.clz (fld w 27 5) (fld w 22 5))
  else if w / 256 % 16384 = 25 then some (.ctz (fld w 27 5) (fld w 22 5))
  else if w / 256 % 16384 = 26 then some (.popc (fld w 27 5) (fld w 22 5))
  else none

/-- Major 0x02 (R77): R128. -/
def decodeMajor02 (w : Nat) : Option Instr :=
  some (.addi (fld w 27 5) (fld w 22 5) (fld w 8 14))

/-- Major 0x03 (R77): R128. -/
def decodeMajor03 (w : Nat) : Option Instr :=
  some (.andi (fld w 27 5) (fld w 22 5) (fld w 8 14))

/-- Major 0x04 (R77): R128. -/
def decodeMajor04 (w : Nat) : Option Instr :=
  some (.ori (fld w 27 5) (fld w 22 5) (fld w 8 14))

/-- Major 0x05 (R77): R128. -/
def decodeMajor05 (w : Nat) : Option Instr :=
  some (.xori (fld w 27 5) (fld w 22 5) (fld w 8 14))

/-- Major 0x06 (R77): R128. -/
def decodeMajor06 (w : Nat) : Option Instr :=
  if w / 16384 % 256 = 0 then some (.shli (fld w 27 5) (fld w 22 5) (fld w 8 6))
  else none

/-- Major 0x07 (R77): R128. -/
def decodeMajor07 (w : Nat) : Option Instr :=
  if w / 16384 % 256 = 0 then some (.shri (fld w 27 5) (fld w 22 5) (fld w 8 6))
  else none

/-- Major 0x08 (R77): R128. -/
def decodeMajor08 (w : Nat) : Option Instr :=
  if w / 16384 % 256 = 0 then some (.sari (fld w 27 5) (fld w 22 5) (fld w 8 6))
  else none

/-- Major 0x09 (R77): R128. -/
def decodeMajor09 (w : Nat) : Option Instr :=
  some (.slti (fld w 27 5) (fld w 22 5) (fld w 8 14))

/-- Major 0x0A (R77): R129. -/
def decodeMajor0a (w : Nat) : Option Instr :=
  some (.li (fld w 27 5) (fld w 8 19))

/-- Major 0x0B (R77): R130. -/
def decodeMajor0b (w : Nat) : Option Instr :=
  if w / 16777216 % 8 = 0 then some (.lih (fld w 27 5) (fld w 8 16))
  else none

/-- Major 0x0C (R77): R131. -/
def decodeMajor0c (w : Nat) : Option Instr :=
  if w / 2097152 % 2 = 0 then some (.ext (fld w 27 5) (fld w 22 5) (fld w 20 1) (fld w 14 6) (fld w 8 6))
  else none

/-- Major 0x0D (R77): R131. -/
def decodeMajor0d (w : Nat) : Option Instr :=
  if w / 1048576 % 4 = 0 then some (.ins (fld w 27 5) (fld w 22 5) (fld w 14 6) (fld w 8 6))
  else none

/-- Major 0x0E (R77): R132. -/
def decodeMajor0e (w : Nat) : Option Instr :=
  if w / 2097152 % 2 = 1 then some (.mkpl (fld w 27 5) (fld w 22 5) (fld w 18 3) (fld w 13 5) (fld w 8 5))
  else if w / 2097152 % 2 = 0 then some (.mkplAbs (fld w 27 5) (fld w 22 5) (fld w 18 3) (fld w 13 5) (fld w 8 5))
  else none

/-- Major 0x0F (R77): R133. -/
def decodeMajor0f (w : Nat) : Option Instr :=
  if w / 256 % 4 = 0 ∧ w / 4194304 % 32 = 0 then some (.csrr (fld w 27 5) (fld w 10 12))
  else if w / 256 % 4 = 1 then some (.csrw (fld w 27 5) (fld w 22 5) (fld w 10 12))
  else if w / 256 % 4 = 2 then some (.csrs (fld w 27 5) (fld w 22 5) (fld w 10 12))
  else if w / 256 % 4 = 3 then some (.csrc (fld w 27 5) (fld w 22 5) (fld w 10 12))
  else none

/-- Major 0x10 (R77): R136, R137. -/
def decodeMajor10 (w : Nat) : Option Instr :=
  if w / 256 % 32 = 0 ∧ w / 65536 % 2 = 0 then some (.oxl (fld w 27 5) (fld w 22 5) (fld w 17 5) (fld w 13 3))
  else if w / 256 % 16384 = 1 then some (.oxm (fld w 27 5) (fld w 22 5))
  else if w / 256 % 16384 = 2 then some (.oxr (fld w 27 5) (fld w 22 5))
  else none

/-- Major 0x11 (R77): R138. -/
def decodeMajor11 (w : Nat) : Option Instr :=
  some (.b (fld w 8 24))

/-- Major 0x12 (R77): R138. -/
def decodeMajor12 (w : Nat) : Option Instr :=
  some (.call (fld w 8 24))

/-- Major 0x13 (R77): R139. -/
def decodeMajor13 (w : Nat) : Option Instr :=
  some (.jr (fld w 27 5) (fld w 22 5) (fld w 8 14))

/-- Major 0x14 (R77): R140. -/
def decodeMajor14 (w : Nat) : Option Instr :=
  some (.beq (fld w 27 5) (fld w 22 5) (fld w 8 14))

/-- Major 0x15 (R77): R140. -/
def decodeMajor15 (w : Nat) : Option Instr :=
  some (.bne (fld w 27 5) (fld w 22 5) (fld w 8 14))

/-- Major 0x16 (R77): R140. -/
def decodeMajor16 (w : Nat) : Option Instr :=
  some (.blt (fld w 27 5) (fld w 22 5) (fld w 8 14))

/-- Major 0x17 (R77): R140. -/
def decodeMajor17 (w : Nat) : Option Instr :=
  some (.bge (fld w 27 5) (fld w 22 5) (fld w 8 14))

/-- Major 0x18 (R77): R140. -/
def decodeMajor18 (w : Nat) : Option Instr :=
  some (.bltN (fld w 27 5) (fld w 22 5) (fld w 8 14))

/-- Major 0x19 (R77): R140. -/
def decodeMajor19 (w : Nat) : Option Instr :=
  some (.bgeN (fld w 27 5) (fld w 22 5) (fld w 8 14))

/-- Major 0x1A (R77): R141. -/
def decodeMajor1a (w : Nat) : Option Instr :=
  if w / 33554432 % 4 = 0 then some (.bpAny (fld w 27 5) (fld w 8 17))
  else if w / 33554432 % 4 = 1 then some (.bpNone (fld w 27 5) (fld w 8 17))
  else if w / 33554432 % 4 = 2 then some (.bpAll (fld w 27 5) (fld w 8 17))
  else if w / 33554432 % 4 = 3 then some (.bpNall (fld w 27 5) (fld w 8 17))
  else none

/-- Major 0x1B (R77): R143, R144, R145, R146, R147, R148, R149. -/
def decodeMajor1b (w : Nat) : Option Instr :=
  if w / 256 % 16777216 = 0 then some (.nop)
  else if w / 256 % 16384 = 1 ∧ w / 134217728 % 32 = 0 then some (.trap (fld w 22 5))
  else if w / 256 % 16777216 = 2 then some (.eret)
  else if w / 256 % 16777216 = 3 then some (.fenceI)
  else if w / 256 % 16384 = 4 then some (.seal (fld w 27 5) (fld w 22 5))
  else if w / 256 % 16384 = 5 then some (.unseal (fld w 27 5) (fld w 22 5))
  else if w / 256 % 512 = 6 then some (.trestart (fld w 27 5) (fld w 22 5) (fld w 17 5))
  else if w / 256 % 16777216 = 7 then some (.dbgfreeze)
  else none

/-- Major 0x20 (R77): R158. -/
def decodeMajor20 (w : Nat) : Option Instr :=
  if w / 131072 % 32 = 0 then some (.vset (fld w 27 5) (fld w 22 5) (fld w 13 4) (fld w 11 2) (fld w 8 3))
  else if w / 131072 % 1024 = 1 then some (.vsetKeep (fld w 27 5) (fld w 13 4) (fld w 11 2) (fld w 8 3))
  else none

/-- Major 0x21 (R77): R162. -/
def decodeMajor21 (w : Nat) : Option Instr :=
  some (.vadd (fld w 26 6) (fld w 20 6) (fld w 14 6) (fld w 13 1) (fld w 8 5))

/-- Major 0x22 (R77): R162. -/
def decodeMajor22 (w : Nat) : Option Instr :=
  some (.vsub (fld w 26 6) (fld w 20 6) (fld w 14 6) (fld w 13 1) (fld w 8 5))

/-- Major 0x23 (R77): R162. -/
def decodeMajor23 (w : Nat) : Option Instr :=
  some (.vmul (fld w 26 6) (fld w 20 6) (fld w 14 6) (fld w 13 1) (fld w 8 5))

/-- Major 0x24 (R77): R162. -/
def decodeMajor24 (w : Nat) : Option Instr :=
  some (.vmulh (fld w 26 6) (fld w 20 6) (fld w 14 6) (fld w 13 1) (fld w 8 5))

/-- Major 0x25 (R77): R162. -/
def decodeMajor25 (w : Nat) : Option Instr :=
  some (.vmacc (fld w 26 6) (fld w 20 6) (fld w 14 6) (fld w 13 1) (fld w 8 5))

/-- Major 0x26 (R77): R162. -/
def decodeMajor26 (w : Nat) : Option Instr :=
  some (.vmin (fld w 26 6) (fld w 20 6) (fld w 14 6) (fld w 13 1) (fld w 8 5))

/-- Major 0x27 (R77): R162. -/
def decodeMajor27 (w : Nat) : Option Instr :=
  some (.vmax (fld w 26 6) (fld w 20 6) (fld w 14 6) (fld w 13 1) (fld w 8 5))

/-- Major 0x28 (R77): R162. -/
def decodeMajor28 (w : Nat) : Option Instr :=
  some (.vand (fld w 26 6) (fld w 20 6) (fld w 14 6) (fld w 13 1) (fld w 8 5))

/-- Major 0x29 (R77): R162. -/
def decodeMajor29 (w : Nat) : Option Instr :=
  some (.vor (fld w 26 6) (fld w 20 6) (fld w 14 6) (fld w 13 1) (fld w 8 5))

/-- Major 0x2A (R77): R162. -/
def decodeMajor2a (w : Nat) : Option Instr :=
  some (.vxor (fld w 26 6) (fld w 20 6) (fld w 14 6) (fld w 13 1) (fld w 8 5))

/-- Major 0x2B (R77): R162. -/
def decodeMajor2b (w : Nat) : Option Instr :=
  some (.vshl (fld w 26 6) (fld w 20 6) (fld w 14 6) (fld w 13 1) (fld w 8 5))

/-- Major 0x2C (R77): R162. -/
def decodeMajor2c (w : Nat) : Option Instr :=
  some (.vshr (fld w 26 6) (fld w 20 6) (fld w 14 6) (fld w 13 1) (fld w 8 5))

/-- Major 0x2D (R77): R162. -/
def decodeMajor2d (w : Nat) : Option Instr :=
  some (.vsar (fld w 26 6) (fld w 20 6) (fld w 14 6) (fld w 13 1) (fld w 8 5))

/-- Major 0x2E (R77): R162. -/
def decodeMajor2e (w : Nat) : Option Instr :=
  some (.vadds (fld w 26 6) (fld w 20 6) (fld w 14 6) (fld w 13 1) (fld w 8 5))

/-- Major 0x2F (R77): R162. -/
def decodeMajor2f (w : Nat) : Option Instr :=
  some (.vsubs (fld w 26 6) (fld w 20 6) (fld w 14 6) (fld w 13 1) (fld w 8 5))

/-- Major 0x30 (R77): R163. -/
def decodeMajor30 (w : Nat) : Option Instr :=
  some (.vfadd (fld w 26 6) (fld w 20 6) (fld w 14 6) (fld w 13 1) (fld w 8 5))

/-- Major 0x31 (R77): R163. -/
def decodeMajor31 (w : Nat) : Option Instr :=
  some (.vfsub (fld w 26 6) (fld w 20 6) (fld w 14 6) (fld w 13 1) (fld w 8 5))

/-- Major 0x32 (R77): R163. -/
def decodeMajor32 (w : Nat) : Option Instr :=
  some (.vfmul (fld w 26 6) (fld w 20 6) (fld w 14 6) (fld w 13 1) (fld w 8 5))

/-- Major 0x33 (R77): R163. -/
def decodeMajor33 (w : Nat) : Option Instr :=
  some (.vfma (fld w 26 6) (fld w 20 6) (fld w 14 6) (fld w 13 1) (fld w 8 5))

/-- Major 0x34 (R77): R163. -/
def decodeMajor34 (w : Nat) : Option Instr :=
  some (.vfms (fld w 26 6) (fld w 20 6) (fld w 14 6) (fld w 13 1) (fld w 8 5))

/-- Major 0x35 (R77): R163. -/
def decodeMajor35 (w : Nat) : Option Instr :=
  some (.vfnma (fld w 26 6) (fld w 20 6) (fld w 14 6) (fld w 13 1) (fld w 8 5))

/-- Major 0x36 (R77): R163. -/
def decodeMajor36 (w : Nat) : Option Instr :=
  some (.vfmin (fld w 26 6) (fld w 20 6) (fld w 14 6) (fld w 13 1) (fld w 8 5))

/-- Major 0x37 (R77): R163. -/
def decodeMajor37 (w : Nat) : Option Instr :=
  some (.vfmax (fld w 26 6) (fld w 20 6) (fld w 14 6) (fld w 13 1) (fld w 8 5))

/-- Major 0x38 (R77): R163. -/
def decodeMajor38 (w : Nat) : Option Instr :=
  some (.vfdiv (fld w 26 6) (fld w 20 6) (fld w 14 6) (fld w 13 1) (fld w 8 5))

/-- Major 0x39 (R77): R165, R166, R168. -/
def decodeMajor39 (w : Nat) : Option Instr :=
  if w / 16384 % 64 = 0 then some (.vmov (fld w 26 6) (fld w 20 6) (fld w 13 1) (fld w 8 5))
  else if w / 16384 % 64 = 1 then some (.vabs (fld w 26 6) (fld w 20 6) (fld w 13 1) (fld w 8 5))
  else if w / 16384 % 64 = 2 then some (.vneg (fld w 26 6) (fld w 20 6) (fld w 13 1) (fld w 8 5))
  else if w / 16384 % 64 = 3 then some (.vnot (fld w 26 6) (fld w 20 6) (fld w 13 1) (fld w 8 5))
  else if w / 16384 % 64 = 4 then some (.vclz (fld w 26 6) (fld w 20 6) (fld w 13 1) (fld w 8 5))
  else if w / 16384 % 64 = 5 then some (.vpopc (fld w 26 6) (fld w 20 6) (fld w 13 1) (fld w 8 5))
  else if w / 16384 % 64 = 6 then some (.vfabs (fld w 26 6) (fld w 20 6) (fld w 13 1) (fld w 8 5))
  else if w / 16384 % 64 = 7 then some (.vfneg (fld w 26 6) (fld w 20 6) (fld w 13 1) (fld w 8 5))
  else if w / 16384 % 64 = 8 then some (.vfsqrt (fld w 26 6) (fld w 20 6) (fld w 13 1) (fld w 8 5))
  else if w / 16384 % 64 = 9 then some (.vfrsq (fld w 26 6) (fld w 20 6) (fld w 13 1) (fld w 8 5))
  else if w / 16384 % 64 = 10 then some (.vfrcp (fld w 26 6) (fld w 20 6) (fld w 13 1) (fld w 8 5))
  else if w / 16384 % 64 = 11 then some (.vfexp2 (fld w 26 6) (fld w 20 6) (fld w 13 1) (fld w 8 5))
  else if w / 16384 % 64 = 12 then some (.vflog2 (fld w 26 6) (fld w 20 6) (fld w 13 1) (fld w 8 5))
  else if w / 16384 % 64 = 13 then some (.vftanh (fld w 26 6) (fld w 20 6) (fld w 13 1) (fld w 8 5))
  else if w / 16384 % 64 = 14 then some (.vfclass (fld w 26 6) (fld w 20 6) (fld w 13 1) (fld w 8 5))
  else if w / 16384 % 64 = 15 then some (.vunpk4Lo (fld w 26 6) (fld w 20 6) (fld w 13 1) (fld w 8 5))
  else if w / 16384 % 64 = 16 then some (.vunpk4Hi (fld w 26 6) (fld w 20 6) (fld w 13 1) (fld w 8 5))
  else if w / 16384 % 64 = 17 then some (.vpack4 (fld w 26 6) (fld w 20 6) (fld w 13 1) (fld w 8 5))
  else if w / 16384 % 64 = 18 then some (.vcvtI8 (fld w 26 6) (fld w 20 6) (fld w 13 1) (fld w 8 5))
  else if w / 16384 % 64 = 19 then some (.vcvtN8 (fld w 26 6) (fld w 20 6) (fld w 13 1) (fld w 8 5))
  else if w / 16384 % 64 = 20 then some (.vcvtI16 (fld w 26 6) (fld w 20 6) (fld w 13 1) (fld w 8 5))
  else if w / 16384 % 64 = 21 then some (.vcvtN16 (fld w 26 6) (fld w 20 6) (fld w 13 1) (fld w 8 5))
  else if w / 16384 % 64 = 22 then some (.vcvtI32 (fld w 26 6) (fld w 20 6) (fld w 13 1) (fld w 8 5))
  else if w / 16384 % 64 = 23 then some (.vcvtN32 (fld w 26 6) (fld w 20 6) (fld w 13 1) (fld w 8 5))
  else if w / 16384 % 64 = 24 then some (.vcvtI64 (fld w 26 6) (fld w 20 6) (fld w 13 1) (fld w 8 5))
  else if w / 16384 % 64 = 25 then some (.vcvtF64 (fld w 26 6) (fld w 20 6) (fld w 13 1) (fld w 8 5))
  else if w / 16384 % 64 = 26 then some (.vcvtF32 (fld w 26 6) (fld w 20 6) (fld w 13 1) (fld w 8 5))
  else if w / 16384 % 64 = 27 then some (.vcvtF16 (fld w 26 6) (fld w 20 6) (fld w 13 1) (fld w 8 5))
  else if w / 16384 % 64 = 28 then some (.vcvtBf16 (fld w 26 6) (fld w 20 6) (fld w 13 1) (fld w 8 5))
  else if w / 16384 % 64 = 29 then some (.vcvtE4m3 (fld w 26 6) (fld w 20 6) (fld w 13 1) (fld w 8 5))
  else if w / 16384 % 64 = 30 then some (.vcvtE5m2 (fld w 26 6) (fld w 20 6) (fld w 13 1) (fld w 8 5))
  else if w / 16384 % 64 = 31 then some (.vcvtE2m1 (fld w 26 6) (fld w 20 6) (fld w 13 1) (fld w 8 5))
  else none

/-- Major 0x3A (R77): R169. -/
def decodeMajor3a (w : Nat) : Option Instr :=
  if w / 4096 % 8 = 0 then some (.vcmpEq (fld w 27 5) (fld w 21 6) (fld w 15 6) (fld w 8 4))
  else if w / 4096 % 8 = 1 then some (.vcmpNe (fld w 27 5) (fld w 21 6) (fld w 15 6) (fld w 8 4))
  else if w / 4096 % 8 = 2 then some (.vcmpLt (fld w 27 5) (fld w 21 6) (fld w 15 6) (fld w 8 4))
  else if w / 4096 % 8 = 3 then some (.vcmpGe (fld w 27 5) (fld w 21 6) (fld w 15 6) (fld w 8 4))
  else if w / 4096 % 8 = 4 then some (.vcmpLe (fld w 27 5) (fld w 21 6) (fld w 15 6) (fld w 8 4))
  else if w / 4096 % 8 = 5 then some (.vcmpGt (fld w 27 5) (fld w 21 6) (fld w 15 6) (fld w 8 4))
  else none

/-- Major 0x3B (R77): R169. -/
def decodeMajor3b (w : Nat) : Option Instr :=
  if w / 4096 % 8 = 0 then some (.vfcmpEq (fld w 27 5) (fld w 21 6) (fld w 15 6) (fld w 8 4))
  else if w / 4096 % 8 = 1 then some (.vfcmpNe (fld w 27 5) (fld w 21 6) (fld w 15 6) (fld w 8 4))
  else if w / 4096 % 8 = 2 then some (.vfcmpLt (fld w 27 5) (fld w 21 6) (fld w 15 6) (fld w 8 4))
  else if w / 4096 % 8 = 3 then some (.vfcmpGe (fld w 27 5) (fld w 21 6) (fld w 15 6) (fld w 8 4))
  else if w / 4096 % 8 = 4 then some (.vfcmpLe (fld w 27 5) (fld w 21 6) (fld w 15 6) (fld w 8 4))
  else if w / 4096 % 8 = 5 then some (.vfcmpGt (fld w 27 5) (fld w 21 6) (fld w 15 6) (fld w 8 4))
  else if w / 4096 % 8 = 6 then some (.vfcmpUno (fld w 27 5) (fld w 21 6) (fld w 15 6) (fld w 8 4))
  else if w / 4096 % 8 = 7 then some (.vfcmpOrd (fld w 27 5) (fld w 21 6) (fld w 15 6) (fld w 8 4))
  else none

/-- Major 0x3C (R77): R172. -/
def decodeMajor3c (w : Nat) : Option Instr :=
  some (.vmerge (fld w 26 6) (fld w 20 6) (fld w 14 6) (fld w 13 1) (fld w 8 5))

/-- Major 0x3D (R77): R174. -/
def decodeMajor3d (w : Nat) : Option Instr :=
  if w / 16384 % 2 = 0 then some (.vslideup (fld w 26 6) (fld w 20 6) (fld w 15 5) (fld w 13 1) (fld w 8 5))
  else if w / 16384 % 2 = 1 then some (.vslideupRot (fld w 26 6) (fld w 20 6) (fld w 15 5) (fld w 13 1) (fld w 8 5))
  else none

/-- Major 0x3E (R77): R174. -/
def decodeMajor3e (w : Nat) : Option Instr :=
  if w / 16384 % 2 = 0 then some (.vslidedn (fld w 26 6) (fld w 20 6) (fld w 15 5) (fld w 13 1) (fld w 8 5))
  else if w / 16384 % 2 = 1 then some (.vslidednRot (fld w 26 6) (fld w 20 6) (fld w 15 5) (fld w 13 1) (fld w 8 5))
  else none

/-- Major 0x3F (R77): R173. -/
def decodeMajor3f (w : Nat) : Option Instr :=
  some (.vgathr (fld w 26 6) (fld w 20 6) (fld w 14 6) (fld w 13 1) (fld w 8 5))

/-- Major 0x40 (R77): R175. -/
def decodeMajor40 (w : Nat) : Option Instr :=
  if w / 16384 % 64 = 0 then some (.vcompress (fld w 26 6) (fld w 20 6) (fld w 13 1) (fld w 8 5))
  else none

/-- Major 0x41 (R77): R175. -/
def decodeMajor41 (w : Nat) : Option Instr :=
  if w / 16384 % 64 = 0 then some (.vexpand (fld w 26 6) (fld w 20 6) (fld w 13 1) (fld w 8 5))
  else none

/-- Major 0x42 (R77): R176. -/
def decodeMajor42 (w : Nat) : Option Instr :=
  if w / 16384 % 2 = 0 ∧ w / 1048576 % 64 = 0 then some (.vbcast (fld w 26 6) (fld w 15 5) (fld w 13 1) (fld w 8 5))
  else if w / 16384 % 2 = 1 then some (.vbcastE (fld w 26 6) (fld w 20 6) (fld w 15 5) (fld w 13 1) (fld w 8 5))
  else none

/-- Major 0x43 (R77): R176. -/
def decodeMajor43 (w : Nat) : Option Instr :=
  if w / 256 % 128 = 0 ∧ w / 2147483648 % 2 = 0 then some (.vextr (fld w 26 5) (fld w 20 6) (fld w 15 5))
  else if w / 256 % 128 = 64 ∧ w / 2147483648 % 2 = 0 then some (.vextrSx (fld w 26 5) (fld w 20 6) (fld w 15 5))
  else none

/-- Major 0x44 (R77): R176. -/
def decodeMajor44 (w : Nat) : Option Instr :=
  if w / 16384 % 2 = 0 ∧ w / 33554432 % 2 = 0 then some (.vins (fld w 26 6) (fld w 20 5) (fld w 15 5) (fld w 13 1) (fld w 8 5))
  else if w / 16384 % 2 = 1 ∧ w / 33554432 % 2 = 0 then some (.vinsCv (fld w 26 6) (fld w 20 5) (fld w 15 5) (fld w 13 1) (fld w 8 5))
  else none

/-- Major 0x45 (R77): R177. -/
def decodeMajor45 (w : Nat) : Option Instr :=
  if w / 16384 % 64 = 0 then some (.vfoldSum (fld w 26 6) (fld w 20 6) (fld w 13 1) (fld w 8 5))
  else if w / 16384 % 64 = 1 then some (.vfoldMin (fld w 26 6) (fld w 20 6) (fld w 13 1) (fld w 8 5))
  else if w / 16384 % 64 = 2 then some (.vfoldMax (fld w 26 6) (fld w 20 6) (fld w 13 1) (fld w 8 5))
  else if w / 16384 % 64 = 3 then some (.vfoldAnd (fld w 26 6) (fld w 20 6) (fld w 13 1) (fld w 8 5))
  else if w / 16384 % 64 = 4 then some (.vfoldOr (fld w 26 6) (fld w 20 6) (fld w 13 1) (fld w 8 5))
  else if w / 16384 % 64 = 5 then some (.vfoldXor (fld w 26 6) (fld w 20 6) (fld w 13 1) (fld w 8 5))
  else if w / 16384 % 64 = 6 then some (.vfoldFsum (fld w 26 6) (fld w 20 6) (fld w 13 1) (fld w 8 5))
  else if w / 16384 % 64 = 7 then some (.vfoldFmin (fld w 26 6) (fld w 20 6) (fld w 13 1) (fld w 8 5))
  else if w / 16384 % 64 = 8 then some (.vfoldFmax (fld w 26 6) (fld w 20 6) (fld w 13 1) (fld w 8 5))
  else none

/-- Major 0x46 (R77): R178. -/
def decodeMajor46 (w : Nat) : Option Instr :=
  if w / 16384 % 4096 = 0 then some (.vidx (fld w 26 6) (fld w 13 1) (fld w 8 5))
  else none

/-- Major 0x47 (R77): R179. -/
def decodeMajor47 (w : Nat) : Option Instr :=
  if w / 16384 % 4096 = 0 then some (.vrand (fld w 26 6) (fld w 13 1) (fld w 8 5))
  else none

/-- Major 0x48 (R77): R182. -/
def decodeMajor48 (w : Nat) : Option Instr :=
  if w / 16384 % 2 = 0 ∧ w / 1048576 % 64 = 0 then some (.vramp (fld w 26 6) (fld w 15 5) (fld w 13 1) (fld w 8 5))
  else if w / 16384 % 2 = 0 ∧ w / 1048576 % 64 = 1 then some (.vrampC (fld w 26 6) (fld w 15 5) (fld w 13 1) (fld w 8 5))
  else if w / 16384 % 2 = 1 ∧ w / 1048576 % 64 = 0 then some (.vrampW (fld w 26 6) (fld w 15 5) (fld w 13 1) (fld w 8 5))
  else if w / 16384 % 2 = 1 ∧ w / 1048576 % 64 = 1 then some (.vrampCW (fld w 26 6) (fld w 15 5) (fld w 13 1) (fld w 8 5))
  else none

/-- Major 0x49 (R77): R180. -/
def decodeMajor49 (w : Nat) : Option Instr :=
  some (.vbsc (fld w 26 6) (fld w 20 6) (fld w 14 6) (fld w 13 1) (fld w 8 5))

/-- Major 0x4A (R77): R181. -/
def decodeMajor4a (w : Nat) : Option Instr :=
  if w / 16384 % 2 = 0 then some (.vfscl (fld w 26 6) (fld w 20 6) (fld w 15 5) (fld w 13 1) (fld w 8 5))
  else none

/-- Major 0x4B (R77): R164. -/
def decodeMajor4b (w : Nat) : Option Instr :=
  some (.vaddVs (fld w 26 6) (fld w 20 6) (fld w 15 5) (fld w 14 1) (fld w 13 1) (fld w 8 5))

/-- Major 0x4C (R77): R164. -/
def decodeMajor4c (w : Nat) : Option Instr :=
  some (.vmulVs (fld w 26 6) (fld w 20 6) (fld w 15 5) (fld w 14 1) (fld w 13 1) (fld w 8 5))

/-- Major 0x4D (R77): R164. -/
def decodeMajor4d (w : Nat) : Option Instr :=
  some (.vfaddVs (fld w 26 6) (fld w 20 6) (fld w 15 5) (fld w 14 1) (fld w 13 1) (fld w 8 5))

/-- Major 0x4E (R77): R164. -/
def decodeMajor4e (w : Nat) : Option Instr :=
  some (.vfmulVs (fld w 26 6) (fld w 20 6) (fld w 15 5) (fld w 14 1) (fld w 13 1) (fld w 8 5))

/-- Major 0x4F (R77): R164. -/
def decodeMajor4f (w : Nat) : Option Instr :=
  some (.vfmaVs (fld w 26 6) (fld w 20 6) (fld w 15 5) (fld w 14 1) (fld w 13 1) (fld w 8 5))

/-- Major 0x50 (R77): R170. -/
def decodeMajor50 (w : Nat) : Option Instr :=
  if w / 256 % 512 = 0 then some (.pand (fld w 27 5) (fld w 22 5) (fld w 17 5))
  else if w / 256 % 512 = 1 then some (.por (fld w 27 5) (fld w 22 5) (fld w 17 5))
  else if w / 256 % 512 = 2 then some (.pxor (fld w 27 5) (fld w 22 5) (fld w 17 5))
  else if w / 256 % 512 = 3 then some (.pandn (fld w 27 5) (fld w 22 5) (fld w 17 5))
  else if w / 256 % 16384 = 4 then some (.pnot (fld w 27 5) (fld w 22 5))
  else if w / 256 % 16384 = 5 then some (.pmov (fld w 27 5) (fld w 22 5))
  else if w / 256 % 16384 = 6 then some (.psetn (fld w 27 5) (fld w 22 5))
  else if w / 256 % 524288 = 7 then some (.pclr (fld w 27 5))
  else if w / 256 % 16384 = 8 then some (.pfirst (fld w 27 5) (fld w 22 5))
  else if w / 256 % 16384 = 9 then some (.pcnt (fld w 27 5) (fld w 22 5))
  else none

/-- Major 0x51 (R77): R188. -/
def decodeMajor51 (w : Nat) : Option Instr :=
  if w / 256 % 4 = 0 then some (.mma (fld w 26 6) (fld w 20 6) (fld w 14 6) (fld w 10 4))
  else none

/-- Major 0x53 (R77): R196. -/
def decodeMajor53 (w : Nat) : Option Instr :=
  if w / 256 % 262144 = 0 then some (.mzero (fld w 26 6))
  else none

/-- Major 0x54 (R77): R199. -/
def decodeMajor54 (w : Nat) : Option Instr :=
  if w / 256 % 4 = 0 then some (.mepi (fld w 26 6) (fld w 20 6) (fld w 14 6) (fld w 10 4))
  else none

/-- Major 0x55 (R77): R201. -/
def decodeMajor55 (w : Nat) : Option Instr :=
  if w / 256 % 4 = 0 ∧ w / 16384 % 64 = 0 then some (.mcks (fld w 26 6) (fld w 20 6) (fld w 10 4))
  else none

/-- Major 0x58 (R77): R260. -/
def decodeMajor58 (w : Nat) : Option Instr :=
  some (.ld (fld w 27 5) (fld w 22 5) (fld w 20 2) (fld w 8 12))

/-- Major 0x59 (R77): R260. -/
def decodeMajor59 (w : Nat) : Option Instr :=
  some (.ldN (fld w 27 5) (fld w 22 5) (fld w 20 2) (fld w 8 12))

/-- Major 0x5A (R77): R260. -/
def decodeMajor5a (w : Nat) : Option Instr :=
  some (.st (fld w 27 5) (fld w 22 5) (fld w 20 2) (fld w 8 12))

/-- Major 0x5B (R77): R261. -/
def decodeMajor5b (w : Nat) : Option Instr :=
  some (.lda (fld w 27 5) (fld w 22 5) (fld w 20 2) (fld w 15 5) (fld w 8 7))

/-- Major 0x5C (R77): R262. -/
def decodeMajor5c (w : Nat) : Option Instr :=
  if w / 256 % 32 = 0 ∧ w / 65536 % 2 = 0 then some (.ldp (fld w 27 5) (fld w 22 5) (fld w 17 5) (fld w 15 1) (fld w 13 2))
  else if w / 256 % 32 = 1 ∧ w / 32768 % 4 = 0 then some (.stp (fld w 27 5) (fld w 22 5) (fld w 17 5) (fld w 13 2))
  else if w / 256 % 512 = 98 then some (.ldpC (fld w 27 5) (fld w 22 5) (fld w 17 5))
  else none

/-- Major 0x5D (R77): R264. -/
def decodeMajor5d (w : Nat) : Option Instr :=
  if w / 16384 % 128 = 0 then some (.vld (fld w 26 6) (fld w 21 5) (fld w 13 1) (fld w 8 5))
  else if w / 16384 % 2 = 1 ∧ w / 1048576 % 2 = 0 then some (.vldS (fld w 26 6) (fld w 21 5) (fld w 15 5) (fld w 13 1) (fld w 8 5))
  else none

/-- Major 0x5E (R77): R264, R265. -/
def decodeMajor5e (w : Nat) : Option Instr :=
  if w / 16384 % 128 = 0 then some (.vst (fld w 26 6) (fld w 21 5) (fld w 13 1) (fld w 8 5))
  else if w / 16384 % 2 = 0 ∧ w / 131072 % 16 = 8 then some (.vstCk (fld w 26 6) (fld w 21 5) (fld w 15 2) (fld w 13 1) (fld w 8 5))
  else if w / 16384 % 2 = 1 ∧ w / 1048576 % 2 = 0 then some (.vstS (fld w 26 6) (fld w 21 5) (fld w 15 5) (fld w 13 1) (fld w 8 5))
  else none

/-- Major 0x5F (R77): R264. -/
def decodeMajor5f (w : Nat) : Option Instr :=
  if w / 16384 % 2 = 0 then some (.vgld (fld w 26 6) (fld w 21 5) (fld w 15 6) (fld w 13 1) (fld w 8 5))
  else if w / 16384 % 2 = 1 then some (.vgldX2 (fld w 26 6) (fld w 21 5) (fld w 15 6) (fld w 13 1) (fld w 8 5))
  else none

/-- Major 0x60 (R77): R264. -/
def decodeMajor60 (w : Nat) : Option Instr :=
  if w / 16384 % 2 = 0 then some (.vsst (fld w 26 6) (fld w 21 5) (fld w 15 6) (fld w 13 1) (fld w 8 5))
  else none

/-- Major 0x61 (R77): R264. -/
def decodeMajor61 (w : Nat) : Option Instr :=
  if w / 16384 % 128 = 0 then some (.vldp (fld w 26 6) (fld w 21 5) (fld w 13 1) (fld w 8 5))
  else if w / 16384 % 128 = 64 then some (.vldpC (fld w 26 6) (fld w 21 5) (fld w 13 1) (fld w 8 5))
  else if w / 16384 % 128 = 1 then some (.vstp (fld w 26 6) (fld w 21 5) (fld w 13 1) (fld w 8 5))
  else none

/-- Major 0x62 (R77): R263. -/
def decodeMajor62 (w : Nat) : Option Instr :=
  if w / 256 % 128 = 0 ∧ w / 1048576 % 2 = 0 ∧ w / 67108864 % 64 = 0 then some (.pst (fld w 21 5) (fld w 15 5))
  else if w / 16384 % 128 = 1 then some (.pstV (fld w 26 6) (fld w 21 5) (fld w 13 1) (fld w 8 5))
  else none

/-- Major 0x63 (R77): R267. -/
def decodeMajor63 (w : Nat) : Option Instr :=
  if w / 256 % 8 = 0 ∧ w / 16384 % 2 = 0 then some (.xcopy (fld w 27 5) (fld w 22 5) (fld w 17 5) (fld w 15 2) (fld w 13 1) (fld w 12 1) (fld w 11 1))
  else none

/-- Major 0x64 (R77): R269. -/
def decodeMajor64 (w : Nat) : Option Instr :=
  if w / 256 % 8 = 0 ∧ w / 16384 % 256 = 0 ∧ w / 134217728 % 32 = 0 then some (.wbind (fld w 22 5) (fld w 11 3))
  else if w / 256 % 8 = 1 ∧ w / 16384 % 262144 = 0 then some (.wunb (fld w 11 3))
  else if w / 256 % 8 = 2 ∧ w / 16384 % 256 = 0 ∧ w / 134217728 % 32 = 0 then some (.wskip (fld w 22 5) (fld w 11 3))
  else if w / 256 % 8 = 3 ∧ w / 16384 % 8192 = 0 then some (.wpos (fld w 27 5) (fld w 11 3))
  else none

/-- Major 0x65 (R77): R273. -/
def decodeMajor65 (w : Nat) : Option Instr :=
  if w / 256 % 16 = 0 then some (.amoSwap (fld w 27 5) (fld w 22 5) (fld w 17 5) (fld w 15 2) (fld w 13 2) (fld w 12 1))
  else if w / 256 % 16 = 1 then some (.amoCas (fld w 27 5) (fld w 22 5) (fld w 17 5) (fld w 15 2) (fld w 13 2) (fld w 12 1))
  else if w / 256 % 16 = 2 then some (.amoAdd (fld w 27 5) (fld w 22 5) (fld w 17 5) (fld w 15 2) (fld w 13 2) (fld w 12 1))
  else if w / 256 % 16 = 3 then some (.amoAnd (fld w 27 5) (fld w 22 5) (fld w 17 5) (fld w 15 2) (fld w 13 2) (fld w 12 1))
  else if w / 256 % 16 = 4 then some (.amoOr (fld w 27 5) (fld w 22 5) (fld w 17 5) (fld w 15 2) (fld w 13 2) (fld w 12 1))
  else if w / 256 % 16 = 5 then some (.amoXor (fld w 27 5) (fld w 22 5) (fld w 17 5) (fld w 15 2) (fld w 13 2) (fld w 12 1))
  else if w / 256 % 16 = 6 then some (.amoMin (fld w 27 5) (fld w 22 5) (fld w 17 5) (fld w 15 2) (fld w 13 2) (fld w 12 1))
  else if w / 256 % 16 = 7 then some (.amoMax (fld w 27 5) (fld w 22 5) (fld w 17 5) (fld w 15 2) (fld w 13 2) (fld w 12 1))
  else if w / 256 % 16 = 8 then some (.amoMinN (fld w 27 5) (fld w 22 5) (fld w 17 5) (fld w 15 2) (fld w 13 2) (fld w 12 1))
  else if w / 256 % 16 = 9 then some (.amoMaxN (fld w 27 5) (fld w 22 5) (fld w 17 5) (fld w 15 2) (fld w 13 2) (fld w 12 1))
  else if w / 256 % 16 = 10 then some (.amoFadd (fld w 27 5) (fld w 22 5) (fld w 17 5) (fld w 15 2) (fld w 13 2) (fld w 12 1))
  else none

/-- Major 0x66 (R77): R274. -/
def decodeMajor66 (w : Nat) : Option Instr :=
  if w / 16384 % 2 = 0 then some (.vamo (fld w 26 6) (fld w 21 5) (fld w 15 6) (fld w 13 1) (fld w 8 5))
  else none

/-- Major 0x67 (R77): R273. -/
def decodeMajor67 (w : Nat) : Option Instr :=
  if w / 256 % 16 = 2 ∧ w / 8192 % 16 = 0 ∧ w / 134217728 % 32 = 0 then some (.redAdd (fld w 22 5) (fld w 17 5) (fld w 12 1))
  else if w / 256 % 16 = 3 ∧ w / 8192 % 16 = 0 ∧ w / 134217728 % 32 = 0 then some (.redAnd (fld w 22 5) (fld w 17 5) (fld w 12 1))
  else if w / 256 % 16 = 4 ∧ w / 8192 % 16 = 0 ∧ w / 134217728 % 32 = 0 then some (.redOr (fld w 22 5) (fld w 17 5) (fld w 12 1))
  else if w / 256 % 16 = 5 ∧ w / 8192 % 16 = 0 ∧ w / 134217728 % 32 = 0 then some (.redXor (fld w 22 5) (fld w 17 5) (fld w 12 1))
  else if w / 256 % 16 = 6 ∧ w / 8192 % 16 = 0 ∧ w / 134217728 % 32 = 0 then some (.redMin (fld w 22 5) (fld w 17 5) (fld w 12 1))
  else if w / 256 % 16 = 7 ∧ w / 8192 % 16 = 0 ∧ w / 134217728 % 32 = 0 then some (.redMax (fld w 22 5) (fld w 17 5) (fld w 12 1))
  else if w / 256 % 16 = 8 ∧ w / 8192 % 16 = 0 ∧ w / 134217728 % 32 = 0 then some (.redMinN (fld w 22 5) (fld w 17 5) (fld w 12 1))
  else if w / 256 % 16 = 9 ∧ w / 8192 % 16 = 0 ∧ w / 134217728 % 32 = 0 then some (.redMaxN (fld w 22 5) (fld w 17 5) (fld w 12 1))
  else if w / 256 % 16 = 10 ∧ w / 8192 % 16 = 0 ∧ w / 134217728 % 32 = 0 then some (.redFadd (fld w 22 5) (fld w 17 5) (fld w 12 1))
  else none

/-- Major 0x68 (R77): R274. -/
def decodeMajor68 (w : Nat) : Option Instr :=
  if w / 16384 % 2 = 0 then some (.vred (fld w 26 6) (fld w 21 5) (fld w 15 6) (fld w 13 1) (fld w 8 5))
  else none

/-- Major 0x69 (R77): R274. -/
def decodeMajor69 (w : Nat) : Option Instr :=
  if w / 16384 % 2 = 0 then some (.gll (fld w 26 6) (fld w 21 5) (fld w 15 6) (fld w 13 1) (fld w 8 5))
  else none

/-- Major 0x6A (R77): R274. -/
def decodeMajor6a (w : Nat) : Option Instr :=
  if w / 16384 % 2 = 0 then some (.scc (fld w 26 6) (fld w 21 5) (fld w 15 6) (fld w 13 1) (fld w 8 5))
  else none

/-- Major 0x6B (R77): R276. -/
def decodeMajor6b (w : Nat) : Option Instr :=
  if w / 256 % 32 = 0 ∧ w / 65536 % 65536 = 0 then some (.fence (fld w 13 3))
  else if w / 256 % 32 = 1 ∧ w / 65536 % 65536 = 0 then some (.fenceRel (fld w 13 3))
  else if w / 256 % 32 = 2 ∧ w / 65536 % 65536 = 0 then some (.fenceAcq (fld w 13 3))
  else if w / 256 % 16777216 = 99 then some (.fenceScPkg)
  else if w / 256 % 16777216 = 4 then some (.fenceSv)
  else if w / 256 % 16777216 = 5 then some (.fenceVs)
  else none

/-- Major 0x6C (R77): R277. -/
def decodeMajor6c (w : Nat) : Option Instr :=
  if w / 256 % 16777216 = 0 then some (.pbarOrder)
  else if w / 256 % 16777216 = 32 then some (.pbarComplete)
  else if w / 256 % 16384 = 1 ∧ w / 134217728 % 32 = 0 then some (.pflush (fld w 22 5))
  else none

/-- Major 0x6D (R77): R278. -/
def decodeMajor6d (w : Nat) : Option Instr :=
  if w / 134217728 % 32 = 0 then some (.prefL1 (fld w 22 5) (fld w 20 2) (fld w 8 12))
  else if w / 134217728 % 32 = 1 then some (.prefL2 (fld w 22 5) (fld w 20 2) (fld w 8 12))
  else none

/-- Major 0x6E (R77): R279. -/
def decodeMajor6e (w : Nat) : Option Instr :=
  if w / 256 % 512 = 0 then some (.dlg (fld w 27 5) (fld w 22 5) (fld w 17 5))
  else if w / 256 % 512 = 8 ∧ w / 134217728 % 32 = 0 then some (.dlgAm (fld w 22 5) (fld w 17 5))
  else none

/-- Major 0x6F (R77): R280. -/
def decodeMajor6f (w : Nat) : Option Instr :=
  if w / 256 % 16384 = 0 ∧ w / 134217728 % 32 = 0 then some (.cmoInv (fld w 22 5))
  else if w / 256 % 16384 = 1 ∧ w / 134217728 % 32 = 0 then some (.cmoWb (fld w 22 5))
  else if w / 256 % 16384 = 2 ∧ w / 134217728 % 32 = 0 then some (.cmoZero (fld w 22 5))
  else if w / 256 % 16384 = 3 then some (.cmoPfr (fld w 27 5) (fld w 22 5))
  else if w / 256 % 512 = 4 ∧ w / 134217728 % 32 = 0 then some (.cmoPfw (fld w 22 5) (fld w 17 5))
  else if w / 256 % 16384 = 5 ∧ w / 134217728 % 32 = 0 then some (.cmoObjclr (fld w 22 5))
  else none

/-- Major 0x70 (R77): R304, R305. -/
def decodeMajor70 (w : Nat) : Option Instr :=
  if w / 256 % 512 = 0 then some (.qinit (fld w 27 5) (fld w 22 5) (fld w 17 5))
  else if w / 256 % 16384 = 1 then some (.qfree (fld w 27 5) (fld w 22 5))
  else if w / 256 % 512 = 2 then some (.qstat (fld w 27 5) (fld w 22 5) (fld w 17 5))
  else if w / 256 % 512 = 3 then some (.qpeek (fld w 27 5) (fld w 22 5) (fld w 17 5))
  else none

/-- Major 0x71 (R77): R290. -/
def decodeMajor71 (w : Nat) : Option Instr :=
  if w / 256 % 512 = 0 then some (.enqTry (fld w 27 5) (fld w 22 5) (fld w 17 5))
  else if w / 256 % 512 = 32 ∧ w / 134217728 % 32 = 0 then some (.enqWait (fld w 22 5) (fld w 17 5))
  else none

/-- Major 0x72 (R77): R290. -/
def decodeMajor72 (w : Nat) : Option Instr :=
  if w / 256 % 512 = 0 then some (.deqTry (fld w 27 5) (fld w 22 5) (fld w 17 5))
  else if w / 256 % 512 = 32 ∧ w / 134217728 % 32 = 0 then some (.deqWait (fld w 22 5) (fld w 17 5))
  else none

/-- Major 0x73 (R77): R292. -/
def decodeMajor73 (w : Nat) : Option Instr :=
  if w / 256 % 128 = 0 ∧ w / 1048576 % 2 = 0 then some (.venqTry (fld w 26 6) (fld w 21 5) (fld w 15 5))
  else if w / 256 % 8192 = 4096 then some (.venqWait (fld w 26 6) (fld w 21 5))
  else if w / 256 % 128 = 64 ∧ w / 1048576 % 2 = 0 then some (.vdeqTry (fld w 26 6) (fld w 21 5) (fld w 15 5))
  else if w / 256 % 8192 = 4160 then some (.vdeqWait (fld w 26 6) (fld w 21 5))
  else none

/-- Major 0x74 (R77): R307, R308, R309, R310, R311. -/
def decodeMajor74 (w : Nat) : Option Instr :=
  if w / 256 % 16384 = 0 then some (.tspawn (fld w 27 5) (fld w 22 5))
  else if w / 256 % 16777216 = 1 then some (.tend)
  else if w / 256 % 16777216 = 2 then some (.yield)
  else if w / 256 % 16384 = 3 then some (.gjoin (fld w 27 5) (fld w 22 5))
  else if w / 256 % 512 = 4 then some (.gang (fld w 27 5) (fld w 22 5) (fld w 17 5))
  else if w / 256 % 16777216 = 5 then some (.ungang)
  else none

/-- Major 0x75 (R77): R312, R313. -/
def decodeMajor75 (w : Nat) : Option Instr :=
  if w / 256 % 512 = 0 then some (.wqry (fld w 27 5) (fld w 22 5) (fld w 17 5))
  else if w / 256 % 512 = 32 then some (.wqryOpen (fld w 27 5) (fld w 22 5) (fld w 17 5))
  else none

/-- Major 0x78 (R77): R326. -/
def decodeMajor78 (w : Nat) : Option Instr :=
  if w / 256 % 512 = 0 ∧ w / 134217728 % 32 = 0 then some (.tlbiVa (fld w 22 5) (fld w 17 5))
  else if w / 256 % 16384 = 1 ∧ w / 134217728 % 32 = 0 then some (.tlbiPart (fld w 22 5))
  else if w / 256 % 16777216 = 2 then some (.tlbiAll)
  else if w / 256 % 512 = 3 then some (.probe (fld w 27 5) (fld w 22 5) (fld w 17 5))
  else none

/-- Major 0x79 (R77): R336. -/
def decodeMajor79 (w : Nat) : Option Instr :=
  if w / 256 % 512 = 0 then some (.gissue (fld w 27 5) (fld w 22 5) (fld w 17 5))
  else if w / 256 % 16384 = 1 then some (.grevoke (fld w 27 5) (fld w 22 5))
  else if w / 256 % 512 = 2 then some (.gcheck (fld w 27 5) (fld w 22 5) (fld w 17 5))
  else none

/-- Major 0x7A (R77): R349, R350, R351, R352, R353, R354. -/
def decodeMajor7a (w : Nat) : Option Instr :=
  if w / 256 % 512 = 0 then some (.kvalloc (fld w 27 5) (fld w 22 5) (fld w 17 5))
  else if w / 256 % 512 = 32 then some (.kvallocInit (fld w 27 5) (fld w 22 5) (fld w 17 5))
  else if w / 256 % 512 = 1 then some (.kvref (fld w 27 5) (fld w 22 5) (fld w 17 5))
  else if w / 256 % 512 = 2 then some (.kvunref (fld w 27 5) (fld w 22 5) (fld w 17 5))
  else if w / 256 % 512 = 3 then some (.kvapp (fld w 27 5) (fld w 22 5) (fld w 17 5))
  else if w / 256 % 512 = 4 then some (.kvspl (fld w 27 5) (fld w 22 5) (fld w 17 5))
  else if w / 256 % 512 = 5 then some (.kvreq (fld w 27 5) (fld w 22 5) (fld w 17 5))
  else if w / 256 % 512 = 6 then some (.kvsrcGet (fld w 27 5) (fld w 22 5) (fld w 17 5))
  else if w / 256 % 512 = 38 then some (.kvsrcSet (fld w 27 5) (fld w 22 5) (fld w 17 5))
  else if w / 256 % 512 = 70 then some (.kvsrcBump (fld w 27 5) (fld w 22 5) (fld w 17 5))
  else none

/-- Major 0x7B (R77): R356. -/
def decodeMajor7b (w : Nat) : Option Instr :=
  if w / 256 % 64 = 0 then some (.kvg (fld w 26 6) (fld w 21 5) (fld w 15 6) (fld w 14 1))
  else if w / 256 % 64 = 1 then some (.kvgStale (fld w 26 6) (fld w 21 5) (fld w 15 6) (fld w 14 1))
  else if w / 256 % 64 = 2 then some (.kvgRep (fld w 26 6) (fld w 21 5) (fld w 15 6) (fld w 14 1))
  else if w / 256 % 64 = 3 then some (.kvgAny (fld w 26 6) (fld w 21 5) (fld w 15 6) (fld w 14 1))
  else none

/-- Major 0x7C (R77): R358, R362. -/
def decodeMajor7c (w : Nat) : Option Instr :=
  if w / 256 % 16384 = 0 then some (.rkjob (fld w 27 5) (fld w 22 5))
  else if w / 256 % 16384 = 1 then some (.rkstat (fld w 27 5) (fld w 22 5))
  else if w / 256 % 16384 = 2 then some (.rkcancel (fld w 27 5) (fld w 22 5))
  else none

/-- Major 0x7D (R77): R371. -/
def decodeMajor7d (w : Nat) : Option Instr :=
  if w / 256 % 2048 = 0 then some (.await (fld w 27 5) (fld w 19 8))
  else if w / 256 % 2048 = 256 then some (.awaitT (fld w 27 5) (fld w 19 8))
  else if w / 256 % 2048 = 512 then some (.awaitany (fld w 27 5) (fld w 19 8))
  else none

/-- Major 0x7E (R77): R376, R379, R383. -/
def decodeMajor7e (w : Nat) : Option Instr :=
  if w / 256 % 512 = 0 then some (.celli (fld w 27 5) (fld w 22 5) (fld w 17 5))
  else if w / 256 % 32 = 1 then some (.signal (fld w 27 5) (fld w 22 5) (fld w 17 5) (fld w 16 1) (fld w 13 3))
  else if w / 256 % 512 = 2 then some (.cread (fld w 27 5) (fld w 22 5) (fld w 17 5))
  else if w / 256 % 512 = 3 then some (.rvinit (fld w 27 5) (fld w 22 5) (fld w 17 5))
  else if w / 256 % 512 = 4 then some (.rvarr (fld w 27 5) (fld w 22 5) (fld w 17 5))
  else if w / 256 % 16384 = 5 then some (.rvfree (fld w 27 5) (fld w 22 5))
  else if w / 256 % 524288 = 6 then some (.barw (fld w 27 5))
  else if w / 256 % 512 = 7 ∧ w / 134217728 % 32 = 0 then some (.waituntil (fld w 22 5) (fld w 17 5))
  else none

/-- Majors 0x00 to 0x1F of the opcode map (R77); a major not listed is reserved. -/
def decodeScalar (m w : Nat) : Option Instr :=
  if m = 1 then decodeMajor01 w
  else if m = 2 then decodeMajor02 w
  else if m = 3 then decodeMajor03 w
  else if m = 4 then decodeMajor04 w
  else if m = 5 then decodeMajor05 w
  else if m = 6 then decodeMajor06 w
  else if m = 7 then decodeMajor07 w
  else if m = 8 then decodeMajor08 w
  else if m = 9 then decodeMajor09 w
  else if m = 10 then decodeMajor0a w
  else if m = 11 then decodeMajor0b w
  else if m = 12 then decodeMajor0c w
  else if m = 13 then decodeMajor0d w
  else if m = 14 then decodeMajor0e w
  else if m = 15 then decodeMajor0f w
  else if m = 16 then decodeMajor10 w
  else if m = 17 then decodeMajor11 w
  else if m = 18 then decodeMajor12 w
  else if m = 19 then decodeMajor13 w
  else if m = 20 then decodeMajor14 w
  else if m = 21 then decodeMajor15 w
  else if m = 22 then decodeMajor16 w
  else if m = 23 then decodeMajor17 w
  else if m = 24 then decodeMajor18 w
  else if m = 25 then decodeMajor19 w
  else if m = 26 then decodeMajor1a w
  else if m = 27 then decodeMajor1b w
  else none

/-- Majors 0x20 to 0x3F of the opcode map (R77); a major not listed is reserved. -/
def decodeVectorLow (m w : Nat) : Option Instr :=
  if m = 32 then decodeMajor20 w
  else if m = 33 then decodeMajor21 w
  else if m = 34 then decodeMajor22 w
  else if m = 35 then decodeMajor23 w
  else if m = 36 then decodeMajor24 w
  else if m = 37 then decodeMajor25 w
  else if m = 38 then decodeMajor26 w
  else if m = 39 then decodeMajor27 w
  else if m = 40 then decodeMajor28 w
  else if m = 41 then decodeMajor29 w
  else if m = 42 then decodeMajor2a w
  else if m = 43 then decodeMajor2b w
  else if m = 44 then decodeMajor2c w
  else if m = 45 then decodeMajor2d w
  else if m = 46 then decodeMajor2e w
  else if m = 47 then decodeMajor2f w
  else if m = 48 then decodeMajor30 w
  else if m = 49 then decodeMajor31 w
  else if m = 50 then decodeMajor32 w
  else if m = 51 then decodeMajor33 w
  else if m = 52 then decodeMajor34 w
  else if m = 53 then decodeMajor35 w
  else if m = 54 then decodeMajor36 w
  else if m = 55 then decodeMajor37 w
  else if m = 56 then decodeMajor38 w
  else if m = 57 then decodeMajor39 w
  else if m = 58 then decodeMajor3a w
  else if m = 59 then decodeMajor3b w
  else if m = 60 then decodeMajor3c w
  else if m = 61 then decodeMajor3d w
  else if m = 62 then decodeMajor3e w
  else if m = 63 then decodeMajor3f w
  else none

/-- Majors 0x40 to 0x57 of the opcode map (R77); a major not listed is reserved. -/
def decodeVectorHigh (m w : Nat) : Option Instr :=
  if m = 64 then decodeMajor40 w
  else if m = 65 then decodeMajor41 w
  else if m = 66 then decodeMajor42 w
  else if m = 67 then decodeMajor43 w
  else if m = 68 then decodeMajor44 w
  else if m = 69 then decodeMajor45 w
  else if m = 70 then decodeMajor46 w
  else if m = 71 then decodeMajor47 w
  else if m = 72 then decodeMajor48 w
  else if m = 73 then decodeMajor49 w
  else if m = 74 then decodeMajor4a w
  else if m = 75 then decodeMajor4b w
  else if m = 76 then decodeMajor4c w
  else if m = 77 then decodeMajor4d w
  else if m = 78 then decodeMajor4e w
  else if m = 79 then decodeMajor4f w
  else if m = 80 then decodeMajor50 w
  else if m = 81 then decodeMajor51 w
  else if m = 83 then decodeMajor53 w
  else if m = 84 then decodeMajor54 w
  else if m = 85 then decodeMajor55 w
  else none

/-- Majors 0x58 to 0x6F of the opcode map (R77); a major not listed is reserved. -/
def decodeMemory (m w : Nat) : Option Instr :=
  if m = 88 then decodeMajor58 w
  else if m = 89 then decodeMajor59 w
  else if m = 90 then decodeMajor5a w
  else if m = 91 then decodeMajor5b w
  else if m = 92 then decodeMajor5c w
  else if m = 93 then decodeMajor5d w
  else if m = 94 then decodeMajor5e w
  else if m = 95 then decodeMajor5f w
  else if m = 96 then decodeMajor60 w
  else if m = 97 then decodeMajor61 w
  else if m = 98 then decodeMajor62 w
  else if m = 99 then decodeMajor63 w
  else if m = 100 then decodeMajor64 w
  else if m = 101 then decodeMajor65 w
  else if m = 102 then decodeMajor66 w
  else if m = 103 then decodeMajor67 w
  else if m = 104 then decodeMajor68 w
  else if m = 105 then decodeMajor69 w
  else if m = 106 then decodeMajor6a w
  else if m = 107 then decodeMajor6b w
  else if m = 108 then decodeMajor6c w
  else if m = 109 then decodeMajor6d w
  else if m = 110 then decodeMajor6e w
  else if m = 111 then decodeMajor6f w
  else none

/-- Majors 0x70 to 0x7F of the opcode map (R77); a major not listed is reserved. -/
def decodeService (m w : Nat) : Option Instr :=
  if m = 112 then decodeMajor70 w
  else if m = 113 then decodeMajor71 w
  else if m = 114 then decodeMajor72 w
  else if m = 115 then decodeMajor73 w
  else if m = 116 then decodeMajor74 w
  else if m = 117 then decodeMajor75 w
  else if m = 120 then decodeMajor78 w
  else if m = 121 then decodeMajor79 w
  else if m = 122 then decodeMajor7a w
  else if m = 123 then decodeMajor7b w
  else if m = 124 then decodeMajor7c w
  else if m = 125 then decodeMajor7d w
  else if m = 126 then decodeMajor7e w
  else none

/-- The 32-bit forms by major opcode w[7:1] (R74, R77). -/
def decode32 (w : Nat) : Option Instr :=
  if w / 2 % 128 < 32 then decodeScalar (w / 2 % 128) w
  else if w / 2 % 128 < 64 then decodeVectorLow (w / 2 % 128) w
  else if w / 2 % 128 < 88 then decodeVectorHigh (w / 2 % 128) w
  else if w / 2 % 128 < 112 then decodeMemory (w / 2 % 128) w
  else decodeService (w / 2 % 128) w

/-- The 31 compressed forms by op = w[5:1] (R79); op 0 and a non-zero field marked 0 are no instruction. -/
def decode16 (w : Nat) : Option Instr :=
  if w / 2 % 32 = 1 then some (.cMov (fld w 11 5) (fld w 6 5))
  else if w / 2 % 32 = 2 then some (.cAdd (fld w 11 5) (fld w 6 5))
  else if w / 2 % 32 = 3 then some (.cSub (fld w 11 5) (fld w 6 5))
  else if w / 2 % 32 = 4 then some (.cAnd (fld w 11 5) (fld w 6 5))
  else if w / 2 % 32 = 5 then some (.cAddi (fld w 11 5) (fld w 6 5))
  else if w / 2 % 32 = 6 then some (.cLi (fld w 11 5) (fld w 6 5))
  else if w / 2 % 32 = 7 then some (.cShli (fld w 11 5) (fld w 6 5))
  else if w / 2 % 32 = 8 then some (.cLd (fld w 11 5) (fld w 6 5))
  else if w / 2 % 32 = 9 then some (.cSt (fld w 11 5) (fld w 6 5))
  else if w / 2 % 32 = 10 then some (.cB (fld w 6 10))
  else if w / 2 % 32 = 11 then some (.cBeqz (fld w 11 5) (fld w 6 5))
  else if w / 2 % 32 = 12 then some (.cBnez (fld w 11 5) (fld w 6 5))
  else if w / 2 % 32 = 13 ∧ w / 64 % 1024 = 0 then some (.cRet)
  else if w / 2 % 32 = 14 ∧ w / 1024 % 2 = 0 then some (.cAwait (fld w 11 5) (fld w 6 4))
  else if w / 2 % 32 = 15 ∧ w / 64 % 1024 = 0 then some (.cNop)
  else if w / 2 % 32 = 16 then some (.cOr (fld w 11 5) (fld w 6 5))
  else if w / 2 % 32 = 17 then some (.cXor (fld w 11 5) (fld w 6 5))
  else if w / 2 % 32 = 18 then some (.cShri (fld w 11 5) (fld w 6 5))
  else if w / 2 % 32 = 19 then some (.cSari (fld w 11 5) (fld w 6 5))
  else if w / 2 % 32 = 20 then some (.cLdw (fld w 11 5) (fld w 6 5))
  else if w / 2 % 32 = 21 then some (.cStw (fld w 11 5) (fld w 6 5))
  else if w / 2 % 32 = 22 then some (.cSlt (fld w 11 5) (fld w 6 5))
  else if w / 2 % 32 = 23 then some (.cShl (fld w 11 5) (fld w 6 5))
  else if w / 2 % 32 = 24 then some (.cShr (fld w 11 5) (fld w 6 5))
  else if w / 2 % 32 = 25 then some (.cNeg (fld w 11 5) (fld w 6 5))
  else if w / 2 % 32 = 26 then some (.cSeq (fld w 11 5) (fld w 6 5))
  else if w / 2 % 32 = 27 then some (.cMul (fld w 11 5) (fld w 6 5))
  else if w / 2 % 32 = 28 ∧ w / 64 % 1024 = 0 then some (.cYield)
  else if w / 2 % 32 = 29 ∧ w / 64 % 1024 = 0 then some (.cTend)
  else if w / 2 % 32 = 30 then some (.cMin (fld w 11 5) (fld w 6 5))
  else if w / 2 % 32 = 31 then some (.cMax (fld w 11 5) (fld w 6 5))
  else none

/-- The majors the opcode map leaves without an instruction (R77, R83). -/
def majorIsReserved (m : Nat) : Bool :=
  m = 0 || (0x1C ≤ m && m ≤ 0x1F) || m = 0x52 || m = 0x56 || m = 0x57 || m = 0x76 || m = 0x77 || m = 0x7F

/-- The length in bytes that bit 0 of the first halfword announces (R72). -/
def wordBytes (w : Nat) : Nat := if w % 2 = 0 then 2 else 4

/-- The instruction of a word: bit 0 decides the length (R72). A 16-bit form is w[15:0]. -/
def decodeWord (w : Nat) : Except Reject Instr :=
  if w % 2 = 0 then
    match decode16 (w % 65536) with
    | some i => .ok i
    | none => .error .compressedNotAnInstruction
  else
    match decode32 (w % 4294967296) with
    | some i => .ok i
    | none => if majorIsReserved (w / 2 % 128) then .error .majorReserved else .error .functionNotAssigned

/-- Little-endian value of a list of bytes (R3). -/
def leValue : List Byte → Nat
  | [] => 0
  | b :: bs => b.toNat + 256 * leValue bs

/-- The `n` low bytes of a value, lowest first (R3). -/
def leBytes : Nat → Nat → List Byte
  | 0, _ => []
  | n + 1, v => BitVec.ofNat 8 v :: leBytes n (v / 256)

/-- The decoder over bytes: the instruction and the bytes that follow it, or why there is none. -/
def decode : List Byte → Except Reject (Instr × List Byte)
  | b0 :: b1 :: rest =>
    if b0.toNat % 2 = 0 then
      match decodeWord (leValue [b0, b1]) with
      | .ok i => .ok (i, rest)
      | .error e => .error e
    else
      match rest with
      | b2 :: b3 :: rest' =>
        match decodeWord (leValue [b0, b1, b2, b3]) with
        | .ok i => .ok (i, rest')
        | .error e => .error e
      | _ => .error .noSecondHalfword
  | _ => .error .noHalfword

/-- Word of ADD (R127). -/
def encAdd (d : BitVec 5) (a : BitVec 5) (b : BitVec 5) : Nat := 3 + d.toNat * 134217728 + a.toNat * 4194304 + b.toNat * 131072
/-- Word of SUB (R127). -/
def encSub (d : BitVec 5) (a : BitVec 5) (b : BitVec 5) : Nat := 259 + d.toNat * 134217728 + a.toNat * 4194304 + b.toNat * 131072
/-- Word of AND (R127). -/
def encAnd (d : BitVec 5) (a : BitVec 5) (b : BitVec 5) : Nat := 515 + d.toNat * 134217728 + a.toNat * 4194304 + b.toNat * 131072
/-- Word of OR (R127). -/
def encOr (d : BitVec 5) (a : BitVec 5) (b : BitVec 5) : Nat := 771 + d.toNat * 134217728 + a.toNat * 4194304 + b.toNat * 131072
/-- Word of XOR (R127). -/
def encXor (d : BitVec 5) (a : BitVec 5) (b : BitVec 5) : Nat := 1027 + d.toNat * 134217728 + a.toNat * 4194304 + b.toNat * 131072
/-- Word of ANDN (R127). -/
def encAndn (d : BitVec 5) (a : BitVec 5) (b : BitVec 5) : Nat := 1283 + d.toNat * 134217728 + a.toNat * 4194304 + b.toNat * 131072
/-- Word of SHL (R127). -/
def encShl (d : BitVec 5) (a : BitVec 5) (b : BitVec 5) : Nat := 1539 + d.toNat * 134217728 + a.toNat * 4194304 + b.toNat * 131072
/-- Word of SHR (R127). -/
def encShr (d : BitVec 5) (a : BitVec 5) (b : BitVec 5) : Nat := 1795 + d.toNat * 134217728 + a.toNat * 4194304 + b.toNat * 131072
/-- Word of SAR (R127). -/
def encSar (d : BitVec 5) (a : BitVec 5) (b : BitVec 5) : Nat := 2051 + d.toNat * 134217728 + a.toNat * 4194304 + b.toNat * 131072
/-- Word of ROL (R127). -/
def encRol (d : BitVec 5) (a : BitVec 5) (b : BitVec 5) : Nat := 2307 + d.toNat * 134217728 + a.toNat * 4194304 + b.toNat * 131072
/-- Word of MIN (R127). -/
def encMin (d : BitVec 5) (a : BitVec 5) (b : BitVec 5) : Nat := 2563 + d.toNat * 134217728 + a.toNat * 4194304 + b.toNat * 131072
/-- Word of MAX (R127). -/
def encMax (d : BitVec 5) (a : BitVec 5) (b : BitVec 5) : Nat := 2819 + d.toNat * 134217728 + a.toNat * 4194304 + b.toNat * 131072
/-- Word of MIN_N (R127). -/
def encMinN (d : BitVec 5) (a : BitVec 5) (b : BitVec 5) : Nat := 3075 + d.toNat * 134217728 + a.toNat * 4194304 + b.toNat * 131072
/-- Word of MAX_N (R127). -/
def encMaxN (d : BitVec 5) (a : BitVec 5) (b : BitVec 5) : Nat := 3331 + d.toNat * 134217728 + a.toNat * 4194304 + b.toNat * 131072
/-- Word of SLT (R127). -/
def encSlt (d : BitVec 5) (a : BitVec 5) (b : BitVec 5) : Nat := 3587 + d.toNat * 134217728 + a.toNat * 4194304 + b.toNat * 131072
/-- Word of SLT_N (R127). -/
def encSltN (d : BitVec 5) (a : BitVec 5) (b : BitVec 5) : Nat := 3843 + d.toNat * 134217728 + a.toNat * 4194304 + b.toNat * 131072
/-- Word of SEQ (R127). -/
def encSeq (d : BitVec 5) (a : BitVec 5) (b : BitVec 5) : Nat := 4099 + d.toNat * 134217728 + a.toNat * 4194304 + b.toNat * 131072
/-- Word of MUL (R127). -/
def encMul (d : BitVec 5) (a : BitVec 5) (b : BitVec 5) : Nat := 4355 + d.toNat * 134217728 + a.toNat * 4194304 + b.toNat * 131072
/-- Word of MULH (R127). -/
def encMulh (d : BitVec 5) (a : BitVec 5) (b : BitVec 5) : Nat := 4611 + d.toNat * 134217728 + a.toNat * 4194304 + b.toNat * 131072
/-- Word of MULH_N (R127). -/
def encMulhN (d : BitVec 5) (a : BitVec 5) (b : BitVec 5) : Nat := 4867 + d.toNat * 134217728 + a.toNat * 4194304 + b.toNat * 131072
/-- Word of DIV (R127). -/
def encDiv (d : BitVec 5) (a : BitVec 5) (b : BitVec 5) : Nat := 5123 + d.toNat * 134217728 + a.toNat * 4194304 + b.toNat * 131072
/-- Word of DIV_N (R127). -/
def encDivN (d : BitVec 5) (a : BitVec 5) (b : BitVec 5) : Nat := 5379 + d.toNat * 134217728 + a.toNat * 4194304 + b.toNat * 131072
/-- Word of REM (R127). -/
def encRem (d : BitVec 5) (a : BitVec 5) (b : BitVec 5) : Nat := 5635 + d.toNat * 134217728 + a.toNat * 4194304 + b.toNat * 131072
/-- Word of REM_N (R127). -/
def encRemN (d : BitVec 5) (a : BitVec 5) (b : BitVec 5) : Nat := 5891 + d.toNat * 134217728 + a.toNat * 4194304 + b.toNat * 131072
/-- Word of CLZ (R127). -/
def encClz (d : BitVec 5) (a : BitVec 5) : Nat := 6147 + d.toNat * 134217728 + a.toNat * 4194304
/-- Word of CTZ (R127). -/
def encCtz (d : BitVec 5) (a : BitVec 5) : Nat := 6403 + d.toNat * 134217728 + a.toNat * 4194304
/-- Word of POPC (R127). -/
def encPopc (d : BitVec 5) (a : BitVec 5) : Nat := 6659 + d.toNat * 134217728 + a.toNat * 4194304
/-- Word of ADDI (R128). -/
def encAddi (d : BitVec 5) (a : BitVec 5) (i : BitVec 14) : Nat := 5 + d.toNat * 134217728 + a.toNat * 4194304 + i.toNat * 256
/-- Word of ANDI (R128). -/
def encAndi (d : BitVec 5) (a : BitVec 5) (i : BitVec 14) : Nat := 7 + d.toNat * 134217728 + a.toNat * 4194304 + i.toNat * 256
/-- Word of ORI (R128). -/
def encOri (d : BitVec 5) (a : BitVec 5) (i : BitVec 14) : Nat := 9 + d.toNat * 134217728 + a.toNat * 4194304 + i.toNat * 256
/-- Word of XORI (R128). -/
def encXori (d : BitVec 5) (a : BitVec 5) (i : BitVec 14) : Nat := 11 + d.toNat * 134217728 + a.toNat * 4194304 + i.toNat * 256
/-- Word of SHLI (R128). -/
def encShli (d : BitVec 5) (a : BitVec 5) (i : BitVec 6) : Nat := 13 + d.toNat * 134217728 + a.toNat * 4194304 + i.toNat * 256
/-- Word of SHRI (R128). -/
def encShri (d : BitVec 5) (a : BitVec 5) (i : BitVec 6) : Nat := 15 + d.toNat * 134217728 + a.toNat * 4194304 + i.toNat * 256
/-- Word of SARI (R128). -/
def encSari (d : BitVec 5) (a : BitVec 5) (i : BitVec 6) : Nat := 17 + d.toNat * 134217728 + a.toNat * 4194304 + i.toNat * 256
/-- Word of SLTI (R128). -/
def encSlti (d : BitVec 5) (a : BitVec 5) (i : BitVec 14) : Nat := 19 + d.toNat * 134217728 + a.toNat * 4194304 + i.toNat * 256
/-- Word of LI (R129). -/
def encLi (d : BitVec 5) (i : BitVec 19) : Nat := 21 + d.toNat * 134217728 + i.toNat * 256
/-- Word of LIH (R130). -/
def encLih (d : BitVec 5) (i : BitVec 16) : Nat := 23 + d.toNat * 134217728 + i.toNat * 256
/-- Word of EXT (R131). -/
def encExt (d : BitVec 5) (a : BitVec 5) (x : BitVec 1) (l : BitVec 6) (p : BitVec 6) : Nat := 25 + d.toNat * 134217728 + a.toNat * 4194304 + x.toNat * 1048576 + l.toNat * 16384 + p.toNat * 256
/-- Word of INS (R131). -/
def encIns (d : BitVec 5) (a : BitVec 5) (l : BitVec 6) (p : BitVec 6) : Nat := 27 + d.toNat * 134217728 + a.toNat * 4194304 + l.toNat * 16384 + p.toNat * 256
/-- Word of MKPL (R132). -/
def encMkpl (d : BitVec 5) (a : BitVec 5) (e : BitVec 3) (y : BitVec 5) (x : BitVec 5) : Nat := 2097181 + d.toNat * 134217728 + a.toNat * 4194304 + e.toNat * 262144 + y.toNat * 8192 + x.toNat * 256
/-- Word of MKPL_ABS (R132). -/
def encMkplAbs (d : BitVec 5) (a : BitVec 5) (e : BitVec 3) (y : BitVec 5) (x : BitVec 5) : Nat := 29 + d.toNat * 134217728 + a.toNat * 4194304 + e.toNat * 262144 + y.toNat * 8192 + x.toNat * 256
/-- Word of CSRR (R133). -/
def encCsrr (d : BitVec 5) (c : BitVec 12) : Nat := 31 + d.toNat * 134217728 + c.toNat * 1024
/-- Word of CSRW (R133). -/
def encCsrw (d : BitVec 5) (a : BitVec 5) (c : BitVec 12) : Nat := 287 + d.toNat * 134217728 + a.toNat * 4194304 + c.toNat * 1024
/-- Word of CSRS (R133). -/
def encCsrs (d : BitVec 5) (a : BitVec 5) (c : BitVec 12) : Nat := 543 + d.toNat * 134217728 + a.toNat * 4194304 + c.toNat * 1024
/-- Word of CSRC (R133). -/
def encCsrc (d : BitVec 5) (a : BitVec 5) (c : BitVec 12) : Nat := 799 + d.toNat * 134217728 + a.toNat * 4194304 + c.toNat * 1024
/-- Word of OXL (R137). -/
def encOxl (n : BitVec 5) (a : BitVec 5) (b : BitVec 5) (k : BitVec 3) : Nat := 33 + n.toNat * 134217728 + a.toNat * 4194304 + b.toNat * 131072 + k.toNat * 8192
/-- Word of OXM (R136). -/
def encOxm (n : BitVec 5) (a : BitVec 5) : Nat := 289 + n.toNat * 134217728 + a.toNat * 4194304
/-- Word of OXR (R136). -/
def encOxr (d : BitVec 5) (n : BitVec 5) : Nat := 545 + d.toNat * 134217728 + n.toNat * 4194304
/-- Word of B (R138). -/
def encB (o : BitVec 24) : Nat := 35 + o.toNat * 256
/-- Word of CALL (R138). -/
def encCall (o : BitVec 24) : Nat := 37 + o.toNat * 256
/-- Word of JR (R139). -/
def encJr (d : BitVec 5) (a : BitVec 5) (i : BitVec 14) : Nat := 39 + d.toNat * 134217728 + a.toNat * 4194304 + i.toNat * 256
/-- Word of BEQ (R140). -/
def encBeq (a : BitVec 5) (b : BitVec 5) (o : BitVec 14) : Nat := 41 + a.toNat * 134217728 + b.toNat * 4194304 + o.toNat * 256
/-- Word of BNE (R140). -/
def encBne (a : BitVec 5) (b : BitVec 5) (o : BitVec 14) : Nat := 43 + a.toNat * 134217728 + b.toNat * 4194304 + o.toNat * 256
/-- Word of BLT (R140). -/
def encBlt (a : BitVec 5) (b : BitVec 5) (o : BitVec 14) : Nat := 45 + a.toNat * 134217728 + b.toNat * 4194304 + o.toNat * 256
/-- Word of BGE (R140). -/
def encBge (a : BitVec 5) (b : BitVec 5) (o : BitVec 14) : Nat := 47 + a.toNat * 134217728 + b.toNat * 4194304 + o.toNat * 256
/-- Word of BLT_N (R140). -/
def encBltN (a : BitVec 5) (b : BitVec 5) (o : BitVec 14) : Nat := 49 + a.toNat * 134217728 + b.toNat * 4194304 + o.toNat * 256
/-- Word of BGE_N (R140). -/
def encBgeN (a : BitVec 5) (b : BitVec 5) (o : BitVec 14) : Nat := 51 + a.toNat * 134217728 + b.toNat * 4194304 + o.toNat * 256
/-- Word of BP_ANY (R141). -/
def encBpAny (p : BitVec 5) (o : BitVec 17) : Nat := 53 + p.toNat * 134217728 + o.toNat * 256
/-- Word of BP_NONE (R141). -/
def encBpNone (p : BitVec 5) (o : BitVec 17) : Nat := 33554485 + p.toNat * 134217728 + o.toNat * 256
/-- Word of BP_ALL (R141). -/
def encBpAll (p : BitVec 5) (o : BitVec 17) : Nat := 67108917 + p.toNat * 134217728 + o.toNat * 256
/-- Word of BP_NALL (R141). -/
def encBpNall (p : BitVec 5) (o : BitVec 17) : Nat := 100663349 + p.toNat * 134217728 + o.toNat * 256
/-- Word of NOP (R143). -/
def encNop : Nat := 55
/-- Word of TRAP (R144). -/
def encTrap (a : BitVec 5) : Nat := 311 + a.toNat * 4194304
/-- Word of ERET (R145). -/
def encEret : Nat := 567
/-- Word of FENCE_I (R146). -/
def encFenceI : Nat := 823
/-- Word of SEAL (R147). -/
def encSeal (d : BitVec 5) (a : BitVec 5) : Nat := 1079 + d.toNat * 134217728 + a.toNat * 4194304
/-- Word of UNSEAL (R147). -/
def encUnseal (d : BitVec 5) (a : BitVec 5) : Nat := 1335 + d.toNat * 134217728 + a.toNat * 4194304
/-- Word of TRESTART (R148). -/
def encTrestart (d : BitVec 5) (a : BitVec 5) (b : BitVec 5) : Nat := 1591 + d.toNat * 134217728 + a.toNat * 4194304 + b.toNat * 131072
/-- Word of DBGFREEZE (R149). -/
def encDbgfreeze : Nat := 1847
/-- Word of C_MOV (R79). -/
def encCMov (a : BitVec 5) (b : BitVec 5) : Nat := 2 + a.toNat * 2048 + b.toNat * 64
/-- Word of C_ADD (R79). -/
def encCAdd (a : BitVec 5) (b : BitVec 5) : Nat := 4 + a.toNat * 2048 + b.toNat * 64
/-- Word of C_SUB (R79). -/
def encCSub (a : BitVec 5) (b : BitVec 5) : Nat := 6 + a.toNat * 2048 + b.toNat * 64
/-- Word of C_AND (R79). -/
def encCAnd (a : BitVec 5) (b : BitVec 5) : Nat := 8 + a.toNat * 2048 + b.toNat * 64
/-- Word of C_ADDI (R79). -/
def encCAddi (a : BitVec 5) (i : BitVec 5) : Nat := 10 + a.toNat * 2048 + i.toNat * 64
/-- Word of C_LI (R79). -/
def encCLi (a : BitVec 5) (i : BitVec 5) : Nat := 12 + a.toNat * 2048 + i.toNat * 64
/-- Word of C_SHLI (R79). -/
def encCShli (a : BitVec 5) (i : BitVec 5) : Nat := 14 + a.toNat * 2048 + i.toNat * 64
/-- Word of C_LD (R79). -/
def encCLd (a : BitVec 5) (b : BitVec 5) : Nat := 16 + a.toNat * 2048 + b.toNat * 64
/-- Word of C_ST (R79). -/
def encCSt (a : BitVec 5) (b : BitVec 5) : Nat := 18 + a.toNat * 2048 + b.toNat * 64
/-- Word of C_B (R79). -/
def encCB (o : BitVec 10) : Nat := 20 + o.toNat * 64
/-- Word of C_BEQZ (R79). -/
def encCBeqz (a : BitVec 5) (i : BitVec 5) : Nat := 22 + a.toNat * 2048 + i.toNat * 64
/-- Word of C_BNEZ (R79). -/
def encCBnez (a : BitVec 5) (i : BitVec 5) : Nat := 24 + a.toNat * 2048 + i.toNat * 64
/-- Word of C_RET (R79). -/
def encCRet : Nat := 26
/-- Word of C_AWAIT (R79). -/
def encCAwait (a : BitVec 5) (i : BitVec 4) : Nat := 28 + a.toNat * 2048 + i.toNat * 64
/-- Word of C_NOP (R79). -/
def encCNop : Nat := 30
/-- Word of C_OR (R79). -/
def encCOr (a : BitVec 5) (b : BitVec 5) : Nat := 32 + a.toNat * 2048 + b.toNat * 64
/-- Word of C_XOR (R79). -/
def encCXor (a : BitVec 5) (b : BitVec 5) : Nat := 34 + a.toNat * 2048 + b.toNat * 64
/-- Word of C_SHRI (R79). -/
def encCShri (a : BitVec 5) (i : BitVec 5) : Nat := 36 + a.toNat * 2048 + i.toNat * 64
/-- Word of C_SARI (R79). -/
def encCSari (a : BitVec 5) (i : BitVec 5) : Nat := 38 + a.toNat * 2048 + i.toNat * 64
/-- Word of C_LDW (R79). -/
def encCLdw (a : BitVec 5) (b : BitVec 5) : Nat := 40 + a.toNat * 2048 + b.toNat * 64
/-- Word of C_STW (R79). -/
def encCStw (a : BitVec 5) (b : BitVec 5) : Nat := 42 + a.toNat * 2048 + b.toNat * 64
/-- Word of C_SLT (R79). -/
def encCSlt (a : BitVec 5) (b : BitVec 5) : Nat := 44 + a.toNat * 2048 + b.toNat * 64
/-- Word of C_SHL (R79). -/
def encCShl (a : BitVec 5) (b : BitVec 5) : Nat := 46 + a.toNat * 2048 + b.toNat * 64
/-- Word of C_SHR (R79). -/
def encCShr (a : BitVec 5) (b : BitVec 5) : Nat := 48 + a.toNat * 2048 + b.toNat * 64
/-- Word of C_NEG (R79). -/
def encCNeg (a : BitVec 5) (b : BitVec 5) : Nat := 50 + a.toNat * 2048 + b.toNat * 64
/-- Word of C_SEQ (R79). -/
def encCSeq (a : BitVec 5) (b : BitVec 5) : Nat := 52 + a.toNat * 2048 + b.toNat * 64
/-- Word of C_MUL (R79). -/
def encCMul (a : BitVec 5) (b : BitVec 5) : Nat := 54 + a.toNat * 2048 + b.toNat * 64
/-- Word of C_YIELD (R79). -/
def encCYield : Nat := 56
/-- Word of C_TEND (R79). -/
def encCTend : Nat := 58
/-- Word of C_MIN (R79). -/
def encCMin (a : BitVec 5) (b : BitVec 5) : Nat := 60 + a.toNat * 2048 + b.toNat * 64
/-- Word of C_MAX (R79). -/
def encCMax (a : BitVec 5) (b : BitVec 5) : Nat := 62 + a.toNat * 2048 + b.toNat * 64
/-- Word of VSET (R158). -/
def encVset (d : BitVec 5) (a : BitVec 5) (f : BitVec 4) (g : BitVec 2) (s : BitVec 3) : Nat := 65 + d.toNat * 134217728 + a.toNat * 4194304 + f.toNat * 8192 + g.toNat * 2048 + s.toNat * 256
/-- Word of VSET_KEEP (R158). -/
def encVsetKeep (d : BitVec 5) (f : BitVec 4) (g : BitVec 2) (s : BitVec 3) : Nat := 131137 + d.toNat * 134217728 + f.toNat * 8192 + g.toNat * 2048 + s.toNat * 256
/-- Word of VADD (R162). -/
def encVadd (d : BitVec 6) (a : BitVec 6) (b : BitVec 6) (n : BitVec 1) (p : BitVec 5) : Nat := 67 + d.toNat * 67108864 + a.toNat * 1048576 + b.toNat * 16384 + n.toNat * 8192 + p.toNat * 256
/-- Word of VSUB (R162). -/
def encVsub (d : BitVec 6) (a : BitVec 6) (b : BitVec 6) (n : BitVec 1) (p : BitVec 5) : Nat := 69 + d.toNat * 67108864 + a.toNat * 1048576 + b.toNat * 16384 + n.toNat * 8192 + p.toNat * 256
/-- Word of VMUL (R162). -/
def encVmul (d : BitVec 6) (a : BitVec 6) (b : BitVec 6) (n : BitVec 1) (p : BitVec 5) : Nat := 71 + d.toNat * 67108864 + a.toNat * 1048576 + b.toNat * 16384 + n.toNat * 8192 + p.toNat * 256
/-- Word of VMULH (R162). -/
def encVmulh (d : BitVec 6) (a : BitVec 6) (b : BitVec 6) (n : BitVec 1) (p : BitVec 5) : Nat := 73 + d.toNat * 67108864 + a.toNat * 1048576 + b.toNat * 16384 + n.toNat * 8192 + p.toNat * 256
/-- Word of VMACC (R162). -/
def encVmacc (d : BitVec 6) (a : BitVec 6) (b : BitVec 6) (n : BitVec 1) (p : BitVec 5) : Nat := 75 + d.toNat * 67108864 + a.toNat * 1048576 + b.toNat * 16384 + n.toNat * 8192 + p.toNat * 256
/-- Word of VMIN (R162). -/
def encVmin (d : BitVec 6) (a : BitVec 6) (b : BitVec 6) (n : BitVec 1) (p : BitVec 5) : Nat := 77 + d.toNat * 67108864 + a.toNat * 1048576 + b.toNat * 16384 + n.toNat * 8192 + p.toNat * 256
/-- Word of VMAX (R162). -/
def encVmax (d : BitVec 6) (a : BitVec 6) (b : BitVec 6) (n : BitVec 1) (p : BitVec 5) : Nat := 79 + d.toNat * 67108864 + a.toNat * 1048576 + b.toNat * 16384 + n.toNat * 8192 + p.toNat * 256
/-- Word of VAND (R162). -/
def encVand (d : BitVec 6) (a : BitVec 6) (b : BitVec 6) (n : BitVec 1) (p : BitVec 5) : Nat := 81 + d.toNat * 67108864 + a.toNat * 1048576 + b.toNat * 16384 + n.toNat * 8192 + p.toNat * 256
/-- Word of VOR (R162). -/
def encVor (d : BitVec 6) (a : BitVec 6) (b : BitVec 6) (n : BitVec 1) (p : BitVec 5) : Nat := 83 + d.toNat * 67108864 + a.toNat * 1048576 + b.toNat * 16384 + n.toNat * 8192 + p.toNat * 256
/-- Word of VXOR (R162). -/
def encVxor (d : BitVec 6) (a : BitVec 6) (b : BitVec 6) (n : BitVec 1) (p : BitVec 5) : Nat := 85 + d.toNat * 67108864 + a.toNat * 1048576 + b.toNat * 16384 + n.toNat * 8192 + p.toNat * 256
/-- Word of VSHL (R162). -/
def encVshl (d : BitVec 6) (a : BitVec 6) (b : BitVec 6) (n : BitVec 1) (p : BitVec 5) : Nat := 87 + d.toNat * 67108864 + a.toNat * 1048576 + b.toNat * 16384 + n.toNat * 8192 + p.toNat * 256
/-- Word of VSHR (R162). -/
def encVshr (d : BitVec 6) (a : BitVec 6) (b : BitVec 6) (n : BitVec 1) (p : BitVec 5) : Nat := 89 + d.toNat * 67108864 + a.toNat * 1048576 + b.toNat * 16384 + n.toNat * 8192 + p.toNat * 256
/-- Word of VSAR (R162). -/
def encVsar (d : BitVec 6) (a : BitVec 6) (b : BitVec 6) (n : BitVec 1) (p : BitVec 5) : Nat := 91 + d.toNat * 67108864 + a.toNat * 1048576 + b.toNat * 16384 + n.toNat * 8192 + p.toNat * 256
/-- Word of VADDS (R162). -/
def encVadds (d : BitVec 6) (a : BitVec 6) (b : BitVec 6) (n : BitVec 1) (p : BitVec 5) : Nat := 93 + d.toNat * 67108864 + a.toNat * 1048576 + b.toNat * 16384 + n.toNat * 8192 + p.toNat * 256
/-- Word of VSUBS (R162). -/
def encVsubs (d : BitVec 6) (a : BitVec 6) (b : BitVec 6) (n : BitVec 1) (p : BitVec 5) : Nat := 95 + d.toNat * 67108864 + a.toNat * 1048576 + b.toNat * 16384 + n.toNat * 8192 + p.toNat * 256
/-- Word of VFADD (R163). -/
def encVfadd (d : BitVec 6) (a : BitVec 6) (b : BitVec 6) (n : BitVec 1) (p : BitVec 5) : Nat := 97 + d.toNat * 67108864 + a.toNat * 1048576 + b.toNat * 16384 + n.toNat * 8192 + p.toNat * 256
/-- Word of VFSUB (R163). -/
def encVfsub (d : BitVec 6) (a : BitVec 6) (b : BitVec 6) (n : BitVec 1) (p : BitVec 5) : Nat := 99 + d.toNat * 67108864 + a.toNat * 1048576 + b.toNat * 16384 + n.toNat * 8192 + p.toNat * 256
/-- Word of VFMUL (R163). -/
def encVfmul (d : BitVec 6) (a : BitVec 6) (b : BitVec 6) (n : BitVec 1) (p : BitVec 5) : Nat := 101 + d.toNat * 67108864 + a.toNat * 1048576 + b.toNat * 16384 + n.toNat * 8192 + p.toNat * 256
/-- Word of VFMA (R163). -/
def encVfma (d : BitVec 6) (a : BitVec 6) (b : BitVec 6) (n : BitVec 1) (p : BitVec 5) : Nat := 103 + d.toNat * 67108864 + a.toNat * 1048576 + b.toNat * 16384 + n.toNat * 8192 + p.toNat * 256
/-- Word of VFMS (R163). -/
def encVfms (d : BitVec 6) (a : BitVec 6) (b : BitVec 6) (n : BitVec 1) (p : BitVec 5) : Nat := 105 + d.toNat * 67108864 + a.toNat * 1048576 + b.toNat * 16384 + n.toNat * 8192 + p.toNat * 256
/-- Word of VFNMA (R163). -/
def encVfnma (d : BitVec 6) (a : BitVec 6) (b : BitVec 6) (n : BitVec 1) (p : BitVec 5) : Nat := 107 + d.toNat * 67108864 + a.toNat * 1048576 + b.toNat * 16384 + n.toNat * 8192 + p.toNat * 256
/-- Word of VFMIN (R163). -/
def encVfmin (d : BitVec 6) (a : BitVec 6) (b : BitVec 6) (n : BitVec 1) (p : BitVec 5) : Nat := 109 + d.toNat * 67108864 + a.toNat * 1048576 + b.toNat * 16384 + n.toNat * 8192 + p.toNat * 256
/-- Word of VFMAX (R163). -/
def encVfmax (d : BitVec 6) (a : BitVec 6) (b : BitVec 6) (n : BitVec 1) (p : BitVec 5) : Nat := 111 + d.toNat * 67108864 + a.toNat * 1048576 + b.toNat * 16384 + n.toNat * 8192 + p.toNat * 256
/-- Word of VFDIV (R163). -/
def encVfdiv (d : BitVec 6) (a : BitVec 6) (b : BitVec 6) (n : BitVec 1) (p : BitVec 5) : Nat := 113 + d.toNat * 67108864 + a.toNat * 1048576 + b.toNat * 16384 + n.toNat * 8192 + p.toNat * 256
/-- Word of VMOV (R165). -/
def encVmov (d : BitVec 6) (a : BitVec 6) (n : BitVec 1) (p : BitVec 5) : Nat := 115 + d.toNat * 67108864 + a.toNat * 1048576 + n.toNat * 8192 + p.toNat * 256
/-- Word of VABS (R165). -/
def encVabs (d : BitVec 6) (a : BitVec 6) (n : BitVec 1) (p : BitVec 5) : Nat := 16499 + d.toNat * 67108864 + a.toNat * 1048576 + n.toNat * 8192 + p.toNat * 256
/-- Word of VNEG (R165). -/
def encVneg (d : BitVec 6) (a : BitVec 6) (n : BitVec 1) (p : BitVec 5) : Nat := 32883 + d.toNat * 67108864 + a.toNat * 1048576 + n.toNat * 8192 + p.toNat * 256
/-- Word of VNOT (R165). -/
def encVnot (d : BitVec 6) (a : BitVec 6) (n : BitVec 1) (p : BitVec 5) : Nat := 49267 + d.toNat * 67108864 + a.toNat * 1048576 + n.toNat * 8192 + p.toNat * 256
/-- Word of VCLZ (R165). -/
def encVclz (d : BitVec 6) (a : BitVec 6) (n : BitVec 1) (p : BitVec 5) : Nat := 65651 + d.toNat * 67108864 + a.toNat * 1048576 + n.toNat * 8192 + p.toNat * 256
/-- Word of VPOPC (R165). -/
def encVpopc (d : BitVec 6) (a : BitVec 6) (n : BitVec 1) (p : BitVec 5) : Nat := 82035 + d.toNat * 67108864 + a.toNat * 1048576 + n.toNat * 8192 + p.toNat * 256
/-- Word of VFABS (R165). -/
def encVfabs (d : BitVec 6) (a : BitVec 6) (n : BitVec 1) (p : BitVec 5) : Nat := 98419 + d.toNat * 67108864 + a.toNat * 1048576 + n.toNat * 8192 + p.toNat * 256
/-- Word of VFNEG (R165). -/
def encVfneg (d : BitVec 6) (a : BitVec 6) (n : BitVec 1) (p : BitVec 5) : Nat := 114803 + d.toNat * 67108864 + a.toNat * 1048576 + n.toNat * 8192 + p.toNat * 256
/-- Word of VFSQRT (R165). -/
def encVfsqrt (d : BitVec 6) (a : BitVec 6) (n : BitVec 1) (p : BitVec 5) : Nat := 131187 + d.toNat * 67108864 + a.toNat * 1048576 + n.toNat * 8192 + p.toNat * 256
/-- Word of VFRSQ (R165). -/
def encVfrsq (d : BitVec 6) (a : BitVec 6) (n : BitVec 1) (p : BitVec 5) : Nat := 147571 + d.toNat * 67108864 + a.toNat * 1048576 + n.toNat * 8192 + p.toNat * 256
/-- Word of VFRCP (R165). -/
def encVfrcp (d : BitVec 6) (a : BitVec 6) (n : BitVec 1) (p : BitVec 5) : Nat := 163955 + d.toNat * 67108864 + a.toNat * 1048576 + n.toNat * 8192 + p.toNat * 256
/-- Word of VFEXP2 (R165). -/
def encVfexp2 (d : BitVec 6) (a : BitVec 6) (n : BitVec 1) (p : BitVec 5) : Nat := 180339 + d.toNat * 67108864 + a.toNat * 1048576 + n.toNat * 8192 + p.toNat * 256
/-- Word of VFLOG2 (R165). -/
def encVflog2 (d : BitVec 6) (a : BitVec 6) (n : BitVec 1) (p : BitVec 5) : Nat := 196723 + d.toNat * 67108864 + a.toNat * 1048576 + n.toNat * 8192 + p.toNat * 256
/-- Word of VFTANH (R165). -/
def encVftanh (d : BitVec 6) (a : BitVec 6) (n : BitVec 1) (p : BitVec 5) : Nat := 213107 + d.toNat * 67108864 + a.toNat * 1048576 + n.toNat * 8192 + p.toNat * 256
/-- Word of VFCLASS (R165). -/
def encVfclass (d : BitVec 6) (a : BitVec 6) (n : BitVec 1) (p : BitVec 5) : Nat := 229491 + d.toNat * 67108864 + a.toNat * 1048576 + n.toNat * 8192 + p.toNat * 256
/-- Word of VUNPK4_LO (R168). -/
def encVunpk4Lo (d : BitVec 6) (a : BitVec 6) (n : BitVec 1) (p : BitVec 5) : Nat := 245875 + d.toNat * 67108864 + a.toNat * 1048576 + n.toNat * 8192 + p.toNat * 256
/-- Word of VUNPK4_HI (R168). -/
def encVunpk4Hi (d : BitVec 6) (a : BitVec 6) (n : BitVec 1) (p : BitVec 5) : Nat := 262259 + d.toNat * 67108864 + a.toNat * 1048576 + n.toNat * 8192 + p.toNat * 256
/-- Word of VPACK4 (R168). -/
def encVpack4 (d : BitVec 6) (a : BitVec 6) (n : BitVec 1) (p : BitVec 5) : Nat := 278643 + d.toNat * 67108864 + a.toNat * 1048576 + n.toNat * 8192 + p.toNat * 256
/-- Word of VCVT_I8 (R166). -/
def encVcvtI8 (d : BitVec 6) (a : BitVec 6) (n : BitVec 1) (p : BitVec 5) : Nat := 295027 + d.toNat * 67108864 + a.toNat * 1048576 + n.toNat * 8192 + p.toNat * 256
/-- Word of VCVT_N8 (R166). -/
def encVcvtN8 (d : BitVec 6) (a : BitVec 6) (n : BitVec 1) (p : BitVec 5) : Nat := 311411 + d.toNat * 67108864 + a.toNat * 1048576 + n.toNat * 8192 + p.toNat * 256
/-- Word of VCVT_I16 (R166). -/
def encVcvtI16 (d : BitVec 6) (a : BitVec 6) (n : BitVec 1) (p : BitVec 5) : Nat := 327795 + d.toNat * 67108864 + a.toNat * 1048576 + n.toNat * 8192 + p.toNat * 256
/-- Word of VCVT_N16 (R166). -/
def encVcvtN16 (d : BitVec 6) (a : BitVec 6) (n : BitVec 1) (p : BitVec 5) : Nat := 344179 + d.toNat * 67108864 + a.toNat * 1048576 + n.toNat * 8192 + p.toNat * 256
/-- Word of VCVT_I32 (R166). -/
def encVcvtI32 (d : BitVec 6) (a : BitVec 6) (n : BitVec 1) (p : BitVec 5) : Nat := 360563 + d.toNat * 67108864 + a.toNat * 1048576 + n.toNat * 8192 + p.toNat * 256
/-- Word of VCVT_N32 (R166). -/
def encVcvtN32 (d : BitVec 6) (a : BitVec 6) (n : BitVec 1) (p : BitVec 5) : Nat := 376947 + d.toNat * 67108864 + a.toNat * 1048576 + n.toNat * 8192 + p.toNat * 256
/-- Word of VCVT_I64 (R166). -/
def encVcvtI64 (d : BitVec 6) (a : BitVec 6) (n : BitVec 1) (p : BitVec 5) : Nat := 393331 + d.toNat * 67108864 + a.toNat * 1048576 + n.toNat * 8192 + p.toNat * 256
/-- Word of VCVT_F64 (R166). -/
def encVcvtF64 (d : BitVec 6) (a : BitVec 6) (n : BitVec 1) (p : BitVec 5) : Nat := 409715 + d.toNat * 67108864 + a.toNat * 1048576 + n.toNat * 8192 + p.toNat * 256
/-- Word of VCVT_F32 (R166). -/
def encVcvtF32 (d : BitVec 6) (a : BitVec 6) (n : BitVec 1) (p : BitVec 5) : Nat := 426099 + d.toNat * 67108864 + a.toNat * 1048576 + n.toNat * 8192 + p.toNat * 256
/-- Word of VCVT_F16 (R166). -/
def encVcvtF16 (d : BitVec 6) (a : BitVec 6) (n : BitVec 1) (p : BitVec 5) : Nat := 442483 + d.toNat * 67108864 + a.toNat * 1048576 + n.toNat * 8192 + p.toNat * 256
/-- Word of VCVT_BF16 (R166). -/
def encVcvtBf16 (d : BitVec 6) (a : BitVec 6) (n : BitVec 1) (p : BitVec 5) : Nat := 458867 + d.toNat * 67108864 + a.toNat * 1048576 + n.toNat * 8192 + p.toNat * 256
/-- Word of VCVT_E4M3 (R166). -/
def encVcvtE4m3 (d : BitVec 6) (a : BitVec 6) (n : BitVec 1) (p : BitVec 5) : Nat := 475251 + d.toNat * 67108864 + a.toNat * 1048576 + n.toNat * 8192 + p.toNat * 256
/-- Word of VCVT_E5M2 (R166). -/
def encVcvtE5m2 (d : BitVec 6) (a : BitVec 6) (n : BitVec 1) (p : BitVec 5) : Nat := 491635 + d.toNat * 67108864 + a.toNat * 1048576 + n.toNat * 8192 + p.toNat * 256
/-- Word of VCVT_E2M1 (R166). -/
def encVcvtE2m1 (d : BitVec 6) (a : BitVec 6) (n : BitVec 1) (p : BitVec 5) : Nat := 508019 + d.toNat * 67108864 + a.toNat * 1048576 + n.toNat * 8192 + p.toNat * 256
/-- Word of VCMP_EQ (R169). -/
def encVcmpEq (d : BitVec 5) (a : BitVec 6) (b : BitVec 6) (p : BitVec 4) : Nat := 117 + d.toNat * 134217728 + a.toNat * 2097152 + b.toNat * 32768 + p.toNat * 256
/-- Word of VCMP_NE (R169). -/
def encVcmpNe (d : BitVec 5) (a : BitVec 6) (b : BitVec 6) (p : BitVec 4) : Nat := 4213 + d.toNat * 134217728 + a.toNat * 2097152 + b.toNat * 32768 + p.toNat * 256
/-- Word of VCMP_LT (R169). -/
def encVcmpLt (d : BitVec 5) (a : BitVec 6) (b : BitVec 6) (p : BitVec 4) : Nat := 8309 + d.toNat * 134217728 + a.toNat * 2097152 + b.toNat * 32768 + p.toNat * 256
/-- Word of VCMP_GE (R169). -/
def encVcmpGe (d : BitVec 5) (a : BitVec 6) (b : BitVec 6) (p : BitVec 4) : Nat := 12405 + d.toNat * 134217728 + a.toNat * 2097152 + b.toNat * 32768 + p.toNat * 256
/-- Word of VCMP_LE (R169). -/
def encVcmpLe (d : BitVec 5) (a : BitVec 6) (b : BitVec 6) (p : BitVec 4) : Nat := 16501 + d.toNat * 134217728 + a.toNat * 2097152 + b.toNat * 32768 + p.toNat * 256
/-- Word of VCMP_GT (R169). -/
def encVcmpGt (d : BitVec 5) (a : BitVec 6) (b : BitVec 6) (p : BitVec 4) : Nat := 20597 + d.toNat * 134217728 + a.toNat * 2097152 + b.toNat * 32768 + p.toNat * 256
/-- Word of VFCMP_EQ (R169). -/
def encVfcmpEq (d : BitVec 5) (a : BitVec 6) (b : BitVec 6) (p : BitVec 4) : Nat := 119 + d.toNat * 134217728 + a.toNat * 2097152 + b.toNat * 32768 + p.toNat * 256
/-- Word of VFCMP_NE (R169). -/
def encVfcmpNe (d : BitVec 5) (a : BitVec 6) (b : BitVec 6) (p : BitVec 4) : Nat := 4215 + d.toNat * 134217728 + a.toNat * 2097152 + b.toNat * 32768 + p.toNat * 256
/-- Word of VFCMP_LT (R169). -/
def encVfcmpLt (d : BitVec 5) (a : BitVec 6) (b : BitVec 6) (p : BitVec 4) : Nat := 8311 + d.toNat * 134217728 + a.toNat * 2097152 + b.toNat * 32768 + p.toNat * 256
/-- Word of VFCMP_GE (R169). -/
def encVfcmpGe (d : BitVec 5) (a : BitVec 6) (b : BitVec 6) (p : BitVec 4) : Nat := 12407 + d.toNat * 134217728 + a.toNat * 2097152 + b.toNat * 32768 + p.toNat * 256
/-- Word of VFCMP_LE (R169). -/
def encVfcmpLe (d : BitVec 5) (a : BitVec 6) (b : BitVec 6) (p : BitVec 4) : Nat := 16503 + d.toNat * 134217728 + a.toNat * 2097152 + b.toNat * 32768 + p.toNat * 256
/-- Word of VFCMP_GT (R169). -/
def encVfcmpGt (d : BitVec 5) (a : BitVec 6) (b : BitVec 6) (p : BitVec 4) : Nat := 20599 + d.toNat * 134217728 + a.toNat * 2097152 + b.toNat * 32768 + p.toNat * 256
/-- Word of VFCMP_UNO (R169). -/
def encVfcmpUno (d : BitVec 5) (a : BitVec 6) (b : BitVec 6) (p : BitVec 4) : Nat := 24695 + d.toNat * 134217728 + a.toNat * 2097152 + b.toNat * 32768 + p.toNat * 256
/-- Word of VFCMP_ORD (R169). -/
def encVfcmpOrd (d : BitVec 5) (a : BitVec 6) (b : BitVec 6) (p : BitVec 4) : Nat := 28791 + d.toNat * 134217728 + a.toNat * 2097152 + b.toNat * 32768 + p.toNat * 256
/-- Word of VMERGE (R172). -/
def encVmerge (d : BitVec 6) (a : BitVec 6) (b : BitVec 6) (n : BitVec 1) (p : BitVec 5) : Nat := 121 + d.toNat * 67108864 + a.toNat * 1048576 + b.toNat * 16384 + n.toNat * 8192 + p.toNat * 256
/-- Word of VSLIDEUP (R174). -/
def encVslideup (d : BitVec 6) (a : BitVec 6) (s : BitVec 5) (n : BitVec 1) (p : BitVec 5) : Nat := 123 + d.toNat * 67108864 + a.toNat * 1048576 + s.toNat * 32768 + n.toNat * 8192 + p.toNat * 256
/-- Word of VSLIDEUP_ROT (R174). -/
def encVslideupRot (d : BitVec 6) (a : BitVec 6) (s : BitVec 5) (n : BitVec 1) (p : BitVec 5) : Nat := 16507 + d.toNat * 67108864 + a.toNat * 1048576 + s.toNat * 32768 + n.toNat * 8192 + p.toNat * 256
/-- Word of VSLIDEDN (R174). -/
def encVslidedn (d : BitVec 6) (a : BitVec 6) (s : BitVec 5) (n : BitVec 1) (p : BitVec 5) : Nat := 125 + d.toNat * 67108864 + a.toNat * 1048576 + s.toNat * 32768 + n.toNat * 8192 + p.toNat * 256
/-- Word of VSLIDEDN_ROT (R174). -/
def encVslidednRot (d : BitVec 6) (a : BitVec 6) (s : BitVec 5) (n : BitVec 1) (p : BitVec 5) : Nat := 16509 + d.toNat * 67108864 + a.toNat * 1048576 + s.toNat * 32768 + n.toNat * 8192 + p.toNat * 256
/-- Word of VGATHR (R173). -/
def encVgathr (d : BitVec 6) (a : BitVec 6) (b : BitVec 6) (n : BitVec 1) (p : BitVec 5) : Nat := 127 + d.toNat * 67108864 + a.toNat * 1048576 + b.toNat * 16384 + n.toNat * 8192 + p.toNat * 256
/-- Word of VCOMPRESS (R175). -/
def encVcompress (d : BitVec 6) (a : BitVec 6) (n : BitVec 1) (p : BitVec 5) : Nat := 129 + d.toNat * 67108864 + a.toNat * 1048576 + n.toNat * 8192 + p.toNat * 256
/-- Word of VEXPAND (R175). -/
def encVexpand (d : BitVec 6) (a : BitVec 6) (n : BitVec 1) (p : BitVec 5) : Nat := 131 + d.toNat * 67108864 + a.toNat * 1048576 + n.toNat * 8192 + p.toNat * 256
/-- Word of VBCAST (R176). -/
def encVbcast (d : BitVec 6) (s : BitVec 5) (n : BitVec 1) (p : BitVec 5) : Nat := 133 + d.toNat * 67108864 + s.toNat * 32768 + n.toNat * 8192 + p.toNat * 256
/-- Word of VBCAST_E (R176). -/
def encVbcastE (d : BitVec 6) (a : BitVec 6) (s : BitVec 5) (n : BitVec 1) (p : BitVec 5) : Nat := 16517 + d.toNat * 67108864 + a.toNat * 1048576 + s.toNat * 32768 + n.toNat * 8192 + p.toNat * 256
/-- Word of VEXTR (R176). -/
def encVextr (i : BitVec 5) (a : BitVec 6) (d : BitVec 5) : Nat := 135 + i.toNat * 67108864 + a.toNat * 1048576 + d.toNat * 32768
/-- Word of VEXTR_SX (R176). -/
def encVextrSx (i : BitVec 5) (a : BitVec 6) (d : BitVec 5) : Nat := 16519 + i.toNat * 67108864 + a.toNat * 1048576 + d.toNat * 32768
/-- Word of VINS (R176). -/
def encVins (d : BitVec 6) (i : BitVec 5) (s : BitVec 5) (n : BitVec 1) (p : BitVec 5) : Nat := 137 + d.toNat * 67108864 + i.toNat * 1048576 + s.toNat * 32768 + n.toNat * 8192 + p.toNat * 256
/-- Word of VINS_CV (R176). -/
def encVinsCv (d : BitVec 6) (i : BitVec 5) (s : BitVec 5) (n : BitVec 1) (p : BitVec 5) : Nat := 16521 + d.toNat * 67108864 + i.toNat * 1048576 + s.toNat * 32768 + n.toNat * 8192 + p.toNat * 256
/-- Word of VFOLD_SUM (R177). -/
def encVfoldSum (d : BitVec 6) (a : BitVec 6) (n : BitVec 1) (p : BitVec 5) : Nat := 139 + d.toNat * 67108864 + a.toNat * 1048576 + n.toNat * 8192 + p.toNat * 256
/-- Word of VFOLD_MIN (R177). -/
def encVfoldMin (d : BitVec 6) (a : BitVec 6) (n : BitVec 1) (p : BitVec 5) : Nat := 16523 + d.toNat * 67108864 + a.toNat * 1048576 + n.toNat * 8192 + p.toNat * 256
/-- Word of VFOLD_MAX (R177). -/
def encVfoldMax (d : BitVec 6) (a : BitVec 6) (n : BitVec 1) (p : BitVec 5) : Nat := 32907 + d.toNat * 67108864 + a.toNat * 1048576 + n.toNat * 8192 + p.toNat * 256
/-- Word of VFOLD_AND (R177). -/
def encVfoldAnd (d : BitVec 6) (a : BitVec 6) (n : BitVec 1) (p : BitVec 5) : Nat := 49291 + d.toNat * 67108864 + a.toNat * 1048576 + n.toNat * 8192 + p.toNat * 256
/-- Word of VFOLD_OR (R177). -/
def encVfoldOr (d : BitVec 6) (a : BitVec 6) (n : BitVec 1) (p : BitVec 5) : Nat := 65675 + d.toNat * 67108864 + a.toNat * 1048576 + n.toNat * 8192 + p.toNat * 256
/-- Word of VFOLD_XOR (R177). -/
def encVfoldXor (d : BitVec 6) (a : BitVec 6) (n : BitVec 1) (p : BitVec 5) : Nat := 82059 + d.toNat * 67108864 + a.toNat * 1048576 + n.toNat * 8192 + p.toNat * 256
/-- Word of VFOLD_FSUM (R177). -/
def encVfoldFsum (d : BitVec 6) (a : BitVec 6) (n : BitVec 1) (p : BitVec 5) : Nat := 98443 + d.toNat * 67108864 + a.toNat * 1048576 + n.toNat * 8192 + p.toNat * 256
/-- Word of VFOLD_FMIN (R177). -/
def encVfoldFmin (d : BitVec 6) (a : BitVec 6) (n : BitVec 1) (p : BitVec 5) : Nat := 114827 + d.toNat * 67108864 + a.toNat * 1048576 + n.toNat * 8192 + p.toNat * 256
/-- Word of VFOLD_FMAX (R177). -/
def encVfoldFmax (d : BitVec 6) (a : BitVec 6) (n : BitVec 1) (p : BitVec 5) : Nat := 131211 + d.toNat * 67108864 + a.toNat * 1048576 + n.toNat * 8192 + p.toNat * 256
/-- Word of VIDX (R178). -/
def encVidx (d : BitVec 6) (n : BitVec 1) (p : BitVec 5) : Nat := 141 + d.toNat * 67108864 + n.toNat * 8192 + p.toNat * 256
/-- Word of VRAND (R179). -/
def encVrand (d : BitVec 6) (n : BitVec 1) (p : BitVec 5) : Nat := 143 + d.toNat * 67108864 + n.toNat * 8192 + p.toNat * 256
/-- Word of VRAMP (R182). -/
def encVramp (d : BitVec 6) (s : BitVec 5) (n : BitVec 1) (p : BitVec 5) : Nat := 145 + d.toNat * 67108864 + s.toNat * 32768 + n.toNat * 8192 + p.toNat * 256
/-- Word of VRAMP_C (R182). -/
def encVrampC (d : BitVec 6) (s : BitVec 5) (n : BitVec 1) (p : BitVec 5) : Nat := 1048721 + d.toNat * 67108864 + s.toNat * 32768 + n.toNat * 8192 + p.toNat * 256
/-- Word of VRAMP_W (R182). -/
def encVrampW (d : BitVec 6) (wl : BitVec 5) (n : BitVec 1) (p : BitVec 5) : Nat := 16529 + d.toNat * 67108864 + wl.toNat * 32768 + n.toNat * 8192 + p.toNat * 256
/-- Word of VRAMP_C_W (R182). -/
def encVrampCW (d : BitVec 6) (wl : BitVec 5) (n : BitVec 1) (p : BitVec 5) : Nat := 1065105 + d.toNat * 67108864 + wl.toNat * 32768 + n.toNat * 8192 + p.toNat * 256
/-- Word of VBSC (R180). -/
def encVbsc (d : BitVec 6) (a : BitVec 6) (b : BitVec 6) (n : BitVec 1) (p : BitVec 5) : Nat := 147 + d.toNat * 67108864 + a.toNat * 1048576 + b.toNat * 16384 + n.toNat * 8192 + p.toNat * 256
/-- Word of VFSCL (R181). -/
def encVfscl (d : BitVec 6) (a : BitVec 6) (s : BitVec 5) (n : BitVec 1) (p : BitVec 5) : Nat := 149 + d.toNat * 67108864 + a.toNat * 1048576 + s.toNat * 32768 + n.toNat * 8192 + p.toNat * 256
/-- Word of VADD_VS (R164). -/
def encVaddVs (d : BitVec 6) (a : BitVec 6) (s : BitVec 5) (o : BitVec 1) (n : BitVec 1) (p : BitVec 5) : Nat := 151 + d.toNat * 67108864 + a.toNat * 1048576 + s.toNat * 32768 + o.toNat * 16384 + n.toNat * 8192 + p.toNat * 256
/-- Word of VMUL_VS (R164). -/
def encVmulVs (d : BitVec 6) (a : BitVec 6) (s : BitVec 5) (o : BitVec 1) (n : BitVec 1) (p : BitVec 5) : Nat := 153 + d.toNat * 67108864 + a.toNat * 1048576 + s.toNat * 32768 + o.toNat * 16384 + n.toNat * 8192 + p.toNat * 256
/-- Word of VFADD_VS (R164). -/
def encVfaddVs (d : BitVec 6) (a : BitVec 6) (s : BitVec 5) (o : BitVec 1) (n : BitVec 1) (p : BitVec 5) : Nat := 155 + d.toNat * 67108864 + a.toNat * 1048576 + s.toNat * 32768 + o.toNat * 16384 + n.toNat * 8192 + p.toNat * 256
/-- Word of VFMUL_VS (R164). -/
def encVfmulVs (d : BitVec 6) (a : BitVec 6) (s : BitVec 5) (o : BitVec 1) (n : BitVec 1) (p : BitVec 5) : Nat := 157 + d.toNat * 67108864 + a.toNat * 1048576 + s.toNat * 32768 + o.toNat * 16384 + n.toNat * 8192 + p.toNat * 256
/-- Word of VFMA_VS (R164). -/
def encVfmaVs (d : BitVec 6) (a : BitVec 6) (s : BitVec 5) (o : BitVec 1) (n : BitVec 1) (p : BitVec 5) : Nat := 159 + d.toNat * 67108864 + a.toNat * 1048576 + s.toNat * 32768 + o.toNat * 16384 + n.toNat * 8192 + p.toNat * 256
/-- Word of PAND (R170). -/
def encPand (d : BitVec 5) (a : BitVec 5) (b : BitVec 5) : Nat := 161 + d.toNat * 134217728 + a.toNat * 4194304 + b.toNat * 131072
/-- Word of POR (R170). -/
def encPor (d : BitVec 5) (a : BitVec 5) (b : BitVec 5) : Nat := 417 + d.toNat * 134217728 + a.toNat * 4194304 + b.toNat * 131072
/-- Word of PXOR (R170). -/
def encPxor (d : BitVec 5) (a : BitVec 5) (b : BitVec 5) : Nat := 673 + d.toNat * 134217728 + a.toNat * 4194304 + b.toNat * 131072
/-- Word of PANDN (R170). -/
def encPandn (d : BitVec 5) (a : BitVec 5) (b : BitVec 5) : Nat := 929 + d.toNat * 134217728 + a.toNat * 4194304 + b.toNat * 131072
/-- Word of PNOT (R170). -/
def encPnot (d : BitVec 5) (a : BitVec 5) : Nat := 1185 + d.toNat * 134217728 + a.toNat * 4194304
/-- Word of PMOV (R170). -/
def encPmov (d : BitVec 5) (a : BitVec 5) : Nat := 1441 + d.toNat * 134217728 + a.toNat * 4194304
/-- Word of PSETN (R170). -/
def encPsetn (d : BitVec 5) (a : BitVec 5) : Nat := 1697 + d.toNat * 134217728 + a.toNat * 4194304
/-- Word of PCLR (R170). -/
def encPclr (d : BitVec 5) : Nat := 1953 + d.toNat * 134217728
/-- Word of PFIRST (R170). -/
def encPfirst (d : BitVec 5) (a : BitVec 5) : Nat := 2209 + d.toNat * 134217728 + a.toNat * 4194304
/-- Word of PCNT (R170). -/
def encPcnt (d : BitVec 5) (a : BitVec 5) : Nat := 2465 + d.toNat * 134217728 + a.toNat * 4194304
/-- Word of MMA (R188). -/
def encMma (c : BitVec 6) (a : BitVec 6) (b : BitVec 6) (f : BitVec 4) : Nat := 163 + c.toNat * 67108864 + a.toNat * 1048576 + b.toNat * 16384 + f.toNat * 1024
/-- Word of MZERO (R196). -/
def encMzero (c : BitVec 6) : Nat := 167 + c.toNat * 67108864
/-- Word of MEPI (R199). -/
def encMepi (c : BitVec 6) (a : BitVec 6) (b : BitVec 6) (f : BitVec 4) : Nat := 169 + c.toNat * 67108864 + a.toNat * 1048576 + b.toNat * 16384 + f.toNat * 1024
/-- Word of MCKS (R201). -/
def encMcks (c : BitVec 6) (a : BitVec 6) (f : BitVec 4) : Nat := 171 + c.toNat * 67108864 + a.toNat * 1048576 + f.toNat * 1024
/-- Word of LD (R260). -/
def encLd (d : BitVec 5) (b : BitVec 5) (z : BitVec 2) (o : BitVec 12) : Nat := 177 + d.toNat * 134217728 + b.toNat * 4194304 + z.toNat * 1048576 + o.toNat * 256
/-- Word of LD_N (R260). -/
def encLdN (d : BitVec 5) (b : BitVec 5) (z : BitVec 2) (o : BitVec 12) : Nat := 179 + d.toNat * 134217728 + b.toNat * 4194304 + z.toNat * 1048576 + o.toNat * 256
/-- Word of ST (R260). -/
def encSt (d : BitVec 5) (b : BitVec 5) (z : BitVec 2) (o : BitVec 12) : Nat := 181 + d.toNat * 134217728 + b.toNat * 4194304 + z.toNat * 1048576 + o.toNat * 256
/-- Word of LDA (R261). -/
def encLda (d : BitVec 5) (b : BitVec 5) (z : BitVec 2) (t : BitVec 5) (o : BitVec 7) : Nat := 183 + d.toNat * 134217728 + b.toNat * 4194304 + z.toNat * 1048576 + t.toNat * 32768 + o.toNat * 256
/-- Word of LDP (R262). -/
def encLdp (d : BitVec 5) (a : BitVec 5) (b : BitVec 5) (x : BitVec 1) (z : BitVec 2) : Nat := 185 + d.toNat * 134217728 + a.toNat * 4194304 + b.toNat * 131072 + x.toNat * 32768 + z.toNat * 8192
/-- Word of STP (R262). -/
def encStp (d : BitVec 5) (a : BitVec 5) (b : BitVec 5) (z : BitVec 2) : Nat := 441 + d.toNat * 134217728 + a.toNat * 4194304 + b.toNat * 131072 + z.toNat * 8192
/-- Word of LDP_C (R262). -/
def encLdpC (d : BitVec 5) (a : BitVec 5) (b : BitVec 5) : Nat := 25273 + d.toNat * 134217728 + a.toNat * 4194304 + b.toNat * 131072
/-- Word of VLD (R264). -/
def encVld (d : BitVec 6) (b : BitVec 5) (n : BitVec 1) (p : BitVec 5) : Nat := 187 + d.toNat * 67108864 + b.toNat * 2097152 + n.toNat * 8192 + p.toNat * 256
/-- Word of VLD_S (R264). -/
def encVldS (d : BitVec 6) (b : BitVec 5) (s : BitVec 5) (n : BitVec 1) (p : BitVec 5) : Nat := 16571 + d.toNat * 67108864 + b.toNat * 2097152 + s.toNat * 32768 + n.toNat * 8192 + p.toNat * 256
/-- Word of VST (R264). -/
def encVst (d : BitVec 6) (b : BitVec 5) (n : BitVec 1) (p : BitVec 5) : Nat := 189 + d.toNat * 67108864 + b.toNat * 2097152 + n.toNat * 8192 + p.toNat * 256
/-- Word of VST_CK (R265). -/
def encVstCk (d : BitVec 6) (b : BitVec 5) (r : BitVec 2) (n : BitVec 1) (p : BitVec 5) : Nat := 1048765 + d.toNat * 67108864 + b.toNat * 2097152 + r.toNat * 32768 + n.toNat * 8192 + p.toNat * 256
/-- Word of VST_S (R264). -/
def encVstS (d : BitVec 6) (b : BitVec 5) (s : BitVec 5) (n : BitVec 1) (p : BitVec 5) : Nat := 16573 + d.toNat * 67108864 + b.toNat * 2097152 + s.toNat * 32768 + n.toNat * 8192 + p.toNat * 256
/-- Word of VGLD (R264). -/
def encVgld (d : BitVec 6) (b : BitVec 5) (i : BitVec 6) (n : BitVec 1) (p : BitVec 5) : Nat := 191 + d.toNat * 67108864 + b.toNat * 2097152 + i.toNat * 32768 + n.toNat * 8192 + p.toNat * 256
/-- Word of VGLD_X2 (R264). -/
def encVgldX2 (d : BitVec 6) (b : BitVec 5) (i : BitVec 6) (n : BitVec 1) (p : BitVec 5) : Nat := 16575 + d.toNat * 67108864 + b.toNat * 2097152 + i.toNat * 32768 + n.toNat * 8192 + p.toNat * 256
/-- Word of VSST (R264). -/
def encVsst (d : BitVec 6) (b : BitVec 5) (i : BitVec 6) (n : BitVec 1) (p : BitVec 5) : Nat := 193 + d.toNat * 67108864 + b.toNat * 2097152 + i.toNat * 32768 + n.toNat * 8192 + p.toNat * 256
/-- Word of VLDP (R264). -/
def encVldp (d : BitVec 6) (b : BitVec 5) (n : BitVec 1) (p : BitVec 5) : Nat := 195 + d.toNat * 67108864 + b.toNat * 2097152 + n.toNat * 8192 + p.toNat * 256
/-- Word of VLDP_C (R264). -/
def encVldpC (d : BitVec 6) (b : BitVec 5) (n : BitVec 1) (p : BitVec 5) : Nat := 1048771 + d.toNat * 67108864 + b.toNat * 2097152 + n.toNat * 8192 + p.toNat * 256
/-- Word of VSTP (R264). -/
def encVstp (d : BitVec 6) (b : BitVec 5) (n : BitVec 1) (p : BitVec 5) : Nat := 16579 + d.toNat * 67108864 + b.toNat * 2097152 + n.toNat * 8192 + p.toNat * 256
/-- Word of PST (R263). -/
def encPst (b : BitVec 5) (s : BitVec 5) : Nat := 197 + b.toNat * 2097152 + s.toNat * 32768
/-- Word of PST_V (R263). -/
def encPstV (d : BitVec 6) (b : BitVec 5) (n : BitVec 1) (p : BitVec 5) : Nat := 16581 + d.toNat * 67108864 + b.toNat * 2097152 + n.toNat * 8192 + p.toNat * 256
/-- Word of XCOPY (R267). -/
def encXcopy (t : BitVec 5) (a : BitVec 5) (b : BitVec 5) (h : BitVec 2) (k : BitVec 1) (q : BitVec 1) (s : BitVec 1) : Nat := 199 + t.toNat * 134217728 + a.toNat * 4194304 + b.toNat * 131072 + h.toNat * 32768 + k.toNat * 8192 + q.toNat * 4096 + s.toNat * 2048
/-- Word of WBIND (R269). -/
def encWbind (a : BitVec 5) (n : BitVec 3) : Nat := 201 + a.toNat * 4194304 + n.toNat * 2048
/-- Word of WUNB (R269). -/
def encWunb (n : BitVec 3) : Nat := 457 + n.toNat * 2048
/-- Word of WSKIP (R269). -/
def encWskip (a : BitVec 5) (n : BitVec 3) : Nat := 713 + a.toNat * 4194304 + n.toNat * 2048
/-- Word of WPOS (R269). -/
def encWpos (d : BitVec 5) (n : BitVec 3) : Nat := 969 + d.toNat * 134217728 + n.toNat * 2048
/-- Word of AMO_SWAP (R273). -/
def encAmoSwap (d : BitVec 5) (a : BitVec 5) (b : BitVec 5) (c : BitVec 2) (o : BitVec 2) (z : BitVec 1) : Nat := 203 + d.toNat * 134217728 + a.toNat * 4194304 + b.toNat * 131072 + c.toNat * 32768 + o.toNat * 8192 + z.toNat * 4096
/-- Word of AMO_CAS (R273). -/
def encAmoCas (d : BitVec 5) (a : BitVec 5) (b : BitVec 5) (c : BitVec 2) (o : BitVec 2) (z : BitVec 1) : Nat := 459 + d.toNat * 134217728 + a.toNat * 4194304 + b.toNat * 131072 + c.toNat * 32768 + o.toNat * 8192 + z.toNat * 4096
/-- Word of AMO_ADD (R273). -/
def encAmoAdd (d : BitVec 5) (a : BitVec 5) (b : BitVec 5) (c : BitVec 2) (o : BitVec 2) (z : BitVec 1) : Nat := 715 + d.toNat * 134217728 + a.toNat * 4194304 + b.toNat * 131072 + c.toNat * 32768 + o.toNat * 8192 + z.toNat * 4096
/-- Word of AMO_AND (R273). -/
def encAmoAnd (d : BitVec 5) (a : BitVec 5) (b : BitVec 5) (c : BitVec 2) (o : BitVec 2) (z : BitVec 1) : Nat := 971 + d.toNat * 134217728 + a.toNat * 4194304 + b.toNat * 131072 + c.toNat * 32768 + o.toNat * 8192 + z.toNat * 4096
/-- Word of AMO_OR (R273). -/
def encAmoOr (d : BitVec 5) (a : BitVec 5) (b : BitVec 5) (c : BitVec 2) (o : BitVec 2) (z : BitVec 1) : Nat := 1227 + d.toNat * 134217728 + a.toNat * 4194304 + b.toNat * 131072 + c.toNat * 32768 + o.toNat * 8192 + z.toNat * 4096
/-- Word of AMO_XOR (R273). -/
def encAmoXor (d : BitVec 5) (a : BitVec 5) (b : BitVec 5) (c : BitVec 2) (o : BitVec 2) (z : BitVec 1) : Nat := 1483 + d.toNat * 134217728 + a.toNat * 4194304 + b.toNat * 131072 + c.toNat * 32768 + o.toNat * 8192 + z.toNat * 4096
/-- Word of AMO_MIN (R273). -/
def encAmoMin (d : BitVec 5) (a : BitVec 5) (b : BitVec 5) (c : BitVec 2) (o : BitVec 2) (z : BitVec 1) : Nat := 1739 + d.toNat * 134217728 + a.toNat * 4194304 + b.toNat * 131072 + c.toNat * 32768 + o.toNat * 8192 + z.toNat * 4096
/-- Word of AMO_MAX (R273). -/
def encAmoMax (d : BitVec 5) (a : BitVec 5) (b : BitVec 5) (c : BitVec 2) (o : BitVec 2) (z : BitVec 1) : Nat := 1995 + d.toNat * 134217728 + a.toNat * 4194304 + b.toNat * 131072 + c.toNat * 32768 + o.toNat * 8192 + z.toNat * 4096
/-- Word of AMO_MIN_N (R273). -/
def encAmoMinN (d : BitVec 5) (a : BitVec 5) (b : BitVec 5) (c : BitVec 2) (o : BitVec 2) (z : BitVec 1) : Nat := 2251 + d.toNat * 134217728 + a.toNat * 4194304 + b.toNat * 131072 + c.toNat * 32768 + o.toNat * 8192 + z.toNat * 4096
/-- Word of AMO_MAX_N (R273). -/
def encAmoMaxN (d : BitVec 5) (a : BitVec 5) (b : BitVec 5) (c : BitVec 2) (o : BitVec 2) (z : BitVec 1) : Nat := 2507 + d.toNat * 134217728 + a.toNat * 4194304 + b.toNat * 131072 + c.toNat * 32768 + o.toNat * 8192 + z.toNat * 4096
/-- Word of AMO_FADD (R273). -/
def encAmoFadd (d : BitVec 5) (a : BitVec 5) (b : BitVec 5) (c : BitVec 2) (o : BitVec 2) (z : BitVec 1) : Nat := 2763 + d.toNat * 134217728 + a.toNat * 4194304 + b.toNat * 131072 + c.toNat * 32768 + o.toNat * 8192 + z.toNat * 4096
/-- Word of RED_ADD (R273). -/
def encRedAdd (a : BitVec 5) (b : BitVec 5) (z : BitVec 1) : Nat := 719 + a.toNat * 4194304 + b.toNat * 131072 + z.toNat * 4096
/-- Word of RED_AND (R273). -/
def encRedAnd (a : BitVec 5) (b : BitVec 5) (z : BitVec 1) : Nat := 975 + a.toNat * 4194304 + b.toNat * 131072 + z.toNat * 4096
/-- Word of RED_OR (R273). -/
def encRedOr (a : BitVec 5) (b : BitVec 5) (z : BitVec 1) : Nat := 1231 + a.toNat * 4194304 + b.toNat * 131072 + z.toNat * 4096
/-- Word of RED_XOR (R273). -/
def encRedXor (a : BitVec 5) (b : BitVec 5) (z : BitVec 1) : Nat := 1487 + a.toNat * 4194304 + b.toNat * 131072 + z.toNat * 4096
/-- Word of RED_MIN (R273). -/
def encRedMin (a : BitVec 5) (b : BitVec 5) (z : BitVec 1) : Nat := 1743 + a.toNat * 4194304 + b.toNat * 131072 + z.toNat * 4096
/-- Word of RED_MAX (R273). -/
def encRedMax (a : BitVec 5) (b : BitVec 5) (z : BitVec 1) : Nat := 1999 + a.toNat * 4194304 + b.toNat * 131072 + z.toNat * 4096
/-- Word of RED_MIN_N (R273). -/
def encRedMinN (a : BitVec 5) (b : BitVec 5) (z : BitVec 1) : Nat := 2255 + a.toNat * 4194304 + b.toNat * 131072 + z.toNat * 4096
/-- Word of RED_MAX_N (R273). -/
def encRedMaxN (a : BitVec 5) (b : BitVec 5) (z : BitVec 1) : Nat := 2511 + a.toNat * 4194304 + b.toNat * 131072 + z.toNat * 4096
/-- Word of RED_FADD (R273). -/
def encRedFadd (a : BitVec 5) (b : BitVec 5) (z : BitVec 1) : Nat := 2767 + a.toNat * 4194304 + b.toNat * 131072 + z.toNat * 4096
/-- Word of VAMO (R274). -/
def encVamo (d : BitVec 6) (b : BitVec 5) (i : BitVec 6) (n : BitVec 1) (p : BitVec 5) : Nat := 205 + d.toNat * 67108864 + b.toNat * 2097152 + i.toNat * 32768 + n.toNat * 8192 + p.toNat * 256
/-- Word of VRED (R274). -/
def encVred (d : BitVec 6) (b : BitVec 5) (i : BitVec 6) (n : BitVec 1) (p : BitVec 5) : Nat := 209 + d.toNat * 67108864 + b.toNat * 2097152 + i.toNat * 32768 + n.toNat * 8192 + p.toNat * 256
/-- Word of GLL (R274). -/
def encGll (d : BitVec 6) (b : BitVec 5) (i : BitVec 6) (n : BitVec 1) (p : BitVec 5) : Nat := 211 + d.toNat * 67108864 + b.toNat * 2097152 + i.toNat * 32768 + n.toNat * 8192 + p.toNat * 256
/-- Word of SCC (R274). -/
def encScc (d : BitVec 6) (b : BitVec 5) (i : BitVec 6) (n : BitVec 1) (p : BitVec 5) : Nat := 213 + d.toNat * 67108864 + b.toNat * 2097152 + i.toNat * 32768 + n.toNat * 8192 + p.toNat * 256
/-- Word of FENCE (R276). -/
def encFence (s : BitVec 3) : Nat := 215 + s.toNat * 8192
/-- Word of FENCE_REL (R276). -/
def encFenceRel (s : BitVec 3) : Nat := 471 + s.toNat * 8192
/-- Word of FENCE_ACQ (R276). -/
def encFenceAcq (s : BitVec 3) : Nat := 727 + s.toNat * 8192
/-- Word of FENCE_SC_PKG (R276). -/
def encFenceScPkg : Nat := 25559
/-- Word of FENCE_SV (R276). -/
def encFenceSv : Nat := 1239
/-- Word of FENCE_VS (R276). -/
def encFenceVs : Nat := 1495
/-- Word of PBAR_ORDER (R277). -/
def encPbarOrder : Nat := 217
/-- Word of PBAR_COMPLETE (R277). -/
def encPbarComplete : Nat := 8409
/-- Word of PFLUSH (R277). -/
def encPflush (a : BitVec 5) : Nat := 473 + a.toNat * 4194304
/-- Word of PREF_L1 (R278). -/
def encPrefL1 (b : BitVec 5) (z : BitVec 2) (o : BitVec 12) : Nat := 219 + b.toNat * 4194304 + z.toNat * 1048576 + o.toNat * 256
/-- Word of PREF_L2 (R278). -/
def encPrefL2 (b : BitVec 5) (z : BitVec 2) (o : BitVec 12) : Nat := 134217947 + b.toNat * 4194304 + z.toNat * 1048576 + o.toNat * 256
/-- Word of DLG (R279). -/
def encDlg (t : BitVec 5) (a : BitVec 5) (b : BitVec 5) : Nat := 221 + t.toNat * 134217728 + a.toNat * 4194304 + b.toNat * 131072
/-- Word of DLG_AM (R279). -/
def encDlgAm (a : BitVec 5) (b : BitVec 5) : Nat := 2269 + a.toNat * 4194304 + b.toNat * 131072
/-- Word of CMO_INV (R280). -/
def encCmoInv (a : BitVec 5) : Nat := 223 + a.toNat * 4194304
/-- Word of CMO_WB (R280). -/
def encCmoWb (a : BitVec 5) : Nat := 479 + a.toNat * 4194304
/-- Word of CMO_ZERO (R280). -/
def encCmoZero (a : BitVec 5) : Nat := 735 + a.toNat * 4194304
/-- Word of CMO_PFR (R280). -/
def encCmoPfr (d : BitVec 5) (a : BitVec 5) : Nat := 991 + d.toNat * 134217728 + a.toNat * 4194304
/-- Word of CMO_PFW (R280). -/
def encCmoPfw (a : BitVec 5) (b : BitVec 5) : Nat := 1247 + a.toNat * 4194304 + b.toNat * 131072
/-- Word of CMO_OBJCLR (R280). -/
def encCmoObjclr (a : BitVec 5) : Nat := 1503 + a.toNat * 4194304
/-- Word of QINIT (R304). -/
def encQinit (d : BitVec 5) (a : BitVec 5) (b : BitVec 5) : Nat := 225 + d.toNat * 134217728 + a.toNat * 4194304 + b.toNat * 131072
/-- Word of QFREE (R305). -/
def encQfree (d : BitVec 5) (a : BitVec 5) : Nat := 481 + d.toNat * 134217728 + a.toNat * 4194304
/-- Word of QSTAT (R305). -/
def encQstat (d : BitVec 5) (a : BitVec 5) (b : BitVec 5) : Nat := 737 + d.toNat * 134217728 + a.toNat * 4194304 + b.toNat * 131072
/-- Word of QPEEK (R305). -/
def encQpeek (d : BitVec 5) (a : BitVec 5) (b : BitVec 5) : Nat := 993 + d.toNat * 134217728 + a.toNat * 4194304 + b.toNat * 131072
/-- Word of ENQ_TRY (R290). -/
def encEnqTry (p : BitVec 5) (a : BitVec 5) (b : BitVec 5) : Nat := 227 + p.toNat * 134217728 + a.toNat * 4194304 + b.toNat * 131072
/-- Word of ENQ_WAIT (R290). -/
def encEnqWait (a : BitVec 5) (b : BitVec 5) : Nat := 8419 + a.toNat * 4194304 + b.toNat * 131072
/-- Word of DEQ_TRY (R290). -/
def encDeqTry (p : BitVec 5) (a : BitVec 5) (b : BitVec 5) : Nat := 229 + p.toNat * 134217728 + a.toNat * 4194304 + b.toNat * 131072
/-- Word of DEQ_WAIT (R290). -/
def encDeqWait (a : BitVec 5) (b : BitVec 5) : Nat := 8421 + a.toNat * 4194304 + b.toNat * 131072
/-- Word of VENQ_TRY (R292). -/
def encVenqTry (d : BitVec 6) (a : BitVec 5) (p : BitVec 5) : Nat := 231 + d.toNat * 67108864 + a.toNat * 2097152 + p.toNat * 32768
/-- Word of VENQ_WAIT (R292). -/
def encVenqWait (d : BitVec 6) (a : BitVec 5) : Nat := 1048807 + d.toNat * 67108864 + a.toNat * 2097152
/-- Word of VDEQ_TRY (R292). -/
def encVdeqTry (d : BitVec 6) (a : BitVec 5) (p : BitVec 5) : Nat := 16615 + d.toNat * 67108864 + a.toNat * 2097152 + p.toNat * 32768
/-- Word of VDEQ_WAIT (R292). -/
def encVdeqWait (d : BitVec 6) (a : BitVec 5) : Nat := 1065191 + d.toNat * 67108864 + a.toNat * 2097152
/-- Word of TSPAWN (R307). -/
def encTspawn (d : BitVec 5) (a : BitVec 5) : Nat := 233 + d.toNat * 134217728 + a.toNat * 4194304
/-- Word of TEND (R308). -/
def encTend : Nat := 489
/-- Word of YIELD (R309). -/
def encYield : Nat := 745
/-- Word of GJOIN (R310). -/
def encGjoin (d : BitVec 5) (a : BitVec 5) : Nat := 1001 + d.toNat * 134217728 + a.toNat * 4194304
/-- Word of GANG (R311). -/
def encGang (d : BitVec 5) (a : BitVec 5) (b : BitVec 5) : Nat := 1257 + d.toNat * 134217728 + a.toNat * 4194304 + b.toNat * 131072
/-- Word of UNGANG (R311). -/
def encUngang : Nat := 1513
/-- Word of WQRY (R313). -/
def encWqry (d : BitVec 5) (a : BitVec 5) (b : BitVec 5) : Nat := 235 + d.toNat * 134217728 + a.toNat * 4194304 + b.toNat * 131072
/-- Word of WQRY_OPEN (R312). -/
def encWqryOpen (d : BitVec 5) (a : BitVec 5) (b : BitVec 5) : Nat := 8427 + d.toNat * 134217728 + a.toNat * 4194304 + b.toNat * 131072
/-- Word of TLBI_VA (R326). -/
def encTlbiVa (a : BitVec 5) (b : BitVec 5) : Nat := 241 + a.toNat * 4194304 + b.toNat * 131072
/-- Word of TLBI_PART (R326). -/
def encTlbiPart (a : BitVec 5) : Nat := 497 + a.toNat * 4194304
/-- Word of TLBI_ALL (R326). -/
def encTlbiAll : Nat := 753
/-- Word of PROBE (R326). -/
def encProbe (d : BitVec 5) (a : BitVec 5) (b : BitVec 5) : Nat := 1009 + d.toNat * 134217728 + a.toNat * 4194304 + b.toNat * 131072
/-- Word of GISSUE (R336). -/
def encGissue (d : BitVec 5) (a : BitVec 5) (b : BitVec 5) : Nat := 243 + d.toNat * 134217728 + a.toNat * 4194304 + b.toNat * 131072
/-- Word of GREVOKE (R336). -/
def encGrevoke (d : BitVec 5) (a : BitVec 5) : Nat := 499 + d.toNat * 134217728 + a.toNat * 4194304
/-- Word of GCHECK (R336). -/
def encGcheck (d : BitVec 5) (a : BitVec 5) (b : BitVec 5) : Nat := 755 + d.toNat * 134217728 + a.toNat * 4194304 + b.toNat * 131072
/-- Word of KVALLOC (R349). -/
def encKvalloc (d : BitVec 5) (a : BitVec 5) (b : BitVec 5) : Nat := 245 + d.toNat * 134217728 + a.toNat * 4194304 + b.toNat * 131072
/-- Word of KVALLOC_INIT (R349). -/
def encKvallocInit (d : BitVec 5) (a : BitVec 5) (b : BitVec 5) : Nat := 8437 + d.toNat * 134217728 + a.toNat * 4194304 + b.toNat * 131072
/-- Word of KVREF (R350). -/
def encKvref (d : BitVec 5) (a : BitVec 5) (b : BitVec 5) : Nat := 501 + d.toNat * 134217728 + a.toNat * 4194304 + b.toNat * 131072
/-- Word of KVUNREF (R350). -/
def encKvunref (d : BitVec 5) (a : BitVec 5) (b : BitVec 5) : Nat := 757 + d.toNat * 134217728 + a.toNat * 4194304 + b.toNat * 131072
/-- Word of KVAPP (R351). -/
def encKvapp (d : BitVec 5) (a : BitVec 5) (b : BitVec 5) : Nat := 1013 + d.toNat * 134217728 + a.toNat * 4194304 + b.toNat * 131072
/-- Word of KVSPL (R352). -/
def encKvspl (d : BitVec 5) (a : BitVec 5) (b : BitVec 5) : Nat := 1269 + d.toNat * 134217728 + a.toNat * 4194304 + b.toNat * 131072
/-- Word of KVREQ (R353). -/
def encKvreq (d : BitVec 5) (a : BitVec 5) (b : BitVec 5) : Nat := 1525 + d.toNat * 134217728 + a.toNat * 4194304 + b.toNat * 131072
/-- Word of KVSRC_GET (R354). -/
def encKvsrcGet (d : BitVec 5) (a : BitVec 5) (b : BitVec 5) : Nat := 1781 + d.toNat * 134217728 + a.toNat * 4194304 + b.toNat * 131072
/-- Word of KVSRC_SET (R354). -/
def encKvsrcSet (d : BitVec 5) (a : BitVec 5) (b : BitVec 5) : Nat := 9973 + d.toNat * 134217728 + a.toNat * 4194304 + b.toNat * 131072
/-- Word of KVSRC_BUMP (R354). -/
def encKvsrcBump (d : BitVec 5) (a : BitVec 5) (b : BitVec 5) : Nat := 18165 + d.toNat * 134217728 + a.toNat * 4194304 + b.toNat * 131072
/-- Word of KVG (R356). -/
def encKvg (d : BitVec 6) (b : BitVec 5) (e : BitVec 6) (m : BitVec 1) : Nat := 247 + d.toNat * 67108864 + b.toNat * 2097152 + e.toNat * 32768 + m.toNat * 16384
/-- Word of KVG_STALE (R356). -/
def encKvgStale (d : BitVec 6) (b : BitVec 5) (e : BitVec 6) (m : BitVec 1) : Nat := 503 + d.toNat * 67108864 + b.toNat * 2097152 + e.toNat * 32768 + m.toNat * 16384
/-- Word of KVG_REP (R356). -/
def encKvgRep (d : BitVec 6) (b : BitVec 5) (e : BitVec 6) (m : BitVec 1) : Nat := 759 + d.toNat * 67108864 + b.toNat * 2097152 + e.toNat * 32768 + m.toNat * 16384
/-- Word of KVG_ANY (R356). -/
def encKvgAny (d : BitVec 6) (b : BitVec 5) (e : BitVec 6) (m : BitVec 1) : Nat := 1015 + d.toNat * 67108864 + b.toNat * 2097152 + e.toNat * 32768 + m.toNat * 16384
/-- Word of RKJOB (R358). -/
def encRkjob (d : BitVec 5) (a : BitVec 5) : Nat := 249 + d.toNat * 134217728 + a.toNat * 4194304
/-- Word of RKSTAT (R358). -/
def encRkstat (d : BitVec 5) (a : BitVec 5) : Nat := 505 + d.toNat * 134217728 + a.toNat * 4194304
/-- Word of RKCANCEL (R362). -/
def encRkcancel (d : BitVec 5) (a : BitVec 5) : Nat := 761 + d.toNat * 134217728 + a.toNat * 4194304
/-- Word of AWAIT (R371). -/
def encAwait (t : BitVec 5) (l : BitVec 8) : Nat := 251 + t.toNat * 134217728 + l.toNat * 524288
/-- Word of AWAIT_T (R371). -/
def encAwaitT (t : BitVec 5) (l : BitVec 8) : Nat := 65787 + t.toNat * 134217728 + l.toNat * 524288
/-- Word of AWAITANY (R371). -/
def encAwaitany (t : BitVec 5) (l : BitVec 8) : Nat := 131323 + t.toNat * 134217728 + l.toNat * 524288
/-- Word of CELLI (R383). -/
def encCelli (d : BitVec 5) (a : BitVec 5) (b : BitVec 5) : Nat := 253 + d.toNat * 134217728 + a.toNat * 4194304 + b.toNat * 131072
/-- Word of SIGNAL (R383). -/
def encSignal (d : BitVec 5) (a : BitVec 5) (b : BitVec 5) (e : BitVec 1) (s : BitVec 3) : Nat := 509 + d.toNat * 134217728 + a.toNat * 4194304 + b.toNat * 131072 + e.toNat * 65536 + s.toNat * 8192
/-- Word of CREAD (R383). -/
def encCread (d : BitVec 5) (a : BitVec 5) (b : BitVec 5) : Nat := 765 + d.toNat * 134217728 + a.toNat * 4194304 + b.toNat * 131072
/-- Word of RVINIT (R383). -/
def encRvinit (d : BitVec 5) (a : BitVec 5) (b : BitVec 5) : Nat := 1021 + d.toNat * 134217728 + a.toNat * 4194304 + b.toNat * 131072
/-- Word of RVARR (R376). -/
def encRvarr (d : BitVec 5) (a : BitVec 5) (b : BitVec 5) : Nat := 1277 + d.toNat * 134217728 + a.toNat * 4194304 + b.toNat * 131072
/-- Word of RVFREE (R383). -/
def encRvfree (d : BitVec 5) (a : BitVec 5) : Nat := 1533 + d.toNat * 134217728 + a.toNat * 4194304
/-- Word of BARW (R379). -/
def encBarw (d : BitVec 5) : Nat := 1789 + d.toNat * 134217728
/-- Word of WAITUNTIL (R383). -/
def encWaituntil (a : BitVec 5) (b : BitVec 5) : Nat := 2045 + a.toNat * 4194304 + b.toNat * 131072

/-- The word w of an instruction, from the encoding tables (R74, R79); an event row has none. -/
def instrWord : Instr → Nat
  | .add d a b => encAdd d a b
  | .sub d a b => encSub d a b
  | .and d a b => encAnd d a b
  | .or d a b => encOr d a b
  | .xor d a b => encXor d a b
  | .andn d a b => encAndn d a b
  | .shl d a b => encShl d a b
  | .shr d a b => encShr d a b
  | .sar d a b => encSar d a b
  | .rol d a b => encRol d a b
  | .min d a b => encMin d a b
  | .max d a b => encMax d a b
  | .minN d a b => encMinN d a b
  | .maxN d a b => encMaxN d a b
  | .slt d a b => encSlt d a b
  | .sltN d a b => encSltN d a b
  | .seq d a b => encSeq d a b
  | .mul d a b => encMul d a b
  | .mulh d a b => encMulh d a b
  | .mulhN d a b => encMulhN d a b
  | .div d a b => encDiv d a b
  | .divN d a b => encDivN d a b
  | .rem d a b => encRem d a b
  | .remN d a b => encRemN d a b
  | .clz d a => encClz d a
  | .ctz d a => encCtz d a
  | .popc d a => encPopc d a
  | .addi d a i => encAddi d a i
  | .andi d a i => encAndi d a i
  | .ori d a i => encOri d a i
  | .xori d a i => encXori d a i
  | .shli d a i => encShli d a i
  | .shri d a i => encShri d a i
  | .sari d a i => encSari d a i
  | .slti d a i => encSlti d a i
  | .li d i => encLi d i
  | .lih d i => encLih d i
  | .ext d a x l p => encExt d a x l p
  | .ins d a l p => encIns d a l p
  | .mkpl d a e y x => encMkpl d a e y x
  | .mkplAbs d a e y x => encMkplAbs d a e y x
  | .csrr d c => encCsrr d c
  | .csrw d a c => encCsrw d a c
  | .csrs d a c => encCsrs d a c
  | .csrc d a c => encCsrc d a c
  | .oxl n a b k => encOxl n a b k
  | .oxm n a => encOxm n a
  | .oxr d n => encOxr d n
  | .b o => encB o
  | .call o => encCall o
  | .jr d a i => encJr d a i
  | .beq a b o => encBeq a b o
  | .bne a b o => encBne a b o
  | .blt a b o => encBlt a b o
  | .bge a b o => encBge a b o
  | .bltN a b o => encBltN a b o
  | .bgeN a b o => encBgeN a b o
  | .bpAny p o => encBpAny p o
  | .bpNone p o => encBpNone p o
  | .bpAll p o => encBpAll p o
  | .bpNall p o => encBpNall p o
  | .nop => encNop
  | .trap a => encTrap a
  | .eret => encEret
  | .fenceI => encFenceI
  | .seal d a => encSeal d a
  | .unseal d a => encUnseal d a
  | .trestart d a b => encTrestart d a b
  | .dbgfreeze => encDbgfreeze
  | .cMov a b => encCMov a b
  | .cAdd a b => encCAdd a b
  | .cSub a b => encCSub a b
  | .cAnd a b => encCAnd a b
  | .cAddi a i => encCAddi a i
  | .cLi a i => encCLi a i
  | .cShli a i => encCShli a i
  | .cLd a b => encCLd a b
  | .cSt a b => encCSt a b
  | .cB o => encCB o
  | .cBeqz a i => encCBeqz a i
  | .cBnez a i => encCBnez a i
  | .cRet => encCRet
  | .cAwait a i => encCAwait a i
  | .cNop => encCNop
  | .cOr a b => encCOr a b
  | .cXor a b => encCXor a b
  | .cShri a i => encCShri a i
  | .cSari a i => encCSari a i
  | .cLdw a b => encCLdw a b
  | .cStw a b => encCStw a b
  | .cSlt a b => encCSlt a b
  | .cShl a b => encCShl a b
  | .cShr a b => encCShr a b
  | .cNeg a b => encCNeg a b
  | .cSeq a b => encCSeq a b
  | .cMul a b => encCMul a b
  | .cYield => encCYield
  | .cTend => encCTend
  | .cMin a b => encCMin a b
  | .cMax a b => encCMax a b
  | .vset d a f g s => encVset d a f g s
  | .vsetKeep d f g s => encVsetKeep d f g s
  | .vadd d a b n p => encVadd d a b n p
  | .vsub d a b n p => encVsub d a b n p
  | .vmul d a b n p => encVmul d a b n p
  | .vmulh d a b n p => encVmulh d a b n p
  | .vmacc d a b n p => encVmacc d a b n p
  | .vmin d a b n p => encVmin d a b n p
  | .vmax d a b n p => encVmax d a b n p
  | .vand d a b n p => encVand d a b n p
  | .vor d a b n p => encVor d a b n p
  | .vxor d a b n p => encVxor d a b n p
  | .vshl d a b n p => encVshl d a b n p
  | .vshr d a b n p => encVshr d a b n p
  | .vsar d a b n p => encVsar d a b n p
  | .vadds d a b n p => encVadds d a b n p
  | .vsubs d a b n p => encVsubs d a b n p
  | .vfadd d a b n p => encVfadd d a b n p
  | .vfsub d a b n p => encVfsub d a b n p
  | .vfmul d a b n p => encVfmul d a b n p
  | .vfma d a b n p => encVfma d a b n p
  | .vfms d a b n p => encVfms d a b n p
  | .vfnma d a b n p => encVfnma d a b n p
  | .vfmin d a b n p => encVfmin d a b n p
  | .vfmax d a b n p => encVfmax d a b n p
  | .vfdiv d a b n p => encVfdiv d a b n p
  | .vmov d a n p => encVmov d a n p
  | .vabs d a n p => encVabs d a n p
  | .vneg d a n p => encVneg d a n p
  | .vnot d a n p => encVnot d a n p
  | .vclz d a n p => encVclz d a n p
  | .vpopc d a n p => encVpopc d a n p
  | .vfabs d a n p => encVfabs d a n p
  | .vfneg d a n p => encVfneg d a n p
  | .vfsqrt d a n p => encVfsqrt d a n p
  | .vfrsq d a n p => encVfrsq d a n p
  | .vfrcp d a n p => encVfrcp d a n p
  | .vfexp2 d a n p => encVfexp2 d a n p
  | .vflog2 d a n p => encVflog2 d a n p
  | .vftanh d a n p => encVftanh d a n p
  | .vfclass d a n p => encVfclass d a n p
  | .vunpk4Lo d a n p => encVunpk4Lo d a n p
  | .vunpk4Hi d a n p => encVunpk4Hi d a n p
  | .vpack4 d a n p => encVpack4 d a n p
  | .vcvtI8 d a n p => encVcvtI8 d a n p
  | .vcvtN8 d a n p => encVcvtN8 d a n p
  | .vcvtI16 d a n p => encVcvtI16 d a n p
  | .vcvtN16 d a n p => encVcvtN16 d a n p
  | .vcvtI32 d a n p => encVcvtI32 d a n p
  | .vcvtN32 d a n p => encVcvtN32 d a n p
  | .vcvtI64 d a n p => encVcvtI64 d a n p
  | .vcvtF64 d a n p => encVcvtF64 d a n p
  | .vcvtF32 d a n p => encVcvtF32 d a n p
  | .vcvtF16 d a n p => encVcvtF16 d a n p
  | .vcvtBf16 d a n p => encVcvtBf16 d a n p
  | .vcvtE4m3 d a n p => encVcvtE4m3 d a n p
  | .vcvtE5m2 d a n p => encVcvtE5m2 d a n p
  | .vcvtE2m1 d a n p => encVcvtE2m1 d a n p
  | .vcmpEq d a b p => encVcmpEq d a b p
  | .vcmpNe d a b p => encVcmpNe d a b p
  | .vcmpLt d a b p => encVcmpLt d a b p
  | .vcmpGe d a b p => encVcmpGe d a b p
  | .vcmpLe d a b p => encVcmpLe d a b p
  | .vcmpGt d a b p => encVcmpGt d a b p
  | .vfcmpEq d a b p => encVfcmpEq d a b p
  | .vfcmpNe d a b p => encVfcmpNe d a b p
  | .vfcmpLt d a b p => encVfcmpLt d a b p
  | .vfcmpGe d a b p => encVfcmpGe d a b p
  | .vfcmpLe d a b p => encVfcmpLe d a b p
  | .vfcmpGt d a b p => encVfcmpGt d a b p
  | .vfcmpUno d a b p => encVfcmpUno d a b p
  | .vfcmpOrd d a b p => encVfcmpOrd d a b p
  | .vmerge d a b n p => encVmerge d a b n p
  | .vslideup d a s n p => encVslideup d a s n p
  | .vslideupRot d a s n p => encVslideupRot d a s n p
  | .vslidedn d a s n p => encVslidedn d a s n p
  | .vslidednRot d a s n p => encVslidednRot d a s n p
  | .vgathr d a b n p => encVgathr d a b n p
  | .vcompress d a n p => encVcompress d a n p
  | .vexpand d a n p => encVexpand d a n p
  | .vbcast d s n p => encVbcast d s n p
  | .vbcastE d a s n p => encVbcastE d a s n p
  | .vextr i a d => encVextr i a d
  | .vextrSx i a d => encVextrSx i a d
  | .vins d i s n p => encVins d i s n p
  | .vinsCv d i s n p => encVinsCv d i s n p
  | .vfoldSum d a n p => encVfoldSum d a n p
  | .vfoldMin d a n p => encVfoldMin d a n p
  | .vfoldMax d a n p => encVfoldMax d a n p
  | .vfoldAnd d a n p => encVfoldAnd d a n p
  | .vfoldOr d a n p => encVfoldOr d a n p
  | .vfoldXor d a n p => encVfoldXor d a n p
  | .vfoldFsum d a n p => encVfoldFsum d a n p
  | .vfoldFmin d a n p => encVfoldFmin d a n p
  | .vfoldFmax d a n p => encVfoldFmax d a n p
  | .vidx d n p => encVidx d n p
  | .vrand d n p => encVrand d n p
  | .vramp d s n p => encVramp d s n p
  | .vrampC d s n p => encVrampC d s n p
  | .vrampW d wl n p => encVrampW d wl n p
  | .vrampCW d wl n p => encVrampCW d wl n p
  | .vbsc d a b n p => encVbsc d a b n p
  | .vfscl d a s n p => encVfscl d a s n p
  | .vaddVs d a s o n p => encVaddVs d a s o n p
  | .vmulVs d a s o n p => encVmulVs d a s o n p
  | .vfaddVs d a s o n p => encVfaddVs d a s o n p
  | .vfmulVs d a s o n p => encVfmulVs d a s o n p
  | .vfmaVs d a s o n p => encVfmaVs d a s o n p
  | .pand d a b => encPand d a b
  | .por d a b => encPor d a b
  | .pxor d a b => encPxor d a b
  | .pandn d a b => encPandn d a b
  | .pnot d a => encPnot d a
  | .pmov d a => encPmov d a
  | .psetn d a => encPsetn d a
  | .pclr d => encPclr d
  | .pfirst d a => encPfirst d a
  | .pcnt d a => encPcnt d a
  | .mma c a b f => encMma c a b f
  | .mzero c => encMzero c
  | .mepi c a b f => encMepi c a b f
  | .mcks c a f => encMcks c a f
  | .ld d b z o => encLd d b z o
  | .ldN d b z o => encLdN d b z o
  | .st d b z o => encSt d b z o
  | .lda d b z t o => encLda d b z t o
  | .ldp d a b x z => encLdp d a b x z
  | .stp d a b z => encStp d a b z
  | .ldpC d a b => encLdpC d a b
  | .vld d b n p => encVld d b n p
  | .vldS d b s n p => encVldS d b s n p
  | .vst d b n p => encVst d b n p
  | .vstCk d b r n p => encVstCk d b r n p
  | .vstS d b s n p => encVstS d b s n p
  | .vgld d b i n p => encVgld d b i n p
  | .vgldX2 d b i n p => encVgldX2 d b i n p
  | .vsst d b i n p => encVsst d b i n p
  | .vldp d b n p => encVldp d b n p
  | .vldpC d b n p => encVldpC d b n p
  | .vstp d b n p => encVstp d b n p
  | .pst b s => encPst b s
  | .pstV d b n p => encPstV d b n p
  | .xcopy t a b h k q s => encXcopy t a b h k q s
  | .wbind a n => encWbind a n
  | .wunb n => encWunb n
  | .wskip a n => encWskip a n
  | .wpos d n => encWpos d n
  | .amoSwap d a b c o z => encAmoSwap d a b c o z
  | .amoCas d a b c o z => encAmoCas d a b c o z
  | .amoAdd d a b c o z => encAmoAdd d a b c o z
  | .amoAnd d a b c o z => encAmoAnd d a b c o z
  | .amoOr d a b c o z => encAmoOr d a b c o z
  | .amoXor d a b c o z => encAmoXor d a b c o z
  | .amoMin d a b c o z => encAmoMin d a b c o z
  | .amoMax d a b c o z => encAmoMax d a b c o z
  | .amoMinN d a b c o z => encAmoMinN d a b c o z
  | .amoMaxN d a b c o z => encAmoMaxN d a b c o z
  | .amoFadd d a b c o z => encAmoFadd d a b c o z
  | .redAdd a b z => encRedAdd a b z
  | .redAnd a b z => encRedAnd a b z
  | .redOr a b z => encRedOr a b z
  | .redXor a b z => encRedXor a b z
  | .redMin a b z => encRedMin a b z
  | .redMax a b z => encRedMax a b z
  | .redMinN a b z => encRedMinN a b z
  | .redMaxN a b z => encRedMaxN a b z
  | .redFadd a b z => encRedFadd a b z
  | .vamo d b i n p => encVamo d b i n p
  | .vred d b i n p => encVred d b i n p
  | .gll d b i n p => encGll d b i n p
  | .scc d b i n p => encScc d b i n p
  | .fence s => encFence s
  | .fenceRel s => encFenceRel s
  | .fenceAcq s => encFenceAcq s
  | .fenceScPkg => encFenceScPkg
  | .fenceSv => encFenceSv
  | .fenceVs => encFenceVs
  | .pbarOrder => encPbarOrder
  | .pbarComplete => encPbarComplete
  | .pflush a => encPflush a
  | .prefL1 b z o => encPrefL1 b z o
  | .prefL2 b z o => encPrefL2 b z o
  | .dlg t a b => encDlg t a b
  | .dlgAm a b => encDlgAm a b
  | .cmoInv a => encCmoInv a
  | .cmoWb a => encCmoWb a
  | .cmoZero a => encCmoZero a
  | .cmoPfr d a => encCmoPfr d a
  | .cmoPfw a b => encCmoPfw a b
  | .cmoObjclr a => encCmoObjclr a
  | .qinit d a b => encQinit d a b
  | .qfree d a => encQfree d a
  | .qstat d a b => encQstat d a b
  | .qpeek d a b => encQpeek d a b
  | .enqTry p a b => encEnqTry p a b
  | .enqWait a b => encEnqWait a b
  | .deqTry p a b => encDeqTry p a b
  | .deqWait a b => encDeqWait a b
  | .venqTry d a p => encVenqTry d a p
  | .venqWait d a => encVenqWait d a
  | .vdeqTry d a p => encVdeqTry d a p
  | .vdeqWait d a => encVdeqWait d a
  | .tspawn d a => encTspawn d a
  | .tend => encTend
  | .yield => encYield
  | .gjoin d a => encGjoin d a
  | .gang d a b => encGang d a b
  | .ungang => encUngang
  | .wqry d a b => encWqry d a b
  | .wqryOpen d a b => encWqryOpen d a b
  | .tlbiVa a b => encTlbiVa a b
  | .tlbiPart a => encTlbiPart a
  | .tlbiAll => encTlbiAll
  | .probe d a b => encProbe d a b
  | .gissue d a b => encGissue d a b
  | .grevoke d a => encGrevoke d a
  | .gcheck d a b => encGcheck d a b
  | .kvalloc d a b => encKvalloc d a b
  | .kvallocInit d a b => encKvallocInit d a b
  | .kvref d a b => encKvref d a b
  | .kvunref d a b => encKvunref d a b
  | .kvapp d a b => encKvapp d a b
  | .kvspl d a b => encKvspl d a b
  | .kvreq d a b => encKvreq d a b
  | .kvsrcGet d a b => encKvsrcGet d a b
  | .kvsrcSet d a b => encKvsrcSet d a b
  | .kvsrcBump d a b => encKvsrcBump d a b
  | .kvg d b e m => encKvg d b e m
  | .kvgStale d b e m => encKvgStale d b e m
  | .kvgRep d b e m => encKvgRep d b e m
  | .kvgAny d b e m => encKvgAny d b e m
  | .rkjob d a => encRkjob d a
  | .rkstat d a => encRkstat d a
  | .rkcancel d a => encRkcancel d a
  | .await t l => encAwait t l
  | .awaitT t l => encAwaitT t l
  | .awaitany t l => encAwaitany t l
  | .celli d a b => encCelli d a b
  | .signal d a b e s => encSignal d a b e s
  | .cread d a b => encCread d a b
  | .rvinit d a b => encRvinit d a b
  | .rvarr d a b => encRvarr d a b
  | .rvfree d a => encRvfree d a
  | .barw d => encBarw d
  | .waituntil a b => encWaituntil a b
  | .reportRound => 0
  | .launchDequeue _ => 0
  | .launchCancel _ => 0
  | .panClaim _ _ => 0
  | .creationMessage _ _ _ _ => 0
  | .endMessage _ _ _ => 0
  | .tspawnRequest _ _ _ _ => 0
  | .gjoinRequest _ _ _ _ => 0
  | .wqryRequest _ _ _ _ _ _ => 0
  | .wqryOpenRequest _ _ _ _ => 0
  | .trestartRequest _ _ _ _ => 0
  | .sluiceReply _ _ _ => 0
  | .preemptionMessage _ _ => 0
  | .preemptionAcknowledgement _ _ => 0
  | .resumptionMessage _ _ => 0
  | .quantumExpiry _ => 0
  | .stallPromisePassed _ => 0
  | .tokenWake _ _ _ => 0
  | .tokenRegistration _ _ _ _ => 0
  | .timerTokenReady _ _ => 0
  | .awaitTimeout _ _ => 0
  | .waituntilTime _ _ => 0
  | .backgroundRestore _ => 0
  | .backgroundRestoreDone _ => 0
  | .thermalRankingTable _ _ => 0
  | .thermalCclimStep _ _ => 0
  | .mobileRecord _ _ _ => 0
  | .mailboxCsrWrite _ _ _ => 0
  | .levellingVisit _ => 0
  | .delegation _ _ _ _ _ _ => 0
  | .activeMessage _ _ _ _ _ => 0
  | .delegationReply _ _ _ => 0
  | .serviceRoutineTimeout _ => 0
  | .gangJoin _ _ _ _ _ _ => 0
  | .gangFormationTimeout _ => 0
  | .gangOperandMessage _ _ => 0
  | .presenceStoreLanding _ _ _ => 0
  | .ldaDataArrival _ _ => 0
  | .vamoElementArrival _ _ _ => 0
  | .wellRefillLanding _ _ => 0
  | .transferComplete _ _ _ => 0
  | .channelCellResume _ _ => 0
  | .storeBufferDrain _ => 0
  | .durableStoreAccept _ => 0
  | .persistAcknowledgement _ => 0
  | .containmentScrub _ _ => 0
  | .queueWaiterWake _ _ => 0
  | .waiterTableRetry _ _ => 0
  | .wireBarrierRelease _ => 0
  | .barrierTimeout _ _ => 0
  | .deferredArrival _ _ _ => 0
  | .postedSignalRefused _ _ _ _ _ => 0
  | .fabricErrorResponse _ => 0
  | .ingressRequest _ _ _ _ _ _ _ => 0
  | .leaseExpiry _ => 0
  | .retentionEntry _ _ => 0
  | .retentionExit _ _ => 0
  | .rakeJobStart _ _ => 0
  | .rakeLayerAdvance _ _ => 0
  | .hostMemRead _ _ => 0
  | .hostMemWrite _ _ _ => 0
  | .hostTailStore _ _ _ => 0
  | .hostBiResponse _ => 0
  | .attestationRequest _ => 0
  | .attestationSigned => 0
  | .stationDown _ => 0
  | .bitternResize _ _ => 0
  | .partitionLiveWrite _ => 0
  | .grantKeyRotation _ _ => 0
  | .controlSpaceWrite _ _ => 0
  | .adaptiveVoltagePeriod _ => 0
  | .equalisationPeriod => 0
  | .thresholdPeriod _ => 0
  | .railDroop _ _ => 0
  | .overtemperature _ => 0
  | .freezeSignal => 0
  | .powerLoss => 0
  | .packageReset _ => 0
  | .nonInstruction _ => 0
  | .coreCheckFailure _ => 0
  | .mapOutDone _ => 0
  | .panPreparationDone _ _ => 0
  | .persistBufferDrain => 0
  | .stationUp _ => 0
  | .fabricStoreAcknowledgement _ => 0
  | .rakeCopyResume _ _ => 0

/-- The bytes of an instruction in memory, lowest address first (R3, R72). -/
def encode (i : Instr) : List Byte := leBytes i.size (instrWord i)

/-- What the decoder reads from an opcode-table word: the bytes of `w`, halfwords little-endian and in order,
with zeros above `nbits`. -/
def decodeTableWord (nbits w : Nat) : Option Instr :=
  match decode (leBytes 4 (w % 2 ^ nbits)) with
  | .ok (i, _) => some i
  | .error _ => none

end Sys2Proof

end
end

