-- ==== Sys2Proof/Machine/Reductions.lean ====
section
/-! DEFINITION. The operations of atomics and reductions (R273), and reductions collected in update-only lines until the homes
combine them (R249, R106). -/

namespace Sys2Proof.Machine

/-- The smaller signed value (R127). -/
def minSigned (a b : Word) : Word := if ltSigned b a then b else a
/-- The larger signed value (R127). -/
def maxSigned (a b : Word) : Word := if ltSigned a b then b else a
/-- The smaller unsigned value (R127). -/
def minUnsigned (a b : Word) : Word := if ltUnsigned b a then b else a
/-- The larger unsigned value (R127). -/
def maxUnsigned (a b : Word) : Word := if ltUnsigned a b then b else a

/-- The operations of R273. -/
inductive AmoOp where
  | swap | cas | add | and | or | xor | min | max | minN | maxN | fadd
deriving DecidableEq, Repr

/-- A word of `n` bytes sign-extended to 64 bits, for the signed comparisons. -/
def widen (n : Nat) (v : Word) : Word := wrap64 (sext v.toNat (8 * n))
/-- A word cut to `n` bytes. -/
def narrow (n : Nat) (v : Word) : Word := BitVec.ofNat 64 (v.toNat % 2 ^ (8 * n))

/-- The new memory value from the old one (R273): `x` the operand, `e` the expected value of cas. -/
def amoValue (op : AmoOp) (n : Nat) (old x e : Word) : Word :=
  narrow n (match op with
    | .swap => x
    | .cas => if old = narrow n e then x else old
    | .add => old + x
    | .and => old &&& x
    | .or => old ||| x
    | .xor => old ^^^ x
    | .min => minSigned (widen n old) (widen n x)
    | .max => maxSigned (widen n old) (widen n x)
    | .minN => minUnsigned old (narrow n x)
    | .maxN => maxUnsigned old (narrow n x)
    | .fadd =>
      let f := if n = 8 then fmtF64 else fmtF32
      BitVec.ofNat 64 (f.finish .rne (addVal .rne (f.val old.toNat) (f.val x.toNat))).1)

/-- The operation of a number of R273. -/
def amoOfCode (k : Nat) : Option AmoOp :=
  match k with
  | 0 => some .swap | 1 => some .cas | 2 => some .add | 3 => some .and | 4 => some .or | 5 => some .xor
  | 6 => some .min | 7 => some .max | 8 => some .minN | 9 => some .maxN | 10 => some .fadd | _ => none

/-- The number of an operation. -/
def AmoOp.code : AmoOp → Nat
  | .swap => 0 | .cas => 1 | .add => 2 | .and => 3 | .or => 4 | .xor => 5
  | .min => 6 | .max => 7 | .minN => 8 | .maxN => 9 | .fadd => 10

/-- A reduction of the executing party collects in an update-only line (R249). -/
def State.collect (s : State) (vec : Bool) (va : Word) (pa n : Nat) (op : AmoOp) (x : Word) : State :=
  let key := s.taskKey
  let s1 := if s.inService then s.dropOwnResv pa n else s
  { s1 with
    ctx := { s1.ctx with release := none }
    core := { s1.core with reductions := s1.core.reductions ++ [⟨pa, n, op.code, x, key.1, key.2, va, vec⟩] } }

/-- A collected reduction with the core that holds it. -/
abbrev Collected := Nat × Reduction

/-- The home combines one collected reduction, for the core that holds it. One that finds an object is refused, and its task raises
Object overwrite (R230); a poisoned word stays as it is (R228). The reservations of other parties on the word end (R275). -/
def combineOne (s : State) (c : Collected) : State :=
  let r := c.2
  if touchesObject s r.pa r.size then s.blame c.1 r.serial r.tid (.objectOverwrite, 0, r.va)
  else if touchesPoison s r.pa r.size then s
  else match amoOfCode r.op with
    | some op => s.onCore c.1 (fun s => homeWrite (s.endResvBy c.1 r.serial r.tid r.pa r.size) r.pa
        (natBytes r.size (amoValue op r.size (BitVec.ofNat 64 (physLe s r.pa r.size)) r.x 0).toNat))
    | none => s

/-- Whether two reductions may be combined in either order: floating ones (R106), and those of different parties. -/
def Collected.swaps (a b : Collected) : Bool :=
  (decide (a.2.op = 10) && decide (b.2.op = 10)) || decide (a.2.serial ≠ b.2.serial) || decide (a.2.tid ≠ b.2.tid) || decide (a.1 ≠ b.1)

/-- The reductions that may be combined next: those that may come before everything ahead of them. -/
def combinable : List Collected → List Collected → List Collected
  | _, [] => []
  | ahead, r :: l => (if ahead.all (fun a => a.swaps r) then [r] else []) ++ combinable (ahead ++ [r]) l

/-- Combine collected reductions, in any order that keeps those that may not swap: which is a free value (R106, R249, log entry 13). -/
def combineAll : Nat → State → List Collected → State
  | 0, s, _ => s
  | _ + 1, s, [] => s
  | k + 1, s, r :: l =>
    let q := openChoice s 26 r.2.pa r (combinable [r] l)
    combineAll k (combineOne s.fresh q) ((r :: l).erase q)

/-- The number of an update-only line in an L1, which falls into the set of its line (R220, R249). -/
def updateKey (pa : Nat) : Nat := 2 ^ 61 + pa / 128

/-- The collected reductions of every core that a test selects, the executing core's first. -/
def collected (s : State) (p : Collected → Bool) : List Collected :=
  ((s.core.reductions.map (fun r => (s.cur, r))) ++ s.others.flatMap (fun q => q.core.reductions.map (fun r => (q.id, r)))).filter p

/-- The homes combine the collected reductions that a test selects. -/
def combineWhere (p : Collected → Bool) (s : State) : State :=
  match collected s p with
  | [] => s
  | l =>
    let keep (c : Nat) (k : Core) : Core :=
      let rest := k.reductions.filter (fun r => !p (c, r))
      { k with reductions := rest, l1 := k.l1.filter (fun x => decide (x < 2 ^ 61) || rest.any (fun r => updateKey r.pa = x)) }
    let s1 := { s with core := keep s.cur s.core, others := s.others.map (fun q => { q with core := keep q.id q.core }) }
    combineAll l.length s1 l

/-- The homes combine everything collected in the package. -/
def combinePackage (s : State) : State := combineWhere (fun _ => true) s

/-- A read of a location by a stream of the executing party arrives at its home, which first combines what touches it: but for the
party's own reductions of the other stream, which the read may overtake (R235, R249, log entry 21). -/
def combineRead (s : State) (vec : Bool) (pa n : Nat) : State :=
  let key := s.taskKey
  let own (c : Collected) : Bool := decide (c.1 = s.cur) && decide ((c.2.serial, c.2.tid) = key)
  combineWhere (fun c => decide (c.2.pa < pa + n) && decide (pa < c.2.pa + c.2.size)
    && (!own c || decide (c.2.vec = vec) || s.seesOther pa)) s

/-- What one stream of the executing party has collected is combined (R235). -/
def combineStream (s : State) (vec : Bool) : State :=
  let key := s.taskKey
  combineWhere (fun c => decide (c.1 = s.cur) && decide ((c.2.serial, c.2.tid) = key) && decide (c.2.vec = vec)) s

end Sys2Proof.Machine
end

