-- ==== Sys2Proof/Machine/Access.lean ====
section
/-! DEFINITION. One access of the executing party to memory or to a scratchpad, with its checks in the order of R84 and
R259, the fabric (R226, R250, R322), migration counts (R330), and what releases and fences wait for (R235-R237, R253). -/

namespace Sys2Proof.Machine

/-- An address that is not a multiple of its size (R259). -/
def misalignedAt (va : Word) (n : Nat) : Bool := decide (va.toNat % n ≠ 0)

/-! ### The fabric -/

/-- Threshold of a migration class: MCLS of the leaf (R317, R330). -/
def migrateThreshold (pte : Word) : Nat := match bits pte 13 12 with | 0 => 64 | 1 => 256 | 2 => 1024 | _ => 4096

/-- The set of the counter table a region falls into (R330). -/
def migrationSet (part region : Nat) : Nat := (region % 1024) ^^^ part

/-- The way of a full set that loses its count: the lowest count, the lowest way of equals (R330). -/
def lowestCounter : List MigrationCounter → Option MigrationCounter
  | [] => none
  | c :: l => match lowestCounter l with
    | none => some c
    | some d => if c.count < d.count ∨ (c.count = d.count ∧ c.way ≤ d.way) then some c else some d

/-- Replace or add the counter of a region: it takes the lowest way of its set that holds none, or the one with the lowest count
(R330). -/
def putCounter (l : List MigrationCounter) (c : MigrationCounter) : List MigrationCounter :=
  if l.any (fun d => d.die = c.die ∧ d.part = c.part ∧ d.region = c.region) then
    l.map (fun d => if d.die = c.die ∧ d.part = c.part ∧ d.region = c.region then { c with way := d.way } else d)
  else
    let set := l.filter (fun d => d.die = c.die ∧ migrationSet d.part d.region = migrationSet c.part c.region)
    match (List.range 4).find? (fun w => !set.any (fun d => d.way = w)) with
    | some w => l ++ [{ c with way := w }]
    | none => match lowestCounter set with
      | some v => l.map (fun d => if d = v then { c with way := v.way } else d)
      | none => l

/-- A migration record (R330). -/
def migrationRecord (part die : Nat) (va : Word) (peer : Nat) (pte : Word) (count : Nat) : List Word :=
  let w2 := count % 8192 + bits pte 13 12 * 2 ^ 13 + die % 8 * 2 ^ 15 + part % 64 * 2 ^ 18
  [BitVec.ofNat 64 (bits va 51 16 * 65536 + peer % 4096 * 2 ^ 52), pte, BitVec.ofNat 64 w2, 0, 0, 0, 0, 0]

/-- A line fetched from a peer through a MODE 11 leaf counts, and posts its record at the threshold (R330). -/
def countMigration (s : State) (part : Nat) (va : Word) (peer : Nat) (pte : Word) : State :=
  if pteMode pte ≠ 3 then s
  else
    let die := dieOf s.cur
    let region := bits va 51 16
    let old := (s.migration.find? (fun d => d.die = die ∧ d.part = part ∧ d.region = region)).getD ⟨die, 0, part, region, 0, false⟩
    let n := min 8191 (old.count + 1)
    let post := !old.posted && decide (migrateThreshold pte ≤ n)
    let s1 := { s with migration := putCounter s.migration { old with count := n, posted := old.posted || post } }
    if post then produceRecord s1 part 6 s.cur (migrationRecord part die va peer pte n) else s1

def grantBase (t : Word) : Nat := bits t 29 14
def grantLsize (t : Word) : Nat := bits t 35 30
/-- First offset after the window (R332). -/
def windowEnd (t : Word) : Nat := (grantBase t + 1) * 2 ^ grantLsize t

/-- Whether an access lies inside the window. -/
def windowCovers (t : Word) (off n : Nat) : Bool := decide (grantBase t * 2 ^ grantLsize t ≤ off) && decide (off + n ≤ windowEnd t)

/-- TOKEN and word 1 of an entry of a partition's grant table (R334). -/
def grantEntry (s : State) (part k : Nat) : Word × Word :=
  let a := 0x3F0000001000 + 0x2000 * part + 16 * k
  (BitVec.ofNat 64 (memLe s.ctl a 8), BitVec.ofNat 64 (memLe s.ctl (a + 8) 8))

/-- The token egress attaches to a fabric request: that of the lowest-numbered valid entry for the peer and the target
partition whose window covers the offset, or 0 (R334). -/
def egressToken (s : State) (part peer addr : Nat) : Word :=
  ((List.range 256).map (grantEntry s part)).find? (fun g => g.2.getLsbD 18 && decide (bits g.2 11 0 = peer)
    && decide (bits g.2 17 12 = addr / 2 ^ 40 % 64) && windowCovers g.1 (addr % 2 ^ 40) 1) |>.elim 0 (fun g => g.1)

/-- What a peer answers to a load or atomic at an address, given the token of the request: nothing, or a cause (R322, R334, R335,
R406); a free value (log entry 6). -/
def peerOutcome (s : State) (part peer addr : Nat) (va : Word) : Option Exc :=
  if 24 ≤ s.stationsDown.length then some (exc .peerUnreachable 0 va)
  else match Config.peerAnswer s.free (egressToken s part peer addr) with
  | 0 => none
  | 1 => some (exc .peerUnreachable 0 va)
  | n + 2 => some (exc .peerRejected (n % 8 + 1) va)

/-- Bytes a peer returns: free values (log entry 6). -/
def peerBytes (s : State) (n : Nat) : List Byte := (List.range n).map (Config.peerByte s.free)

/-! ### The L1 and the RDC (R220, R222, R223) -/

/-- Who loads: the scalar stream, the vector queue, or an engine, which has no L1. -/
inductive Loader where
  | scalar | vector | engine
deriving DecidableEq, Repr

/-- Whether a leaf lets a cache hold its lines: NOCACHE, and for fabric lines MODE 10 (R226, R317). -/
def Leaf.cacheable (l : Leaf) : Bool := !l.pte.getLsbD 14 && (pteMode l.pte = 0 || pteMode l.pte = 2)

/-- The number of a fabric line of a partition in a cache, above every PA/128. -/
def fabricKey (part peer addr : Nat) : Nat := 2 ^ 60 + (part * 4096 + peer) * 2 ^ 39 + addr / 128

/-- A line enters the L1: a full set of four loses one, a free value which (R220; the set a line falls into and the way it replaces
are the model's choices, log entry 51). The home combines what an update-only line that leaves has collected (R249). -/
def fillL1 (s : State) (key : Nat) : State :=
  let l := s.core.l1
  let set := l.filter (fun k => k % 128 = key % 128)
  if set.length < 4 then { s with core := { s.core with l1 := l ++ [key] } }
  else
    let v := set[(Config.openValue 23 (s.free * 2 ^ 80 + key)).toNat % set.length]?.getD key
    let s1 := { s with core := { s.core with l1 := l.erase v ++ [key] } }
    if v < 2 ^ 61 then s1 else combineWhere (fun c => decide (c.1 = s.cur) && decide (updateKey c.2.pa = v)) s1

/-- The L1 holds an update-only line for a reduction, and no other copy of the line (R220). -/
def holdUpdates (s : State) (pa : Nat) : State :=
  let s1 := { s with core := { s.core with l1 := s.core.l1.filter (fun k => k ≠ pa / 128) } }
  if s1.core.l1.contains (updateKey pa) then s1 else fillL1 s1 (updateKey pa)

/-- The L1s of a die lose a line, which its RDC no longer tracks (R220). -/
def dropFromL1s (s : State) (die key : Nat) : State :=
  let drop (k : Core) : Core := { k with l1 := k.l1.filter (fun x => x ≠ key) }
  { s with
    core := if dieOf s.cur = die then drop s.core else s.core
    others := s.others.map (fun p => if dieOf p.id = die then { p with core := drop p.core } else p) }

/-- A line leaves the RDC of a die. -/
def dropRdc (s : State) (l : RdcLine) : State := dropFromL1s { s with rdc := s.rdc.erase l } l.die l.key

/-- Lines an RDC holds: 16 MiB (R205). -/
def rdcLines : Nat := 131072

/-- A line enters the executing core's RDC; another may leave it, and one does from a full RDC: a free value which (R223, log
entry 51). -/
def fillRdc (s : State) (l : RdcLine) : State :=
  let held := s.rdc.filter (fun k => k.die = l.die)
  let v := (Config.openValue 24 (s.free * 2 ^ 80 + l.key)).toNat
  let s1 := if held.length < rdcLines ∧ v % 2 = 0 then s
    else match held[v / 2 % held.length]? with
      | some k => dropRdc s k
      | none => s
  { s1 with rdc := s1.rdc ++ [l] }

/-- The fabric line an RDC holds. -/
def State.rdcLine (s : State) (die key : Nat) : Option RdcLine := s.rdc.find? (fun l => l.die = die ∧ l.key = key)

/-- A load looks for its line in the L1: a miss counts (R385), and fills the L1 with a line it may hold. -/
def lookL1 (s : State) (who : Loader) (hold : Bool) (key : Nat) : State :=
  if who = .engine ∨ (hold = true ∧ s.core.l1.contains key = true) then s
  else
    let s1 := s.count 6 1
    if hold then fillL1 s1 key else s1

/-- Whether the caches may hold a line of this package (R220, R317). -/
def holdsLine (leaf : Leaf) (pa : Nat) : Bool := leaf.cacheable && decide (spaceOf pa ≠ .control)

/-- The executing die's RDC holds a line whose home is the HBM of another die, and a durable line (R222). -/
def fetchRdc (s : State) (pa : Nat) : State :=
  let key := pa / 128
  if (spaceOf pa = .durable ∨ (spaceOf pa = .hbm ∧ homeDie pa ≠ dieOf s.cur)) ∧ (s.rdcLine (dieOf s.cur) key).isNone then
    fillRdc s ⟨dieOf s.cur, key, 0, [], false⟩
  else s

/-- A load of a line of this package by way of the L1 and the RDC. -/
def loadLine (s : State) (who : Loader) (leaf : Leaf) (pa : Nat) : State :=
  if who = .engine then s
  else lookL1 (if holdsLine leaf pa then fetchRdc s pa else s) who (holdsLine leaf pa) (pa / 128)

/-- The fabric lines of a partition leave the RDC of a die (R223). -/
def dropFabricLines (s : State) (die part : Nat) : State :=
  (s.rdc.filter (fun l => !l.bytes.isEmpty && decide (l.die = die) && decide (l.part = part))).foldl dropRdc s

/-- A fabric line of MODE 10: from the RDC that holds it, whatever its peer does, or fetched from the peer, which the RDC then holds
(R222, R226). -/
def cachedLine (s : State) (who : Loader) (part peer addr : Nat) (va : Word) : Res (List Byte × State) :=
  let key := fabricKey part peer addr
  match s.rdcLine (dieOf s.cur) key with
  | some l => .ok (l.bytes, lookL1 s who true key)
  | none => match peerOutcome s part peer addr va with
    | some e => .error e
    | none =>
      let line := peerBytes s 128
      .ok (line, lookL1 (fillRdc s.fresh ⟨dieOf s.cur, key, part, line, false⟩) who true key)

/-! ### Loads and stores at a virtual address -/

/-- Whether an access of the executing core is damaged on its path: the data of a load, or a request, which gets an error response and
writes nothing (R397, log entry 53). -/
def State.struck (s : State) (who : Loader) : Bool := decide (who ≠ .engine) && (s.strike .loadPath).isSome

/-- A load of a party notes the clock it has read with a release, for an acquire that follows it (R237, R244). -/
def State.noteRead (s : State) (who : Loader) (pa n : Nat) : State :=
  if who = .engine ∨ (s.stamps.isEmpty = true ∧ s.ctx.seen.isNone = true) then s
  else { s with ctx := { s.ctx with seen := s.stampRead pa n } }

/-- An acquire of the executing party: at pod scope its die's RDC drops the fabric lines of its partition first (R223, R250), and its
die applies the clock it has read (R244). -/
def State.acquire (s : State) (pod : Bool) (stamp : Option Clock) : State :=
  (if pod then dropFabricLines s (dieOf s.cur) s.part else s).acquireStamp stamp

/-- The bytes of an aligned load by a party of a partition (R259, R228), and the state with what the walk marked; a line the
instruction has not fetched yet is looked for in the caches, and counts towards migration where a peer holds it (R330). -/
def readAs (s : State) (who : Loader) (part : Nat) (priv : Bool) (va : Word) (n : Nat) (need : Need) (newLine : Bool) :
    Res (List Byte × State) :=
  match translate s part priv va need with
  | .error e => .error e
  | .ok (.phys pa u) =>
    let s := combineRead (if who = .engine then s else s.passOther (who = .vector) pa n) (who = .vector) pa n
    if s.struck who then .error (exc .uncorrectableConsumed 1 va)
    else if touchesPoison s pa n then .error (consumed s pa n va)
    else .ok (if who = .engine then (List.range n).map (fun k => physByte s (pa + k)) else viewBytes s (who = .vector) pa n,
              (markUsed (if newLine then loadLine s who u.leaf pa else s) u false).noteRead who pa n)
  | .ok (.peer p addr u) =>
    if s.struck who then .error (exc .uncorrectableConsumed 1 va)
    else if u.leaf.cacheable ∧ who ≠ .engine then
      match cachedLine s who part p addr va with
      | .error e => .error e
      | .ok r => .ok ((r.1.drop (addr % 128)).take n, markUsed r.2 u false)
    else
      let s1 := if newLine then countMigration s part va p u.leaf.pte else s
      match peerOutcome s1 part p addr va with
      | some e => .error e
      | none => .ok (peerBytes s1 n, (markUsed (if newLine then lookL1 s1 who false 0 else s1) u false).fresh)

/-- A scalar load of the executing party. -/
def readVa (s : State) (va : Word) (n : Nat) (need : Need) : Res (List Byte × State) :=
  readAs s .scalar s.part s.privileged va n need true

/-- A store enters the store buffer; the first after a `fence.rel` is the release store (R237). A routine's write ends the
reservations of the task it interrupted (R275). -/
def State.buffer (s : State) (vec : Bool) (va : Word) (pa : Nat) (bytes : List Byte) : State :=
  let key := s.taskKey
  let b : Buffered := ⟨pa, bytes, key.1, key.2, s.ctx.epoch, va, vec, s.ctx.release.isSome⟩
  let s1 := if s.inService then s.dropOwnResv pa bytes.length else s
  { s1 with
    ctx := { s1.ctx with release := none }
    core := { s1.core with sbuf := s1.core.sbuf ++ [b] }
    pending := if s1.pending.contains (.storeBufferDrain s.cur) then s1.pending else s1.pending ++ [Event.storeBufferDrain s.cur] }

/-- A fabric line the RDC holds takes the bytes of a store that is written through to its peer (R222). -/
def writeHeldLine (s : State) (part peer addr : Nat) (bytes : List Byte) : State :=
  let key := fabricKey part peer addr
  let off := addr % 128
  { s with rdc := if s.rdc.isEmpty then s.rdc else s.rdc.map (fun l =>
      if l.die = dieOf s.cur ∧ l.key = key then { l with bytes := l.bytes.take off ++ bytes ++ l.bytes.drop (off + bytes.length) } else l) }

/-! ### Stations (R406) -/

/-- Boundaries between two dies (R14, R22). -/
def dieDistance (a b : Nat) : Nat := dist (a % 4 : Nat) (b % 4 : Nat) + (if a / 4 = b / 4 then 0 else 1)

/-- The first of stations s, s + 1, s + 2 of a die that works; the stations of die d are 3d to 3d + 2. -/
def stationOn (s : State) (die k : Nat) : Option Nat :=
  ((List.range 3).map (fun j => 3 * die + (k + j) % 3)).find? (fun n => !s.stationsDown.contains n)

/-- The nearest die of a list with a working station, the first of equals. -/
def nearestStation (s : State) (die k : Nat) : List Nat → Option (Nat × Nat)
  | [] => none
  | d :: l =>
    match stationOn s d k, nearestStation s die k l with
    | none, r => r
    | some n, none => some (dieDistance die d, n)
    | some n, some r => if dieDistance die d ≤ r.1 then some (dieDistance die d, n) else some r

/-- The station egress chooses (R406). -/
def stationFor (s : State) (core peer addr : Nat) : Option Nat :=
  let k := (peer ^^^ (addr / 128 % 2048)) % 3
  match stationOn s (dieOf core) k with
  | some n => some n
  | none => (nearestStation s (dieOf core) k (List.range 8)).map (fun r => r.2)

/-- A posted store to a peer with its grant token (R250, R334), by the station egress chooses; with no station working it gets an error response (R406). -/
def State.postFabric (s : State) (peer addr : Nat) (va : Word) : State :=
  let key := s.taskKey
  { s with
    ctx := { s.ctx with release := none }
    fabric := s.fabric ++ [{ num := s.fabricNext, core := s.cur, serial := key.1, tid := key.2, peer := peer, addr := addr, va := va,
                             token := egressToken s s.part peer addr, station := (stationFor s s.cur peer addr).getD 24,
                             pc := s.ctx.pc, part := s.part }]
    fabricNext := s.fabricNext + 1
    pending := s.pending ++ [if (stationFor s s.cur peer addr).isNone then Event.fabricErrorResponse s.fabricNext
      else Event.fabricStoreAcknowledgement s.fabricNext] }

/-- An aligned store of the executing party to where its address leads (R230). -/
def writeTo (s : State) (vec : Bool) (va : Word) (t : Target) (bytes : List Byte) : Res State :=
  match t with
  | .phys pa entry =>
    if touchesObject s pa bytes.length then .error (exc .objectOverwrite 0 va)
    else .ok ((combineRead (markUsed s entry true) vec pa bytes.length).buffer vec va pa bytes)
  | .peer p addr leaf => .ok (writeHeldLine ((markUsed s leaf true).postFabric p addr va) s.part p addr bytes)

/-- An aligned store of the executing party (R259, R230). -/
def writeVa (s : State) (vec : Bool) (va : Word) (bytes : List Byte) (need : Need) : Res State :=
  match translate s s.part s.privileged va need with
  | .error e => .error e
  | .ok t => writeTo s vec va t bytes

/-- The checks of a store without the store (R280). -/
def checkStore (s : State) (va : Word) : Res Target := translate s s.part s.privileged va Need.write

/-! ### Scratchpads -/

/-- The place an access goes to, with the pan rules (R80, R211, R63, R147). -/
def placeOf (s : State) (w : Word) (off : Int) (n : Nat) : Res (Nat × Nat) :=
  match resolvePlace s w off n with
  | .error e => .error e
  | .ok (c, o) =>
    match padRefusal s s.part s.privileged c (o / 65536) with
    | some k => .error (exc .protection k w)
    | none => .ok (c, o)

/-- Bytes of a place, aligned (R262). -/
def readPlace (s : State) (w : Word) (off : Int) (n : Nat) : Res (List Byte × State) :=
  match placeOf s w off n with
  | .error e => .error e
  | .ok (c, o) =>
    let s1 := landInRange (wakePan s c (o / 65536)) c o n
    if s.struck .scalar then .error (exc .uncorrectableConsumed 1 w)
    else if padTouchesPoison s1 c o n then .error (padConsumed s1 c o n w)
    else .ok (padBytes s1 c o n, s1)

/-- Write bytes to a place; presence bits are unchanged (R217). -/
def writePlace (s : State) (w : Word) (off : Int) (bytes : List Byte) : Res State :=
  match placeOf s w off bytes.length with
  | .error e => .error e
  | .ok (c, o) =>
    if s.struck .scalar then .error (exc .uncorrectableConsumed 1 w) else .ok (padWrite (landInRange (wakePan s c (o / 65536)) c o bytes.length) c o bytes)

/-- The pans that n bytes from an offset touch. -/
def pansTouched (off n : Nat) : List Nat := (List.range ((off + max 1 n - 1) / 65536 - off / 65536 + 1)).map (fun k => off / 65536 + k)

/-- Whether the pans of a range are active (R219). -/
def rangeAwake (s : State) (core off n : Nat) : Bool := (pansTouched off n).all (panAwake s core)

/-- An access to pans in retention waits for their exit (R219). -/
def whenAwake (s : State) (core off n : Nat) (k : State → Out) : Out :=
  if rangeAwake s core off n then k s else waitHere ((pansTouched off n).foldl (fun s p => rousePan s core p) s)

/-- Clear the presence bit of a word (R217). -/
def consumeWord (s : State) (core off : Nat) : State := { s with present := setDrop s.present (padWord core off) }

/-! ### Releases and fences -/

/-- The task's fabric stores that wait for their peers (R250). -/
def State.fabricOpen (s : State) : Bool :=
  let key := s.taskKey
  s.fabric.any (fun f => f.serial = key.1 ∧ f.tid = key.2 ∧ (key.1 ≠ 0 ∨ f.core = s.cur))

/-- The lost store of the executing task, not yet reported (R250). -/
def State.lostStore (s : State) : Option Word :=
  if s.inService then none else match s.core.run.task with | some t => t.lost | none => none

/-- The store after a `fence.rel` has been made (R237). -/
def State.released (s : State) : State := { s with ctx := { s.ctx with release := none } }

/-- The lost store is reported. -/
def State.clearLost (s : State) : State :=
  { s with core := { s.core with run := s.core.run.mapTask (fun t => { t with lost := none }) } }

/-- A release at pod scope: it waits for the peers, and reports a lost store (R250). -/
def podRelease (s : State) (k : State → Out) : Out :=
  let s1 := s.publish
  if s1.fabricOpen then waitHere s1
  else match s1.lostStore with
    | some va => raise s1.clearLost (exc .storeLost 0 va)
    | none => k s1

/-- Everything before a release at a scope is done and visible. Scopes: 0 task, 1 core, 2 die, 3 package, 4 pod, 5 durable, 6 the two
(R235, R253, R276, R382). -/
def orderAt (scope : Nat) (s : State) (k : State → Out) : Out :=
  if scope = 4 then podRelease s k
  else if scope = 5 then k s.publish.persistAll
  else if scope = 6 then podRelease s fun s1 => k s1.persistAll
  else k s.publish

/-- The wider of two scopes (R237): neither .pod nor .dur includes the other, and what has both waits for both (DEDUCED). -/
def widerScope (a b : Nat) : Nat := if (a = 4 ∧ b = 5) ∨ (a = 5 ∧ b = 4) then 6 else max a b

/-- A release at a scope, which is also the first store after a `fence.rel` (R237). -/
def releaseAt (scope : Nat) (s : State) (k : State → Out) : Out :=
  orderAt (match s.ctx.release with | none => scope | some c => widerScope c scope) s k

/-- A store: the first after a `fence.rel` is a release store at its scope (R236, R237). -/
def storeAfterFence (s : State) (k : State → Out) : Out :=
  match s.ctx.release with
  | none => k s
  | some c => orderAt c s k

end Sys2Proof.Machine
end

