-- ==== Sys2Proof/Machine/KvObjects.lean ====
section
/-! DEFINITION. The objects of the KV tables: pool headers, descriptors, version tables, block tables and their entries
(R340-R346), with the checks of R348. Every party reads and writes them at their points of order. -/

namespace Sys2Proof.Machine

/-- An object that an instruction changes needs the rights of an atomic and of a load (R348). -/
def Need.change : Need := ⟨0x24, 2⟩

/-- The party for whom an object is read: the executing one, or an engine acting for a partition. -/
structure Party where
  part : Nat
  priv : Bool
deriving DecidableEq, Repr

/-- The executing party. -/
def State.party (s : State) : Party := ⟨s.part, s.privileged⟩

/-- Physical address of an object: no fabric peer (R348). -/
def objectAt (s : State) (p : Party) (va : Word) (need : Need) : Res Nat :=
  match translate s p.part p.priv va need with
  | .error e => .error e
  | .ok (.phys pa _) => .ok pa
  | .ok (.peer ..) => .error (exc .protection 9 va)

/-- Read n bytes of an object as a number; poison is consumed (R228). -/
def readObject (s : State) (p : Party) (va : Word) (n : Nat) (need : Need) : Res Nat :=
  match objectAt s p va need with
  | .error e => .error e
  | .ok pa => if touchesPoison s pa n then .error (consumed s pa n va) else .ok (physLe s pa n)

/-- The pages that n bytes of an object read for a party touch are marked (R320), and leases of their lines recalled (R337). -/
def State.reads (s : State) (p : Party) (va : Word) (n : Nat) : State :=
  (List.range ((va.toNat % 128 + n + 127) / 128)).foldl
    (fun s k => s.touch p.part (if k = 0 then va.toNat else (va.toNat / 128 + k) * 128) Need.change false) s

/-- Write n bytes of an object whose checks have passed. -/
def writeObject (s : State) (p : Party) (va : Word) (n v : Nat) : State :=
  match objectAt s p va Need.change with
  | .ok pa => homeWrite (s.touch p.part va.toNat Need.change true) pa (natBytes n v)
  | .error _ => s

/-- Whether the granules of an object carry object bits. -/
def hasObject (s : State) (pa n : Nat) : Bool := (List.range ((n + 15) / 16)).all (fun k => s.objects.contains (pa / 16 + k))

/-! ### Pools (R340) -/

structure Pool where
  va : Word
  raw : Nat
deriving DecidableEq, Repr

def Pool.descBase (p : Pool) : Nat := fieldOf p.raw 51 0
def Pool.svtBase (p : Pool) : Nat := fieldOf p.raw 115 64
def Pool.ndesc (p : Pool) : Nat := fieldOf p.raw 151 128
def Pool.freeCnt (p : Pool) : Nat := fieldOf p.raw 175 152
def Pool.freeHead (p : Pool) : Nat := fieldOf p.raw 199 176
def Pool.svtLog (p : Pool) : Nat := fieldOf p.raw 204 200
def Pool.ptok (p : Pool) : Nat := 16 * 2 ^ fieldOf p.raw 206 205
def Pool.nlm1 (p : Pool) : Nat := fieldOf p.raw 223 216
def Pool.layer0 (p : Pool) : Nat := fieldOf p.raw 231 224
def Pool.efmt (p : Pool) : Nat := fieldOf p.raw 235 232
def Pool.rowElems (p : Pool) : Nat := 32 * (fieldOf p.raw 243 236 + 1)

/-- Width in bits of an element format of a page; code 2 is binary16 (R341). -/
def pageWidth (f : Nat) : Nat :=
  match f with
  | 2 => 16 | 3 => 16 | 4 => 8 | 5 => 8 | 6 => 4 | 7 => 8 | 8 => 8 | 9 => 4 | 10 => 4 | _ => 8

/-- TB of a page in a format (R341). -/
def rowBytes (p : Pool) (f : Nat) : Nat :=
  let n := p.rowElems * pageWidth f / 8 + (if 7 ≤ f then p.rowElems / 32 else 0)
  (n + 63) / 64 * 64

/-- Address of a token row (R341). -/
def rowAddr (p : Pool) (page f layer kv slot : Nat) : Nat :=
  page * 4096 + (((layer - p.layer0) * 2 + kv) * p.ptok + slot) * rowBytes p f

/-- Bytes of a page (R341). -/
def pageBytes (p : Pool) (f : Nat) : Nat := (p.nlm1 + 1) * 2 * p.ptok * rowBytes p f

/-- Whether the reserved fields of a pool header are zero (R340). -/
def Pool.clean (p : Pool) : Bool :=
  decide (fieldOf p.raw 63 52 = 0) && decide (fieldOf p.raw 127 116 = 0) && decide (fieldOf p.raw 215 207 = 0)
    && decide (fieldOf p.raw 255 244 = 0) && decide (fieldOf p.raw 511 272 = 0) && decide (fieldOf p.raw 206 205 ≠ 3)

/-- A record in memory with a reserved field set, of which its description names no cause: Illegal instruction (R7), its EADDR the
record's address (DEDUCED, log entry 50). -/
def reservedField (va : Word) : Exc := exc .illegalInstruction 0 va

/-- The pool header at an address, with its checks (R340, R348, R7). -/
def getPool (s : State) (p : Party) (va : Word) (need : Need) : Res Pool :=
  if va.toNat % 64 ≠ 0 then .error (exc .misaligned 0 va)
  else match objectAt s p va need with
  | .error e => .error e
  | .ok pa =>
    if touchesPoison s pa 64 then .error (consumed s pa 64 va)
    else if !hasObject s pa 64 then .error (exc .bounds 24 va)
    else
      let h : Pool := ⟨va, physLe s pa 64⟩
      if h.clean then .ok h else .error (reservedField va)

/-! ### Descriptors (R342, R343) -/

structure Desc where
  index : Nat
  va : Word
  raw : Nat
deriving DecidableEq, Repr

def Desc.refcnt (d : Desc) : Nat := fieldOf d.raw 15 0
def Desc.src (d : Desc) : Nat := fieldOf d.raw 39 16
def Desc.ver (d : Desc) : Nat := fieldOf d.raw 47 40
def Desc.rtl (d : Desc) : Nat := fieldOf d.raw 55 48
def Desc.state (d : Desc) : Nat := fieldOf d.raw 58 56
def Desc.efmt (d : Desc) : Nat := fieldOf d.raw 63 60
def Desc.page (d : Desc) : Nat := fieldOf d.raw 103 64
def Desc.job (d : Desc) : Nat := fieldOf d.raw 109 104

/-- A descriptor's value from its fields (R342). -/
def descValue (refcnt src ver rtl state efmt page job : Nat) : Nat :=
  refcnt % 2 ^ 16 + src % 2 ^ 24 * 2 ^ 16 + ver % 256 * 2 ^ 40 + rtl % 256 * 2 ^ 48 + state % 8 * 2 ^ 56 + efmt % 16 * 2 ^ 60
    + page % 2 ^ 40 * 2 ^ 64 + job % 64 * 2 ^ 104

/-- Address of a descriptor (R340). -/
def descVa (p : Pool) (i : Nat) : Word := BitVec.ofNat 64 (p.descBase + 16 * i)

/-- A live descriptor, with the checks of R348: in range, its object bit set, neither FREE nor reserved; and its reserved fields zero
(R342, R7). -/
def getDesc (s : State) (q : Party) (p : Pool) (i : Nat) (need : Need) : Res Desc :=
  if p.ndesc ≤ i then .error (exc .bounds 18 (BitVec.ofNat 64 i))
  else
    let va := descVa p i
    match objectAt s q va need with
    | .error e => .error e
    | .ok pa =>
      if touchesPoison s pa 16 then .error (consumed s pa 16 va)
      else
        let d : Desc := ⟨i, va, physLe s pa 16⟩
        if !hasObject s pa 16 ∨ d.state = 0 ∨ 5 ≤ d.state then .error (exc .bounds 19 va)
        else if fieldOf d.raw 59 59 ≠ 0 ∨ fieldOf d.raw 127 110 ≠ 0 then .error (reservedField va)
        else .ok d

/-- Write a descriptor. -/
def putDesc (s : State) (q : Party) (va : Word) (raw : Nat) : State := writeObject s q va 16 raw

/-- Write the free-list fields of a pool header (R340). -/
def putFree (s : State) (q : Party) (p : Pool) (head cnt : Nat) : State × Pool :=
  let raw := putField (putField p.raw 199 176 head) 175 152 cnt
  (writeObject s q p.va 64 raw, { p with raw := raw })

/-- Set or clear the object bit of a granule. -/
def setObject (s : State) (q : Party) (va : Word) (on : Bool) : State :=
  match objectAt s q va Need.change with
  | .ok pa => { s with objects := if on then setAdd s.objects (pa / 16) else setDrop s.objects (pa / 16) }
  | .error _ => s

/-- Take the descriptor at FREEHEAD for a new page (R349): the state, the pool as it then is, and the index. The caller
has made sure that one is free. -/
def allocDesc (s : State) (q : Party) (p : Pool) (value : Nat) : Res (State × Pool × Nat) :=
  let i := p.freeHead
  if p.ndesc ≤ i then .error (exc .bounds 18 (BitVec.ofNat 64 i))
  else
    let va := descVa p i
    match objectAt s q va Need.change with
    | .error e => .error e
    | .ok pa =>
      if s.objects.contains (pa / 16) then .error (exc .objectOverwrite 0 va)
      else
        let next := fieldOf (physLe s pa 16) 39 16
        let r := putFree s q p next (p.freeCnt - 1)
        .ok (putDesc { r.1 with objects := setAdd r.1.objects (pa / 16) } q va value, r.2, i)

/-- Release one reference; at zero the descriptor is freed: FREE, its bit clear, pushed at FREEHEAD, its other fields as they
were (R350). -/
def releaseDesc (s : State) (q : Party) (p : Pool) (d : Desc) : State × Pool × Nat :=
  let n := d.refcnt - 1
  if n = 0 then
    let s1 := setObject (putDesc s q d.va (putField (putField (putField d.raw 15 0 0) 39 16 p.freeHead) 58 56 0)) q d.va false
    let r := putFree s1 q p d.index (p.freeCnt + 1)
    (r.1, r.2, 0)
  else (putDesc s q d.va (putField d.raw 15 0 n), p, n)

/-- Version byte of a source (R346). -/
def versionOf (s : State) (q : Party) (p : Pool) (src : Nat) (need : Need) : Res Nat :=
  readObject s q (BitVec.ofNat 64 (p.svtBase + src)) 1 need

/-! ### Block tables (R344, R345) -/

structure Table where
  va : Word
  nent : Nat
  cap : Nat
  pool : Word
deriving DecidableEq, Repr

/-- The header of a block table. -/
def getTable (s : State) (q : Party) (va : Word) (need : Need) : Res Table :=
  match readObject s q va 16 need with
  | .error e => .error e
  | .ok v => .ok ⟨va, fieldOf v 31 0, fieldOf v 63 32, BitVec.ofNat 64 (fieldOf v 127 64)⟩

/-- An entry as its 128-bit value. -/
abbrev Entry := Nat

def entryPage (e : Entry) : Nat := fieldOf e 39 0
def entryStart (e : Entry) : Nat := fieldOf e 45 40
def entryNtok (e : Entry) : Nat := fieldOf e 52 46
def entryDesc (e : Entry) : Nat := fieldOf e 87 64

/-- An entry from its fields. -/
def entryValue (page start ntok spl cut desc : Nat) : Entry :=
  page % 2 ^ 40 + start % 64 * 2 ^ 40 + ntok % 128 * 2 ^ 46 + spl % 2 * 2 ^ 53 + cut % 2 * 2 ^ 54 + desc % 2 ^ 24 * 2 ^ 64

/-- The pages of a table's header and first n entries are marked (R320). -/
def State.readsTable (s : State) (p : Party) (t : Table) (n : Nat) : State := s.reads p t.va (16 + 16 * n)

/-- Address of entry j. -/
def entryVa (t : Table) (j : Nat) : Word := t.va + BitVec.ofNat 64 (16 + 16 * j)

/-- Entry j of a table as it stands. -/
def getEntry (s : State) (q : Party) (t : Table) (j : Nat) (need : Need) : Res Entry := readObject s q (entryVa t j) 16 need

/-- Entries of a table, in order. -/
def getEntries (s : State) (q : Party) (t : Table) (need : Need) (j : Nat) : Nat → Res (List Entry)
  | 0 => .ok []
  | n + 1 =>
    match getEntry s q t j need with
    | .error e => .error e
    | .ok e => match getEntries s q t need (j + 1) n with
      | .error x => .error x
      | .ok l => .ok (e :: l)

/-- The checks of an entry against the pool: its bits (16), its run (17) (R348). -/
def entryShape (p : Pool) (e : Entry) (where_ : Word) : Option Exc :=
  if fieldOf e 63 55 ≠ 0 ∨ fieldOf e 127 88 ≠ 0 ∨ entryNtok e = 0 ∨ 64 < entryNtok e then some (exc .bounds 16 where_)
  else if p.ptok < entryStart e + entryNtok e then some (exc .bounds 17 where_)
  else none

/-- The descriptor of an entry: checks 16 to 19 (R348). -/
def entryDescriptor (s : State) (q : Party) (p : Pool) (e : Entry) (where_ : Word) (need : Need) : Res Desc :=
  match entryShape p e where_ with
  | some x => .error x
  | none => getDesc s q p (entryDesc e) need

/-- The descriptor of an entry with the page check (20) as well (R348). -/
def entryChecked (s : State) (q : Party) (p : Pool) (e : Entry) (where_ : Word) (need : Need) : Res Desc :=
  match entryDescriptor s q p e where_ need with
  | .error x => .error x
  | .ok d => if entryPage e ≠ d.page then .error (exc .bounds 20 where_) else .ok d

/-- A layer of the pool's group (R348). -/
def layerOk (p : Pool) (layer : Nat) : Bool := decide (p.layer0 ≤ layer) && decide (layer ≤ p.layer0 + p.nlm1)

end Sys2Proof.Machine
end

