-- ==== Sys2Proof/Machine/Wells.lean ====
section
/-! DEFINITION. Stream wells (R269-R272): the record, where an element of the stream lies, refills, the advance, the checks
a vector instruction makes against bound groups (R155), and the four well instructions. Word 7 of the record is device
state: for a slide window, 1 says that it was moved down and only its vacated elements are to be fetched; for a
block-indirect well, one more than the position of the strip last read. -/

namespace Sys2Proof.Machine

/-! ### The record (R270) -/

def Well.word (w : Well) (k : Nat) : Word := w.words[k]?.getD 0
def Well.kind (w : Well) : Nat := bits (w.word 0) 2 0
def Well.vreg (w : Well) : Nat := bits (w.word 0) 8 3
def Well.group (w : Well) : Nat := 2 ^ bits (w.word 0) 10 9
def Well.nbuf (w : Well) : Nat := bits (w.word 0) 12 11 + 1
def Well.cmp (w : Well) : Nat := bits (w.word 0) 17 13
def Well.sewc (w : Well) : Nat := bits (w.word 0) 20 18
def Well.sew (w : Well) : Nat := 4 * 2 ^ w.sewc
def Well.place (w : Well) : Bool := (w.word 0).getLsbD 21
def Well.kv (w : Well) : Nat := bits (w.word 0) 22 22
def Well.base (w : Well) : Word := w.word 1
/-- COUNT. Bits [63:40] of its doubleword, which the table of R270 does not name, are ignored (DESIGN CHOICE, log entry 70). -/
def Well.count (w : Well) : Nat := bits (w.word 2) 39 0
def Well.stride (w : Well) : Int := (w.word 3).toInt
def Well.rowElems (w : Well) : Nat := bits (w.word 4) 31 0
def Well.step (w : Well) : Nat := bits (w.word 4) 63 32
def Well.layer (w : Well) : Nat := bits (w.word 5) 15 0
def Well.head0 (w : Well) : Nat := bits (w.word 5) 23 16
def Well.nheads (w : Well) : Nat := bits (w.word 5) 31 24
def Well.headBytes (w : Well) : Nat := bits (w.word 5) 47 32
def Well.pos (w : Well) : Nat := (w.word 6).toNat
def Well.slid (w : Well) : Bool := (w.word 7).getLsbD 0
/-- E: elements of a strip (R271). -/
def Well.elems (w : Well) : Nat := w.group * 4096 / w.sew
/-- Bytes a token gives. -/
def Well.tokenBytes (w : Well) : Nat := w.nheads * w.headBytes
/-- T: tokens of a strip. -/
def Well.tokens (w : Well) : Nat := w.group * 512 / w.tokenBytes
/-- Registers of the bound group; all buffers of a ring. -/
def Well.regs (w : Well) : Nat := w.nbuf * w.group
/-- Elements or tokens one advance moves POS by (R272). -/
def Well.stripLength (w : Well) : Nat := if w.kind = 3 then w.step else if w.kind = 2 then w.tokens else w.elems
/-- The buffer that holds the current strip. -/
def Well.buffer (w : Well) : Nat := if w.kind = 4 then w.pos / w.elems % w.nbuf else 0
/-- Position of the first element of the strip a buffer holds or waits for. -/
def Well.stripOf (w : Well) (b : Nat) : Nat := w.pos + w.elems * ((b + w.nbuf - w.buffer) % w.nbuf)
/-- Registers of the current strip, numbered across the buffers. -/
def Well.current (w : Well) : List Nat := (List.range w.group).map (fun r => w.buffer * w.group + r)
/-- Replace a doubleword of the record. -/
def Well.setWord (w : Well) (k : Nat) (v : Word) : Well := { w with words := w.words.setIfInBounds k v }

/-- A bound well by number. -/
def Ctx.well (c : Ctx) (k : Nat) : Option Well := c.wells[k]?.getD none
/-- Replace a well. -/
def Ctx.setWell (c : Ctx) (k : Nat) (w : Option Well) : Ctx := { c with wells := c.wells.setIfInBounds k w }

/-- Two register ranges (first, count) share a register. -/
def rangesMeet (a b : Nat × Nat) : Bool :=
  decide (a.2 ≠ 0) && decide (b.2 ≠ 0) && decide (a.1 < b.1 + b.2) && decide (b.1 < a.1 + a.2)

/-- Whether a range of registers overlaps the group of a bound well (R155). -/
def Ctx.boundGroup (c : Ctx) (r : Nat × Nat) : Bool :=
  c.wells.toList.any (fun w => match w with | some w => rangesMeet r (w.vreg, w.regs) | none => false)

/-- Whether a predicate receives the completion mask of a bound well (R272). -/
def Ctx.boundPred (c : Ctx) (p : Nat) : Bool :=
  p ≠ 0 && c.wells.toList.any (fun w => match w with | some w => w.cmp = p | none => false)

/-- The wells whose current strip holds a register of one of the ranges. -/
def Ctx.wellsRead (c : Ctx) (rs : List (Nat × Nat)) : List Nat :=
  (List.range 8).filter (fun k => match c.well k with
    | some w => rs.any (fun r => rangesMeet r (w.vreg + w.buffer * w.group, w.group))
    | none => false)

/-! ### Refills (R271, R272) -/

/-- A read of the executing party; only a line it has not fetched yet counts towards migration (R330). -/
def readSeen (s : State) (seen : List Nat) (va : Word) (n : Nat) (need : Need) : Res (List Byte × State × List Nat) :=
  let line := va.toNat / 128
  match readAs s .vector s.part s.privileged va n need (!seen.contains line) with
  | .error e => .error e
  | .ok (bs, s1) => .ok (bs, s1, if seen.contains line then seen else line :: seen)

/-- Bytes of any span, line by line. -/
def readSpan (who : Loader) : Nat → State → Word → Nat → Need → Res (List Byte × State)
  | 0, s, _, _, _ => .ok ([], s)
  | fuel + 1, s, va, n, need =>
    if n = 0 then .ok ([], s)
    else
      let c := min n (128 - va.toNat % 128)
      match readAs s who s.part s.privileged va c need true with
      | .error e => .error e
      | .ok (bs, s1) =>
        match readSpan who fuel s1 (va + BitVec.ofNat 64 c) (n - c) need with
        | .error e => .error e
        | .ok (cs, s2) => .ok (bs ++ cs, s2)

/-- Byte distance of element p from BASE (R271). -/
def Well.offset (w : Well) (p : Nat) : Int :=
  let e := w.sew / 8
  if w.kind = 1 then (p / w.rowElems : Nat) * w.stride + (p % w.rowElems * e : Nat)
  else if w.stride = 0 then (if w.sew = 4 then p / 2 else p * e : Nat)
  else p * w.stride

/-- Element p of a stream that is not block-indirect; elements at or beyond COUNT are zero (R271). -/
def wellElement (s : State) (seen : List Nat) (w : Well) (p : Nat) : Res (Nat × State × List Nat) :=
  if w.count ≤ p then .ok (0, s, seen)
  else
    let e := max 1 (w.sew / 8)
    let off := w.offset p
    let pick (bs : List Byte) : Nat := if w.sew = 4 then leNat bs / 16 ^ (p % 2) % 16 else leNat bs
    if w.place then
      if decide (((bits w.base 19 0 : Int) + off) % (e : Int) ≠ 0) then .error (exc .misaligned 0 w.base)
      else match readPlace s w.base off e with
        | .error x => .error x
        | .ok (bs, s1) => .ok (pick bs, s1, seen)
    else
      let va := w.base + BitVec.ofInt 64 off
      if misalignedAt va e then .error (exc .misaligned 0 va)
      else match readSeen s seen va e Need.refill with
        | .error x => .error x
        | .ok (bs, s1, seen1) => .ok (pick bs, s1, seen1)

/-- The contents of a refilled register so far, the state, and the bit at which a fault was met. -/
structure Refill where
  value : Nat
  state : State
  fault : Option (Nat × Exc)

/-- Fetch elements j to j + n - 1 of a register whose element 0 is element p of the stream. -/
def refillElements (w : Well) (p : Nat) : Nat → Nat → State → List Nat → Nat → Refill
  | 0, _, s, _, acc => ⟨acc, s, none⟩
  | n + 1, j, s, seen, acc =>
    match wellElement s seen w (p + j) with
    | .error e => ⟨acc, s, some (j * w.sew, e)⟩
    | .ok (v, s1, seen1) => refillElements w p n (j + 1) s1 seen1 (acc + v * 2 ^ (j * w.sew))

/-- The entry that holds a logical position and the token's slot, reading entries from the first (R345). -/
def findToken (s : State) (q : Party) (t : Table) (need : Need) (pos : Nat) : Nat → Nat → Nat → Res (Option (Entry × Word × Nat))
  | 0, _, _ => .ok none
  | n + 1, j, sum =>
    match getEntry s q t j need with
    | .error e => .error e
    | .ok e =>
      if pos < sum + entryNtok e then .ok (some (e, entryVa t j, entryStart e + (pos - sum)))
      else findToken s q t need pos n (j + 1) (sum + entryNtok e)

/-- Address of a token's bytes for a block-indirect well; none past COUNT, and none past the table's entries, whose positions then read
as zeros (DESIGN CHOICE, log entry 70). Checks 16 to 22 of R348. -/
def wellToken (s : State) (w : Well) (pos : Nat) : Res (Option (Word × State)) :=
  if w.count ≤ pos then .ok none
  else if misalignedAt w.base 16 then .error (exc .misaligned 0 w.base)
  else
    let q := s.party
    match getTable s q w.base Need.refill with
    | .error e => .error e
    | .ok t =>
      match getPool s q t.pool Need.refill with
      | .error e => .error e
      | .ok p =>
        match findToken s q t Need.refill pos t.nent 0 0 with
        | .error e => .error e
        | .ok none => .ok none
        | .ok (some (e, at_, slot)) =>
          match entryChecked s q p e at_ Need.refill with
          | .error x => .error x
          | .ok d =>
            if !layerOk p w.layer then .error (exc .bounds 21 at_)
            else if rowBytes p d.efmt < (w.head0 + w.nheads) * w.headBytes then .error (exc .bounds 22 at_)
            else
              let s1 := ((s.reads q w.base ((at_ - w.base).toNat + 16)).reads q t.pool 64).reads q d.va 16
              .ok (some (BitVec.ofNat 64 (rowAddr p d.page d.efmt w.layer w.kv slot + w.head0 * w.headBytes), s1))

/-- Fetch the bytes of token u and later ones that fall into register r of the group. -/
def refillTokens (w : Well) (r : Nat) : Nat → Nat → State → Nat → Refill
  | 0, _, s, acc => ⟨acc, s, none⟩
  | n + 1, u, s, acc =>
    let lo := max (u * w.tokenBytes) (512 * r)
    let hi := min ((u + 1) * w.tokenBytes) (512 * r + 512)
    if hi ≤ lo then refillTokens w r n (u + 1) s acc
    else match wellToken s w (w.pos + u) with
      | .error e => ⟨acc, s, some ((lo - 512 * r) * 8, e)⟩
      | .ok none => refillTokens w r n (u + 1) s acc
      | .ok (some (va, s)) =>
        match readSpan .vector (hi - lo) s (va + BitVec.ofNat 64 (lo - u * w.tokenBytes)) (hi - lo) Need.refill with
        | .error e => ⟨acc, s, some ((lo - 512 * r) * 8, e)⟩
        | .ok (bs, s1) => refillTokens w r n (u + 1) s1 (acc + leNat bs * 2 ^ ((lo - 512 * r) * 8))

/-- Refill register r of a well, numbered across the buffers. -/
def refillRegister (s : State) (w : Well) (r : Nat) : Refill :=
  if w.kind = 2 then refillTokens w r w.tokens 0 s 0
  else
    let n := 4096 / w.sew
    let i0 := r % w.group * n
    let kept := if w.slid then min n (w.elems - w.step - i0) else 0
    let old := (s.ctx.getV (w.vreg + r)).toNat % 2 ^ (kept * w.sew)
    refillElements w (w.stripOf (r / w.group) + i0) (n - kept) kept s [] old

/-- Register r of well k lands, with its completion bit (R272); a fault leaves what was fetched before it. -/
def landRegister (s : State) (k r : Nat) : State × Option (Nat × Exc) :=
  match s.ctx.well k with
  | none => (s, none)
  | some w =>
    if w.landed.contains r then (s, none)
    else
      let f := refillRegister s w r
      let c1 := f.state.ctx.setV (w.vreg + r) (BitVec.ofNat 4096 f.value)
      match f.fault with
      | some e => ({ f.state with ctx := c1 }, some e)
      | none =>
        let c2 := if w.cmp = 0 then c1 else c1.setP w.cmp (c1.getP w.cmp ||| BitVec.ofNat 1024 (2 ^ r))
        ({ f.state with ctx := c2.setWell k (some { w with landed := setAdd w.landed r }) }, none)

/-- The well and register number that a vector register of a current strip stands for. -/
def Ctx.stripRegister (c : Ctx) (v : Nat) : Option (Nat × Nat) :=
  (List.range 8).findSome? (fun k => match c.well k with
    | some w => if w.vreg + w.buffer * w.group ≤ v ∧ v < w.vreg + w.buffer * w.group + w.group then some (k, v - w.vreg) else none
    | none => none)

/-- The pans in retention that the refills of the current strips of wells would access: core and pan. -/
def sleepingPans (s : State) (ks : List Nat) : List (Nat × Nat) :=
  ks.flatMap (fun k => match s.ctx.well k with
    | some w => if !w.place then [] else
        ((List.range w.elems).filterMap (fun j => match resolvePlace s w.base (w.offset (w.stripOf w.buffer + j)) 0 with
          | .ok (c, o) => if w.stripOf w.buffer + j < w.count ∧ !panAwake s c (o / 65536) then some (c, o / 65536) else none
          | .error _ => none)).eraseDups
    | none => [])

/-- The refills an instruction needs wait for the exits of the pans they access (R219). -/
def wellsReady (ks : List Nat) (s : State) (k : State → Out) : Out :=
  match sleepingPans s ks with
  | [] => k s
  | l => waitHere (l.foldl (fun s p => rousePan s p.1 p.2) s)

/-- Land the registers of a list that belong to current strips; the first fault ends it, named by register and bit. -/
def landRegisters (s : State) : List Nat → State × Option (Nat × Nat × Exc)
  | [] => (s, none)
  | v :: l =>
    match s.ctx.stripRegister v with
    | none => landRegisters s l
    | some (k, r) =>
      match landRegister s k r with
      | (s1, some (b, e)) => (s1, some (v, b, e))
      | (s1, none) => landRegisters s1 l

/-! ### Advancing (R272) -/

/-- The bits of a group as one number. -/
def groupBits (c : Ctx) (v : Nat) : Nat → Nat
  | 0 => 0
  | n + 1 => (c.getV v).toNat + 2 ^ 4096 * groupBits c (v + 1) n

/-- Write a group from one number. -/
def setGroupBits (c : Ctx) (v : Nat) : Nat → Nat → Ctx
  | 0, _ => c
  | n + 1, x => setGroupBits (c.setV v (BitVec.ofNat 4096 x)) (v + 1) n (x / 2 ^ 4096)

/-- Clear completion bits of registers. -/
def clearCmp (c : Ctx) (w : Well) (rs : List Nat) : Ctx :=
  if w.cmp = 0 then c else c.setP w.cmp (rs.foldl (fun p r => p &&& ~~~BitVec.ofNat 1024 (2 ^ r)) (c.getP w.cmp))

/-- A well consumes its current strip. A slide window whose strip has landed moves down in place and only its last STEP
elements are fetched again; one that has not landed is fetched whole. -/
def advanceWell (read : Bool) (c : Ctx) (k : Nat) : Ctx :=
  match c.well k with
  | none => c
  | some w =>
    let whole := w.current.all (fun r => w.landed.contains r)
    let c1 := clearCmp c w w.current
    let w1 := { w with landed := w.landed.filter (fun r => !w.current.contains r) }
    let w2 := w1.setWord 6 (w.word 6 + BitVec.ofNat 64 w.stripLength)
    if w.kind = 3 then
      if whole then
        (setGroupBits c1 w.vreg w.group (groupBits c1 w.vreg w.group / 2 ^ (w.step * w.sew))).setWell k (some (w2.setWord 7 1))
      else c1.setWell k (some (w2.setWord 7 0))
    else if w.kind = 2 ∧ read then c1.setWell k (some (w2.setWord 7 (w.word 6 + 1)))
    else c1.setWell k (some w2)

/-- The logical position of the first token of the strip last delivered to a reader; the current one before any (R182,
R271). -/
def Well.delivered (w : Well) : Nat := if w.word 7 = 0 then w.pos else (w.word 7 - 1).toNat

/-- Every well of a list advances once. -/
def advanceWells (c : Ctx) (ks : List Nat) : Ctx := ks.foldl (advanceWell true) c

/-! ### The instructions (R269) -/

/-- A well instruction completes: VSTART becomes 0 (R114). -/
def completeQueued (beats : Nat) (s : State) : Out := complete 4 beats { s with ctx := { s.ctx with vstart := 0 } }

/-- The rules of R270 on a descriptor taken by itself. A 2D descriptor with ROWELEMS = 0, of which R270 says nothing, is refused (DESIGN
CHOICE, log entry 70). -/
def Well.descriptorOk (w : Well) : Bool :=
  let g := w.group
  decide (w.kind ≤ 4) && decide (w.vreg % g = 0) && decide (w.sewc ≤ 4) && decide (w.cmp < 24)
    && decide (bits (w.word 0) 63 23 = 0) && decide (bits (w.word 5) 63 48 = 0) && decide (w.word 7 = 0)
    && (if w.kind = 4 then decide (2 ≤ w.nbuf) else decide (w.nbuf = 1))
    && (w.sewc ≠ 0 || (w.kind = 0 && w.stride = 0))
    && !(w.place && w.kind = 2)
    && (w.kind ≠ 1 || w.rowElems ≠ 0)
    && (w.kind ≠ 3 || (decide (1 ≤ w.step) && decide (w.step ≤ w.elems)))
    && (w.kind ≠ 2 || (decide (w.tokenBytes ≠ 0) && decide (w.tokenBytes % 8 = 0) && decide (w.tokenBytes ≤ g * 512)))
    && decide (w.vreg + w.regs ≤ 64)

/-- Whether v56:8 holds generator states: a register of it that is not zero-valid and not of the well's own old group
(R179, R270). -/
def Ctx.randomInUse (c : Ctx) (k : Nat) : Bool :=
  (List.range 8).any (fun i => c.vdmap.getLsbD (56 + i) && !(match c.well k with
    | some w => rangesMeet (56 + i, 1) (w.vreg, w.regs)
    | none => false))

/-- The rules of R270 on a descriptor beside the other wells and v56:8. -/
def Ctx.wellFits (c : Ctx) (k : Nat) (w : Well) : Bool :=
  !((c.setWell k none).boundGroup (w.vreg, w.regs)) && !(rangesMeet (w.vreg, w.regs) (56, 8) && c.randomInUse k)

/-- WBIND. -/
def execWbind (a : BitVec 5) (n : BitVec 3) (s : State) : Out :=
  outsideService s (encWbind a n)
    (let va := s.x a
     addressOk s <| if misalignedAt va 64 then raise s (exc .misaligned 0 va)
     else withRes s (readAs s .vector s.part s.privileged va 64 Need.read true) fun r =>
       let ws := bytesToWords 8 r.1
       let w : Well := ⟨Vector.ofFn (fun i => ws[i.val]?.getD 0), []⟩
       if w.descriptorOk && s.ctx.wellFits n.toNat w then
         let s1 := r.2.publish
         completeQueued 1 { s1 with ctx := s1.ctx.setWell n.toNat (some w) }
       else illegal (encWbind a n) s)

/-- An instruction on a bound well. -/
def onWell (n : BitVec 3) (word : Nat) (s : State) (k : Well → Out) : Out :=
  outsideService s word (match s.ctx.well n.toNat with | some w => k w | none => illegal word s)

/-- WUNB. -/
def execWunb (n : BitVec 3) (s : State) : Out :=
  onWell n (encWunb n) s fun _ => completeQueued 1 { s with ctx := s.ctx.setWell n.toNat none }

/-- Advance by many strips without reading: one step of a landed slide window moves it, more fetch it whole; the buffers of
a ring that are passed are discarded. -/
def skipStrips (c : Ctx) (k m : Nat) : Ctx :=
  match c.well k with
  | none => c
  | some w =>
    if m = 0 then c
    else if m < w.nbuf ∨ m = 1 then (List.range m).foldl (fun c _ => advanceWell false c k) c
    else
      (clearCmp c w (List.range w.regs)).setWell k (some
        (({ w with landed := [] }.setWord 6 (w.word 6 + BitVec.ofNat 64 (m * w.stripLength))).setWord 7
          (if w.kind = 2 then w.word 7 else 0)))

/-- WSKIP. -/
def execWskip (a : BitVec 5) (n : BitVec 3) (s : State) : Out :=
  onWell n (encWskip a n) s fun _ => completeQueued 1 { s with ctx := skipStrips s.ctx n.toNat (s.x a).toNat }

/-- WPOS. -/
def execWpos (d : BitVec 5) (n : BitVec 3) (s : State) : Out :=
  onWell n (encWpos d n) s fun w => completeQueued 1 (s.setX d (w.word 6))

end Sys2Proof.Machine
end

