-- ==== Sys2Proof/Machine/Vector.lean ====
section
/-! DEFINITION. The frame of every vector instruction (R109, R110, R114, R151-R157, R65): elements of groups, activity,
the checks against bound groups, sources through wells, partial execution up to the element group at which a fault or a
suspension ends the instruction, the comparison of the two executions (R17, R160, R161), and completion. -/

namespace Sys2Proof.Machine

/-! ### Elements (R109) -/

/-- Element i of the group at register v, w bits wide. -/
def Ctx.elem (c : Ctx) (v w i : Nat) : Nat :=
  let bit := i * w
  ((c.getV (v + bit / 4096)) >>> (bit % 4096)).toNat % 2 ^ w

/-- Replace w bits of a register at a bit offset. -/
def putBits (r : VReg) (off w x : Nat) : VReg :=
  (r &&& ~~~(BitVec.ofNat 4096 (2 ^ w - 1) <<< off)) ||| (BitVec.ofNat 4096 (x % 2 ^ w) <<< off)

/-- Write element i of the group at register v. -/
def Ctx.setElem (c : Ctx) (v w i x : Nat) : Ctx :=
  let bit := i * w
  c.setV (v + bit / 4096) (putBits (c.getV (v + bit / 4096)) (bit % 4096) w x)

/-- Write bit i of a predicate. -/
def Ctx.setPBit (c : Ctx) (p i : Nat) (b : Bool) : Ctx :=
  let m : PReg := BitVec.ofNat 1024 (2 ^ i)
  c.setP p (if b then c.getP p ||| m else c.getP p &&& ~~~m)

/-! ### The frame -/

/-- A group read: first register, registers, element width, the element its element 0 corresponds to is `skip`; `all`
says that any element may be read. -/
structure Source where
  first : Nat
  count : Nat
  width : Nat
  skip : Nat := 0
  all : Bool := false

/-- What a vector instruction names. `select` marks the two whose predicate selects (R156), `whole` the whole-vector ones
(R157); `unit` is the element group. -/
structure VOp where
  pred : Nat
  pinv : Bool
  sources : List Source
  dests : List (Nat × Nat)
  pdest : Nat := 0
  unit : Nat := 8
  select : Bool := false
  whole : Bool := false

/-- Governing bit of element i (R152). -/
def Ctx.governs (c : Ctx) (o : VOp) (i : Nat) : Bool := (c.getP o.pred).getLsbD i != o.pinv

/-- First element to execute (R114, R157). -/
def Ctx.firstElem (c : Ctx) (o : VOp) : Nat := if o.whole && decide (c.vstart.toNat < c.vl.toNat) then 0 else c.vstart.toNat

/-- Active: from the first element to VL - 1 with its governing bit set (R152). -/
def Ctx.active (c : Ctx) (o : VOp) (i : Nat) : Bool :=
  decide (c.firstElem o ≤ i) && decide (i < c.vl.toNat) && c.governs o i

/-- Some element executes (R114, R156). -/
def Ctx.anyActive (c : Ctx) (o : VOp) : Bool :=
  if o.select then decide (c.firstElem o < c.vl.toNat) else (List.range c.vl.toNat).any (c.active o)

/-- Registers of a source that elements lo to hi - 1 read. -/
def Source.registers (r : Source) (lo hi : Nat) : List Nat :=
  if r.all then (List.range r.count).map (fun k => r.first + k)
  else
    let a := (r.skip + lo) * r.width / 4096
    let b := (r.skip + hi - 1) * r.width / 4096
    (List.range (b + 1 - a)).map (fun k => r.first + a + k)

/-- The element group at which a fault at a bit of a register stops an instruction that ends at element hi: the group that reads
the bit, or the last one where the bit lies beyond its elements. A group that begins at a VSTART that is no multiple of 8, as
software may write it, stops there (DESIGN CHOICE, log entry 40). -/
def Source.boundary (r : Source) (o : VOp) (lo hi v bit : Nat) : Nat :=
  if r.all || o.whole then lo
  else max lo (min (((v - r.first) * 4096 + bit) / r.width - r.skip) (hi - 1) / o.unit * o.unit)

/-- Land what the sources read from wells; the earliest element group at which a refill faults, with its cause (R272). -/
def landSources (o : VOp) (lo hi : Nat) : List Source → State → State × Option (Nat × Exc)
  | [], s => (s, none)
  | r :: l, s =>
    let a := landRegisters s (r.registers lo hi)
    let b := landSources o lo hi l a.1
    (b.1, match a.2, b.2 with
      | none, y => y
      | some (v, bit, e), none => some (r.boundary o lo hi v bit, e)
      | some (v, bit, e), some (n, f) => if r.boundary o lo hi v bit ≤ n then some (r.boundary o lo hi v bit, e) else some (n, f))

/-- Whether a destination is bound to a well (R155, R272). -/
def Ctx.destBound (c : Ctx) (o : VOp) : Bool := o.dests.any c.boundGroup || c.boundPred o.pdest

/-- What executing elements lo to hi - 1 does. -/
abbrev Body := Nat → Nat → Ctx → Ctx × Flags

/-- A vector instruction of any length completes: flags, VSTART, the wells it read (R99, R114, R272), its charge (R65). -/
def vectorDone (wells : List Nat) (beats : Nat) (r : Ctx × Flags) (s : State) : Out :=
  complete 4 beats { s with ctx := advanceWells { r.1.raise r.2 with vstart := 0 } wells }

/-- It stops at element group b of a range from lo: the groups before it stay committed (R122, R114, R65). -/
def vectorStop (b lo : Nat) (r : Ctx × Flags) (e : Exc) (s : State) : Out :=
  raise ({ s with ctx := { r.1.raise r.2 with vstart := BitVec.ofNat 11 b } }.charge ((b - lo) * s.ctx.group)) e

/-- It ends at group b for a suspension that falls due inside it: it goes on there when its task is resumed (R49, R114, R157). -/
def vectorSuspend (b lo : Nat) (r : Ctx × Flags) (s : State) : Out :=
  .next ({ s with ctx := { r.1.raise r.2 with vstart := BitVec.ofNat 11 b }, cut := .ended }.charge ((b - lo) * s.ctx.group))

/-- Where an instruction ends whose elements are lo to vl - 1 in groups of `unit`: at vl, or where a suspension falls due after a
number of further groups (R49, R157, R189). -/
def State.lastElem (s : State) (unit lo vl : Nat) : Nat :=
  match s.cut with
  | .after k => min vl ((lo / unit + 1 + k) * unit)
  | _ => vl

/-- Whether the running task's launch has switched shadow execution off (R53, R161). -/
def State.unshadowed (s : State) : Bool :=
  !s.inService && (match s.launchOf s.taskKey.1 with | some l => l.noShadow | none => false)

/-- The comparison of the two executions of groups lo to hi - 1 (R160). A group that mismatches executes again, at most twice, and
each such execution is counted on the die; the answer is the group whose mismatch remains. A whole-vector instruction is one group
(R157). -/
def shadowCheck (o : VOp) (lo hi : Nat) (s : State) : State × Option Nat :=
  match s.strike .compute with
  | none => (s, none)
  | some x =>
    let b := if o.whole then lo else max lo ((lo / o.unit + x.place) * o.unit)
    if s.unshadowed ∨ hi ≤ b then (s, none)
    else
      let n := min x.times 2
      ((countErrors (s.met x) (dieOf s.cur) 0x10 n).count 7 n, if x.times ≤ 2 then none else some b)

/-- Elements lo to top - 1 execute; then the instruction takes a cause, ends for a suspension, or is complete. -/
def runTo (body : Body) (wells : List Nat) (lo top : Nat) (stop : Option Exc) (s : State) : Out :=
  let r := if top ≤ lo then (s.ctx, Flags.none) else body lo top s.ctx
  match stop with
  | some e => vectorStop top lo r e s
  | none => if top < s.ctx.vl.toNat then vectorSuspend top lo r s else vectorDone wells ((top - lo) * s.ctx.group) r s

/-- THE FRAME of a vector instruction whose entry checks have passed. One without an active element is charged 1, also where
VL = 0 or VSTART is at or past VL, for which the products of R65 give 0 (DESIGN CHOICE, log entry 41: it takes an issue cycle), and
advances no well that its sources name, of which R156 and R272 say nothing (DESIGN CHOICE, log entry 69). -/
def runVector (o : VOp) (body : Body) (s : State) : Out :=
  if s.ctx.destBound o then raise s (exc .boundRegisterAccess 0 0)
  else if !s.ctx.anyActive o then vectorDone [] 1 (s.ctx, Flags.none) s
  else
    let lo := s.ctx.firstElem o
    let hi := if o.whole then s.ctx.vl.toNat else s.lastElem o.unit lo s.ctx.vl.toNat
    let wells := s.ctx.wellsRead (o.sources.map (fun r => (r.first, r.count)))
    wellsReady wells s fun s =>
      let f := landSources o lo hi o.sources s
      let c := shadowCheck o lo (match f.2 with | some (b, _) => b | none => hi) f.1
      match c.2, f.2 with
      | some b, _ => runTo body wells lo b (some (exc .shadowMismatch 0 0)) c.1
      | none, some (b, e) => runTo body wells lo b (some e) c.1
      | none, none => runTo body wells lo hi none c.1

/-- Apply a function to the active elements from i, in order. -/
def elemLoop (act : Nat → Bool) (f : Nat → Ctx × Flags → Ctx × Flags) : Nat → Nat → Ctx × Flags → Ctx × Flags
  | _, 0, r => r
  | i, n + 1, r => elemLoop act f (i + 1) n (if act i then f i r else r)

/-- Write f i to every active element i of a group (vd[i] := ...): operands are read before any element is written. -/
def writeActive (o : VOp) (d w : Nat) (f : Ctx → Nat → Nat × Flags) : Body := fun lo hi c =>
  elemLoop (c.active o) (fun i r => (r.1.setElem d w i (f c i).1, r.2.union (f c i).2)) lo (hi - lo) (c, Flags.none)

/-! ### Entry checks shared by the formats -/

/-- pred and pinv (R75) name a predicate the context has. -/
def maskOk (s : State) (p : BitVec 5) (n : BitVec 1) : Bool := predOk p n && predHere s p.toNat

/-- The classes of R153. -/
def Ctx.isInt (c : Ctx) : Bool := decide (c.fmt ≤ 1)
def Ctx.isFloat (c : Ctx) : Bool := decide (c.fmt = 2) || decide (c.fmt = 3)
/-- Sign reading of the integer instructions (R162). -/
def Ctx.signed (c : Ctx) : Bool := decide (c.fmt = 0)
/-- The element format of a floating instruction. -/
def Ctx.format (c : Ctx) : FloatFormat := floatFormat c.fmt c.sew

/-- Groups of size G share no register (R154). -/
def disjointGroups (a b : Nat × Nat) : Bool := !rangesMeet a b

/-- A source of size G at SEW. -/
def Ctx.source (c : Ctx) (a : BitVec 6) : Source := ⟨a.toNat, c.group, c.sew, 0, false⟩
/-- A source of size G any element of which may be read. -/
def Ctx.table (c : Ctx) (a : BitVec 6) : Source := ⟨a.toNat, c.group, c.sew, 0, true⟩
/-- A destination of size G. -/
def Ctx.dest (c : Ctx) (d : BitVec 6) : Nat × Nat := (d.toNat, c.group)

/-- An elementwise instruction with sources of size G and one destination group. -/
def elementwise (ok : Bool) (d : BitVec 6) (srcs : List (BitVec 6)) (n : BitVec 1) (p : BitVec 5) (word : Nat)
    (f : Ctx → Nat → Nat × Flags) (s : State) : Out :=
  let c := s.ctx
  whenOk (maskOk s p n && ok && groupHere s d c.group && srcs.all (fun a => groupHere s a c.group)) word s
    (let o : VOp := { pred := p.toNat, pinv := n = 1, sources := srcs.map c.source, dests := [c.dest d] }
     runVector o (writeActive o d.toNat c.sew f) s)

end Sys2Proof.Machine
end

