-- ==== Sys2Proof/Machine/VectorArith.lean ====
section
/-! DEFINITION. vset (R158), the integer and floating-point arithmetic of format VV (R162, R163) and the forms with a
scalar operand (R164). -/

namespace Sys2Proof.Machine

/-! ### vset (R158) -/

/-- The type and length vset establishes; sd receives VL. VL and VTY of a gang are the leader's (R29). -/
def setType (d : BitVec 5) (f : BitVec 4) (g : BitVec 2) (w : BitVec 3) (req : Nat) (s : State) : Out :=
  let vl := match s.headStep with
    | some st => st.vlNext
    | none => BitVec.ofNat 11 (min req (vlmaxOf (4 * 2 ^ w.toNat) (2 ^ g.toNat)))
  let vty := match s.headStep with | some st => st.vtyNext | none => vtyOf f g w
  complete 4 1 ({ s with ctx := { s.ctx with vty := vty, vl := vl } }.setX d (vl.zeroExtend 64))

def execVset (d a : BitVec 5) (f : BitVec 4) (g : BitVec 2) (sc : BitVec 3) (s : State) : Out :=
  whenOk (vtypeOk f sc) (encVset d a f g sc) s (setType d f g sc (s.x a).toNat s)
def execVsetKeep (d : BitVec 5) (f : BitVec 4) (g : BitVec 2) (sc : BitVec 3) (s : State) : Out :=
  whenOk (vtypeOk f sc) (encVsetKeep d f g sc) s (setType d f g sc s.ctx.vl.toNat s)

/-! ### Integer arithmetic (R162) -/

/-- The operations of R162. -/
inductive IntOp where
  | add | sub | mul | mulh | macc | min | max | and | or | xor | shl | shr | sar | adds | subs
deriving DecidableEq, Repr

/-- An integer code under the sign reading. -/
def readInt (signed : Bool) (n a : Nat) : Int := if signed then sext a n else ((a % 2 ^ n : Nat) : Int)

/-- vd[i] from a, b and the old d, n bits wide (R162). -/
def intResult (op : IntOp) (signed : Bool) (n a b d : Nat) : Nat :=
  let x := readInt signed n a
  let y := readInt signed n b
  match op with
  | .add => intCode n (a + b : Nat)
  | .sub => intCode n ((a : Int) - b)
  | .mul => intCode n (a * b : Nat)
  | .mulh => intCode n (x * y / (2 : Int) ^ n)
  | .macc => intCode n (d + a * b : Nat)
  | .min => if x ≤ y then a else b
  | .max => if x ≤ y then b else a
  | .and => a &&& b
  | .or => a ||| b
  | .xor => a ^^^ b
  | .shl => intCode n (a * 2 ^ (b % n) : Nat)
  | .shr => a / 2 ^ (b % n)
  | .sar => intCode n (sext a n / (2 : Int) ^ (b % n))
  | .adds => intCode n (saturate signed n (x + y))
  | .subs => intCode n (saturate signed n (x - y))

/-- An integer instruction of format VV. -/
def intBinary (op : IntOp) (d a b : BitVec 6) (n : BitVec 1) (p : BitVec 5) (word : Nat) (s : State) : Out :=
  let w := s.ctx.sew
  elementwise s.ctx.isInt d [d, a, b] n p word (fun c i =>
    (intResult op s.ctx.signed w (c.elem a.toNat w i) (c.elem b.toNat w i) (c.elem d.toNat w i), Flags.none)) s

def execVadd (d a b : BitVec 6) (n : BitVec 1) (p : BitVec 5) (s : State) : Out := intBinary .add d a b n p (encVadd d a b n p) s
def execVsub (d a b : BitVec 6) (n : BitVec 1) (p : BitVec 5) (s : State) : Out := intBinary .sub d a b n p (encVsub d a b n p) s
def execVmul (d a b : BitVec 6) (n : BitVec 1) (p : BitVec 5) (s : State) : Out := intBinary .mul d a b n p (encVmul d a b n p) s
def execVmulh (d a b : BitVec 6) (n : BitVec 1) (p : BitVec 5) (s : State) : Out := intBinary .mulh d a b n p (encVmulh d a b n p) s
def execVmacc (d a b : BitVec 6) (n : BitVec 1) (p : BitVec 5) (s : State) : Out := intBinary .macc d a b n p (encVmacc d a b n p) s
def execVmin (d a b : BitVec 6) (n : BitVec 1) (p : BitVec 5) (s : State) : Out := intBinary .min d a b n p (encVmin d a b n p) s
def execVmax (d a b : BitVec 6) (n : BitVec 1) (p : BitVec 5) (s : State) : Out := intBinary .max d a b n p (encVmax d a b n p) s
def execVand (d a b : BitVec 6) (n : BitVec 1) (p : BitVec 5) (s : State) : Out := intBinary .and d a b n p (encVand d a b n p) s
def execVor (d a b : BitVec 6) (n : BitVec 1) (p : BitVec 5) (s : State) : Out := intBinary .or d a b n p (encVor d a b n p) s
def execVxor (d a b : BitVec 6) (n : BitVec 1) (p : BitVec 5) (s : State) : Out := intBinary .xor d a b n p (encVxor d a b n p) s
def execVshl (d a b : BitVec 6) (n : BitVec 1) (p : BitVec 5) (s : State) : Out := intBinary .shl d a b n p (encVshl d a b n p) s
def execVshr (d a b : BitVec 6) (n : BitVec 1) (p : BitVec 5) (s : State) : Out := intBinary .shr d a b n p (encVshr d a b n p) s
def execVsar (d a b : BitVec 6) (n : BitVec 1) (p : BitVec 5) (s : State) : Out := intBinary .sar d a b n p (encVsar d a b n p) s
def execVadds (d a b : BitVec 6) (n : BitVec 1) (p : BitVec 5) (s : State) : Out := intBinary .adds d a b n p (encVadds d a b n p) s
def execVsubs (d a b : BitVec 6) (n : BitVec 1) (p : BitVec 5) (s : State) : Out := intBinary .subs d a b n p (encVsubs d a b n p) s

/-! ### Floating-point arithmetic (R163) -/

/-- The operations of R163. -/
inductive FloatOp where
  | add | sub | mul | ma | ms | nma | min | max | div
deriving DecidableEq, Repr

/-- The exact value, with flags raised before the rounding (R101, R163). -/
def floatExact (op : FloatOp) (mode : RMode) (a b d : FVal) : FVal × Flags :=
  match op with
  | .add => addVal mode a b
  | .sub => addVal mode a b.negate
  | .mul => mulVal a b
  | .ma => fmaVal mode a b d
  | .ms => fmaVal mode a b d.negate
  | .nma => let r := fmaVal mode a b d; (r.1.negate, r.2)
  | .min => minVal a b
  | .max => maxVal a b
  | .div => divVal a b

/-- Result code and flags of an operation on codes. -/
def floatResult (op : FloatOp) (f : FloatFormat) (frm : BitVec 3) (a b d : Nat) : Nat × Flags :=
  f.finish (rmodeOf frm) (floatExact op (rmodeOf frm) (f.val a) (f.val b) (f.val d))

/-- A floating-point instruction of format VV. -/
def floatBinary (op : FloatOp) (d a b : BitVec 6) (n : BitVec 1) (p : BitVec 5) (word : Nat) (s : State) : Out :=
  let w := s.ctx.sew
  elementwise s.ctx.isFloat d [d, a, b] n p word (fun c i =>
    floatResult op s.ctx.format s.ctx.frm (c.elem a.toNat w i) (c.elem b.toNat w i) (c.elem d.toNat w i)) s

def execVfadd (d a b : BitVec 6) (n : BitVec 1) (p : BitVec 5) (s : State) : Out := floatBinary .add d a b n p (encVfadd d a b n p) s
def execVfsub (d a b : BitVec 6) (n : BitVec 1) (p : BitVec 5) (s : State) : Out := floatBinary .sub d a b n p (encVfsub d a b n p) s
def execVfmul (d a b : BitVec 6) (n : BitVec 1) (p : BitVec 5) (s : State) : Out := floatBinary .mul d a b n p (encVfmul d a b n p) s
def execVfma (d a b : BitVec 6) (n : BitVec 1) (p : BitVec 5) (s : State) : Out := floatBinary .ma d a b n p (encVfma d a b n p) s
def execVfms (d a b : BitVec 6) (n : BitVec 1) (p : BitVec 5) (s : State) : Out := floatBinary .ms d a b n p (encVfms d a b n p) s
def execVfnma (d a b : BitVec 6) (n : BitVec 1) (p : BitVec 5) (s : State) : Out := floatBinary .nma d a b n p (encVfnma d a b n p) s
def execVfmin (d a b : BitVec 6) (n : BitVec 1) (p : BitVec 5) (s : State) : Out := floatBinary .min d a b n p (encVfmin d a b n p) s
def execVfmax (d a b : BitVec 6) (n : BitVec 1) (p : BitVec 5) (s : State) : Out := floatBinary .max d a b n p (encVfmax d a b n p) s
def execVfdiv (d a b : BitVec 6) (n : BitVec 1) (p : BitVec 5) (s : State) : Out := floatBinary .div d a b n p (encVfdiv d a b n p) s

/-! ### Scalar operands (R164) -/

/-- The scalar value of an order, formed once at entry, with the flags of an order 1 rounding (R164). -/
def scalarOperand (c : Ctx) (order : BitVec 1) (w : Word) : Nat × Flags :=
  if order = 0 then (w.toNat % 2 ^ c.sew, Flags.none)
  else if c.fmt = 0 then (intCode c.sew (saturate true c.sew w.toInt), Flags.none)
  else if c.fmt = 1 then (intCode c.sew (saturate false c.sew w.toNat), Flags.none)
  else c.format.ofVal (rmodeOf c.frm) (fmtF64.val w.toNat)

/-- Add flags to the first committed group. -/
def withFlags (f : Flags) (b : Body) : Body := fun lo hi c => let r := b lo hi c; (r.1, f.union r.2)

/-- An elementwise instruction of format VS. -/
def scalarForm (ok : Bool) (d a : BitVec 6) (ss : BitVec 5) (order : BitVec 1) (n : BitVec 1) (p : BitVec 5) (word : Nat)
    (f : Ctx → Nat → Nat → Nat × Flags) (s : State) : Out :=
  let c := s.ctx
  let v := scalarOperand c order (s.x ss)
  whenOk (maskOk s p n && ok && groupHere s d c.group && groupHere s a c.group) word s
    (let o : VOp := { pred := p.toNat, pinv := n = 1, sources := [c.source d, c.source a], dests := [c.dest d] }
     runVector o (withFlags v.2 (writeActive o d.toNat c.sew (fun c i => f c i v.1))) s)

/-- The integer and floating-point forms with a scalar for b. -/
def intScalar (op : IntOp) (d a : BitVec 6) (ss : BitVec 5) (o : BitVec 1) (n : BitVec 1) (p : BitVec 5) (word : Nat) (s : State) : Out :=
  let w := s.ctx.sew
  scalarForm s.ctx.isInt d a ss o n p word (fun c i b =>
    (intResult op s.ctx.signed w (c.elem a.toNat w i) b (c.elem d.toNat w i), Flags.none)) s
def floatScalar (op : FloatOp) (d a : BitVec 6) (ss : BitVec 5) (o : BitVec 1) (n : BitVec 1) (p : BitVec 5) (word : Nat) (s : State) : Out :=
  let w := s.ctx.sew
  scalarForm s.ctx.isFloat d a ss o n p word (fun c i b =>
    floatResult op s.ctx.format s.ctx.frm (c.elem a.toNat w i) b (c.elem d.toNat w i)) s

def execVaddVs (d a : BitVec 6) (sc : BitVec 5) (o n : BitVec 1) (p : BitVec 5) (s : State) : Out := intScalar .add d a sc o n p (encVaddVs d a sc o n p) s
def execVmulVs (d a : BitVec 6) (sc : BitVec 5) (o n : BitVec 1) (p : BitVec 5) (s : State) : Out := intScalar .mul d a sc o n p (encVmulVs d a sc o n p) s
def execVfaddVs (d a : BitVec 6) (sc : BitVec 5) (o n : BitVec 1) (p : BitVec 5) (s : State) : Out := floatScalar .add d a sc o n p (encVfaddVs d a sc o n p) s
def execVfmulVs (d a : BitVec 6) (sc : BitVec 5) (o n : BitVec 1) (p : BitVec 5) (s : State) : Out := floatScalar .mul d a sc o n p (encVfmulVs d a sc o n p) s
def execVfmaVs (d a : BitVec 6) (sc : BitVec 5) (o n : BitVec 1) (p : BitVec 5) (s : State) : Out := floatScalar .ma d a sc o n p (encVfmaVs d a sc o n p) s

end Sys2Proof.Machine
end

