-- ==== Sys2Proof/Machine/VectorUnary.lean ====
section
/-! DEFINITION. The unary functions (R165), the conversions (R166, R167, R98) and the nibble instructions (R168). -/

namespace Sys2Proof.Machine

/-! ### Unary functions (R165) -/

/-- An elementwise function of one source. -/
def unary (ok : Bool) (d a : BitVec 6) (n : BitVec 1) (p : BitVec 5) (word : Nat) (f : Nat → Nat × Flags) (s : State) : Out :=
  let w := s.ctx.sew
  elementwise ok d [a] n p word (fun c i => f (c.elem a.toNat w i)) s

/-- An integer function: no flag. -/
def unaryInt (f : Nat → Nat) (d a : BitVec 6) (n : BitVec 1) (p : BitVec 5) (word : Nat) (s : State) : Out :=
  unary s.ctx.isInt d a n p word (fun x => (f x, Flags.none)) s

/-- A floating-point function of a value, rounded once. -/
def unaryFloat (f : FVal → FVal × Flags) (d a : BitVec 6) (n : BitVec 1) (p : BitVec 5) (word : Nat) (s : State) : Out :=
  let fm := s.ctx.format
  unary s.ctx.isFloat d a n p word (fun x => fm.finish (rmodeOf s.ctx.frm) (f (fm.val x))) s

/-- A transcendental function of a code. -/
def unaryCode (f : FloatFormat → RMode → Nat → Nat × Flags) (d a : BitVec 6) (n : BitVec 1) (p : BitVec 5) (word : Nat) (s : State) : Out :=
  unary s.ctx.isFloat d a n p word (f s.ctx.format (rmodeOf s.ctx.frm)) s

/-- Leading zeros of an n-bit code; n for zero. -/
def leadingZerosOf (n x : Nat) : Nat := if x = 0 then n else n - 1 - Nat.log2 x
/-- Number of 1 bits of an n-bit code. -/
def onesOf (n x : Nat) : Nat := ((List.range n).filter (fun i => x.testBit i)).length

def execVmov (d a : BitVec 6) (n : BitVec 1) (p : BitVec 5) (s : State) : Out :=
  unary true d a n p (encVmov d a n p) (fun x => (x, Flags.none)) s
def execVabs (d a : BitVec 6) (n : BitVec 1) (p : BitVec 5) (s : State) : Out :=
  unaryInt (fun x => if s.ctx.signed then intCode s.ctx.sew (sext x s.ctx.sew).natAbs else x) d a n p (encVabs d a n p) s
def execVneg (d a : BitVec 6) (n : BitVec 1) (p : BitVec 5) (s : State) : Out :=
  unaryInt (fun x => intCode s.ctx.sew (-(x : Int))) d a n p (encVneg d a n p) s
def execVnot (d a : BitVec 6) (n : BitVec 1) (p : BitVec 5) (s : State) : Out :=
  unaryInt (fun x => 2 ^ s.ctx.sew - 1 - x) d a n p (encVnot d a n p) s
def execVclz (d a : BitVec 6) (n : BitVec 1) (p : BitVec 5) (s : State) : Out :=
  unaryInt (leadingZerosOf s.ctx.sew) d a n p (encVclz d a n p) s
def execVpopc (d a : BitVec 6) (n : BitVec 1) (p : BitVec 5) (s : State) : Out :=
  unaryInt (onesOf s.ctx.sew) d a n p (encVpopc d a n p) s
def execVfabs (d a : BitVec 6) (n : BitVec 1) (p : BitVec 5) (s : State) : Out :=
  unaryFloat absVal d a n p (encVfabs d a n p) s
def execVfneg (d a : BitVec 6) (n : BitVec 1) (p : BitVec 5) (s : State) : Out :=
  unaryFloat negVal d a n p (encVfneg d a n p) s
def execVfsqrt (d a : BitVec 6) (n : BitVec 1) (p : BitVec 5) (s : State) : Out :=
  unaryFloat sqrtVal d a n p (encVfsqrt d a n p) s
def execVfrsq (d a : BitVec 6) (n : BitVec 1) (p : BitVec 5) (s : State) : Out :=
  unaryFloat rsqrtVal d a n p (encVfrsq d a n p) s
def execVfrcp (d a : BitVec 6) (n : BitVec 1) (p : BitVec 5) (s : State) : Out :=
  unaryFloat (divVal (.num false 1 0)) d a n p (encVfrcp d a n p) s
def execVfexp2 (d a : BitVec 6) (n : BitVec 1) (p : BitVec 5) (s : State) : Out :=
  unaryCode FloatFormat.exp2 d a n p (encVfexp2 d a n p) s
def execVflog2 (d a : BitVec 6) (n : BitVec 1) (p : BitVec 5) (s : State) : Out :=
  unaryCode FloatFormat.log2 d a n p (encVflog2 d a n p) s
def execVftanh (d a : BitVec 6) (n : BitVec 1) (p : BitVec 5) (s : State) : Out :=
  unaryCode FloatFormat.tanh d a n p (encVftanh d a n p) s
def execVfclass (d a : BitVec 6) (n : BitVec 1) (p : BitVec 5) (s : State) : Out :=
  unary s.ctx.isFloat d a n p (encVfclass d a n p) (fun x => (2 ^ s.ctx.format.classBit x, Flags.none)) s

/-! ### Nibbles (R168) -/

/-- A nibble instruction: SEW 8, FMT 0 or 1, disjoint groups (R153, R154). -/
def nibble (d a : BitVec 6) (n : BitVec 1) (p : BitVec 5) (word : Nat) (src : Source) (dw : Nat) (f : Ctx → Nat → Nat) (s : State) : Out :=
  let c := s.ctx
  whenOk (maskOk s p n && c.isInt && decide (c.sew = 8) && groupHere s d c.group && groupHere s a c.group
      && disjointGroups (c.dest d) (c.dest a)) word s
    (let o : VOp := { pred := p.toNat, pinv := n = 1, sources := [src], dests := [c.dest d] }
     runVector o (writeActive o d.toNat dw (fun c i => (f c i, Flags.none))) s)

/-- A nibble extended to 8 bits by the format. -/
def extendNibble (signed : Bool) (x : Nat) : Nat := intCode 8 (readInt signed 4 x)

def execVunpk4Lo (d a : BitVec 6) (n : BitVec 1) (p : BitVec 5) (s : State) : Out :=
  nibble d a n p (encVunpk4Lo d a n p) ⟨a.toNat, s.ctx.group, 4, 0, false⟩ 8
    (fun c i => extendNibble s.ctx.signed (c.elem a.toNat 4 i)) s
def execVunpk4Hi (d a : BitVec 6) (n : BitVec 1) (p : BitVec 5) (s : State) : Out :=
  nibble d a n p (encVunpk4Hi d a n p) ⟨a.toNat, s.ctx.group, 4, s.ctx.vl.toNat, false⟩ 8
    (fun c i => extendNibble s.ctx.signed (c.elem a.toNat 4 (s.ctx.vl.toNat + i))) s
def execVpack4 (d a : BitVec 6) (n : BitVec 1) (p : BitVec 5) (s : State) : Out :=
  nibble d a n p (encVpack4 d a n p) (s.ctx.source a) 4
    (fun c i => intCode 4 (saturate s.ctx.signed 4 (readInt s.ctx.signed 8 (c.elem a.toNat 8 i)))) s

/-! ### Conversions (R166) -/

/-- A source format of a conversion: its width, and its sign reading or its floating format. -/
inductive ConvSource where
  | int (signed : Bool) (width : Nat)
  | float (f : FloatFormat)
deriving DecidableEq, Repr

def ConvSource.width : ConvSource → Nat
  | .int _ w => w
  | .float f => f.width
/-- The value of a source code. -/
def ConvSource.value : ConvSource → Nat → FVal
  | .int sg w, x => intVal (readInt sg w x)
  | .float f, x => f.val x

/-- Whether every value of a format is a value of another (R98). -/
def formatWithin (a b : FloatFormat) : Bool :=
  decide (a.man ≤ b.man) && decide (b.unit ≤ a.unit)
    && decide (a.unit + a.maxCode / 2 ^ a.man + a.man ≤ b.unit + b.maxCode / 2 ^ b.man + b.man)
    && (!a.hasInf || b.hasInf) && (!a.hasNan || b.hasNan)

/-- Whether every value of an integer format is a value of another: signedness and width (R98). -/
def integerWithin (signed : Bool) (w : Nat) (signed' : Bool) (w' : Nat) : Bool :=
  if signed then signed' && decide (w ≤ w') else if signed' then decide (w < w') else decide (w ≤ w')

/-- A narrowing conversion in the sense of R98, into elements of FMT and a width: a block format, an integer from a float, or a format
whose values are a subset of the source's. -/
def narrowing (x : ConvSource) (fmt w : Nat) (f : FloatFormat) : Bool :=
  if 7 ≤ fmt then true
  else match x with
    | .int sg n => decide (fmt ≤ 1) && integerWithin (decide (fmt = 0)) w sg n
    | .float g => if fmt ≤ 1 then true else formatWithin f g

/-- One element converted into a format that is no block format (R166, R91, R101). -/
def convertElement (x : ConvSource) (fmt w : Nat) (f : FloatFormat) (mode : RMode) (code : Nat) : Nat × Flags :=
  match x with
  | .int sg n =>
    if fmt ≤ 1 then (intCode w (saturate (fmt = 0) w (readInt sg n code)), Flags.none)
    else f.ofVal mode (x.value code)
  | .float g => if fmt ≤ 1 then toInteger mode (fmt = 0) w (g.val code) else f.ofVal mode (g.val code)

/-- The generator state of element i after a step, held in v56:8 (R179). -/
def nextRandom (c : Ctx) (i : Nat) : BitVec 32 := vrandStep (BitVec.ofNat 32 (c.elem 56 32 i))

/-- Step the generators of the active elements. -/
def stepRandom (o : VOp) (lo hi : Nat) (c : Ctx) : Ctx :=
  (elemLoop (c.active o) (fun i r => (r.1.setElem 56 32 i (nextRandom c i).toNat, r.2)) lo (hi - lo) (c, Flags.none)).1

/-- A conversion into codes 0 to 6. -/
def convertPlain (o : VOp) (d a : Nat) (x : ConvSource) (draws : Bool) : Body := fun lo hi c =>
  let r := writeActive o d c.sew (fun c i =>
    convertElement x c.fmt c.sew c.format (convMode c.frm draws (vrandDraw (nextRandom c i))) (c.elem a x.width i)) lo hi c
  if draws then (stepRandom o lo hi r.1, r.2) else r

/-- Elements of block j that lie from lo to hi - 1. -/
def blockSpan (lo hi j : Nat) : List Nat := (List.range 32).filterMap (fun k => if lo ≤ 32 * j + k ∧ 32 * j + k < hi then some (32 * j + k) else none)

/-- Convert block j of a range and write its codes and its scale byte (R104, R105, R167). -/
def convertBlock (o : VOp) (d a scale : Nat) (x : ConvSource) (draws : Bool) (lo hi : Nat) (c : Ctx) (j : Nat) (r : Ctx × Flags) :
    Ctx × Flags :=
  let is := blockSpan lo hi j
  let b := toBlock c.fmt (is.map (fun i =>
    if c.active o i then some (x.value (c.elem a x.width i), convMode c.frm draws (vrandDraw (nextRandom c i))) else none))
  let c1 := (is.zip b.codes).foldl (fun c e => c.setElem d c.sew e.1 e.2) r.1
  (c1.setElem scale 8 j b.scale, r.2.union b.flags)

/-- A conversion into codes 7 to 10. A scale register inside v56 to v63 of a conversion that draws takes its byte after the draws of the
block, and the generators step last (DESIGN CHOICE, log entry 56: R167 forbids only vd and vs1 there). -/
def convertBlocks (o : VOp) (d a scale : Nat) (x : ConvSource) (draws : Bool) : Body := fun lo hi c =>
  let first := lo / 32
  let r := elemLoop (fun _ => true) (convertBlock o d a scale x draws lo hi c) first ((hi + 31) / 32 - first) (c, Flags.none)
  if draws then (stepRandom o lo hi r.1, r.2) else r

/-- Registers of the source group of a conversion. -/
def convGroup (c : Ctx) (x : ConvSource) : Nat := max 1 (c.group * x.width / c.sew)

/-- vcvt (R166, R167). -/
def convert (x : ConvSource) (d a : BitVec 6) (n : BitVec 1) (p : BitVec 5) (word : Nat) (s : State) : Out :=
  let c := s.ctx
  let gs := convGroup c x
  let src := (a.toNat, gs)
  let dst := c.dest d
  let sr := decide (c.frm = 5)
  let block := decide (7 ≤ c.fmt)
  let ox := c.getOx 0
  let scale := bits ox 5 0
  whenOk (maskOk s p n && decide (gs ≤ 8) && groupHere s d c.group && groupHere s a gs
      && ((decide (d = a) && decide (gs = c.group)) || disjointGroups dst src)
      && !(sr && (rangesMeet dst (56, 8) || rangesMeet src (56, 8)))
      && (!(sr && narrowing x c.fmt c.sew c.format) || vecHere s 63)
      && !(block && (!s.hasOx || decide (bits ox 63 6 ≠ 0) || rangesMeet dst (scale, 1) || rangesMeet src (scale, 1)))) word s
    (let draws := sr && narrowing x c.fmt c.sew c.format
     let o : VOp := { pred := p.toNat, pinv := n = 1, sources := [⟨a.toNat, gs, x.width, 0, false⟩],
                      dests := dst :: (if block then [(scale, 1)] else []) ++ (if draws then [(56, 8)] else []),
                      unit := if block then 32 else 8 }
     runVector o (if block then convertBlocks o d.toNat a.toNat scale x draws else convertPlain o d.toNat a.toNat x draws) s)

def execVcvtI8 (d a : BitVec 6) (n : BitVec 1) (p : BitVec 5) (s : State) : Out := convert (.int true 8) d a n p (encVcvtI8 d a n p) s
def execVcvtN8 (d a : BitVec 6) (n : BitVec 1) (p : BitVec 5) (s : State) : Out := convert (.int false 8) d a n p (encVcvtN8 d a n p) s
def execVcvtI16 (d a : BitVec 6) (n : BitVec 1) (p : BitVec 5) (s : State) : Out := convert (.int true 16) d a n p (encVcvtI16 d a n p) s
def execVcvtN16 (d a : BitVec 6) (n : BitVec 1) (p : BitVec 5) (s : State) : Out := convert (.int false 16) d a n p (encVcvtN16 d a n p) s
def execVcvtI32 (d a : BitVec 6) (n : BitVec 1) (p : BitVec 5) (s : State) : Out := convert (.int true 32) d a n p (encVcvtI32 d a n p) s
def execVcvtN32 (d a : BitVec 6) (n : BitVec 1) (p : BitVec 5) (s : State) : Out := convert (.int false 32) d a n p (encVcvtN32 d a n p) s
def execVcvtI64 (d a : BitVec 6) (n : BitVec 1) (p : BitVec 5) (s : State) : Out := convert (.int true 64) d a n p (encVcvtI64 d a n p) s
def execVcvtF64 (d a : BitVec 6) (n : BitVec 1) (p : BitVec 5) (s : State) : Out := convert (.float fmtF64) d a n p (encVcvtF64 d a n p) s
def execVcvtF32 (d a : BitVec 6) (n : BitVec 1) (p : BitVec 5) (s : State) : Out := convert (.float fmtF32) d a n p (encVcvtF32 d a n p) s
def execVcvtF16 (d a : BitVec 6) (n : BitVec 1) (p : BitVec 5) (s : State) : Out := convert (.float fmtF16) d a n p (encVcvtF16 d a n p) s
def execVcvtBf16 (d a : BitVec 6) (n : BitVec 1) (p : BitVec 5) (s : State) : Out := convert (.float fmtBf16) d a n p (encVcvtBf16 d a n p) s
def execVcvtE4m3 (d a : BitVec 6) (n : BitVec 1) (p : BitVec 5) (s : State) : Out := convert (.float fmtE4m3) d a n p (encVcvtE4m3 d a n p) s
def execVcvtE5m2 (d a : BitVec 6) (n : BitVec 1) (p : BitVec 5) (s : State) : Out := convert (.float fmtE5m2) d a n p (encVcvtE5m2 d a n p) s
def execVcvtE2m1 (d a : BitVec 6) (n : BitVec 1) (p : BitVec 5) (s : State) : Out := convert (.float fmtE2m1) d a n p (encVcvtE2m1 d a n p) s

end Sys2Proof.Machine
end

