-- ==== Sys2Proof/Machine/VectorMove.lean ====
section
/-! DEFINITION. Compares (R169), predicate operations (R170), selecting and moving elements (R172-R176), folds (R177,
R103), indices and random numbers (R178, R179), block scales and exponent scaling (R180, R181), the distance ramp (R182). -/

namespace Sys2Proof.Machine

/-! ### Compares (R169) -/

inductive Cond where
  | eq | ne | lt | ge | le | gt | uno | ord
deriving DecidableEq, Repr

/-- A condition on integers. -/
def intCond (k : Cond) (a b : Int) : Bool :=
  match k with
  | .eq => decide (a = b) | .ne => decide (a ≠ b) | .lt => decide (a < b) | .ge => decide (b ≤ a)
  | .le => decide (a ≤ b) | .gt => decide (b < a) | .uno => false | .ord => true

/-- A condition on floating values, -0 equal to +0. -/
def floatCond (k : Cond) (a b : FVal) : Bool × Flags :=
  if a.isNan || b.isNan then
    match k with
    | .ne | .uno => (true, { nv := a.signals || b.signals })
    | .eq | .ord => (false, { nv := a.signals || b.signals })
    | _ => (false, Flags.invalid)
  else
    (match k with
      | .eq => eqVal a b | .ne => !eqVal a b | .lt => ltVal false a b | .ge => !ltVal false a b
      | .le => !ltVal false b a | .gt => ltVal false b a | .uno => false | .ord => true, Flags.none)

/-- Write predicate bits of the active elements. -/
def writePredicate (o : VOp) (d : Nat) (f : Ctx → Nat → Bool × Flags) : Body := fun lo hi c =>
  elemLoop (c.active o) (fun i r => (r.1.setPBit d i (f c i).1, r.2.union (f c i).2)) lo (hi - lo) (c, Flags.none)

/-- A compare of format VP. -/
def compare (ok : Bool) (d : BitVec 5) (a b : BitVec 6) (p : BitVec 4) (word : Nat) (f : Nat → Nat → Bool × Flags) (s : State) : Out :=
  let c := s.ctx
  let w := c.sew
  whenOk (predDestOk d && predHere s d.toNat && predHere s p.toNat && ok && groupHere s a c.group && groupHere s b c.group) word s
    (let o : VOp := { pred := p.toNat, pinv := false, sources := [c.source a, c.source b], dests := [], pdest := d.toNat }
     runVector o (writePredicate o d.toNat (fun c i => f (c.elem a.toNat w i) (c.elem b.toNat w i))) s)

def compareInt (k : Cond) (d : BitVec 5) (a b : BitVec 6) (p : BitVec 4) (word : Nat) (s : State) : Out :=
  let rd := readInt s.ctx.signed s.ctx.sew
  compare s.ctx.isInt d a b p word (fun x y => (intCond k (rd x) (rd y), Flags.none)) s
def compareFloat (k : Cond) (d : BitVec 5) (a b : BitVec 6) (p : BitVec 4) (word : Nat) (s : State) : Out :=
  let fm := s.ctx.format
  compare s.ctx.isFloat d a b p word (fun x y => floatCond k (fm.val x) (fm.val y)) s

def execVcmpEq (d : BitVec 5) (a b : BitVec 6) (p : BitVec 4) (s : State) : Out := compareInt .eq d a b p (encVcmpEq d a b p) s
def execVcmpNe (d : BitVec 5) (a b : BitVec 6) (p : BitVec 4) (s : State) : Out := compareInt .ne d a b p (encVcmpNe d a b p) s
def execVcmpLt (d : BitVec 5) (a b : BitVec 6) (p : BitVec 4) (s : State) : Out := compareInt .lt d a b p (encVcmpLt d a b p) s
def execVcmpGe (d : BitVec 5) (a b : BitVec 6) (p : BitVec 4) (s : State) : Out := compareInt .ge d a b p (encVcmpGe d a b p) s
def execVcmpLe (d : BitVec 5) (a b : BitVec 6) (p : BitVec 4) (s : State) : Out := compareInt .le d a b p (encVcmpLe d a b p) s
def execVcmpGt (d : BitVec 5) (a b : BitVec 6) (p : BitVec 4) (s : State) : Out := compareInt .gt d a b p (encVcmpGt d a b p) s
def execVfcmpEq (d : BitVec 5) (a b : BitVec 6) (p : BitVec 4) (s : State) : Out := compareFloat .eq d a b p (encVfcmpEq d a b p) s
def execVfcmpNe (d : BitVec 5) (a b : BitVec 6) (p : BitVec 4) (s : State) : Out := compareFloat .ne d a b p (encVfcmpNe d a b p) s
def execVfcmpLt (d : BitVec 5) (a b : BitVec 6) (p : BitVec 4) (s : State) : Out := compareFloat .lt d a b p (encVfcmpLt d a b p) s
def execVfcmpGe (d : BitVec 5) (a b : BitVec 6) (p : BitVec 4) (s : State) : Out := compareFloat .ge d a b p (encVfcmpGe d a b p) s
def execVfcmpLe (d : BitVec 5) (a b : BitVec 6) (p : BitVec 4) (s : State) : Out := compareFloat .le d a b p (encVfcmpLe d a b p) s
def execVfcmpGt (d : BitVec 5) (a b : BitVec 6) (p : BitVec 4) (s : State) : Out := compareFloat .gt d a b p (encVfcmpGt d a b p) s
def execVfcmpUno (d : BitVec 5) (a b : BitVec 6) (p : BitVec 4) (s : State) : Out := compareFloat .uno d a b p (encVfcmpUno d a b p) s
def execVfcmpOrd (d : BitVec 5) (a b : BitVec 6) (p : BitVec 4) (s : State) : Out := compareFloat .ord d a b p (encVfcmpOrd d a b p) s

/-! ### Predicate operations (R170): scalar stream -/

/-- Bits 0 to VL - 1 of a predicate become those of x; the rest stay. -/
def Ctx.setPLow (c : Ctx) (p : Nat) (x : PReg) : Ctx :=
  let m : PReg := BitVec.ofNat 1024 (2 ^ c.vl.toNat - 1)
  c.setP p ((c.getP p &&& ~~~m) ||| (x &&& m))

/-- A pop function that writes a predicate; a well's completion predicate is bound (R272). -/
def popWrite (ok : Bool) (d : BitVec 5) (word : Nat) (x : PReg) (s : State) : Out :=
  whenOk (predDestOk d && predHere s d.toNat && ok) word s
    (if s.ctx.boundPred d.toNat then raise s (exc .boundRegisterAccess 0 0)
     else complete 4 1 { s with ctx := s.ctx.setPLow d.toNat x })

/-- A predicate source the context has. -/
def popSrc (s : State) (a : BitVec 5) : Bool := predSrcOk a && predHere s a.toNat

def execPand (d a b : BitVec 5) (s : State) : Out :=
  popWrite (popSrc s a && popSrc s b) d (encPand d a b) (s.ctx.getP a.toNat &&& s.ctx.getP b.toNat) s
def execPor (d a b : BitVec 5) (s : State) : Out :=
  popWrite (popSrc s a && popSrc s b) d (encPor d a b) (s.ctx.getP a.toNat ||| s.ctx.getP b.toNat) s
def execPxor (d a b : BitVec 5) (s : State) : Out :=
  popWrite (popSrc s a && popSrc s b) d (encPxor d a b) (s.ctx.getP a.toNat ^^^ s.ctx.getP b.toNat) s
def execPandn (d a b : BitVec 5) (s : State) : Out :=
  popWrite (popSrc s a && popSrc s b) d (encPandn d a b) (s.ctx.getP a.toNat &&& ~~~s.ctx.getP b.toNat) s
def execPnot (d a : BitVec 5) (s : State) : Out := popWrite (popSrc s a) d (encPnot d a) (~~~s.ctx.getP a.toNat) s
def execPmov (d a : BitVec 5) (s : State) : Out := popWrite (popSrc s a) d (encPmov d a) (s.ctx.getP a.toNat) s
def execPsetn (d a : BitVec 5) (s : State) : Out :=
  popWrite true d (encPsetn d a) (BitVec.ofNat 1024 (2 ^ min (s.x a).toNat s.ctx.vl.toNat - 1)) s
def execPclr (d : BitVec 5) (s : State) : Out := popWrite true d (encPclr d) 0 s

/-- Index of the lowest set bit, if any. -/
def firstSet : List Bool → Nat → Option Nat
  | [], _ => none
  | b :: l, i => if b then some i else firstSet l (i + 1)

def execPfirst (d a : BitVec 5) (s : State) : Out :=
  whenOk (popSrc s a) (encPfirst d a) s
    (complete 4 1 (s.setX d (match firstSet (s.ctx.predBits a.toNat) 0 with | some i => BitVec.ofNat 64 i | none => BitVec.allOnes 64)))
def execPcnt (d a : BitVec 5) (s : State) : Out :=
  whenOk (popSrc s a) (encPcnt d a) s
    (complete 4 1 (s.setX d (BitVec.ofNat 64 ((s.ctx.predBits a.toNat).filter (fun b => b)).length)))

/-! ### Selecting and moving elements (R172-R176) -/

/-- VMERGE: the predicate selects (R172). -/
def execVmerge (d a b : BitVec 6) (n : BitVec 1) (p : BitVec 5) (s : State) : Out :=
  let c := s.ctx
  let w := c.sew
  whenOk (maskOk s p n && groupHere s d c.group && groupHere s a c.group && groupHere s b c.group) (encVmerge d a b n p) s
    (let o : VOp := { pred := p.toNat, pinv := n = 1, sources := [c.source a, c.source b], dests := [c.dest d], select := true }
     runVector o (fun lo hi c =>
       elemLoop (fun _ => true) (fun i r =>
         (r.1.setElem d.toNat w i (if c.governs o i then c.elem a.toNat w i else c.elem b.toNat w i), r.2)) lo (hi - lo) (c, Flags.none)) s)

/-- A move of elements whose destination shares no register with a vector source (R154). -/
def moveForm (d : BitVec 6) (srcs : List (BitVec 6)) (reads : List Source) (n : BitVec 1) (p : BitVec 5) (word : Nat)
    (body : VOp → Body) (whole select : Bool) (s : State) : Out :=
  let c := s.ctx
  whenOk (maskOk s p n && groupHere s d c.group
      && srcs.all (fun a => groupHere s a c.group && disjointGroups (c.dest d) (c.dest a))) word s
    (let o : VOp := { pred := p.toNat, pinv := n = 1, sources := reads, dests := [c.dest d], whole := whole, select := select }
     runVector o (body o) s)

/-- VGATHR (R173). -/
def execVgathr (d a b : BitVec 6) (n : BitVec 1) (p : BitVec 5) (s : State) : Out :=
  let w := s.ctx.sew
  let m := vlmaxOf w s.ctx.group
  moveForm d [a, b] [s.ctx.table a, s.ctx.source b] n p (encVgathr d a b n p) (fun o => writeActive o d.toNat w (fun c i =>
    let j := c.elem b.toNat w i
    (if j < m then c.elem a.toNat w j else 0, Flags.none))) false false s

/-- VSLIDEUP: elements below k are undisturbed (R174). -/
def execVslideup (d a : BitVec 6) (sc : BitVec 5) (n : BitVec 1) (p : BitVec 5) (s : State) : Out :=
  let w := s.ctx.sew
  let k := (s.x sc).toNat
  moveForm d [a] [s.ctx.table a] n p (encVslideup d a sc n p) (fun o lo hi c =>
    elemLoop (c.active o) (fun i r => if k ≤ i then (r.1.setElem d.toNat w i (c.elem a.toNat w (i - k)), r.2) else r)
      lo (hi - lo) (c, Flags.none)) false false s

/-- The other slides (R174): element i takes element j, or zero. -/
def slideForm (d a : BitVec 6) (n : BitVec 1) (p : BitVec 5) (word : Nat) (j : Nat → Option Nat) (s : State) : Out :=
  let w := s.ctx.sew
  moveForm d [a] [s.ctx.table a] n p word (fun o => writeActive o d.toNat w (fun c i =>
    (match j i with | some k => c.elem a.toNat w k | none => 0, Flags.none))) false false s

def execVslideupRot (d a : BitVec 6) (sc : BitVec 5) (n : BitVec 1) (p : BitVec 5) (s : State) : Out :=
  slideForm d a n p (encVslideupRot d a sc n p)
    (fun i => some (((i : Int) - (s.x sc).toNat) % (s.ctx.vl.toNat : Int)).toNat) s
def execVslidedn (d a : BitVec 6) (sc : BitVec 5) (n : BitVec 1) (p : BitVec 5) (s : State) : Out :=
  slideForm d a n p (encVslidedn d a sc n p)
    (fun i => if i + (s.x sc).toNat < s.ctx.vl.toNat then some (i + (s.x sc).toNat) else none) s
def execVslidednRot (d a : BitVec 6) (sc : BitVec 5) (n : BitVec 1) (p : BitVec 5) (s : State) : Out :=
  slideForm d a n p (encVslidednRot d a sc n p) (fun i => some ((i + (s.x sc).toNat) % s.ctx.vl.toNat)) s

/-- Pack the elements a predicate selects (R175). -/
def packLoop (sel : Nat → Bool) (src d w : Nat) (c : Ctx) : Nat → Nat → Nat → Ctx → Ctx
  | 0, _, _, r => r
  | n + 1, i, j, r =>
    if sel i then packLoop sel src d w c n (i + 1) (j + 1) (r.setElem d w j (c.elem src w i))
    else packLoop sel src d w c n (i + 1) j r

/-- Spread elements over the active ones (R175). -/
def spreadLoop (act : Nat → Bool) (src d w : Nat) (c : Ctx) : Nat → Nat → Nat → Ctx → Ctx
  | 0, _, _, r => r
  | n + 1, i, j, r =>
    if act i then spreadLoop act src d w c n (i + 1) (j + 1) (r.setElem d w i (c.elem src w j))
    else spreadLoop act src d w c n (i + 1) j r

/-- VCOMPRESS: the predicate selects; whole-vector. -/
def execVcompress (d a : BitVec 6) (n : BitVec 1) (p : BitVec 5) (s : State) : Out :=
  let w := s.ctx.sew
  moveForm d [a] [s.ctx.source a] n p (encVcompress d a n p) (fun o _ hi c =>
    (packLoop (c.governs o) a.toNat d.toNat w c hi 0 0 c, Flags.none)) true true s

/-- VEXPAND: the predicate masks; whole-vector. -/
def execVexpand (d a : BitVec 6) (n : BitVec 1) (p : BitVec 5) (s : State) : Out :=
  let w := s.ctx.sew
  moveForm d [a] [s.ctx.source a] n p (encVexpand d a n p) (fun o _ hi c =>
    (spreadLoop (c.active o) a.toNat d.toNat w c hi 0 0 c, Flags.none)) true false s

/-- VBCAST (R176). -/
def execVbcast (d : BitVec 6) (sc : BitVec 5) (n : BitVec 1) (p : BitVec 5) (s : State) : Out :=
  moveForm d [] [] n p (encVbcast d sc n p) (fun o => writeActive o d.toNat s.ctx.sew (fun _ _ =>
    ((s.x sc).toNat % 2 ^ s.ctx.sew, Flags.none))) false false s

/-- VBCAST_E (R176). -/
def execVbcastE (d a : BitVec 6) (sc : BitVec 5) (n : BitVec 1) (p : BitVec 5) (s : State) : Out :=
  let w := s.ctx.sew
  let j := (s.x sc).toNat
  moveForm d [a] [s.ctx.table a] n p (encVbcastE d a sc n p) (fun o => writeActive o d.toNat w (fun c _ =>
    (if j < vlmaxOf w s.ctx.group then c.elem a.toNat w j else 0, Flags.none))) false false s

/-- vextr and vextr.sx: a scalar result (R176). -/
def extract (i : BitVec 5) (a : BitVec 6) (d : BitVec 5) (word : Nat) (f : Nat → Word) (s : State) : Out :=
  let c := s.ctx
  let j := (s.x i).toNat
  whenOk (groupHere s a c.group) word s
    (let o : VOp := { pred := 0, pinv := false, sources := [c.table a], dests := [], whole := true }
     runVector o (fun _ hi c => (c.setS d (f (if j < hi then c.elem a.toNat c.sew j else 0)), Flags.none)) s)

def execVextr (i : BitVec 5) (a : BitVec 6) (d : BitVec 5) (s : State) : Out :=
  extract i a d (encVextr i a d) (fun v => BitVec.ofNat 64 v) s
def execVextrSx (i : BitVec 5) (a : BitVec 6) (d : BitVec 5) (s : State) : Out :=
  extract i a d (encVextrSx i a d) (fun v => wrap64 (sext v s.ctx.sew)) s

/-- vins and vins.cv: one element (R176, R164). -/
def insert (order : BitVec 1) (d : BitVec 6) (i sc : BitVec 5) (n : BitVec 1) (p : BitVec 5) (word : Nat) (s : State) : Out :=
  let v := scalarOperand s.ctx order (s.x sc)
  let j := (s.x i).toNat
  whenOk (order = 0 || decide (s.ctx.fmt ≤ 6)) word s
    (moveForm d [] [] n p word (fun o => withFlags v.2 (fun _ _ c =>
      (if c.active o j then c.setElem d.toNat c.sew j v.1 else c, Flags.none))) true false s)

def execVins (d : BitVec 6) (i sc : BitVec 5) (n : BitVec 1) (p : BitVec 5) (s : State) : Out :=
  insert 0 d i sc n p (encVins d i sc n p) s
def execVinsCv (d : BitVec 6) (i sc : BitVec 5) (n : BitVec 1) (p : BitVec 5) (s : State) : Out :=
  insert 1 d i sc n p (encVinsCv d i sc n p) s

/-! ### Folds (R177, R103) -/

/-- One level of the tree: element i meets element i + s; an absent one passes the other on. -/
def foldLevel (op : Nat → Nat → Nat × Flags) : List (Option Nat) → List (Option Nat) → List (Option Nat) × Flags
  | x :: l, y :: r =>
    let t := foldLevel op l r
    match x, y with
    | none, y => (y :: t.1, t.2)
    | some x, none => (some x :: t.1, t.2)
    | some x, some y => (some (op x y).1 :: t.1, (op x y).2.union t.2)
  | l, [] => (l, Flags.none)
  | [], r => (r, Flags.none)

/-- The tree over 2^k elements. -/
def foldTree (op : Nat → Nat → Nat × Flags) : Nat → List (Option Nat) → List (Option Nat) × Flags
  | 0, l => (l, Flags.none)
  | k + 1, l =>
    let r := foldLevel op (l.take (2 ^ k)) (l.drop (2 ^ k))
    let t := foldTree op k r.1
    (t.1, r.2.union t.2)

/-- Smallest k with 2^k at least n. -/
def ceilLog2 (n : Nat) : Nat := if n ≤ 1 then 0 else Nat.log2 (n - 1) + 1

/-- A vfold: element 0 of the single register vd. -/
def fold (ok : Bool) (d a : BitVec 6) (n : BitVec 1) (p : BitVec 5) (word : Nat) (op : Nat → Nat → Nat × Flags) (s : State) : Out :=
  let c := s.ctx
  let w := c.sew
  whenOk (maskOk s p n && ok && vecHere s d.toNat && groupHere s a c.group) word s
    (let o : VOp := { pred := p.toNat, pinv := n = 1, sources := [c.source a], dests := [(d.toNat, 1)], whole := true }
     runVector o (fun _ hi c =>
       let xs := (List.range hi).map (fun i => if c.active o i then some (c.elem a.toNat w i) else none)
       let r := foldTree op (ceilLog2 hi) xs
       match r.1 with
       | some x :: _ => (c.setElem d.toNat w 0 x, r.2)
       | _ => (c, r.2)) s)

/-- An integer fold. -/
def foldInt (op : IntOp) (d a : BitVec 6) (n : BitVec 1) (p : BitVec 5) (word : Nat) (s : State) : Out :=
  fold s.ctx.isInt d a n p word (fun x y => (intResult op s.ctx.signed s.ctx.sew x y 0, Flags.none)) s
/-- A floating fold. -/
def foldFloat (op : FloatOp) (d a : BitVec 6) (n : BitVec 1) (p : BitVec 5) (word : Nat) (s : State) : Out :=
  fold s.ctx.isFloat d a n p word (fun x y => floatResult op s.ctx.format s.ctx.frm x y 0) s

def execVfoldSum (d a : BitVec 6) (n : BitVec 1) (p : BitVec 5) (s : State) : Out := foldInt .add d a n p (encVfoldSum d a n p) s
def execVfoldMin (d a : BitVec 6) (n : BitVec 1) (p : BitVec 5) (s : State) : Out := foldInt .min d a n p (encVfoldMin d a n p) s
def execVfoldMax (d a : BitVec 6) (n : BitVec 1) (p : BitVec 5) (s : State) : Out := foldInt .max d a n p (encVfoldMax d a n p) s
def execVfoldAnd (d a : BitVec 6) (n : BitVec 1) (p : BitVec 5) (s : State) : Out := foldInt .and d a n p (encVfoldAnd d a n p) s
def execVfoldOr (d a : BitVec 6) (n : BitVec 1) (p : BitVec 5) (s : State) : Out := foldInt .or d a n p (encVfoldOr d a n p) s
def execVfoldXor (d a : BitVec 6) (n : BitVec 1) (p : BitVec 5) (s : State) : Out := foldInt .xor d a n p (encVfoldXor d a n p) s
def execVfoldFsum (d a : BitVec 6) (n : BitVec 1) (p : BitVec 5) (s : State) : Out := foldFloat .add d a n p (encVfoldFsum d a n p) s
def execVfoldFmin (d a : BitVec 6) (n : BitVec 1) (p : BitVec 5) (s : State) : Out := foldFloat .min d a n p (encVfoldFmin d a n p) s
def execVfoldFmax (d a : BitVec 6) (n : BitVec 1) (p : BitVec 5) (s : State) : Out := foldFloat .max d a n p (encVfoldFmax d a n p) s

/-! ### Indices and random numbers (R178, R179) -/

/-- VIDX. -/
def execVidx (d : BitVec 6) (n : BitVec 1) (p : BitVec 5) (s : State) : Out :=
  let c := s.ctx
  elementwise (decide (c.fmt ≤ 3)) d [] n p (encVidx d n p) (fun _ i =>
    if c.isInt then (i % 2 ^ c.sew, Flags.none) else c.format.ofVal (rmodeOf c.frm) (intVal i)) s

/-- The value vrand writes from a stepped state. -/
def randomValue (c : Ctx) (x : BitVec 32) : Nat :=
  if c.isFloat then (c.format.round .rtz false (vrandDraw x) (-24)).1
  else if c.sew = 64 then x.toNat else x.toNat / 2 ^ (32 - c.sew)

/-- VRAND: steps the generators of the active elements. -/
def execVrand (d : BitVec 6) (n : BitVec 1) (p : BitVec 5) (s : State) : Out :=
  let c := s.ctx
  whenOk (maskOk s p n && decide (c.fmt ≤ 3) && groupHere s d c.group && vecHere s 63 && disjointGroups (c.dest d) (56, 8))
    (encVrand d n p) s
    (let o : VOp := { pred := p.toNat, pinv := n = 1, sources := [⟨56, 8, 32, 0, false⟩], dests := [c.dest d, (56, 8)] }
     runVector o (fun lo hi c =>
       let r := writeActive o d.toNat c.sew (fun c i => (randomValue c (nextRandom c i), Flags.none)) lo hi c
       (stepRandom o lo hi r.1, r.2)) s)

/-! ### Block scales and exponent scaling (R180, R181) -/

/-- VBSC: only the scale is applied; ox6[0] selects the kind of scale byte. -/
def execVbsc (d a b : BitVec 6) (n : BitVec 1) (p : BitVec 5) (s : State) : Out :=
  let c := s.ctx
  let w := c.sew
  let f := c.format
  let ox := c.getOx 6
  whenOk (maskOk s p n && s.hasOx && c.isFloat && groupHere s d c.group && groupHere s a c.group && vecHere s b.toNat
      && disjointGroups (c.dest d) (b.toNat, 1) && decide (bits ox 63 1 = 0)) (encVbsc d a b n p) s
    (let o : VOp := { pred := p.toNat, pinv := n = 1, sources := [c.source a, ⟨b.toNat, 1, 8, 0, true⟩], dests := [c.dest d] }
     runVector o (writeActive o d.toNat w (fun c i =>
       match scalePower (ox.getLsbD 0) (c.elem b.toNat 8 (i / 32)) with
       | none => (f.nanCode, Flags.none)
       | some k => f.finish (rmodeOf c.frm) (mulVal (f.val (c.elem a.toNat w i)) (.num false 1 k)))) s)

/-- A shift of the exponent; beyond 5,000 either way every finite value overflows or is below the smallest subnormal in
every format, and the result is the same. -/
def clampShift (w : Word) : Int := max (-5000) (min 5000 w.toInt)

/-- VFSCL (R181). -/
def execVfscl (d a : BitVec 6) (sc : BitVec 5) (n : BitVec 1) (p : BitVec 5) (s : State) : Out :=
  let c := s.ctx
  let f := c.format
  elementwise c.isFloat d [a] n p (encVfscl d a sc n p) (fun c i =>
    f.finish (rmodeOf c.frm) (mulVal (f.val (c.elem a.toNat c.sew i)) (.num false 1 (clampShift (s.x sc))))) s

/-! ### The distance ramp (R182) -/

/-- vd[i] of the ramp: q and k are exact positions. -/
def rampElement (c : Ctx) (causal : Bool) (slope old : Nat) (q k : Int) : Nat × Flags :=
  let f := c.format
  if causal && decide (q < k) then (f.sign true + f.infCode, Flags.none)
  else f.finish (rmodeOf c.frm) (fmaVal (rmodeOf c.frm) (fmtF32.val slope) (intVal (q - k)) (f.val old))

/-- The forms of vramp, with their key base. -/
def ramp (causal ok : Bool) (d : BitVec 6) (n : BitVec 1) (p : BitVec 5) (word : Nat) (base : Nat) (s : State) : Out :=
  let c := s.ctx
  let ox := c.getOx 7
  let slope := (s.lc.hs[bits ox 35 32]?.getD 0).toNat
  let len := if bits ox 47 36 = 0 then c.vl.toNat else bits ox 47 36
  whenOk (ok && s.hasOx && decide (bits ox 63 48 = 0)) word s
    (elementwise c.isFloat d [d] n p word (fun c i =>
      rampElement c causal slope (c.elem d.toNat c.sew i) (bits ox 31 0 + i / len : Nat) (base + i % len : Nat)) s)

/-- Key base of the well forms: the well is bound and block-indirect. -/
def wellBase (s : State) (wl : BitVec 5) : Option Nat :=
  if wl.toNat < 8 then
    match s.ctx.well wl.toNat with
    | some w => if w.kind = 2 then some w.delivered else none
    | none => none
  else none

def execVramp (d : BitVec 6) (sc : BitVec 5) (n : BitVec 1) (p : BitVec 5) (s : State) : Out :=
  ramp false true d n p (encVramp d sc n p) (bits (s.x sc) 31 0) s
def execVrampC (d : BitVec 6) (sc : BitVec 5) (n : BitVec 1) (p : BitVec 5) (s : State) : Out :=
  ramp true true d n p (encVrampC d sc n p) (bits (s.x sc) 31 0) s
def execVrampW (d : BitVec 6) (wl : BitVec 5) (n : BitVec 1) (p : BitVec 5) (s : State) : Out :=
  ramp false (wellBase s wl).isSome d n p (encVrampW d wl n p) ((wellBase s wl).getD 0) s
def execVrampCW (d : BitVec 6) (wl : BitVec 5) (n : BitVec 1) (p : BitVec 5) (s : State) : Out :=
  ramp true (wellBase s wl).isSome d n p (encVrampCW d wl n p) ((wellBase s wl).getD 0) s

end Sys2Proof.Machine
end

