-- ==== Sys2Proof/Machine/Matrix.lean ====
section
/-! DEFINITION. The matrix instructions (R185-R202): mma with the sum of R102, the row check (R190, R191) and the gang
chunks (R194, R195), mzero, mepi and mcks. -/

namespace Sys2Proof.Machine

/-! ### Source formats (R185) -/

/-- A source format: the element width, K, and the code of a block format or 0. -/
structure MatFormat where
  width : Nat
  k : Nat
  block : Nat
  plain : FloatFormat
deriving DecidableEq, Repr

/-- The source format of a fmt field; 9 to 15 are none. -/
def matFormat (f : BitVec 4) : Option MatFormat :=
  match f.toNat with
  | 0 => some ⟨16, 32, 0, fmtBf16⟩
  | 1 => some ⟨16, 32, 0, fmtF16⟩
  | 2 => some ⟨8, 64, 0, fmtE4m3⟩
  | 3 => some ⟨8, 64, 0, fmtE5m2⟩
  | 4 => some ⟨4, 128, 0, fmtE2m1⟩
  | 5 => some ⟨8, 64, 7, fmtE4m3⟩
  | 6 => some ⟨8, 64, 8, fmtE5m2⟩
  | 7 => some ⟨4, 128, 9, fmtE2m1⟩
  | 8 => some ⟨4, 128, 10, fmtE2m1⟩
  | _ => none

/-- Value of an element under its scale byte. -/
def MatFormat.value (f : MatFormat) (scale code : Nat) : FVal :=
  if f.block = 0 then f.plain.val code else blockDecode f.block scale code

/-- Elements `n` of a row of 512 bits held as a number, with the scale bytes of the row. -/
def MatFormat.row (f : MatFormat) (data scales : Nat) : List FVal :=
  (List.range f.k).map (fun k => f.value (scales / 256 ^ (k / 32) % 256) (data / 2 ^ (k * f.width) % 2 ^ f.width))

/-- Row m of 512 bits of a group (R186). -/
def Ctx.row512 (c : Ctx) (v m : Nat) : Nat := c.elem v 512 m

/-- The scale bytes of row m in a scale register: K / 32 bytes (R186). -/
def MatFormat.scales (f : MatFormat) (c : Ctx) (reg m : Nat) : Nat :=
  if f.block = 0 then 0 else c.elem reg (f.k / 4) m

/-! ### The element result (R102) -/

/-- Whether a rounded number is tiny (R99). -/
def FloatFormat.tiny (f : FloatFormat) (mode : RMode) (neg : Bool) (m : Nat) (e : Int) : Bool :=
  let qn := (lg2 m : Int) + e - f.man
  decide (qn + (lg2 (roundUnits mode neg m e qn).1 : Int) < f.unit + f.man)

/-- A number cut towards zero to a multiple of 2^u, in units of 2^u, and whether bits were lost. -/
def cutToUnit (neg : Bool) (m : Nat) (e u : Int) : Int × Bool :=
  let r := roundUnits .rtz neg m e u
  (if neg then -(r.1 : Int) else r.1, r.2)

/-- Sum of terms cut to a unit. -/
def cutSum (u : Int) : List FVal → Int × Bool
  | [] => (0, false)
  | .num neg m e :: l =>
    let a := cutToUnit neg m e u
    let r := cutSum u l
    (a.1 + r.1, a.2 || r.2)
  | _ :: l => cutSum u l

/-- Highest floor(log2) among non-zero terms; none when every term is zero. -/
def topExponent : List FVal → Option Int
  | [] => none
  | .num _ m e :: l =>
    match topExponent l with
    | none => if m = 0 then none else some ((lg2 m : Int) + e)
    | some t => if m = 0 then some t else some (max t ((lg2 m : Int) + e))
  | _ :: l => topExponent l

/-- A negative value. -/
def FVal.isNeg : FVal → Bool
  | .num neg _ _ => neg
  | .inf neg => neg
  | .nan _ => false

/-- The element result of R102 from c and the products. -/
def sumTerms (c : FVal) (ps : List (FVal × Flags)) : Nat × Flags :=
  let ts := c :: ps.map (fun p => p.1)
  let nv := c.signals || ps.any (fun p => p.2.nv)
  let pos := ts.any (fun t => t.isInf && !t.isNeg)
  let neg := ts.any (fun t => t.isInf && t.isNeg)
  if ts.any FVal.isNan || (pos && neg) then (fmtF32.nanCode, { nv := nv || (pos && neg) })
  else if pos || neg then (fmtF32.sign neg + fmtF32.infCode, Flags.none)
  else match topExponent ts with
    | none => (fmtF32.sign (ts.all FVal.isNeg), Flags.none)
    | some t =>
      let u := t - 31
      let r := cutSum u ts
      if r.1 = 0 then (0, { nx := r.2 })
      else
        let x := fmtF32.round .rne (decide (r.1 < 0)) r.1.natAbs u
        (x.1, { x.2 with nx := x.2.nx || r.2, uf := x.2.uf || (r.2 && fmtF32.tiny .rne (decide (r.1 < 0)) r.1.natAbs u) })

/-- C(m, n) from its old code and the rows of A and B. -/
def dotProduct (c : Nat) (a b : List FVal) : Nat × Flags := sumTerms (fmtF32.val c) (List.zipWith mulVal a b)

/-! ### The row check (R190) -/

/-- An exact number m x 2^e. -/
abbrev Exact := Int × Int

def Exact.add (a b : Exact) : Exact :=
  let e := min a.2 b.2
  (a.1 * 2 ^ (a.2 - e).toNat + b.1 * 2 ^ (b.2 - e).toNat, e)
def Exact.neg (a : Exact) : Exact := (-a.1, a.2)
def Exact.abs (a : Exact) : Exact := (a.1.natAbs, a.2)
def Exact.sum (l : List Exact) : Exact := l.foldl Exact.add (0, 0)
def Exact.le (a b : Exact) : Bool := decide ((Exact.add a (Exact.neg b)).1 ≤ 0)
/-- A finite value exactly; zero for the others. -/
def FVal.exact : FVal → Exact
  | .num neg m e => (if neg then -(m : Int) else m, e)
  | _ => (0, 0)
def FVal.isFinite : FVal → Bool
  | .num .. => true
  | _ => false

/-- Whether a row is checked: MCKTH is positive and finite, and so is everything of the row. -/
def rowChecked (mckth : BitVec 32) (cs cs' : List Nat) (a : List FVal) (bs : List (List FVal)) : Bool :=
  let th := fmtF32.val mckth.toNat
  th.isFinite && decide (0 < th.exact.1) && a.all FVal.isFinite && bs.all (fun b => b.all FVal.isFinite)
    && (cs ++ cs').all (fun x => (fmtF32.val x).isFinite)

/-- Whether a row passes: c and c' its old and new codes, a its row of A, bs the columns of B. -/
def rowPasses (mckth : BitVec 32) (cs cs' : List Nat) (a : List FVal) (bs : List (List FVal)) : Bool :=
  let th := fmtF32.val mckth.toNat
  let c := cs.map fmtF32.val
  let c' := cs'.map fmtF32.val
  if !rowChecked mckth cs cs' a bs then true
  else
    let d := Exact.add (Exact.sum (c'.map FVal.exact)) (Exact.neg (Exact.sum (c.map FVal.exact)))
    let prods := bs.flatMap (fun b => List.zipWith (fun x y => (mulVal x y).1.exact) a b)
    let ref := Exact.sum prods
    let size := Exact.sum ((c ++ c').map (fun x => Exact.abs x.exact) ++ prods.map Exact.abs)
    Exact.le (Exact.abs (Exact.add d (Exact.neg ref))) (th.exact.1 * size.1, th.exact.2 + size.2)

/-! ### mma -/

/-- Smallest power of two at least n; 1 for 0. -/
def powerAbove (n : Nat) : Nat := 2 ^ ceilLog2 n

/-- VL a multiple of 8 and at most 64 (R187). -/
def rowsOk (c : Ctx) : Bool := decide (c.vl.toNat % 8 = 0) && decide (c.vl.toNat ≤ 64)

/-- A group of n registers aligned to the power of two above n, inside the context's registers (R187, R31). -/
def tileHere (s : State) (v : BitVec 6) (n : Nat) : Bool :=
  decide (v.toNat % powerAbove n = 0) && vecHere s (v.toNat + max n 1 - 1)

/-- One row of a chunk computed: the row number, its new codes, its flags, whether it is checked and whether the check passes. -/
structure RowResult where
  row : Nat
  codes : List Nat
  flags : Flags
  checked : Bool
  passes : Bool
deriving DecidableEq, Repr

/-- Compute row m of C at register vc. -/
def mmaRow (c : Ctx) (mckth : BitVec 32) (vc m : Nat) (a : List FVal) (bs : List (List FVal)) : RowResult :=
  let cs := (List.range 64).map (fun n => c.elem vc 32 (64 * m + n))
  let rs := List.zipWith (fun x b => dotProduct x a b) cs bs
  let out := rs.map (fun r => r.1)
  ⟨m, out, joinFlags rs, rowChecked mckth cs out a bs, rowPasses mckth cs out a bs⟩

/-- Write a row of 64 elements. -/
def writeRow (c : Ctx) (v w m : Nat) (codes : List Nat) : Ctx :=
  (codes.zip (List.range 64)).foldl (fun c e => c.setElem v w (64 * m + e.2) e.1) c

/-- Outcome of the chunks of an mma. -/
structure ChunkRun where
  ctx : Ctx
  flags : Flags
  /-- rows committed -/
  rows : Nat
  /-- chunks computed a second time -/
  recomputed : Nat
  /-- first row of the chunk that failed twice, and the failing row -/
  failed : Option (Nat × Nat)

/-- Run chunks j to j + n - 1 of rows from lo to hi - 1 (R189, R191). A chunk with a failing row is computed once more: a row that a
soft error made fail once then passes, any other fails again. `strikes` says how often a soft error makes a row's check fail. -/
def runChunks (compute : Ctx → Nat → RowResult) (strikes : Nat → Nat) (vc lo hi : Nat) : Nat → Nat → ChunkRun → ChunkRun
  | 0, _, r => r
  | n + 1, j, r =>
    let rows := ((List.range 8).map (fun k => 8 * j + k)).filter (fun m => decide (lo ≤ m) && decide (m < hi))
    let res := rows.map (compute r.ctx)
    let struck (x : RowResult) (k : Nat) : Bool := x.checked && decide (k ≤ strikes x.row)
    match res.find? (fun x => !x.passes || struck x 2) with
    | some x => { r with recomputed := r.recomputed + 1, failed := some (8 * j, x.row) }
    | none =>
      runChunks compute strikes vc lo hi n (j + 1)
        { ctx := res.foldl (fun c x => writeRow c vc 32 x.row x.codes) r.ctx
          flags := res.foldl (fun f x => f.union x.flags) r.flags
          rows := r.rows + rows.length
          recomputed := r.recomputed + (if res.any (fun x => struck x 1) then 1 else 0), failed := none }

/-- A matrix instruction completes (R65, R99, R114, R272). -/
def matrixDone (wells : List Nat) (beats : Nat) (r : Ctx × Flags) (s : State) : Out := vectorDone wells beats r s

/-- A chunk message: the follower's task, the gang's sequence number of the `mma`, the first row, 64 doublewords of rows and 4 of
their scale bytes (R194, R195). -/
def chunkMessage (serial tid seq row : Nat) (data scales : List Word) : List Word :=
  BitVec.ofNat 64 serial :: BitVec.ofNat 64 tid :: BitVec.ofNat 64 seq :: BitVec.ofNat 64 row :: (data ++ scales)

/-- The doublewords of a number. -/
def splitWords : Nat → Nat → List Word
  | 0, _ => []
  | n + 1, x => BitVec.ofNat 64 x :: splitWords n (x / 2 ^ 64)

/-- The number of doublewords. -/
def joinWords : List Word → Nat
  | [] => 0
  | w :: l => w.toNat + 2 ^ 64 * joinWords l

/-- The chunks a leader sends for rows lo to hi - 1 of its A group (R194). -/
def leaderChunks (f : MatFormat) (c : Ctx) (va asc serial tid seq lo hi : Nat) : List (List Word) :=
  (List.range ((hi + 7) / 8 - lo / 8)).map (fun i =>
    let j := lo / 8 + i
    let scales := if f.block = 0 then 0 else c.elem asc (f.k / 4 * 8) j
    chunkMessage serial tid seq (8 * j) (splitWords 64 (c.getV (va + j)).toNat) (splitWords 4 scales))

/-- Operand messages on their way to a core. -/
def messagesTo (s : State) (core : Nat) : Nat :=
  (s.pending.filter (fun e => match e with | .gangOperandMessage c _ => c = core | _ => false)).length

/-- The followers, as (core, TID), of a formed gang that the running task leads. -/
def State.followers (s : State) : List (Nat × Nat) :=
  match s.gang with
  | .leader _ ms _ => ms.filter (fun m => m.1 ≠ s.cur)
  | _ => []

/-- The sequence number of the next instruction of the gang the running task leads. -/
def State.gangSeq (s : State) : Nat :=
  match s.gang with
  | .leader _ _ n => n
  | _ => 0

/-- The sequence number under which the executing `mma` takes its rows of A from the ring: one of a follower's stream, or one that
a former member had entered before its gang disbanded (R195). -/
def State.mmaSeq (s : State) : Option Nat :=
  if s.inService then none
  else match s.core.run.task with
    | none => none
    | some t => match t.gang with
      | .follower _ _ _ _ (st :: _) => if st.sent then some st.seq else none
      | .parting (st :: _) => if st.sent then some st.seq else none
      | _ => match t.entered with
        | some e => if e.1 = s.ctx.pc then some e.2 else none
        | none => none

/-- Whether a slot serves an `mma` of a task. -/
def servesMma (key : Nat × Nat) (seq : Nat) (m : List Word) : Bool :=
  servesTask key m && decide ((m[2]?.getD 0).toNat = seq)

/-- Row m of A from the ring, if its chunk has arrived. -/
def ringRow (f : MatFormat) (k : Core) (key : Nat × Nat) (seq m : Nat) : Option (List FVal) :=
  match k.ring.find? (fun ch => servesMma key seq ch && decide ((ch[3]?.getD 0).toNat = 8 * (m / 8))) with
  | none => none
  | some c =>
    let data := joinWords ((c.drop 4).take 64) / 2 ^ (512 * (m % 8)) % 2 ^ 512
    let nb := f.k / 32
    let scales := joinWords (c.drop 68) / 256 ^ (nb * (m % 8)) % 256 ^ nb
    some (f.row data scales)

/-- An `mma` that took its rows from the ring has completed: its slots are free, and none of the task's `mma` is entered (R195). -/
def leaveRing (seq : Nat) (s : State) : State :=
  let key := s.taskKey
  { s with core := { s.core with
      ring := s.core.ring.filter (fun m => !servesMma key seq m)
      run := s.core.run.mapTask (fun t => { t with entered := none }) } }

/-- How often a soft error makes the check of a row fail: that of the first row of the chunk it strikes. -/
def strikesRow (s : State) (lo m : Nat) : Nat :=
  match s.strike .compute with
  | some x => if m = max lo ((lo / 8 + x.place) * 8) then x.times else 0
  | none => 0

/-- The soft error of the core is spent once a chunk has been computed again. -/
def spendStrike (n : Nat) (s : State) : State :=
  match s.strike .compute with
  | some x => if n = 0 then s else s.met x
  | none => s

/-- Rows lo to top - 1 of an mma, from rows of A and columns of B (R188-R191): the chunks that are read go to the followers, and
the instruction takes a cause, ends for a suspension, or is complete. -/
def mmaRun (f : MatFormat) (vc vb bsc lo top : Nat) (wells : List Nat) (arow : Ctx → Nat → List FVal)
    (messages : Nat → List Event) (stop : Option Exc) (s : State) : Out :=
  let cols := (List.range 64).map (fun n => f.row (s.ctx.row512 vb n) (f.scales s.ctx bsc n))
  let r := runChunks (fun c m => mmaRow c s.lc.mckth vc m (arow c m) cols) (strikesRow s lo) vc lo top ((top + 7) / 8 - lo / 8) (lo / 8)
    ⟨s.ctx, Flags.none, 0, 0, none⟩
  let read := match r.failed with | some (first, _) => min top (first + 8) | none => top
  let s0 := spendStrike r.recomputed { s with pending := s.pending ++ messages read }
  let s1 := (countErrors s0 (dieOf s.cur) 0x10 r.recomputed).count 7 r.recomputed
  let partly (b : Nat) : State := { s1 with ctx := { r.ctx.raise r.flags with vstart := BitVec.ofNat 11 b } }.charge (16 * r.rows)
  match r.failed, stop with
  | some (first, row), _ => raise (partly first) (exc .matrixCheck row 0)
  | none, some e => raise (partly top) e
  | none, none =>
    if top < s.ctx.vl.toNat then .next { partly top with cut := .ended }
    else matrixDone wells (16 * (top - lo)) (r.ctx, r.flags) (match s1.mmaSeq with | some q => leaveRing q s1 | none => s1)

/-- Where the rows of A of an `mma` come from: the ring under a sequence number, or the registers, which a leader sends on. -/
def execMmaRows (fm : MatFormat) (c a b : BitVec 6) (s : State) : Out :=
  let x := s.ctx
  let vl := x.vl.toNat
  let asc := bits (x.getOx 4) 5 0
  let bsc := bits (x.getOx 4) 11 6
  let lo := x.vstart.toNat
  let last := s.lastElem 8 lo vl
  let blk := decide (fm.block ≠ 0)
  let o : VOp := { pred := 0, pinv := false, sources := [], dests := [(c.toNat, vl / 2)] }
  let ofB : List Source := ⟨b.toNat, 8, 512, 0, true⟩ :: (if blk then [⟨bsc, 1, 8, 0, true⟩] else [])
  let ofA : List Source := ⟨a.toNat, vl / 8, 512, 0, false⟩ :: (if blk then [⟨asc, 1, 8, 0, true⟩] else [])
  let stopAt (f : Option (Nat × Exc)) : Nat := match f with | some (n, _) => max lo (n / 8 * 8) | none => last
  match s.mmaSeq with
  | some q =>
    let need := (List.range ((last + 7) / 8 - lo / 8)).map (fun i => 8 * (lo / 8 + i))
    if need.any (fun m => (ringRow fm s.core s.taskKey q m).isNone) then waitHere s
    else
      let wells := x.wellsRead (ofB.map (fun r => (r.first, r.count)))
      wellsReady wells s fun s =>
        let l := landSources o lo last ofB s
        mmaRun fm c.toNat b.toNat bsc lo (stopAt l.2) wells
          (fun _ m => (ringRow fm s.core s.taskKey q m).getD []) (fun _ => []) (l.2.map (fun e => e.2)) l.1
  | none =>
    let fs := s.followers
    if fs.any (fun m => 56 < (s.coreOf m.1).ring.length + messagesTo s m.1 + vl / 8) then waitHere s
    else
      let srcs := ofA ++ ofB
      let wells := x.wellsRead (srcs.map (fun r => (r.first, r.count)))
      wellsReady wells s fun s =>
        let l := landSources o lo last srcs s
        mmaRun fm c.toNat b.toNat bsc lo (stopAt l.2) wells
          (fun x m => fm.row (x.row512 a.toNat m) (fm.scales x asc m))
          (fun top => fs.flatMap (fun m =>
            (leaderChunks fm l.1.ctx a.toNat asc l.1.taskKey.1 m.2 l.1.gangSeq lo top).map (fun d => Event.gangOperandMessage m.1 d)))
          (l.2.map (fun e => e.2)) l.1

/-- MMA (R187, R188). -/
def execMma (c a b : BitVec 6) (f : BitVec 4) (s : State) : Out :=
  let x := s.ctx
  let vl := x.vl.toNat
  let ox := x.getOx 4
  let word := encMma c a b f
  match matFormat f with
  | none => illegal word s
  | some fm =>
    let cg := (c.toNat, vl / 2)
    whenOk (rowsOk x && tileHere s a (vl / 8) && decide (b.toNat % 8 = 0) && vecHere s (b.toNat + 7) && tileHere s c (vl / 2)
        && disjointGroups cg (a.toNat, vl / 8) && disjointGroups cg (b.toNat, 8)
        && (decide (fm.block = 0) || (s.hasOx && decide (bits ox 63 12 = 0) && disjointGroups cg (bits ox 5 0, 1)
              && disjointGroups cg (bits ox 11 6, 1)))) word s
      (if x.boundGroup cg then raise s (exc .boundRegisterAccess 0 0)
       else if vl ≤ x.vstart.toNat then matrixDone [] 0 (x, Flags.none) s
       else execMmaRows fm c a b s)

/-- Rows lo to top - 1 of another matrix instruction, by a function of the number of rows; it takes a cause, ends for a suspension,
or is complete. -/
def matrixTo (wells : List Nat) (lo top : Nat) (stop : Option Exc) (rows : Ctx → Nat → Ctx × Flags) (s : State) : Out :=
  let r := rows s.ctx (top - lo)
  match stop with
  | some e => vectorStop top lo r e s
  | none => if top < s.ctx.vl.toNat then vectorSuspend top lo r s else matrixDone wells ((top - lo) * s.ctx.group) r s

/-! ### mzero (R196) -/

/-- MZERO. -/
def execMzero (c : BitVec 6) (s : State) : Out :=
  let x := s.ctx
  let vl := x.vl.toNat
  let cg := (c.toNat, vl / 2)
  whenOk (rowsOk x && tileHere s c (vl / 2)) (encMzero c) s
    (if x.boundGroup cg then raise s (exc .boundRegisterAccess 0 0)
     else if vl ≤ x.vstart.toNat then matrixDone [] 0 (x, Flags.none) s
     else
       let lo := x.vstart.toNat
       matrixTo [] lo (s.lastElem 8 lo vl) none (fun x n => ((List.range n).foldl
         (fun c' k => writeRow c' c.toNat 32 (lo + k) (List.replicate 64 0)) x, Flags.none)) s)

/-! ### mepi (R197-R200) -/

/-- An output format: its width, registers per 8 rows, and the float format or none for i8 (R197). -/
structure OutFormat where
  width : Nat
  regs : Nat
  float : Option FloatFormat
deriving DecidableEq, Repr

/-- The output format of a fmt field; 6 to 15 are none. -/
def outFormat (f : BitVec 4) : Option OutFormat :=
  match f.toNat with
  | 0 => some ⟨32, 4, some fmtF32⟩
  | 1 => some ⟨16, 2, some fmtBf16⟩
  | 2 => some ⟨16, 2, some fmtF16⟩
  | 3 => some ⟨8, 1, some fmtE4m3⟩
  | 4 => some ⟨8, 1, some fmtE5m2⟩
  | 5 => some ⟨8, 1, none⟩
  | _ => none

/-- What an activation gives: an exact value, or a rounding of a transcendental (R199). -/
inductive ActValue where
  | exact (v : FVal)
  | gelu (neg : Bool) (m : Nat) (e : Int)
  | silu (neg : Bool) (m : Nat) (e : Int)
  | tanh (neg : Bool) (m : Nat) (e : Int)
deriving DecidableEq, Repr

/-- act(x) (R199). -/
def activate (act : Nat) (v : FVal) : ActValue :=
  match act, v with
  | 0, v => .exact v
  | _, .nan sg => .exact (.nan sg)
  | 1, .inf neg => .exact (if neg then .num false 0 0 else .inf false)
  | 1, .num neg m e => .exact (if neg ∨ m = 0 then .num false 0 0 else .num false m e)
  | 2, .inf neg => .exact (if neg then .num true 0 0 else .inf false)
  | 2, .num neg m e => if m = 0 then .exact (.num neg 0 0) else .gelu neg m e
  | 3, .inf neg => .exact (if neg then .num true 0 0 else .inf false)
  | 3, .num neg m e => if m = 0 then .exact (.num neg 0 0) else .silu neg m e
  | _, .inf neg => .exact (.num neg 1 0)
  | _, .num neg m e => if m = 0 then .exact (.num neg 0 0) else .tanh neg m e

/-- Whether a finite magnitude is above the largest finite value of a format. -/
def aboveLargest (f : FloatFormat) (m : Nat) (e : Int) : Bool :=
  match f.decode f.maxCode with
  | .num _ mm me => decide (0 < cmpNum false m e false mm me)
  | _ => false

/-- Round an activation's value into a float format, with SAT (R198, R199). gelu, silu and tanh lie below the magnitude of
their argument, so only a rounded result at or above the largest finite value can be above it. -/
def roundOutput (f : FloatFormat) (mode : RMode) (sat : Bool) (operand : Nat) (v : ActValue) : Nat × Flags :=
  match v with
  | .exact (.nan sg) => f.ofVal mode (.nan sg)
  | .exact (.inf neg) =>
    let r := f.ofVal mode (.inf neg)
    (if sat then f.sign neg + f.maxCode else r.1, r.2)
  | .exact (.num neg m e) =>
    let r := f.round mode neg m e
    (if sat && aboveLargest f m e then f.sign neg + f.maxCode else r.1, r.2)
  | .gelu neg m e => sateClamp f neg (geluRound f mode neg m e operand)
  | .silu neg m e => sateClamp f neg (siluRound f mode neg m e operand)
  | .tanh neg m e => sateClamp f neg (tanhRound f mode neg m e operand)
where
  /-- An overflow of a rounded transcendental under SAT. -/
  sateClamp (f : FloatFormat) (neg : Bool) (r : Nat × Flags) : Nat × Flags :=
    if sat && r.2.of then (f.sign neg + f.maxCode, r.2) else r

/-- Round an activation's value to a signed 8-bit integer (R199): a transcendental is first placed between integers by a
rounding with more bits, which cannot cross a half as its value is irrational. -/
def roundInt8 (mode : RMode) (operand : Nat) (v : ActValue) : Nat × Flags :=
  let wide : FloatFormat := ⟨2, 80, 60, 1023, true, true⟩
  let trans (r : Nat × Flags) : Nat × Flags :=
    match wide.decode r.1 with
    | .num neg m e => toInteger mode true 8 (.num neg (2 * m + 1) (e - 1))
    | v => toInteger mode true 8 v
  match v with
  | .exact v => toInteger mode true 8 v
  | .gelu neg m e => trans (geluRound wide .rtz neg m e operand)
  | .silu neg m e => trans (siluRound wide .rtz neg m e operand)
  | .tanh neg m e => trans (tanhRound wide .rtz neg m e operand)

/-- The exact x of R199 and the flags met. -/
def epilogueValue (mode : RMode) (c scale : FVal) (bias : Option FVal) : FVal × Flags :=
  let p := mulVal c scale
  match bias with
  | none => p
  | some b => let r := addVal mode p.1 b; (r.1, p.2.union r.2)

/-- One step of Fletcher-32 on the halfwords of a row held as a number (R200). -/
def fletcherLoop : Nat → Nat → Nat → Nat → Nat
  | 0, _, a, b => b * 65536 + a
  | n + 1, x, a, b =>
    let a1 := (a + x % 65536) % 65535
    fletcherLoop n (x / 65536) a1 ((b + a1) % 65535)

/-- CK of a row of a number of bytes (R200). -/
def fletcher (bytes x : Nat) : Nat := fletcherLoop (bytes / 2) x 0 0

/-- A row of 64 codes as a number. -/
def joinCodes (w : Nat) : List Nat → Nat
  | [] => 0
  | x :: l => x % 2 ^ w + 2 ^ w * joinCodes w l

/-- The fields of ox5 (R198). -/
structure Epilogue where
  ck : Nat
  ckEn : Bool
  biasEn : Bool
  act : Nat
  sat : Bool
  scale : FVal
deriving DecidableEq, Repr

def epilogueOf (w : Word) : Epilogue where
  ck := bits w 5 0
  ckEn := w.getLsbD 6
  biasEn := w.getLsbD 7
  act := bits w 10 8
  sat := w.getLsbD 11
  scale := if bits w 63 32 = 0 then .num false 1 0 else fmtF32.val (bits w 63 32)

/-- One row of mepi: its codes and flags. -/
def mepiRow (f : OutFormat) (mode : RMode) (d : Epilogue) (c : Ctx) (va vb m : Nat) : List (Nat × Flags) :=
  (List.range 64).map (fun n =>
    let code := c.elem va 32 (64 * m + n)
    let x := epilogueValue mode (fmtF32.val code) d.scale (if d.biasEn then some (fmtF32.val (c.elem vb 32 n)) else none)
    let y := activate d.act x.1
    let r := match f.float with
      | some ff => roundOutput ff mode d.sat code y
      | none => roundInt8 mode code y
    (r.1, x.2.union r.2))

/-- Rows of mepi from m on. -/
def mepiRows (f : OutFormat) (mode : RMode) (d : Epilogue) (c0 : Ctx) (vc va vb : Nat) : Nat → Nat → Ctx × Flags → Ctx × Flags
  | 0, _, r => r
  | n + 1, m, r =>
    let row := mepiRow f mode d c0 va vb m
    let codes := row.map (fun x => x.1)
    let c1 := writeRow r.1 vc f.width m codes
    let c2 := if d.ckEn then c1.setElem d.ck 32 m (fletcher (8 * f.width) (joinCodes f.width codes)) else c1
    mepiRows f mode d c0 vc va vb n (m + 1) (c2, r.2.union (joinFlags row))

/-- Pairwise disjoint register ranges. -/
def allDisjoint : List (Nat × Nat) → Bool
  | [] => true
  | r :: l => l.all (disjointGroups r) && allDisjoint l

/-- MEPI. -/
def execMepi (c a b : BitVec 6) (f : BitVec 4) (s : State) : Out :=
  let x := s.ctx
  let vl := x.vl.toNat
  let ox := x.getOx 5
  let d := epilogueOf ox
  let word := encMepi c a b f
  match outFormat f with
  | none => illegal word s
  | some fm =>
    let og := (c.toNat, vl / 8 * fm.regs)
    let ag := (a.toNat, vl / 2)
    let extra := (if d.biasEn then [(b.toNat, 1)] else []) ++ (if d.ckEn then [(d.ck, 1)] else [])
    let same := decide (c = a) && decide (f = 0)
    whenOk (rowsOk x && s.hasOx && decide (bits ox 31 12 = 0) && decide (d.act ≤ 4) && (d.biasEn || decide (b = 0))
        && tileHere s c og.2 && tileHere s a ag.2 && allDisjoint (og :: extra) && allDisjoint (ag :: extra)
        && (same || disjointGroups og ag)) word s
      (let o : VOp := { pred := 0, pinv := false, sources := [], dests := og :: (if d.ckEn then [(d.ck, 1)] else []), whole := false }
       let lo := x.vstart.toNat
       if x.destBound o then raise s (exc .boundRegisterAccess 0 0)
       else if vl ≤ lo then matrixDone [] 0 (x, Flags.none) s
       else
         let srcs := ⟨a.toNat, ag.2, 2048, 0, false⟩ :: (if d.biasEn then [⟨b.toNat, 1, 32, 0, true⟩] else [])
         let wells := x.wellsRead (srcs.map (fun r => (r.first, r.count)))
         let last := s.lastElem 8 lo vl
         wellsReady wells s fun s =>
         let l := landSources o lo last srcs s
         matrixTo wells lo (match l.2 with | some (top, _) => max lo top | none => last) (l.2.map (fun e => e.2))
           (fun x n => mepiRows fm (rmodeOf x.frm) d x c.toNat a.toNat b.toNat n lo (x, Flags.none)) l.1)

/-! ### mcks (R201) -/

/-- Checksum words of rows from m on. -/
def mcksRows (bytes : Nat) (c0 : Ctx) (vc va : Nat) : Nat → Nat → Ctx → Ctx
  | 0, _, r => r
  | n + 1, m, r => mcksRows bytes c0 vc va n (m + 1) (r.setElem vc 32 m (fletcher bytes (c0.elem va (8 * bytes) m)))

/-- MCKS. -/
def execMcks (c a : BitVec 6) (f : BitVec 4) (s : State) : Out :=
  let x := s.ctx
  let vl := x.vl.toNat
  let word := encMcks c a f
  match outFormat f with
  | none => illegal word s
  | some fm =>
    let ag := (a.toNat, vl / 8 * fm.regs)
    whenOk (rowsOk x && vecHere s c.toNat && tileHere s a ag.2 && disjointGroups (c.toNat, 1) ag) word s
      (let o : VOp := { pred := 0, pinv := false, sources := [], dests := [(c.toNat, 1)] }
       let lo := x.vstart.toNat
       if x.destBound o then raise s (exc .boundRegisterAccess 0 0)
       else if vl ≤ lo then matrixDone [] 0 (x, Flags.none) s
       else
         let srcs : List Source := [⟨a.toNat, ag.2, 64 * fm.width, 0, false⟩]
         let wells := x.wellsRead (srcs.map (fun r => (r.first, r.count)))
         let last := s.lastElem 8 lo vl
         wellsReady wells s fun s =>
         let l := landSources o lo last srcs s
         matrixTo wells lo (match l.2 with | some (top, _) => max lo top | none => last) (l.2.map (fun e => e.2))
           (fun x n => (mcksRows (8 * fm.width) x c.toNat a.toNat n lo x, Flags.none)) l.1)

end Sys2Proof.Machine
end

