-- ==== Sys2Proof/Machine/Route.lean ====
section
/-! DEFINITION. The promises of transfers that rest on hops and boundaries (R22, R207, R261, R268), and the start of transfers. -/

namespace Sys2Proof.Machine

/-- Route to the slice of a line (R207). -/
def routeToLine (s : State) (core pa : Nat) : Nat × Nat :=
  let sl := sliceOf pa
  route s core (homeDie pa) (if sl % 2 = 0 then -1 else 16) (sl / 2)

/-- Promise of an asynchronous load past its issue (R261); of a control-space line, which the table does not hold, 420 (DESIGN CHOICE,
log entry 71). -/
def loadPromise (s : State) : Target → Nat
  | .peer .. => 1800
  | .phys pa _ =>
    match spaceOf pa with
    | .durable => 2400
    | .hbm => let r := routeToLine s s.cur pa; 420 + 2 * r.1 + 30 * r.2
    | _ => 420

/-- Kind 1 token (R366). -/
def transferToken (core ch : Nat) (id : BitVec 32) : Word :=
  BitVec.ofNat 64 (id.toNat + ch * 2 ^ 32 + colOf core * 2 ^ 34 + rowOf core * 2 ^ 38 + dieOf core * 2 ^ 42 + 2 ^ 60)

/-- Kind 8 and 9 tokens (R366). -/
def replyToken (kind core seq : Nat) : Word :=
  BitVec.ofNat 64 (seq % 2 ^ 32 + colOf core * 2 ^ 32 + rowOf core * 2 ^ 36 + dieOf core * 2 ^ 40 + kind * 2 ^ 60)

/-- The next sequence number of the core's reply tokens (R366), with the promise of the reply, if it has one (R44). -/
def newReply (s : State) (promise : Option Word) : Nat × State :=
  let q := s.core.nextSeq % 2 ^ 32
  let k := { s.core with
    nextSeq := s.core.nextSeq + 1
    replies := s.core.replies.filter (fun e => e.1 ≠ q)
    promises := s.core.promises.filter (fun e => e.1 ≠ q) ++ (match promise with | some p => [(q, p)] | none => []) }
  (q, { s with core := k })

/-- Room for a transfer on a channel: 64 outstanding (R368). -/
def channelRoom (s : State) (ch : Fin 4) : Bool := decide (s.core.chans[ch].out.length < 64)

/-- Whether an id is among the newest 256 of a channel, whose status it keeps (R368). -/
def Channel.keeps (c : Channel) (id : BitVec 32) : Bool := decide ((c.nextId - 1 - id).toNat < 256)

/-- Start a transfer on a channel: it takes the next id (R267). -/
def startTransfer (s : State) (ch : Fin 4) (promise nextStart : Word) (job : Job) : State :=
  let c := s.core.chans[ch]
  let key := s.taskKey
  let t : Transfer := { id := c.nextId, promise := promise, serial := key.1, tid := key.2, part := s.part, priv := s.privileged,
                        pc := s.ctx.pc, job := job, parked := false, late := false }
  { s with core := { s.core with chans := s.core.chans.set ch { c with nextId := c.nextId + 1, nextStart := nextStart, out := c.out ++ [t] } } }

end Sys2Proof.Machine
end

