-- ==== Sys2Proof/Machine/Loads.lean ====
section
/-! DEFINITION. Scalar loads and stores, the asynchronous load, place loads and stores, the scalar presence store, and
the operand-extension load (R136, R137, R260-R263). -/

namespace Sys2Proof.Machine

/-- Value of loaded bytes, sign- or zero-extended (R260). -/
def loadValue (signed : Bool) (n : Nat) (bytes : List Byte) : Word :=
  if signed then wrap64 (sext (leNat bytes) (8 * n)) else BitVec.ofNat 64 (leNat bytes)

/-- A scalar load of an instruction of `size` bytes (R259, R260). -/
def loadScalar (size : Nat) (d : BitVec 5) (signed : Bool) (n : Nat) (va : Word) (s : State) : Out :=
  addressOk s (if misalignedAt va n then raise s (exc .misaligned 0 va)
  else withRes s (readVa s va n Need.read) fun r => complete size 1 (r.2.setX d (loadValue signed n r.1)))

/-- The Peer fault of an access, which stands before what a release waits for (R84, R259). -/
def peerFirst (s : State) (va : Word) (need : Need) (k : Out) : Out :=
  match translate s s.part s.privileged va need with
  | .error e => if e.cause = .peerFault then raise s e else k
  | .ok _ => k

/-- A scalar store (R259, R260). -/
def storeScalar (size : Nat) (v : Word) (n : Nat) (va : Word) (s : State) : Out :=
  addressOk s (if misalignedAt va n then raise s (exc .misaligned 0 va)
  else peerFirst s va Need.write (storeAfterFence s fun s1 =>
    withRes s1 (writeVa s1 false va (natBytes n v.toNat) Need.write) fun s2 => complete size 1 s2))

def execLd (d b : BitVec 5) (z : BitVec 2) (o : BitVec 12) (s : State) : Out :=
  loadScalar 4 d true (sizeBytes z) (s.addrM b z o) s
def execLdN (d b : BitVec 5) (z : BitVec 2) (o : BitVec 12) (s : State) : Out :=
  loadScalar 4 d false (sizeBytes z) (s.addrM b z o) s
def execSt (d b : BitVec 5) (z : BitVec 2) (o : BitVec 12) (s : State) : Out :=
  storeScalar 4 (s.x d) (sizeBytes z) (s.addrM b z o) s
def execCLd (a b : BitVec 5) (s : State) : Out := loadScalar 2 a true 8 (s.x b) s
def execCSt (a b : BitVec 5) (s : State) : Out := storeScalar 2 (s.x a) 8 (s.x b) s
def execCLdw (a b : BitVec 5) (s : State) : Out := loadScalar 2 a false 4 (s.x b) s
def execCStw (a b : BitVec 5) (s : State) : Out := storeScalar 2 (s.x a) 4 (s.x b) s

/-- Error bits of a cause (R369). -/
def Exc.bits (e : Exc) : BitVec 24 := BitVec.ofNat 24 (e.cause.code + e.sub % 65536 * 256)

/-- An asynchronous load into a register with its data, or with the error its token will carry (R261). -/
def loadAhead (s : State) (d : BitVec 5) (va : Word) (n : Nat) : Job × State :=
  match readVa s va n Need.read with
  | .ok x => (.load d (BitVec.ofNat 64 (leNat x.1)) none true, x.2)
  | .error e => (.load d 0 (some e.bits) true, (countConsumed s e).fresh)

/-- LDA (R261): the checks up to translation are precise; poison and what a peer answers reach the token. It is no transfer of its
channel that the next xcopy's start counts from (R268; DESIGN CHOICE, log entry 71). -/
def execLda (d b : BitVec 5) (z : BitVec 2) (t : BitVec 5) (o : BitVec 7) (s : State) : Out :=
  whenOk (ldaOk d t) (encLda d b z t o) s
    (let va := s.addrM b z o
     let n := sizeBytes z
     addressOk s <| if misalignedAt va n then raise s (exc .misaligned 0 va)
     else withRes s (translate s s.part s.privileged va Need.read) fun tgt =>
       if !channelRoom s 3 then waitHere s
       else
         let c := s.core.chans[3]
         let r := loadAhead s d va n
         let s1 := startTransfer r.2 3 (s.cyc + BitVec.ofNat 64 (loadPromise s tgt)) c.nextStart r.1
         let s2 := { s1 with pending := s1.pending ++ [Event.ldaDataArrival s.cur c.nextId.toNat] }
         complete 4 1 (s2.setX t (transferToken s.cur 3 c.nextId)))

/-! ### Place forms (R262, R263) -/

/-- Signed byte offset of a place form. -/
def placeOffset (s : State) (b : BitVec 5) : Int := (s.x b).toInt

/-- Whether the target of a place access is a multiple of its size; taken before the bounds (R84, R259). -/
def placeMisaligned (w : Word) (off : Int) (n : Nat) : Bool := decide (((bits w 19 0 : Int) + off) % (n : Int) ≠ 0)

/-- LDP (R262). -/
def execLdp (d a b : BitVec 5) (x : BitVec 1) (z : BitVec 2) (s : State) : Out :=
  let n := sizeBytes z
  let w := s.x a
  addressOk s <| if placeMisaligned w (placeOffset s b) n then raise s (exc .misaligned 0 w)
  else withRes s (placeOf s w (placeOffset s b) n) fun p => whenAwake s p.1 p.2 n fun s1 =>
    withRes s1 (readPlace s1 w (placeOffset s b) n) fun r => complete 4 1 (r.2.setX d (loadValue (x = 1) n r.1))

/-- STP (R262): presence bits are unchanged. -/
def execStp (d a b : BitVec 5) (z : BitVec 2) (s : State) : Out :=
  let n := sizeBytes z
  let w := s.x a
  addressOk s <| if placeMisaligned w (placeOffset s b) n then raise s (exc .misaligned 0 w)
  else withRes s (placeOf s w (placeOffset s b) n) fun p => storeAfterFence s fun s1 => whenAwake s1 p.1 p.2 n fun s2 =>
    withRes s2 (writePlace s2 w (placeOffset s b) (natBytes n (s.x d).toNat)) fun s3 => complete 4 1 s3.released

/-- LDP_C (R262): the word's presence bit is cleared. -/
def execLdpC (d a b : BitVec 5) (s : State) : Out :=
  let w := s.x a
  let off := placeOffset s b
  addressOk s <| if placeMisaligned w off 8 then raise s (exc .misaligned 0 w)
  else withRes s (placeOf s w off 8) fun p => whenAwake s p.1 p.2 8 fun s1 =>
    withRes s1 (readPlace s1 w off 8) fun r => complete 4 1 ((consumeWord r.2 p.1 p.2).setX d (loadValue false 8 r.1))

/-- PST, the scalar form (R263): a release at .pkg. -/
def execPst (b d : BitVec 5) (s : State) : Out :=
  let w := s.x b
  addressOk s <| if bits w 2 0 ≠ 0 then raise s (exc .misaligned 0 w)
  else withRes s (placeOf s w 0 8) fun p => releaseAt 3 s fun s1 => complete 4 1 (sendPresence s1.released false p.1 p.2 (s.x d))

/-! ### oxl (R136, R137) -/

/-- The doublewords of an oxl; every check precedes every write, and the first that fails is named. A line is fetched once. -/
def readDoublewords (s : State) (va : Word) (newLine : Bool) : Nat → Res (List Word × State)
  | 0 => .ok ([], s)
  | n + 1 =>
    match readAs s .scalar s.part s.privileged va 8 Need.read newLine with
    | .error e => .error e
    | .ok (bs, s1) =>
      match readDoublewords s1 (va + 8) (decide ((va + 8).toNat % 128 = 0)) n with
      | .error e => .error e
      | .ok (ws, s2) => .ok (BitVec.ofNat 64 (leNat bs) :: ws, s2)

/-- Write registers ox(n) upwards. -/
def setOxs (c : Ctx) (n : Nat) : List Word → Ctx
  | [] => c
  | w :: l => setOxs (c.setOx n w) (n + 1) l

/-- OXL (R136, R137). -/
def execOxl (n a b : BitVec 5) (k : BitVec 3) (s : State) : Out :=
  whenOk (oxRangeOk n k && s.hasOx) (encOxl n a b k) s
    (let va := s.x a + s.x b
     addressOk s <| if misalignedAt va 8 then raise s (exc .misaligned 0 va)
     else withRes s (readDoublewords s va true (k.toNat + 1)) fun r =>
       complete 4 1 { r.2 with ctx := setOxs r.2.ctx n.toNat r.1 })

end Sys2Proof.Machine
end

