-- ==== Sys2Proof/Machine/Maintenance.lean ====
section
/-! DEFINITION. Fences, persist barriers, prefetch, cache maintenance, pan formats and delegation (R276-R280). Loads are done when
they issue; what a fence has to wait for is in the store buffer, in update-only lines, or on its way. -/

namespace Sys2Proof.Machine

/-! ### Fences (R236, R276) -/

/-- Fields of a fence. -/
def fenceFields (sc : BitVec 3) (word : Nat) (s : State) (k : Out) : Out := whenOk (fenceScopeOk sc) word s k

def execFence (sc : BitVec 3) (s : State) : Out :=
  fenceFields sc (encFence sc) s (orderAt sc.toNat s fun s1 => complete 4 1 s1)
/-- FENCE_REL: the next store waits at the scope, the wider one where an earlier `fence.rel` has had no store (R236, R237). -/
def execFenceRel (sc : BitVec 3) (s : State) : Out :=
  let scope := match s.ctx.release with | none => sc.toNat | some c => widerScope c sc.toNat
  fenceFields sc (encFenceRel sc) s (complete 4 1 { s with ctx := { s.ctx with release := some scope } })
/-- FENCE_ACQ: earlier loads are done, and the last of them acquires what it read (R236, R237, R244); at .pod the die's RDC drops the
fabric lines of the partition (R223). -/
def execFenceAcq (sc : BitVec 3) (s : State) : Out :=
  fenceFields sc (encFenceAcq sc) s
    (let s1 := s.acquire (sc = 4) s.ctx.seen
     complete 4 1 { s1 with ctx := { s1.ctx with seen := none } })
def execFenceScPkg (s : State) : Out := orderAt 3 s fun s1 => complete 4 1 s1
/-- FENCE_SV: earlier scalar accesses before later vector-queue accesses (R235). -/
def execFenceSv (s : State) : Out := complete 4 1 (combineStream (s.publishStream false) false)
/-- FENCE_VS: earlier vector-queue accesses before later scalar accesses (R235). -/
def execFenceVs (s : State) : Out := complete 4 1 (combineStream (s.publishStream true) true)

/-! ### Persist barriers (R253, R277) -/

/-- PBAR_ORDER: later durable stores of the task, or of the routine, persist after the earlier ones: a new epoch (R253). -/
def execPbarOrder (s : State) : Out := complete 4 1 { s with ctx := { s.ctx with epoch := s.ctx.epoch + 1 } }

/-- PBAR_COMPLETE: waits until every earlier durable store has persisted (R253). -/
def execPbarComplete (s : State) : Out := complete 4 1 s.drain.persistAll

/-- The durable stores up to the last one of the task on a line. -/
def upToLine (core : Nat) (key : Nat × Nat) (line : Nat) : List Durable → List Durable
  | [] => []
  | d :: l =>
    let rest := upToLine core key line l
    if !rest.isEmpty || (d.serial = key.1 && d.tid = key.2 && (key.1 ≠ 0 || d.core = core) && d.pa / 128 = line) then d :: rest else []

/-- PFLUSH: the checks of a load; a durable line waits for the task's stores to it (R277). -/
def execPflush (a : BitVec 5) (s : State) : Out :=
  addressOk s <| withRes s (translate s s.part s.privileged (s.x a) Need.read) fun t =>
    match t with
    | .phys pa entry =>
      if spaceOf pa = .durable then
        let s1 := (markUsed s entry false).drain
        complete 4 1 (acceptAll s1 (upToLine s1.cur s1.taskKey (pa / 128) s1.durable))
      else complete 4 1 (markUsed s entry false)
    | .peer _ _ entry => complete 4 1 (markUsed s entry false)

/-! ### Prefetch (R278) -/

/-- A prefetch never raises a cause; a translation it uses is marked (R320). One that would fault, or that names a line no cache may
hold, a durable line or a control-space address, is dropped. -/
def prefetch (l1 : Bool) (va : Word) (s : State) : Out :=
  let top (key : Nat) (s : State) : State := if l1 && !s.core.l1.contains key then fillL1 s key else s
  match translate s s.part s.privileged va Need.read with
  | .ok (.phys pa u) =>
    complete 4 1 (markUsed (if holdsLine u.leaf pa ∧ spaceOf pa = .hbm then top (pa / 128) (fetchRdc s pa) else s) u false)
  | .ok (.peer p addr u) =>
    if u.leaf.cacheable then match cachedLine s .engine s.part p addr va with
      | .ok r => complete 4 1 (markUsed (top (fabricKey s.part p addr) r.2) u false)
      | .error _ => complete 4 1 s.fresh
    else complete 4 1 s
  | .error _ => complete 4 1 s

def execPrefL1 (b : BitVec 5) (z : BitVec 2) (o : BitVec 12) (s : State) : Out := prefetch true (s.addrM b z o) s
def execPrefL2 (b : BitVec 5) (z : BitVec 2) (o : BitVec 12) (s : State) : Out := prefetch false (s.addrM b z o) s

/-! ### Cache maintenance (R280) -/

/-- A line operation translates as a store would (R280, R320). -/
def lineOp (va : Word) (s : State) (f : Target → State → State) : Out :=
  addressOk s <| withRes s (checkStore s va) fun t => complete 4 1 (f t (match t with
    | .phys _ u => markUsed s u true
    | .peer _ _ u => markUsed s u true))

/-- A line leaves the executing core's L1 and its die's RDC. -/
def dropLine (key : Nat) (s : State) : State :=
  let s1 := { s with core := { s.core with l1 := s.core.l1.filter (fun k => k ≠ key) } }
  match s1.rdcLine (dieOf s1.cur) key with
  | some l => dropRdc s1 l
  | none => s1

/-- CMO_INV: what a copy of a line homed here holds is at its home already; a fabric line is fetched anew (R223). -/
def execCmoInv (a : BitVec 5) (s : State) : Out :=
  lineOp (s.x a) s (fun t s => match t with
    | .phys pa _ => dropLine (pa / 128) s
    | .peer p addr _ => dropLine (fabricKey s.part p addr) s)

/-- The copy of a line in the executing die's RDC is written to its home: it is clean, and its home holds what it held (log entry 16). -/
def cleanLine (key : Nat) (s : State) : State :=
  { s with rdc := s.rdc.map (fun l => if l.die = dieOf s.cur ∧ l.key = key then { l with dirty := false } else l) }

/-- CMO_WB: the copy stays. -/
def execCmoWb (a : BitVec 5) (s : State) : Out :=
  lineOp (s.x a) s (fun t s => match t with
    | .phys pa _ => cleanLine (pa / 128) s
    | .peer .. => s)

/-- CMO_ZERO: a store of 128 zero bytes. -/
def execCmoZero (a : BitVec 5) (s : State) : Out :=
  let va := s.x a
  addressOk s <| if misalignedAt va 128 then raise s (exc .misaligned 0 va)
  else peerFirst s va Need.write (storeAfterFence s fun s1 =>
    withRes s1 (writeVa s1 false va (List.replicate 128 0) Need.write) fun s2 => complete 4 1 s2)

/-- CMO_OBJCLR: privileged; clears the object bits of the line (R229). -/
def execCmoObjclr (a : BitVec 5) (s : State) : Out :=
  whenPrivileged s
    (lineOp (s.x a) s (fun t s => match t with
      | .phys pa _ => { s with objects := setDropRange s.objects (pa / 128 * 8) 8 }
      | .peer .. => s))

/-- The pan operand: 0 to 15, claimed in the task's partition (R280, R211). -/
def panOperand (s : State) (w : Word) : Res (Fin 16) :=
  if h : w.toNat < 16 then
    match padRefusal s s.part s.privileged s.cur w.toNat with
    | some k => .error (exc .protection k w)
    | none => .ok ⟨w.toNat, h⟩
  else .error (exc .bounds 0 w)

/-- PFMT as it reads: RETST is 1 in and around retention (R213, R219). -/
def pfmtValue (k : Core) (p : Fin 16) : Word :=
  BitVec.ofNat 64 (k.pfmt[p].toNat % 256 + (if k.retention[p] = .active then 0 else 256))

def execCmoPfr (d a : BitVec 5) (s : State) : Out :=
  withRes s (panOperand s (s.x a)) fun p => complete 4 1 (s.setX d (pfmtValue s.core p))

/-- Whether a PFMT value names an assigned format and width (R214). -/
def pfmtOk (v : Word) : Bool := vtypeOk (BitVec.ofNat 4 (bits v 6 3)) (BitVec.ofNat 3 (bits v 2 0))

/-- CMO_PFW (R214): the task's earlier accesses to the pan are done first; RETEN = 0 starts the exit from retention (R219). -/
def execCmoPfw (a b : BitVec 5) (s : State) : Out :=
  whenOk (pfmtOk (s.x b)) (encCmoPfw a b) s
    (withRes s (panOperand s (s.x a)) fun p =>
      let v := s.x b
      let s := landInRange s s.cur (65536 * p) 65536
      let k := { s.core with pfmt := s.core.pfmt.set p (BitVec.ofNat 9 (bits v 7 0)) }
      if !v.getLsbD 7 && (k.retention[p] == .retained || k.retention[p] == .entering || k.retention[p] == .recalled) then
        complete 4 1 { s with core := { k with retention := k.retention.set p .leaving, panTime := k.panTime.set p s.cyc },
                              pending := s.pending ++ [Event.retentionExit s.cur p] }
      else complete 4 1 (armRetention { s with core := k } s.cur p))

/-! ### Delegation (R279) -/

/-- The checks of a delegation: the block is 64 B aligned, the place names a core with OFF 0, the block loads. -/
def delegationOperands (s : State) (a b : BitVec 5) : Res (Nat × List Word × State) :=
  let va := s.x b
  if misalignedAt va 64 then .error (exc .misaligned 0 va)
  else match coreOperand s (s.x a) with
    | .error e => .error e
    | .ok c => match readVa s va 64 Need.read with
      | .error e => .error e
      | .ok r => .ok (c, bytesToWords 8 r.1, r.2)

/-- DLG: a release at .pkg; the reply token names this core (R248, R279). -/
def execDlg (t a b : BitVec 5) (s : State) : Out :=
  addressOk s <| withRes s (delegationOperands s a b) fun r =>
    let s1 := r.2.2.publish
    let q := newReply s1 none
    let s2 := { q.2 with pending := q.2.pending ++ [Event.delegation r.1 s.cur q.1 s.part s.privileged r.2.1] }
    complete 4 1 (s2.setX t (replyToken 9 s.cur q.1))

/-- DLG_AM: an active message has no token and no reply (R279). -/
def execDlgAm (a b : BitVec 5) (s : State) : Out :=
  addressOk s <| withRes s (delegationOperands s a b) fun r =>
    let s1 := r.2.2.publish
    complete 4 1 { s1 with pending := s1.pending ++ [Event.activeMessage r.1 s.cur s.part s.privileged r.2.1] }

end Sys2Proof.Machine
end

