-- ==== Sys2Proof/Machine/Csr.lean ====
section
/-! DEFINITION. The control and status registers (R111-R119, R133, R134): reading, writing, and the four instructions. -/

namespace Sys2Proof.Machine

/-- Access codes of R8. -/
inductive CsrAccess where
  | ro | rw | prw
deriving DecidableEq, Repr

/-- Access of an assigned CSR number (R117). -/
def csrAccess (n : Nat) : CsrAccess :=
  if n = 0x002 ∨ n = 0x004 ∨ n = 0x005 ∨ n = 0x00C ∨ n = 0x00D ∨ n = 0x00E then .rw
  else if 0x023 ≤ n ∧ n ≤ 0x027 then .rw
  else if 0x030 ≤ n ∧ n ≤ 0x03F then .rw
  else if 0x042 ≤ n ∧ n ≤ 0x044 then .prw
  else if 0x050 ≤ n ∧ n ≤ 0x057 then .prw
  else .ro

/-- Task-scope registers (R117, R118). -/
def taskCsr (c : Ctx) (n : Nat) : Word :=
  match n with
  | 0x000 => c.vl.zeroExtend 64
  | 0x001 => c.vty.zeroExtend 64
  | 0x002 => c.vstart.zeroExtend 64
  | 0x003 => c.vdmap
  | 0x004 => c.ffl.zeroExtend 64
  | 0x005 => c.frm.zeroExtend 64
  | 0x006 => c.tid.zeroExtend 64
  | 0x007 => c.wcoord.zeroExtend 64
  | 0x008 => c.lid.zeroExtend 64
  | 0x009 => c.prio.zeroExtend 64
  | 0x00A => c.xprom
  | 0x00B => c.gangst.zeroExtend 64
  | 0x00C => c.epc
  | 0x00D => c.ecause.zeroExtend 64
  | 0x00E => c.eaddr
  | 0x025 => c.bwmask.zeroExtend 64
  | _ => 0

/-- Launch-scope registers (R117, R118). -/
def launchCsr (l : LaunchCopy) (n : Nat) : Word :=
  match n with
  | 0x020 => l.ebacc.zeroExtend 64
  | 0x021 => l.ehandler
  | 0x022 => l.lmtbase.zeroExtend 64
  | 0x023 => l.awto.zeroExtend 64
  | 0x024 => l.bwto.zeroExtend 64
  | 0x026 => l.raketh.zeroExtend 64
  | 0x027 => l.mckth.zeroExtend 64
  | _ => (l.hs[n - 0x030]?.getD 0).zeroExtend 64

/-- CRD: the logical place of the core (R119). -/
def crdOf (core : Nat) : Word := BitVec.ofNat 64 (colOf core + rowOf core * 16 + dieOf core * 256)

/-- Core-scope registers (R117, R118). -/
def coreCsr (s : State) (n : Nat) : Word :=
  if n = 0x040 then s.cyc
  else if n = 0x041 then crdOf s.cur
  else if n = 0x042 then s.core.cclim.zeroExtend 64
  else if n = 0x043 then s.core.qntm.zeroExtend 64
  else if n = 0x044 then s.core.swth.zeroExtend 64
  else if n < 0x050 then match s.core.chans[n - 0x048]? with
    | some c => c.xdone.zeroExtend 64
    | none => 0
  else s.core.pmc[n - 0x050]?.getD 0

/-- Value of a CSR (R117). A read of EBACC or of a counter, which R121 leaves unordered with the vector queue, includes every earlier
instruction (DESIGN CHOICE, log entry 68). -/
def State.csr (s : State) (c : BitVec 12) : Word :=
  let n := c.toNat
  if n ≤ 0x00E ∨ n = 0x025 then taskCsr s.ctx n
  else if n < 0x040 then launchCsr s.lc n
  else coreCsr s n

/-- The value FRM stores: 6 and 7 store 0 (R134). -/
def frmOf (v : Word) : BitVec 3 := if bits v 2 0 < 6 then BitVec.ofNat 3 (bits v 2 0) else 0
/-- The value CCLIM stores: the whole value clamped to 2-48 (R134, R40). -/
def cclimOf (v : Word) : BitVec 6 := BitVec.ofNat 6 (max 2 (min 48 v.toNat))
/-- The value QNTM stores: 0 stores 1 (R134). -/
def qntmOf (v : Word) : BitVec 32 := if v.setWidth 32 = 0 then 1 else v.setWidth 32

/-- A write of BWMASK: a cleared bit ends the enrolment on its line (R378). A routine's own copy enrols nobody. -/
def setBwmask (s : State) (v : Word) : State :=
  let old := s.ctx.bwmask
  let s1 := { s with ctx := { s.ctx with bwmask := v.setWidth 3 } }
  if s.inService then s1 else endEnrolment s1 (linesOfMask s.cur (old &&& ~~~(v.setWidth 3)))

/-- A write of CCLIM evicts at once when more records are held (R40, R41). -/
def setCclim (s : State) (v : Word) : State :=
  makeRoom 65 { s with core := { s.core with cclim := cclimOf v, cclimSet := cclimOf v } } 0 0 none false

/-- The store of a value into a writable CSR (R134). -/
def State.csrStore (s : State) (c : BitVec 12) (v : Word) : State :=
  let n := c.toNat
  if n = 0x002 then { s with ctx := { s.ctx with vstart := v.setWidth 11 } }
  else if n = 0x004 then { s with ctx := { s.ctx with ffl := v.setWidth 5 } }
  else if n = 0x005 then { s with ctx := { s.ctx with frm := frmOf v } }
  else if n = 0x00C then { s with ctx := { s.ctx with epc := v } }
  else if n = 0x00D then { s with ctx := { s.ctx with ecause := v.setWidth 24 } }
  else if n = 0x00E then { s with ctx := { s.ctx with eaddr := v } }
  else if n = 0x023 then { s with lc := { s.lc with awto := v.setWidth 32 } }
  else if n = 0x024 then { s with lc := { s.lc with bwto := v.setWidth 32 } }
  else if n = 0x025 then setBwmask s v
  else if n = 0x026 then { s with lc := { s.lc with raketh := v.setWidth 32 } }
  else if n = 0x027 then { s with lc := { s.lc with mckth := v.setWidth 32 } }
  else if 0x030 ≤ n ∧ n ≤ 0x03F then { s with lc := { s.lc with hs := s.lc.hs.setIfInBounds (n - 0x030) (v.setWidth 32) } }
  else if n = 0x042 then setCclim s v
  else if n = 0x043 then { s with core := { s.core with qntm := qntmOf v } }
  else if n = 0x044 then { s with core := { s.core with swth := v.setWidth 16 } }
  else if 0x050 ≤ n ∧ n ≤ 0x057 then { s with core := { s.core with pmc := s.core.pmc.setIfInBounds (n - 0x050) v } }
  else s

/-- A CSR write by its access code (R134): none where it raises Privileged. -/
def State.csrWrite (s : State) (c : BitVec 12) (v : Word) : Option State :=
  match csrAccess c.toNat with
  | .ro => some s
  | .rw => some (s.csrStore c v)
  | .prw => if s.privileged then some (s.csrStore c v) else none

/-- The CSR instructions after their field checks: the new value if there is one, then sd := old (R133). -/
def csrOp (d : BitVec 5) (c : BitVec 12) (new : Option Word) (s : State) : Out :=
  let old := s.csr c
  match new with
  | none => complete 4 1 (s.setX d old)
  | some v => match s.csrWrite c v with
    | some s1 => complete 4 1 (s1.setX d old)
    | none => raise s (exc .privileged 0 0)

/-- CSRR (R133): no write. -/
def execCsrr (d : BitVec 5) (c : BitVec 12) (s : State) : Out :=
  whenOk (csrAssigned c) (encCsrr d c) s (csrOp d c none s)

/-- CSRW (R133): always a write. -/
def execCsrw (d a : BitVec 5) (c : BitVec 12) (s : State) : Out :=
  whenOk (csrAssigned c) (encCsrw d a c) s (csrOp d c (some (s.x a)) s)

/-- CSRS (R133): sets bits; s0 writes nothing. -/
def execCsrs (d a : BitVec 5) (c : BitVec 12) (s : State) : Out :=
  whenOk (csrAssigned c) (encCsrs d a c) s (csrOp d c (if a = 0 then none else some (s.csr c ||| s.x a)) s)

/-- CSRC (R133): clears bits; s0 writes nothing. -/
def execCsrc (d a : BitVec 5) (c : BitVec 12) (s : State) : Out :=
  whenOk (csrAssigned c) (encCsrc d a c) s (csrOp d c (if a = 0 then none else some (s.csr c &&& ~~~(s.x a))) s)

end Sys2Proof.Machine
end

