-- ==== Sys2Proof/Machine/Scalar.lean ====
section
/-! DEFINITION. Scalar arithmetic, constants, bit fields, place addresses, control transfer and the compressed forms of
them (R79, R123-R132, R138-R142). Scalar arithmetic sets no flag and never traps on its values (R123). -/

namespace Sys2Proof.Machine

/-! ### Pure operations (R127, R91) -/

/-- Shift amount: bits above 5 are ignored (R127). -/
def shamt (b : Word) : Nat := bits b 5 0
/-- rol (R127). -/
def rolWord (a b : Word) : Word := a.rotateLeft (shamt b)
/-- High half of the signed product (R127). -/
def mulHighSigned (a b : Word) : Word := BitVec.ofInt 64 (a.toInt * b.toInt / 2 ^ 64)
/-- High half of the unsigned product (R127). -/
def mulHighUnsigned (a b : Word) : Word := BitVec.ofNat 64 (a.toNat * b.toNat / 2 ^ 64)
/-- Signed quotient, rounded toward zero; by 0 all ones; -2^63 by -1 is -2^63 (R91). -/
def divSigned (a b : Word) : Word := if b = 0 then BitVec.allOnes 64 else BitVec.ofInt 64 (a.toInt.tdiv b.toInt)
/-- Unsigned quotient; by 0 all ones (R91). -/
def divUnsigned (a b : Word) : Word := if b = 0 then BitVec.allOnes 64 else BitVec.ofNat 64 (a.toNat / b.toNat)
/-- Signed remainder with the sign of the dividend; by 0 the dividend (R91). -/
def remSigned (a b : Word) : Word := if b = 0 then a else BitVec.ofInt 64 (a.toInt.tmod b.toInt)
/-- Unsigned remainder; by 0 the dividend (R91). -/
def remUnsigned (a b : Word) : Word := if b = 0 then a else BitVec.ofNat 64 (a.toNat % b.toNat)
/-- Leading zero bits of the low `n` bits of a number. -/
def leadingZeros (a : Nat) : Nat → Nat
  | 0 => 0
  | n + 1 => if a.testBit n then 0 else 1 + leadingZeros a n
/-- Trailing zero bits among `n` bits. -/
def trailingZeros (a : Nat) : Nat → Nat
  | 0 => 0
  | n + 1 => if a % 2 = 1 then 0 else 1 + trailingZeros (a / 2) n
/-- Number of 1 bits among `n` bits. -/
def onesIn (a : Nat) : Nat → Nat
  | 0 => 0
  | n + 1 => a % 2 + onesIn (a / 2) n
/-- 2^n - 1. -/
def maskOf (n : Nat) : Word := BitVec.ofNat 64 (2 ^ n - 1)

/-- A result into sd; the pc moves past (R123). -/
def scalarResult (size : Nat) (d : BitVec 5) (v : Word) (s : State) : Out := complete size 1 (s.setX d v)

/-! ### Register-register (R126, R127) -/

def execAdd (d a b : BitVec 5) (s : State) : Out := scalarResult 4 d (s.x a + s.x b) s
def execSub (d a b : BitVec 5) (s : State) : Out := scalarResult 4 d (s.x a - s.x b) s
def execAnd (d a b : BitVec 5) (s : State) : Out := scalarResult 4 d (s.x a &&& s.x b) s
def execOr (d a b : BitVec 5) (s : State) : Out := scalarResult 4 d (s.x a ||| s.x b) s
def execXor (d a b : BitVec 5) (s : State) : Out := scalarResult 4 d (s.x a ^^^ s.x b) s
def execAndn (d a b : BitVec 5) (s : State) : Out := scalarResult 4 d (s.x a &&& ~~~(s.x b)) s
def execShl (d a b : BitVec 5) (s : State) : Out := scalarResult 4 d (s.x a <<< shamt (s.x b)) s
def execShr (d a b : BitVec 5) (s : State) : Out := scalarResult 4 d (s.x a >>> shamt (s.x b)) s
def execSar (d a b : BitVec 5) (s : State) : Out := scalarResult 4 d ((s.x a).sshiftRight (shamt (s.x b))) s
def execRol (d a b : BitVec 5) (s : State) : Out := scalarResult 4 d (rolWord (s.x a) (s.x b)) s
def execMin (d a b : BitVec 5) (s : State) : Out := scalarResult 4 d (minSigned (s.x a) (s.x b)) s
def execMax (d a b : BitVec 5) (s : State) : Out := scalarResult 4 d (maxSigned (s.x a) (s.x b)) s
def execMinN (d a b : BitVec 5) (s : State) : Out := scalarResult 4 d (minUnsigned (s.x a) (s.x b)) s
def execMaxN (d a b : BitVec 5) (s : State) : Out := scalarResult 4 d (maxUnsigned (s.x a) (s.x b)) s
def execSlt (d a b : BitVec 5) (s : State) : Out := scalarResult 4 d (boolWord (ltSigned (s.x a) (s.x b))) s
def execSltN (d a b : BitVec 5) (s : State) : Out := scalarResult 4 d (boolWord (ltUnsigned (s.x a) (s.x b))) s
def execSeq (d a b : BitVec 5) (s : State) : Out := scalarResult 4 d (boolWord (s.x a = s.x b)) s
def execMul (d a b : BitVec 5) (s : State) : Out := scalarResult 4 d (s.x a * s.x b) s
def execMulh (d a b : BitVec 5) (s : State) : Out := scalarResult 4 d (mulHighSigned (s.x a) (s.x b)) s
def execMulhN (d a b : BitVec 5) (s : State) : Out := scalarResult 4 d (mulHighUnsigned (s.x a) (s.x b)) s
def execDiv (d a b : BitVec 5) (s : State) : Out := scalarResult 4 d (divSigned (s.x a) (s.x b)) s
def execDivN (d a b : BitVec 5) (s : State) : Out := scalarResult 4 d (divUnsigned (s.x a) (s.x b)) s
def execRem (d a b : BitVec 5) (s : State) : Out := scalarResult 4 d (remSigned (s.x a) (s.x b)) s
def execRemN (d a b : BitVec 5) (s : State) : Out := scalarResult 4 d (remUnsigned (s.x a) (s.x b)) s
def execClz (d a : BitVec 5) (s : State) : Out := scalarResult 4 d (BitVec.ofNat 64 (leadingZeros (s.x a).toNat 64)) s
def execCtz (d a : BitVec 5) (s : State) : Out := scalarResult 4 d (BitVec.ofNat 64 (trailingZeros (s.x a).toNat 64)) s
def execPopc (d a : BitVec 5) (s : State) : Out := scalarResult 4 d (BitVec.ofNat 64 (onesIn (s.x a).toNat 64)) s

/-! ### Immediate forms and constants (R128-R130) -/

def execAddi (d a : BitVec 5) (i : BitVec 14) (s : State) : Out := scalarResult 4 d (s.x a + simm i) s
def execAndi (d a : BitVec 5) (i : BitVec 14) (s : State) : Out := scalarResult 4 d (s.x a &&& simm i) s
def execOri (d a : BitVec 5) (i : BitVec 14) (s : State) : Out := scalarResult 4 d (s.x a ||| simm i) s
def execXori (d a : BitVec 5) (i : BitVec 14) (s : State) : Out := scalarResult 4 d (s.x a ^^^ simm i) s
def execShli (d a : BitVec 5) (i : BitVec 6) (s : State) : Out := scalarResult 4 d (s.x a <<< i.toNat) s
def execShri (d a : BitVec 5) (i : BitVec 6) (s : State) : Out := scalarResult 4 d (s.x a >>> i.toNat) s
def execSari (d a : BitVec 5) (i : BitVec 6) (s : State) : Out := scalarResult 4 d ((s.x a).sshiftRight i.toNat) s
def execSlti (d a : BitVec 5) (i : BitVec 14) (s : State) : Out := scalarResult 4 d (boolWord (ltSigned (s.x a) (simm i))) s
def execLi (d : BitVec 5) (i : BitVec 19) (s : State) : Out := scalarResult 4 d (simm i) s
/-- LIH: sd moves up 16 bits and takes the immediate below (R130). -/
def execLih (d : BitVec 5) (i : BitVec 16) (s : State) : Out := scalarResult 4 d ((s.x d <<< 16) ||| zimm i) s

/-! ### Bit fields and place addresses (R131, R132) -/

/-- Field of `len` bits at `pos`, zero-extended (R131). -/
def extractZero (v : Word) (pos len : Nat) : Word := (v >>> pos) &&& maskOf len
/-- The field sign-extended (R131). -/
def extractSign (v : Word) (pos len : Nat) : Word := ((v >>> pos) <<< (64 - len)).sshiftRight (64 - len)
/-- The low bits of `f` put into a field of `v` (R131). -/
def insertField (v f : Word) (pos len : Nat) : Word := (v &&& ~~~(maskOf len <<< pos)) ||| ((f &&& maskOf len) <<< pos)

def execExt (d a : BitVec 5) (x : BitVec 1) (l p : BitVec 6) (s : State) : Out :=
  whenOk (fieldOk l p) (encExt d a x l p) s
    (scalarResult 4 d (if x = 1 then extractSign (s.x a) p.toNat (l.toNat + 1) else extractZero (s.x a) p.toNat (l.toNat + 1)) s)

def execIns (d a : BitVec 5) (l p : BitVec 6) (s : State) : Out :=
  whenOk (fieldOk l p) (encIns d a l p) s (scalarResult 4 d (insertField (s.x d) (s.x a) p.toNat (l.toNat + 1)) s)

/-- The place address of a scalar offset and a place field (R132): Bounds for an offset of 2^20 or more. -/
def makePlace (d a : BitVec 5) (place : Nat) (s : State) : Out :=
  if 2 ^ 20 ≤ (s.x a).toNat then raise s (exc .bounds 0 (s.x a))
  else scalarResult 4 d (BitVec.ofNat 64 ((s.x a).toNat + place * 2 ^ 20)) s

def execMkpl (d a : BitVec 5) (e : BitVec 3) (y x : BitVec 5) (s : State) : Out :=
  makePlace d a (x.toNat + y.toNat * 32 + e.toNat * 1024 + 8192) s

def execMkplAbs (d a : BitVec 5) (e : BitVec 3) (y x : BitVec 5) (s : State) : Out :=
  whenOk (absPlaceOk y x) (encMkplAbs d a e y x) s (makePlace d a (x.toNat + y.toNat * 32 + e.toNat * 1024) s)

/-! ### Operand-extension registers without memory (R136) -/

def execOxm (n a : BitVec 5) (s : State) : Out :=
  whenOk (oxOk n && s.hasOx) (encOxm n a) s (complete 4 1 { s with ctx := s.ctx.setOx n.toNat (s.x a) })

def execOxr (d n : BitVec 5) (s : State) : Out :=
  whenOk (oxOk n && s.hasOx) (encOxr d n) s (scalarResult 4 d (s.ctx.getOx n.toNat) s)

/-! ### Control transfer (R138-R142) -/

/-- A transfer retires, writes its link register if it has one, and goes to its target. -/
def transfer (link : Option (BitVec 5 × Nat)) (target : Word) (s : State) : Out :=
  let s1 := s.retire 1
  let s2 := match link with
    | some (d, size) => s1.setX d (s.ctx.pc + BitVec.ofNat 64 size)
    | none => s1
  .next (s2.jump target)

/-- A conditional branch of a size: to its target, or on. -/
def branchIf {n : Nat} (size : Nat) (c : Bool) (o : BitVec n) (s : State) : Out :=
  if c then transfer none (s.branchTarget o) s else complete size 1 s

/-- jr: the target is checked before sd is written (R139). -/
def jumpRegister (size : Nat) (d : BitVec 5) (target : Word) (s : State) : Out :=
  if target.getLsbD 0 then raise s (exc .misaligned 0 target) else transfer (some (d, size)) target s

def execB (o : BitVec 24) (s : State) : Out := transfer none (s.branchTarget o) s
def execCall (o : BitVec 24) (s : State) : Out := transfer (some (31, 4)) (s.branchTarget o) s
def execJr (d a : BitVec 5) (i : BitVec 14) (s : State) : Out := jumpRegister 4 d (s.x a + simm i) s
def execBeq (a b : BitVec 5) (o : BitVec 14) (s : State) : Out := branchIf 4 (s.x a = s.x b) o s
def execBne (a b : BitVec 5) (o : BitVec 14) (s : State) : Out := branchIf 4 (s.x a ≠ s.x b) o s
def execBlt (a b : BitVec 5) (o : BitVec 14) (s : State) : Out := branchIf 4 (ltSigned (s.x a) (s.x b)) o s
def execBge (a b : BitVec 5) (o : BitVec 14) (s : State) : Out := branchIf 4 (!ltSigned (s.x a) (s.x b)) o s
def execBltN (a b : BitVec 5) (o : BitVec 14) (s : State) : Out := branchIf 4 (ltUnsigned (s.x a) (s.x b)) o s
def execBgeN (a b : BitVec 5) (o : BitVec 14) (s : State) : Out := branchIf 4 (!ltUnsigned (s.x a) (s.x b)) o s

/-- Fields of a predicate branch: p0-p23, and in the service context p0-p3 (R141, R31). -/
def bpOk (s : State) (p : BitVec 5) : Bool := predSrcOk p && predHere s p.toNat

def execBpAny (p : BitVec 5) (o : BitVec 17) (s : State) : Out :=
  whenOk (bpOk s p) (encBpAny p o) s (branchIf 4 ((s.ctx.predBits p.toNat).any id) o s)
def execBpNone (p : BitVec 5) (o : BitVec 17) (s : State) : Out :=
  whenOk (bpOk s p) (encBpNone p o) s (branchIf 4 (!(s.ctx.predBits p.toNat).any id) o s)
def execBpAll (p : BitVec 5) (o : BitVec 17) (s : State) : Out :=
  whenOk (bpOk s p) (encBpAll p o) s (branchIf 4 ((s.ctx.predBits p.toNat).all id) o s)
def execBpNall (p : BitVec 5) (o : BitVec 17) (s : State) : Out :=
  whenOk (bpOk s p) (encBpNall p o) s (branchIf 4 (!(s.ctx.predBits p.toNat).all id) o s)

/-! ### Compressed forms of scalar and control instructions (R79) -/

def execCMov (a b : BitVec 5) (s : State) : Out := scalarResult 2 a (s.x b) s
def execCAdd (a b : BitVec 5) (s : State) : Out := scalarResult 2 a (s.x a + s.x b) s
def execCSub (a b : BitVec 5) (s : State) : Out := scalarResult 2 a (s.x a - s.x b) s
def execCAnd (a b : BitVec 5) (s : State) : Out := scalarResult 2 a (s.x a &&& s.x b) s
def execCOr (a b : BitVec 5) (s : State) : Out := scalarResult 2 a (s.x a ||| s.x b) s
def execCXor (a b : BitVec 5) (s : State) : Out := scalarResult 2 a (s.x a ^^^ s.x b) s
def execCAddi (a i : BitVec 5) (s : State) : Out := scalarResult 2 a (s.x a + simm i) s
def execCLi (a i : BitVec 5) (s : State) : Out := scalarResult 2 a (simm i) s
def execCShli (a i : BitVec 5) (s : State) : Out := scalarResult 2 a (s.x a <<< i.toNat) s
def execCShri (a i : BitVec 5) (s : State) : Out := scalarResult 2 a (s.x a >>> i.toNat) s
def execCSari (a i : BitVec 5) (s : State) : Out := scalarResult 2 a ((s.x a).sshiftRight i.toNat) s
def execCShl (a b : BitVec 5) (s : State) : Out := scalarResult 2 a (s.x a <<< shamt (s.x b)) s
def execCShr (a b : BitVec 5) (s : State) : Out := scalarResult 2 a (s.x a >>> shamt (s.x b)) s
def execCSlt (a b : BitVec 5) (s : State) : Out := scalarResult 2 a (boolWord (ltSigned (s.x a) (s.x b))) s
def execCSeq (a b : BitVec 5) (s : State) : Out := scalarResult 2 a (boolWord (s.x a = s.x b)) s
def execCNeg (a b : BitVec 5) (s : State) : Out := scalarResult 2 a (0 - s.x b) s
def execCMul (a b : BitVec 5) (s : State) : Out := scalarResult 2 a (s.x a * s.x b) s
def execCMin (a b : BitVec 5) (s : State) : Out := scalarResult 2 a (minSigned (s.x a) (s.x b)) s
def execCMax (a b : BitVec 5) (s : State) : Out := scalarResult 2 a (maxSigned (s.x a) (s.x b)) s
def execCB (o : BitVec 10) (s : State) : Out := transfer none (s.branchTarget o) s
def execCBeqz (a i : BitVec 5) (s : State) : Out := branchIf 2 (s.x a = 0) i s
def execCBnez (a i : BitVec 5) (s : State) : Out := branchIf 2 (s.x a ≠ 0) i s
def execCRet (s : State) : Out := jumpRegister 2 0 (s.x 31) s
def execCNop (s : State) : Out := complete 2 1 s

end Sys2Proof.Machine
end

