-- ==== Sys2Proof/Machine/Atomics.lean ====
section
/-! DEFINITION. Scalar atomics and reductions (R249, R273). -/

namespace Sys2Proof.Machine

/-- Bytes of the operation: F adds 16 for 4 B (R273). -/
def amoSize (z : BitVec 1) : Nat := if z = 1 then 4 else 8

/-- Whether an order qualifier makes an atomic an acquire, and at pod scope (R273, R274). -/
def acquires (order : BitVec 2) : Bool := order.getLsbD 0

/-- An atomic with an acquire qualifier has read a range of this package (R250). -/
def State.acquireAtomic (s : State) (order scope : BitVec 2) (pa n : Nat) : State :=
  if acquires order then s.acquire (scope = 3) (s.stampRead pa n) else s

/-- One atomic at its point of order: the old value and the state after it (R249, R273). The issuer's earlier stores are
visible first. -/
def atomicAt (s : State) (va : Word) (n : Nat) (order scope : BitVec 2) (op : AmoOp) (x e : Word) : Res (Word × State) :=
  match translate s s.part s.privileged va Need.atom with
  | .error err => .error err
  | .ok (.phys pa entry) =>
    if touchesObject s pa n then .error (exc .objectOverwrite 0 va)
    else if s.struck .scalar then .error (exc .uncorrectableConsumed 1 va)
    else
      let s1 := (markUsed s entry true).publish.released
      if touchesPoison s1 pa n then .error (consumed s1 pa n va)
      else
        let old := BitVec.ofNat 64 (physLe s1 pa n)
        let rel := decide (2 ≤ order.toNat)
        let s2 := (if rel then stampHome s1 pa else s1).acquireAtomic order scope pa n
        let s3 := if s2.inService then s2.dropOwnResv pa n else s2
        let s4 := homeWrite s3 pa (natBytes n (amoValue op n old x e).toNat)
        .ok (old, if rel then s4.markRelease pa n else s4)
  | .ok (.peer p addr leaf) =>
    let s1 := s.publish.released
    if s.struck .scalar then .error (exc .uncorrectableConsumed 1 va)
    else match peerOutcome s1 s.part p addr va with
    | some err => .error err
    | none => .ok (BitVec.ofNat 64 (leNat (peerBytes s1 n)), ((markUsed s1 leaf true).acquireAtomic order scope 0 0).fresh)

/-- What an atomic waits for: its own release, and the release of a `fence.rel` before it (R237, R273). -/
def orderAtomic (order scope : BitVec 2) (s : State) (k : State → Out) : Out :=
  if 2 ≤ order.toNat then releaseAt (scope.toNat + 1) s k else storeAfterFence s k

/-- A cause that stands before what an atomic waits for (R84): only its peer's. -/
def atomicPeer (s : State) (va : Word) : Option Exc :=
  match translate s s.part s.privileged va Need.atom with
  | .error e => if e.cause = .peerFault then some e else none
  | .ok _ => none

/-- An amo: a release waits, then the atomic, then sd := zext(old) (R273). -/
def atomic (op : AmoOp) (d a b : BitVec 5) (c o : BitVec 2) (z : BitVec 1) (word : Nat) (s : State) : Out :=
  whenOk (orderOk o c) word s
    (let va := s.x b
     let n := amoSize z
     addressOk s <| if misalignedAt va n then raise s (exc .misaligned 0 va)
     else match atomicPeer s va with
       | some e => raise s e
       | none => orderAtomic o c s fun s1 =>
         withRes s1 (atomicAt s1 va n o c op (s1.x a) (s1.x d)) fun r => complete 4 1 (r.2.setX d r.1))

def execAmoSwap (d a b : BitVec 5) (c o : BitVec 2) (z : BitVec 1) (s : State) : Out := atomic .swap d a b c o z (encAmoSwap d a b c o z) s
def execAmoCas (d a b : BitVec 5) (c o : BitVec 2) (z : BitVec 1) (s : State) : Out := atomic .cas d a b c o z (encAmoCas d a b c o z) s
def execAmoAdd (d a b : BitVec 5) (c o : BitVec 2) (z : BitVec 1) (s : State) : Out := atomic .add d a b c o z (encAmoAdd d a b c o z) s
def execAmoAnd (d a b : BitVec 5) (c o : BitVec 2) (z : BitVec 1) (s : State) : Out := atomic .and d a b c o z (encAmoAnd d a b c o z) s
def execAmoOr (d a b : BitVec 5) (c o : BitVec 2) (z : BitVec 1) (s : State) : Out := atomic .or d a b c o z (encAmoOr d a b c o z) s
def execAmoXor (d a b : BitVec 5) (c o : BitVec 2) (z : BitVec 1) (s : State) : Out := atomic .xor d a b c o z (encAmoXor d a b c o z) s
def execAmoMin (d a b : BitVec 5) (c o : BitVec 2) (z : BitVec 1) (s : State) : Out := atomic .min d a b c o z (encAmoMin d a b c o z) s
def execAmoMax (d a b : BitVec 5) (c o : BitVec 2) (z : BitVec 1) (s : State) : Out := atomic .max d a b c o z (encAmoMax d a b c o z) s
def execAmoMinN (d a b : BitVec 5) (c o : BitVec 2) (z : BitVec 1) (s : State) : Out := atomic .minN d a b c o z (encAmoMinN d a b c o z) s
def execAmoMaxN (d a b : BitVec 5) (c o : BitVec 2) (z : BitVec 1) (s : State) : Out := atomic .maxN d a b c o z (encAmoMaxN d a b c o z) s
def execAmoFadd (d a b : BitVec 5) (c o : BitVec 2) (z : BitVec 1) (s : State) : Out := atomic .fadd d a b c o z (encAmoFadd d a b c o z) s

/-! ### Reductions (R249) -/

/-- A reduction collects in an update-only line until its home combines it, or leaves for the peer (R249). -/
def reduceAt (s : State) (vec : Bool) (va : Word) (n : Nat) (op : AmoOp) (x : Word) : Res State :=
  match translate s s.part s.privileged va Need.atom with
  | .error err => .error err
  | .ok (.phys pa u) =>
    if touchesObject s pa n then .error (exc .objectOverwrite 0 va)
    else if s.struck .scalar then .error (exc .uncorrectableConsumed 1 va)
    else if touchesPoison s pa n then .error (consumed s pa n va)
    else .ok (holdUpdates ((markUsed s u true).publish.collect vec va pa n op x) pa)
  | .ok (.peer p addr u) =>
    if s.struck .scalar then .error (exc .uncorrectableConsumed 1 va) else .ok ((markUsed s u true).postFabric p addr va)

/-- A red: relaxed, no destination (R273); the first store after a `fence.rel` waits for what that orders (R236). -/
def reduce (op : AmoOp) (a b : BitVec 5) (z : BitVec 1) (s : State) : Out :=
  let va := s.x b
  let n := amoSize z
  addressOk s <| if misalignedAt va n then raise s (exc .misaligned 0 va)
  else match atomicPeer s va with
    | some e => raise s e
    | none => storeAfterFence s fun s1 => withRes s1 (reduceAt s1 false va n op (s1.x a)) fun s2 => complete 4 1 s2

def execRedAdd (a b : BitVec 5) (z : BitVec 1) (s : State) : Out := reduce .add a b z s
def execRedAnd (a b : BitVec 5) (z : BitVec 1) (s : State) : Out := reduce .and a b z s
def execRedOr (a b : BitVec 5) (z : BitVec 1) (s : State) : Out := reduce .or a b z s
def execRedXor (a b : BitVec 5) (z : BitVec 1) (s : State) : Out := reduce .xor a b z s
def execRedMin (a b : BitVec 5) (z : BitVec 1) (s : State) : Out := reduce .min a b z s
def execRedMax (a b : BitVec 5) (z : BitVec 1) (s : State) : Out := reduce .max a b z s
def execRedMinN (a b : BitVec 5) (z : BitVec 1) (s : State) : Out := reduce .minN a b z s
def execRedMaxN (a b : BitVec 5) (z : BitVec 1) (s : State) : Out := reduce .maxN a b z s

def execRedFadd (a b : BitVec 5) (z : BitVec 1) (s : State) : Out := reduce .fadd a b z s

end Sys2Proof.Machine
end

