-- ==== Sys2Proof/Machine/VectorMem.lean ====
section
/-! DEFINITION. Vector loads and stores (R264, R265), the place forms and the vector presence store (R263), and the vector
atomics (R274, R275). Alignment of every active element is checked first, then memory in element order (R84). -/

namespace Sys2Proof.Machine

/-! ### The frame -/

/-- What an element's access works on: the state, and the lines the instruction has fetched. -/
abbrev MemAcc := State × List Nat

/-- An element's access. -/
abbrev MemElem := Nat → MemAcc → Res MemAcc

/-- Elements i to i + n - 1 of one group. -/
def memGroup (act : Nat → Bool) (f : MemElem) : Nat → Nat → MemAcc → Res MemAcc
  | _, 0, r => .ok r
  | i, n + 1, r =>
    if act i then
      match f i r with
      | .error e => .error e
      | .ok r1 => memGroup act f (i + 1) n r1
    else memGroup act f (i + 1) n r

/-- Element groups from i to hi - 1; a group commits whole or not at all, and the first that fails ends it (R157, R258). Where
software has begun the instruction inside a group, that group stops at the written value (DESIGN CHOICE, log entry 40). -/
def memGroups (act : Nat → Bool) (f : MemElem) (unit hi : Nat) : Nat → Nat → MemAcc → MemAcc × Option (Nat × Exc)
  | 0, _, r => (r, none)
  | k + 1, i, r =>
    if hi ≤ i then (r, none)
    else
      let next := min hi ((i / unit + 1) * unit)
      match memGroup act f i (next - i) r with
      | .error e => (r, some (i, e))
      | .ok r1 => memGroups act f unit hi k next r1

/-- The first active element of a range whose address breaks a check. -/
def firstBad (act : Nat → Bool) (bad : Nat → Option Exc) : Nat → Nat → Option Exc
  | _, 0 => none
  | i, n + 1 => if act i then (match bad i with | some e => some e | none => firstBad act bad (i + 1) n) else firstBad act bad (i + 1) n

/-- What a vector memory instruction does with its elements: the check of an element's operands, the check of its peer (tiers 4 and
6 of R84), the index group its addresses come from, what its release waits for, its access, and what follows the elements, given the
element at which they ended. -/
structure MemForm where
  index : Option (BitVec 6) := none
  bad : Ctx → Nat → Option Exc := fun _ _ => none
  far : State → Ctx → Nat → Option Exc := fun _ _ _ => none
  pre : State → (State → Out) → Out := fun s k => k s
  access : Ctx → MemElem
  post : Nat → State → Out → Out := fun _ _ k => k

/-- Elements lo to hi - 1 of a vector memory instruction are accessed; then it takes the cause of its sources, ends for a suspension,
or is complete. -/
def memoryTo (o : VOp) (m : MemForm) (wells : List Nat) (lo hi : Nat) (stop : Option Exc) (s : State) : Out :=
  let r := memGroups (s.ctx.active o) (m.access s.ctx) o.unit hi 130 lo (s, [])
  let t := r.1.1
  let done := (t.ctx, Flags.none)
  match r.2 with
  | some (b, e) => m.post b t (vectorStop b lo done e t)
  | none => m.post hi t (match stop with
    | some e => vectorStop hi lo done e t
    | none => if hi < t.ctx.vl.toNat then vectorSuspend hi lo done t else vectorDone wells ((hi - lo) * t.ctx.group) done t)

/-- A vector memory instruction whose entry checks have passed. A soft error of its address generation is found before anything
issues (R17). The addresses of elements whose index a refill could not bring are not known. -/
def runMemory (o : VOp) (m : MemForm) (s : State) : Out :=
  if s.ctx.destBound o then raise s (exc .boundRegisterAccess 0 0)
  else if !s.ctx.anyActive o then vectorDone [] 1 (s.ctx, Flags.none) s
  else
    let lo := s.ctx.firstElem o
    let last := s.lastElem o.unit lo s.ctx.vl.toNat
    let wells := s.ctx.wellsRead (o.sources.map (fun r => (r.first, r.count)))
    wellsReady wells s fun s =>
      let l := landSources o lo last o.sources s
      let c := l.1.ctx
      let hi := match l.2 with | some (b, _) => max lo b | none => last
      let known := match m.index with
        | some i => if (s.ctx.wellsRead [(i.toNat, s.ctx.group)]).isEmpty then last else hi
        | none => last
      match s.strike .address, firstBad (c.active o) (m.bad c) lo (known - lo) with
      | some x, _ => raise (s.met x) (exc .shadowMismatch 1 0)
      | none, some e => raise l.1 e
      | none, none =>
        match firstBad (c.active o) (m.far l.1 c) lo (known - lo) with
        | some e => raise l.1 e
        | none => m.pre l.1 (memoryTo o m wells lo hi (l.2.map (fun e => e.2)))

/-! ### Loads and stores at virtual addresses -/

/-- Bytes of an element; SEW 4 elements take one byte (R259). -/
def elemBytes (w : Nat) : Nat := max 1 (w / 8)

/-- Misaligned element. -/
def alignment (n : Nat) (va : Nat → Word) (i : Nat) : Option Exc :=
  if misalignedAt (va i) n then some (exc .misaligned 0 (va i)) else none

/-- The Peer fault of an element: every one of them stands before the element's other memory faults (R84). -/
def peerBad (need : Need) (va : Nat → Word) (s : State) (i : Nat) : Option Exc :=
  match translate s s.part s.privileged (va i) need with
  | .error e => if e.cause = .peerFault then some e else none
  | .ok _ => none

/-- Write element i of a group in the running context. -/
def State.putElem (s : State) (d w i x : Nat) : State := { s with ctx := s.ctx.setElem d w i x }

/-- The nibble or the whole of the bytes read for element i (R90). -/
def pickElem (w i : Nat) (bs : List Byte) : Nat := if w = 4 then leNat bs / 16 ^ (i % 2) % 16 else leNat bs

/-- Load element i from an address. -/
def loadElem (d w : Nat) (va : Nat → Word) : MemElem := fun i r =>
  match readSeen r.1 r.2 (va i) (elemBytes w) Need.read with
  | .error e => .error e
  | .ok (bs, s1, seen) => .ok (s1.putElem d w i (pickElem w i bs), seen)

/-- The byte a nibble store writes: the other nibble stays as the task sees it (R90). -/
def nibbleByte (s : State) (va : Word) (i x : Nat) : List Byte :=
  let old := match translate s s.part s.privileged va Need.write with
    | .ok (.phys pa _) => leNat (viewBytes (combineRead (s.passOther true pa 1) true pa 1) true pa 1)
    | .ok (.peer p addr _) => (match s.rdcLine (dieOf s.cur) (fabricKey s.part p addr) with
      | some l => leNat ((l.bytes.drop (addr % 128)).take 1)
      | none => 0)
    | _ => 0
  [BitVec.ofNat 8 (if i % 2 = 0 then old / 16 * 16 + x % 16 else old % 16 + x % 16 * 16)]

/-- Store x as element i at an address. -/
def storeElem (w : Nat) (va : Nat → Word) (x : Nat → Nat) : MemElem := fun i r =>
  let bs := if w = 4 then nibbleByte r.1 (va i) i (x i) else natBytes (w / 8) (x i)
  match writeVa r.1 true (va i) bs Need.write with
  | .error e => .error e
  | .ok s1 => .ok (s1, r.2)

/-- A vector load: destination group of dg registers, index group or none. -/
def vectorLoad (ok : Bool) (d : BitVec 6) (idx : Option (BitVec 6)) (n : BitVec 1) (p : BitVec 5) (word : Nat)
    (va : Ctx → Nat → Word) (s : State) : Out :=
  let c := s.ctx
  let w := c.sew
  whenOk (maskOk s p n && ok && groupHere s d c.group
      && (match idx with | some i => groupHere s i c.group && disjointGroups (c.dest d) (c.dest i) | none => true)) word s
    (let o : VOp := { pred := p.toNat, pinv := n = 1, sources := (match idx with | some i => [c.source i] | none => []), dests := [c.dest d] }
     runMemory o { index := idx, bad := fun c => alignment (elemBytes w) (va c), far := fun s c => peerBad Need.read (va c) s,
                   access := fun c => loadElem d.toNat w (va c) } s)

/-- A vector store: the data group is read. -/
def vectorStore (ok : Bool) (d : BitVec 6) (idx : Option (BitVec 6)) (n : BitVec 1) (p : BitVec 5) (word : Nat)
    (va : Ctx → Nat → Word) (s : State) : Out :=
  let c := s.ctx
  let w := c.sew
  whenOk (maskOk s p n && ok && groupHere s d c.group && (match idx with | some i => groupHere s i c.group | none => true)) word s
    (let o : VOp := { pred := p.toNat, pinv := n = 1, sources := c.source d :: (match idx with | some i => [c.source i] | none => []), dests := [] }
     runMemory o { index := idx, bad := fun c => alignment (elemBytes w) (va c), far := fun s c => peerBad Need.write (va c) s,
                   pre := storeAfterFence
                   access := fun c => storeElem w (va c) (fun i => c.elem d.toNat w i) } s)

/-- Address of element i of a packed group (R264). -/
def packedAddress (s : State) (b : BitVec 5) (i : Nat) : Word :=
  s.x b + BitVec.ofNat 64 (if s.ctx.sew = 4 then i / 2 else i * (s.ctx.sew / 8))
/-- Address of element i of a strided group. -/
def stridedAddress (s : State) (b sc : BitVec 5) (i : Nat) : Word := s.x b + BitVec.ofNat 64 i * s.x sc
/-- Address of element i by an index group. -/
def indexedAddress (s : State) (b : BitVec 5) (v : BitVec 6) (c : Ctx) (i : Nat) : Word :=
  s.x b + BitVec.ofNat 64 (c.elem v.toNat s.ctx.sew i)

/-- SEW 4 is allowed in the packed forms only (R264). -/
def notNibble (s : State) : Bool := decide (s.ctx.sew ≠ 4)

def execVld (d : BitVec 6) (b : BitVec 5) (n : BitVec 1) (p : BitVec 5) (s : State) : Out :=
  vectorLoad true d none n p (encVld d b n p) (fun _ => packedAddress s b) s
def execVldS (d : BitVec 6) (b sc : BitVec 5) (n : BitVec 1) (p : BitVec 5) (s : State) : Out :=
  vectorLoad (notNibble s) d none n p (encVldS d b sc n p) (fun _ => stridedAddress s b sc) s
def execVst (d : BitVec 6) (b : BitVec 5) (n : BitVec 1) (p : BitVec 5) (s : State) : Out :=
  vectorStore true d none n p (encVst d b n p) (fun _ => packedAddress s b) s
def execVstS (d : BitVec 6) (b sc : BitVec 5) (n : BitVec 1) (p : BitVec 5) (s : State) : Out :=
  vectorStore (notNibble s) d none n p (encVstS d b sc n p) (fun _ => stridedAddress s b sc) s
def execVgld (d : BitVec 6) (b : BitVec 5) (i : BitVec 6) (n : BitVec 1) (p : BitVec 5) (s : State) : Out :=
  vectorLoad (notNibble s) d (some i) n p (encVgld d b i n p) (indexedAddress s b i) s
def execVsst (d : BitVec 6) (b : BitVec 5) (i : BitVec 6) (n : BitVec 1) (p : BitVec 5) (s : State) : Out :=
  vectorStore (notNibble s) d (some i) n p (encVsst d b i n p) (indexedAddress s b i) s

/-- VGLD_X2: two words of 16 bytes; vd has size 2G (R264). -/
def execVgldX2 (d : BitVec 6) (b : BitVec 5) (i : BitVec 6) (n : BitVec 1) (p : BitVec 5) (s : State) : Out :=
  let c := s.ctx
  let dst := (d.toNat, 2 * c.group)
  whenOk (maskOk s p n && decide (c.sew = 64) && decide (2 * c.group ≤ 8) && groupHere s d (2 * c.group) && groupHere s i c.group
      && disjointGroups dst (c.dest i)) (encVgldX2 d b i n p) s
    (let o : VOp := { pred := p.toNat, pinv := n = 1, sources := [c.source i], dests := [dst] }
     let pair (c : Ctx) : MemElem := fun k r => match readSeen r.1 r.2 (indexedAddress s b i c k) 16 Need.read with
       | .error e => .error e
       | .ok (bs, s1, seen) =>
         .ok ((s1.putElem d.toNat 64 (2 * k) (leNat (bs.take 8))).putElem d.toNat 64 (2 * k + 1) (leNat (bs.drop 8)), seen)
     let m : MemForm :=
       { bad := fun c => alignment 16 (indexedAddress s b i c)
         far := fun t c => peerBad Need.read (indexedAddress s b i c) t
         access := pair }
     runMemory o m s)

/-! ### vst.ck (R265, R202) -/

/-- Rows of 64 elements, wholly active, whose checksum differs from the carried word. -/
def badRows (c : Ctx) (o : VOp) (d w ck rb lo vl : Nat) : List Nat :=
  ((List.range (vl / 64)).filter (fun m => decide (lo / 64 ≤ m))).filter (fun m =>
    (List.range 64).all (fun k => c.active o (64 * m + k))
      && decide (fletcherRow c d w m ≠ c.elem ck 32 (rb + m)))
where
  /-- CK of row m of the data group (R200). -/
  fletcherRow (c : Ctx) (d w m : Nat) : Nat :=
    let step (s : Nat × Nat) (k : Nat) : Nat × Nat :=
      let h := c.elem d 16 (64 * m * w / 16 + k)
      let a := (s.1 + h) % 65535
      (a, (s.2 + a) % 65535)
    let r := (List.range (64 * w / 16)).foldl step (0, 0)
    r.2 * 65536 + r.1

/-- A mismatching row is logged with its address (R202, R396). -/
def logRow (s : State) (va : Word) (m : Nat) : State :=
  let key := s.taskKey
  let lid := match s.launchOf key.1 with | some l => l.lid.toNat | none => 0
  let tag := match s.launchOf key.1 with | some l => l.tag | none => 0
  let e : ErrInfo := { code := Cause.matrixCheck.code, sub := 0x1000 + m, source := 0, lid := lid, tid := key.2, core := s.cur, part := s.part, epc := s.ctx.pc, eaddr := va, tag := tag }
  logRecord s (errRecord s e)

/-- VST_CK: mismatching rows are not written, and the lowest raises Matrix check once the others are. It ends inside its elements
between rows only, as its VSTART must be a multiple of 64 (DEDUCED, log entry 40). -/
def execVstCk (d : BitVec 6) (b : BitVec 5) (r : BitVec 2) (n : BitVec 1) (p : BitVec 5) (s : State) : Out :=
  let c := s.ctx
  let w := c.sew
  let vl := c.vl.toNat
  let ck := bits (c.getOx 5) 5 0
  let rb := 16 * r.toNat
  whenOk (maskOk s p n && s.hasOx && groupHere s d c.group && (decide (w = 8) || decide (w = 16) || decide (w = 32))
      && decide (vl % 64 = 0) && decide (c.vstart.toNat % 64 = 0) && decide (rb + vl / 64 ≤ 64)
      && disjointGroups (ck, 1) (c.dest d)) (encVstCk d b r n p) s
    (let o : VOp := { pred := p.toNat, pinv := n = 1, sources := [c.source d, ⟨ck, 1, 32, 0, true⟩], dests := [], unit := 64 }
     let lo := c.vstart.toNat
     let va := packedAddress s b
     let bad (c : Ctx) := badRows c o d.toNat w ck rb lo vl
     let checked (stop : Nat) (s1 : State) (k : Out) : Out :=
       let bs := (bad s1.ctx).filter (fun m => decide (64 * m < stop))
       match bs with
       | [] => k
       | m :: _ =>
         let s2 := bs.foldl (fun s m => logRow s (va (64 * m)) m) s1
         vectorStop (64 * m) lo (s2.ctx, Flags.none) (exc .matrixCheck (0x1000 + m) (va (64 * m))) s2
     let m : MemForm :=
       { bad := fun _ => alignment (elemBytes w) va
         far := fun t _ => peerBad Need.write va t
         pre := storeAfterFence
         access := fun c i r => if (bad c).contains (i / 64) then .ok r else storeElem w va (fun i => c.elem d.toNat w i) i r
         post := checked }
     runMemory o m s)

/-! ### Place forms (R263, R264) -/

/-- Entry checks of a place range: alignment of OFF, then the bounds of the whole range. -/
def placeRange (s : State) (w : Word) (sew vl : Nat) : Res (Nat × Nat) :=
  if decide (bits w 19 0 % elemBytes sew ≠ 0) then .error (exc .misaligned 0 w)
  else resolvePlace s w 0 ((vl * sew + 7) / 8)

/-- Offset of element i in a place range. -/
def placeElem (off w i : Nat) : Nat := off + (if w = 4 then i / 2 else i * (w / 8))

/-- The pan rules for one element. -/
def panCheck (s : State) (w : Word) (core off : Nat) : Option Exc :=
  match padRefusal s s.part s.privileged core (off / 65536) with
  | some k => some (exc .protection k w)
  | none => none

/-- A place form: whether it accesses its pans now, what it waits for beside their exits from retention (R219), the element access,
which gets the core and the element's offset, and what follows the elements. -/
def placeForm (ok : Bool) (o : VOp) (d : BitVec 6) (n : BitVec 1) (p : BitVec 5) (b : BitVec 5) (word : Nat)
    (now : Bool) (pre : State → (State → Out) → Out) (f : Ctx → Nat → Nat → Nat → State → Res State) (after : Nat → Nat → Nat → State → State)
    (s : State) : Out :=
  let c := s.ctx
  let w := s.x b
  whenOk (maskOk s p n && ok && groupHere s d c.group) word s
    (if s.ctx.destBound o || !s.ctx.anyActive o then runMemory o { access := fun _ _ r => .ok r } s
     else withRes s (placeRange s w c.sew c.vl.toNat) fun t =>
       let elem (c : Ctx) : MemElem := fun i r =>
         let off := placeElem t.2 s.ctx.sew i
         match panCheck r.1 w t.1 off with
         | some e => .error e
         | none =>
           if r.1.struck .vector then .error (exc .uncorrectableConsumed 1 w)
           else match f c i t.1 off (if now then landInRange (wakePan r.1 t.1 (off / 65536)) t.1 off (elemBytes s.ctx.sew) else r.1) with
           | .error e => .error e
           | .ok s1 => .ok (s1, r.2)
       runMemory o
         { pre := fun s k => pre s (fun s1 => if now then whenAwake s1 t.1 t.2 ((c.vl.toNat * c.sew + 7) / 8) k else k s1)
           access := elem
           post := fun hi _ k => match k with
             | .next s2 => .next (after t.1 t.2 hi s2)
             | k => k } s)

/-- Load an element of a place. -/
def loadPlaceElem (d w : Nat) (base : Word) (consume : Bool) (i core off : Nat) (s : State) : Res State :=
  if padTouchesPoison s core off (elemBytes w) then .error (padConsumed s core off (elemBytes w) base)
  else
    let s1 := s.putElem d w i (pickElem w i (padBytes s core off (elemBytes w)))
    .ok (if consume then consumeWord s1 core off else s1)

/-- Store an element to a place; presence bits are unchanged (R217). -/
def storePlaceElem (w i x core off : Nat) (s : State) : State :=
  let old := (memRead s.pad (padAddr core off)).toNat
  padWrite s core off (if w = 4 then
      [BitVec.ofNat 8 (if i % 2 = 0 then old / 16 * 16 + x % 16 else old % 16 + x % 16 * 16)]
    else natBytes (w / 8) x)

/-- What the place forms name. -/
def placeOp (c : Ctx) (d : BitVec 6) (n : BitVec 1) (p : BitVec 5) (store : Bool) : VOp :=
  { pred := p.toNat, pinv := n = 1, sources := if store then [c.source d] else [], dests := if store then [] else [c.dest d] }

def execVldp (d : BitVec 6) (b : BitVec 5) (n : BitVec 1) (p : BitVec 5) (s : State) : Out :=
  placeForm true (placeOp s.ctx d n p false) d n p b (encVldp d b n p) true (fun s k => k s)
    (fun _ i core off t => loadPlaceElem d.toNat s.ctx.sew (s.x b) false i core off t) (fun _ _ _ s => s) s
def execVldpC (d : BitVec 6) (b : BitVec 5) (n : BitVec 1) (p : BitVec 5) (s : State) : Out :=
  placeForm (decide (s.ctx.sew = 64)) (placeOp s.ctx d n p false) d n p b (encVldpC d b n p) true (fun s k => k s)
    (fun _ i core off t => loadPlaceElem d.toNat 64 (s.x b) true i core off t) (fun _ _ _ s => s) s

/-- The stores of a place form that touch one word are merged (R210): a word whose elements are all stored loses its poison (R228). -/
def clearStored (o : VOp) (c : Ctx) (w lo core off hi : Nat) (s : State) : State :=
  if s.padPoison.isEmpty then s
  else
    let whole (word : Nat) : Bool :=
      let a := 8 * word - padAddr core off
      let first := a * 8 / w
      decide (padAddr core off ≤ 8 * word) && (List.range (64 / w)).all (fun k =>
        decide (lo ≤ first + k) && decide (first + k < hi) && c.active o (first + k))
    { s with padPoison := s.padPoison.filter (fun word => !whole word) }

def execVstp (d : BitVec 6) (b : BitVec 5) (n : BitVec 1) (p : BitVec 5) (s : State) : Out :=
  let o := placeOp s.ctx d n p true
  placeForm true o d n p b (encVstp d b n p) true storeAfterFence
    (fun c i core off t => .ok (storePlaceElem s.ctx.sew i (c.elem d.toNat s.ctx.sew i) core off t.released))
    (fun core off hi t => clearStored o s.ctx s.ctx.sew (s.ctx.firstElem o) core off hi t) s

/-- PST_V (R263): every word is a release at .pkg, which waits once for what is earlier. -/
def execPstV (d : BitVec 6) (b : BitVec 5) (n : BitVec 1) (p : BitVec 5) (s : State) : Out :=
  placeForm (decide (s.ctx.sew = 64)) (placeOp s.ctx d n p true) d n p b (encPstV d b n p) false (releaseAt 3)
    (fun c i core off t => .ok (sendPresence t.released true core off (BitVec.ofNat 64 (c.elem d.toNat 64 i)))) (fun _ _ _ s => s) s

/-! ### Vector atomics (R274, R275) -/

/-- Fields of ox3. -/
structure AtomicDesc where
  op : Nat
  order : BitVec 2
  scope : BitVec 2
  spred : Nat
deriving DecidableEq, Repr

def atomicDesc (w : Word) : AtomicDesc := ⟨bits w 3 0, BitVec.ofNat 2 (bits w 5 4), BitVec.ofNat 2 (bits w 7 6), bits w 12 8⟩

/-- The checks the four instructions share. -/
def atomicOk (s : State) (d i : BitVec 6) (n : BitVec 1) (p : BitVec 5) : Bool :=
  let c := s.ctx
  maskOk s p n && s.hasOx && (decide (c.sew = 32) || decide (c.sew = 64)) && groupHere s d c.group && groupHere s i c.group
    && decide (bits (c.getOx 3) 63 13 = 0) && decide ((atomicDesc (c.getOx 3)).op ≠ 1)

/-- An atomic of every active element (R274): its alignment, its peers, then its release, then its accesses in element order. -/
def atomicForm (s : State) (b : BitVec 5) (i : BitVec 6) (a : AtomicDesc) (f : Ctx → MemElem) : MemForm where
  index := some i
  bad := fun c => alignment (s.ctx.sew / 8) (indexedAddress s b i c)
  far := fun t c => peerBad Need.atom (indexedAddress s b i c) t
  pre := orderAtomic a.order a.scope
  access := f

/-- VAMO: the old values are on their way to vd, each element with its valid bit. -/
def execVamo (d : BitVec 6) (b : BitVec 5) (i : BitVec 6) (n : BitVec 1) (p : BitVec 5) (s : State) : Out :=
  let c := s.ctx
  let w := c.sew
  let a := atomicDesc (c.getOx 3)
  match amoOfCode a.op with
  | none => illegal (encVamo d b i n p) s
  | some op =>
    whenOk (atomicOk s d i n p && orderOk a.order a.scope && disjointGroups (c.dest d) (c.dest i)) (encVamo d b i n p) s
      (let o : VOp := { pred := p.toNat, pinv := n = 1, sources := [c.source d, c.source i], dests := [c.dest d] }
       runMemory o (atomicForm s b i a
           (fun c k r => match atomicAt r.1 (indexedAddress s b i c k) (w / 8) a.order a.scope op (BitVec.ofNat 64 (c.elem d.toNat w k)) 0 with
             | .error e => .error e
             | .ok (old, s1) =>
               let key := s1.taskKey
               .ok ({ s1 with
                 core := { s1.core with vamos := s1.core.vamos ++ [⟨key.1, key.2, d.toNat, k, w, old, true⟩] }
                 pending := if s1.pending.contains (.vamoElementArrival s1.cur key.1 key.2) then s1.pending
                   else s1.pending ++ [Event.vamoElementArrival s1.cur key.1 key.2] }, r.2))) s)

/-- VRED: reductions without a destination. -/
def execVred (d : BitVec 6) (b : BitVec 5) (i : BitVec 6) (n : BitVec 1) (p : BitVec 5) (s : State) : Out :=
  let c := s.ctx
  let w := c.sew
  let a := atomicDesc (c.getOx 3)
  match amoOfCode a.op with
  | none => illegal (encVred d b i n p) s
  | some op =>
    whenOk (atomicOk s d i n p && decide (op ≠ .swap) && decide (a.order = 0) && decide (a.scope = 0)) (encVred d b i n p) s
      (let o : VOp := { pred := p.toNat, pinv := n = 1, sources := [c.source d, c.source i], dests := [] }
       runMemory o (atomicForm s b i a
         (fun c k r =>
           let x := BitVec.ofNat 64 (c.elem d.toNat w k)
           let va := indexedAddress s b i c k
           match reduceAt r.1 true va (w / 8) op x with
           | .error e => .error e
           | .ok s1 => .ok (s1, r.2))) s)

/-- The 8-byte word an element's reservation names; a peer's words are numbered above the device's. -/
def reservedWord : Target → Nat
  | .phys pa _ => pa / 8
  | .peer p addr _ => 2 ^ 60 + p * 2 ^ 43 + addr / 8

/-- Element k takes a reservation; its earlier one ends. -/
def State.reserve (s : State) (k word : Nat) : State :=
  { s with core := { s.core with resv := s.core.resv.filter (fun e => e.1 ≠ k) ++ [(k, word)] } }

/-- The read of a gll at the point of order. -/
def gllRead (s : State) (va : Word) (n k : Nat) (a : AtomicDesc) : Res (Nat × State) :=
  match translate s s.part s.privileged va Need.atom with
  | .error e => .error e
  | .ok (.phys pa entry) =>
    let s1 := (markUsed s entry false).publish
    if s.struck .vector then .error (exc .uncorrectableConsumed 1 va)
    else if touchesPoison s1 pa n then .error (consumed s1 pa n va)
    else .ok (physLe s1 pa n, (s1.acquireAtomic a.order a.scope pa n).reserve k (pa / 8))
  | .ok (.peer p addr leaf) =>
    let s1 := s.publish
    if s.struck .vector then .error (exc .uncorrectableConsumed 1 va)
    else match peerOutcome s1 s.part p addr va with
    | some e => .error e
    | none => .ok (leNat (peerBytes s1 n), ((markUsed s1 leaf false).acquireAtomic a.order a.scope 0 0).fresh.reserve k (reservedWord (.peer p addr leaf)))

/-- GLL: values read, and one reservation an element. -/
def execGll (d : BitVec 6) (b : BitVec 5) (i : BitVec 6) (n : BitVec 1) (p : BitVec 5) (s : State) : Out :=
  let c := s.ctx
  let w := c.sew
  let a := atomicDesc (c.getOx 3)
  whenOk (atomicOk s d i n p && orderOk a.order a.scope && disjointGroups (c.dest d) (c.dest i)) (encGll d b i n p) s
    (let o : VOp := { pred := p.toNat, pinv := n = 1, sources := [c.source i], dests := [c.dest d] }
     runMemory o (atomicForm s b i a
         (fun c k r => match gllRead r.1 (indexedAddress s b i c k) (w / 8) k a with
           | .error e => .error e
           | .ok (v, s1) => .ok (s1.putElem d.toNat w k v, r.2))) s)

/-- One element of an scc: whether it wrote. -/
def sccElem (s : State) (va : Word) (n : Nat) (a : AtomicDesc) (k x : Nat) : Res (Bool × State) :=
  let done (s : State) : State := { s with core := { s.core with resv := s.core.resv.filter (fun e => e.1 ≠ k) } }
  match translate s s.part s.privileged va Need.atom with
  | .error e => .error e
  | .ok (.phys pa entry) =>
    if touchesObject s pa n then .error (exc .objectOverwrite 0 va)
    else if s.struck .vector then .error (exc .uncorrectableConsumed 1 va)
    else
      let s1 := ((markUsed s entry true).publish.released).acquireAtomic a.order a.scope pa n
      if s1.core.resv.contains (k, pa / 8) then
        let rel := decide (2 ≤ a.order.toNat)
        let s2 := (homeWrite (if rel then stampHome s1 pa else s1) pa (natBytes n x)).dropOwnResv pa n
        .ok (true, done (if rel then s2.markRelease pa n else s2))
      else .ok (false, done s1)
  | .ok (.peer p addr leaf) =>
    let s1 := s.publish.released
    if s.struck .vector then .error (exc .uncorrectableConsumed 1 va)
    else match peerOutcome s1 s.part p addr va with
    | some e => .error e
    | none =>
      let holds := s1.core.resv.contains (k, reservedWord (.peer p addr leaf)) && (Config.openValue 7 s1.free).toNat % 2 = 1
      .ok (holds, done ((markUsed s1 leaf true).acquireAtomic a.order a.scope 0 0).fresh)

/-- SCC: stores the elements whose reservations stand, and says which in SPRED. -/
def execScc (d : BitVec 6) (b : BitVec 5) (i : BitVec 6) (n : BitVec 1) (p : BitVec 5) (s : State) : Out :=
  let c := s.ctx
  let w := c.sew
  let a := atomicDesc (c.getOx 3)
  whenOk (atomicOk s d i n p && orderOk a.order a.scope && decide (a.spred ≠ 0) && decide (a.spred < 24) && decide (a.spred ≠ p.toNat))
    (encScc d b i n p) s
    (let o : VOp := { pred := p.toNat, pinv := n = 1, sources := [c.source d, c.source i], dests := [], pdest := a.spred }
     runMemory o (atomicForm s b i a
         (fun c k r => match sccElem r.1 (indexedAddress s b i c k) (w / 8) a k (c.elem d.toNat w k) with
           | .error e => .error e
           | .ok (won, s1) => .ok ({ s1 with ctx := s1.ctx.setPBit a.spred k won }, r.2))) s)

end Sys2Proof.Machine
end

