-- ==== Sys2Proof/Machine/Copy.lean ====
section
/-! DEFINITION. Copies (R202, R215, R216, R228, R230, R266-R268): the issue of `xcopy`, and what the tile copy engine
does when one of its transfers completes (R267, R327, R368). -/

namespace Sys2Proof.Machine

/-! ### Sides of a copy -/

/-- One side of a copy: a place address or a VA, and the byte distance between rows. -/
structure Side where
  place : Bool
  base : Word
  stride : Int
deriving DecidableEq, Repr

/-- Byte distance of row r from the base. -/
def Side.row (d : Side) (r : Nat) : Int := d.stride * r

/-- The place word without its pan's bytes: OFF set to the start of a pan. -/
def panStart (w : Word) : Word := setBits w 15 0 0

/-- PFMT of the pan a place address lies in: SEWC and FMT. -/
def Side.format (s : State) (d : Side) : Option (BitVec 9) :=
  if d.place then
    match resolvePlace s d.base 0 0 with
    | .ok (c, o) => if o < 1048576 then some ((s.coreOf c).pfmt[o / 65536]?.getD 9 &&& 0x7F) else none
    | .error _ => none
  else none

/-- Element width and format code of a PFMT. -/
def pfmtWidth (f : BitVec 9) : Nat := 4 * 2 ^ (f.toNat % 8)
def pfmtCode (f : BitVec 9) : Nat := f.toNat / 8 % 16

/-- The formats of a converting copy (R216). -/
def converting (s : State) (a b : Side) : Option (BitVec 9 × BitVec 9) :=
  match a.format s, b.format s with
  | some f, some g => if f = g then none else some (f, g)
  | _, _ => none

/-! ### Issue checks (R266) -/

/-- The place checks of a side: the rows of a constant distance lie in the scratchpad when the first and the last do. -/
def Side.bounds (s : State) (d : Side) (rowBytes rows : Nat) : Option Exc :=
  if !d.place then none
  else
    match resolvePlace s d.base 0 rowBytes, resolvePlace s d.base (d.row (rows - 1)) rowBytes with
    | .ok _, .ok _ => none
    | _, _ => some (exc .bounds 0 d.base)

/-- In a converting copy OFF counts elements from the start of its pan (log entry 17): the bytes a side covers. -/
def elementOffset (w : Word) (width : Nat) : Int := (bits w 15 0 * width / 8 : Nat)
def Side.elementBounds (s : State) (d : Side) (width rowlen rows : Nat) : Option Exc :=
  match resolvePlace s (panStart d.base) (elementOffset d.base width) ((rowlen * width + 7) / 8),
      resolvePlace s (panStart d.base) (elementOffset d.base width + d.row (rows - 1)) ((rowlen * width + 7) / 8) with
  | .ok _, .ok _ => none
  | _, _ => some (exc .bounds 0 d.base)

/-- The first page among those of n bytes from a VA whose peer lies outside the partition's mask (R266); what else a peer number may
break reaches the token (R322). -/
def pagesPeerFault (s : State) (need : Need) : Nat → Word → Nat → Option Exc
  | 0, _, _ => none
  | fuel + 1, va, n =>
    if n = 0 then none
    else
      let c := min n (4096 - va.toNat % 4096)
      match translate s s.part s.privileged va need with
      | .error e => if e.cause = .peerFault ∧ e.sub = 1 then some e else pagesPeerFault s need fuel (va + BitVec.ofNat 64 c) (n - c)
      | .ok _ => pagesPeerFault s need fuel (va + BitVec.ofNat 64 c) (n - c)

/-- The first such page of a side, row by row. -/
def Side.peerFault (s : State) (d : Side) (need : Need) (rowlen : Nat) : Nat → Nat → Option Exc
  | 0, _ => none
  | n + 1, r =>
    if d.place then none
    else match pagesPeerFault s need (rowlen / 4096 + 2) (d.base + BitVec.ofInt 64 (d.row r)) rowlen with
      | some e => some e
      | none => d.peerFault s need rowlen n (r + 1)

/-- Lsrc or Ldst (R268). A control-space side, and a virtual address whose first page is present but refused, count as HBM with no hop
(DESIGN CHOICE, log entry 71). -/
def Side.latency (s : State) (d : Side) (source : Bool) : Nat :=
  let pick (a b : Nat) : Nat := if source then a else b
  if d.place then
    match resolvePlace s d.base 0 0 with
    | .ok (c, _) =>
      if c = s.cur then pick 6 0
      else let r := routeToCore s s.cur c; pick (16 + 4 * r.1 + 60 * r.2) (8 + 2 * r.1 + 30 * r.2)
    | .error _ => 0
  else
    match translate s s.part s.privileged d.base (if source then Need.copyRead else Need.copyWrite) with
    | .ok (.peer ..) => 1800
    | .ok (.phys pa _) =>
      match spaceOf pa with
      | .durable => pick 2400 600
      | .hbm => let r := routeToLine s s.cur pa; pick 420 40 + 2 * r.1 + 30 * r.2
      | _ => pick 420 40
    | .error _ => pick 420 40

/-- The words of the checksum register, which lands first where it is a well's. -/
def checksumRegister (s : State) (on : Bool) : Res (Option VReg × State) :=
  if !on then .ok (none, s)
  else
    let ck := bits (s.ctx.getOx 5) 5 0
    match landRegisters s [ck] with
    | (_, some (_, _, e)) => .error e
    | (s1, none) => .ok (some (s1.ctx.getV ck), s1)

/-- The operands of an xcopy (R266). -/
structure CopyShape where
  rowlen : Nat
  rows : Nat
  a : Side
  b : Side
deriving DecidableEq, Repr

/-- ox1 and ox2: the strides are read only with more than one row. -/
def copyShape (s : State) (a b : BitVec 5) (sp dp : Bool) : CopyShape :=
  let o1 := s.ctx.getOx 1
  let o2 := s.ctx.getOx 2
  let rows := bits o1 39 24 + 1
  { rowlen := bits o1 23 0, rows := rows
    a := ⟨sp, s.x a, if rows = 1 then 0 else sext (bits o2 31 0) 32⟩
    b := ⟨dp, s.x b, if rows = 1 then 0 else sext (bits o2 63 32) 32⟩ }

/-- The first operand that is not a multiple of 8; ROWLEN and the strides name the source. -/
def CopyShape.misaligned (p : CopyShape) : Option Word :=
  if p.a.base.toNat % 8 ≠ 0 then some p.a.base
  else if p.b.base.toNat % 8 ≠ 0 then some p.b.base
  else if p.rowlen % 8 ≠ 0 ∨ p.a.stride % 8 ≠ 0 ∨ p.b.stride % 8 ≠ 0 then some p.a.base
  else none

/-- The issue checks of R266 past Illegal instruction, in the order of R84. -/
def CopyShape.check (s : State) (p : CopyShape) (conv : Option (BitVec 9 × BitVec 9)) : Option Exc :=
  match conv with
  | some (f, g) =>
    p.a.elementBounds s (pfmtWidth f) p.rowlen p.rows <|> p.b.elementBounds s (pfmtWidth g) p.rowlen p.rows
  | none =>
    match p.misaligned with
    | some w => some (exc .misaligned 0 w)
    | none =>
      p.a.bounds s p.rowlen p.rows <|> p.b.bounds s p.rowlen p.rows
        <|> p.a.peerFault s Need.copyRead p.rowlen p.rows 0 <|> p.b.peerFault s Need.copyWrite p.rowlen p.rows 0

/-- Bytes a copy moves: of a converting one those of its source (DESIGN CHOICE, log entry 71). -/
def CopyShape.bytes (p : CopyShape) (conv : Option (BitVec 9 × BitVec 9)) : Nat :=
  match conv with
  | some (f, _) => (p.rowlen * pfmtWidth f + 7) / 8 * p.rows
  | none => p.rowlen * p.rows

/-- The pans the rows of a side touch: core and pan. -/
def Side.pans (s : State) (d : Side) (rowBytes rows : Nat) : List (Nat × Nat) :=
  if !d.place then []
  else ((List.range rows).flatMap (fun r => match resolvePlace s d.base (d.row r) rowBytes with
    | .ok (c, o) => (pansTouched o rowBytes).map (fun p => (c, p))
    | .error _ => [])).eraseDups

/-- The pans the rows of a side touch, by the format the side has in a converting copy, where OFF and the row length count
elements from the start of the pan (log entry 17). -/
def sidePans (s : State) (d : Side) (rowlen rows : Nat) : Option (BitVec 9) → List (Nat × Nat)
  | none => d.pans s rowlen rows
  | some f =>
    let w := pfmtWidth f
    ({ d with base := panStart d.base + BitVec.ofNat 64 (bits d.base 15 0 * w / 8) } : Side).pans s ((rowlen * w + 7) / 8) rows

/-- The pans a copy accesses. -/
def copyPans (s : State) (a b : Side) (rowlen rows : Nat) (conv : Option (BitVec 9 × BitVec 9)) : List (Nat × Nat) :=
  sidePans s a rowlen rows (conv.map (fun f => f.1)) ++ sidePans s b rowlen rows (conv.map (fun f => f.2))

/-- XCOPY (R266-R268): its pans begin to leave retention (R219). -/
def execXcopy (t a b : BitVec 5) (h : BitVec 2) (k q sr : BitVec 1) (s : State) : Out :=
  let p := copyShape s a b (sr = 1) (q = 1)
  let ck := decide (k = 1)
  let rowOk := decide (p.rowlen = 64) || decide (p.rowlen = 128) || decide (p.rowlen = 256)
  whenOk (s.hasOx && decide (bits (s.ctx.getOx 1) 63 40 = 0) && decide (p.rowlen ≠ 0)
      && (!ck || (rowOk && decide (p.rows ≤ 64) && decide (sr = 0) && decide (q = 0)))) (encXcopy t a b h k q sr) s
    (let conv := converting s p.a p.b
     addressOk s <| match p.check s conv with
     | some e => raise s e
     | none =>
       let ch : Fin 4 := h.toFin
       if !channelRoom s ch then waitHere s
       else withRes s (checksumRegister s ck) fun r =>
         let s1 := r.2.publish
         let c := s1.core.chans[ch]
         let start := if s1.cyc.toNat < c.nextStart.toNat then c.nextStart else s1.cyc
         let beats := BitVec.ofNat 64 ((p.bytes conv + 127) / 128)
         let promise := start + beats + BitVec.ofNat 64 (p.a.latency s true + p.b.latency s false)
         let job := Job.copy p.a.base p.b.base p.a.place p.b.place p.rowlen p.rows p.a.stride p.b.stride conv s.ctx.frm r.1
         let pans := copyPans s1 p.a p.b p.rowlen p.rows conv
         let late := pans.any (fun x => panQuiesced s1 (s1.coreOf x.1) x.2)
         let s2 := startTransfer (pans.foldl (fun s x => rousePan s x.1 x.2) s1) ch promise (start + beats) job
         let s3 := { s2 with
           ctx := { s2.ctx with xprom := promise }
           core := { s2.core with chans := markLate late ch c.nextId s2.core.chans }
           pending := s2.pending ++ [Event.transferComplete s.cur h.toNat c.nextId.toNat] }
         complete 4 1 (s3.setX t (transferToken s.cur ch c.nextId)))
where
  /-- A copy that a pre-empted launch's core will refuse. -/
  markLate (late : Bool) (ch : Fin 4) (id : BitVec 32) (l : Vector Channel 4) : Vector Channel 4 :=
    if late then
      let c := l[ch]
      l.set ch { c with out := c.out.map (fun t => if t.id = id then { t with late := true } else t) }
    else l

/-! ### The engine: one word at a time -/

/-- A transfer's party: its partition and mode, and whether pre-empted launches refuse it (R63). -/
structure Engine where
  part : Nat
  priv : Bool
  late : Bool
deriving DecidableEq, Repr

/-- What refuses an engine at a pan (R211, R63, R147): a pan of a pre-empted launch takes the copies that were accepted before, which
the save of the pan waits for (R62). -/
def engineRefusal (s : State) (p : Engine) (core pan : Nat) : Option Nat :=
  match padRefusal s p.part p.priv core pan with
  | some k => if k = 7 ∧ p.late = false ∧ ((s.coreOf core).claims[pan]?.getD none).isSome then none else some k
  | none => none

/-- The place of 8 bytes of a side for the engine. -/
def enginePlace (s : State) (p : Engine) (w : Word) (off : Int) (n : Nat) : Res (Nat × Nat) :=
  match resolvePlace s w off n with
  | .error e => .error e
  | .ok (c, o) =>
    match engineRefusal s p c (o / 65536) with
    | some k => .error (exc .protection k w)
    | none => .ok (c, o)

/-- Read a word of the source; `first` says that it is the first of a row, which fetches a line. -/
def copyRead (s : State) (p : Engine) (d : Side) (off : Int) (first : Bool) : Res (Word × State) :=
  if d.place then
    match enginePlace s p d.base off 8 with
    | .error e => .error e
    | .ok (c, o) =>
      let s1 := wakePan s c (o / 65536)
      if padTouchesPoison s1 c o 8 then .error (padConsumed s1 c o 8 d.base)
      else .ok (BitVec.ofNat 64 (leNat (padBytes s1 c o 8)), s1)
  else
    let va := d.base + BitVec.ofInt 64 off
    match translate s p.part p.priv va Need.copyRead with
    | .error e => .error e
    | .ok (.phys pa entry) =>
      if touchesPoison s pa 8 then .error (consumed s pa 8 va)
      else .ok (BitVec.ofNat 64 (physLe s pa 8), markUsed s entry false)
    | .ok (.peer q addr leaf) =>
      let s1 := if va.toNat % 128 = 0 ∨ first = true then countMigration s p.part va q leaf.leaf.pte else s
      match peerOutcome s1 p.part q addr va with
      | some e => .error e
      | none => .ok (BitVec.ofNat 64 (leNat (peerBytes s1 8)), (markUsed s1 leaf false).fresh)

/-- Write a word of the destination (R230 for object granules). -/
def copyWrite (s : State) (p : Engine) (d : Side) (off : Int) (v : Word) : Res State :=
  if d.place then
    match enginePlace s p d.base off 8 with
    | .error e => .error e
    | .ok (c, o) => .ok (padWrite (wakePan s c (o / 65536)) c o (natBytes 8 v.toNat))
  else
    let va := d.base + BitVec.ofInt 64 off
    match translate s p.part p.priv va Need.copyWrite with
    | .error e => .error e
    | .ok (.phys pa entry) =>
      if touchesObject s pa 8 then .error (exc .objectOverwrite 0 va)
      else .ok ((homeWrite (markUsed s entry true) pa (natBytes 8 v.toNat)).dropOwnResv pa 8)
    | .ok (.peer q addr leaf) =>
      match peerOutcome s p.part q addr va with
      | some e => .error e
      | none => .ok (markUsed s leaf true).fresh

/-- The destination word of a poisoned source word takes the mark (R228). -/
def poisonWord (s : State) (p : Engine) (d : Side) (off : Int) (path : Bool) : State :=
  if d.place then
    match enginePlace s p d.base off 8 with
    | .ok (c, o) => setPadPoison s (padAddr c o / 8) path
    | .error _ => s
  else
    match translate s p.part p.priv (d.base + BitVec.ofInt 64 off) Need.copyWrite with
    | .ok (.phys pa _) => if touchesObject s pa 8 then s else setPoison s (pa / 8) path
    | _ => s

/-- A copy under way: the state, the first error, and whether it has ended. -/
structure Copying where
  state : State
  err : Option Exc
  ended : Bool

/-- Note an error; only the first is kept. -/
def Copying.note (c : Copying) (e : Exc) : Copying := { c with err := c.err <|> some e }
/-- An error ends the transfer. -/
def Copying.stop (c : Copying) (e : Exc) : Copying := { c.note e with ended := true }

/-- Copy n words from byte k of a row: an object granule is left out, every other error ends the transfer. -/
def copyWords (p : Engine) (a b : Side) (r : Nat) : Nat → Nat → Copying → Copying
  | 0, _, c => c
  | n + 1, k, c =>
    if c.ended then c
    else
      let oa := a.row r + k
      let ob := b.row r + k
      match copyRead c.state p a oa (k = 0) with
      | .error e =>
        if e.cause = .uncorrectableConsumed then { c with state := poisonWord c.state p b ob (e.sub = 1) }.stop e else c.stop e
      | .ok (v, s1) =>
        match copyWrite s1 p b ob v with
        | .ok s2 => copyWords p a b r n (k + 8) { c with state := s2 }
        | .error e =>
          if e.cause = .objectOverwrite then copyWords p a b r n (k + 8) ({ c with state := s1 }.note e)
          else { c with state := s1 }.stop e

/-- The words of a row of the source. -/
def rowWords (s : State) (p : Engine) (a : Side) (r : Nat) : Nat → Nat → Option (List Word)
  | 0, _ => some []
  | n + 1, k =>
    match copyRead s p a (a.row r + k) false with
    | .error _ => none
    | .ok (v, s1) => (rowWords s1 p a r n (k + 8)).map (fun l => v :: l)

/-- Fletcher-32 of a row (R200). -/
def rowChecksum (ws : List Word) : Nat := fletcher (8 * ws.length) (leNat (wordsToBytes ws))

/-- Whether row r agrees with its carried checksum; a row that cannot be read is judged by the copy itself. -/
def rowAgrees (s : State) (p : Engine) (a : Side) (rowlen : Nat) (ck : Option VReg) (r : Nat) : Bool :=
  match ck with
  | none => true
  | some v => match rowWords s p a r (rowlen / 8) 0 with
    | some ws => decide (rowChecksum ws = v.toNat / 2 ^ (32 * r) % 2 ^ 32)
    | none => true

/-- A row of a copy that disagrees with its checksum is logged with its address: the reporter is the copy engine (R202, R395). -/
def logCopyRow (s : State) (t : Transfer) (va : Word) (r : Nat) : State :=
  let l := s.launchOf t.serial
  logRecord s (errRecord s { code := Cause.matrixCheck.code, sub := 0x1000 + r, source := 1,
                             lid := match l with | some l => l.lid.toNat | none => 0, tid := t.tid, core := s.cur, part := t.part,
                             epc := t.pc, eaddr := va, tag := match l with | some l => l.tag | none => 0 })

/-- Rows of a copy that converts nothing, in order: a row whose checksum disagrees is not written (R202). -/
def copyRows (t : Transfer) (p : Engine) (a b : Side) (rowlen : Nat) (ck : Option VReg) : Nat → Nat → Copying → Copying
  | 0, _, c => c
  | n + 1, r, c =>
    if c.ended then c
    else if rowAgrees c.state p a rowlen ck r then copyRows t p a b rowlen ck n (r + 1) (copyWords p a b r (rowlen / 8) 0 c)
    else
      let va := b.base + BitVec.ofInt 64 (b.row r)
      copyRows t p a b rowlen ck n (r + 1) ({ c with state := logCopyRow c.state t va r }.note (exc .matrixCheck (0x1000 + r) va))

/-! ### Converting copies (R215, R216) -/

/-- A PFMT as the source of a conversion that is no block format. -/
def padSource (f : BitVec 9) : ConvSource :=
  if pfmtCode f ≤ 1 then .int (pfmtCode f = 0) (pfmtWidth f) else .float (floatFormat (pfmtCode f) (pfmtWidth f))

/-- Whether a PFMT is a block format. -/
def isBlock (f : BitVec 9) : Bool := decide (7 ≤ pfmtCode f)

/-- First byte and bit of element e of a pan. -/
def padElement (core pan w e : Nat) : Nat := padAddr core (65536 * pan) + e * w / 8

/-- An element of a pan: its code. -/
def padCode (s : State) (core pan w e : Nat) : Nat :=
  let a := padElement core pan w e
  if w = 4 then (memRead s.pad a).toNat / 16 ^ (e % 2) % 16 else memLe s.pad a (w / 8)

/-- The scale byte of block j of a pan (R215). -/
def padScale (s : State) (core pan j : Nat) : Nat := (memRead s.pad (padAddr core (65536 * pan + 61440 + j))).toNat

/-- A source element decoded (R216). -/
def padValue (s : State) (core pan : Nat) (f : BitVec 9) (e : Nat) : FVal :=
  let code := padCode s core pan (pfmtWidth f) e
  if isBlock f then blockDecode (pfmtCode f) (padScale s core pan (e / 32)) code else (padSource f).value code

/-- Write the code of an element of a pan. -/
def putPadCode (s : State) (core pan w e code : Nat) : State :=
  let off := 65536 * pan + e * w / 8
  let old := (memRead s.pad (padAddr core off)).toNat
  padWrite s core off (if w = 4 then
      [BitVec.ofNat 8 (if e % 2 = 0 then old / 16 * 16 + code % 16 else old % 16 + code % 16 * 16)]
    else natBytes (w / 8) code)

/-- A row of a side as core, pan and first element. -/
structure PadRow where
  core : Nat
  pan : Nat
  elem : Nat
deriving DecidableEq, Repr

/-- Row r of a side, or none where its byte distance is no whole number of elements. -/
def padRow (s : State) (d : Side) (w r : Nat) : Option PadRow :=
  match resolvePlace s (panStart d.base) 0 0 with
  | .error _ => none
  | .ok (c, o) =>
    let e : Int := bits d.base 15 0 + d.row r * 8 / (w : Int)
    if d.row r * 8 % (w : Int) ≠ 0 ∨ e < 0 then none else some ⟨c, o / 65536, e.toNat⟩

/-- R216's rule for a block side: whole blocks, in the code area. -/
def blockRule (f : BitVec 9) (x : PadRow) (rowlen : Nat) : Bool :=
  !isBlock f || (decide (x.elem % 32 = 0) && decide (rowlen % 32 = 0) && decide ((x.elem + rowlen) * pfmtWidth f / 8 ≤ 61440))

/-- The pans a row's codes and scales lie in. -/
def PadRow.pans (x : PadRow) (f : BitVec 9) (rowlen : Nat) : List Nat :=
  let first := x.pan + x.elem * pfmtWidth f / 8 / 65536
  let last := x.pan + ((x.elem + rowlen) * pfmtWidth f - 1) / 8 / 65536
  (List.range (last + 1 - first)).map (fun k => first + k)

/-- The pans of a row may be accessed. -/
def padRowRefusal (s : State) (p : Engine) (d : Side) (f : BitVec 9) (x : PadRow) (rowlen : Nat) : Option Exc :=
  ((x.pans f rowlen).findSome? (fun k => engineRefusal s p x.core k)).map (fun k => exc .protection k d.base)

/-- A row's access keeps its pans active (R219). -/
def wakeRow (s : State) (x : PadRow) (f : BitVec 9) (rowlen : Nat) : State :=
  (x.pans f rowlen).foldl (fun s k => wakePan s x.core k) s

/-- Whether a source element, or its scale, is poisoned. -/
def padElementPoisoned (s : State) (x : PadRow) (f : BitVec 9) (e : Nat) : Bool :=
  padTouchesPoison s x.core (65536 * x.pan + e * pfmtWidth f / 8) (max 1 (pfmtWidth f / 8))
    || (isBlock f && padTouchesPoison s x.core (65536 * x.pan + 61440 + e / 32) 1)

/-- One element converted into a format that is no block format, under the sampled rounding mode. -/
def convertPadElement (s : State) (x : PadRow) (f g : BitVec 9) (mode : RMode) (e : Nat) : Nat :=
  let gf := floatFormat (pfmtCode g) (pfmtWidth g)
  if isBlock f then
    let v := padValue s x.core x.pan f e
    (if pfmtCode g ≤ 1 then toInteger mode (pfmtCode g = 0) (pfmtWidth g) v else gf.ofVal mode v).1
  else (convertElement (padSource f) (pfmtCode g) (pfmtWidth g) gf mode (padCode s x.core x.pan (pfmtWidth f) e)).1

/-- Write a block: its scale before its codes. -/
def putPadBlock (s : State) (y : PadRow) (g : BitVec 9) (e : Nat) (b : Block) : State :=
  let s1 := padWrite s y.core (65536 * y.pan + 61440 + e / 32) [BitVec.ofNat 8 b.scale]
  ((List.range 32).zip b.codes).foldl (fun s k => putPadCode s y.core y.pan (pfmtWidth g) (e + k.1) k.2) s1

/-- The words of a pan that a copy has written wholly lose their poison (R216, R228). -/
def clearCovered (s : State) (core off n : Nat) : State :=
  if s.padPoison.isEmpty then s
  else { s with padPoison := s.padPoison.filter (fun w =>
    !(decide (padAddr core off ≤ 8 * w) && decide (8 * w + 8 ≤ padAddr core off + n))) }

/-- What writing the first n elements of a destination row has covered: codes, and for a block format its scales. -/
def rowWritten (y : PadRow) (g : BitVec 9) (n : Nat) (s : State) : State :=
  let codes := clearCovered s y.core (65536 * y.pan + y.elem * pfmtWidth g / 8) (n * pfmtWidth g / 8)
  if isBlock g then clearCovered codes y.core (65536 * y.pan + 61440 + y.elem / 32) (n / 32) else codes

/-- Elements of a row from k on, in units of a block or of one element: what the source holds is taken from `s0`. -/
def convertUnits (s0 : State) (from_ : Word) (x y : PadRow) (f g : BitVec 9) (mode : RMode) (unit : Nat) : Nat → Nat → Copying → Copying
  | 0, k, c => { c with state := rowWritten y g k c.state }
  | n + 1, k, c =>
    if (List.range unit).any (fun i => padElementPoisoned s0 x f (x.elem + k + i)) then
      let s1 := rowWritten y g k c.state
      let s2 := setPadPoison s1 (padElement y.core y.pan (pfmtWidth g) (y.elem + k) / 8) false
      { c with state := s2 }.stop (exc .uncorrectableConsumed 0 from_)
    else
      let s1 := if isBlock g then
          putPadBlock c.state y g (y.elem + k)
            (toBlock (pfmtCode g) ((List.range 32).map (fun i => some (padValue s0 x.core x.pan f (x.elem + k + i), mode))))
        else putPadCode c.state y.core y.pan (pfmtWidth g) (y.elem + k) (convertPadElement s0 x f g mode (x.elem + k))
      convertUnits s0 from_ x y f g mode unit n (k + unit) { c with state := s1 }

/-- One row of a converting copy. -/
def convertRow (p : Engine) (a b : Side) (f g : BitVec 9) (mode : RMode) (rowlen : Nat) (x y : PadRow) (c : Copying) : Copying :=
  match padRowRefusal c.state p a f x rowlen <|> padRowRefusal c.state p b g y rowlen with
  | some e => c.stop e
  | none =>
    let s0 := wakeRow (wakeRow c.state x f rowlen) y g rowlen
    let unit := if isBlock g then 32 else 1
    convertUnits s0 a.base x y f g mode unit (rowlen / unit) 0 { c with state := s0 }

/-- The error bits of a copy that breaks R216: the spec names no cause; a free value that is not 0 (log entry 11). -/
def openError (s : State) : BitVec 24 :=
  let v := (Config.openValue 8 s.free).setWidth 24
  if v = 0 then 1 else v

/-- Rows of a converting copy. -/
def convertRows (p : Engine) (a b : Side) (f g : BitVec 9) (mode : RMode) (rowlen : Nat) : Nat → Nat → Copying → Copying
  | 0, _, c => c
  | n + 1, r, c =>
    if c.ended then c
    else match padRow c.state a (pfmtWidth f) r, padRow c.state b (pfmtWidth g) r with
      | some x, some y => convertRows p a b f g mode rowlen n (r + 1) (convertRow p a b f g mode rowlen x y c)
      | _, _ => c

/-- Whether every row of a converting copy keeps R216. -/
def convertingOk (s : State) (a b : Side) (f g : BitVec 9) (rowlen rows : Nat) : Bool :=
  (List.range rows).all (fun r => match padRow s a (pfmtWidth f) r, padRow s b (pfmtWidth g) r with
    | some x, some y => blockRule f x rowlen && blockRule g y rowlen
    | _, _ => false)

/-! ### Pages that are not present (R267, R327) -/

/-- The first missing page among those of n bytes from a VA. -/
def pagesMissing (s : State) (p : Engine) (need : Need) : Nat → Word → Nat → Option Exc
  | 0, _, _ => none
  | fuel + 1, va, n =>
    if n = 0 then none
    else
      let c := min n (4096 - va.toNat % 4096)
      let rest := pagesMissing s p need fuel (va + BitVec.ofNat 64 c) (n - c)
      match translate s p.part p.priv va need with
      | .error e => if e.cause = .translationNotPresent ∧ e.sub = 0 then some e else rest
      | .ok _ => rest

/-- The first missing page of a row of a side. -/
def Side.missing (s : State) (p : Engine) (d : Side) (need : Need) (rowlen r : Nat) : Option Exc :=
  if d.place then none else pagesMissing s p need (rowlen / 4096 + 2) (d.base + BitVec.ofInt 64 (d.row r)) rowlen

/-- The first missing page of a copy, row by row: the transfer waits for it before anything else of it is judged (R327). -/
def copyMissing (s : State) (p : Engine) (a b : Side) (rowlen : Nat) : Nat → Nat → Option Exc
  | 0, _ => none
  | n + 1, r =>
    match a.missing s p Need.copyRead rowlen r <|> b.missing s p Need.copyWrite rowlen r with
    | some e => some e
    | none => copyMissing s p a b rowlen n (r + 1)

/-! ### Completion (R267, R368) -/

/-- The latest id up to which every transfer of a channel has completed (R267). -/
def doneUpTo (c : Channel) : BitVec 32 := match c.out with | [] => c.nextId - 1 | t :: _ => t.id - 1

/-- A transfer leaves its channel: the status of the newest 256 ids is kept, and its awaiters wake. -/
def finishTransfer (s : State) (ch : Fin 4) (t : Transfer) (err : BitVec 24) : State :=
  let c := s.core.chans[ch]
  let c1 := { c with out := c.out.filter (fun u => u.id ≠ t.id), status := ((t.id, err) :: c.status).filter (fun e => c.keeps e.1) }
  let s1 := { s with core := { s.core with chans := s.core.chans.set ch { c1 with xdone := doneUpTo c1 } } }
  wakeWaiters s1 (fun w => w.on = .token (transferToken s.cur ch t.id)) err

/-- The error record of a transfer (R267, R395). -/
def transferRecord (s : State) (t : Transfer) (err : BitVec 24) (addr : Word) : State :=
  let l := s.launchOf t.serial
  report s { code := err.toNat % 256, sub := err.toNat / 256, source := 1,
             lid := match l with | some l => l.lid.toNat | none => 0, tid := t.tid, core := s.cur, part := t.part,
             epc := t.pc, eaddr := addr, tag := match l with | some l => l.tag | none => 0 }

/-- A transfer ends in an error. -/
def failTransfer (s : State) (ch : Fin 4) (t : Transfer) (err : BitVec 24) (addr : Word) : State :=
  finishTransfer (transferRecord s t err addr) ch t err

/-- Mark a transfer as waiting for the channel's fault cell, or not. -/
def setParked (s : State) (ch : Fin 4) (id : BitVec 32) (on : Bool) : State :=
  let c := s.core.chans[ch]
  let c1 := { c with out := c.out.map (fun t => if t.id = id then { t with parked := on } else t) }
  { s with core := { s.core with chans := s.core.chans.set ch c1 } }

/-- A transfer meets a missing page (R327): it waits for the channel's cell, or, while another waits, for that signal. Without a cell
it fails as `fail` says. -/
def parkTransfer (s : State) (ch : Fin 4) (t : Transfer) (e : Exc) (fail : State) : State :=
  if s.core.chans[ch].out.any (fun u => u.parked) then setParked s ch t.id true
  else match faultCell s t.part (131072 + 4 * s.cur + ch.val) with
    | none => fail
    | some (va, pa) =>
      let lid := match s.launchOf t.serial with | some l => l.lid.toNat | none => 0
      let s1 := initFaultCell s t.part va pa
      let s2 := produceRecord s1 t.part 5 s.cur
        (faultRecord e (cellToken va) lid t.tid s.cur t.part true (transferToken s.cur ch t.id))
      setParked (addWaiter s2 ⟨.token (faultToken va), t.part, s.cur, 64 + ch.val, homeSlice pa, some pa⟩ false) ch t.id true

/-- The engine carries out a copy. -/
def runCopy (s : State) (ch : Fin 4) (t : Transfer) (a b : Side) (rowlen rows : Nat)
    (conv : Option (BitVec 9 × BitVec 9)) (frm : BitVec 3) (ck : Option VReg) : State :=
  let p : Engine := ⟨t.part, t.priv, t.late⟩
  let finish (c : Copying) : State :=
    match c.err with
    | none => finishTransfer c.state ch t 0
    | some e => failTransfer (countConsumed c.state e) ch t e.bits e.addr
  match conv with
  | some (f, g) =>
    if convertingOk s a b f g rowlen rows then
      finish (convertRows p a b f g (convMode frm false 0) rowlen rows 0 ⟨s, none, false⟩)
    else failTransfer s.fresh ch t (openError s) b.base
  | none =>
    match copyMissing s p a b rowlen rows 0 with
    | some e => parkTransfer s ch t e (failTransfer s ch t e.bits e.addr)
    | none => finish (copyRows t p a b rowlen ck rows 0 ⟨s, none, false⟩)

/-- The outstanding transfer of a channel with an id. -/
def findTransfer (s : State) (ch : Fin 4) (id : BitVec 32) : Option Transfer := s.core.chans[ch].out.find? (fun t => t.id = id)

/-- TRANSFER_COMPLETE: the engine carries out an outstanding copy that does not wait for a page. -/
def transferComplete (core ch id : Nat) (s : State) : State :=
  s.onCore core (fun s =>
    if h : ch < 4 then
      match findTransfer s ⟨ch, h⟩ (BitVec.ofNat 32 id) with
      | none => s
      | some t =>
        match t.job with
        | .copy src dst sp dp rowlen rows ss ds conv frm ck =>
          if t.parked then s else runCopy s ⟨ch, h⟩ t ⟨sp, src, ss⟩ ⟨dp, dst, ds⟩ rowlen rows conv frm ck
        | _ => s
    else s)

/-- The channel's cell was signalled: its transfers walk again (R327). -/
def resumeChannel (core ch : Nat) (s : State) : State :=
  s.onCore core (fun s =>
    if h : ch < 4 then
      let c := s.core.chans[ch]
      let waiting := c.out.filter (fun t => t.parked)
      let c1 := { c with out := c.out.map (fun t => { t with parked := false }) }
      { s with
        core := { s.core with chans := s.core.chans.set ch c1 }
        pending := s.pending ++ waiting.map (fun t => match t.job with
          | .arrive .. => Event.deferredArrival core ch t.id.toNat
          | _ => Event.transferComplete core ch t.id.toNat) }
    else s)

/-- The core that holds a task, running or suspended. -/
def taskHome (s : State) (serial tid : Nat) : Option Nat :=
  let mine (k : Core) : Bool := (tasksOf k).contains (serial, tid)
  if mine s.core then some s.cur else (s.others.find? (fun p => mine p.core)).map (fun p => p.id)

/-- Change the registers of a task of a core, in use, held for a routine, or in its record; (0, 0) is the routine itself. -/
def mapTaskCtx (s : State) (core serial tid : Nat) (f : Ctx → Ctx) : State :=
  let k := s.coreOf core
  let runs := match k.run.task with | some t => decide (t.serial = serial ∧ t.tid = tid) | none => false
  match k.service with
  | some v =>
    if serial = 0 then s.setCtx core (f (s.ctxOf core))
    else if runs then s.setCore core { k with service := some { v with heldCtx := f v.heldCtx } }
    else s.setCore core { k with tasks := k.tasks.map (fun t => if t.info.serial = serial ∧ t.info.tid = tid then { t with ctx := f t.ctx } else t) }
  | none =>
    if runs then s.setCtx core (f (s.ctxOf core))
    else s.setCore core { k with tasks := k.tasks.map (fun t => if t.info.serial = serial ∧ t.info.tid = tid then { t with ctx := f t.ctx } else t) }

/-- Change the registers of a task wherever its record is (R36); a routine is at the executing core. -/
def mapTask (s : State) (serial tid : Nat) (f : Ctx → Ctx) : State :=
  if serial = 0 then (if s.inService then mapTaskCtx s s.cur 0 0 f else s)
  else match taskHome s serial tid with
    | some c => mapTaskCtx s c serial tid f
    | none => s

/-- LDA_DATA_ARRIVAL: the data of an lda is written to its register, if the register is still the task's, and its token is
signalled (R36, R261). -/
def landLoad (s : State) (id : BitVec 32) : State :=
  match findTransfer s 3 id with
  | none => s
  | some t =>
    match t.job with
    | .load r data err live =>
      let s1 := if live && err.isNone then mapTask s t.serial t.tid (fun c => c.setS r data) else s
      finishTransfer s1 3 t (err.getD 0)
    | _ => s

/-- The oldest outstanding element of a task's vamo lands in its group, if the group is still the task's (R36, R274). -/
def landVamoElement (s : State) (serial tid : Nat) : State :=
  match s.core.vamos.find? (fun v => v.serial = serial ∧ v.tid = tid) with
  | none => s
  | some v =>
    let s1 := { s with core := { s.core with vamos := s.core.vamos.erase v } }
    if v.live then mapTask s1 serial tid (fun c => c.setElem v.group v.sew v.index v.value.toNat) else s1

/-- Every outstanding element of the executing party lands: a vector instruction reads or writes its groups (R155). -/
def landVamos (s : State) : State :=
  let key := s.taskKey
  let mine (v : VamoElem) : Bool := v.serial = key.1 && v.tid = key.2
  let n := (s.core.vamos.filter mine).length
  if n = 0 then s
  else
    let s1 := (List.range n).foldl (fun s _ => landVamoElement s key.1 key.2) s
    { s1 with pending := s1.pending.filter (fun e => e ≠ Event.vamoElementArrival s1.cur key.1 key.2) }

/-! ### The events -/

/-- An event that is a message under way takes place once: none when it is not under way. It takes a fresh number. -/
def takeEvent (e : Event) (s : State) (f : State → State) : Out :=
  if s.pending.contains e then .next (f { s.fresh with pending := s.pending.erase e }) else .next s

/-- An event that accesses pans takes place once they are active; those that are in retention begin to leave it (R219). -/
def takeWhenAwake (e : Event) (pans : List (Nat × Nat)) (due : State → Bool) (s : State) (f : State → State) : Out :=
  if !s.pending.contains e || !due s then .next s
  else if pans.all (fun x => panAwake s x.1 x.2) then takeEvent e s f
  else
    let s1 := pans.foldl (fun s x => rousePan s x.1 x.2) s
    .next (if s1.pending = s.pending ∧ s1.core.retention = s.core.retention ∧ s1.others = s.others then s else s1.fresh)

/-- The pans a transfer accesses. -/
def transferPans (s : State) (core ch id : Nat) : List (Nat × Nat) :=
  let s1 := s.switchTo core
  if h : ch < 4 then
    match findTransfer s1 ⟨ch, h⟩ (BitVec.ofNat 32 id) with
    | some t => (match t.job with
      | .copy src dst sp dp rowlen rows ss ds conv _ _ => copyPans s1 ⟨sp, src, ss⟩ ⟨dp, dst, ds⟩ rowlen rows conv
      | _ => [])
    | none => []
  else []

def execTransferComplete (core ch id : Nat) (s : State) : Out :=
  takeWhenAwake (.transferComplete core ch id) (transferPans s core ch id) (fun _ => true) s (transferComplete core ch id)
/-- CHANNEL_CELL_RESUME: a wake, which a sealed core refuses until it is opened (R32, R147). -/
def execChannelCellResume (core ch : Nat) (s : State) : Out :=
  if (s.coreOf core).closed then .next s else takeEvent (.channelCellResume core ch) s (resumeChannel core ch)
def execLdaDataArrival (core id : Nat) (s : State) : Out :=
  takeEvent (.ldaDataArrival core id) s (fun s => s.onCore core (fun s => landLoad s (BitVec.ofNat 32 id)))
def execVamoElementArrival (core serial tid : Nat) (s : State) : Out :=
  takeEvent (.vamoElementArrival core serial tid) s (fun s => s.onCore core (fun s =>
    let s1 := landVamoElement s serial tid
    if s1.core.vamos.any (fun v => v.serial = serial ∧ v.tid = tid) then
      { s1 with pending := s1.pending ++ [Event.vamoElementArrival core serial tid] } else s1))

end Sys2Proof.Machine
end

