-- ==== Sys2Proof/Machine/Queues.lean ====
section
/-! DEFINITION. Queues as tasks use them (R283-R305): the checks of a queue instruction, enqueue and dequeue in their four
forms, and `qop`. -/

namespace Sys2Proof.Machine

/-! ### The checks (R287, R288, R290) -/

/-- What a queue instruction does with its queue. -/
inductive QueueUse where
  | enqueue | dequeue | look
deriving DecidableEq, Repr

/-- A queue opened by a task: the address of its control block and the block. -/
structure OpenQueue where
  va : Nat
  pa : Nat
  q : Nat
deriving DecidableEq, Repr

/-- The refusals of R288 that depend on the mode. -/
def queueRefusal (s : State) (pa q : Nat) (use : QueueUse) : Option Nat :=
  if (qMode q = 0 ∨ qMode q = 2) ∧ homeDie pa ≠ dieOf s.cur then some 4
  else if use = .enqueue ∧ 5 ≤ qMode q ∧ !s.privileged then some 5
  else if use = .dequeue ∧ qMode q = 4 then some 6
  else none

/-- The control block of a queue instruction, after its alignment, R287 and R288. -/
def openQueue (s : State) (va : Word) (use : QueueUse) : Res OpenQueue :=
  if misalignedAt va 64 then .error (exc .misaligned 0 va)
  else match translate s s.part s.privileged va Need.queue with
    | .error e => .error e
    | .ok (.peer ..) => .error (exc .protection 9 va)
    | .ok (.phys pa _) =>
      if touchesPoison s pa 64 then .error (consumed s pa 64 va)
      else match qcbFailure s pa with
        | some k => .error (exc .queueControlBlockCorrupt k va)
        | none =>
          let q := readQcb s pa
          match queueRefusal s pa q use with
          | some k => .error (exc .protection k va)
          | none => .ok ⟨va.toNat, pa, q⟩

/-- The element's address is a multiple of min(n, 128). -/
def elementMisaligned (q : Nat) (va : Word) : Bool := decide (va.toNat % slotPiece q ≠ 0)

/-- The first Peer fault of the pieces of n bytes, which stands before every other fault of memory (R84). -/
def piecesPeer (s : State) (need : Need) (piece n : Nat) (va : Word) : Option Exc :=
  (List.range n).findSome? (peerBad need (fun k => va + BitVec.ofNat 64 (piece * k)) s)

/-- Where the pieces of an element's destination lie: their translations are held from the check until the write (R290). -/
abbrev Dest := List (Word × Target)

/-- The destination of an element is checked for WRITE, and for objects, before any change (R290, R230). -/
def checkDestination (s : State) (piece : Nat) : Nat → Word → Res Dest
  | 0, _ => .ok []
  | n + 1, va =>
    match checkStore s va with
    | .error e => .error e
    | .ok t =>
      let rest := checkDestination s piece n (va + BitVec.ofNat 64 piece)
      match t with
      | .phys pa _ => if touchesObject s pa piece then .error (exc .objectOverwrite 0 va) else rest.map (fun l => (va, t) :: l)
      | .peer .. => rest.map (fun l => (va, t) :: l)

/-- Store an element for the task, piece by piece, to where its destination was found. -/
def storeElement (piece : Nat) : State → Dest → List Byte → Res State
  | s, [], _ => .ok s
  | s, d :: l, bs =>
    match writeTo s false d.1 d.2 (bs.take piece) with
    | .error e => .error e
    | .ok s1 => storeElement piece s1 l (bs.drop piece)

/-- Pieces of an element. -/
def elementPieces (q : Nat) : Nat := qElem q / slotPiece q

/-! ### Waiting (R293, R294) -/

/-- Kind 4 token (R366). -/
def queueToken (va : Word) (dequeue : Bool) : Word :=
  BitVec.ofNat 64 (bits va 51 6 + (if dequeue then 2 ^ 46 else 0) + 4 * 2 ^ 60)

/-- A `.wait` form that cannot proceed: the task registers and is suspended, its pc at the instruction. One that was woken
and fails again registers at the front. -/
def queueWait (s : State) (t : TaskInfo) (o : OpenQueue) (va : Word) (dequeue : Bool) : State :=
  let w : Wait := { kind := .queue, reg := 0, size := 0, code := [], tokens := [queueToken va dequeue], t0 := s.cyc, since := s.cyc, which := 0, err := none,
                    timedOut := false, isOver := false, till := 0, retry := s.cyc + 4096, bytes := fullRecordBytes s.ctx }
  let s1 := if tableFull s o.pa then s
    else if dequeue then writeQcb s o.pa (putField o.q 223 208 (qDeqw o.q + 1))
    else writeQcb s o.pa (putField o.q 207 192 (qEnqw o.q + 1))
  waitOn (s1.touch t.part o.va Need.queue true) { t with woken := false } w (if dequeue then .dequeue o.pa else .enqueue o.pa) o.pa t.woken

/-- A `.wait` form in a gang or in the service context is illegal (R288). -/
def waitAllowed (s : State) : Bool := !s.inService && !s.ctx.gangst.getLsbD 3

/-- A queue operation completed: the task is no longer one that was woken. -/
def clearWoken (s : State) : State :=
  { s with core := { s.core with run := s.core.run.mapTask (fun t => { t with woken := false }) } }

/-- What a form does when the queue cannot serve it: `.try` clears its predicate, `.wait` waits. -/
def cannotProceed (pd : Option Nat) (o : OpenQueue) (va : Word) (dequeue : Bool) (s : State) : Out :=
  match pd with
  | some p => complete 4 1 ({ s with ctx := s.ctx.setP p 0 }.touch s.part o.va Need.queue false)
  | none => match s.core.run.task with
    | some t => .next (queueWait s t o va dequeue)
    | none => waitHere s

/-- A form that succeeded sets its predicate to all ones. -/
def succeed (pd : Option Nat) (s : State) : Out :=
  let s1 := clearWoken s
  match pd with
  | some p => complete 4 1 { s1 with ctx := s1.ctx.setP p (BitVec.allOnes 1024) }
  | none => complete 4 1 s1

/-! ### Enqueue (R290, R295) -/

/-- The scope a queue's mode releases at: .dur for a durable queue, .die for a local and a levelled one, else .pkg (R284, R295). -/
def modeScope (q : Nat) : Nat :=
  match qMode q with
  | 3 => 5
  | 0 => 2
  | 2 => 2
  | _ => 3

/-- The pages of a queue's block and of a slot are marked (R320). -/
def touchSlot (s : State) (part : Nat) (o : OpenQueue) (slot : Nat) (need : Need) : State :=
  ((s.touch part o.va Need.queue true).touch part slot need need.writes).touch part (slot + qElem o.q - 1) need need.writes

/-- The slot's own home takes the release too, and its words keep the clock for the dequeue that reads them (R244, R296). -/
def stampSlot (q : Nat) (s : State) (l : List Nat) : State :=
  l.foldl (fun s pa => (stampHome s pa).markRelease pa (slotPiece q)) s

/-- A dequeue acquires with the clock its slot was written with (R238, R295, R296), and recalls what of the slot is leased (R337). -/
def acquireSlot (q : Nat) (s : State) (l : List Nat) : State :=
  l.foldl (fun s pa => (s.recall (pa / 128) 1).acquireRange pa (slotPiece q)) s

/-- The enqueue proper, after its release: a launch queue's record becomes available to Sluice (R55). -/
def enqueueNow (s : State) (o : OpenQueue) (elem : List Byte) : Res State :=
  let s1 := stampHome s o.pa
  let slot := enqueueSlot s1 s1.part o.pa o.q s1.cur
  match slotPhys s1 s1.part s1.privileged Need.write o.q slot.1 with
  | .error e => .error e
  | .ok l =>
    let s2 := touchSlot (stampSlot o.q (enqueueAt s1 s1.part o.pa l slot.2 elem) l) s1.part o slot.1 Need.write
    .ok (if qMode o.q = 4 ∧ !s2.pending.contains (.launchDequeue s2.part) then
      { s2 with pending := s2.pending ++ [Event.launchDequeue s2.part] } else s2)

/-- enq with its element taken by `elem`, after the queue's own checks. Where the queue has no room the element keeps no access
(R291), and nothing is released (R295). -/
def enqueueForm (pd : Option Nat) (va : Word) (elem : OpenQueue → Res (List Byte × State)) (s : State) : Out :=
  withRes s (openQueue s va .enqueue) fun o =>
    withRes s (elem o) fun r =>
      if qFree o.q = 0 then cannotProceed pd o va false s
      else releaseAt (modeScope o.q) r.2 fun s0 => withRes s0 (enqueueNow s0 o r.1) fun s1 => succeed pd s1.released

/-- The element of an enq: n bytes read for the task. -/
def elementAt (s : State) (va : Word) (o : OpenQueue) : Res (List Byte × State) :=
  if elementMisaligned o.q va then .error (exc .misaligned 0 va)
  else match piecesPeer s Need.read (slotPiece o.q) (elementPieces o.q) va with
    | some e => .error e
    | none => readSpan .scalar (elementPieces o.q) s va (qElem o.q) Need.read

/-- ENQ_TRY (R289, R290). -/
def execEnqTry (p a b : BitVec 5) (s : State) : Out :=
  whenOk (predDestOk p && predHere s p.toNat) (encEnqTry p a b) s
    (if s.ctx.boundPred p.toNat then raise s (exc .boundRegisterAccess 0 0)
     else enqueueForm (some p.toNat) (s.x a) (elementAt s (s.x b)) s)

/-- ENQ_WAIT (R289, R290). -/
def execEnqWait (a b : BitVec 5) (s : State) : Out :=
  whenOk (waitAllowed s) (encEnqWait a b) s (enqueueForm none (s.x a) (elementAt s (s.x b)) s)

/-- The element of a venq: the low n bytes of vd, landed first where it is a well's. -/
def elementOf (s : State) (d : Nat) (o : OpenQueue) : Res (List Byte × State) :=
  .ok (natBytes (qElem o.q) (s.ctx.getV d).toNat, s)

/-- VENQ in both forms: vd bound to a well raises Bound register access (R292). -/
def venqForm (ok : Bool) (pd : Option Nat) (d : BitVec 6) (a : BitVec 5) (word : Nat) (s : State) : Out :=
  whenOk (ok && vecHere s d.toNat) word s
    (if s.ctx.boundGroup (d.toNat, 1) || (pd.any s.ctx.boundPred) then raise s (exc .boundRegisterAccess 0 0)
     else enqueueForm pd (s.x a) (elementOf s d.toNat) s)

def execVenqTry (d : BitVec 6) (a p : BitVec 5) (s : State) : Out :=
  venqForm (predDestOk p && predHere s p.toNat) (some p.toNat) d a (encVenqTry d a p) s
def execVenqWait (d : BitVec 6) (a : BitVec 5) (s : State) : Out :=
  venqForm (waitAllowed s) none d a (encVenqWait d a) s

/-! ### Dequeue (R290, R295) -/

/-- The bytes of a slot. -/
def slotBytes (s : State) (q : Nat) (l : List Nat) : List Byte :=
  l.flatMap (fun pa => (List.range (slotPiece q)).map (fun k => physByte s (pa + k)))

/-- Whether a slot's full bit is set. -/
def slotFull (s : State) (l : List Nat) : Bool := s.full.contains (l.headD 0 / 8)

/-- What a home does for a dequeue whose slot has been read: HEAD and FREE rise by one, the full bit is cleared, the first
enqueue waiter wakes, and records held for the queue are offered again (R294, R299). -/
def dequeueAt (s : State) (part : Nat) (o : OpenQueue) (slot : List Nat) (seg : Option Nat) : State :=
  let q := readQcb s o.pa
  let s1 := writeQcb s o.pa (putField (putField q 127 96 (qHead q + 1)) 191 160 (qFree q + 1))
  let s2 := match seg with
    | some g => let c := segCounts s part q g; setSegCounts s1 part q g (c.1 + 1) c.2
    | none => s1
  offerHeld (wakeEnqueuer { s2 with full := setDrop s2.full (slot.headD 0 / 8) } o.pa) o.pa

/-- The slot a dequeue reads, once its full bit is set: its pieces and its element. -/
def readSlot (s : State) (o : OpenQueue) : Res (Option (List Nat × List Byte)) :=
  let slot := dequeueSlot s s.part o.pa o.q s.cur
  match slotPhys s s.part s.privileged Need.read o.q slot.1 with
  | .error e => .error e
  | .ok l =>
    if !slotFull s l then .ok none
    else match l.find? (fun pa => touchesPoison s pa (slotPiece o.q)) with
      | some pa => .error (consumed s pa (slotPiece o.q) (BitVec.ofNat 64 slot.1))
      | none => .ok (some (l, slotBytes s o.q l))

/-- The dequeue proper: the element and the state after it. -/
def dequeueNow (s : State) (o : OpenQueue) : Res (Option (List Byte × State)) :=
  (readSlot s o).map (fun r => r.map (fun x =>
    let slot := dequeueSlot s s.part o.pa o.q s.cur
    (x.2, touchSlot (dequeueAt (acquireSlot o.q s x.1) s.part o x.1 slot.2) s.part o slot.1 Need.read)))

/-- deq with its destination checked by `check` and written by `put`. The task's own earlier stores reach their points of
order first. -/
def dequeueForm (pd : Option Nat) (va : Word) (check : OpenQueue → Res Dest) (put : Dest → OpenQueue → List Byte → State → Res State)
    (s : State) : Out :=
  withRes s (openQueue s va .dequeue) fun o =>
    withRes s (check o) fun d =>
      if qCount o.q = 0 then cannotProceed pd o va true s
      else
        let s0 := s.publish
        withRes s0 (dequeueNow s0 o) fun r =>
          match r with
          | none => waitHere s
          | some (bs, s1) => withRes s1 (put d o bs s1) fun s2 => succeed pd s2

/-- The destination of a deq in memory. -/
def destinationAt (s : State) (va : Word) (o : OpenQueue) : Res Dest :=
  if elementMisaligned o.q va then .error (exc .misaligned 0 va)
  else match piecesPeer s Need.write (slotPiece o.q) (elementPieces o.q) va with
    | some e => .error e
    | none => checkDestination s (slotPiece o.q) (elementPieces o.q) va

/-- A memory destination is written by stores of the task. -/
def putAt (d : Dest) (o : OpenQueue) (bs : List Byte) (s : State) : Res State := storeElement (slotPiece o.q) s d bs

/-- DEQ_TRY (R289, R290). -/
def execDeqTry (p a b : BitVec 5) (s : State) : Out :=
  whenOk (predDestOk p && predHere s p.toNat) (encDeqTry p a b) s
    (if s.ctx.boundPred p.toNat then raise s (exc .boundRegisterAccess 0 0)
     else dequeueForm (some p.toNat) (s.x a) (destinationAt s (s.x b)) putAt s)

/-- DEQ_WAIT (R289, R290). -/
def execDeqWait (a b : BitVec 5) (s : State) : Out :=
  whenOk (waitAllowed s) (encDeqWait a b) s (dequeueForm none (s.x a) (destinationAt s (s.x b)) putAt s)

/-- Bytes 0 to n - 1 of vd are written, the others left (R292). -/
def putVector (d : Nat) (_ : Dest) (_ : OpenQueue) (bs : List Byte) (s : State) : Res State :=
  let old := (s.ctx.getV d).toNat
  let n := 2 ^ (8 * bs.length)
  .ok { s with ctx := s.ctx.setV d (BitVec.ofNat 4096 (old - old % n + leNat bs)) }

/-- VDEQ in both forms (R292). -/
def vdeqForm (ok : Bool) (pd : Option Nat) (d : BitVec 6) (a : BitVec 5) (word : Nat) (s : State) : Out :=
  whenOk (ok && vecHere s d.toNat) word s
    (if s.ctx.boundGroup (d.toNat, 1) || (pd.any s.ctx.boundPred) then raise s (exc .boundRegisterAccess 0 0)
     else dequeueForm pd (s.x a) (fun _ => .ok []) (putVector d.toNat) s)

def execVdeqTry (d : BitVec 6) (a p : BitVec 5) (s : State) : Out :=
  vdeqForm (predDestOk p && predHere s p.toNat) (some p.toNat) d a (encVdeqTry d a p) s
def execVdeqWait (d : BitVec 6) (a : BitVec 5) (s : State) : Out :=
  vdeqForm (waitAllowed s) none d a (encVdeqWait d a) s

/-! ### qinit (R304) -/

/-- Whether every field of a template but the ones qinit takes is zero. -/
def templateClean (t : Nat) : Bool :=
  let keep := putField (putField (putField (putField (putField t 63 0 0) 75 64 0) 315 256 0) 323 320 0) 327 324 0
  decide (keep = 0)

/-- The template's fields follow R283 and R284. -/
def templateOk (t : Nat) : Bool :=
  templateClean t && decide (qBase t % 128 = 0) && decide (qBase t < 2 ^ 52) && decide (fieldOf t 68 64 ≤ 24)
    && decide (fieldOf t 71 69 ≠ 7) && decide (qMode t ≤ 8) && escAllowed (qMode t) (fieldOf t 71 69)

/-- The shape of a levelled queue (R297); every other mode takes the SEG fields as they are. -/
def shapeOk (t : Nat) : Bool :=
  if qMode t = 2 then
    let n := qSegs t
    decide (n = 2 ^ Nat.log2 n) && decide (n ≤ qCap t) && decide (fieldOf t 307 256 % 16 = 0)
      && decide (fieldOf t 323 320 + fieldOf t 311 308 ≤ 15) && decide (fieldOf t 327 324 + fieldOf t 315 312 ≤ 15)
  else true

/-- Whether a page lies where the mode requires it: the durable tier for mode 3, HBM otherwise, and for modes 0 and 2 the
die of the control block (R284). -/
def modeHome (mode qpa pa : Nat) : Bool :=
  if mode = 3 then decide (spaceOf pa = .durable)
  else decide (spaceOf pa = .hbm) && (!(mode = 0 ∨ mode = 2) || decide (homeDie pa = homeDie qpa))

/-- Every page of n bytes from a VA lies where the mode requires it; a fault of the walk is the task's. -/
def pagesHome (s : State) (mode qpa : Nat) : Nat → Word → Nat → Res Bool
  | 0, _, _ => .ok true
  | fuel + 1, va, n =>
    if n = 0 then .ok true
    else
      let c := min n (4096 - va.toNat % 4096)
      match translate s s.part s.privileged va Need.write with
      | .error e => .error e
      | .ok (.peer ..) => .ok false
      | .ok (.phys pa _) => if modeHome mode qpa pa then pagesHome s mode qpa fuel (va + BitVec.ofNat 64 c) (n - c) else .ok false

/-- The first Peer fault among the pages of n bytes from a VA, which stands before every other fault of them (R84). -/
def pagesPeer (s : State) : Nat → Word → Nat → Option Exc
  | 0, _, _ => none
  | fuel + 1, va, n =>
    if n = 0 then none
    else
      let c := min n (4096 - va.toNat % 4096)
      peerBad Need.write (fun _ => va) s 0 <|> pagesPeer s fuel (va + BitVec.ofNat 64 c) (n - c)

/-- All the memory of a queue lies where its mode requires it. -/
def queueHome (s : State) (qpa t : Nat) : Res Bool :=
  if !modeHome (qMode t) qpa qpa then .ok false
  else
    let n := qElem t * qCap t
    let m := if qMode t = 2 then 16 * qSegs t else 0
    match pagesPeer s (n / 4096 + 2) (BitVec.ofNat 64 (qBase t)) n <|> pagesPeer s (m / 4096 + 2) (BitVec.ofNat 64 (fieldOf t 307 256)) m with
    | some e => .error e
    | none =>
    match pagesHome s (qMode t) qpa (n / 4096 + 2) (BitVec.ofNat 64 (qBase t)) n with
    | .error e => .error e
    | .ok false => .ok false
    | .ok true =>
      if qMode t = 2 then
        pagesHome s 2 qpa (m / 4096 + 2) (BitVec.ofNat 64 (fieldOf t 307 256)) m
      else .ok true

/-- Clear the full bits of n bytes from a VA, page by page. -/
def clearFull : Nat → State → Nat → Nat → State
  | 0, s, _, _ => s
  | fuel + 1, s, va, n =>
    if n = 0 then s
    else
      let c := min n (4096 - va % 4096)
      match physOf s s.part va with
      | some pa => clearFull fuel { s with full := setDropRange s.full (pa / 8) ((c + 7) / 8) } (va + c) (n - c)
      | none => clearFull fuel s (va + c) (n - c)

/-- Zero the segment descriptors and set or clear their object bits. -/
def setSegments (s : State) (q : Nat) (on : Bool) : State :=
  if qMode q = 2 then
    (List.range (qSegs q)).foldl (fun s g =>
      match physOf s s.part (fieldOf q 307 256 + 16 * g) with
      | some pa =>
        let s1 := if on then homeWrite (s.touch s.part (fieldOf q 307 256 + 16 * g) Need.queue true) pa (natBytes 16 0) else s
        { s1 with objects := if on then setAdd s1.objects (pa / 16) else setDrop s1.objects (pa / 16) }
      | none => s) s
  else s

/-- Owner fields: LID and serial of the task's launch; none for a routine (R283). -/
def ownerOf (s : State) : Nat × Nat := (if s.inService then 0 else s.ctx.lid.toNat, s.taskKey.1)

/-- The control block qinit writes. -/
def freshQcb (s : State) (t old : Nat) : Nat :=
  let q0 := putField (putField 0 63 0 (qBase t)) 75 64 (fieldOf t 75 64)
  let q1 := putField (putField (putField q0 315 256 (fieldOf t 315 256)) 323 320 (fieldOf t 323 320)) 327 324 (fieldOf t 327 324)
  let q2 := putField (putField q1 95 80 (ownerOf s).1) 351 328 (ownerOf s).2
  putField (putField q2 191 160 (qCap t)) 239 224 (qGen old + 1)

/-- A queue is made: block, object bits, full bits, segments. -/
def makeQueue (s : State) (qva qpa t : Nat) : State :=
  let s1 := (s.touch s.part qva Need.queue true).publish
  let n := qElem t * qCap t
  let s2 := clearFull (n / 4096 + 2) s1 (qBase t) n
  let s3 := setSegments (writeQcb s2 qpa (freshQcb s2 t (readQcb s2 qpa))) t true
  let others := s3.levelled.filter (fun x => x.1 ≠ qpa)
  { s3 with
    objects := setAddRange s3.objects (qpa / 16) 4
    levelled := if qMode t = 2 then others ++ [(qpa, s3.part)] else others }

/-- The status of a qinit, and the state after it (R304). -/
def qinitStatus (s : State) (qva : Nat) (tgt : Target) (t : Nat) : Res (Nat × State) :=
  match tgt with
  | .peer .. => .ok (3, s)
  | .phys qpa _ =>
    if touchesObject s qpa 64 then .ok (2, s)
    else if !templateOk t ∨ !shapeOk t then .ok (3, s)
    else if 4 ≤ qMode t ∧ !s.privileged then .ok (3, s)
    else match queueHome s qpa t with
      | .error e => .error e
      | .ok false => .ok (3, s)
      | .ok true => .ok (0, makeQueue s qva qpa t)

/-- QINIT (R303, R304). -/
def execQinit (d a b : BitVec 5) (s : State) : Out :=
  if misalignedAt (s.x a) 64 then raise s (exc .misaligned 0 (s.x a))
  else if misalignedAt (s.x b) 64 then raise s (exc .misaligned 0 (s.x b))
  else peerFirst s (s.x a) Need.queue (peerFirst s (s.x b) Need.read
    (withRes s (translate s s.part s.privileged (s.x a) Need.queue) fun tgt =>
      withRes s (readVa s (s.x b) 64 Need.read) fun r =>
        withRes r.2 (qinitStatus r.2 (s.x a).toNat tgt (leNat r.1)) fun x => complete 4 1 (x.2.setX d (BitVec.ofNat 64 x.1))))

/-! ### qfree, qstat, qpeek (R305) -/

/-- QFREE. -/
def execQfree (d a : BitVec 5) (s : State) : Out :=
  withRes s (openQueue s (s.x a) .look) fun o =>
    if qCount o.q = 0 ∧ qEnqw o.q = 0 ∧ qDeqw o.q = 0 ∧ qFree o.q = qCap o.q then
      let s1 := setSegments (s.touch s.part o.va Need.queue true).publish o.q false
      let s2 := { s1 with objects := setDropRange s1.objects (o.pa / 16) 4, levelled := s1.levelled.filter (fun x => x.1 ≠ o.pa) }
      complete 4 1 (s2.setX d 0)
    else complete 4 1 ((s.touch s.part o.va Need.queue false).setX d 1)

/-- The field of a selector. -/
def qstatValue (s : State) (q k : Nat) : Nat :=
  match k with
  | 0 => qHead q | 1 => qTail q | 2 => qFree q | 3 => qEnqw q | 4 => qDeqw q | 5 => qGen q | 6 => qMode q | 7 => qLost q
  | _ => if qMode q = 2 ∧ k - 8 < qSegs q then segCount s s.part q (k - 8) else 0

/-- QSTAT. -/
def execQstat (d a b : BitVec 5) (s : State) : Out :=
  withRes s (openQueue s (s.x a) .look) fun o => complete 4 1 ((s.touch s.part o.va Need.queue false).setX d (BitVec.ofNat 64 (qstatValue s o.q (s.x b).toNat)))

/-- QPEEK: the element at HEAD is copied, and the queue left as it is. -/
def execQpeek (d a b : BitVec 5) (s : State) : Out :=
  withRes s (openQueue s (s.x a) .dequeue) fun o =>
    withRes s (destinationAt s (s.x b) o) fun dst =>
      if qCount o.q = 0 then complete 4 1 ((s.touch s.part o.va Need.queue false).setX d 0)
      else
        let s0 := s.publish
        withRes s0 (readSlot s0 o) fun r =>
          match r with
          | none => waitHere s
          | some (l, bs) =>
            let s1 := touchSlot (acquireSlot o.q s0 l) s0.part o (dequeueSlot s0 s0.part o.pa o.q s0.cur).1 Need.read
            withRes s1 (putAt dst o bs s1) fun s2 => complete 4 1 (s2.setX d 1)

end Sys2Proof.Machine
end

