-- ==== Sys2Proof/Machine/Tokens.lean ====
section
/-! DEFINITION. Tokens (R366-R369): their fields, the checks of R367, when each kind is ready, promises (R44); cells and
rendezvous objects at their points of order (R372-R377); wire-barrier lines (R378-R381); waking a waiting task. -/

namespace Sys2Proof.Machine

/-! ### Fields (R366) -/

def tokKind (t : Word) : Nat := bits t 63 60
/-- VA of the object a kind 2, 3 or 11 token names in this package. -/
def tokVa (t : Word) : Word := BitVec.ofNat 64 (bits t 47 0 * 16)
/-- PEER of a kind 2 token. -/
def tokPeer (t : Word) : Nat := bits t 59 48
/-- Whether a token names a cell at a fabric peer. -/
def tokFabric (t : Word) : Bool := decide (tokKind t = 2) && decide (tokPeer t ≠ 0xFFF)
/-- The core named by a kind 1, 7, 8 or 9 token. -/
def tokCore (t : Word) : Nat :=
  match tokKind t with
  | 1 => coreAt (bits t 44 42) (bits t 41 38) (bits t 37 34)
  | 7 => coreAt (bits t 14 12) (bits t 11 8) (bits t 7 4)
  | _ => coreAt (bits t 42 40) (bits t 39 36) (bits t 35 32)
def tokChannel (t : Word) : Fin 4 := ⟨bits t 33 32, by unfold bits; omega⟩
def tokId (t : Word) : BitVec 32 := BitVec.ofNat 32 (bits t 31 0)

/-- A kind 3 token. -/
def rendezvousToken (va : Word) (tph : Nat) : Word := BitVec.ofNat 64 (bits va 51 4 + tph % 4096 * 2 ^ 48 + 3 * 2 ^ 60)
/-- A kind 7 token. -/
def barrierToken (core : Nat) (par : Bool) (lines : BitVec 3) : Word :=
  BitVec.ofNat 64 ((if par then 1 else 0) + lines.toNat * 2 + colOf core * 2 ^ 4 + rowOf core * 2 ^ 8 + dieOf core * 2 ^ 12 + 7 * 2 ^ 60)

/-- Error bits of a reason of R369. -/
def reasonBits (sub : Nat) : BitVec 24 := BitVec.ofNat 24 (sub * 256)

/-! ### Cells and rendezvous objects (R373, R375) -/

/-- The object's 16 bytes as a number. -/
def object16 (s : State) (pa : Nat) : Nat := physLe s pa 16
def cellCount (v : Nat) : Nat := fieldOf v 31 0
def cellTarget (v : Nat) : Nat := fieldOf v 63 32
def cellGen (v : Nat) : Nat := fieldOf v 79 64
def cellErr (v : Nat) : Bool := decide (fieldOf v 80 80 = 1)
/-- sext(COUNT - TARGET, 32) >= 0. -/
def cellSatisfied (v : Nat) : Bool := decide ((cellCount v + 2 ^ 32 - cellTarget v) % 2 ^ 32 < 2 ^ 31)
def rvExpect (v : Nat) : Nat := fieldOf v 31 0
def rvArrived (v : Nat) : Nat := fieldOf v 63 32
def rvPar (v : Nat) : Nat := fieldOf v 64 64
def rvPhase (v : Nat) : Nat := fieldOf v 79 65
def rvGen (v : Nat) : Nat := fieldOf v 95 80

/-- The condition of a kind 3 token: its phase is reached (R366). -/
def rvReached (v tph : Nat) : Bool := decide ((rvPhase v % 4096 + 4096 - tph) % 4096 < 2048)

/-- Error bits of a satisfied cell (R374). -/
def cellBits (v : Nat) : BitVec 24 := if cellErr v then reasonBits 1 else 0

/-- A cell's reserved bits, and a rendezvous object's, that are not zero (R7, R373, R375). -/
def cellReserved (v : Nat) : Bool := decide (fieldOf v 127 81 ≠ 0)
def rvReserved (v : Nat) : Bool := decide (fieldOf v 127 96 ≠ 0)

/-! ### The checks (R367) -/

/-- A field that must be zero is not, or a kind 5 place address is no absolute word. -/
def tokShapeBad (t : Word) : Bool :=
  match tokKind t with
  | 1 => decide (bits t 59 45 ≠ 0)
  | 2 => tokFabric t && decide (bits t 47 42 ≠ 0)
  | 5 => decide (bits t 59 33 ≠ 0) || decide (bits t 2 0 ≠ 0) || decide (15 < bits t 24 20) || decide (15 < bits t 29 25)
  | 7 => decide (bits t 59 15 ≠ 0)
  | 8 => decide (bits t 59 43 ≠ 0)
  | 9 => decide (bits t 59 43 ≠ 0)
  | _ => false

/-- A kind 1 id ahead of the newest issued one. -/
def idAhead (s : State) (t : Word) : Bool :=
  let newest := (s.coreOf (tokCore t)).chans[tokChannel t].nextId - 1
  let d := (tokId t - newest).toNat
  decide (1 ≤ d) && decide (d ≤ 2 ^ 31 - 1)

/-- The first check of R367 that fails and needs no object: the sub-code. -/
def tokenFailure (s : State) (t : Word) : Option Nat :=
  let k := tokKind t
  if k = 0 ∨ 12 ≤ k then some 1
  else if k = 4 ∨ k = 10 then some 4
  else if tokShapeBad t then some 3
  else if tokFabric t ∧ (peerFault s s.part (tokPeer t)).isSome then some 8
  else if k = 7 ∧ tokCore t ≠ s.cur then some 6
  else if k = 1 ∧ idAhead s t then some 5
  else if (k = 8 ∨ k = 9) ∧ (s.coreOf (tokCore t)).nextSeq ≤ bits t 31 0 then some 7
  else none

/-- Physical address of an object in this package, with the rights asked for; a fabric address is refused. -/
def objectPa (s : State) (va : Word) (need : Need) : Res Nat :=
  match translate s s.part s.privileged va need with
  | .error e => .error e
  | .ok (.peer ..) => .error (exc .protection 9 va)
  | .ok (.phys pa _) => if touchesPoison s pa 16 then .error (consumed s pa 16 va) else .ok pa

/-- What a peer answers to an access to the fabric cell a token names (R322, R366). -/
def cellPeerOutcome (s : State) (t : Word) : Option Exc := peerOutcome s s.part (tokPeer t) (bits t 41 0 * 16) t

/-- The last check: the object a kind 2, 3 or 11 token names exists. -/
def tokenObject (s : State) (t : Word) (need : Need) : Res Unit :=
  let k := tokKind t
  if tokFabric t then match cellPeerOutcome s t with | some e => .error e | none => .ok ()
  else if k = 2 ∨ k = 3 ∨ k = 11 then
    match objectPa s (tokVa t) need with
    | .error e => .error e
    | .ok pa =>
      if !s.objects.contains (pa / 16) then .error (exc .invalidToken 2 t)
      else if (if k = 3 then rvReserved (object16 s pa) else cellReserved (object16 s pa)) then .error (exc .illegalInstruction 0 t)
      else .ok ()
  else .ok ()

/-- Every check of R367 on a token. -/
def checkToken (s : State) (t : Word) : Res Unit :=
  match tokenFailure s t with
  | some k => .error (exc .invalidToken k t)
  | none => tokenObject s t Need.read

/-- Tokens in order. -/
def checkTokens (s : State) : List Word → Res Unit
  | [] => .ok ()
  | t :: l => match checkToken s t with | .error e => .error e | .ok _ => checkTokens s l

/-! ### Objects that change (R372, R376, R383) -/

/-- Whether a waiter waits on an object with a token of a kind: on the object it registered at (R372). -/
def waitsOn (pa : Nat) (kinds : List Nat) (w : Waiter) : Bool :=
  match w.on with
  | .token t => kinds.contains (tokKind t) && decide (w.obj = some pa)
  | _ => false

/-- A cell changed: its waiters are judged (R372, R383). -/
def judgeCell (s : State) (pa : Nat) : State :=
  let v := object16 s pa
  if cellSatisfied v then wakeWaiters s (waitsOn pa [2, 11]) (cellBits v) else s

/-- A signal at a cell's point of order (R383). -/
def signalCellAt (s : State) (pa amount : Nat) (err : Bool) : State :=
  let v := object16 s pa
  let v1 := putField v 31 0 (cellCount v + amount)
  let v2 := if err then putField v1 80 80 1 else v1
  judgeCell (homeWrite s pa (natBytes 16 v2)) pa

/-- A cell takes a signal released at pod scope: from a `signal.pod`, or from a peer (R237). -/
def podSignal (s : State) (pa : Nat) : State := { s with podSignals := setAdd s.podSignals (pa / 16) }

/-- A rendezvous changed phase: the waiters whose phase is reached wake (R376). -/
def judgeRendezvous (s : State) (pa : Nat) : State :=
  let v := object16 s pa
  wakeWaiters s (fun w => waitsOn pa [3] w && (match w.on with | .token t => rvReached v (tokPeer t) | _ => false)) 0

/-! ### Readiness (R366) -/

/-- Who asks whether a token is ready: a core and partition, the task, and the token of its last wire-barrier arrival. -/
structure Asker where
  core : Nat
  part : Nat
  serial : Nat
  tid : Nat
  arrival : Option Word
deriving DecidableEq, Repr

/-- A task of a core asks. -/
def TaskInfo.asks (t : TaskInfo) (core : Nat) : Asker := ⟨core, t.part, t.serial, t.tid, t.arrival.map (fun a => a.1)⟩

/-- No task asks: an engine, or a routine. -/
def engineAsks (core part : Nat) : Asker := ⟨core, part, 0, 0, none⟩

/-- Whether a line has released the phase of a parity (R381). The phase of a task's own arrival is released once the line holds the
arrival no more; of any other arrival the line knows the parities of the phase it released last (DEDUCED, log entry 60). -/
def lineReleased (s : State) (k : Asker) (t : Word) (n : Nat) : Bool :=
  let l := lineOf s n
  let par := decide (bits t 0 0 = 1)
  !l.arrived.contains ((k.serial, k.tid), par) && (decide (k.arrival = some t) || l.released.contains par)

/-- Whether a rendezvous token is ready: its deferred arrival has failed at the asking core (R377), or its phase is reached. -/
def rendezvousReady (s : State) (k : Asker) (t : Word) : Option (BitVec 24) :=
  match (s.coreOf k.core).failed.find? (fun f => f.1 = t) with
  | some f => some f.2
  | none => match physOf s k.part (tokVa t).toNat with
    | some pa => if rvReached (object16 s pa) (tokPeer t) then some 0 else none
    | none => none

/-- Whether a token is ready for who asks, and its error bits (0 for none). What a peer answers for its cell is a free value. -/
def tokenReady (s : State) (k : Asker) (t : Word) : Option (BitVec 24) :=
  match tokKind t with
  | 1 =>
    let c := (s.coreOf (tokCore t)).chans[tokChannel t]
    if c.out.any (fun u => u.id = tokId t) then none
    else match c.status.find? (fun e => decide (e.1 = tokId t) && c.keeps e.1) with
      | some e => some e.2
      | none => some (reasonBits 4)
  | 6 => if bits t 59 0 ≤ bits s.cyc 59 0 then some 0 else none
  | 5 =>
    let core := coreAt (bits t 32 30) (bits t 29 25) (bits t 24 20)
    if s.present.contains (padWord core (bits t 19 0)) then some 0 else none
  | 7 =>
    if (linesOfMask (tokCore t) (BitVec.ofNat 3 (bits t 3 1))).all (lineReleased s k t) then some 0 else none
  | 8 => ((s.coreOf (tokCore t)).replies.find? (fun e => e.1 = bits t 31 0)).map (fun e => e.2)
  | 9 => ((s.coreOf (tokCore t)).replies.find? (fun e => e.1 = bits t 31 0)).map (fun e => e.2)
  | 3 => rendezvousReady s k t
  | _ =>
    if tokFabric t then
      let v := (Config.openValue 9 s.free).toNat
      if v % 2 = 1 then some (if v / 2 % 2 = 1 then reasonBits 1 else 0) else none
    else match physOf s k.part (tokVa t).toNat with
      | some pa => let v := object16 s pa; if cellSatisfied v then some (cellBits v) else none
      | none => none

/-- The promise of a token (R44). -/
def tokenPromise (s : State) (t : Word) : Option Word :=
  match tokKind t with
  | 1 => ((s.coreOf (tokCore t)).chans[tokChannel t].out.find? (fun u => u.id = tokId t)).map (fun u => u.promise)
  | 6 => some (BitVec.ofNat 64 (bits t 59 0 + s.cyc.toNat / 2 ^ 60 * 2 ^ 60))
  | 8 => ((s.coreOf (tokCore t)).promises.find? (fun e => e.1 = bits t 31 0)).map (fun e => e.2)
  | _ => none

/-- A promise that has not passed: one that has counts as none (R44). -/
def promiseAhead (s : State) (t : Word) : Option Word :=
  (tokenPromise s t).bind (fun p => if s.cyc.toNat < p.toNat then some p else none)

/-- The earliest promise of a list. -/
def earliestPromise (s : State) : List Word → Option Word
  | [] => none
  | t :: l => match promiseAhead s t, earliestPromise s l with
    | none, p => p
    | some p, none => some p
    | some p, some q => if q.toNat < p.toNat then some q else some p

/-- Whether the core stalls for a promise (R44). -/
def stallsFor (s : State) (p : Option Word) : Bool :=
  match p with
  | some p => decide (s.cyc.toNat < p.toNat) && decide (p.toNat - s.cyc.toNat ≤ s.core.swth.toNat)
  | none => false

/-! ### Registration (R366, R372) -/

/-- Register the executing core's task slot for a token that is not ready. -/
def registerToken (s : State) (t : TaskInfo) (tok : Word) : State :=
  let onObject (home : Nat) (obj : Option Nat) : State := addWaiter s ⟨.token tok, t.part, s.cur, t.slot, home, obj⟩ false
  let send (e : Event) : State := { s with pending := s.pending ++ [e] }
  match tokKind tok with
  | 6 => send (.timerTokenReady s.cur t.slot)
  | 5 => onObject 257 none
  | 7 => match t.arrival with
    | some (a, _) => if a = tok then
        { onObject 257 none with pending := s.pending ++ [Event.barrierTimeout s.cur t.slot] } else onObject 257 none
    | none => onObject 257 none
  | 2 | 3 | 11 =>
    if tokFabric tok then
      send (.tokenWake s.cur t.slot (if (Config.openValue 9 s.free).toNat / 2 % 2 = 1 then reasonBits 1 else 0))
    else match physOf s t.part (tokVa tok).toNat with
      | some pa => if tableFull s pa then send (.waiterTableRetry s.cur t.slot) else onObject (homeSlice pa) (some pa)
      | none => send (.waiterTableRetry s.cur t.slot)
  | _ => if tokCore tok = s.cur then onObject 257 none else send (.tokenRegistration (tokCore tok) tok s.cur t.slot)

/-- Register for every token of a list. -/
def registerTokens (t : TaskInfo) : List Word → State → State
  | [], s => s
  | tok :: l, s => registerTokens t l (registerToken s t tok)

/-- A wait is over: what was registered or under way for it goes away. -/
def endWait (s : State) (core slot : Nat) : State :=
  { s with
    waiters := s.waiters.filter (fun w => !(decide (w.core = core ∧ w.slot = slot) && (match w.on with | .token _ => true | _ => false)))
    pending := s.pending.filter (fun e => !concernsWait core slot e) }

/-! ### Waking (R45, R46, R29) -/

/-- Whether the waiter entry of a token is gone from its home: a wake has taken it. -/
def entryTaken (s : State) (core slot : Nat) (t : Word) : Bool :=
  decide (tokKind t ≠ 6) && !tokFabric t
    && !s.waiters.any (fun w => decide (w.core = core ∧ w.slot = slot) && decide (w.on = .token t))
    && !s.pending.any (fun e => match e with
        | .tokenRegistration _ u c k => decide (u = t ∧ c = core ∧ k = slot)
        | .waiterTableRetry c k => decide (c = core ∧ k = slot)
        | _ => false)

/-- Whether a wake's error bits are those of a rendezvous: it was made anew or freed, or a deferred arrival failed (R377). -/
def rendezvousError (err : BitVec 24) : Bool := decide (err = reasonBits 3)

/-- The token a wake of an awaitany is for: of a rendezvous error the rendezvous that was signalled, else the first signalled one. -/
def wakeFirst (s : State) (k : Asker) (slot : Nat) (err : BitVec 24) (a b : Word) : Bool :=
  let taken (t : Word) : Bool := entryTaken s k.core slot t
  let signalled (t : Word) : Bool := (tokenReady s k t).isSome || taken t
  if rendezvousError err && (decide (tokKind a = 3) && taken a) != (decide (tokKind b = 3) && taken b) then decide (tokKind a = 3) && taken a
  else if tokFabric a then !signalled b else signalled a

/-- The outcome of a wake: which token, and its error bits. What a rendezvous error says stands, also where the phase has been reached
by then (R369, R377). -/
def wakeOutcome (s : State) (core : Nat) (t : TaskInfo) (w : Wait) (err : BitVec 24) : Wait :=
  match w.tokens with
  | [a, b] =>
    let first := wakeFirst s (t.asks core) t.slot err a b
    let bits := if rendezvousError err then err else (tokenReady s (t.asks core) (if first then a else b)).getD err
    { w with which := if first then 0 else 1, isOver := true, err := if bits = 0 then none else some bits }
  | _ => { w with which := 0, isOver := true, err := if err = 0 then none else some err }

/-- Whether a token's signal was released at pod scope: a cell's by a `signal.pod` or a peer, and a fabric cell's (R237). -/
def podToken (s : State) (part : Nat) (t : Word) : Bool :=
  (decide (tokKind t = 2) || decide (tokKind t = 11)) && (tokFabric t || (match physOf s part (tokVa t).toNat with
    | some pa => s.podSignals.contains (pa / 16)
    | none => false))

/-- The completion of an await is an acquire at the scope of its signal: at pod scope it drops the partition's fabric lines from the
die's RDC (R223, R237). -/
def acquireWait (s : State) (core part : Nat) (w : Wait) : State :=
  if !s.rdc.isEmpty && w.completes && (w.tokens[w.which]?.any (podToken s part)) then dropFabricLines s (dieOf core) part else s

/-- Put back the wait of a slot. -/
def putWait (s : State) (core slot : Nat) (w : Wait) : State :=
  let k := s.coreOf core
  let suspended := k.tasks.map (fun u => if u.info.slot = slot then { u with wait := some w, ready := u.ready || w.isOver } else u)
  match k.run with
  | .stalled t p old => s.setCore core { k with run := .stalled t p (if t.slot = slot then w else old), tasks := suspended }
  | _ => s.setCore core { k with tasks := suspended }

/-- The task of a slot goes on: a stalled one issues again, a suspended one becomes Ready, and an idle core picks. -/
def resumeSlot (s : State) (core slot : Nat) : State := s.onCore core (fun s => pickIfIdle (releaseSlot s slot))

/-- The wait of a started task, by TID. -/
def memberWait (s : State) (serial : Nat) (m : Nat × Nat) : Option (Nat × Wait) :=
  (infoOf (s.coreOf m.1) serial m.2).bind (fun t => (waitOf (s.coreOf m.1) t.slot).map (fun p => (t.slot, p.2)))

/-- A wait that is over lets its task go on, or its gang when every member's is over (R29). -/
def resumeAfterWait (s : State) (core : Nat) (t : TaskInfo) : State :=
  let ms := gangMembers s t
  if ms.isEmpty then resumeSlot s core t.slot
  else if ms.all (fun m => match memberWait s t.serial m with | some (_, w) => w.isOver | none => true) then
    ms.foldl (fun s m => match memberWait s t.serial m with
      | some (k, _) => resumeSlot s m.1 k
      | none => s) s
  else s

/-- A wake reaches the task of a slot: its wait is over. -/
def wakeSlot (s : State) (core slot : Nat) (f : Wait → Wait) : State :=
  match waitOf (s.coreOf core) slot with
  | none => s
  | some (t, w) =>
    if w.isOver then s
    else resumeAfterWait (acquireWait (putWait (endWait s core slot) core slot (f w)) core t.part (f w)) core t

end Sys2Proof.Machine
end

