-- ==== Sys2Proof/Machine/Awaits.lean ====
section
/-! DEFINITION. The await instructions (R33-R37, R44-R46, R370, R371), `waituntil` (R383), and the events that end waits. -/

namespace Sys2Proof.Machine

/-! ### Live masks (R33-R36) -/

/-- Entries of the live-mask table, and its address (R33). -/
def maskCount (s : State) : Nat := s.lc.lmtbase.toNat / 2 ^ 52 + 1
def maskAddress (s : State) (i : Nat) : Word := BitVec.ofNat 64 (s.lc.lmtbase.toNat % 2 ^ 52 + 16 * i)

/-- An entry of the live-mask table. -/
structure LiveMask where
  v : BitVec 64
  s : BitVec 32
  p : BitVec 24
  ox : BitVec 8
deriving DecidableEq, Repr

/-- The fields of an entry's 16 bytes. -/
def liveMaskOf (n : Nat) : LiveMask :=
  ⟨BitVec.ofNat 64 (fieldOf n 63 0), BitVec.ofNat 32 (fieldOf n 95 64), BitVec.ofNat 24 (fieldOf n 119 96), BitVec.ofNat 8 (fieldOf n 127 120)⟩

/-- The registers of bound wells as a mask (R35). -/
def wellMask (c : Ctx) : BitVec 64 :=
  c.wells.toList.foldl (fun m w => match w with
    | some w => (List.range w.regs).foldl (fun m r => m ||| BitVec.ofNat 64 (2 ^ (w.vreg + r))) m
    | none => m) 0

/-- The registers that stay live: the entry's, the token registers, and the wells' (R35). -/
def LiveMask.widen (m : LiveMask) (c : Ctx) (regs : List (BitVec 5)) : LiveMask :=
  { m with v := m.v ||| wellMask c, s := regs.foldl (fun k r => k ||| BitVec.ofNat 32 (2 ^ r.toNat)) m.s }

/-- Clear what is not live (R34). -/
def clearDead (c : Ctx) (m : LiveMask) : Ctx :=
  { c with
    s := Vector.ofFn (fun i => if m.s.getLsbD i.val then c.s[i.val]'i.isLt else 0)
    v := Vector.ofFn (fun i => if m.v.getLsbD i.val then c.v[i.val]'i.isLt else 0)
    p := Vector.ofFn (fun i => if m.p.getLsbD i.val then c.p[i.val]'i.isLt else 0)
    ox := Vector.ofFn (fun i => if m.ox.getLsbD i.val then c.ox[i.val]'i.isLt else 0)
    vdmap := c.vdmap &&& m.v }

/-- Results of the task's lda and vamo whose register is not live are discarded on arrival (R36). -/
def discardDead (s : State) (m : LiveMask) : State :=
  let key := s.taskKey
  { s with core := { s.core with
      vamos := s.core.vamos.map (fun v => if v.serial = key.1 ∧ v.tid = key.2 ∧
          !m.v.getLsbD (v.group + v.index * v.sew / 4096) then { v with live := false } else v)
      chans := s.core.chans.map (fun c => { c with out := c.out.map (fun t => match t.job with
        | .load r data err _ =>
          if t.serial = key.1 ∧ t.tid = key.2 ∧ !m.s.getLsbD r.toNat then { t with job := .load r data err false } else t
        | _ => t) }) } }

/-- Bytes of a record saved at an await (R37). -/
def awaitRecordBytes (c : Ctx) (m : LiveMask) : Nat :=
  64 + 8 * popcount (m.s &&& 0xFFFFFFFE) + 128 * popcount (m.p &&& 0xFFFFFE) + 512 * popcount m.v + 64 * boundWells c
    + (if m.ox = 0 then 0 else 64)

/-! ### The parts of an await (R371) -/

/-- An await of a register, and of the next one for awaitany. -/
structure AwaitForm where
  size : Nat
  kind : WaitKind
  reg : BitVec 5
  word : Nat
deriving DecidableEq, Repr

/-- The token registers. -/
def AwaitForm.regs (f : AwaitForm) : List (BitVec 5) := if f.kind = .awaitAny then [f.reg, f.reg + 1] else [f.reg]

/-- A barrier arrival's time has run out, or its count starts afresh (R380). -/
def barrierDue (s : State) (t : TaskInfo) (toks : List Word) : Option Word :=
  match t.arrival with
  | some (a, d) =>
    if toks.contains a ∧ (tokenReady s (t.asks s.cur) a).isNone ∧ d ≠ 0 ∧ d.toNat ≤ s.cyc.toNat then some a else none
  | none => none

/-- The wait that follows a Barrier timeout counts BWTO afresh. -/
def renewBarrier (s : State) (toks : List Word) : State :=
  { s with core := { s.core with run := s.core.run.mapTask (fun t => match t.arrival with
      | some (a, d) => if toks.contains a ∧ d = 0 then { t with arrival := some (a, s.cyc + s.lc.bwto.zeroExtend 64) } else t
      | none => t) } }

/-- The Barrier timeout of a task: its arrival stands, and the next wait starts a new count. -/
def expireBarrier (t : TaskInfo) (a : Word) : TaskInfo := { t with arrival := some (a, 0) }

/-- The checks and the clearing of the executing core's task: the state, its tokens and mask. -/
def awaitPrepare (s : State) (f : AwaitForm) (idx : Nat) : Res (State × List Word × LiveMask) :=
  let toks := f.regs.map s.x
  match checkTokens s toks with
  | .error e => .error e
  | .ok _ =>
    let s := (toks.filter (fun t => [2, 3, 11].contains (tokKind t) && !tokFabric t)).foldl
      (fun s t => s.touch s.part (tokVa t).toNat Need.read false) s
    match readVa s (maskAddress s idx) 16 Need.read with
    | .error e => .error e
    | .ok r =>
      let m := (liveMaskOf (leNat r.1)).widen s.ctx f.regs
      let s1 := discardDead r.2 m
      .ok (renewBarrier { s1 with ctx := clearDead s1.ctx m } toks, toks, m)

/-- The first ready token of an await: its index and error bits. -/
def firstReady (s : State) (who : Asker) : List Word → Nat → Option (Nat × BitVec 24)
  | [], _ => none
  | t :: l, k => match tokenReady s who t with
    | some e => some (k, e)
    | none => firstReady s who l (k + 1)

/-- The wait of a form. -/
def AwaitForm.wait (f : AwaitForm) (s : State) (toks : List Word) (m : LiveMask) : Wait :=
  { kind := f.kind, reg := f.reg, size := f.size, code := natBytes f.size f.word, tokens := toks, t0 := (s.core.run.task.bind (fun t => t.waitFrom)).getD s.cyc, since := s.cyc,
    which := 0, err := none, timedOut := false, isOver := false, till := 0, retry := s.cyc + 4096, bytes := awaitRecordBytes s.ctx m }

/-- A wait that a ready token ends. -/
def Wait.ended (w : Wait) (r : Nat × BitVec 24) : Wait :=
  { w with which := r.1, err := if r.2 = 0 then none else some r.2, isOver := true }

/-- The task's state after an await that completes at once. -/
def awaitDone (s : State) (t : TaskInfo) (w : Wait) : State :=
  let r := finishWait s.ctx t w
  (acquireWait { s with ctx := r.1, core := { s.core with run := .running r.2 } } s.cur t.part w).retire 1

/-- Register the task for its tokens; await.t also times out. -/
def awaitRegister (s : State) (t : TaskInfo) (w : Wait) : State :=
  let s1 := registerTokens t w.tokens s
  if w.kind = .awaitT then { s1 with pending := s1.pending ++ [Event.awaitTimeout s.cur t.slot] } else s1

/-- The task holds its core, issue held (R45). -/
def stall (s : State) (t : TaskInfo) (p : Word) (w : Wait) : State :=
  { s with core := { s.core with run := .stalled t p w }, pending := s.pending ++ [Event.stallPromisePassed s.cur] }

/-- An await of a task in no gang, past its checks and clearing. -/
def awaitAlone (s : State) (f : AwaitForm) (toks : List Word) (m : LiveMask) : State :=
  match s.core.run.task with
  | none => s
  | some t0 =>
    let w := f.wait s toks m
    let t := { t0 with waitFrom := none }
    let s := { s with core := { s.core with run := s.core.run.mapTask (fun t => { t with waitFrom := none }) } }
    match firstReady s (t.asks s.cur) toks 0 with
    | some r => awaitDone s.fresh t (w.ended r)
    | none =>
      match barrierDue s t toks with
      | some a =>
        takeCause { s with core := { s.core with run := s.core.run.mapTask (fun t => expireBarrier t a) } } (exc .barrierTimeout 0 a)
      | none =>
        let s1 := (awaitRegister s t w).fresh
        let p := earliestPromise s toks
        match p with
        | some q => if stallsFor s p then stall s1 t q w
            else suspendAndPick s1 t .waiting (some w) w.bytes
        | none => suspendAndPick s1 t .waiting (some w) w.bytes

/-! ### The await of a gang (R29) -/

/-- Prepare every member; the first cause met is taken by its member, and nothing further happens. -/
def gangPrepare (f : AwaitForm) (idx : Nat) : List (Nat × Nat) → State → Bool × State
  | [], s => (true, s)
  | m :: l, s =>
    let s1 := s.switchTo m.1
    match awaitPrepare s1 f idx with
    | .error e => (false, takeCause s1 e)
    | .ok r =>
      match s1.core.run.task, (s1.core.run.task.bind (fun t => firstReady r.1 (t.asks r.1.cur) r.2.1 0)) with
      | some t, none => match barrierDue r.1 t r.2.1 with
        | some a =>
          (false, takeCause { r.1 with core := { r.1.core with run := r.1.core.run.mapTask (fun t => expireBarrier t a) } }
            (exc .barrierTimeout 0 a))
        | none => gangPrepare f idx l r.1
      | _, _ => gangPrepare f idx l r.1

/-- What every member does, by the leader's choice: complete, stall for a promise, or switch out. -/
inductive GangChoice where
  | complete
  | stall (p : Word)
  | switch
deriving DecidableEq, Repr

/-- The ready token of a member's await, judged once for the whole gang. -/
def memberReady (f : AwaitForm) (s : State) (m : Nat × Nat) : Option (Nat × BitVec 24) :=
  let s1 := s.switchTo m.1
  s1.core.run.task.bind (fun t => firstReady s1 (t.asks m.1) (f.regs.map s1.x) 0)

/-- The wait of a member: over where its token is ready, else registered. -/
def gangWait (s : State) (t : TaskInfo) (w : Wait) (r : Option (Nat × BitVec 24)) : State × Wait :=
  match r with
  | some r => (acquireWait s.fresh s.cur t.part (w.ended r), w.ended r)
  | none => ((awaitRegister s t w).fresh, w)

/-- One member acts, `r` being its ready token. An await that began anew after a full table has kept its start until now. -/
def gangAct (f : AwaitForm) (idx : Nat) (ch : GangChoice) (r : Option (Nat × BitVec 24)) (s0 : State) : State :=
  match s0.core.run.task with
  | none => s0
  | some t0 =>
    let m := match readVa s0 (maskAddress s0 idx) 16 Need.read with
      | .ok x => (liveMaskOf (leNat x.1)).widen s0.ctx f.regs
      | .error _ => (⟨0, 0, 0, 0⟩ : LiveMask)
    let w := f.wait s0 (f.regs.map s0.x) m
    let t := { t0 with waitFrom := none }
    let s := { s0 with core := { s0.core with run := s0.core.run.mapTask (fun t => { t with waitFrom := none }) } }
    match ch with
    | .complete => awaitDone s.fresh t (match r with | some r => w.ended r | none => w)
    | .stall p => let g := gangWait s t w r; stall g.1 t p g.2
    | .switch => let g := gangWait s t w r; suspendAndPick g.1 t .waiting (some g.2) g.2.bytes

/-- What a member of the executing task's gang has still to execute of the leader's stream (R29). -/
def streamOf (s : State) (m : Nat × Nat) : List GangStep :=
  match infoOf (s.coreOf m.1) s.taskKey.1 m.2 with
  | some t => (match t.gang with | .follower _ _ _ _ l => l | _ => [])
  | none => []

/-- A member has come to its leader: it has executed the stream, and no routine or request holds its core. -/
def memberHere (s : State) (m : Nat × Nat) : Bool :=
  (streamOf s m).isEmpty && (s.coreOf m.1).service.isNone && !(s.coreOf m.1).asked

/-- The gang executes an await as one. Where some tokens are not signalled, the leader's token decides for the whole gang; when
that one is ready, or its promise has passed, every member switches out (DESIGN CHOICE, log entry 38: R29 does not say). -/
def awaitGang (s : State) (ms : List (Nat × Nat)) (f : AwaitForm) (idx : Nat) : State :=
  let home := s.cur
  let p := gangPrepare f idx ms ((ms.filter (fun m => m.1 ≠ home)).foldl (fun s m => s.onCore m.1 (fun s => s.count 1 1)) s)
  let s1 := p.2.switchTo home
  if !p.1 then s1
  else
    let q := earliestPromise s1 (f.regs.map s1.x)
    let rs := ms.map (fun m => (m.1, memberReady f s1 m))
    let ch := if rs.all (fun r => r.2.isSome) then GangChoice.complete
      else match q with
        | some q' => if stallsFor s1 q then .stall q' else .switch
        | none => .switch
    rs.foldl (fun s r => s.onCore r.1 (gangAct f idx ch r.2)) s1

/-! ### The instructions (R370) -/

/-- An await form. In the service context it is illegal (R31). -/
def awaitForm (f : AwaitForm) (idx : Nat) (s : State) : Out :=
  whenOk (!s.inService && decide (idx < maskCount s)) f.word s
    (match s.gang with
     | .leader _ ms _ => if ms.all (memberHere s) then .next (awaitGang s ms f idx) else waitHere s
     | _ => withRes s (awaitPrepare s f idx) fun r => .next (awaitAlone r.1 f r.2.1 r.2.2))

def execAwait (t : BitVec 5) (l : BitVec 8) (s : State) : Out := awaitForm ⟨4, .await, t, encAwait t l⟩ l.toNat s
def execAwaitT (t : BitVec 5) (l : BitVec 8) (s : State) : Out := awaitForm ⟨4, .awaitT, t, encAwaitT t l⟩ l.toNat s
def execAwaitany (t : BitVec 5) (l : BitVec 8) (s : State) : Out :=
  whenOk (pairOk t) (encAwaitany t l) s (awaitForm ⟨4, .awaitAny, t, encAwaitany t l⟩ l.toNat s)
def execCAwait (a : BitVec 5) (i : BitVec 4) (s : State) : Out := awaitForm ⟨2, .await, a, encCAwait a i⟩ i.toNat s

/-- WAITUNTIL (R383): waits for the time, then completes when the transfer has completed. -/
def execWaituntil (a b : BitVec 5) (s : State) : Out :=
  outsideService s (encWaituntil a b)
    (let tok := s.x a
     if tokKind tok ≠ 1 then raise s (exc .invalidToken 1 tok)
     else withRes s (checkToken s tok) fun _ =>
       if (s.x b).toNat ≤ s.cyc.toNat then
         match tokenReady s (engineAsks s.cur s.part) tok with
         | some _ => complete 4 1 s
         | none => raise s (exc .promiseMissed 0 tok)
       else match s.core.run.task with
         | none => waitHere s
         | some t =>
           let w : Wait := { kind := .waitUntil, reg := a, size := 4, code := [], tokens := [tok], t0 := s.cyc, since := s.cyc, which := 0, err := none, timedOut := false,
                             isOver := false, till := s.x b, retry := s.cyc + 4096, bytes := fullRecordBytes s.ctx }
           let s1 := { s with pending := s.pending ++ [Event.waituntilTime s.cur t.slot] }
           if (s.x b).toNat - s.cyc.toNat ≤ s.core.swth.toNat then .next { s1 with core := { s1.core with run := .stalled t (s.x b) w } }
           else .next (suspendAndPick s1 t .waiting (some w) w.bytes))

/-! ### The events that end waits -/

/-- An event that comes due only under a condition: before that it stays under way. -/
def takeDue (e : Event) (due : State → Bool) (s : State) (f : State → State) : Out :=
  if s.pending.contains e ∧ due s then .next (f { s.fresh with pending := s.pending.erase e }) else .next s

/-- The wait of a slot, if it still waits. -/
def slotWait (s : State) (core slot : Nat) : Option (TaskInfo × Wait) :=
  (waitOf (s.coreOf core) slot).bind (fun p => if p.2.isOver then none else some p)

/-- A mailbox message to a core: a sealed core refuses it, and its sender, told so by an error response, offers it again (R32;
DESIGN CHOICE, log entry 39). -/
def takeMail (e : Event) (core : Nat) (s : State) (f : State → State) : Out :=
  takeDue e (fun s => !(s.coreOf core).closed) s f

/-- TOKEN_WAKE: a wake reaches its task (R372). -/
def execTokenWake (core slot : Nat) (err : BitVec 24) (s : State) : Out :=
  takeMail (.tokenWake core slot err) core s (fun s =>
    match slotWait s core slot with
    | some (t, w) => wakeSlot s core slot (fun _ => wakeOutcome s core t w err)
    | none => s)

/-- QUEUE_WAITER_WAKE: the task executes its queue instruction again (R294). -/
def execQueueWaiterWake (core slot : Nat) (s : State) : Out :=
  takeMail (.queueWaiterWake core slot) core s (fun s => wakeSlot s core slot (fun w => { w with isOver := true }))

/-- TOKEN_REGISTRATION: the core a token names notes the waiting task, or answers at once (R366). -/
def execTokenRegistration (at_ : Nat) (token : BitVec 64) (core slot : Nat) (s : State) : Out :=
  takeMail (.tokenRegistration at_ token core slot) at_ s (fun s =>
    match slotWait s core slot with
    | none => s
    | some (t, _) => match tokenReady s (t.asks core) token with
      | some e => s.sendStamped (dieOf at_) (dieOf core) (some (Event.tokenWake core slot e))
      | none => addWaiter s ⟨.token token, t.part, core, slot, 257, none⟩ false)

/-- A token of a wait that a predicate picks and that is ready. -/
def readyToken (s : State) (who : Asker) (p : Word → Bool) (toks : List Word) : Option (BitVec 24) :=
  (toks.filter p).findSome? (fun t => tokenReady s who t)

/-- TIMER_TOKEN_READY: CYC has reached the token's time (R366). -/
def execTimerTokenReady (core slot : Nat) (s : State) : Out :=
  takeDue (.timerTokenReady core slot)
    (fun s => match slotWait s core slot with
      | some (t, w) => (readyToken s (t.asks core) (fun u => tokKind u = 6) w.tokens).isSome
      | none => true) s
    (fun s => match slotWait s core slot with
      | some (t, w) => wakeSlot s core slot (fun _ => wakeOutcome s core t w 0)
      | none => s)

/-- AWTO of the launch of a task of a core. -/
def awtoOf (s : State) (core serial : Nat) : Nat :=
  if (s.copyOf core).serial = serial ∧ (s.coreOf core).run.task.any (fun t => t.serial = serial) ∧ (s.coreOf core).service.isNone then (s.copyOf core).awto.toNat
  else match (s.coreOf core).service with
    | some v => if v.heldCopy.serial = serial then v.heldCopy.awto.toNat
        else (((s.coreOf core).copies.find? (fun c => c.serial = serial)).map (fun c => c.awto.toNat)).getD 1048576
    | none => (((s.coreOf core).copies.find? (fun c => c.serial = serial)).map (fun c => c.awto.toNat)).getD 1048576

/-- AWAIT_TIMEOUT: await.t has waited AWTO cycles; a completion in the same cycle wins (R371, R386). -/
def execAwaitTimeout (core slot : Nat) (s : State) : Out :=
  takeDue (.awaitTimeout core slot)
    (fun s => match slotWait s core slot with
      | some (t, w) => decide (awtoOf s core t.serial ≤ s.cyc.toNat - w.t0.toNat)
      | none => true) s
    (fun s => match slotWait s core slot with
      | some (t, w) =>
        match firstReady s (t.asks core) w.tokens 0 with
        | some r => wakeSlot s core slot (fun _ => wakeOutcome s core t w r.2)
        | none => wakeSlot s core slot (fun w => { w with timedOut := true, isOver := true })
      | none => s)

/-- WAITUNTIL_TIME: the time of a waituntil has come; the instruction executes again (R383). -/
def execWaituntilTime (core slot : Nat) (s : State) : Out :=
  takeDue (.waituntilTime core slot)
    (fun s => match slotWait s core slot with
      | some (_, w) => decide (w.till.toNat ≤ s.cyc.toNat)
      | none => true) s
    (fun s => wakeSlot s core slot (fun w => { w with isOver := true }))

/-- Suspend the stalled task of the executing core as the third branch of R44 does. -/
def suspendStalled (s : State) : State :=
  match s.core.run with
  | .stalled t _ w => suspendAndPick (countStall s w) t .waiting (some w) w.bytes
  | _ => s

/-- STALL_PROMISE_PASSED: CYC has passed the promise: the task, or its whole gang, is suspended (R45, R29). -/
def execStallPromisePassed (core : Nat) (s : State) : Out :=
  takeDue (.stallPromisePassed core)
    (fun s => match (s.coreOf core).run with
      | .stalled _ p _ => decide (p.toNat < s.cyc.toNat)
      | _ => true) s
    (fun s => match (s.coreOf core).run with
      | .stalled t _ _ =>
        let ms := gangMembers s t
        let cores := if ms.isEmpty then [core] else ms.map (fun m => m.1)
        let s1 := { s with pending := s.pending.filter (fun e => !cores.any (fun c => e = Event.stallPromisePassed c)) }
        cores.foldl (fun s c => s.onCore c suspendStalled) s1
      | _ => s)

/-- An await that found the table full tests its tokens again where it waits: a gang goes on as one (R29), and an awaitany keeps the
registration of its other token (R372). -/
def retryMember (s : State) (core slot : Nat) (t : TaskInfo) (w : Wait) : State :=
  match firstReady s (t.asks core) w.tokens 0 with
  | some r => wakeSlot s core slot (fun _ => wakeOutcome s core t w r.2)
  | none =>
    let missing := w.tokens.filter (fun u => !s.waiters.any (fun x => x.core = core ∧ x.slot = slot ∧ x.on = .token u))
    (putWait s core slot { w with retry := s.cyc + 4096 }).onCore core
      (registerTokens t (missing.filter (fun u => [2, 3, 11].contains (tokKind u) && !tokFabric u)))

/-- WAITER_TABLE_RETRY: 4,096 cycles after the table was full the task becomes Ready and executes its instruction again; an await
keeps the start of its wait (R294, R371, R372). An await with another token registered tests again where it waits, so that no wake for
that one is lost, and one that is on its way ends the wait itself. -/
def execWaiterTableRetry (core slot : Nat) (s : State) : Out :=
  takeDue (.waiterTableRetry core slot)
    (fun s => match slotWait s core slot with
      | some (_, w) => decide (w.retry.toNat ≤ s.cyc.toNat)
      | none => true) s
    (fun s => match slotWait s core slot with
      | none => s
      | some (t, w) =>
        match w.kind with
        | .await | .awaitT | .awaitAny =>
          if s.pending.any (fun e => match e with | .tokenWake c k _ => decide (c = core ∧ k = slot) | _ => false) then s
          else if (gangMembers s t).isEmpty ∧ !s.waiters.any (fun x => x.core = core ∧ x.slot = slot) then
            wakeSlot (mapStarted s core t.serial t.tid (fun t => { t with waitFrom := some w.t0 }) id) core slot
              (fun w => { w with kind := .tableFull, isOver := true })
          else retryMember s core slot t w
        | _ => wakeSlot s core slot (fun w => { w with isOver := true }))

/-- BARRIER_TIMEOUT: BWTO cycles have passed since the barw of a task that awaits its token: it becomes Ready and takes the
cause (R380). -/
def execBarrierTimeout (core slot : Nat) (s : State) : Out :=
  takeDue (.barrierTimeout core slot)
    (fun s => match slotWait s core slot with
      | some (t, _) => match t.arrival with
        | some (_, d) => decide (d.toNat ≤ s.cyc.toNat)
        | none => true
      | none => true) s
    (fun s => match slotWait s core slot with
      | some (t, w) => match t.arrival with
        | some (a, _) =>
          if (tokenReady s (t.asks core) a).isSome then
            wakeSlot s core slot (fun _ => wakeOutcome s core t w ((tokenReady s (t.asks core) a).getD 0))
          else
            let s1 := mapStarted s core t.serial t.tid (fun t => { expireBarrier t a with due := some (.barrierTimeout, 0, a) }) id
            wakeSlot s1 core slot (fun w => { w with timedOut := true, isOver := true })
        | none => s
      | none => s)

end Sys2Proof.Machine
end

