-- ==== Sys2Proof/Machine/Cells.lean ====
section
/-! DEFINITION. The cell instructions (R373-R383): cells, rendezvous objects with immediate and deferred arrivals, and wire
barriers. -/

namespace Sys2Proof.Machine

/-- A token operand of the kinds its instruction takes: R367's checks but the object's (R382). -/
def tokenOperand (s : State) (kinds : List Nat) (t : Word) : Option Exc :=
  if !kinds.contains (tokKind t) then some (exc .invalidToken 1 t)
  else (tokenFailure s t).map (fun k => exc .invalidToken k t)

/-- A value whose bits [63:32] are not zero (R382). -/
def tooWide (v : Word) : Bool := decide (bits v 63 32 ≠ 0)

/-! ### Cells (R383) -/

/-- CELLI: the cell is made, waiters stay and are judged under the new values. -/
def execCelli (d a b : BitVec 5) (s : State) : Out :=
  let va := s.x a
  if misalignedAt va 16 then raise s (exc .misaligned 0 va)
  else if tooWide (s.x b) then raise s (exc .bounds 0 (s.x b))
  else withRes s (objectPa s va Need.atom) fun pa =>
    let s0 := s.touch s.part va.toNat Need.atom true
    let s1 := judgeCell (initCell s0.publish pa (bits (s.x b) 31 0)) pa
    complete 4 1 (s1.setX d (cellToken va.toNat))

/-- A signal to a cell at a fabric peer: the waiting form takes the peer's answer, the posted one leaves for the peer (R250). -/
def signalFabric (d : BitVec 5) (tok : Word) (peer addr : Nat) (s : State) : Out :=
  if d = 0 then complete 4 1 (s.postFabric peer addr tok)
  else match cellPeerOutcome s tok with
    | some e => raise s.fresh e
    | none => complete 4 1 (s.fresh.setX d (BitVec.ofNat 64 (leNat (peerBytes s 4))))

/-- A signal to a cell of this package. The posted form goes on when the granule carries no object bit: the home refuses it. -/
def signalLocal (d : BitVec 5) (tok : Word) (pa amount : Nat) (err : Bool) (s : State) : Out :=
  if s.objects.contains (pa / 16) then
    if touchesPoison s pa 16 then raise s (consumed s pa 16 tok)
    else if cellReserved (object16 s pa) then raise s (exc .illegalInstruction 0 tok)
    else
      let s1 := signalCellAt s pa amount err
      complete 4 1 (s1.setX d (BitVec.ofNat 64 ((cellCount (object16 s pa) + amount) % 2 ^ 32)))
  else if d = 0 then
    let key := s.taskKey
    let l := s.launchOf key.1
    let p : Posted := ⟨tok, s.ctx.pc, key.1, key.2, s.part, (l.map (fun l => l.lid.toNat)).getD 0, (l.map (fun l => l.tag)).getD 0⟩
    complete 4 1 { s with
      core := { s.core with posted := s.core.posted ++ [p] }
      pending := s.pending ++ [Event.postedSignalRefused s.cur tok s.ctx.pc key.1 key.2] }
  else raise s (exc .invalidToken 2 tok)

/-- SIGNAL (R382, R383): a release at its scope. -/
def execSignal (d a b : BitVec 5) (e : BitVec 1) (sc : BitVec 3) (s : State) : Out :=
  whenOk (signalScopeOk sc) (encSignal d a b e sc) s
    (let tok := s.x a
     if tooWide (s.x b) then raise s (exc .bounds 0 (s.x b))
     else match tokenOperand s [2] tok with
       | some x => raise s x
       | none =>
         let amount := bits (s.x b) 31 0
         if tokFabric tok then releaseAt sc.toNat s fun s1 => signalFabric d tok (tokPeer tok) (bits tok 41 0 * 16) s1
         else withRes s (translate s s.part s.privileged (tokVa tok) Need.atom) fun tgt =>
           releaseAt sc.toNat s fun s1 =>
             match tgt with
             | .phys pa u =>
               let s2 := if sc = 4 ∧ s1.objects.contains (pa / 16) = true then podSignal s1 pa else s1
               signalLocal d tok pa amount (e = 1) (stampHome (markUsed s2 u true) pa)
             | .peer p addr u => signalFabric d tok p addr (markUsed s1 u true))

/-- One field of an object (R383). -/
def creadField (kind v k : Nat) : Nat :=
  if kind = 2 then
    match k with | 0 => cellCount v | 1 => cellTarget v | 2 => cellGen v | 3 => fieldOf v 80 80 | _ => 0
  else
    match k with | 0 => rvExpect v | 1 => rvArrived v | 2 => rvPar v | 3 => rvPhase v | 4 => rvGen v | _ => 0

/-- CREAD: a plain load of one field, which orders nothing (R383). -/
def execCread (d a b : BitVec 5) (s : State) : Out :=
  let tok := s.x a
  match tokenOperand s [2, 3] tok with
  | some x => raise s x
  | none =>
    if tokFabric tok then
      match cellPeerOutcome s tok with
      | some e => raise s.fresh e
      | none => complete 4 1 (s.fresh.setX d (BitVec.ofNat 64 (creadField 2 (leNat (peerBytes s 16)) (s.x b).toNat)))
    else withRes s (tokenObject s tok Need.atom) fun _ =>
      withRes s (objectPa s (tokVa tok) Need.atom) fun pa =>
        let s1 := s.touch s.part (tokVa tok).toNat Need.atom false
        complete 4 1 (s1.setX d (BitVec.ofNat 64 (creadField (tokKind tok) (object16 s1 pa) (s.x b).toNat)))

/-! ### Rendezvous (R375-R377) -/

/-- Every registered waiter of a rendezvous is signalled with error status, SUB 3 (R377). -/
def failRendezvous (s : State) (pa : Nat) : State := wakeWaiters s (waitsOn pa [3]) (reasonBits 3)

/-- RVINIT: sd receives 0 (R382). -/
def execRvinit (d a b : BitVec 5) (s : State) : Out :=
  let va := s.x a
  if misalignedAt va 16 then raise s (exc .misaligned 0 va)
  else if tooWide (s.x b) ∨ s.x b = 0 then raise s (exc .bounds 0 (s.x b))
  else withRes s (objectPa s va Need.atom) fun pa =>
    let s1 := (s.touch s.part va.toNat Need.atom true).publish
    let s2 := if s1.objects.contains (pa / 16) then failRendezvous s1 pa else s1
    let gen := (rvGen (object16 s2 pa) + 1) % 65536
    let s3 := homeWrite s2 pa (natBytes 16 (bits (s.x b) 31 0 + gen * 2 ^ 80))
    complete 4 1 ({ s3 with objects := setAdd s3.objects (pa / 16) }.setX d 0)

/-- An arrival of a parity at an object that exists (R376): none where the parity is wrong. -/
def arriveAt (s : State) (pa : Nat) (par : Bool) : Option State :=
  let v := object16 s pa
  if decide (rvPar v = 1) ≠ par then none
  else if rvArrived v + 1 = rvExpect v then
    let v1 := putField (putField (putField v 63 32 0) 64 64 (1 - rvPar v)) 79 65 (rvPhase v + 1)
    some (judgeRendezvous (homeWrite s pa (natBytes 16 v1)) pa)
  else some (homeWrite s pa (natBytes 16 (putField v 63 32 (rvArrived v + 1))))

/-- RVARR: at once under R376, or by the engine of a channel under R377. -/
def execRvarr (d a b : BitVec 5) (s : State) : Out :=
  let va := s.x a
  let w := s.x b
  if misalignedAt va 16 then raise s (exc .misaligned 0 va)
  else if bits w 63 4 ≠ 0 then raise s (exc .bounds 0 w)
  else withRes s (objectPa s va Need.atom) fun pa =>
    if !s.objects.contains (pa / 16) then raise s (exc .invalidToken 2 va)
    else if rvReserved (object16 s pa) then raise s (exc .illegalInstruction 0 va)
    else
      let s0 := (s.touch s.part va.toNat Need.atom true).publish
      let v := object16 s0 pa
      let tok := rendezvousToken va (rvPhase v + 1)
      let s1 := { s0 with core := { s0.core with failed := s0.core.failed.filter (fun f => f.1 ≠ tok) } }
      if w.getLsbD 1 then
        let ch : Fin 4 := ⟨bits w 3 2, by unfold bits; omega⟩
        if !channelRoom s1 ch then waitHere s
        else
          let c := s1.core.chans[ch]
          let s2 := startTransfer s1 ch s1.cyc c.nextStart (.arrive va (w.getLsbD 0) (BitVec.ofNat 16 (rvGen v)) tok)
          complete 4 1 ({ s2 with pending := s2.pending ++ [Event.deferredArrival s.cur ch.val c.nextId.toNat] }.setX d tok)
      else match arriveAt s1 pa (w.getLsbD 0) with
        | none => raise s1 (exc .rendezvousPhaseError 0 va)
        | some s2 => complete 4 1 (s2.setX d tok)

/-- RVFREE. -/
def execRvfree (d a : BitVec 5) (s : State) : Out :=
  let va := s.x a
  if misalignedAt va 16 then raise s (exc .misaligned 0 va)
  else withRes s (objectPa s va Need.atom) fun pa =>
    if !s.objects.contains (pa / 16) then raise s (exc .invalidToken 2 va)
    else if rvReserved (object16 s pa) then raise s (exc .illegalInstruction 0 va)
    else
      let s1 := failRendezvous (s.touch s.part va.toNat Need.atom true).publish pa
      let s2 := { s1 with objects := setDrop s1.objects (pa / 16) }
      complete 4 1 (s2.setX d (BitVec.ofNat 64 (rvArrived (object16 s1 pa))))

/-- The kind 3 token of a deferred arrival is signalled with error status at its core, which keeps that for later awaits (R377; DEDUCED,
log entry 73). -/
def failArrival (s : State) (tok : Word) (err : BitVec 24) : State :=
  wakeWaiters { s with core := { s.core with failed := (tok, err) :: s.core.failed.filter (fun f => f.1 ≠ tok) } }
    (fun w => w.core = s.cur ∧ w.on = .token tok) err

/-- What a record of a deferred arrival names (R395). -/
def arrivalError (s : State) (t : Transfer) (code sub : Nat) (va : Word) : ErrInfo :=
  let l := s.launchOf t.serial
  { code := code, sub := sub, source := 1, lid := match l with | some l => l.lid.toNat | none => 0, tid := t.tid, core := s.cur,
    part := t.part, epc := t.pc, eaddr := va, tag := match l with | some l => l.tag | none => 0 }

/-- The home discards a deferred arrival and logs the address (R377). -/
def discardArrival (s : State) (t : Transfer) (code sub : Nat) (va tok : Word) (err : BitVec 24) : State :=
  failArrival (logRecord s (errRecord s (arrivalError s t code sub va))) tok err

/-- The engine arrives at its object (R377): the outcome of the arrival. -/
def engineArrival (s : State) (t : Transfer) (pa : Nat) (va : Word) (par : Bool) (gen : BitVec 16) (tok : Word) : State :=
  if !s.objects.contains (pa / 16) ∨ rvGen (object16 s pa) ≠ gen.toNat then
    discardArrival s t Cause.invalidToken.code 2 va tok (reasonBits 3)
  else if rvReserved (object16 s pa) then
    failArrival (report s (arrivalError s t Cause.illegalInstruction.code 0 va)) tok (exc .illegalInstruction 0 va).bits
  else match arriveAt s pa par with
    | some s1 => s1
    | none => discardArrival s t Cause.rendezvousPhaseError.code 0 va tok (BitVec.ofNat 24 Cause.rendezvousPhaseError.code)

/-- A deferred arrival takes its turn on a channel. On a missing page it waits for the channel's cell (R327); any other refusal fails
it with an error record. -/
def runArrival (s : State) (ch : Fin 4) (t : Transfer) (va : Word) (par : Bool) (gen : BitVec 16) (tok : Word) : State :=
  let failed (e : Exc) : State :=
    finishTransfer (failArrival (report s (arrivalError s t e.cause.code e.sub e.addr)) tok e.bits) ch t 0
  match translate s t.part t.priv va Need.atom with
  | .ok (.phys pa u) => finishTransfer (engineArrival (markUsed s u true) t pa va par gen tok) ch t 0
  | .ok (.peer ..) => failed (exc .protection 9 va)
  | .error e =>
    if e.cause = .translationNotPresent ∧ e.sub = 0 then parkTransfer s ch t e (failed e) else failed e

/-- DEFERRED_ARRIVAL: the engine arrives once every earlier transfer on the channel has completed (R383). -/
def execDeferredArrival (core ch id : Nat) (s : State) : Out :=
  takeDue (.deferredArrival core ch id)
    (fun s => match (s.coreOf core).chans[ch]? with
      | some c => match c.out with
        | [] => true
        | t :: _ => decide (t.id = BitVec.ofNat 32 id)
      | none => true) s
    (fun s => s.onCore core (fun s =>
      if h : ch < 4 then
        match findTransfer s ⟨ch, h⟩ (BitVec.ofNat 32 id) with
        | none => s
        | some t =>
          match t.job with
          | .arrive va par gen tok => if t.parked then s else runArrival s ⟨ch, h⟩ t va par gen tok
          | _ => s
      else s))

/-! ### Wire barriers (R378-R381) -/

/-- A task arrives on a line. -/
def arriveLine (s : State) (key : Nat × Nat) (par : Bool) (n : Nat) : State :=
  let l := lineOf s n
  let s1 := setLine s { l with arrived := if l.arrived.contains (key, par) then l.arrived else l.arrived ++ [(key, par)] }
  releaseIfComplete s1 n

/-- The arrival of a barw: its token and the state. -/
def barrierArrive (s : State) : Word × State :=
  let key := s.taskKey
  let tok := barrierToken s.cur s.ctx.parity s.ctx.bwmask
  let lines := linesOfMask s.cur s.ctx.bwmask
  let s1 := lines.foldl (fun s n => arriveLine s key s.ctx.parity n) s
  let arrival : Option (Word × Word) := if s.ctx.bwmask = 0 then none else some (tok, s.cyc + s.lc.bwto.zeroExtend 64)
  let run := if s.inService then s1.core.run else s1.core.run.mapTask (fun t => { t with arrival := arrival })
  (tok, { s1 with ctx := { s1.ctx with parity := !s1.ctx.parity }, core := { s1.core with run := run } })

/-- BARW (R379): one whose previous arrival is unreleased waits, and may run out of time (R380). -/
def execBarw (d : BitVec 5) (s : State) : Out :=
  let s0 := if s.inService then s else match s.core.run.task with
    | some t => (match t.arrival with | some (a, _) => renewBarrier s [a] | none => s)
    | none => s
  let held : Option (Word × Word) := if s0.inService then none else match s0.core.run.task with
    | some t => (match t.arrival with
      | some (a, dl) => if (tokenReady s0 (t.asks s0.cur) a).isNone then some (a, dl) else none
      | none => none)
    | none => none
  match held with
  | some (a, dl) =>
    if dl.toNat ≤ s0.cyc.toNat then
      raise { s0 with core := { s0.core with run := s0.core.run.mapTask (fun t => expireBarrier t a) } } (exc .barrierTimeout 0 a)
    else waitHere s0
  | none =>
    let r := barrierArrive s0.publish
    complete 4 1 (r.2.setX d r.1)

/-- The waiters whose kind 7 token is ready wake. -/
def wakeBarriers (s : State) : State :=
  wakeWaiters s (fun w => match w.on with
    | .token tok => decide (tokKind tok = 7) && (match waitOf (s.coreOf w.core) w.slot with
      | some (t, _) => (tokenReady s (t.asks w.core) tok).isSome
      | none => false)
    | _ => false) 0

/-- WIRE_BARRIER_RELEASE: the phase ends once every enrolled task has arrived (R378). -/
def execWireBarrierRelease (line : Nat) (s : State) : Out :=
  takeEvent (.wireBarrierRelease line) s (fun s =>
    let l := lineOf s line
    let enr := (enrolled s).filter (fun e => e.1 = line)
    if !l.arrived.isEmpty ∧ enr.all (fun e => l.hasArrived e.2) then
      wakeBarriers (setLine s { l with
        phase := l.phase + 1, arrived := [], released := [false, true].filter (fun p => l.arrived.any (fun a => a.2 = p)) })
    else s)

/-- POSTED_SIGNAL_REFUSED: the issuing core reports the signal a home refused (R383). -/
def execPostedSignalRefused (core : Nat) (token epc : BitVec 64) (serial tid : Nat) (s : State) : Out :=
  takeEvent (.postedSignalRefused core token epc serial tid) s (fun s =>
    let k := s.coreOf core
    match k.posted.find? (fun p => p.token = token ∧ p.pc = epc ∧ p.serial = serial ∧ p.tid = tid) with
    | none => s
    | some p => report (s.setCore core { k with posted := k.posted.erase p })
        { code := Cause.invalidToken.code, sub := 2, source := 11, lid := p.lid, tid := tid, core := core, part := p.part, epc := epc,
          eaddr := token, tag := p.tag })

end Sys2Proof.Machine
end

