-- ==== Sys2Proof/Machine/TaskControl.lean ====
section
/-! DEFINITION. Task control (R306-R313): `tspawn`, `tend`, `yield`, `gjoin`, gangs and their formation (R29, R70, R311), `wqry`;
the replies of Sluice (R366, R445), and delegations at their target (R30-R32, R279). -/

namespace Sys2Proof.Machine

/-! ### Replies (R366, R445) -/

/-- A query that waits to be served by Sluice. -/
def isQuery (e : Event) : Bool :=
  match e with
  | .tspawnRequest .. | .gjoinRequest .. | .wqryRequest .. | .wqryOpenRequest .. | .trestartRequest .. | .endMessage .. => true
  | _ => false

/-- Queries whose reply Sluice has not sent (R445). A query reaches Sluice in the turn that issues it, so that this is the count at its
arrival; what its event brings later is its service (DEDUCED, log entry 62). -/
def queriesAhead (s : State) : Nat :=
  (s.pending.filter isQuery).length + (s.returned.filter isQuery).length
    + s.launches.foldl (fun n l => n + l.joins.length) 0

/-- Promise of a Sluice reply (R44, R445). -/
def sluicePromise (s : State) : Word := s.cyc + BitVec.ofNat 64 (300 + 20 * queriesAhead s)

/-- A reply reaches the issuing core: its token is signalled (R366). -/
def signalReply (s : State) (core seq : Nat) (err : BitVec 24) : State :=
  let k := s.coreOf core
  let s1 := s.setCore core { k with
    replies := k.replies.filter (fun e => e.1 ≠ seq) ++ [(seq, err)]
    promises := k.promises.filter (fun e => e.1 ≠ seq) }
  wakeWaiters s1 (fun w => decide (w.on = .token (replyToken 8 core seq)) || decide (w.on = .token (replyToken 9 core seq))) err

/-- The answer to an instruction that waits for it reaches its core. -/
def answerCore (s : State) (core : Nat) (v : Word) : State :=
  let k := s.coreOf core
  if k.asked then s.setCore core { k with answer := some v } else s

/-- The sender of a presence store by which Sluice answers a core (R313): no core, but a number of its own for each core. -/
def sluiceSender (core : Nat) : Nat := 2048 + core

/-- SLUICE_REPLY: the token of a `wqry` is signalled after its reply word has landed (R313). -/
def execSluiceReply (core seq err : Nat) (s : State) : Out :=
  if s.flights.any (fun f => f.sender = sluiceSender core ∧ f.tid = seq) then .next s
  else takeMail (.sluiceReply core seq err) core s (fun s => signalReply s core seq (BitVec.ofNat 24 err))

/-- An instruction that leaves a request with Sluice and a kind 8 token with the task. -/
def askSluice (d : BitVec 5) (e : Nat → Event) (s : State) : Out :=
  let q := newReply s (some (sluicePromise s))
  complete 4 1 ({ q.2 with pending := q.2.pending ++ [e q.1] }.setX d (replyToken 8 s.cur q.1))

/-! ### tspawn, gjoin, wqry -/

/-- TSPAWN (R307). -/
def execTspawn (d a : BitVec 5) (s : State) : Out :=
  outsideService s (encTspawn d a)
    (withRes s (coreOperand s (s.x a)) fun c => askSluice d (fun q => .tspawnRequest s.cur q s.taskKey.1 c) s)

/-- GJOIN (R310). -/
def execGjoin (d a : BitVec 5) (s : State) : Out :=
  outsideService s (encGjoin d a) (askSluice d (fun q => .gjoinRequest s.cur q s.taskKey.1 (s.x a).toNat) s)

/-- A list number (R312): bits above [2:0] must be zero; the spec names no cause, and Bounds is taken (log entry 18). -/
def listOperand (v : Word) : Res Nat := if bits v 63 3 ≠ 0 then .error (exc .bounds 0 v) else .ok v.toNat

/-- WQRY (R312, R313). -/
def execWqry (d a b : BitVec 5) (s : State) : Out :=
  outsideService s (encWqry d a b)
    (if misalignedAt (s.x a) 8 then raise s (exc .misaligned 0 (s.x a))
     else withRes s (resolvePlace s (s.x a) 0 8) fun p =>
       withRes s (listOperand (s.x b)) fun l => askSluice d (fun q => .wqryRequest s.cur q s.taskKey.1 l p.1 p.2) s)

/-- WQRY_OPEN (R312): waits for Sluice's reply. -/
def execWqryOpen (d a b : BitVec 5) (s : State) : Out :=
  outsideService s (encWqryOpen d a b)
    (if bits (s.x a) 63 60 ≠ 0 then raise s (exc .bounds 0 (s.x a))
     else withRes s (listOperand (s.x b)) fun l =>
       s.ask (.wqryOpenRequest s.cur s.taskKey.1 l (BitVec.ofNat 60 (s.x a).toNat)) fun v s => complete 4 1 (s.setX d v))

/-! ### tend and yield (R308, R309) -/

/-- In a formed gang. -/
def State.inGang (s : State) : Bool := match s.gang with | .leader .. => true | .follower .. => true | _ => false

/-- The end of a task: its stores are at their points of order and its presence stores have landed, the end message follows them, and
the core picks (R60). -/
def tendWith (word : Nat) (s : State) : Out :=
  whenOk (!s.inService && !s.inGang) word s
    (match s.core.run.task with
     | none => waitHere s
     | some t =>
       let s1 := s.publish.retire 1
       .next (sendEnd (removeRunning s1 t) t.serial t.tid).pick)

def execTend (s : State) : Out := tendWith encTend s
def execCTend (s : State) : Out := tendWith encCTend s

/-- The task becomes Ready and the core picks; nothing is saved when it picks the same task. -/
def yieldWith (size word : Nat) (s : State) : Out :=
  whenOk (!s.inService && !s.inGang) word s
    (match s.core.run.task with
     | none => waitHere s
     | some t =>
       let s1 := (s.advance size).retire 1
       .next (suspendAndPick s1 t .ready none (fullRecordBytes s1.ctx)))

def execYield (s : State) : Out := yieldWith 4 encYield s
def execCYield (s : State) : Out := yieldWith 2 encCYield s

/-! ### Gangs (R70, R311) -/

/-- Width and height of a shape. -/
def gangWidth (shape : Nat) : Nat := if shape = 3 then 4 else 2
def gangHeight (shape : Nat) : Nat := if shape = 1 then 1 else 2

/-- GANGST of a member of a formed gang. -/
def gangstIn (g : BitVec 12) (shape index : Nat) : BitVec 12 :=
  BitVec.ofNat 12 (g.toNat % 8 + 8 + shape * 16 + index * 128)

/-- Error bits of a gang that did not form (R369). -/
def gangFailed : BitVec 24 := reasonBits 5

/-- A join, if its task still waits to be a member: its shape and index. -/
def GangJoin.place (s : State) (j : GangJoin) : Option (Nat × Nat) :=
  match infoOf (s.coreOf j.core) j.serial j.tid with
  | some t => (match t.gang with
    | .forming shape index seq _ _ _ => if seq = j.seq then some (shape, index) else none
    | _ => none)
  | none => none

/-- A join ends in an error: its token is signalled and its task goes on alone. -/
def failJoin (s : State) (j : GangJoin) : State :=
  signalReply (mapStarted s j.core j.serial j.tid (fun t => { t with gang := .none }) id) j.core j.seq gangFailed

/-- Joins at a leader's core that name a leader. -/
def joinsFor (s : State) (core serial tid : Nat) : List GangJoin :=
  (s.coreOf core).joins.filter (fun j => j.serial = serial ∧ j.leaderTid = tid)

/-- The joins that name a leader leave its core. -/
def dropJoins (s : State) (core serial tid : Nat) : State :=
  let k := s.coreOf core
  s.setCore core { k with joins := k.joins.filter (fun j => !(j.serial = serial ∧ j.leaderTid = tid)) }

/-- The wait of a task ends without an outcome: a suspended task is Ready and a stalled one issues. -/
def cancelWait (s0 : State) (core slot : Nat) : State :=
  let s := match (s0.coreOf core).run with
    | .stalled t _ w => if t.slot = slot then s0.onCore core (fun s => countStall s w) else s0
    | _ => s0
  let s1 := endWait s core slot
  let k := s1.coreOf core
  let run := match k.run with
    | .stalled t p w => if t.slot = slot then Run.running t else .stalled t p w
    | r => r
  { s1.setCore core { k with
      run := run
      tasks := k.tasks.map (fun u => if u.info.slot = slot then
        { u with wait := none, phase := if u.phase = .waiting then .ready else u.phase } else u) } with
    pending := if run = k.run then s1.pending else s1.pending.filter (fun e => e ≠ Event.stallPromisePassed core) }

/-- The wait of a started task of a core ends without an outcome. -/
def cancelTaskWait (s : State) (core serial tid : Nat) : State :=
  match infoOf (s.coreOf core) serial tid with
  | some t => cancelWait s core t.slot
  | none => s

/-- The wait of a started task of a core at an await ends without an outcome: the await executes again. -/
def cancelTaskAwait (s : State) (core serial tid : Nat) : State :=
  match (infoOf (s.coreOf core) serial tid).bind (fun t => waitOf (s.coreOf core) t.slot) with
  | some (t, w) => (match w.kind with
    | .await | .awaitT | .awaitAny => cancelWait s core t.slot
    | _ => s)
  | none => s

/-- A follower enters its gang at the instruction after the leader's `gang`: it stops its own stream, and what the leader has
executed since is its first work (R29, R311). -/
def makeFollower (serial shape leader leaderTid : Nat) (pc : Word) (stream : List GangStep) (s : State) (m : Nat × GangJoin) : State :=
  let s1 := mapStarted s m.2.core serial m.2.tid (fun t => { t with gang := .follower shape m.1 leader leaderTid stream })
    (fun x => { x with gangst := gangstIn x.gangst shape m.1, pc := pc })
  signalReply (cancelTaskWait s1 m.2.core serial m.2.tid) m.2.core m.2.seq 0

/-- A gang forms once its leader has executed `gang` and every other position has joined (R70). Every token is signalled, and the
gang runs from the instruction after the leader's `gang`; an await the leader waits at is executed by the gang. A join that is left
over names another shape, and gets an error (DEDUCED, log entry 23). -/
def formGang (s : State) (core serial tid : Nat) : State :=
  match infoOf (s.coreOf core) serial tid with
  | none => s
  | some t =>
    match t.gang with
    | .forming shape 0 seq resume _ backlog =>
      let n := gangWidth shape * gangHeight shape
      let js := joinsFor s core serial tid
      let found := (List.range (n - 1)).filterMap (fun i =>
        (js.find? (fun j => j.place s = some (shape, i + 1))).map (fun j => (i + 1, j)))
      if found.length < n - 1 then s
      else
        let members := (core, tid) :: found.map (fun m => (m.2.core, m.2.tid))
        let s1 := mapStarted s core serial tid (fun t => { t with gang := .leader shape members backlog.length })
          (fun x => { x with gangst := gangstIn x.gangst shape 0 })
        let s2 := signalReply (cancelTaskAwait s1 core serial tid) core seq 0
        let left := js.filter (fun j => (j.place s).isSome && !found.any (fun m => m.2 = j))
        let s3 := dropJoins (left.foldl failJoin (found.foldl (makeFollower serial shape core tid resume backlog) s2)) core serial tid
        members.foldl (fun s m => s.onCore m.1 pickIfIdle) s3
    | _ => s

/-- The token of a gang that cannot form, for the task that executes it. -/
def gangRefused (d : BitVec 5) (s : State) : Out :=
  let q := newReply s none
  complete 4 1 (signalReply (q.2.setX d (replyToken 9 s.cur q.1)) s.cur q.1 gangFailed)

/-- A gang instruction past its checks: the leader waits for its members, a follower sends its join. -/
def gangStart (d : BitVec 5) (shape dx dy : Nat) (leaderTid : Nat) (s : State) : Out :=
  let key := s.taskKey
  let index := dy * gangWidth shape + dx
  let q := newReply s none
  let s1 := q.2.setX d (replyToken 9 s.cur q.1)
  let s2 := { s1 with core := { s1.core with run := s1.core.run.mapTask (fun t =>
    { t with gang := .forming shape index q.1 (s.ctx.pc + 4) s.cyc [] }) } }
  let s3 := (s2.advance 4).retire 1
  if index = 0 then
    .next (formGang { s3 with pending := s3.pending ++ [Event.gangFormationTimeout s.cur] } s.cur key.1 key.2)
  else
    let leader := coreAt (dieOf s.cur) (rowOf s.cur - dy) (colOf s.cur - dx)
    .next { s3 with pending := s3.pending ++ [Event.gangJoin leader s.cur q.1 key.1 leaderTid index] }

/-- GANG (R311). A task that leads or has joined already has its place: its token is signalled with error status (R70). So is that of a
leader on a core that its launch was not placed on, of which R70 speaks for joins only (DESIGN CHOICE, log entry 66). -/
def execGang (d a b : BitVec 5) (s : State) : Out :=
  let v := s.x a
  let shape := bits v 1 0
  let dx := bits v 3 2
  let dy := bits v 4 4
  whenOk (!s.inService && !s.inGang && decide (shape ≠ 0) && decide (dx < gangWidth shape) && decide (dy < gangHeight shape)
      && decide (bits v 63 5 = 0)) (encGang d a b) s
    (if colOf s.cur < dx ∨ rowOf s.cur < dy then raise s (exc .bounds 0 v)
     else match s.gang, s.launchOf s.taskKey.1 with
       | .none, some l =>
         if dx = 0 ∧ dy = 0 ∧ !l.cores.contains s.cur then gangRefused d s
         else gangStart d shape dx dy (s.x b).toNat s
       | _, _ => gangRefused d s)

/-- A follower completes an instruction that its gang executes as one. -/
def followPast (s : State) (m : Nat × Nat) : State :=
  if m.1 = s.cur then s else s.onCore m.1 (fun s => ((s.advance 4).retire 1).count 1 1)

/-- UNGANG (R311): outside a gang it has no effect. The gang executes it as one, when every follower has come to it. -/
def execUngang (s : State) : Out :=
  outsideService s encUngang
    (match s.gang with
     | .leader _ ms _ =>
       if ms.all (memberHere s) then complete 4 1 (disband (ms.foldl followPast s) s.cur 1 1) else waitHere s
     | _ => complete 4 1 s)

/-- The task of a core whose gang token has a sequence number. -/
def joiner (k : Core) (serial seq : Nat) : Option TaskInfo :=
  let mine (t : TaskInfo) : Bool := t.serial = serial && (match t.gang with | .forming _ _ q _ _ _ => decide (q = seq) | _ => false)
  match k.run.task with
  | some t => if mine t then some t else (k.tasks.find? (fun u => mine u.info)).map (fun u => u.info)
  | none => (k.tasks.find? (fun u => mine u.info)).map (fun u => u.info)

/-- Whether a task of a core leads a gang of which another core holds a member. -/
def leads (k : Core) (serial tid member : Nat) : Bool :=
  match infoOf k serial tid with
  | some t => (match t.gang with
    | .leader _ ms _ => ms.any (fun m => m.1 = member)
    | _ => false)
  | none => false

/-- GANG_JOIN: a join reaches the leader's core (R70). A sealed core refuses it (R32). -/
def execGangJoin (core member seq serial leaderTid index : Nat) (s : State) : Out :=
  takeEvent (.gangJoin core member seq serial leaderTid index) s (fun s =>
    match joiner (s.coreOf member) serial seq with
    | none => s
    | some t =>
      let j : GangJoin := ⟨serial, leaderTid, index, member, t.tid, seq⟩
      let k := s.coreOf core
      let placed := match s.launchOf serial with | some l => l.cores.contains member | none => false
      let taken := (joinsFor s core serial leaderTid).any (fun i => i.core = member ∧ (i.place s).isSome ∧ i.place s = j.place s)
        || leads k serial leaderTid member
      if !(tasksOf k).contains (serial, leaderTid) ∨ !placed ∨ k.closed ∨ taken then failJoin s j
      else formGang (s.setCore core { k with joins := k.joins ++ [j] }) core serial leaderTid)

/-- Leaders of a core whose gang has not formed: (serial, TID, sequence number, start). -/
def formingLeaders (k : Core) : List (Nat × Nat × Nat × Word) :=
  let of (t : TaskInfo) : List (Nat × Nat × Nat × Word) := match t.gang with
    | .forming _ 0 seq _ start _ => [(t.serial, t.tid, seq, start)]
    | _ => []
  (match k.run.task with | some t => of t | none => []) ++ k.tasks.flatMap (fun u => of u.info)

/-- Leaders whose formation has run out of time. -/
def expiredLeaders (s : State) (core : Nat) : List (Nat × Nat × Nat × Word) :=
  (formingLeaders (s.coreOf core)).filter (fun l => awtoOf s core l.1 ≤ s.cyc.toNat - l.2.2.2.toNat)

/-- No gang forms: every token is signalled with error status (R70). -/
def failFormation (s : State) (core : Nat) (l : Nat × Nat × Nat × Word) : State :=
  let js := (joinsFor s core l.1 l.2.1).filter (fun j => (j.place s).isSome)
  let s1 := failJoin s ⟨l.1, l.2.1, 0, core, l.2.1, l.2.2.1⟩
  dropJoins (js.foldl failJoin s1) core l.1 l.2.1

/-- Joins of a core whose leader has left it. -/
def orphanJoins (s : State) (core : Nat) : List GangJoin :=
  (s.coreOf core).joins.filter (fun j => !(tasksOf (s.coreOf core)).contains (j.serial, j.leaderTid))

/-- Their formation ends as one that ran out of time. -/
def failOrphans (s : State) (core : Nat) : State :=
  let js := orphanJoins s core
  let k := s.coreOf core
  (js.filter (fun j => (j.place s).isSome)).foldl failJoin (s.setCore core { k with joins := k.joins.filter (fun j => !js.contains j) })

/-- GANG_FORMATION_TIMEOUT (R70): AWTO cycles after the leader's gang. -/
def execGangFormationTimeout (core : Nat) (s : State) : Out :=
  takeDue (.gangFormationTimeout core)
    (fun s => (formingLeaders (s.coreOf core)).isEmpty || !(expiredLeaders s core).isEmpty) s
    (fun s => failOrphans ((expiredLeaders s core).foldl (fun s l => failFormation s core l) s) core)

/-! ### Delegations at their target (R30-R32, R279) -/

/-- Why a message for the service context is refused, as error bits: a sealed core (R147), a core with pans of a pre-empted
launch (R63), an odd ENTRY (R279). R63 speaks of delegations for the claimed pans: as a routine may use any pan of its core, every
one that reaches a core with quiesced pans is refused (DESIGN CHOICE, log entry 46). -/
def routineRefusal (s : State) (core : Nat) (block : List Word) : Option (Cause × Nat) :=
  let k := s.coreOf core
  if k.closed then some (.protection, 8)
  else if (List.range 16).any (panQuiesced s k) then some (.protection, 7)
  else if (block.headD 0).getLsbD 0 then some (.misaligned, 0)
  else none

/-- A message for the service context joins its queue; the routine starts at the next instruction boundary (R30, R400). -/
def acceptRoutine (s : State) (core : Nat) (r : Routine) : State :=
  let k := s.coreOf core
  s.setCore core { k with routines := k.routines ++ [r] }

/-- DELEGATION (R279): the interface holds 16; further ones wait in the mesh. -/
def execDelegation (core issuer seq part : Nat) (priv : Bool) (block : List (BitVec 64)) (s : State) : Out :=
  takeDue (.delegation core issuer seq part priv block)
    (fun s => decide ((s.coreOf core).routines.length < 16) || (routineRefusal s core block).isSome) s
    (fun s => match routineRefusal s core block with
      | some (c, k) => { s with pending := s.pending ++ [Event.delegationReply issuer seq (c.code + k * 256)] }
      | none => acceptRoutine s core ⟨issuer, some seq, part, priv, block⟩)

/-- ACTIVE_MESSAGE: refused, it is reported in the issuer's partition (R279). -/
def execActiveMessage (core issuer part : Nat) (priv : Bool) (block : List (BitVec 64)) (s : State) : Out :=
  takeDue (.activeMessage core issuer part priv block)
    (fun s => decide ((s.coreOf core).routines.length < 16) || (routineRefusal s core block).isSome) s
    (fun s => match routineRefusal s core block with
      | some (c, k) => report s { code := c.code, sub := k, source := 9, core := core, part := part, epc := block.headD 0 }
      | none => acceptRoutine s core ⟨issuer, none, part, priv, block⟩)

/-- DELEGATION_REPLY: the routine's reply reaches its issuer (R279). -/
def execDelegationReply (core seq err : Nat) (s : State) : Out :=
  takeMail (.delegationReply core seq err) core s (fun s => signalReply s core seq (BitVec.ofNat 24 err))

/-- SERVICE_ROUTINE_TIMEOUT: the routine still runs QNTM cycles after it started (R31). -/
def execServiceRoutineTimeout (core : Nat) (s : State) : Out :=
  takeDue (.serviceRoutineTimeout core)
    (fun s => match (s.coreOf core).service with
      | some v => decide ((s.coreOf core).qntm.toNat ≤ s.cyc.toNat - v.start.toNat) && !(s.coreOf core).asked
      | none => true) s
    (fun s => s.onCore core (fun s => failRoutine s (exc .awaitTimeout 0 0)))

end Sys2Proof.Machine
end

