-- ==== Sys2Proof/Machine/Sluice.lean ====
section
/-! DEFINITION. Sluice (R53-R60, R307-R313, R445): the launch queues and the checks of a record, dependences, the requests of
tasks, creation and end messages, and the end of a launch. -/

namespace Sys2Proof.Machine

/-! ### The completion cell (R54, R60) -/

/-- Physical address of a launch's completion cell, or the cause met. R54 does not name a poisoned cell: it is refused as one whose
read fails, with Uncorrectable consumed (DESIGN CHOICE, log entry 49). -/
def doneCellAt (s : State) (part : Nat) (va : Word) : Res Nat :=
  match translate s part (partPriv s part) va Need.atom with
  | .error e => .error e
  | .ok (.peer ..) => .error (exc .protection 9 va)
  | .ok (.phys pa _) =>
    if !s.objects.contains (pa / 16) then .error (exc .invalidToken 2 va)
    else if touchesPoison s pa 16 then .error (consumed s pa 16 va)
    else if cellReserved (object16 s pa) then .error (exc .illegalInstruction 0 va)
    else .ok pa

/-- An error record of Sluice (R54, R56, R60): SOURCE 3, EPC the launch record's address. -/
def sluiceRecord (s : State) (l : Launch) (code sub : Nat) (addr : Word) (lid : Nat) : State :=
  report s { code := code, sub := sub, source := 3, lid := lid, part := l.part, epc := l.va, eaddr := addr, tag := l.tag }

/-- Signal the completion cell, if the record names one: a release at package scope. One that cannot be signalled is
reported instead (R60). -/
def signalDone (s : State) (l : Launch) (err : Bool) : State :=
  if l.doneCell = 0 then s
  else match doneCellAt s l.part l.doneCell with
    | .error e => sluiceRecord s l e.cause.code e.sub l.doneCell l.lid.toNat
    | .ok pa => signalCellAt (acceptAll (s.touch l.part l.doneCell.toNat Need.atom true) s.durable) pa 1 err

/-! ### Launch records (R53, R54) -/

/-- The launch a record describes, before it is placed. -/
def launchOfRecord (s : State) (part : Nat) (words : Vector Word 16) (va : Word) : Launch where
  serial := 0
  lid := 0
  part := part
  priv := partPriv s part
  words := words
  va := va
  order := 0
  rects := []
  nextTid := 0
  ended := 0
  damaged := false
  lostTids := []
  preempted := .no
  lists := Vector.replicate 8 none
  joins := []

/-- The first row of R54: a reserved field that is not zero, or a misaligned address. -/
def recordMalformed (l : Launch) : Bool :=
  (l.word 0).getLsbD 0 || (l.word 2).getLsbD 0 || (l.word 13).getLsbD 0
    || decide (bits (l.word 3) 3 0 ≠ 0) || decide (bits (l.word 3) 63 60 ≠ 0)
    || decide (bits (l.word 4) 6 0 ≠ 0) || decide (bits (l.word 4) 63 52 ≠ 0)
    || decide (bits (l.word 5) 3 0 ≠ 0) || decide (bits (l.word 5) 63 52 ≠ 0)
    || decide (bits (l.word 6) 63 60 ≠ 0) || decide (bits (l.word 7) 15 11 ≠ 0) || decide (bits (l.word 7) 63 46 ≠ 0)
    || decide (bits (l.word 8) 63 16 ≠ 0) || decide (l.word 15 ≠ 0)

/-- The dies a launch may use (R53). -/
def allowedDies (l : Launch) : List Nat :=
  (List.range 8).filter (fun d => bits (l.word 7) 23 16 = 0 || (l.word 7).getLsbD (16 + d))

/-- The dependence tokens of a record. -/
def Launch.deps (l : Launch) : List Word := [l.word 9, l.word 10, l.word 11, l.word 12]

/-- Why a record is rejected (R54), in the table's order: cause, sub-code, address. `supervised`: a program of a die supervisor has
enqueued it. -/
def recordRejected (s : State) (l : Launch) (supervised : Bool) : Option Exc :=
  if recordMalformed l then some (exc .illegalInstruction 0 0)
  else
    let cell := if l.doneCell = 0 then none else match doneCellAt s l.part l.doneCell with
      | .error e => some (exc e.cause e.sub l.doneCell)
      | .ok _ => none
    match cell with
    | some e => some e
    | none =>
      if 2 ^ 32 - 1 < l.tcount ∨ (allowedDies l).length < l.nrects then some (exc .illegalInstruction 0 0)
      else match l.deps.find? (fun t => tokKind t ≠ 0 && tokKind t ≠ 2) with
        | some t => some (exc .invalidToken 0 t)
        | none =>
          if l.noShadow ∧ !partPriv s l.part ∧ !supervised then some (exc .privileged 0 0) else none

/-- A rejected record is reported, and its completion cell signalled with error status if it passes the checks. -/
def rejectRecord (s : State) (l : Launch) (e : Exc) : State :=
  let s1 := sluiceRecord s l e.cause.code e.sub e.addr 0
  if l.doneCell = 0 ∨ bits (l.word 5) 3 0 ≠ 0 then s1
  else match doneCellAt s1 l.part l.doneCell with
    | .error _ => s1
    | .ok pa => signalCellAt s1 pa 1 true

/-! ### The launch queues (R55) -/

/-- The head record of a launch queue: queue, slot and block. A queue that fails R287, is not of mode launch, is empty or
whose slot does not translate gives none. -/
def queueRecord (s : State) (part : Nat) (va : Word) : Option (OpenQueue × List Nat × Nat) :=
  if va = 0 then none
  else match translate s part true va Need.queue with
    | .ok (.phys pa _) =>
      if (qcbFailure s pa).isSome then none
      else
        let q := readQcb s pa
        if qMode q ≠ 4 ∨ qCount q = 0 then none
        else
          let slot := (dequeueSlot s part pa q 0).1
          match slotPhys s part true Need.read q slot with
          | .ok l => if slotFull s l then some (⟨va.toNat, pa, q⟩, l, slot) else none
          | .error _ => none
    | _ => none

/-- The highest-priority launch queue of a partition that has a record. -/
def firstRecord (s : State) (part : Nat) : Option (Word × OpenQueue × List Nat × Nat) :=
  [7, 6, 5, 4, 3, 2, 1, 0].findSome? (fun p => (queueRecord s part (partWord s part (1 + p))).map (fun r => (partWord s part (1 + p), r)))

/-- An LID no live launch has, never 0 (R59, R283): the first free one from a value the device chooses (log entry 7). -/
def freeLid (s : State) : BitVec 16 :=
  let used (v : BitVec 16) : Bool := s.launches.any (fun l => l.lid = v) || s.pendingLaunches.any (fun l => l.lid = v)
  let start := Config.lidChoice s.free
  ((List.range 65536).map (fun k => start + BitVec.ofNat 16 k)).find? (fun v => decide (v ≠ 0) && !used v) |>.getD 1

/-- The next serial: 24 bits, from 1, skipping 0 (R59). -/
def nextSerialOf (n : Nat) : Nat := n % 0xFFFFFF + 1

/-- Pending launches of a partition. -/
def pendingOf (s : State) (part : Nat) : Nat := (s.pendingLaunches.filter (fun p => p.part = part)).length

/-- A record that Sluice has taken: rejected, or entered in the pending table with its LID and serial. -/
def takeRecord (s : State) (part : Nat) (words : Vector Word 16) (va : Word) (supervised : Bool) : State :=
  let l := launchOfRecord s part words va
  match recordRejected s l supervised with
  | some e => rejectRecord s l e
  | none =>
    let p : Pending := { part := part, serial := s.nextSerial, lid := freeLid s, words := words, va := va, order := s.nextOrder,
                         fails := 0, rects := [], victims := [] }
    { s.fresh with pendingLaunches := s.pendingLaunches ++ [p], nextOrder := s.nextOrder + 1, nextSerial := nextSerialOf s.nextSerial }

/-- The launch queues of a partition that fail R287, of those Sluice looks at before it finds a record, are reported (R287). -/
def reportQueues (s : State) (part : Nat) : List Nat → State
  | [] => s
  | p :: l =>
    let va := partWord s part (1 + p)
    if (queueRecord s part va).isSome then s
    else match translate s part true va Need.queue with
      | .ok (.phys pa _) => (match qcbFailure s pa with
        | some k => if va = 0 then reportQueues s part l else reportQueues (reportCorrupt s part 0 3 k va) part l
        | none => reportQueues s part l)
      | _ => reportQueues s part l

/-- One dequeue of Sluice from a partition that accepts launches and whose pending table has room (R55, R402). -/
def dequeueLaunch (s : State) (part : Nat) : State :=
  if s.recovery ∨ 64 ≤ part ∨ !partLive s part ∨ 256 ≤ pendingOf s part then s
  else
    let s := reportQueues s part [7, 6, 5, 4, 3, 2, 1, 0]
    match firstRecord s part with
    | none => s
    | some (_, o, slot, slotVa) =>
      let bytes := slotBytes s o.q slot
      let ws := bytesToWords 16 bytes
      let words : Vector Word 16 := Vector.ofFn (fun i => ws[i.val]?.getD 0)
      let mark := slot.headD 0 / 8
      let s0 := touchSlot (dequeueAt (slot.foldl (fun s pa => s.recall (pa / 128) 1) s) part o slot none) part o slotVa Need.read
      let s1 := takeRecord { s0 with supervised := setDrop s0.supervised mark } part words (BitVec.ofNat 64 slotVa)
        (s.supervised.contains mark)
      if (firstRecord s1 part).isSome then { s1 with pending := s1.pending ++ [Event.launchDequeue part] } else s1

/-- LAUNCH_DEQUEUE (R55). -/
def execLaunchDequeue (part : Nat) (s : State) : Out :=
  .next (dequeueLaunch { s.fresh with pending := s.pending.erase (.launchDequeue part) } part)

/-! ### Dependences (R56) -/

/-- State of a dependence. -/
inductive Dependence where
  | ready
  | waiting
  | failed (code : Nat) (sub : Nat)
deriving DecidableEq, Repr

/-- A dependence token as Sluice reads it. -/
def dependence (s : State) (part : Nat) (t : Word) : Dependence :=
  if tokKind t = 0 then .ready
  else if tokShapeBad t then .failed Cause.invalidToken.code 3
  else if tokFabric t then
    match peerFault s part (tokPeer t) with
    | some k => .failed Cause.peerFault.code k
    | none => match tokenReady s (engineAsks 0 part) t with
      | none => .waiting
      | some e => if e = 0 then .ready else .failed 0 2
  else match translate s part (partPriv s part) (tokVa t) Need.read with
    | .error e => .failed e.cause.code e.sub
    | .ok (.peer ..) => .failed Cause.protection.code 9
    | .ok (.phys pa _) =>
      if !s.objects.contains (pa / 16) then .failed Cause.invalidToken.code 2
      else
        let v := object16 s pa
        if cellReserved v then .failed Cause.illegalInstruction.code 0
        else if !cellSatisfied v then .waiting else if cellErr v then .failed 0 2 else .ready

/-- The first failed dependence of a pending launch. -/
def failedDependence (s : State) (part : Nat) : List Word → Option (Word × Nat × Nat)
  | [] => none
  | t :: l => match dependence s part t with
    | .failed c k => some (t, c, k)
    | _ => failedDependence s part l

/-- A pending launch as a launch. -/
def Pending.launch (s : State) (p : Pending) : Launch :=
  { launchOfRecord s p.part p.words p.va with serial := p.serial, lid := p.lid, order := p.order }

/-- Every dependence has been signalled without error. -/
def eligible (s : State) (p : Pending) : Bool := (p.launch s).deps.all (fun t => dependence s p.part t = .ready)

/-- LAUNCH_CANCEL: a pending launch whose dependence failed leaves the table; its completion cell is signalled with error
status (R56). -/
def execLaunchCancel (order : Nat) (s : State) : Out :=
  let s0 := { s.fresh with pending := s.pending.erase (.launchCancel order) }
  match s0.pendingLaunches.find? (fun p => p.order = order) with
  | none => .next s0
  | some p =>
    let l := p.launch s0
    match failedDependence s0 p.part l.deps with
    | none => .next s0
    | some (t, c, k) =>
      let s1 := { s0 with pendingLaunches := s0.pendingLaunches.filter (fun q => q.order ≠ order), pending := s0.pending ++ [Event.launchDequeue p.part] }
      .next (signalDone (sluiceRecord s1 l c k t l.lid.toNat) l true)

/-! ### Creation and end messages (R28, R57-R60) -/

/-- Change a live launch. -/
def mapLaunch (s : State) (serial : Nat) (f : Launch → Launch) : State :=
  { s with launches := s.launches.map (fun l => if l.serial = serial then f l else l) }

/-- Whether a core can take a creation message now. -/
def listFull (k : Core) : Bool := decide (64 ≤ k.created.length)

/-- A task enters the creation list of a core, and an idle core picks. -/
def enterCreated (s : State) (core : Nat) (c : Created) : State :=
  let k := s.coreOf core
  (s.setCore core { k with created := k.created ++ [c] }).onCore core pickIfIdle

/-- Free creation entries of a core in Sluice's view (R57). -/
def freeEntries (s : State) (core : Nat) : Nat := ((s.view.find? (fun v => v.1 = core)).map (fun v => v.2)).getD 64

/-- Sluice's view of a core's free creation entries. -/
def setView (s : State) (core n : Nat) : State :=
  { s with view := s.view.filter (fun v => v.1 ≠ core) ++ (if n = 64 then [] else [(core, n)]) }

/-- Sluice sends a creation message, and counts its task on the core; one for a core that it sees full waits for the next report
(R28, R57). -/
def sendCreation (s : State) (core serial tid : Nat) (restart : Bool) : State :=
  let e := Event.creationMessage core serial tid restart
  if freeEntries s core = 0 then { s with returned := s.returned ++ [e] }
  else { setView s core (freeEntries s core - 1) with pending := s.pending ++ [e] }

/-- CREATION_MESSAGE: accepted, held while the core prepares the launch's pans (R212), or returned to Sluice (R57). The claim of its
pans comes first (R58). -/
def execCreationMessage (core serial tid : Nat) (restart : Bool) (s : State) : Out :=
  takeDue (.creationMessage core serial tid restart) (fun s => !s.pending.contains (.panClaim core serial)) s (fun s =>
    let k := s.coreOf core
    let c : Created := ⟨serial, tid, s.cyc, restart⟩
    if (s.launchOf serial).isNone then s
    else if k.closed ∨ listFull k then { s with returned := s.returned ++ [Event.creationMessage core serial tid restart] }
    else if k.preparing.contains serial then s.setCore core { k with heldCreations := k.heldCreations ++ [c] }
    else enterCreated s core c)

/-- The pans of an ended launch on a core are free, and nothing of it stays there. -/
def freePansOn (serial : Nat) (k : Core) : Core :=
  { k with
    claims := Vector.ofFn (fun i => if k.claims[i.val]'i.isLt = some serial then none else k.claims[i.val]'i.isLt)
    quiesced := k.quiesced.filter (fun n => n ≠ serial)
    preparing := k.preparing.filter (fun n => n ≠ serial)
    heldCreations := k.heldCreations.filter (fun c => c.serial ≠ serial)
    created := k.created.filter (fun c => c.serial ≠ serial)
    joins := k.joins.filter (fun j => j.serial ≠ serial) }

/-- LAUNCH_END (R60): the last stores of its tasks have landed; pans free, work lists closed, the completion cell signalled. -/
def endLaunch (s0 : State) (l : Launch) : State :=
  let s := (s0.flights.filter (fun f => f.serial = l.serial)).foldl landFlight s0
  let s1 := l.cores.foldl (fun s c => s.setCore c (freePansOn l.serial (s.coreOf c))) s
  let s2 := { s1 with
    launches := s1.launches.filter (fun m => m.serial ≠ l.serial)
    pendingLaunches := s1.pendingLaunches.map (fun p => { p with victims := p.victims.filter (fun n => n ≠ l.serial) }) }
  signalDone s2 l l.damaged

/-- The joins whose count is reached are answered (R310). -/
def answerJoins (s : State) (serial : Nat) : State :=
  match s.launchOf serial with
  | none => s
  | some l =>
    let reached := l.joins.filter (fun j => j.2.2 ≤ l.ended)
    let s1 := mapLaunch s serial (fun l => { l with joins := l.joins.filter (fun j => !(j.2.2 ≤ l.ended)) })
    { s1 with pending := s1.pending ++ reached.map (fun j => Event.sluiceReply j.1 j.2.1 0) }

/-- A query reaches Sluice: it serves them in the order of their arrival (R445). -/
def takeQuery (e : Event) (s : State) (f : State → State) : Out :=
  takeDue e (fun s => decide (s.pending.find? isQuery = some e)) s f

/-- END_MESSAGE: Sluice counts the end and sends the next TID to that core (R59, R60). -/
def execEndMessage (core serial tid : Nat) (s : State) : Out :=
  takeQuery (.endMessage core serial tid) s (fun s =>
    let s1 := answerJoins (mapLaunch s serial (fun l => { l with ended := l.ended + 1 })) serial
    match s1.launchOf serial with
    | none => s1
    | some l =>
      if l.tcount ≤ l.ended then endLaunch s1 l
      else if l.nextTid < l.tcount then
        let s2 := mapLaunch s1 serial (fun l => { l with nextTid := l.nextTid + 1 })
        sendCreation s2 core serial l.nextTid false
      else s1)

/-! ### Requests of tasks (R148, R307, R310, R312, R313) -/

/-- Error bits of a refusal by Sluice (R369). -/
def sluiceRefusal : Nat := 0x200

/-- A reply token is answered. -/
def replyTo (s : State) (core seq err : Nat) : State := { s with pending := s.pending ++ [Event.sluiceReply core seq err] }

/-- TSPAWN_REQUEST (R307): held while the target cannot take the task (R28); a held request has no TID yet (DEDUCED, log
entry 37). -/
def execTspawnRequest (core seq serial target : Nat) (s : State) : Out :=
  takeQuery (.tspawnRequest core seq serial target) s (fun s =>
    match s.launchOf serial with
    | none => replyTo s core seq sluiceRefusal
    | some l =>
      if l.tcount ≤ l.nextTid ∨ !l.cores.contains target then replyTo s core seq sluiceRefusal
      else
        let k := s.coreOf target
        if k.closed ∨ listFull k ∨ k.preparing.contains serial ∨ s.pending.contains (.panClaim target serial) then
          { s with returned := s.returned ++ [Event.tspawnRequest core seq serial target] }
        else
          let s1 := mapLaunch s serial (fun l => { l with nextTid := l.nextTid + 1 })
          replyTo (enterCreated s1 target ⟨serial, l.nextTid, s.cyc, false⟩) core seq 0)

/-- GJOIN_REQUEST (R310). -/
def execGjoinRequest (core seq serial count : Nat) (s : State) : Out :=
  takeQuery (.gjoinRequest core seq serial count) s (fun s =>
    match s.launchOf serial with
    | none => replyTo s core seq sluiceRefusal
    | some l =>
      if l.tcount ≤ count then replyTo s core seq sluiceRefusal
      else if count ≤ l.ended then replyTo s core seq 0
      else mapLaunch s serial (fun l => { l with joins := l.joins ++ [(core, seq, count)] }))

/-- The next coordinate of a work list as a reply word, END once none remains (R312, R313). -/
def workWord (w : WorkList) (list : Nat) : Word :=
  let ex := bits (w.extent.zeroExtend 64) 19 0 + 1
  let ey := bits (w.extent.zeroExtend 64) 39 20 + 1
  let ez := bits (w.extent.zeroExtend 64) 59 40 + 1
  let i := w.next
  if i < ex * ey * ez then BitVec.ofNat 64 (i % ex + i / ex % ey * 2 ^ 20 + i / (ex * ey) * 2 ^ 40 + list * 2 ^ 60)
  else BitVec.ofNat 64 (list * 2 ^ 60 + 2 ^ 63)

/-- Sluice sends a presence store for a launch, and the reply that follows it once it has landed (R313). -/
def sendReplyWord (s : State) (l : Launch) (core seq place off : Nat) (word : Word) : State :=
  { s with
    flights := s.flights ++ [⟨place, off, word, sluiceSender core, 0, seq, false, l.part, l.priv, none⟩]
    pending := s.pending ++ [Event.presenceStoreLanding place off word, Event.sluiceReply core seq 0] }

/-- WQRY_REQUEST: the reply word lands by a presence store, then the token is signalled (R313). A word whose pan refuses the
store leaves the token with that cause (log entry 18). -/
def execWqryRequest (core seq serial list place off : Nat) (s : State) : Out :=
  takeQuery (.wqryRequest core seq serial list place off) s (fun s =>
    match s.launchOf serial with
    | none => replyTo s core seq sluiceRefusal
    | some l =>
      match l.lists[list]?.getD none with
      | none => replyTo s core seq sluiceRefusal
      | some w =>
        let s1 := mapLaunch s serial (fun l => { l with lists := l.lists.setIfInBounds list (some { w with next := w.next + 1 }) })
        sendReplyWord s1 l core seq place off (workWord w list))

/-- WQRY_OPEN_REQUEST (R312). -/
def execWqryOpenRequest (core serial list : Nat) (extent : BitVec 60) (s : State) : Out :=
  takeQuery (.wqryOpenRequest core serial list extent) s (fun s =>
    match s.launchOf serial with
    | none => answerCore s core 2
    | some l =>
      match l.lists[list]?.getD none with
      | some w => answerCore s core (if w.extent = extent then 1 else 2)
      | none =>
        answerCore (mapLaunch s serial (fun l => { l with lists := l.lists.setIfInBounds list (some ⟨extent, 0⟩) })) core 0)

/-- Whether an event is the end message of a task, on its way to Sluice. -/
def endsTask (serial tid : Nat) (e : Event) : Bool :=
  match e with
  | .endMessage _ n t => decide (n = serial ∧ t = tid)
  | _ => false

/-- TRESTART_REQUEST (R148). -/
def execTrestartRequest (core target lid tid : Nat) (s : State) : Out :=
  takeQuery (.trestartRequest core target lid tid) s (fun s =>
    match s.launches.find? (fun l => l.lid.toNat = lid) with
    | none => answerCore s core 1
    | some l =>
      if !l.restart ∨ !l.lostTids.contains tid ∨ s.pending.any (endsTask l.serial tid) then answerCore s core 2
      else if listFull (s.coreOf target) ∨ freeEntries s target = 0 then answerCore s core 3
      else
        let s1 := mapLaunch s l.serial (fun l => { l with lostTids := setDrop l.lostTids tid, ended := l.ended - 1 })
        answerCore (sendCreation s1 target l.serial tid true) core 0)

end Sys2Proof.Machine
end

