-- ==== Sys2Proof/Machine/Placement.lean ====
section
/-! DEFINITION. Placement and the pre-emption of launches (R57, R58, R61-R64, R212, R302, R394). -/

namespace Sys2Proof.Machine

/-! ### What Sluice sees of a core (R57, R58) -/

/-- Whether a launch holds its claimed pans of a core. -/
def holdsPans (l : Launch) (core : Nat) : Bool :=
  l.cores.contains core && (match l.preempted with
    | .no => true
    | .saving w => w.contains core
    | .saved => false
    | .resuming _ => true)

/-- Launches that hold pans of a core in a mask. -/
def holdersOf (s : State) (core mask : Nat) : List Launch :=
  s.launches.filter (fun l => holdsPans l core && decide (l.panMask &&& mask ≠ 0))

/-- Whether one launch stands before another in Sluice's order: by priority, then by dequeue order (R56). -/
def aheadOf (l m : Launch) : Bool := decide (m.prio < l.prio) || (decide (l.prio = m.prio) && decide (l.order < m.order))

/-- Whether pans of a core are kept for a launch that waits for its victims and stands before this one (DESIGN CHOICE, log entry 45:
R61 names no reservation, and a launch later in the order could otherwise take what was freed for an earlier one). -/
def reservedPans (s : State) (l : Launch) (core mask : Nat) : Bool :=
  s.pendingLaunches.any (fun p => aheadOf (p.launch s) l && decide ((p.launch s).panMask &&& mask ≠ 0)
    && p.rects.any (fun r => (rectCores ((p.launch s).rwm1 + 1) ((p.launch s).rhm1 + 1) r).contains core))

/-- The free creation entries that a core reports; an absent core has none (R57, R393). -/
def reportedEntries (k : Core) : Nat := if k.absent then 0 else 64 - k.created.length

/-- A report round renews Sluice's view (R57). -/
def renewView (s : State) : State :=
  { s with view := ((s.cur, reportedEntries s.core) :: s.others.map (fun p => (p.id, reportedEntries p.core))).filter (fun v => v.2 ≠ 64) }

/-- Free started entries of a die (R57). -/
def freeStarted (s : State) (die : Nat) : Nat :=
  let of (c : Nat) (k : Core) : Nat := if dieOf c = die then (if k.absent then 64 else startedCount k) else 0
  16384 - (of s.cur s.core + s.others.foldl (fun n p => n + of p.id p.core) 0)

/-- The allowed dies in order of free started entries, most first; ties to the lower number (R58). -/
def insertDie (s : State) (d : Nat) : List Nat → List Nat
  | [] => [d]
  | e :: l => if freeStarted s e < freeStarted s d then d :: e :: l else e :: insertDie s d l
def dieOrder (s : State) (l : Launch) : List Nat := (allowedDies l).foldl (fun acc d => insertDie s d acc) []

/-- Origins of a rectangle, y0 rising, then x0 (R58). -/
def originsOf (l : Launch) : List (Nat × Nat) :=
  (List.range (16 - l.rhm1)).flatMap (fun y => (List.range (16 - l.rwm1)).map (fun x => (x, y)))

/-- Creation entries each core must show (R58). -/
def entriesNeeded (l : Launch) : Nat :=
  let n := l.nrects * (l.rwm1 + 1) * (l.rhm1 + 1)
  min l.coreTasks ((l.tcount + n - 1) / n)

/-- A core that shows the entries and the free pans. -/
def coreFits (s : State) (l : Launch) (core : Nat) : Bool :=
  decide (entriesNeeded l ≤ freeEntries s core) && !(s.coreOf core).absent
    && (l.panMask = 0 || ((holdersOf s core l.panMask).isEmpty && !reservedPans s l core l.panMask))

/-- The cores of a rectangle of a launch. -/
def Launch.rect (l : Launch) (die : Nat) (o : Nat × Nat) : List Nat := rectCores (l.rwm1 + 1) (l.rhm1 + 1) (die, o.1, o.2)

/-- The first rectangle that fits on a die. -/
def rectOn (s : State) (l : Launch) (die : Nat) : Option (Nat × Nat × Nat) :=
  ((originsOf l).find? (fun o => (l.rect die o).all (coreFits s l))).map (fun o => (die, o.1, o.2))

/-- A placement: the first rectangle on each of the first dies that offer one (R58). -/
def findPlacement (s : State) (l : Launch) : Option (List (Nat × Nat × Nat)) :=
  let found := (dieOrder s l).filterMap (rectOn s l)
  if l.nrects ≤ found.length then some (found.take l.nrects) else none

/-! ### Placing (R58, R59) -/

/-- The claims and the first-pass creation messages of a placed launch. -/
def placementMessages (l : Launch) : List Event :=
  let cores := l.cores
  let n := cores.length
  let first := min (n * l.coreTasks) l.tcount
  (if l.panMask = 0 then [] else cores.map (fun c => Event.panClaim c l.serial))
    ++ (List.range first).map (fun t => Event.creationMessage (cores[t % n]?.getD 0) l.serial t false)

/-- Sluice counts the tasks of creation messages on their cores (R57). -/
def countCreations (s : State) (l : List Event) : State :=
  l.foldl (fun s e => match e with
    | .creationMessage c _ _ _ => setView s c (freeEntries s c - 1)
    | _ => s) s

/-- A pending launch is placed. -/
def placeLaunch (s : State) (p : Pending) (rects : List (Nat × Nat × Nat)) : State :=
  let l0 := { p.launch s with rects := rects }
  let l := { l0 with nextTid := min (l0.cores.length * l0.coreTasks) l0.tcount }
  let s1 := countCreations s (placementMessages l)
  { s1 with
    launches := s1.launches ++ [l]
    pendingLaunches := s1.pendingLaunches.filter (fun q => q.order ≠ p.order)
    pending := s1.pending ++ placementMessages l ++ [Event.launchDequeue p.part] }

/-! ### Choosing victims (R61) -/

/-- Serials of the launches whose pans conflict on a rectangle, if all of them are of lower priority than a launch. -/
def victimsOf (s : State) (l : Launch) (cores : List Nat) : Option (List Nat) :=
  if cores.all (fun c => decide (entriesNeeded l ≤ freeEntries s c) && !(s.coreOf c).absent && !reservedPans s l c l.panMask) then
    let hs := cores.flatMap (fun c => holdersOf s c l.panMask)
    if hs.all (fun h => decide (h.prio < l.prio)) then some ((hs.map (fun h => h.serial)).foldl setAdd []) else none
  else none

/-- The distinct victim sets of a die with the first rectangle of each, in the order of the search. -/
def choicesOn (s : State) (l : Launch) (die : Nat) : List (List Nat × Nat × Nat × Nat) :=
  (originsOf l).foldl (fun acc o =>
    match victimsOf s l (l.rect die o) with
    | some vs => if acc.any (fun a => a.1 = vs) then acc else acc ++ [(vs, die, o.1, o.2)]
    | none => acc) []

/-- The sublists of n members, in the order of the list. -/
def sublistsOf {α : Type} : Nat → List α → List (List α)
  | 0, _ => [[]]
  | _ + 1, [] => []
  | n + 1, a :: l => (sublistsOf n l).map (fun t => a :: t) ++ sublistsOf (n + 1) l

/-- One member of each list, the last varying fastest. -/
def productOf {α : Type} : List (List α) → List (List α)
  | [] => [[]]
  | a :: l => a.flatMap (fun x => (productOf l).map (fun t => x :: t))

/-- Every combination of n dies with a choice on each, in the order of R61: the dies first, then the rectangles. -/
def combinations (n : Nat) (dies : List (List (List Nat × Nat × Nat × Nat))) : List (List (List Nat × Nat × Nat × Nat)) :=
  (sublistsOf n dies).flatMap productOf

/-- The victims of a combination, each once. -/
def unionVictims (c : List (List Nat × Nat × Nat × Nat)) : List Nat := (c.flatMap (fun x => x.1)).foldl setAdd []

/-- The combination with the fewest victims, the first of equals. -/
def fewest : List (List (List Nat × Nat × Nat × Nat)) → Option (List (List Nat × Nat × Nat × Nat))
  | [] => none
  | c :: l => match fewest l with
    | none => some c
    | some d => if (unionVictims c).length ≤ (unionVictims d).length then some c else some d

/-- Whether a launch is already giving up its pans. -/
def isSaving (l : Launch) : Bool :=
  match l.preempted with
  | .saving _ => true
  | _ => false

/-- PREEMPTION_DECISION (R61): the victims get their messages, one that is being saved already none, and the launch keeps its
rectangles. -/
def preemptFor (s : State) (p : Pending) : State :=
  let l := p.launch s
  match fewest (combinations l.nrects ((dieOrder s l).map (choicesOn s l))) with
  | none => s
  | some c =>
    let vs := unionVictims c
    let chosen := c.map (fun x => x.2)
    let hit (m : Launch) : Bool := vs.contains m.serial && !isSaving m
    { s with
      pendingLaunches := s.pendingLaunches.map (fun q => if q.order = p.order then { q with rects := chosen, victims := vs } else q)
      launches := s.launches.map (fun m => if hit m then { m with preempted := .saving m.cores } else m)
      pending := s.pending ++ (s.launches.filter hit).flatMap (fun m => m.cores.map (fun x => Event.preemptionMessage x m.serial)) }

/-! ### The report round (R57, R58, R64) -/

/-- What Sluice tries in a round: a pending launch or a pre-empted one, with priority and dequeue order. -/
inductive Attempt where
  | place (p : Pending)
  | resume (l : Launch)
deriving DecidableEq, Repr

def Attempt.key (s : State) : Attempt → Nat × Nat
  | .place p => ((p.launch s).prio, p.order)
  | .resume l => (l.prio, l.order)

/-- Insert by priority, highest first, then by dequeue order (R56). -/
def insertAttempt (s : State) (a : Attempt) : List Attempt → List Attempt
  | [] => [a]
  | b :: l =>
    let ka := a.key s
    let kb := b.key s
    if kb.1 < ka.1 ∨ (kb.1 = ka.1 ∧ ka.2 < kb.2) then a :: b :: l else b :: insertAttempt s a l

/-- The attempts of a round in their order. -/
def attempts (s : State) : List Attempt :=
  ((s.pendingLaunches.map Attempt.place) ++ ((s.launches.filter (fun l => l.preempted = .saved)).map Attempt.resume)).foldl
    (fun acc a => insertAttempt s a acc) []

/-- Whether the rectangles chosen by pre-emption fit, now that the victims have given up their pans. -/
def chosenFits (s : State) (p : Pending) : Bool :=
  let l := p.launch s
  !p.rects.isEmpty && p.rects.all (fun r => (rectCores (l.rwm1 + 1) (l.rhm1 + 1) r).all (coreFits s l))

/-- Try a pending launch: on the rectangles pre-emption has freed for it, or, where another launch has taken them, by a new search. -/
def tryPlace (s : State) (p : Pending) : State :=
  if !p.victims.isEmpty then s
  else if chosenFits s p then placeLaunch s p p.rects
  else if (failedDependence s p.part (p.launch s).deps).isSome then { s with pending := s.pending ++ [Event.launchCancel p.order] }
  else if !eligible s p then s
  else match findPlacement s (p.launch s) with
    | some r => placeLaunch s p r
    | none =>
      let p1 := { p with fails := p.fails + 1, rects := [] }
      let s1 := { s with pendingLaunches := s.pendingLaunches.map (fun q => if q.order = p.order then p1 else q) }
      if 2 ≤ p1.fails ∧ 0 < (p.launch s).prio then preemptFor s1 p1 else s1

/-- Try to resume a pre-empted launch: its own pans must be free on its cores (R64). -/
def tryResume (s : State) (l : Launch) : State :=
  if l.cores.all (fun c => l.panMask = 0 || ((holdersOf s c l.panMask).isEmpty && !reservedPans s l c l.panMask)) then
    let s1 := mapLaunch s l.serial (fun l => { l with preempted := .resuming l.cores })
    { s1 with pending := s1.pending ++ l.cores.map (fun c => Event.resumptionMessage c l.serial) }
  else s

/-- One attempt; a launch that went away or changed in the round is not tried. -/
def attempt (s : State) (a : Attempt) : State :=
  match a with
  | .place p => if s.pendingLaunches.contains p then tryPlace s p else s
  | .resume l => if s.launches.contains l then tryResume s l else s

/-- What Sluice holds goes out again: a returned creation message after the report, while the core shows a free entry, and a spawn
once its target shows one (R28, R57). -/
def sendReturned (s : State) : State :=
  s.returned.foldl (fun s e => match e with
    | .creationMessage c serial tid restart => sendCreation s c serial tid restart
    | .tspawnRequest _ _ _ target => if 0 < freeEntries s target then { s with pending := s.pending ++ [e] } else { s with returned := s.returned ++ [e] }
    | _ => { s with pending := s.pending ++ [e] }) { s with returned := [] }

/-- A report round. -/
def reportRound (s : State) : State :=
  let s1 := sendReturned (renewView { s with rounds := s.cyc.toNat / 1024 + 1 })
  (attempts s1).foldl attempt s1

/-- REPORT_ROUND: in the cycles that are multiples of 1,024 (R57). -/
def execReportRound (s : State) : Out := if s.rounds ≤ s.cyc.toNat / 1024 then .next (reportRound s) else .next s

/-! ### Claims and the preparation of pans (R58, R212) -/

/-- Pans of a mask. -/
def pansOf (mask : Nat) : List Nat := (List.range 16).filter (fun k => mask.testBit k)

/-- Claim pans of a core. -/
def claimPans (k : Core) (mask serial : Nat) : Core :=
  { k with claims := Vector.ofFn (fun i => if mask.testBit i.val then some serial else k.claims[i.val]'i.isLt) }

/-- PAN_CLAIM: the core starts to prepare the pans. -/
def execPanClaim (core serial : Nat) (s : State) : Out :=
  takeMail (.panClaim core serial) core s (fun s =>
    match s.launchOf serial with
    | none => s
    | some l =>
      let k := s.coreOf core
      let s1 := s.setCore core { claimPans k l.panMask serial with preparing := k.preparing ++ [serial] }
      { s1 with pending := s1.pending ++ [Event.panPreparationDone core serial] })

/-- A pan as R212 leaves it: words zero, presence bits clear, PFMT at its reset value, no poison. -/
def clearPan (s : State) (core pan : Nat) : State :=
  let lo := padAddr core (65536 * pan)
  let w := padWord core (65536 * pan)
  let s1 := { s with
    pad := s.pad.filter (fun c => !(decide (lo ≤ c.1) && decide (c.1 < lo + 65536)))
    present := setDropRange s.present w 8192
    padPoison := setDropRange s.padPoison w 8192
    padFlips := s.padFlips.filter (fun g => !(decide (w / 4 ≤ g.1) && decide (g.1 < w / 4 + 2048))) }
  let k := s1.coreOf core
  s1.setCore core { k with pfmt := k.pfmt.setIfInBounds pan 9, retention := k.retention.setIfInBounds pan .active }

/-- The pans of a mask, prepared. -/
def clearPans (s : State) (core mask : Nat) : State := (pansOf mask).foldl (fun s k => clearPan s core k) s

/-- PAN_PREPARATION_DONE: the core accepts the launch's creation messages (R212). -/
def execPanPreparationDone (core serial : Nat) (s : State) : Out :=
  takeEvent (.panPreparationDone core serial) s (fun s =>
    match s.launchOf serial with
    | none => s
    | some l =>
      let s1 := clearPans s core l.panMask
      let k := s1.coreOf core
      let held := k.heldCreations.filter (fun c => c.serial = serial)
      let s2 := s1.setCore core { k with
        preparing := k.preparing.filter (fun n => n ≠ serial)
        heldCreations := k.heldCreations.filter (fun c => c.serial ≠ serial) }
      { s2 with pending := s2.pending ++ held.map (fun c => Event.creationMessage core serial c.tid c.restart) })

/-! ### Pre-emption on a core (R62, R302, R394) -/

/-- The queue waiters of a slot are removed, with a wake that is under way, and the counts of their queues fall; token registrations
stay (R302, R372). -/
def dropQueueWaiters (s : State) (core slot : Nat) : State :=
  let mine (w : Waiter) : Bool := decide (w.core = core ∧ w.slot = slot) && (match w.on with | .token _ => false | _ => true)
  let gone := s.waiters.filter mine
  gone.foldl (fun s w => match w.on with
    | .enqueue q => writeQcb s q (putField (readQcb s q) 207 192 (qEnqw (readQcb s q) - 1))
    | .dequeue q => writeQcb s q (putField (readQcb s q) 223 208 (qDeqw (readQcb s q) - 1))
    | .token _ => s) { s with
      waiters := s.waiters.filter (fun w => !mine w), pending := s.pending.filter (fun e => e ≠ Event.queueWaiterWake core slot) }

/-- Whether a quiesced task goes on at resumption without a wake: it waits for nothing, its wait is over, or its queue
instruction executes again (R64, R302). -/
def Suspended.readyNow (u : Suspended) : Bool :=
  u.ready || decide (u.phase = .ready) || (match u.wait with
    | none => true
    | some w => w.isOver || decide (w.kind = .queue) || decide (w.kind = .tableFull))

/-- A task of the victim is Quiesced. -/
def Suspended.quiesce (u : Suspended) : Suspended :=
  { u with
    phase := .quiesced
    ready := u.readyNow
    wait := match u.wait with
      | some w => if w.kind = .queue ∨ w.kind = .tableFull then none else some w
      | none => none }

/-- The running task of a launch is suspended involuntarily (R38). -/
def suspendVictim (s : State) (serial : Nat) : State :=
  match s.core.run with
  | .running t => if t.serial = serial then leave s t .quiesced none (fullRecordBytes s.heldCtx) else s
  | .stalled t _ w =>
    if t.serial = serial then
      leave { countStall s w with pending := s.pending.filter (fun e => e ≠ Event.stallPromisePassed s.cur) } t .quiesced (some w)
        (fullRecordBytes s.heldCtx)
    else s
  | .idle => s

/-- Set or clear QSD of every queue a launch owns (R302). -/
def setQueueStop (s : State) (l : Launch) (on : Bool) : State :=
  (s.objects.filter (fun g => g % 4 = 0)).foldl (fun s g =>
    let pa := 16 * g
    let q := readQcb s pa
    if (qcbFailure s pa).isNone ∧ fieldOf q 95 80 = l.lid.toNat ∧ fieldOf q 351 328 = l.serial then
      writeQcb s pa (putField q 76 76 (if on then 1 else 0))
    else s) s

/-- Steps 1 and 2 of R62 on the executing core. -/
def quiesceHere (s : State) (l : Launch) : State :=
  let ran := s.core.run.task.any (fun t => t.serial = l.serial)
  let s1 := suspendVictim s l.serial
  let mine := s1.core.tasks.filter (fun u => u.info.serial = l.serial)
  let s2 := mine.foldl (fun s u => dropQueueWaiters s s.cur u.info.slot) s1
  let s3 := { s2 with core := { s2.core with
    quiesced := setAdd s2.core.quiesced l.serial
    tasks := s2.core.tasks.map (fun u => if u.info.serial = l.serial then u.quiesce else u) } }
  let s4 := setQueueStop s3 l true
  if ran then s4.pick else pickIfIdle s4

/-- PREEMPTION_MESSAGE (R62): a routine in progress runs to its end first (R394), and the messages Sluice sent before take effect
before it. A sealed core refuses it (R32). -/
def execPreemptionMessage (core serial : Nat) (s : State) : Out :=
  takeDue (.preemptionMessage core serial)
    (fun s => (s.coreOf core).service.isNone && !(s.coreOf core).asked && !(s.coreOf core).closed
      && !s.pending.contains (.resumptionMessage core serial) && !s.pending.contains (.panClaim core serial)) s
    (fun s =>
      let s1 := match s.launchOf serial with | some l => s.onCore core (fun s => quiesceHere s l) | none => s
      { s1 with pending := s1.pending ++ [Event.preemptionAcknowledgement core serial] })

/-- Whether a transfer of a core's engine writes pans of a mask of a target core; one that came after the pans were quiesced is refused
there (R63). -/
def writesPansOf (target mask core : Nat) (k : Core) : Bool :=
  k.chans.toList.any (fun c => c.out.any (fun t => match t.job with
    | .copy _ dst _ dp rowlen rows _ ds conv .. =>
      !t.late && (sidePans { State.reset with cur := core } ⟨dp, dst, ds⟩ rowlen rows (conv.map (fun f => f.2))).any
        (fun x => decide (x.1 = target) && mask.testBit x.2)
    | _ => false))

/-- Copies into pans of a mask of the core are still under way (R62 step 3). -/
def copiesInto (s : State) (core mask : Nat) : Bool :=
  writesPansOf core mask s.cur s.core || s.others.any (fun p => writesPansOf core mask p.id p.core)

/-- Address of a core's slot of the pan save area (R62). -/
def panSlot (l : Launch) (core : Nat) : Nat :=
  l.backing + 36864 * l.tcount + 1114112 * (l.cores.idxOf core)

/-- Physical pieces of n bytes from a VA, page by page, with their lengths. -/
def areaPhys (s : State) (l : Launch) (need : Need) : Nat → Nat → Nat → Res (List (Nat × Nat))
  | 0, _, _ => .ok []
  | fuel + 1, va, n =>
    if n = 0 then .ok []
    else
      let c := min n (4096 - va % 4096)
      match translate s l.part true (BitVec.ofNat 64 va) need with
      | .error e => .error e
      | .ok (.peer ..) => .error (exc .protection 9 (BitVec.ofNat 64 va))
      | .ok (.phys pa _) =>
        match areaPhys s l need fuel (va + c) (n - c) with
        | .error e => .error e
        | .ok r => .ok ((pa, c) :: r)

/-- The parts of a pan in its save slot: data, presence bits, PFMT, as (VA, bytes). -/
def panParts (l : Launch) (core pan : Nat) : List (Nat × Nat) :=
  let b := panSlot l core
  [(b + 65536 * pan, 65536), (b + 1048576 + 1024 * pan, 1024), (b + 1064960 + 8 * pan, 8)]

/-- Presence bits of a pan as bytes, one bit per word in word order. -/
def presenceBytes (s : State) (core pan : Nat) : List Byte :=
  let w := padWord core (65536 * pan)
  (List.range 1024).map (fun k => BitVec.ofNat 8 ((List.range 8).foldl (fun n j => if s.present.contains (w + 8 * k + j) then n + 2 ^ j else n) 0))

/-- The bytes a pan is saved as, part by part. -/
def panImage (s : State) (core pan : Nat) : List (List Byte) :=
  [padBytes s core (65536 * pan) 65536, presenceBytes s core pan, natBytes 8 ((s.coreOf core).pfmt[pan]?.getD 0).toNat]

/-- Write bytes over physical pieces. -/
def writeArea : State → List (Nat × Nat) → List Byte → State
  | s, [], _ => s
  | s, (pa, n) :: l, bs => writeArea (homeWrite s pa (bs.take n)) l (bs.drop n)

/-- Save one pan; its poison marks go with its words (R228). -/
def savePan (l : Launch) (core : Nat) (r : Res State) (pan : Nat) : Res State :=
  match r with
  | .error e => .error e
  | .ok s0 =>
    let s := wakePan s0 core pan
    ((panParts l core pan).zip (panImage s core pan)).foldl (fun r p =>
      match r with
      | .error e => .error e
      | .ok s =>
        match areaPhys s l Need.write (p.1.2 / 4096 + 2) p.1.1 p.1.2 with
        | .error e => .error e
        | .ok ps => .ok (writeArea s ps p.2)) (.ok s)

/-- The poisoned words of a saved pan stay poisoned in memory. -/
def poisonSaved (l : Launch) (core : Nat) (s : State) (pan : Nat) : State :=
  let w := padWord core (65536 * pan)
  (s.padPoison.filter (fun p => decide (w ≤ p) && decide (p < w + 8192))).foldl (fun s p =>
    match physOf s l.part (panSlot l core + 65536 * pan + 8 * (p - w)) with
    | some pa => setPoison s (pa / 8) (s.pathPoison.contains (2 ^ 60 + p))
    | none => s) s

/-- The first record of the launch on the executing core whose backing slot cannot be written. -/
def recordFault (s : State) (l : Launch) : List Suspended → Option Exc
  | [] => none
  | u :: r =>
    match linesPhys s l.part (backingSlot l u.info.tid) Need.write (recordLines u.bytes) with
    | .error e => some e
    | .ok _ => recordFault s l r

/-- A Created task of the executing core ends with a cause of its launch's records, as a suspended one does (R42, R394). -/
def endCreated (e : Exc) (s : State) (c : Created) : State :=
  match s.launchOf c.serial with
  | none => s
  | some l =>
    let s1 := report s { code := e.cause.code, sub := e.sub, source := 8, lid := l.lid.toNat, tid := c.tid, core := s.cur,
                         part := l.part, epc := (l.newCtx c.tid c.restart).pc, eaddr := e.addr, restarted := l.restart, tag := l.tag }
    if l.restart then { s1 with pending := s1.pending ++ [Event.creationMessage s.cur c.serial c.tid true] }
    else sendEnd (markDamaged s1 c.serial c.tid) c.serial c.tid

/-- Tasks of a launch on the executing core end with a cause of their records, and its copy and account go with the last (R42, R66,
R116, R394). -/
def endAllOf (s : State) (serial : Nat) (e : Exc) : State :=
  let mine := s.core.tasks.filter (fun u => u.info.serial = serial)
  let s1 := mine.foldl (fun s u => endSuspended s u e.cause e.sub e.addr) s
  let made := s1.core.created.filter (fun c => c.serial = serial)
  let s2 := { s1 with core := pruneCopies { s1.core with created := s1.core.created.filter (fun c => c.serial ≠ serial) } }
  made.foldl (endCreated e) s2

/-- The save met a fault: a record with CODE 24 and SOURCE 8, and the launch's tasks on the core end (R394). -/
def saveFailed (s : State) (l : Launch) (e : Exc) : State :=
  let s1 := report s { code := Cause.preemption.code, sub := 0, source := 8, lid := l.lid.toNat, core := s.cur, part := l.part,
                       eaddr := e.addr, tag := l.tag }
  endAllOf s1 l.serial e

/-- Steps 4 and 5 of R62 on the executing core: the records and the pans are saved, and the pans are free. -/
def saveHere (s : State) (l : Launch) : State :=
  let mine := s.core.tasks.filter (fun u => u.info.serial = l.serial ∧ u.place ≠ .backing)
  let saved := match recordFault s l mine with
    | some e => saveFailed s l e
    | none =>
      let s1 := mine.foldl (fun s u => toBacking s u) s
      match (pansOf l.panMask).foldl (savePan l s.cur) (.ok s1) with
      | .error e => saveFailed s1 l e
      | .ok s2 => (pansOf l.panMask).foldl (poisonSaved l s2.cur) s2
  { saved with core := { saved.core with
      claims := Vector.ofFn (fun i => if saved.core.claims[i.val]'i.isLt = some l.serial then none else saved.core.claims[i.val]'i.isLt) } }

/-- The acknowledgement of a core reaches Sluice (R61, R62). -/
def acknowledge (s : State) (core serial : Nat) : State :=
  match s.launchOf serial with
  | none => s
  | some l =>
    match l.preempted with
    | .saving w =>
      let rest := w.filter (fun c => c ≠ core)
      let s1 := mapLaunch s serial (fun l => { l with preempted := if rest.isEmpty then .saved else .saving rest })
      if rest.isEmpty then
        { s1 with pendingLaunches := s1.pendingLaunches.map (fun p => { p with victims := p.victims.filter (fun n => n ≠ serial) }) }
      else s1
    | _ => s

/-- The pans of a launch on a core. -/
def launchPans (s : State) (core serial : Nat) : List (Nat × Nat) :=
  match s.launchOf serial with
  | some l => (pansOf l.panMask).map (fun k => (core, k))
  | none => []

/-- PREEMPTION_ACKNOWLEDGEMENT: once the copies into the pans have ended, and the pans have left retention, the core saves and
acknowledges (R62, R219). -/
def execPreemptionAcknowledgement (core serial : Nat) (s : State) : Out :=
  takeWhenAwake (.preemptionAcknowledgement core serial) (launchPans s core serial) (fun s => match s.launchOf serial with | some l => !copiesInto s core l.panMask | none => true) s
    (fun s => match s.launchOf serial with
      | none => s
      | some l => acknowledge (s.onCore core (fun s => saveHere s l)) core serial)

/-! ### Resumption (R64) -/

/-- Read the bytes of physical pieces. -/
def readArea (s : State) (l : List (Nat × Nat)) : List Byte :=
  l.flatMap (fun p => (List.range p.2).map (fun k => physByte s (p.1 + k)))

/-- Presence bits of a pan from its save area. -/
def presenceWords (core pan : Nat) (bs : List Byte) : List Nat :=
  let w := padWord core (65536 * pan)
  (List.range 8192).filter (fun k => (bs[k / 8]?.getD 0).getLsbD (k % 8)) |>.map (fun k => w + k)

/-- Poison marks come back with the words (R228). -/
def poisonedWords (s : State) (core pan : Nat) (l : List (Nat × Nat)) : List (Nat × Bool) :=
  let w := padWord core (65536 * pan)
  (l.flatMap (fun p => (List.range (p.2 / 8)).map (fun k => p.1 / 8 + k))).zipIdx.filterMap
    (fun x => if s.poison.contains x.1 then some (w + x.2, s.pathPoison.contains x.1) else none)

/-- Restore one pan, its presence bits and its PFMT. -/
def restorePan (l : Launch) (core : Nat) (r : Res State) (pan : Nat) : Res State :=
  match r with
  | .error e => .error e
  | .ok s =>
    let part (p : Nat × Nat) : Res (List (Nat × Nat)) := areaPhys s l Need.read (p.2 / 4096 + 2) p.1 p.2
    match (panParts l core pan).map part with
    | [.ok a, .ok b, .ok c] =>
      let s1 := clearPan s core pan
      let s2 := { s1 with
        pad := memWriteBytes s1.pad (padAddr core (65536 * pan)) (readArea s a)
        present := (presenceWords core pan (readArea s b)).foldl setAdd s1.present }
      let s2 := (poisonedWords s core pan a).foldl (fun s w => setPadPoison s w.1 w.2) s2
      let k := s2.coreOf core
      let f : BitVec 9 := BitVec.ofNat 9 (leNat (readArea s c) % 256)
      .ok (armRetention (s2.setCore core { k with pfmt := k.pfmt.setIfInBounds pan f }) core pan)
    | [.error e, _, _] => .error e
    | [_, .error e, _] => .error e
    | [_, _, .error e] => .error e
    | _ => .ok s

/-- A quiesced task is Ready or Waiting, by its ready bit. -/
def Suspended.resume (u : Suspended) : Suspended :=
  { u with phase := if u.readyNow then .ready else .waiting, ready := false }

/-- The launch's tasks on the executing core go on. -/
def resumeHere (s : State) (l : Launch) : State :=
  let s0 := { s with core := claimPans s.core l.panMask l.serial }
  let restored := match (pansOf l.panMask).foldl (restorePan l s.cur) (.ok s0) with
    | .ok s1 => s1
    | .error e => endAllOf (clearPans s0 s.cur l.panMask) l.serial e
  let s2 := { restored with core := { restored.core with
    quiesced := setDrop restored.core.quiesced l.serial
    tasks := restored.core.tasks.map (fun u => if u.info.serial = l.serial ∧ u.phase = .quiesced then u.resume else u) } }
  pickIfIdle (setQueueStop s2 l false)

/-- RESUMPTION_MESSAGE (R64): a core restores the launch's pans and tasks. -/
def execResumptionMessage (core serial : Nat) (s : State) : Out :=
  takeMail (.resumptionMessage core serial) core s (fun s =>
    match s.launchOf serial with
    | none => s
    | some l =>
      let s1 := s.onCore core (fun s => resumeHere s l)
      mapLaunch s1 serial (fun l => match l.preempted with
        | .resuming w =>
          let rest := w.filter (fun c => c ≠ core)
          { l with preempted := if rest.isEmpty then .no else .resuming rest }
        | _ => l))

end Sys2Proof.Machine
end

