-- ==== Sys2Proof/Machine/Containment.lean ====
section
/-! DEFINITION. A contained core from its scrub on (R392 steps 5 to 7), map-out (R393), and containment by the die supervisor's
own checks. -/

namespace Sys2Proof.Machine

/-- A request of the core that still waits for its answer. -/
def requestOpen (s : State) (core : Nat) : Bool :=
  s.pending.any (fun e => match e with
    | .trestartRequest c _ _ _ => decide (c = core)
    | .wqryOpenRequest c _ _ _ => decide (c = core)
    | _ => false)

/-- The report of a task at step 7 (R392): whether it is restarted, and whether the core was mapped out. -/
def restartRecord (s : State) (core : Nat) (c : Containment) (key : Nat × Nat) (restarted mapped : Bool) : State :=
  let l := s.launchOf key.1
  report s { code := c.code, sub := c.sub, source := 8, contained := true, restarted := restarted, mapped := mapped,
             lid := match l with | some l => l.lid.toNat | none => 0, tid := key.2, core := core,
             part := match l with | some l => l.part | none => 0,
             tag := match l with | some l => l.tag | none => 0, drain := c.drained }

/-- Step 7 for one task: a restartable one begins again on the same logical core, any other counts as ended by containment. -/
def restartTask (core : Nat) (c : Containment) (usable mapped : Bool) (s : State) (t : Nat × Nat × Bool) : State :=
  let again := t.2.2 && usable
  let s1 := restartRecord s core c (t.1, t.2.1) again mapped
  if again then sendCreation s1 core t.1 t.2.1 true
  else { markDamaged s1 t.1 t.2.1 with pending := s1.pending ++ [Event.endMessage core t.1 t.2.1] }

/-- Steps 6 and 7: the core is unsealed, or absent when it cannot be replaced. -/
def endContainment (s : State) (core : Nat) (c : Containment) (usable mapped : Bool) : State :=
  let k := s.coreOf core
  let s1 := s.setCore core (if usable then { k with closed := false, containing := none } else { k with absent := true })
  c.tasks.foldl (restartTask core c usable mapped) s1

/-- Whether a row has a spare to give: row 0 holds the die supervisor (R22, R393). -/
def spareFree (s : State) (core : Nat) : Bool :=
  decide (rowOf core ≠ 0) && !s.sparesUsed.contains (16 * dieOf core + rowOf core)

/-- Whether the scrub of a core has ended, either outcome being possible. -/
def scrubDue (s : State) (core : Nat) : Bool :=
  match (s.coreOf core).containing with
  | some c => c.mapping.isNone && decide (262144 ≤ s.cyc.toNat - c.start.toNat) && !requestOpen s core
  | none => false

/-- Steps 5 and 6: the scratchpad is zero with every presence bit clear, and the built-in test passes or fails. -/
def scrubCore (core : Nat) (pass : Bool) (s : State) : State :=
  match (s.coreOf core).containing with
  | none => s
  | some c =>
    let s1 := clearPans s core 0xFFFF
    if pass then endContainment s1 core c true false
    else if spareFree s1 core then
      let k := s1.coreOf core
      let out := outsideColumn s1 (dieOf core) (rowOf core)
      let s2 := s1.setCore core { k with containing := some { c with mapping := some (s1.cyc, out) } }
      { s2 with sparesUsed := setAdd s2.sparesUsed (16 * dieOf core + rowOf core), pending := s2.pending ++ [Event.mapOutDone core] }
    else endContainment s1 core c false false

/-- CONTAINMENT_SCRUB. -/
def execContainmentScrub (core : Nat) (pass : Bool) (s : State) : Out :=
  let other (e : Event) : Bool := match e with | .containmentScrub c _ => decide (c ≠ core) | _ => true
  if s.pending.any (fun e => !other e) ∧ scrubDue s core then
    .next (scrubCore core pass { s.fresh with pending := s.pending.filter other })
  else .next s

/-- The physical position of a column under a map that leaves a position outside (R15). -/
def physicalColumn (x out : Nat) : Nat := if x < out then x else x + 1

/-- Rewrite a row's column map (R384). -/
def setOutside (s : State) (die row out : Nat) : State :=
  { s with ctl := memWrite s.ctl (0x3F0000100040 + 0x1000 * die + row) (BitVec.ofNat 8 out) }

/-- MAP_OUT_DONE: 65,536 cycles after the map-out began; the failed core's position is the one left outside. -/
def execMapOutDone (core : Nat) (s : State) : Out :=
  takeDue (.mapOutDone core)
    (fun s => match (s.coreOf core).containing with
      | some c => (match c.mapping with | some m => decide (65536 ≤ s.cyc.toNat - m.1.toNat) | none => true)
      | none => true) s
    (fun s => match (s.coreOf core).containing with
      | some c => (match c.mapping with
        | some m => endContainment (setOutside s (dieOf core) (rowOf core) (physicalColumn (colOf core) m.2)) core c true true
        | none => s)
      | none => s)

/-- CORE_CHECK_FAILURE: the records name no cause of a task; what CODE and SUB they carry is open (log entry 11). -/
def execCoreCheckFailure (core : Nat) (s : State) : Out :=
  let k := s.coreOf core
  if 2048 ≤ core ∨ k.containing.isSome ∨ k.absent then .next s
  else
    let v := (Config.openValue 15 s.free).toNat
    .next (s.fresh.onCore core (fun s => contain s (v % 26) (v / 26 % 65536) 0 false))

end Sys2Proof.Machine
end

