-- ==== Sys2Proof/Machine/Keccak.lean ====
section
/-! DEFINITION. KMAC256 (SP 800-185) with an output of three bytes, which the MAC of a grant token is (R333). The tables of
Keccak-f[1600] are computed as FIPS 202 defines them: the rotations by the walk of its algorithm 2, the round constants by the shift
register of its algorithm 5. -/

namespace Sys2Proof.Machine

/-! ### The permutation -/

/-- The 1,600 bits as lanes, lane (x, y) at number x + 5y. -/
abbrev Sponge := Vector Word 25

/-- Lane (x, y), coordinates modulo 5. -/
def Sponge.lane (a : Sponge) (x y : Nat) : Word := a[x % 5 + 5 * (y % 5)]?.getD 0

/-- Every lane anew, from its coordinates. -/
def Sponge.rebuild (f : Nat → Nat → Word) : Sponge := Vector.ofFn (fun i => f (i.val % 5) (i.val / 5))

/-- theta: every bit takes the parities of the column before it and of the one after it, a place higher. -/
def Sponge.theta (a : Sponge) : Sponge :=
  let parity : Vector Word 5 := Vector.ofFn (fun x => (List.range 5).foldl (fun w y => w ^^^ a.lane x.val y) 0)
  let column (x : Nat) : Word := parity[x % 5]?.getD 0
  Sponge.rebuild (fun x y => a.lane x y ^^^ column (x + 4) ^^^ (column (x + 1)).rotateLeft 1)

/-- rho and pi in one walk over the lanes but (0, 0): the lane reached at step t is rotated by (t + 1)(t + 2) / 2 and moved to the place
the walk reaches next. -/
def Sponge.walk (a : Sponge) : Nat → Nat → Nat → Nat → Sponge → Sponge
  | 0, _, _, _, b => b
  | n + 1, t, x, y, b =>
    let y' := (2 * x + 3 * y) % 5
    a.walk n (t + 1) y y' (b.setIfInBounds (y + 5 * y') ((a.lane x y).rotateLeft ((t + 1) * (t + 2) / 2 % 64)))

/-- chi: every bit takes the two after it in its row. -/
def Sponge.chi (a : Sponge) : Sponge := Sponge.rebuild (fun x y => a.lane x y ^^^ (a.lane (x + 2) y &&& ~~~a.lane (x + 1) y))

/-- Output bits of the shift register with x^8 + x^6 + x^5 + x^4 + 1. -/
def registerBits : Nat → Nat → List Bool
  | 0, _ => []
  | n + 1, r => decide (r % 2 = 1) :: registerBits n (if 128 ≤ r then (2 * r) ^^^ 0x171 else 2 * r)

/-- The round constants: bit 2^j - 1 of round k is output bit j + 7k. -/
def roundConstants : List Word :=
  let out := registerBits 168 1
  (List.range 24).map (fun k => (List.range 7).foldl (fun w j =>
    if out[j + 7 * k]?.getD false then w ||| BitVec.ofNat 64 (2 ^ (2 ^ j - 1)) else w) 0)

/-- One round; iota adds its constant to lane (0, 0). -/
def Sponge.round (a : Sponge) (constant : Word) : Sponge :=
  let t := a.theta
  let c := (t.walk 24 0 1 0 t).chi
  c.setIfInBounds 0 (c.lane 0 0 ^^^ constant)

/-- Keccak-f[1600]. -/
def Sponge.permute (a : Sponge) : Sponge := roundConstants.foldl Sponge.round a

/-! ### The sponge at a rate of 136 bytes -/

/-- A block is added to the first 17 lanes, and the state permuted. -/
def Sponge.absorb (a : Sponge) (block : List Byte) : Sponge :=
  Sponge.permute (Vector.ofFn (fun i => a.lane (i.val % 5) (i.val / 5) ^^^ BitVec.ofNat 64 (leNat ((block.drop (8 * i.val)).take 8))))

/-- n blocks of a message are absorbed. -/
def Sponge.absorbAll (a : Sponge) : Nat → List Byte → Sponge
  | 0, _ => a
  | n + 1, bs => (a.absorb (bs.take 136)).absorbAll n (bs.drop 136)

/-- Bytes that are missing to a multiple of the rate, 0 to 135. -/
def missingTo136 (bs : List Byte) : Nat := (136 - bs.length % 136) % 136

/-- The suffix of cSHAKE, bits 00, and its padding, bits 1 0...0 1. -/
def cshakePad (bs : List Byte) : List Byte :=
  let last := bs ++ [0x04]
  let full := last ++ List.replicate (missingTo136 last) 0
  full.dropLast ++ [full.getLastD 0 ||| 0x80]

/-- SHAKE256 with an output of 64 bytes: the suffix 1111, and the padding. -/
def shake64 (msg : List Byte) : BitVec 512 :=
  let last := msg ++ [0x1F]
  let full := last ++ List.replicate (missingTo136 last) 0
  let all := full.dropLast ++ [full.getLastD 0 ||| 0x80]
  let out := Sponge.absorbAll (Vector.replicate 25 0) (all.length / 136) all
  BitVec.ofNat 512 (leNat ((List.range 8).flatMap (fun k => natBytes 8 (out.lane (k % 5) (k / 5)).toNat)))

/-! ### KMAC -/

/-- left_encode of a bit count below 65,536. -/
def leftEncode (n : Nat) : List Byte := if n < 256 then [1, BitVec.ofNat 8 n] else [2, BitVec.ofNat 8 (n / 256), BitVec.ofNat 8 n]

/-- encode_string. -/
def encodeString (bs : List Byte) : List Byte := leftEncode (8 * bs.length) ++ bs

/-- bytepad to the rate. -/
def bytepad136 (bs : List Byte) : List Byte :=
  let l := leftEncode 136 ++ bs
  l ++ List.replicate (missingTo136 l) 0

/-- KMAC256 with an output of 24 bits: key, customisation string, message. -/
def kmac24 (key custom msg : List Byte) : List Byte :=
  let name : List Byte := [0x4B, 0x4D, 0x41, 0x43]
  let all := cshakePad (bytepad136 (encodeString name ++ encodeString custom) ++ bytepad136 (encodeString key) ++ msg ++ [24, 1])
  let out := Sponge.absorbAll (Vector.replicate 25 0) (all.length / 136) all
  natBytes 3 (out.lane 0 0).toNat

/-- The customisation string "D8GRANT". -/
def grantCustom : List Byte := [0x44, 0x38, 0x47, 0x52, 0x41, 0x4E, 0x54]

/-- The MAC of a token: its low 40 bits with the requester's peer and partition and the target partition (R333). -/
def grantMac (key : BitVec 256) (token : Word) (peer part tpart : Nat) : Nat :=
  leNat (kmac24 (natBytes 32 key.toNat) grantCustom (natBytes 8 (token.toNat % 2 ^ 40 + peer * 2 ^ 40 + part * 2 ^ 52 + tpart * 2 ^ 58)))

end Sys2Proof.Machine
end

