-- ==== Sys2Proof/Machine/Grants.lean ====
section
/-! DEFINITION. Grant tokens and keys (R332, R333, R336, R409), requests that arrive from the pod (R335, R337, R230), the
answers of peers to posted stores (R250), and the stations (R406). -/

namespace Sys2Proof.Machine

/-! ### Tokens -/

def grantSlot (t : Word) : Nat := bits t 1 0
def grantExp (t : Word) : Nat := bits t 13 2
def grantMacOf (t : Word) : Nat := bits t 63 40

/-- The key a slot holds now (R333). -/
def slotKey (s : State) (part slot : Nat) : BitVec 256 :=
  Config.grantKey (match s.keys.find? (fun k => k.1 = 4 * part + slot) with | some k => k.2 | none => 4 * part + slot)

/-- The MAC a token has here under the current key of its slot (R333). -/
def macHere (s : State) (t : Word) (peer part tpart : Nat) : Nat := grantMac (slotKey s tpart (grantSlot t)) t peer part tpart

/-- A token is current: (EXP - epoch) mod 2^12 < 2^11, the epoch being CYC[31:20] (R332). -/
def grantCurrent (s : State) (t : Word) : Bool := decide ((grantExp t + 4096 - bits s.cyc 31 20) % 4096 < 2048)

/-- The requester operand: peer, partition, TPART (R336). -/
def requesterOperand (s : State) (w : Word) : Res (Nat × Nat × Nat) :=
  if bits w 63 24 ≠ 0 ∨ bits w 23 18 ≠ s.part then .error (exc .bounds 0 w)
  else .ok (bits w 11 0, bits w 17 12, bits w 23 18)

/-- A token gissue can complete (R336). -/
def issuable (t : Word) : Bool :=
  decide (grantMacOf t = 0) && decide (12 ≤ grantLsize t) && decide (grantLsize t ≤ 40) && decide (windowEnd t ≤ 2 ^ 40)

/-- GISSUE: s1 with its MAC. -/
def execGissue (d a b : BitVec 5) (s : State) : Out :=
  whenPrivileged s (withRes s (requesterOperand s (s.x b)) fun r =>
    if issuable (s.x a) then complete 4 1 (s.setX d (setBits (s.x a) 63 40 (macHere s (s.x a) r.1 r.2.1 r.2.2)))
    else raise s (exc .bounds 0 (s.x a)))

/-- GREVOKE: a new key for a slot of the executing task's partition, in force at every checker; status 0. -/
def execGrevoke (d a : BitVec 5) (s : State) : Out :=
  whenPrivileged s
    (if bits (s.x a) 63 2 ≠ 0 then raise s (exc .bounds 0 (s.x a))
     else complete 4 1 ((rotateSlot s.part s (bits (s.x a) 1 0)).setX d 0))

/-- Checks 2 and 3 of R335 on a token: the sub-code, 0 where both pass. -/
def tokenChecks (s : State) (t : Word) (peer part tpart : Nat) : Nat :=
  if grantMacOf t ≠ macHere s t peer part tpart then 2 else if !grantCurrent s t then 3 else 0

/-- GCHECK. -/
def execGcheck (d a b : BitVec 5) (s : State) : Out :=
  withRes s (requesterOperand s (s.x b)) fun r =>
    complete 4 1 (s.setX d (BitVec.ofNat 64 (tokenChecks s (s.x a) r.1 r.2.1 r.2.2)))

/-- GRANT_KEY_ROTATION: management rotates a slot (R409). -/
def execGrantKeyRotation (part slot : Nat) (s : State) : Out :=
  .next (if part < 64 ∧ slot < 4 ∧ s.recovery = false then rotateSlot part s.fresh slot else s.fresh)

/-- PARTITION_LIVE_WRITE: management makes a partition LIVE; its slots are rotated first (R409). -/
def execPartitionLiveWrite (part : Nat) (s : State) : Out :=
  .next (if part < 64 ∧ s.recovery = false then
      let a := 0x3F0000000000 + 0x2000 * part + 7
      let s1 := s.fresh
      physWrite s1 a [memRead s1.ctl a ||| 0x40]
    else s.fresh)

/-! ### Requests from the pod -/

/-- What a fabric request does (R335, R337): its kinds are 0 load, 1 store, 2 fetch, 3 signal of a cell, 4 to 14 an atomic
that returns its value, 24 to 34 a reduction, in the order of R273. -/
inductive Ingress where
  | load | store | fetch | signal
  | atomic (op : AmoOp) (returns : Bool)
deriving DecidableEq, Repr

/-- The operations of R273 in order. -/
def amoOps : List AmoOp := [.swap, .cas, .add, .and, .or, .xor, .min, .max, .minN, .maxN, .fadd]

/-- The request a kind names. -/
def ingressOf (kind : Nat) : Option Ingress :=
  match kind with
  | 0 => some .load
  | 1 => some .store
  | 2 => some .fetch
  | 3 => some .signal
  | k => if k < 15 then (amoOps[k - 4]?).map (fun op => .atomic op true)
      else if 24 ≤ k then (amoOps[k - 24]?).map (fun op => .atomic op false) else none

/-- Bytes a request touches: a signal carries its amount and its error flag, a cas also the expected value. -/
def ingressBytes (r : Ingress) (n : Nat) : Nat :=
  match r with | .signal => 16 | .atomic .cas _ => n / 2 | _ => n

/-- A request of a shape the stations accept: within one line, an atomic of 4 or 8 aligned bytes, a cell aligned (R226, R406). -/
def ingressShape (r : Ingress) (off n : Nat) : Bool :=
  let m := ingressBytes r n
  decide (0 < m) && decide (off % 128 + m ≤ 128) && (match r with
    | .signal => decide (n = 5) && decide (off % 16 = 0)
    | .atomic .. => (decide (m = 4) || decide (m = 8)) && decide (off % m = 0)
    | _ => true)

/-- The right of the token and of the leaf that a request needs: bit of the token, rights of the leaf. -/
def ingressNeed : Ingress → Nat × Need
  | .load => (36, Need.read)
  | .store => (37, Need.write)
  | .fetch => (39, Need.exec)
  | .signal => (38, Need.atom)
  | .atomic .. => (38, Need.atom)

/-- The checks on the token, in the order of R335: the sub-code of the first that fails. -/
def ingressToken (s : State) (r : Ingress) (peer part tpart off n : Nat) (t : Word) : Option Nat :=
  if 64 ≤ tpart ∨ !partLive s tpart ∨ !peerAllowed s tpart peer then some 6
  else if t = 0 then some 1
  else match tokenChecks s t peer part tpart with
    | 0 => if !t.getLsbD (ingressNeed r).1 then some 4 else if !windowCovers t off n then some 5 else none
    | k => some k

/-- The checks on the leaf: a failed walk other than a missing page is sub-code 8, a missing page or right 7 (R335). -/
def ingressLeaf (s : State) (r : Ingress) (tpart off : Nat) : Except (Nat × Option WalkFail) (Nat × Use) :=
  match findLeaf s tpart (BitVec.ofNat 64 off) (ingressNeed r).2 with
  | .error f => if f.sub = 0 then .error (7, some f) else .error (8, none)
  | .ok u =>
    let pa := u.leaf.frame * 4096 + off % 4096
    if pteMode u.leaf.pte ≠ 0 then .error (8, none)
    else if (u.leaf.pte &&& (ingressNeed r).2.mask) ≠ (ingressNeed r).2.mask then .error (7, none)
    else match spaceOf pa with
      | .hbm => .ok (pa, u)
      | .durable => .ok (pa, u)
      | _ => .error (7, none)

/-- A refused request is logged at the target with its address (R335, R396). -/
def logIngress (s : State) (code sub peer tpart off : Nat) : State :=
  logRecord s (errRecord s { code := code, sub := sub, source := 6, part := tpart, eaddr := BitVec.ofNat 64 off, peer := peer })

/-- The ingress atomic cache takes a line under a lease; of 512 lines of a die the one longest unused goes (R337). -/
def leaseLine (s : State) (pa : Nat) : State :=
  match spaceOf pa with
  | .hbm =>
    let line := pa / 128
    let rest := s.leases.filter (fun l => l.line ≠ line)
    let here := rest.filter (fun l => homeDie (l.line * 128) = homeDie pa)
    let rest1 := if here.length < 512 then rest else
      match here with
      | [] => rest
      | l :: ls => rest.erase (ls.foldl (fun a b => if b.last.toNat < a.last.toNat then b else a) l)
    { s with
      leases := rest1 ++ [⟨line, s.cyc⟩]
      pending := if s.pending.contains (.leaseExpiry line) then s.pending else s.pending ++ [Event.leaseExpiry line] }
  | _ => s

/-- A write by fabric ingress at its point of order: it ends every core's reservations on its words (R275). -/
def ingressWrite (s : State) (pa : Nat) (bytes : List Byte) : State := homeWrite (s.dropOwnResv pa bytes.length) pa bytes

/-- A request that has passed its checks (R335, R337); a write to an object granule is refused (R230). -/
def ingressEffect (s : State) (r : Ingress) (pa peer tpart off : Nat) (data : List Byte) : State :=
  let n := ingressBytes r data.length
  match r with
  | .load => s
  | .fetch => s
  | .store => if touchesObject s pa n then logIngress s Cause.objectOverwrite.code 0 peer tpart off else ingressWrite s pa data
  | .signal =>
    if !s.objects.contains (pa / 16) then logIngress s Cause.invalidToken.code 2 peer tpart off
    else leaseLine (signalCellAt (podSignal s pa) pa (leNat (data.take 4)) (data.getD 4 0 ≠ 0)) pa
  | .atomic op returns =>
    if touchesObject s pa n then logIngress s Cause.objectOverwrite.code 0 peer tpart off
    else
      let old := BitVec.ofNat 64 (physLe s pa n)
      let x := BitVec.ofNat 64 (leNat (data.take n))
      let e := BitVec.ofNat 64 (leNat (data.drop n))
      let s1 := ingressWrite s pa (natBytes n (amoValue op n old x e).toNat)
      if returns then leaseLine s1 pa else s1

/-- A missing page of an ingress access sends a fault record that no cell answers (R327, R335). -/
def ingressFault (s : State) (tpart off : Nat) (f : WalkFail) : State :=
  let e : Exc := { cause := .translationNotPresent, sub := 0, addr := BitVec.ofNat 64 off, kind := 7, pte := f.pte, level := f.level }
  produceRecord s tpart 5 0 (faultRecord e 0 0 0 0 tpart true 0)

/-- INGRESS_REQUEST. A class of transaction the device does not take is dropped and logged (R406); in recovery nothing is
answered (R407). -/
def execIngressRequest (kind peer part tpart off : Nat) (token : BitVec 64) (data : List (BitVec 8)) (s0 : State) : Out :=
  let s := s0.fresh
  if s.recovery then .next s
  else match ingressOf kind with
    | none => .next (logIngress s 0 0 peer tpart off)
    | some r =>
      if !ingressShape r off data.length then .next (logIngress s 0 0 peer tpart off)
      else match ingressToken s r peer part tpart off (ingressBytes r data.length) token with
        | some k => .next (logIngress s Cause.peerRejected.code k peer tpart off)
        | none =>
          match ingressLeaf s r tpart off with
          | .error (k, f) =>
            let s1 := logIngress s Cause.peerRejected.code k peer tpart off
            .next (match f with | some w => ingressFault s1 tpart off w | none => s1)
          | .ok (pa, u) => .next (ingressEffect (markUsed s u (ingressNeed r).2.writes) r pa peer tpart off data)

/-- LEASE_EXPIRY: the lease has lasted its cycles after the line's last atomic (R337). -/
def execLeaseExpiry (line : Nat) (s : State) : Out :=
  takeDue (.leaseExpiry line)
    (fun s => s.leases.all (fun l => l.line ≠ line || decide (s.leaseCycles ≤ s.cyc.toNat - l.last.toNat))) s
    (fun s => { s with leases := s.leases.filter (fun l => l.line ≠ line) })

/-! ### Answers to posted stores, and stations -/

/-- A posted store that failed is logged, and its task's next pod-scope release reports the first of them (R250). -/
def loseStore (s : State) (f : FabricStore) : State :=
  let l := s.launchOf f.serial
  let lid := match l with | some l => l.lid.toNat | none => 0
  let e : ErrInfo := { code := Cause.storeLost.code, sub := 0, source := 8, core := f.core, tid := f.tid, lid := lid, part := f.part,
                       epc := f.pc, eaddr := f.va, tag := match l with | some l => l.tag | none => 0 }
  let s1 := logRecord s (errRecord s e)
  match taskHome s1 f.serial f.tid with
  | some c => mapStarted s1 c f.serial f.tid (fun t => { t with lost := some (t.lost.getD f.va) }) id
  | none => s1

/-- The error response to a store on its way: the store is no longer outstanding. -/
def refuseFabric (s : State) (f : FabricStore) : State :=
  loseStore { s with
    fabric := s.fabric.filter (fun g => g.num ≠ f.num)
    pending := s.pending.filter (fun e => e ≠ .fabricStoreAcknowledgement f.num ∧ e ≠ .fabricErrorResponse f.num) } f

/-- FABRIC_ERROR_RESPONSE: the answer may take the place of an acknowledgement. -/
def execFabricErrorResponse (num : Nat) (s : State) : Out :=
  match s.fabric.find? (fun f => f.num = num) with
  | some f => .next (refuseFabric s.fresh f)
  | none => .next s

/-- FABRIC_STORE_ACKNOWLEDGEMENT: releases at pod scope no longer wait for the store (R250). -/
def execFabricStoreAcknowledgement (num : Nat) (s : State) : Out :=
  takeEvent (.fabricStoreAcknowledgement num) s (fun s => { s with fabric := s.fabric.filter (fun f => f.num ≠ num) })

/-- STATION_DOWN: the requests outstanding at it complete with error responses (R406). -/
def execStationDown (station : Nat) (s : State) : Out :=
  if station < 24 then
    let lost := s.fabric.filter (fun f => f.station = station)
    .next (lost.foldl refuseFabric { s.fresh with stationsDown := setAdd s.stationsDown station })
  else .next s.fresh

/-- STATION_UP. -/
def execStationUp (station : Nat) (s : State) : Out := .next { s.fresh with stationsDown := setDrop s.stationsDown station }

end Sys2Proof.Machine
end

