-- ==== Sys2Proof/Machine/HostEvents.lean ====
section
/-! DEFINITION. Accesses of the host through its HDM windows (R404, R405, R230, R300) and attestation (R408). -/

namespace Sys2Proof.Machine

/-! ### The window (R402, R404) -/

/-- Bytes of a partition's HDM window: HDMLOG is 30 to 44, or there is none (R402). -/
def hdmSize (s : State) (part : Nat) : Nat :=
  let l := bits (partWord s part 14) 5 0
  if 30 ≤ l ∧ l ≤ 44 then 2 ^ l else 0

/-- Whether the device serves host accesses to an offset of a window: not in recovery (R407), nor with LIVE = 0 (R402). -/
def hostServes (s : State) (part off : Nat) : Bool :=
  !s.recovery && decide (part < 64) && partLive s part && decide (off < hdmSize s part)

/-- The line a host access goes to, translated by ROOT. -/
def hostTarget (s : State) (part off : Nat) (need : Need) : Res (Nat × Use) :=
  match translate s part false (BitVec.ofNat 64 off) need with
  | .error e => .error e
  | .ok (.peer ..) => .error (exc .protection 9 (BitVec.ofNat 64 off))
  | .ok (.phys pa u) => .ok (pa, u)

/-- The error record of a host access, with SOURCE 5 (R404, R230). -/
def hostRecord (s : State) (part : Nat) (e : Exc) : State :=
  report s { code := e.cause.code, sub := e.sub, source := 5, part := part, eaddr := e.addr }

/-- A line is granted to the host. Of 2^20 lines the oldest is back-invalidated first (R405). -/
def grantHost (s : State) (line : Nat) : State :=
  if s.snoop.contains line then s
  else { s with snoop := (if s.snoop.length < 1048576 then s.snoop else s.snoop.tail) ++ [line] }

/-- HOST_MEM_READ: what the host receives lies outside the device. -/
def execHostMemRead (part off : Nat) (s0 : State) : Out :=
  let s := s0.fresh
  if !hostServes s part off then .next s
  else match hostTarget s part off Need.read with
    | .error e => .next (hostRecord s part e)
    | .ok (pa, u) => .next (grantHost (markUsed s u false) (pa / 128))

/-! ### Writes -/

/-- The byte a host write holds for an address, by its byte enables. -/
def enabledByte (data : List (Option Byte)) (k : Nat) : Option Byte := (data[k]?).getD none

/-- One write of the host, party 2,048 (R240): it ends reservations and leaves what the host holds. -/
def hostStore (s : State) (pa : Nat) (bytes : List Byte) : State :=
  { homeWrite (s.dropOwnResv pa bytes.length) pa bytes with snoop := s.snoop }

/-- The enabled bytes of one 8-byte word at a physical address; `k` is where it begins in the data. -/
def hostWord (data : List (Option Byte)) (s : State) (pa : Nat) (k : Int) : State :=
  let b (j : Nat) : Option Byte := if 0 ≤ k + j then enabledByte data (k + j).toNat else none
  let bs := (List.range 8).filterMap b
  if bs.length = 8 then hostStore s pa bs
  else (List.range 8).foldl (fun s j => match b j with | some v => hostStore s (pa + j) [v] | none => s) s

/-- The offsets in its half-line that a write enables; data that would lie past the half-line is not part of the write. -/
def enabledOffsets (off : Nat) (data : List (Option Byte)) : List Nat :=
  (List.range (min data.length (64 - off % 64))).filterMap (fun k => (enabledByte data k).map (fun _ => off % 64 + k))

/-- The slots a tail store publishes, if each translates to a local leaf with WRITE (R300). -/
def tailSlots (s : State) (part q : Nat) : Nat → Option (List (Nat × Nat))
  | 0 => some []
  | n + 1 =>
    match tailSlots s part q n with
    | none => none
    | some l =>
      let va := slotVa q (qTail q + n)
      match slotPhys s part (partPriv s part) Need.write q va with
      | .ok p => some (l ++ [(va, p.headD 0 / 8)])
      | .error _ => none

/-- A write of T' to the TAIL of a launch queue, where it is a validated tail store (R300): the d records are Sluice's. -/
def tailStore (s : State) (part qpa tail : Nat) : Option State :=
  let q := readQcb s qpa
  let d := (tail + 2 ^ 32 - qTail q) % 2 ^ 32
  if (qcbFailure s qpa).isSome ∨ qMode q ≠ 4 ∨ d = 0 ∨ qFree q < d then none
  else match tailSlots s part q d with
    | none => none
    | some l =>
      let s1 := writeQcb s qpa (putField (putField q 159 128 tail) 191 160 (qFree q - d))
      let s2 := l.foldl (fun s x => ({ s with full := setAdd s.full x.2 }).touch part x.1 Need.write false) s1
      let s3 := (List.range d).foldl (fun s _ => wakeDequeuer s qpa) s2
      some (if s3.pending.contains (.launchDequeue part) then s3 else { s3 with pending := s3.pending ++ [Event.launchDequeue part] })

/-- The launch queue of a partition whose control block lies at a physical address (R402). -/
def launchQueueAt (s : State) (part qpa : Nat) : Option Word :=
  ((List.range 8).map (fun p => partWord s part (1 + p))).find? (fun va => decide (va ≠ 0) && decide (physOf s part va.toNat = some qpa))

/-- A write to the TAIL of a launch queue that fails R287: the sub-code and the block's address (R287, R300). -/
def tailFailure (s : State) (part qpa : Nat) : Option (Nat × Word) :=
  match launchQueueAt s part qpa, qcbFailure s qpa with
  | some va, some k => some (k, va)
  | _, _ => none

/-- Whether a write touches an object granule. -/
def hostTouchesObject (s : State) (half : Nat) (offs : List Nat) : Bool := offs.any (fun o => s.objects.contains ((half + o) / 16))

/-- A host write: a tail store, a write that is discarded and reported, or bytes at their points of order (R404, R230). -/
def hostWrite (part off : Nat) (data : List (Option Byte)) (s : State) : State :=
  if !hostServes s part off then s
  else match hostTarget s part off Need.write with
    | .error e => hostRecord s part e
    | .ok (pa, u) =>
      let half := pa / 64 * 64
      let offs := enabledOffsets off data
      let s1 := markUsed s u true
      let isTail := decide (offs = [16, 17, 18, 19])
      let tail := if isTail then
          match tailFailure s1 part half with
          | some x => some (reportCorrupt s part 0 5 x.1 x.2)
          | none => tailStore s1 part half (leNat ((List.range 4).map (fun j => (enabledByte data (16 + j - off % 64)).getD 0)))
        else none
      match tail with
      | some s2 => s2
      | none =>
        if hostTouchesObject s1 half offs then hostRecord s part (exc .objectOverwrite 0 (BitVec.ofNat 64 off))
        else
          let kept := data.take (64 - off % 64)
          (List.range 8).foldl (fun s w => hostWord kept s (half + 8 * w) ((8 * w : Nat) - (off % 64 : Nat))) s1

/-- HOST_MEM_WRITE. -/
def execHostMemWrite (part off : Nat) (data : List (Option (BitVec 8))) (s : State) : Out := .next (hostWrite part off data s.fresh)

/-- HOST_TAIL_STORE: four bytes at the host offset of the TAIL field. -/
def execHostTailStore (part off : Nat) (tail : BitVec 32) (s : State) : Out :=
  .next (hostWrite part off ((natBytes 4 tail.toNat).map some) s.fresh)

/-! ### Attestation (R408) -/

/-- ATTESTATION_REQUEST: the root takes at most four; a fifth meets a busy mailbox. -/
def execAttestationRequest (nonce : BitVec 256) (s : State) : Out :=
  .next (if s.attest.length < 4 then { s.fresh with attest := s.attest ++ [nonce] } else s.fresh)

/-- The digest of a partition record, as it stands when the report is signed (R402, R408). -/
def recordDigest (s : State) (part : Nat) : BitVec 512 := shake64 (memReadBytes s.ctl (0x3F0000000000 + 0x2000 * part) 128)

/-- The report of a request: nonce, peer number, the digests of the three images verified at boot, a digest of every partition record,
and the signature, whose bytes are the identity key's (log entry 9). -/
def attestationReport (s : State) (nonce : BitVec 256) : List Byte :=
  natBytes 32 nonce.toNat ++ natBytes 2 (ownPeer s) ++ s.images.toList.flatMap (fun d => natBytes 64 d.toNat)
    ++ (List.range 64).flatMap (fun p => natBytes 64 (recordDigest s p).toNat) ++ (List.range 29792).map (Config.signatureByte s.free)

/-- ATTESTATION_SIGNED. -/
def execAttestationSigned (s : State) : Out :=
  match s.attest with
  | [] => .next s
  | n :: rest => .next { s.fresh with attest := rest, reports := s.reports ++ [attestationReport s n] }

end Sys2Proof.Machine
end

