-- ==== Sys2Proof/Machine/Invalidation.lean ====
section
/-! DEFINITION. The `tlb` functions: invalidation and probe (R325, R326). -/

namespace Sys2Proof.Machine

/-- A partition operand: bits [63:6] are zero (R325). -/
def partOperand (w : Word) : Res Nat := if bits w 63 6 ≠ 0 then .error (exc .bounds 0 w) else .ok (bits w 5 0)

/-- Every store of the package that has left its task reaches its point of order. -/
def drainEverywhere (s : State) : State :=
  ((s.others.filter (fun p => !p.core.sbuf.isEmpty)).map (fun p => p.id)).foldl (fun s c => s.onCore c State.drain) s.publish

/-- An invalidation completes when every access under the old entries has reached its point of order (R326). -/
def invalidate (f : State → State) (s : State) : Out :=
  let s1 := drainEverywhere s
  if s1.fabric.isEmpty then complete 4 1 (f (acceptAll s1 s1.durable)) else waitHere s1

/-- What tlbi.va removes (R326, R330). -/
def dropVa (part va : Nat) (s : State) : State :=
  { s with
    tlb := s.tlb.filter (fun e => !e.covers part va)
    walkCache := s.walkCache.filter (fun w => w.part ≠ part)
    migration := s.migration.filter (fun c => !(c.part = part && c.region = va / 65536)) }

/-- What tlbi.part removes: GLOBAL entries survive (R317, R326). -/
def dropPartition (part : Nat) (s : State) : State :=
  { s with
    tlb := s.tlb.filter (fun e => e.part ≠ part || e.pte.getLsbD 8)
    walkCache := s.walkCache.filter (fun w => w.part ≠ part) }

/-- TLBI_VA. -/
def execTlbiVa (a b : BitVec 5) (s : State) : Out :=
  whenPrivileged s (withRes s (partOperand (s.x b)) fun part => invalidate (dropVa part (s.x a).toNat) s)

/-- TLBI_PART. -/
def execTlbiPart (a : BitVec 5) (s : State) : Out :=
  whenPrivileged s (withRes s (partOperand (s.x a)) fun part => invalidate (dropPartition part) s)

/-- TLBI_ALL. -/
def execTlbiAll (s : State) : Out := whenPrivileged s (invalidate (fun s => { s with tlb := [], walkCache := [] }) s)

/-- The result of a probe: the leaf with its page size, or twice the sub-code (R326). -/
def probeValue : Except WalkFail Leaf → Word
  | .ok l => BitVec.ofNat 64 (l.pte.toNat % 2 ^ 62 + l.size * 2 ^ 62)
  | .error f => BitVec.ofNat 64 (2 * f.sub)

/-- PROBE: reads every level from memory, fills and marks nothing, raises no translation cause. -/
def execProbe (d a b : BitVec 5) (s : State) : Out :=
  whenPrivileged s (withRes s (partOperand (s.x b)) fun part => complete 4 1 (s.setX d (probeValue (walkFresh s part (s.x a)))))

end Sys2Proof.Machine
end

