-- ==== Sys2Proof/Machine/KvGather.lean ====
section
/-! DEFINITION. Gathering rows through block-table entries (R355-R357). -/

namespace Sys2Proof.Machine

/-- What ox6 names at entry (R355). -/
structure Gather where
  layer : Nat
  head0 : Nat
  nheads : Nat
  headBytes : Nat
  pos : Nat
deriving DecidableEq, Repr

def gatherOf (w : Word) : Gather := ⟨bits w 7 0, bits w 15 8, bits w 23 16, bits w 39 24, bits w 60 40⟩

/-- Bytes of a token. -/
def Gather.span (g : Gather) : Nat := g.nheads * g.headBytes
/-- Tokens gathered (R356). -/
def Gather.tokens (g : Gather) (group : Nat) : Nat := group * 512 / g.span

/-- Entry j of the group of entries. -/
def Ctx.entryOf (c : Ctx) (v j : Nat) : Entry := c.elem v 64 (2 * j) + 2 ^ 64 * c.elem v 64 (2 * j + 1)

/-- Forms of R355: the version check, and the repair check. -/
inductive GatherForm where
  | current | stale | repaired | any
deriving DecidableEq, Repr

/-- What an entry's checks answer: its descriptor, or the layer it waits for. -/
inductive Checked where
  | pass (d : Desc)
  | park (d : Desc)
deriving DecidableEq, Repr

/-- The checks of one entry that holds a gathered token, in the order of R356. -/
def gatherCheck (s : State) (form : GatherForm) (p : Pool) (g : Gather) (e : Entry) : Res Checked :=
  let q := s.party
  match entryDescriptor s q p e 0 Need.object with
  | .error x => .error x
  | .ok d =>
    if entryPage e ≠ d.page then .error (exc .staleBlock 3 0)
    else if !layerOk p g.layer then .error (exc .bounds 21 d.va)
    else if rowBytes p d.efmt < (g.head0 + g.nheads) * g.headBytes then .error (exc .bounds 22 d.va)
    else
      let version : Res Nat := if form = .stale ∨ d.src = 0 then .ok d.ver else versionOf s q p d.src Need.object
      match version with
      | .error x => .error x
      | .ok v =>
        if v ≠ d.ver then .error (exc .staleBlock 1 d.va)
        else if d.rtl < g.layer then
          match form with
          | .any => .ok (.pass d)
          | .repaired =>
            if d.state = 3 then (if s.inService then .error (exc .staleBlock 2 d.va) else .ok (.park d))
            else if d.state = 2 then .error (exc .staleBlock 2 d.va) else .ok (.pass d)
          | _ => if d.state = 2 ∨ d.state = 3 then .error (exc .staleBlock 2 d.va) else .ok (.pass d)
        else .ok (.pass d)

/-- A gathered token: its number, and the address of its bytes. -/
abbrev TokenAt := Nat × Word

/-- Tokens of an entry that are gathered: positions lo to hi - 1, the entry's first token at position `first`. -/
def entryTokens (p : Pool) (g : Gather) (kv : Nat) (e : Entry) (d : Desc) (first lo hi : Nat) : List TokenAt :=
  (List.range (hi - lo)).map (fun k =>
    (lo + k - g.pos, BitVec.ofNat 64 (rowAddr p (entryPage e) d.efmt g.layer kv (entryStart e + (lo + k - first)) + g.head0 * g.headBytes)))

/-- The tokens of the entries from j on, every entry checked before any byte is read; or the descriptor to wait for. -/
def gatherPlan (s : State) (form : GatherForm) (p : Pool) (g : Gather) (kv ve count : Nat) : Nat → Nat → Nat → Res (List TokenAt ⊕ Desc)
  | 0, _, _ => .ok (.inl [])
  | n + 1, j, first =>
    let e := s.ctx.entryOf ve j
    let next := first + entryNtok e
    let lo := max first g.pos
    let hi := min next (g.pos + count)
    if lo < hi then
      match gatherCheck s form p g e with
      | .error x => .error x
      | .ok (.park d) => .ok (.inr d)
      | .ok (.pass d) =>
        match gatherPlan s form p g kv ve count n (j + 1) next with
        | .error x => .error x
        | .ok (.inr d) => .ok (.inr d)
        | .ok (.inl l) => .ok (.inl (entryTokens p g kv e d first lo hi ++ l))
    else gatherPlan s form p g kv ve count n (j + 1) next

/-- Bytes of a span, line by line; a line already fetched does not count again (R330). -/
def spanSeen : Nat → State → List Nat → Word → Nat → Res (List Byte × State × List Nat)
  | 0, s, seen, _, _ => .ok ([], s, seen)
  | fuel + 1, s, seen, va, n =>
    if n = 0 then .ok ([], s, seen)
    else
      let c := min n (128 - va.toNat % 128)
      match readSeen s seen va c Need.read with
      | .error e => .error e
      | .ok (bs, s1, seen1) =>
        match spanSeen fuel s1 seen1 (va + BitVec.ofNat 64 c) (n - c) with
        | .error e => .error e
        | .ok (cs, s2, seen2) => .ok (bs ++ cs, s2, seen2)

/-- The Peer fault of a token's bytes, which stands before every fault of reading them (R84). -/
def spanPeer (s : State) (span : Nat) (t : TokenAt) : Option Exc :=
  (List.range (span / 128 + 2)).findSome? (fun k =>
    let va : Word := if k = 0 then t.2 else BitVec.ofNat 64 ((t.2.toNat / 128 + k) * 128)
    if va.toNat < t.2.toNat + span then
      match translate s s.part s.privileged va Need.read with
      | .error e => if e.cause = .peerFault then some e else none
      | .ok _ => none
    else none)

/-- The group's contents: every token's bytes in its place, zero elsewhere. -/
def gatherBytes (span : Nat) : List TokenAt → State → List Nat → Nat → Res (Nat × State × List Nat)
  | [], s, seen, acc => .ok (acc, s, seen)
  | (u, va) :: l, s, seen, acc =>
    match spanSeen span s seen va span with
    | .error e => .error e
    | .ok (bs, s1, seen1) => gatherBytes span l s1 seen1 (acc + leNat bs * 2 ^ (8 * span * u))

/-- The pages a gather's checks read are marked: the pool header, and every checked entry's descriptor and version (R320). -/
def gatherReads (form : GatherForm) (p : Pool) (es : List Entry) (s : State) : State :=
  let q := s.party
  es.foldl (fun s e => match getDesc s q p (entryDesc e) Need.object with
    | .ok d =>
      let s1 := s.reads q d.va 16
      if form = .stale ∨ d.src = 0 then s1 else s1.reads q (BitVec.ofNat 64 (p.svtBase + d.src)) 1
    | .error _ => s) (s.reads q p.va 64)

/-- Entries of the group that hold a gathered token. -/
def gatheredEntries (s : State) (ve from_ count : Nat) : Nat → Nat → Nat → List Entry
  | 0, _, _ => []
  | n + 1, j, first =>
    let e := s.ctx.entryOf ve j
    let rest := gatheredEntries s ve from_ count n (j + 1) (first + entryNtok e)
    if max first from_ < min (first + entryNtok e) (from_ + count) then e :: rest else rest

/-- The kind 10 token of a descriptor and a layer (R366). -/
def repairToken (va : Word) (layer : Nat) : Word := BitVec.ofNat 64 (bits va 51 4 + layer % 256 * 2 ^ 48 + 10 * 2 ^ 60)

/-- PARK: the task waits for the descriptor's repair, its gang disbanded (R357). -/
def parkOnRepair (s : State) (d : Desc) (layer : Nat) : State :=
  let s1 := disband { s with ctx := { s.ctx with vstart := 0 } } s.cur 2 3
  match s1.core.run.task with
  | none => s1
  | some t =>
    let tok := repairToken d.va layer
    let w : Wait := { kind := .repair, reg := 0, size := 0, code := [], tokens := [tok], t0 := s1.cyc, since := s1.cyc, which := 0, err := none, timedOut := false, isOver := false, till := 0, retry := s1.cyc + 4096, bytes := fullRecordBytes s1.ctx }
    match physOf s1 t.part d.va.toNat with
    | some pa => waitOn s1 t w (.token tok) pa false
    | none => s1

/-- The gather after its entry checks. -/
def gather (form : GatherForm) (d : Nat) (g : Gather) (base : Word) (kv ve : Nat) (s : State) : Out :=
  let group := s.ctx.group
  let fail (e : Exc) (s : State) : Out := raise { s with ctx := { s.ctx with vstart := 0 } } e
  match s.strike .address with
  | some x => fail (exc .shadowMismatch 1 0) (s.met x)
  | none =>
  if misalignedAt base 64 then fail (exc .misaligned 0 base) s
  else match getPool s s.party base Need.object with
    | .error e => fail e s
    | .ok p =>
      match gatherPlan s form p g kv ve (g.tokens group) (s.ctx.vl.toNat / 2) 0 0 with
      | .error e => fail e s
      | .ok (.inr k) => .next (parkOnRepair (s.reads s.party k.va 16) k g.layer)
      | .ok (.inl l) =>
        match l.findSome? (spanPeer s g.span) with
        | some e => fail e s
        | none =>
        match gatherBytes g.span l (gatherReads form p (gatheredEntries s ve g.pos (g.tokens group) (s.ctx.vl.toNat / 2) 0 0) s) [] 0 with
        | .error e => fail e s
        | .ok (v, s1, _) =>
          vectorDone (s.ctx.wellsRead [(ve, group)]) (s.ctx.vl.toNat * group) (setGroupBits s1.ctx d group v, Flags.none) s1

/-- kvg: entry checks of R355, then the gather. -/
def kvGather (form : GatherForm) (d : BitVec 6) (b : BitVec 5) (e : BitVec 6) (m : BitVec 1) (word : Nat) (s : State) : Out :=
  let c := s.ctx
  let o6 := c.getOx 6
  let g := gatherOf o6
  whenOk (s.hasOx && decide (c.sew = 64) && decide (c.vl.toNat % 2 = 0) && decide (c.vl.toNat ≠ 0) && decide (bits o6 63 61 = 0)
      && decide (g.span ≠ 0) && decide (g.span % 8 = 0) && decide (g.span ≤ c.group * 512)
      && groupHere s d c.group && groupHere s e c.group && disjointGroups (c.dest d) (c.dest e)) word s
    (let o : VOp := { pred := 0, pinv := false, sources := [c.table e], dests := [c.dest d], whole := true }
     if c.destBound o then raise s (exc .boundRegisterAccess 0 0)
     else if !c.anyActive o then vectorDone [] 1 (c, Flags.none) s
     else wellsReady (c.wellsRead [(e.toNat, c.group)]) s fun s =>
       let l := landSources o 0 c.vl.toNat o.sources s
       match l.2 with
       | some (_, x) => raise { l.1 with ctx := { l.1.ctx with vstart := 0 } } x
       | none => gather form d.toNat g (s.x b) m.toNat e.toNat l.1)

def execKvg (d : BitVec 6) (b : BitVec 5) (e : BitVec 6) (m : BitVec 1) (s : State) : Out := kvGather .current d b e m (encKvg d b e m) s
def execKvgStale (d : BitVec 6) (b : BitVec 5) (e : BitVec 6) (m : BitVec 1) (s : State) : Out := kvGather .stale d b e m (encKvgStale d b e m) s
def execKvgRep (d : BitVec 6) (b : BitVec 5) (e : BitVec 6) (m : BitVec 1) (s : State) : Out := kvGather .repaired d b e m (encKvgRep d b e m) s
def execKvgAny (d : BitVec 6) (b : BitVec 5) (e : BitVec 6) (m : BitVec 1) (s : State) : Out := kvGather .any d b e m (encKvgAny d b e m) s

end Sys2Proof.Machine
end

