-- ==== Sys2Proof/Machine/KvTables.lean ====
section
/-! DEFINITION. The kv instructions (R347-R354): pools, references, appending, splicing, requantisation, source versions. Each is
one operation at the points of order of its objects; the task's earlier stores reach theirs first. -/

namespace Sys2Proof.Machine

/-! ### Pools (R349) -/

/-- The template's fields keep R340 and R341. -/
def poolTemplateOk (p : Pool) : Bool :=
  p.clean && decide (p.descBase % 16 = 0) && decide (p.svtBase % 16 = 0) && decide (1 ≤ p.ndesc)
    && decide (4 ≤ p.svtLog) && decide (p.svtLog ≤ 24)
    && decide (p.layer0 + p.nlm1 ≤ 255) && decide (2 ≤ p.efmt) && decide (p.efmt ≤ 10)

/-- Every page from a VA over n bytes takes an object. -/
def pagesTake (s : State) (q : Party) (va : Nat) : Nat → Res Unit
  | 0 => .ok ()
  | n + 1 =>
    match objectAt s q (BitVec.ofNat 64 va) Need.change with
    | .error e => .error e
    | .ok _ => pagesTake s q (va + 4096) n

/-- Pages that n bytes from a VA touch. -/
def pageCount (va n : Nat) : Nat := (va + n - 1) / 4096 + 1 - va / 4096

/-- Descriptors i to i + k - 1 of n become FREE, each linking to the next (R349). -/
def chainFree (q : Party) (p : Pool) (n : Nat) : Nat → Nat → State → State
  | 0, _, s => s
  | k + 1, i, s =>
    let next := if i + 1 < n then i + 1 else 0xFFFFFF
    chainFree q p n k (i + 1) (setObject (putDesc s q (descVa p i) (descValue 0 next 0 0 0 0 0 0)) q (descVa p i) false)

/-- k granules from a VA are zeroed and take object bits. -/
def zeroGranules (q : Party) : Nat → Nat → State → State
  | 0, _, s => s
  | k + 1, va, s => zeroGranules q k (va + 16) (setObject (writeObject s q (BitVec.ofNat 64 va) 16 0) q (BitVec.ofNat 64 va) true)

/-- Object bits over the four granules of a pool header. -/
def headerObjects (s : State) (q : Party) (va : Word) : State :=
  [0, 16, 32, 48].foldl (fun s k => setObject s q (va + BitVec.ofNat 64 k) true) s

/-- Build a pool from a template that passed its checks. -/
def buildPool (s : State) (q : Party) (va : Word) (old raw : Nat) : State :=
  let p : Pool := ⟨va, putField (putField (putField raw 175 152 (fieldOf raw 151 128)) 199 176 0) 271 256 (fieldOf old 271 256 + 1)⟩
  let s1 := chainFree q p p.ndesc p.ndesc 0 s
  let s2 := zeroGranules q (2 ^ p.svtLog / 16) p.svtBase s1
  headerObjects (writeObject s2 q va 64 p.raw) q va

/-- KVALLOC_INIT: status 2 for a header that is an object, 3 for a bad template, else 0 (R349). -/
def execKvallocInit (d a b : BitVec 5) (s0 : State) : Out :=
  let s := s0.publish
  let q := s.party
  let va := s.x a
  if misalignedAt va 64 then raise s (exc .misaligned 0 va)
  else if misalignedAt (s.x b) 64 then raise s (exc .misaligned 0 (s.x b))
  else withRes s (objectAt s q va Need.change) fun pa =>
    withRes s (readVa s (s.x b) 64 Need.read) fun r =>
      let raw := leNat r.1
      let p : Pool := ⟨va, raw⟩
      if touchesObject s pa 64 then complete 4 1 ((r.2.reads q va 64).setX d 2)
      else if !poolTemplateOk p then complete 4 1 ((r.2.reads q va 64).setX d 3)
      else if touchesPoison s pa 64 then raise s (consumed s pa 64 va)
      else withRes s (pagesTake s q p.descBase (pageCount p.descBase (16 * p.ndesc))) fun _ =>
        withRes s (pagesTake s q p.svtBase (pageCount p.svtBase (2 ^ p.svtLog))) fun _ =>
          complete 4 1 ((buildPool r.2 q va (physLe s pa 64) raw).setX d 0)

/-- Descriptor of a new page of its sequence (R349). -/
def nativeDesc (p : Pool) (page : Word) : Nat := descValue 1 0 0 0xFF 1 p.efmt (page.toNat / 4096) 0

/-- KVALLOC. -/
def execKvalloc (d a b : BitVec 5) (s0 : State) : Out :=
  let s := s0.publish
  if misalignedAt (s.x a) 64 then raise s (exc .misaligned 0 (s.x a))
  else if misalignedAt (s.x b) 4096 then raise s (exc .misaligned 0 (s.x b))
  else withRes s (getPool s s.party (s.x a) Need.change) fun p =>
    if p.freeCnt = 0 then complete 4 1 ((s.reads s.party (s.x a) 64).setX d (BitVec.allOnes 64))
    else withRes s (allocDesc s s.party p (nativeDesc p (s.x b))) fun r => complete 4 1 (r.1.setX d (BitVec.ofNat 64 r.2.2))

/-- The pool and the descriptor that kvref and kvunref name. -/
def withDesc (a b : BitVec 5) (s : State) (k : State → Pool → Desc → Out) : Out :=
  if misalignedAt (s.x a) 64 then raise s (exc .misaligned 0 (s.x a))
  else withRes s (getPool s s.party (s.x a) Need.change) fun p =>
    withRes s (getDesc s s.party p (s.x b).toNat Need.change) fun e => k ((s.reads s.party (s.x a) 64).reads s.party e.va 16) p e

/-- KVREF (R350). -/
def execKvref (d a b : BitVec 5) (s0 : State) : Out :=
  let s := s0.publish
  withDesc a b s fun s _ e =>
    if e.refcnt = 65535 then complete 4 1 (s.setX d 0)
    else complete 4 1 ((putDesc s s.party e.va (putField e.raw 15 0 (e.refcnt + 1))).setX d (BitVec.ofNat 64 (e.refcnt + 1)))

/-- KVUNREF (R350). -/
def execKvunref (d a b : BitVec 5) (s0 : State) : Out :=
  let s := s0.publish
  withDesc a b s fun s p e =>
    let r := releaseDesc s s.party p e
    complete 4 1 (r.1.setX d (BitVec.ofNat 64 r.2.2))

/-! ### Source versions (R354) -/

/-- A source id of a pool (R348). -/
def sourceOk (p : Pool) (src : Nat) : Bool := decide (1 ≤ src) && decide (src < 2 ^ p.svtLog)

/-- kvsrc: the pool and the id, then the version, old or new; a write is a release at .pkg. -/
def sourceVersion (d a b : BitVec 5) (new : Nat → Option Nat) (s0 : State) : Out :=
  let s := s0.publish
  let w := s.x b
  if misalignedAt (s.x a) 64 then raise s (exc .misaligned 0 (s.x a))
  else if bits w 63 32 ≠ 0 then raise s (exc .bounds 26 w)
  else withRes s (getPool s s.party (s.x a) Need.change) fun p =>
    if !sourceOk p (bits w 23 0) then raise s (exc .bounds 23 w)
    else withRes s (versionOf s s.party p (bits w 23 0) Need.change) fun v =>
      let s := (s.reads s.party (s.x a) 64).reads s.party (BitVec.ofNat 64 (p.svtBase + bits w 23 0)) 1
      match new v with
      | none => complete 4 1 (s.setX d (BitVec.ofNat 64 v))
      | some n => complete 4 1 ((writeObject s s.party (BitVec.ofNat 64 (p.svtBase + bits w 23 0)) 1 n).setX d (BitVec.ofNat 64 n))

def execKvsrcGet (d a b : BitVec 5) (s : State) : Out := sourceVersion d a b (fun _ => none) s
def execKvsrcSet (d a b : BitVec 5) (s : State) : Out := sourceVersion d a b (fun _ => some (bits (s.x b) 31 24)) s
def execKvsrcBump (d a b : BitVec 5) (s : State) : Out := sourceVersion d a b (fun v => some ((v + 1) % 256)) s

/-! ### Block tables -/

/-- Bytes of a table can be written: rights, no fabric peer, no object (R230, R348). -/
def tableWritable (s : State) (q : Party) (va : Word) (n : Nat) : Res Unit :=
  match objectAt s q va Need.change with
  | .error e => .error e
  | .ok pa => if touchesObject s pa n then .error (exc .objectOverwrite 0 va) else .ok ()

/-- Entries j to j + n - 1 and the header can be written. -/
def entriesWritable (s : State) (q : Party) (t : Table) (j : Nat) : Nat → Res Unit
  | 0 => tableWritable s q t.va 16
  | n + 1 =>
    match tableWritable s q (entryVa t j) 16 with
    | .error e => .error e
    | .ok _ => entriesWritable s q t (j + 1) n

/-- Write entries from j (R345). -/
def putEntries (q : Party) (t : Table) : Nat → List Entry → State → State
  | _, [], s => s
  | j, e :: l, s => putEntries q t (j + 1) l (writeObject s q (entryVa t j) 16 e)

/-- Write NENT. -/
def putCount (s : State) (q : Party) (t : Table) (n : Nat) : State := writeObject s q t.va 4 n

/-- The table and pool of an instruction on a block table. -/
def withTable (a : BitVec 5) (s : State) (k : State → Table → Pool → Out) : Out :=
  withRes s (getTable s s.party (s.x a) Need.change) fun t =>
    withRes s (getPool s s.party t.pool Need.change) fun p => k ((s.reads s.party t.va 16).reads s.party t.pool 64) t p

/-! ### kvapp (R351) -/

/-- A new page opens: its descriptor and the entry NENT. -/
def openPage (d b : BitVec 5) (t : Table) (p : Pool) (s : State) : Out :=
  let page := s.x b
  if page = 0 ∨ t.nent = t.cap ∨ p.freeCnt = 0 then complete 4 1 (s.setX d 0x100)
  else if misalignedAt page 4096 then raise s (exc .misaligned 0 page)
  else withRes s (entriesWritable s s.party t t.nent 1) fun _ =>
    withRes s (allocDesc s s.party p (nativeDesc p page)) fun r =>
      let s1 := putEntries s.party t t.nent [entryValue (page.toNat / 4096) 0 1 0 0 r.2.2] r.1
      complete 4 1 ((putCount s1 s.party t (t.nent + 1)).setX d 0)

/-- KVAPP. -/
def execKvapp (d a b : BitVec 5) (s0 : State) : Out :=
  let s := s0.publish
  let q := s.party
  if misalignedAt (s.x a) 16 then raise s (exc .misaligned 0 (s.x a))
  else withTable a s fun s t p =>
    if t.nent = 0 then openPage d b t p s
    else
      let at_ := entryVa t (t.nent - 1)
      withRes s (getEntry s q t (t.nent - 1) Need.change) fun e =>
        withRes s (entryChecked s q p e at_ Need.change) fun k =>
          let s := (s.reads q at_ 16).reads q k.va 16
          if entryStart e + entryNtok e = p.ptok then openPage d b t p s
          else if k.state = 2 ∨ k.state = 3 then complete 4 1 (s.setX d 0x200)
          else if 1 < k.refcnt then raise s (exc .copyOnWrite 0 at_)
          else withRes s (tableWritable s q at_ 16) fun _ =>
            complete 4 1 ((writeObject s q at_ 16 (putField e 52 46 (entryNtok e + 1))).setX d
              (BitVec.ofNat 64 (entryStart e + entryNtok e)))

/-! ### kvspl (R352) -/

/-- A page word of a splice record. -/
structure PageWord where
  page : Nat
  start : Nat
  ntok : Nat
  src : Nat
  ver : Nat
deriving DecidableEq, Repr

/-- Page word k of a record, with its checks (R352). -/
def pageWord (s : State) (q : Party) (p : Pool) (rec : Word) (k : Nat) : Res PageWord :=
  let va := rec + BitVec.ofNat 64 (16 * (k + 1))
  match readObject s q va 16 Need.object with
  | .error e => .error e
  | .ok v =>
    let w : PageWord := ⟨fieldOf v 39 0, fieldOf v 45 40, fieldOf v 52 46, fieldOf v 76 53, fieldOf v 84 77⟩
    if fieldOf v 127 85 ≠ 0 ∨ w.ntok = 0 ∨ 64 < w.ntok then .error (exc .bounds 16 va)
    else if p.ptok < w.start + w.ntok then .error (exc .bounds 17 va)
    else if !sourceOk p w.src then .error (exc .bounds 23 va)
    else .ok w

/-- Page words from k on. -/
def pageWords (s : State) (q : Party) (p : Pool) (rec : Word) (k : Nat) : Nat → Res (List PageWord)
  | 0 => .ok []
  | n + 1 =>
    match pageWord s q p rec k with
    | .error e => .error e
    | .ok w => match pageWords s q p rec (k + 1) n with
      | .error e => .error e
      | .ok l => .ok (w :: l)

/-- The splice record: POS and its page words. -/
def spliceRecord (s : State) (q : Party) (p : Pool) (rec : Word) : Res (Nat × List PageWord) :=
  match readObject s q rec 16 Need.object with
  | .error e => .error e
  | .ok v =>
    let n := fieldOf v 37 32
    if fieldOf v 127 38 ≠ 0 ∨ n = 0 ∨ 32 < n then .error (exc .bounds 26 rec)
    else match pageWords s q p rec 0 n with
      | .error e => .error e
      | .ok l => .ok (fieldOf v 31 0, l)

/-- Every entry of the table passes its checks (R348). -/
def entriesChecked (s : State) (q : Party) (p : Pool) (t : Table) : Nat → List Entry → Res Unit
  | _, [] => .ok ()
  | j, e :: l =>
    match entryChecked s q p e (entryVa t j) Need.change with
    | .error x => .error x
    | .ok _ => entriesChecked s q p t (j + 1) l

/-- The pages of descriptors read for a party are marked (R320). -/
def descsRead (q : Party) (p : Pool) (l : List Nat) (s : State) : State := l.foldl (fun s i => s.reads q (descVa p i) 16) s

/-- The entry that holds a logical position, and the offset in it. -/
def locate : List Entry → Nat → Nat → Nat × Nat
  | [], j, o => (j, o)
  | e :: l, j, o => if o < entryNtok e then (j, o) else locate l (j + 1) (o - entryNtok e)

/-- Whether some page word's version is not its source's. -/
def staleWord (s : State) (q : Party) (p : Pool) : List PageWord → Res Bool
  | [] => .ok false
  | w :: l =>
    match versionOf s q p w.src Need.object with
    | .error e => .error e
    | .ok v => if v ≠ w.ver then .ok true else staleWord s q p l

/-- New SPLICED descriptors and their entries. -/
def spliceEntries (q : Party) : List PageWord → State → Pool → Res (State × List Entry)
  | [], s, _ => .ok (s, [])
  | w :: l, s, p =>
    match allocDesc s q p (descValue 1 w.src w.ver 0 2 p.efmt w.page 0) with
    | .error e => .error e
    | .ok (s1, p1, i) =>
      match spliceEntries q l s1 p1 with
      | .error e => .error e
      | .ok (s2, es) => .ok (s2, entryValue w.page w.start w.ntok 1 0 i :: es)

/-- The entry that is split takes one more reference. -/
def addReference (s : State) (q : Party) (p : Pool) (i : Nat) : Res State :=
  match getDesc s q p i Need.change with
  | .error e => .error e
  | .ok k => .ok (putDesc s q k.va (putField k.raw 15 0 (k.refcnt + 1)))

/-- The splice itself: entries `es` of the table, entry j split at offset o > 0, or whole. -/
def splice (s : State) (q : Party) (t : Table) (p : Pool) (es : List Entry) (ws : List PageWord) (j o : Nat) : Res State :=
  let split := decide (j < es.length) && decide (0 < o)
  let e := es[j]?.getD 0
  let need := ws.length + (if split then 1 else 0)
  match entriesWritable s q t j (es.length + need - j) with
  | .error x => .error x
  | .ok _ =>
    match spliceEntries q ws s p with
    | .error x => .error x
    | .ok (s1, new) =>
      match (if split then addReference s1 q p (entryDesc e) else .ok s1) with
      | .error x => .error x
      | .ok s2 =>
        let tail := entryValue (entryPage e) (entryStart e + o) (entryNtok e - o) 0 1 (entryDesc e)
        let from_ := if split then putField e 52 46 o :: new ++ tail :: es.drop (j + 1) else new ++ es.drop j
        .ok (putCount (putEntries q t j from_ s2) q t (es.length + need))

/-- KVSPL. -/
def execKvspl (d a b : BitVec 5) (s0 : State) : Out :=
  let s := s0.publish
  let q := s.party
  if misalignedAt (s.x a) 16 then raise s (exc .misaligned 0 (s.x a))
  else if misalignedAt (s.x b) 16 then raise s (exc .misaligned 0 (s.x b))
  else withTable a s fun s t p =>
    withRes s (spliceRecord s q p (s.x b)) fun r =>
      withRes s (getEntries s q t Need.change 0 t.nent) fun es =>
        withRes s (entriesChecked s q p t 0 es) fun _ =>
          if (es.map entryNtok).sum < r.1 then raise s (exc .bounds 25 (BitVec.ofNat 64 r.1))
          else
            let s := descsRead q p (es.map entryDesc) ((s.reads q (s.x b) (16 + 16 * r.2.length)).readsTable q t t.nent)
            let at_ := locate es 0 r.1
            let need := r.2.length + (if at_.1 < es.length ∧ 0 < at_.2 then 1 else 0)
            if t.cap < t.nent + need then complete 4 1 (s.setX d 1)
            else withRes s (staleWord s q p r.2) fun stale =>
              let s := r.2.foldl (fun s w => s.reads q (BitVec.ofNat 64 (p.svtBase + w.src)) 1) s
              if stale then complete 4 1 (s.setX d 2)
              else if p.freeCnt < r.2.length then complete 4 1 (s.setX d 3)
              else withRes s (splice s q t p es r.2 at_.1 at_.2) fun s1 => complete 4 1 (s1.setX d 0)

/-! ### kvreq (R353) -/

/-- Code of element e of a row held as a number. -/
def rowCode (row w e : Nat) : Nat := row / 2 ^ (w * e) % 2 ^ w

/-- Element e of a row in a format, decoded (R341). -/
def rowValue (p : Pool) (f row e : Nat) : FVal :=
  let w := pageWidth f
  if 7 ≤ f then blockDecode f (row / 2 ^ (p.rowElems * w + 8 * (e / 32)) % 256) (rowCode row w e)
  else (floatFormat f w).val (rowCode row w e)

/-- The codes and scale bytes of a row in another format, as a number and its bytes (R166, R104, R105). -/
def convertedRow (p : Pool) (f g : Nat) (mode : RMode) (row : Nat) : List Byte :=
  let w := pageWidth g
  let n := p.rowElems
  if 7 ≤ g then
    let bs := (List.range (n / 32)).map (fun j => toBlock g ((List.range 32).map (fun i => some (rowValue p f row (32 * j + i), mode))))
    let codes := (bs.flatMap (fun b => b.codes)).foldr (fun c acc => c % 2 ^ w + 2 ^ w * acc) 0
    natBytes (n * w / 8) codes ++ bs.map (fun b => BitVec.ofNat 8 b.scale)
  else
    let gf := floatFormat g w
    natBytes (n * w / 8) ((List.range n).foldr (fun e acc => (gf.ofVal mode (rowValue p f row e)).1 % 2 ^ w + 2 ^ w * acc) 0)

/-- Store bytes of any span, line by line. -/
def writeSpan : Nat → State → Word → List Byte → Res State
  | 0, s, _, _ => .ok s
  | fuel + 1, s, va, bs =>
    if bs.isEmpty then .ok s
    else
      let c := 128 - va.toNat % 128
      match writeVa s false va (bs.take c) Need.write with
      | .error e => .error e
      | .ok s1 => writeSpan fuel s1 (va + BitVec.ofNat 64 c) (bs.drop c)

/-- Convert rows r to r + n - 1 of a page: rows lie one after another (R341). -/
def convertPage (p : Pool) (f g : Nat) (mode : RMode) (old new : Nat) : Nat → Nat → State → Res State
  | 0, _, s => .ok s
  | n + 1, r, s =>
    match readSpan .scalar (rowBytes p f) s (BitVec.ofNat 64 (old + r * rowBytes p f)) (rowBytes p f) Need.read with
    | .error e => .error e
    | .ok (bs, s1) =>
      let out := convertedRow p f g mode (leNat bs)
      match writeSpan (out.length + 1) s1 (BitVec.ofNat 64 (new + r * rowBytes p g)) out with
      | .error e => .error e
      | .ok s2 => convertPage p f g mode old new n (r + 1) s2

/-- A requantisation record: its pool, new page and format (R353). -/
def requantRecord (s : State) (q : Party) (rec : Word) : Res (Word × Nat × Nat) :=
  match readObject s q rec 32 Need.object with
  | .error e => .error e
  | .ok v =>
    if fieldOf v 255 120 ≠ 0 ∨ fieldOf v 75 64 ≠ 0 ∨ fieldOf v 119 116 < 2 ∨ 10 < fieldOf v 119 116 then .error (exc .bounds 26 rec)
    else .ok (BitVec.ofNat 64 (fieldOf v 63 0), fieldOf v 115 64, fieldOf v 119 116)

/-- Rows of a page. -/
def pageRows (p : Pool) : Nat := (p.nlm1 + 1) * 2 * p.ptok

/-- The swap: the entry is compared with the value read before the conversion. Unchanged, it takes the new page and descriptor i, and
the old descriptor loses its reference: status 0. Changed, descriptor i is freed: status 1 (R353). -/
def swapEntry (s : State) (q : Party) (p : Pool) (at_ : Word) (e : Entry) (page i : Nat) : Res (State × Nat) :=
  match readObject s q at_ 16 Need.change with
  | .error x => .error x
  | .ok v =>
    match getDesc s q p (if v = e then entryDesc e else i) Need.change with
    | .error x => .error x
    | .ok k =>
      if v = e then .ok ((releaseDesc (writeObject s q at_ 16 (putField (putField e 39 0 (page / 4096)) 87 64 i)) q p k).1, 0)
      else .ok ((releaseDesc s q p k).1, 1)

/-- The new descriptor and the converted page of an entry whose descriptor is k; the swap is the core's next access to the table. -/
def requantise (s : State) (q : Party) (p : Pool) (at_ : Word) (e : Entry) (k : Desc) (page g : Nat) : Res State :=
  match tableWritable s q at_ 16 with
  | .error x => .error x
  | .ok _ =>
    match allocDesc s q p (descValue 1 k.src k.ver k.rtl k.state g (page / 4096) 0) with
    | .error x => .error x
    | .ok (s1, p1, i) =>
      let mode := rmodeOf (if s.ctx.frm = 5 then 0 else s.ctx.frm)
      match convertPage p k.efmt g mode (k.page * 4096) page (pageRows p) 0 s1 with
      | .error x => .error x
      | .ok s2 =>
        let s3 := s2.publish
        .ok { s3 with core := { s3.core with
          asked := true, answer := some 0, requant := some ⟨s.taskKey.1, s.taskKey.2, s.ctx.pc, p1.va, e, page, i⟩ } }

/-- The requantisation that the executing instruction has under way. -/
def State.requantHere (s : State) : Option Requant :=
  s.core.requant.filter (fun r => decide ((r.serial, r.tid) = s.taskKey) && decide (r.pc = s.ctx.pc))

/-- The second access of a kvreq: the swap at the header's home, in its order among those of other parties (R353, R365). -/
def finishRequant (d a : BitVec 5) (r : Requant) (s0 : State) : Out :=
  let s := { s0 with core := { s0.core with asked := false, answer := none, requant := none } }
  let q := s.party
  withRes s (getPool s q r.pool Need.change) fun p =>
    withRes s (swapEntry s q p (s.x a) r.entry r.page r.desc) fun x => complete 4 1 (x.1.setX d (BitVec.ofNat 64 x.2))

/-- KVREQ: the conversion, and at the core's next turn the swap. -/
def execKvreq (d a b : BitVec 5) (s0 : State) : Out :=
  match s0.requantHere with
  | some r => finishRequant d a r s0
  | none =>
    let s := s0.publish
    let q := s.party
    let at_ := s.x a
    if misalignedAt at_ 16 then raise s (exc .misaligned 0 at_)
    else if misalignedAt (s.x b) 32 then raise s (exc .misaligned 0 (s.x b))
    else withRes s (readObject s q at_ 16 Need.change) fun e =>
      withRes s (requantRecord s q (s.x b)) fun r =>
        withRes s (getPool s q r.1 Need.change) fun p =>
          withRes s (entryChecked s q p e at_ Need.change) fun k =>
            let s := (((s.reads q at_ 16).reads q (s.x b) 32).reads q r.1 64).reads q k.va 16
            if k.state = 3 then complete 4 1 (s.setX d 2)
            else if p.freeCnt = 0 then complete 4 1 (s.setX d 3)
            else withRes s (requantise s q p at_ e k r.2.1 r.2.2) .next

end Sys2Proof.Machine
end

