-- ==== Sys2Proof/Machine/Landings.lean ====
section
/-! DEFINITION. Events of the memory system: stores that leave their buffer (R246, R405), durable stores (R225, R252, R253),
presence stores, operand messages and refills that land (R194, R217, R272), and the retention of pans (R219). -/

namespace Sys2Proof.Machine

/-! ### The store buffer -/

/-- A line of a store that the host may hold (R405). -/
def Buffered.hostLine (s : State) (b : Buffered) : Option Nat :=
  ((List.range ((b.pa + b.bytes.length - 1) / 128 - b.pa / 128 + 1)).map (fun k => b.pa / 128 + k)).find? (fun l => s.snoop.contains l)

/-- Room at the durable-tier controller: a full persist buffer accepts no store (R225). -/
def persistRoom (s : State) : Bool := decide (s.pbuf.length < persistLines)

/-- Whether a store may move now: no write of its lines is held for the host, a durable one has room, and the clock of a release is
not too far ahead of its home's (R384). -/
def Buffered.mayMove (s : State) (b : Buffered) : Bool :=
  match b.hostLine s with
  | some l => !s.heldWrites.contains l
  | none => (decide (spaceOf b.pa ≠ .durable) || persistRoom s)
      && !(b.rel && decide (spaceOf b.pa = .hbm) && decide (homeDie b.pa ≠ dieOf s.cur)
        && clockAhead (s.clockOf (homeDie b.pa)) (s.clockOf (dieOf s.cur)))

/-- The stores of a buffer that may leave it next, those it holds before them given. -/
def leaving (s : State) (held : List Buffered) : List Buffered → List Buffered
  | [] => []
  | b :: l => (if held.any (fun a => a.before b) || !b.mayMove s then [] else [b]) ++ leaving s (held ++ [b]) l

/-- Whether a store of a buffer can move. -/
def drainReady (s : State) (core : Nat) : Bool :=
  let l := (s.coreOf core).sbuf
  l.isEmpty || !(leaving s [] l).isEmpty

/-- A store goes towards its point of order: the oldest, or another that none before it must precede, a free value which (R234,
R235). A line the host holds is back-invalidated first, and the write waits for the host's answer (R405). -/
def drainOne (core : Nat) (s : State) : State :=
  let again (s : State) : State := { s with pending := s.pending ++ [Event.storeBufferDrain core] }
  match leaving s [] s.core.sbuf with
  | [] => if s.core.sbuf.isEmpty then s else again s
  | b0 :: l =>
    let b := openChoice s 25 b0.pa b0 l
    match b.hostLine s with
    | some l => again { s with heldWrites := setAdd s.heldWrites l, pending := s.pending ++ [Event.hostBiResponse l] }
    | none =>
      let s1 := sendStore { s with core := { s.core with sbuf := s.core.sbuf.erase b } } b
      if s1.core.sbuf.isEmpty then s1 else again s1

/-- STORE_BUFFER_DRAIN. -/
def execStoreBufferDrain (core : Nat) (s : State) : Out :=
  takeDue (.storeBufferDrain core) (fun s => drainReady s core) s (fun s => s.onCore core (drainOne core))

/-- HOST_BI_RESPONSE: the host no longer holds the line, and the write held for it proceeds (R405). -/
def execHostBiResponse (line : Nat) (s : State) : Out :=
  takeEvent (.hostBiResponse line) s (fun s => { s with
    snoop := s.snoop.filter (fun l => l ≠ line), heldWrites := setDrop s.heldWrites line })

/-! ### Durable stores -/

/-- Whether a core still holds a store of the party of a durable store that must persist before it (R253). -/
def Core.owes (d : Durable) (core : Nat) (k : Core) : Bool :=
  k.sbuf.any (fun b => decide (spaceOf b.pa = .durable) && decide (b.serial = d.serial) && decide (b.tid = d.tid)
    && (decide (d.serial ≠ 0) || decide (core = d.core)) && decide (b.epoch < d.epoch))

/-- Whether the controller may accept a store now: earlier ones to its line are accepted, its task's earlier persist barriers
hold, and the buffer has room (R225, R252, R253). -/
def acceptReady (s : State) (d : Durable) : Bool :=
  s.durable.all (fun e => e.accepted || !(decide (e.num < d.num) && e.before d))
    && !s.core.owes d s.cur && !s.others.any (fun p => p.core.owes d p.id) && persistRoom s

/-- DURABLE_STORE_ACCEPT. -/
def execDurableStoreAccept (num : Nat) (s : State) : Out :=
  takeDue (.durableStoreAccept num)
    (fun s => match s.durable.find? (fun d => d.num = num) with | some d => acceptReady s d | none => true) s
    (fun s => match s.durable.find? (fun d => d.num = num) with | some d => acceptDurable s d | none => s)

/-- PERSIST_ACKNOWLEDGEMENT: persist barriers no longer wait for the store. -/
def execPersistAcknowledgement (num : Nat) (s : State) : Out :=
  takeEvent (.persistAcknowledgement num) s (fun s => { s with durable := s.durable.filter (fun d => d.num ≠ num) })

/-- PERSIST_BUFFER_DRAIN: the line that came first goes to the stacks (R225). -/
def execPersistBufferDrain (s : State) : Out :=
  if s.pbuf.isEmpty then .next s else .next { s.fresh with pbuf := s.pbuf.tail }

/-! ### Landings -/

/-- The presence store that an event lands: the first under way to its word, if it carries the event's value. -/
def landingFlight (s : State) (core off : Nat) (value : BitVec 64) : Option Flight :=
  (s.flights.find? (fun f => f.core = core ∧ f.off = off)).bind (fun f => if f.value = value then some f else none)

/-- PRESENCE_STORE_LANDING: on a pan in retention it waits for the exit (R231), and one whose stamp runs too far ahead for its die's
clock (R384). -/
def execPresenceStoreLanding (core off : Nat) (value : BitVec 64) (s : State) : Out :=
  takeWhenAwake (.presenceStoreLanding core off value) [(core, off / 65536)]
    (fun s => (landingFlight s core off value).any (fun f => f.stamp.all (fun c => !clockAhead (s.clockOf (dieOf f.core)) c))) s
    (fun s => match landingFlight s core off value with
      | some f => landFlight s f
      | none => s)

/-- Whether a chunk is for an instruction its task has still to execute: a follower's, or the `mma` a former member had entered when
its gang disbanded (R195). -/
def chunkWanted (s : State) (core : Nat) (chunk : List Word) : Bool :=
  match infoOf (s.coreOf core) (chunk[0]?.getD 0).toNat (chunk[1]?.getD 0).toNat with
  | some t => (match t.gang with
    | .follower _ _ _ _ _ => true
    | .parting _ => true
    | _ => match t.entered with
      | some e => decide (e.2 = (chunk[2]?.getD 0).toNat)
      | none => false)
  | none => false

/-- GANG_OPERAND_MESSAGE: a chunk takes its reserved slot of the ring; one that no instruction consumes is discarded (R194, R195). -/
def execGangOperandMessage (core : Nat) (chunk : List (BitVec 64)) (s : State) : Out :=
  takeEvent (.gangOperandMessage core chunk) s (fun s =>
    let k := s.coreOf core
    if k.containing.isSome || !chunkWanted s core chunk then s else s.setCore core { k with ring := k.ring ++ [chunk] })

/-- The lowest register of a well that has not landed. -/
def Well.nextRefill (w : Well) : Option Nat := (List.range w.regs).find? (fun r => !w.landed.contains r)

/-- A refill lands for the task the executing core runs; one that meets a fault has no effect (R272). -/
def refillAhead (k : Nat) (s : State) : State :=
  match s.inService, s.core.run.task, s.ctx.well k with
  | false, some _, some w => match w.nextRefill with
    | some r => if !(sleepingPans s [k]).isEmpty then s else (match landRegister s k r with
      | (s1, none) => s1.fresh
      | (_, some _) => s)
    | none => s
  | _, _, _ => s

/-- WELL_REFILL_LANDING. -/
def execWellRefillLanding (core : Nat) (well : BitVec 3) (s : State) : Out := .next (s.onCore core (refillAhead well.toNat))

/-! ### Retention (R219) -/

/-- A pan and the cycle since which it is what it is. -/
def setPan (s : State) (core pan : Nat) (r : Retention) : State :=
  let k := s.coreOf core
  s.setCore core { k with retention := k.retention.setIfInBounds pan r, panTime := k.panTime.setIfInBounds pan s.cyc }

/-- Cycles since a pan's last access, or since its entry or exit began. -/
def panAge (s : State) (core pan : Nat) : Nat := s.cyc.toNat - ((s.coreOf core).panTime[pan]?.getD 0).toNat

/-- Whether a pan's next step into retention is due: 4,096 cycles without an access, or the 512 of its entry. -/
def entryDue (s : State) (core pan : Nat) : Bool :=
  let k := s.coreOf core
  match k.retention[pan]?.getD .active with
  | .active => !(k.pfmt[pan]?.getD 0).getLsbD 7 || decide (4096 ≤ panAge s core pan)
  | .entering => decide (512 ≤ panAge s core pan)
  | .recalled => decide (512 ≤ panAge s core pan)
  | _ => true

/-- RETENTION_ENTRY: the entry begins; at its end the pan is in retention, or leaves it at once for an access that waits. -/
def execRetentionEntry (core pan : Nat) (s : State) : Out :=
  takeDue (.retentionEntry core pan) (fun s => entryDue s core pan) s (fun s =>
    match (s.coreOf core).retention[pan]?.getD .active with
    | .active =>
      if ((s.coreOf core).pfmt[pan]?.getD 0).getLsbD 7 then
        let s1 := setPan s core pan .entering
        { s1 with pending := s1.pending ++ [Event.retentionEntry core pan] }
      else s
    | .entering => setPan s core pan .retained
    | .recalled =>
      let s1 := setPan s core pan .leaving
      { s1 with pending := s1.pending ++ [Event.retentionExit core pan] }
    | _ => s)

/-- RETENTION_EXIT: the exit ends after 512 cycles; a pan with RETEN may enter retention again. -/
def execRetentionExit (core pan : Nat) (s : State) : Out :=
  takeDue (.retentionExit core pan)
    (fun s => decide ((s.coreOf core).retention[pan]?.getD .active ≠ .leaving) || decide (512 ≤ panAge s core pan)) s
    (fun s => if (s.coreOf core).retention[pan]?.getD .active = .leaving then
      armRetention (setPan (settleFlips s core pan) core pan .active) core pan else s)

end Sys2Proof.Machine
end

