-- ==== Sys2Proof/Machine/Management.lean ====
section
/-! DEFINITION. Management and the package as a whole: control-space writes (R401, R402), Bittern sizes (R224), the power and
current loops (R410-R412), freeze (R399), power loss (R256), package reset with secure boot (R407), and words that are no
instruction (R83). -/

namespace Sys2Proof.Machine

/-- An act of management: it does not run in recovery, when its image has not been verified (R407). -/
def managed (s : State) (f : State → State) : State := if s.recovery then s else f s

/-- CONTROL_SPACE_WRITE: a write by management (R401). -/
def execControlSpaceWrite (pa : Nat) (data : List (BitVec 8)) (s : State) : Out :=
  .next (managed s.fresh fun s1 => if spaceOf pa = .control ∧ spaceOf (pa + data.length - 1) = .control then
      rotateIfLive s1 { s1 with ctl := ctlStore true s1.ctl pa data } pa data.length
    else s1)

/-- A Bittern size as the device takes it (R224). -/
def bitternSize (mib : Nat) : Nat := min 16 (mib / 4 * 4)

/-- BITTERN_RESIZE: the change waits until the die's Bittern holds no record (R224, R231). -/
def execBitternResize (die mib : Nat) (s : State) : Out :=
  let e : Event := .bitternResize die mib
  if s.recovery then .next s.fresh
  else if bitternLines s die = 0 then
    .next { s.fresh with bittern := s.bittern.setIfInBounds die (bitternSize mib), pending := s.pending.erase e }
  else if s.pending.contains e then .next s
  else .next { s with pending := s.pending ++ [e] }

/-! ### Power, current and temperature (R410-R412) -/

/-- ADAPTIVE_VOLTAGE_PERIOD: the rail takes the lowest voltage its die runs at and 10 mV more, between 450 and 750 mV; which
that is lies with the die (log entry 11). With the loop off it sits at 750 mV. -/
def execAdaptiveVoltagePeriod (die : Nat) (s : State) : Out :=
  let mv := if s.power.avEnabled then 450 + (Config.openValue 17 s.free).toNat % 301 else 750
  .next { s.fresh with power := { s.power with rails := s.power.rails.setIfInBounds die mv } }

/-- EQUALISATION_PERIOD: the split of a current among phases and dies is no state of the machine. -/
def execEqualisationPeriod (s : State) : Out := .next s.fresh

/-- THRESHOLD_PERIOD (R411): two periods in a row above 6,000 W raise the level, eight below 5,700 W lower it. -/
def execThresholdPeriod (watts : Nat) (s : State) : Out :=
  let p := s.power
  let above := if 6000 < watts then p.above + 1 else 0
  let below := if watts < 5700 then p.below + 1 else 0
  let p1 := if above = 2 then { p with level := min 3 (p.level + 1), above := 0, below := 0 }
    else if below = 8 then { p with level := p.level - 1, above := 0, below := 0 }
    else { p with above := above, below := below }
  .next { s.fresh with power := p1 }

/-- RAIL_DROOP: issue on the cores of a rail is held for 1 to 8 cycles (R410). -/
def execRailDroop (die cycles : Nat) (s : State) : Out :=
  .next { s.fresh with power := { s.power with hold := s.power.hold.setIfInBounds die (s.cyc.toNat + max 1 (min 8 cycles)) } }

/-- OVERTEMPERATURE (R412). -/
def execOvertemperature (celsius : Nat) (s : State) : Out :=
  let s1 := if 105 ≤ celsius then { s.fresh with power := { s.power with level := 3 } } else s.fresh
  .next (if 115 ≤ celsius then { s1 with frozen := true, power := { s1.power with rails := Vector.replicate 8 0 } } else s1)

/-- FREEZE_SIGNAL: every clock stops; no ECAUSE is written (R399). -/
def execFreezeSignal (s : State) : Out := .next { s.fresh with frozen := true }

/-! ### Power loss and reset -/

/-- Bytes in durable addresses. -/
def durableBytes (m : Mem) : Mem := m.filter (fun c => spaceOf c.1 = .durable)

/-- Numbers of words of a size that lie in durable addresses. -/
def durableWords (size : Nat) (l : List Nat) : List Nat := l.filter (fun w => spaceOf (size * w) = .durable)

/-- The column map of a row, which package test and map-out set (R384). -/
def keepMaps (old new : Mem) : Mem :=
  (List.range 8).foldl (fun m d => (List.range 16).foldl (fun m y =>
    memWrite m (0x3F0000100040 + 0x1000 * d + y) (memRead old (0x3F0000100040 + 0x1000 * d + y))) m) new

/-- What stays when everything volatile is lost: the persist domain with its object, full and poison bits, the error log, the
maps of the meshes with the spares in use, and the counters of the model (R229, R256, R298, R396). -/
def survive (s : State) : State :=
  { State.reset with
    cyc := s.cyc
    ctl := keepMaps s.ctl State.reset.ctl
    mem := durableBytes s.persisted
    persisted := durableBytes s.persisted
    objects := durableWords 16 s.objects
    full := durableWords 8 s.full
    poison := durableWords 8 s.poison
    pathPoison := durableWords 8 s.pathPoison
    sparesUsed := s.sparesUsed
    stationsDown := s.stationsDown
    errLog := s.errLog
    schedule := s.schedule
    free := s.free + 1
    fabricNext := s.fabricNext
    durableNext := s.durableNext
    keyNext := s.keyNext }

/-- POWER_LOSS: everything volatile is gone, and nothing runs (R256). -/
def execPowerLoss (s : State) : Out := .next { survive s with powered := false }

/-- PACKAGE_RESET: CYC counts from 0, every grant key is drawn anew, and an image that fails its check leaves the package in
recovery (R384, R407). The digests of images that have been verified are kept; a check that fails keeps none (log entry 9). -/
def execPackageReset (verified : Bool) (s : State) : Out :=
  let s1 := survive s
  .next { s1 with
    cyc := 0
    keys := (List.range 256).map (fun k => (k, s1.keyNext + k))
    keyNext := s1.keyNext + 256
    images := if verified then Vector.ofFn (fun k => shake64 (Config.bootImage s1.free k.val)) else Vector.replicate 3 0
    recovery := !verified }

/-! ### Words that are no instruction (R83) -/

/-- NON_INSTRUCTION: Illegal instruction, EADDR holding the word. -/
def execNonInstruction (word : BitVec 32) (s : State) : Out := illegal word.toNat s

end Sys2Proof.Machine
end

