-- ==== Sys2Proof/Machine/Rake.lean ====
section
/-! DEFINITION. The Rake: job submission, its layers, cancellation (R358-R363). -/

namespace Sys2Proof.Machine

/-! ### Jobs -/

def RakeJob.word (j : RakeJob) (k : Nat) : Word := j.words[k]?.getD 0
def RakeJob.table (j : RakeJob) : Word := j.word 0
def RakeJob.first (j : RakeJob) : Nat := bits (j.word 1) 31 0
def RakeJob.count (j : RakeJob) : Nat := bits (j.word 1) 63 32
def RakeJob.dev (j : RakeJob) : Word := j.word 2
def RakeJob.pages (j : RakeJob) : Word := j.word 3
def RakeJob.froml (j : RakeJob) : Nat := bits (j.word 4) 7 0
def RakeJob.tol (j : RakeJob) : Nat := bits (j.word 4) 15 8
def RakeJob.lcell (j : RakeJob) : Word := j.word 5
def RakeJob.done (j : RakeJob) : Word := j.word 6

/-- The Rake acts for the job's partition. -/
def RakeJob.party (j : RakeJob) : Party := ⟨j.part, false⟩

/-- The Rake as the engine that copies its pages. -/
def RakeJob.engine (j : RakeJob) : Engine := ⟨j.part, false, false⟩

/-- The job of a slot. -/
def State.job (s : State) (part n : Nat) : Option RakeJob := s.rake.find? (fun j => j.part = part ∧ j.job = n)

/-- Put a job into its slot. -/
def State.putJob (s : State) (j : RakeJob) : State :=
  { s with rake := s.rake.filter (fun i => !(decide (i.part = j.part) && decide (i.job = j.job))) ++ [j] }

/-- An error record of the Rake (R395). -/
def rakeRecord (s : State) (j : RakeJob) (code sub : Nat) (addr : Word) : State :=
  let l := s.launchOf j.serial
  let lid := match l with | some l => l.lid.toNat | none => 0
  let tag := match l with | some l => l.tag | none => 0
  report s { code := code, sub := sub, source := 4, lid := lid, tid := j.tid, part := j.part, eaddr := addr, tag := tag }

/-- A cell the Rake uses: aligned, translated, no fabric peer. -/
def rakeCell (s : State) (j : RakeJob) (va : Word) : Res Nat :=
  if misalignedAt va 16 then .error (exc .misaligned 0 va) else objectAt s j.party va Need.atom

/-- DONE receives its signal; 0 means none, and a failure becomes an error record (R359, R360). -/
def signalJob (s : State) (j : RakeJob) (err : Bool) : State :=
  if j.done = 0 then s
  else match rakeCell s j j.done with
    | .error e => rakeRecord s j e.cause.code e.sub e.addr
    | .ok pa =>
      if s.objects.contains (pa / 16) then signalCellAt s pa 1 err
      else rakeRecord s j Cause.invalidToken.code 2 j.done

/-- Awaiters of a descriptor wake (R357). -/
def wakeRepair (s : State) (j : RakeJob) (va : Word) : State :=
  match physOf s j.part va.toNat with
  | some pa => wakeWaiters s (waitsOn pa [10]) 0
  | none => s

/-- A private descriptor of a job, with the checks of the pool and its own: a failure becomes an error record (R348, R7). -/
def withCopy (s : State) (j : RakeJob) (i : Nat) (k : Pool → Desc → State) : State :=
  match getPool s j.party j.pool Need.change with
  | .error e => rakeRecord s j e.cause.code e.sub e.addr
  | .ok p => match getDesc s j.party p i Need.change with
    | .error e => rakeRecord s j e.cause.code e.sub e.addr
    | .ok d => k p d

/-- A private descriptor takes a final state, JOB 0, and loses the job's reference; its awaiters wake where asked. -/
def settleCopy (j : RakeJob) (state : Nat) (wake : Bool) (s : State) (c : RakeCopy) : State :=
  withCopy s j c.desc fun p d =>
    let d1 := { d with raw := putField (putField d.raw 58 56 state) 109 104 0 }
    let s1 := (releaseDesc (putDesc s j.party d.va d1.raw) j.party p d1).1
    if wake then wakeRepair s1 j d.va else s1

/-- What is under way for a job goes: its events, its wait for a page, its items that no queue has taken (R362). -/
def dropJob (s : State) (j : RakeJob) : State :=
  { s with
    pending := s.pending.filter (fun e => e ≠ .rakeLayerAdvance j.part j.job ∧ e ≠ .rakeJobStart j.part j.job ∧ e ≠ .rakeCopyResume j.part j.job)
    waiters := s.waiters.filter (fun w => !(decide (w.core = j.part) && decide (w.slot = 128 + j.job)))
    heldRecords := s.heldRecords.filter (fun h => !(decide (h.part = j.part) && decide (h.mode = 7) && decide (bits (h.words.headD 0) 63 58 = j.job))) }

/-- A job stops: each private copy keeps its RTL and becomes SPLICED, DONE is signalled with error status (R360, R362). -/
def stopJob (s : State) (j : RakeJob) (err : Bool) : State :=
  let s1 := j.copies.foldl (settleCopy j 2 true) (dropJob s j)
  signalJob (s1.putJob { j with active := false, err := j.err || err, cancelled := j.cancelled || !err, parked := false }) j true

/-- A failure ends the job with an error record: a cause, or 0 where there is none (R360). -/
def failJob (s : State) (j : RakeJob) (code sub : Nat) (addr : Word) : State := stopJob (rakeRecord s j code sub addr) j true

/-! ### Layers (R360 step 3) -/

/-- A repair item (R361). -/
def repairItem (j : RakeJob) (descva : Word) (slot posn : Nat) : List Word :=
  [BitVec.ofNat 64 (bits descva 51 0 + slot % 64 * 2 ^ 52 + j.job % 64 * 2 ^ 58), BitVec.ofNat 64 j.layer, BitVec.ofNat 64 posn,
    cellToken j.lcell.toNat, 0, 0, 0, 0]

/-- Enqueue the items of the layer in logical order. -/
def sendItems (j : RakeJob) : List (Nat × Nat × Nat) → State → State
  | [], s => s
  | (c, slot, posn) :: l, s =>
    sendItems j l (match j.copies[c]? with
      | some k => withCopy s j k.desc fun _ d => produceRecord s j.part 7 0 (repairItem j d.va slot posn)
      | none => s)

/-- The layer the job has reached starts: LCELL as celli would make it, then its items. -/
def startLayer (s : State) (j0 : RakeJob) : State :=
  let j := { j0 with started := true, advanced := false }
  match rakeCell s j j.lcell with
  | .error e => failJob s j e.cause.code e.sub e.addr
  | .ok pa =>
    let s1 := judgeCell (initCell s pa j.selected.length) pa
    let s2 := sendItems j j.selected (s1.putJob j)
    { s2 with pending := s2.pending ++ [Event.rakeLayerAdvance j.part j.job] }

/-- Every private copy is repaired through the layer, and its awaiters wake (R360, R363). -/
def advanceCopies (s : State) (j : RakeJob) : State :=
  j.copies.foldl (fun s c => withCopy s j c.desc fun _ d =>
    wakeRepair (putDesc s j.party d.va (putField d.raw 55 48 j.layer)) j d.va) s

/-- The end of a job: REPAIRED, its references released, DONE signalled, the slot free. -/
def endJob (s : State) (j : RakeJob) : State :=
  let s1 := j.copies.foldl (settleCopy j 4 false) s
  signalJob (s1.putJob { j with active := false }) j false

/-- Whether the layer's cell has been signalled often enough; a layer with no selected token is. -/
def layerOver (s : State) (j : RakeJob) : Bool :=
  j.selected.isEmpty || (match physOf s j.part j.lcell.toNat with
    | some pa => cellSatisfied (object16 s pa)
    | none => false)

/-- One step of a job whose layer is over: RTL is written first, and the next layer or the end follows as a step of its own (R360). -/
def advanceJob (s : State) (j : RakeJob) : State :=
  if !j.advanced then
    let s1 := (advanceCopies s j).putJob { j with advanced := true }
    { s1 with pending := s1.pending ++ [Event.rakeLayerAdvance j.part j.job] }
  else if j.layer < j.tol then startLayer s { j with layer := j.layer + 1 } else endJob s j

/-- RAKE_LAYER_ADVANCE. -/
def execRakeLayerAdvance (part job : Nat) (s : State) : Out :=
  takeDue (.rakeLayerAdvance part job)
    (fun s => match s.job part job with | some j => !j.active || j.advanced || layerOver s j | none => true) s
    (fun s => match s.job part job with
      | none => s
      | some j => if j.active then advanceJob s j else s)

/-! ### Private copies and selection (R360 steps 1 and 2) -/

/-- What the work of a start comes to: done so far, a missing page to wait for, or a failure. -/
inductive RakeWork where
  | done (s : State) (j : RakeJob)
  | missing (s : State) (j : RakeJob) (e : Exc)
  | failed (s : State) (j : RakeJob) (code sub : Nat) (addr : Word)

/-- A cause met at work: a missing page parks the job (R327), any other ends it. -/
def RakeWork.met (s : State) (j : RakeJob) (e : Exc) : RakeWork :=
  if e.cause = .translationNotPresent ∧ e.sub = 0 then .missing s j e else .failed s j e.cause.code e.sub e.addr

/-- The covered entries from j on, each with whether its descriptor is SPLICED (R348). -/
def coveredEntries (s : State) (q : Party) (p : Pool) (t : Table) (j : Nat) : Nat → Res (List (Nat × Bool))
  | 0 => .ok []
  | n + 1 =>
    match getEntry s q t j Need.change with
    | .error e => .error e
    | .ok e =>
      match entryChecked s q p e (entryVa t j) Need.change with
      | .error x => .error x
      | .ok d => match coveredEntries s q p t (j + 1) n with
        | .error x => .error x
        | .ok l => .ok ((e, decide (d.state = 2)) :: l)

/-- The job reads its table. The pages it reads are marked (R320). -/
def readJob (s : State) (j : RakeJob) : Res (RakeJob × State) :=
  let q := j.party
  match getTable s q j.table Need.change with
  | .error e => .error e
  | .ok t =>
    match getPool s q t.pool Need.change with
    | .error e => .error e
    | .ok p =>
      match getEntries s q t Need.change 0 j.first with
      | .error e => .error e
      | .ok before =>
        match coveredEntries s q p t j.first j.count with
        | .error e => .error e
        | .ok l =>
          let s1 := (s.readsTable q t (j.first + j.count)).reads q t.pool 64
          .ok ({ j with pool := t.pool, pos := (before.map entryNtok).sum, entries := l }, descsRead q p (l.map (fun e => entryDesc e.1)) s1)

/-- Distinct SPLICED descriptors of the covered entries, in entry order. -/
def splicedDescs (j : RakeJob) : List Nat :=
  j.entries.foldl (fun l e => if e.2 && !l.contains (entryDesc e.1) then l ++ [entryDesc e.1] else l) []

/-- Covered entries, by number from 0, that name a descriptor. -/
def namers (j : RakeJob) (d : Nat) : List Nat :=
  (j.entries.zipIdx.filter (fun e => decide (entryDesc e.1.1 = d))).map (fun e => e.2)

/-- Rewrite entries to name a private copy, releasing the old descriptor once for each (R345, R360): the state, how many were
rewritten, and the cause of a failure. -/
def rewriteEntries (j : RakeJob) (page new : Nat) : List Nat → Nat → State → State × Nat × Option Exc
  | [], n, s => (s, n, none)
  | k :: l, n, s =>
    let q := j.party
    let va := j.table + BitVec.ofNat 64 (16 + 16 * (j.first + k))
    let e := ((j.entries[k]?).map (fun e => e.1)).getD 0
    match readObject s q va 16 Need.change with
    | .error x => (s, n, some x)
    | .ok v =>
      if v ≠ e then (s, n, some (exc .staleBlock 0 va))
      else match getPool s q j.pool Need.change with
        | .error x => (s, n, some x)
        | .ok p =>
          match getDesc s q p (entryDesc e) Need.change with
          | .error x => (s, n, some x)
          | .ok d =>
            let s1 := writeObject s q va 16 (putField (putField e 39 0 (page / 4096)) 87 64 new)
            rewriteEntries j page new l (n + 1) (releaseDesc s1 q p d).1

/-- Code and sub-code of a failure of a start; an entry that has changed is no cause of R387. -/
def failCode (e : Exc) : Nat × Nat := if e.cause = .staleBlock then (0, 0) else (e.cause.code, e.sub)

/-- A failure after the private descriptor was made: it keeps the references of the entries that name it, and the job's
until the job stops. -/
def failCopy (s : State) (j : RakeJob) (c : RakeCopy) (refs : Nat) (e : Exc) : RakeWork :=
  let s1 := withCopy s j c.desc fun _ d => putDesc s j.party d.va (putField d.raw 15 0 (refs + 1))
  .failed s1 { j with copies := j.copies ++ [c] } (failCode e).1 (failCode e).2 e.addr

/-- The private copy of one descriptor: the next PAGES word, the descriptor, the page, the entries. -/
def makeCopy (s : State) (j : RakeJob) (old : Nat) : RakeWork :=
  let q := j.party
  let wordVa := j.pages + BitVec.ofNat 64 (8 * j.copies.length)
  let who := namers j old
  if misalignedAt wordVa 8 then .failed s j Cause.misaligned.code 0 wordVa
  else match readAs s .engine q.part q.priv wordVa 8 Need.copyRead true with
    | .error e => .met s j e
    | .ok (bs, s1) =>
      let page := leNat bs
      match getPool s1 q j.pool Need.change with
      | .error e => .met s1 j e
      | .ok p =>
        match getDesc s1 q p old Need.change with
        | .error e => .met s1 j e
        | .ok d =>
          let n := pageBytes p d.efmt
          let from_ := BitVec.ofNat 64 (d.page * 4096)
          if page % 4096 ≠ 0 then .failed s1 j Cause.misaligned.code 0 (BitVec.ofNat 64 page)
          else match pagesMissing s1 j.engine Need.copyRead (n / 4096 + 2) from_ n <|> pagesMissing s1 j.engine Need.copyWrite (n / 4096 + 2) (BitVec.ofNat 64 page) n with
            | some e => .met s1 j e
            | none =>
              if p.freeCnt = 0 then .failed s1 j 0 0 j.pool
              else match allocDesc s1 q p (descValue (who.length + 1) d.src d.ver (j.froml - 1) 3 d.efmt (page / 4096) j.job) with
                | .error e => .met s1 j e
                | .ok (s2, _, i) =>
                  let c : RakeCopy := ⟨i, old, who⟩
                  let r := copyWords j.engine ⟨false, from_, 0⟩ ⟨false, BitVec.ofNat 64 page, 0⟩ 0 (n / 8) 0 ⟨s2, none, false⟩
                  match r.err with
                  | some e => failCopy r.state j c 0 e
                  | none =>
                    match rewriteEntries j page i who 0 r.state with
                    | (s3, k, some e) => failCopy s3 j c k e
                    | (s3, _, none) => .done s3 { j with copies := j.copies ++ [c] }

/-- The private copies still to make. -/
def makeCopies : List Nat → State → RakeJob → RakeWork
  | [], s, j => .done s j
  | d :: l, s, j =>
    match makeCopy s j d with
    | .done s1 j1 => makeCopies l s1 j1
    | r => r

/-- Whether a deviation selects its token: NaN, or its magnitude above the threshold (R360). -/
def deviates (dev : Nat) (threshold : BitVec 32) : Bool :=
  let v := fmtF32.val dev
  v.isNan || ltVal true (fmtF32.val threshold.toNat) (absVal v).1

/-- Selected tokens of the entries from k on: u counts the tokens before them. Every deviation is read; those of entries that were not
copied select nothing (R360). -/
def selectTokens (j : RakeJob) : List (Nat × Bool) → Nat → Nat → State → Res (List (Nat × Nat × Nat) × State)
  | [], _, _, s => .ok ([], s)
  | e :: l, k, u, s =>
    let n := entryNtok e.1
    let copy := j.copies.findIdx? (fun c => c.entries.contains k)
    let read (acc : Res (List (Nat × Nat × Nat) × State)) (i : Nat) : Res (List (Nat × Nat × Nat) × State) :=
      match acc with
      | .error x => .error x
      | .ok (ts, s) =>
        let va := j.dev + BitVec.ofNat 64 (4 * (u + i))
        if misalignedAt va 4 then .error (exc .misaligned 0 va)
        else match readAs s .engine j.part false va 4 Need.copyRead true with
          | .error x => .error x
          | .ok (bs, s1) => match copy with
            | some c => .ok (if deviates (leNat bs) j.threshold then ts ++ [(c, entryStart e.1 + i, j.pos + u + i)] else ts, s1)
            | none => .ok (ts, s1)
    match (List.range n).foldl read (.ok ([], s)) with
    | .error x => .error x
    | .ok (ts, s1) =>
      match selectTokens j l (k + 1) (u + n) s1 with
      | .error x => .error x
      | .ok (rest, s2) => .ok (ts ++ rest, s2)

/-- Everything of a start that a missing page may interrupt: the copies not made yet, then the selection. -/
def rakeWork (s : State) (j : RakeJob) : RakeWork :=
  match makeCopies ((splicedDescs j).drop j.copies.length) s j with
  | .done s1 j1 =>
    match selectTokens j1 j1.entries 0 0 s1 with
    | .error e => .met s1 j1 e
    | .ok (l, s2) => .done s2 { j1 with selected := l }
  | r => r

/-- The job waits for a missing page: which resolution cell it uses is a free choice among the channel cells (R327, R360, log
entry 11). -/
def parkJob (s : State) (j : RakeJob) (e : Exc) : State :=
  match faultCell s j.part (131072 + (Config.openValue 14 s.free).toNat % 8192) with
  | none => failJob s j e.cause.code e.sub e.addr
  | some (va, pa) =>
    let lid := match s.launchOf j.serial with | some l => l.lid.toNat | none => 0
    let s1 := produceRecord (initCell s pa 1) j.part 5 0 (faultRecord e (cellToken va) lid j.tid 0 j.part true 0)
    addWaiter (s1.putJob { j with parked := true }) ⟨.token (faultToken va), j.part, j.part, 128 + j.job, homeSlice pa, some pa⟩ false

/-- Carry on with a start. -/
def runJob (s : State) (j : RakeJob) : State :=
  match rakeWork s j with
  | .done s1 j1 => startLayer s1 j1
  | .missing s1 j1 e => parkJob s1 j1 e
  | .failed s1 j1 code sub addr => failJob s1 j1 code sub addr

/-- The first reading of the table, and the start. -/
def beginJob (s : State) (j : RakeJob) : State :=
  match readJob s j with
  | .ok (j1, s1) => runJob s1 j1
  | .error e => if e.cause = .translationNotPresent ∧ e.sub = 0 then parkJob s j e else failJob s j e.cause.code e.sub e.addr

/-- RAKE_JOB_START. -/
def execRakeJobStart (part job : Nat) (s : State) : Out :=
  takeEvent (.rakeJobStart part job) s (fun s => match s.job part job with
    | some j => if j.active then beginJob s j else s
    | none => s)

/-- RAKE_COPY_RESUME: the resolution cell was signalled; the job walks again. -/
def execRakeCopyResume (part job : Nat) (s : State) : Out :=
  takeEvent (.rakeCopyResume part job) s (fun s => match s.job part job with
    | some j =>
      if j.active && j.parked then
        let j1 := { j with parked := false }
        if j.entries.isEmpty then beginJob s j1 else runJob s j1
      else s
    | none => s)

/-! ### The instructions (R358) -/

/-- What breaks R359 in a record. -/
def jobBroken (t : Table) (p : Pool) (j : RakeJob) : Bool :=
  decide (bits (j.word 4) 63 16 ≠ 0) || decide (j.word 7 ≠ 0) || decide (j.count = 0) || decide (t.nent < j.first + j.count)
    || decide (j.froml = 0) || decide (j.froml < p.layer0) || decide (j.tol < j.froml) || decide (p.layer0 + p.nlm1 < j.tol)

/-- The Rake's acceptance of a record: none where it keeps R359 (R348, R358). -/
def acceptJob (s : State) (j : RakeJob) (rec : Word) : Option Exc :=
  if misalignedAt j.table 16 then some (exc .misaligned 0 j.table)
  else match getTable s j.party j.table Need.change with
    | .error e => some e
    | .ok t =>
      match getPool s j.party t.pool Need.change with
      | .error e => some e
      | .ok p => if jobBroken t p j then some (exc .bounds 26 rec) else none

/-- The lowest free slot of a partition. -/
def freeJob (s : State) (part : Nat) : Option Nat :=
  (List.range 64).find? (fun n => match s.job part n with | some j => !j.active | none => true)

/-- RKJOB. -/
def execRkjob (d a : BitVec 5) (s0 : State) : Out :=
  let s := s0.publish
  let va := s.x a
  if misalignedAt va 64 then raise s (exc .misaligned 0 va)
  else withRes s (readObject s s.party va 64 Need.object) fun v =>
    let s := s.reads s.party va 64
    match freeJob s s.part with
    | none => complete 4 1 (s.setX d 0x100)
    | some n =>
      let key := s.taskKey
      let ws := bytesToWords 8 (natBytes 64 v)
      let j : RakeJob := { part := s.part, job := n, words := Vector.ofFn (fun i => ws[i.val]?.getD 0), threshold := s.lc.raketh, active := true, err := false, cancelled := false, started := false, advanced := false, layer := bits (ws[4]?.getD 0) 7 0, pool := 0, pos := 0, entries := [], copies := [], selected := [], parked := false, tid := key.2, serial := key.1 }
      match acceptJob s j va with
      | some e =>
        if e.cause = .translationNotPresent ∧ e.sub = 0 then raise s e
        else complete 4 1 ((rakeRecord s j e.cause.code e.sub e.addr).setX d 0x200)
      | none => complete 4 1 ({ (s.reads s.party j.table 16).putJob j with pending := s.pending ++ [Event.rakeJobStart s.part n] }.setX d (BitVec.ofNat 64 n))

/-- Items outstanding in the layer: the tokens selected less the signals LCELL has received. -/
def outstanding (s : State) (j : RakeJob) : Nat :=
  if j.active && j.started && !j.selected.isEmpty then
    match physOf s j.part j.lcell.toNat with
    | some pa => let v := object16 s pa; if cellSatisfied v then 0 else (cellTarget v + 2 ^ 32 - cellCount v) % 2 ^ 32
    | none => j.selected.length
  else 0

/-- Status of a job slot (R358). -/
def jobStatus (s : State) (j : RakeJob) : Word :=
  let b (x : Bool) (k : Nat) : Nat := if x then 2 ^ k else 0
  BitVec.ofNat 64 (j.layer % 256 + b j.active 8 + b j.err 9 + b j.cancelled 10 + outstanding s j % 2 ^ 24 * 2 ^ 16)

/-- The job a function names. -/
def withJob (a : BitVec 5) (s : State) (k : Option RakeJob → Out) : Out :=
  if 64 ≤ (s.x a).toNat then raise s (exc .bounds 0 (s.x a)) else k (s.job s.part (s.x a).toNat)

/-- RKSTAT. -/
def execRkstat (d a : BitVec 5) (s : State) : Out :=
  withJob a s fun j => complete 4 1 (s.setX d (match j with | some j => jobStatus s j | none => 0))

/-- RKCANCEL: 0 if cancelled, 1 if not active (R362). -/
def execRkcancel (d a : BitVec 5) (s0 : State) : Out :=
  let s := s0.publish
  withJob a s fun j =>
    match j with
    | some j => if j.active then complete 4 1 ((stopJob s j false).setX d 0) else complete 4 1 (s.setX d 1)
    | none => complete 4 1 (s.setX d 1)

end Sys2Proof.Machine
end

