-- ==== Sys2Proof/Machine/Scheduling.lean ====
section
/-! DEFINITION. Events of a core's scheduling: quantum expiry (R49), background restores (R43, R419), thermal displacement
(R51, R67, R68), mailbox writes of CSRs (R32), and the levelling of queues (R69). -/

namespace Sys2Proof.Machine

/-! ### Quantum expiry (R49) -/

/-- The quantum of a core's running or stalled task has run out; service cycles are not counted, and a request under way
holds the core. -/
def quantumOver (k : Core) (cyc : Word) : Bool :=
  k.run.task.isSome && k.service.isNone && !k.asked && decide (k.qlim.toNat ≤ cyc.toNat - k.qstart.toNat)

/-- The quantum restarts; a written QNTM applies from now (R49, R134). -/
def restartQuantum (s : State) : State := { s with core := { s.core with qstart := s.cyc, qlim := s.core.qntm } }

/-- Another Ready or Created task of at least the running task's priority. -/
def hasRival (s : State) (t : TaskInfo) : Bool := (candidates s).any (fun c => decide (s.prioOf t.serial ≤ s.prioOf c.serial))

/-- A running task becomes Ready, a stalled one Waiting, and the core picks. R45 lets a core with a stalled task pick no other, and R49
counts the stall and makes the task Ready: that it waits on, and that the core picks, is the model's choice (DESIGN CHOICE, log entry
65). -/
def expire (s : State) : State :=
  match s.core.run with
  | .running t => suspendAndPick s t .ready none (fullRecordBytes s.heldCtx)
  | .stalled t _ w =>
    let s1 := { countStall s w with pending := s.pending.filter (fun e => e ≠ Event.stallPromisePassed s.cur) }
    suspendAndPick s1 t .waiting (some w) (fullRecordBytes s1.heldCtx)
  | .idle => s

/-- A member of a gang is suspended where it holds its core, a routine running there or not. -/
def expireMember (serial tid : Nat) (s : State) : State :=
  match s.core.run.task with
  | some t => if t.serial = serial ∧ t.tid = tid then expire s else s
  | none => s

/-- What happens on the executing core when its quantum is over. A gang's quantum is counted on its leader, and suspends every
member (R29). -/
def expireHere (s : State) : State :=
  match s.core.run.task with
  | none => s
  | some t =>
    match t.gang with
    | .follower .. => restartQuantum s
    | .leader _ ms _ => if hasRival s t then ms.foldl (fun s m => s.onCore m.1 (expireMember t.serial m.2)) s else restartQuantum s
    | _ => if hasRival s t then expire s else restartQuantum s

/-- QUANTUM_EXPIRY. -/
def execQuantumExpiry (core : Nat) (s : State) : Out :=
  if quantumOver (s.coreOf core) s.cyc then .next (s.onCore core expireHere) else .next s

/-! ### Background restores (R43, R419) -/

/-- Whether the cache takes a record without evicting. -/
def cacheTakes (k : Core) (bytes : Nat) : Bool :=
  let cs := cached k.tasks
  decide (cs.length + 1 ≤ k.cclim.toNat) && decide (linesIn .cache cs + recordLines bytes ≤ 4096)

/-- Ready records outside the cache that it takes without evicting. -/
def restorable (k : Core) : List Suspended :=
  k.tasks.filter (fun u => u.phase = .ready ∧ (u.place = .bittern ∨ u.place = .backing) ∧ cacheTakes k u.bytes)

/-- Whether a restore can begin on a core. -/
def mayRestore (k : Core) : Bool := k.restoring.isNone && !(restorable k).isEmpty

/-- The restores that can begin are under way from now (R419). -/
def noteRestores (s : State) : State :=
  let cs := (if mayRestore s.core then [s.cur] else []) ++ (s.others.filter (fun p => mayRestore p.core)).map (fun p => p.id)
  { s with pending := s.pending ++ (cs.filter (fun c => !s.pending.contains (.backgroundRestore c))).map Event.backgroundRestore }

/-- A restore begins: the record counts in the cache from now. One that cannot be read back ends its task (R42), or has it
take the failed check when it issues (R39). -/
def beginRestore (s : State) : State :=
  match s.core.restoring, bestCandidate s ((restorable s.core).map .ready) with
  | none, some (.ready u) =>
    let start (u : Suspended) : State :=
      let s1 := { s with core := { s.core with restoring := some u.info.slot, tasks := setTask s.core.tasks { u with place := .cache } } }
      { s1.count 4 1 with pending := s1.pending ++ [Event.backgroundRestoreDone s.cur] }
    match restoreFault s u with
    | none => start u
    | some e =>
      if e.cause = .uncorrectableConsumed then start { u with info := { u.info with due := some (e.cause, e.sub, e.addr) }, wait := none }
      else endSuspended s u e.cause e.sub e.addr
  | _, _ => s

/-- BACKGROUND_RESTORE. -/
def execBackgroundRestore (core : Nat) (s : State) : Out :=
  takeEvent (.backgroundRestore core) s (fun s => s.onCore core beginRestore)

/-- BACKGROUND_RESTORE_DONE. -/
def execBackgroundRestoreDone (core : Nat) (s : State) : Out :=
  takeEvent (.backgroundRestoreDone core) s (fun s => s.setCore core { s.coreOf core with restoring := none })

/-! ### Thermal displacement (R51, R67, R68) -/

/-- THERMAL_RANKING_TABLE: sixteen cores, coolest first (R67). The table is empty until the first write, and one that does not hold
sixteen entries, or names a core of another die, is taken as it is written (DESIGN CHOICE, log entry 44). -/
def execThermalRankingTable (core : Nat) (table : List Nat) (s : State) : Out :=
  .next (s.setCore core { s.coreOf core with ranking := table.take 16 })

/-- Whether an outstanding copy of a task has a scratchpad of the executing core as its target. -/
def copiesHere (s : State) (u : Suspended) : Bool :=
  s.core.chans.toList.any (fun c => c.out.any (fun t => decide (t.serial = u.info.serial ∧ t.tid = u.info.tid) && (match t.job with
    | .copy _ dst _ true .. => (match resolvePlace s dst 0 0 with | .ok (x, _) => decide (x = s.cur) | .error _ => false)
    | .load _ _ _ _ => true
    | _ => false)))

/-- Whether a token is a presence word of a core. -/
def presenceOf (core : Nat) (t : Word) : Bool :=
  decide (tokKind t = 5) && decide (coreAt (bits t 32 30) (bits t 29 25) (bits t 24 20) = core)

/-- The conditions under which a mobile record is sent (R51). A task that has executed `gang` counts as a gang member from then on,
before its gang has formed (DESIGN CHOICE, log entry 43). -/
def mayMove (s : State) (u : Suspended) : Bool :=
  (match s.launchOf u.info.serial with | some l => l.mobile | none => false)
    && decide (u.info.gang = .none) && !copiesHere s u
    && !s.core.vamos.any (fun v => decide (v.serial = u.info.serial ∧ v.tid = u.info.tid))
    && !(match u.wait with | some w => w.tokens.any (presenceOf s.cur) | none => false)
    && !s.core.sbuf.any (fun b => decide (b.serial = u.info.serial ∧ b.tid = u.info.tid))

/-- Records offered to other cores, by slot. -/
def offered (s : State) : List Nat :=
  s.pending.filterMap (fun e => match e with | .mobileRecord c slot _ => if c = s.cur then some slot else none | _ => none)

/-- CCLIM was lowered: records leave the cache, mobile ones by an offer to the coolest core of the table (R41, R51). -/
def shrinkCache : Nat → State → State
  | 0, s => s
  | fuel + 1, s =>
    let cs := (cached s.core.tasks).filter (fun u => !(offered s).contains u.info.slot)
    if cs.length ≤ s.core.cclim.toNat then s
    else match oldest cs, s.core.ranking with
      | none, _ => s
      | some u, target :: _ =>
        if mayMove s u then shrinkCache fuel { s with pending := s.pending ++ [Event.mobileRecord s.cur u.info.slot target] }
        else shrinkCache fuel (evict s u)
      | some u, [] => shrinkCache fuel (evict s u)

/-- Whether a core is above the hot threshold, or below the cool one (R67). -/
def isHot (s : State) (k : Core) : Bool := decide (s.hot < k.temp)
def isCool (s : State) (k : Core) : Bool := decide (k.temp < s.cool)

/-- THERMAL_CCLIM_STEP: a core above the hot threshold lowers CCLIM by one, down to 2; one below the cool threshold raises it, up to the
value last written (R67). The schedule brings the step every 1,024 cycles. -/
def execThermalCclimStep (core : Nat) (hot : Bool) (s : State) : Out :=
  .next (s.onCore core (fun s =>
    if hot then
      if isHot s s.core then
        shrinkCache 65 { s with core := { s.core with cclim := if 2 < s.core.cclim then s.core.cclim - 1 else s.core.cclim } }
      else s
    else if isCool s s.core then
      { s with core := { s.core with cclim := if s.core.cclim < s.core.cclimSet then s.core.cclim + 1 else s.core.cclim } }
    else s))

/-- Whether a core accepts a mobile record (R68). -/
def acceptsRecord (s : State) (target : Nat) (u : Suspended) : Bool :=
  let k := s.coreOf target
  !isHot s k && !k.closed && !k.absent && decide (target ≠ s.cur) && decide (startedCount k < 64) && cacheTakes k u.bytes
    && (match s.launchOf u.info.serial with | some l => l.cores.contains target || decide (l.panMask = 0) | none => false)

/-- What concerns the wait of a slot of a core concerns another core's slot: the old core forwards what still arrives. -/
def moveEvent (core slot core' slot' : Nat) (e : Event) : Event :=
  let mine (c k : Nat) : Bool := decide (c = core ∧ k = slot)
  match e with
  | .tokenWake c k err => if mine c k then .tokenWake core' slot' err else e
  | .timerTokenReady c k => if mine c k then .timerTokenReady core' slot' else e
  | .awaitTimeout c k => if mine c k then .awaitTimeout core' slot' else e
  | .waituntilTime c k => if mine c k then .waituntilTime core' slot' else e
  | .waiterTableRetry c k => if mine c k then .waiterTableRetry core' slot' else e
  | .barrierTimeout c k => if mine c k then .barrierTimeout core' slot' else e
  | .queueWaiterWake c k => if mine c k then .queueWaiterWake core' slot' else e
  | .tokenRegistration h t c k => if mine c k then .tokenRegistration h t core' slot' else e
  | _ => e

/-- The record goes to another core, and its registrations with it (R68). -/
def moveRecord (s : State) (u : Suspended) (target : Nat) : State :=
  let s1 := s.count 3 1
  let slot := freeSlot (s1.coreOf target)
  let s2 := { s1 with
    core := pruneCopies { s1.core with tasks := dropTask s1.core.tasks u.info.slot }
    waiters := s1.waiters.map (fun (w : Waiter) => if w.core = s.cur ∧ w.slot = u.info.slot then { w with core := target, slot := slot } else w)
    pending := s1.pending.map (moveEvent s.cur u.info.slot target slot) }
  let k := s2.coreOf target
  let s3 := s2.setCore target { k with tasks := k.tasks ++ [{ u with info := { u.info with slot := slot }, place := .cache }] }
  (endEnrolment s3 (linesOfMask s.cur u.ctx.bwmask)).onCore target pickIfIdle

/-- The next core of a table after one. -/
def nextInTable (target : Nat) : List Nat → Option Nat
  | [] => none
  | c :: l => if c = target then l.head? else nextInTable target l

/-- MOBILE_RECORD: the core accepts the record, or the next of the table is asked, or the record is evicted (R68). -/
def execMobileRecord (core slot target : Nat) (s : State) : Out :=
  takeEvent (.mobileRecord core slot target) s (fun s => s.onCore core (fun s =>
    match (cached s.core.tasks).find? (fun u => u.info.slot = slot) with
    | none => s
    | some u =>
      if !mayMove s u then evict s u
      else if acceptsRecord s target u then moveRecord s u target
      else match nextInTable target s.core.ranking with
        | some c => { s with pending := s.pending ++ [Event.mobileRecord core slot c] }
        | none => evict s u))

/-! ### Mailbox writes (R32) -/

/-- MAILBOX_CSR_WRITE: the die supervisor writes CCLIM, QNTM or SWTH. -/
def execMailboxCsrWrite (core : Nat) (csr : BitVec 12) (value : BitVec 64) (s : State) : Out :=
  if csr = 0x042 ∨ csr = 0x043 ∨ csr = 0x044 then .next (s.onCore core (fun s => s.csrStore csr value)) else .next s

/-! ### Levelling (R69) -/

/-- The neighbours of a segment's core that have segments, in the order +x, -x, +y, -y. -/
def neighbourSegments (q seg : Nat) : List Nat :=
  let w := fieldOf q 311 308 + 1
  let h := fieldOf q 315 312 + 1
  let x := seg % w
  let y := seg / w
  (if x + 1 < w then [seg + 1] else []) ++ (if 0 < x then [seg - 1] else [])
    ++ (if y + 1 < h then [seg + w] else []) ++ (if 0 < y then [seg - w] else [])

/-- The neighbour with the smallest count, the first of equals. -/
def leastNeighbour (s : State) (part q : Nat) : List Nat → Option Nat
  | [] => none
  | g :: l => match leastNeighbour s part q l with
    | none => some g
    | some h => if segCount s part q g ≤ segCount s part q h then some g else some h

/-- A poisoned word keeps its mark where it is moved to (R228). -/
def movePoison (piece : Nat) (old : State) (src dst : List Nat) (s : State) : State :=
  (src.zip dst).foldl (fun s x => ((List.range (piece / 8)).filter (fun k => old.poison.contains (x.1 / 8 + k))).foldl
    (fun s k => setPoison s (x.2 / 8 + k) (old.pathPoison.contains (x.1 / 8 + k))) s) s

/-- Move the oldest of the youngest n entries of a segment to another, then the rest: the entries keep their order. -/
def moveEntries (part q src dst : Nat) : Nat → State → State
  | 0, s => s
  | n + 1, s =>
    let a := segCounts s part q src
    let b := segCounts s part q dst
    let from_ := segSlotVa q src (a.2 + 2 ^ 32 - (n + 1))
    let to_ := segSlotVa q dst b.2
    match slotPhys s part true Need.read q from_, slotPhys s part true Need.write q to_ with
    | .ok l, .ok m =>
      let s1 := movePoison (slotPiece q) s l m (writePieces (slotPiece q) s m (slotBytes s q l))
      let s2 := { s1 with full := setAdd (setDrop s1.full (l.headD 0 / 8)) (m.headD 0 / 8) }
      moveEntries part q src dst n (setSegCounts s2 part q dst b.1 (b.2 + 1))
    | _, _ => s

/-- One segment of a levelled queue against its neighbours: up to four entries move when it holds at least eight more. -/
def levelSegment (part qpa : Nat) (s : State) (seg : Nat) : State :=
  let q := readQcb s qpa
  match leastNeighbour s part q (neighbourSegments q seg) with
  | none => s
  | some dst =>
    if segCount s part q dst + 8 ≤ segCount s part q seg then
      let n := min 4 (qCap q / qSegs q - segCount s part q dst)
      let before := segCounts s part q seg
      let s1 := moveEntries part q seg dst n s
      let moved := (segCount s1 part q dst + 2 ^ 32 - segCount s part q dst) % 2 ^ 32
      setSegCounts s1 part q seg before.1 (before.2 + 2 ^ 32 - moved)
    else s

/-- LEVELLING_VISIT: the levelling unit of a die visits its queues; a quiesced launch's queue is left alone (R69, R302), and one that
fails R287 is reported, by the physical address of its block, as the unit knows no VA of it (R7; DEDUCED, log entry 61). -/
def execLevellingVisit (die : Nat) (s : State) : Out :=
  .next ((s.levelled.filter (fun x => homeDie x.1 = die)).foldl (fun s x =>
    let q := readQcb s x.1
    match qcbFailure s x.1 with
    | some k => reportCorrupt s x.2 0 8 k (BitVec.ofNat 64 x.1)
    | none => if qMode q ≠ 2 ∨ fieldOf q 76 76 = 1 then s
    else (List.range (qSegs q)).foldl (levelSegment x.2 x.1) s) s)

end Sys2Proof.Machine
end

