-- ==== Sys2Proof/Machine/System.lean ====
section
/-! DEFINITION. The system functions (R143-R149). -/

namespace Sys2Proof.Machine

def execNop (s : State) : Out := complete 4 1 s

/-- TRAP: Illegal instruction with bit 15 of the sub-code set; EADDR holds the word (R144). -/
def execTrap (a : BitVec 5) (s : State) : Out :=
  raise s (exc .illegalInstruction (0x8000 + bits (s.x a) 14 0) (BitVec.ofNat 64 (encTrap a)))

/-- ERET: only inside the task's handler (R145); an odd EPC raises Misaligned and stays in the handler. -/
def execEret (s : State) : Out :=
  if s.inService || !s.ctx.inHandler then illegal encEret s
  else if s.ctx.epc.getLsbD 0 then raise s (exc .misaligned 0 s.ctx.epc)
  else .next (returnFromHandler (s.retire 1))

/-- FENCE_I: the task's earlier stores reach their points of order, those to a peer its ingress (R240), and the fetch path's copies go
(R146). -/
def execFenceI (s : State) : Out :=
  let s1 := s.publish
  if s1.fabricOpen then waitHere s1 else complete 4 1 { s1 with core := { s1.core with fetched := [] } }

/-- Set whether a core of the die is sealed; the status says whether this instruction changed it (R147). -/
def setSealed (d a : BitVec 5) (closed : Bool) (s : State) : Out :=
  whenPrivileged s
    (withRes s (coreOperand s (s.x a) >>= otherCoreOfDie s (s.x a)) fun c =>
      let k := s.coreOf c
      if k.closed = closed then complete 4 1 (s.setX d 1)
      else complete 4 1 ((s.setCore c { k with closed := closed }).setX d 0))

def execSeal (d a : BitVec 5) (s : State) : Out := setSealed d a true s
def execUnseal (d a : BitVec 5) (s : State) : Out := setSealed d a false s

/-- TRESTART: Sluice orders the request and answers with a status (R148). -/
def execTrestart (d a b : BitVec 5) (s : State) : Out :=
  whenPrivileged s
    (withRes s (coreOperand s (s.x a)) fun c =>
     if bits (s.x b) 63 48 ≠ 0 then raise s (exc .bounds 0 (s.x b))
     else withRes s (otherCoreOfDie s (s.x a) c) fun c =>
       s.ask (.trestartRequest s.cur c (bits (s.x b) 15 0) (bits (s.x b) 47 16)) fun v s => complete 4 1 (s.setX d v))

/-- DBGFREEZE: ECAUSE and EPC are written, then every clock stops (R149, R399). -/
def execDbgfreeze (s : State) : Out :=
  whenPrivileged s
    (.next { s with
      ctx := { s.ctx with ecause := BitVec.ofNat 24 Cause.debugFreeze.code, epc := s.ctx.pc }
      frozen := true })

end Sys2Proof.Machine
end

