-- ==== Sys2Proof/Machine/Dispatch.lean ====
section
/-! DEFINITION. The dispatch of every constructor to its meaning, one direct call each. -/

namespace Sys2Proof.Machine

def exec (i : Instr) (s : State) : Host.Outcome State Fault Refusal :=
  match i with
  | .add d a b => Sys2Proof.Machine.execAdd d a b s
  | .sub d a b => Sys2Proof.Machine.execSub d a b s
  | .and d a b => Sys2Proof.Machine.execAnd d a b s
  | .or d a b => Sys2Proof.Machine.execOr d a b s
  | .xor d a b => Sys2Proof.Machine.execXor d a b s
  | .andn d a b => Sys2Proof.Machine.execAndn d a b s
  | .shl d a b => Sys2Proof.Machine.execShl d a b s
  | .shr d a b => Sys2Proof.Machine.execShr d a b s
  | .sar d a b => Sys2Proof.Machine.execSar d a b s
  | .rol d a b => Sys2Proof.Machine.execRol d a b s
  | .min d a b => Sys2Proof.Machine.execMin d a b s
  | .max d a b => Sys2Proof.Machine.execMax d a b s
  | .minN d a b => Sys2Proof.Machine.execMinN d a b s
  | .maxN d a b => Sys2Proof.Machine.execMaxN d a b s
  | .slt d a b => Sys2Proof.Machine.execSlt d a b s
  | .sltN d a b => Sys2Proof.Machine.execSltN d a b s
  | .seq d a b => Sys2Proof.Machine.execSeq d a b s
  | .mul d a b => Sys2Proof.Machine.execMul d a b s
  | .mulh d a b => Sys2Proof.Machine.execMulh d a b s
  | .mulhN d a b => Sys2Proof.Machine.execMulhN d a b s
  | .div d a b => Sys2Proof.Machine.execDiv d a b s
  | .divN d a b => Sys2Proof.Machine.execDivN d a b s
  | .rem d a b => Sys2Proof.Machine.execRem d a b s
  | .remN d a b => Sys2Proof.Machine.execRemN d a b s
  | .clz d a => Sys2Proof.Machine.execClz d a s
  | .ctz d a => Sys2Proof.Machine.execCtz d a s
  | .popc d a => Sys2Proof.Machine.execPopc d a s
  | .addi d a im => Sys2Proof.Machine.execAddi d a im s
  | .andi d a im => Sys2Proof.Machine.execAndi d a im s
  | .ori d a im => Sys2Proof.Machine.execOri d a im s
  | .xori d a im => Sys2Proof.Machine.execXori d a im s
  | .shli d a im => Sys2Proof.Machine.execShli d a im s
  | .shri d a im => Sys2Proof.Machine.execShri d a im s
  | .sari d a im => Sys2Proof.Machine.execSari d a im s
  | .slti d a im => Sys2Proof.Machine.execSlti d a im s
  | .li d im => Sys2Proof.Machine.execLi d im s
  | .lih d im => Sys2Proof.Machine.execLih d im s
  | .ext d a x l p => Sys2Proof.Machine.execExt d a x l p s
  | .ins d a l p => Sys2Proof.Machine.execIns d a l p s
  | .mkpl d a e y x => Sys2Proof.Machine.execMkpl d a e y x s
  | .mkplAbs d a e y x => Sys2Proof.Machine.execMkplAbs d a e y x s
  | .csrr d c => Sys2Proof.Machine.execCsrr d c s
  | .csrw d a c => Sys2Proof.Machine.execCsrw d a c s
  | .csrs d a c => Sys2Proof.Machine.execCsrs d a c s
  | .csrc d a c => Sys2Proof.Machine.execCsrc d a c s
  | .oxl n a b k => Sys2Proof.Machine.execOxl n a b k s
  | .oxm n a => Sys2Proof.Machine.execOxm n a s
  | .oxr d n => Sys2Proof.Machine.execOxr d n s
  | .b o => Sys2Proof.Machine.execB o s
  | .call o => Sys2Proof.Machine.execCall o s
  | .jr d a im => Sys2Proof.Machine.execJr d a im s
  | .beq a b o => Sys2Proof.Machine.execBeq a b o s
  | .bne a b o => Sys2Proof.Machine.execBne a b o s
  | .blt a b o => Sys2Proof.Machine.execBlt a b o s
  | .bge a b o => Sys2Proof.Machine.execBge a b o s
  | .bltN a b o => Sys2Proof.Machine.execBltN a b o s
  | .bgeN a b o => Sys2Proof.Machine.execBgeN a b o s
  | .bpAny p o => Sys2Proof.Machine.execBpAny p o s
  | .bpNone p o => Sys2Proof.Machine.execBpNone p o s
  | .bpAll p o => Sys2Proof.Machine.execBpAll p o s
  | .bpNall p o => Sys2Proof.Machine.execBpNall p o s
  | .nop => Sys2Proof.Machine.execNop s
  | .trap a => Sys2Proof.Machine.execTrap a s
  | .eret => Sys2Proof.Machine.execEret s
  | .fenceI => Sys2Proof.Machine.execFenceI s
  | .seal d a => Sys2Proof.Machine.execSeal d a s
  | .unseal d a => Sys2Proof.Machine.execUnseal d a s
  | .trestart d a b => Sys2Proof.Machine.execTrestart d a b s
  | .dbgfreeze => Sys2Proof.Machine.execDbgfreeze s
  | .cMov a b => Sys2Proof.Machine.execCMov a b s
  | .cAdd a b => Sys2Proof.Machine.execCAdd a b s
  | .cSub a b => Sys2Proof.Machine.execCSub a b s
  | .cAnd a b => Sys2Proof.Machine.execCAnd a b s
  | .cAddi a im => Sys2Proof.Machine.execCAddi a im s
  | .cLi a im => Sys2Proof.Machine.execCLi a im s
  | .cShli a im => Sys2Proof.Machine.execCShli a im s
  | .cLd a b => Sys2Proof.Machine.execCLd a b s
  | .cSt a b => Sys2Proof.Machine.execCSt a b s
  | .cB o => Sys2Proof.Machine.execCB o s
  | .cBeqz a im => Sys2Proof.Machine.execCBeqz a im s
  | .cBnez a im => Sys2Proof.Machine.execCBnez a im s
  | .cRet => Sys2Proof.Machine.execCRet s
  | .cAwait a im => Sys2Proof.Machine.execCAwait a im s
  | .cNop => Sys2Proof.Machine.execCNop s
  | .cOr a b => Sys2Proof.Machine.execCOr a b s
  | .cXor a b => Sys2Proof.Machine.execCXor a b s
  | .cShri a im => Sys2Proof.Machine.execCShri a im s
  | .cSari a im => Sys2Proof.Machine.execCSari a im s
  | .cLdw a b => Sys2Proof.Machine.execCLdw a b s
  | .cStw a b => Sys2Proof.Machine.execCStw a b s
  | .cSlt a b => Sys2Proof.Machine.execCSlt a b s
  | .cShl a b => Sys2Proof.Machine.execCShl a b s
  | .cShr a b => Sys2Proof.Machine.execCShr a b s
  | .cNeg a b => Sys2Proof.Machine.execCNeg a b s
  | .cSeq a b => Sys2Proof.Machine.execCSeq a b s
  | .cMul a b => Sys2Proof.Machine.execCMul a b s
  | .cYield => Sys2Proof.Machine.execCYield s
  | .cTend => Sys2Proof.Machine.execCTend s
  | .cMin a b => Sys2Proof.Machine.execCMin a b s
  | .cMax a b => Sys2Proof.Machine.execCMax a b s
  | .vset d a f g sr => Sys2Proof.Machine.execVset d a f g sr s
  | .vsetKeep d f g sr => Sys2Proof.Machine.execVsetKeep d f g sr s
  | .vadd d a b n p => Sys2Proof.Machine.execVadd d a b n p s
  | .vsub d a b n p => Sys2Proof.Machine.execVsub d a b n p s
  | .vmul d a b n p => Sys2Proof.Machine.execVmul d a b n p s
  | .vmulh d a b n p => Sys2Proof.Machine.execVmulh d a b n p s
  | .vmacc d a b n p => Sys2Proof.Machine.execVmacc d a b n p s
  | .vmin d a b n p => Sys2Proof.Machine.execVmin d a b n p s
  | .vmax d a b n p => Sys2Proof.Machine.execVmax d a b n p s
  | .vand d a b n p => Sys2Proof.Machine.execVand d a b n p s
  | .vor d a b n p => Sys2Proof.Machine.execVor d a b n p s
  | .vxor d a b n p => Sys2Proof.Machine.execVxor d a b n p s
  | .vshl d a b n p => Sys2Proof.Machine.execVshl d a b n p s
  | .vshr d a b n p => Sys2Proof.Machine.execVshr d a b n p s
  | .vsar d a b n p => Sys2Proof.Machine.execVsar d a b n p s
  | .vadds d a b n p => Sys2Proof.Machine.execVadds d a b n p s
  | .vsubs d a b n p => Sys2Proof.Machine.execVsubs d a b n p s
  | .vfadd d a b n p => Sys2Proof.Machine.execVfadd d a b n p s
  | .vfsub d a b n p => Sys2Proof.Machine.execVfsub d a b n p s
  | .vfmul d a b n p => Sys2Proof.Machine.execVfmul d a b n p s
  | .vfma d a b n p => Sys2Proof.Machine.execVfma d a b n p s
  | .vfms d a b n p => Sys2Proof.Machine.execVfms d a b n p s
  | .vfnma d a b n p => Sys2Proof.Machine.execVfnma d a b n p s
  | .vfmin d a b n p => Sys2Proof.Machine.execVfmin d a b n p s
  | .vfmax d a b n p => Sys2Proof.Machine.execVfmax d a b n p s
  | .vfdiv d a b n p => Sys2Proof.Machine.execVfdiv d a b n p s
  | .vmov d a n p => Sys2Proof.Machine.execVmov d a n p s
  | .vabs d a n p => Sys2Proof.Machine.execVabs d a n p s
  | .vneg d a n p => Sys2Proof.Machine.execVneg d a n p s
  | .vnot d a n p => Sys2Proof.Machine.execVnot d a n p s
  | .vclz d a n p => Sys2Proof.Machine.execVclz d a n p s
  | .vpopc d a n p => Sys2Proof.Machine.execVpopc d a n p s
  | .vfabs d a n p => Sys2Proof.Machine.execVfabs d a n p s
  | .vfneg d a n p => Sys2Proof.Machine.execVfneg d a n p s
  | .vfsqrt d a n p => Sys2Proof.Machine.execVfsqrt d a n p s
  | .vfrsq d a n p => Sys2Proof.Machine.execVfrsq d a n p s
  | .vfrcp d a n p => Sys2Proof.Machine.execVfrcp d a n p s
  | .vfexp2 d a n p => Sys2Proof.Machine.execVfexp2 d a n p s
  | .vflog2 d a n p => Sys2Proof.Machine.execVflog2 d a n p s
  | .vftanh d a n p => Sys2Proof.Machine.execVftanh d a n p s
  | .vfclass d a n p => Sys2Proof.Machine.execVfclass d a n p s
  | .vunpk4Lo d a n p => Sys2Proof.Machine.execVunpk4Lo d a n p s
  | .vunpk4Hi d a n p => Sys2Proof.Machine.execVunpk4Hi d a n p s
  | .vpack4 d a n p => Sys2Proof.Machine.execVpack4 d a n p s
  | .vcvtI8 d a n p => Sys2Proof.Machine.execVcvtI8 d a n p s
  | .vcvtN8 d a n p => Sys2Proof.Machine.execVcvtN8 d a n p s
  | .vcvtI16 d a n p => Sys2Proof.Machine.execVcvtI16 d a n p s
  | .vcvtN16 d a n p => Sys2Proof.Machine.execVcvtN16 d a n p s
  | .vcvtI32 d a n p => Sys2Proof.Machine.execVcvtI32 d a n p s
  | .vcvtN32 d a n p => Sys2Proof.Machine.execVcvtN32 d a n p s
  | .vcvtI64 d a n p => Sys2Proof.Machine.execVcvtI64 d a n p s
  | .vcvtF64 d a n p => Sys2Proof.Machine.execVcvtF64 d a n p s
  | .vcvtF32 d a n p => Sys2Proof.Machine.execVcvtF32 d a n p s
  | .vcvtF16 d a n p => Sys2Proof.Machine.execVcvtF16 d a n p s
  | .vcvtBf16 d a n p => Sys2Proof.Machine.execVcvtBf16 d a n p s
  | .vcvtE4m3 d a n p => Sys2Proof.Machine.execVcvtE4m3 d a n p s
  | .vcvtE5m2 d a n p => Sys2Proof.Machine.execVcvtE5m2 d a n p s
  | .vcvtE2m1 d a n p => Sys2Proof.Machine.execVcvtE2m1 d a n p s
  | .vcmpEq d a b p => Sys2Proof.Machine.execVcmpEq d a b p s
  | .vcmpNe d a b p => Sys2Proof.Machine.execVcmpNe d a b p s
  | .vcmpLt d a b p => Sys2Proof.Machine.execVcmpLt d a b p s
  | .vcmpGe d a b p => Sys2Proof.Machine.execVcmpGe d a b p s
  | .vcmpLe d a b p => Sys2Proof.Machine.execVcmpLe d a b p s
  | .vcmpGt d a b p => Sys2Proof.Machine.execVcmpGt d a b p s
  | .vfcmpEq d a b p => Sys2Proof.Machine.execVfcmpEq d a b p s
  | .vfcmpNe d a b p => Sys2Proof.Machine.execVfcmpNe d a b p s
  | .vfcmpLt d a b p => Sys2Proof.Machine.execVfcmpLt d a b p s
  | .vfcmpGe d a b p => Sys2Proof.Machine.execVfcmpGe d a b p s
  | .vfcmpLe d a b p => Sys2Proof.Machine.execVfcmpLe d a b p s
  | .vfcmpGt d a b p => Sys2Proof.Machine.execVfcmpGt d a b p s
  | .vfcmpUno d a b p => Sys2Proof.Machine.execVfcmpUno d a b p s
  | .vfcmpOrd d a b p => Sys2Proof.Machine.execVfcmpOrd d a b p s
  | .vmerge d a b n p => Sys2Proof.Machine.execVmerge d a b n p s
  | .vslideup d a sr n p => Sys2Proof.Machine.execVslideup d a sr n p s
  | .vslideupRot d a sr n p => Sys2Proof.Machine.execVslideupRot d a sr n p s
  | .vslidedn d a sr n p => Sys2Proof.Machine.execVslidedn d a sr n p s
  | .vslidednRot d a sr n p => Sys2Proof.Machine.execVslidednRot d a sr n p s
  | .vgathr d a b n p => Sys2Proof.Machine.execVgathr d a b n p s
  | .vcompress d a n p => Sys2Proof.Machine.execVcompress d a n p s
  | .vexpand d a n p => Sys2Proof.Machine.execVexpand d a n p s
  | .vbcast d sr n p => Sys2Proof.Machine.execVbcast d sr n p s
  | .vbcastE d a sr n p => Sys2Proof.Machine.execVbcastE d a sr n p s
  | .vextr im a d => Sys2Proof.Machine.execVextr im a d s
  | .vextrSx im a d => Sys2Proof.Machine.execVextrSx im a d s
  | .vins d im sr n p => Sys2Proof.Machine.execVins d im sr n p s
  | .vinsCv d im sr n p => Sys2Proof.Machine.execVinsCv d im sr n p s
  | .vfoldSum d a n p => Sys2Proof.Machine.execVfoldSum d a n p s
  | .vfoldMin d a n p => Sys2Proof.Machine.execVfoldMin d a n p s
  | .vfoldMax d a n p => Sys2Proof.Machine.execVfoldMax d a n p s
  | .vfoldAnd d a n p => Sys2Proof.Machine.execVfoldAnd d a n p s
  | .vfoldOr d a n p => Sys2Proof.Machine.execVfoldOr d a n p s
  | .vfoldXor d a n p => Sys2Proof.Machine.execVfoldXor d a n p s
  | .vfoldFsum d a n p => Sys2Proof.Machine.execVfoldFsum d a n p s
  | .vfoldFmin d a n p => Sys2Proof.Machine.execVfoldFmin d a n p s
  | .vfoldFmax d a n p => Sys2Proof.Machine.execVfoldFmax d a n p s
  | .vidx d n p => Sys2Proof.Machine.execVidx d n p s
  | .vrand d n p => Sys2Proof.Machine.execVrand d n p s
  | .vramp d sr n p => Sys2Proof.Machine.execVramp d sr n p s
  | .vrampC d sr n p => Sys2Proof.Machine.execVrampC d sr n p s
  | .vrampW d wl n p => Sys2Proof.Machine.execVrampW d wl n p s
  | .vrampCW d wl n p => Sys2Proof.Machine.execVrampCW d wl n p s
  | .vbsc d a b n p => Sys2Proof.Machine.execVbsc d a b n p s
  | .vfscl d a sr n p => Sys2Proof.Machine.execVfscl d a sr n p s
  | .vaddVs d a sr o n p => Sys2Proof.Machine.execVaddVs d a sr o n p s
  | .vmulVs d a sr o n p => Sys2Proof.Machine.execVmulVs d a sr o n p s
  | .vfaddVs d a sr o n p => Sys2Proof.Machine.execVfaddVs d a sr o n p s
  | .vfmulVs d a sr o n p => Sys2Proof.Machine.execVfmulVs d a sr o n p s
  | .vfmaVs d a sr o n p => Sys2Proof.Machine.execVfmaVs d a sr o n p s
  | .pand d a b => Sys2Proof.Machine.execPand d a b s
  | .por d a b => Sys2Proof.Machine.execPor d a b s
  | .pxor d a b => Sys2Proof.Machine.execPxor d a b s
  | .pandn d a b => Sys2Proof.Machine.execPandn d a b s
  | .pnot d a => Sys2Proof.Machine.execPnot d a s
  | .pmov d a => Sys2Proof.Machine.execPmov d a s
  | .psetn d a => Sys2Proof.Machine.execPsetn d a s
  | .pclr d => Sys2Proof.Machine.execPclr d s
  | .pfirst d a => Sys2Proof.Machine.execPfirst d a s
  | .pcnt d a => Sys2Proof.Machine.execPcnt d a s
  | .mma c a b f => Sys2Proof.Machine.execMma c a b f s
  | .mzero c => Sys2Proof.Machine.execMzero c s
  | .mepi c a b f => Sys2Proof.Machine.execMepi c a b f s
  | .mcks c a f => Sys2Proof.Machine.execMcks c a f s
  | .ld d b z o => Sys2Proof.Machine.execLd d b z o s
  | .ldN d b z o => Sys2Proof.Machine.execLdN d b z o s
  | .st d b z o => Sys2Proof.Machine.execSt d b z o s
  | .lda d b z t o => Sys2Proof.Machine.execLda d b z t o s
  | .ldp d a b x z => Sys2Proof.Machine.execLdp d a b x z s
  | .stp d a b z => Sys2Proof.Machine.execStp d a b z s
  | .ldpC d a b => Sys2Proof.Machine.execLdpC d a b s
  | .vld d b n p => Sys2Proof.Machine.execVld d b n p s
  | .vldS d b sr n p => Sys2Proof.Machine.execVldS d b sr n p s
  | .vst d b n p => Sys2Proof.Machine.execVst d b n p s
  | .vstCk d b r n p => Sys2Proof.Machine.execVstCk d b r n p s
  | .vstS d b sr n p => Sys2Proof.Machine.execVstS d b sr n p s
  | .vgld d b im n p => Sys2Proof.Machine.execVgld d b im n p s
  | .vgldX2 d b im n p => Sys2Proof.Machine.execVgldX2 d b im n p s
  | .vsst d b im n p => Sys2Proof.Machine.execVsst d b im n p s
  | .vldp d b n p => Sys2Proof.Machine.execVldp d b n p s
  | .vldpC d b n p => Sys2Proof.Machine.execVldpC d b n p s
  | .vstp d b n p => Sys2Proof.Machine.execVstp d b n p s
  | .pst b sr => Sys2Proof.Machine.execPst b sr s
  | .pstV d b n p => Sys2Proof.Machine.execPstV d b n p s
  | .xcopy t a b h k q sr => Sys2Proof.Machine.execXcopy t a b h k q sr s
  | .wbind a n => Sys2Proof.Machine.execWbind a n s
  | .wunb n => Sys2Proof.Machine.execWunb n s
  | .wskip a n => Sys2Proof.Machine.execWskip a n s
  | .wpos d n => Sys2Proof.Machine.execWpos d n s
  | .amoSwap d a b c o z => Sys2Proof.Machine.execAmoSwap d a b c o z s
  | .amoCas d a b c o z => Sys2Proof.Machine.execAmoCas d a b c o z s
  | .amoAdd d a b c o z => Sys2Proof.Machine.execAmoAdd d a b c o z s
  | .amoAnd d a b c o z => Sys2Proof.Machine.execAmoAnd d a b c o z s
  | .amoOr d a b c o z => Sys2Proof.Machine.execAmoOr d a b c o z s
  | .amoXor d a b c o z => Sys2Proof.Machine.execAmoXor d a b c o z s
  | .amoMin d a b c o z => Sys2Proof.Machine.execAmoMin d a b c o z s
  | .amoMax d a b c o z => Sys2Proof.Machine.execAmoMax d a b c o z s
  | .amoMinN d a b c o z => Sys2Proof.Machine.execAmoMinN d a b c o z s
  | .amoMaxN d a b c o z => Sys2Proof.Machine.execAmoMaxN d a b c o z s
  | .amoFadd d a b c o z => Sys2Proof.Machine.execAmoFadd d a b c o z s
  | .redAdd a b z => Sys2Proof.Machine.execRedAdd a b z s
  | .redAnd a b z => Sys2Proof.Machine.execRedAnd a b z s
  | .redOr a b z => Sys2Proof.Machine.execRedOr a b z s
  | .redXor a b z => Sys2Proof.Machine.execRedXor a b z s
  | .redMin a b z => Sys2Proof.Machine.execRedMin a b z s
  | .redMax a b z => Sys2Proof.Machine.execRedMax a b z s
  | .redMinN a b z => Sys2Proof.Machine.execRedMinN a b z s
  | .redMaxN a b z => Sys2Proof.Machine.execRedMaxN a b z s
  | .redFadd a b z => Sys2Proof.Machine.execRedFadd a b z s
  | .vamo d b im n p => Sys2Proof.Machine.execVamo d b im n p s
  | .vred d b im n p => Sys2Proof.Machine.execVred d b im n p s
  | .gll d b im n p => Sys2Proof.Machine.execGll d b im n p s
  | .scc d b im n p => Sys2Proof.Machine.execScc d b im n p s
  | .fence sr => Sys2Proof.Machine.execFence sr s
  | .fenceRel sr => Sys2Proof.Machine.execFenceRel sr s
  | .fenceAcq sr => Sys2Proof.Machine.execFenceAcq sr s
  | .fenceScPkg => Sys2Proof.Machine.execFenceScPkg s
  | .fenceSv => Sys2Proof.Machine.execFenceSv s
  | .fenceVs => Sys2Proof.Machine.execFenceVs s
  | .pbarOrder => Sys2Proof.Machine.execPbarOrder s
  | .pbarComplete => Sys2Proof.Machine.execPbarComplete s
  | .pflush a => Sys2Proof.Machine.execPflush a s
  | .prefL1 b z o => Sys2Proof.Machine.execPrefL1 b z o s
  | .prefL2 b z o => Sys2Proof.Machine.execPrefL2 b z o s
  | .dlg t a b => Sys2Proof.Machine.execDlg t a b s
  | .dlgAm a b => Sys2Proof.Machine.execDlgAm a b s
  | .cmoInv a => Sys2Proof.Machine.execCmoInv a s
  | .cmoWb a => Sys2Proof.Machine.execCmoWb a s
  | .cmoZero a => Sys2Proof.Machine.execCmoZero a s
  | .cmoPfr d a => Sys2Proof.Machine.execCmoPfr d a s
  | .cmoPfw a b => Sys2Proof.Machine.execCmoPfw a b s
  | .cmoObjclr a => Sys2Proof.Machine.execCmoObjclr a s
  | .qinit d a b => Sys2Proof.Machine.execQinit d a b s
  | .qfree d a => Sys2Proof.Machine.execQfree d a s
  | .qstat d a b => Sys2Proof.Machine.execQstat d a b s
  | .qpeek d a b => Sys2Proof.Machine.execQpeek d a b s
  | .enqTry p a b => Sys2Proof.Machine.execEnqTry p a b s
  | .enqWait a b => Sys2Proof.Machine.execEnqWait a b s
  | .deqTry p a b => Sys2Proof.Machine.execDeqTry p a b s
  | .deqWait a b => Sys2Proof.Machine.execDeqWait a b s
  | .venqTry d a p => Sys2Proof.Machine.execVenqTry d a p s
  | .venqWait d a => Sys2Proof.Machine.execVenqWait d a s
  | .vdeqTry d a p => Sys2Proof.Machine.execVdeqTry d a p s
  | .vdeqWait d a => Sys2Proof.Machine.execVdeqWait d a s
  | .tspawn d a => Sys2Proof.Machine.execTspawn d a s
  | .tend => Sys2Proof.Machine.execTend s
  | .yield => Sys2Proof.Machine.execYield s
  | .gjoin d a => Sys2Proof.Machine.execGjoin d a s
  | .gang d a b => Sys2Proof.Machine.execGang d a b s
  | .ungang => Sys2Proof.Machine.execUngang s
  | .wqry d a b => Sys2Proof.Machine.execWqry d a b s
  | .wqryOpen d a b => Sys2Proof.Machine.execWqryOpen d a b s
  | .tlbiVa a b => Sys2Proof.Machine.execTlbiVa a b s
  | .tlbiPart a => Sys2Proof.Machine.execTlbiPart a s
  | .tlbiAll => Sys2Proof.Machine.execTlbiAll s
  | .probe d a b => Sys2Proof.Machine.execProbe d a b s
  | .gissue d a b => Sys2Proof.Machine.execGissue d a b s
  | .grevoke d a => Sys2Proof.Machine.execGrevoke d a s
  | .gcheck d a b => Sys2Proof.Machine.execGcheck d a b s
  | .kvalloc d a b => Sys2Proof.Machine.execKvalloc d a b s
  | .kvallocInit d a b => Sys2Proof.Machine.execKvallocInit d a b s
  | .kvref d a b => Sys2Proof.Machine.execKvref d a b s
  | .kvunref d a b => Sys2Proof.Machine.execKvunref d a b s
  | .kvapp d a b => Sys2Proof.Machine.execKvapp d a b s
  | .kvspl d a b => Sys2Proof.Machine.execKvspl d a b s
  | .kvreq d a b => Sys2Proof.Machine.execKvreq d a b s
  | .kvsrcGet d a b => Sys2Proof.Machine.execKvsrcGet d a b s
  | .kvsrcSet d a b => Sys2Proof.Machine.execKvsrcSet d a b s
  | .kvsrcBump d a b => Sys2Proof.Machine.execKvsrcBump d a b s
  | .kvg d b e m => Sys2Proof.Machine.execKvg d b e m s
  | .kvgStale d b e m => Sys2Proof.Machine.execKvgStale d b e m s
  | .kvgRep d b e m => Sys2Proof.Machine.execKvgRep d b e m s
  | .kvgAny d b e m => Sys2Proof.Machine.execKvgAny d b e m s
  | .rkjob d a => Sys2Proof.Machine.execRkjob d a s
  | .rkstat d a => Sys2Proof.Machine.execRkstat d a s
  | .rkcancel d a => Sys2Proof.Machine.execRkcancel d a s
  | .await t l => Sys2Proof.Machine.execAwait t l s
  | .awaitT t l => Sys2Proof.Machine.execAwaitT t l s
  | .awaitany t l => Sys2Proof.Machine.execAwaitany t l s
  | .celli d a b => Sys2Proof.Machine.execCelli d a b s
  | .signal d a b e sr => Sys2Proof.Machine.execSignal d a b e sr s
  | .cread d a b => Sys2Proof.Machine.execCread d a b s
  | .rvinit d a b => Sys2Proof.Machine.execRvinit d a b s
  | .rvarr d a b => Sys2Proof.Machine.execRvarr d a b s
  | .rvfree d a => Sys2Proof.Machine.execRvfree d a s
  | .barw d => Sys2Proof.Machine.execBarw d s
  | .waituntil a b => Sys2Proof.Machine.execWaituntil a b s
  | .reportRound => Sys2Proof.Machine.execReportRound s
  | .launchDequeue part => Sys2Proof.Machine.execLaunchDequeue part s
  | .launchCancel order => Sys2Proof.Machine.execLaunchCancel order s
  | .panClaim core serial => Sys2Proof.Machine.execPanClaim core serial s
  | .creationMessage core serial tid restart => Sys2Proof.Machine.execCreationMessage core serial tid restart s
  | .endMessage core serial tid => Sys2Proof.Machine.execEndMessage core serial tid s
  | .tspawnRequest core seq serial target => Sys2Proof.Machine.execTspawnRequest core seq serial target s
  | .gjoinRequest core seq serial count => Sys2Proof.Machine.execGjoinRequest core seq serial count s
  | .wqryRequest core seq serial list place off => Sys2Proof.Machine.execWqryRequest core seq serial list place off s
  | .wqryOpenRequest core serial list extent => Sys2Proof.Machine.execWqryOpenRequest core serial list extent s
  | .trestartRequest core target lid tid => Sys2Proof.Machine.execTrestartRequest core target lid tid s
  | .sluiceReply core seq err => Sys2Proof.Machine.execSluiceReply core seq err s
  | .preemptionMessage core serial => Sys2Proof.Machine.execPreemptionMessage core serial s
  | .preemptionAcknowledgement core serial => Sys2Proof.Machine.execPreemptionAcknowledgement core serial s
  | .resumptionMessage core serial => Sys2Proof.Machine.execResumptionMessage core serial s
  | .quantumExpiry core => Sys2Proof.Machine.execQuantumExpiry core s
  | .stallPromisePassed core => Sys2Proof.Machine.execStallPromisePassed core s
  | .tokenWake core slot err => Sys2Proof.Machine.execTokenWake core slot err s
  | .tokenRegistration home token core slot => Sys2Proof.Machine.execTokenRegistration home token core slot s
  | .timerTokenReady core slot => Sys2Proof.Machine.execTimerTokenReady core slot s
  | .awaitTimeout core slot => Sys2Proof.Machine.execAwaitTimeout core slot s
  | .waituntilTime core slot => Sys2Proof.Machine.execWaituntilTime core slot s
  | .backgroundRestore core => Sys2Proof.Machine.execBackgroundRestore core s
  | .backgroundRestoreDone core => Sys2Proof.Machine.execBackgroundRestoreDone core s
  | .thermalRankingTable core table => Sys2Proof.Machine.execThermalRankingTable core table s
  | .thermalCclimStep core hot => Sys2Proof.Machine.execThermalCclimStep core hot s
  | .mobileRecord core slot target => Sys2Proof.Machine.execMobileRecord core slot target s
  | .mailboxCsrWrite core csr value => Sys2Proof.Machine.execMailboxCsrWrite core csr value s
  | .levellingVisit die => Sys2Proof.Machine.execLevellingVisit die s
  | .delegation core issuer seq part priv block => Sys2Proof.Machine.execDelegation core issuer seq part priv block s
  | .activeMessage core issuer part priv block => Sys2Proof.Machine.execActiveMessage core issuer part priv block s
  | .delegationReply core seq err => Sys2Proof.Machine.execDelegationReply core seq err s
  | .serviceRoutineTimeout core => Sys2Proof.Machine.execServiceRoutineTimeout core s
  | .gangJoin core member seq serial leaderTid index => Sys2Proof.Machine.execGangJoin core member seq serial leaderTid index s
  | .gangFormationTimeout core => Sys2Proof.Machine.execGangFormationTimeout core s
  | .gangOperandMessage core chunk => Sys2Proof.Machine.execGangOperandMessage core chunk s
  | .presenceStoreLanding core off value => Sys2Proof.Machine.execPresenceStoreLanding core off value s
  | .ldaDataArrival core id => Sys2Proof.Machine.execLdaDataArrival core id s
  | .vamoElementArrival core serial tid => Sys2Proof.Machine.execVamoElementArrival core serial tid s
  | .wellRefillLanding core well => Sys2Proof.Machine.execWellRefillLanding core well s
  | .transferComplete core ch id => Sys2Proof.Machine.execTransferComplete core ch id s
  | .channelCellResume core ch => Sys2Proof.Machine.execChannelCellResume core ch s
  | .storeBufferDrain core => Sys2Proof.Machine.execStoreBufferDrain core s
  | .durableStoreAccept num => Sys2Proof.Machine.execDurableStoreAccept num s
  | .persistAcknowledgement num => Sys2Proof.Machine.execPersistAcknowledgement num s
  | .containmentScrub core pass => Sys2Proof.Machine.execContainmentScrub core pass s
  | .queueWaiterWake core slot => Sys2Proof.Machine.execQueueWaiterWake core slot s
  | .waiterTableRetry core slot => Sys2Proof.Machine.execWaiterTableRetry core slot s
  | .wireBarrierRelease line => Sys2Proof.Machine.execWireBarrierRelease line s
  | .barrierTimeout core slot => Sys2Proof.Machine.execBarrierTimeout core slot s
  | .deferredArrival core ch id => Sys2Proof.Machine.execDeferredArrival core ch id s
  | .postedSignalRefused core token epc serial tid => Sys2Proof.Machine.execPostedSignalRefused core token epc serial tid s
  | .fabricErrorResponse num => Sys2Proof.Machine.execFabricErrorResponse num s
  | .ingressRequest kind peer part tpart off token data => Sys2Proof.Machine.execIngressRequest kind peer part tpart off token data s
  | .leaseExpiry line => Sys2Proof.Machine.execLeaseExpiry line s
  | .retentionEntry core pan => Sys2Proof.Machine.execRetentionEntry core pan s
  | .retentionExit core pan => Sys2Proof.Machine.execRetentionExit core pan s
  | .rakeJobStart part job => Sys2Proof.Machine.execRakeJobStart part job s
  | .rakeLayerAdvance part job => Sys2Proof.Machine.execRakeLayerAdvance part job s
  | .hostMemRead part off => Sys2Proof.Machine.execHostMemRead part off s
  | .hostMemWrite part off data => Sys2Proof.Machine.execHostMemWrite part off data s
  | .hostTailStore part off tail => Sys2Proof.Machine.execHostTailStore part off tail s
  | .hostBiResponse line => Sys2Proof.Machine.execHostBiResponse line s
  | .attestationRequest nonce => Sys2Proof.Machine.execAttestationRequest nonce s
  | .attestationSigned => Sys2Proof.Machine.execAttestationSigned s
  | .stationDown station => Sys2Proof.Machine.execStationDown station s
  | .bitternResize die mib => Sys2Proof.Machine.execBitternResize die mib s
  | .partitionLiveWrite part => Sys2Proof.Machine.execPartitionLiveWrite part s
  | .grantKeyRotation part slot => Sys2Proof.Machine.execGrantKeyRotation part slot s
  | .controlSpaceWrite pa data => Sys2Proof.Machine.execControlSpaceWrite pa data s
  | .adaptiveVoltagePeriod die => Sys2Proof.Machine.execAdaptiveVoltagePeriod die s
  | .equalisationPeriod => Sys2Proof.Machine.execEqualisationPeriod s
  | .thresholdPeriod watts => Sys2Proof.Machine.execThresholdPeriod watts s
  | .railDroop die cycles => Sys2Proof.Machine.execRailDroop die cycles s
  | .overtemperature celsius => Sys2Proof.Machine.execOvertemperature celsius s
  | .freezeSignal => Sys2Proof.Machine.execFreezeSignal s
  | .powerLoss => Sys2Proof.Machine.execPowerLoss s
  | .packageReset verified => Sys2Proof.Machine.execPackageReset verified s
  | .nonInstruction word => Sys2Proof.Machine.execNonInstruction word s
  | .coreCheckFailure core => Sys2Proof.Machine.execCoreCheckFailure core s
  | .mapOutDone core => Sys2Proof.Machine.execMapOutDone core s
  | .panPreparationDone core serial => Sys2Proof.Machine.execPanPreparationDone core serial s
  | .persistBufferDrain => Sys2Proof.Machine.execPersistBufferDrain s
  | .stationUp station => Sys2Proof.Machine.execStationUp station s
  | .fabricStoreAcknowledgement num => Sys2Proof.Machine.execFabricStoreAcknowledgement num s
  | .rakeCopyResume part job => Sys2Proof.Machine.execRakeCopyResume part job s

end Sys2Proof.Machine
end

