-- ==== Sys2Proof/Machine/EventRun.lean ====
section
/-! DEFINITION. An event under way takes place through the meaning of its row of the opcode table. -/

namespace Sys2Proof.Machine

/-- The event takes place. -/
def runEvent (e : Event) (s : State) : Host.Outcome State Fault Refusal :=
  match e with
  | .reportRound => execReportRound s
  | .launchDequeue part => execLaunchDequeue part s
  | .launchCancel order => execLaunchCancel order s
  | .panClaim core serial => execPanClaim core serial s
  | .creationMessage core serial tid restart => execCreationMessage core serial tid restart s
  | .endMessage core serial tid => execEndMessage core serial tid s
  | .tspawnRequest core seq serial target => execTspawnRequest core seq serial target s
  | .gjoinRequest core seq serial count => execGjoinRequest core seq serial count s
  | .wqryRequest core seq serial list place off => execWqryRequest core seq serial list place off s
  | .wqryOpenRequest core serial list extent => execWqryOpenRequest core serial list extent s
  | .trestartRequest core target lid tid => execTrestartRequest core target lid tid s
  | .sluiceReply core seq err => execSluiceReply core seq err s
  | .preemptionMessage core serial => execPreemptionMessage core serial s
  | .preemptionAcknowledgement core serial => execPreemptionAcknowledgement core serial s
  | .resumptionMessage core serial => execResumptionMessage core serial s
  | .quantumExpiry core => execQuantumExpiry core s
  | .stallPromisePassed core => execStallPromisePassed core s
  | .tokenWake core slot err => execTokenWake core slot err s
  | .tokenRegistration home token core slot => execTokenRegistration home token core slot s
  | .timerTokenReady core slot => execTimerTokenReady core slot s
  | .awaitTimeout core slot => execAwaitTimeout core slot s
  | .waituntilTime core slot => execWaituntilTime core slot s
  | .backgroundRestore core => execBackgroundRestore core s
  | .backgroundRestoreDone core => execBackgroundRestoreDone core s
  | .thermalRankingTable core table => execThermalRankingTable core table s
  | .thermalCclimStep core hot => execThermalCclimStep core hot s
  | .mobileRecord core slot target => execMobileRecord core slot target s
  | .mailboxCsrWrite core csr value => execMailboxCsrWrite core csr value s
  | .levellingVisit die => execLevellingVisit die s
  | .delegation core issuer seq part priv block => execDelegation core issuer seq part priv block s
  | .activeMessage core issuer part priv block => execActiveMessage core issuer part priv block s
  | .delegationReply core seq err => execDelegationReply core seq err s
  | .serviceRoutineTimeout core => execServiceRoutineTimeout core s
  | .gangJoin core member seq serial leaderTid index => execGangJoin core member seq serial leaderTid index s
  | .gangFormationTimeout core => execGangFormationTimeout core s
  | .gangOperandMessage core chunk => execGangOperandMessage core chunk s
  | .presenceStoreLanding core off value => execPresenceStoreLanding core off value s
  | .ldaDataArrival core id => execLdaDataArrival core id s
  | .vamoElementArrival core serial tid => execVamoElementArrival core serial tid s
  | .wellRefillLanding core well => execWellRefillLanding core well s
  | .transferComplete core ch id => execTransferComplete core ch id s
  | .channelCellResume core ch => execChannelCellResume core ch s
  | .storeBufferDrain core => execStoreBufferDrain core s
  | .durableStoreAccept num => execDurableStoreAccept num s
  | .persistAcknowledgement num => execPersistAcknowledgement num s
  | .containmentScrub core pass => execContainmentScrub core pass s
  | .queueWaiterWake core slot => execQueueWaiterWake core slot s
  | .waiterTableRetry core slot => execWaiterTableRetry core slot s
  | .wireBarrierRelease line => execWireBarrierRelease line s
  | .barrierTimeout core slot => execBarrierTimeout core slot s
  | .deferredArrival core ch id => execDeferredArrival core ch id s
  | .postedSignalRefused core token epc serial tid => execPostedSignalRefused core token epc serial tid s
  | .fabricErrorResponse num => execFabricErrorResponse num s
  | .ingressRequest kind peer part tpart off token data => execIngressRequest kind peer part tpart off token data s
  | .leaseExpiry line => execLeaseExpiry line s
  | .retentionEntry core pan => execRetentionEntry core pan s
  | .retentionExit core pan => execRetentionExit core pan s
  | .rakeJobStart part job => execRakeJobStart part job s
  | .rakeLayerAdvance part job => execRakeLayerAdvance part job s
  | .hostMemRead part off => execHostMemRead part off s
  | .hostMemWrite part off data => execHostMemWrite part off data s
  | .hostTailStore part off tail => execHostTailStore part off tail s
  | .hostBiResponse line => execHostBiResponse line s
  | .attestationRequest nonce => execAttestationRequest nonce s
  | .attestationSigned => execAttestationSigned s
  | .stationDown station => execStationDown station s
  | .bitternResize die mib => execBitternResize die mib s
  | .partitionLiveWrite part => execPartitionLiveWrite part s
  | .grantKeyRotation part slot => execGrantKeyRotation part slot s
  | .controlSpaceWrite pa data => execControlSpaceWrite pa data s
  | .adaptiveVoltagePeriod die => execAdaptiveVoltagePeriod die s
  | .equalisationPeriod => execEqualisationPeriod s
  | .thresholdPeriod watts => execThresholdPeriod watts s
  | .railDroop die cycles => execRailDroop die cycles s
  | .overtemperature celsius => execOvertemperature celsius s
  | .freezeSignal => execFreezeSignal s
  | .powerLoss => execPowerLoss s
  | .packageReset verified => execPackageReset verified s
  | .nonInstruction word => execNonInstruction word s
  | .coreCheckFailure core => execCoreCheckFailure core s
  | .mapOutDone core => execMapOutDone core s
  | .panPreparationDone core serial => execPanPreparationDone core serial s
  | .persistBufferDrain => execPersistBufferDrain s
  | .stationUp station => execStationUp station s
  | .fabricStoreAcknowledgement num => execFabricStoreAcknowledgement num s
  | .rakeCopyResume part job => execRakeCopyResume part job s

/-- The row of the opcode table an event is. -/
noncomputable def eventInstr : Event → Instr
  | .reportRound => .reportRound
  | .launchDequeue part => .launchDequeue part
  | .launchCancel order => .launchCancel order
  | .panClaim core serial => .panClaim core serial
  | .creationMessage core serial tid restart => .creationMessage core serial tid restart
  | .endMessage core serial tid => .endMessage core serial tid
  | .tspawnRequest core seq serial target => .tspawnRequest core seq serial target
  | .gjoinRequest core seq serial count => .gjoinRequest core seq serial count
  | .wqryRequest core seq serial list place off => .wqryRequest core seq serial list place off
  | .wqryOpenRequest core serial list extent => .wqryOpenRequest core serial list extent
  | .trestartRequest core target lid tid => .trestartRequest core target lid tid
  | .sluiceReply core seq err => .sluiceReply core seq err
  | .preemptionMessage core serial => .preemptionMessage core serial
  | .preemptionAcknowledgement core serial => .preemptionAcknowledgement core serial
  | .resumptionMessage core serial => .resumptionMessage core serial
  | .quantumExpiry core => .quantumExpiry core
  | .stallPromisePassed core => .stallPromisePassed core
  | .tokenWake core slot err => .tokenWake core slot err
  | .tokenRegistration home token core slot => .tokenRegistration home token core slot
  | .timerTokenReady core slot => .timerTokenReady core slot
  | .awaitTimeout core slot => .awaitTimeout core slot
  | .waituntilTime core slot => .waituntilTime core slot
  | .backgroundRestore core => .backgroundRestore core
  | .backgroundRestoreDone core => .backgroundRestoreDone core
  | .thermalRankingTable core table => .thermalRankingTable core table
  | .thermalCclimStep core hot => .thermalCclimStep core hot
  | .mobileRecord core slot target => .mobileRecord core slot target
  | .mailboxCsrWrite core csr value => .mailboxCsrWrite core csr value
  | .levellingVisit die => .levellingVisit die
  | .delegation core issuer seq part priv block => .delegation core issuer seq part priv block
  | .activeMessage core issuer part priv block => .activeMessage core issuer part priv block
  | .delegationReply core seq err => .delegationReply core seq err
  | .serviceRoutineTimeout core => .serviceRoutineTimeout core
  | .gangJoin core member seq serial leaderTid index => .gangJoin core member seq serial leaderTid index
  | .gangFormationTimeout core => .gangFormationTimeout core
  | .gangOperandMessage core chunk => .gangOperandMessage core chunk
  | .presenceStoreLanding core off value => .presenceStoreLanding core off value
  | .ldaDataArrival core id => .ldaDataArrival core id
  | .vamoElementArrival core serial tid => .vamoElementArrival core serial tid
  | .wellRefillLanding core well => .wellRefillLanding core well
  | .transferComplete core ch id => .transferComplete core ch id
  | .channelCellResume core ch => .channelCellResume core ch
  | .storeBufferDrain core => .storeBufferDrain core
  | .durableStoreAccept num => .durableStoreAccept num
  | .persistAcknowledgement num => .persistAcknowledgement num
  | .containmentScrub core pass => .containmentScrub core pass
  | .queueWaiterWake core slot => .queueWaiterWake core slot
  | .waiterTableRetry core slot => .waiterTableRetry core slot
  | .wireBarrierRelease line => .wireBarrierRelease line
  | .barrierTimeout core slot => .barrierTimeout core slot
  | .deferredArrival core ch id => .deferredArrival core ch id
  | .postedSignalRefused core token epc serial tid => .postedSignalRefused core token epc serial tid
  | .fabricErrorResponse num => .fabricErrorResponse num
  | .ingressRequest kind peer part tpart off token data => .ingressRequest kind peer part tpart off token data
  | .leaseExpiry line => .leaseExpiry line
  | .retentionEntry core pan => .retentionEntry core pan
  | .retentionExit core pan => .retentionExit core pan
  | .rakeJobStart part job => .rakeJobStart part job
  | .rakeLayerAdvance part job => .rakeLayerAdvance part job
  | .hostMemRead part off => .hostMemRead part off
  | .hostMemWrite part off data => .hostMemWrite part off data
  | .hostTailStore part off tail => .hostTailStore part off tail
  | .hostBiResponse line => .hostBiResponse line
  | .attestationRequest nonce => .attestationRequest nonce
  | .attestationSigned => .attestationSigned
  | .stationDown station => .stationDown station
  | .bitternResize die mib => .bitternResize die mib
  | .partitionLiveWrite part => .partitionLiveWrite part
  | .grantKeyRotation part slot => .grantKeyRotation part slot
  | .controlSpaceWrite pa data => .controlSpaceWrite pa data
  | .adaptiveVoltagePeriod die => .adaptiveVoltagePeriod die
  | .equalisationPeriod => .equalisationPeriod
  | .thresholdPeriod watts => .thresholdPeriod watts
  | .railDroop die cycles => .railDroop die cycles
  | .overtemperature celsius => .overtemperature celsius
  | .freezeSignal => .freezeSignal
  | .powerLoss => .powerLoss
  | .packageReset verified => .packageReset verified
  | .nonInstruction word => .nonInstruction word
  | .coreCheckFailure core => .coreCheckFailure core
  | .mapOutDone core => .mapOutDone core
  | .panPreparationDone core serial => .panPreparationDone core serial
  | .persistBufferDrain => .persistBufferDrain
  | .stationUp station => .stationUp station
  | .fabricStoreAcknowledgement num => .fabricStoreAcknowledgement num
  | .rakeCopyResume part job => .rakeCopyResume part job

end Sys2Proof.Machine
end

