-- ==== Sys2Proof/Machine/Hazard.lean ====
section
/-! DEFINITION. Which registers an instruction names, for the waits of R155 and R120. -/

namespace Sys2Proof.Machine

/-- Scalar registers an instruction reads or writes. -/
def scalarsOf : Instr → List (BitVec 5)
  | .add d a b => [d, a, b]
  | .sub d a b => [d, a, b]
  | .and d a b => [d, a, b]
  | .or d a b => [d, a, b]
  | .xor d a b => [d, a, b]
  | .andn d a b => [d, a, b]
  | .shl d a b => [d, a, b]
  | .shr d a b => [d, a, b]
  | .sar d a b => [d, a, b]
  | .rol d a b => [d, a, b]
  | .min d a b => [d, a, b]
  | .max d a b => [d, a, b]
  | .minN d a b => [d, a, b]
  | .maxN d a b => [d, a, b]
  | .slt d a b => [d, a, b]
  | .sltN d a b => [d, a, b]
  | .seq d a b => [d, a, b]
  | .mul d a b => [d, a, b]
  | .mulh d a b => [d, a, b]
  | .mulhN d a b => [d, a, b]
  | .div d a b => [d, a, b]
  | .divN d a b => [d, a, b]
  | .rem d a b => [d, a, b]
  | .remN d a b => [d, a, b]
  | .clz d a => [d, a]
  | .ctz d a => [d, a]
  | .popc d a => [d, a]
  | .addi d a _ => [d, a]
  | .andi d a _ => [d, a]
  | .ori d a _ => [d, a]
  | .xori d a _ => [d, a]
  | .shli d a _ => [d, a]
  | .shri d a _ => [d, a]
  | .sari d a _ => [d, a]
  | .slti d a _ => [d, a]
  | .li d _ => [d]
  | .lih d _ => [d]
  | .ext d a _ _ _ => [d, a]
  | .ins d a _ _ => [d, a]
  | .mkpl d a _ y x => [d, a, y, x]
  | .mkplAbs d a _ y x => [d, a, y, x]
  | .csrr d _ => [d]
  | .csrw d a _ => [d, a]
  | .csrs d a _ => [d, a]
  | .csrc d a _ => [d, a]
  | .oxl _ a b _ => [a, b]
  | .oxm _ a => [a]
  | .oxr d _ => [d]
  | .b _ => []
  | .call _ => [31]
  | .jr d a _ => [d, a]
  | .beq a b _ => [a, b]
  | .bne a b _ => [a, b]
  | .blt a b _ => [a, b]
  | .bge a b _ => [a, b]
  | .bltN a b _ => [a, b]
  | .bgeN a b _ => [a, b]
  | .bpAny _ _ => []
  | .bpNone _ _ => []
  | .bpAll _ _ => []
  | .bpNall _ _ => []
  | .nop => []
  | .trap a => [a]
  | .eret => []
  | .fenceI => []
  | .seal d a => [d, a]
  | .unseal d a => [d, a]
  | .trestart d a b => [d, a, b]
  | .dbgfreeze => []
  | .cMov a b => [a, b]
  | .cAdd a b => [a, b]
  | .cSub a b => [a, b]
  | .cAnd a b => [a, b]
  | .cAddi a _ => [a]
  | .cLi a _ => [a]
  | .cShli a _ => [a]
  | .cLd a b => [a, b]
  | .cSt a b => [a, b]
  | .cB _ => []
  | .cBeqz a _ => [a]
  | .cBnez a _ => [a]
  | .cRet => [31]
  | .cAwait a _ => [a]
  | .cNop => []
  | .cOr a b => [a, b]
  | .cXor a b => [a, b]
  | .cShri a _ => [a]
  | .cSari a _ => [a]
  | .cLdw a b => [a, b]
  | .cStw a b => [a, b]
  | .cSlt a b => [a, b]
  | .cShl a b => [a, b]
  | .cShr a b => [a, b]
  | .cNeg a b => [a, b]
  | .cSeq a b => [a, b]
  | .cMul a b => [a, b]
  | .cYield => []
  | .cTend => []
  | .cMin a b => [a, b]
  | .cMax a b => [a, b]
  | .vset d a _ _ _ => [d, a]
  | .vsetKeep d _ _ _ => [d]
  | .vadd _ _ _ _ _ => []
  | .vsub _ _ _ _ _ => []
  | .vmul _ _ _ _ _ => []
  | .vmulh _ _ _ _ _ => []
  | .vmacc _ _ _ _ _ => []
  | .vmin _ _ _ _ _ => []
  | .vmax _ _ _ _ _ => []
  | .vand _ _ _ _ _ => []
  | .vor _ _ _ _ _ => []
  | .vxor _ _ _ _ _ => []
  | .vshl _ _ _ _ _ => []
  | .vshr _ _ _ _ _ => []
  | .vsar _ _ _ _ _ => []
  | .vadds _ _ _ _ _ => []
  | .vsubs _ _ _ _ _ => []
  | .vfadd _ _ _ _ _ => []
  | .vfsub _ _ _ _ _ => []
  | .vfmul _ _ _ _ _ => []
  | .vfma _ _ _ _ _ => []
  | .vfms _ _ _ _ _ => []
  | .vfnma _ _ _ _ _ => []
  | .vfmin _ _ _ _ _ => []
  | .vfmax _ _ _ _ _ => []
  | .vfdiv _ _ _ _ _ => []
  | .vmov _ _ _ _ => []
  | .vabs _ _ _ _ => []
  | .vneg _ _ _ _ => []
  | .vnot _ _ _ _ => []
  | .vclz _ _ _ _ => []
  | .vpopc _ _ _ _ => []
  | .vfabs _ _ _ _ => []
  | .vfneg _ _ _ _ => []
  | .vfsqrt _ _ _ _ => []
  | .vfrsq _ _ _ _ => []
  | .vfrcp _ _ _ _ => []
  | .vfexp2 _ _ _ _ => []
  | .vflog2 _ _ _ _ => []
  | .vftanh _ _ _ _ => []
  | .vfclass _ _ _ _ => []
  | .vunpk4Lo _ _ _ _ => []
  | .vunpk4Hi _ _ _ _ => []
  | .vpack4 _ _ _ _ => []
  | .vcvtI8 _ _ _ _ => []
  | .vcvtN8 _ _ _ _ => []
  | .vcvtI16 _ _ _ _ => []
  | .vcvtN16 _ _ _ _ => []
  | .vcvtI32 _ _ _ _ => []
  | .vcvtN32 _ _ _ _ => []
  | .vcvtI64 _ _ _ _ => []
  | .vcvtF64 _ _ _ _ => []
  | .vcvtF32 _ _ _ _ => []
  | .vcvtF16 _ _ _ _ => []
  | .vcvtBf16 _ _ _ _ => []
  | .vcvtE4m3 _ _ _ _ => []
  | .vcvtE5m2 _ _ _ _ => []
  | .vcvtE2m1 _ _ _ _ => []
  | .vcmpEq _ _ _ _ => []
  | .vcmpNe _ _ _ _ => []
  | .vcmpLt _ _ _ _ => []
  | .vcmpGe _ _ _ _ => []
  | .vcmpLe _ _ _ _ => []
  | .vcmpGt _ _ _ _ => []
  | .vfcmpEq _ _ _ _ => []
  | .vfcmpNe _ _ _ _ => []
  | .vfcmpLt _ _ _ _ => []
  | .vfcmpGe _ _ _ _ => []
  | .vfcmpLe _ _ _ _ => []
  | .vfcmpGt _ _ _ _ => []
  | .vfcmpUno _ _ _ _ => []
  | .vfcmpOrd _ _ _ _ => []
  | .vmerge _ _ _ _ _ => []
  | .vslideup _ _ s _ _ => [s]
  | .vslideupRot _ _ s _ _ => [s]
  | .vslidedn _ _ s _ _ => [s]
  | .vslidednRot _ _ s _ _ => [s]
  | .vgathr _ _ _ _ _ => []
  | .vcompress _ _ _ _ => []
  | .vexpand _ _ _ _ => []
  | .vbcast _ s _ _ => [s]
  | .vbcastE _ _ s _ _ => [s]
  | .vextr i _ d => [d, i]
  | .vextrSx i _ d => [d, i]
  | .vins _ i s _ _ => [s, i]
  | .vinsCv _ i s _ _ => [s, i]
  | .vfoldSum _ _ _ _ => []
  | .vfoldMin _ _ _ _ => []
  | .vfoldMax _ _ _ _ => []
  | .vfoldAnd _ _ _ _ => []
  | .vfoldOr _ _ _ _ => []
  | .vfoldXor _ _ _ _ => []
  | .vfoldFsum _ _ _ _ => []
  | .vfoldFmin _ _ _ _ => []
  | .vfoldFmax _ _ _ _ => []
  | .vidx _ _ _ => []
  | .vrand _ _ _ => []
  | .vramp _ s _ _ => [s]
  | .vrampC _ s _ _ => [s]
  | .vrampW _ _ _ _ => []
  | .vrampCW _ _ _ _ => []
  | .vbsc _ _ _ _ _ => []
  | .vfscl _ _ s _ _ => [s]
  | .vaddVs _ _ s _ _ _ => [s]
  | .vmulVs _ _ s _ _ _ => [s]
  | .vfaddVs _ _ s _ _ _ => [s]
  | .vfmulVs _ _ s _ _ _ => [s]
  | .vfmaVs _ _ s _ _ _ => [s]
  | .pand _ _ _ => []
  | .por _ _ _ => []
  | .pxor _ _ _ => []
  | .pandn _ _ _ => []
  | .pnot _ _ => []
  | .pmov _ _ => []
  | .psetn _ a => [a]
  | .pclr _ => []
  | .pfirst d _ => [d]
  | .pcnt d _ => [d]
  | .mma _ _ _ _ => []
  | .mzero _ => []
  | .mepi _ _ _ _ => []
  | .mcks _ _ _ => []
  | .ld d b _ _ => [d, b]
  | .ldN d b _ _ => [d, b]
  | .st d b _ _ => [d, b]
  | .lda d b _ t _ => [d, b, t]
  | .ldp d a b _ _ => [d, a, b]
  | .stp d a b _ => [d, a, b]
  | .ldpC d a b => [d, a, b]
  | .vld _ b _ _ => [b]
  | .vldS _ b s _ _ => [b, s]
  | .vst _ b _ _ => [b]
  | .vstCk _ b _ _ _ => [b]
  | .vstS _ b s _ _ => [b, s]
  | .vgld _ b _ _ _ => [b]
  | .vgldX2 _ b _ _ _ => [b]
  | .vsst _ b _ _ _ => [b]
  | .vldp _ b _ _ => [b]
  | .vldpC _ b _ _ => [b]
  | .vstp _ b _ _ => [b]
  | .pst b s => [b, s]
  | .pstV _ b _ _ => [b]
  | .xcopy t a b _ _ _ _ => [t, a, b]
  | .wbind a _ => [a]
  | .wunb _ => []
  | .wskip a _ => [a]
  | .wpos d _ => [d]
  | .amoSwap d a b _ _ _ => [d, a, b]
  | .amoCas d a b _ _ _ => [d, a, b]
  | .amoAdd d a b _ _ _ => [d, a, b]
  | .amoAnd d a b _ _ _ => [d, a, b]
  | .amoOr d a b _ _ _ => [d, a, b]
  | .amoXor d a b _ _ _ => [d, a, b]
  | .amoMin d a b _ _ _ => [d, a, b]
  | .amoMax d a b _ _ _ => [d, a, b]
  | .amoMinN d a b _ _ _ => [d, a, b]
  | .amoMaxN d a b _ _ _ => [d, a, b]
  | .amoFadd d a b _ _ _ => [d, a, b]
  | .redAdd a b _ => [a, b]
  | .redAnd a b _ => [a, b]
  | .redOr a b _ => [a, b]
  | .redXor a b _ => [a, b]
  | .redMin a b _ => [a, b]
  | .redMax a b _ => [a, b]
  | .redMinN a b _ => [a, b]
  | .redMaxN a b _ => [a, b]
  | .redFadd a b _ => [a, b]
  | .vamo _ b _ _ _ => [b]
  | .vred _ b _ _ _ => [b]
  | .gll _ b _ _ _ => [b]
  | .scc _ b _ _ _ => [b]
  | .fence _ => []
  | .fenceRel _ => []
  | .fenceAcq _ => []
  | .fenceScPkg => []
  | .fenceSv => []
  | .fenceVs => []
  | .pbarOrder => []
  | .pbarComplete => []
  | .pflush a => [a]
  | .prefL1 b _ _ => [b]
  | .prefL2 b _ _ => [b]
  | .dlg t a b => [t, a, b]
  | .dlgAm a b => [a, b]
  | .cmoInv a => [a]
  | .cmoWb a => [a]
  | .cmoZero a => [a]
  | .cmoPfr d a => [d, a]
  | .cmoPfw a b => [a, b]
  | .cmoObjclr a => [a]
  | .qinit d a b => [d, a, b]
  | .qfree d a => [d, a]
  | .qstat d a b => [d, a, b]
  | .qpeek d a b => [d, a, b]
  | .enqTry _ a b => [a, b]
  | .enqWait a b => [a, b]
  | .deqTry _ a b => [a, b]
  | .deqWait a b => [a, b]
  | .venqTry _ a _ => [a]
  | .venqWait _ a => [a]
  | .vdeqTry _ a _ => [a]
  | .vdeqWait _ a => [a]
  | .tspawn d a => [d, a]
  | .tend => []
  | .yield => []
  | .gjoin d a => [d, a]
  | .gang d a b => [d, a, b]
  | .ungang => []
  | .wqry d a b => [d, a, b]
  | .wqryOpen d a b => [d, a, b]
  | .tlbiVa a b => [a, b]
  | .tlbiPart a => [a]
  | .tlbiAll => []
  | .probe d a b => [d, a, b]
  | .gissue d a b => [d, a, b]
  | .grevoke d a => [d, a]
  | .gcheck d a b => [d, a, b]
  | .kvalloc d a b => [d, a, b]
  | .kvallocInit d a b => [d, a, b]
  | .kvref d a b => [d, a, b]
  | .kvunref d a b => [d, a, b]
  | .kvapp d a b => [d, a, b]
  | .kvspl d a b => [d, a, b]
  | .kvreq d a b => [d, a, b]
  | .kvsrcGet d a b => [d, a, b]
  | .kvsrcSet d a b => [d, a, b]
  | .kvsrcBump d a b => [d, a, b]
  | .kvg _ b _ _ => [b]
  | .kvgStale _ b _ _ => [b]
  | .kvgRep _ b _ _ => [b]
  | .kvgAny _ b _ _ => [b]
  | .rkjob d a => [d, a]
  | .rkstat d a => [d, a]
  | .rkcancel d a => [d, a]
  | .await t _ => [t]
  | .awaitT t _ => [t]
  | .awaitany t _ => [t, t + 1]
  | .celli d a b => [d, a, b]
  | .signal d a b _ _ => [d, a, b]
  | .cread d a b => [d, a, b]
  | .rvinit d a b => [d, a, b]
  | .rvarr d a b => [d, a, b]
  | .rvfree d a => [d, a]
  | .barw d => [d]
  | .waituntil a b => [a, b]
  | .reportRound => []
  | .launchDequeue _ => []
  | .launchCancel _ => []
  | .panClaim _ _ => []
  | .creationMessage _ _ _ _ => []
  | .endMessage _ _ _ => []
  | .tspawnRequest _ _ _ _ => []
  | .gjoinRequest _ _ _ _ => []
  | .wqryRequest _ _ _ _ _ _ => []
  | .wqryOpenRequest _ _ _ _ => []
  | .trestartRequest _ _ _ _ => []
  | .sluiceReply _ _ _ => []
  | .preemptionMessage _ _ => []
  | .preemptionAcknowledgement _ _ => []
  | .resumptionMessage _ _ => []
  | .quantumExpiry _ => []
  | .stallPromisePassed _ => []
  | .tokenWake _ _ _ => []
  | .tokenRegistration _ _ _ _ => []
  | .timerTokenReady _ _ => []
  | .awaitTimeout _ _ => []
  | .waituntilTime _ _ => []
  | .backgroundRestore _ => []
  | .backgroundRestoreDone _ => []
  | .thermalRankingTable _ _ => []
  | .thermalCclimStep _ _ => []
  | .mobileRecord _ _ _ => []
  | .mailboxCsrWrite _ _ _ => []
  | .levellingVisit _ => []
  | .delegation _ _ _ _ _ _ => []
  | .activeMessage _ _ _ _ _ => []
  | .delegationReply _ _ _ => []
  | .serviceRoutineTimeout _ => []
  | .gangJoin _ _ _ _ _ _ => []
  | .gangFormationTimeout _ => []
  | .gangOperandMessage _ _ => []
  | .presenceStoreLanding _ _ _ => []
  | .ldaDataArrival _ _ => []
  | .vamoElementArrival _ _ _ => []
  | .wellRefillLanding _ _ => []
  | .transferComplete _ _ _ => []
  | .channelCellResume _ _ => []
  | .storeBufferDrain _ => []
  | .durableStoreAccept _ => []
  | .persistAcknowledgement _ => []
  | .containmentScrub _ _ => []
  | .queueWaiterWake _ _ => []
  | .waiterTableRetry _ _ => []
  | .wireBarrierRelease _ => []
  | .barrierTimeout _ _ => []
  | .deferredArrival _ _ _ => []
  | .postedSignalRefused _ _ _ _ _ => []
  | .fabricErrorResponse _ => []
  | .ingressRequest _ _ _ _ _ _ _ => []
  | .leaseExpiry _ => []
  | .retentionEntry _ _ => []
  | .retentionExit _ _ => []
  | .rakeJobStart _ _ => []
  | .rakeLayerAdvance _ _ => []
  | .hostMemRead _ _ => []
  | .hostMemWrite _ _ _ => []
  | .hostTailStore _ _ _ => []
  | .hostBiResponse _ => []
  | .attestationRequest _ => []
  | .attestationSigned => []
  | .stationDown _ => []
  | .bitternResize _ _ => []
  | .partitionLiveWrite _ => []
  | .grantKeyRotation _ _ => []
  | .controlSpaceWrite _ _ => []
  | .adaptiveVoltagePeriod _ => []
  | .equalisationPeriod => []
  | .thresholdPeriod _ => []
  | .railDroop _ _ => []
  | .overtemperature _ => []
  | .freezeSignal => []
  | .powerLoss => []
  | .packageReset _ => []
  | .nonInstruction _ => []
  | .coreCheckFailure _ => []
  | .mapOutDone _ => []
  | .panPreparationDone _ _ => []
  | .persistBufferDrain => []
  | .stationUp _ => []
  | .fabricStoreAcknowledgement _ => []
  | .rakeCopyResume _ _ => []

/-- Whether an instruction reads or writes vector registers. -/
def usesVectors : Instr → Bool
  | .add _ _ _ => false
  | .sub _ _ _ => false
  | .and _ _ _ => false
  | .or _ _ _ => false
  | .xor _ _ _ => false
  | .andn _ _ _ => false
  | .shl _ _ _ => false
  | .shr _ _ _ => false
  | .sar _ _ _ => false
  | .rol _ _ _ => false
  | .min _ _ _ => false
  | .max _ _ _ => false
  | .minN _ _ _ => false
  | .maxN _ _ _ => false
  | .slt _ _ _ => false
  | .sltN _ _ _ => false
  | .seq _ _ _ => false
  | .mul _ _ _ => false
  | .mulh _ _ _ => false
  | .mulhN _ _ _ => false
  | .div _ _ _ => false
  | .divN _ _ _ => false
  | .rem _ _ _ => false
  | .remN _ _ _ => false
  | .clz _ _ => false
  | .ctz _ _ => false
  | .popc _ _ => false
  | .addi _ _ _ => false
  | .andi _ _ _ => false
  | .ori _ _ _ => false
  | .xori _ _ _ => false
  | .shli _ _ _ => false
  | .shri _ _ _ => false
  | .sari _ _ _ => false
  | .slti _ _ _ => false
  | .li _ _ => false
  | .lih _ _ => false
  | .ext _ _ _ _ _ => false
  | .ins _ _ _ _ => false
  | .mkpl _ _ _ _ _ => false
  | .mkplAbs _ _ _ _ _ => false
  | .csrr _ _ => false
  | .csrw _ _ _ => false
  | .csrs _ _ _ => false
  | .csrc _ _ _ => false
  | .oxl _ _ _ _ => false
  | .oxm _ _ => false
  | .oxr _ _ => false
  | .b _ => false
  | .call _ => false
  | .jr _ _ _ => false
  | .beq _ _ _ => false
  | .bne _ _ _ => false
  | .blt _ _ _ => false
  | .bge _ _ _ => false
  | .bltN _ _ _ => false
  | .bgeN _ _ _ => false
  | .bpAny _ _ => false
  | .bpNone _ _ => false
  | .bpAll _ _ => false
  | .bpNall _ _ => false
  | .nop => false
  | .trap _ => false
  | .eret => false
  | .fenceI => false
  | .seal _ _ => false
  | .unseal _ _ => false
  | .trestart _ _ _ => false
  | .dbgfreeze => false
  | .cMov _ _ => false
  | .cAdd _ _ => false
  | .cSub _ _ => false
  | .cAnd _ _ => false
  | .cAddi _ _ => false
  | .cLi _ _ => false
  | .cShli _ _ => false
  | .cLd _ _ => false
  | .cSt _ _ => false
  | .cB _ => false
  | .cBeqz _ _ => false
  | .cBnez _ _ => false
  | .cRet => false
  | .cAwait _ _ => false
  | .cNop => false
  | .cOr _ _ => false
  | .cXor _ _ => false
  | .cShri _ _ => false
  | .cSari _ _ => false
  | .cLdw _ _ => false
  | .cStw _ _ => false
  | .cSlt _ _ => false
  | .cShl _ _ => false
  | .cShr _ _ => false
  | .cNeg _ _ => false
  | .cSeq _ _ => false
  | .cMul _ _ => false
  | .cYield => false
  | .cTend => false
  | .cMin _ _ => false
  | .cMax _ _ => false
  | .vset _ _ _ _ _ => false
  | .vsetKeep _ _ _ _ => false
  | .vadd _ _ _ _ _ => true
  | .vsub _ _ _ _ _ => true
  | .vmul _ _ _ _ _ => true
  | .vmulh _ _ _ _ _ => true
  | .vmacc _ _ _ _ _ => true
  | .vmin _ _ _ _ _ => true
  | .vmax _ _ _ _ _ => true
  | .vand _ _ _ _ _ => true
  | .vor _ _ _ _ _ => true
  | .vxor _ _ _ _ _ => true
  | .vshl _ _ _ _ _ => true
  | .vshr _ _ _ _ _ => true
  | .vsar _ _ _ _ _ => true
  | .vadds _ _ _ _ _ => true
  | .vsubs _ _ _ _ _ => true
  | .vfadd _ _ _ _ _ => true
  | .vfsub _ _ _ _ _ => true
  | .vfmul _ _ _ _ _ => true
  | .vfma _ _ _ _ _ => true
  | .vfms _ _ _ _ _ => true
  | .vfnma _ _ _ _ _ => true
  | .vfmin _ _ _ _ _ => true
  | .vfmax _ _ _ _ _ => true
  | .vfdiv _ _ _ _ _ => true
  | .vmov _ _ _ _ => true
  | .vabs _ _ _ _ => true
  | .vneg _ _ _ _ => true
  | .vnot _ _ _ _ => true
  | .vclz _ _ _ _ => true
  | .vpopc _ _ _ _ => true
  | .vfabs _ _ _ _ => true
  | .vfneg _ _ _ _ => true
  | .vfsqrt _ _ _ _ => true
  | .vfrsq _ _ _ _ => true
  | .vfrcp _ _ _ _ => true
  | .vfexp2 _ _ _ _ => true
  | .vflog2 _ _ _ _ => true
  | .vftanh _ _ _ _ => true
  | .vfclass _ _ _ _ => true
  | .vunpk4Lo _ _ _ _ => true
  | .vunpk4Hi _ _ _ _ => true
  | .vpack4 _ _ _ _ => true
  | .vcvtI8 _ _ _ _ => true
  | .vcvtN8 _ _ _ _ => true
  | .vcvtI16 _ _ _ _ => true
  | .vcvtN16 _ _ _ _ => true
  | .vcvtI32 _ _ _ _ => true
  | .vcvtN32 _ _ _ _ => true
  | .vcvtI64 _ _ _ _ => true
  | .vcvtF64 _ _ _ _ => true
  | .vcvtF32 _ _ _ _ => true
  | .vcvtF16 _ _ _ _ => true
  | .vcvtBf16 _ _ _ _ => true
  | .vcvtE4m3 _ _ _ _ => true
  | .vcvtE5m2 _ _ _ _ => true
  | .vcvtE2m1 _ _ _ _ => true
  | .vcmpEq _ _ _ _ => true
  | .vcmpNe _ _ _ _ => true
  | .vcmpLt _ _ _ _ => true
  | .vcmpGe _ _ _ _ => true
  | .vcmpLe _ _ _ _ => true
  | .vcmpGt _ _ _ _ => true
  | .vfcmpEq _ _ _ _ => true
  | .vfcmpNe _ _ _ _ => true
  | .vfcmpLt _ _ _ _ => true
  | .vfcmpGe _ _ _ _ => true
  | .vfcmpLe _ _ _ _ => true
  | .vfcmpGt _ _ _ _ => true
  | .vfcmpUno _ _ _ _ => true
  | .vfcmpOrd _ _ _ _ => true
  | .vmerge _ _ _ _ _ => true
  | .vslideup _ _ _ _ _ => true
  | .vslideupRot _ _ _ _ _ => true
  | .vslidedn _ _ _ _ _ => true
  | .vslidednRot _ _ _ _ _ => true
  | .vgathr _ _ _ _ _ => true
  | .vcompress _ _ _ _ => true
  | .vexpand _ _ _ _ => true
  | .vbcast _ _ _ _ => true
  | .vbcastE _ _ _ _ _ => true
  | .vextr _ _ _ => true
  | .vextrSx _ _ _ => true
  | .vins _ _ _ _ _ => true
  | .vinsCv _ _ _ _ _ => true
  | .vfoldSum _ _ _ _ => true
  | .vfoldMin _ _ _ _ => true
  | .vfoldMax _ _ _ _ => true
  | .vfoldAnd _ _ _ _ => true
  | .vfoldOr _ _ _ _ => true
  | .vfoldXor _ _ _ _ => true
  | .vfoldFsum _ _ _ _ => true
  | .vfoldFmin _ _ _ _ => true
  | .vfoldFmax _ _ _ _ => true
  | .vidx _ _ _ => true
  | .vrand _ _ _ => true
  | .vramp _ _ _ _ => true
  | .vrampC _ _ _ _ => true
  | .vrampW _ _ _ _ => true
  | .vrampCW _ _ _ _ => true
  | .vbsc _ _ _ _ _ => true
  | .vfscl _ _ _ _ _ => true
  | .vaddVs _ _ _ _ _ _ => true
  | .vmulVs _ _ _ _ _ _ => true
  | .vfaddVs _ _ _ _ _ _ => true
  | .vfmulVs _ _ _ _ _ _ => true
  | .vfmaVs _ _ _ _ _ _ => true
  | .pand _ _ _ => false
  | .por _ _ _ => false
  | .pxor _ _ _ => false
  | .pandn _ _ _ => false
  | .pnot _ _ => false
  | .pmov _ _ => false
  | .psetn _ _ => false
  | .pclr _ => false
  | .pfirst _ _ => false
  | .pcnt _ _ => false
  | .mma _ _ _ _ => true
  | .mzero _ => true
  | .mepi _ _ _ _ => true
  | .mcks _ _ _ => true
  | .ld _ _ _ _ => false
  | .ldN _ _ _ _ => false
  | .st _ _ _ _ => false
  | .lda _ _ _ _ _ => false
  | .ldp _ _ _ _ _ => false
  | .stp _ _ _ _ => false
  | .ldpC _ _ _ => false
  | .vld _ _ _ _ => true
  | .vldS _ _ _ _ _ => true
  | .vst _ _ _ _ => true
  | .vstCk _ _ _ _ _ => true
  | .vstS _ _ _ _ _ => true
  | .vgld _ _ _ _ _ => true
  | .vgldX2 _ _ _ _ _ => true
  | .vsst _ _ _ _ _ => true
  | .vldp _ _ _ _ => true
  | .vldpC _ _ _ _ => true
  | .vstp _ _ _ _ => true
  | .pst _ _ => false
  | .pstV _ _ _ _ => true
  | .xcopy _ _ _ _ _ _ _ => true
  | .wbind _ _ => false
  | .wunb _ => false
  | .wskip _ _ => false
  | .wpos _ _ => false
  | .amoSwap _ _ _ _ _ _ => false
  | .amoCas _ _ _ _ _ _ => false
  | .amoAdd _ _ _ _ _ _ => false
  | .amoAnd _ _ _ _ _ _ => false
  | .amoOr _ _ _ _ _ _ => false
  | .amoXor _ _ _ _ _ _ => false
  | .amoMin _ _ _ _ _ _ => false
  | .amoMax _ _ _ _ _ _ => false
  | .amoMinN _ _ _ _ _ _ => false
  | .amoMaxN _ _ _ _ _ _ => false
  | .amoFadd _ _ _ _ _ _ => false
  | .redAdd _ _ _ => false
  | .redAnd _ _ _ => false
  | .redOr _ _ _ => false
  | .redXor _ _ _ => false
  | .redMin _ _ _ => false
  | .redMax _ _ _ => false
  | .redMinN _ _ _ => false
  | .redMaxN _ _ _ => false
  | .redFadd _ _ _ => false
  | .vamo _ _ _ _ _ => true
  | .vred _ _ _ _ _ => true
  | .gll _ _ _ _ _ => true
  | .scc _ _ _ _ _ => true
  | .fence _ => false
  | .fenceRel _ => false
  | .fenceAcq _ => false
  | .fenceScPkg => false
  | .fenceSv => false
  | .fenceVs => false
  | .pbarOrder => false
  | .pbarComplete => false
  | .pflush _ => false
  | .prefL1 _ _ _ => false
  | .prefL2 _ _ _ => false
  | .dlg _ _ _ => false
  | .dlgAm _ _ => false
  | .cmoInv _ => false
  | .cmoWb _ => false
  | .cmoZero _ => false
  | .cmoPfr _ _ => false
  | .cmoPfw _ _ => false
  | .cmoObjclr _ => false
  | .qinit _ _ _ => false
  | .qfree _ _ => false
  | .qstat _ _ _ => false
  | .qpeek _ _ _ => false
  | .enqTry _ _ _ => false
  | .enqWait _ _ => false
  | .deqTry _ _ _ => false
  | .deqWait _ _ => false
  | .venqTry _ _ _ => true
  | .venqWait _ _ => true
  | .vdeqTry _ _ _ => true
  | .vdeqWait _ _ => true
  | .tspawn _ _ => false
  | .tend => false
  | .yield => false
  | .gjoin _ _ => false
  | .gang _ _ _ => false
  | .ungang => false
  | .wqry _ _ _ => false
  | .wqryOpen _ _ _ => false
  | .tlbiVa _ _ => false
  | .tlbiPart _ => false
  | .tlbiAll => false
  | .probe _ _ _ => false
  | .gissue _ _ _ => false
  | .grevoke _ _ => false
  | .gcheck _ _ _ => false
  | .kvalloc _ _ _ => false
  | .kvallocInit _ _ _ => false
  | .kvref _ _ _ => false
  | .kvunref _ _ _ => false
  | .kvapp _ _ _ => false
  | .kvspl _ _ _ => false
  | .kvreq _ _ _ => false
  | .kvsrcGet _ _ _ => false
  | .kvsrcSet _ _ _ => false
  | .kvsrcBump _ _ _ => false
  | .kvg _ _ _ _ => true
  | .kvgStale _ _ _ _ => true
  | .kvgRep _ _ _ _ => true
  | .kvgAny _ _ _ _ => true
  | .rkjob _ _ => false
  | .rkstat _ _ => false
  | .rkcancel _ _ => false
  | .await _ _ => false
  | .awaitT _ _ => false
  | .awaitany _ _ => false
  | .celli _ _ _ => false
  | .signal _ _ _ _ _ => false
  | .cread _ _ _ => false
  | .rvinit _ _ _ => false
  | .rvarr _ _ _ => false
  | .rvfree _ _ => false
  | .barw _ => false
  | .waituntil _ _ => false
  | .reportRound => false
  | .launchDequeue _ => false
  | .launchCancel _ => false
  | .panClaim _ _ => false
  | .creationMessage _ _ _ _ => false
  | .endMessage _ _ _ => false
  | .tspawnRequest _ _ _ _ => false
  | .gjoinRequest _ _ _ _ => false
  | .wqryRequest _ _ _ _ _ _ => false
  | .wqryOpenRequest _ _ _ _ => false
  | .trestartRequest _ _ _ _ => false
  | .sluiceReply _ _ _ => false
  | .preemptionMessage _ _ => false
  | .preemptionAcknowledgement _ _ => false
  | .resumptionMessage _ _ => false
  | .quantumExpiry _ => false
  | .stallPromisePassed _ => false
  | .tokenWake _ _ _ => false
  | .tokenRegistration _ _ _ _ => false
  | .timerTokenReady _ _ => false
  | .awaitTimeout _ _ => false
  | .waituntilTime _ _ => false
  | .backgroundRestore _ => false
  | .backgroundRestoreDone _ => false
  | .thermalRankingTable _ _ => false
  | .thermalCclimStep _ _ => false
  | .mobileRecord _ _ _ => false
  | .mailboxCsrWrite _ _ _ => false
  | .levellingVisit _ => false
  | .delegation _ _ _ _ _ _ => false
  | .activeMessage _ _ _ _ _ => false
  | .delegationReply _ _ _ => false
  | .serviceRoutineTimeout _ => false
  | .gangJoin _ _ _ _ _ _ => false
  | .gangFormationTimeout _ => false
  | .gangOperandMessage _ _ => false
  | .presenceStoreLanding _ _ _ => false
  | .ldaDataArrival _ _ => false
  | .vamoElementArrival _ _ _ => false
  | .wellRefillLanding _ _ => false
  | .transferComplete _ _ _ => false
  | .channelCellResume _ _ => false
  | .storeBufferDrain _ => false
  | .durableStoreAccept _ => false
  | .persistAcknowledgement _ => false
  | .containmentScrub _ _ => false
  | .queueWaiterWake _ _ => false
  | .waiterTableRetry _ _ => false
  | .wireBarrierRelease _ => false
  | .barrierTimeout _ _ => false
  | .deferredArrival _ _ _ => false
  | .postedSignalRefused _ _ _ _ _ => false
  | .fabricErrorResponse _ => false
  | .ingressRequest _ _ _ _ _ _ _ => false
  | .leaseExpiry _ => false
  | .retentionEntry _ _ => false
  | .retentionExit _ _ => false
  | .rakeJobStart _ _ => false
  | .rakeLayerAdvance _ _ => false
  | .hostMemRead _ _ => false
  | .hostMemWrite _ _ _ => false
  | .hostTailStore _ _ _ => false
  | .hostBiResponse _ => false
  | .attestationRequest _ => false
  | .attestationSigned => false
  | .stationDown _ => false
  | .bitternResize _ _ => false
  | .partitionLiveWrite _ => false
  | .grantKeyRotation _ _ => false
  | .controlSpaceWrite _ _ => false
  | .adaptiveVoltagePeriod _ => false
  | .equalisationPeriod => false
  | .thresholdPeriod _ => false
  | .railDroop _ _ => false
  | .overtemperature _ => false
  | .freezeSignal => false
  | .powerLoss => false
  | .packageReset _ => false
  | .nonInstruction _ => false
  | .coreCheckFailure _ => false
  | .mapOutDone _ => false
  | .panPreparationDone _ _ => false
  | .persistBufferDrain => false
  | .stationUp _ => false
  | .fabricStoreAcknowledgement _ => false
  | .rakeCopyResume _ _ => false

/-- Whether reductions may stay collected while an instruction executes: one that does not touch memory, a reduction, or a load or store,
which combines what it reads itself (R249). Every other instruction comes after everything collected. -/
def leavesCollected : Instr → Bool
  | .add _ _ _ => true
  | .sub _ _ _ => true
  | .and _ _ _ => true
  | .or _ _ _ => true
  | .xor _ _ _ => true
  | .andn _ _ _ => true
  | .shl _ _ _ => true
  | .shr _ _ _ => true
  | .sar _ _ _ => true
  | .rol _ _ _ => true
  | .min _ _ _ => true
  | .max _ _ _ => true
  | .minN _ _ _ => true
  | .maxN _ _ _ => true
  | .slt _ _ _ => true
  | .sltN _ _ _ => true
  | .seq _ _ _ => true
  | .mul _ _ _ => true
  | .mulh _ _ _ => true
  | .mulhN _ _ _ => true
  | .div _ _ _ => true
  | .divN _ _ _ => true
  | .rem _ _ _ => true
  | .remN _ _ _ => true
  | .clz _ _ => true
  | .ctz _ _ => true
  | .popc _ _ => true
  | .addi _ _ _ => true
  | .andi _ _ _ => true
  | .ori _ _ _ => true
  | .xori _ _ _ => true
  | .shli _ _ _ => true
  | .shri _ _ _ => true
  | .sari _ _ _ => true
  | .slti _ _ _ => true
  | .li _ _ => true
  | .lih _ _ => true
  | .ext _ _ _ _ _ => true
  | .ins _ _ _ _ => true
  | .mkpl _ _ _ _ _ => true
  | .mkplAbs _ _ _ _ _ => true
  | .csrr _ _ => true
  | .csrw _ _ _ => true
  | .csrs _ _ _ => true
  | .csrc _ _ _ => true
  | .oxl _ _ _ _ => true
  | .oxm _ _ => true
  | .oxr _ _ => true
  | .b _ => true
  | .call _ => true
  | .jr _ _ _ => true
  | .beq _ _ _ => true
  | .bne _ _ _ => true
  | .blt _ _ _ => true
  | .bge _ _ _ => true
  | .bltN _ _ _ => true
  | .bgeN _ _ _ => true
  | .bpAny _ _ => true
  | .bpNone _ _ => true
  | .bpAll _ _ => true
  | .bpNall _ _ => true
  | .nop => true
  | .trap _ => false
  | .eret => false
  | .fenceI => false
  | .seal _ _ => false
  | .unseal _ _ => false
  | .trestart _ _ _ => false
  | .dbgfreeze => false
  | .cMov _ _ => true
  | .cAdd _ _ => true
  | .cSub _ _ => true
  | .cAnd _ _ => true
  | .cAddi _ _ => true
  | .cLi _ _ => true
  | .cShli _ _ => true
  | .cLd _ _ => true
  | .cSt _ _ => true
  | .cB _ => true
  | .cBeqz _ _ => true
  | .cBnez _ _ => true
  | .cRet => true
  | .cAwait _ _ => false
  | .cNop => true
  | .cOr _ _ => true
  | .cXor _ _ => true
  | .cShri _ _ => true
  | .cSari _ _ => true
  | .cLdw _ _ => true
  | .cStw _ _ => true
  | .cSlt _ _ => true
  | .cShl _ _ => true
  | .cShr _ _ => true
  | .cNeg _ _ => true
  | .cSeq _ _ => true
  | .cMul _ _ => true
  | .cYield => false
  | .cTend => false
  | .cMin _ _ => true
  | .cMax _ _ => true
  | .vset _ _ _ _ _ => true
  | .vsetKeep _ _ _ _ => true
  | .vadd _ _ _ _ _ => true
  | .vsub _ _ _ _ _ => true
  | .vmul _ _ _ _ _ => true
  | .vmulh _ _ _ _ _ => true
  | .vmacc _ _ _ _ _ => true
  | .vmin _ _ _ _ _ => true
  | .vmax _ _ _ _ _ => true
  | .vand _ _ _ _ _ => true
  | .vor _ _ _ _ _ => true
  | .vxor _ _ _ _ _ => true
  | .vshl _ _ _ _ _ => true
  | .vshr _ _ _ _ _ => true
  | .vsar _ _ _ _ _ => true
  | .vadds _ _ _ _ _ => true
  | .vsubs _ _ _ _ _ => true
  | .vfadd _ _ _ _ _ => true
  | .vfsub _ _ _ _ _ => true
  | .vfmul _ _ _ _ _ => true
  | .vfma _ _ _ _ _ => true
  | .vfms _ _ _ _ _ => true
  | .vfnma _ _ _ _ _ => true
  | .vfmin _ _ _ _ _ => true
  | .vfmax _ _ _ _ _ => true
  | .vfdiv _ _ _ _ _ => true
  | .vmov _ _ _ _ => true
  | .vabs _ _ _ _ => true
  | .vneg _ _ _ _ => true
  | .vnot _ _ _ _ => true
  | .vclz _ _ _ _ => true
  | .vpopc _ _ _ _ => true
  | .vfabs _ _ _ _ => true
  | .vfneg _ _ _ _ => true
  | .vfsqrt _ _ _ _ => true
  | .vfrsq _ _ _ _ => true
  | .vfrcp _ _ _ _ => true
  | .vfexp2 _ _ _ _ => true
  | .vflog2 _ _ _ _ => true
  | .vftanh _ _ _ _ => true
  | .vfclass _ _ _ _ => true
  | .vunpk4Lo _ _ _ _ => true
  | .vunpk4Hi _ _ _ _ => true
  | .vpack4 _ _ _ _ => true
  | .vcvtI8 _ _ _ _ => true
  | .vcvtN8 _ _ _ _ => true
  | .vcvtI16 _ _ _ _ => true
  | .vcvtN16 _ _ _ _ => true
  | .vcvtI32 _ _ _ _ => true
  | .vcvtN32 _ _ _ _ => true
  | .vcvtI64 _ _ _ _ => true
  | .vcvtF64 _ _ _ _ => true
  | .vcvtF32 _ _ _ _ => true
  | .vcvtF16 _ _ _ _ => true
  | .vcvtBf16 _ _ _ _ => true
  | .vcvtE4m3 _ _ _ _ => true
  | .vcvtE5m2 _ _ _ _ => true
  | .vcvtE2m1 _ _ _ _ => true
  | .vcmpEq _ _ _ _ => true
  | .vcmpNe _ _ _ _ => true
  | .vcmpLt _ _ _ _ => true
  | .vcmpGe _ _ _ _ => true
  | .vcmpLe _ _ _ _ => true
  | .vcmpGt _ _ _ _ => true
  | .vfcmpEq _ _ _ _ => true
  | .vfcmpNe _ _ _ _ => true
  | .vfcmpLt _ _ _ _ => true
  | .vfcmpGe _ _ _ _ => true
  | .vfcmpLe _ _ _ _ => true
  | .vfcmpGt _ _ _ _ => true
  | .vfcmpUno _ _ _ _ => true
  | .vfcmpOrd _ _ _ _ => true
  | .vmerge _ _ _ _ _ => true
  | .vslideup _ _ _ _ _ => true
  | .vslideupRot _ _ _ _ _ => true
  | .vslidedn _ _ _ _ _ => true
  | .vslidednRot _ _ _ _ _ => true
  | .vgathr _ _ _ _ _ => true
  | .vcompress _ _ _ _ => true
  | .vexpand _ _ _ _ => true
  | .vbcast _ _ _ _ => true
  | .vbcastE _ _ _ _ _ => true
  | .vextr _ _ _ => true
  | .vextrSx _ _ _ => true
  | .vins _ _ _ _ _ => true
  | .vinsCv _ _ _ _ _ => true
  | .vfoldSum _ _ _ _ => true
  | .vfoldMin _ _ _ _ => true
  | .vfoldMax _ _ _ _ => true
  | .vfoldAnd _ _ _ _ => true
  | .vfoldOr _ _ _ _ => true
  | .vfoldXor _ _ _ _ => true
  | .vfoldFsum _ _ _ _ => true
  | .vfoldFmin _ _ _ _ => true
  | .vfoldFmax _ _ _ _ => true
  | .vidx _ _ _ => true
  | .vrand _ _ _ => true
  | .vramp _ _ _ _ => true
  | .vrampC _ _ _ _ => true
  | .vrampW _ _ _ _ => true
  | .vrampCW _ _ _ _ => true
  | .vbsc _ _ _ _ _ => true
  | .vfscl _ _ _ _ _ => true
  | .vaddVs _ _ _ _ _ _ => true
  | .vmulVs _ _ _ _ _ _ => true
  | .vfaddVs _ _ _ _ _ _ => true
  | .vfmulVs _ _ _ _ _ _ => true
  | .vfmaVs _ _ _ _ _ _ => true
  | .pand _ _ _ => true
  | .por _ _ _ => true
  | .pxor _ _ _ => true
  | .pandn _ _ _ => true
  | .pnot _ _ => true
  | .pmov _ _ => true
  | .psetn _ _ => true
  | .pclr _ => true
  | .pfirst _ _ => true
  | .pcnt _ _ => true
  | .mma _ _ _ _ => true
  | .mzero _ => true
  | .mepi _ _ _ _ => true
  | .mcks _ _ _ => true
  | .ld _ _ _ _ => true
  | .ldN _ _ _ _ => true
  | .st _ _ _ _ => true
  | .lda _ _ _ _ _ => true
  | .ldp _ _ _ _ _ => true
  | .stp _ _ _ _ => true
  | .ldpC _ _ _ => true
  | .vld _ _ _ _ => true
  | .vldS _ _ _ _ _ => true
  | .vst _ _ _ _ => true
  | .vstCk _ _ _ _ _ => true
  | .vstS _ _ _ _ _ => true
  | .vgld _ _ _ _ _ => true
  | .vgldX2 _ _ _ _ _ => true
  | .vsst _ _ _ _ _ => true
  | .vldp _ _ _ _ => true
  | .vldpC _ _ _ _ => true
  | .vstp _ _ _ _ => true
  | .pst _ _ => false
  | .pstV _ _ _ _ => false
  | .xcopy _ _ _ _ _ _ _ => false
  | .wbind _ _ => true
  | .wunb _ => true
  | .wskip _ _ => true
  | .wpos _ _ => true
  | .amoSwap _ _ _ _ _ _ => false
  | .amoCas _ _ _ _ _ _ => false
  | .amoAdd _ _ _ _ _ _ => false
  | .amoAnd _ _ _ _ _ _ => false
  | .amoOr _ _ _ _ _ _ => false
  | .amoXor _ _ _ _ _ _ => false
  | .amoMin _ _ _ _ _ _ => false
  | .amoMax _ _ _ _ _ _ => false
  | .amoMinN _ _ _ _ _ _ => false
  | .amoMaxN _ _ _ _ _ _ => false
  | .amoFadd _ _ _ _ _ _ => false
  | .redAdd _ _ _ => true
  | .redAnd _ _ _ => true
  | .redOr _ _ _ => true
  | .redXor _ _ _ => true
  | .redMin _ _ _ => true
  | .redMax _ _ _ => true
  | .redMinN _ _ _ => true
  | .redMaxN _ _ _ => true
  | .redFadd _ _ _ => true
  | .vamo _ _ _ _ _ => false
  | .vred _ _ _ _ _ => true
  | .gll _ _ _ _ _ => false
  | .scc _ _ _ _ _ => false
  | .fence _ => false
  | .fenceRel _ => false
  | .fenceAcq _ => false
  | .fenceScPkg => false
  | .fenceSv => true
  | .fenceVs => true
  | .pbarOrder => false
  | .pbarComplete => false
  | .pflush _ => false
  | .prefL1 _ _ _ => false
  | .prefL2 _ _ _ => false
  | .dlg _ _ _ => false
  | .dlgAm _ _ => false
  | .cmoInv _ => false
  | .cmoWb _ => false
  | .cmoZero _ => false
  | .cmoPfr _ _ => false
  | .cmoPfw _ _ => false
  | .cmoObjclr _ => false
  | .qinit _ _ _ => false
  | .qfree _ _ => false
  | .qstat _ _ _ => false
  | .qpeek _ _ _ => false
  | .enqTry _ _ _ => false
  | .enqWait _ _ => false
  | .deqTry _ _ _ => false
  | .deqWait _ _ => false
  | .venqTry _ _ _ => false
  | .venqWait _ _ => false
  | .vdeqTry _ _ _ => false
  | .vdeqWait _ _ => false
  | .tspawn _ _ => false
  | .tend => false
  | .yield => false
  | .gjoin _ _ => false
  | .gang _ _ _ => false
  | .ungang => false
  | .wqry _ _ _ => false
  | .wqryOpen _ _ _ => false
  | .tlbiVa _ _ => false
  | .tlbiPart _ => false
  | .tlbiAll => false
  | .probe _ _ _ => false
  | .gissue _ _ _ => false
  | .grevoke _ _ => false
  | .gcheck _ _ _ => false
  | .kvalloc _ _ _ => false
  | .kvallocInit _ _ _ => false
  | .kvref _ _ _ => false
  | .kvunref _ _ _ => false
  | .kvapp _ _ _ => false
  | .kvspl _ _ _ => false
  | .kvreq _ _ _ => false
  | .kvsrcGet _ _ _ => false
  | .kvsrcSet _ _ _ => false
  | .kvsrcBump _ _ _ => false
  | .kvg _ _ _ _ => false
  | .kvgStale _ _ _ _ => false
  | .kvgRep _ _ _ _ => false
  | .kvgAny _ _ _ _ => false
  | .rkjob _ _ => false
  | .rkstat _ _ => false
  | .rkcancel _ _ => false
  | .await _ _ => false
  | .awaitT _ _ => false
  | .awaitany _ _ => false
  | .celli _ _ _ => false
  | .signal _ _ _ _ _ => false
  | .cread _ _ _ => false
  | .rvinit _ _ _ => false
  | .rvarr _ _ _ => false
  | .rvfree _ _ => false
  | .barw _ => false
  | .waituntil _ _ => false
  | .reportRound => false
  | .launchDequeue _ => false
  | .launchCancel _ => false
  | .panClaim _ _ => false
  | .creationMessage _ _ _ _ => false
  | .endMessage _ _ _ => false
  | .tspawnRequest _ _ _ _ => false
  | .gjoinRequest _ _ _ _ => false
  | .wqryRequest _ _ _ _ _ _ => false
  | .wqryOpenRequest _ _ _ _ => false
  | .trestartRequest _ _ _ _ => false
  | .sluiceReply _ _ _ => false
  | .preemptionMessage _ _ => false
  | .preemptionAcknowledgement _ _ => false
  | .resumptionMessage _ _ => false
  | .quantumExpiry _ => false
  | .stallPromisePassed _ => false
  | .tokenWake _ _ _ => false
  | .tokenRegistration _ _ _ _ => false
  | .timerTokenReady _ _ => false
  | .awaitTimeout _ _ => false
  | .waituntilTime _ _ => false
  | .backgroundRestore _ => false
  | .backgroundRestoreDone _ => false
  | .thermalRankingTable _ _ => false
  | .thermalCclimStep _ _ => false
  | .mobileRecord _ _ _ => false
  | .mailboxCsrWrite _ _ _ => false
  | .levellingVisit _ => false
  | .delegation _ _ _ _ _ _ => false
  | .activeMessage _ _ _ _ _ => false
  | .delegationReply _ _ _ => false
  | .serviceRoutineTimeout _ => false
  | .gangJoin _ _ _ _ _ _ => false
  | .gangFormationTimeout _ => false
  | .gangOperandMessage _ _ => false
  | .presenceStoreLanding _ _ _ => false
  | .ldaDataArrival _ _ => false
  | .vamoElementArrival _ _ _ => false
  | .wellRefillLanding _ _ => false
  | .transferComplete _ _ _ => false
  | .channelCellResume _ _ => false
  | .storeBufferDrain _ => false
  | .durableStoreAccept _ => false
  | .persistAcknowledgement _ => false
  | .containmentScrub _ _ => false
  | .queueWaiterWake _ _ => false
  | .waiterTableRetry _ _ => false
  | .wireBarrierRelease _ => false
  | .barrierTimeout _ _ => false
  | .deferredArrival _ _ _ => false
  | .postedSignalRefused _ _ _ _ _ => false
  | .fabricErrorResponse _ => false
  | .ingressRequest _ _ _ _ _ _ _ => false
  | .leaseExpiry _ => false
  | .retentionEntry _ _ => false
  | .retentionExit _ _ => false
  | .rakeJobStart _ _ => false
  | .rakeLayerAdvance _ _ => false
  | .hostMemRead _ _ => false
  | .hostMemWrite _ _ _ => false
  | .hostTailStore _ _ _ => false
  | .hostBiResponse _ => false
  | .attestationRequest _ => false
  | .attestationSigned => false
  | .stationDown _ => false
  | .bitternResize _ _ => false
  | .partitionLiveWrite _ => false
  | .grantKeyRotation _ _ => false
  | .controlSpaceWrite _ _ => false
  | .adaptiveVoltagePeriod _ => false
  | .equalisationPeriod => false
  | .thresholdPeriod _ => false
  | .railDroop _ _ => false
  | .overtemperature _ => false
  | .freezeSignal => false
  | .powerLoss => false
  | .packageReset _ => false
  | .nonInstruction _ => false
  | .coreCheckFailure _ => false
  | .mapOutDone _ => false
  | .panPreparationDone _ _ => false
  | .persistBufferDrain => false
  | .stationUp _ => false
  | .fabricStoreAcknowledgement _ => false
  | .rakeCopyResume _ _ => false

end Sys2Proof.Machine
end

