-- ==== Sys2Proof/Machine/Upsets.lean ====
section
/-! DEFINITION. What happens to the package from outside its programs and its machine events: soft errors (R17, R191), bit errors of
the memories (R227, R228), failed path checks (R397), and the acts of die supervisors and management that no event row names (R54,
R337, R412). The schedule brings each of them as a turn of its own (log entry 4). -/

namespace Sys2Proof.Machine

/-! ### Poison (R228, R397) -/

/-- Words of memory take the poison mark. -/
def poisonWords (words : List Nat) (path : Bool) (s : State) : State := words.foldl (fun s w => setPoison s w path) s

/-- Scratchpad words take the poison mark. -/
def poisonPadWords (words : List Nat) (path : Bool) (s : State) : State := words.foldl (fun s w => setPadPoison s w path) s

/-- Words k to k + n - 1. -/
def wordsFrom (k n : Nat) : List Nat := (List.range n).map (fun i => k + i)

/-- Where a poisoned word lies: its die, its core for a scratchpad word, and its address as a log holds it, a place address or a
physical one. -/
def wordHome (word : Nat) : Nat × Nat × Word :=
  if 2 ^ 60 ≤ word then
    let w := word - 2 ^ 60
    let core := w / 131072
    (dieOf core, core, BitVec.ofNat 64 (8 * (w % 131072) + colOf core * 2 ^ 20 + rowOf core * 2 ^ 25 + dieOf core * 2 ^ 30))
  else (homeDie (8 * word), 0, BitVec.ofNat 64 (8 * word))

/-- Whether a word is poisoned. -/
def State.poisoned (s : State) (word : Nat) : Bool :=
  if 2 ^ 60 ≤ word then s.padPoison.contains (word - 2 ^ 60) else s.poison.contains word

/-! ### Bit errors (R227) -/

/-- The code corrects the error: the die counts it. -/
def corrected (s : State) (die : Nat) : State := countError s die 0x10

/-- The code cannot correct it: words are poisoned, and the die counts that (R384). -/
def uncorrected (s : State) (die : Nat) (mark : State → State) : State := countError (mark s) die 0x18

/-- Bits of a scratchpad word flip. The code of an active pan covers the word and corrects one bit; that of a pan in retention covers
256 bits, and is checked when the pan leaves it. -/
def padBitError (s : State) (core word bits : Nat) : State :=
  let w := core * 131072 + word
  if panAwake s core (word / 8192) then
    if bits ≤ 1 then corrected s (dieOf core) else uncorrected s (dieOf core) (poisonPadWords [w] false)
  else
    let had := (s.padFlips.find? (fun g => g.1 = w / 4)).map (fun g => g.2)
    { s with padFlips := (w / 4, had.getD 0 + bits) :: s.padFlips.filter (fun g => g.1 ≠ w / 4) }

/-- Bits of one code word of a memory flip (R227). A cache's clean copy that cannot be corrected goes, and the next access fetches the
line again. The anchor's controllers have no die whose counter could count (DEDUCED, log entry 52). -/
def bitError (s : State) (at_ : MemoryAt) (bits : Nat) : State :=
  if bits = 0 then s
  else match at_ with
    | .pad core word => if 2048 ≤ core ∨ 131072 ≤ word then s else padBitError s core word bits
    | .l1 core line =>
      if !(s.coreOf core).l1.contains line then s
      else
        let k := s.coreOf core
        let s1 := if bits ≤ 1 then s else s.setCore core { k with l1 := k.l1.filter (fun x => x ≠ line) }
        corrected s1 (dieOf core)
    | .l2 pa dirty =>
      match spaceOf pa with
      | .hbm =>
        if bits ≤ 1 then corrected s (homeDie pa)
        else if dirty then uncorrected s (homeDie pa) (poisonWords (wordsFrom (pa / 16 * 2) 2) false)
        else s
      | _ => s
    | .rdc die line part =>
      match s.rdcLine die line with
      | some l =>
        if bits ≤ 1 then corrected s die
        else if l.dirty then uncorrected s die (poisonWords (wordsFrom (16 * line + part % 8 * 2) 2) false)
        else dropRdc s l
      | none => s
    | .bittern core slot =>
      match (s.coreOf core).tasks.find? (fun u => u.info.slot = slot ∧ u.place = .bittern) with
      | some u =>
        if bits ≤ 1 then corrected s (dieOf core)
        else
          let k := s.coreOf core
          uncorrected s (dieOf core) (fun s => s.setCore core { k with tasks := setTask k.tasks { u with spoiled := true } })
      | none => s
    | .hbm pa =>
      match spaceOf pa with
      | .hbm =>
        if bits ≤ 1 then corrected s (homeDie pa) else uncorrected s (homeDie pa) (poisonWords (wordsFrom (pa / 32 * 4) 4) false)
      | _ => s
    | .durable pa =>
      match spaceOf pa with
      | .durable => if bits ≤ 1 then s else poisonWords (wordsFrom (pa / 128 * 16) 16) false s
      | _ => s

/-- A scrub or an eviction finds poison: an error record and a logged address. Its partition is that of management, as the word names
none (R228; DEDUCED, log entry 52). -/
def scrubWord (s : State) (word : Nat) : State :=
  if s.poisoned word then
    let h := wordHome word
    report s { code := Cause.uncorrectableConsumed.code, sub := poisonSub s [word], source := 7, core := h.2.1, eaddr := h.2.2 }
  else s

/-! ### Failed path checks (R397) -/

/-- A word is poisoned at the boundary where its check fails. -/
def pathWord (s : State) (word : Nat) : State :=
  let h := wordHome word
  let s1 := pathFailed s h.1 0 h.2.1 h.2.2
  if 2 ^ 60 ≤ word then setPadPoison s1 (word - 2 ^ 60) true else setPoison s1 word true

/-- Take the oldest store from the executing core's store buffer. -/
def takeOldest (s : State) (k : Buffered → State → State) : State :=
  match s.core.sbuf with
  | [] => s
  | b :: rest => k b { s with core := { s.core with sbuf := rest } }

/-- The data of a store is damaged on its way: it arrives, poisoned (R397). One that finds an object is refused all the same (R230). -/
def pathStore (b : Buffered) (s : State) : State :=
  let s1 := pathFailed s (dieOf s.cur) s.part s.cur b.va
  if touchesObject s1 b.pa b.bytes.length then sendStore s1 b
  else
    let s2 := sendStore s1 b
    poisonWords (wordsTouched b.pa b.bytes.length) true (acceptAll s2 s2.durable)

/-- The error response to a request of a core whose address or control fields are damaged on their way: its task takes the cause of a
violated path (DESIGN CHOICE, log entry 53). -/
def pathRefused (s : State) (serial tid : Nat) (addr : Word) : State :=
  (pathFailed s (dieOf s.cur) s.part s.cur addr).blame s.cur serial tid (.uncorrectableConsumed, 1, addr)

/-- Error bits of a violated path. -/
def pathBits : BitVec 24 := (exc .uncorrectableConsumed 1 0).bits

/-- The oldest delegation or active message of a core that is under way. -/
def delegationFrom (core : Nat) (e : Event) : Bool :=
  match e with
  | .delegation _ issuer _ _ _ _ => decide (issuer = core)
  | .activeMessage _ issuer _ _ _ => decide (issuer = core)
  | _ => false

/-- The address or control fields of a request of the executing core are damaged on its way: nothing is written, and the error response
reaches its sender (R397): the task of a store or presence store; the reply token of a delegation, and an active message's partition,
which has no other report (R31); the token of a transfer. -/
def pathControl (request : PathRequest) (s : State) : State :=
  match request with
  | .store => takeOldest s (fun b s => pathRefused s b.serial b.tid b.va)
  | .presence => match s.flights.find? (fun f => f.sender = s.cur) with
    | none => s
    | some f => pathRefused { s with flights := s.flights.erase f, pending := s.pending.erase (.presenceStoreLanding f.core f.off f.value) }
        f.serial f.tid (wordHome (2 ^ 60 + padWord f.core f.off)).2.2
  | .delegation => match s.pending.find? (delegationFrom s.cur) with
    | some (.delegation core issuer seq part priv block) =>
      signalReply (pathFailed { s with pending := s.pending.erase (.delegation core issuer seq part priv block) } (dieOf s.cur) part s.cur 0)
        issuer seq pathBits
    | some (.activeMessage core issuer part priv block) =>
      report (pathFailed { s with pending := s.pending.erase (.activeMessage core issuer part priv block) } (dieOf s.cur) part s.cur 0)
        { code := Cause.uncorrectableConsumed.code, sub := 1, source := 10, core := s.cur, part := part }
    | _ => s
  | .transfer ch =>
    if h : ch < 4 then
      match s.core.chans[ch].out.head? with
      | none => s
      | some t =>
        let s1 := pathFailed s (dieOf s.cur) t.part s.cur 0
        let s2 := { s1 with pending := s1.pending.filter (fun e => e ≠ .transferComplete s.cur ch t.id.toNat
          ∧ e ≠ .ldaDataArrival s.cur t.id.toNat ∧ e ≠ .deferredArrival s.cur ch t.id.toNat) }
        match t.job with
        | .arrive _ _ _ tok => finishTransfer (failArrival s2 tok pathBits) ⟨ch, h⟩ t 0
        | _ => failTransfer s2 ⟨ch, h⟩ t pathBits 0
    else s

/-- The data of a presence store is damaged on its way: where it lands, its word is poisoned. -/
def pathPresence (s : State) (core : Nat) : State :=
  match s.flights.find? (fun f => f.core = core) with
  | none => s
  | some f =>
    let w := padWord f.core f.off
    let s1 := pathFailed (landFlight s f) (dieOf core) 0 core (wordHome (2 ^ 60 + w)).2.2
    if (arrivalRefusal s f).isSome then s1 else setPadPoison s1 w true

/-! ### Die supervisors and management -/

/-- A record of a die supervisor's program enters a launch queue; its slot is noted for the check of NOSHADOW (R54). -/
def supervisorRecord (s : State) (part prio : Nat) (record : List Word) : State :=
  let va := partWord s part (1 + prio % 8)
  if record.length ≠ 16 then s
  else match translate s part true va Need.queue with
    | .ok (.phys qpa _) =>
      let q := readQcb s qpa
      (match slotPhys s part true Need.write q (enqueueSlot s part qpa q 0).1, offerRecord s part 0 va (wordsToBytes record) with
      | .ok l, .taken s1 =>
        let s2 := { s1 with supervised := setAdd s1.supervised (l.headD 0 / 8) }
        if s2.pending.contains (.launchDequeue part) then s2 else { s2 with pending := s2.pending ++ [Event.launchDequeue part] }
      | _, .corrupt k => reportCorrupt s part 0 8 k va
      | _, _ => s)
    | _ => s

/-- The lease, between 256 and 65,536 cycles (R337). -/
def setLease (s : State) (cycles : Nat) : State := { s with leaseCycles := min 65536 (max 256 cycles) }

/-- It happens. -/
def happen (h : Happening) (s : State) : State :=
  match h with
  | .strike x => { s with strikes := s.strikes ++ [x] }
  | .bitError at_ bits => bitError s at_ bits
  | .scrub word => scrubWord s word
  | .pathWord word => pathWord s word
  | .pathStore core => s.onCore (core % 2048) (fun s => takeOldest s pathStore)
  | .pathPresence core => pathPresence s core
  | .pathControl request core => s.onCore (core % 2048) (pathControl request)
  | .supervisorRecord part prio record => supervisorRecord s part prio record
  | .leaseTime cycles => if s.recovery then s else setLease s cycles
  | .thresholds hot cool => if s.recovery then s else { s with hot := hot, cool := cool }
  | .temperature core degrees => let c := core % 2048; s.setCore c { s.coreOf c with temp := degrees }
  | .adaptiveVoltage on => if s.recovery then s else { s with power := { s.power with avEnabled := on } }

end Sys2Proof.Machine
end

