-- ==== Sys2Proof/Machine/Turns.lean ====
section
/-! DEFINITION. What one turn of a core does: the fetch (R72, R146), the waits before an instruction issues (R29, R122, R155,
R410), the order of what falls due at an instruction boundary (R400), and which turn comes next where the schedule says nothing. -/

noncomputable section

namespace Sys2Proof.Machine

/-! ### Fetch -/

/-- A halfword at its point of order, or the copy the fetch path holds of it: after a store either may be used (R146). -/
def halfwordAt (s : State) (pa : Nat) : Nat :=
  let now := physLe s pa 2
  match s.core.fetched.find? (fun f => f.1 = pa) with
  | some f => if f.2 = now then now else openChoice s 18 pa now [f.2]
  | none => now

/-- Fetch one halfword (R72): it needs EXEC, and the fetch path holds it from now on. A line of a peer fetched for the first halfword
of an instruction counts once (R330). -/
def fetchHalf (s : State) (va : Word) (newLine : Bool) : Res (Nat × State) :=
  match translate s s.part s.privileged va Need.exec with
  | .error e => .error e
  | .ok (.phys pa u) =>
    if touchesPoison s pa 2 then .error (consumed s pa 2 va)
    else
      let h := halfwordAt s pa
      let s1 := markUsed s u false
      .ok (h, { s1 with core := { s1.core with fetched := (pa, h) :: s1.core.fetched.filter (fun f => f.1 ≠ pa) } })
  | .ok (.peer p addr u) =>
    let s1 := if newLine then countMigration s s.part va p u.leaf.pte else s
    match peerOutcome s1 s.part p addr va with
    | some e => .error e
    | none => .ok (leNat (peerBytes s1 2), (markUsed s1 u false).fresh)

/-- The word at the pc: one halfword, or two where bit 0 is 1. -/
def fetchWord (s : State) : Res (List Byte × State) :=
  if s.ctx.pc.getLsbD 0 then .error (exc .misaligned 0 s.ctx.pc)
  else match fetchHalf s s.ctx.pc true with
    | .error e => .error e
    | .ok (h, s1) =>
      if h % 2 = 0 then .ok (natBytes 2 h, s1)
      else match fetchHalf s1 (s.ctx.pc + 2) (decide (s.ctx.pc.toNat % 128 = 126)) with
        | .error e => .error e
        | .ok (k, s2) => .ok (natBytes 2 h ++ natBytes 2 k, s2)

/-- The row of the opcode table that bytes are: an instruction, or a word that is none (R83). -/
def instrOf (bs : List Byte) : Instr :=
  match decode bs with
  | .ok (i, _) => i
  | .error _ => .nonInstruction (BitVec.ofNat 32 (leNat bs))

/-! ### Before an instruction issues -/

/-- Results of an lda on their way to a register the instruction names land first (R155). -/
def landNamed (rs : List (BitVec 5)) (s : State) : State :=
  let key := s.taskKey
  let hit (t : Transfer) : Option (BitVec 32) := match t.job with
    | .load r _ _ true => if t.serial = key.1 && t.tid = key.2 && rs.contains r then some t.id else none
    | _ => none
  (s.core.chans[3].out.filterMap hit).foldl (fun s id =>
    let s1 := landLoad s id
    { s1 with pending := s1.pending.filter (fun e => e ≠ Event.ldaDataArrival s.cur id.toNat) }) s

/-! ### Loads that take effect late (R234, R235) -/

/-- What a plain load at virtual addresses writes: where it reads local memory, and for a scalar load which bytes. -/
def lateDest (i : Instr) (s : State) : Option LateDest :=
  let scalar (d : BitVec 5) (va : Word) (n : Nat) : Option LateDest :=
    match translate s s.part s.privileged va Need.read with
    | .ok (.phys pa _) => some (.scalar d pa n)
    | _ => none
  match i with
  | .ld d b z o => scalar d (s.addrM b z o) (sizeBytes z)
  | .ldN d b z o => scalar d (s.addrM b z o) (sizeBytes z)
  | .cLd a b => scalar a (s.x b) 8
  | .cLdw a b => scalar a (s.x b) 4
  | .vld d _ _ _ => some (.vector d.toNat s.ctx.group)
  | .vldS d _ _ _ _ => some (.vector d.toNat s.ctx.group)
  | .vgld d _ _ _ _ => some (.vector d.toNat s.ctx.group)
  | .vgldX2 d _ _ _ _ => some (.vector d.toNat (2 * s.ctx.group))
  | _ => none

/-- The virtual address and the size of a scalar store. -/
def storeSpan (i : Instr) (s : State) : Option (Word × Nat) :=
  match i with
  | .st _ b z o => some (s.addrM b z o, sizeBytes z)
  | .cSt _ b => some (s.x b, 8)
  | .cStw _ b => some (s.x b, 4)
  | _ => none

/-- Whether an instruction is an atomic, a fence or one that binds wells: none of them leaves a load unordered. -/
def ordersLoads : Instr → Bool
  | .redAdd .. => true
  | .redAnd .. => true
  | .redOr .. => true
  | .redXor .. => true
  | .redMin .. => true
  | .redMax .. => true
  | .redMinN .. => true
  | .redMaxN .. => true
  | .redFadd .. => true
  | .vred .. => true
  | .fenceSv => true
  | .fenceVs => true
  | .wbind .. => true
  | .wunb .. => true
  | .wskip .. => true
  | .wpos .. => true
  | i => !leavesCollected i

/-- Whether a scalar store reaches none of n bytes at a physical address. -/
def storesElsewhere (s : State) (pa n : Nat) (sp : Word × Nat) : Bool :=
  match translate s s.part s.privileged sp.1 Need.write with
  | .ok (.phys q _) => decide (q + sp.2 ≤ pa) || decide (pa + n ≤ q)
  | _ => false

/-- Whether an instruction leaves a load of its task unordered: it names nothing the load writes, it is no release, and it is no store of
the load's stream that may touch its bytes (R234, R235). Vector stores count as touching those of every vector load (log entry 63). -/
def leavesLate (i : Instr) (s : State) (l : LateLoad) : Bool :=
  !ordersLoads i && s.ctx.release.isNone && (match l.dst with
    | .scalar r pa n => !(scalarsOf i).contains r && (match storeSpan i s with
      | some sp => storesElsewhere s pa n sp
      | none => true)
    | .vector first count => match i with
      | .vld d _ _ _ => disjointGroups (d.toNat, s.ctx.group) (first, count)
      | .vldS d _ _ _ _ => disjointGroups (d.toNat, s.ctx.group) (first, count)
      | _ => !usesVectors i)

/-- What a load writes, taken from another register set. -/
def LateDest.merge (d : LateDest) (into from_ : Ctx) : Ctx :=
  match d with
  | .scalar r _ _ => into.setS r (from_.s[r.toNat]?.getD 0)
  | .vector first count => (List.range count).foldl (fun c k => c.setV (first + k) (from_.getV (first + k))) into

/-- A load takes effect now: it reads what it would read if it were issued now; where that would trap, what it read at its issue
stands. -/
def takeEffect (l : LateLoad) (s : State) : State :=
  match exec (instrOf l.code) { s with ctx := l.ctx, cut := .none } with
  | .next t =>
    if t.core.pmc[0] = s.core.pmc[0] ∨ t.taskKey ≠ s.taskKey ∨ t.migration ≠ s.migration then s
    else { t with ctx := l.dst.merge s.ctx t.ctx, lc := s.lc, cut := s.cut, core := { t.core with pmc := s.core.pmc, run := s.core.run } }
  | _ => s

/-- Before an instruction a load that is still unordered takes effect now, or did so when it was issued, or stays as it is where the
instruction leaves it so: free values. -/
def settleLoad (i : Instr) (s : State) (l : LateLoad) : State :=
  if (l.serial, l.tid) ≠ s.taskKey then s
  else
    let v := Config.openValue 28 s.free
    if leavesLate i s l && v.getLsbD 0 then s.fresh
    else
      let s1 := { s.fresh with core := { s.core with late := s.core.late.erase l } }
      if v.getLsbD 1 then takeEffect l s1 else s1

def settleLate (i : Instr) (s : State) : State := s.core.late.foldl (settleLoad i) s

/-- A plain load that has completed may take effect later than its issue; an instruction that has not completed leaves none so. Loads of
routines and of gangs take effect where they are issued (log entry 63). -/
def noteLate (i : Instr) (code : List Byte) (before after : State) : State :=
  if after.core.pmc[0] = before.core.pmc[0] ∨ after.taskKey ≠ before.taskKey then { after with core := { after.core with late := [] } }
  else match lateDest i before with
    | none => after
    | some d =>
      if before.inService || before.gang != .none || before.ctx.wells.any Option.isSome || after.migration != before.migration then after
      else { after with core := { after.core with
        late := after.core.late ++ [⟨before.taskKey.1, before.taskKey.2, code, before.ctx, d⟩] } }

/-- What an instruction waits for, and the loads and the reductions it comes after. -/
def prepare (i : Instr) (s0 : State) : State :=
  let s := settleLate i s0
  let s1 := if leavesCollected i then s else combinePackage s
  let s2 := landNamed (scalarsOf i) s1
  if usesVectors i then landVamos s2 else s2

/-! ### Gangs (R29) -/

/-- Whether a member of the executing task's gang holds its core again. -/
def memberBack (s : State) (serial : Nat) (m : Nat × Nat) : Bool :=
  match (s.coreOf m.1).run with
  | .running t => decide (t.serial = serial ∧ t.tid = m.2)
  | _ => false

/-- A member issues once every member is back, a follower only what its leader has executed. -/
def gangReady (s : State) : Bool :=
  match s.gang with
  | .leader _ ms _ => ms.all (memberBack s s.taskKey.1)
  | .follower _ _ _ _ l => !l.isEmpty && (match s.core.run.task with
      | some t => (gangMembers s t).all (memberBack s t.serial)
      | none => true)
  | _ => true

/-- A follower stands where its leader stood, with its leader's VL and VTY. -/
def enterStep (st : GangStep) (s : State) : State := { s with ctx := { s.ctx with pc := st.pc, vl := st.vl, vty := st.vty } }

/-- An instruction joins a follower's stream. -/
def sendStep (serial : Nat) (st : GangStep) (s : State) (m : Nat × Nat) : State :=
  mapStarted s m.1 serial m.2 (fun t => match t.gang with
    | .follower shape i l ltid stream => { t with gang := .follower shape i l ltid (stream ++ [st]) }
    | _ => t) id

/-- Whether an `mma` has sent its rows of A to the followers. -/
def sendsRows : Instr → Bool
  | .mma .. => true
  | _ => false

/-- Whether the task that executed has completed its instruction: it runs on, or has left its core behind the instruction. -/
def hasCompleted (before after : State) (serial tid : Nat) : Bool :=
  if after.taskKey = (serial, tid) then decide (after.core.pmc[0] ≠ before.core.pmc[0])
  else match ctxOfTask after after.cur serial tid with
    | some x => decide (x.pc ≠ before.ctx.pc)
    | none => false

/-- What a gang does when one of its members has completed an instruction: the leader's goes to every follower; a follower goes on
where its leader went on; the leader of a gang that is forming keeps its own for its followers. The awaits of a gang and its end are
executed by every member at once. -/
def gangStepped (i : Instr) (code : List Byte) (before after : State) : State :=
  match before.inService, before.core.run with
  | false, .running t =>
    (match infoOf after.core t.serial t.tid, ctxOfTask after after.cur t.serial t.tid with
    | some u, some x =>
      if !hasCompleted before after t.serial t.tid ∨ isAwait i then after
      else match t.gang, u.gang with
        | .leader _ _ _, .leader shape ms n =>
          let st : GangStep := ⟨n, before.ctx.pc, x.pc, code, before.ctx.vl, before.ctx.vty, x.vl, x.vty, sendsRows i⟩
          (ms.filter (fun m => m.1 ≠ after.cur)).foldl (sendStep t.serial st)
            (mapStarted after after.cur t.serial t.tid (fun v => { v with gang := .leader shape ms (n + 1) }) id)
        | .forming _ _ _ _ _ _, .forming _ _ _ _ _ _ =>
          mapStarted after after.cur t.serial t.tid (fun v => stepDone v code before.ctx x) id
        | .follower _ _ _ _ (st :: _), .follower _ _ _ _ (_ :: _) =>
          mapStarted after after.cur t.serial t.tid (fun v => stepDone v code before.ctx x)
            (fun y => { y with pc := st.next, vl := st.vlNext, vty := st.vtyNext })
        | .parting (st :: _), .parting (_ :: _) =>
          mapStarted after after.cur t.serial t.tid (fun v => stepDone v code before.ctx x)
            (fun y => { y with pc := st.next, vl := st.vlNext, vty := st.vtyNext })
        | _, _ => after
    | _, _ => after)
  | _, _ => after
where
  /-- An await, which its own completion accounts for. -/
  isAwait : Instr → Bool
    | .await .. => true
    | .awaitT .. => true
    | .awaitany .. => true
    | .cAwait .. => true
    | _ => false

/-- The vector instruction at which the leader of a gang has trapped: every other member completes it before it goes on alone (R184).
The rows of an `mma` come from its leader, and have no such end. -/
def trapStep (i : Instr) (code : List Byte) (before after : State) : State :=
  match before.gang with
  | .leader _ ms n =>
    let serial := before.taskKey.1
    let leads := match infoOf after.core serial before.taskKey.2 with
      | some t => (match t.gang with | .leader _ _ _ => true | _ => false)
      | none => false
    if leads || !usesVectors i || sendsRows i || hasCompleted before after serial before.taskKey.2 then after
    else
      let x := before.ctx
      let st : GangStep := ⟨n, x.pc, x.pc + BitVec.ofNat 64 code.length, code, x.vl, x.vty, x.vl, x.vty, false⟩
      (ms.filter (fun m => m.1 ≠ before.cur)).foldl (fun s m => mapStarted s m.1 serial m.2 (fun t => match t.gang with
        | .parting l => { t with gang := .parting (l ++ [st]) }
        | .none => { t with gang := .parting [st] }
        | _ => t) id) after
  | _ => after

/-! ### One instruction -/

/-- Whether a turn issued an instruction: it completed, moved the pc, or changed who runs (R385). One whose answer has come issued when
it asked. -/
def hasIssued (before after : State) : Bool :=
  !before.core.asked && (decide (after.ctx.pc ≠ before.ctx.pc) || decide (after.core.pmc[0] ≠ before.core.pmc[0])
    || decide (after.core.run ≠ before.core.run) || after.core.asked || decide (after.cut ≠ before.cut))

/-- What the turn adds to an instruction's own effect: the count of PMC1, the gang's part, and a load that may take effect late. -/
def afterIssue (i : Instr) (code : List Byte) (before after : State) : State :=
  noteLate i code before (trapStep i code before (gangStepped i code before (if hasIssued before after then after.count 1 1 else after)))

/-- An instruction executes. -/
def runInstr (code : List Byte) (s : State) : Out :=
  let i := instrOf code
  let s1 := prepare i s
  match exec i s1 with
  | .next t => .next (afterIssue i code s1 t)
  | .fault f => .fault f
  | .refused r => .refused r

/-- The cause that awaits the routine or the running task (R371, R380, R39, R63, R230). -/
def dueCause (s : State) : Option Exc :=
  match s.core.service with
  | some v => v.due.map (fun d => exc d.1 d.2.1 d.2.2)
  | none => match s.core.run with
    | .running t => t.due.map (fun d => exc d.1 d.2.1 d.2.2)
    | _ => none

/-- The cause is no longer due. -/
def clearDue (s : State) : State :=
  match s.core.service with
  | some v => { s with core := { s.core with service := some { v with due := none } } }
  | none => { s with core := { s.core with run := s.core.run.mapTask (fun t => { t with due := none }) } }

/-- Something on the core can issue: a routine or the running task, with no request open and its gang in step. A task that was picked
while its record was being restored waits for the restore (R419). -/
def mayIssue (s : State) : Bool :=
  (s.inService || (match s.core.run with | .running t => decide (s.core.restoring ≠ some t.slot) | _ => false))
    && !(s.core.asked && s.core.answer.isNone) && gangReady s

/-- The core issues: a follower executes its leader's stream, any other task what it fetches. -/
def issue (s : State) : Out :=
  if !mayIssue s then .next s
  else match dueCause s with
    | some e => .next (takeCause (clearDue s) e)
    | none => match s.headStep with
      | some st => runInstr st.bytes (enterStep st s)
      | none => match fetchWord s with
        | .error e => .next (takeCause s e)
        | .ok (bs, s1) => runInstr bs s1

/-- Issue is held on the cores of a rail that has drooped (R410). -/
def droopHeld (s : State) : Bool := decide (s.cyc.toNat < s.power.hold[dieOf s.cur]?.getD 0)

/-- An idle core with a task to pick picks (R46, R48). -/
def mayPick (s : State) : Bool :=
  (match s.core.run with | .idle => true | _ => false) && s.core.service.isNone && s.core.containing.isNone && !(candidates s).isEmpty

/-- The pre-emption that falls due with a quantum's expiry or the start of a routine: its message to the executing core takes effect
first (R400). -/
def duePreemption (s : State) : Option Event :=
  if s.core.service.isNone && (quantumOver s.core s.cyc || !s.core.routines.isEmpty) then
    s.pending.find? (fun e => match e with | .preemptionMessage c _ => decide (c = s.cur) | _ => false)
  else none

/-- A boundary of the executing core in the order of R400: pre-emption, quantum expiry, the start of a routine, then issue. -/
def boundary (s : State) : Out :=
  if droopHeld s then .next s
  else
    match (duePreemption s).map (fun e => runEvent e s) with
    | some (.next t) => if t.free = s.free then atBoundary s else .next t
    | some o => o
    | none => atBoundary s
where
  /-- What a boundary does once no pre-emption is due. -/
  atBoundary (s : State) : Out :=
    if quantumOver s.core s.cyc then .next (expireHere s)
    else if mayPick s then .next (pickIfIdle s)
    else issue (startRoutine s)

/-! ### A suspension inside an instruction (R49, R114, R157, R189) -/

/-- The suspension that falls due while the executing core issues an instruction of a number of cycles. -/
def fallsDue (s : State) (cycles : Nat) : Bool :=
  !s.inService && (match s.core.run.task with
    | some t => (quantumOver s.core (s.cyc + BitVec.ofNat 64 cycles) && (match t.gang with | .follower .. => false | _ => true))
        || s.pending.contains (.preemptionMessage s.cur t.serial)
    | none => false)

/-- The place inside the instruction at which it ends for the suspension is a free value (log entry 42). -/
def setCut (cycles : Nat) (s : State) : State :=
  if fallsDue s cycles then { s with cut := .after (Config.openValue 21 s.free).toNat } else s

/-- The suspension for which an instruction has ended takes place, a pre-emption before the quantum's expiry (R400). -/
def takeCut (s : State) : Out :=
  if s.cut = .ended then
    let s1 := { s with cut := .none }
    if s1.pending.contains (.preemptionMessage s1.cur s1.taskKey.1) then runEvent (.preemptionMessage s1.cur s1.taskKey.1) s1
    else .next (if quantumOver s1.core s1.cyc then expireHere s1 else s1)
  else .next { s with cut := .none }

/-! ### Turns -/

/-- The outcome of a part of a turn goes on. -/
def andThen (o : Out) (f : State → Out) : Out :=
  match o with
  | .next u => f u
  | .fault x => .fault x
  | .refused r => .refused r

/-- A turn ends: time passes, a fresh number is next, and the restores that can begin now are under way (R419). -/
def passTime (cycles : Nat) (s : State) : State :=
  noteRestores { s with cyc := s.cyc + BitVec.ofNat 64 cycles, free := s.free + 1 }

/-! ### What a turn waits for (R219, R231, R384, R405) -/

/-- An event that reaches the package from outside: no message under way stands for it, but for one that waits (`holdTurn`). -/
def fromOutside : Event → Bool
  | .ingressRequest .. => true
  | .hostMemRead .. => true
  | .hostMemWrite .. => true
  | .hostTailStore .. => true
  | .controlSpaceWrite .. => true
  | .levellingVisit _ => true
  | .stationDown _ => true
  | .fabricErrorResponse _ => true
  | .coreCheckFailure _ => true
  | .thermalCclimStep .. => true
  | .mailboxCsrWrite .. => true
  | .wellRefillLanding .. => true
  | _ => false

/-- Whether an event takes a line from the host other than by a write: the host has answered, or the oldest line makes room for one
that is granted (R405). -/
def givesUp (e : Option Event) (s : State) (line : Nat) : Bool :=
  match e with
  | some (.hostBiResponse l) => decide (l = line)
  | some (.hostMemRead ..) => decide (s.snoop.head? = some line)
  | _ => false

/-- Whether an event ends everything under way. -/
def endsAll : Option Event → Bool
  | some .powerLoss => true
  | some (.packageReset _) => true
  | _ => false

/-- The lines held by the host that a turn has written. -/
def hostLines (e : Option Event) (before after : State) : List Nat :=
  if before.snoop.isEmpty then [] else before.snoop.filter (fun l => !after.snoop.contains l && !givesUp e before l)

/-- The presence stores that have landed in a turn although they wait at their targets. -/
def earlyFlights (before after : State) : List Flight :=
  before.flights.filter (fun f => f.waits before && decide (after.flights.count f < before.flights.count f))

/-- What a turn leaves that would write lines the host holds, or land presence stores that wait at their targets: the lines are
back-invalidated (R405), the pans are roused (R219, R231), and nothing of the turn itself has taken place; the clocks of R384 catch up
by other turns. An event from outside waits as one under way. None where the turn may take place. -/
def heldTurn (e : Option Event) (before after : State) : Option State :=
  let lines := hostLines e before after
  let early := earlyFlights before after
  if endsAll e || (lines.isEmpty && early.isEmpty) then none
  else
    let asked := lines.filter (fun l => !before.heldWrites.contains l)
    let kept := e.toList.filter (fun e => fromOutside e && !before.pending.contains e)
    let asleep (f : Flight) : Bool :=
      match (before.coreOf f.core).retention[f.off / 65536]?.getD .active with
      | .retained => true
      | .entering => true
      | _ => false
    let s1 := early.foldl (fun s f => rousePan s f.core (f.off / 65536))
      { before with heldWrites := before.heldWrites ++ asked, pending := asked.map Event.hostBiResponse ++ before.pending ++ kept }
    some (if asked.isEmpty && kept.isEmpty && !early.any asleep then s1 else s1.fresh)

/-! ### Dequeues that a power loss interrupts (R439) -/

/-- The queue an instruction dequeues from. -/
def dequeuesFrom (s : State) : Instr → Option Word
  | .deqTry _ a _ => some (s.x a)
  | .deqWait a _ => some (s.x a)
  | .vdeqTry _ a _ => some (s.x a)
  | .vdeqWait _ a => some (s.x a)
  | _ => none

/-- The block of the durable queue that the executing core is about to dequeue from, where the dequeue would succeed. -/
def deqAhead (s : State) : Option Nat :=
  match s.core.run, fetchWord s with
  | .running _, .ok (bs, _) => (dequeuesFrom s (instrOf bs)).bind (fun va => match openQueue s va .dequeue with
    | .ok o => if qMode o.q = 3 ∧ qCount o.q ≠ 0 then some o.pa else none
    | .error _ => none)
  | _, _ => none

/-- The block as it has persisted takes a HEAD advance whose FREE increment has not persisted. -/
def headAlone (s : State) (qpa : Nat) : State :=
  let q := memLe s.persisted qpa 64
  { s with persisted := memWriteBytes s.persisted qpa (natBytes 64 (qSeal (putField q 127 96 (qHead q + 1)))) }

/-- A dequeue under way at the loss of power on a core: its HEAD advance may have persisted without its FREE increment, a free value
(R439). It is one about to execute, as a step of the table is whole (log entry 64). -/
def interruptDequeue (s : State) (core : Nat) : State :=
  match deqAhead (s.switchTo core) with
  | some qpa =>
    let q := memLe s.persisted qpa 64
    if qCount q ≠ 0 ∧ (Config.openValue 27 (s.free * 2048 + core)).getLsbD 0 then headAlone s qpa else s
  | none => s

/-- The dequeues under way on the cores that hold anything. -/
def interruptDequeues (s : State) : State := (s.cur :: s.others.map (fun p => p.id)).foldl interruptDequeue s

/-! ### The turns -/

/-- A turn of a core that takes n cycles. -/
def coreTurn (n : Nat) (s : State) : Out :=
  andThen (boundary (setCut n s)) fun u => andThen (takeCut (passTime n u)) fun t =>
    .next (match heldTurn none s t with | some h => passTime n h | none => t)

/-- An event takes place; one from outside that has waited is under way no longer. The reductions that come before it are combined
first, but not before the host's answer, which they may wait for themselves. -/
def eventTurn (e : Event) (s : State) : Out :=
  let s1 := match e with
    | .hostBiResponse _ => s
    | .powerLoss => interruptDequeues (combinePackage s)
    | _ => combinePackage s
  andThen (runEvent e (if fromOutside e then { s1 with pending := s1.pending.erase e } else s1)) fun u =>
    .next ((heldTurn (some e) s u).getD u)

/-- A turn of a core or an event, with the cycles it takes (log entry 5). -/
def takeTurn (t : Turn) (s : State) : Out :=
  match t with
  | .core c =>
    let s1 := s.switchTo (c % 2048)
    let n := 1 + Config.stepCycles s1.free
    coreTurn n s1
  | .event e => andThen (eventTurn e s) fun u => .next (passTime (Config.stepCycles u.free) u)
  | .other h =>
    let u := happen h s
    .next (passTime (Config.stepCycles u.free) u)

/-- The first event under way that can take place now: one that does takes a fresh number. -/
def firstDue (s : State) : List Event → Option Event
  | [] => none
  | e :: l => match runEvent e (if fromOutside e then { s with pending := s.pending.erase e } else s) with
    | .next t => if ((heldTurn (some e) s t).getD t).free = s.free then firstDue s l else some e
    | _ => firstDue s l

/-- Whether a turn of a core would do anything. -/
def turnUseful (s : State) (c : Nat) : Bool :=
  let t := s.switchTo c
  !droopHeld t && (quantumOver t.core t.cyc || mayPick t || mayIssue (startRoutine t))

/-- The cores that hold anything, those after the executing one first. -/
def coreOrder (s : State) : List Nat :=
  let ids := s.others.map (fun p => p.id)
  ids.filter (fun c => s.cur < c) ++ ids.filter (fun c => c < s.cur) ++ [s.cur]

/-- The turn taken where the schedule is empty (log entry 4): a report that is due, an event under way that can take place, a
core that can issue, or the persist buffer's drain; otherwise a cycle passes on the executing core. -/
def freeTurn (s : State) : Turn :=
  if s.rounds ≤ s.cyc.toNat / 1024 then .event .reportRound
  else match firstDue s s.pending with
    | some e => .event e
    | none => match (coreOrder s).find? (turnUseful s) with
      | some c => .core c
      | none => if s.pbuf.isEmpty then .core s.cur else .event .persistBufferDrain

end Sys2Proof.Machine

end
end

