-- ==== Sys2Proof/Machine/Step.lean ====
section
/-! DEFINITION. One step of the package: the turn the schedule names, or where it names none the one `freeTurn` gives
(log entry 4). -/

noncomputable section

namespace Sys2Proof.Machine

/-- Whether the first turn of the schedule is a package reset, and whether it is a loss of power. -/
def headResets (s : State) : Bool :=
  match s.schedule with
  | .event (.packageReset _) :: _ => true
  | _ => false

def headLosesPower (s : State) : Bool :=
  match s.schedule with
  | .event .powerLoss :: _ => true
  | _ => false

/-- The turn the schedule names, or the free one. -/
def nextTurn (s : State) : Turn × State :=
  match s.schedule with
  | [] => (freeTurn s, s)
  | t :: l => (t, { s with schedule := l })

/-- One step. Without power only a package reset happens (R256); with the clocks stopped only a package reset or the loss of
power (R149, R399). -/
def step (s : State) : Host.Outcome State Fault Refusal :=
  if !s.powered && !headResets s then .fault .noPower
  else if s.frozen && !headResets s && !headLosesPower s then .fault .clocksStopped
  else takeTurn (nextTurn s).1 (nextTurn s).2

/-- Virtual address at which `withFetchWord` places an instruction. -/
def fetchVa : Word := 0x8000000000000

/-- The launch of the task that runs a placed instruction: partition 0, privileged, one core, every word of its record zero. -/
def fetchLaunch : Launch where
  serial := 1
  lid := 1
  part := 0
  priv := true
  words := Vector.replicate 16 0
  va := 0
  order := 0
  rects := [(0, 0, 0)]
  nextTid := 1
  ended := 0
  damaged := false
  lostTids := []
  preempted := .no
  lists := Vector.replicate 8 none
  joins := []

/-- The task that runs a placed instruction. -/
def fetchTask : TaskInfo where
  serial := 1
  tid := 0
  part := 0
  priv := true
  slot := 0
  susp := 0
  lost := none
  arrival := none
  due := none
  woken := false
  gang := .none
  entered := none
  waitFrom := none

/-- The page tables that map `fetchVa` to the frame 0x123 of HBM with EXEC, and the instruction's bytes there. -/
def fetchMem (m : Mem) (code : List Byte) : Mem :=
  memWriteBytes
    (memWriteBytes
      (memWriteBytes
        (memWriteBytes (memWriteBytes m 0x108000 (natBytes 8 0x1200001)) 0x120000 (natBytes 8 0x1210001))
        0x121000 (natBytes 8 0x1220001))
      0x122000 (natBytes 8 0x1230013))
    0x123000 code

/-- `s` with an instruction placed where the next step fetches: a task of a launch of partition 0 runs on core 0 with its pc there,
and the schedule names that core (log entry 20 says how a program comes to run on this hardware). -/
def State.withFetchWord (s : State) (nbits w : Nat) : State :=
  let s1 := s.switchTo 0
  { s1 with
    ctx := { s1.ctx with pc := fetchVa }
    lc := fetchLaunch.newCopy 0
    core := { s1.core with
      run := .running fetchTask
      qstart := s1.cyc
      service := none
      routines := []
      containing := none
      asked := false
      answer := none
      fetched := [] }
    mem := fetchMem s1.mem (leBytes 4 (w % 2 ^ nbits))
    ctl := memWriteBytes s1.ctl 0x3F0000000000 (natBytes 4 0x100000)
    poison := []
    tlb := []
    walkCache := []
    launches := [fetchLaunch]
    power := { s1.power with hold := Vector.replicate 8 0 }
    frozen := false
    powered := true
    pending := []
    schedule := [.core 0] }

end Sys2Proof.Machine

end
end

