-- ==== Sys2Proof/Safety.lean ====
section
/-! DEFINITION. What the claims speak of: the canonical form of the package's memories, what completing an instruction is, and the
frames: what a step leaves alone, kind of state by kind of state. -/

namespace Sys2Proof.Machine

/-- Every byte memory of the package is in canonical form. -/
def State.memWf (s : State) : Prop :=
  Memory.wf s.mem = true ∧ Memory.wf s.ctl = true ∧ Memory.wf s.pad = true ∧ Memory.wf s.persisted = true

/-- An instruction of n bytes has completed: the pc stands past it and PMC0 has counted it (R72, R385). -/
structure Completed (n : Nat) (s t : State) : Prop where
  pc : t.ctx.pc = s.ctx.pc + BitVec.ofNat 64 n
  counted : t.core.pmc[0] = s.core.pmc[0] + 1

/-- The state an instruction of 4 bytes leaves that completes in `s`: the pc past it, the account and PMC0 (R65, R72, R385). -/
def State.finished (s : State) : State := (s.advance 4).retire 1

/-- Of what lies outside the executing core's register set, only the account of the running launch (R65, R66) and PMC0 (R385)
may have changed. -/
structure OnlyRegisters (s t : State) : Prop where
  launch : t.lc = { s.lc with ebacc := t.lc.ebacc }
  core : t.core = { s.core with copies := t.core.copies, pmc := s.core.pmc.set 0 t.core.pmc[0] }
  rest : t = { s with ctx := t.ctx, lc := t.lc, core := t.core }

/-- Every byte of memory, of the control space, of every scratchpad and of the persist domain reads as before. -/
structure SameBytes (s t : State) : Prop where
  mem : ∀ a, memRead t.mem a = memRead s.mem a
  ctl : ∀ a, memRead t.ctl a = memRead s.ctl a
  pad : ∀ a, memRead t.pad a = memRead s.pad a
  persisted : ∀ a, memRead t.persisted a = memRead s.persisted a

/-- Every register and CSR of the task but the pc and the scalar registers is as before. -/
def SameButScalars (s t : State) : Prop := t.ctx = { s.ctx with pc := t.ctx.pc, s := t.ctx.s }

/-- Every register and CSR of the task but the pc is as before. -/
def SameButPc (s t : State) : Prop := t.ctx = { s.ctx with pc := t.ctx.pc }

/-- The scalar registers after a write of `d`: s0 discards it (R75, R107). -/
def ScalarWritten (s t : State) (d : BitVec 5) (v : Word) : Prop := ∀ r, t.x r = if r = d ∧ d ≠ 0 then v else s.x r

/-- An instruction of n bytes that completes with `v` in scalar register `d`, and its whole frame. -/
structure ScalarDone (n : Nat) (d : BitVec 5) (v : Word) (s t : State) : Prop where
  done : Completed n s t
  result : ScalarWritten s t d v
  context : SameButScalars s t
  outside : OnlyRegisters s t
  bytes : SameBytes s t

/-- The same with no register written. -/
structure PlainDone (n : Nat) (s t : State) : Prop where
  done : Completed n s t
  context : SameButPc s t
  outside : OnlyRegisters s t
  bytes : SameBytes s t

/-- A transfer of control to `target`: the same frame, PMC0 counts it. -/
structure Jumped (target : Word) (s t : State) : Prop where
  pc : t.ctx.pc = target
  counted : t.core.pmc[0] = s.core.pmc[0] + 1
  context : SameButScalars s t
  outside : OnlyRegisters s t
  bytes : SameBytes s t

end Sys2Proof.Machine
end

