-- ==== Sys2Proof/Certificates/Slice0/Obligations.lean ====
section
/-! DEFINITION. The claims about the model, rule by rule of the spec. Each definition's docstring cites the rules it formalises. -/

noncomputable section

open Sys2Proof
open Sys2Proof.Machine

/-! ### Encoding -/

/-- R72, R77, R79. The decoder gives back every instruction that has an encoding, with every operand at every value its fields
admit, and leaves the bytes that follow. -/
def Obligations.DecodeEncodeAgree : Prop :=
  ∀ i : Instr, i.size ≠ 0 → ∀ rest : List Byte, decode (encode i ++ rest) = .ok (i, rest)

/-- The words the spec writes out (R126, R132, R143, R150) are the instructions it says. -/
def Obligations.SpecWordsDecode : Prop :=
  decodeTableWord 32 0x190A0003 = some (.add 3 4 5) ∧ decodeTableWord 32 0x190A1503 = some (.divN 3 4 5) ∧
  decodeTableWord 32 0x29A3C11D = some (.mkpl 5 6 0 30 1) ∧ decodeTableWord 32 0x00000037 = some .nop ∧
  decodeTableWord 16 0x4FCC = some (.cLi 9 31)

/-! ### Steps -/

/-- R72. The halfwords at the pc are what is fetched: one, or two where bit 0 of the first is 1; an odd pc raises Misaligned. The fetch
path holds no copy and the memory no poisoned byte.
Choices of the model in it: log entry 26. -/
def Obligations.FetchReadsMemory : Prop :=
  ∀ (s : State) (pa : Nat) (u : Use), s.core.fetched = [] → s.poison = [] →
    (s.ctx.pc.getLsbD 0 = false → translate s s.part s.privileged s.ctx.pc Need.exec = .ok (.phys pa u) →
      let s1 := { markUsed s u false with core := { (markUsed s u false).core with fetched := [(pa, physLe s pa 2)] } }
      (physLe s pa 2 % 2 = 0 → ∃ t, fetchWord s = .ok (natBytes 2 (physLe s pa 2), t) ∧ t.ctx = s.ctx) ∧
      (∀ pb v, physLe s pa 2 % 2 = 1 → translate s1 s1.part s1.privileged (s.ctx.pc + 2) Need.exec = .ok (.phys pb v) → pb ≠ pa →
        ∃ t, fetchWord s = .ok (natBytes 2 (physLe s pa 2) ++ natBytes 2 (physLe s1 pb 2), t) ∧ t.ctx = s.ctx)) ∧
    (s.ctx.pc.getLsbD 0 = true → fetchWord s = .error (exc .misaligned 0 s.ctx.pc))

/-- What a core's turn that begins in `s` makes of instruction i with bytes `code` in a state that is ready for it: `exec`, once the
results the instruction waits for have landed, and what a turn adds: PMC1, the gang's part, n cycles, the suspension that was due. A turn
that would write a line the host holds, or land a presence store that waits at its target, does not take place. -/
def turnOf (n : Nat) (s : State) (i : Instr) (code : List Byte) (u : State) : Out :=
  andThen (exec i (prepare i u)) fun t => andThen (takeCut (passTime n (afterIssue i code (prepare i u) t))) fun v =>
    .next (match heldTurn none s v with | some h => passTime n h | none => v)

/-- A step whose turn is a core's, with nothing due before issue (R400), is `exec` of the instruction the fetched bytes decode to,
in the state the fetch leaves, with what a turn adds; a gang's follower executes the instruction its leader sent it, where the leader
stood (R29).
Choices of the model in it: log entries 4, 5, 42, 63. -/
def Obligations.StepRunsDecodedInstruction : Prop :=
  ∀ (s s0 : State) (c : Nat) (l : List Turn) (bs rest : List Byte) (i : Instr),
    s.powered = true → s.frozen = false → s.schedule = .core c :: l → c < 2048 →
    let s1 := ({ s with schedule := l }).switchTo c
    let n := 1 + Config.stepCycles s1.free
    s0 = setCut n s1 → droopHeld s0 = false → quantumOver s0.core s0.cyc = false → mayPick s0 = false → s0.core.routines = [] →
    mayIssue s0 = true → dueCause s0 = none →
    (∀ u, s0.headStep = none → fetchWord s0 = .ok (bs, u) → decode bs = .ok (i, rest) → step s = turnOf n s1 i bs u) ∧
    (∀ st, s0.headStep = some st → decode st.bytes = .ok (i, rest) → step s = turnOf n s1 i st.bytes (enterStep st s0))

/-- Every step keeps every memory in canonical form (log entry 2). -/
def Obligations.StepKeepsMemoryForm : Prop :=
  ∀ s t : State, s.memWf → step s = .next t → t.memWf

/-- The memories are in canonical form after reset.
Choices of the model in it: log entry 2. -/
def Obligations.ResetMemoryForm : Prop := State.reset.memWf

/-- R149, R256, R399. With the clocks stopped or without power no turn takes place but a package reset, or a loss of power; dbgfreeze
writes ECAUSE and EPC and stops the clocks.
Choices of the model in it: log entries 4, 28. -/
def Obligations.StoppedPackageStays : Prop :=
  (∀ s : State,
    (s.powered = false → (∀ v l, s.schedule ≠ .event (.packageReset v) :: l) → step s = .fault .noPower) ∧
    (s.powered = true → s.frozen = true → (∀ v l, s.schedule ≠ .event (.packageReset v) :: l) →
      (∀ l, s.schedule ≠ .event .powerLoss :: l) → step s = .fault .clocksStopped)) ∧
  (∀ s : State, s.privileged = true → ∃ t, exec .dbgfreeze s = .next t ∧ t.frozen = true ∧ t.ctx.epc = s.ctx.pc ∧ t.ctx.ecause = 25 ∧
    t = { s with frozen := true, ctx := { s.ctx with ecause := 25, epc := s.ctx.pc } })

/-- R117. What the CSRs read after package reset: the package-scope registers by R117; the task-scope and launch-scope ones at the values
it gives them at task creation, and 0 for TID, WCOORD, LID and PRIO, before any task.
Choices of the model in it: log entry 1. -/
def Obligations.ResetCsrs : Prop :=
  (∀ c : BitVec 12, c.toNat ≤ 0x00E → c ≠ 1 → State.reset.csr c = 0) ∧ State.reset.csr 0x001 = 4 ∧
  State.reset.csr 0x023 = 1048576 ∧ State.reset.csr 0x024 = 65536 ∧ State.reset.csr 0x027 = 0x3A800000 ∧
  State.reset.csr 0x040 = 0 ∧ State.reset.csr 0x042 = 48 ∧ State.reset.csr 0x043 = 65536 ∧ State.reset.csr 0x044 = 40 ∧
  (∀ c : BitVec 12, 0x048 ≤ c.toNat → c.toNat ≤ 0x057 → State.reset.csr c = 0)

/-! ### Scalar arithmetic -/

/-- sh = b[5:0] (R127). -/
def shiftOf (b : Word) : Nat := b.toNat % 64

/-- sd and its value by the table of R127, with the division of R91. -/
def table127 (x : BitVec 5 → Word) : Instr → Option (BitVec 5 × Word)
  | .add d a b => some (d, x a + x b)
  | .sub d a b => some (d, x a - x b)
  | .and d a b => some (d, x a &&& x b)
  | .or d a b => some (d, x a ||| x b)
  | .xor d a b => some (d, x a ^^^ x b)
  | .andn d a b => some (d, x a &&& ~~~(x b))
  | .shl d a b => some (d, BitVec.ofNat 64 ((x a).toNat * 2 ^ shiftOf (x b)))
  | .shr d a b => some (d, BitVec.ofNat 64 ((x a).toNat / 2 ^ shiftOf (x b)))
  | .sar d a b => some (d, BitVec.ofInt 64 ((x a).toInt / 2 ^ shiftOf (x b)))
  | .rol d a b =>
    let sh := shiftOf (x b)
    some (d, if sh = 0 then x a else BitVec.ofNat 64 ((x a).toNat * 2 ^ sh) ||| BitVec.ofNat 64 ((x a).toNat / 2 ^ (64 - sh)))
  | .min d a b => some (d, if (x a).toInt ≤ (x b).toInt then x a else x b)
  | .max d a b => some (d, if (x a).toInt ≤ (x b).toInt then x b else x a)
  | .minN d a b => some (d, if (x a).toNat ≤ (x b).toNat then x a else x b)
  | .maxN d a b => some (d, if (x a).toNat ≤ (x b).toNat then x b else x a)
  | .slt d a b => some (d, if (x a).toInt < (x b).toInt then 1 else 0)
  | .sltN d a b => some (d, if (x a).toNat < (x b).toNat then 1 else 0)
  | .seq d a b => some (d, if x a = x b then 1 else 0)
  | .mul d a b => some (d, BitVec.ofInt 64 ((x a).toInt * (x b).toInt))
  | .mulh d a b => some (d, BitVec.ofInt 64 ((x a).toInt * (x b).toInt / 2 ^ 64))
  | .mulhN d a b => some (d, BitVec.ofNat 64 ((x a).toNat * (x b).toNat / 2 ^ 64))
  | .div d a b => some (d,
      if x b = 0 then BitVec.allOnes 64
      else if (x a).toInt = -2 ^ 63 ∧ (x b).toInt = -1 then x a
      else BitVec.ofInt 64 ((x a).toInt.tdiv (x b).toInt))
  | .divN d a b => some (d, if x b = 0 then BitVec.allOnes 64 else BitVec.ofNat 64 ((x a).toNat / (x b).toNat))
  | .rem d a b => some (d,
      if x b = 0 then x a
      else if (x a).toInt = -2 ^ 63 ∧ (x b).toInt = -1 then 0
      else BitVec.ofInt 64 ((x a).toInt - (x a).toInt.tdiv (x b).toInt * (x b).toInt))
  | .remN d a b => some (d, if x b = 0 then x a else BitVec.ofNat 64 ((x a).toNat - (x a).toNat / (x b).toNat * (x b).toNat))
  | .clz d a => some (d, BitVec.ofNat 64 (((List.range 64).takeWhile (fun k => !(x a).getLsbD (63 - k))).length))
  | .ctz d a => some (d, BitVec.ofNat 64 (((List.range 64).takeWhile (fun k => !(x a).getLsbD k)).length))
  | .popc d a => some (d, BitVec.ofNat 64 (((List.range 64).filter (fun k => (x a).getLsbD k)).length))
  | _ => none

/-- R127, R91. Every function of the table completes with its value in sd; s0 discards it; nothing else changes. -/
def Obligations.ScalarArithmeticResults : Prop :=
  ∀ (s : State) (i : Instr) (d : BitVec 5) (v : Word), table127 s.x i = some (d, v) →
    ∃ t, exec i s = .next t ∧ ScalarDone 4 d v s t

/-- sd and its value for the immediate forms, constants and bit fields of R128-R131, where their fields are allowed. -/
def table128 (x : BitVec 5 → Word) : Instr → Option (BitVec 5 × Word)
  | .addi d a i => some (d, x a + i.signExtend 64)
  | .andi d a i => some (d, x a &&& i.signExtend 64)
  | .ori d a i => some (d, x a ||| i.signExtend 64)
  | .xori d a i => some (d, x a ^^^ i.signExtend 64)
  | .shli d a i => some (d, x a <<< i.toNat)
  | .shri d a i => some (d, BitVec.ofNat 64 ((x a).toNat / 2 ^ i.toNat))
  | .sari d a i => some (d, BitVec.ofInt 64 ((x a).toInt / 2 ^ i.toNat))
  | .slti d a i => some (d, if (x a).toInt < (i.signExtend 64).toInt then 1 else 0)
  | .li d i => some (d, i.signExtend 64)
  | .lih d i => some (d, BitVec.ofNat 64 ((x d).toNat * 65536 + i.toNat))
  | .ext d a sx l p =>
    if p.toNat + (l.toNat + 1) ≤ 64 then
      let f := (x a).toNat / 2 ^ p.toNat % 2 ^ (l.toNat + 1)
      some (d, if sx = 1 then BitVec.ofInt 64 (sext f (l.toNat + 1)) else BitVec.ofNat 64 f)
    else none
  | .ins d a l p =>
    if p.toNat + (l.toNat + 1) ≤ 64 then
      some (d, BitVec.ofNat 64 ((x d).toNat % 2 ^ p.toNat + (x a).toNat % 2 ^ (l.toNat + 1) * 2 ^ p.toNat
        + (x d).toNat / 2 ^ (p.toNat + (l.toNat + 1)) * 2 ^ (p.toNat + (l.toNat + 1))))
    else none
  | _ => none

/-- R128-R131. Immediate forms, constants and bit fields; a field that passes bit 63 raises Illegal instruction.
Choices of the model in it: log entry 14. -/
def Obligations.ImmediateResults : Prop :=
  (∀ (s : State) (i : Instr) (d : BitVec 5) (v : Word), table128 s.x i = some (d, v) →
    ∃ t, exec i s = .next t ∧ ScalarDone 4 d v s t) ∧
  (∀ (s : State) (d a : BitVec 5) (sx : BitVec 1) (l p : BitVec 6), 64 < p.toNat + (l.toNat + 1) →
    let illegal (w : Nat) : Out := .next (takeCause s (exc .illegalInstruction 0 (BitVec.ofNat 64 w)))
    exec (.ext d a sx l p) s = illegal (encExt d a sx l p) ∧ exec (.ins d a l p) s = illegal (encIns d a l p))

/-- R132. A place address is built from the offset and the place field; an offset of 2^20 or more raises Bounds, and an absolute
form with X or Y above 15 raises Illegal instruction.
Choices of the model in it: log entry 14. -/
def Obligations.PlaceAddressBuilt : Prop :=
  ∀ (s : State) (d a : BitVec 5) (e : BitVec 3) (y x : BitVec 5),
    ((s.x a).toNat < 2 ^ 20 →
      (∃ t, exec (.mkpl d a e y x) s = .next t ∧
        ScalarDone 4 d (BitVec.ofNat 64 ((s.x a).toNat + (x.toNat + y.toNat * 32 + e.toNat * 1024 + 8192) * 2 ^ 20)) s t) ∧
      (x.toNat < 16 → y.toNat < 16 → ∃ t, exec (.mkplAbs d a e y x) s = .next t ∧
        ScalarDone 4 d (BitVec.ofNat 64 ((s.x a).toNat + (x.toNat + y.toNat * 32 + e.toNat * 1024) * 2 ^ 20)) s t)) ∧
    (2 ^ 20 ≤ (s.x a).toNat → exec (.mkpl d a e y x) s = .next (takeCause s (exc .bounds 0 (s.x a))) ∧
      (x.toNat < 16 → y.toNat < 16 → exec (.mkplAbs d a e y x) s = .next (takeCause s (exc .bounds 0 (s.x a))))) ∧
    (16 ≤ x.toNat ∨ 16 ≤ y.toNat → exec (.mkplAbs d a e y x) s
      = .next (takeCause s (exc .illegalInstruction 0 (BitVec.ofNat 64 (encMkplAbs d a e y x)))))

/-- sa and its value for the compressed forms of R79, by the equivalent of each. -/
def table79 (x : BitVec 5 → Word) : Instr → Option (BitVec 5 × Word)
  | .cMov a b => some (a, x b)
  | .cAdd a b => some (a, x a + x b)
  | .cSub a b => some (a, x a - x b)
  | .cAnd a b => some (a, x a &&& x b)
  | .cOr a b => some (a, x a ||| x b)
  | .cXor a b => some (a, x a ^^^ x b)
  | .cAddi a i => some (a, x a + i.signExtend 64)
  | .cLi a i => some (a, i.signExtend 64)
  | .cShli a i => some (a, x a <<< i.toNat)
  | .cShri a i => some (a, BitVec.ofNat 64 ((x a).toNat / 2 ^ i.toNat))
  | .cSari a i => some (a, BitVec.ofInt 64 ((x a).toInt / 2 ^ i.toNat))
  | .cShl a b => some (a, BitVec.ofNat 64 ((x a).toNat * 2 ^ shiftOf (x b)))
  | .cShr a b => some (a, BitVec.ofNat 64 ((x a).toNat / 2 ^ shiftOf (x b)))
  | .cSlt a b => some (a, if (x a).toInt < (x b).toInt then 1 else 0)
  | .cSeq a b => some (a, if x a = x b then 1 else 0)
  | .cNeg a b => some (a, 0 - x b)
  | .cMul a b => some (a, BitVec.ofInt 64 ((x a).toInt * (x b).toInt))
  | .cMin a b => some (a, if (x a).toInt ≤ (x b).toInt then x a else x b)
  | .cMax a b => some (a, if (x a).toInt ≤ (x b).toInt then x b else x a)
  | _ => none

/-- R79, R150. The compressed arithmetic forms are their equivalents in two bytes. -/
def Obligations.CompressedResults : Prop :=
  ∀ (s : State) (i : Instr) (d : BitVec 5) (v : Word), table79 s.x i = some (d, v) →
    ∃ t, exec i s = .next t ∧ ScalarDone 2 d v s t

/-! ### Control transfer -/

/-- Whether a branch is taken, its offset in halfwords and its size (R138, R140, R79). -/
def branchTable (x : BitVec 5 → Word) : Instr → Option (Bool × Int × Nat)
  | .b o => some (true, o.toInt, 4)
  | .beq a b o => some (decide (x a = x b), o.toInt, 4)
  | .bne a b o => some (decide (x a ≠ x b), o.toInt, 4)
  | .blt a b o => some (decide ((x a).toInt < (x b).toInt), o.toInt, 4)
  | .bge a b o => some (decide ((x b).toInt ≤ (x a).toInt), o.toInt, 4)
  | .bltN a b o => some (decide ((x a).toNat < (x b).toNat), o.toInt, 4)
  | .bgeN a b o => some (decide ((x b).toNat ≤ (x a).toNat), o.toInt, 4)
  | .cB o => some (true, o.toInt, 2)
  | .cBeqz a o => some (decide (x a = 0), o.toInt, 2)
  | .cBnez a o => some (decide (x a ≠ 0), o.toInt, 2)
  | _ => none

/-- R138, R140, R141, R79, R279. A branch goes to its address + 2 × offset when its condition holds, else past itself; in a service routine
a transfer to address 0 ends the routine instead. The predicate branches test bits 0 to VL - 1 of p; a p field of 24 to 31 is illegal. -/
def Obligations.Branches : Prop :=
  (∀ (s : State) (i : Instr) (c : Bool) (o : Int) (n : Nat), branchTable s.x i = some (c, o, n) →
    (s.inService = false ∨ c = false ∨ s.ctx.pc + BitVec.ofInt 64 (2 * o) ≠ 0 → ∃ t, exec i s = .next t ∧ SameButPc s t ∧
      Jumped (if c then s.ctx.pc + BitVec.ofInt 64 (2 * o) else s.ctx.pc + BitVec.ofNat 64 n) s t) ∧
    (s.inService = true → c = true → s.ctx.pc + BitVec.ofInt 64 (2 * o) = 0 → exec i s = .next (closeRoutine (s.retire 1)))) ∧
  (∀ (s : State) (p : BitVec 5) (o : BitVec 17), p.toNat < 24 → (s.inService = true → p.toNat < 4) →
    (s.inService = false ∨ s.ctx.pc + BitVec.ofInt 64 (2 * o.toInt) ≠ 0) →
    let bit (k : Nat) : Bool := (s.ctx.getP p.toNat).getLsbD k
    let any : Prop := ∃ k, k < s.ctx.vl.toNat ∧ bit k = true
    let all : Prop := ∀ k, k < s.ctx.vl.toNat → bit k = true
    let goes (i : Instr) (c : Prop) : Prop := ∃ t, exec i s = .next t ∧ SameButPc s t ∧
      (c → Jumped (s.ctx.pc + BitVec.ofInt 64 (2 * o.toInt)) s t) ∧ (¬c → Jumped (s.ctx.pc + 4) s t)
    goes (.bpAny p o) any ∧ goes (.bpNone p o) (¬any) ∧ goes (.bpAll p o) all ∧ goes (.bpNall p o) (¬all)) ∧
  (∀ (s : State) (p : BitVec 5) (o : BitVec 17), 24 ≤ p.toNat →
    let illegal (w : Nat) : Out := .next (takeCause s (exc .illegalInstruction 0 (BitVec.ofNat 64 w)))
    exec (.bpAny p o) s = illegal (encBpAny p o) ∧ exec (.bpNone p o) s = illegal (encBpNone p o) ∧
    exec (.bpAll p o) s = illegal (encBpAll p o) ∧ exec (.bpNall p o) s = illegal (encBpNall p o))

/-- R138, R139, R79, R279. Calls and register jumps: the target, the link register, and Misaligned for an odd target; in a service
routine a transfer to address 0 ends the routine instead. -/
def Obligations.JumpsAndLinks : Prop :=
  ∀ (s : State) (d a : BitVec 5) (i : BitVec 14) (o : BitVec 24),
    (s.inService = false ∨ s.ctx.pc + BitVec.ofInt 64 (2 * o.toInt) ≠ 0 → ∃ t, exec (.call o) s = .next t ∧
      Jumped (s.ctx.pc + BitVec.ofInt 64 (2 * o.toInt)) s t ∧ ScalarWritten s t 31 (s.ctx.pc + 4)) ∧
    (s.inService = false ∨ s.x a + i.signExtend 64 ≠ 0 → (s.x a + i.signExtend 64).getLsbD 0 = false →
      ∃ t, exec (.jr d a i) s = .next t ∧ Jumped (s.x a + i.signExtend 64) s t ∧ ScalarWritten s t d (s.ctx.pc + 4)) ∧
    ((s.x a + i.signExtend 64).getLsbD 0 = true →
      exec (.jr d a i) s = .next (takeCause s (exc .misaligned 0 (s.x a + i.signExtend 64)))) ∧
    (s.inService = false ∨ s.x 31 ≠ 0 → (s.x 31).getLsbD 0 = false →
      ∃ t, exec .cRet s = .next t ∧ Jumped (s.x 31) s t ∧ SameButPc s t) ∧
    (s.inService = true → s.x a + i.signExtend 64 = 0 →
      exec (.jr d a i) s = .next (closeRoutine ((s.retire 1).setX d (s.ctx.pc + 4)))) ∧
    (s.inService = true → s.x 31 = 0 → exec .cRet s = .next (closeRoutine (s.retire 1)))

/-! ### Control and status registers -/

/-- Numbers R117 lists with access RO. -/
def csrReadOnly (c : BitVec 12) : Bool :=
  [0x000, 0x001, 0x003, 0x006, 0x007, 0x008, 0x009, 0x00A, 0x00B, 0x020, 0x021, 0x022, 0x040, 0x041, 0x048, 0x049, 0x04A, 0x04B].contains
    c.toNat

/-- R133, R134. A read, a set or clear that names s0, and a write of a read-only register give sd the old value and change nothing. -/
def Obligations.CsrReads : Prop :=
  ∀ (s : State) (d a : BitVec 5) (c : BitVec 12), csrAssigned c = true →
    (∃ t, exec (.csrr d c) s = .next t ∧ ScalarDone 4 d (s.csr c) s t) ∧
    (∃ t, exec (.csrs d 0 c) s = .next t ∧ ScalarDone 4 d (s.csr c) s t) ∧
    (∃ t, exec (.csrc d 0 c) s = .next t ∧ ScalarDone 4 d (s.csr c) s t) ∧
    (csrReadOnly c = true → ∃ t, exec (.csrw d a c) s = .next t ∧ ScalarDone 4 d (s.csr c) s t)

/-- What a register of access RW keeps of a written value: the bits of its column, and 0 for 6 and 7 in FRM (R117, R134). -/
def csrKept (n : Nat) (v : Word) : Option Word :=
  if n = 0x002 then some (BitVec.ofNat 64 (v.toNat % 2048))
  else if n = 0x004 then some (BitVec.ofNat 64 (v.toNat % 32))
  else if n = 0x005 then some (if v.toNat % 8 < 6 then BitVec.ofNat 64 (v.toNat % 8) else 0)
  else if n = 0x00C ∨ n = 0x00E then some v
  else if n = 0x00D then some (BitVec.ofNat 64 (v.toNat % 16777216))
  else if n = 0x023 ∨ n = 0x024 ∨ n = 0x026 ∨ n = 0x027 then some (BitVec.ofNat 64 (v.toNat % 4294967296))
  else if n = 0x025 then some (BitVec.ofNat 64 (v.toNat % 8))
  else if 0x030 ≤ n ∧ n ≤ 0x03F then some (BitVec.ofNat 64 (v.toNat % 4294967296))
  else none

/-- What a register of access PRW keeps of a written value (R117, R134): QNTM 1 for 0, CCLIM the whole value clamped to 2 to 48, here
where the core's cache holds no more records than that and no more lines than it has (R40). PMC0 is not in this table. -/
def csrKeptPrivileged (s : State) (n : Nat) (v : Word) : Option Word :=
  if n = 0x042 then
    let k := max 2 (min 48 v.toNat)
    if (cached s.core.tasks).length ≤ k ∧ linesIn .cache (cached s.core.tasks) ≤ 4096 then some (BitVec.ofNat 64 k) else none
  else if n = 0x043 then some (if v.toNat % 4294967296 = 0 then 1 else BitVec.ofNat 64 (v.toNat % 4294967296))
  else if n = 0x044 then some (BitVec.ofNat 64 (v.toNat % 65536))
  else if 0x051 ≤ n ∧ n ≤ 0x057 then some v
  else none

/-- A CSR instruction that has written `k` to register c: sd has the old value, every other register but the account and PMC0
reads as before, and so does every byte. -/
structure CsrDone (d : BitVec 5) (c : BitVec 12) (k : Word) (s t : State) : Prop where
  done : Completed 4 s t
  old : ScalarWritten s t d (s.csr c)
  new : t.csr c = k
  others : ∀ e : BitVec 12, csrAssigned e = true → e ≠ c → e ≠ 0x020 → e ≠ 0x050 → t.csr e = s.csr e
  bytes : SameBytes s t

/-- R133, R134, R378, R385. csrw, and csrs and csrc with a register other than s0: a write of a register of access RW stores what its bits
keep, in either mode; a register of access PRW is written in privileged mode only, and in user mode a write raises Privileged. A write of
PMC0 is followed by the count of its own completion.
Choices of the model in it: log entries 14, 72. -/
def Obligations.CsrWrites : Prop :=
  ∀ (s : State) (d a : BitVec 5) (c : BitVec 12),
    let writes (i : Instr) (v : Word) : Prop :=
      (∀ k, csrKept c.toNat v = some k → ∃ t, exec i s = .next t ∧ CsrDone d c k s t) ∧
      (s.privileged = false → (0x042 ≤ c.toNat ∧ c.toNat ≤ 0x044 ∨ 0x050 ≤ c.toNat ∧ c.toNat ≤ 0x057) →
        exec i s = .next (takeCause s (exc .privileged 0 0))) ∧
      (s.privileged = true → ∀ k, csrKeptPrivileged s c.toNat v = some k → ∃ t, exec i s = .next t ∧ CsrDone d c k s t) ∧
      (s.privileged = true → c = 0x050 → ∃ t, exec i s = .next t ∧ t.ctx.pc = s.ctx.pc + 4 ∧ ScalarWritten s t d (s.csr 0x050) ∧
        t.csr 0x050 = v + 1 ∧ (∀ e : BitVec 12, csrAssigned e = true → e ≠ 0x020 → e ≠ 0x050 → t.csr e = s.csr e) ∧ SameBytes s t)
    writes (.csrw d a c) (s.x a) ∧
    (a ≠ 0 → writes (.csrs d a c) (s.csr c ||| s.x a) ∧ writes (.csrc d a c) (s.csr c &&& ~~~(s.x a)))

/-! ### Operand-extension registers -/

/-- R31, R136, R137. oxm and oxr move a doubleword between a scalar register and ox(N), N below 8; a service routine has no ox registers, and
either raises Illegal instruction there. oxl puts the K doublewords it reads into ox(N) to ox(N + K - 1). -/
def Obligations.OxForms : Prop :=
  (∀ (s : State) (n r : BitVec 5), n.toNat < 8 →
    (s.inService = false →
      (∃ t, exec (.oxm n r) s = .next t ∧ Completed 4 s t ∧ t.ctx = { s.ctx with pc := t.ctx.pc, ox := t.ctx.ox } ∧
        OnlyRegisters s t ∧ SameBytes s t ∧ ∀ k, k < 8 → t.ctx.getOx k = if k = n.toNat then s.x r else s.ctx.getOx k) ∧
      (∃ t, exec (.oxr r n) s = .next t ∧ ScalarDone 4 r (s.ctx.getOx n.toNat) s t)) ∧
    (s.inService = true →
      exec (.oxm n r) s = .next (takeCause s (exc .illegalInstruction 0 (BitVec.ofNat 64 (encOxm n r)))) ∧
      exec (.oxr r n) s = .next (takeCause s (exc .illegalInstruction 0 (BitVec.ofNat 64 (encOxr r n)))))) ∧
  (∀ (s s1 : State) (n a b : BitVec 5) (k : BitVec 3) (ws : List Word), n.toNat + (k.toNat + 1) ≤ 8 → s.inService = false → s.strike .address = none →
    (s.x a + s.x b).toNat % 8 = 0 → readDoublewords s (s.x a + s.x b) true (k.toNat + 1) = .ok (ws, s1) →
    ∃ t, exec (.oxl n a b k) s = .next t ∧ t.ctx.pc = s.ctx.pc + 4 ∧ t.ctx.s = s.ctx.s ∧
      (∀ j, j < 8 → t.ctx.getOx j = if n.toNat ≤ j ∧ j ≤ n.toNat + k.toNat then ws[j - n.toNat]?.getD 0 else s.ctx.getOx j) ∧
      SameBytes s1 t)

/-! ### System functions -/

/-- R83, R143, R144, R79. nop and c.nop do nothing but complete; trap raises Illegal instruction with bit 15 of the sub-code set and EADDR
the word; bytes that are no instruction raise Illegal instruction with EADDR the word. -/
def Obligations.NopsAndIllegal : Prop :=
  (∀ (s : State) (a : BitVec 5),
    (∃ t, exec .nop s = .next t ∧ PlainDone 4 s t) ∧ (∃ t, exec .cNop s = .next t ∧ PlainDone 2 s t) ∧
    exec (.trap a) s
      = .next (takeCause s (exc .illegalInstruction (0x8000 + (s.x a).toNat % 2 ^ 15) (BitVec.ofNat 64 (encTrap a))))) ∧
  (∀ (w : BitVec 32) (s : State), exec (.nonInstruction w) s = .next (takeCause s (exc .illegalInstruction 0 (w.zeroExtend 64))))

/-- R389, R145. A cause of the launch handler, outside handlers, routines and gangs, with EHANDLER set: EPC, ECAUSE and EADDR are written,
the task is in its handler at EHANDLER, and nothing else changes. eret resumes at EPC inside a handler, and keeps EPC, ECAUSE and EADDR;
elsewhere it raises Illegal instruction; with an odd EPC it raises Misaligned. -/
def Obligations.HandlerEntryAndReturn : Prop :=
  (∀ (s : State) (e : Exc) (t : TaskInfo),
    e.cause ∈ [Cause.copyOnWrite, .staleBlock, .promiseMissed, .barrierTimeout, .awaitTimeout, .matrixCheck] →
    s.inService = false → s.core.run.task = some t → t.gang = .none → s.lc.ehandler ≠ 0 → s.ctx.inHandler = false →
    takeCause s e = { s with ctx := { s.ctx with epc := s.ctx.pc, ecause := BitVec.ofNat 24 (e.cause.code + 256 * (e.sub % 65536)),
                                                 eaddr := e.addr, inHandler := true, pc := s.lc.ehandler } }) ∧
  (∀ s : State,
    (s.inService = false → s.ctx.inHandler = true → s.ctx.epc.getLsbD 0 = false →
      ∃ t, exec .eret s = .next t ∧ t.ctx = { s.ctx with pc := s.ctx.epc, inHandler := false } ∧
        t.core.pmc[0] = s.core.pmc[0] + 1 ∧ OnlyRegisters s t ∧ SameBytes s t) ∧
    (s.inService = true ∨ s.ctx.inHandler = false →
      exec .eret s = .next (takeCause s (exc .illegalInstruction 0 (BitVec.ofNat 64 encEret)))) ∧
    (s.inService = false → s.ctx.inHandler = true → s.ctx.epc.getLsbD 0 = true →
      exec .eret s = .next (takeCause s (exc .misaligned 0 s.ctx.epc))))

/-- R147, R148. seal and unseal on another core of the die: the status says whether the instruction changed anything. trestart sends its
request to Sluice, waits, and completes with the status Sluice answers.
Choices of the model in it: log entries 4, 15. -/
def Obligations.SealAndRestart : Prop :=
  (∀ (s : State) (d a : BitVec 5) (c : Nat), s.privileged = true → coreOperand s (s.x a) = .ok c → dieOf c = dieOf s.cur → c ≠ s.cur →
    (∃ t, exec (.seal d a) s = .next t ∧ Completed 4 s t ∧ (t.coreOf c).closed = true ∧
      ScalarWritten s t d (if (s.coreOf c).closed then 1 else 0) ∧ SameBytes s t ∧ SameButScalars s t) ∧
    (∃ t, exec (.unseal d a) s = .next t ∧ Completed 4 s t ∧ (t.coreOf c).closed = false ∧
      ScalarWritten s t d (if (s.coreOf c).closed then 0 else 1) ∧ SameBytes s t ∧ SameButScalars s t)) ∧
  (∀ (s : State) (d a b : BitVec 5) (c : Nat), s.privileged = true → coreOperand s (s.x a) = .ok c → (s.x b).toNat < 2 ^ 48 →
    dieOf c = dieOf s.cur → c ≠ s.cur →
    (s.core.answer = none → s.core.asked = false → ∃ t, exec (.trestart d a b) s = .next t ∧ t.ctx = s.ctx ∧ t.core.asked = true ∧
      t.pending = s.pending ++ [.trestartRequest s.cur c ((s.x b).toNat % 65536) ((s.x b).toNat / 65536)]) ∧
    (∀ v, s.core.answer = some v → ∃ t, exec (.trestart d a b) s = .next t ∧ Completed 4 s t ∧ ScalarWritten s t d v ∧
      t.core.answer = none ∧ t.core.asked = false ∧ SameBytes s t ∧ SameButScalars s t))

/-! ### Vector computation -/

/-- The registers a vector instruction writes and reads as (first, count), the predicate it writes (0 for none) and the scalar
register it writes. -/
structure VectorShape where
  dests : List (Nat × Nat)
  reads : List (Nat × Nat)
  pdest : Nat
  scalar : Option (BitVec 5)

/-- An elementwise instruction whose fields and type are allowed (R75, R153, R154). -/
def elementShape (s : State) (ok : Bool) (d : BitVec 6) (srcs : List (BitVec 6)) (n : BitVec 1) (p : BitVec 5) : Option VectorShape :=
  if maskOk s p n && ok && groupHere s d s.ctx.group && srcs.all (fun a => groupHere s a s.ctx.group) then
    some ⟨[s.ctx.dest d], srcs.map s.ctx.dest, 0, none⟩
  else none

/-- A move whose destination shares no register with a source (R154). -/
def moveShape (s : State) (d : BitVec 6) (srcs : List (BitVec 6)) (n : BitVec 1) (p : BitVec 5) : Option VectorShape :=
  if maskOk s p n && groupHere s d s.ctx.group
      && srcs.all (fun a => groupHere s a s.ctx.group && disjointGroups (s.ctx.dest d) (s.ctx.dest a)) then
    some ⟨[s.ctx.dest d], srcs.map s.ctx.dest, 0, none⟩
  else none

/-- A compare (R169). -/
def compareShape (s : State) (ok : Bool) (d : BitVec 5) (a b : BitVec 6) (p : BitVec 4) : Option VectorShape :=
  if predDestOk d && predHere s d.toNat && predHere s p.toNat && ok && groupHere s a s.ctx.group && groupHere s b s.ctx.group then
    some ⟨[], [s.ctx.dest a, s.ctx.dest b], d.toNat, none⟩
  else none

/-- A conversion (R166, R167): with a block format it writes the scale register of ox0 too, and with stochastic rounding it steps
the generators in v56:8. -/
def convertShape (s : State) (x : ConvSource) (d a : BitVec 6) (n : BitVec 1) (p : BitVec 5) : Option VectorShape :=
  let c := s.ctx
  let gs := convGroup c x
  let src := (a.toNat, gs)
  let dst := c.dest d
  let sr := decide (c.frm = 5)
  let block := decide (7 ≤ c.fmt)
  let scale := bits (c.getOx 0) 5 0
  let draws := sr && narrowing x c.fmt c.sew c.format
  if maskOk s p n && decide (gs ≤ 8) && groupHere s d c.group && groupHere s a gs
      && ((decide (d = a) && decide (gs = c.group)) || disjointGroups dst src)
      && !(sr && (rangesMeet dst (56, 8) || rangesMeet src (56, 8))) && (!draws || vecHere s 63)
      && !(block && (!s.hasOx || decide (bits (c.getOx 0) 63 6 ≠ 0) || rangesMeet dst (scale, 1) || rangesMeet src (scale, 1))) then
    some ⟨dst :: (if block then [(scale, 1)] else []) ++ (if draws then [(56, 8)] else []), [src], 0, none⟩
  else none

/-- The vector computations of chapter 8 whose fields and type are allowed in this state. -/
def vectorShape (s : State) : Instr → Option VectorShape
  | .vadd d a b n p => elementShape s s.ctx.isInt d [d, a, b] n p
  | .vsub d a b n p => elementShape s s.ctx.isInt d [d, a, b] n p
  | .vmul d a b n p => elementShape s s.ctx.isInt d [d, a, b] n p
  | .vmulh d a b n p => elementShape s s.ctx.isInt d [d, a, b] n p
  | .vmacc d a b n p => elementShape s s.ctx.isInt d [d, a, b] n p
  | .vmin d a b n p => elementShape s s.ctx.isInt d [d, a, b] n p
  | .vmax d a b n p => elementShape s s.ctx.isInt d [d, a, b] n p
  | .vand d a b n p => elementShape s s.ctx.isInt d [d, a, b] n p
  | .vor d a b n p => elementShape s s.ctx.isInt d [d, a, b] n p
  | .vxor d a b n p => elementShape s s.ctx.isInt d [d, a, b] n p
  | .vshl d a b n p => elementShape s s.ctx.isInt d [d, a, b] n p
  | .vshr d a b n p => elementShape s s.ctx.isInt d [d, a, b] n p
  | .vsar d a b n p => elementShape s s.ctx.isInt d [d, a, b] n p
  | .vadds d a b n p => elementShape s s.ctx.isInt d [d, a, b] n p
  | .vsubs d a b n p => elementShape s s.ctx.isInt d [d, a, b] n p
  | .vfadd d a b n p => elementShape s s.ctx.isFloat d [d, a, b] n p
  | .vfsub d a b n p => elementShape s s.ctx.isFloat d [d, a, b] n p
  | .vfmul d a b n p => elementShape s s.ctx.isFloat d [d, a, b] n p
  | .vfma d a b n p => elementShape s s.ctx.isFloat d [d, a, b] n p
  | .vfms d a b n p => elementShape s s.ctx.isFloat d [d, a, b] n p
  | .vfnma d a b n p => elementShape s s.ctx.isFloat d [d, a, b] n p
  | .vfmin d a b n p => elementShape s s.ctx.isFloat d [d, a, b] n p
  | .vfmax d a b n p => elementShape s s.ctx.isFloat d [d, a, b] n p
  | .vfdiv d a b n p => elementShape s s.ctx.isFloat d [d, a, b] n p
  | .vmov d a n p => elementShape s true d [a] n p
  | .vabs d a n p => elementShape s s.ctx.isInt d [a] n p
  | .vneg d a n p => elementShape s s.ctx.isInt d [a] n p
  | .vnot d a n p => elementShape s s.ctx.isInt d [a] n p
  | .vclz d a n p => elementShape s s.ctx.isInt d [a] n p
  | .vpopc d a n p => elementShape s s.ctx.isInt d [a] n p
  | .vfabs d a n p => elementShape s s.ctx.isFloat d [a] n p
  | .vfneg d a n p => elementShape s s.ctx.isFloat d [a] n p
  | .vfsqrt d a n p => elementShape s s.ctx.isFloat d [a] n p
  | .vfrsq d a n p => elementShape s s.ctx.isFloat d [a] n p
  | .vfrcp d a n p => elementShape s s.ctx.isFloat d [a] n p
  | .vfexp2 d a n p => elementShape s s.ctx.isFloat d [a] n p
  | .vflog2 d a n p => elementShape s s.ctx.isFloat d [a] n p
  | .vftanh d a n p => elementShape s s.ctx.isFloat d [a] n p
  | .vfclass d a n p => elementShape s s.ctx.isFloat d [a] n p
  | .vaddVs d a _ _ n p => elementShape s s.ctx.isInt d [d, a] n p
  | .vmulVs d a _ _ n p => elementShape s s.ctx.isInt d [d, a] n p
  | .vfaddVs d a _ _ n p => elementShape s s.ctx.isFloat d [d, a] n p
  | .vfmulVs d a _ _ n p => elementShape s s.ctx.isFloat d [d, a] n p
  | .vfmaVs d a _ _ n p => elementShape s s.ctx.isFloat d [d, a] n p
  | .vunpk4Lo d a n p => if maskOk s p n && s.ctx.isInt && decide (s.ctx.sew = 8) && groupHere s d s.ctx.group && groupHere s a s.ctx.group && disjointGroups (s.ctx.dest d) (s.ctx.dest a) then some ⟨[s.ctx.dest d], [s.ctx.dest a], 0, none⟩ else none
  | .vunpk4Hi d a n p => if maskOk s p n && s.ctx.isInt && decide (s.ctx.sew = 8) && groupHere s d s.ctx.group && groupHere s a s.ctx.group && disjointGroups (s.ctx.dest d) (s.ctx.dest a) then some ⟨[s.ctx.dest d], [s.ctx.dest a], 0, none⟩ else none
  | .vpack4 d a n p => if maskOk s p n && s.ctx.isInt && decide (s.ctx.sew = 8) && groupHere s d s.ctx.group && groupHere s a s.ctx.group && disjointGroups (s.ctx.dest d) (s.ctx.dest a) then some ⟨[s.ctx.dest d], [s.ctx.dest a], 0, none⟩ else none
  | .vcvtI8 d a n p => convertShape s (.int true 8) d a n p
  | .vcvtN8 d a n p => convertShape s (.int false 8) d a n p
  | .vcvtI16 d a n p => convertShape s (.int true 16) d a n p
  | .vcvtN16 d a n p => convertShape s (.int false 16) d a n p
  | .vcvtI32 d a n p => convertShape s (.int true 32) d a n p
  | .vcvtN32 d a n p => convertShape s (.int false 32) d a n p
  | .vcvtI64 d a n p => convertShape s (.int true 64) d a n p
  | .vcvtF64 d a n p => convertShape s (.float fmtF64) d a n p
  | .vcvtF32 d a n p => convertShape s (.float fmtF32) d a n p
  | .vcvtF16 d a n p => convertShape s (.float fmtF16) d a n p
  | .vcvtBf16 d a n p => convertShape s (.float fmtBf16) d a n p
  | .vcvtE4m3 d a n p => convertShape s (.float fmtE4m3) d a n p
  | .vcvtE5m2 d a n p => convertShape s (.float fmtE5m2) d a n p
  | .vcvtE2m1 d a n p => convertShape s (.float fmtE2m1) d a n p
  | .vcmpEq d a b p => compareShape s s.ctx.isInt d a b p
  | .vcmpNe d a b p => compareShape s s.ctx.isInt d a b p
  | .vcmpLt d a b p => compareShape s s.ctx.isInt d a b p
  | .vcmpGe d a b p => compareShape s s.ctx.isInt d a b p
  | .vcmpLe d a b p => compareShape s s.ctx.isInt d a b p
  | .vcmpGt d a b p => compareShape s s.ctx.isInt d a b p
  | .vfcmpEq d a b p => compareShape s s.ctx.isFloat d a b p
  | .vfcmpNe d a b p => compareShape s s.ctx.isFloat d a b p
  | .vfcmpLt d a b p => compareShape s s.ctx.isFloat d a b p
  | .vfcmpGe d a b p => compareShape s s.ctx.isFloat d a b p
  | .vfcmpLe d a b p => compareShape s s.ctx.isFloat d a b p
  | .vfcmpGt d a b p => compareShape s s.ctx.isFloat d a b p
  | .vfcmpUno d a b p => compareShape s s.ctx.isFloat d a b p
  | .vfcmpOrd d a b p => compareShape s s.ctx.isFloat d a b p
  | .vmerge d a b n p => elementShape s true d [a, b] n p
  | .vgathr d a b n p => moveShape s d [a, b] n p
  | .vslideup d a _ n p => moveShape s d [a] n p
  | .vslideupRot d a _ n p => moveShape s d [a] n p
  | .vslidedn d a _ n p => moveShape s d [a] n p
  | .vslidednRot d a _ n p => moveShape s d [a] n p
  | .vcompress d a n p => moveShape s d [a] n p
  | .vexpand d a n p => moveShape s d [a] n p
  | .vbcastE d a _ n p => moveShape s d [a] n p
  | .vbcast d _ n p => moveShape s d [] n p
  | .vextr _ a d => if groupHere s a s.ctx.group then some ⟨[], [s.ctx.dest a], 0, some d⟩ else none
  | .vextrSx _ a d => if groupHere s a s.ctx.group then some ⟨[], [s.ctx.dest a], 0, some d⟩ else none
  | .vins d _ _ n p => moveShape s d [] n p
  | .vinsCv d _ _ n p => if decide (s.ctx.fmt ≤ 6) then moveShape s d [] n p else none
  | .vfoldSum d a n p => if maskOk s p n && s.ctx.isInt && vecHere s d.toNat && groupHere s a s.ctx.group then some ⟨[(d.toNat, 1)], [s.ctx.dest a], 0, none⟩ else none
  | .vfoldMin d a n p => if maskOk s p n && s.ctx.isInt && vecHere s d.toNat && groupHere s a s.ctx.group then some ⟨[(d.toNat, 1)], [s.ctx.dest a], 0, none⟩ else none
  | .vfoldMax d a n p => if maskOk s p n && s.ctx.isInt && vecHere s d.toNat && groupHere s a s.ctx.group then some ⟨[(d.toNat, 1)], [s.ctx.dest a], 0, none⟩ else none
  | .vfoldAnd d a n p => if maskOk s p n && s.ctx.isInt && vecHere s d.toNat && groupHere s a s.ctx.group then some ⟨[(d.toNat, 1)], [s.ctx.dest a], 0, none⟩ else none
  | .vfoldOr d a n p => if maskOk s p n && s.ctx.isInt && vecHere s d.toNat && groupHere s a s.ctx.group then some ⟨[(d.toNat, 1)], [s.ctx.dest a], 0, none⟩ else none
  | .vfoldXor d a n p => if maskOk s p n && s.ctx.isInt && vecHere s d.toNat && groupHere s a s.ctx.group then some ⟨[(d.toNat, 1)], [s.ctx.dest a], 0, none⟩ else none
  | .vfoldFsum d a n p => if maskOk s p n && s.ctx.isFloat && vecHere s d.toNat && groupHere s a s.ctx.group then some ⟨[(d.toNat, 1)], [s.ctx.dest a], 0, none⟩ else none
  | .vfoldFmin d a n p => if maskOk s p n && s.ctx.isFloat && vecHere s d.toNat && groupHere s a s.ctx.group then some ⟨[(d.toNat, 1)], [s.ctx.dest a], 0, none⟩ else none
  | .vfoldFmax d a n p => if maskOk s p n && s.ctx.isFloat && vecHere s d.toNat && groupHere s a s.ctx.group then some ⟨[(d.toNat, 1)], [s.ctx.dest a], 0, none⟩ else none
  | .vidx d n p => elementShape s (decide (s.ctx.fmt ≤ 3)) d [] n p
  | .vrand d n p => if maskOk s p n && decide (s.ctx.fmt ≤ 3) && groupHere s d s.ctx.group && vecHere s 63 && disjointGroups (s.ctx.dest d) (56, 8) then some ⟨[s.ctx.dest d, (56, 8)], [(56, 8)], 0, none⟩ else none
  | .vbsc d a b n p => if maskOk s p n && s.hasOx && s.ctx.isFloat && groupHere s d s.ctx.group && groupHere s a s.ctx.group && vecHere s b.toNat && disjointGroups (s.ctx.dest d) (b.toNat, 1) && decide (bits (s.ctx.getOx 6) 63 1 = 0) then some ⟨[s.ctx.dest d], [s.ctx.dest a, (b.toNat, 1)], 0, none⟩ else none
  | .vfscl d a _ n p => elementShape s s.ctx.isFloat d [a] n p
  | .vramp d _ n p => if s.hasOx && decide (bits (s.ctx.getOx 7) 63 48 = 0) then elementShape s s.ctx.isFloat d [d] n p else none
  | .vrampC d _ n p => if s.hasOx && decide (bits (s.ctx.getOx 7) 63 48 = 0) then elementShape s s.ctx.isFloat d [d] n p else none
  | .vrampW d wl n p => if (wellBase s wl).isSome && s.hasOx && decide (bits (s.ctx.getOx 7) 63 48 = 0) then elementShape s s.ctx.isFloat d [d] n p else none
  | .vrampCW d wl n p => if (wellBase s wl).isSome && s.hasOx && decide (bits (s.ctx.getOx 7) 63 48 = 0) then elementShape s s.ctx.isFloat d [d] n p else none
  | _ => none

/-- Nothing cuts an instruction short: no suspension is due inside it (R49) and it meets no soft error (R17, R160, R397). -/
def Undisturbed (s : State) : Prop := s.cut = .none ∧ s.strikes = []

/-- No bound well holds a register the instruction names (R155, R272). -/
def WellsAside (s : State) (sh : VectorShape) : Prop :=
  ∀ k w, s.ctx.well k = some w →
    (∀ r ∈ sh.dests ++ sh.reads, rangesMeet r (w.vreg, w.regs) = false) ∧ (sh.pdest ≠ 0 → w.cmp ≠ sh.pdest)

/-- A vector instruction has completed: VSTART is 0 (R114), and only the registers of its shape, their VDMAP bits and FFL differ. -/
structure VectorDone (sh : VectorShape) (s t : State) : Prop where
  done : Completed 4 s t
  vstart : t.ctx.vstart = 0
  vectors : ∀ k, k < 64 → (∀ r ∈ sh.dests, ¬(r.1 ≤ k ∧ k < r.1 + r.2)) → t.ctx.getV k = s.ctx.getV k
  predicates : ∀ k, k < 24 → k ≠ sh.pdest → t.ctx.getP k = s.ctx.getP k
  scalars : ∀ r, some r ≠ sh.scalar → t.x r = s.x r
  context : t.ctx = { s.ctx with pc := t.ctx.pc, s := t.ctx.s, v := t.ctx.v, p := t.ctx.p, vdmap := t.ctx.vdmap, ffl := t.ctx.ffl,
                                 vstart := t.ctx.vstart }
  outside : OnlyRegisters s t
  bytes : SameBytes s t

/-- Every vector computation with allowed fields, whose registers no well holds, completes; VL is at most VLMAX, as vset leaves it. -/
def Obligations.VectorComputeCompletes : Prop :=
  ∀ (s : State) (i : Instr) (sh : VectorShape), vectorShape s i = some sh → WellsAside s sh → Undisturbed s →
    s.ctx.vl.toNat ≤ vlmaxOf s.ctx.sew s.ctx.group → ∃ t, exec i s = .next t ∧ VectorDone sh s t

/-- Element i executes: from VSTART to VL - 1, its governing bit set (R114, R152). -/
def executes (c : Ctx) (p : BitVec 5) (n : BitVec 1) (i : Nat) : Bool :=
  decide (c.vstart.toNat ≤ i) && decide (i < c.vl.toNat) && (if n = 1 then !(c.getP p.toNat).getLsbD i else (c.getP p.toNat).getLsbD i)

/-- The value of an n-bit code by FMT: signed for 0, unsigned for 1 (R153, R162). -/
def intReading (c : Ctx) (x : Nat) : Int := if c.fmt = 0 ∧ 2 ^ (c.sew - 1) ≤ x then (x : Int) - 2 ^ c.sew else x

/-- The code of an integer clamped to the range of the format. -/
def clampCode (c : Ctx) (x : Int) : Nat :=
  let lo : Int := if c.fmt = 0 then -2 ^ (c.sew - 1) else 0
  let hi : Int := if c.fmt = 0 then 2 ^ (c.sew - 1) - 1 else 2 ^ c.sew - 1
  ((max lo (min hi x)) % 2 ^ c.sew).toNat

/-- What an instruction gives the elements it writes: element k its code and the flags it raises, or none where it leaves it. -/
abbrev Cells := Nat → Option (Nat × Flags)

/-- Every element that executes is written, and no other. -/
def onActive (c : Ctx) (n : BitVec 1) (p : BitVec 5) (f : Nat → Nat × Flags) : Cells := fun k =>
  if executes c p n k then some (f k) else none

/-- The conversions: source format, destination, source, complement bit and predicate (R166). -/
def convTable : Instr → Option (ConvSource × BitVec 6 × BitVec 6 × BitVec 1 × BitVec 5)
  | .vcvtI8 d a n p => some (.int true 8, d, a, n, p)
  | .vcvtN8 d a n p => some (.int false 8, d, a, n, p)
  | .vcvtI16 d a n p => some (.int true 16, d, a, n, p)
  | .vcvtN16 d a n p => some (.int false 16, d, a, n, p)
  | .vcvtI32 d a n p => some (.int true 32, d, a, n, p)
  | .vcvtN32 d a n p => some (.int false 32, d, a, n, p)
  | .vcvtI64 d a n p => some (.int true 64, d, a, n, p)
  | .vcvtF64 d a n p => some (.float fmtF64, d, a, n, p)
  | .vcvtF32 d a n p => some (.float fmtF32, d, a, n, p)
  | .vcvtF16 d a n p => some (.float fmtF16, d, a, n, p)
  | .vcvtBf16 d a n p => some (.float fmtBf16, d, a, n, p)
  | .vcvtE4m3 d a n p => some (.float fmtE4m3, d, a, n, p)
  | .vcvtE5m2 d a n p => some (.float fmtE5m2, d, a, n, p)
  | .vcvtE2m1 d a n p => some (.float fmtE2m1, d, a, n, p)
  | _ => none

/-- Whether a conversion draws random bits, and the rounding mode of element k (R97, R98). -/
def convDraws (c : Ctx) (x : ConvSource) : Bool := decide (c.frm = 5) && narrowing x c.fmt c.sew c.format
def convModeOf (c : Ctx) (x : ConvSource) (k : Nat) : RMode := convMode c.frm (convDraws c x) (vrandDraw (nextRandom c k))

/-- A ramp with key base kb, causal or not (R182). -/
def rampCells (s : State) (causal : Bool) (kb : Nat) (d : BitVec 6) (n : BitVec 1) (p : BitVec 5) : Cells :=
  let c := s.ctx
  let ox := c.getOx 7
  let len := if bits ox 47 36 = 0 then c.vl.toNat else bits ox 47 36
  onActive c n p fun k =>
    let q : Int := (bits ox 31 0 + k / len : Nat)
    let key : Int := (kb + k % len : Nat)
    if causal = true ∧ q < key then (c.format.sign true + c.format.infCode, Flags.none)
    else c.format.finish (rmodeOf c.frm) (fmaVal (rmodeOf c.frm) (fmtF32.val (s.lc.hs[bits ox 35 32]?.getD 0).toNat) (intVal (q - key))
      (c.format.val (c.elem d.toNat c.sew k)))

/-- The elements an instruction gives its destination: the group, the width of an element, and the elements (R162-R168, R172-R174, R176,
R178-R182); a conversion into a block format is not in it. -/
def elementTable (s : State) (i : Instr) : Option (BitVec 6 × Nat × Cells) :=
  let c := s.ctx
  let w := c.sew
  let f := c.format
  let m := rmodeOf c.frm
  let e (r : BitVec 6) (k : Nat) : Nat := c.elem r.toNat w k
  let z (r : BitVec 6) (k : Nat) : Int := intReading c (e r k)
  let v (r : BitVec 6) (k : Nat) : FVal := f.val (e r k)
  let on (d : BitVec 6) (n : BitVec 1) (p : BitVec 5) (g : Nat → Nat) := some (d, w, onActive c n p fun k => (g k, Flags.none))
  let fl (d : BitVec 6) (n : BitVec 1) (p : BitVec 5) (g : Nat → FVal × Flags) := some (d, w, onActive c n p fun k => f.finish m (g k))
  let tr (d : BitVec 6) (n : BitVec 1) (p : BitVec 5) (g : Nat → Nat × Flags) := some (d, w, onActive c n p g)
  let q (o : BitVec 1) (sc : BitVec 5) : Nat × Flags := scalarOperand c o (s.x sc)
  let plus (x : Flags) (r : Nat × Flags) : Nat × Flags := (r.1, x.union r.2)
  let x (sc : BitVec 5) : Nat := (s.x sc).toNat
  match i with
  | .vadd d a b n p => on d n p fun k => e a k + e b k
  | .vsub d a b n p => on d n p fun k => e a k + 2 ^ w - e b k
  | .vmul d a b n p => on d n p fun k => e a k * e b k
  | .vmulh d a b n p => on d n p fun k => ((z a k * z b k / 2 ^ w) % 2 ^ w).toNat
  | .vmacc d a b n p => on d n p fun k => e d k + e a k * e b k
  | .vmin d a b n p => on d n p fun k => if z a k ≤ z b k then e a k else e b k
  | .vmax d a b n p => on d n p fun k => if z a k ≤ z b k then e b k else e a k
  | .vand d a b n p => on d n p fun k => e a k &&& e b k
  | .vor d a b n p => on d n p fun k => e a k ||| e b k
  | .vxor d a b n p => on d n p fun k => e a k ^^^ e b k
  | .vshl d a b n p => on d n p fun k => e a k * 2 ^ (e b k % w)
  | .vshr d a b n p => on d n p fun k => e a k / 2 ^ (e b k % w)
  | .vsar d a b n p => on d n p fun k =>
    (((if 2 ^ (w - 1) ≤ e a k then (e a k : Int) - 2 ^ w else e a k) / 2 ^ (e b k % w)) % 2 ^ w).toNat
  | .vadds d a b n p => on d n p fun k => clampCode c (z a k + z b k)
  | .vsubs d a b n p => on d n p fun k => clampCode c (z a k - z b k)
  | .vfadd d a b n p => fl d n p fun k => addVal m (v a k) (v b k)
  | .vfsub d a b n p => fl d n p fun k => addVal m (v a k) (v b k).negate
  | .vfmul d a b n p => fl d n p fun k => mulVal (v a k) (v b k)
  | .vfma d a b n p => fl d n p fun k => fmaVal m (v a k) (v b k) (v d k)
  | .vfms d a b n p => fl d n p fun k => fmaVal m (v a k) (v b k) (v d k).negate
  | .vfnma d a b n p => fl d n p fun k => let r := fmaVal m (v a k) (v b k) (v d k); (r.1.negate, r.2)
  | .vfmin d a b n p => fl d n p fun k => minVal (v a k) (v b k)
  | .vfmax d a b n p => fl d n p fun k => maxVal (v a k) (v b k)
  | .vfdiv d a b n p => fl d n p fun k => divVal (v a k) (v b k)
  | .vmov d a n p => on d n p fun k => e a k
  | .vabs d a n p => on d n p fun k => (z a k).natAbs
  | .vneg d a n p => on d n p fun k => 2 ^ w - e a k
  | .vnot d a n p => on d n p fun k => 2 ^ w - 1 - e a k
  | .vclz d a n p => on d n p fun k => ((List.range w).takeWhile fun j => !(e a k).testBit (w - 1 - j)).length
  | .vpopc d a n p => on d n p fun k => ((List.range w).filter fun j => (e a k).testBit j).length
  | .vfabs d a n p => fl d n p fun k => absVal (v a k)
  | .vfneg d a n p => fl d n p fun k => negVal (v a k)
  | .vfsqrt d a n p => fl d n p fun k => sqrtVal (v a k)
  | .vfrsq d a n p => fl d n p fun k => rsqrtVal (v a k)
  | .vfrcp d a n p => fl d n p fun k => divVal (.num false 1 0) (v a k)
  | .vfexp2 d a n p => tr d n p fun k => f.exp2 m (e a k)
  | .vflog2 d a n p => tr d n p fun k => f.log2 m (e a k)
  | .vftanh d a n p => tr d n p fun k => f.tanh m (e a k)
  | .vfclass d a n p => on d n p fun k => 2 ^ f.classBit (e a k)
  | .vaddVs d a sc o n p => tr d n p fun k => (e a k + (q o sc).1, (q o sc).2)
  | .vmulVs d a sc o n p => tr d n p fun k => (e a k * (q o sc).1, (q o sc).2)
  | .vfaddVs d a sc o n p => tr d n p fun k => plus (q o sc).2 (f.finish m (addVal m (v a k) (f.val (q o sc).1)))
  | .vfmulVs d a sc o n p => tr d n p fun k => plus (q o sc).2 (f.finish m (mulVal (v a k) (f.val (q o sc).1)))
  | .vfmaVs d a sc o n p => tr d n p fun k => plus (q o sc).2 (f.finish m (fmaVal m (v a k) (f.val (q o sc).1) (v d k)))
  | .vunpk4Lo d a n p => on d n p fun k => let y := c.elem a.toNat 4 k; if c.fmt = 0 ∧ 8 ≤ y then y + 240 else y
  | .vunpk4Hi d a n p => on d n p fun k => let y := c.elem a.toNat 4 (c.vl.toNat + k); if c.fmt = 0 ∧ 8 ≤ y then y + 240 else y
  | .vpack4 d a n p => some (d, 4, onActive c n p fun k =>
    ((max (if c.fmt = 0 then -8 else 0) (min (if c.fmt = 0 then 7 else 15) (z a k)) % 16).toNat, Flags.none))
  | .vmerge d a b n p => some (d, w, fun k => if executes c p n k then some (e a k, Flags.none)
    else if c.vstart.toNat ≤ k ∧ k < c.vl.toNat then some (e b k, Flags.none) else none)
  | .vgathr d a b n p => on d n p fun k => if e b k < vlmaxOf w c.group then e a (e b k) else 0
  | .vslideup d a sc n p => some (d, w, fun k =>
    if executes c p n k ∧ x sc ≤ k then some (e a (k - x sc), Flags.none) else none)
  | .vslideupRot d a sc n p => on d n p fun k => e a (((k : Int) - x sc) % c.vl.toNat).toNat
  | .vslidedn d a sc n p => on d n p fun k => if k + x sc < c.vl.toNat then e a (k + x sc) else 0
  | .vslidednRot d a sc n p => on d n p fun k => e a ((k + x sc) % c.vl.toNat)
  | .vbcast d sc n p => on d n p fun _ => x sc
  | .vbcastE d a sc n p => on d n p fun _ => if x sc < vlmaxOf w c.group then e a (x sc) else 0
  | .vidx d n p => tr d n p fun k => if c.fmt ≤ 1 then (k, Flags.none) else f.ofVal m (intVal k)
  | .vrand d n p => on d n p fun k => randomValue c (nextRandom c k)
  | .vbsc d a b n p => tr d n p fun k =>
    match scalePower ((c.getOx 6).getLsbD 0) (c.elem b.toNat 8 (k / 32)) with
    | none => (f.nanCode, Flags.none)
    | some y => f.finish m (mulVal (v a k) (.num false 1 y))
  | .vfscl d a sc n p => fl d n p fun k => mulVal (v a k) (.num false 1 (clampShift (s.x sc)))
  | .vramp d sc n p => some (d, w, rampCells s false (x sc % 2 ^ 32) d n p)
  | .vrampC d sc n p => some (d, w, rampCells s true (x sc % 2 ^ 32) d n p)
  | .vrampW d wl n p => some (d, w, rampCells s false ((wellBase s wl).getD 0) d n p)
  | .vrampCW d wl n p => some (d, w, rampCells s true ((wellBase s wl).getD 0) d n p)
  | i => match convTable i with
    | some (y, d, a, n, p) => if 7 ≤ c.fmt then none
      else tr d n p fun k => convertElement y c.fmt w f (convModeOf c y k) (c.elem a.toNat y.width k)
    | none => none

/-- FFL has gained the flags of `fs` and nothing else (R99). -/
def FlagsJoined (fs : Flags → Prop) (s t : State) : Prop :=
  ∀ j, t.ctx.ffl.getLsbD j = true ↔ s.ctx.ffl.getLsbD j = true ∨ ∃ f, fs f ∧ f.bits.getLsbD j = true

/-- The integer folds (R177): what of the active elements, in order, the result is. -/
def foldTable (c : Ctx) : Instr → Option (BitVec 6 × BitVec 6 × BitVec 1 × BitVec 5 × (List Nat → Nat → Prop))
  | .vfoldSum d a n p => some (d, a, n, p, fun l v => v = l.foldl (· + ·) 0 % 2 ^ c.sew)
  | .vfoldMin d a n p => some (d, a, n, p, fun l v => v ∈ l ∧ ∀ y ∈ l, intReading c v ≤ intReading c y)
  | .vfoldMax d a n p => some (d, a, n, p, fun l v => v ∈ l ∧ ∀ y ∈ l, intReading c y ≤ intReading c v)
  | .vfoldAnd d a n p => some (d, a, n, p, fun l v => v = l.foldl (· &&& ·) (2 ^ c.sew - 1))
  | .vfoldOr d a n p => some (d, a, n, p, fun l v => v = l.foldl (· ||| ·) 0)
  | .vfoldXor d a n p => some (d, a, n, p, fun l v => v = l.foldl (· ^^^ ·) 0)
  | _ => none

/-- The floating folds (R177): their operation on codes. -/
def floatFoldTable : Instr → Option (BitVec 6 × BitVec 6 × BitVec 1 × BitVec 5 × FloatOp)
  | .vfoldFsum d a n p => some (d, a, n, p, .add)
  | .vfoldFmin d a n p => some (d, a, n, p, .min)
  | .vfoldFmax d a n p => some (d, a, n, p, .max)
  | _ => none

/-- Element k of a whole-vector instruction executes (R157). -/
def executesWhole (c : Ctx) (p : BitVec 5) (n : BitVec 1) (k : Nat) : Bool :=
  decide (c.vstart.toNat < c.vl.toNat) && decide (k < c.vl.toNat) && (if n = 1 then !(c.getP p.toNat).getLsbD k else (c.getP p.toNat).getLsbD k)

/-- R162-R168, R172-R182, R103-R105, R110, R152, R157. What every vector computation but the compares leaves in its destination: the
elements it gives, the old ones elsewhere, and the flags of the elements it gives. A conversion into a block format writes the scale
byte of each block too, and drawing instructions step the generators of the active elements. The scale byte of a drawing conversion and
its generators are stated where the scale register is no generator register (log entry 56).
Choices of the model in it: log entries 55, 56, 67. -/
def Obligations.VectorResults : Prop :=
  ∀ (s : State) (i : Instr) (sh : VectorShape), vectorShape s i = some sh → WellsAside s sh → Undisturbed s →
    s.ctx.vl.toNat ≤ vlmaxOf s.ctx.sew s.ctx.group →
    let c := s.ctx
    let e (v : BitVec 6) (k : Nat) : Nat := c.elem v.toNat c.sew k
    let rank (p : BitVec 5) (n : BitVec 1) (k : Nat) : Nat := ((List.range k).filter (executesWhole c p n)).length
    let steps (n : BitVec 1) (p : BitVec 5) (t : State) : Prop := ∀ k, k < 1024 →
      t.ctx.elem 56 32 k = if executes c p n k then (vrandStep (BitVec.ofNat 32 (c.elem 56 32 k))).toNat else c.elem 56 32 k
    (∀ d w cells, elementTable s i = some (d, w, cells) → ∃ t, exec i s = .next t ∧
      FlagsJoined (fun f => ∃ k v, cells k = some (v, f)) s t ∧
      ∀ k, k * w < c.group * 4096 → t.ctx.elem d.toNat w k = match cells k with | some v => v.1 % 2 ^ w | none => c.elem d.toNat w k) ∧
    (∀ d n p, i = .vrand d n p → ∃ t, exec i s = .next t ∧ steps n p t) ∧
    (∀ x d a n p, convTable i = some (x, d, a, n, p) → convDraws c x = true → (7 ≤ c.fmt → bits (c.getOx 0) 5 0 < 56) →
      ∃ t, exec i s = .next t ∧ steps n p t) ∧
    (∀ x d a n p, convTable i = some (x, d, a, n, p) → 7 ≤ c.fmt →
      let span (j : Nat) : List Nat := (List.range' (32 * j) 32).filter fun k => c.vstart.toNat ≤ k && k < c.vl.toNat
      let block (j : Nat) : Block := toBlock c.fmt ((span j).map fun k =>
        if executes c p n k then some (x.value (c.elem a.toNat x.width k), convModeOf c x k) else none)
      let any : Bool := (List.range c.vl.toNat).any (executes c p n)
      ∃ t, exec i s = .next t ∧ FlagsJoined (fun f => any = true ∧ ∃ j, span j ≠ [] ∧ f = (block j).flags) s t ∧
        (∀ j m k : Nat, (span j)[m]? = some k → (any = true → ∀ v, (block j).codes[m]? = some v → t.ctx.elem d.toNat c.sew k = v % 2 ^ c.sew) ∧
          (any = false → t.ctx.elem d.toNat c.sew k = e d k)) ∧
        (∀ j, j < 512 → (convDraws c x = true → bits (c.getOx 0) 5 0 < 56) → t.ctx.elem (bits (c.getOx 0) 5 0) 8 j
          = if any = true ∧ span j ≠ [] then (block j).scale % 256 else c.elem (bits (c.getOx 0) 5 0) 8 j)) ∧
    (∀ d a n p, i = .vcompress d a n p → ∃ t, exec i s = .next t ∧
      (∀ k, executesWhole c p n k = true → t.ctx.elem d.toNat c.sew (rank p n k) = e a k) ∧
      (∀ k, rank p n c.vl.toNat ≤ k → k * c.sew < c.group * 4096 → t.ctx.elem d.toNat c.sew k = e d k)) ∧
    (∀ d a n p, i = .vexpand d a n p → ∃ t, exec i s = .next t ∧ ∀ k, k * c.sew < c.group * 4096 →
      t.ctx.elem d.toNat c.sew k = if executesWhole c p n k then e a (rank p n k) else e d k) ∧
    (∀ j a d, i = .vextr j a d ∨ i = .vextrSx j a d →
      let v := if (s.x j).toNat < c.vl.toNat then e a (s.x j).toNat else 0
      ∃ t, exec i s = .next t ∧ ScalarWritten s t d (if c.vl.toNat ≤ c.vstart.toNat then s.x d
        else if i = .vextr j a d then BitVec.ofNat 64 v else BitVec.ofInt 64 (sext v c.sew))) ∧
    (∀ d j sc n p o, (i = .vins d j sc n p ∧ o = 0) ∨ (i = .vinsCv d j sc n p ∧ o = 1) → ∃ t, exec i s = .next t ∧
      ∀ k, k * c.sew < c.group * 4096 → t.ctx.elem d.toNat c.sew k =
        if k = (s.x j).toNat ∧ executesWhole c p n k = true then (scalarOperand c o (s.x sc)).1 % 2 ^ c.sew else e d k) ∧
    (∀ d a n p P, foldTable c i = some (d, a, n, p, P) →
      let l := ((List.range c.vl.toNat).filter (executesWhole c p n)).map (e a)
      ∃ t, exec i s = .next t ∧ t.ctx.ffl = c.ffl ∧ (l ≠ [] → P l (t.ctx.elem d.toNat c.sew 0)) ∧
        ∀ k, (l = [] ∨ 0 < k) → k * c.sew < 4096 → t.ctx.elem d.toNat c.sew k = e d k) ∧
    (∀ d a n p op, floatFoldTable i = some (d, a, n, p, op) →
      let r := foldTree (fun x y => floatResult op c.format c.frm x y 0) (ceilLog2 c.vl.toNat)
        ((List.range c.vl.toNat).map fun k => if executesWhole c p n k then some (e a k) else none)
      ∃ t, exec i s = .next t ∧ FlagsJoined (fun f => f = r.2) s t ∧
        (∀ v, r.1[0]? = some (some v) → t.ctx.elem d.toNat c.sew 0 = v % 2 ^ c.sew) ∧
        ∀ k, ((∀ j, executesWhole c p n j = false) ∨ 0 < k) → k * c.sew < 4096 → t.ctx.elem d.toNat c.sew k = e d k)

/-- R158, R29. vset sets VTY from the word and VL to the smaller of the request and VLMAX; vset.keep requests the present VL. A follower
of a gang stands with the pc, VL and VTY its leader had before it executes what the leader executed. -/
def Obligations.VsetSetsLength : Prop :=
  (∀ (s : State) (d a : BitVec 5) (f : BitVec 4) (g : BitVec 2) (w : BitVec 3), vtypeOk f w = true →
    let max := vlmaxOf (4 * 2 ^ w.toNat) (2 ^ g.toNat)
    let done (i : Instr) (vl : BitVec 11) (vty : BitVec 9) : Prop := ∃ t, exec i s = .next t ∧ Completed 4 s t ∧ t.ctx.vl = vl ∧
      t.ctx.vty = vty ∧ ScalarWritten s t d (vl.zeroExtend 64) ∧
      t.ctx = { s.ctx with pc := t.ctx.pc, s := t.ctx.s, vl := vl, vty := vty } ∧ OnlyRegisters s t ∧ SameBytes s t
    done (.vset d a f g w) (BitVec.ofNat 11 (if (s.x a).toNat ≤ max then (s.x a).toNat else max)) (vtyOf f g w) ∧
    done (.vsetKeep d f g w) (BitVec.ofNat 11 (if s.ctx.vl.toNat ≤ max then s.ctx.vl.toNat else max)) (vtyOf f g w)) ∧
  (∀ (s : State) (st : GangStep), (enterStep st s).ctx = { s.ctx with pc := st.pc, vl := st.vl, vty := st.vty })

/-- The predicate operations (R170): destination and the bit at i below VL. -/
def table170 (s : State) : Instr → Option (BitVec 5 × List (BitVec 5) × (Nat → Bool))
  | .pand d a b => some (d, [a, b], fun i => (s.ctx.getP a.toNat).getLsbD i && (s.ctx.getP b.toNat).getLsbD i)
  | .por d a b => some (d, [a, b], fun i => (s.ctx.getP a.toNat).getLsbD i || (s.ctx.getP b.toNat).getLsbD i)
  | .pxor d a b => some (d, [a, b], fun i => (s.ctx.getP a.toNat).getLsbD i != (s.ctx.getP b.toNat).getLsbD i)
  | .pandn d a b => some (d, [a, b], fun i => (s.ctx.getP a.toNat).getLsbD i && !(s.ctx.getP b.toNat).getLsbD i)
  | .pnot d a => some (d, [a], fun i => !(s.ctx.getP a.toNat).getLsbD i)
  | .pmov d a => some (d, [a], fun i => (s.ctx.getP a.toNat).getLsbD i)
  | .psetn d a => some (d, [], fun i => decide (i < (s.x a).toNat))
  | .pclr d => some (d, [], fun _ => false)
  | _ => none

/-- The compares (R169): destination, governing predicate, and the bit and flags of element k. -/
def table169 (s : State) (i : Instr) : Option (BitVec 5 × BitVec 4 × (Nat → Bool × Flags)) :=
  let c := s.ctx
  let z (a : BitVec 6) (k : Nat) : Int := intReading c (c.elem a.toNat c.sew k)
  let v (a : BitVec 6) (k : Nat) : FVal := c.format.val (c.elem a.toNat c.sew k)
  let int (d : BitVec 5) (p : BitVec 4) (f : Nat → Bool) := some (d, p, fun k => (f k, Flags.none))
  let float (d : BitVec 5) (p : BitVec 4) (x : Cond) (a b : BitVec 6) := some (d, p, fun k => floatCond x (v a k) (v b k))
  match i with
  | .vcmpEq d a b p => int d p fun k => decide (z a k = z b k)
  | .vcmpNe d a b p => int d p fun k => decide (z a k ≠ z b k)
  | .vcmpLt d a b p => int d p fun k => decide (z a k < z b k)
  | .vcmpGe d a b p => int d p fun k => decide (z b k ≤ z a k)
  | .vcmpLe d a b p => int d p fun k => decide (z a k ≤ z b k)
  | .vcmpGt d a b p => int d p fun k => decide (z b k < z a k)
  | .vfcmpEq d a b p => float d p .eq a b
  | .vfcmpNe d a b p => float d p .ne a b
  | .vfcmpLt d a b p => float d p .lt a b
  | .vfcmpGe d a b p => float d p .ge a b
  | .vfcmpLe d a b p => float d p .le a b
  | .vfcmpGt d a b p => float d p .gt a b
  | .vfcmpUno d a b p => float d p .uno a b
  | .vfcmpOrd d a b p => float d p .ord a b
  | _ => none

/-- R169, R170, R110. A predicate operation writes bits 0 to VL - 1 of pd and leaves the bits above; p0 is never a destination. pfirst
gives the lowest set bit below VL, or all ones where none is set; pcnt counts the set bits below VL. A compare writes the bits of the
active elements and leaves the others. -/
def Obligations.PredicateOperations : Prop :=
  (∀ (s : State) (i : Instr) (d : BitVec 5) (srcs : List (BitVec 5)) (f : Nat → Bool), table170 s i = some (d, srcs, f) →
    d ≠ 0 → (∀ r ∈ d :: srcs, r.toNat < 24 ∧ (s.inService = true → r.toNat < 4)) → s.ctx.boundPred d.toNat = false →
    s.ctx.vl.toNat ≤ 1024 →
    ∃ t, exec i s = .next t ∧ Completed 4 s t ∧
      (∀ k, k < 1024 → (t.ctx.getP d.toNat).getLsbD k = if k < s.ctx.vl.toNat then f k else (s.ctx.getP d.toNat).getLsbD k) ∧
      (∀ q, q < 24 → q ≠ d.toNat → t.ctx.getP q = s.ctx.getP q) ∧ t.ctx = { s.ctx with pc := t.ctx.pc, p := t.ctx.p } ∧
      OnlyRegisters s t ∧ SameBytes s t) ∧
  (∀ (s : State) (d a : BitVec 5), a.toNat < 24 → (s.inService = true → a.toNat < 4) →
    (∃ t, exec (.pcnt d a) s = .next t ∧ ScalarDone 4 d
      (BitVec.ofNat 64 (((List.range s.ctx.vl.toNat).filter (fun k => (s.ctx.getP a.toNat).getLsbD k)).length)) s t) ∧
    (∀ k, k < s.ctx.vl.toNat → (s.ctx.getP a.toNat).getLsbD k = true → (∀ j, j < k → (s.ctx.getP a.toNat).getLsbD j = false) →
      ∃ t, exec (.pfirst d a) s = .next t ∧ ScalarDone 4 d (BitVec.ofNat 64 k) s t) ∧
    ((∀ j, j < s.ctx.vl.toNat → (s.ctx.getP a.toNat).getLsbD j = false) →
      ∃ t, exec (.pfirst d a) s = .next t ∧ ScalarDone 4 d (BitVec.allOnes 64) s t)) ∧
  (∀ (s : State) (i : Instr) (d : BitVec 5) (p : BitVec 4) (f : Nat → Bool × Flags) (sh : VectorShape), table169 s i = some (d, p, f) →
    vectorShape s i = some sh → WellsAside s sh → Undisturbed s → s.ctx.vl.toNat ≤ vlmaxOf s.ctx.sew s.ctx.group →
    ∃ t, exec i s = .next t ∧ FlagsJoined (fun x => ∃ k, executes s.ctx (p.zeroExtend 5) 0 k = true ∧ x = (f k).2) s t ∧
      ∀ k, k < 1024 → (t.ctx.getP d.toNat).getLsbD k =
        if executes s.ctx (p.zeroExtend 5) 0 k then (f k).1 else (s.ctx.getP d.toNat).getLsbD k)

/-! ### Matrix -/

/-- The registers of a matrix instruction whose fields and type are allowed (R187, R196, R198, R201). -/
def matrixShape (s : State) : Instr → Option VectorShape
  | .mma c a b f =>
    let vl := s.ctx.vl.toNat
    let cg := (c.toNat, vl / 2)
    let ox := s.ctx.getOx 4
    let asc := bits ox 5 0
    let bsc := bits ox 11 6
    let blk := decide (5 ≤ f.toNat)
    if f.toNat ≤ 8 && rowsOk s.ctx && tileHere s a (vl / 8) && decide (b.toNat % 8 = 0) && vecHere s (b.toNat + 7) && tileHere s c (vl / 2)
        && disjointGroups cg (a.toNat, vl / 8) && disjointGroups cg (b.toNat, 8)
        && (!blk || (s.hasOx && decide (bits ox 63 12 = 0) && disjointGroups cg (asc, 1) && disjointGroups cg (bsc, 1))) then
      some ⟨[cg], (a.toNat, vl / 8) :: (b.toNat, 8) :: (if blk then [(asc, 1), (bsc, 1)] else []), 0, none⟩
    else none
  | .mzero c =>
    if rowsOk s.ctx && tileHere s c (s.ctx.vl.toNat / 2) then some ⟨[(c.toNat, s.ctx.vl.toNat / 2)], [], 0, none⟩ else none
  | .mepi c a b f =>
    let vl := s.ctx.vl.toNat
    let ox := s.ctx.getOx 5
    let d := epilogueOf ox
    match outFormat f with
    | none => none
    | some fm =>
      let og := (c.toNat, vl / 8 * fm.regs)
      let ag := (a.toNat, vl / 2)
      let extra := (if d.biasEn then [(b.toNat, 1)] else []) ++ (if d.ckEn then [(d.ck, 1)] else [])
      if rowsOk s.ctx && s.hasOx && decide (bits ox 31 12 = 0) && decide (d.act ≤ 4) && (d.biasEn || decide (b = 0))
          && tileHere s c og.2 && tileHere s a ag.2 && allDisjoint (og :: extra) && allDisjoint (ag :: extra)
          && ((decide (c = a) && decide (f = 0)) || disjointGroups og ag) then
        some ⟨og :: (if d.ckEn then [(d.ck, 1)] else []), ag :: (if d.biasEn then [(b.toNat, 1)] else []), 0, none⟩
      else none
  | .mcks c a f =>
    match outFormat f with
    | none => none
    | some fm =>
      let ag := (a.toNat, s.ctx.vl.toNat / 8 * fm.regs)
      if rowsOk s.ctx && vecHere s c.toNat && tileHere s a ag.2 && disjointGroups (c.toNat, 1) ag then
        some ⟨[(c.toNat, 1)], [ag], 0, none⟩
      else none
  | _ => none

/-- R102, R186, R188, R196, R199-R201. The matrix instructions with allowed fields complete outside gangs; for mma the row check is off
(MCKTH 0, R190). Rows VSTART to VL - 1 are written: mma gives every element of C the sum of its old value and the products of a row of A
and a column of B; mzero zero; mepi scales, adds the bias, activates and rounds, and writes the checksum of each row where it is enabled;
mcks writes the checksums of the rows of a tile. The flags of what was computed join FFL. -/
def Obligations.MatrixResults : Prop :=
  (∀ (s : State) (i : Instr) (sh : VectorShape), matrixShape s i = some sh → WellsAside s sh → Undisturbed s →
    s.mmaSeq = none → s.followers = [] → s.lc.mckth = 0 → ∃ t, exec i s = .next t ∧ VectorDone sh s t) ∧
  (∀ (s : State) (c : BitVec 6), matrixShape s (.mzero c) = some ⟨[(c.toNat, s.ctx.vl.toNat / 2)], [], 0, none⟩ →
    s.ctx.boundGroup (c.toNat, s.ctx.vl.toNat / 2) = false → Undisturbed s →
    ∃ t, exec (.mzero c) s = .next t ∧ ∀ k, k < 64 * s.ctx.vl.toNat →
      t.ctx.elem c.toNat 32 k = if 64 * s.ctx.vstart.toNat ≤ k then 0 else s.ctx.elem c.toNat 32 k) ∧
  (∀ (s : State) (c a b : BitVec 6) (f : BitVec 4) (fm : MatFormat) (sh : VectorShape), matFormat f = some fm →
    matrixShape s (.mma c a b f) = some sh → WellsAside s sh → Undisturbed s → s.mmaSeq = none → s.followers = [] → s.lc.mckth = 0 →
    let x := s.ctx
    let line (v sv m : Nat) : List FVal := (List.range fm.k).map fun k =>
      fm.value (x.elem sv 8 (m * (fm.k / 32) + k / 32)) (x.elem v fm.width (m * fm.k + k))
    let out (m n : Nat) : Nat × Flags := dotProduct (x.elem c.toNat 32 (64 * m + n))
      (line a.toNat (bits (x.getOx 4) 5 0) m) (line b.toNat (bits (x.getOx 4) 11 6) n)
    ∃ t, exec (.mma c a b f) s = .next t ∧
      FlagsJoined (fun y => ∃ m n, x.vstart.toNat ≤ m ∧ m < x.vl.toNat ∧ n < 64 ∧ y = (out m n).2) s t ∧
      ∀ m n, m < x.vl.toNat → n < 64 → t.ctx.elem c.toNat 32 (64 * m + n)
        = if x.vstart.toNat ≤ m then (out m n).1 % 2 ^ 32 else x.elem c.toNat 32 (64 * m + n)) ∧
  (∀ (s : State) (c a b : BitVec 6) (f : BitVec 4) (fm : OutFormat) (sh : VectorShape), outFormat f = some fm →
    matrixShape s (.mepi c a b f) = some sh → WellsAside s sh → Undisturbed s →
    let x := s.ctx
    let d := epilogueOf (x.getOx 5)
    let mode := rmodeOf x.frm
    let out (m n : Nat) : Nat × Flags :=
      let code := x.elem a.toNat 32 (64 * m + n)
      let u := epilogueValue mode (fmtF32.val code) d.scale (if d.biasEn then some (fmtF32.val (x.elem b.toNat 32 n)) else none)
      let r := match fm.float with
        | some g => roundOutput g mode d.sat code (activate d.act u.1)
        | none => roundInt8 mode code (activate d.act u.1)
      (r.1, u.2.union r.2)
    ∃ t, exec (.mepi c a b f) s = .next t ∧
      FlagsJoined (fun y => ∃ m n, x.vstart.toNat ≤ m ∧ m < x.vl.toNat ∧ n < 64 ∧ y = (out m n).2) s t ∧
      (∀ m n, m < x.vl.toNat → n < 64 → t.ctx.elem c.toNat fm.width (64 * m + n)
        = if x.vstart.toNat ≤ m then (out m n).1 % 2 ^ fm.width else x.elem c.toNat fm.width (64 * m + n)) ∧
      (d.ckEn = true → ∀ m, m < 128 → t.ctx.elem d.ck 32 m = if x.vstart.toNat ≤ m ∧ m < x.vl.toNat
        then fletcher (8 * fm.width) (t.ctx.elem c.toNat (64 * fm.width) m) else x.elem d.ck 32 m)) ∧
  (∀ (s : State) (c a : BitVec 6) (f : BitVec 4) (fm : OutFormat) (sh : VectorShape), outFormat f = some fm →
    matrixShape s (.mcks c a f) = some sh → WellsAside s sh → Undisturbed s → ∃ t, exec (.mcks c a f) s = .next t ∧ t.ctx.ffl = s.ctx.ffl ∧
      ∀ m, m < 128 → t.ctx.elem c.toNat 32 m = if s.ctx.vstart.toNat ≤ m ∧ m < s.ctx.vl.toNat
        then fletcher (8 * fm.width) (s.ctx.elem a.toNat (64 * fm.width) m) else s.ctx.elem c.toNat 32 m)

/-! ### Scalar memory instructions -/

/-- The scope of a release: the wider of its own and that of a `fence.rel` with no store since (R237). -/
def fenceScope (scope : Nat) (s : State) : Nat := match s.ctx.release with | none => scope | some c => widerScope c scope

/-- The state in which everything before a release at a scope is done and visible (R235): 0 task, 1 core, 2 die, 3 package, 4 pod,
5 durable, 6 the last two. -/
def ordered (scope : Nat) (s : State) : State := if scope = 5 ∨ scope = 6 then s.publish.persistAll else s.publish

/-- A release at a scope need not wait: at pod scope no fabric store is open and none was lost (R250). -/
def orders (scope : Nat) (s : State) : Prop := scope = 4 ∨ scope = 6 → s.publish.fabricOpen = false ∧ s.publish.lostStore = none

/-- The state in which a store is made: the first after a `fence.rel` comes after what that orders (R236). -/
def beforeStore (s : State) : State := match s.ctx.release with | none => s | some c => ordered c s

/-- A store need not wait for the `fence.rel` before it. -/
def storeReady (s : State) : Prop := ∀ c, s.ctx.release = some c → orders c s

/-- The state in which an atomic of an order and scope is made (R273). -/
def atomicBefore (o c : BitVec 2) (s : State) : State := if 2 ≤ o.toNat then ordered (fenceScope (c.toNat + 1) s) s else beforeStore s

/-- An atomic need not wait for its release. -/
def atomicReady (o c : BitVec 2) (s : State) : Prop := if 2 ≤ o.toNat then orders (fenceScope (c.toNat + 1) s) s else storeReady s

/-- The translation of an address raises no Peer fault, which would stand before what a release waits for (R84). -/
def noPeerFault (s : State) (va : Word) (need : Need) : Prop :=
  ∀ e, translate s s.part s.privileged va need = .error e → e.cause ≠ .peerFault

/-- Every byte reads as before but the one of the leaf entry that the walker may mark (R320). -/
structure SameBytesBut (entry : Nat) (s t : State) : Prop where
  mem : ∀ a, a ≠ entry → memRead t.mem a = memRead s.mem a
  ctl : ∀ a, memRead t.ctl a = memRead s.ctl a
  pad : ∀ a, memRead t.pad a = memRead s.pad a
  persisted : ∀ a, memRead t.persisted a = memRead s.persisted a

/-- No soft error meets the instruction: neither in its address generation nor in its access on its path (R17, R397). -/
def Unstruck (s : State) : Prop := s.strike .address = none ∧ s.strike .loadPath = none

/-- The L1 holds no update-only line, whose loss would have its home combine what it collected (R220, R249). -/
def NoUpdateLines (s : State) : Prop := ∀ k ∈ s.core.l1, k < 2 ^ 61

/-- The state in which a stream of the task loads n bytes: the stores of the other stream that it sees have reached their point of
order, and the homes have combined what was collected for them (R235, R249). -/
def beforeLoad (s : State) (vec : Bool) (pa n : Nat) : State := combineRead (s.passOther vec pa n) vec pa n

/-- Every register and CSR of the task but the pc, the scalar registers and the clock it has read is as before. -/
def SameButLoaded (s t : State) : Prop := t.ctx = { s.ctx with pc := t.ctx.pc, s := t.ctx.s, seen := t.ctx.seen }

/-- The loads of R260 and R79: destination, address, bytes, signed, instruction bytes. -/
def loadTable (s : State) : Instr → Option (BitVec 5 × Word × Nat × Bool × Nat)
  | .ld d b z o => some (d, s.x b + BitVec.ofInt 64 (o.toInt * 2 ^ z.toNat), 2 ^ z.toNat, true, 4)
  | .ldN d b z o => some (d, s.x b + BitVec.ofInt 64 (o.toInt * 2 ^ z.toNat), 2 ^ z.toNat, false, 4)
  | .cLd a b => some (a, s.x b, 8, true, 2)
  | .cLdw a b => some (a, s.x b, 4, false, 2)
  | _ => none

/-- The stores of R260 and R79: value, address, bytes, instruction bytes. -/
def storeTable (s : State) : Instr → Option (Word × Word × Nat × Nat)
  | .st d b z o => some (s.x d, s.x b + BitVec.ofInt 64 (o.toInt * 2 ^ z.toNat), 2 ^ z.toNat, 4)
  | .cSt a b => some (s.x a, s.x b, 8, 2)
  | .cStw a b => some (s.x a, s.x b, 4, 2)
  | _ => none

/-- R260, R3, R234, R235, R249. An aligned load from the device's memory gives sd the little-endian bytes the scalar stream of the task
sees, extended by its form, once the stores of the other stream that it sees are at their point of order and the homes have combined what
was collected for them; it changes no byte but the marks of the leaf entry, where it drives no update-only line out of the L1. Where
nothing is collected and the other stream has nothing in the buffer, nothing else changes.
Choices of the model in it: log entries 21, 63. -/
def Obligations.ScalarLoadResults : Prop :=
  (∀ (s : State) (i : Instr) (d : BitVec 5) (va : Word) (n size pa : Nat) (sg : Bool) (u : Use),
    loadTable s i = some (d, va, n, sg, size) → va.toNat % n = 0 → s.memWf → s.strike .address = none →
    translate s s.part s.privileged va Need.read = .ok (.phys pa u) →
    let s1 := beforeLoad s false pa n
    s1.strike .loadPath = none → touchesPoison s1 pa n = false →
    ∃ t, exec i s = .next t ∧ Completed size s1 t ∧ SameButLoaded s1 t ∧ (NoUpdateLines s1 → SameBytesBut u.leaf.entry s1 t) ∧
      ScalarWritten s1 t d (if sg then BitVec.ofInt 64 (sext (leNat (viewBytes s1 false pa n)) (8 * n))
        else BitVec.ofNat 64 (leNat (viewBytes s1 false pa n)))) ∧
  (∀ (s : State) (vec : Bool) (pa n : Nat), collected s (fun _ => true) = [] → (∀ b ∈ s.ownStores, b.vec = vec) →
    beforeLoad s vec pa n = s)

/-- R234, R236, R246, R260. An aligned store is made where a `fence.rel` before it lets it, and its stream sees it at once: the bytes
from its address are the low bytes of the source, little end first, and every other byte is as that stream saw it; memory itself has not
changed but for the marks of the leaf entry.
Choices of the model in it: log entry 21. -/
def Obligations.ScalarStoreResults : Prop :=
  (∀ (s : State) (i : Instr) (v va : Word) (n size pa : Nat) (u : Use),
    storeTable s i = some (v, va, n, size) → va.toNat % n = 0 → s.memWf → s.strike .address = none →
    noPeerFault s va Need.write → storeReady s →
    let s0 := beforeStore s
    let s1 := combineRead (markUsed s0 u true) false pa n
    translate s0 s0.part s0.privileged va Need.write = .ok (.phys pa u) → touchesObject s0 pa n = false →
    ∃ t, exec i s = .next t ∧ Completed size s1 t ∧ t.ctx = { s1.ctx with pc := t.ctx.pc, release := none } ∧ SameBytes s1 t ∧
      viewBytes t false pa n = natBytes n v.toNat ∧
      (∀ a, a < pa ∨ pa + n ≤ a → viewBytes t false a 1 = viewBytes s1 false a 1)) ∧
  (∀ (s : State) (u : Use) (w : Bool), s.memWf → SameBytesBut u.leaf.entry s (markUsed s u w) ∧ (markUsed s u w).ctx = s.ctx)

/-- R17, R259, R230. A scalar access whose doubled address generation disagrees raises Shadow mismatch with sub-code 1; one whose address is
not a multiple of its size raises Misaligned with EADDR the address, before translation; an aligned store that touches a granule whose
object bit is 1 raises Object overwrite.
Choices of the model in it: log entry 14. -/
def Obligations.MemoryAccessTraps : Prop :=
  (∀ (s : State) (i : Instr) (va : Word) (n : Nat),
    ((∃ d sg size, loadTable s i = some (d, va, n, sg, size)) ∨ (∃ v size, storeTable s i = some (v, va, n, size))) →
    (∀ x, s.strike .address = some x → exec i s = .next (takeCause (s.met x) (exc .shadowMismatch 1 0))) ∧
    (s.strike .address = none → va.toNat % n ≠ 0 → exec i s = .next (takeCause s (exc .misaligned 0 va)))) ∧
  (∀ (s : State) (i : Instr) (v va : Word) (n size pa : Nat) (u : Use),
    storeTable s i = some (v, va, n, size) → va.toNat % n = 0 → s.strike .address = none →
    noPeerFault s va Need.write → storeReady s →
    let s0 := beforeStore s
    translate s0 s0.part s0.privileged va Need.write = .ok (.phys pa u) → touchesObject s0 pa n = true →
    exec i s = .next (takeCause s0 (exc .objectOverwrite 0 va)))

/-- R262, R217. Place loads and stores: the bytes of the scratchpad the place names; ldp.c clears the presence bit, stp leaves every
presence bit. The pans are active (R219), and the task has no presence store under way, which would land first (R234); no soft error is
met. -/
def Obligations.PlaceAccessResults : Prop :=
  ∀ (s : State) (d a b : BitVec 5) (sx : BitVec 1) (z : BitVec 2) (c off : Nat),
    let w := s.x a
    let n : Nat := 2 ^ z.toNat
    s.memWf → s.padFlips = [] → Unstruck s → ((bits w 19 0 : Int) + (s.x b).toInt) % (n : Int) = 0 →
    placeOf s w (s.x b).toInt n = .ok (c, off) →
    (rangeAwake s c off n = true → s.ownFlights = [] →
      (padTouchesPoison s c off n = false → ∃ t, exec (.ldp d a b sx z) s = .next t ∧ Completed 4 s t ∧ SameButScalars s t ∧
        SameBytes s t ∧ t.present = s.present ∧ ScalarWritten s t d (if sx = 1 then BitVec.ofInt 64 (sext (leNat (padBytes s c off n)) (8 * n))
          else BitVec.ofNat 64 (leNat (padBytes s c off n)))) ∧
      (z = 3 → padTouchesPoison s c off 8 = false → ∃ t, exec (.ldpC d a b) s = .next t ∧ Completed 4 s t ∧ SameBytes s t ∧
        (∀ k, k ∈ t.present ↔ k ∈ s.present ∧ k ≠ padWord c off) ∧
        ScalarWritten s t d (BitVec.ofNat 64 (leNat (padBytes s c off 8))))) ∧
    (storeReady s →
      let s0 := beforeStore s
      s0.strike .loadPath = none → s0.padFlips = [] → placeOf s0 w (s.x b).toInt n = .ok (c, off) → rangeAwake s0 c off n = true →
      s0.ownFlights = [] →
      ∃ t, exec (.stp d a b z) s = .next t ∧ Completed 4 s0 t ∧ t.ctx = { s0.ctx with pc := t.ctx.pc, release := none } ∧
        t.present = s0.present ∧ t.mem = s0.mem ∧
        (∀ k, k < n → memRead t.pad (padAddr c off + k) = BitVec.ofNat 8 ((s.x d).toNat / 256 ^ k)) ∧
        (∀ k, k < padAddr c off ∨ padAddr c off + n ≤ k → memRead t.pad k = memRead s0.pad k))

/-- R263, R217, R237. pst is a release at .pkg, or at the wider scope of a `fence.rel` before it, and sends a presence store; when it
lands the word is written and its presence bit set.
Choices of the model in it: log entry 4. -/
def Obligations.PresenceStoreLands : Prop :=
  ∀ (s : State) (b d : BitVec 5) (c off : Nat), s.memWf → s.strike .address = none → (s.x b).toNat % 8 = 0 →
    placeOf s (s.x b) 0 8 = .ok (c, off) →
    let s1 := ordered (fenceScope 3 s) s
    (orders (fenceScope 3 s) s → ∃ t, exec (.pst b d) s = .next t ∧ Completed 4 s1 t ∧ SameBytes s1 t ∧
      t.ctx = { s1.ctx with pc := t.ctx.pc, release := none } ∧
      t.pending = s1.pending ++ [.presenceStoreLanding c off (s1.x d)]) ∧
    (∀ k, k < 8 → memRead (landPresence s c off (s.x d)).pad (padAddr c off + k) = BitVec.ofNat 8 ((s.x d).toNat / 256 ^ k)) ∧
    padWord c off ∈ (landPresence s c off (s.x d)).present

/-! ### Vector memory instructions -/

/-- Exactly element k of 0 to VL - 1 executes. -/
def OneActive (s : State) (p : BitVec 5) (n : BitVec 1) (k : Nat) : Prop := ∀ i, executes s.ctx p n i = decide (i = k)

/-- Entry checks of a vector memory instruction: its predicate, its data group, its index group apart from a loaded one. -/
def memoryFields (s : State) (d : BitVec 6) (idx : Option (BitVec 6)) (load : Bool) (n : BitVec 1) (p : BitVec 5) : Bool :=
  maskOk s p n && groupHere s d s.ctx.group && (match idx with
    | some i => groupHere s i s.ctx.group && (!load || disjointGroups (s.ctx.dest d) (s.ctx.dest i))
    | none => true)

/-- The vector loads of SEW 8 to 64: data group, index group, complement, predicate, address of element k (R264). -/
def vectorLoadTable (s : State) (k : Nat) : Instr → Option (BitVec 6 × Option (BitVec 6) × BitVec 1 × BitVec 5 × Word)
  | .vld d b n p => some (d, none, n, p, s.x b + BitVec.ofNat 64 (k * (s.ctx.sew / 8)))
  | .vldS d b sc n p => some (d, none, n, p, s.x b + BitVec.ofNat 64 k * s.x sc)
  | .vgld d b i n p => some (d, some i, n, p, s.x b + BitVec.ofNat 64 (s.ctx.elem i.toNat s.ctx.sew k))
  | _ => none

/-- The vector stores. -/
def vectorStoreTable (s : State) (k : Nat) : Instr → Option (BitVec 6 × Option (BitVec 6) × BitVec 1 × BitVec 5 × Word)
  | .vst d b n p => some (d, none, n, p, s.x b + BitVec.ofNat 64 (k * (s.ctx.sew / 8)))
  | .vstS d b sc n p => some (d, none, n, p, s.x b + BitVec.ofNat 64 k * s.x sc)
  | .vsst d b i n p => some (d, some i, n, p, s.x b + BitVec.ofNat 64 (s.ctx.elem i.toNat s.ctx.sew k))
  | _ => none

/-- The registers a vector memory instruction names. -/
def memoryShape (s : State) (d : BitVec 6) (idx : Option (BitVec 6)) (load : Bool) : VectorShape :=
  let i := match idx with | some i => [s.ctx.dest i] | none => []
  if load then ⟨[s.ctx.dest d], i, 0, none⟩ else ⟨[], s.ctx.dest d :: i, 0, none⟩

/-- R264, R235, R249. A vector load with one active element k: element k of vd is the bytes its stream sees at its address, once the
stores of the other stream that it sees are at their point of order and the homes have combined what was collected for them, and every
other element stays.
Choices of the model in it: log entries 21, 63. -/
def Obligations.VectorLoadElement : Prop :=
  ∀ (s : State) (i : Instr) (k pa : Nat) (d : BitVec 6) (idx : Option (BitVec 6)) (n : BitVec 1) (p : BitVec 5) (va : Word) (u : Use),
    vectorLoadTable s k i = some (d, idx, n, p, va) → memoryFields s d idx true n p = true → WellsAside s (memoryShape s d idx true) →
    s.ctx.vl.toNat ≤ vlmaxOf s.ctx.sew s.ctx.group → 8 ≤ s.ctx.sew → s.ctx.sew ≤ 64 → OneActive s p n k → s.memWf → Undisturbed s →
    va.toNat % (s.ctx.sew / 8) = 0 → translate s s.part s.privileged va Need.read = .ok (.phys pa u) →
    let s1 := beforeLoad s true pa (s.ctx.sew / 8)
    touchesPoison s1 pa (s.ctx.sew / 8) = false →
    ∃ t, exec i s = .next t ∧ Completed 4 s1 t ∧ t.ctx.vstart = 0 ∧ (NoUpdateLines s1 → SameBytesBut u.leaf.entry s1 t) ∧
      t.ctx.s = s.ctx.s ∧
      ∀ j, j * s.ctx.sew < s.ctx.group * 4096 → t.ctx.elem d.toNat s.ctx.sew j
        = if j = k then leNat (viewBytes s1 true pa (s.ctx.sew / 8)) else s.ctx.elem d.toNat s.ctx.sew j

/-- R264, R234. A vector store with one active element k: its stream sees its bytes at its address, and every other byte as before.
Choices of the model in it: log entry 21. -/
def Obligations.VectorStoreElement : Prop :=
  ∀ (s : State) (i : Instr) (k pa : Nat) (d : BitVec 6) (idx : Option (BitVec 6)) (n : BitVec 1) (p : BitVec 5) (va : Word) (u : Use),
    vectorStoreTable s k i = some (d, idx, n, p, va) → memoryFields s d idx false n p = true → WellsAside s (memoryShape s d idx false) →
    8 ≤ s.ctx.sew → s.ctx.sew ≤ 64 → OneActive s p n k → s.memWf → Undisturbed s → s.ctx.vl.toNat ≤ vlmaxOf s.ctx.sew s.ctx.group →
    va.toNat % (s.ctx.sew / 8) = 0 → noPeerFault s va Need.write → storeReady s →
    let s0 := beforeStore s
    let s1 := combineRead (markUsed s0 u true) true pa (s.ctx.sew / 8)
    translate s0 s0.part s0.privileged va Need.write = .ok (.phys pa u) → touchesObject s0 pa (s.ctx.sew / 8) = false →
    ∃ t, exec i s = .next t ∧ Completed 4 s1 t ∧ t.ctx.vstart = 0 ∧ SameBytes s1 t ∧ t.ctx.s = s.ctx.s ∧ t.ctx.v = s.ctx.v ∧
      viewBytes t true pa (s.ctx.sew / 8) = natBytes (s.ctx.sew / 8) (s.ctx.elem d.toNat s.ctx.sew k) ∧
      (∀ a, a < pa ∨ pa + s.ctx.sew / 8 ≤ a → viewBytes t true a 1 = viewBytes s1 true a 1)

/-- R264, R265. vgld.x2 with one active element writes elements 2k and 2k + 1 from 16 bytes; vst.ck with one active element, whose row
is then not wholly active, stores it.
Choices of the model in it: log entries 21, 63. -/
def Obligations.WideGatherAndCheckedStore : Prop :=
  ∀ (s : State) (k pa : Nat) (d : BitVec 6) (b : BitVec 5) (n : BitVec 1) (p : BitVec 5) (u : Use), OneActive s p n k → s.memWf →
    Undisturbed s → s.ctx.vl.toNat ≤ vlmaxOf s.ctx.sew s.ctx.group →
    (∀ i : BitVec 6,
      let va := s.x b + BitVec.ofNat 64 (s.ctx.elem i.toNat 64 k)
      maskOk s p n = true → s.ctx.sew = 64 → s.ctx.group ≤ 4 → groupHere s d (2 * s.ctx.group) = true → groupHere s i s.ctx.group = true →
      disjointGroups (d.toNat, 2 * s.ctx.group) (s.ctx.dest i) = true →
      WellsAside s ⟨[(d.toNat, 2 * s.ctx.group)], [s.ctx.dest i], 0, none⟩ → va.toNat % 16 = 0 →
      translate s s.part s.privileged va Need.read = .ok (.phys pa u) →
      let s1 := beforeLoad s true pa 16
      touchesPoison s1 pa 16 = false →
      ∃ t, exec (.vgldX2 d b i n p) s = .next t ∧ Completed 4 s1 t ∧ t.ctx.vstart = 0 ∧
        (NoUpdateLines s1 → SameBytesBut u.leaf.entry s1 t) ∧
        t.ctx.elem d.toNat 64 (2 * k) = leNat ((viewBytes s1 true pa 16).take 8) ∧
        t.ctx.elem d.toNat 64 (2 * k + 1) = leNat ((viewBytes s1 true pa 16).drop 8)) ∧
    (∀ r : BitVec 2,
      let va := s.x b + BitVec.ofNat 64 (k * (s.ctx.sew / 8))
      let ck := bits (s.ctx.getOx 5) 5 0
      memoryFields s d none false n p = true → s.inService = false → (s.ctx.sew = 8 ∨ s.ctx.sew = 16 ∨ s.ctx.sew = 32) →
      s.ctx.vl.toNat % 64 = 0 → s.ctx.vstart.toNat % 64 = 0 → 16 * r.toNat + s.ctx.vl.toNat / 64 ≤ 64 →
      disjointGroups (ck, 1) (s.ctx.dest d) = true → WellsAside s ⟨[], [s.ctx.dest d, (ck, 1)], 0, none⟩ →
      va.toNat % (s.ctx.sew / 8) = 0 → noPeerFault s va Need.write → storeReady s →
      let s0 := beforeStore s
      let s1 := combineRead (markUsed s0 u true) true pa (s.ctx.sew / 8)
      translate s0 s0.part s0.privileged va Need.write = .ok (.phys pa u) → touchesObject s0 pa (s.ctx.sew / 8) = false →
      ∃ t, exec (.vstCk d b r n p) s = .next t ∧ Completed 4 s1 t ∧ t.ctx.vstart = 0 ∧ SameBytes s1 t ∧
        viewBytes t true pa (s.ctx.sew / 8) = natBytes (s.ctx.sew / 8) (s.ctx.elem d.toNat s.ctx.sew k))

/-- R263, R264, R217. The vector place forms with one active element k of SEW 64, whose pans are active (R219), of a task with no presence
store under way.
Choices of the model in it: log entry 4. -/
def Obligations.VectorPlaceElement : Prop :=
  ∀ (s : State) (k c off : Nat) (d : BitVec 6) (b : BitVec 5) (n : BitVec 1) (p : BitVec 5), OneActive s p n k → s.memWf →
    Undisturbed s → s.ctx.sew = 64 → s.ctx.vl.toNat ≤ vlmaxOf 64 s.ctx.group → maskOk s p n = true →
    groupHere s d s.ctx.group = true →
    bits (s.x b) 19 0 % 8 = 0 → resolvePlace s (s.x b) 0 (s.ctx.vl.toNat * 8) = .ok (c, off) →
    WellsAside s ⟨[s.ctx.dest d], [s.ctx.dest d], 0, none⟩ →
    let at_ := off + k * 8
    let ready (s : State) : Prop := rangeAwake s c off (s.ctx.vl.toNat * 8) = true ∧ s.ownFlights = [] ∧ s.padFlips = [] ∧
      padRefusal s s.part s.privileged c (at_ / 65536) = none
    (ready s → padTouchesPoison s c at_ 8 = false →
      (∃ t, exec (.vldp d b n p) s = .next t ∧ Completed 4 s t ∧ t.present = s.present ∧ SameBytes s t ∧
        t.ctx.elem d.toNat 64 k = leNat (padBytes s c at_ 8)) ∧
      (∃ t, exec (.vldpC d b n p) s = .next t ∧ Completed 4 s t ∧ SameBytes s t ∧ padWord c at_ ∉ t.present ∧
        t.ctx.elem d.toNat 64 k = leNat (padBytes s c at_ 8))) ∧
    (storeReady s →
      let s0 := beforeStore s
      ready s0 → ∃ t, exec (.vstp d b n p) s = .next t ∧ Completed 4 s0 t ∧ t.present = s0.present ∧ t.mem = s0.mem ∧
        (∀ j, j < 8 → memRead t.pad (padAddr c at_ + j) = BitVec.ofNat 8 (s.ctx.elem d.toNat 64 k / 256 ^ j)) ∧
        (∀ j, j < padAddr c at_ ∨ padAddr c at_ + 8 ≤ j → memRead t.pad j = memRead s0.pad j)) ∧
    (orders (fenceScope 3 s) s →
      let s1 := ordered (fenceScope 3 s) s
      padRefusal s1 s1.part s1.privileged c (at_ / 65536) = none →
      ∃ t, exec (.pstV d b n p) s = .next t ∧ Completed 4 s1 t ∧ SameBytes s1 t ∧
        t.pending = s1.pending ++ [.presenceStoreLanding c at_ (BitVec.ofNat 64 (s.ctx.elem d.toNat 64 k))])

/-! ### Atomics -/

/-- The scalar atomics of R273: operation, sd, s1, s2, SC, ORD, size bit. -/
def atomicTable : Instr → Option (AmoOp × BitVec 5 × BitVec 5 × BitVec 5 × BitVec 2 × BitVec 2 × BitVec 1)
  | .amoSwap d a b c o z => some (.swap, d, a, b, c, o, z)
  | .amoCas d a b c o z => some (.cas, d, a, b, c, o, z)
  | .amoAdd d a b c o z => some (.add, d, a, b, c, o, z)
  | .amoAnd d a b c o z => some (.and, d, a, b, c, o, z)
  | .amoOr d a b c o z => some (.or, d, a, b, c, o, z)
  | .amoXor d a b c o z => some (.xor, d, a, b, c, o, z)
  | .amoMin d a b c o z => some (.min, d, a, b, c, o, z)
  | .amoMax d a b c o z => some (.max, d, a, b, c, o, z)
  | .amoMinN d a b c o z => some (.minN, d, a, b, c, o, z)
  | .amoMaxN d a b c o z => some (.maxN, d, a, b, c, o, z)
  | .amoFadd d a b c o z => some (.fadd, d, a, b, c, o, z)
  | _ => none

/-- The new value of an integer atomic (R273): old, s1 and sd cut to the size. -/
def atomicNew (n : Nat) (old x e : Nat) : AmoOp → Option Nat
  | .swap => some x
  | .cas => some (if old = e then x else old)
  | .add => some ((old + x) % 2 ^ (8 * n))
  | .and => some (old &&& x)
  | .or => some (old ||| x)
  | .xor => some (old ^^^ x)
  | .min => some (if sext old (8 * n) ≤ sext x (8 * n) then old else x)
  | .max => some (if sext old (8 * n) ≤ sext x (8 * n) then x else old)
  | .minN => some (if old ≤ x then old else x)
  | .maxN => some (if old ≤ x then x else old)
  | .fadd => none

/-- The reductions of R273: operation, s1, s2, size bit. -/
def reduceTable : Instr → Option (AmoOp × BitVec 5 × BitVec 5 × BitVec 1)
  | .redAdd a b z => some (.add, a, b, z)
  | .redAnd a b z => some (.and, a, b, z)
  | .redOr a b z => some (.or, a, b, z)
  | .redXor a b z => some (.xor, a, b, z)
  | .redMin a b z => some (.min, a, b, z)
  | .redMax a b z => some (.max, a, b, z)
  | .redMinN a b z => some (.minN, a, b, z)
  | .redMaxN a b z => some (.maxN, a, b, z)
  | .redFadd a b z => some (.fadd, a, b, z)
  | _ => none

/-- The L1 takes the update-only line of an address without the loss of another line (R220). -/
def roomForUpdates (s : State) (pa : Nat) : Prop :=
  updateKey pa ∈ s.core.l1 ∨ (s.core.l1.filter (fun k => k % 128 = updateKey pa % 128)).length < 4

/-- R249, R273. An atomic reads its location after the earlier accesses of its core, gives sd the old value zero-extended, and leaves the
new value there; for HBM and durable addresses. A reduction writes no register and is collected for its home, which combines it into
the word when it does; where the L1 has no way for its update-only line, one that leaves is combined (R220).
Choices of the model in it: log entries 13, 21, 51. -/
def Obligations.AtomicResults : Prop :=
  (∀ (s : State) (i : Instr) (op : AmoOp) (d a b : BitVec 5) (c o : BitVec 2) (z : BitVec 1) (pa : Nat) (u : Use),
    atomicTable i = some (op, d, a, b, c, o, z) → ¬(o = 0 ∧ c ≠ 0) →
    let n := if z = 1 then 4 else 8
    let s1 := atomicBefore o c s
    let s2 := (markUsed s1 u true).publish
    let old := physLe s2 pa n
    (s.x b).toNat % n = 0 → s.strike .address = none → s1.strike .loadPath = none → noPeerFault s (s.x b) Need.atom →
    atomicReady o c s → s.memWf →
    translate s1 s1.part s1.privileged (s.x b) Need.atom = .ok (.phys pa u) → spaceOf pa ≠ .control → touchesObject s1 pa n = false →
    touchesPoison s2 pa n = false →
    ∃ t, exec i s = .next t ∧ t.ctx.pc = s.ctx.pc + 4 ∧ ScalarWritten s t d (BitVec.ofNat 64 old) ∧
      t.ctx = { s.ctx with pc := t.ctx.pc, s := t.ctx.s, release := none } ∧
      (∀ v, atomicNew n old ((s.x a).toNat % 2 ^ (8 * n)) ((s.x d).toNat % 2 ^ (8 * n)) op = some v → physLe t pa n = v) ∧
      (∀ k, k < pa ∨ pa + n ≤ k → memRead t.mem k = memRead s2.mem k)) ∧
  (∀ (s : State) (i : Instr) (op : AmoOp) (a b : BitVec 5) (z : BitVec 1) (pa : Nat) (u : Use),
    reduceTable i = some (op, a, b, z) →
    let n := if z = 1 then 4 else 8
    let s1 := beforeStore s
    let s2 := (markUsed s1 u true).publish
    (s.x b).toNat % n = 0 → s.strike .address = none → s1.strike .loadPath = none → noPeerFault s (s.x b) Need.atom → storeReady s →
    s.memWf → translate s1 s1.part s1.privileged (s.x b) Need.atom = .ok (.phys pa u) → touchesObject s1 pa n = false →
    touchesPoison s1 pa n = false →
    ∃ t, exec i s = .next t ∧ t.ctx = { s.ctx with pc := s.ctx.pc + 4, release := none } ∧ (roomForUpdates s2 pa → SameBytes s2 t ∧
      t.core.reductions = s2.core.reductions ++ [⟨pa, n, op.code, s.x a, s2.taskKey.1, s2.taskKey.2, s.x b, false⟩])) ∧
  (∀ (s : State) (core : Nat) (r : Reduction) (op : AmoOp) (v : Nat), amoOfCode r.op = some op → op ≠ .cas → (r.size = 4 ∨ r.size = 8) →
    r.pa % r.size = 0 → spaceOf r.pa ≠ .control → touchesObject s r.pa r.size = false → touchesPoison s r.pa r.size = false → s.memWf →
    atomicNew r.size (physLe s r.pa r.size) (r.x.toNat % 2 ^ (8 * r.size)) 0 op = some v →
    physLe (combineOne s (core, r)) r.pa r.size = v)

/-- R274, R275. The vector atomics with one active element k: vamo leaves the new value and sends the old one on its way to vd; vred
collects its element; gll reads the word and reserves it; scc writes where the reservation stands, and says so in SPRED.
Choices of the model in it: log entries 4, 13, 21, 51. -/
def Obligations.VectorAtomicElement : Prop :=
  ∀ (s : State) (k pa : Nat) (d i : BitVec 6) (b : BitVec 5) (n : BitVec 1) (p : BitVec 5) (u : Use) (op : AmoOp),
    OneActive s p n k → s.memWf → Undisturbed s →
    let w := s.ctx.sew
    let desc := atomicDesc (s.ctx.getOx 3)
    let va := s.x b + BitVec.ofNat 64 (s.ctx.elem i.toNat w k)
    let elem := s.ctx.elem d.toNat w k
    let s0 := atomicBefore desc.order desc.scope s
    let s1 := (markUsed s0 u true).publish
    let old := physLe s1 pa (w / 8)
    (w = 32 ∨ w = 64) → s.ctx.vl.toNat ≤ vlmaxOf w s.ctx.group → s.inService = false → maskOk s p n = true →
    groupHere s d s.ctx.group = true → groupHere s i s.ctx.group = true →
    let apart := disjointGroups (s.ctx.dest d) (s.ctx.dest i) = true
    bits (s.ctx.getOx 3) 63 13 = 0 → amoOfCode desc.op = some op → op ≠ .cas → ¬(desc.order = 0 ∧ desc.scope ≠ 0) →
    WellsAside s ⟨[s.ctx.dest d], [s.ctx.dest d, s.ctx.dest i], desc.spred, none⟩ → va.toNat % (w / 8) = 0 →
    noPeerFault s va Need.atom → atomicReady desc.order desc.scope s →
    translate s0 s0.part s0.privileged va Need.atom = .ok (.phys pa u) → spaceOf pa ≠ .control →
    (touchesObject s0 pa (w / 8) = false →
      (apart → touchesPoison s1 pa (w / 8) = false → ∃ t, exec (.vamo d b i n p) s = .next t ∧ Completed 4 s1 t ∧
        (∀ v, atomicNew (w / 8) old elem 0 op = some v → physLe t pa (w / 8) = v) ∧
        t.core.vamos = s1.core.vamos ++ [⟨s1.taskKey.1, s1.taskKey.2, d.toNat, k, w, BitVec.ofNat 64 old, true⟩]) ∧
      (touchesPoison s0 pa (w / 8) = false → desc.order = 0 → op ≠ .swap → ∃ t, exec (.vred d b i n p) s = .next t ∧ Completed 4 s1 t ∧
        (roomForUpdates s1 pa → SameBytes s1 t ∧ t.core.reductions = s1.core.reductions
          ++ [⟨pa, w / 8, desc.op, BitVec.ofNat 64 elem, s1.taskKey.1, s1.taskKey.2, va, true⟩])) ∧
      (1 ≤ desc.spred → desc.spred < 24 → desc.spred ≠ p.toNat → ∃ t, exec (.scc d b i n p) s = .next t ∧ Completed 4 s1 t ∧
        (t.ctx.getP desc.spred).getLsbD k = s1.core.resv.contains (k, pa / 8) ∧
        (s1.core.resv.contains (k, pa / 8) = true → physLe t pa (w / 8) = elem) ∧
        (s1.core.resv.contains (k, pa / 8) = false → s1.stamps = [] → SameBytes s1 t))) ∧
    (apart → touchesPoison (markUsed s0 u false).publish pa (w / 8) = false → ∃ t, exec (.gll d b i n p) s = .next t ∧
      Completed 4 (markUsed s0 u false).publish t ∧ (k, pa / 8) ∈ t.core.resv ∧
      t.ctx.elem d.toNat w k = physLe (markUsed s0 u false).publish pa (w / 8))

/-! ### Privilege, fences, lines, delegation -/

/-- The instructions marked P (R77, R124, R147-R149, R280, R326, R336). -/
def privilegedForm : Instr → Bool
  | .seal .. | .unseal .. | .trestart .. | .dbgfreeze | .cmoObjclr .. | .tlbiVa .. | .tlbiPart .. | .tlbiAll | .probe .. | .gissue ..
  | .grevoke .. => true
  | _ => false

/-- R124. A privileged function in user mode raises Privileged before anything else.
Choices of the model in it: log entry 14. -/
def Obligations.PrivilegedFormsTrap : Prop :=
  ∀ (s : State) (i : Instr), privilegedForm i = true → s.privileged = false → exec i s = .next (takeCause s (exc .privileged 0 0))

/-- R146, R235, R236, R240, R244, R253, R276. A fence completes in the state its release leaves; at pod scope it waits while a fabric store
is open and raises Store lost where one was lost. fence.rel makes the next store a release store; fence.acq takes the clock that the last
load read, and at .pod drops the fabric lines of the partition; fence.sv and fence.vs order the streams. pbar.order starts a new epoch;
pbar.complete persists; fence.i waits for fabric stores and leaves the fetch path with no copy.
Choices of the model in it: log entries 15, 21, 22. -/
def Obligations.FencesRelease : Prop :=
  (∀ (s : State) (sc : BitVec 3), sc.toNat ≤ 5 →
    (orders sc.toNat s → exec (.fence sc) s = .next (ordered sc.toNat s).finished) ∧
    exec (.fenceRel sc) s = .next ({ s with ctx := { s.ctx with release := some (fenceScope sc.toNat s) } }).finished ∧
    (let u := s.acquire (sc = 4) s.ctx.seen
     exec (.fenceAcq sc) s = .next ({ u with ctx := { u.ctx with seen := none } }).finished) ∧
    (sc ≠ 4 → s.ctx.seen = none → ∃ t, exec (.fenceAcq sc) s = .next t ∧ PlainDone 4 s t) ∧
    (ordered sc.toNat s).core.sbuf = [] ∧ (ordered sc.toNat s).ownFlights = [] ∧ (sc = 5 → (ordered 5 s).durable = [])) ∧
  (∀ s : State,
    (s.ctx.seen = none → ∃ t, exec (.fenceAcq 4) s = .next t ∧ Completed 4 s t ∧ SameBytes s t ∧ SameButPc s t ∧
      ∀ l ∈ t.rdc, l.bytes = [] ∨ l.die ≠ dieOf s.cur ∨ l.part ≠ s.part) ∧
    exec .fenceScPkg s = .next s.publish.finished ∧
    exec .fenceSv s = .next (combineStream (s.publishStream false) false).finished ∧
    exec .fenceVs s = .next (combineStream (s.publishStream true) true).finished ∧
    (∀ vec, (∀ b ∈ (s.publishStream vec).core.sbuf, (b.serial, b.tid) = s.taskKey → b.vec ≠ vec) ∧
      ∀ f ∈ (s.publishStream vec).ownFlights, f.vec ≠ vec) ∧
    (s.publish.fabricOpen = true → exec (.fence 4) s = .next s.publish) ∧
    (∀ va, s.publish.fabricOpen = false → s.publish.lostStore = some va →
      exec (.fence 4) s = .next (takeCause s.publish.clearLost (exc .storeLost 0 va))) ∧
    exec .pbarComplete s = .next s.drain.persistAll.finished ∧
    exec .pbarOrder s = .next ({ s with ctx := { s.ctx with epoch := s.ctx.epoch + 1 } }).finished) ∧
  (∀ s : State,
    (s.publish.fabricOpen = true → exec .fenceI s = .next s.publish) ∧
    (s.publish.fabricOpen = false → ∃ t, exec .fenceI s = .next t ∧ Completed 4 s.publish t ∧ t.core.fetched = [] ∧
      SameBytes s.publish t ∧ SameButPc s.publish t ∧ t.core.sbuf = s.publish.core.sbuf))

/-- What a translation used. -/
def Sys2Proof.Machine.Target.use : Target → Use
  | .phys _ u => u
  | .peer _ _ u => u

/-- R277, R278, R280, R214, R223, R229. pflush, prefetches and the line operations: they complete where their translation succeeds (a
prefetch always), and only cmo.zero stores, cmo.pfw writes a pan format, cmo.objclr clears the object bits of the line, cmo.inv drops
the copies of the line, and cmo.wb leaves the copy in the RDC clean, its home holding what it held.
Choices of the model in it: log entries 16, 21, 51. -/
def Obligations.LineOperations : Prop :=
  ∀ (s : State) (d a b : BitVec 5), s.strike .address = none →
    (∀ pa u, translate s s.part s.privileged (s.x a) Need.read = .ok (.phys pa u) → spaceOf pa ≠ .durable →
      ∃ t, exec (.pflush a) s = .next t ∧ Completed 4 s t ∧ SameButPc s t ∧ SameBytesBut u.leaf.entry s t) ∧
    (∀ pa u, translate s s.part s.privileged (s.x a) Need.read = .ok (.phys pa u) → spaceOf pa = .durable →
      ∃ t, exec (.pflush a) s = .next t ∧ Completed 4 s t ∧ SameButPc s t ∧ t.core.sbuf = []) ∧
    (∀ p ad u, translate s s.part s.privileged (s.x a) Need.read = .ok (.peer p ad u) → ∃ t, exec (.pflush a) s = .next t ∧
      Completed 4 s t ∧ SameButPc s t ∧ SameBytesBut u.leaf.entry s t) ∧
    (∀ (z : BitVec 2) (o : BitVec 12) (e : Exc),
      translate s s.part s.privileged (s.x b + BitVec.ofInt 64 (o.toInt * 2 ^ z.toNat)) Need.read = .error e →
      (∃ t, exec (.prefL1 b z o) s = .next t ∧ PlainDone 4 s t) ∧ (∃ t, exec (.prefL2 b z o) s = .next t ∧ PlainDone 4 s t)) ∧
    (∀ (z : BitVec 2) (o : BitVec 12) (g : Target) (u : Use), g.use = u →
      translate s s.part s.privileged (s.x b + BitVec.ofInt 64 (o.toInt * 2 ^ z.toNat)) Need.read = .ok g →
      (∃ t, exec (.prefL1 b z o) s = .next t ∧ Completed 4 s t ∧ SameButPc s t ∧ (NoUpdateLines s → SameBytesBut u.leaf.entry s t)) ∧
      (∃ t, exec (.prefL2 b z o) s = .next t ∧ Completed 4 s t ∧ SameButPc s t ∧ SameBytesBut u.leaf.entry s t)) ∧
    (∀ (g : Target) (u : Use), g.use = u → translate s s.part s.privileged (s.x a) Need.write = .ok g →
      (∃ t, exec (.cmoInv a) s = .next t ∧ Completed 4 s t ∧ SameButPc s t ∧ SameBytesBut u.leaf.entry s t ∧
        ∀ pa v, g = .phys pa v → pa / 128 ∉ t.core.l1) ∧
      (∃ t, exec (.cmoWb a) s = .next t ∧ Completed 4 s t ∧ SameButPc s t ∧ SameBytesBut u.leaf.entry s t ∧
        ∀ pa v, g = .phys pa v → ∀ l ∈ t.rdc, l.die = dieOf s.cur → l.key = pa / 128 → l.dirty = false)) ∧
    (∀ pa u, s.privileged = true → translate s s.part s.privileged (s.x a) Need.write = .ok (.phys pa u) →
      ∃ t, exec (.cmoObjclr a) s = .next t ∧ Completed 4 s t ∧ SameButPc s t ∧ SameBytesBut u.leaf.entry s t ∧
        ∀ g, g ∈ t.objects ↔ g ∈ s.objects ∧ ¬(pa / 128 * 8 ≤ g ∧ g < pa / 128 * 8 + 8)) ∧
    (∀ p ad u, s.privileged = true → translate s s.part s.privileged (s.x a) Need.write = .ok (.peer p ad u) →
      exec (.cmoObjclr a) s = .next (markUsed s u true).finished) ∧
    (∀ pa u, (s.x a).toNat % 128 = 0 → s.memWf → noPeerFault s (s.x a) Need.write → storeReady s →
      let s0 := beforeStore s
      let s1 := combineRead (markUsed s0 u true) false pa 128
      translate s0 s0.part s0.privileged (s.x a) Need.write = .ok (.phys pa u) → touchesObject s0 pa 128 = false →
      ∃ t, exec (.cmoZero a) s = .next t ∧ Completed 4 s1 t ∧ t.ctx = { s1.ctx with pc := t.ctx.pc, release := none } ∧ SameBytes s1 t ∧
        viewBytes t false pa 128 = List.replicate 128 0 ∧
        ∀ k, k < pa ∨ pa + 128 ≤ k → viewBytes t false k 1 = viewBytes s1 false k 1) ∧
    (∀ p : Fin 16, s.x a = BitVec.ofNat 64 p.val → padRefusal s s.part s.privileged s.cur p.val = none →
      (∃ t, exec (.cmoPfr d a) s = .next t ∧ ScalarDone 4 d
        (BitVec.ofNat 64 (s.core.pfmt[p].toNat % 256 + (if s.core.retention[p] = .active then 0 else 256))) s t) ∧
      (pfmtOk (s.x b) = true → s.ownFlights = [] → ∃ t, exec (.cmoPfw a b) s = .next t ∧ Completed 4 s t ∧ SameButPc s t ∧ SameBytes s t ∧
        t.core.pfmt = s.core.pfmt.set p (BitVec.ofNat 9 ((s.x b).toNat % 256)))) ∧
    (16 ≤ (s.x a).toNat → exec (.cmoPfr d a) s = .next (takeCause s (exc .bounds 0 (s.x a))))

/-- R279. dlg and dlg.am read their block, release at package scope and send the message; dlg gives the kind 9 token of the next sequence
number.
Choices of the model in it: log entries 4, 21. -/
def Obligations.DelegationsSend : Prop :=
  ∀ (s s1 : State) (t a b : BitVec 5) (c : Nat) (bs : List Byte), s.strike .address = none → (s.x b).toNat % 64 = 0 →
    coreOperand s (s.x a) = .ok c →
    readVa s (s.x b) 64 Need.read = .ok (bs, s1) →
    (∃ r, exec (.dlg t a b) s = .next r ∧ Completed 4 s1.publish r ∧ SameButScalars s1.publish r ∧ SameBytes s1.publish r ∧
      ScalarWritten s1.publish r t (replyToken 9 s.cur (s1.publish.core.nextSeq % 2 ^ 32)) ∧
      r.core.nextSeq = s1.publish.core.nextSeq + 1 ∧
      r.pending = s1.publish.pending ++
        [.delegation c s.cur (s1.publish.core.nextSeq % 2 ^ 32) s.part s.privileged (bytesToWords 8 bs)]) ∧
    (∃ r, exec (.dlgAm a b) s = .next r ∧ Completed 4 s1.publish r ∧ SameButPc s1.publish r ∧ SameBytes s1.publish r ∧
      r.pending = s1.publish.pending ++ [.activeMessage c s.cur s.part s.privileged (bytesToWords 8 bs)])

/-! ### Copies and wells -/

/-- R261, R266, R267. lda starts a transfer on channel 3 with the next id, gives its kind 1 token and moves on, its data on the way. A copy
whose fields and operands are allowed starts on its channel in the same way; with 64 transfers outstanding it waits.
Choices of the model in it: log entries 4, 15, 17. -/
def Obligations.TransfersStart : Prop :=
  (∀ (s : State) (t a b : BitVec 5) (h : BitVec 2) (k q sr : BitVec 1),
    let p := copyShape s a b (sr = 1) (q = 1)
    let ch : Fin 4 := h.toFin
    s.inService = false → s.strike .address = none → (s.ctx.getOx 1).toNat < 2 ^ 40 → p.rowlen ≠ 0 →
    (k = 1 → (p.rowlen = 64 ∨ p.rowlen = 128 ∨ p.rowlen = 256) ∧ p.rows ≤ 64 ∧ sr = 0 ∧ q = 0) →
    p.check s (converting s p.a p.b) = none →
    (s.core.chans[ch].out.length < 64 → ∀ ck s1, checksumRegister s (k = 1) = .ok (ck, s1) →
      ∃ r, exec (.xcopy t a b h k q sr) s = .next r ∧ Completed 4 s1.publish r ∧ SameBytes s1.publish r ∧
        ScalarWritten s1.publish r t (transferToken s.cur h.toNat s1.publish.core.chans[ch].nextId) ∧
        r.core.chans[ch].nextId = s1.publish.core.chans[ch].nextId + 1 ∧
        r.core.chans[ch].out.length = s1.publish.core.chans[ch].out.length + 1 ∧
        .transferComplete s.cur h.toNat s1.publish.core.chans[ch].nextId.toNat ∈ r.pending) ∧
    (64 ≤ s.core.chans[ch].out.length → exec (.xcopy t a b h k q sr) s = .next s)) ∧
  (∀ (s : State) (d b t : BitVec 5) (z : BitVec 2) (o : BitVec 7) (pa : Nat) (u : Use), t ≠ d → t ≠ 0 →
    s.strike .address = none →
    let va := s.x b + BitVec.ofInt 64 (o.toInt * 2 ^ z.toNat)
    va.toNat % 2 ^ z.toNat = 0 → translate s s.part s.privileged va Need.read = .ok (.phys pa u) → s.core.chans[3].out.length < 64 →
    ∃ r, exec (.lda d b z t o) s = .next r ∧ Completed 4 s r ∧ SameButScalars s r ∧
      ScalarWritten s r t (transferToken s.cur 3 s.core.chans[3].nextId) ∧
      r.core.chans[3].out.length = s.core.chans[3].out.length + 1 ∧ r.core.chans[3].nextId = s.core.chans[3].nextId + 1 ∧
      .ldaDataArrival s.cur s.core.chans[3].nextId.toNat ∈ r.pending)

/-- R269, R270, R272, R258. Binding, unbinding, skipping and reading the position of a well; a strike on the address generation of wbind
raises Shadow mismatch.
Choices of the model in it: log entries 21, 70. -/
def Obligations.WellForms : Prop :=
  ∀ (s : State) (d a : BitVec 5) (n : BitVec 3), s.inService = false →
    (∀ x, s.strike .address = some x → exec (.wbind a n) s = .next (takeCause (s.met x) (exc .shadowMismatch 1 0))) ∧
    (∀ bs s1, s.strike .address = none → (s.x a).toNat % 64 = 0 → readAs s .vector s.part s.privileged (s.x a) 64 Need.read true = .ok (bs, s1) →
      let w : Well := ⟨Vector.ofFn (fun i => (bytesToWords 8 bs)[i.val]?.getD 0), []⟩
      w.descriptorOk = true → s.ctx.wellFits n.toNat w = true →
      ∃ t, exec (.wbind a n) s = .next t ∧ Completed 4 s1.publish t ∧ SameBytes s1.publish t ∧ t.ctx.well n.toNat = some w ∧
        t.ctx.vstart = 0 ∧ t.ctx.s = s.ctx.s) ∧
    (∀ w, s.ctx.well n.toNat = some w →
      (∃ t, exec (.wunb n) s = .next t ∧ Completed 4 s t ∧ SameBytes s t ∧ t.ctx.well n.toNat = none ∧
        t.ctx = { s.ctx with pc := t.ctx.pc, vstart := 0, wells := t.ctx.wells }) ∧
      (∃ t, exec (.wpos d n) s = .next t ∧ Completed 4 s t ∧ SameBytes s t ∧ ScalarWritten s t d (w.word 6) ∧
        t.ctx = { s.ctx with pc := t.ctx.pc, vstart := 0, s := t.ctx.s }) ∧
      (∃ t, exec (.wskip a n) s = .next t ∧ Completed 4 s t ∧ SameBytes s t ∧ t.ctx.vstart = 0 ∧ t.ctx.s = s.ctx.s ∧
        (s.x a = 0 → t.ctx.wells = s.ctx.wells) ∧
        (w.nbuf ≤ (s.x a).toNat → 1 < (s.x a).toNat → ∃ v, t.ctx.well n.toNat = some v ∧
          v.word 6 = w.word 6 + BitVec.ofNat 64 ((s.x a).toNat * w.stripLength)))) ∧
    (s.ctx.well n.toNat = none → exec (.wpos d n) s = .next (takeCause s (exc .illegalInstruction 0 (BitVec.ofNat 64 (encWpos d n)))))

/-! ### Queues -/

/-- The state after a queue instruction that only read the control block: its leaf entry is marked (R320). -/
def lookedAt (s : State) (o : OpenQueue) : State := s.touch s.part o.va Need.queue false

/-- The enqueues of R289 whose fields are allowed: predicate of a try form, queue register, how the element is taken. -/
def enqueueTable (s : State) : Instr → Option (Option Nat × BitVec 5 × (OpenQueue → Res (List Byte × State)))
  | .enqTry p a b =>
    if predDestOk p && predHere s p.toNat && !s.ctx.boundPred p.toNat then some (some p.toNat, a, elementAt s (s.x b)) else none
  | .enqWait a b => if waitAllowed s then some (none, a, elementAt s (s.x b)) else none
  | .venqTry d a p =>
    if predDestOk p && predHere s p.toNat && vecHere s d.toNat && !s.ctx.boundGroup (d.toNat, 1) && !s.ctx.boundPred p.toNat then
      some (some p.toNat, a, elementOf s d.toNat)
    else none
  | .venqWait d a =>
    if waitAllowed s && vecHere s d.toNat && !s.ctx.boundGroup (d.toNat, 1) then some (none, a, elementOf s d.toNat) else none
  | _ => none

/-- The dequeues: predicate, queue register, the check of the destination, how the element is written. -/
def dequeueTable (s : State) :
    Instr → Option (Option Nat × BitVec 5 × (OpenQueue → Res Dest) × (Dest → OpenQueue → List Byte → State → Res State))
  | .deqTry p a b =>
    if predDestOk p && predHere s p.toNat && !s.ctx.boundPred p.toNat then
      some (some p.toNat, a, destinationAt s (s.x b), putAt)
    else none
  | .deqWait a b => if waitAllowed s then some (none, a, destinationAt s (s.x b), putAt) else none
  | .vdeqTry d a p =>
    if predDestOk p && predHere s p.toNat && vecHere s d.toNat && !s.ctx.boundGroup (d.toNat, 1) && !s.ctx.boundPred p.toNat then
      some (some p.toNat, a, fun _ => .ok [], putVector d.toNat)
    else none
  | .vdeqWait d a =>
    if waitAllowed s && vecHere s d.toNat && !s.ctx.boundGroup (d.toNat, 1) then some (none, a, fun _ => .ok [], putVector d.toNat) else none
  | _ => none

/-- R289, R290, R291, R293, R295. Enqueues and dequeues: with room (an element) the operation takes place, an enqueue as a release at the
scope of the queue's mode, and the try forms set their predicate to all ones; without, no element is accessed, a try form clears it and a
wait form suspends the task at the instruction. A dequeue writes where its check found its destination, and publishes the stores of its
party first.
Choices of the model in it: log entries 15, 21. -/
def Obligations.QueueTransfers : Prop :=
  (∀ (s s1 : State) (i : Instr) (pd : Option Nat) (a : BitVec 5) (elem : OpenQueue → Res (List Byte × State)) (o : OpenQueue) (bs : List Byte),
    enqueueTable s i = some (pd, a, elem) → openQueue s (s.x a) .enqueue = .ok o → elem o = .ok (bs, s1) →
    let scope := fenceScope (modeScope o.q) s1
    (∀ s2, qFree o.q ≠ 0 → orders scope s1 → enqueueNow (ordered scope s1) o bs = .ok s2 → ∃ t, exec i s = .next t ∧ Completed 4 s2 t ∧
      SameBytes s2 t ∧ t.pending = s2.pending ∧ t.ctx.release = none ∧ ∀ p, pd = some p → t.ctx.getP p = BitVec.allOnes 1024) ∧
    (qFree o.q = 0 → (∀ p, pd = some p → ∃ t, exec i s = .next t ∧ Completed 4 (lookedAt s o) t ∧ SameBytes (lookedAt s o) t ∧ t.ctx.getP p = 0) ∧
      (pd = none → ∀ x, s.core.run.task = some x → exec i s = .next (queueWait s x o (s.x a) false)))) ∧
  (∀ (s : State) (i : Instr) (pd : Option Nat) (a : BitVec 5) (check : OpenQueue → Res Dest)
      (put : Dest → OpenQueue → List Byte → State → Res State) (o : OpenQueue) (dst : Dest),
    dequeueTable s i = some (pd, a, check, put) → openQueue s (s.x a) .dequeue = .ok o → check o = .ok dst →
    (∀ bs s1 s2, qCount o.q ≠ 0 → dequeueNow s.publish o = .ok (some (bs, s1)) → put dst o bs s1 = .ok s2 →
      ∃ t, exec i s = .next t ∧ Completed 4 s2 t ∧ SameBytes s2 t ∧ t.pending = s2.pending ∧
        ∀ p, pd = some p → t.ctx.getP p = BitVec.allOnes 1024) ∧
    (qCount o.q = 0 → (∀ p, pd = some p → ∃ t, exec i s = .next t ∧ Completed 4 (lookedAt s o) t ∧ SameBytes (lookedAt s o) t ∧ t.ctx.getP p = 0) ∧
      (pd = none → ∀ x, s.core.run.task = some x → exec i s = .next (queueWait s x o (s.x a) true))))

/-- R290, R299. What a home does for an enqueue into a queue with room that has no segments: TAIL rises by one, FREE falls by one, and
the full bit of the slot is set. -/
def Obligations.EnqueueAtHome : Prop :=
  ∀ (s : State) (part qpa : Nat) (slot : List Nat) (elem : List Byte), s.memWf → qpa % 64 = 0 → spaceOf qpa ≠ .control →
    (∀ a ∈ slot, spaceOf a ≠ .control ∧ (a + slotPiece (readQcb s qpa) ≤ qpa ∨ qpa + 64 ≤ a)) → 0 < qFree (readQcb s qpa) →
    let t := enqueueAt s part qpa slot none elem
    qTail (readQcb t qpa) = (qTail (readQcb s qpa) + 1) % 2 ^ 32 ∧ qFree (readQcb t qpa) = qFree (readQcb s qpa) - 1 ∧
    qHead (readQcb t qpa) = qHead (readQcb s qpa) ∧ slot.headD 0 / 8 ∈ t.full ∧ t.ctx = s.ctx

/-- R304, R305. qinit, qfree, qstat and qpeek.
Choices of the model in it: log entries 14, 21. -/
def Obligations.QueueUpkeep : Prop :=
  ∀ (s : State) (d a b : BitVec 5),
    (∀ tgt bs s1 k s2, (s.x a).toNat % 64 = 0 → (s.x b).toNat % 64 = 0 → translate s s.part s.privileged (s.x a) Need.queue = .ok tgt →
      readVa s (s.x b) 64 Need.read = .ok (bs, s1) → qinitStatus s1 (s.x a).toNat tgt (leNat bs) = .ok (k, s2) →
      ∃ t, exec (.qinit d a b) s = .next t ∧ Completed 4 s2 t ∧ SameBytes s2 t ∧ ScalarWritten s2 t d (BitVec.ofNat 64 k) ∧
        t.objects = s2.objects) ∧
    (∀ o, openQueue s (s.x a) .look = .ok o →
      (qCount o.q = 0 ∧ qEnqw o.q = 0 ∧ qDeqw o.q = 0 ∧ qFree o.q = qCap o.q → qMode o.q ≠ 2 → ∃ t, exec (.qfree d a) s = .next t ∧
        t.ctx.pc = s.ctx.pc + 4 ∧ ScalarWritten s t d 0 ∧ ∀ g, o.pa / 16 ≤ g → g < o.pa / 16 + 4 → g ∉ t.objects) ∧
      (¬(qCount o.q = 0 ∧ qEnqw o.q = 0 ∧ qDeqw o.q = 0 ∧ qFree o.q = qCap o.q) →
        ∃ t, exec (.qfree d a) s = .next t ∧ ScalarDone 4 d 1 (lookedAt s o) t) ∧
      (∃ t, exec (.qstat d a b) s = .next t ∧ t.ctx.pc = s.ctx.pc + 4 ∧ SameButScalars s t ∧
        ((s.x b).toNat < 8 → ScalarWritten s t d (BitVec.ofNat 64
          ([qHead o.q, qTail o.q, qFree o.q, qEnqw o.q, qDeqw o.q, qGen o.q, qMode o.q, qLost o.q][(s.x b).toNat]?.getD 0))) ∧
        (8 ≤ (s.x b).toNat → qMode o.q ≠ 2 ∨ qSegs o.q ≤ (s.x b).toNat - 8 → ScalarWritten s t d 0))) ∧
    (∀ o dst, openQueue s (s.x a) .dequeue = .ok o → destinationAt s (s.x b) o = .ok dst →
      (qCount o.q = 0 → ∃ t, exec (.qpeek d a b) s = .next t ∧ ScalarDone 4 d 0 (lookedAt s o) t) ∧
      (∀ l bs s2, qCount o.q ≠ 0 → let s0 := s.publish
        readSlot s0 o = .ok (some (l, bs)) →
        putAt dst o bs (touchSlot (acquireSlot o.q s0 l) s0.part o (dequeueSlot s0 s0.part o.pa o.q s0.cur).1 Need.read) = .ok s2 →
        ∃ t, exec (.qpeek d a b) s = .next t ∧ Completed 4 s2 t ∧ SameBytes s2 t ∧ ScalarWritten s2 t d 1))

/-! ### Cells, rendezvous, wire barriers -/

/-- R7, R373, R382, R383. celli makes a cell with COUNT 0, TARGET the operand and the next generation, and gives its token; signal adds to
the count at the cell's point of order, after its release, and gives the new count; at a cell with a reserved bit set it is illegal; a
posted signal to no cell is refused by the home, and its core keeps what the record will name; cread gives one field and orders nothing.
celli publishes the stores of its party first.
Choices of the model in it: log entries 4, 21. -/
def Obligations.CellForms : Prop :=
  ∀ (s : State) (d a b : BitVec 5), s.memWf →
    (∀ pa, (s.x a).toNat % 16 = 0 → (s.x b).toNat < 2 ^ 32 → objectPa s (s.x a) Need.atom = .ok pa → spaceOf pa ≠ .control → pa % 16 = 0 →
      let s0 := (s.touch s.part (s.x a).toNat Need.atom true).publish
      ∃ t, exec (.celli d a b) s = .next t ∧ Completed 4 s0 t ∧ ScalarWritten s t d (cellToken (s.x a).toNat) ∧ SameButScalars s t ∧
        cellCount (object16 t pa) = 0 ∧ cellTarget (object16 t pa) = (s.x b).toNat ∧ cellErr (object16 t pa) = false ∧
        cellGen (object16 t pa) = (cellGen (object16 s0 pa) + 1) % 65536 ∧ pa / 16 ∈ t.objects) ∧
    (∀ (e : BitVec 1) (sc : BitVec 3), 1 ≤ sc.toNat → sc.toNat ≤ 5 →
      (2 ^ 32 ≤ (s.x b).toNat → exec (.signal d a b e sc) s = .next (takeCause s (exc .bounds 0 (s.x b)))) ∧
      (∀ pa u, (s.x b).toNat < 2 ^ 32 → tokenOperand s [2] (s.x a) = none → tokFabric (s.x a) = false → orders (fenceScope sc.toNat s) s →
        translate s s.part s.privileged (tokVa (s.x a)) Need.atom = .ok (.phys pa u) → spaceOf pa ≠ .control → pa % 16 = 0 →
        let s0 := ordered (fenceScope sc.toNat s) s
        let s1 := stampHome (markUsed (if sc = 4 ∧ s0.objects.contains (pa / 16) = true then podSignal s0 pa else s0) u true) pa
        (pa / 16 ∈ s0.objects → touchesPoison s1 pa 16 = false → cellReserved (object16 s1 pa) = true →
          exec (.signal d a b e sc) s = .next (takeCause s1 (exc .illegalInstruction 0 (s.x a)))) ∧
        (pa / 16 ∈ s0.objects → touchesPoison s1 pa 16 = false → cellReserved (object16 s1 pa) = false →
          ∃ t, exec (.signal d a b e sc) s = .next t ∧ t.ctx.pc = s.ctx.pc + 4 ∧ SameButScalars s t ∧
            ScalarWritten s t d (BitVec.ofNat 64 ((cellCount (object16 s1 pa) + (s.x b).toNat) % 2 ^ 32)) ∧
            cellCount (object16 t pa) = (cellCount (object16 s1 pa) + (s.x b).toNat) % 2 ^ 32 ∧
            cellTarget (object16 t pa) = cellTarget (object16 s1 pa) ∧
            cellErr (object16 t pa) = (cellErr (object16 s1 pa) || decide (e = 1))) ∧
        (pa / 16 ∉ s0.objects →
          (d = 0 → ∃ t, exec (.signal d a b e sc) s = .next t ∧ Completed 4 s1 t ∧ SameBytes s1 t ∧
            t.pending = s1.pending ++ [.postedSignalRefused s1.cur (s.x a) s1.ctx.pc s1.taskKey.1 s1.taskKey.2] ∧
            ∃ p, t.core.posted = s1.core.posted ++ [p] ∧ p.token = s.x a ∧ p.pc = s1.ctx.pc ∧ (p.serial, p.tid) = s1.taskKey ∧
              p.part = s1.part) ∧
          (d ≠ 0 → exec (.signal d a b e sc) s = .next (takeCause s1 (exc .invalidToken 2 (s.x a))))))) ∧
    (∀ pa, tokenOperand s [2, 3] (s.x a) = none → tokFabric (s.x a) = false → tokenObject s (s.x a) Need.atom = .ok () →
      objectPa s (tokVa (s.x a)) Need.atom = .ok pa →
      let s1 := s.touch s.part (tokVa (s.x a)).toNat Need.atom false
      let v := object16 s1 pa
      ∃ t, exec (.cread d a b) s = .next t ∧ Completed 4 s1 t ∧ SameBytes s1 t ∧ SameButScalars s t ∧
        ScalarWritten s t d (BitVec.ofNat 64 ((if tokKind (s.x a) = 2 then [cellCount v, cellTarget v, cellGen v, fieldOf v 80 80]
          else [rvExpect v, rvArrived v, rvPar v, rvPhase v, rvGen v])[(s.x b).toNat]?.getD 0)))

/-- R375, R376, R377, R379, R380. rvinit makes a rendezvous; an arrival of the right parity counts, and the last one starts the next
phase with the other parity; one of the wrong parity raises Rendezvous phase error; a deferred one is a transfer of its channel; rvfree
gives the arrivals and takes the object away; an object with a reserved bit set is illegal to both. barw arrives on the lines of BWMASK with the task's parity, gives the
kind 7 token and flips the parity; while the previous arrival is unreleased it waits, until BWTO cycles have passed: then Barrier timeout.
rvinit, rvfree and the issue of a deferred arrival publish the stores of their party too.
Choices of the model in it: log entries 4, 15, 21, 60. -/
def Obligations.RendezvousAndBarriers : Prop :=
  (∀ (s : State) (d a b : BitVec 5) (pa : Nat), s.memWf → (s.x a).toNat % 16 = 0 → objectPa s (s.x a) Need.atom = .ok pa →
    spaceOf pa ≠ .control → pa % 16 = 0 →
    let s1 := (s.touch s.part (s.x a).toNat Need.atom true).publish
    let v := object16 s1 pa
    let tok := rendezvousToken (s.x a) (rvPhase v + 1)
    let s2 := { s1 with core := { s1.core with failed := s1.core.failed.filter (fun f => f.1 ≠ tok) } }
    (s.x b ≠ 0 → (s.x b).toNat < 2 ^ 32 → ∃ t, exec (.rvinit d a b) s = .next t ∧ Completed 4 s1 t ∧ ScalarWritten s t d 0 ∧
      rvExpect (object16 t pa) = (s.x b).toNat ∧ rvArrived (object16 t pa) = 0 ∧ rvPar (object16 t pa) = 0 ∧
      rvPhase (object16 t pa) = 0 ∧ rvGen (object16 t pa) = (rvGen v + 1) % 65536 ∧ pa / 16 ∈ t.objects) ∧
    (pa / 16 ∈ s.objects → (s.x b).toNat < 16 → rvReserved (object16 s pa) = true →
      exec (.rvarr d a b) s = .next (takeCause s (exc .illegalInstruction 0 (s.x a))) ∧
      exec (.rvfree d a) s = .next (takeCause s (exc .illegalInstruction 0 (s.x a)))) ∧
    (pa / 16 ∈ s.objects → (s.x b).toNat < 16 → rvReserved (object16 s pa) = false →
      ((s.x b).getLsbD 1 = false → rvPar v = (s.x b).toNat % 2 → ∃ t, exec (.rvarr d a b) s = .next t ∧ Completed 4 s1 t ∧
        ScalarWritten s t d tok ∧ rvExpect (object16 t pa) = rvExpect v ∧ rvGen (object16 t pa) = rvGen v ∧
        (rvArrived v + 1 = rvExpect v → rvArrived (object16 t pa) = 0 ∧ rvPar (object16 t pa) = 1 - rvPar v ∧
          rvPhase (object16 t pa) = (rvPhase v + 1) % 32768) ∧
        (rvArrived v + 1 ≠ rvExpect v → rvArrived (object16 t pa) = (rvArrived v + 1) % 2 ^ 32 ∧ rvPar (object16 t pa) = rvPar v ∧
          rvPhase (object16 t pa) = rvPhase v)) ∧
      ((s.x b).getLsbD 1 = false → rvPar v ≠ (s.x b).toNat % 2 →
        exec (.rvarr d a b) s = .next (takeCause s2 (exc .rendezvousPhaseError 0 (s.x a)))) ∧
      (∀ ch : Fin 4, (s.x b).getLsbD 1 = true → (s.x b).toNat / 4 = ch.val → s1.core.chans[ch].out.length < 64 →
        ∃ t, exec (.rvarr d a b) s = .next t ∧ Completed 4 s1 t ∧ ScalarWritten s t d tok ∧ SameBytes s1 t ∧
          t.core.chans[ch].nextId = s1.core.chans[ch].nextId + 1 ∧
          t.pending = s1.pending ++ [.deferredArrival s.cur ch.val s1.core.chans[ch].nextId.toNat]) ∧
      (∃ t, exec (.rvfree d a) s = .next t ∧ Completed 4 s1 t ∧ SameBytes s1 t ∧
        ScalarWritten s t d (BitVec.ofNat 64 (rvArrived v)) ∧ pa / 16 ∉ t.objects)) ∧
    (pa / 16 ∉ s.objects → exec (.rvfree d a) s = .next (takeCause s (exc .invalidToken 2 (s.x a))))) ∧
  (∀ (s : State) (d : BitVec 5),
    ((s.inService = false → ∀ x, s.core.run.task = some x → x.arrival = none) →
      ∃ t, exec (.barw d) s = .next t ∧ Completed 4 s.publish t ∧ SameBytes s.publish t ∧ t.ctx.parity = !s.ctx.parity ∧
        ScalarWritten s t d (barrierToken s.cur s.ctx.parity s.ctx.bwmask) ∧
        t.ctx = { s.ctx with pc := t.ctx.pc, s := t.ctx.s, parity := !s.ctx.parity }) ∧
    (∀ x tok dl, s.inService = false → s.core.run.task = some x → x.arrival = some (tok, dl) → tokenReady s (x.asks s.cur) tok = none → dl ≠ 0 →
      let s0 := renewBarrier s [tok]
      ∀ y dl0, s0.core.run.task = some y → y.arrival = some (tok, dl0) →
      (s.cyc.toNat < dl0.toNat → exec (.barw d) s = .next s0) ∧
      (dl0.toNat ≤ s.cyc.toNat → exec (.barw d) s = .next (takeCause
        { s0 with core := { s0.core with run := s0.core.run.mapTask (fun t => expireBarrier t tok) } } (exc .barrierTimeout 0 tok)))))

/-! ### Waiting -/

/-- The awaits (R370): form and index of the live mask. -/
def awaitTable : Instr → Option (AwaitForm × Nat)
  | .await t l => some (⟨4, .await, t, encAwait t l⟩, l.toNat)
  | .awaitT t l => some (⟨4, .awaitT, t, encAwaitT t l⟩, l.toNat)
  | .awaitany t l => if t = 31 then none else some (⟨4, .awaitAny, t, encAwaitany t l⟩, l.toNat)
  | .cAwait a i => some (⟨2, .await, a, encCAwait a i⟩, i.toNat)
  | _ => none

/-- R29, R34, R35, R371, R369, R380, R383. An await clears what its live mask leaves out; with a ready token it completes, an error word in
its token register, awaitany with the ready token first; with none ready and no promise the task is suspended; with a promise the core
stalls for, the task holds its core; a barrier arrival whose time has run out raises Barrier timeout. A token that fails a check raises its
cause. The leader of a gang executes its await with its members, once each of them has come to it. waituntil completes where its time has
come and its transfer is complete; where only the time has come it raises Promise missed; before, the task holds its core for at most SWTH
cycles.
Choices of the model in it: log entries 15, 38. -/
def Obligations.AwaitForms : Prop :=
  (∀ (s : State) (i : Instr) (f : AwaitForm) (idx : Nat), awaitTable i = some (f, idx) → s.inService = false → idx < maskCount s →
    (∀ sh ms n, s.gang = .leader sh ms n →
      exec i s = .next (if ms.all (memberHere s) then awaitGang s ms f idx else s)) ∧
    ((∀ sh ms n, s.gang ≠ .leader sh ms n) →
    (∀ e, checkTokens s (f.regs.map s.x) = .error e → exec i s = .next (takeCause s e)) ∧
    (∀ s1 toks m x, awaitPrepare s f idx = .ok (s1, toks, m) → s1.core.run.task = some x →
      let u := { s1 with core := { s1.core with run := s1.core.run.mapTask (fun t => { t with waitFrom := none }) } }
      let y := { x with waitFrom := none }
      (∀ r, s1.x r = if m.s.getLsbD r.toNat then s.x r else 0) ∧ (∀ r ∈ f.regs, m.s.getLsbD r.toNat = true) ∧
      (∀ k e, firstReady u (x.asks s.cur) toks 0 = some (k, e) → ∃ t, exec i s = .next t ∧ Completed f.size s1 t ∧ SameBytes s1 t ∧
        t.ctx = { s1.ctx with pc := t.ctx.pc, s := t.ctx.s } ∧
        ∀ r, t.x r = if e ≠ 0 ∧ r = f.reg ∧ r ≠ 0 then BitVec.ofNat 64 (e.toNat + 2 ^ 59)
          else if k = 1 ∧ r = f.reg ∧ r ≠ 0 then s1.x (f.reg + 1) else if k = 1 ∧ r = f.reg + 1 then s1.x f.reg else s1.x r) ∧
      (∀ a, firstReady u (x.asks s.cur) toks 0 = none → barrierDue u y toks = some a → exec i s = .next (takeCause
        { u with core := { u.core with run := u.core.run.mapTask (fun t => expireBarrier t a) } } (exc .barrierTimeout 0 a))) ∧
      (firstReady u (x.asks s.cur) toks 0 = none → barrierDue u y toks = none →
        let w := f.wait s1 toks m
        let r := (awaitRegister u y w).fresh
        (stallsFor u (earliestPromise u toks) = false → exec i s = .next (suspendAndPick r y .waiting (some w) w.bytes)) ∧
        (∀ q, earliestPromise u toks = some q → stallsFor u (some q) = true → exec i s = .next (stall r y q w)))))) ∧
  (∀ (s : State) (a b : BitVec 5), s.inService = false → tokKind (s.x a) = 1 → checkToken s (s.x a) = .ok () →
    ((s.x b).toNat ≤ s.cyc.toNat → ∀ e, tokenReady s (engineAsks s.cur s.part) (s.x a) = some e → ∃ t, exec (.waituntil a b) s = .next t ∧ PlainDone 4 s t) ∧
    ((s.x b).toNat ≤ s.cyc.toNat → tokenReady s (engineAsks s.cur s.part) (s.x a) = none →
      exec (.waituntil a b) s = .next (takeCause s (exc .promiseMissed 0 (s.x a)))) ∧
    (∀ x, s.core.run.task = some x → s.cyc.toNat < (s.x b).toNat → (s.x b).toNat - s.cyc.toNat ≤ s.core.swth.toNat →
      ∃ t, exec (.waituntil a b) s = .next t ∧ t.ctx = s.ctx ∧ t.mem = s.mem ∧ (∃ w, t.core.run = .stalled x (s.x b) w) ∧
        t.pending = s.pending ++ [.waituntilTime s.cur x.slot]))

/-! ### Task control -/

/-- The requests that leave a kind 8 token: destination and message (R307, R310, R312). -/
def requestTable (s : State) : Instr → Option (BitVec 5 × (Nat → Event))
  | .tspawn d a => match coreOperand s (s.x a) with
    | .ok c => some (d, fun q => .tspawnRequest s.cur q s.taskKey.1 c)
    | .error _ => none
  | .gjoin d a => some (d, fun q => .gjoinRequest s.cur q s.taskKey.1 (s.x a).toNat)
  | .wqry d a b =>
    if (s.x a).toNat % 8 = 0 ∧ (s.x b).toNat < 8 then
      match resolvePlace s (s.x a) 0 8 with
      | .ok p => some (d, fun q => .wqryRequest s.cur q s.taskKey.1 (s.x b).toNat p.1 p.2)
      | .error _ => none
    else none
  | _ => none

/-- R307-R312, R366. tspawn, gjoin and wqry leave their request with Sluice and give the kind 8 token of the next sequence number;
wqry.open waits for its answer. tend ends the task: its stores leave the buffer, its end message is under way, and the core picks; yield
makes it Ready and the core picks. In a routine each is illegal.
Choices of the model in it: log entries 4, 15. -/
def Obligations.TaskControlForms : Prop :=
  (∀ (s : State) (i : Instr) (d : BitVec 5) (ev : Nat → Event), requestTable s i = some (d, ev) → s.inService = false →
    let q := s.core.nextSeq % 2 ^ 32
    ∃ t, exec i s = .next t ∧ Completed 4 s t ∧ SameButScalars s t ∧ SameBytes s t ∧ ScalarWritten s t d (replyToken 8 s.cur q) ∧
      t.core.nextSeq = s.core.nextSeq + 1 ∧ t.pending = s.pending ++ [ev q]) ∧
  (∀ (s : State) (d a b : BitVec 5), s.inService = false → (s.x a).toNat < 2 ^ 60 → (s.x b).toNat < 8 →
    (s.core.answer = none → s.core.asked = false → ∃ t, exec (.wqryOpen d a b) s = .next t ∧ t.ctx = s.ctx ∧ t.core.asked = true ∧
      SameBytes s t ∧ t.pending = s.pending ++ [.wqryOpenRequest s.cur s.taskKey.1 (s.x b).toNat (BitVec.ofNat 60 (s.x a).toNat)]) ∧
    (s.core.answer = none → s.core.asked = true → exec (.wqryOpen d a b) s = .next s) ∧
    (∀ v, s.core.answer = some v → ∃ t, exec (.wqryOpen d a b) s = .next t ∧ Completed 4 s t ∧ ScalarWritten s t d v ∧
      SameButScalars s t ∧ SameBytes s t ∧ t.core.answer = none ∧ t.core.asked = false)) ∧
  (∀ (s : State) (x : TaskInfo), s.inService = false → s.inGang = false → s.core.run.task = some x →
    (∀ i, i = .tend ∨ i = .cTend → ∃ u : State, exec i s = .next u.pick ∧ u.core.run = .idle ∧ u.core.sbuf = [] ∧
      .endMessage s.cur x.serial x.tid ∈ u.pending ∧ u.core.pmc[0] = s.core.pmc[0] + 1) ∧
    exec .yield s = .next (suspendAndPick s.finished x .ready none (fullRecordBytes s.ctx)) ∧
    exec .cYield s = .next (suspendAndPick ((s.advance 2).retire 1) x .ready none (fullRecordBytes s.ctx))) ∧
  (∀ s : State, s.inService = true ∨ s.inGang = true →
    exec .tend s = .next (takeCause s (exc .illegalInstruction 0 (BitVec.ofNat 64 encTend))) ∧
    exec .yield s = .next (takeCause s (exc .illegalInstruction 0 (BitVec.ofNat 64 encYield))))

/-- R70, R311. gang gives a kind 9 token: a follower's join is on its way to the leader's core, a leader waits for its members; a task
that has its place already, or a leader outside the launch's cores, gets an error status. ungang disbands the gang its leader
executes it for, once every member has come to it, and does nothing outside one.
Choices of the model in it: log entries 4, 23, 66. -/
def Obligations.GangForms : Prop :=
  ∀ (s : State) (d a b : BitVec 5) (shape dx dy : Nat), (s.x a).toNat = shape + 4 * dx + 16 * dy → 1 ≤ shape → shape ≤ 3 → dx < 4 → dy < 2 →
    let index := dy * gangWidth shape + dx
    let q := s.core.nextSeq % 2 ^ 32
    (s.inService = false → dx < gangWidth shape → dy < gangHeight shape → dx ≤ colOf s.cur → dy ≤ rowOf s.cur →
      ∀ x l, s.core.run.task = some x → x.gang = .none → s.launchOf x.serial = some l →
      (index ≠ 0 → ∃ t, exec (.gang d a b) s = .next t ∧ Completed 4 s t ∧ SameButScalars s t ∧ SameBytes s t ∧
        ScalarWritten s t d (replyToken 9 s.cur q) ∧
        (∃ y, t.core.run.task = some y ∧ y.gang = .forming shape index q (s.ctx.pc + 4) s.cyc []) ∧
        t.pending = s.pending ++ [.gangJoin (coreAt (dieOf s.cur) (rowOf s.cur - dy) (colOf s.cur - dx)) s.cur q x.serial
          (s.x b).toNat index]) ∧
      (index = 0 → l.cores.contains s.cur = true → s.core.joins = [] → ∃ t, exec (.gang d a b) s = .next t ∧ Completed 4 s t ∧
        SameButScalars s t ∧ SameBytes s t ∧ ScalarWritten s t d (replyToken 9 s.cur q) ∧
        (∃ y, t.core.run.task = some y ∧ y.gang = .forming shape 0 q (s.ctx.pc + 4) s.cyc []) ∧
        t.pending = s.pending ++ [.gangFormationTimeout s.cur]) ∧
      (index = 0 → l.cores.contains s.cur = false → ∃ t, exec (.gang d a b) s = .next t ∧ Completed 4 s t ∧ SameBytes s t ∧
        ScalarWritten s t d (replyToken 9 s.cur q) ∧ (q, gangFailed) ∈ t.core.replies)) ∧
    (s.inService = false → dx < gangWidth shape → dy < gangHeight shape → dx ≤ colOf s.cur → dy ≤ rowOf s.cur → s.inGang = false →
      s.gang ≠ .none → ∃ t, exec (.gang d a b) s = .next t ∧ Completed 4 s t ∧ SameBytes s t ∧
        ScalarWritten s t d (replyToken 9 s.cur q) ∧ (q, gangFailed) ∈ t.core.replies) ∧
    (s.inService = true ∨ s.inGang = true ∨ gangWidth shape ≤ dx ∨ gangHeight shape ≤ dy →
      exec (.gang d a b) s = .next (takeCause s (exc .illegalInstruction 0 (BitVec.ofNat 64 (encGang d a b))))) ∧
    (s.inService = false → (∀ sh ms n, s.gang ≠ .leader sh ms n) → ∃ t, exec .ungang s = .next t ∧ PlainDone 4 s t) ∧
    (∀ sh ms n, s.gang = .leader sh ms n →
      exec .ungang s = .next (if ms.all (memberHere s) then (disband (ms.foldl followPast s) s.cur 1 1).finished else s))

/-! ### Translation and grants -/

/-- R325, R326, R332, R333, R335, R336. The invalidations, in privileged mode and with nothing open towards the fabric, complete and
remove what they name; probe gives the leaf that a walk from memory finds, or twice the sub-code. gissue completes a token with the MAC of
its fields under the key of its slot; gcheck answers 0 for a current token with the right MAC, 2 for a wrong MAC, 3 for an expired one;
grevoke gives a slot of the task's own partition a new key.
Choices of the model in it: log entries 12, 15. -/
def Obligations.InvalidationsAndGrants : Prop :=
  (∀ (s : State) (d a b : BitVec 5), s.privileged = true →
    ((drainEverywhere s).fabric = [] →
      ((s.x b).toNat < 64 → ∃ t, exec (.tlbiVa a b) s = .next t ∧ t.ctx.pc = s.ctx.pc + 4 ∧ SameButPc s t ∧
        (∀ e ∈ t.tlb, e.covers (s.x b).toNat (s.x a).toNat = false) ∧ ∀ w ∈ t.walkCache, w.part ≠ (s.x b).toNat) ∧
      ((s.x a).toNat < 64 → ∃ t, exec (.tlbiPart a) s = .next t ∧ t.ctx.pc = s.ctx.pc + 4 ∧ SameButPc s t ∧
        (∀ e ∈ t.tlb, e.part = (s.x a).toNat → e.pte.getLsbD 8 = true) ∧ ∀ w ∈ t.walkCache, w.part ≠ (s.x a).toNat) ∧
      (∃ t, exec .tlbiAll s = .next t ∧ t.ctx.pc = s.ctx.pc + 4 ∧ SameButPc s t ∧ t.tlb = [] ∧ t.walkCache = [])) ∧
    (64 ≤ (s.x b).toNat → exec (.tlbiVa a b) s = .next (takeCause s (exc .bounds 0 (s.x b)))) ∧
    ((s.x b).toNat < 64 →
      (∀ l, walkFresh s (s.x b).toNat (s.x a) = .ok l → ∃ t, exec (.probe d a b) s = .next t ∧
        ScalarDone 4 d (BitVec.ofNat 64 (l.pte.toNat % 2 ^ 62 + l.size * 2 ^ 62)) s t) ∧
      (∀ f, walkFresh s (s.x b).toNat (s.x a) = .error f → ∃ t, exec (.probe d a b) s = .next t ∧
        ScalarDone 4 d (BitVec.ofNat 64 (2 * f.sub)) s t))) ∧
  (∀ (s : State) (d a b : BitVec 5),
    ((s.x b).toNat < 2 ^ 24 → (s.x b).toNat / 2 ^ 18 = s.part →
      let tok := s.x a
      let mac := macHere s tok ((s.x b).toNat % 4096) ((s.x b).toNat / 4096 % 64) s.part
      (∃ t, exec (.gcheck d a b) s = .next t ∧ ScalarDone 4 d
        (if grantMacOf tok ≠ mac then 2 else if grantCurrent s tok then 0 else 3) s t) ∧
      (s.privileged = true → issuable tok = true → ∃ t, exec (.gissue d a b) s = .next t ∧ ScalarDone 4 d (setBits tok 63 40 mac) s t) ∧
      (s.privileged = true → issuable tok = false → exec (.gissue d a b) s = .next (takeCause s (exc .bounds 0 tok)))) ∧
    (¬((s.x b).toNat < 2 ^ 24 ∧ (s.x b).toNat / 2 ^ 18 = s.part) →
      exec (.gcheck d a b) s = .next (takeCause s (exc .bounds 0 (s.x b)))) ∧
    (s.privileged = true → (s.x a).toNat < 4 → ∃ t, exec (.grevoke d a) s = .next t ∧ Completed 4 s t ∧ SameButScalars s t ∧ SameBytes s t ∧
      ScalarWritten s t d 0 ∧ slotKey t s.part (s.x a).toNat = Config.grantKey s.keyNext ∧
      ∀ part slot, slot < 4 → (part ≠ s.part ∨ slot ≠ (s.x a).toNat) → slotKey t part slot = slotKey s part slot))

/-! ### KV tables -/

/-- An instruction of 4 bytes that answers `v` in register d and leaves the memory of `u`. -/
def Answers (s : State) (i : Instr) (d : BitVec 5) (v : Word) (u : State) : Prop :=
  ∃ t, exec i s = .next t ∧ Completed 4 s t ∧ t.ctx = { s.ctx with pc := t.ctx.pc, s := t.ctx.s, release := u.ctx.release, seen := u.ctx.seen } ∧
    ScalarWritten s t d v ∧ SameBytes u t ∧ t.objects = u.objects

/-- R349, R350, R354, R346, R320. Pools, descriptors and source versions: kvalloc.init's status, the index kvalloc takes or all ones, the
new count of kvref and kvunref, and the version kvsrc reads or leaves; the pages of what is read are marked. Each publishes the stores of
its party first.
Choices of the model in it: log entries 21, 31, 50. -/
def Obligations.PoolForms : Prop :=
  ∀ (s : State) (d a b : BitVec 5),
    let s1 := s.publish
    let q := s1.party
    let r1 := s1.reads q (s.x a) 64
    s.memWf → (s.x a).toNat % 64 = 0 →
    (∀ pa bs s2, (s.x b).toNat % 64 = 0 → objectAt s1 q (s.x a) Need.change = .ok pa → readVa s1 (s.x b) 64 Need.read = .ok (bs, s2) →
      let p : Pool := ⟨s.x a, leNat bs⟩
      (touchesObject s1 pa 64 = true → Answers s (.kvallocInit d a b) d 2 (s2.reads q (s.x a) 64)) ∧
      (touchesObject s1 pa 64 = false → poolTemplateOk p = false → Answers s (.kvallocInit d a b) d 3 (s2.reads q (s.x a) 64)) ∧
      (touchesObject s1 pa 64 = false → poolTemplateOk p = true → touchesPoison s1 pa 64 = false →
        pagesTake s1 q p.descBase (pageCount p.descBase (16 * p.ndesc)) = .ok () →
        pagesTake s1 q p.svtBase (pageCount p.svtBase (2 ^ p.svtLog)) = .ok () →
        Answers s (.kvallocInit d a b) d 0 (buildPool s2 q (s.x a) (physLe s1 pa 64) (leNat bs)))) ∧
    (∀ p, getPool s1 q (s.x a) Need.change = .ok p →
      ((s.x b).toNat % 4096 = 0 →
        (p.freeCnt = 0 → Answers s (.kvalloc d a b) d (BitVec.allOnes 64) r1) ∧
        (∀ s2 p2 k, p.freeCnt ≠ 0 → allocDesc s1 q p (nativeDesc p (s.x b)) = .ok (s2, p2, k) →
          Answers s (.kvalloc d a b) d (BitVec.ofNat 64 k) s2)) ∧
      (∀ e, getDesc s1 q p (s.x b).toNat Need.change = .ok e →
        let r2 := r1.reads q e.va 16
        (e.refcnt = 65535 → Answers s (.kvref d a b) d 0 r2) ∧
        (e.refcnt ≠ 65535 → ∀ pa, objectAt r2 q e.va Need.change = .ok pa → spaceOf pa ≠ .control → pa % 16 = 0 →
          ∃ t, exec (.kvref d a b) s = .next t ∧ Completed 4 s t ∧ ScalarWritten s t d (BitVec.ofNat 64 (e.refcnt + 1)) ∧
            SameButScalars s t ∧ physLe t pa 2 = e.refcnt + 1) ∧
        Answers s (.kvunref d a b) d (BitVec.ofNat 64 (e.refcnt - 1)) (releaseDesc r2 q p e).1) ∧
      ((s.x b).toNat < 2 ^ 32 → sourceOk p ((s.x b).toNat % 2 ^ 24) = true → ∀ v,
        versionOf s1 q p ((s.x b).toNat % 2 ^ 24) Need.change = .ok v →
        let at_ := BitVec.ofNat 64 (p.svtBase + (s.x b).toNat % 2 ^ 24)
        let set := (s.x b).toNat / 2 ^ 24
        let r2 := r1.reads q at_ 1
        Answers s (.kvsrcGet d a b) d (BitVec.ofNat 64 v) r2 ∧
        Answers s (.kvsrcSet d a b) d (BitVec.ofNat 64 set) (writeObject r2 q at_ 1 set) ∧
        Answers s (.kvsrcBump d a b) d (BitVec.ofNat 64 ((v + 1) % 256)) (writeObject r2 q at_ 1 ((v + 1) % 256)))) ∧
    (2 ^ 32 ≤ (s.x b).toNat → exec (.kvsrcGet d a b) s = .next (takeCause s1 (exc .bounds 26 (s.x b))))

/-- R351, R352, R353, R320. kvapp appends to the last page or opens a new one, and says when neither is possible; a shared last page raises
Copy on write; the status of kvspl and kvreq. kvreq requantises in two accesses to the table: the first converts the page, the second, in its
order among those of other parties, swaps the entry where it has not changed. The pages of what is read are marked. Each publishes the
stores of its party first.
Choices of the model in it: log entries 21, 31, 50. -/
def Obligations.BlockTableForms : Prop :=
  ∀ (s : State) (d a b : BitVec 5),
    let s1 := s.publish
    let q := s1.party
    (s.x a).toNat % 16 = 0 →
    (∀ t p, getTable s1 q (s.x a) Need.change = .ok t → getPool s1 q t.pool Need.change = .ok p →
      let u := (s1.reads q t.va 16).reads q t.pool 64
      let opens (w : State) : Prop :=
        (s.x b = 0 ∨ t.nent = t.cap ∨ p.freeCnt = 0 → Answers s (.kvapp d a b) d 0x100 w) ∧
        (∀ s2 p2 k, s.x b ≠ 0 → t.nent ≠ t.cap → p.freeCnt ≠ 0 → (s.x b).toNat % 4096 = 0 → entriesWritable w q t t.nent 1 = .ok () →
          allocDesc w q p (nativeDesc p (s.x b)) = .ok (s2, p2, k) → Answers s (.kvapp d a b) d 0
            (putCount (putEntries q t t.nent [entryValue ((s.x b).toNat / 4096) 0 1 0 0 k] s2) q t (t.nent + 1)))
      (t.nent = 0 → opens u) ∧
      (∀ e k, t.nent ≠ 0 → getEntry u q t (t.nent - 1) Need.change = .ok e →
        entryChecked u q p e (entryVa t (t.nent - 1)) Need.change = .ok k →
        let w := (u.reads q (entryVa t (t.nent - 1)) 16).reads q k.va 16
        (entryStart e + entryNtok e = p.ptok → opens w) ∧
        (entryStart e + entryNtok e ≠ p.ptok →
          (k.state = 2 ∨ k.state = 3 → Answers s (.kvapp d a b) d 0x200 w) ∧
          (k.state ≠ 2 → k.state ≠ 3 → 1 < k.refcnt →
            exec (.kvapp d a b) s = .next (takeCause w (exc .copyOnWrite 0 (entryVa t (t.nent - 1))))) ∧
          (k.state ≠ 2 → k.state ≠ 3 → k.refcnt ≤ 1 → tableWritable w q (entryVa t (t.nent - 1)) 16 = .ok () →
            Answers s (.kvapp d a b) d (BitVec.ofNat 64 (entryStart e + entryNtok e))
              (writeObject w q (entryVa t (t.nent - 1)) 16 (putField e 52 46 (entryNtok e + 1)))))) ∧
      (∀ r es, (s.x b).toNat % 16 = 0 → spliceRecord u q p (s.x b) = .ok r → getEntries u q t Need.change 0 t.nent = .ok es →
        entriesChecked u q p t 0 es = .ok () →
        let at_ := locate es 0 r.1
        let need := r.2.length + (if at_.1 < es.length ∧ 0 < at_.2 then 1 else 0)
        let v := descsRead q p (es.map entryDesc) ((u.reads q (s.x b) (16 + 16 * r.2.length)).readsTable q t t.nent)
        let z := r.2.foldl (fun s w => s.reads q (BitVec.ofNat 64 (p.svtBase + w.src)) 1) v
        ((es.map entryNtok).sum < r.1 → exec (.kvspl d a b) s = .next (takeCause u (exc .bounds 25 (BitVec.ofNat 64 r.1)))) ∧
        (r.1 ≤ (es.map entryNtok).sum →
          (t.cap < t.nent + need → Answers s (.kvspl d a b) d 1 v) ∧
          (t.nent + need ≤ t.cap → staleWord v q p r.2 = .ok true → Answers s (.kvspl d a b) d 2 z) ∧
          (t.nent + need ≤ t.cap → staleWord v q p r.2 = .ok false → p.freeCnt < r.2.length → Answers s (.kvspl d a b) d 3 z) ∧
          (t.nent + need ≤ t.cap → staleWord v q p r.2 = .ok false → r.2.length ≤ p.freeCnt →
            ∀ s2, splice z q t p es r.2 at_.1 at_.2 = .ok s2 → Answers s (.kvspl d a b) d 0 s2)))) ∧
    (∀ e r p k, s.requantHere = none → (s.x b).toNat % 32 = 0 → readObject s1 q (s.x a) 16 Need.change = .ok e → requantRecord s1 q (s.x b) = .ok r →
      getPool s1 q r.1 Need.change = .ok p → entryChecked s1 q p e (s.x a) Need.change = .ok k →
      let w := (((s1.reads q (s.x a) 16).reads q (s.x b) 32).reads q r.1 64).reads q k.va 16
      (k.state = 3 → Answers s (.kvreq d a b) d 2 w) ∧
      (k.state ≠ 3 → p.freeCnt = 0 → Answers s (.kvreq d a b) d 3 w) ∧
      (k.state ≠ 3 → p.freeCnt ≠ 0 → match requantise w q p (s.x a) e k r.2.1 r.2.2 with
        | .ok s2 => exec (.kvreq d a b) s = .next s2
        | .error x => exec (.kvreq d a b) s = .next (takeCause w x))) ∧
    (∀ r p x, s.requantHere = some r →
      let s2 := { s with core := { s.core with asked := false, answer := none, requant := none } }
      getPool s2 s2.party r.pool Need.change = .ok p → swapEntry s2 s2.party p (s.x a) r.entry r.page r.desc = .ok x →
      Answers s (.kvreq d a b) d (BitVec.ofNat 64 x.2) x.1)

/-- The gathers: form, destination, pool register, entry group, K or V (R355). -/
def gatherTable : Instr → Option (GatherForm × BitVec 6 × BitVec 5 × BitVec 6 × BitVec 1)
  | .kvg d b e m => some (.current, d, b, e, m)
  | .kvgStale d b e m => some (.stale, d, b, e, m)
  | .kvgRep d b e m => some (.repaired, d, b, e, m)
  | .kvgAny d b e m => some (.any, d, b, e, m)
  | _ => none

/-- R355, R356, R357. A gather whose fields are allowed and whose entries pass their checks writes the rows of its tokens to vd, zero where
there is none; one that waits for a repair parks its task; a Peer fault of any of its rows stands before every fault of reading them.
Choices of the model in it: log entries 6, 31. -/
def Obligations.GatherForms : Prop :=
  ∀ (s : State) (i : Instr) (form : GatherForm) (d : BitVec 6) (b : BitVec 5) (e : BitVec 6) (m : BitVec 1) (p : Pool),
    gatherTable i = some (form, d, b, e, m) →
    let g := gatherOf (s.ctx.getOx 6)
    let G := s.ctx.group
    s.inService = false → s.ctx.sew = 64 → s.ctx.vl.toNat % 2 = 0 → s.ctx.vl.toNat ≤ 1024 → s.ctx.vstart.toNat < s.ctx.vl.toNat → (s.ctx.getOx 6).toNat < 2 ^ 61 →
    g.span ≠ 0 → g.span % 8 = 0 → g.span ≤ G * 512 → groupHere s d G = true → groupHere s e G = true →
    disjointGroups (s.ctx.dest d) (s.ctx.dest e) = true → WellsAside s ⟨[s.ctx.dest d], [s.ctx.dest e], 0, none⟩ → Undisturbed s →
    (s.x b).toNat % 64 = 0 → getPool s s.party (s.x b) Need.object = .ok p →
    (∀ l v s1 seen, gatherPlan s form p g m.toNat e.toNat (g.tokens G) (s.ctx.vl.toNat / 2) 0 0 = .ok (.inl l) →
      l.findSome? (spanPeer s g.span) = none →
      gatherBytes g.span l (gatherReads form p (gatheredEntries s e.toNat g.pos (g.tokens G) (s.ctx.vl.toNat / 2) 0 0) s) [] 0 = .ok (v, s1, seen) →
      ∃ t, exec i s = .next t ∧ Completed 4 s1 t ∧ SameBytes s1 t ∧ t.ctx.vstart = 0 ∧ t.ctx.s = s.ctx.s ∧
        (∀ k, k < 64 → (k < d.toNat ∨ d.toNat + G ≤ k) → t.ctx.getV k = s.ctx.getV k) ∧
        ∀ k, k * 64 < G * 4096 → t.ctx.elem d.toNat 64 k = v / 2 ^ (64 * k) % 2 ^ 64) ∧
    (∀ k, gatherPlan s form p g m.toNat e.toNat (g.tokens G) (s.ctx.vl.toNat / 2) 0 0 = .ok (.inr k) →
      exec i s = .next (parkOnRepair (s.reads s.party k.va 16) k g.layer)) ∧
    (∀ l x, gatherPlan s form p g m.toNat e.toNat (g.tokens G) (s.ctx.vl.toNat / 2) 0 0 = .ok (.inl l) →
      l.findSome? (spanPeer s g.span) = some x →
      exec i s = .next (takeCause { s with ctx := { s.ctx with vstart := 0 } } x))

/-! ### Rake -/

/-- The job of a record of 64 bytes that rkjob puts in slot n (R358, R359, R118). -/
def jobOf (s : State) (n v : Nat) : RakeJob :=
  let ws := bytesToWords 8 (natBytes 64 v)
  { part := s.part, job := n, words := Vector.ofFn (fun i => ws[i.val]?.getD 0), threshold := s.lc.raketh, active := true, err := false,
    cancelled := false, started := false, layer := v / 2 ^ 256 % 256, pool := 0, pos := 0, entries := [], copies := [], selected := [],
    parked := false, advanced := false, tid := s.taskKey.2, serial := s.taskKey.1 }

/-- R358, R362. rkjob puts an accepted job in the lowest free slot and gives its number, 0x100 with no slot free, 0x200 for a refused job;
rkstat gives a job's status, 0 for a slot never used; rkcancel stops an active job and answers 0, and answers 1 where there is none. rkjob
and rkcancel publish the stores of their party first.
Choices of the model in it: log entries 21, 31. -/
def Obligations.RakeForms : Prop :=
  ∀ (s : State) (d a : BitVec 5),
    let s1 := s.publish
    (∀ v, (s.x a).toNat % 64 = 0 → readObject s1 s1.party (s.x a) 64 Need.object = .ok v →
      let s2 := s1.reads s1.party (s.x a) 64
      (freeJob s2 s2.part = none → Answers s (.rkjob d a) d 0x100 s2) ∧
      (∀ n, freeJob s2 s2.part = some n →
        (acceptJob s2 (jobOf s2 n v) (s.x a) = none → ∃ t, exec (.rkjob d a) s = .next t ∧ Completed 4 s t ∧ SameButScalars s t ∧
          ScalarWritten s t d (BitVec.ofNat 64 n) ∧ t.job s2.part n = some (jobOf s2 n v) ∧
          SameBytes (s2.reads s2.party (jobOf s2 n v).table 16) t ∧ t.pending = s2.pending ++ [.rakeJobStart s2.part n]) ∧
        (∀ e, acceptJob s2 (jobOf s2 n v) (s.x a) = some e → ¬(e.cause = .translationNotPresent ∧ e.sub = 0) →
          exec (.rkjob d a) s = .next ((rakeRecord s2 (jobOf s2 n v) e.cause.code e.sub e.addr).setX d 0x200).finished))) ∧
    ((s.x a).toNat < 64 →
      (∀ j, s.job s.part (s.x a).toNat = some j → ∃ t, exec (.rkstat d a) s = .next t ∧ ScalarDone 4 d (jobStatus s j) s t) ∧
      (s.job s.part (s.x a).toNat = none → ∃ t, exec (.rkstat d a) s = .next t ∧ ScalarDone 4 d 0 s t) ∧
      (∀ j, s1.job s1.part (s.x a).toNat = some j → j.active = true →
        exec (.rkcancel d a) s = .next ((stopJob s1 j false).setX d 0).finished) ∧
      ((∀ j, s1.job s1.part (s.x a).toNat = some j → j.active = false) → Answers s (.rkcancel d a) d 1 s1)) ∧
    (64 ≤ (s.x a).toNat → exec (.rkstat d a) s = .next (takeCause s (exc .bounds 0 (s.x a))) ∧
      exec (.rkcancel d a) s = .next (takeCause s1 (exc .bounds 0 (s.x a))))

/-! ### Events: the turns that no instruction word names (chapters 1 to 18 of the spec say what each does) -/

/-- The state in which a message has been taken: it is no longer under way, and the next open value is another one. -/
def taken (e : Event) (s : State) : State := { s.fresh with pending := s.pending.erase e }

/-- The events that are messages or times under way. -/
def messageOf : Instr → Option Event
  | .panClaim c n => some (.panClaim c n)
  | .panPreparationDone c n => some (.panPreparationDone c n)
  | .creationMessage c n t r => some (.creationMessage c n t r)
  | .endMessage c n t => some (.endMessage c n t)
  | .tspawnRequest c q n g => some (.tspawnRequest c q n g)
  | .gjoinRequest c q n k => some (.gjoinRequest c q n k)
  | .wqryRequest c q n l p o => some (.wqryRequest c q n l p o)
  | .wqryOpenRequest c n l x => some (.wqryOpenRequest c n l x)
  | .trestartRequest c g l t => some (.trestartRequest c g l t)
  | .sluiceReply c q x => some (.sluiceReply c q x)
  | .preemptionMessage c n => some (.preemptionMessage c n)
  | .preemptionAcknowledgement c n => some (.preemptionAcknowledgement c n)
  | .resumptionMessage c n => some (.resumptionMessage c n)
  | .stallPromisePassed c => some (.stallPromisePassed c)
  | .tokenWake c k x => some (.tokenWake c k x)
  | .tokenRegistration h w c k => some (.tokenRegistration h w c k)
  | .timerTokenReady c k => some (.timerTokenReady c k)
  | .awaitTimeout c k => some (.awaitTimeout c k)
  | .waituntilTime c k => some (.waituntilTime c k)
  | .backgroundRestore c => some (.backgroundRestore c)
  | .backgroundRestoreDone c => some (.backgroundRestoreDone c)
  | .mobileRecord c k g => some (.mobileRecord c k g)
  | .delegation c i q p v b => some (.delegation c i q p v b)
  | .activeMessage c i p v b => some (.activeMessage c i p v b)
  | .delegationReply c q x => some (.delegationReply c q x)
  | .serviceRoutineTimeout c => some (.serviceRoutineTimeout c)
  | .gangJoin c m q n l k => some (.gangJoin c m q n l k)
  | .gangFormationTimeout c => some (.gangFormationTimeout c)
  | .gangOperandMessage c x => some (.gangOperandMessage c x)
  | .vamoElementArrival c n t => some (.vamoElementArrival c n t)
  | .ldaDataArrival c i => some (.ldaDataArrival c i)
  | .transferComplete c h i => some (.transferComplete c h i)
  | .channelCellResume c h => some (.channelCellResume c h)
  | .storeBufferDrain c => some (.storeBufferDrain c)
  | .durableStoreAccept n => some (.durableStoreAccept n)
  | .persistAcknowledgement n => some (.persistAcknowledgement n)
  | .queueWaiterWake c k => some (.queueWaiterWake c k)
  | .waiterTableRetry c k => some (.waiterTableRetry c k)
  | .wireBarrierRelease n => some (.wireBarrierRelease n)
  | .barrierTimeout c k => some (.barrierTimeout c k)
  | .presenceStoreLanding c o v => some (.presenceStoreLanding c o v)
  | .deferredArrival c h i => some (.deferredArrival c h i)
  | .postedSignalRefused c w p n t => some (.postedSignalRefused c w p n t)
  | .fabricStoreAcknowledgement n => some (.fabricStoreAcknowledgement n)
  | .leaseExpiry n => some (.leaseExpiry n)
  | .retentionEntry c p => some (.retentionEntry c p)
  | .retentionExit c p => some (.retentionExit c p)
  | .rakeJobStart p j => some (.rakeJobStart p j)
  | .rakeLayerAdvance p j => some (.rakeLayerAdvance p j)
  | .rakeCopyResume p j => some (.rakeCopyResume p j)
  | .hostBiResponse n => some (.hostBiResponse n)
  | .mapOutDone c => some (.mapOutDone c)
  | _ => none

/-- R55-R60, R148, R212, R307-R313, R366, R445. Sluice and the launches: a message that is not under way does nothing (log entry 4), and a
query is served when it is the first of those under way (R445); what each does to a launch it knows or does not know. A creation waits for
the pans of its launch to be prepared; one that a full core gets goes back; the last task ends its launch. The word of a wqry is a presence
store, which its reply follows: where the pan refuses it, the reply carries Protection. A held tspawn takes no TID.
Choices of the model in it: log entries 4, 18, 37, 39, 62. -/
def Obligations.LaunchMessages : Prop :=
  (∀ (s : State) (i : Instr) (e : Event), messageOf i = some e → e ∉ s.pending → exec i s = .next s) ∧
  (∀ (s : State) (core serial tid seq : Nat) (restart : Bool), s.launchOf serial = none →
    let first (e : Event) : Prop := s.pending.find? isQuery = some e
    (.creationMessage core serial tid restart ∈ s.pending → .panClaim core serial ∉ s.pending →
      exec (.creationMessage core serial tid restart) s = .next (taken (.creationMessage core serial tid restart) s)) ∧
    (.panClaim core serial ∈ s.pending → (s.coreOf core).closed = false →
      exec (.panClaim core serial) s = .next (taken (.panClaim core serial) s)) ∧
    (.panPreparationDone core serial ∈ s.pending →
      exec (.panPreparationDone core serial) s = .next (taken (.panPreparationDone core serial) s)) ∧
    (.resumptionMessage core serial ∈ s.pending → (s.coreOf core).closed = false →
      exec (.resumptionMessage core serial) s = .next (taken (.resumptionMessage core serial) s)) ∧
    (first (.endMessage core serial tid) → ∃ t, exec (.endMessage core serial tid) s = .next t ∧ t.launchOf serial = none ∧
      t.mem = s.mem) ∧
    (∀ target, first (.tspawnRequest core seq serial target) → exec (.tspawnRequest core seq serial target) s
      = .next (replyTo (taken (.tspawnRequest core seq serial target) s) core seq 0x200)) ∧
    (∀ count, first (.gjoinRequest core seq serial count) → exec (.gjoinRequest core seq serial count) s
      = .next (replyTo (taken (.gjoinRequest core seq serial count) s) core seq 0x200)) ∧
    (∀ list place off, first (.wqryRequest core seq serial list place off) → exec (.wqryRequest core seq serial list place off) s
      = .next (replyTo (taken (.wqryRequest core seq serial list place off) s) core seq 0x200)) ∧
    (∀ list extent, first (.wqryOpenRequest core serial list extent) → exec (.wqryOpenRequest core serial list extent) s
      = .next (answerCore (taken (.wqryOpenRequest core serial list extent) s) core 2))) ∧
  (∀ (s : State) (core serial tid seq : Nat) (restart : Bool) (l : Launch), s.launchOf serial = some l →
    let first (e : Event) : Prop := s.pending.find? isQuery = some e
    (.creationMessage core serial tid restart ∈ s.pending → .panClaim core serial ∉ s.pending →
      let u := taken (.creationMessage core serial tid restart) s
      let c : Created := ⟨serial, tid, s.cyc, restart⟩
      let free : Prop := (s.coreOf core).closed = false ∧ (s.coreOf core).created.length < 64
      (free → (s.coreOf core).preparing.contains serial = false →
        exec (.creationMessage core serial tid restart) s = .next (enterCreated u core c)) ∧
      (free → (s.coreOf core).preparing.contains serial = true → exec (.creationMessage core serial tid restart) s
        = .next (u.setCore core { u.coreOf core with heldCreations := (u.coreOf core).heldCreations ++ [c] })) ∧
      (¬free → exec (.creationMessage core serial tid restart) s
        = .next { u with returned := u.returned ++ [.creationMessage core serial tid restart] })) ∧
    (.panClaim core serial ∈ s.pending → (s.coreOf core).closed = false → ∃ t, exec (.panClaim core serial) s = .next t ∧
      serial ∈ (t.coreOf core).preparing ∧ .panPreparationDone core serial ∈ t.pending ∧ SameBytes s t ∧
      ∀ p : Fin 16, (t.coreOf core).claims[p] = if l.panMask.testBit p.val then some serial else (s.coreOf core).claims[p]) ∧
    (.panPreparationDone core serial ∈ s.pending → ∃ t, exec (.panPreparationDone core serial) s = .next t ∧
      serial ∉ (t.coreOf core).preparing ∧
      ∀ c ∈ (s.coreOf core).heldCreations, c.serial = serial → .creationMessage core serial c.tid c.restart ∈ t.pending) ∧
    (first (.endMessage core serial tid) →
      let s1 := answerJoins (mapLaunch (taken (.endMessage core serial tid) s) serial (fun l => { l with ended := l.ended + 1 })) serial
      (l.ended + 1 < l.tcount → l.nextTid < l.tcount → exec (.endMessage core serial tid) s
        = .next (sendCreation (mapLaunch s1 serial (fun l => { l with nextTid := l.nextTid + 1 })) core serial l.nextTid false)) ∧
      (l.ended + 1 < l.tcount → l.tcount ≤ l.nextTid → exec (.endMessage core serial tid) s = .next s1) ∧
      (l.tcount ≤ l.ended + 1 → ∀ m, s1.launchOf serial = some m → exec (.endMessage core serial tid) s = .next (endLaunch s1 m))) ∧
    (∀ target, first (.tspawnRequest core seq serial target) →
      let u := taken (.tspawnRequest core seq serial target) s
      let k := s.coreOf target
      let place : Prop := l.nextTid < l.tcount ∧ l.cores.contains target = true
      let free : Prop := k.closed = false ∧ k.created.length < 64 ∧ k.preparing.contains serial = false ∧ .panClaim target serial ∉ s.pending
      (place → free → exec (.tspawnRequest core seq serial target) s = .next (replyTo (enterCreated
        (mapLaunch u serial (fun l => { l with nextTid := l.nextTid + 1 })) target ⟨serial, l.nextTid, s.cyc, false⟩) core seq 0)) ∧
      (place → ¬free → exec (.tspawnRequest core seq serial target) s
        = .next { u with returned := u.returned ++ [.tspawnRequest core seq serial target] }) ∧
      (¬place → exec (.tspawnRequest core seq serial target) s = .next (replyTo u core seq 0x200))) ∧
    (∀ count, first (.gjoinRequest core seq serial count) →
      let u := taken (.gjoinRequest core seq serial count) s
      (l.tcount ≤ count → exec (.gjoinRequest core seq serial count) s = .next (replyTo u core seq 0x200)) ∧
      (count < l.tcount → count ≤ l.ended → exec (.gjoinRequest core seq serial count) s = .next (replyTo u core seq 0)) ∧
      (count < l.tcount → l.ended < count → exec (.gjoinRequest core seq serial count) s
        = .next (mapLaunch u serial (fun l => { l with joins := l.joins ++ [(core, seq, count)] })))) ∧
    (∀ list w place off, first (.wqryRequest core seq serial list place off) → l.lists[list]?.getD none = some w →
      let u := mapLaunch (taken (.wqryRequest core seq serial list place off) s) serial
        (fun l => { l with lists := l.lists.setIfInBounds list (some { w with next := w.next + 1 }) })
      exec (.wqryRequest core seq serial list place off) s = .next (sendReplyWord u l core seq place off (workWord w list))) ∧
    (∀ list extent, first (.wqryOpenRequest core serial list extent) →
      let u := taken (.wqryOpenRequest core serial list extent) s
      (∀ w, l.lists[list]?.getD none = some w → exec (.wqryOpenRequest core serial list extent) s
        = .next (answerCore u core (if w.extent = extent then 1 else 2))) ∧
      (l.lists[list]?.getD none = none → exec (.wqryOpenRequest core serial list extent) s = .next (answerCore
        (mapLaunch u serial (fun l => { l with lists := l.lists.setIfInBounds list (some ⟨extent, 0⟩) })) core 0)))) ∧
  (∀ (s : State) (core target lid tid : Nat), s.pending.find? isQuery = some (.trestartRequest core target lid tid) →
    let u := taken (.trestartRequest core target lid tid) s
    (s.launches.find? (fun l => l.lid.toNat = lid) = none →
      exec (.trestartRequest core target lid tid) s = .next (answerCore u core 1)) ∧
    (∀ l, s.launches.find? (fun l => l.lid.toNat = lid) = some l →
      let lost : Prop := l.restart = true ∧ l.lostTids.contains tid = true ∧ u.pending.any (endsTask l.serial tid) = false
      (¬lost → exec (.trestartRequest core target lid tid) s = .next (answerCore u core 2)) ∧
      (lost → 64 ≤ (s.coreOf target).created.length ∨ freeEntries s target = 0 →
        exec (.trestartRequest core target lid tid) s = .next (answerCore u core 3)) ∧
      (lost → (s.coreOf target).created.length < 64 → freeEntries s target ≠ 0 → exec (.trestartRequest core target lid tid) s = .next (answerCore (sendCreation
        (mapLaunch u l.serial (fun l => { l with lostTids := setDrop l.lostTids tid, ended := l.ended - 1 })) target l.serial tid true)
        core 0)))) ∧
  (∀ (s : State) (core seq err : Nat),
    let under := s.flights.any (fun f => f.sender = sluiceSender core ∧ f.tid = seq)
    (under = true → exec (.sluiceReply core seq err) s = .next s) ∧
    (under = false → .sluiceReply core seq err ∈ s.pending → (s.coreOf core).closed = false →
      ∃ t, exec (.sluiceReply core seq err) s = .next t ∧ (seq, BitVec.ofNat 24 err) ∈ (t.coreOf core).replies) ∧
    (∀ place off w f k, .presenceStoreLanding place off w ∈ s.pending → landingFlight s place off w = some f →
      f.sender = sluiceSender core → f.tid = seq → f.stamp = none → panAwake s place (off / 65536) = true → arrivalRefusal s f = some k →
      .sluiceReply core seq 0 ∈ s.pending → ∃ t, exec (.presenceStoreLanding place off w) s = .next t ∧ SameBytes s t ∧
        .sluiceReply core seq (5 + k * 256) ∈ t.pending)) ∧
  (∀ (s : State) (part order : Nat),
    exec (.launchDequeue part) s = .next (dequeueLaunch (taken (.launchDequeue part) s) part) ∧
    (let u := taken (.launchCancel order) s
     (s.pendingLaunches.find? (fun p => p.order = order) = none → exec (.launchCancel order) s = .next u) ∧
     (∀ p, s.pendingLaunches.find? (fun p => p.order = order) = some p →
       (failedDependence u p.part (p.launch u).deps = none → exec (.launchCancel order) s = .next u) ∧
       (∀ tok code sub, failedDependence u p.part (p.launch u).deps = some (tok, code, sub) → exec (.launchCancel order) s
         = .next (signalDone (sluiceRecord { u with pendingLaunches := u.pendingLaunches.filter (fun q => q.order ≠ order),
                                                    pending := u.pending ++ [.launchDequeue p.part] }
             (p.launch u) code sub tok (p.launch u).lid.toNat) (p.launch u) true)))))

/-- R32, R45, R49, R57, R61-R64, R67, R68, R69, R419. The scheduler and management's messages to cores: pre-emption and resumption, the
quantum, stalls, background restores, the mobile record, the ranking table, the cache limit, levelling, the round of reports.
Choices of the model in it: log entries 4, 39, 43, 44, 58, 61, 65. -/
def Obligations.SchedulingEvents : Prop :=
  (∀ (s : State) (core serial : Nat) (l : Launch), s.launchOf serial = some l →
    (.preemptionMessage core serial ∈ s.pending → (s.coreOf core).service = none → (s.coreOf core).asked = false →
      (s.coreOf core).closed = false → .resumptionMessage core serial ∉ s.pending → .panClaim core serial ∉ s.pending →
      let q := (taken (.preemptionMessage core serial) s).onCore core (fun s => quiesceHere s l)
      exec (.preemptionMessage core serial) s = .next { q with pending := q.pending ++ [.preemptionAcknowledgement core serial] }) ∧
    (.preemptionAcknowledgement core serial ∈ s.pending → copiesInto s core l.panMask = false →
      (launchPans s core serial).all (fun x => panAwake s x.1 x.2) = true → exec (.preemptionAcknowledgement core serial) s
        = .next (acknowledge ((taken (.preemptionAcknowledgement core serial) s).onCore core (fun s => saveHere s l)) core serial)) ∧
    (.resumptionMessage core serial ∈ s.pending → (s.coreOf core).closed = false → exec (.resumptionMessage core serial) s
      = .next (mapLaunch ((taken (.resumptionMessage core serial) s).onCore core (fun s => resumeHere s l)) serial
          (fun l => match l.preempted with
            | .resuming w =>
              let rest := w.filter (fun c => c ≠ core)
              { l with preempted := if rest.isEmpty then .no else .resuming rest }
            | _ => l)))) ∧
  (∀ (s : State) (core : Nat),
    (quantumOver (s.coreOf core) s.cyc = true → exec (.quantumExpiry core) s = .next (s.onCore core expireHere)) ∧
    (quantumOver (s.coreOf core) s.cyc = false → exec (.quantumExpiry core) s = .next s) ∧
    (∀ x p w, .stallPromisePassed core ∈ s.pending → (s.coreOf core).run = .stalled x p w → p.toNat < s.cyc.toNat →
      let u := taken (.stallPromisePassed core) s
      let cores := if (gangMembers u x).isEmpty then [core] else (gangMembers u x).map (fun m => m.1)
      exec (.stallPromisePassed core) s = .next (cores.foldl (fun s c => s.onCore c suspendStalled)
        { u with pending := u.pending.filter (fun e => !cores.any (fun c => e = Event.stallPromisePassed c)) })) ∧
    (.backgroundRestore core ∈ s.pending →
      exec (.backgroundRestore core) s = .next ((taken (.backgroundRestore core) s).onCore core beginRestore)) ∧
    (.backgroundRestoreDone core ∈ s.pending → ∃ t, exec (.backgroundRestoreDone core) s = .next t ∧ (t.coreOf core).restoring = none) ∧
    (∀ table, ∃ t, exec (.thermalRankingTable core table) s = .next t ∧ (t.coreOf core).ranking = table.take 16) ∧
    (isCool s (s.coreOf core) = true → ∃ t, exec (.thermalCclimStep core false) s = .next t ∧
      (t.coreOf core).cclim = (if (s.coreOf core).cclim < (s.coreOf core).cclimSet then (s.coreOf core).cclim + 1
        else (s.coreOf core).cclim)) ∧
    (isCool s (s.coreOf core) = false → exec (.thermalCclimStep core false) s = .next (s.onCore core id)) ∧
    (isHot s (s.coreOf core) = true → exec (.thermalCclimStep core true) s = .next (s.onCore core (fun s => shrinkCache 65
      { s with core := { s.core with cclim := if 2 < s.core.cclim then s.core.cclim - 1 else s.core.cclim } }))) ∧
    (isHot s (s.coreOf core) = false → exec (.thermalCclimStep core true) s = .next (s.onCore core id)) ∧
    (∀ csr value, csr = 0x042 ∨ csr = 0x043 ∨ csr = 0x044 →
      exec (.mailboxCsrWrite core csr value) s = .next (s.onCore core (fun s => s.csrStore csr value))) ∧
    (∀ slot target, .mobileRecord core slot target ∈ s.pending →
      let u := taken (.mobileRecord core slot target) s
      let v := u.switchTo core
      let becomes (f : State → State) : Prop := exec (.mobileRecord core slot target) s = .next (u.onCore core f)
      ((cached v.core.tasks).find? (fun r => r.info.slot = slot) = none → becomes id) ∧
      (∀ r, (cached v.core.tasks).find? (fun r => r.info.slot = slot) = some r →
        (mayMove v r = false → becomes (fun s => evict s r)) ∧
        (mayMove v r = true → acceptsRecord v target r = true → becomes (fun s => moveRecord s r target)) ∧
        (mayMove v r = true → acceptsRecord v target r = false →
          (∀ c, nextInTable target v.core.ranking = some c → becomes (fun s => { s with pending := s.pending ++ [.mobileRecord core slot c] })) ∧
          (nextInTable target v.core.ranking = none → becomes (fun s => evict s r)))))) ∧
  (∀ (s : State) (die : Nat), (s.levelled.filter (fun x => homeDie x.1 = die) = [] → exec (.levellingVisit die) s = .next s) ∧
    (∀ x k, s.levelled.filter (fun x => homeDie x.1 = die) = [x] → qcbFailure s x.1 = some k →
      exec (.levellingVisit die) s = .next (reportCorrupt s x.2 0 8 k (BitVec.ofNat 64 x.1))) ∧
    (∀ x, s.levelled.filter (fun x => homeDie x.1 = die) = [x] → qcbFailure s x.1 = none → qMode (readQcb s x.1) = 2 →
      fieldOf (readQcb s x.1) 76 76 = 0 →
      exec (.levellingVisit die) s = .next ((List.range (qSegs (readQcb s x.1))).foldl (levelSegment x.2 x.1) s))) ∧
  (∀ s : State, (s.rounds ≤ s.cyc.toNat / 1024 → exec .reportRound s = .next (reportRound s)) ∧
    (s.cyc.toNat / 1024 < s.rounds → exec .reportRound s = .next s))

/-- R32, R36, R45, R63, R70, R155, R194, R267, R279, R294, R366, R371, R372, R377, R378, R380, R383. Tokens, transfers, delegations and
gangs: what wakes a task, what lands in a register, what a timeout does, what a message to a core leaves there.
A wake for a rendezvous error stands, also where the phase has been reached by then. A gang operand message is discarded where no
instruction of its task consumes it, and at a core that is being contained.
Choices of the model in it: log entries 4, 23, 27, 35, 39, 46, 60. -/
def Obligations.TokenEvents : Prop :=
  (∀ (s : State) (core slot : Nat) (x : TaskInfo) (w : Wait), slotWait s core slot = some (x, w) →
    let ends (e : Event) (i : Instr) (f : State → Wait → Wait) : Prop :=
      exec i s = .next (wakeSlot (taken e s) core slot (f (taken e s)))
    (∀ err, .tokenWake core slot err ∈ s.pending → (s.coreOf core).closed = false →
      ends (.tokenWake core slot err) (.tokenWake core slot err) (fun u _ => wakeOutcome u core x w err)) ∧
    (.timerTokenReady core slot ∈ s.pending → (readyToken s (x.asks core) (fun u => tokKind u = 6) w.tokens).isSome = true →
      ends (.timerTokenReady core slot) (.timerTokenReady core slot) (fun u _ => wakeOutcome u core x w 0)) ∧
    (.awaitTimeout core slot ∈ s.pending → awtoOf s core x.serial ≤ s.cyc.toNat - w.t0.toNat →
      (firstReady (taken (.awaitTimeout core slot) s) (x.asks core) w.tokens 0 = none →
        ends (.awaitTimeout core slot) (.awaitTimeout core slot) (fun _ w => { w with timedOut := true, isOver := true })) ∧
      (∀ k err, firstReady (taken (.awaitTimeout core slot) s) (x.asks core) w.tokens 0 = some (k, err) →
        ends (.awaitTimeout core slot) (.awaitTimeout core slot) (fun u _ => wakeOutcome u core x w err))) ∧
    (.waituntilTime core slot ∈ s.pending → w.till.toNat ≤ s.cyc.toNat →
      ends (.waituntilTime core slot) (.waituntilTime core slot) (fun _ w => { w with isOver := true })) ∧
    (.waiterTableRetry core slot ∈ s.pending → w.retry.toNat ≤ s.cyc.toNat →
      let u := taken (.waiterTableRetry core slot) s
      (w.kind ≠ .await → w.kind ≠ .awaitT → w.kind ≠ .awaitAny →
        ends (.waiterTableRetry core slot) (.waiterTableRetry core slot) (fun _ w => { w with isOver := true })) ∧
      (w.kind = .await ∨ w.kind = .awaitT ∨ w.kind = .awaitAny →
        ((∃ err, .tokenWake core slot err ∈ s.pending) → exec (.waiterTableRetry core slot) s = .next u) ∧
        ((∀ err, .tokenWake core slot err ∉ s.pending) →
          let alone : Prop := gangMembers u x = [] ∧ ∀ y ∈ s.waiters, ¬(y.core = core ∧ y.slot = slot)
          (alone → exec (.waiterTableRetry core slot) s
            = .next (wakeSlot (mapStarted u core x.serial x.tid (fun t => { t with waitFrom := some w.t0 }) id) core slot
              (fun w => { w with kind := .tableFull, isOver := true }))) ∧
          (¬alone → exec (.waiterTableRetry core slot) s = .next (retryMember u core slot x w))))) ∧
    (∀ tok dl, .barrierTimeout core slot ∈ s.pending → x.arrival = some (tok, dl) → dl.toNat ≤ s.cyc.toNat →
      let u := taken (.barrierTimeout core slot) s
      (tokenReady u (x.asks core) tok = none → exec (.barrierTimeout core slot) s = .next (wakeSlot
        (mapStarted u core x.serial x.tid (fun t => { expireBarrier t tok with due := some (.barrierTimeout, 0, tok) }) id) core slot
        (fun w => { w with timedOut := true, isOver := true }))) ∧
      (∀ e, tokenReady u (x.asks core) tok = some e →
        ends (.barrierTimeout core slot) (.barrierTimeout core slot) (fun u _ => wakeOutcome u core x w e))) ∧
    (∀ home token, .tokenRegistration home token core slot ∈ s.pending → (s.coreOf home).closed = false →
      let u := taken (.tokenRegistration home token core slot) s
      (∀ e, tokenReady u (x.asks core) token = some e → exec (.tokenRegistration home token core slot) s
        = .next (u.sendStamped (dieOf home) (dieOf core) (some (.tokenWake core slot e)))) ∧
      (tokenReady u (x.asks core) token = none → ∃ t, exec (.tokenRegistration home token core slot) s = .next t ∧
        ∃ y ∈ t.waiters, y.on = .token token ∧ y.core = core ∧ y.slot = slot))) ∧
  (∀ (s : State) (core slot : Nat), .queueWaiterWake core slot ∈ s.pending → (s.coreOf core).closed = false →
    exec (.queueWaiterWake core slot) s
      = .next (wakeSlot (taken (.queueWaiterWake core slot) s) core slot (fun w => { w with isOver := true }))) ∧
  (∀ (s : State) (core issuer seq part : Nat) (priv : Bool) (block : List (BitVec 64)),
    (.delegation core issuer seq part priv block ∈ s.pending →
      let u := taken (.delegation core issuer seq part priv block) s
      (routineRefusal s core block = none → (s.coreOf core).routines.length < 16 →
        exec (.delegation core issuer seq part priv block) s = .next (acceptRoutine u core ⟨issuer, some seq, part, priv, block⟩)) ∧
      (∀ c k, routineRefusal s core block = some (c, k) → exec (.delegation core issuer seq part priv block) s
        = .next { u with pending := u.pending ++ [.delegationReply issuer seq (c.code + k * 256)] })) ∧
    (.activeMessage core issuer part priv block ∈ s.pending →
      let u := taken (.activeMessage core issuer part priv block) s
      (routineRefusal s core block = none → (s.coreOf core).routines.length < 16 →
        exec (.activeMessage core issuer part priv block) s = .next (acceptRoutine u core ⟨issuer, none, part, priv, block⟩)) ∧
      (∀ c k, routineRefusal s core block = some (c, k) → exec (.activeMessage core issuer part priv block) s
        = .next (report u { code := c.code, sub := k, source := 9, core := core, part := part, epc := block.headD 0 }))) ∧
    (∀ err, .delegationReply core seq err ∈ s.pending → (s.coreOf core).closed = false →
      ∃ t, exec (.delegationReply core seq err) s = .next t ∧ (seq, BitVec.ofNat 24 err) ∈ (t.coreOf core).replies) ∧
    (∀ v, .serviceRoutineTimeout core ∈ s.pending → (s.coreOf core).service = some v →
      (s.coreOf core).qntm.toNat ≤ s.cyc.toNat - v.start.toNat → (s.coreOf core).asked = false →
      exec (.serviceRoutineTimeout core) s
        = .next ((taken (.serviceRoutineTimeout core) s).onCore core (fun s => failRoutine s (exc .awaitTimeout 0 0))))) ∧
  (∀ (s : State) (core member seq serial leaderTid index : Nat), .gangJoin core member seq serial leaderTid index ∈ s.pending →
    ∀ x l, joiner (s.coreOf member) serial seq = some x → s.launchOf serial = some l →
    let u := taken (.gangJoin core member seq serial leaderTid index) s
    let j : GangJoin := ⟨serial, leaderTid, index, member, x.tid, seq⟩
    let fits : Prop := (tasksOf (s.coreOf core)).contains (serial, leaderTid) = true ∧ l.cores.contains member = true ∧
      (s.coreOf core).closed = false ∧
      (joinsFor u core serial leaderTid).any (fun i => i.core = member ∧ (i.place u).isSome ∧ i.place u = j.place u) = false ∧
      leads (s.coreOf core) serial leaderTid member = false
    (fits → exec (.gangJoin core member seq serial leaderTid index) s
      = .next (formGang (u.setCore core { u.coreOf core with joins := (u.coreOf core).joins ++ [j] }) core serial leaderTid)) ∧
    (¬fits → exec (.gangJoin core member seq serial leaderTid index) s = .next (failJoin u j))) ∧
  (∀ (s : State) (core : Nat),
    (.gangFormationTimeout core ∈ s.pending → expiredLeaders s core ≠ [] →
      let u := taken (.gangFormationTimeout core) s
      exec (.gangFormationTimeout core) s
        = .next (failOrphans ((expiredLeaders u core).foldl (fun s l => failFormation s core l) u) core)) ∧
    (∀ chunk, .gangOperandMessage core chunk ∈ s.pending →
      ((s.coreOf core).containing = none → chunkWanted s core chunk = true → ∃ t, exec (.gangOperandMessage core chunk) s = .next t ∧
        (t.coreOf core).ring = (s.coreOf core).ring ++ [chunk]) ∧
      (¬((s.coreOf core).containing = none ∧ chunkWanted s core chunk = true) →
        exec (.gangOperandMessage core chunk) s = .next (taken (.gangOperandMessage core chunk) s))) ∧
    (∀ serial tid, .vamoElementArrival core serial tid ∈ s.pending → exec (.vamoElementArrival core serial tid) s
      = .next ((taken (.vamoElementArrival core serial tid) s).onCore core (fun s =>
          let t := landVamoElement s serial tid
          if t.core.vamos.any (fun v => v.serial = serial ∧ v.tid = tid) then
            { t with pending := t.pending ++ [.vamoElementArrival core serial tid] } else t))) ∧
    (∀ id, .ldaDataArrival core id ∈ s.pending → exec (.ldaDataArrival core id) s
      = .next ((taken (.ldaDataArrival core id) s).onCore core (fun s => landLoad s (BitVec.ofNat 32 id)))) ∧
    (∀ ch id, .transferComplete core ch id ∈ s.pending → (transferPans s core ch id).all (fun x => panAwake s x.1 x.2) = true →
      exec (.transferComplete core ch id) s = .next (transferComplete core ch id (taken (.transferComplete core ch id) s))) ∧
    (∀ ch : Fin 4, .channelCellResume core ch.val ∈ s.pending → (s.coreOf core).closed = true →
      exec (.channelCellResume core ch.val) s = .next s) ∧
    (∀ ch : Fin 4, .channelCellResume core ch.val ∈ s.pending → (s.coreOf core).closed = false → ∃ t, exec (.channelCellResume core ch.val) s = .next t ∧
      ∀ x ∈ (t.coreOf core).chans[ch].out, x.parked = false) ∧
    (∀ well, exec (.wellRefillLanding core well) s = .next (s.onCore core (refillAhead well.toNat))) ∧
    (∀ (ch : Fin 4) (id : Nat) (x : Transfer) (rest : List Transfer) (va tok : Word) (par : Bool) (gen : BitVec 16),
      .deferredArrival core ch.val id ∈ s.pending → (s.coreOf core).chans[ch].out = x :: rest → x.id = BitVec.ofNat 32 id →
      x.job = .arrive va par gen tok → x.parked = false → exec (.deferredArrival core ch.val id) s
        = .next ((taken (.deferredArrival core ch.val id) s).onCore core
            (fun s => runArrival s ch x va par gen tok)))) ∧
  (∀ (s : State) (line : Nat), .wireBarrierRelease line ∈ s.pending → (lineOf s line).arrived ≠ [] →
    (∀ e ∈ enrolled s, e.1 = line → (lineOf s line).hasArrived e.2 = true) → ∃ t, exec (.wireBarrierRelease line) s = .next t ∧
      (lineOf t line).arrived = [] ∧ (lineOf t line).phase = (lineOf s line).phase + 1 ∧
      ∀ p, p ∈ (lineOf t line).released ↔ ∃ a ∈ (lineOf s line).arrived, a.2 = p) ∧
  (∀ (s : State) (core : Nat) (token epc : BitVec 64) (serial tid : Nat), .postedSignalRefused core token epc serial tid ∈ s.pending →
    let u := taken (.postedSignalRefused core token epc serial tid) s
    let kept := (s.coreOf core).posted.find? (fun p => p.token = token ∧ p.pc = epc ∧ p.serial = serial ∧ p.tid = tid)
    (kept = none → exec (.postedSignalRefused core token epc serial tid) s = .next u) ∧
    (∀ p, kept = some p → exec (.postedSignalRefused core token epc serial tid) s
      = .next (report (u.setCore core { u.coreOf core with posted := (u.coreOf core).posted.erase p })
          { code := Cause.invalidToken.code, sub := 2, source := 11, lid := p.lid, tid := tid, core := core, part := p.part,
            epc := epc, eaddr := token, tag := p.tag })))

/-- R63, R147, R217-R219, R225, R246, R250-R252, R337, R358-R362, R392. Memory, the durable tier, the fabric, scratchpads, the Rake and
containment: when a message of each kind lands, and what it leaves; a presence store that its target refuses makes its sender raise
Protection. The Rake writes RTL in one turn and starts the next layer, or ends the job, in another.
Choices of the model in it: log entries 4, 13, 18, 21, 24, 27. -/
def Obligations.MemoryEvents : Prop :=
  (∀ (s : State) (core off : Nat) (v : BitVec 64) (f : Flight),
    (.presenceStoreLanding core off v ∈ s.pending → landingFlight s core off v = some f → panAwake s core (off / 65536) = true →
      (∀ c, f.stamp = some c → clockAhead (s.clockOf (dieOf f.core)) c = false) →
      exec (.presenceStoreLanding core off v) s = .next (landFlight (taken (.presenceStoreLanding core off v) s) f)) ∧
    (f.stamp = none →
      let u := { s with flights := s.flights.erase f, pending := s.pending.erase (.presenceStoreLanding f.core f.off f.value) }
      (arrivalRefusal s f = none →
        landFlight s f = landPresence (wakePan u f.core (f.off / 65536)) f.core f.off f.value) ∧
      (∀ k, arrivalRefusal s f = some k → landFlight s f = refuseFlight u f k ∧
        (f.sender < 2048 → ∃ a, landFlight s f = u.blame f.sender f.serial f.tid (.protection, k, a))))) ∧
  (∀ (s : State) (core : Nat), .storeBufferDrain core ∈ s.pending → drainReady s core = true →
    exec (.storeBufferDrain core) s = .next ((taken (.storeBufferDrain core) s).onCore core (drainOne core))) ∧
  (∀ (s : State) (num : Nat) (d : Durable),
    (.durableStoreAccept num ∈ s.pending → s.durable.find? (fun d => d.num = num) = some d → acceptReady s d = true →
      exec (.durableStoreAccept num) s = .next (acceptDurable (taken (.durableStoreAccept num) s) d)) ∧
    (.persistAcknowledgement num ∈ s.pending → ∃ t, exec (.persistAcknowledgement num) s = .next t ∧ (∀ d ∈ t.durable, d.num ≠ num) ∧
      t.persisted = s.persisted) ∧
    (.fabricStoreAcknowledgement num ∈ s.pending → ∃ t, exec (.fabricStoreAcknowledgement num) s = .next t ∧
      ∀ f ∈ t.fabric, f.num ≠ num) ∧
    (∀ f, s.fabric.find? (fun f => f.num = num) = some f → exec (.fabricErrorResponse num) s = .next (refuseFabric s.fresh f)) ∧
    (.leaseExpiry num ∈ s.pending → (∀ l ∈ s.leases, l.line = num → s.leaseCycles ≤ s.cyc.toNat - l.last.toNat) →
      ∃ t, exec (.leaseExpiry num) s = .next t ∧ ∀ l ∈ t.leases, l.line ≠ num)) ∧
  (∀ (s : State), (s.pbuf = [] → exec .persistBufferDrain s = .next s) ∧
    (s.pbuf ≠ [] → ∃ t, exec .persistBufferDrain s = .next t ∧ t.pbuf = s.pbuf.tail ∧ t.persisted = s.persisted)) ∧
  (∀ (s : State) (core : Nat) (pan : Fin 16),
    (.retentionEntry core pan.val ∈ s.pending → entryDue s core pan.val = true →
      ((s.coreOf core).retention[pan] = .active → (s.coreOf core).pfmt[pan].getLsbD 7 = true → ∃ t,
        exec (.retentionEntry core pan.val) s = .next t ∧ (t.coreOf core).retention[pan] = .entering ∧
        .retentionEntry core pan.val ∈ t.pending) ∧
      ((s.coreOf core).retention[pan] = .entering →
        ∃ t, exec (.retentionEntry core pan.val) s = .next t ∧ (t.coreOf core).retention[pan] = .retained) ∧
      ((s.coreOf core).retention[pan] = .recalled → ∃ t, exec (.retentionEntry core pan.val) s = .next t ∧
        (t.coreOf core).retention[pan] = .leaving ∧ .retentionExit core pan.val ∈ t.pending)) ∧
    (.retentionExit core pan.val ∈ s.pending → (s.coreOf core).retention[pan] = .leaving →
      512 ≤ s.cyc.toNat - (s.coreOf core).panTime[pan].toNat →
      ∃ t, exec (.retentionExit core pan.val) s = .next t ∧ (t.coreOf core).retention[pan] = .active) ∧
    (∀ pass e, e ∈ s.pending → (∃ p, e = .containmentScrub core p) → scrubDue s core = true →
      ∃ u, exec (.containmentScrub core pass) s = .next (scrubCore core pass u) ∧ u.mem = s.mem ∧ u.cyc = s.cyc ∧
        (∀ p, .containmentScrub core p ∉ u.pending) ∧ u.coreOf core = s.coreOf core) ∧
    ((s.coreOf core).containing ≠ none → exec (.coreCheckFailure core) s = .next s) ∧
    (core < 2048 → (s.coreOf core).containing = none → (s.coreOf core).absent = false → ∃ code sub : Nat,
      exec (.coreCheckFailure core) s = .next (s.fresh.onCore core (fun s => contain s code sub 0 false))) ∧
    (.mapOutDone core ∈ s.pending →
      ((s.coreOf core).containing = none → exec (.mapOutDone core) s = .next (taken (.mapOutDone core) s)) ∧
      (∀ c m, (s.coreOf core).containing = some c → c.mapping = some m → 65536 ≤ s.cyc.toNat - m.1.toNat →
        exec (.mapOutDone core) s = .next (endContainment (setOutside (taken (.mapOutDone core) s) (dieOf core) (rowOf core)
          (physicalColumn (colOf core) m.2)) core c true true)))) ∧
  (∀ (s : State) (part job : Nat) (j : RakeJob), s.job part job = some j →
    (.rakeJobStart part job ∈ s.pending → j.active = true →
      exec (.rakeJobStart part job) s = .next (beginJob (taken (.rakeJobStart part job) s) j)) ∧
    (.rakeLayerAdvance part job ∈ s.pending →
      let u := taken (.rakeLayerAdvance part job) s
      (j.active = false → exec (.rakeLayerAdvance part job) s = .next u) ∧
      (j.active = true → layerOver s j = true →
        j.advanced = false → let v := (advanceCopies u j).putJob { j with advanced := true }
        exec (.rakeLayerAdvance part job) s = .next { v with pending := v.pending ++ [.rakeLayerAdvance part job] }) ∧
      (j.active = true → j.advanced = true →
        (j.layer < j.tol → exec (.rakeLayerAdvance part job) s = .next (startLayer u { j with layer := j.layer + 1 })) ∧
        (j.tol ≤ j.layer → exec (.rakeLayerAdvance part job) s = .next (endJob u j)))) ∧
    (.rakeCopyResume part job ∈ s.pending → j.active = true → j.parked = true →
      let u := taken (.rakeCopyResume part job) s
      (j.entries ≠ [] → exec (.rakeCopyResume part job) s = .next (runJob u { j with parked := false })) ∧
      (j.entries = [] → exec (.rakeCopyResume part job) s = .next (beginJob u { j with parked := false }))))

/-- R224, R256, R300, R335, R399, R401, R404-R412. What comes from outside the package: the host, management, the stations, the pod,
power and reset; in recovery management does nothing.
Choices of the model in it: log entries 3, 4, 9, 11, 28, 29, 33. -/
def Obligations.OutsideEvents : Prop :=
  (∀ (s : State) (part off : Nat),
    (hostServes s.fresh part off = false → exec (.hostMemRead part off) s = .next s.fresh ∧
      ∀ data, exec (.hostMemWrite part off data) s = .next s.fresh) ∧
    (∀ pa u, hostServes s.fresh part off = true → hostTarget s.fresh part off Need.read = .ok (pa, u) →
      exec (.hostMemRead part off) s = .next (grantHost (markUsed s.fresh u false) (pa / 128))) ∧
    (∀ pa u, hostServes s.fresh part off = true → hostTarget s.fresh part off Need.write = .ok (pa, u) →
      let half := pa / 64 * 64
      let s1 := markUsed s.fresh u true
      (∀ data, enabledOffsets off data ≠ [16, 17, 18, 19] →
        (hostTouchesObject s1 half (enabledOffsets off data) = false → exec (.hostMemWrite part off data) s
          = .next ((List.range 8).foldl (fun s w => hostWord (data.take (64 - off % 64)) s (half + 8 * w) ((8 * w : Nat) - (off % 64 : Nat)))
              s1)) ∧
        (hostTouchesObject s1 half (enabledOffsets off data) = true → exec (.hostMemWrite part off data) s
          = .next (hostRecord s1 part (exc .objectOverwrite 0 (BitVec.ofNat 64 off))))) ∧
      (∀ (tail : BitVec 32) (s2 : State), off % 64 = 16 → tailFailure s1 part half = none → tailStore s1 part half tail.toNat = some s2 →
        exec (.hostTailStore part off tail) s = .next s2)) ∧
    (∀ tail : BitVec 32, exec (.hostTailStore part off tail) s = exec (.hostMemWrite part off ((natBytes 4 tail.toNat).map some)) s) ∧
    (.hostBiResponse off ∈ s.pending → ∃ t, exec (.hostBiResponse off) s = .next t ∧ off ∉ t.snoop ∧ off ∉ t.heldWrites)) ∧
  (∀ (s : State) (nonce : BitVec 256),
    (s.attest.length < 4 → ∃ t, exec (.attestationRequest nonce) s = .next t ∧ t.attest = s.attest ++ [nonce]) ∧
    (∀ n rest, s.attest = n :: rest → ∃ t, exec .attestationSigned s = .next t ∧ t.attest = rest ∧
      t.reports = s.reports ++ [attestationReport s n])) ∧
  (∀ (s : State) (kind peer part tpart off : Nat) (token : BitVec 64) (data : List (BitVec 8)),
    (s.recovery = true → exec (.ingressRequest kind peer part tpart off token data) s = .next s.fresh) ∧
    (s.recovery = false → ∀ r, ingressOf kind = some r → ingressShape r off data.length = true →
      (∀ k, ingressToken s.fresh r peer part tpart off (ingressBytes r data.length) token = some k →
        exec (.ingressRequest kind peer part tpart off token data) s
          = .next (logIngress s.fresh Cause.peerRejected.code k peer tpart off)) ∧
      (∀ pa u, ingressToken s.fresh r peer part tpart off (ingressBytes r data.length) token = none →
        ingressLeaf s.fresh r tpart off = .ok (pa, u) → exec (.ingressRequest kind peer part tpart off token data) s
          = .next (ingressEffect (markUsed s.fresh u (ingressNeed r).2.writes) r pa peer tpart off data)))) ∧
  (∀ (s : State) (station : Nat),
    (station < 24 → exec (.stationDown station) s = .next ((s.fabric.filter (fun f => f.station = station)).foldl
      refuseFabric { s.fresh with stationsDown := setAdd s.stationsDown station })) ∧
    (∃ t, exec (.stationUp station) s = .next t ∧ station ∉ t.stationsDown)) ∧
  (∀ (s : State) (part slot : Nat), part < 64 → slot < 4 →
    (s.recovery = true → exec (.grantKeyRotation part slot) s = .next s.fresh ∧ exec (.partitionLiveWrite part) s = .next s.fresh) ∧
    (s.recovery = false → ∃ t, exec (.grantKeyRotation part slot) s = .next t ∧ slotKey t part slot = Config.grantKey s.keyNext ∧ SameBytes s t) ∧
    (s.memWf → s.recovery = false → partLive s part = false → ∃ t, exec (.partitionLiveWrite part) s = .next t ∧ partLive t part = true ∧ t.mem = s.mem ∧
      (∀ k, k < 4 → slotKey t part k = Config.grantKey (s.keyNext + k)))) ∧
  (∀ (s : State) (pa : Nat) (data : List (BitVec 8)),
    (s.recovery = true → exec (.controlSpaceWrite pa data) s = .next s.fresh) ∧
    (s.recovery = false → spaceOf pa = .control → spaceOf (pa + data.length - 1) = .control → exec (.controlSpaceWrite pa data) s
      = .next (rotateIfLive s.fresh { s.fresh with ctl := ctlStore true s.fresh.ctl pa data } pa data.length)) ∧
    (¬(spaceOf pa = .control ∧ spaceOf (pa + data.length - 1) = .control) → exec (.controlSpaceWrite pa data) s = .next s.fresh) ∧
    (∃ t, exec (.controlSpaceWrite pa data) s = .next t ∧ t.mem = s.mem ∧ t.ctx = s.ctx)) ∧
  (∀ (s : State) (die mib : Nat),
    (s.recovery = true → exec (.bitternResize die mib) s = .next s.fresh) ∧
    (s.recovery = false → bitternLines s die = 0 → die < 8 → ∃ t, exec (.bitternResize die mib) s = .next t ∧ t.bittern[die]? = some (bitternSize mib)) ∧
    (s.recovery = false → bitternLines s die ≠ 0 → ∃ t, exec (.bitternResize die mib) s = .next t ∧ .bitternResize die mib ∈ t.pending ∧
      t.bittern = s.bittern) ∧
    (die < 8 → s.power.avEnabled = false → ∃ t, exec (.adaptiveVoltagePeriod die) s = .next t ∧ t.power.rails[die]? = some 750) ∧
    (die < 8 → s.power.avEnabled = true → ∃ t mv, exec (.adaptiveVoltagePeriod die) s = .next t ∧ t.power.rails[die]? = some mv ∧
      450 ≤ mv ∧ mv ≤ 750) ∧
    (∀ cycles, die < 8 → ∃ t, exec (.railDroop die cycles) s = .next t ∧
      t.power.hold[die]? = some (s.cyc.toNat + max 1 (min 8 cycles))) ∧
    exec .equalisationPeriod s = .next s.fresh ∧
    (∀ watts, 5700 ≤ watts → watts ≤ 6000 → ∃ t, exec (.thresholdPeriod watts) s = .next t ∧ t.power.level = s.power.level ∧
      t.power.above = 0 ∧ t.power.below = 0) ∧
    (∀ watts, 6000 < watts → s.power.above = 1 → ∃ t, exec (.thresholdPeriod watts) s = .next t ∧
      t.power.level = min 3 (s.power.level + 1)) ∧
    (∀ watts, watts < 5700 → s.power.below = 7 → ∃ t, exec (.thresholdPeriod watts) s = .next t ∧
      t.power.level = s.power.level - 1) ∧
    (∀ celsius, 105 ≤ celsius → ∃ t, exec (.overtemperature celsius) s = .next t ∧ t.power.level = 3 ∧
      (115 ≤ celsius → t.frozen = true))) ∧
  (∀ s : State, (∃ t, exec .freezeSignal s = .next t ∧ t.frozen = true ∧ t.ctx = s.ctx ∧ SameBytes s t) ∧
    (s.memWf → ∃ t, exec .powerLoss s = .next t ∧ t.powered = false ∧ t.pad = [] ∧ t.cyc = s.cyc ∧
      ∀ a, spaceOf a = .durable → memRead t.persisted a = memRead s.persisted a ∧ memRead t.mem a = memRead s.persisted a) ∧
    (s.memWf → ∀ v, ∃ t, exec (.packageReset v) s = .next t ∧ t.cyc = 0 ∧ t.recovery = !v ∧ t.pad = [] ∧ t.powered = true ∧
      (∀ a, spaceOf a = .durable → memRead t.persisted a = memRead s.persisted a ∧ memRead t.mem a = memRead s.persisted a) ∧
      ∀ k, k < 256 → slotKey t (k / 4) (k % 4) = Config.grantKey (s.keyNext + k)))

end
end

