-- ==== Sys2Proof/Laws/State.lean ====
section
/-! SUPPORT. What each named update of State and of a register set leaves in every field. -/

namespace Sys2Proof.Machine

/-! ### State.setX -/

@[simp] theorem State.setX_cyc (s : State) (r : BitVec 5) (v : Word) : (s.setX r v).cyc = s.cyc := rfl
@[simp] theorem State.setX_cur (s : State) (r : BitVec 5) (v : Word) : (s.setX r v).cur = s.cur := rfl
@[simp] theorem State.setX_lc (s : State) (r : BitVec 5) (v : Word) : (s.setX r v).lc = s.lc := rfl
@[simp] theorem State.setX_core (s : State) (r : BitVec 5) (v : Word) : (s.setX r v).core = s.core := rfl
@[simp] theorem State.setX_others (s : State) (r : BitVec 5) (v : Word) : (s.setX r v).others = s.others := rfl
@[simp] theorem State.setX_mem (s : State) (r : BitVec 5) (v : Word) : (s.setX r v).mem = s.mem := rfl
@[simp] theorem State.setX_ctl (s : State) (r : BitVec 5) (v : Word) : (s.setX r v).ctl = s.ctl := rfl
@[simp] theorem State.setX_pad (s : State) (r : BitVec 5) (v : Word) : (s.setX r v).pad = s.pad := rfl
@[simp] theorem State.setX_present (s : State) (r : BitVec 5) (v : Word) : (s.setX r v).present = s.present := rfl
@[simp] theorem State.setX_objects (s : State) (r : BitVec 5) (v : Word) : (s.setX r v).objects = s.objects := rfl
@[simp] theorem State.setX_full (s : State) (r : BitVec 5) (v : Word) : (s.setX r v).full = s.full := rfl
@[simp] theorem State.setX_poison (s : State) (r : BitVec 5) (v : Word) : (s.setX r v).poison = s.poison := rfl
@[simp] theorem State.setX_padPoison (s : State) (r : BitVec 5) (v : Word) : (s.setX r v).padPoison = s.padPoison := rfl
@[simp] theorem State.setX_padFlips (s : State) (r : BitVec 5) (v : Word) : (s.setX r v).padFlips = s.padFlips := rfl
@[simp] theorem State.setX_pathPoison (s : State) (r : BitVec 5) (v : Word) : (s.setX r v).pathPoison = s.pathPoison := rfl
@[simp] theorem State.setX_persisted (s : State) (r : BitVec 5) (v : Word) : (s.setX r v).persisted = s.persisted := rfl
@[simp] theorem State.setX_durable (s : State) (r : BitVec 5) (v : Word) : (s.setX r v).durable = s.durable := rfl
@[simp] theorem State.setX_durableNext (s : State) (r : BitVec 5) (v : Word) : (s.setX r v).durableNext = s.durableNext := rfl
@[simp] theorem State.setX_pbuf (s : State) (r : BitVec 5) (v : Word) : (s.setX r v).pbuf = s.pbuf := rfl
@[simp] theorem State.setX_flights (s : State) (r : BitVec 5) (v : Word) : (s.setX r v).flights = s.flights := rfl
@[simp] theorem State.setX_clocks (s : State) (r : BitVec 5) (v : Word) : (s.setX r v).clocks = s.clocks := rfl
@[simp] theorem State.setX_stamps (s : State) (r : BitVec 5) (v : Word) : (s.setX r v).stamps = s.stamps := rfl
@[simp] theorem State.setX_heldStamps (s : State) (r : BitVec 5) (v : Word) : (s.setX r v).heldStamps = s.heldStamps := rfl
@[simp] theorem State.setX_rdc (s : State) (r : BitVec 5) (v : Word) : (s.setX r v).rdc = s.rdc := rfl
@[simp] theorem State.setX_podSignals (s : State) (r : BitVec 5) (v : Word) : (s.setX r v).podSignals = s.podSignals := rfl
@[simp] theorem State.setX_fabric (s : State) (r : BitVec 5) (v : Word) : (s.setX r v).fabric = s.fabric := rfl
@[simp] theorem State.setX_fabricNext (s : State) (r : BitVec 5) (v : Word) : (s.setX r v).fabricNext = s.fabricNext := rfl
@[simp] theorem State.setX_launches (s : State) (r : BitVec 5) (v : Word) : (s.setX r v).launches = s.launches := rfl
@[simp] theorem State.setX_pendingLaunches (s : State) (r : BitVec 5) (v : Word) : (s.setX r v).pendingLaunches = s.pendingLaunches := rfl
@[simp] theorem State.setX_nextOrder (s : State) (r : BitVec 5) (v : Word) : (s.setX r v).nextOrder = s.nextOrder := rfl
@[simp] theorem State.setX_nextSerial (s : State) (r : BitVec 5) (v : Word) : (s.setX r v).nextSerial = s.nextSerial := rfl
@[simp] theorem State.setX_rounds (s : State) (r : BitVec 5) (v : Word) : (s.setX r v).rounds = s.rounds := rfl
@[simp] theorem State.setX_view (s : State) (r : BitVec 5) (v : Word) : (s.setX r v).view = s.view := rfl
@[simp] theorem State.setX_supervised (s : State) (r : BitVec 5) (v : Word) : (s.setX r v).supervised = s.supervised := rfl
@[simp] theorem State.setX_returned (s : State) (r : BitVec 5) (v : Word) : (s.setX r v).returned = s.returned := rfl
@[simp] theorem State.setX_waiters (s : State) (r : BitVec 5) (v : Word) : (s.setX r v).waiters = s.waiters := rfl
@[simp] theorem State.setX_levelled (s : State) (r : BitVec 5) (v : Word) : (s.setX r v).levelled = s.levelled := rfl
@[simp] theorem State.setX_tlb (s : State) (r : BitVec 5) (v : Word) : (s.setX r v).tlb = s.tlb := rfl
@[simp] theorem State.setX_walkCache (s : State) (r : BitVec 5) (v : Word) : (s.setX r v).walkCache = s.walkCache := rfl
@[simp] theorem State.setX_migration (s : State) (r : BitVec 5) (v : Word) : (s.setX r v).migration = s.migration := rfl
@[simp] theorem State.setX_keys (s : State) (r : BitVec 5) (v : Word) : (s.setX r v).keys = s.keys := rfl
@[simp] theorem State.setX_keyNext (s : State) (r : BitVec 5) (v : Word) : (s.setX r v).keyNext = s.keyNext := rfl
@[simp] theorem State.setX_leases (s : State) (r : BitVec 5) (v : Word) : (s.setX r v).leases = s.leases := rfl
@[simp] theorem State.setX_leaseCycles (s : State) (r : BitVec 5) (v : Word) : (s.setX r v).leaseCycles = s.leaseCycles := rfl
@[simp] theorem State.setX_rake (s : State) (r : BitVec 5) (v : Word) : (s.setX r v).rake = s.rake := rfl
@[simp] theorem State.setX_heldRecords (s : State) (r : BitVec 5) (v : Word) : (s.setX r v).heldRecords = s.heldRecords := rfl
@[simp] theorem State.setX_lines (s : State) (r : BitVec 5) (v : Word) : (s.setX r v).lines = s.lines := rfl
@[simp] theorem State.setX_bittern (s : State) (r : BitVec 5) (v : Word) : (s.setX r v).bittern = s.bittern := rfl
@[simp] theorem State.setX_stationsDown (s : State) (r : BitVec 5) (v : Word) : (s.setX r v).stationsDown = s.stationsDown := rfl
@[simp] theorem State.setX_sparesUsed (s : State) (r : BitVec 5) (v : Word) : (s.setX r v).sparesUsed = s.sparesUsed := rfl
@[simp] theorem State.setX_snoop (s : State) (r : BitVec 5) (v : Word) : (s.setX r v).snoop = s.snoop := rfl
@[simp] theorem State.setX_heldWrites (s : State) (r : BitVec 5) (v : Word) : (s.setX r v).heldWrites = s.heldWrites := rfl
@[simp] theorem State.setX_attest (s : State) (r : BitVec 5) (v : Word) : (s.setX r v).attest = s.attest := rfl
@[simp] theorem State.setX_reports (s : State) (r : BitVec 5) (v : Word) : (s.setX r v).reports = s.reports := rfl
@[simp] theorem State.setX_recovery (s : State) (r : BitVec 5) (v : Word) : (s.setX r v).recovery = s.recovery := rfl
@[simp] theorem State.setX_images (s : State) (r : BitVec 5) (v : Word) : (s.setX r v).images = s.images := rfl
@[simp] theorem State.setX_errLog (s : State) (r : BitVec 5) (v : Word) : (s.setX r v).errLog = s.errLog := rfl
@[simp] theorem State.setX_power (s : State) (r : BitVec 5) (v : Word) : (s.setX r v).power = s.power := rfl
@[simp] theorem State.setX_hot (s : State) (r : BitVec 5) (v : Word) : (s.setX r v).hot = s.hot := rfl
@[simp] theorem State.setX_cool (s : State) (r : BitVec 5) (v : Word) : (s.setX r v).cool = s.cool := rfl
@[simp] theorem State.setX_frozen (s : State) (r : BitVec 5) (v : Word) : (s.setX r v).frozen = s.frozen := rfl
@[simp] theorem State.setX_powered (s : State) (r : BitVec 5) (v : Word) : (s.setX r v).powered = s.powered := rfl
@[simp] theorem State.setX_schedule (s : State) (r : BitVec 5) (v : Word) : (s.setX r v).schedule = s.schedule := rfl
@[simp] theorem State.setX_cut (s : State) (r : BitVec 5) (v : Word) : (s.setX r v).cut = s.cut := rfl
@[simp] theorem State.setX_strikes (s : State) (r : BitVec 5) (v : Word) : (s.setX r v).strikes = s.strikes := rfl
@[simp] theorem State.setX_pending (s : State) (r : BitVec 5) (v : Word) : (s.setX r v).pending = s.pending := rfl
@[simp] theorem State.setX_free (s : State) (r : BitVec 5) (v : Word) : (s.setX r v).free = s.free := rfl

@[simp] theorem State.setX_ctx (s : State) (r : BitVec 5) (v : Word) : (s.setX r v).ctx = s.ctx.setS r v := rfl

/-! ### State.advance -/

@[simp] theorem State.advance_cyc (s : State) (n : Nat) : (s.advance n).cyc = s.cyc := rfl
@[simp] theorem State.advance_cur (s : State) (n : Nat) : (s.advance n).cur = s.cur := rfl
@[simp] theorem State.advance_lc (s : State) (n : Nat) : (s.advance n).lc = s.lc := rfl
@[simp] theorem State.advance_core (s : State) (n : Nat) : (s.advance n).core = s.core := rfl
@[simp] theorem State.advance_others (s : State) (n : Nat) : (s.advance n).others = s.others := rfl
@[simp] theorem State.advance_mem (s : State) (n : Nat) : (s.advance n).mem = s.mem := rfl
@[simp] theorem State.advance_ctl (s : State) (n : Nat) : (s.advance n).ctl = s.ctl := rfl
@[simp] theorem State.advance_pad (s : State) (n : Nat) : (s.advance n).pad = s.pad := rfl
@[simp] theorem State.advance_present (s : State) (n : Nat) : (s.advance n).present = s.present := rfl
@[simp] theorem State.advance_objects (s : State) (n : Nat) : (s.advance n).objects = s.objects := rfl
@[simp] theorem State.advance_full (s : State) (n : Nat) : (s.advance n).full = s.full := rfl
@[simp] theorem State.advance_poison (s : State) (n : Nat) : (s.advance n).poison = s.poison := rfl
@[simp] theorem State.advance_padPoison (s : State) (n : Nat) : (s.advance n).padPoison = s.padPoison := rfl
@[simp] theorem State.advance_padFlips (s : State) (n : Nat) : (s.advance n).padFlips = s.padFlips := rfl
@[simp] theorem State.advance_pathPoison (s : State) (n : Nat) : (s.advance n).pathPoison = s.pathPoison := rfl
@[simp] theorem State.advance_persisted (s : State) (n : Nat) : (s.advance n).persisted = s.persisted := rfl
@[simp] theorem State.advance_durable (s : State) (n : Nat) : (s.advance n).durable = s.durable := rfl
@[simp] theorem State.advance_durableNext (s : State) (n : Nat) : (s.advance n).durableNext = s.durableNext := rfl
@[simp] theorem State.advance_pbuf (s : State) (n : Nat) : (s.advance n).pbuf = s.pbuf := rfl
@[simp] theorem State.advance_flights (s : State) (n : Nat) : (s.advance n).flights = s.flights := rfl
@[simp] theorem State.advance_clocks (s : State) (n : Nat) : (s.advance n).clocks = s.clocks := rfl
@[simp] theorem State.advance_stamps (s : State) (n : Nat) : (s.advance n).stamps = s.stamps := rfl
@[simp] theorem State.advance_heldStamps (s : State) (n : Nat) : (s.advance n).heldStamps = s.heldStamps := rfl
@[simp] theorem State.advance_rdc (s : State) (n : Nat) : (s.advance n).rdc = s.rdc := rfl
@[simp] theorem State.advance_podSignals (s : State) (n : Nat) : (s.advance n).podSignals = s.podSignals := rfl
@[simp] theorem State.advance_fabric (s : State) (n : Nat) : (s.advance n).fabric = s.fabric := rfl
@[simp] theorem State.advance_fabricNext (s : State) (n : Nat) : (s.advance n).fabricNext = s.fabricNext := rfl
@[simp] theorem State.advance_launches (s : State) (n : Nat) : (s.advance n).launches = s.launches := rfl
@[simp] theorem State.advance_pendingLaunches (s : State) (n : Nat) : (s.advance n).pendingLaunches = s.pendingLaunches := rfl
@[simp] theorem State.advance_nextOrder (s : State) (n : Nat) : (s.advance n).nextOrder = s.nextOrder := rfl
@[simp] theorem State.advance_nextSerial (s : State) (n : Nat) : (s.advance n).nextSerial = s.nextSerial := rfl
@[simp] theorem State.advance_rounds (s : State) (n : Nat) : (s.advance n).rounds = s.rounds := rfl
@[simp] theorem State.advance_view (s : State) (n : Nat) : (s.advance n).view = s.view := rfl
@[simp] theorem State.advance_supervised (s : State) (n : Nat) : (s.advance n).supervised = s.supervised := rfl
@[simp] theorem State.advance_returned (s : State) (n : Nat) : (s.advance n).returned = s.returned := rfl
@[simp] theorem State.advance_waiters (s : State) (n : Nat) : (s.advance n).waiters = s.waiters := rfl
@[simp] theorem State.advance_levelled (s : State) (n : Nat) : (s.advance n).levelled = s.levelled := rfl
@[simp] theorem State.advance_tlb (s : State) (n : Nat) : (s.advance n).tlb = s.tlb := rfl
@[simp] theorem State.advance_walkCache (s : State) (n : Nat) : (s.advance n).walkCache = s.walkCache := rfl
@[simp] theorem State.advance_migration (s : State) (n : Nat) : (s.advance n).migration = s.migration := rfl
@[simp] theorem State.advance_keys (s : State) (n : Nat) : (s.advance n).keys = s.keys := rfl
@[simp] theorem State.advance_keyNext (s : State) (n : Nat) : (s.advance n).keyNext = s.keyNext := rfl
@[simp] theorem State.advance_leases (s : State) (n : Nat) : (s.advance n).leases = s.leases := rfl
@[simp] theorem State.advance_leaseCycles (s : State) (n : Nat) : (s.advance n).leaseCycles = s.leaseCycles := rfl
@[simp] theorem State.advance_rake (s : State) (n : Nat) : (s.advance n).rake = s.rake := rfl
@[simp] theorem State.advance_heldRecords (s : State) (n : Nat) : (s.advance n).heldRecords = s.heldRecords := rfl
@[simp] theorem State.advance_lines (s : State) (n : Nat) : (s.advance n).lines = s.lines := rfl
@[simp] theorem State.advance_bittern (s : State) (n : Nat) : (s.advance n).bittern = s.bittern := rfl
@[simp] theorem State.advance_stationsDown (s : State) (n : Nat) : (s.advance n).stationsDown = s.stationsDown := rfl
@[simp] theorem State.advance_sparesUsed (s : State) (n : Nat) : (s.advance n).sparesUsed = s.sparesUsed := rfl
@[simp] theorem State.advance_snoop (s : State) (n : Nat) : (s.advance n).snoop = s.snoop := rfl
@[simp] theorem State.advance_heldWrites (s : State) (n : Nat) : (s.advance n).heldWrites = s.heldWrites := rfl
@[simp] theorem State.advance_attest (s : State) (n : Nat) : (s.advance n).attest = s.attest := rfl
@[simp] theorem State.advance_reports (s : State) (n : Nat) : (s.advance n).reports = s.reports := rfl
@[simp] theorem State.advance_recovery (s : State) (n : Nat) : (s.advance n).recovery = s.recovery := rfl
@[simp] theorem State.advance_images (s : State) (n : Nat) : (s.advance n).images = s.images := rfl
@[simp] theorem State.advance_errLog (s : State) (n : Nat) : (s.advance n).errLog = s.errLog := rfl
@[simp] theorem State.advance_power (s : State) (n : Nat) : (s.advance n).power = s.power := rfl
@[simp] theorem State.advance_hot (s : State) (n : Nat) : (s.advance n).hot = s.hot := rfl
@[simp] theorem State.advance_cool (s : State) (n : Nat) : (s.advance n).cool = s.cool := rfl
@[simp] theorem State.advance_frozen (s : State) (n : Nat) : (s.advance n).frozen = s.frozen := rfl
@[simp] theorem State.advance_powered (s : State) (n : Nat) : (s.advance n).powered = s.powered := rfl
@[simp] theorem State.advance_schedule (s : State) (n : Nat) : (s.advance n).schedule = s.schedule := rfl
@[simp] theorem State.advance_cut (s : State) (n : Nat) : (s.advance n).cut = s.cut := rfl
@[simp] theorem State.advance_strikes (s : State) (n : Nat) : (s.advance n).strikes = s.strikes := rfl
@[simp] theorem State.advance_pending (s : State) (n : Nat) : (s.advance n).pending = s.pending := rfl
@[simp] theorem State.advance_free (s : State) (n : Nat) : (s.advance n).free = s.free := rfl

@[simp] theorem State.advance_ctx (s : State) (n : Nat) : (s.advance n).ctx = { s.ctx with pc := s.ctx.pc + BitVec.ofNat 64 n } := rfl

/-! ### State.count -/

@[simp] theorem State.count_cyc (s : State) (k : Fin 8) (n : Nat) : (s.count k n).cyc = s.cyc := rfl
@[simp] theorem State.count_cur (s : State) (k : Fin 8) (n : Nat) : (s.count k n).cur = s.cur := rfl
@[simp] theorem State.count_ctx (s : State) (k : Fin 8) (n : Nat) : (s.count k n).ctx = s.ctx := rfl
@[simp] theorem State.count_lc (s : State) (k : Fin 8) (n : Nat) : (s.count k n).lc = s.lc := rfl
@[simp] theorem State.count_others (s : State) (k : Fin 8) (n : Nat) : (s.count k n).others = s.others := rfl
@[simp] theorem State.count_mem (s : State) (k : Fin 8) (n : Nat) : (s.count k n).mem = s.mem := rfl
@[simp] theorem State.count_ctl (s : State) (k : Fin 8) (n : Nat) : (s.count k n).ctl = s.ctl := rfl
@[simp] theorem State.count_pad (s : State) (k : Fin 8) (n : Nat) : (s.count k n).pad = s.pad := rfl
@[simp] theorem State.count_present (s : State) (k : Fin 8) (n : Nat) : (s.count k n).present = s.present := rfl
@[simp] theorem State.count_objects (s : State) (k : Fin 8) (n : Nat) : (s.count k n).objects = s.objects := rfl
@[simp] theorem State.count_full (s : State) (k : Fin 8) (n : Nat) : (s.count k n).full = s.full := rfl
@[simp] theorem State.count_poison (s : State) (k : Fin 8) (n : Nat) : (s.count k n).poison = s.poison := rfl
@[simp] theorem State.count_padPoison (s : State) (k : Fin 8) (n : Nat) : (s.count k n).padPoison = s.padPoison := rfl
@[simp] theorem State.count_padFlips (s : State) (k : Fin 8) (n : Nat) : (s.count k n).padFlips = s.padFlips := rfl
@[simp] theorem State.count_pathPoison (s : State) (k : Fin 8) (n : Nat) : (s.count k n).pathPoison = s.pathPoison := rfl
@[simp] theorem State.count_persisted (s : State) (k : Fin 8) (n : Nat) : (s.count k n).persisted = s.persisted := rfl
@[simp] theorem State.count_durable (s : State) (k : Fin 8) (n : Nat) : (s.count k n).durable = s.durable := rfl
@[simp] theorem State.count_durableNext (s : State) (k : Fin 8) (n : Nat) : (s.count k n).durableNext = s.durableNext := rfl
@[simp] theorem State.count_pbuf (s : State) (k : Fin 8) (n : Nat) : (s.count k n).pbuf = s.pbuf := rfl
@[simp] theorem State.count_flights (s : State) (k : Fin 8) (n : Nat) : (s.count k n).flights = s.flights := rfl
@[simp] theorem State.count_clocks (s : State) (k : Fin 8) (n : Nat) : (s.count k n).clocks = s.clocks := rfl
@[simp] theorem State.count_stamps (s : State) (k : Fin 8) (n : Nat) : (s.count k n).stamps = s.stamps := rfl
@[simp] theorem State.count_heldStamps (s : State) (k : Fin 8) (n : Nat) : (s.count k n).heldStamps = s.heldStamps := rfl
@[simp] theorem State.count_rdc (s : State) (k : Fin 8) (n : Nat) : (s.count k n).rdc = s.rdc := rfl
@[simp] theorem State.count_podSignals (s : State) (k : Fin 8) (n : Nat) : (s.count k n).podSignals = s.podSignals := rfl
@[simp] theorem State.count_fabric (s : State) (k : Fin 8) (n : Nat) : (s.count k n).fabric = s.fabric := rfl
@[simp] theorem State.count_fabricNext (s : State) (k : Fin 8) (n : Nat) : (s.count k n).fabricNext = s.fabricNext := rfl
@[simp] theorem State.count_launches (s : State) (k : Fin 8) (n : Nat) : (s.count k n).launches = s.launches := rfl
@[simp] theorem State.count_pendingLaunches (s : State) (k : Fin 8) (n : Nat) : (s.count k n).pendingLaunches = s.pendingLaunches := rfl
@[simp] theorem State.count_nextOrder (s : State) (k : Fin 8) (n : Nat) : (s.count k n).nextOrder = s.nextOrder := rfl
@[simp] theorem State.count_nextSerial (s : State) (k : Fin 8) (n : Nat) : (s.count k n).nextSerial = s.nextSerial := rfl
@[simp] theorem State.count_rounds (s : State) (k : Fin 8) (n : Nat) : (s.count k n).rounds = s.rounds := rfl
@[simp] theorem State.count_view (s : State) (k : Fin 8) (n : Nat) : (s.count k n).view = s.view := rfl
@[simp] theorem State.count_supervised (s : State) (k : Fin 8) (n : Nat) : (s.count k n).supervised = s.supervised := rfl
@[simp] theorem State.count_returned (s : State) (k : Fin 8) (n : Nat) : (s.count k n).returned = s.returned := rfl
@[simp] theorem State.count_waiters (s : State) (k : Fin 8) (n : Nat) : (s.count k n).waiters = s.waiters := rfl
@[simp] theorem State.count_levelled (s : State) (k : Fin 8) (n : Nat) : (s.count k n).levelled = s.levelled := rfl
@[simp] theorem State.count_tlb (s : State) (k : Fin 8) (n : Nat) : (s.count k n).tlb = s.tlb := rfl
@[simp] theorem State.count_walkCache (s : State) (k : Fin 8) (n : Nat) : (s.count k n).walkCache = s.walkCache := rfl
@[simp] theorem State.count_migration (s : State) (k : Fin 8) (n : Nat) : (s.count k n).migration = s.migration := rfl
@[simp] theorem State.count_keys (s : State) (k : Fin 8) (n : Nat) : (s.count k n).keys = s.keys := rfl
@[simp] theorem State.count_keyNext (s : State) (k : Fin 8) (n : Nat) : (s.count k n).keyNext = s.keyNext := rfl
@[simp] theorem State.count_leases (s : State) (k : Fin 8) (n : Nat) : (s.count k n).leases = s.leases := rfl
@[simp] theorem State.count_leaseCycles (s : State) (k : Fin 8) (n : Nat) : (s.count k n).leaseCycles = s.leaseCycles := rfl
@[simp] theorem State.count_rake (s : State) (k : Fin 8) (n : Nat) : (s.count k n).rake = s.rake := rfl
@[simp] theorem State.count_heldRecords (s : State) (k : Fin 8) (n : Nat) : (s.count k n).heldRecords = s.heldRecords := rfl
@[simp] theorem State.count_lines (s : State) (k : Fin 8) (n : Nat) : (s.count k n).lines = s.lines := rfl
@[simp] theorem State.count_bittern (s : State) (k : Fin 8) (n : Nat) : (s.count k n).bittern = s.bittern := rfl
@[simp] theorem State.count_stationsDown (s : State) (k : Fin 8) (n : Nat) : (s.count k n).stationsDown = s.stationsDown := rfl
@[simp] theorem State.count_sparesUsed (s : State) (k : Fin 8) (n : Nat) : (s.count k n).sparesUsed = s.sparesUsed := rfl
@[simp] theorem State.count_snoop (s : State) (k : Fin 8) (n : Nat) : (s.count k n).snoop = s.snoop := rfl
@[simp] theorem State.count_heldWrites (s : State) (k : Fin 8) (n : Nat) : (s.count k n).heldWrites = s.heldWrites := rfl
@[simp] theorem State.count_attest (s : State) (k : Fin 8) (n : Nat) : (s.count k n).attest = s.attest := rfl
@[simp] theorem State.count_reports (s : State) (k : Fin 8) (n : Nat) : (s.count k n).reports = s.reports := rfl
@[simp] theorem State.count_recovery (s : State) (k : Fin 8) (n : Nat) : (s.count k n).recovery = s.recovery := rfl
@[simp] theorem State.count_images (s : State) (k : Fin 8) (n : Nat) : (s.count k n).images = s.images := rfl
@[simp] theorem State.count_errLog (s : State) (k : Fin 8) (n : Nat) : (s.count k n).errLog = s.errLog := rfl
@[simp] theorem State.count_power (s : State) (k : Fin 8) (n : Nat) : (s.count k n).power = s.power := rfl
@[simp] theorem State.count_hot (s : State) (k : Fin 8) (n : Nat) : (s.count k n).hot = s.hot := rfl
@[simp] theorem State.count_cool (s : State) (k : Fin 8) (n : Nat) : (s.count k n).cool = s.cool := rfl
@[simp] theorem State.count_frozen (s : State) (k : Fin 8) (n : Nat) : (s.count k n).frozen = s.frozen := rfl
@[simp] theorem State.count_powered (s : State) (k : Fin 8) (n : Nat) : (s.count k n).powered = s.powered := rfl
@[simp] theorem State.count_schedule (s : State) (k : Fin 8) (n : Nat) : (s.count k n).schedule = s.schedule := rfl
@[simp] theorem State.count_cut (s : State) (k : Fin 8) (n : Nat) : (s.count k n).cut = s.cut := rfl
@[simp] theorem State.count_strikes (s : State) (k : Fin 8) (n : Nat) : (s.count k n).strikes = s.strikes := rfl
@[simp] theorem State.count_pending (s : State) (k : Fin 8) (n : Nat) : (s.count k n).pending = s.pending := rfl
@[simp] theorem State.count_free (s : State) (k : Fin 8) (n : Nat) : (s.count k n).free = s.free := rfl

@[simp] theorem State.count_core (s : State) (k : Fin 8) (n : Nat) :
    (s.count k n).core = { s.core with pmc := s.core.pmc.set k (s.core.pmc[k] + BitVec.ofNat 64 n) } := rfl

/-! ### State.fresh -/

@[simp] theorem State.fresh_cyc (s : State) : (s.fresh).cyc = s.cyc := rfl
@[simp] theorem State.fresh_cur (s : State) : (s.fresh).cur = s.cur := rfl
@[simp] theorem State.fresh_ctx (s : State) : (s.fresh).ctx = s.ctx := rfl
@[simp] theorem State.fresh_lc (s : State) : (s.fresh).lc = s.lc := rfl
@[simp] theorem State.fresh_core (s : State) : (s.fresh).core = s.core := rfl
@[simp] theorem State.fresh_others (s : State) : (s.fresh).others = s.others := rfl
@[simp] theorem State.fresh_mem (s : State) : (s.fresh).mem = s.mem := rfl
@[simp] theorem State.fresh_ctl (s : State) : (s.fresh).ctl = s.ctl := rfl
@[simp] theorem State.fresh_pad (s : State) : (s.fresh).pad = s.pad := rfl
@[simp] theorem State.fresh_present (s : State) : (s.fresh).present = s.present := rfl
@[simp] theorem State.fresh_objects (s : State) : (s.fresh).objects = s.objects := rfl
@[simp] theorem State.fresh_full (s : State) : (s.fresh).full = s.full := rfl
@[simp] theorem State.fresh_poison (s : State) : (s.fresh).poison = s.poison := rfl
@[simp] theorem State.fresh_padPoison (s : State) : (s.fresh).padPoison = s.padPoison := rfl
@[simp] theorem State.fresh_padFlips (s : State) : (s.fresh).padFlips = s.padFlips := rfl
@[simp] theorem State.fresh_pathPoison (s : State) : (s.fresh).pathPoison = s.pathPoison := rfl
@[simp] theorem State.fresh_persisted (s : State) : (s.fresh).persisted = s.persisted := rfl
@[simp] theorem State.fresh_durable (s : State) : (s.fresh).durable = s.durable := rfl
@[simp] theorem State.fresh_durableNext (s : State) : (s.fresh).durableNext = s.durableNext := rfl
@[simp] theorem State.fresh_pbuf (s : State) : (s.fresh).pbuf = s.pbuf := rfl
@[simp] theorem State.fresh_flights (s : State) : (s.fresh).flights = s.flights := rfl
@[simp] theorem State.fresh_clocks (s : State) : (s.fresh).clocks = s.clocks := rfl
@[simp] theorem State.fresh_stamps (s : State) : (s.fresh).stamps = s.stamps := rfl
@[simp] theorem State.fresh_heldStamps (s : State) : (s.fresh).heldStamps = s.heldStamps := rfl
@[simp] theorem State.fresh_rdc (s : State) : (s.fresh).rdc = s.rdc := rfl
@[simp] theorem State.fresh_podSignals (s : State) : (s.fresh).podSignals = s.podSignals := rfl
@[simp] theorem State.fresh_fabric (s : State) : (s.fresh).fabric = s.fabric := rfl
@[simp] theorem State.fresh_fabricNext (s : State) : (s.fresh).fabricNext = s.fabricNext := rfl
@[simp] theorem State.fresh_launches (s : State) : (s.fresh).launches = s.launches := rfl
@[simp] theorem State.fresh_pendingLaunches (s : State) : (s.fresh).pendingLaunches = s.pendingLaunches := rfl
@[simp] theorem State.fresh_nextOrder (s : State) : (s.fresh).nextOrder = s.nextOrder := rfl
@[simp] theorem State.fresh_nextSerial (s : State) : (s.fresh).nextSerial = s.nextSerial := rfl
@[simp] theorem State.fresh_rounds (s : State) : (s.fresh).rounds = s.rounds := rfl
@[simp] theorem State.fresh_view (s : State) : (s.fresh).view = s.view := rfl
@[simp] theorem State.fresh_supervised (s : State) : (s.fresh).supervised = s.supervised := rfl
@[simp] theorem State.fresh_returned (s : State) : (s.fresh).returned = s.returned := rfl
@[simp] theorem State.fresh_waiters (s : State) : (s.fresh).waiters = s.waiters := rfl
@[simp] theorem State.fresh_levelled (s : State) : (s.fresh).levelled = s.levelled := rfl
@[simp] theorem State.fresh_tlb (s : State) : (s.fresh).tlb = s.tlb := rfl
@[simp] theorem State.fresh_walkCache (s : State) : (s.fresh).walkCache = s.walkCache := rfl
@[simp] theorem State.fresh_migration (s : State) : (s.fresh).migration = s.migration := rfl
@[simp] theorem State.fresh_keys (s : State) : (s.fresh).keys = s.keys := rfl
@[simp] theorem State.fresh_keyNext (s : State) : (s.fresh).keyNext = s.keyNext := rfl
@[simp] theorem State.fresh_leases (s : State) : (s.fresh).leases = s.leases := rfl
@[simp] theorem State.fresh_leaseCycles (s : State) : (s.fresh).leaseCycles = s.leaseCycles := rfl
@[simp] theorem State.fresh_rake (s : State) : (s.fresh).rake = s.rake := rfl
@[simp] theorem State.fresh_heldRecords (s : State) : (s.fresh).heldRecords = s.heldRecords := rfl
@[simp] theorem State.fresh_lines (s : State) : (s.fresh).lines = s.lines := rfl
@[simp] theorem State.fresh_bittern (s : State) : (s.fresh).bittern = s.bittern := rfl
@[simp] theorem State.fresh_stationsDown (s : State) : (s.fresh).stationsDown = s.stationsDown := rfl
@[simp] theorem State.fresh_sparesUsed (s : State) : (s.fresh).sparesUsed = s.sparesUsed := rfl
@[simp] theorem State.fresh_snoop (s : State) : (s.fresh).snoop = s.snoop := rfl
@[simp] theorem State.fresh_heldWrites (s : State) : (s.fresh).heldWrites = s.heldWrites := rfl
@[simp] theorem State.fresh_attest (s : State) : (s.fresh).attest = s.attest := rfl
@[simp] theorem State.fresh_reports (s : State) : (s.fresh).reports = s.reports := rfl
@[simp] theorem State.fresh_recovery (s : State) : (s.fresh).recovery = s.recovery := rfl
@[simp] theorem State.fresh_images (s : State) : (s.fresh).images = s.images := rfl
@[simp] theorem State.fresh_errLog (s : State) : (s.fresh).errLog = s.errLog := rfl
@[simp] theorem State.fresh_power (s : State) : (s.fresh).power = s.power := rfl
@[simp] theorem State.fresh_hot (s : State) : (s.fresh).hot = s.hot := rfl
@[simp] theorem State.fresh_cool (s : State) : (s.fresh).cool = s.cool := rfl
@[simp] theorem State.fresh_frozen (s : State) : (s.fresh).frozen = s.frozen := rfl
@[simp] theorem State.fresh_powered (s : State) : (s.fresh).powered = s.powered := rfl
@[simp] theorem State.fresh_schedule (s : State) : (s.fresh).schedule = s.schedule := rfl
@[simp] theorem State.fresh_cut (s : State) : (s.fresh).cut = s.cut := rfl
@[simp] theorem State.fresh_strikes (s : State) : (s.fresh).strikes = s.strikes := rfl
@[simp] theorem State.fresh_pending (s : State) : (s.fresh).pending = s.pending := rfl

@[simp] theorem State.fresh_free (s : State) : s.fresh.free = s.free + 1 := rfl

/-! ### Ctx.setV -/

@[simp] theorem Ctx.setV_pc (c : Ctx) (n : Nat) (v : VReg) : (c.setV n v).pc = c.pc := rfl
@[simp] theorem Ctx.setV_s (c : Ctx) (n : Nat) (v : VReg) : (c.setV n v).s = c.s := rfl
@[simp] theorem Ctx.setV_p (c : Ctx) (n : Nat) (v : VReg) : (c.setV n v).p = c.p := rfl
@[simp] theorem Ctx.setV_ox (c : Ctx) (n : Nat) (v : VReg) : (c.setV n v).ox = c.ox := rfl
@[simp] theorem Ctx.setV_wells (c : Ctx) (n : Nat) (v : VReg) : (c.setV n v).wells = c.wells := rfl
@[simp] theorem Ctx.setV_vl (c : Ctx) (n : Nat) (v : VReg) : (c.setV n v).vl = c.vl := rfl
@[simp] theorem Ctx.setV_vty (c : Ctx) (n : Nat) (v : VReg) : (c.setV n v).vty = c.vty := rfl
@[simp] theorem Ctx.setV_vstart (c : Ctx) (n : Nat) (v : VReg) : (c.setV n v).vstart = c.vstart := rfl
@[simp] theorem Ctx.setV_ffl (c : Ctx) (n : Nat) (v : VReg) : (c.setV n v).ffl = c.ffl := rfl
@[simp] theorem Ctx.setV_frm (c : Ctx) (n : Nat) (v : VReg) : (c.setV n v).frm = c.frm := rfl
@[simp] theorem Ctx.setV_tid (c : Ctx) (n : Nat) (v : VReg) : (c.setV n v).tid = c.tid := rfl
@[simp] theorem Ctx.setV_wcoord (c : Ctx) (n : Nat) (v : VReg) : (c.setV n v).wcoord = c.wcoord := rfl
@[simp] theorem Ctx.setV_lid (c : Ctx) (n : Nat) (v : VReg) : (c.setV n v).lid = c.lid := rfl
@[simp] theorem Ctx.setV_prio (c : Ctx) (n : Nat) (v : VReg) : (c.setV n v).prio = c.prio := rfl
@[simp] theorem Ctx.setV_xprom (c : Ctx) (n : Nat) (v : VReg) : (c.setV n v).xprom = c.xprom := rfl
@[simp] theorem Ctx.setV_gangst (c : Ctx) (n : Nat) (v : VReg) : (c.setV n v).gangst = c.gangst := rfl
@[simp] theorem Ctx.setV_epc (c : Ctx) (n : Nat) (v : VReg) : (c.setV n v).epc = c.epc := rfl
@[simp] theorem Ctx.setV_ecause (c : Ctx) (n : Nat) (v : VReg) : (c.setV n v).ecause = c.ecause := rfl
@[simp] theorem Ctx.setV_eaddr (c : Ctx) (n : Nat) (v : VReg) : (c.setV n v).eaddr = c.eaddr := rfl
@[simp] theorem Ctx.setV_bwmask (c : Ctx) (n : Nat) (v : VReg) : (c.setV n v).bwmask = c.bwmask := rfl
@[simp] theorem Ctx.setV_parity (c : Ctx) (n : Nat) (v : VReg) : (c.setV n v).parity = c.parity := rfl
@[simp] theorem Ctx.setV_inHandler (c : Ctx) (n : Nat) (v : VReg) : (c.setV n v).inHandler = c.inHandler := rfl
@[simp] theorem Ctx.setV_release (c : Ctx) (n : Nat) (v : VReg) : (c.setV n v).release = c.release := rfl
@[simp] theorem Ctx.setV_epoch (c : Ctx) (n : Nat) (v : VReg) : (c.setV n v).epoch = c.epoch := rfl
@[simp] theorem Ctx.setV_seen (c : Ctx) (n : Nat) (v : VReg) : (c.setV n v).seen = c.seen := rfl

/-! ### Ctx.setOx -/

@[simp] theorem Ctx.setOx_pc (c : Ctx) (n : Nat) (v : Word) : (c.setOx n v).pc = c.pc := rfl
@[simp] theorem Ctx.setOx_s (c : Ctx) (n : Nat) (v : Word) : (c.setOx n v).s = c.s := rfl
@[simp] theorem Ctx.setOx_v (c : Ctx) (n : Nat) (v : Word) : (c.setOx n v).v = c.v := rfl
@[simp] theorem Ctx.setOx_p (c : Ctx) (n : Nat) (v : Word) : (c.setOx n v).p = c.p := rfl
@[simp] theorem Ctx.setOx_wells (c : Ctx) (n : Nat) (v : Word) : (c.setOx n v).wells = c.wells := rfl
@[simp] theorem Ctx.setOx_vl (c : Ctx) (n : Nat) (v : Word) : (c.setOx n v).vl = c.vl := rfl
@[simp] theorem Ctx.setOx_vty (c : Ctx) (n : Nat) (v : Word) : (c.setOx n v).vty = c.vty := rfl
@[simp] theorem Ctx.setOx_vstart (c : Ctx) (n : Nat) (v : Word) : (c.setOx n v).vstart = c.vstart := rfl
@[simp] theorem Ctx.setOx_vdmap (c : Ctx) (n : Nat) (v : Word) : (c.setOx n v).vdmap = c.vdmap := rfl
@[simp] theorem Ctx.setOx_ffl (c : Ctx) (n : Nat) (v : Word) : (c.setOx n v).ffl = c.ffl := rfl
@[simp] theorem Ctx.setOx_frm (c : Ctx) (n : Nat) (v : Word) : (c.setOx n v).frm = c.frm := rfl
@[simp] theorem Ctx.setOx_tid (c : Ctx) (n : Nat) (v : Word) : (c.setOx n v).tid = c.tid := rfl
@[simp] theorem Ctx.setOx_wcoord (c : Ctx) (n : Nat) (v : Word) : (c.setOx n v).wcoord = c.wcoord := rfl
@[simp] theorem Ctx.setOx_lid (c : Ctx) (n : Nat) (v : Word) : (c.setOx n v).lid = c.lid := rfl
@[simp] theorem Ctx.setOx_prio (c : Ctx) (n : Nat) (v : Word) : (c.setOx n v).prio = c.prio := rfl
@[simp] theorem Ctx.setOx_xprom (c : Ctx) (n : Nat) (v : Word) : (c.setOx n v).xprom = c.xprom := rfl
@[simp] theorem Ctx.setOx_gangst (c : Ctx) (n : Nat) (v : Word) : (c.setOx n v).gangst = c.gangst := rfl
@[simp] theorem Ctx.setOx_epc (c : Ctx) (n : Nat) (v : Word) : (c.setOx n v).epc = c.epc := rfl
@[simp] theorem Ctx.setOx_ecause (c : Ctx) (n : Nat) (v : Word) : (c.setOx n v).ecause = c.ecause := rfl
@[simp] theorem Ctx.setOx_eaddr (c : Ctx) (n : Nat) (v : Word) : (c.setOx n v).eaddr = c.eaddr := rfl
@[simp] theorem Ctx.setOx_bwmask (c : Ctx) (n : Nat) (v : Word) : (c.setOx n v).bwmask = c.bwmask := rfl
@[simp] theorem Ctx.setOx_parity (c : Ctx) (n : Nat) (v : Word) : (c.setOx n v).parity = c.parity := rfl
@[simp] theorem Ctx.setOx_inHandler (c : Ctx) (n : Nat) (v : Word) : (c.setOx n v).inHandler = c.inHandler := rfl
@[simp] theorem Ctx.setOx_release (c : Ctx) (n : Nat) (v : Word) : (c.setOx n v).release = c.release := rfl
@[simp] theorem Ctx.setOx_epoch (c : Ctx) (n : Nat) (v : Word) : (c.setOx n v).epoch = c.epoch := rfl
@[simp] theorem Ctx.setOx_seen (c : Ctx) (n : Nat) (v : Word) : (c.setOx n v).seen = c.seen := rfl

/-! ### Ctx.raise -/

@[simp] theorem Ctx.raise_pc (c : Ctx) (f : Flags) : (c.raise f).pc = c.pc := rfl
@[simp] theorem Ctx.raise_s (c : Ctx) (f : Flags) : (c.raise f).s = c.s := rfl
@[simp] theorem Ctx.raise_v (c : Ctx) (f : Flags) : (c.raise f).v = c.v := rfl
@[simp] theorem Ctx.raise_p (c : Ctx) (f : Flags) : (c.raise f).p = c.p := rfl
@[simp] theorem Ctx.raise_ox (c : Ctx) (f : Flags) : (c.raise f).ox = c.ox := rfl
@[simp] theorem Ctx.raise_wells (c : Ctx) (f : Flags) : (c.raise f).wells = c.wells := rfl
@[simp] theorem Ctx.raise_vl (c : Ctx) (f : Flags) : (c.raise f).vl = c.vl := rfl
@[simp] theorem Ctx.raise_vty (c : Ctx) (f : Flags) : (c.raise f).vty = c.vty := rfl
@[simp] theorem Ctx.raise_vstart (c : Ctx) (f : Flags) : (c.raise f).vstart = c.vstart := rfl
@[simp] theorem Ctx.raise_vdmap (c : Ctx) (f : Flags) : (c.raise f).vdmap = c.vdmap := rfl
@[simp] theorem Ctx.raise_frm (c : Ctx) (f : Flags) : (c.raise f).frm = c.frm := rfl
@[simp] theorem Ctx.raise_tid (c : Ctx) (f : Flags) : (c.raise f).tid = c.tid := rfl
@[simp] theorem Ctx.raise_wcoord (c : Ctx) (f : Flags) : (c.raise f).wcoord = c.wcoord := rfl
@[simp] theorem Ctx.raise_lid (c : Ctx) (f : Flags) : (c.raise f).lid = c.lid := rfl
@[simp] theorem Ctx.raise_prio (c : Ctx) (f : Flags) : (c.raise f).prio = c.prio := rfl
@[simp] theorem Ctx.raise_xprom (c : Ctx) (f : Flags) : (c.raise f).xprom = c.xprom := rfl
@[simp] theorem Ctx.raise_gangst (c : Ctx) (f : Flags) : (c.raise f).gangst = c.gangst := rfl
@[simp] theorem Ctx.raise_epc (c : Ctx) (f : Flags) : (c.raise f).epc = c.epc := rfl
@[simp] theorem Ctx.raise_ecause (c : Ctx) (f : Flags) : (c.raise f).ecause = c.ecause := rfl
@[simp] theorem Ctx.raise_eaddr (c : Ctx) (f : Flags) : (c.raise f).eaddr = c.eaddr := rfl
@[simp] theorem Ctx.raise_bwmask (c : Ctx) (f : Flags) : (c.raise f).bwmask = c.bwmask := rfl
@[simp] theorem Ctx.raise_parity (c : Ctx) (f : Flags) : (c.raise f).parity = c.parity := rfl
@[simp] theorem Ctx.raise_inHandler (c : Ctx) (f : Flags) : (c.raise f).inHandler = c.inHandler := rfl
@[simp] theorem Ctx.raise_release (c : Ctx) (f : Flags) : (c.raise f).release = c.release := rfl
@[simp] theorem Ctx.raise_epoch (c : Ctx) (f : Flags) : (c.raise f).epoch = c.epoch := rfl
@[simp] theorem Ctx.raise_seen (c : Ctx) (f : Flags) : (c.raise f).seen = c.seen := rfl

/-! ### Ctx.setS -/

@[simp] theorem Ctx.setS_pc (c : Ctx) (r : BitVec 5) (v : Word) : (c.setS r v).pc = c.pc := by unfold Ctx.setS; split <;> rfl
@[simp] theorem Ctx.setS_v (c : Ctx) (r : BitVec 5) (v : Word) : (c.setS r v).v = c.v := by unfold Ctx.setS; split <;> rfl
@[simp] theorem Ctx.setS_p (c : Ctx) (r : BitVec 5) (v : Word) : (c.setS r v).p = c.p := by unfold Ctx.setS; split <;> rfl
@[simp] theorem Ctx.setS_ox (c : Ctx) (r : BitVec 5) (v : Word) : (c.setS r v).ox = c.ox := by unfold Ctx.setS; split <;> rfl
@[simp] theorem Ctx.setS_wells (c : Ctx) (r : BitVec 5) (v : Word) : (c.setS r v).wells = c.wells := by unfold Ctx.setS; split <;> rfl
@[simp] theorem Ctx.setS_vl (c : Ctx) (r : BitVec 5) (v : Word) : (c.setS r v).vl = c.vl := by unfold Ctx.setS; split <;> rfl
@[simp] theorem Ctx.setS_vty (c : Ctx) (r : BitVec 5) (v : Word) : (c.setS r v).vty = c.vty := by unfold Ctx.setS; split <;> rfl
@[simp] theorem Ctx.setS_vstart (c : Ctx) (r : BitVec 5) (v : Word) : (c.setS r v).vstart = c.vstart := by unfold Ctx.setS; split <;> rfl
@[simp] theorem Ctx.setS_vdmap (c : Ctx) (r : BitVec 5) (v : Word) : (c.setS r v).vdmap = c.vdmap := by unfold Ctx.setS; split <;> rfl
@[simp] theorem Ctx.setS_ffl (c : Ctx) (r : BitVec 5) (v : Word) : (c.setS r v).ffl = c.ffl := by unfold Ctx.setS; split <;> rfl
@[simp] theorem Ctx.setS_frm (c : Ctx) (r : BitVec 5) (v : Word) : (c.setS r v).frm = c.frm := by unfold Ctx.setS; split <;> rfl
@[simp] theorem Ctx.setS_tid (c : Ctx) (r : BitVec 5) (v : Word) : (c.setS r v).tid = c.tid := by unfold Ctx.setS; split <;> rfl
@[simp] theorem Ctx.setS_wcoord (c : Ctx) (r : BitVec 5) (v : Word) : (c.setS r v).wcoord = c.wcoord := by unfold Ctx.setS; split <;> rfl
@[simp] theorem Ctx.setS_lid (c : Ctx) (r : BitVec 5) (v : Word) : (c.setS r v).lid = c.lid := by unfold Ctx.setS; split <;> rfl
@[simp] theorem Ctx.setS_prio (c : Ctx) (r : BitVec 5) (v : Word) : (c.setS r v).prio = c.prio := by unfold Ctx.setS; split <;> rfl
@[simp] theorem Ctx.setS_xprom (c : Ctx) (r : BitVec 5) (v : Word) : (c.setS r v).xprom = c.xprom := by unfold Ctx.setS; split <;> rfl
@[simp] theorem Ctx.setS_gangst (c : Ctx) (r : BitVec 5) (v : Word) : (c.setS r v).gangst = c.gangst := by unfold Ctx.setS; split <;> rfl
@[simp] theorem Ctx.setS_epc (c : Ctx) (r : BitVec 5) (v : Word) : (c.setS r v).epc = c.epc := by unfold Ctx.setS; split <;> rfl
@[simp] theorem Ctx.setS_ecause (c : Ctx) (r : BitVec 5) (v : Word) : (c.setS r v).ecause = c.ecause := by unfold Ctx.setS; split <;> rfl
@[simp] theorem Ctx.setS_eaddr (c : Ctx) (r : BitVec 5) (v : Word) : (c.setS r v).eaddr = c.eaddr := by unfold Ctx.setS; split <;> rfl
@[simp] theorem Ctx.setS_bwmask (c : Ctx) (r : BitVec 5) (v : Word) : (c.setS r v).bwmask = c.bwmask := by unfold Ctx.setS; split <;> rfl
@[simp] theorem Ctx.setS_parity (c : Ctx) (r : BitVec 5) (v : Word) : (c.setS r v).parity = c.parity := by unfold Ctx.setS; split <;> rfl
@[simp] theorem Ctx.setS_inHandler (c : Ctx) (r : BitVec 5) (v : Word) : (c.setS r v).inHandler = c.inHandler := by unfold Ctx.setS; split <;> rfl
@[simp] theorem Ctx.setS_release (c : Ctx) (r : BitVec 5) (v : Word) : (c.setS r v).release = c.release := by unfold Ctx.setS; split <;> rfl
@[simp] theorem Ctx.setS_epoch (c : Ctx) (r : BitVec 5) (v : Word) : (c.setS r v).epoch = c.epoch := by unfold Ctx.setS; split <;> rfl
@[simp] theorem Ctx.setS_seen (c : Ctx) (r : BitVec 5) (v : Word) : (c.setS r v).seen = c.seen := by unfold Ctx.setS; split <;> rfl

/-! ### Ctx.setP -/

@[simp] theorem Ctx.setP_pc (c : Ctx) (n : Nat) (v : PReg) : (c.setP n v).pc = c.pc := by unfold Ctx.setP; split <;> rfl
@[simp] theorem Ctx.setP_s (c : Ctx) (n : Nat) (v : PReg) : (c.setP n v).s = c.s := by unfold Ctx.setP; split <;> rfl
@[simp] theorem Ctx.setP_v (c : Ctx) (n : Nat) (v : PReg) : (c.setP n v).v = c.v := by unfold Ctx.setP; split <;> rfl
@[simp] theorem Ctx.setP_ox (c : Ctx) (n : Nat) (v : PReg) : (c.setP n v).ox = c.ox := by unfold Ctx.setP; split <;> rfl
@[simp] theorem Ctx.setP_wells (c : Ctx) (n : Nat) (v : PReg) : (c.setP n v).wells = c.wells := by unfold Ctx.setP; split <;> rfl
@[simp] theorem Ctx.setP_vl (c : Ctx) (n : Nat) (v : PReg) : (c.setP n v).vl = c.vl := by unfold Ctx.setP; split <;> rfl
@[simp] theorem Ctx.setP_vty (c : Ctx) (n : Nat) (v : PReg) : (c.setP n v).vty = c.vty := by unfold Ctx.setP; split <;> rfl
@[simp] theorem Ctx.setP_vstart (c : Ctx) (n : Nat) (v : PReg) : (c.setP n v).vstart = c.vstart := by unfold Ctx.setP; split <;> rfl
@[simp] theorem Ctx.setP_vdmap (c : Ctx) (n : Nat) (v : PReg) : (c.setP n v).vdmap = c.vdmap := by unfold Ctx.setP; split <;> rfl
@[simp] theorem Ctx.setP_ffl (c : Ctx) (n : Nat) (v : PReg) : (c.setP n v).ffl = c.ffl := by unfold Ctx.setP; split <;> rfl
@[simp] theorem Ctx.setP_frm (c : Ctx) (n : Nat) (v : PReg) : (c.setP n v).frm = c.frm := by unfold Ctx.setP; split <;> rfl
@[simp] theorem Ctx.setP_tid (c : Ctx) (n : Nat) (v : PReg) : (c.setP n v).tid = c.tid := by unfold Ctx.setP; split <;> rfl
@[simp] theorem Ctx.setP_wcoord (c : Ctx) (n : Nat) (v : PReg) : (c.setP n v).wcoord = c.wcoord := by unfold Ctx.setP; split <;> rfl
@[simp] theorem Ctx.setP_lid (c : Ctx) (n : Nat) (v : PReg) : (c.setP n v).lid = c.lid := by unfold Ctx.setP; split <;> rfl
@[simp] theorem Ctx.setP_prio (c : Ctx) (n : Nat) (v : PReg) : (c.setP n v).prio = c.prio := by unfold Ctx.setP; split <;> rfl
@[simp] theorem Ctx.setP_xprom (c : Ctx) (n : Nat) (v : PReg) : (c.setP n v).xprom = c.xprom := by unfold Ctx.setP; split <;> rfl
@[simp] theorem Ctx.setP_gangst (c : Ctx) (n : Nat) (v : PReg) : (c.setP n v).gangst = c.gangst := by unfold Ctx.setP; split <;> rfl
@[simp] theorem Ctx.setP_epc (c : Ctx) (n : Nat) (v : PReg) : (c.setP n v).epc = c.epc := by unfold Ctx.setP; split <;> rfl
@[simp] theorem Ctx.setP_ecause (c : Ctx) (n : Nat) (v : PReg) : (c.setP n v).ecause = c.ecause := by unfold Ctx.setP; split <;> rfl
@[simp] theorem Ctx.setP_eaddr (c : Ctx) (n : Nat) (v : PReg) : (c.setP n v).eaddr = c.eaddr := by unfold Ctx.setP; split <;> rfl
@[simp] theorem Ctx.setP_bwmask (c : Ctx) (n : Nat) (v : PReg) : (c.setP n v).bwmask = c.bwmask := by unfold Ctx.setP; split <;> rfl
@[simp] theorem Ctx.setP_parity (c : Ctx) (n : Nat) (v : PReg) : (c.setP n v).parity = c.parity := by unfold Ctx.setP; split <;> rfl
@[simp] theorem Ctx.setP_inHandler (c : Ctx) (n : Nat) (v : PReg) : (c.setP n v).inHandler = c.inHandler := by unfold Ctx.setP; split <;> rfl
@[simp] theorem Ctx.setP_release (c : Ctx) (n : Nat) (v : PReg) : (c.setP n v).release = c.release := by unfold Ctx.setP; split <;> rfl
@[simp] theorem Ctx.setP_epoch (c : Ctx) (n : Nat) (v : PReg) : (c.setP n v).epoch = c.epoch := by unfold Ctx.setP; split <;> rfl
@[simp] theorem Ctx.setP_seen (c : Ctx) (n : Nat) (v : PReg) : (c.setP n v).seen = c.seen := by unfold Ctx.setP; split <;> rfl

/-! ### Charging (R65, R66) -/

/-- Rebasing changes accounts only. -/
theorem rebase_eq (s : State) : ∃ (a : LaunchCopy) (l : List LaunchCopy), rebase s = { s with lc := a, core := { s.core with copies := l } }
    ∧ a = { s.lc with ebacc := a.ebacc } := by
  unfold rebase
  split
  · exact ⟨s.lc, s.core.copies, rfl, rfl⟩
  · split
    · exact ⟨s.lc, s.core.copies, rfl, rfl⟩
    · exact ⟨_, _, rfl, rfl⟩

/-- A charge changes accounts only. -/
theorem State.charge_eq (s : State) (n : Nat) : ∃ (a : LaunchCopy) (l : List LaunchCopy),
    s.charge n = { s with lc := a, core := { s.core with copies := l } } ∧ a = { s.lc with ebacc := a.ebacc } := by
  unfold State.charge
  split
  · exact ⟨s.lc, s.core.copies, rfl, rfl⟩
  · obtain ⟨a, l, h, e⟩ := rebase_eq { s with lc := { s.lc with ebacc := s.lc.ebacc + BitVec.ofNat 48 n } }
    refine ⟨a, l, h, ?_⟩
    rw [e]

/-- What completing an instruction does beside its own effect: an account, and PMC0. -/
theorem State.retire_eq (s : State) (n : Nat) : ∃ (a : LaunchCopy) (l : List LaunchCopy),
    s.retire n = { s with lc := a, core := { s.core with copies := l, pmc := s.core.pmc.set 0 (s.core.pmc[0] + 1) } }
    ∧ a = { s.lc with ebacc := a.ebacc } := by
  unfold State.retire
  obtain ⟨a, l, h, e⟩ := s.charge_eq n
  exact ⟨a, l, by rw [h]; rfl, e⟩

@[simp] theorem State.retire_cyc (s : State) (n : Nat) : (s.retire n).cyc = s.cyc := by
  obtain ⟨a, l, h, -⟩ := s.retire_eq n; rw [h]
@[simp] theorem State.retire_cur (s : State) (n : Nat) : (s.retire n).cur = s.cur := by
  obtain ⟨a, l, h, -⟩ := s.retire_eq n; rw [h]
@[simp] theorem State.retire_ctx (s : State) (n : Nat) : (s.retire n).ctx = s.ctx := by
  obtain ⟨a, l, h, -⟩ := s.retire_eq n; rw [h]
@[simp] theorem State.retire_others (s : State) (n : Nat) : (s.retire n).others = s.others := by
  obtain ⟨a, l, h, -⟩ := s.retire_eq n; rw [h]
@[simp] theorem State.retire_mem (s : State) (n : Nat) : (s.retire n).mem = s.mem := by
  obtain ⟨a, l, h, -⟩ := s.retire_eq n; rw [h]
@[simp] theorem State.retire_ctl (s : State) (n : Nat) : (s.retire n).ctl = s.ctl := by
  obtain ⟨a, l, h, -⟩ := s.retire_eq n; rw [h]
@[simp] theorem State.retire_pad (s : State) (n : Nat) : (s.retire n).pad = s.pad := by
  obtain ⟨a, l, h, -⟩ := s.retire_eq n; rw [h]
@[simp] theorem State.retire_present (s : State) (n : Nat) : (s.retire n).present = s.present := by
  obtain ⟨a, l, h, -⟩ := s.retire_eq n; rw [h]
@[simp] theorem State.retire_objects (s : State) (n : Nat) : (s.retire n).objects = s.objects := by
  obtain ⟨a, l, h, -⟩ := s.retire_eq n; rw [h]
@[simp] theorem State.retire_full (s : State) (n : Nat) : (s.retire n).full = s.full := by
  obtain ⟨a, l, h, -⟩ := s.retire_eq n; rw [h]
@[simp] theorem State.retire_poison (s : State) (n : Nat) : (s.retire n).poison = s.poison := by
  obtain ⟨a, l, h, -⟩ := s.retire_eq n; rw [h]
@[simp] theorem State.retire_padPoison (s : State) (n : Nat) : (s.retire n).padPoison = s.padPoison := by
  obtain ⟨a, l, h, -⟩ := s.retire_eq n; rw [h]
@[simp] theorem State.retire_padFlips (s : State) (n : Nat) : (s.retire n).padFlips = s.padFlips := by
  obtain ⟨a, l, h, -⟩ := s.retire_eq n; rw [h]
@[simp] theorem State.retire_pathPoison (s : State) (n : Nat) : (s.retire n).pathPoison = s.pathPoison := by
  obtain ⟨a, l, h, -⟩ := s.retire_eq n; rw [h]
@[simp] theorem State.retire_persisted (s : State) (n : Nat) : (s.retire n).persisted = s.persisted := by
  obtain ⟨a, l, h, -⟩ := s.retire_eq n; rw [h]
@[simp] theorem State.retire_durable (s : State) (n : Nat) : (s.retire n).durable = s.durable := by
  obtain ⟨a, l, h, -⟩ := s.retire_eq n; rw [h]
@[simp] theorem State.retire_durableNext (s : State) (n : Nat) : (s.retire n).durableNext = s.durableNext := by
  obtain ⟨a, l, h, -⟩ := s.retire_eq n; rw [h]
@[simp] theorem State.retire_pbuf (s : State) (n : Nat) : (s.retire n).pbuf = s.pbuf := by
  obtain ⟨a, l, h, -⟩ := s.retire_eq n; rw [h]
@[simp] theorem State.retire_flights (s : State) (n : Nat) : (s.retire n).flights = s.flights := by
  obtain ⟨a, l, h, -⟩ := s.retire_eq n; rw [h]
@[simp] theorem State.retire_clocks (s : State) (n : Nat) : (s.retire n).clocks = s.clocks := by
  obtain ⟨a, l, h, -⟩ := s.retire_eq n; rw [h]
@[simp] theorem State.retire_stamps (s : State) (n : Nat) : (s.retire n).stamps = s.stamps := by
  obtain ⟨a, l, h, -⟩ := s.retire_eq n; rw [h]
@[simp] theorem State.retire_heldStamps (s : State) (n : Nat) : (s.retire n).heldStamps = s.heldStamps := by
  obtain ⟨a, l, h, -⟩ := s.retire_eq n; rw [h]
@[simp] theorem State.retire_rdc (s : State) (n : Nat) : (s.retire n).rdc = s.rdc := by
  obtain ⟨a, l, h, -⟩ := s.retire_eq n; rw [h]
@[simp] theorem State.retire_podSignals (s : State) (n : Nat) : (s.retire n).podSignals = s.podSignals := by
  obtain ⟨a, l, h, -⟩ := s.retire_eq n; rw [h]
@[simp] theorem State.retire_fabric (s : State) (n : Nat) : (s.retire n).fabric = s.fabric := by
  obtain ⟨a, l, h, -⟩ := s.retire_eq n; rw [h]
@[simp] theorem State.retire_fabricNext (s : State) (n : Nat) : (s.retire n).fabricNext = s.fabricNext := by
  obtain ⟨a, l, h, -⟩ := s.retire_eq n; rw [h]
@[simp] theorem State.retire_launches (s : State) (n : Nat) : (s.retire n).launches = s.launches := by
  obtain ⟨a, l, h, -⟩ := s.retire_eq n; rw [h]
@[simp] theorem State.retire_pendingLaunches (s : State) (n : Nat) : (s.retire n).pendingLaunches = s.pendingLaunches := by
  obtain ⟨a, l, h, -⟩ := s.retire_eq n; rw [h]
@[simp] theorem State.retire_nextOrder (s : State) (n : Nat) : (s.retire n).nextOrder = s.nextOrder := by
  obtain ⟨a, l, h, -⟩ := s.retire_eq n; rw [h]
@[simp] theorem State.retire_nextSerial (s : State) (n : Nat) : (s.retire n).nextSerial = s.nextSerial := by
  obtain ⟨a, l, h, -⟩ := s.retire_eq n; rw [h]
@[simp] theorem State.retire_rounds (s : State) (n : Nat) : (s.retire n).rounds = s.rounds := by
  obtain ⟨a, l, h, -⟩ := s.retire_eq n; rw [h]
@[simp] theorem State.retire_view (s : State) (n : Nat) : (s.retire n).view = s.view := by
  obtain ⟨a, l, h, -⟩ := s.retire_eq n; rw [h]
@[simp] theorem State.retire_supervised (s : State) (n : Nat) : (s.retire n).supervised = s.supervised := by
  obtain ⟨a, l, h, -⟩ := s.retire_eq n; rw [h]
@[simp] theorem State.retire_returned (s : State) (n : Nat) : (s.retire n).returned = s.returned := by
  obtain ⟨a, l, h, -⟩ := s.retire_eq n; rw [h]
@[simp] theorem State.retire_waiters (s : State) (n : Nat) : (s.retire n).waiters = s.waiters := by
  obtain ⟨a, l, h, -⟩ := s.retire_eq n; rw [h]
@[simp] theorem State.retire_levelled (s : State) (n : Nat) : (s.retire n).levelled = s.levelled := by
  obtain ⟨a, l, h, -⟩ := s.retire_eq n; rw [h]
@[simp] theorem State.retire_tlb (s : State) (n : Nat) : (s.retire n).tlb = s.tlb := by
  obtain ⟨a, l, h, -⟩ := s.retire_eq n; rw [h]
@[simp] theorem State.retire_walkCache (s : State) (n : Nat) : (s.retire n).walkCache = s.walkCache := by
  obtain ⟨a, l, h, -⟩ := s.retire_eq n; rw [h]
@[simp] theorem State.retire_migration (s : State) (n : Nat) : (s.retire n).migration = s.migration := by
  obtain ⟨a, l, h, -⟩ := s.retire_eq n; rw [h]
@[simp] theorem State.retire_keys (s : State) (n : Nat) : (s.retire n).keys = s.keys := by
  obtain ⟨a, l, h, -⟩ := s.retire_eq n; rw [h]
@[simp] theorem State.retire_keyNext (s : State) (n : Nat) : (s.retire n).keyNext = s.keyNext := by
  obtain ⟨a, l, h, -⟩ := s.retire_eq n; rw [h]
@[simp] theorem State.retire_leases (s : State) (n : Nat) : (s.retire n).leases = s.leases := by
  obtain ⟨a, l, h, -⟩ := s.retire_eq n; rw [h]
@[simp] theorem State.retire_leaseCycles (s : State) (n : Nat) : (s.retire n).leaseCycles = s.leaseCycles := by
  obtain ⟨a, l, h, -⟩ := s.retire_eq n; rw [h]
@[simp] theorem State.retire_rake (s : State) (n : Nat) : (s.retire n).rake = s.rake := by
  obtain ⟨a, l, h, -⟩ := s.retire_eq n; rw [h]
@[simp] theorem State.retire_heldRecords (s : State) (n : Nat) : (s.retire n).heldRecords = s.heldRecords := by
  obtain ⟨a, l, h, -⟩ := s.retire_eq n; rw [h]
@[simp] theorem State.retire_lines (s : State) (n : Nat) : (s.retire n).lines = s.lines := by
  obtain ⟨a, l, h, -⟩ := s.retire_eq n; rw [h]
@[simp] theorem State.retire_bittern (s : State) (n : Nat) : (s.retire n).bittern = s.bittern := by
  obtain ⟨a, l, h, -⟩ := s.retire_eq n; rw [h]
@[simp] theorem State.retire_stationsDown (s : State) (n : Nat) : (s.retire n).stationsDown = s.stationsDown := by
  obtain ⟨a, l, h, -⟩ := s.retire_eq n; rw [h]
@[simp] theorem State.retire_sparesUsed (s : State) (n : Nat) : (s.retire n).sparesUsed = s.sparesUsed := by
  obtain ⟨a, l, h, -⟩ := s.retire_eq n; rw [h]
@[simp] theorem State.retire_snoop (s : State) (n : Nat) : (s.retire n).snoop = s.snoop := by
  obtain ⟨a, l, h, -⟩ := s.retire_eq n; rw [h]
@[simp] theorem State.retire_heldWrites (s : State) (n : Nat) : (s.retire n).heldWrites = s.heldWrites := by
  obtain ⟨a, l, h, -⟩ := s.retire_eq n; rw [h]
@[simp] theorem State.retire_attest (s : State) (n : Nat) : (s.retire n).attest = s.attest := by
  obtain ⟨a, l, h, -⟩ := s.retire_eq n; rw [h]
@[simp] theorem State.retire_reports (s : State) (n : Nat) : (s.retire n).reports = s.reports := by
  obtain ⟨a, l, h, -⟩ := s.retire_eq n; rw [h]
@[simp] theorem State.retire_recovery (s : State) (n : Nat) : (s.retire n).recovery = s.recovery := by
  obtain ⟨a, l, h, -⟩ := s.retire_eq n; rw [h]
@[simp] theorem State.retire_images (s : State) (n : Nat) : (s.retire n).images = s.images := by
  obtain ⟨a, l, h, -⟩ := s.retire_eq n; rw [h]
@[simp] theorem State.retire_errLog (s : State) (n : Nat) : (s.retire n).errLog = s.errLog := by
  obtain ⟨a, l, h, -⟩ := s.retire_eq n; rw [h]
@[simp] theorem State.retire_power (s : State) (n : Nat) : (s.retire n).power = s.power := by
  obtain ⟨a, l, h, -⟩ := s.retire_eq n; rw [h]
@[simp] theorem State.retire_hot (s : State) (n : Nat) : (s.retire n).hot = s.hot := by
  obtain ⟨a, l, h, -⟩ := s.retire_eq n; rw [h]
@[simp] theorem State.retire_cool (s : State) (n : Nat) : (s.retire n).cool = s.cool := by
  obtain ⟨a, l, h, -⟩ := s.retire_eq n; rw [h]
@[simp] theorem State.retire_frozen (s : State) (n : Nat) : (s.retire n).frozen = s.frozen := by
  obtain ⟨a, l, h, -⟩ := s.retire_eq n; rw [h]
@[simp] theorem State.retire_powered (s : State) (n : Nat) : (s.retire n).powered = s.powered := by
  obtain ⟨a, l, h, -⟩ := s.retire_eq n; rw [h]
@[simp] theorem State.retire_schedule (s : State) (n : Nat) : (s.retire n).schedule = s.schedule := by
  obtain ⟨a, l, h, -⟩ := s.retire_eq n; rw [h]
@[simp] theorem State.retire_cut (s : State) (n : Nat) : (s.retire n).cut = s.cut := by
  obtain ⟨a, l, h, -⟩ := s.retire_eq n; rw [h]
@[simp] theorem State.retire_strikes (s : State) (n : Nat) : (s.retire n).strikes = s.strikes := by
  obtain ⟨a, l, h, -⟩ := s.retire_eq n; rw [h]
@[simp] theorem State.retire_pending (s : State) (n : Nat) : (s.retire n).pending = s.pending := by
  obtain ⟨a, l, h, -⟩ := s.retire_eq n; rw [h]
@[simp] theorem State.retire_free (s : State) (n : Nat) : (s.retire n).free = s.free := by
  obtain ⟨a, l, h, -⟩ := s.retire_eq n; rw [h]

@[simp] theorem State.retire_core_cclim (s : State) (n : Nat) : (s.retire n).core.cclim = s.core.cclim := by
  obtain ⟨a, l, h, -⟩ := s.retire_eq n; rw [h]
@[simp] theorem State.retire_core_cclimSet (s : State) (n : Nat) : (s.retire n).core.cclimSet = s.core.cclimSet := by
  obtain ⟨a, l, h, -⟩ := s.retire_eq n; rw [h]
@[simp] theorem State.retire_core_qntm (s : State) (n : Nat) : (s.retire n).core.qntm = s.core.qntm := by
  obtain ⟨a, l, h, -⟩ := s.retire_eq n; rw [h]
@[simp] theorem State.retire_core_qlim (s : State) (n : Nat) : (s.retire n).core.qlim = s.core.qlim := by
  obtain ⟨a, l, h, -⟩ := s.retire_eq n; rw [h]
@[simp] theorem State.retire_core_swth (s : State) (n : Nat) : (s.retire n).core.swth = s.core.swth := by
  obtain ⟨a, l, h, -⟩ := s.retire_eq n; rw [h]
@[simp] theorem State.retire_core_run (s : State) (n : Nat) : (s.retire n).core.run = s.core.run := by
  obtain ⟨a, l, h, -⟩ := s.retire_eq n; rw [h]
@[simp] theorem State.retire_core_qstart (s : State) (n : Nat) : (s.retire n).core.qstart = s.core.qstart := by
  obtain ⟨a, l, h, -⟩ := s.retire_eq n; rw [h]
@[simp] theorem State.retire_core_created (s : State) (n : Nat) : (s.retire n).core.created = s.core.created := by
  obtain ⟨a, l, h, -⟩ := s.retire_eq n; rw [h]
@[simp] theorem State.retire_core_tasks (s : State) (n : Nat) : (s.retire n).core.tasks = s.core.tasks := by
  obtain ⟨a, l, h, -⟩ := s.retire_eq n; rw [h]
@[simp] theorem State.retire_core_restoring (s : State) (n : Nat) : (s.retire n).core.restoring = s.core.restoring := by
  obtain ⟨a, l, h, -⟩ := s.retire_eq n; rw [h]
@[simp] theorem State.retire_core_service (s : State) (n : Nat) : (s.retire n).core.service = s.core.service := by
  obtain ⟨a, l, h, -⟩ := s.retire_eq n; rw [h]
@[simp] theorem State.retire_core_routines (s : State) (n : Nat) : (s.retire n).core.routines = s.core.routines := by
  obtain ⟨a, l, h, -⟩ := s.retire_eq n; rw [h]
@[simp] theorem State.retire_core_closed (s : State) (n : Nat) : (s.retire n).core.closed = s.core.closed := by
  obtain ⟨a, l, h, -⟩ := s.retire_eq n; rw [h]
@[simp] theorem State.retire_core_absent (s : State) (n : Nat) : (s.retire n).core.absent = s.core.absent := by
  obtain ⟨a, l, h, -⟩ := s.retire_eq n; rw [h]
@[simp] theorem State.retire_core_containing (s : State) (n : Nat) : (s.retire n).core.containing = s.core.containing := by
  obtain ⟨a, l, h, -⟩ := s.retire_eq n; rw [h]
@[simp] theorem State.retire_core_ranking (s : State) (n : Nat) : (s.retire n).core.ranking = s.core.ranking := by
  obtain ⟨a, l, h, -⟩ := s.retire_eq n; rw [h]
@[simp] theorem State.retire_core_temp (s : State) (n : Nat) : (s.retire n).core.temp = s.core.temp := by
  obtain ⟨a, l, h, -⟩ := s.retire_eq n; rw [h]
@[simp] theorem State.retire_core_joins (s : State) (n : Nat) : (s.retire n).core.joins = s.core.joins := by
  obtain ⟨a, l, h, -⟩ := s.retire_eq n; rw [h]
@[simp] theorem State.retire_core_ring (s : State) (n : Nat) : (s.retire n).core.ring = s.core.ring := by
  obtain ⟨a, l, h, -⟩ := s.retire_eq n; rw [h]
@[simp] theorem State.retire_core_pfmt (s : State) (n : Nat) : (s.retire n).core.pfmt = s.core.pfmt := by
  obtain ⟨a, l, h, -⟩ := s.retire_eq n; rw [h]
@[simp] theorem State.retire_core_quiesced (s : State) (n : Nat) : (s.retire n).core.quiesced = s.core.quiesced := by
  obtain ⟨a, l, h, -⟩ := s.retire_eq n; rw [h]
@[simp] theorem State.retire_core_claims (s : State) (n : Nat) : (s.retire n).core.claims = s.core.claims := by
  obtain ⟨a, l, h, -⟩ := s.retire_eq n; rw [h]
@[simp] theorem State.retire_core_retention (s : State) (n : Nat) : (s.retire n).core.retention = s.core.retention := by
  obtain ⟨a, l, h, -⟩ := s.retire_eq n; rw [h]
@[simp] theorem State.retire_core_panTime (s : State) (n : Nat) : (s.retire n).core.panTime = s.core.panTime := by
  obtain ⟨a, l, h, -⟩ := s.retire_eq n; rw [h]
@[simp] theorem State.retire_core_preparing (s : State) (n : Nat) : (s.retire n).core.preparing = s.core.preparing := by
  obtain ⟨a, l, h, -⟩ := s.retire_eq n; rw [h]
@[simp] theorem State.retire_core_heldCreations (s : State) (n : Nat) : (s.retire n).core.heldCreations = s.core.heldCreations := by
  obtain ⟨a, l, h, -⟩ := s.retire_eq n; rw [h]
@[simp] theorem State.retire_core_chans (s : State) (n : Nat) : (s.retire n).core.chans = s.core.chans := by
  obtain ⟨a, l, h, -⟩ := s.retire_eq n; rw [h]
@[simp] theorem State.retire_core_sbuf (s : State) (n : Nat) : (s.retire n).core.sbuf = s.core.sbuf := by
  obtain ⟨a, l, h, -⟩ := s.retire_eq n; rw [h]
@[simp] theorem State.retire_core_nextSeq (s : State) (n : Nat) : (s.retire n).core.nextSeq = s.core.nextSeq := by
  obtain ⟨a, l, h, -⟩ := s.retire_eq n; rw [h]
@[simp] theorem State.retire_core_replies (s : State) (n : Nat) : (s.retire n).core.replies = s.core.replies := by
  obtain ⟨a, l, h, -⟩ := s.retire_eq n; rw [h]
@[simp] theorem State.retire_core_promises (s : State) (n : Nat) : (s.retire n).core.promises = s.core.promises := by
  obtain ⟨a, l, h, -⟩ := s.retire_eq n; rw [h]
@[simp] theorem State.retire_core_failed (s : State) (n : Nat) : (s.retire n).core.failed = s.core.failed := by
  obtain ⟨a, l, h, -⟩ := s.retire_eq n; rw [h]
@[simp] theorem State.retire_core_posted (s : State) (n : Nat) : (s.retire n).core.posted = s.core.posted := by
  obtain ⟨a, l, h, -⟩ := s.retire_eq n; rw [h]
@[simp] theorem State.retire_core_answer (s : State) (n : Nat) : (s.retire n).core.answer = s.core.answer := by
  obtain ⟨a, l, h, -⟩ := s.retire_eq n; rw [h]
@[simp] theorem State.retire_core_asked (s : State) (n : Nat) : (s.retire n).core.asked = s.core.asked := by
  obtain ⟨a, l, h, -⟩ := s.retire_eq n; rw [h]
@[simp] theorem State.retire_core_resv (s : State) (n : Nat) : (s.retire n).core.resv = s.core.resv := by
  obtain ⟨a, l, h, -⟩ := s.retire_eq n; rw [h]
@[simp] theorem State.retire_core_vamos (s : State) (n : Nat) : (s.retire n).core.vamos = s.core.vamos := by
  obtain ⟨a, l, h, -⟩ := s.retire_eq n; rw [h]
@[simp] theorem State.retire_core_reductions (s : State) (n : Nat) : (s.retire n).core.reductions = s.core.reductions := by
  obtain ⟨a, l, h, -⟩ := s.retire_eq n; rw [h]
@[simp] theorem State.retire_core_l1 (s : State) (n : Nat) : (s.retire n).core.l1 = s.core.l1 := by
  obtain ⟨a, l, h, -⟩ := s.retire_eq n; rw [h]
@[simp] theorem State.retire_core_fetched (s : State) (n : Nat) : (s.retire n).core.fetched = s.core.fetched := by
  obtain ⟨a, l, h, -⟩ := s.retire_eq n; rw [h]
@[simp] theorem State.retire_core_late (s : State) (n : Nat) : (s.retire n).core.late = s.core.late := by
  obtain ⟨a, l, h, -⟩ := s.retire_eq n; rw [h]
@[simp] theorem State.retire_core_requant (s : State) (n : Nat) : (s.retire n).core.requant = s.core.requant := by
  obtain ⟨a, l, h, -⟩ := s.retire_eq n; rw [h]

@[simp] theorem State.retire_pmc (s : State) (n : Nat) : (s.retire n).core.pmc = s.core.pmc.set 0 (s.core.pmc[0] + 1) := by
  obtain ⟨a, l, h, -⟩ := s.retire_eq n; rw [h]

theorem State.retire_lc (s : State) (n : Nat) : (s.retire n).lc = { s.lc with ebacc := (s.retire n).lc.ebacc } := by
  obtain ⟨a, l, h, e⟩ := s.retire_eq n; rw [h]; exact e

/-! ### Scalar registers (R107) -/

@[simp] theorem Ctx.getS_setS_same (c : Ctx) (r : BitVec 5) (v : Word) : (c.setS r v).getS r = if r = 0 then 0 else v := by
  unfold Ctx.setS Ctx.getS
  split <;> simp_all

theorem Ctx.getS_setS_ne (c : Ctx) {r q : BitVec 5} (v : Word) (h : q ≠ r) : (c.setS r v).getS q = c.getS q := by
  unfold Ctx.setS Ctx.getS
  have : r.toNat ≠ q.toNat := fun e => h (BitVec.eq_of_toNat_eq e.symm)
  split
  · rfl
  · split
    · rfl
    · simp [this]

@[simp] theorem Ctx.getS_zero (c : Ctx) : c.getS 0 = 0 := rfl
@[simp] theorem Ctx.getS_pc (c : Ctx) (w : Word) (r : BitVec 5) : ({ c with pc := w } : Ctx).getS r = c.getS r := rfl

/-- A completed instruction: the state it leaves. -/
theorem complete_next (size beats : Nat) (s : State) : complete size beats s = .next ((s.advance size).retire beats) := rfl

end Sys2Proof.Machine
end

