-- ==== Sys2Proof/Laws/Memory.lean ====
section
/-! SUPPORT. Reads after writes, and the canonical form every memory operation keeps. -/

namespace Sys2Proof.Machine

/-! ### The canonical form -/

theorem memWfFrom_mono {lo lo' : Nat} {m : Mem} (h : memWfFrom lo m = true) (hl : lo' ≤ lo) : memWfFrom lo' m = true := by
  cases m with
  | nil => rfl
  | cons p m =>
    simp only [memWfFrom, Bool.and_eq_true, decide_eq_true_eq] at h ⊢
    exact ⟨⟨Nat.le_trans hl h.1.1, h.1.2⟩, h.2⟩

/-- A write keeps the canonical form. -/
theorem memWfFrom_memWrite {lo k : Nat} {v : Byte} {m : Mem} (h : memWfFrom lo m = true) (hk : lo ≤ k) :
    memWfFrom lo (memWrite m k v) = true := by
  induction m generalizing lo with
  | nil => by_cases hv : v = 0#8 <;> simp [memWrite, hv, memWfFrom, hk]
  | cons p m ih =>
    obtain ⟨a, b⟩ := p
    simp only [memWfFrom, Bool.and_eq_true, decide_eq_true_eq] at h
    obtain ⟨⟨h1, h2⟩, h3⟩ := h
    have hold : memWfFrom lo ((a, b) :: m) = true := by
      simp only [memWfFrom, Bool.and_eq_true, decide_eq_true_eq]; exact ⟨⟨h1, h2⟩, h3⟩
    unfold memWrite
    split
    · split
      · exact hold
      · simp only [memWfFrom, Bool.and_eq_true, decide_eq_true_eq]
        exact ⟨⟨hk, by assumption⟩, ⟨by omega, h2⟩, h3⟩
    · split
      · split
        · exact memWfFrom_mono h3 (by omega)
        · simp only [memWfFrom, Bool.and_eq_true, decide_eq_true_eq]
          subst k
          exact ⟨⟨hk, by assumption⟩, h3⟩
      · simp only [memWfFrom, Bool.and_eq_true, decide_eq_true_eq]
        exact ⟨⟨h1, h2⟩, ih h3 (by omega)⟩

theorem memWrite_wf {m : Mem} (k : Nat) (v : Byte) (h : Memory.wf m = true) : Memory.wf (memWrite m k v) = true :=
  memWfFrom_memWrite h (Nat.zero_le k)

theorem memWriteBytes_wf {m : Mem} (a : Nat) (bs : List Byte) (h : Memory.wf m = true) :
    Memory.wf (memWriteBytes m a bs) = true := by
  induction bs generalizing m a with
  | nil => exact h
  | cons b bs ih => exact ih (a + 1) (memWrite_wf a b h)

theorem ctlStore_wf {m : Mem} (mgmt : Bool) (a : Nat) (bs : List Byte) (h : Memory.wf m = true) :
    Memory.wf (ctlStore mgmt m a bs) = true := by
  induction bs generalizing m a with
  | nil => exact h
  | cons b bs ih => exact ih (a + 1) (memWrite_wf a _ h)

theorem memWfFrom_filter {lo : Nat} {m : Mem} (p : Host.Cell → Bool) (h : memWfFrom lo m = true) :
    memWfFrom lo (m.filter p) = true := by
  induction m generalizing lo with
  | nil => rfl
  | cons q m ih =>
    simp only [memWfFrom, Bool.and_eq_true, decide_eq_true_eq] at h
    obtain ⟨⟨h1, h2⟩, h3⟩ := h
    rw [List.filter_cons]
    split
    · simp only [memWfFrom, Bool.and_eq_true, decide_eq_true_eq]
      exact ⟨⟨h1, h2⟩, ih h3⟩
    · exact memWfFrom_mono (ih h3) (by omega)

theorem memFilter_wf {m : Mem} (p : Host.Cell → Bool) (h : Memory.wf m = true) : Memory.wf (m.filter p) = true :=
  memWfFrom_filter p h

/-! ### Reads -/

theorem memRead_below {lo k : Nat} {m : Mem} (h : memWfFrom lo m = true) (hk : k < lo) : memRead m k = 0 := by
  cases m with
  | nil => rfl
  | cons p m =>
    obtain ⟨a, b⟩ := p
    simp only [memWfFrom, Bool.and_eq_true, decide_eq_true_eq] at h
    unfold memRead
    rw [if_neg (by omega), if_pos (by omega)]

/-- A byte written reads back. -/
theorem memRead_memWrite_same {lo : Nat} {m : Mem} (h : memWfFrom lo m = true) (k : Nat) (v : Byte) :
    memRead (memWrite m k v) k = v := by
  induction m generalizing lo with
  | nil => by_cases hv : v = 0#8 <;> simp [memWrite, hv, memRead]
  | cons p m ih =>
    obtain ⟨a, b⟩ := p
    simp only [memWfFrom, Bool.and_eq_true, decide_eq_true_eq] at h
    unfold memWrite
    split
    · split
      · rw [memRead, if_neg (by omega), if_pos (by assumption)]; symm; assumption
      · rw [memRead, if_pos rfl]
    · split
      · subst k
        split
        · rw [memRead_below h.2 (by omega)]; symm; assumption
        · rw [memRead, if_pos rfl]
      · rename_i h1 h2
        rw [memRead, if_neg (by omega), if_neg h1]
        exact ih h.2

/-- A write leaves every other byte. -/
theorem memRead_memWrite_ne (m : Mem) {j k : Nat} (v : Byte) (hj : j ≠ k) (h : Memory.wf m = true) :
    memRead (memWrite m k v) j = memRead m j := by
  unfold Memory.wf at h
  generalize 0 = lo at h
  induction m generalizing lo with
  | nil =>
    by_cases hv : v = 0#8
    · simp [memWrite, hv]
    · simp [memWrite, hv, memRead, hj]
  | cons p m ih =>
    obtain ⟨a, b⟩ := p
    simp only [memWfFrom, Bool.and_eq_true, decide_eq_true_eq] at h
    unfold memWrite
    split
    · split
      · rfl
      · rw [memRead, if_neg hj]
        split
        · rw [memRead, if_neg (by omega), if_pos (by omega)]
        · rfl
    · split
      · subst k
        split
        · rw [memRead, if_neg hj]
          split
          · exact memRead_below h.2 (by omega)
          · rfl
        · rw [memRead, memRead, if_neg hj, if_neg hj]
      · rw [memRead, memRead, ih _ h.2]

/-- Bytes written leave every byte outside them. -/
theorem memRead_memWriteBytes_out (m : Mem) (a : Nat) (bs : List Byte) (j : Nat) (hj : j < a ∨ a + bs.length ≤ j)
    (h : Memory.wf m = true) : memRead (memWriteBytes m a bs) j = memRead m j := by
  induction bs generalizing m a with
  | nil => rfl
  | cons b bs ih =>
    rw [memWriteBytes, ih _ _ _ (memWrite_wf a b h), memRead_memWrite_ne _ _ _ h]
    · simp only [List.length_cons] at hj; omega
    · simp only [List.length_cons] at hj; omega

/-! ### State -/

/-- What the clocks, caches, reservations and messages of a write leave: every byte memory. -/
def State.SameMems (s t : State) : Prop := t.mem = s.mem ∧ t.ctl = s.ctl ∧ t.pad = s.pad ∧ t.persisted = s.persisted

theorem State.SameMems.refl (s : State) : s.SameMems s := ⟨rfl, rfl, rfl, rfl⟩

theorem State.SameMems.trans {s t u : State} (h : s.SameMems t) (g : t.SameMems u) : s.SameMems u :=
  ⟨g.1.trans h.1, g.2.1.trans h.2.1, g.2.2.1.trans h.2.2.1, g.2.2.2.trans h.2.2.2⟩

theorem State.SameMems.memWf {s t : State} (h : s.SameMems t) (w : s.memWf) : t.memWf := by
  unfold State.memWf
  rw [h.1, h.2.1, h.2.2.1, h.2.2.2]
  exact w

/-- A run of updates that each leave the memories leaves them. -/
theorem foldl_sameMems {α : Type} (f : State → α → State) (hf : ∀ (s : State) (a : α), s.SameMems (f s a)) (s : State) (l : List α) :
    s.SameMems (l.foldl f s) := by
  induction l generalizing s with
  | nil => exact .refl s
  | cons a l ih => exact (hf s a).trans (ih _)

theorem rotateIfLive_sameMems (old s : State) (pa n : Nat) : s.SameMems (rotateIfLive old s pa n) := by
  unfold rotateIfLive
  dsimp only
  split
  · refine foldl_sameMems _ (fun s p => ?_) _ _
    split
    · exact foldl_sameMems (rotateSlot _) (fun _ _ => ⟨rfl, rfl, rfl, rfl⟩) _ _
    · exact .refl s
  · exact .refl s

theorem applyHeld_sameMems (n : Nat) (s : State) : s.SameMems (applyHeld n s) := by
  induction n generalizing s with
  | zero => exact .refl s
  | succ n ih =>
    unfold applyHeld
    split
    · exact .refl s
    · exact State.SameMems.trans ⟨rfl, rfl, rfl, rfl⟩ (ih _)

theorem sendStamped_sameMems (s : State) (a b : Nat) (e : Option Event) : s.SameMems (s.sendStamped a b e) := by
  unfold State.sendStamped State.receive
  dsimp only
  split
  · exact ⟨rfl, rfl, rfl, rfl⟩
  · split
    · exact ⟨rfl, rfl, rfl, rfl⟩
    · exact State.SameMems.trans ⟨rfl, rfl, rfl, rfl⟩ (applyHeld_sameMems _ _)

theorem dropRemote_sameMems (s : State) (keep : Option Nat) (pa n : Nat) : s.SameMems (dropRemote s keep pa n) := by
  unfold dropRemote
  dsimp only
  split
  · exact .refl s
  · split
    · exact State.SameMems.trans ⟨rfl, rfl, rfl, rfl⟩ (foldl_sameMems _ (fun s l => sendStamped_sameMems s _ _ none) _ _)
    · exact ⟨rfl, rfl, rfl, rfl⟩

theorem recall_sameMems (s : State) (line n : Nat) : s.SameMems (s.recall line n) := by
  unfold State.recall
  split <;> exact ⟨rfl, rfl, rfl, rfl⟩

/-- A write that arrives at its point of order keeps the canonical form. -/
theorem writeThrough_memWf (keep : Option Nat) {s : State} (pa : Nat) (bs : List Byte) (h : s.memWf) :
    (writeThrough keep s pa bs).memWf := by
  unfold writeThrough
  split
  · exact (rotateIfLive_sameMems s { s with ctl := ctlStore false s.ctl pa bs } pa bs.length).memWf
      ⟨h.1, ctlStore_wf false pa bs h.2.1, h.2.2.1, h.2.2.2⟩
  · have d := ((dropRemote_sameMems s keep pa bs.length).trans
      (recall_sameMems _ (pa / 128) ((pa + bs.length - 1) / 128 + 1 - pa / 128))).memWf h
    exact ⟨memWriteBytes_wf pa bs d.1, d.2.1, d.2.2.1, d.2.2.2⟩

/-- So does a store of the executing core. -/
theorem storeWrite_memWf {s : State} (pa : Nat) (bs : List Byte) (h : s.memWf) : (storeWrite s pa bs).memWf :=
  writeThrough_memWf _ pa bs h

/-- A write made elsewhere than in the executing core's store buffer keeps it too. -/
theorem physWrite_memWf {s : State} (pa : Nat) (bs : List Byte) (h : s.memWf) : (physWrite s pa bs).memWf := by
  have d := writeThrough_memWf none pa bs h
  exact ⟨d.1, d.2.1, d.2.2.1, d.2.2.2⟩

theorem complete_memWf {s : State} (size beats : Nat) (h : s.memWf) : ((s.advance size).retire beats).memWf := by
  simpa [State.memWf] using h

end Sys2Proof.Machine
end

