-- ==== Sys2Proof/Laws/Complete.lean ====
section
/-! SUPPORT. What `complete` does, in the words of the claims. -/

namespace Sys2Proof.Machine

theorem complete_completed (n beats : Nat) (s : State) : Completed n s ((s.advance n).retire beats) := by
  constructor <;> simp

theorem complete_only (n beats : Nat) (s : State) : OnlyRegisters s ((s.advance n).retire beats) := by
  obtain ⟨a, l, h, e⟩ := (s.advance n).retire_eq beats
  rw [h]
  constructor
  · exact e
  · simp [State.advance]
  · rfl

theorem complete_plain (n beats : Nat) (s : State) : PlainDone n s ((s.advance n).retire beats) :=
  ⟨complete_completed n beats s, by simp [SameButPc], complete_only n beats s, by constructor <;> simp⟩

theorem complete_scalar (n beats : Nat) (d : BitVec 5) (v : Word) (s : State) :
    ScalarDone n d v s (((s.setX d v).advance n).retire beats) := by
  obtain ⟨a, l, h, e⟩ := ((s.setX d v).advance n).retire_eq beats
  refine ⟨?_, ?_, ?_, ?_, ?_⟩
  · constructor <;> simp
  · intro r
    simp only [State.x, State.retire_ctx, State.advance_ctx, State.setX_ctx, Ctx.getS_pc]
    by_cases hr : r = d
    · subst r
      rw [Ctx.getS_setS_same]
      by_cases hd : d = 0
      · subst hd; rfl
      · rw [if_neg hd, if_pos ⟨rfl, hd⟩]
    · rw [Ctx.getS_setS_ne _ _ hr, if_neg (fun h => hr h.1)]
  · unfold SameButScalars
    simp only [State.retire_ctx, State.advance_ctx, State.setX_ctx]
    unfold Ctx.setS
    split <;> rfl
  · rw [h]
    constructor
    · exact e
    · simp [State.advance, State.setX]
    · rfl
  · constructor <;> simp

end Sys2Proof.Machine
end

