-- ==== Sys2Proof/Laws/Events.lean ====
section
/-! SUPPORT. What taking a message can do: nothing where the message is not under way or not due, else its effect on the state without
it. -/

namespace Sys2Proof.Machine

theorem takeEvent_next {e : Event} {s : State} (f : State → State) (h : e ∈ s.pending) :
    takeEvent e s f = .next (f { s.fresh with pending := s.pending.erase e }) := if_pos (by simpa using h)

theorem takeEvent_idle {e : Event} {s : State} (f : State → State) (h : e ∉ s.pending) : takeEvent e s f = .next s :=
  if_neg (by simpa using h)

theorem takeDue_next {e : Event} {s : State} {due : State → Bool} (f : State → State) (h : e ∈ s.pending) (hd : due s = true) :
    takeDue e due s f = .next (f { s.fresh with pending := s.pending.erase e }) := if_pos ⟨by simpa using h, hd⟩

theorem takeDue_idle {e : Event} {s : State} {due : State → Bool} (f : State → State) (h : e ∉ s.pending ∨ due s = false) :
    takeDue e due s f = .next s := by
  refine if_neg fun c => ?_
  rcases h with h | h
  · exact h (by simpa using c.1)
  · rw [h] at c
    exact absurd c.2 (by decide)

/-- Mail for a core waits while the core is sealed (R32, log entry 39). -/
theorem takeMail_next {e : Event} {core : Nat} {s : State} (f : State → State) (h : e ∈ s.pending) (hc : (s.coreOf core).closed = false) :
    takeMail e core s f = .next (f { s.fresh with pending := s.pending.erase e }) := takeDue_next f h (by rw [hc]; rfl)

/-- Sluice serves the queries in the order of their arrival (R445). -/
theorem takeQuery_next {e : Event} {s : State} (f : State → State) (h : s.pending.find? isQuery = some e) :
    takeQuery e s f = .next (f { s.fresh with pending := s.pending.erase e }) :=
  takeDue_next f (List.mem_of_find?_eq_some h) (by simpa using h)

theorem takeQuery_idle {e : Event} {s : State} (f : State → State) (h : s.pending.find? isQuery ≠ some e) : takeQuery e s f = .next s :=
  takeDue_idle f (.inr (by simpa using h))

end Sys2Proof.Machine
end

