-- ==== Sys2Proof/Laws/PerInstr.lean ====
section
/-! SUPPORT. The per-instruction family RoundTrip: the decoder reads back every operand of every encodable
instruction, at every value its fields admit. -/

set_option Elab.async false

namespace Sys2Proof.Laws

/-- The decoder gives `i` back from the word of `i`, for every row that has an encoding. -/
def RoundTrip.Statement (i : Instr) : Prop := i.size ≠ 0 → decodeWord (instrWord i) = .ok i

theorem fld_eq {w lo n : Nat} {x : BitVec n} (h : w / 2 ^ lo % 2 ^ n = x.toNat) : fld w lo n = x := by
  apply BitVec.eq_of_toNat_eq
  simp [fld, h]

/-- One segment of a word written as high part, segment, low part. -/
theorem seg_eq {lo n w x : Nat} (h l : Nat) (hx : x < 2 ^ n) (hl : l < 2 ^ lo)
    (e : w = (h * 2 ^ n + x) * 2 ^ lo + l) : w / 2 ^ lo % 2 ^ n = x := by
  subst e
  rw [Nat.mul_comm, Nat.mul_add_div (Nat.two_pow_pos lo), Nat.div_eq_of_lt hl, Nat.add_zero, Nat.mul_comm,
    Nat.mul_add_mod, Nat.mod_eq_of_lt hx]

theorem roundTrip_of32 (i : Instr) (h : ∀ w, instrWord i = w → w % 2 = 1 ∧ w < 4294967296 ∧ decode32 w = some i) :
    RoundTrip.Statement i := fun _ => by
  obtain ⟨h1, h2, h3⟩ := h _ rfl
  simp [decodeWord, h1, Nat.mod_eq_of_lt h2, h3]

theorem roundTrip_of16 (i : Instr) (h : ∀ w, instrWord i = w → w % 2 = 0 ∧ w < 65536 ∧ decode16 w = some i) :
    RoundTrip.Statement i := fun _ => by
  obtain ⟨h1, h2, h3⟩ := h _ rfl
  simp [decodeWord, h1, Nat.mod_eq_of_lt h2, h3]

theorem layout0 {x0 x1 x2 x3 x4 x5 w : Nat} (h0 : x0 < 2) (h1 : x1 < 128) (h2 : x2 < 512) (h3 : x3 < 32) (h4 : x4 < 32) (h5 : x5 < 32)
    (e : w = x0 * 1 + x1 * 2 + x2 * 256 + x3 * 131072 + x4 * 4194304 + x5 * 134217728) :
    w < 4294967296 ∧ w / 1 % 2 = x0 ∧ w / 2 % 128 = x1 ∧ w / 256 % 512 = x2 ∧ w / 131072 % 32 = x3 ∧ w / 4194304 % 32 = x4 ∧ w / 134217728 % 32 = x5 :=
  ⟨by omega, seg_eq (lo := 0) (n := 1) (x1 * 1 + x2 * 128 + x3 * 65536 + x4 * 2097152 + x5 * 67108864) (0) h0 (by omega) (by omega), seg_eq (lo := 1) (n := 7) (x2 * 1 + x3 * 512 + x4 * 16384 + x5 * 524288) (x0 * 1) h1 (by omega) (by omega), seg_eq (lo := 8) (n := 9) (x3 * 1 + x4 * 32 + x5 * 1024) (x0 * 1 + x1 * 2) h2 (by omega) (by omega), seg_eq (lo := 17) (n := 5) (x4 * 1 + x5 * 32) (x0 * 1 + x1 * 2 + x2 * 256) h3 (by omega) (by omega), seg_eq (lo := 22) (n := 5) (x5 * 1) (x0 * 1 + x1 * 2 + x2 * 256 + x3 * 131072) h4 (by omega) (by omega), seg_eq (lo := 27) (n := 5) (0) (x0 * 1 + x1 * 2 + x2 * 256 + x3 * 131072 + x4 * 4194304) h5 (by omega) (by omega)⟩

theorem layout1 {x0 x1 x2 x3 x4 w : Nat} (h0 : x0 < 2) (h1 : x1 < 128) (h2 : x2 < 16384) (h3 : x3 < 32) (h4 : x4 < 32)
    (e : w = x0 * 1 + x1 * 2 + x2 * 256 + x3 * 4194304 + x4 * 134217728) :
    w < 4294967296 ∧ w / 1 % 2 = x0 ∧ w / 2 % 128 = x1 ∧ w / 256 % 16384 = x2 ∧ w / 4194304 % 32 = x3 ∧ w / 134217728 % 32 = x4 :=
  ⟨by omega, seg_eq (lo := 0) (n := 1) (x1 * 1 + x2 * 128 + x3 * 2097152 + x4 * 67108864) (0) h0 (by omega) (by omega), seg_eq (lo := 1) (n := 7) (x2 * 1 + x3 * 16384 + x4 * 524288) (x0 * 1) h1 (by omega) (by omega), seg_eq (lo := 8) (n := 14) (x3 * 1 + x4 * 32) (x0 * 1 + x1 * 2) h2 (by omega) (by omega), seg_eq (lo := 22) (n := 5) (x4 * 1) (x0 * 1 + x1 * 2 + x2 * 256) h3 (by omega) (by omega), seg_eq (lo := 27) (n := 5) (0) (x0 * 1 + x1 * 2 + x2 * 256 + x3 * 4194304) h4 (by omega) (by omega)⟩

theorem layout2 {x0 x1 x2 x3 x4 x5 w : Nat} (h0 : x0 < 2) (h1 : x1 < 128) (h2 : x2 < 64) (h3 : x3 < 256) (h4 : x4 < 32) (h5 : x5 < 32)
    (e : w = x0 * 1 + x1 * 2 + x2 * 256 + x3 * 16384 + x4 * 4194304 + x5 * 134217728) :
    w < 4294967296 ∧ w / 1 % 2 = x0 ∧ w / 2 % 128 = x1 ∧ w / 256 % 64 = x2 ∧ w / 16384 % 256 = x3 ∧ w / 4194304 % 32 = x4 ∧ w / 134217728 % 32 = x5 :=
  ⟨by omega, seg_eq (lo := 0) (n := 1) (x1 * 1 + x2 * 128 + x3 * 8192 + x4 * 2097152 + x5 * 67108864) (0) h0 (by omega) (by omega), seg_eq (lo := 1) (n := 7) (x2 * 1 + x3 * 64 + x4 * 16384 + x5 * 524288) (x0 * 1) h1 (by omega) (by omega), seg_eq (lo := 8) (n := 6) (x3 * 1 + x4 * 256 + x5 * 8192) (x0 * 1 + x1 * 2) h2 (by omega) (by omega), seg_eq (lo := 14) (n := 8) (x4 * 1 + x5 * 32) (x0 * 1 + x1 * 2 + x2 * 256) h3 (by omega) (by omega), seg_eq (lo := 22) (n := 5) (x5 * 1) (x0 * 1 + x1 * 2 + x2 * 256 + x3 * 16384) h4 (by omega) (by omega), seg_eq (lo := 27) (n := 5) (0) (x0 * 1 + x1 * 2 + x2 * 256 + x3 * 16384 + x4 * 4194304) h5 (by omega) (by omega)⟩

theorem layout3 {x0 x1 x2 x3 w : Nat} (h0 : x0 < 2) (h1 : x1 < 128) (h2 : x2 < 524288) (h3 : x3 < 32)
    (e : w = x0 * 1 + x1 * 2 + x2 * 256 + x3 * 134217728) :
    w < 4294967296 ∧ w / 1 % 2 = x0 ∧ w / 2 % 128 = x1 ∧ w / 256 % 524288 = x2 ∧ w / 134217728 % 32 = x3 :=
  ⟨by omega, seg_eq (lo := 0) (n := 1) (x1 * 1 + x2 * 128 + x3 * 67108864) (0) h0 (by omega) (by omega), seg_eq (lo := 1) (n := 7) (x2 * 1 + x3 * 524288) (x0 * 1) h1 (by omega) (by omega), seg_eq (lo := 8) (n := 19) (x3 * 1) (x0 * 1 + x1 * 2) h2 (by omega) (by omega), seg_eq (lo := 27) (n := 5) (0) (x0 * 1 + x1 * 2 + x2 * 256) h3 (by omega) (by omega)⟩

theorem layout4 {x0 x1 x2 x3 x4 w : Nat} (h0 : x0 < 2) (h1 : x1 < 128) (h2 : x2 < 65536) (h3 : x3 < 8) (h4 : x4 < 32)
    (e : w = x0 * 1 + x1 * 2 + x2 * 256 + x3 * 16777216 + x4 * 134217728) :
    w < 4294967296 ∧ w / 1 % 2 = x0 ∧ w / 2 % 128 = x1 ∧ w / 256 % 65536 = x2 ∧ w / 16777216 % 8 = x3 ∧ w / 134217728 % 32 = x4 :=
  ⟨by omega, seg_eq (lo := 0) (n := 1) (x1 * 1 + x2 * 128 + x3 * 8388608 + x4 * 67108864) (0) h0 (by omega) (by omega), seg_eq (lo := 1) (n := 7) (x2 * 1 + x3 * 65536 + x4 * 524288) (x0 * 1) h1 (by omega) (by omega), seg_eq (lo := 8) (n := 16) (x3 * 1 + x4 * 8) (x0 * 1 + x1 * 2) h2 (by omega) (by omega), seg_eq (lo := 24) (n := 3) (x4 * 1) (x0 * 1 + x1 * 2 + x2 * 256) h3 (by omega) (by omega), seg_eq (lo := 27) (n := 5) (0) (x0 * 1 + x1 * 2 + x2 * 256 + x3 * 16777216) h4 (by omega) (by omega)⟩

theorem layout5 {x0 x1 x2 x3 x4 x5 x6 x7 w : Nat} (h0 : x0 < 2) (h1 : x1 < 128) (h2 : x2 < 64) (h3 : x3 < 64) (h4 : x4 < 2) (h5 : x5 < 2) (h6 : x6 < 32) (h7 : x7 < 32)
    (e : w = x0 * 1 + x1 * 2 + x2 * 256 + x3 * 16384 + x4 * 1048576 + x5 * 2097152 + x6 * 4194304 + x7 * 134217728) :
    w < 4294967296 ∧ w / 1 % 2 = x0 ∧ w / 2 % 128 = x1 ∧ w / 256 % 64 = x2 ∧ w / 16384 % 64 = x3 ∧ w / 1048576 % 2 = x4 ∧ w / 2097152 % 2 = x5 ∧ w / 4194304 % 32 = x6 ∧ w / 134217728 % 32 = x7 :=
  ⟨by omega, seg_eq (lo := 0) (n := 1) (x1 * 1 + x2 * 128 + x3 * 8192 + x4 * 524288 + x5 * 1048576 + x6 * 2097152 + x7 * 67108864) (0) h0 (by omega) (by omega), seg_eq (lo := 1) (n := 7) (x2 * 1 + x3 * 64 + x4 * 4096 + x5 * 8192 + x6 * 16384 + x7 * 524288) (x0 * 1) h1 (by omega) (by omega), seg_eq (lo := 8) (n := 6) (x3 * 1 + x4 * 64 + x5 * 128 + x6 * 256 + x7 * 8192) (x0 * 1 + x1 * 2) h2 (by omega) (by omega), seg_eq (lo := 14) (n := 6) (x4 * 1 + x5 * 2 + x6 * 4 + x7 * 128) (x0 * 1 + x1 * 2 + x2 * 256) h3 (by omega) (by omega), seg_eq (lo := 20) (n := 1) (x5 * 1 + x6 * 2 + x7 * 64) (x0 * 1 + x1 * 2 + x2 * 256 + x3 * 16384) h4 (by omega) (by omega), seg_eq (lo := 21) (n := 1) (x6 * 1 + x7 * 32) (x0 * 1 + x1 * 2 + x2 * 256 + x3 * 16384 + x4 * 1048576) h5 (by omega) (by omega), seg_eq (lo := 22) (n := 5) (x7 * 1) (x0 * 1 + x1 * 2 + x2 * 256 + x3 * 16384 + x4 * 1048576 + x5 * 2097152) h6 (by omega) (by omega), seg_eq (lo := 27) (n := 5) (0) (x0 * 1 + x1 * 2 + x2 * 256 + x3 * 16384 + x4 * 1048576 + x5 * 2097152 + x6 * 4194304) h7 (by omega) (by omega)⟩

theorem layout6 {x0 x1 x2 x3 x4 x5 x6 w : Nat} (h0 : x0 < 2) (h1 : x1 < 128) (h2 : x2 < 64) (h3 : x3 < 64) (h4 : x4 < 4) (h5 : x5 < 32) (h6 : x6 < 32)
    (e : w = x0 * 1 + x1 * 2 + x2 * 256 + x3 * 16384 + x4 * 1048576 + x5 * 4194304 + x6 * 134217728) :
    w < 4294967296 ∧ w / 1 % 2 = x0 ∧ w / 2 % 128 = x1 ∧ w / 256 % 64 = x2 ∧ w / 16384 % 64 = x3 ∧ w / 1048576 % 4 = x4 ∧ w / 4194304 % 32 = x5 ∧ w / 134217728 % 32 = x6 :=
  ⟨by omega, seg_eq (lo := 0) (n := 1) (x1 * 1 + x2 * 128 + x3 * 8192 + x4 * 524288 + x5 * 2097152 + x6 * 67108864) (0) h0 (by omega) (by omega), seg_eq (lo := 1) (n := 7) (x2 * 1 + x3 * 64 + x4 * 4096 + x5 * 16384 + x6 * 524288) (x0 * 1) h1 (by omega) (by omega), seg_eq (lo := 8) (n := 6) (x3 * 1 + x4 * 64 + x5 * 256 + x6 * 8192) (x0 * 1 + x1 * 2) h2 (by omega) (by omega), seg_eq (lo := 14) (n := 6) (x4 * 1 + x5 * 4 + x6 * 128) (x0 * 1 + x1 * 2 + x2 * 256) h3 (by omega) (by omega), seg_eq (lo := 20) (n := 2) (x5 * 1 + x6 * 32) (x0 * 1 + x1 * 2 + x2 * 256 + x3 * 16384) h4 (by omega) (by omega), seg_eq (lo := 22) (n := 5) (x6 * 1) (x0 * 1 + x1 * 2 + x2 * 256 + x3 * 16384 + x4 * 1048576) h5 (by omega) (by omega), seg_eq (lo := 27) (n := 5) (0) (x0 * 1 + x1 * 2 + x2 * 256 + x3 * 16384 + x4 * 1048576 + x5 * 4194304) h6 (by omega) (by omega)⟩

theorem layout7 {x0 x1 x2 x3 x4 x5 x6 x7 w : Nat} (h0 : x0 < 2) (h1 : x1 < 128) (h2 : x2 < 32) (h3 : x3 < 32) (h4 : x4 < 8) (h5 : x5 < 2) (h6 : x6 < 32) (h7 : x7 < 32)
    (e : w = x0 * 1 + x1 * 2 + x2 * 256 + x3 * 8192 + x4 * 262144 + x5 * 2097152 + x6 * 4194304 + x7 * 134217728) :
    w < 4294967296 ∧ w / 1 % 2 = x0 ∧ w / 2 % 128 = x1 ∧ w / 256 % 32 = x2 ∧ w / 8192 % 32 = x3 ∧ w / 262144 % 8 = x4 ∧ w / 2097152 % 2 = x5 ∧ w / 4194304 % 32 = x6 ∧ w / 134217728 % 32 = x7 :=
  ⟨by omega, seg_eq (lo := 0) (n := 1) (x1 * 1 + x2 * 128 + x3 * 4096 + x4 * 131072 + x5 * 1048576 + x6 * 2097152 + x7 * 67108864) (0) h0 (by omega) (by omega), seg_eq (lo := 1) (n := 7) (x2 * 1 + x3 * 32 + x4 * 1024 + x5 * 8192 + x6 * 16384 + x7 * 524288) (x0 * 1) h1 (by omega) (by omega), seg_eq (lo := 8) (n := 5) (x3 * 1 + x4 * 32 + x5 * 256 + x6 * 512 + x7 * 16384) (x0 * 1 + x1 * 2) h2 (by omega) (by omega), seg_eq (lo := 13) (n := 5) (x4 * 1 + x5 * 8 + x6 * 16 + x7 * 512) (x0 * 1 + x1 * 2 + x2 * 256) h3 (by omega) (by omega), seg_eq (lo := 18) (n := 3) (x5 * 1 + x6 * 2 + x7 * 64) (x0 * 1 + x1 * 2 + x2 * 256 + x3 * 8192) h4 (by omega) (by omega), seg_eq (lo := 21) (n := 1) (x6 * 1 + x7 * 32) (x0 * 1 + x1 * 2 + x2 * 256 + x3 * 8192 + x4 * 262144) h5 (by omega) (by omega), seg_eq (lo := 22) (n := 5) (x7 * 1) (x0 * 1 + x1 * 2 + x2 * 256 + x3 * 8192 + x4 * 262144 + x5 * 2097152) h6 (by omega) (by omega), seg_eq (lo := 27) (n := 5) (0) (x0 * 1 + x1 * 2 + x2 * 256 + x3 * 8192 + x4 * 262144 + x5 * 2097152 + x6 * 4194304) h7 (by omega) (by omega)⟩

theorem layout8 {x0 x1 x2 x3 x4 x5 w : Nat} (h0 : x0 < 2) (h1 : x1 < 128) (h2 : x2 < 4) (h3 : x3 < 4096) (h4 : x4 < 32) (h5 : x5 < 32)
    (e : w = x0 * 1 + x1 * 2 + x2 * 256 + x3 * 1024 + x4 * 4194304 + x5 * 134217728) :
    w < 4294967296 ∧ w / 1 % 2 = x0 ∧ w / 2 % 128 = x1 ∧ w / 256 % 4 = x2 ∧ w / 1024 % 4096 = x3 ∧ w / 4194304 % 32 = x4 ∧ w / 134217728 % 32 = x5 :=
  ⟨by omega, seg_eq (lo := 0) (n := 1) (x1 * 1 + x2 * 128 + x3 * 512 + x4 * 2097152 + x5 * 67108864) (0) h0 (by omega) (by omega), seg_eq (lo := 1) (n := 7) (x2 * 1 + x3 * 4 + x4 * 16384 + x5 * 524288) (x0 * 1) h1 (by omega) (by omega), seg_eq (lo := 8) (n := 2) (x3 * 1 + x4 * 4096 + x5 * 131072) (x0 * 1 + x1 * 2) h2 (by omega) (by omega), seg_eq (lo := 10) (n := 12) (x4 * 1 + x5 * 32) (x0 * 1 + x1 * 2 + x2 * 256) h3 (by omega) (by omega), seg_eq (lo := 22) (n := 5) (x5 * 1) (x0 * 1 + x1 * 2 + x2 * 256 + x3 * 1024) h4 (by omega) (by omega), seg_eq (lo := 27) (n := 5) (0) (x0 * 1 + x1 * 2 + x2 * 256 + x3 * 1024 + x4 * 4194304) h5 (by omega) (by omega)⟩

theorem layout9 {x0 x1 x2 x3 x4 x5 x6 x7 w : Nat} (h0 : x0 < 2) (h1 : x1 < 128) (h2 : x2 < 32) (h3 : x3 < 8) (h4 : x4 < 2) (h5 : x5 < 32) (h6 : x6 < 32) (h7 : x7 < 32)
    (e : w = x0 * 1 + x1 * 2 + x2 * 256 + x3 * 8192 + x4 * 65536 + x5 * 131072 + x6 * 4194304 + x7 * 134217728) :
    w < 4294967296 ∧ w / 1 % 2 = x0 ∧ w / 2 % 128 = x1 ∧ w / 256 % 32 = x2 ∧ w / 8192 % 8 = x3 ∧ w / 65536 % 2 = x4 ∧ w / 131072 % 32 = x5 ∧ w / 4194304 % 32 = x6 ∧ w / 134217728 % 32 = x7 :=
  ⟨by omega, seg_eq (lo := 0) (n := 1) (x1 * 1 + x2 * 128 + x3 * 4096 + x4 * 32768 + x5 * 65536 + x6 * 2097152 + x7 * 67108864) (0) h0 (by omega) (by omega), seg_eq (lo := 1) (n := 7) (x2 * 1 + x3 * 32 + x4 * 256 + x5 * 512 + x6 * 16384 + x7 * 524288) (x0 * 1) h1 (by omega) (by omega), seg_eq (lo := 8) (n := 5) (x3 * 1 + x4 * 8 + x5 * 16 + x6 * 512 + x7 * 16384) (x0 * 1 + x1 * 2) h2 (by omega) (by omega), seg_eq (lo := 13) (n := 3) (x4 * 1 + x5 * 2 + x6 * 64 + x7 * 2048) (x0 * 1 + x1 * 2 + x2 * 256) h3 (by omega) (by omega), seg_eq (lo := 16) (n := 1) (x5 * 1 + x6 * 32 + x7 * 1024) (x0 * 1 + x1 * 2 + x2 * 256 + x3 * 8192) h4 (by omega) (by omega), seg_eq (lo := 17) (n := 5) (x6 * 1 + x7 * 32) (x0 * 1 + x1 * 2 + x2 * 256 + x3 * 8192 + x4 * 65536) h5 (by omega) (by omega), seg_eq (lo := 22) (n := 5) (x7 * 1) (x0 * 1 + x1 * 2 + x2 * 256 + x3 * 8192 + x4 * 65536 + x5 * 131072) h6 (by omega) (by omega), seg_eq (lo := 27) (n := 5) (0) (x0 * 1 + x1 * 2 + x2 * 256 + x3 * 8192 + x4 * 65536 + x5 * 131072 + x6 * 4194304) h7 (by omega) (by omega)⟩

theorem layout10 {x0 x1 x2 w : Nat} (h0 : x0 < 2) (h1 : x1 < 128) (h2 : x2 < 16777216)
    (e : w = x0 * 1 + x1 * 2 + x2 * 256) :
    w < 4294967296 ∧ w / 1 % 2 = x0 ∧ w / 2 % 128 = x1 ∧ w / 256 % 16777216 = x2 :=
  ⟨by omega, seg_eq (lo := 0) (n := 1) (x1 * 1 + x2 * 128) (0) h0 (by omega) (by omega), seg_eq (lo := 1) (n := 7) (x2 * 1) (x0 * 1) h1 (by omega) (by omega), seg_eq (lo := 8) (n := 24) (0) (x0 * 1 + x1 * 2) h2 (by omega) (by omega)⟩

theorem layout11 {x0 x1 x2 x3 x4 w : Nat} (h0 : x0 < 2) (h1 : x1 < 128) (h2 : x2 < 131072) (h3 : x3 < 4) (h4 : x4 < 32)
    (e : w = x0 * 1 + x1 * 2 + x2 * 256 + x3 * 33554432 + x4 * 134217728) :
    w < 4294967296 ∧ w / 1 % 2 = x0 ∧ w / 2 % 128 = x1 ∧ w / 256 % 131072 = x2 ∧ w / 33554432 % 4 = x3 ∧ w / 134217728 % 32 = x4 :=
  ⟨by omega, seg_eq (lo := 0) (n := 1) (x1 * 1 + x2 * 128 + x3 * 16777216 + x4 * 67108864) (0) h0 (by omega) (by omega), seg_eq (lo := 1) (n := 7) (x2 * 1 + x3 * 131072 + x4 * 524288) (x0 * 1) h1 (by omega) (by omega), seg_eq (lo := 8) (n := 17) (x3 * 1 + x4 * 4) (x0 * 1 + x1 * 2) h2 (by omega) (by omega), seg_eq (lo := 25) (n := 2) (x4 * 1) (x0 * 1 + x1 * 2 + x2 * 256) h3 (by omega) (by omega), seg_eq (lo := 27) (n := 5) (0) (x0 * 1 + x1 * 2 + x2 * 256 + x3 * 33554432) h4 (by omega) (by omega)⟩

theorem layout12 {x0 x1 x2 x3 w : Nat} (h0 : x0 < 2) (h1 : x1 < 32) (h2 : x2 < 32) (h3 : x3 < 32)
    (e : w = x0 * 1 + x1 * 2 + x2 * 64 + x3 * 2048) :
    w < 65536 ∧ w / 1 % 2 = x0 ∧ w / 2 % 32 = x1 ∧ w / 64 % 32 = x2 ∧ w / 2048 % 32 = x3 :=
  ⟨by omega, seg_eq (lo := 0) (n := 1) (x1 * 1 + x2 * 32 + x3 * 1024) (0) h0 (by omega) (by omega), seg_eq (lo := 1) (n := 5) (x2 * 1 + x3 * 32) (x0 * 1) h1 (by omega) (by omega), seg_eq (lo := 6) (n := 5) (x3 * 1) (x0 * 1 + x1 * 2) h2 (by omega) (by omega), seg_eq (lo := 11) (n := 5) (0) (x0 * 1 + x1 * 2 + x2 * 64) h3 (by omega) (by omega)⟩

theorem layout13 {x0 x1 x2 w : Nat} (h0 : x0 < 2) (h1 : x1 < 32) (h2 : x2 < 1024)
    (e : w = x0 * 1 + x1 * 2 + x2 * 64) :
    w < 65536 ∧ w / 1 % 2 = x0 ∧ w / 2 % 32 = x1 ∧ w / 64 % 1024 = x2 :=
  ⟨by omega, seg_eq (lo := 0) (n := 1) (x1 * 1 + x2 * 32) (0) h0 (by omega) (by omega), seg_eq (lo := 1) (n := 5) (x2 * 1) (x0 * 1) h1 (by omega) (by omega), seg_eq (lo := 6) (n := 10) (0) (x0 * 1 + x1 * 2) h2 (by omega) (by omega)⟩

theorem layout14 {x0 x1 x2 x3 x4 w : Nat} (h0 : x0 < 2) (h1 : x1 < 32) (h2 : x2 < 16) (h3 : x3 < 2) (h4 : x4 < 32)
    (e : w = x0 * 1 + x1 * 2 + x2 * 64 + x3 * 1024 + x4 * 2048) :
    w < 65536 ∧ w / 1 % 2 = x0 ∧ w / 2 % 32 = x1 ∧ w / 64 % 16 = x2 ∧ w / 1024 % 2 = x3 ∧ w / 2048 % 32 = x4 :=
  ⟨by omega, seg_eq (lo := 0) (n := 1) (x1 * 1 + x2 * 32 + x3 * 512 + x4 * 1024) (0) h0 (by omega) (by omega), seg_eq (lo := 1) (n := 5) (x2 * 1 + x3 * 16 + x4 * 32) (x0 * 1) h1 (by omega) (by omega), seg_eq (lo := 6) (n := 4) (x3 * 1 + x4 * 2) (x0 * 1 + x1 * 2) h2 (by omega) (by omega), seg_eq (lo := 10) (n := 1) (x4 * 1) (x0 * 1 + x1 * 2 + x2 * 64) h3 (by omega) (by omega), seg_eq (lo := 11) (n := 5) (0) (x0 * 1 + x1 * 2 + x2 * 64 + x3 * 1024) h4 (by omega) (by omega)⟩

theorem layout15 {x0 x1 x2 x3 x4 x5 x6 x7 w : Nat} (h0 : x0 < 2) (h1 : x1 < 128) (h2 : x2 < 8) (h3 : x3 < 4) (h4 : x4 < 16) (h5 : x5 < 32) (h6 : x6 < 32) (h7 : x7 < 32)
    (e : w = x0 * 1 + x1 * 2 + x2 * 256 + x3 * 2048 + x4 * 8192 + x5 * 131072 + x6 * 4194304 + x7 * 134217728) :
    w < 4294967296 ∧ w / 1 % 2 = x0 ∧ w / 2 % 128 = x1 ∧ w / 256 % 8 = x2 ∧ w / 2048 % 4 = x3 ∧ w / 8192 % 16 = x4 ∧ w / 131072 % 32 = x5 ∧ w / 4194304 % 32 = x6 ∧ w / 134217728 % 32 = x7 :=
  ⟨by omega, seg_eq (lo := 0) (n := 1) (x1 * 1 + x2 * 128 + x3 * 1024 + x4 * 4096 + x5 * 65536 + x6 * 2097152 + x7 * 67108864) (0) h0 (by omega) (by omega), seg_eq (lo := 1) (n := 7) (x2 * 1 + x3 * 8 + x4 * 32 + x5 * 512 + x6 * 16384 + x7 * 524288) (x0 * 1) h1 (by omega) (by omega), seg_eq (lo := 8) (n := 3) (x3 * 1 + x4 * 4 + x5 * 64 + x6 * 2048 + x7 * 65536) (x0 * 1 + x1 * 2) h2 (by omega) (by omega), seg_eq (lo := 11) (n := 2) (x4 * 1 + x5 * 16 + x6 * 512 + x7 * 16384) (x0 * 1 + x1 * 2 + x2 * 256) h3 (by omega) (by omega), seg_eq (lo := 13) (n := 4) (x5 * 1 + x6 * 32 + x7 * 1024) (x0 * 1 + x1 * 2 + x2 * 256 + x3 * 2048) h4 (by omega) (by omega), seg_eq (lo := 17) (n := 5) (x6 * 1 + x7 * 32) (x0 * 1 + x1 * 2 + x2 * 256 + x3 * 2048 + x4 * 8192) h5 (by omega) (by omega), seg_eq (lo := 22) (n := 5) (x7 * 1) (x0 * 1 + x1 * 2 + x2 * 256 + x3 * 2048 + x4 * 8192 + x5 * 131072) h6 (by omega) (by omega), seg_eq (lo := 27) (n := 5) (0) (x0 * 1 + x1 * 2 + x2 * 256 + x3 * 2048 + x4 * 8192 + x5 * 131072 + x6 * 4194304) h7 (by omega) (by omega)⟩

theorem layout16 {x0 x1 x2 x3 x4 x5 x6 w : Nat} (h0 : x0 < 2) (h1 : x1 < 128) (h2 : x2 < 8) (h3 : x3 < 4) (h4 : x4 < 16) (h5 : x5 < 1024) (h6 : x6 < 32)
    (e : w = x0 * 1 + x1 * 2 + x2 * 256 + x3 * 2048 + x4 * 8192 + x5 * 131072 + x6 * 134217728) :
    w < 4294967296 ∧ w / 1 % 2 = x0 ∧ w / 2 % 128 = x1 ∧ w / 256 % 8 = x2 ∧ w / 2048 % 4 = x3 ∧ w / 8192 % 16 = x4 ∧ w / 131072 % 1024 = x5 ∧ w / 134217728 % 32 = x6 :=
  ⟨by omega, seg_eq (lo := 0) (n := 1) (x1 * 1 + x2 * 128 + x3 * 1024 + x4 * 4096 + x5 * 65536 + x6 * 67108864) (0) h0 (by omega) (by omega), seg_eq (lo := 1) (n := 7) (x2 * 1 + x3 * 8 + x4 * 32 + x5 * 512 + x6 * 524288) (x0 * 1) h1 (by omega) (by omega), seg_eq (lo := 8) (n := 3) (x3 * 1 + x4 * 4 + x5 * 64 + x6 * 65536) (x0 * 1 + x1 * 2) h2 (by omega) (by omega), seg_eq (lo := 11) (n := 2) (x4 * 1 + x5 * 16 + x6 * 16384) (x0 * 1 + x1 * 2 + x2 * 256) h3 (by omega) (by omega), seg_eq (lo := 13) (n := 4) (x5 * 1 + x6 * 1024) (x0 * 1 + x1 * 2 + x2 * 256 + x3 * 2048) h4 (by omega) (by omega), seg_eq (lo := 17) (n := 10) (x6 * 1) (x0 * 1 + x1 * 2 + x2 * 256 + x3 * 2048 + x4 * 8192) h5 (by omega) (by omega), seg_eq (lo := 27) (n := 5) (0) (x0 * 1 + x1 * 2 + x2 * 256 + x3 * 2048 + x4 * 8192 + x5 * 131072) h6 (by omega) (by omega)⟩

theorem layout17 {x0 x1 x2 x3 x4 x5 x6 w : Nat} (h0 : x0 < 2) (h1 : x1 < 128) (h2 : x2 < 32) (h3 : x3 < 2) (h4 : x4 < 64) (h5 : x5 < 64) (h6 : x6 < 64)
    (e : w = x0 * 1 + x1 * 2 + x2 * 256 + x3 * 8192 + x4 * 16384 + x5 * 1048576 + x6 * 67108864) :
    w < 4294967296 ∧ w / 1 % 2 = x0 ∧ w / 2 % 128 = x1 ∧ w / 256 % 32 = x2 ∧ w / 8192 % 2 = x3 ∧ w / 16384 % 64 = x4 ∧ w / 1048576 % 64 = x5 ∧ w / 67108864 % 64 = x6 :=
  ⟨by omega, seg_eq (lo := 0) (n := 1) (x1 * 1 + x2 * 128 + x3 * 4096 + x4 * 8192 + x5 * 524288 + x6 * 33554432) (0) h0 (by omega) (by omega), seg_eq (lo := 1) (n := 7) (x2 * 1 + x3 * 32 + x4 * 64 + x5 * 4096 + x6 * 262144) (x0 * 1) h1 (by omega) (by omega), seg_eq (lo := 8) (n := 5) (x3 * 1 + x4 * 2 + x5 * 128 + x6 * 8192) (x0 * 1 + x1 * 2) h2 (by omega) (by omega), seg_eq (lo := 13) (n := 1) (x4 * 1 + x5 * 64 + x6 * 4096) (x0 * 1 + x1 * 2 + x2 * 256) h3 (by omega) (by omega), seg_eq (lo := 14) (n := 6) (x5 * 1 + x6 * 64) (x0 * 1 + x1 * 2 + x2 * 256 + x3 * 8192) h4 (by omega) (by omega), seg_eq (lo := 20) (n := 6) (x6 * 1) (x0 * 1 + x1 * 2 + x2 * 256 + x3 * 8192 + x4 * 16384) h5 (by omega) (by omega), seg_eq (lo := 26) (n := 6) (0) (x0 * 1 + x1 * 2 + x2 * 256 + x3 * 8192 + x4 * 16384 + x5 * 1048576) h6 (by omega) (by omega)⟩

theorem layout18 {x0 x1 x2 x3 x4 x5 x6 w : Nat} (h0 : x0 < 2) (h1 : x1 < 128) (h2 : x2 < 16) (h3 : x3 < 8) (h4 : x4 < 64) (h5 : x5 < 64) (h6 : x6 < 32)
    (e : w = x0 * 1 + x1 * 2 + x2 * 256 + x3 * 4096 + x4 * 32768 + x5 * 2097152 + x6 * 134217728) :
    w < 4294967296 ∧ w / 1 % 2 = x0 ∧ w / 2 % 128 = x1 ∧ w / 256 % 16 = x2 ∧ w / 4096 % 8 = x3 ∧ w / 32768 % 64 = x4 ∧ w / 2097152 % 64 = x5 ∧ w / 134217728 % 32 = x6 :=
  ⟨by omega, seg_eq (lo := 0) (n := 1) (x1 * 1 + x2 * 128 + x3 * 2048 + x4 * 16384 + x5 * 1048576 + x6 * 67108864) (0) h0 (by omega) (by omega), seg_eq (lo := 1) (n := 7) (x2 * 1 + x3 * 16 + x4 * 128 + x5 * 8192 + x6 * 524288) (x0 * 1) h1 (by omega) (by omega), seg_eq (lo := 8) (n := 4) (x3 * 1 + x4 * 8 + x5 * 512 + x6 * 32768) (x0 * 1 + x1 * 2) h2 (by omega) (by omega), seg_eq (lo := 12) (n := 3) (x4 * 1 + x5 * 64 + x6 * 4096) (x0 * 1 + x1 * 2 + x2 * 256) h3 (by omega) (by omega), seg_eq (lo := 15) (n := 6) (x5 * 1 + x6 * 64) (x0 * 1 + x1 * 2 + x2 * 256 + x3 * 4096) h4 (by omega) (by omega), seg_eq (lo := 21) (n := 6) (x6 * 1) (x0 * 1 + x1 * 2 + x2 * 256 + x3 * 4096 + x4 * 32768) h5 (by omega) (by omega), seg_eq (lo := 27) (n := 5) (0) (x0 * 1 + x1 * 2 + x2 * 256 + x3 * 4096 + x4 * 32768 + x5 * 2097152) h6 (by omega) (by omega)⟩

theorem layout19 {x0 x1 x2 x3 x4 x5 x6 x7 w : Nat} (h0 : x0 < 2) (h1 : x1 < 128) (h2 : x2 < 32) (h3 : x3 < 2) (h4 : x4 < 2) (h5 : x5 < 32) (h6 : x6 < 64) (h7 : x7 < 64)
    (e : w = x0 * 1 + x1 * 2 + x2 * 256 + x3 * 8192 + x4 * 16384 + x5 * 32768 + x6 * 1048576 + x7 * 67108864) :
    w < 4294967296 ∧ w / 1 % 2 = x0 ∧ w / 2 % 128 = x1 ∧ w / 256 % 32 = x2 ∧ w / 8192 % 2 = x3 ∧ w / 16384 % 2 = x4 ∧ w / 32768 % 32 = x5 ∧ w / 1048576 % 64 = x6 ∧ w / 67108864 % 64 = x7 :=
  ⟨by omega, seg_eq (lo := 0) (n := 1) (x1 * 1 + x2 * 128 + x3 * 4096 + x4 * 8192 + x5 * 16384 + x6 * 524288 + x7 * 33554432) (0) h0 (by omega) (by omega), seg_eq (lo := 1) (n := 7) (x2 * 1 + x3 * 32 + x4 * 64 + x5 * 128 + x6 * 4096 + x7 * 262144) (x0 * 1) h1 (by omega) (by omega), seg_eq (lo := 8) (n := 5) (x3 * 1 + x4 * 2 + x5 * 4 + x6 * 128 + x7 * 8192) (x0 * 1 + x1 * 2) h2 (by omega) (by omega), seg_eq (lo := 13) (n := 1) (x4 * 1 + x5 * 2 + x6 * 64 + x7 * 4096) (x0 * 1 + x1 * 2 + x2 * 256) h3 (by omega) (by omega), seg_eq (lo := 14) (n := 1) (x5 * 1 + x6 * 32 + x7 * 2048) (x0 * 1 + x1 * 2 + x2 * 256 + x3 * 8192) h4 (by omega) (by omega), seg_eq (lo := 15) (n := 5) (x6 * 1 + x7 * 64) (x0 * 1 + x1 * 2 + x2 * 256 + x3 * 8192 + x4 * 16384) h5 (by omega) (by omega), seg_eq (lo := 20) (n := 6) (x7 * 1) (x0 * 1 + x1 * 2 + x2 * 256 + x3 * 8192 + x4 * 16384 + x5 * 32768) h6 (by omega) (by omega), seg_eq (lo := 26) (n := 6) (0) (x0 * 1 + x1 * 2 + x2 * 256 + x3 * 8192 + x4 * 16384 + x5 * 32768 + x6 * 1048576) h7 (by omega) (by omega)⟩

theorem layout20 {x0 x1 x2 x3 x4 x5 x6 w : Nat} (h0 : x0 < 2) (h1 : x1 < 128) (h2 : x2 < 128) (h3 : x3 < 32) (h4 : x4 < 64) (h5 : x5 < 32) (h6 : x6 < 2)
    (e : w = x0 * 1 + x1 * 2 + x2 * 256 + x3 * 32768 + x4 * 1048576 + x5 * 67108864 + x6 * 2147483648) :
    w < 4294967296 ∧ w / 1 % 2 = x0 ∧ w / 2 % 128 = x1 ∧ w / 256 % 128 = x2 ∧ w / 32768 % 32 = x3 ∧ w / 1048576 % 64 = x4 ∧ w / 67108864 % 32 = x5 ∧ w / 2147483648 % 2 = x6 :=
  ⟨by omega, seg_eq (lo := 0) (n := 1) (x1 * 1 + x2 * 128 + x3 * 16384 + x4 * 524288 + x5 * 33554432 + x6 * 1073741824) (0) h0 (by omega) (by omega), seg_eq (lo := 1) (n := 7) (x2 * 1 + x3 * 128 + x4 * 4096 + x5 * 262144 + x6 * 8388608) (x0 * 1) h1 (by omega) (by omega), seg_eq (lo := 8) (n := 7) (x3 * 1 + x4 * 32 + x5 * 2048 + x6 * 65536) (x0 * 1 + x1 * 2) h2 (by omega) (by omega), seg_eq (lo := 15) (n := 5) (x4 * 1 + x5 * 64 + x6 * 2048) (x0 * 1 + x1 * 2 + x2 * 256) h3 (by omega) (by omega), seg_eq (lo := 20) (n := 6) (x5 * 1 + x6 * 32) (x0 * 1 + x1 * 2 + x2 * 256 + x3 * 32768) h4 (by omega) (by omega), seg_eq (lo := 26) (n := 5) (x6 * 1) (x0 * 1 + x1 * 2 + x2 * 256 + x3 * 32768 + x4 * 1048576) h5 (by omega) (by omega), seg_eq (lo := 31) (n := 1) (0) (x0 * 1 + x1 * 2 + x2 * 256 + x3 * 32768 + x4 * 1048576 + x5 * 67108864) h6 (by omega) (by omega)⟩

theorem layout21 {x0 x1 x2 x3 x4 x5 x6 x7 x8 w : Nat} (h0 : x0 < 2) (h1 : x1 < 128) (h2 : x2 < 32) (h3 : x3 < 2) (h4 : x4 < 2) (h5 : x5 < 32) (h6 : x6 < 32) (h7 : x7 < 2) (h8 : x8 < 64)
    (e : w = x0 * 1 + x1 * 2 + x2 * 256 + x3 * 8192 + x4 * 16384 + x5 * 32768 + x6 * 1048576 + x7 * 33554432 + x8 * 67108864) :
    w < 4294967296 ∧ w / 1 % 2 = x0 ∧ w / 2 % 128 = x1 ∧ w / 256 % 32 = x2 ∧ w / 8192 % 2 = x3 ∧ w / 16384 % 2 = x4 ∧ w / 32768 % 32 = x5 ∧ w / 1048576 % 32 = x6 ∧ w / 33554432 % 2 = x7 ∧ w / 67108864 % 64 = x8 :=
  ⟨by omega, seg_eq (lo := 0) (n := 1) (x1 * 1 + x2 * 128 + x3 * 4096 + x4 * 8192 + x5 * 16384 + x6 * 524288 + x7 * 16777216 + x8 * 33554432) (0) h0 (by omega) (by omega), seg_eq (lo := 1) (n := 7) (x2 * 1 + x3 * 32 + x4 * 64 + x5 * 128 + x6 * 4096 + x7 * 131072 + x8 * 262144) (x0 * 1) h1 (by omega) (by omega), seg_eq (lo := 8) (n := 5) (x3 * 1 + x4 * 2 + x5 * 4 + x6 * 128 + x7 * 4096 + x8 * 8192) (x0 * 1 + x1 * 2) h2 (by omega) (by omega), seg_eq (lo := 13) (n := 1) (x4 * 1 + x5 * 2 + x6 * 64 + x7 * 2048 + x8 * 4096) (x0 * 1 + x1 * 2 + x2 * 256) h3 (by omega) (by omega), seg_eq (lo := 14) (n := 1) (x5 * 1 + x6 * 32 + x7 * 1024 + x8 * 2048) (x0 * 1 + x1 * 2 + x2 * 256 + x3 * 8192) h4 (by omega) (by omega), seg_eq (lo := 15) (n := 5) (x6 * 1 + x7 * 32 + x8 * 64) (x0 * 1 + x1 * 2 + x2 * 256 + x3 * 8192 + x4 * 16384) h5 (by omega) (by omega), seg_eq (lo := 20) (n := 5) (x7 * 1 + x8 * 2) (x0 * 1 + x1 * 2 + x2 * 256 + x3 * 8192 + x4 * 16384 + x5 * 32768) h6 (by omega) (by omega), seg_eq (lo := 25) (n := 1) (x8 * 1) (x0 * 1 + x1 * 2 + x2 * 256 + x3 * 8192 + x4 * 16384 + x5 * 32768 + x6 * 1048576) h7 (by omega) (by omega), seg_eq (lo := 26) (n := 6) (0) (x0 * 1 + x1 * 2 + x2 * 256 + x3 * 8192 + x4 * 16384 + x5 * 32768 + x6 * 1048576 + x7 * 33554432) h8 (by omega) (by omega)⟩

theorem layout22 {x0 x1 x2 x3 x4 x5 w : Nat} (h0 : x0 < 2) (h1 : x1 < 128) (h2 : x2 < 32) (h3 : x3 < 2) (h4 : x4 < 4096) (h5 : x5 < 64)
    (e : w = x0 * 1 + x1 * 2 + x2 * 256 + x3 * 8192 + x4 * 16384 + x5 * 67108864) :
    w < 4294967296 ∧ w / 1 % 2 = x0 ∧ w / 2 % 128 = x1 ∧ w / 256 % 32 = x2 ∧ w / 8192 % 2 = x3 ∧ w / 16384 % 4096 = x4 ∧ w / 67108864 % 64 = x5 :=
  ⟨by omega, seg_eq (lo := 0) (n := 1) (x1 * 1 + x2 * 128 + x3 * 4096 + x4 * 8192 + x5 * 33554432) (0) h0 (by omega) (by omega), seg_eq (lo := 1) (n := 7) (x2 * 1 + x3 * 32 + x4 * 64 + x5 * 262144) (x0 * 1) h1 (by omega) (by omega), seg_eq (lo := 8) (n := 5) (x3 * 1 + x4 * 2 + x5 * 8192) (x0 * 1 + x1 * 2) h2 (by omega) (by omega), seg_eq (lo := 13) (n := 1) (x4 * 1 + x5 * 4096) (x0 * 1 + x1 * 2 + x2 * 256) h3 (by omega) (by omega), seg_eq (lo := 14) (n := 12) (x5 * 1) (x0 * 1 + x1 * 2 + x2 * 256 + x3 * 8192) h4 (by omega) (by omega), seg_eq (lo := 26) (n := 6) (0) (x0 * 1 + x1 * 2 + x2 * 256 + x3 * 8192 + x4 * 16384) h5 (by omega) (by omega)⟩

theorem layout23 {x0 x1 x2 x3 x4 x5 x6 w : Nat} (h0 : x0 < 2) (h1 : x1 < 128) (h2 : x2 < 4) (h3 : x3 < 16) (h4 : x4 < 64) (h5 : x5 < 64) (h6 : x6 < 64)
    (e : w = x0 * 1 + x1 * 2 + x2 * 256 + x3 * 1024 + x4 * 16384 + x5 * 1048576 + x6 * 67108864) :
    w < 4294967296 ∧ w / 1 % 2 = x0 ∧ w / 2 % 128 = x1 ∧ w / 256 % 4 = x2 ∧ w / 1024 % 16 = x3 ∧ w / 16384 % 64 = x4 ∧ w / 1048576 % 64 = x5 ∧ w / 67108864 % 64 = x6 :=
  ⟨by omega, seg_eq (lo := 0) (n := 1) (x1 * 1 + x2 * 128 + x3 * 512 + x4 * 8192 + x5 * 524288 + x6 * 33554432) (0) h0 (by omega) (by omega), seg_eq (lo := 1) (n := 7) (x2 * 1 + x3 * 4 + x4 * 64 + x5 * 4096 + x6 * 262144) (x0 * 1) h1 (by omega) (by omega), seg_eq (lo := 8) (n := 2) (x3 * 1 + x4 * 16 + x5 * 1024 + x6 * 65536) (x0 * 1 + x1 * 2) h2 (by omega) (by omega), seg_eq (lo := 10) (n := 4) (x4 * 1 + x5 * 64 + x6 * 4096) (x0 * 1 + x1 * 2 + x2 * 256) h3 (by omega) (by omega), seg_eq (lo := 14) (n := 6) (x5 * 1 + x6 * 64) (x0 * 1 + x1 * 2 + x2 * 256 + x3 * 1024) h4 (by omega) (by omega), seg_eq (lo := 20) (n := 6) (x6 * 1) (x0 * 1 + x1 * 2 + x2 * 256 + x3 * 1024 + x4 * 16384) h5 (by omega) (by omega), seg_eq (lo := 26) (n := 6) (0) (x0 * 1 + x1 * 2 + x2 * 256 + x3 * 1024 + x4 * 16384 + x5 * 1048576) h6 (by omega) (by omega)⟩

theorem layout24 {x0 x1 x2 x3 w : Nat} (h0 : x0 < 2) (h1 : x1 < 128) (h2 : x2 < 262144) (h3 : x3 < 64)
    (e : w = x0 * 1 + x1 * 2 + x2 * 256 + x3 * 67108864) :
    w < 4294967296 ∧ w / 1 % 2 = x0 ∧ w / 2 % 128 = x1 ∧ w / 256 % 262144 = x2 ∧ w / 67108864 % 64 = x3 :=
  ⟨by omega, seg_eq (lo := 0) (n := 1) (x1 * 1 + x2 * 128 + x3 * 33554432) (0) h0 (by omega) (by omega), seg_eq (lo := 1) (n := 7) (x2 * 1 + x3 * 262144) (x0 * 1) h1 (by omega) (by omega), seg_eq (lo := 8) (n := 18) (x3 * 1) (x0 * 1 + x1 * 2) h2 (by omega) (by omega), seg_eq (lo := 26) (n := 6) (0) (x0 * 1 + x1 * 2 + x2 * 256) h3 (by omega) (by omega)⟩

theorem layout25 {x0 x1 x2 x3 x4 x5 w : Nat} (h0 : x0 < 2) (h1 : x1 < 128) (h2 : x2 < 4096) (h3 : x3 < 4) (h4 : x4 < 32) (h5 : x5 < 32)
    (e : w = x0 * 1 + x1 * 2 + x2 * 256 + x3 * 1048576 + x4 * 4194304 + x5 * 134217728) :
    w < 4294967296 ∧ w / 1 % 2 = x0 ∧ w / 2 % 128 = x1 ∧ w / 256 % 4096 = x2 ∧ w / 1048576 % 4 = x3 ∧ w / 4194304 % 32 = x4 ∧ w / 134217728 % 32 = x5 :=
  ⟨by omega, seg_eq (lo := 0) (n := 1) (x1 * 1 + x2 * 128 + x3 * 524288 + x4 * 2097152 + x5 * 67108864) (0) h0 (by omega) (by omega), seg_eq (lo := 1) (n := 7) (x2 * 1 + x3 * 4096 + x4 * 16384 + x5 * 524288) (x0 * 1) h1 (by omega) (by omega), seg_eq (lo := 8) (n := 12) (x3 * 1 + x4 * 4 + x5 * 128) (x0 * 1 + x1 * 2) h2 (by omega) (by omega), seg_eq (lo := 20) (n := 2) (x4 * 1 + x5 * 32) (x0 * 1 + x1 * 2 + x2 * 256) h3 (by omega) (by omega), seg_eq (lo := 22) (n := 5) (x5 * 1) (x0 * 1 + x1 * 2 + x2 * 256 + x3 * 1048576) h4 (by omega) (by omega), seg_eq (lo := 27) (n := 5) (0) (x0 * 1 + x1 * 2 + x2 * 256 + x3 * 1048576 + x4 * 4194304) h5 (by omega) (by omega)⟩

theorem layout26 {x0 x1 x2 x3 x4 x5 x6 w : Nat} (h0 : x0 < 2) (h1 : x1 < 128) (h2 : x2 < 128) (h3 : x3 < 32) (h4 : x4 < 4) (h5 : x5 < 32) (h6 : x6 < 32)
    (e : w = x0 * 1 + x1 * 2 + x2 * 256 + x3 * 32768 + x4 * 1048576 + x5 * 4194304 + x6 * 134217728) :
    w < 4294967296 ∧ w / 1 % 2 = x0 ∧ w / 2 % 128 = x1 ∧ w / 256 % 128 = x2 ∧ w / 32768 % 32 = x3 ∧ w / 1048576 % 4 = x4 ∧ w / 4194304 % 32 = x5 ∧ w / 134217728 % 32 = x6 :=
  ⟨by omega, seg_eq (lo := 0) (n := 1) (x1 * 1 + x2 * 128 + x3 * 16384 + x4 * 524288 + x5 * 2097152 + x6 * 67108864) (0) h0 (by omega) (by omega), seg_eq (lo := 1) (n := 7) (x2 * 1 + x3 * 128 + x4 * 4096 + x5 * 16384 + x6 * 524288) (x0 * 1) h1 (by omega) (by omega), seg_eq (lo := 8) (n := 7) (x3 * 1 + x4 * 32 + x5 * 128 + x6 * 4096) (x0 * 1 + x1 * 2) h2 (by omega) (by omega), seg_eq (lo := 15) (n := 5) (x4 * 1 + x5 * 4 + x6 * 128) (x0 * 1 + x1 * 2 + x2 * 256) h3 (by omega) (by omega), seg_eq (lo := 20) (n := 2) (x5 * 1 + x6 * 32) (x0 * 1 + x1 * 2 + x2 * 256 + x3 * 32768) h4 (by omega) (by omega), seg_eq (lo := 22) (n := 5) (x6 * 1) (x0 * 1 + x1 * 2 + x2 * 256 + x3 * 32768 + x4 * 1048576) h5 (by omega) (by omega), seg_eq (lo := 27) (n := 5) (0) (x0 * 1 + x1 * 2 + x2 * 256 + x3 * 32768 + x4 * 1048576 + x5 * 4194304) h6 (by omega) (by omega)⟩

theorem layout27 {x0 x1 x2 x3 x4 x5 x6 x7 x8 w : Nat} (h0 : x0 < 2) (h1 : x1 < 128) (h2 : x2 < 32) (h3 : x3 < 4) (h4 : x4 < 2) (h5 : x5 < 2) (h6 : x6 < 32) (h7 : x7 < 32) (h8 : x8 < 32)
    (e : w = x0 * 1 + x1 * 2 + x2 * 256 + x3 * 8192 + x4 * 32768 + x5 * 65536 + x6 * 131072 + x7 * 4194304 + x8 * 134217728) :
    w < 4294967296 ∧ w / 1 % 2 = x0 ∧ w / 2 % 128 = x1 ∧ w / 256 % 32 = x2 ∧ w / 8192 % 4 = x3 ∧ w / 32768 % 2 = x4 ∧ w / 65536 % 2 = x5 ∧ w / 131072 % 32 = x6 ∧ w / 4194304 % 32 = x7 ∧ w / 134217728 % 32 = x8 :=
  ⟨by omega, seg_eq (lo := 0) (n := 1) (x1 * 1 + x2 * 128 + x3 * 4096 + x4 * 16384 + x5 * 32768 + x6 * 65536 + x7 * 2097152 + x8 * 67108864) (0) h0 (by omega) (by omega), seg_eq (lo := 1) (n := 7) (x2 * 1 + x3 * 32 + x4 * 128 + x5 * 256 + x6 * 512 + x7 * 16384 + x8 * 524288) (x0 * 1) h1 (by omega) (by omega), seg_eq (lo := 8) (n := 5) (x3 * 1 + x4 * 4 + x5 * 8 + x6 * 16 + x7 * 512 + x8 * 16384) (x0 * 1 + x1 * 2) h2 (by omega) (by omega), seg_eq (lo := 13) (n := 2) (x4 * 1 + x5 * 2 + x6 * 4 + x7 * 128 + x8 * 4096) (x0 * 1 + x1 * 2 + x2 * 256) h3 (by omega) (by omega), seg_eq (lo := 15) (n := 1) (x5 * 1 + x6 * 2 + x7 * 64 + x8 * 2048) (x0 * 1 + x1 * 2 + x2 * 256 + x3 * 8192) h4 (by omega) (by omega), seg_eq (lo := 16) (n := 1) (x6 * 1 + x7 * 32 + x8 * 1024) (x0 * 1 + x1 * 2 + x2 * 256 + x3 * 8192 + x4 * 32768) h5 (by omega) (by omega), seg_eq (lo := 17) (n := 5) (x7 * 1 + x8 * 32) (x0 * 1 + x1 * 2 + x2 * 256 + x3 * 8192 + x4 * 32768 + x5 * 65536) h6 (by omega) (by omega), seg_eq (lo := 22) (n := 5) (x8 * 1) (x0 * 1 + x1 * 2 + x2 * 256 + x3 * 8192 + x4 * 32768 + x5 * 65536 + x6 * 131072) h7 (by omega) (by omega), seg_eq (lo := 27) (n := 5) (0) (x0 * 1 + x1 * 2 + x2 * 256 + x3 * 8192 + x4 * 32768 + x5 * 65536 + x6 * 131072 + x7 * 4194304) h8 (by omega) (by omega)⟩

theorem layout28 {x0 x1 x2 x3 x4 x5 x6 x7 w : Nat} (h0 : x0 < 2) (h1 : x1 < 128) (h2 : x2 < 32) (h3 : x3 < 4) (h4 : x4 < 4) (h5 : x5 < 32) (h6 : x6 < 32) (h7 : x7 < 32)
    (e : w = x0 * 1 + x1 * 2 + x2 * 256 + x3 * 8192 + x4 * 32768 + x5 * 131072 + x6 * 4194304 + x7 * 134217728) :
    w < 4294967296 ∧ w / 1 % 2 = x0 ∧ w / 2 % 128 = x1 ∧ w / 256 % 32 = x2 ∧ w / 8192 % 4 = x3 ∧ w / 32768 % 4 = x4 ∧ w / 131072 % 32 = x5 ∧ w / 4194304 % 32 = x6 ∧ w / 134217728 % 32 = x7 :=
  ⟨by omega, seg_eq (lo := 0) (n := 1) (x1 * 1 + x2 * 128 + x3 * 4096 + x4 * 16384 + x5 * 65536 + x6 * 2097152 + x7 * 67108864) (0) h0 (by omega) (by omega), seg_eq (lo := 1) (n := 7) (x2 * 1 + x3 * 32 + x4 * 128 + x5 * 512 + x6 * 16384 + x7 * 524288) (x0 * 1) h1 (by omega) (by omega), seg_eq (lo := 8) (n := 5) (x3 * 1 + x4 * 4 + x5 * 16 + x6 * 512 + x7 * 16384) (x0 * 1 + x1 * 2) h2 (by omega) (by omega), seg_eq (lo := 13) (n := 2) (x4 * 1 + x5 * 4 + x6 * 128 + x7 * 4096) (x0 * 1 + x1 * 2 + x2 * 256) h3 (by omega) (by omega), seg_eq (lo := 15) (n := 2) (x5 * 1 + x6 * 32 + x7 * 1024) (x0 * 1 + x1 * 2 + x2 * 256 + x3 * 8192) h4 (by omega) (by omega), seg_eq (lo := 17) (n := 5) (x6 * 1 + x7 * 32) (x0 * 1 + x1 * 2 + x2 * 256 + x3 * 8192 + x4 * 32768) h5 (by omega) (by omega), seg_eq (lo := 22) (n := 5) (x7 * 1) (x0 * 1 + x1 * 2 + x2 * 256 + x3 * 8192 + x4 * 32768 + x5 * 131072) h6 (by omega) (by omega), seg_eq (lo := 27) (n := 5) (0) (x0 * 1 + x1 * 2 + x2 * 256 + x3 * 8192 + x4 * 32768 + x5 * 131072 + x6 * 4194304) h7 (by omega) (by omega)⟩

theorem layout29 {x0 x1 x2 x3 x4 x5 x6 w : Nat} (h0 : x0 < 2) (h1 : x1 < 128) (h2 : x2 < 32) (h3 : x3 < 2) (h4 : x4 < 128) (h5 : x5 < 32) (h6 : x6 < 64)
    (e : w = x0 * 1 + x1 * 2 + x2 * 256 + x3 * 8192 + x4 * 16384 + x5 * 2097152 + x6 * 67108864) :
    w < 4294967296 ∧ w / 1 % 2 = x0 ∧ w / 2 % 128 = x1 ∧ w / 256 % 32 = x2 ∧ w / 8192 % 2 = x3 ∧ w / 16384 % 128 = x4 ∧ w / 2097152 % 32 = x5 ∧ w / 67108864 % 64 = x6 :=
  ⟨by omega, seg_eq (lo := 0) (n := 1) (x1 * 1 + x2 * 128 + x3 * 4096 + x4 * 8192 + x5 * 1048576 + x6 * 33554432) (0) h0 (by omega) (by omega), seg_eq (lo := 1) (n := 7) (x2 * 1 + x3 * 32 + x4 * 64 + x5 * 8192 + x6 * 262144) (x0 * 1) h1 (by omega) (by omega), seg_eq (lo := 8) (n := 5) (x3 * 1 + x4 * 2 + x5 * 256 + x6 * 8192) (x0 * 1 + x1 * 2) h2 (by omega) (by omega), seg_eq (lo := 13) (n := 1) (x4 * 1 + x5 * 128 + x6 * 4096) (x0 * 1 + x1 * 2 + x2 * 256) h3 (by omega) (by omega), seg_eq (lo := 14) (n := 7) (x5 * 1 + x6 * 32) (x0 * 1 + x1 * 2 + x2 * 256 + x3 * 8192) h4 (by omega) (by omega), seg_eq (lo := 21) (n := 5) (x6 * 1) (x0 * 1 + x1 * 2 + x2 * 256 + x3 * 8192 + x4 * 16384) h5 (by omega) (by omega), seg_eq (lo := 26) (n := 6) (0) (x0 * 1 + x1 * 2 + x2 * 256 + x3 * 8192 + x4 * 16384 + x5 * 2097152) h6 (by omega) (by omega)⟩

theorem layout30 {x0 x1 x2 x3 x4 x5 x6 x7 x8 w : Nat} (h0 : x0 < 2) (h1 : x1 < 128) (h2 : x2 < 32) (h3 : x3 < 2) (h4 : x4 < 2) (h5 : x5 < 32) (h6 : x6 < 2) (h7 : x7 < 32) (h8 : x8 < 64)
    (e : w = x0 * 1 + x1 * 2 + x2 * 256 + x3 * 8192 + x4 * 16384 + x5 * 32768 + x6 * 1048576 + x7 * 2097152 + x8 * 67108864) :
    w < 4294967296 ∧ w / 1 % 2 = x0 ∧ w / 2 % 128 = x1 ∧ w / 256 % 32 = x2 ∧ w / 8192 % 2 = x3 ∧ w / 16384 % 2 = x4 ∧ w / 32768 % 32 = x5 ∧ w / 1048576 % 2 = x6 ∧ w / 2097152 % 32 = x7 ∧ w / 67108864 % 64 = x8 :=
  ⟨by omega, seg_eq (lo := 0) (n := 1) (x1 * 1 + x2 * 128 + x3 * 4096 + x4 * 8192 + x5 * 16384 + x6 * 524288 + x7 * 1048576 + x8 * 33554432) (0) h0 (by omega) (by omega), seg_eq (lo := 1) (n := 7) (x2 * 1 + x3 * 32 + x4 * 64 + x5 * 128 + x6 * 4096 + x7 * 8192 + x8 * 262144) (x0 * 1) h1 (by omega) (by omega), seg_eq (lo := 8) (n := 5) (x3 * 1 + x4 * 2 + x5 * 4 + x6 * 128 + x7 * 256 + x8 * 8192) (x0 * 1 + x1 * 2) h2 (by omega) (by omega), seg_eq (lo := 13) (n := 1) (x4 * 1 + x5 * 2 + x6 * 64 + x7 * 128 + x8 * 4096) (x0 * 1 + x1 * 2 + x2 * 256) h3 (by omega) (by omega), seg_eq (lo := 14) (n := 1) (x5 * 1 + x6 * 32 + x7 * 64 + x8 * 2048) (x0 * 1 + x1 * 2 + x2 * 256 + x3 * 8192) h4 (by omega) (by omega), seg_eq (lo := 15) (n := 5) (x6 * 1 + x7 * 2 + x8 * 64) (x0 * 1 + x1 * 2 + x2 * 256 + x3 * 8192 + x4 * 16384) h5 (by omega) (by omega), seg_eq (lo := 20) (n := 1) (x7 * 1 + x8 * 32) (x0 * 1 + x1 * 2 + x2 * 256 + x3 * 8192 + x4 * 16384 + x5 * 32768) h6 (by omega) (by omega), seg_eq (lo := 21) (n := 5) (x8 * 1) (x0 * 1 + x1 * 2 + x2 * 256 + x3 * 8192 + x4 * 16384 + x5 * 32768 + x6 * 1048576) h7 (by omega) (by omega), seg_eq (lo := 26) (n := 6) (0) (x0 * 1 + x1 * 2 + x2 * 256 + x3 * 8192 + x4 * 16384 + x5 * 32768 + x6 * 1048576 + x7 * 2097152) h8 (by omega) (by omega)⟩

theorem layout31 {x0 x1 x2 x3 x4 x5 x6 x7 x8 w : Nat} (h0 : x0 < 2) (h1 : x1 < 128) (h2 : x2 < 32) (h3 : x3 < 2) (h4 : x4 < 2) (h5 : x5 < 4) (h6 : x6 < 16) (h7 : x7 < 32) (h8 : x8 < 64)
    (e : w = x0 * 1 + x1 * 2 + x2 * 256 + x3 * 8192 + x4 * 16384 + x5 * 32768 + x6 * 131072 + x7 * 2097152 + x8 * 67108864) :
    w < 4294967296 ∧ w / 1 % 2 = x0 ∧ w / 2 % 128 = x1 ∧ w / 256 % 32 = x2 ∧ w / 8192 % 2 = x3 ∧ w / 16384 % 2 = x4 ∧ w / 32768 % 4 = x5 ∧ w / 131072 % 16 = x6 ∧ w / 2097152 % 32 = x7 ∧ w / 67108864 % 64 = x8 :=
  ⟨by omega, seg_eq (lo := 0) (n := 1) (x1 * 1 + x2 * 128 + x3 * 4096 + x4 * 8192 + x5 * 16384 + x6 * 65536 + x7 * 1048576 + x8 * 33554432) (0) h0 (by omega) (by omega), seg_eq (lo := 1) (n := 7) (x2 * 1 + x3 * 32 + x4 * 64 + x5 * 128 + x6 * 512 + x7 * 8192 + x8 * 262144) (x0 * 1) h1 (by omega) (by omega), seg_eq (lo := 8) (n := 5) (x3 * 1 + x4 * 2 + x5 * 4 + x6 * 16 + x7 * 256 + x8 * 8192) (x0 * 1 + x1 * 2) h2 (by omega) (by omega), seg_eq (lo := 13) (n := 1) (x4 * 1 + x5 * 2 + x6 * 8 + x7 * 128 + x8 * 4096) (x0 * 1 + x1 * 2 + x2 * 256) h3 (by omega) (by omega), seg_eq (lo := 14) (n := 1) (x5 * 1 + x6 * 4 + x7 * 64 + x8 * 2048) (x0 * 1 + x1 * 2 + x2 * 256 + x3 * 8192) h4 (by omega) (by omega), seg_eq (lo := 15) (n := 2) (x6 * 1 + x7 * 16 + x8 * 512) (x0 * 1 + x1 * 2 + x2 * 256 + x3 * 8192 + x4 * 16384) h5 (by omega) (by omega), seg_eq (lo := 17) (n := 4) (x7 * 1 + x8 * 32) (x0 * 1 + x1 * 2 + x2 * 256 + x3 * 8192 + x4 * 16384 + x5 * 32768) h6 (by omega) (by omega), seg_eq (lo := 21) (n := 5) (x8 * 1) (x0 * 1 + x1 * 2 + x2 * 256 + x3 * 8192 + x4 * 16384 + x5 * 32768 + x6 * 131072) h7 (by omega) (by omega), seg_eq (lo := 26) (n := 6) (0) (x0 * 1 + x1 * 2 + x2 * 256 + x3 * 8192 + x4 * 16384 + x5 * 32768 + x6 * 131072 + x7 * 2097152) h8 (by omega) (by omega)⟩

theorem layout32 {x0 x1 x2 x3 x4 x5 x6 x7 w : Nat} (h0 : x0 < 2) (h1 : x1 < 128) (h2 : x2 < 32) (h3 : x3 < 2) (h4 : x4 < 2) (h5 : x5 < 64) (h6 : x6 < 32) (h7 : x7 < 64)
    (e : w = x0 * 1 + x1 * 2 + x2 * 256 + x3 * 8192 + x4 * 16384 + x5 * 32768 + x6 * 2097152 + x7 * 67108864) :
    w < 4294967296 ∧ w / 1 % 2 = x0 ∧ w / 2 % 128 = x1 ∧ w / 256 % 32 = x2 ∧ w / 8192 % 2 = x3 ∧ w / 16384 % 2 = x4 ∧ w / 32768 % 64 = x5 ∧ w / 2097152 % 32 = x6 ∧ w / 67108864 % 64 = x7 :=
  ⟨by omega, seg_eq (lo := 0) (n := 1) (x1 * 1 + x2 * 128 + x3 * 4096 + x4 * 8192 + x5 * 16384 + x6 * 1048576 + x7 * 33554432) (0) h0 (by omega) (by omega), seg_eq (lo := 1) (n := 7) (x2 * 1 + x3 * 32 + x4 * 64 + x5 * 128 + x6 * 8192 + x7 * 262144) (x0 * 1) h1 (by omega) (by omega), seg_eq (lo := 8) (n := 5) (x3 * 1 + x4 * 2 + x5 * 4 + x6 * 256 + x7 * 8192) (x0 * 1 + x1 * 2) h2 (by omega) (by omega), seg_eq (lo := 13) (n := 1) (x4 * 1 + x5 * 2 + x6 * 128 + x7 * 4096) (x0 * 1 + x1 * 2 + x2 * 256) h3 (by omega) (by omega), seg_eq (lo := 14) (n := 1) (x5 * 1 + x6 * 64 + x7 * 2048) (x0 * 1 + x1 * 2 + x2 * 256 + x3 * 8192) h4 (by omega) (by omega), seg_eq (lo := 15) (n := 6) (x6 * 1 + x7 * 32) (x0 * 1 + x1 * 2 + x2 * 256 + x3 * 8192 + x4 * 16384) h5 (by omega) (by omega), seg_eq (lo := 21) (n := 5) (x7 * 1) (x0 * 1 + x1 * 2 + x2 * 256 + x3 * 8192 + x4 * 16384 + x5 * 32768) h6 (by omega) (by omega), seg_eq (lo := 26) (n := 6) (0) (x0 * 1 + x1 * 2 + x2 * 256 + x3 * 8192 + x4 * 16384 + x5 * 32768 + x6 * 2097152) h7 (by omega) (by omega)⟩

theorem layout33 {x0 x1 x2 x3 x4 x5 x6 w : Nat} (h0 : x0 < 2) (h1 : x1 < 128) (h2 : x2 < 128) (h3 : x3 < 32) (h4 : x4 < 2) (h5 : x5 < 32) (h6 : x6 < 64)
    (e : w = x0 * 1 + x1 * 2 + x2 * 256 + x3 * 32768 + x4 * 1048576 + x5 * 2097152 + x6 * 67108864) :
    w < 4294967296 ∧ w / 1 % 2 = x0 ∧ w / 2 % 128 = x1 ∧ w / 256 % 128 = x2 ∧ w / 32768 % 32 = x3 ∧ w / 1048576 % 2 = x4 ∧ w / 2097152 % 32 = x5 ∧ w / 67108864 % 64 = x6 :=
  ⟨by omega, seg_eq (lo := 0) (n := 1) (x1 * 1 + x2 * 128 + x3 * 16384 + x4 * 524288 + x5 * 1048576 + x6 * 33554432) (0) h0 (by omega) (by omega), seg_eq (lo := 1) (n := 7) (x2 * 1 + x3 * 128 + x4 * 4096 + x5 * 8192 + x6 * 262144) (x0 * 1) h1 (by omega) (by omega), seg_eq (lo := 8) (n := 7) (x3 * 1 + x4 * 32 + x5 * 64 + x6 * 2048) (x0 * 1 + x1 * 2) h2 (by omega) (by omega), seg_eq (lo := 15) (n := 5) (x4 * 1 + x5 * 2 + x6 * 64) (x0 * 1 + x1 * 2 + x2 * 256) h3 (by omega) (by omega), seg_eq (lo := 20) (n := 1) (x5 * 1 + x6 * 32) (x0 * 1 + x1 * 2 + x2 * 256 + x3 * 32768) h4 (by omega) (by omega), seg_eq (lo := 21) (n := 5) (x6 * 1) (x0 * 1 + x1 * 2 + x2 * 256 + x3 * 32768 + x4 * 1048576) h5 (by omega) (by omega), seg_eq (lo := 26) (n := 6) (0) (x0 * 1 + x1 * 2 + x2 * 256 + x3 * 32768 + x4 * 1048576 + x5 * 2097152) h6 (by omega) (by omega)⟩

theorem layout34 {x0 x1 x2 x3 x4 x5 x6 x7 x8 x9 x10 w : Nat} (h0 : x0 < 2) (h1 : x1 < 128) (h2 : x2 < 8) (h3 : x3 < 2) (h4 : x4 < 2) (h5 : x5 < 2) (h6 : x6 < 2) (h7 : x7 < 4) (h8 : x8 < 32) (h9 : x9 < 32) (h10 : x10 < 32)
    (e : w = x0 * 1 + x1 * 2 + x2 * 256 + x3 * 2048 + x4 * 4096 + x5 * 8192 + x6 * 16384 + x7 * 32768 + x8 * 131072 + x9 * 4194304 + x10 * 134217728) :
    w < 4294967296 ∧ w / 1 % 2 = x0 ∧ w / 2 % 128 = x1 ∧ w / 256 % 8 = x2 ∧ w / 2048 % 2 = x3 ∧ w / 4096 % 2 = x4 ∧ w / 8192 % 2 = x5 ∧ w / 16384 % 2 = x6 ∧ w / 32768 % 4 = x7 ∧ w / 131072 % 32 = x8 ∧ w / 4194304 % 32 = x9 ∧ w / 134217728 % 32 = x10 :=
  ⟨by omega, seg_eq (lo := 0) (n := 1) (x1 * 1 + x2 * 128 + x3 * 1024 + x4 * 2048 + x5 * 4096 + x6 * 8192 + x7 * 16384 + x8 * 65536 + x9 * 2097152 + x10 * 67108864) (0) h0 (by omega) (by omega), seg_eq (lo := 1) (n := 7) (x2 * 1 + x3 * 8 + x4 * 16 + x5 * 32 + x6 * 64 + x7 * 128 + x8 * 512 + x9 * 16384 + x10 * 524288) (x0 * 1) h1 (by omega) (by omega), seg_eq (lo := 8) (n := 3) (x3 * 1 + x4 * 2 + x5 * 4 + x6 * 8 + x7 * 16 + x8 * 64 + x9 * 2048 + x10 * 65536) (x0 * 1 + x1 * 2) h2 (by omega) (by omega), seg_eq (lo := 11) (n := 1) (x4 * 1 + x5 * 2 + x6 * 4 + x7 * 8 + x8 * 32 + x9 * 1024 + x10 * 32768) (x0 * 1 + x1 * 2 + x2 * 256) h3 (by omega) (by omega), seg_eq (lo := 12) (n := 1) (x5 * 1 + x6 * 2 + x7 * 4 + x8 * 16 + x9 * 512 + x10 * 16384) (x0 * 1 + x1 * 2 + x2 * 256 + x3 * 2048) h4 (by omega) (by omega), seg_eq (lo := 13) (n := 1) (x6 * 1 + x7 * 2 + x8 * 8 + x9 * 256 + x10 * 8192) (x0 * 1 + x1 * 2 + x2 * 256 + x3 * 2048 + x4 * 4096) h5 (by omega) (by omega), seg_eq (lo := 14) (n := 1) (x7 * 1 + x8 * 4 + x9 * 128 + x10 * 4096) (x0 * 1 + x1 * 2 + x2 * 256 + x3 * 2048 + x4 * 4096 + x5 * 8192) h6 (by omega) (by omega), seg_eq (lo := 15) (n := 2) (x8 * 1 + x9 * 32 + x10 * 1024) (x0 * 1 + x1 * 2 + x2 * 256 + x3 * 2048 + x4 * 4096 + x5 * 8192 + x6 * 16384) h7 (by omega) (by omega), seg_eq (lo := 17) (n := 5) (x9 * 1 + x10 * 32) (x0 * 1 + x1 * 2 + x2 * 256 + x3 * 2048 + x4 * 4096 + x5 * 8192 + x6 * 16384 + x7 * 32768) h8 (by omega) (by omega), seg_eq (lo := 22) (n := 5) (x10 * 1) (x0 * 1 + x1 * 2 + x2 * 256 + x3 * 2048 + x4 * 4096 + x5 * 8192 + x6 * 16384 + x7 * 32768 + x8 * 131072) h9 (by omega) (by omega), seg_eq (lo := 27) (n := 5) (0) (x0 * 1 + x1 * 2 + x2 * 256 + x3 * 2048 + x4 * 4096 + x5 * 8192 + x6 * 16384 + x7 * 32768 + x8 * 131072 + x9 * 4194304) h10 (by omega) (by omega)⟩

theorem layout35 {x0 x1 x2 x3 x4 x5 x6 w : Nat} (h0 : x0 < 2) (h1 : x1 < 128) (h2 : x2 < 8) (h3 : x3 < 8) (h4 : x4 < 256) (h5 : x5 < 32) (h6 : x6 < 32)
    (e : w = x0 * 1 + x1 * 2 + x2 * 256 + x3 * 2048 + x4 * 16384 + x5 * 4194304 + x6 * 134217728) :
    w < 4294967296 ∧ w / 1 % 2 = x0 ∧ w / 2 % 128 = x1 ∧ w / 256 % 8 = x2 ∧ w / 2048 % 8 = x3 ∧ w / 16384 % 256 = x4 ∧ w / 4194304 % 32 = x5 ∧ w / 134217728 % 32 = x6 :=
  ⟨by omega, seg_eq (lo := 0) (n := 1) (x1 * 1 + x2 * 128 + x3 * 1024 + x4 * 8192 + x5 * 2097152 + x6 * 67108864) (0) h0 (by omega) (by omega), seg_eq (lo := 1) (n := 7) (x2 * 1 + x3 * 8 + x4 * 64 + x5 * 16384 + x6 * 524288) (x0 * 1) h1 (by omega) (by omega), seg_eq (lo := 8) (n := 3) (x3 * 1 + x4 * 8 + x5 * 2048 + x6 * 65536) (x0 * 1 + x1 * 2) h2 (by omega) (by omega), seg_eq (lo := 11) (n := 3) (x4 * 1 + x5 * 256 + x6 * 8192) (x0 * 1 + x1 * 2 + x2 * 256) h3 (by omega) (by omega), seg_eq (lo := 14) (n := 8) (x5 * 1 + x6 * 32) (x0 * 1 + x1 * 2 + x2 * 256 + x3 * 2048) h4 (by omega) (by omega), seg_eq (lo := 22) (n := 5) (x6 * 1) (x0 * 1 + x1 * 2 + x2 * 256 + x3 * 2048 + x4 * 16384) h5 (by omega) (by omega), seg_eq (lo := 27) (n := 5) (0) (x0 * 1 + x1 * 2 + x2 * 256 + x3 * 2048 + x4 * 16384 + x5 * 4194304) h6 (by omega) (by omega)⟩

theorem layout36 {x0 x1 x2 x3 x4 w : Nat} (h0 : x0 < 2) (h1 : x1 < 128) (h2 : x2 < 8) (h3 : x3 < 8) (h4 : x4 < 262144)
    (e : w = x0 * 1 + x1 * 2 + x2 * 256 + x3 * 2048 + x4 * 16384) :
    w < 4294967296 ∧ w / 1 % 2 = x0 ∧ w / 2 % 128 = x1 ∧ w / 256 % 8 = x2 ∧ w / 2048 % 8 = x3 ∧ w / 16384 % 262144 = x4 :=
  ⟨by omega, seg_eq (lo := 0) (n := 1) (x1 * 1 + x2 * 128 + x3 * 1024 + x4 * 8192) (0) h0 (by omega) (by omega), seg_eq (lo := 1) (n := 7) (x2 * 1 + x3 * 8 + x4 * 64) (x0 * 1) h1 (by omega) (by omega), seg_eq (lo := 8) (n := 3) (x3 * 1 + x4 * 8) (x0 * 1 + x1 * 2) h2 (by omega) (by omega), seg_eq (lo := 11) (n := 3) (x4 * 1) (x0 * 1 + x1 * 2 + x2 * 256) h3 (by omega) (by omega), seg_eq (lo := 14) (n := 18) (0) (x0 * 1 + x1 * 2 + x2 * 256 + x3 * 2048) h4 (by omega) (by omega)⟩

theorem layout37 {x0 x1 x2 x3 x4 x5 w : Nat} (h0 : x0 < 2) (h1 : x1 < 128) (h2 : x2 < 8) (h3 : x3 < 8) (h4 : x4 < 8192) (h5 : x5 < 32)
    (e : w = x0 * 1 + x1 * 2 + x2 * 256 + x3 * 2048 + x4 * 16384 + x5 * 134217728) :
    w < 4294967296 ∧ w / 1 % 2 = x0 ∧ w / 2 % 128 = x1 ∧ w / 256 % 8 = x2 ∧ w / 2048 % 8 = x3 ∧ w / 16384 % 8192 = x4 ∧ w / 134217728 % 32 = x5 :=
  ⟨by omega, seg_eq (lo := 0) (n := 1) (x1 * 1 + x2 * 128 + x3 * 1024 + x4 * 8192 + x5 * 67108864) (0) h0 (by omega) (by omega), seg_eq (lo := 1) (n := 7) (x2 * 1 + x3 * 8 + x4 * 64 + x5 * 524288) (x0 * 1) h1 (by omega) (by omega), seg_eq (lo := 8) (n := 3) (x3 * 1 + x4 * 8 + x5 * 65536) (x0 * 1 + x1 * 2) h2 (by omega) (by omega), seg_eq (lo := 11) (n := 3) (x4 * 1 + x5 * 8192) (x0 * 1 + x1 * 2 + x2 * 256) h3 (by omega) (by omega), seg_eq (lo := 14) (n := 13) (x5 * 1) (x0 * 1 + x1 * 2 + x2 * 256 + x3 * 2048) h4 (by omega) (by omega), seg_eq (lo := 27) (n := 5) (0) (x0 * 1 + x1 * 2 + x2 * 256 + x3 * 2048 + x4 * 16384) h5 (by omega) (by omega)⟩

theorem layout38 {x0 x1 x2 x3 x4 x5 x6 x7 x8 w : Nat} (h0 : x0 < 2) (h1 : x1 < 128) (h2 : x2 < 16) (h3 : x3 < 2) (h4 : x4 < 4) (h5 : x5 < 4) (h6 : x6 < 32) (h7 : x7 < 32) (h8 : x8 < 32)
    (e : w = x0 * 1 + x1 * 2 + x2 * 256 + x3 * 4096 + x4 * 8192 + x5 * 32768 + x6 * 131072 + x7 * 4194304 + x8 * 134217728) :
    w < 4294967296 ∧ w / 1 % 2 = x0 ∧ w / 2 % 128 = x1 ∧ w / 256 % 16 = x2 ∧ w / 4096 % 2 = x3 ∧ w / 8192 % 4 = x4 ∧ w / 32768 % 4 = x5 ∧ w / 131072 % 32 = x6 ∧ w / 4194304 % 32 = x7 ∧ w / 134217728 % 32 = x8 :=
  ⟨by omega, seg_eq (lo := 0) (n := 1) (x1 * 1 + x2 * 128 + x3 * 2048 + x4 * 4096 + x5 * 16384 + x6 * 65536 + x7 * 2097152 + x8 * 67108864) (0) h0 (by omega) (by omega), seg_eq (lo := 1) (n := 7) (x2 * 1 + x3 * 16 + x4 * 32 + x5 * 128 + x6 * 512 + x7 * 16384 + x8 * 524288) (x0 * 1) h1 (by omega) (by omega), seg_eq (lo := 8) (n := 4) (x3 * 1 + x4 * 2 + x5 * 8 + x6 * 32 + x7 * 1024 + x8 * 32768) (x0 * 1 + x1 * 2) h2 (by omega) (by omega), seg_eq (lo := 12) (n := 1) (x4 * 1 + x5 * 4 + x6 * 16 + x7 * 512 + x8 * 16384) (x0 * 1 + x1 * 2 + x2 * 256) h3 (by omega) (by omega), seg_eq (lo := 13) (n := 2) (x5 * 1 + x6 * 4 + x7 * 128 + x8 * 4096) (x0 * 1 + x1 * 2 + x2 * 256 + x3 * 4096) h4 (by omega) (by omega), seg_eq (lo := 15) (n := 2) (x6 * 1 + x7 * 32 + x8 * 1024) (x0 * 1 + x1 * 2 + x2 * 256 + x3 * 4096 + x4 * 8192) h5 (by omega) (by omega), seg_eq (lo := 17) (n := 5) (x7 * 1 + x8 * 32) (x0 * 1 + x1 * 2 + x2 * 256 + x3 * 4096 + x4 * 8192 + x5 * 32768) h6 (by omega) (by omega), seg_eq (lo := 22) (n := 5) (x8 * 1) (x0 * 1 + x1 * 2 + x2 * 256 + x3 * 4096 + x4 * 8192 + x5 * 32768 + x6 * 131072) h7 (by omega) (by omega), seg_eq (lo := 27) (n := 5) (0) (x0 * 1 + x1 * 2 + x2 * 256 + x3 * 4096 + x4 * 8192 + x5 * 32768 + x6 * 131072 + x7 * 4194304) h8 (by omega) (by omega)⟩

theorem layout39 {x0 x1 x2 x3 x4 x5 x6 x7 w : Nat} (h0 : x0 < 2) (h1 : x1 < 128) (h2 : x2 < 16) (h3 : x3 < 2) (h4 : x4 < 16) (h5 : x5 < 32) (h6 : x6 < 32) (h7 : x7 < 32)
    (e : w = x0 * 1 + x1 * 2 + x2 * 256 + x3 * 4096 + x4 * 8192 + x5 * 131072 + x6 * 4194304 + x7 * 134217728) :
    w < 4294967296 ∧ w / 1 % 2 = x0 ∧ w / 2 % 128 = x1 ∧ w / 256 % 16 = x2 ∧ w / 4096 % 2 = x3 ∧ w / 8192 % 16 = x4 ∧ w / 131072 % 32 = x5 ∧ w / 4194304 % 32 = x6 ∧ w / 134217728 % 32 = x7 :=
  ⟨by omega, seg_eq (lo := 0) (n := 1) (x1 * 1 + x2 * 128 + x3 * 2048 + x4 * 4096 + x5 * 65536 + x6 * 2097152 + x7 * 67108864) (0) h0 (by omega) (by omega), seg_eq (lo := 1) (n := 7) (x2 * 1 + x3 * 16 + x4 * 32 + x5 * 512 + x6 * 16384 + x7 * 524288) (x0 * 1) h1 (by omega) (by omega), seg_eq (lo := 8) (n := 4) (x3 * 1 + x4 * 2 + x5 * 32 + x6 * 1024 + x7 * 32768) (x0 * 1 + x1 * 2) h2 (by omega) (by omega), seg_eq (lo := 12) (n := 1) (x4 * 1 + x5 * 16 + x6 * 512 + x7 * 16384) (x0 * 1 + x1 * 2 + x2 * 256) h3 (by omega) (by omega), seg_eq (lo := 13) (n := 4) (x5 * 1 + x6 * 32 + x7 * 1024) (x0 * 1 + x1 * 2 + x2 * 256 + x3 * 4096) h4 (by omega) (by omega), seg_eq (lo := 17) (n := 5) (x6 * 1 + x7 * 32) (x0 * 1 + x1 * 2 + x2 * 256 + x3 * 4096 + x4 * 8192) h5 (by omega) (by omega), seg_eq (lo := 22) (n := 5) (x7 * 1) (x0 * 1 + x1 * 2 + x2 * 256 + x3 * 4096 + x4 * 8192 + x5 * 131072) h6 (by omega) (by omega), seg_eq (lo := 27) (n := 5) (0) (x0 * 1 + x1 * 2 + x2 * 256 + x3 * 4096 + x4 * 8192 + x5 * 131072 + x6 * 4194304) h7 (by omega) (by omega)⟩

theorem layout40 {x0 x1 x2 x3 x4 w : Nat} (h0 : x0 < 2) (h1 : x1 < 128) (h2 : x2 < 32) (h3 : x3 < 8) (h4 : x4 < 65536)
    (e : w = x0 * 1 + x1 * 2 + x2 * 256 + x3 * 8192 + x4 * 65536) :
    w < 4294967296 ∧ w / 1 % 2 = x0 ∧ w / 2 % 128 = x1 ∧ w / 256 % 32 = x2 ∧ w / 8192 % 8 = x3 ∧ w / 65536 % 65536 = x4 :=
  ⟨by omega, seg_eq (lo := 0) (n := 1) (x1 * 1 + x2 * 128 + x3 * 4096 + x4 * 32768) (0) h0 (by omega) (by omega), seg_eq (lo := 1) (n := 7) (x2 * 1 + x3 * 32 + x4 * 256) (x0 * 1) h1 (by omega) (by omega), seg_eq (lo := 8) (n := 5) (x3 * 1 + x4 * 8) (x0 * 1 + x1 * 2) h2 (by omega) (by omega), seg_eq (lo := 13) (n := 3) (x4 * 1) (x0 * 1 + x1 * 2 + x2 * 256) h3 (by omega) (by omega), seg_eq (lo := 16) (n := 16) (0) (x0 * 1 + x1 * 2 + x2 * 256 + x3 * 8192) h4 (by omega) (by omega)⟩

theorem layout41 {x0 x1 x2 x3 x4 w : Nat} (h0 : x0 < 2) (h1 : x1 < 128) (h2 : x2 < 8192) (h3 : x3 < 32) (h4 : x4 < 64)
    (e : w = x0 * 1 + x1 * 2 + x2 * 256 + x3 * 2097152 + x4 * 67108864) :
    w < 4294967296 ∧ w / 1 % 2 = x0 ∧ w / 2 % 128 = x1 ∧ w / 256 % 8192 = x2 ∧ w / 2097152 % 32 = x3 ∧ w / 67108864 % 64 = x4 :=
  ⟨by omega, seg_eq (lo := 0) (n := 1) (x1 * 1 + x2 * 128 + x3 * 1048576 + x4 * 33554432) (0) h0 (by omega) (by omega), seg_eq (lo := 1) (n := 7) (x2 * 1 + x3 * 8192 + x4 * 262144) (x0 * 1) h1 (by omega) (by omega), seg_eq (lo := 8) (n := 13) (x3 * 1 + x4 * 32) (x0 * 1 + x1 * 2) h2 (by omega) (by omega), seg_eq (lo := 21) (n := 5) (x4 * 1) (x0 * 1 + x1 * 2 + x2 * 256) h3 (by omega) (by omega), seg_eq (lo := 26) (n := 6) (0) (x0 * 1 + x1 * 2 + x2 * 256 + x3 * 2097152) h4 (by omega) (by omega)⟩

theorem layout42 {x0 x1 x2 x3 x4 x5 x6 w : Nat} (h0 : x0 < 2) (h1 : x1 < 128) (h2 : x2 < 64) (h3 : x3 < 2) (h4 : x4 < 64) (h5 : x5 < 32) (h6 : x6 < 64)
    (e : w = x0 * 1 + x1 * 2 + x2 * 256 + x3 * 16384 + x4 * 32768 + x5 * 2097152 + x6 * 67108864) :
    w < 4294967296 ∧ w / 1 % 2 = x0 ∧ w / 2 % 128 = x1 ∧ w / 256 % 64 = x2 ∧ w / 16384 % 2 = x3 ∧ w / 32768 % 64 = x4 ∧ w / 2097152 % 32 = x5 ∧ w / 67108864 % 64 = x6 :=
  ⟨by omega, seg_eq (lo := 0) (n := 1) (x1 * 1 + x2 * 128 + x3 * 8192 + x4 * 16384 + x5 * 1048576 + x6 * 33554432) (0) h0 (by omega) (by omega), seg_eq (lo := 1) (n := 7) (x2 * 1 + x3 * 64 + x4 * 128 + x5 * 8192 + x6 * 262144) (x0 * 1) h1 (by omega) (by omega), seg_eq (lo := 8) (n := 6) (x3 * 1 + x4 * 2 + x5 * 128 + x6 * 4096) (x0 * 1 + x1 * 2) h2 (by omega) (by omega), seg_eq (lo := 14) (n := 1) (x4 * 1 + x5 * 64 + x6 * 2048) (x0 * 1 + x1 * 2 + x2 * 256) h3 (by omega) (by omega), seg_eq (lo := 15) (n := 6) (x5 * 1 + x6 * 32) (x0 * 1 + x1 * 2 + x2 * 256 + x3 * 16384) h4 (by omega) (by omega), seg_eq (lo := 21) (n := 5) (x6 * 1) (x0 * 1 + x1 * 2 + x2 * 256 + x3 * 16384 + x4 * 32768) h5 (by omega) (by omega), seg_eq (lo := 26) (n := 6) (0) (x0 * 1 + x1 * 2 + x2 * 256 + x3 * 16384 + x4 * 32768 + x5 * 2097152) h6 (by omega) (by omega)⟩

theorem layout43 {x0 x1 x2 x3 x4 w : Nat} (h0 : x0 < 2) (h1 : x1 < 128) (h2 : x2 < 2048) (h3 : x3 < 256) (h4 : x4 < 32)
    (e : w = x0 * 1 + x1 * 2 + x2 * 256 + x3 * 524288 + x4 * 134217728) :
    w < 4294967296 ∧ w / 1 % 2 = x0 ∧ w / 2 % 128 = x1 ∧ w / 256 % 2048 = x2 ∧ w / 524288 % 256 = x3 ∧ w / 134217728 % 32 = x4 :=
  ⟨by omega, seg_eq (lo := 0) (n := 1) (x1 * 1 + x2 * 128 + x3 * 262144 + x4 * 67108864) (0) h0 (by omega) (by omega), seg_eq (lo := 1) (n := 7) (x2 * 1 + x3 * 2048 + x4 * 524288) (x0 * 1) h1 (by omega) (by omega), seg_eq (lo := 8) (n := 11) (x3 * 1 + x4 * 256) (x0 * 1 + x1 * 2) h2 (by omega) (by omega), seg_eq (lo := 19) (n := 8) (x4 * 1) (x0 * 1 + x1 * 2 + x2 * 256) h3 (by omega) (by omega), seg_eq (lo := 27) (n := 5) (0) (x0 * 1 + x1 * 2 + x2 * 256 + x3 * 524288) h4 (by omega) (by omega)⟩

theorem RoundTrip.add (d : BitVec 5) (a : BitVec 5) (b : BitVec 5) : RoundTrip.Statement (.add d a b) := by
  refine roundTrip_of32 _ (fun w hw => ?_)
  change 3 + d.toNat * 134217728 + a.toNat * 4194304 + b.toNat * 131072 = w at hw
  obtain ⟨lt, e0, e1, e2, e3, e4, e5⟩ := layout0 (w := w) (by decide : 1 < 2) (by decide : 1 < 128) (by decide : 0 < 512) b.isLt a.isLt d.isLt (by omega)
  clear hw
  exact ⟨by simpa using e0, lt, by simp [decode32, decodeScalar, decodeMajor01, e1, e2, fld_eq (lo := 17) (n := 5) e3, fld_eq (lo := 22) (n := 5) e4, fld_eq (lo := 27) (n := 5) e5]⟩
theorem RoundTrip.sub (d : BitVec 5) (a : BitVec 5) (b : BitVec 5) : RoundTrip.Statement (.sub d a b) := by
  refine roundTrip_of32 _ (fun w hw => ?_)
  change 259 + d.toNat * 134217728 + a.toNat * 4194304 + b.toNat * 131072 = w at hw
  obtain ⟨lt, e0, e1, e2, e3, e4, e5⟩ := layout0 (w := w) (by decide : 1 < 2) (by decide : 1 < 128) (by decide : 1 < 512) b.isLt a.isLt d.isLt (by omega)
  clear hw
  exact ⟨by simpa using e0, lt, by simp [decode32, decodeScalar, decodeMajor01, e1, e2, fld_eq (lo := 17) (n := 5) e3, fld_eq (lo := 22) (n := 5) e4, fld_eq (lo := 27) (n := 5) e5]⟩
theorem RoundTrip.and (d : BitVec 5) (a : BitVec 5) (b : BitVec 5) : RoundTrip.Statement (.and d a b) := by
  refine roundTrip_of32 _ (fun w hw => ?_)
  change 515 + d.toNat * 134217728 + a.toNat * 4194304 + b.toNat * 131072 = w at hw
  obtain ⟨lt, e0, e1, e2, e3, e4, e5⟩ := layout0 (w := w) (by decide : 1 < 2) (by decide : 1 < 128) (by decide : 2 < 512) b.isLt a.isLt d.isLt (by omega)
  clear hw
  exact ⟨by simpa using e0, lt, by simp [decode32, decodeScalar, decodeMajor01, e1, e2, fld_eq (lo := 17) (n := 5) e3, fld_eq (lo := 22) (n := 5) e4, fld_eq (lo := 27) (n := 5) e5]⟩
theorem RoundTrip.or (d : BitVec 5) (a : BitVec 5) (b : BitVec 5) : RoundTrip.Statement (.or d a b) := by
  refine roundTrip_of32 _ (fun w hw => ?_)
  change 771 + d.toNat * 134217728 + a.toNat * 4194304 + b.toNat * 131072 = w at hw
  obtain ⟨lt, e0, e1, e2, e3, e4, e5⟩ := layout0 (w := w) (by decide : 1 < 2) (by decide : 1 < 128) (by decide : 3 < 512) b.isLt a.isLt d.isLt (by omega)
  clear hw
  exact ⟨by simpa using e0, lt, by simp [decode32, decodeScalar, decodeMajor01, e1, e2, fld_eq (lo := 17) (n := 5) e3, fld_eq (lo := 22) (n := 5) e4, fld_eq (lo := 27) (n := 5) e5]⟩
theorem RoundTrip.xor (d : BitVec 5) (a : BitVec 5) (b : BitVec 5) : RoundTrip.Statement (.xor d a b) := by
  refine roundTrip_of32 _ (fun w hw => ?_)
  change 1027 + d.toNat * 134217728 + a.toNat * 4194304 + b.toNat * 131072 = w at hw
  obtain ⟨lt, e0, e1, e2, e3, e4, e5⟩ := layout0 (w := w) (by decide : 1 < 2) (by decide : 1 < 128) (by decide : 4 < 512) b.isLt a.isLt d.isLt (by omega)
  clear hw
  exact ⟨by simpa using e0, lt, by simp [decode32, decodeScalar, decodeMajor01, e1, e2, fld_eq (lo := 17) (n := 5) e3, fld_eq (lo := 22) (n := 5) e4, fld_eq (lo := 27) (n := 5) e5]⟩
theorem RoundTrip.andn (d : BitVec 5) (a : BitVec 5) (b : BitVec 5) : RoundTrip.Statement (.andn d a b) := by
  refine roundTrip_of32 _ (fun w hw => ?_)
  change 1283 + d.toNat * 134217728 + a.toNat * 4194304 + b.toNat * 131072 = w at hw
  obtain ⟨lt, e0, e1, e2, e3, e4, e5⟩ := layout0 (w := w) (by decide : 1 < 2) (by decide : 1 < 128) (by decide : 5 < 512) b.isLt a.isLt d.isLt (by omega)
  clear hw
  exact ⟨by simpa using e0, lt, by simp [decode32, decodeScalar, decodeMajor01, e1, e2, fld_eq (lo := 17) (n := 5) e3, fld_eq (lo := 22) (n := 5) e4, fld_eq (lo := 27) (n := 5) e5]⟩
theorem RoundTrip.shl (d : BitVec 5) (a : BitVec 5) (b : BitVec 5) : RoundTrip.Statement (.shl d a b) := by
  refine roundTrip_of32 _ (fun w hw => ?_)
  change 1539 + d.toNat * 134217728 + a.toNat * 4194304 + b.toNat * 131072 = w at hw
  obtain ⟨lt, e0, e1, e2, e3, e4, e5⟩ := layout0 (w := w) (by decide : 1 < 2) (by decide : 1 < 128) (by decide : 6 < 512) b.isLt a.isLt d.isLt (by omega)
  clear hw
  exact ⟨by simpa using e0, lt, by simp [decode32, decodeScalar, decodeMajor01, e1, e2, fld_eq (lo := 17) (n := 5) e3, fld_eq (lo := 22) (n := 5) e4, fld_eq (lo := 27) (n := 5) e5]⟩
theorem RoundTrip.shr (d : BitVec 5) (a : BitVec 5) (b : BitVec 5) : RoundTrip.Statement (.shr d a b) := by
  refine roundTrip_of32 _ (fun w hw => ?_)
  change 1795 + d.toNat * 134217728 + a.toNat * 4194304 + b.toNat * 131072 = w at hw
  obtain ⟨lt, e0, e1, e2, e3, e4, e5⟩ := layout0 (w := w) (by decide : 1 < 2) (by decide : 1 < 128) (by decide : 7 < 512) b.isLt a.isLt d.isLt (by omega)
  clear hw
  exact ⟨by simpa using e0, lt, by simp [decode32, decodeScalar, decodeMajor01, e1, e2, fld_eq (lo := 17) (n := 5) e3, fld_eq (lo := 22) (n := 5) e4, fld_eq (lo := 27) (n := 5) e5]⟩
theorem RoundTrip.sar (d : BitVec 5) (a : BitVec 5) (b : BitVec 5) : RoundTrip.Statement (.sar d a b) := by
  refine roundTrip_of32 _ (fun w hw => ?_)
  change 2051 + d.toNat * 134217728 + a.toNat * 4194304 + b.toNat * 131072 = w at hw
  obtain ⟨lt, e0, e1, e2, e3, e4, e5⟩ := layout0 (w := w) (by decide : 1 < 2) (by decide : 1 < 128) (by decide : 8 < 512) b.isLt a.isLt d.isLt (by omega)
  clear hw
  exact ⟨by simpa using e0, lt, by simp [decode32, decodeScalar, decodeMajor01, e1, e2, fld_eq (lo := 17) (n := 5) e3, fld_eq (lo := 22) (n := 5) e4, fld_eq (lo := 27) (n := 5) e5]⟩
theorem RoundTrip.rol (d : BitVec 5) (a : BitVec 5) (b : BitVec 5) : RoundTrip.Statement (.rol d a b) := by
  refine roundTrip_of32 _ (fun w hw => ?_)
  change 2307 + d.toNat * 134217728 + a.toNat * 4194304 + b.toNat * 131072 = w at hw
  obtain ⟨lt, e0, e1, e2, e3, e4, e5⟩ := layout0 (w := w) (by decide : 1 < 2) (by decide : 1 < 128) (by decide : 9 < 512) b.isLt a.isLt d.isLt (by omega)
  clear hw
  exact ⟨by simpa using e0, lt, by simp [decode32, decodeScalar, decodeMajor01, e1, e2, fld_eq (lo := 17) (n := 5) e3, fld_eq (lo := 22) (n := 5) e4, fld_eq (lo := 27) (n := 5) e5]⟩
theorem RoundTrip.min (d : BitVec 5) (a : BitVec 5) (b : BitVec 5) : RoundTrip.Statement (.min d a b) := by
  refine roundTrip_of32 _ (fun w hw => ?_)
  change 2563 + d.toNat * 134217728 + a.toNat * 4194304 + b.toNat * 131072 = w at hw
  obtain ⟨lt, e0, e1, e2, e3, e4, e5⟩ := layout0 (w := w) (by decide : 1 < 2) (by decide : 1 < 128) (by decide : 10 < 512) b.isLt a.isLt d.isLt (by omega)
  clear hw
  exact ⟨by simpa using e0, lt, by simp [decode32, decodeScalar, decodeMajor01, e1, e2, fld_eq (lo := 17) (n := 5) e3, fld_eq (lo := 22) (n := 5) e4, fld_eq (lo := 27) (n := 5) e5]⟩
theorem RoundTrip.max (d : BitVec 5) (a : BitVec 5) (b : BitVec 5) : RoundTrip.Statement (.max d a b) := by
  refine roundTrip_of32 _ (fun w hw => ?_)
  change 2819 + d.toNat * 134217728 + a.toNat * 4194304 + b.toNat * 131072 = w at hw
  obtain ⟨lt, e0, e1, e2, e3, e4, e5⟩ := layout0 (w := w) (by decide : 1 < 2) (by decide : 1 < 128) (by decide : 11 < 512) b.isLt a.isLt d.isLt (by omega)
  clear hw
  exact ⟨by simpa using e0, lt, by simp [decode32, decodeScalar, decodeMajor01, e1, e2, fld_eq (lo := 17) (n := 5) e3, fld_eq (lo := 22) (n := 5) e4, fld_eq (lo := 27) (n := 5) e5]⟩
theorem RoundTrip.minN (d : BitVec 5) (a : BitVec 5) (b : BitVec 5) : RoundTrip.Statement (.minN d a b) := by
  refine roundTrip_of32 _ (fun w hw => ?_)
  change 3075 + d.toNat * 134217728 + a.toNat * 4194304 + b.toNat * 131072 = w at hw
  obtain ⟨lt, e0, e1, e2, e3, e4, e5⟩ := layout0 (w := w) (by decide : 1 < 2) (by decide : 1 < 128) (by decide : 12 < 512) b.isLt a.isLt d.isLt (by omega)
  clear hw
  exact ⟨by simpa using e0, lt, by simp [decode32, decodeScalar, decodeMajor01, e1, e2, fld_eq (lo := 17) (n := 5) e3, fld_eq (lo := 22) (n := 5) e4, fld_eq (lo := 27) (n := 5) e5]⟩
theorem RoundTrip.maxN (d : BitVec 5) (a : BitVec 5) (b : BitVec 5) : RoundTrip.Statement (.maxN d a b) := by
  refine roundTrip_of32 _ (fun w hw => ?_)
  change 3331 + d.toNat * 134217728 + a.toNat * 4194304 + b.toNat * 131072 = w at hw
  obtain ⟨lt, e0, e1, e2, e3, e4, e5⟩ := layout0 (w := w) (by decide : 1 < 2) (by decide : 1 < 128) (by decide : 13 < 512) b.isLt a.isLt d.isLt (by omega)
  clear hw
  exact ⟨by simpa using e0, lt, by simp [decode32, decodeScalar, decodeMajor01, e1, e2, fld_eq (lo := 17) (n := 5) e3, fld_eq (lo := 22) (n := 5) e4, fld_eq (lo := 27) (n := 5) e5]⟩
theorem RoundTrip.slt (d : BitVec 5) (a : BitVec 5) (b : BitVec 5) : RoundTrip.Statement (.slt d a b) := by
  refine roundTrip_of32 _ (fun w hw => ?_)
  change 3587 + d.toNat * 134217728 + a.toNat * 4194304 + b.toNat * 131072 = w at hw
  obtain ⟨lt, e0, e1, e2, e3, e4, e5⟩ := layout0 (w := w) (by decide : 1 < 2) (by decide : 1 < 128) (by decide : 14 < 512) b.isLt a.isLt d.isLt (by omega)
  clear hw
  exact ⟨by simpa using e0, lt, by simp [decode32, decodeScalar, decodeMajor01, e1, e2, fld_eq (lo := 17) (n := 5) e3, fld_eq (lo := 22) (n := 5) e4, fld_eq (lo := 27) (n := 5) e5]⟩
theorem RoundTrip.sltN (d : BitVec 5) (a : BitVec 5) (b : BitVec 5) : RoundTrip.Statement (.sltN d a b) := by
  refine roundTrip_of32 _ (fun w hw => ?_)
  change 3843 + d.toNat * 134217728 + a.toNat * 4194304 + b.toNat * 131072 = w at hw
  obtain ⟨lt, e0, e1, e2, e3, e4, e5⟩ := layout0 (w := w) (by decide : 1 < 2) (by decide : 1 < 128) (by decide : 15 < 512) b.isLt a.isLt d.isLt (by omega)
  clear hw
  exact ⟨by simpa using e0, lt, by simp [decode32, decodeScalar, decodeMajor01, e1, e2, fld_eq (lo := 17) (n := 5) e3, fld_eq (lo := 22) (n := 5) e4, fld_eq (lo := 27) (n := 5) e5]⟩
theorem RoundTrip.seq (d : BitVec 5) (a : BitVec 5) (b : BitVec 5) : RoundTrip.Statement (.seq d a b) := by
  refine roundTrip_of32 _ (fun w hw => ?_)
  change 4099 + d.toNat * 134217728 + a.toNat * 4194304 + b.toNat * 131072 = w at hw
  obtain ⟨lt, e0, e1, e2, e3, e4, e5⟩ := layout0 (w := w) (by decide : 1 < 2) (by decide : 1 < 128) (by decide : 16 < 512) b.isLt a.isLt d.isLt (by omega)
  clear hw
  exact ⟨by simpa using e0, lt, by simp [decode32, decodeScalar, decodeMajor01, e1, e2, fld_eq (lo := 17) (n := 5) e3, fld_eq (lo := 22) (n := 5) e4, fld_eq (lo := 27) (n := 5) e5]⟩
theorem RoundTrip.mul (d : BitVec 5) (a : BitVec 5) (b : BitVec 5) : RoundTrip.Statement (.mul d a b) := by
  refine roundTrip_of32 _ (fun w hw => ?_)
  change 4355 + d.toNat * 134217728 + a.toNat * 4194304 + b.toNat * 131072 = w at hw
  obtain ⟨lt, e0, e1, e2, e3, e4, e5⟩ := layout0 (w := w) (by decide : 1 < 2) (by decide : 1 < 128) (by decide : 17 < 512) b.isLt a.isLt d.isLt (by omega)
  clear hw
  exact ⟨by simpa using e0, lt, by simp [decode32, decodeScalar, decodeMajor01, e1, e2, fld_eq (lo := 17) (n := 5) e3, fld_eq (lo := 22) (n := 5) e4, fld_eq (lo := 27) (n := 5) e5]⟩
theorem RoundTrip.mulh (d : BitVec 5) (a : BitVec 5) (b : BitVec 5) : RoundTrip.Statement (.mulh d a b) := by
  refine roundTrip_of32 _ (fun w hw => ?_)
  change 4611 + d.toNat * 134217728 + a.toNat * 4194304 + b.toNat * 131072 = w at hw
  obtain ⟨lt, e0, e1, e2, e3, e4, e5⟩ := layout0 (w := w) (by decide : 1 < 2) (by decide : 1 < 128) (by decide : 18 < 512) b.isLt a.isLt d.isLt (by omega)
  clear hw
  exact ⟨by simpa using e0, lt, by simp [decode32, decodeScalar, decodeMajor01, e1, e2, fld_eq (lo := 17) (n := 5) e3, fld_eq (lo := 22) (n := 5) e4, fld_eq (lo := 27) (n := 5) e5]⟩
theorem RoundTrip.mulhN (d : BitVec 5) (a : BitVec 5) (b : BitVec 5) : RoundTrip.Statement (.mulhN d a b) := by
  refine roundTrip_of32 _ (fun w hw => ?_)
  change 4867 + d.toNat * 134217728 + a.toNat * 4194304 + b.toNat * 131072 = w at hw
  obtain ⟨lt, e0, e1, e2, e3, e4, e5⟩ := layout0 (w := w) (by decide : 1 < 2) (by decide : 1 < 128) (by decide : 19 < 512) b.isLt a.isLt d.isLt (by omega)
  clear hw
  exact ⟨by simpa using e0, lt, by simp [decode32, decodeScalar, decodeMajor01, e1, e2, fld_eq (lo := 17) (n := 5) e3, fld_eq (lo := 22) (n := 5) e4, fld_eq (lo := 27) (n := 5) e5]⟩
theorem RoundTrip.div (d : BitVec 5) (a : BitVec 5) (b : BitVec 5) : RoundTrip.Statement (.div d a b) := by
  refine roundTrip_of32 _ (fun w hw => ?_)
  change 5123 + d.toNat * 134217728 + a.toNat * 4194304 + b.toNat * 131072 = w at hw
  obtain ⟨lt, e0, e1, e2, e3, e4, e5⟩ := layout0 (w := w) (by decide : 1 < 2) (by decide : 1 < 128) (by decide : 20 < 512) b.isLt a.isLt d.isLt (by omega)
  clear hw
  exact ⟨by simpa using e0, lt, by simp [decode32, decodeScalar, decodeMajor01, e1, e2, fld_eq (lo := 17) (n := 5) e3, fld_eq (lo := 22) (n := 5) e4, fld_eq (lo := 27) (n := 5) e5]⟩
theorem RoundTrip.divN (d : BitVec 5) (a : BitVec 5) (b : BitVec 5) : RoundTrip.Statement (.divN d a b) := by
  refine roundTrip_of32 _ (fun w hw => ?_)
  change 5379 + d.toNat * 134217728 + a.toNat * 4194304 + b.toNat * 131072 = w at hw
  obtain ⟨lt, e0, e1, e2, e3, e4, e5⟩ := layout0 (w := w) (by decide : 1 < 2) (by decide : 1 < 128) (by decide : 21 < 512) b.isLt a.isLt d.isLt (by omega)
  clear hw
  exact ⟨by simpa using e0, lt, by simp [decode32, decodeScalar, decodeMajor01, e1, e2, fld_eq (lo := 17) (n := 5) e3, fld_eq (lo := 22) (n := 5) e4, fld_eq (lo := 27) (n := 5) e5]⟩
theorem RoundTrip.rem (d : BitVec 5) (a : BitVec 5) (b : BitVec 5) : RoundTrip.Statement (.rem d a b) := by
  refine roundTrip_of32 _ (fun w hw => ?_)
  change 5635 + d.toNat * 134217728 + a.toNat * 4194304 + b.toNat * 131072 = w at hw
  obtain ⟨lt, e0, e1, e2, e3, e4, e5⟩ := layout0 (w := w) (by decide : 1 < 2) (by decide : 1 < 128) (by decide : 22 < 512) b.isLt a.isLt d.isLt (by omega)
  clear hw
  exact ⟨by simpa using e0, lt, by simp [decode32, decodeScalar, decodeMajor01, e1, e2, fld_eq (lo := 17) (n := 5) e3, fld_eq (lo := 22) (n := 5) e4, fld_eq (lo := 27) (n := 5) e5]⟩
theorem RoundTrip.remN (d : BitVec 5) (a : BitVec 5) (b : BitVec 5) : RoundTrip.Statement (.remN d a b) := by
  refine roundTrip_of32 _ (fun w hw => ?_)
  change 5891 + d.toNat * 134217728 + a.toNat * 4194304 + b.toNat * 131072 = w at hw
  obtain ⟨lt, e0, e1, e2, e3, e4, e5⟩ := layout0 (w := w) (by decide : 1 < 2) (by decide : 1 < 128) (by decide : 23 < 512) b.isLt a.isLt d.isLt (by omega)
  clear hw
  exact ⟨by simpa using e0, lt, by simp [decode32, decodeScalar, decodeMajor01, e1, e2, fld_eq (lo := 17) (n := 5) e3, fld_eq (lo := 22) (n := 5) e4, fld_eq (lo := 27) (n := 5) e5]⟩
theorem RoundTrip.clz (d : BitVec 5) (a : BitVec 5) : RoundTrip.Statement (.clz d a) := by
  refine roundTrip_of32 _ (fun w hw => ?_)
  change 6147 + d.toNat * 134217728 + a.toNat * 4194304 = w at hw
  obtain ⟨lt, e0, e1, e2, e3, e4⟩ := layout1 (w := w) (by decide : 1 < 2) (by decide : 1 < 128) (by decide : 24 < 16384) a.isLt d.isLt (by omega)
  have k0 : w / 256 % 512 = 24 := by clear lt e0 e1 e2 e3 e4; omega
  clear hw
  exact ⟨by simpa using e0, lt, by simp [decode32, decodeScalar, decodeMajor01, e1, e2, k0, fld_eq (lo := 22) (n := 5) e3, fld_eq (lo := 27) (n := 5) e4]⟩
theorem RoundTrip.ctz (d : BitVec 5) (a : BitVec 5) : RoundTrip.Statement (.ctz d a) := by
  refine roundTrip_of32 _ (fun w hw => ?_)
  change 6403 + d.toNat * 134217728 + a.toNat * 4194304 = w at hw
  obtain ⟨lt, e0, e1, e2, e3, e4⟩ := layout1 (w := w) (by decide : 1 < 2) (by decide : 1 < 128) (by decide : 25 < 16384) a.isLt d.isLt (by omega)
  have k0 : w / 256 % 512 = 25 := by clear lt e0 e1 e2 e3 e4; omega
  clear hw
  exact ⟨by simpa using e0, lt, by simp [decode32, decodeScalar, decodeMajor01, e1, e2, k0, fld_eq (lo := 22) (n := 5) e3, fld_eq (lo := 27) (n := 5) e4]⟩
theorem RoundTrip.popc (d : BitVec 5) (a : BitVec 5) : RoundTrip.Statement (.popc d a) := by
  refine roundTrip_of32 _ (fun w hw => ?_)
  change 6659 + d.toNat * 134217728 + a.toNat * 4194304 = w at hw
  obtain ⟨lt, e0, e1, e2, e3, e4⟩ := layout1 (w := w) (by decide : 1 < 2) (by decide : 1 < 128) (by decide : 26 < 16384) a.isLt d.isLt (by omega)
  have k0 : w / 256 % 512 = 26 := by clear lt e0 e1 e2 e3 e4; omega
  clear hw
  exact ⟨by simpa using e0, lt, by simp [decode32, decodeScalar, decodeMajor01, e1, e2, k0, fld_eq (lo := 22) (n := 5) e3, fld_eq (lo := 27) (n := 5) e4]⟩
theorem RoundTrip.addi (d : BitVec 5) (a : BitVec 5) (i : BitVec 14) : RoundTrip.Statement (.addi d a i) := by
  refine roundTrip_of32 _ (fun w hw => ?_)
  change 5 + d.toNat * 134217728 + a.toNat * 4194304 + i.toNat * 256 = w at hw
  obtain ⟨lt, e0, e1, e2, e3, e4⟩ := layout1 (w := w) (by decide : 1 < 2) (by decide : 2 < 128) i.isLt a.isLt d.isLt (by omega)
  clear hw
  exact ⟨by simpa using e0, lt, by simp [decode32, decodeScalar, decodeMajor02, e1, fld_eq (lo := 8) (n := 14) e2, fld_eq (lo := 22) (n := 5) e3, fld_eq (lo := 27) (n := 5) e4]⟩
theorem RoundTrip.andi (d : BitVec 5) (a : BitVec 5) (i : BitVec 14) : RoundTrip.Statement (.andi d a i) := by
  refine roundTrip_of32 _ (fun w hw => ?_)
  change 7 + d.toNat * 134217728 + a.toNat * 4194304 + i.toNat * 256 = w at hw
  obtain ⟨lt, e0, e1, e2, e3, e4⟩ := layout1 (w := w) (by decide : 1 < 2) (by decide : 3 < 128) i.isLt a.isLt d.isLt (by omega)
  clear hw
  exact ⟨by simpa using e0, lt, by simp [decode32, decodeScalar, decodeMajor03, e1, fld_eq (lo := 8) (n := 14) e2, fld_eq (lo := 22) (n := 5) e3, fld_eq (lo := 27) (n := 5) e4]⟩
theorem RoundTrip.ori (d : BitVec 5) (a : BitVec 5) (i : BitVec 14) : RoundTrip.Statement (.ori d a i) := by
  refine roundTrip_of32 _ (fun w hw => ?_)
  change 9 + d.toNat * 134217728 + a.toNat * 4194304 + i.toNat * 256 = w at hw
  obtain ⟨lt, e0, e1, e2, e3, e4⟩ := layout1 (w := w) (by decide : 1 < 2) (by decide : 4 < 128) i.isLt a.isLt d.isLt (by omega)
  clear hw
  exact ⟨by simpa using e0, lt, by simp [decode32, decodeScalar, decodeMajor04, e1, fld_eq (lo := 8) (n := 14) e2, fld_eq (lo := 22) (n := 5) e3, fld_eq (lo := 27) (n := 5) e4]⟩
theorem RoundTrip.xori (d : BitVec 5) (a : BitVec 5) (i : BitVec 14) : RoundTrip.Statement (.xori d a i) := by
  refine roundTrip_of32 _ (fun w hw => ?_)
  change 11 + d.toNat * 134217728 + a.toNat * 4194304 + i.toNat * 256 = w at hw
  obtain ⟨lt, e0, e1, e2, e3, e4⟩ := layout1 (w := w) (by decide : 1 < 2) (by decide : 5 < 128) i.isLt a.isLt d.isLt (by omega)
  clear hw
  exact ⟨by simpa using e0, lt, by simp [decode32, decodeScalar, decodeMajor05, e1, fld_eq (lo := 8) (n := 14) e2, fld_eq (lo := 22) (n := 5) e3, fld_eq (lo := 27) (n := 5) e4]⟩
theorem RoundTrip.shli (d : BitVec 5) (a : BitVec 5) (i : BitVec 6) : RoundTrip.Statement (.shli d a i) := by
  refine roundTrip_of32 _ (fun w hw => ?_)
  change 13 + d.toNat * 134217728 + a.toNat * 4194304 + i.toNat * 256 = w at hw
  obtain ⟨lt, e0, e1, e2, e3, e4, e5⟩ := layout2 (w := w) (by decide : 1 < 2) (by decide : 6 < 128) i.isLt (by decide : 0 < 256) a.isLt d.isLt (by omega)
  clear hw
  exact ⟨by simpa using e0, lt, by simp [decode32, decodeScalar, decodeMajor06, e1, e3, fld_eq (lo := 8) (n := 6) e2, fld_eq (lo := 22) (n := 5) e4, fld_eq (lo := 27) (n := 5) e5]⟩
theorem RoundTrip.shri (d : BitVec 5) (a : BitVec 5) (i : BitVec 6) : RoundTrip.Statement (.shri d a i) := by
  refine roundTrip_of32 _ (fun w hw => ?_)
  change 15 + d.toNat * 134217728 + a.toNat * 4194304 + i.toNat * 256 = w at hw
  obtain ⟨lt, e0, e1, e2, e3, e4, e5⟩ := layout2 (w := w) (by decide : 1 < 2) (by decide : 7 < 128) i.isLt (by decide : 0 < 256) a.isLt d.isLt (by omega)
  clear hw
  exact ⟨by simpa using e0, lt, by simp [decode32, decodeScalar, decodeMajor07, e1, e3, fld_eq (lo := 8) (n := 6) e2, fld_eq (lo := 22) (n := 5) e4, fld_eq (lo := 27) (n := 5) e5]⟩
theorem RoundTrip.sari (d : BitVec 5) (a : BitVec 5) (i : BitVec 6) : RoundTrip.Statement (.sari d a i) := by
  refine roundTrip_of32 _ (fun w hw => ?_)
  change 17 + d.toNat * 134217728 + a.toNat * 4194304 + i.toNat * 256 = w at hw
  obtain ⟨lt, e0, e1, e2, e3, e4, e5⟩ := layout2 (w := w) (by decide : 1 < 2) (by decide : 8 < 128) i.isLt (by decide : 0 < 256) a.isLt d.isLt (by omega)
  clear hw
  exact ⟨by simpa using e0, lt, by simp [decode32, decodeScalar, decodeMajor08, e1, e3, fld_eq (lo := 8) (n := 6) e2, fld_eq (lo := 22) (n := 5) e4, fld_eq (lo := 27) (n := 5) e5]⟩
theorem RoundTrip.slti (d : BitVec 5) (a : BitVec 5) (i : BitVec 14) : RoundTrip.Statement (.slti d a i) := by
  refine roundTrip_of32 _ (fun w hw => ?_)
  change 19 + d.toNat * 134217728 + a.toNat * 4194304 + i.toNat * 256 = w at hw
  obtain ⟨lt, e0, e1, e2, e3, e4⟩ := layout1 (w := w) (by decide : 1 < 2) (by decide : 9 < 128) i.isLt a.isLt d.isLt (by omega)
  clear hw
  exact ⟨by simpa using e0, lt, by simp [decode32, decodeScalar, decodeMajor09, e1, fld_eq (lo := 8) (n := 14) e2, fld_eq (lo := 22) (n := 5) e3, fld_eq (lo := 27) (n := 5) e4]⟩
theorem RoundTrip.li (d : BitVec 5) (i : BitVec 19) : RoundTrip.Statement (.li d i) := by
  refine roundTrip_of32 _ (fun w hw => ?_)
  change 21 + d.toNat * 134217728 + i.toNat * 256 = w at hw
  obtain ⟨lt, e0, e1, e2, e3⟩ := layout3 (w := w) (by decide : 1 < 2) (by decide : 10 < 128) i.isLt d.isLt (by omega)
  clear hw
  exact ⟨by simpa using e0, lt, by simp [decode32, decodeScalar, decodeMajor0a, e1, fld_eq (lo := 8) (n := 19) e2, fld_eq (lo := 27) (n := 5) e3]⟩
theorem RoundTrip.lih (d : BitVec 5) (i : BitVec 16) : RoundTrip.Statement (.lih d i) := by
  refine roundTrip_of32 _ (fun w hw => ?_)
  change 23 + d.toNat * 134217728 + i.toNat * 256 = w at hw
  obtain ⟨lt, e0, e1, e2, e3, e4⟩ := layout4 (w := w) (by decide : 1 < 2) (by decide : 11 < 128) i.isLt (by decide : 0 < 8) d.isLt (by omega)
  clear hw
  exact ⟨by simpa using e0, lt, by simp [decode32, decodeScalar, decodeMajor0b, e1, e3, fld_eq (lo := 8) (n := 16) e2, fld_eq (lo := 27) (n := 5) e4]⟩
theorem RoundTrip.ext (d : BitVec 5) (a : BitVec 5) (x : BitVec 1) (l : BitVec 6) (p : BitVec 6) : RoundTrip.Statement (.ext d a x l p) := by
  refine roundTrip_of32 _ (fun w hw => ?_)
  change 25 + d.toNat * 134217728 + a.toNat * 4194304 + x.toNat * 1048576 + l.toNat * 16384 + p.toNat * 256 = w at hw
  obtain ⟨lt, e0, e1, e2, e3, e4, e5, e6, e7⟩ := layout5 (w := w) (by decide : 1 < 2) (by decide : 12 < 128) p.isLt l.isLt x.isLt (by decide : 0 < 2) a.isLt d.isLt (by omega)
  clear hw
  exact ⟨by simpa using e0, lt, by simp [decode32, decodeScalar, decodeMajor0c, e1, e5, fld_eq (lo := 8) (n := 6) e2, fld_eq (lo := 14) (n := 6) e3, fld_eq (lo := 20) (n := 1) e4, fld_eq (lo := 22) (n := 5) e6, fld_eq (lo := 27) (n := 5) e7]⟩
theorem RoundTrip.ins (d : BitVec 5) (a : BitVec 5) (l : BitVec 6) (p : BitVec 6) : RoundTrip.Statement (.ins d a l p) := by
  refine roundTrip_of32 _ (fun w hw => ?_)
  change 27 + d.toNat * 134217728 + a.toNat * 4194304 + l.toNat * 16384 + p.toNat * 256 = w at hw
  obtain ⟨lt, e0, e1, e2, e3, e4, e5, e6⟩ := layout6 (w := w) (by decide : 1 < 2) (by decide : 13 < 128) p.isLt l.isLt (by decide : 0 < 4) a.isLt d.isLt (by omega)
  clear hw
  exact ⟨by simpa using e0, lt, by simp [decode32, decodeScalar, decodeMajor0d, e1, e4, fld_eq (lo := 8) (n := 6) e2, fld_eq (lo := 14) (n := 6) e3, fld_eq (lo := 22) (n := 5) e5, fld_eq (lo := 27) (n := 5) e6]⟩
theorem RoundTrip.mkpl (d : BitVec 5) (a : BitVec 5) (e : BitVec 3) (y : BitVec 5) (x : BitVec 5) : RoundTrip.Statement (.mkpl d a e y x) := by
  refine roundTrip_of32 _ (fun w hw => ?_)
  change 2097181 + d.toNat * 134217728 + a.toNat * 4194304 + e.toNat * 262144 + y.toNat * 8192 + x.toNat * 256 = w at hw
  obtain ⟨lt, e0, e1, e2, e3, e4, e5, e6, e7⟩ := layout7 (w := w) (by decide : 1 < 2) (by decide : 14 < 128) x.isLt y.isLt e.isLt (by decide : 1 < 2) a.isLt d.isLt (by omega)
  clear hw
  exact ⟨by simpa using e0, lt, by simp [decode32, decodeScalar, decodeMajor0e, e1, e5, fld_eq (lo := 8) (n := 5) e2, fld_eq (lo := 13) (n := 5) e3, fld_eq (lo := 18) (n := 3) e4, fld_eq (lo := 22) (n := 5) e6, fld_eq (lo := 27) (n := 5) e7]⟩
theorem RoundTrip.mkplAbs (d : BitVec 5) (a : BitVec 5) (e : BitVec 3) (y : BitVec 5) (x : BitVec 5) : RoundTrip.Statement (.mkplAbs d a e y x) := by
  refine roundTrip_of32 _ (fun w hw => ?_)
  change 29 + d.toNat * 134217728 + a.toNat * 4194304 + e.toNat * 262144 + y.toNat * 8192 + x.toNat * 256 = w at hw
  obtain ⟨lt, e0, e1, e2, e3, e4, e5, e6, e7⟩ := layout7 (w := w) (by decide : 1 < 2) (by decide : 14 < 128) x.isLt y.isLt e.isLt (by decide : 0 < 2) a.isLt d.isLt (by omega)
  clear hw
  exact ⟨by simpa using e0, lt, by simp [decode32, decodeScalar, decodeMajor0e, e1, e5, fld_eq (lo := 8) (n := 5) e2, fld_eq (lo := 13) (n := 5) e3, fld_eq (lo := 18) (n := 3) e4, fld_eq (lo := 22) (n := 5) e6, fld_eq (lo := 27) (n := 5) e7]⟩
theorem RoundTrip.csrr (d : BitVec 5) (c : BitVec 12) : RoundTrip.Statement (.csrr d c) := by
  refine roundTrip_of32 _ (fun w hw => ?_)
  change 31 + d.toNat * 134217728 + c.toNat * 1024 = w at hw
  obtain ⟨lt, e0, e1, e2, e3, e4, e5⟩ := layout8 (w := w) (by decide : 1 < 2) (by decide : 15 < 128) (by decide : 0 < 4) c.isLt (by decide : 0 < 32) d.isLt (by omega)
  clear hw
  exact ⟨by simpa using e0, lt, by simp [decode32, decodeScalar, decodeMajor0f, e1, e2, e4, fld_eq (lo := 10) (n := 12) e3, fld_eq (lo := 27) (n := 5) e5]⟩
theorem RoundTrip.csrw (d : BitVec 5) (a : BitVec 5) (c : BitVec 12) : RoundTrip.Statement (.csrw d a c) := by
  refine roundTrip_of32 _ (fun w hw => ?_)
  change 287 + d.toNat * 134217728 + a.toNat * 4194304 + c.toNat * 1024 = w at hw
  obtain ⟨lt, e0, e1, e2, e3, e4, e5⟩ := layout8 (w := w) (by decide : 1 < 2) (by decide : 15 < 128) (by decide : 1 < 4) c.isLt a.isLt d.isLt (by omega)
  clear hw
  exact ⟨by simpa using e0, lt, by simp [decode32, decodeScalar, decodeMajor0f, e1, e2, fld_eq (lo := 10) (n := 12) e3, fld_eq (lo := 22) (n := 5) e4, fld_eq (lo := 27) (n := 5) e5]⟩
theorem RoundTrip.csrs (d : BitVec 5) (a : BitVec 5) (c : BitVec 12) : RoundTrip.Statement (.csrs d a c) := by
  refine roundTrip_of32 _ (fun w hw => ?_)
  change 543 + d.toNat * 134217728 + a.toNat * 4194304 + c.toNat * 1024 = w at hw
  obtain ⟨lt, e0, e1, e2, e3, e4, e5⟩ := layout8 (w := w) (by decide : 1 < 2) (by decide : 15 < 128) (by decide : 2 < 4) c.isLt a.isLt d.isLt (by omega)
  clear hw
  exact ⟨by simpa using e0, lt, by simp [decode32, decodeScalar, decodeMajor0f, e1, e2, fld_eq (lo := 10) (n := 12) e3, fld_eq (lo := 22) (n := 5) e4, fld_eq (lo := 27) (n := 5) e5]⟩
theorem RoundTrip.csrc (d : BitVec 5) (a : BitVec 5) (c : BitVec 12) : RoundTrip.Statement (.csrc d a c) := by
  refine roundTrip_of32 _ (fun w hw => ?_)
  change 799 + d.toNat * 134217728 + a.toNat * 4194304 + c.toNat * 1024 = w at hw
  obtain ⟨lt, e0, e1, e2, e3, e4, e5⟩ := layout8 (w := w) (by decide : 1 < 2) (by decide : 15 < 128) (by decide : 3 < 4) c.isLt a.isLt d.isLt (by omega)
  clear hw
  exact ⟨by simpa using e0, lt, by simp [decode32, decodeScalar, decodeMajor0f, e1, e2, fld_eq (lo := 10) (n := 12) e3, fld_eq (lo := 22) (n := 5) e4, fld_eq (lo := 27) (n := 5) e5]⟩
theorem RoundTrip.oxl (n : BitVec 5) (a : BitVec 5) (b : BitVec 5) (k : BitVec 3) : RoundTrip.Statement (.oxl n a b k) := by
  refine roundTrip_of32 _ (fun w hw => ?_)
  change 33 + n.toNat * 134217728 + a.toNat * 4194304 + b.toNat * 131072 + k.toNat * 8192 = w at hw
  obtain ⟨lt, e0, e1, e2, e3, e4, e5, e6, e7⟩ := layout9 (w := w) (by decide : 1 < 2) (by decide : 16 < 128) (by decide : 0 < 32) k.isLt (by decide : 0 < 2) b.isLt a.isLt n.isLt (by omega)
  clear hw
  exact ⟨by simpa using e0, lt, by simp [decode32, decodeScalar, decodeMajor10, e1, e2, e4, fld_eq (lo := 13) (n := 3) e3, fld_eq (lo := 17) (n := 5) e5, fld_eq (lo := 22) (n := 5) e6, fld_eq (lo := 27) (n := 5) e7]⟩
theorem RoundTrip.oxm (n : BitVec 5) (a : BitVec 5) : RoundTrip.Statement (.oxm n a) := by
  refine roundTrip_of32 _ (fun w hw => ?_)
  change 289 + n.toNat * 134217728 + a.toNat * 4194304 = w at hw
  obtain ⟨lt, e0, e1, e2, e3, e4⟩ := layout1 (w := w) (by decide : 1 < 2) (by decide : 16 < 128) (by decide : 1 < 16384) a.isLt n.isLt (by omega)
  have k0 : w / 256 % 32 = 1 := by clear lt e0 e1 e2 e3 e4; omega
  have k1 : w / 65536 % 2 = 0 := by clear lt e0 e1 e2 e3 e4; omega
  clear hw
  exact ⟨by simpa using e0, lt, by simp [decode32, decodeScalar, decodeMajor10, e1, e2, k0, k1, fld_eq (lo := 22) (n := 5) e3, fld_eq (lo := 27) (n := 5) e4]⟩
theorem RoundTrip.oxr (d : BitVec 5) (n : BitVec 5) : RoundTrip.Statement (.oxr d n) := by
  refine roundTrip_of32 _ (fun w hw => ?_)
  change 545 + d.toNat * 134217728 + n.toNat * 4194304 = w at hw
  obtain ⟨lt, e0, e1, e2, e3, e4⟩ := layout1 (w := w) (by decide : 1 < 2) (by decide : 16 < 128) (by decide : 2 < 16384) n.isLt d.isLt (by omega)
  have k0 : w / 256 % 32 = 2 := by clear lt e0 e1 e2 e3 e4; omega
  have k1 : w / 65536 % 2 = 0 := by clear lt e0 e1 e2 e3 e4; omega
  clear hw
  exact ⟨by simpa using e0, lt, by simp [decode32, decodeScalar, decodeMajor10, e1, e2, k0, k1, fld_eq (lo := 22) (n := 5) e3, fld_eq (lo := 27) (n := 5) e4]⟩
theorem RoundTrip.b (o : BitVec 24) : RoundTrip.Statement (.b o) := by
  refine roundTrip_of32 _ (fun w hw => ?_)
  change 35 + o.toNat * 256 = w at hw
  obtain ⟨lt, e0, e1, e2⟩ := layout10 (w := w) (by decide : 1 < 2) (by decide : 17 < 128) o.isLt (by omega)
  clear hw
  exact ⟨by simpa using e0, lt, by simp [decode32, decodeScalar, decodeMajor11, e1, fld_eq (lo := 8) (n := 24) e2]⟩
theorem RoundTrip.call (o : BitVec 24) : RoundTrip.Statement (.call o) := by
  refine roundTrip_of32 _ (fun w hw => ?_)
  change 37 + o.toNat * 256 = w at hw
  obtain ⟨lt, e0, e1, e2⟩ := layout10 (w := w) (by decide : 1 < 2) (by decide : 18 < 128) o.isLt (by omega)
  clear hw
  exact ⟨by simpa using e0, lt, by simp [decode32, decodeScalar, decodeMajor12, e1, fld_eq (lo := 8) (n := 24) e2]⟩
theorem RoundTrip.jr (d : BitVec 5) (a : BitVec 5) (i : BitVec 14) : RoundTrip.Statement (.jr d a i) := by
  refine roundTrip_of32 _ (fun w hw => ?_)
  change 39 + d.toNat * 134217728 + a.toNat * 4194304 + i.toNat * 256 = w at hw
  obtain ⟨lt, e0, e1, e2, e3, e4⟩ := layout1 (w := w) (by decide : 1 < 2) (by decide : 19 < 128) i.isLt a.isLt d.isLt (by omega)
  clear hw
  exact ⟨by simpa using e0, lt, by simp [decode32, decodeScalar, decodeMajor13, e1, fld_eq (lo := 8) (n := 14) e2, fld_eq (lo := 22) (n := 5) e3, fld_eq (lo := 27) (n := 5) e4]⟩
theorem RoundTrip.beq (a : BitVec 5) (b : BitVec 5) (o : BitVec 14) : RoundTrip.Statement (.beq a b o) := by
  refine roundTrip_of32 _ (fun w hw => ?_)
  change 41 + a.toNat * 134217728 + b.toNat * 4194304 + o.toNat * 256 = w at hw
  obtain ⟨lt, e0, e1, e2, e3, e4⟩ := layout1 (w := w) (by decide : 1 < 2) (by decide : 20 < 128) o.isLt b.isLt a.isLt (by omega)
  clear hw
  exact ⟨by simpa using e0, lt, by simp [decode32, decodeScalar, decodeMajor14, e1, fld_eq (lo := 8) (n := 14) e2, fld_eq (lo := 22) (n := 5) e3, fld_eq (lo := 27) (n := 5) e4]⟩
theorem RoundTrip.bne (a : BitVec 5) (b : BitVec 5) (o : BitVec 14) : RoundTrip.Statement (.bne a b o) := by
  refine roundTrip_of32 _ (fun w hw => ?_)
  change 43 + a.toNat * 134217728 + b.toNat * 4194304 + o.toNat * 256 = w at hw
  obtain ⟨lt, e0, e1, e2, e3, e4⟩ := layout1 (w := w) (by decide : 1 < 2) (by decide : 21 < 128) o.isLt b.isLt a.isLt (by omega)
  clear hw
  exact ⟨by simpa using e0, lt, by simp [decode32, decodeScalar, decodeMajor15, e1, fld_eq (lo := 8) (n := 14) e2, fld_eq (lo := 22) (n := 5) e3, fld_eq (lo := 27) (n := 5) e4]⟩
theorem RoundTrip.blt (a : BitVec 5) (b : BitVec 5) (o : BitVec 14) : RoundTrip.Statement (.blt a b o) := by
  refine roundTrip_of32 _ (fun w hw => ?_)
  change 45 + a.toNat * 134217728 + b.toNat * 4194304 + o.toNat * 256 = w at hw
  obtain ⟨lt, e0, e1, e2, e3, e4⟩ := layout1 (w := w) (by decide : 1 < 2) (by decide : 22 < 128) o.isLt b.isLt a.isLt (by omega)
  clear hw
  exact ⟨by simpa using e0, lt, by simp [decode32, decodeScalar, decodeMajor16, e1, fld_eq (lo := 8) (n := 14) e2, fld_eq (lo := 22) (n := 5) e3, fld_eq (lo := 27) (n := 5) e4]⟩
theorem RoundTrip.bge (a : BitVec 5) (b : BitVec 5) (o : BitVec 14) : RoundTrip.Statement (.bge a b o) := by
  refine roundTrip_of32 _ (fun w hw => ?_)
  change 47 + a.toNat * 134217728 + b.toNat * 4194304 + o.toNat * 256 = w at hw
  obtain ⟨lt, e0, e1, e2, e3, e4⟩ := layout1 (w := w) (by decide : 1 < 2) (by decide : 23 < 128) o.isLt b.isLt a.isLt (by omega)
  clear hw
  exact ⟨by simpa using e0, lt, by simp [decode32, decodeScalar, decodeMajor17, e1, fld_eq (lo := 8) (n := 14) e2, fld_eq (lo := 22) (n := 5) e3, fld_eq (lo := 27) (n := 5) e4]⟩
theorem RoundTrip.bltN (a : BitVec 5) (b : BitVec 5) (o : BitVec 14) : RoundTrip.Statement (.bltN a b o) := by
  refine roundTrip_of32 _ (fun w hw => ?_)
  change 49 + a.toNat * 134217728 + b.toNat * 4194304 + o.toNat * 256 = w at hw
  obtain ⟨lt, e0, e1, e2, e3, e4⟩ := layout1 (w := w) (by decide : 1 < 2) (by decide : 24 < 128) o.isLt b.isLt a.isLt (by omega)
  clear hw
  exact ⟨by simpa using e0, lt, by simp [decode32, decodeScalar, decodeMajor18, e1, fld_eq (lo := 8) (n := 14) e2, fld_eq (lo := 22) (n := 5) e3, fld_eq (lo := 27) (n := 5) e4]⟩
theorem RoundTrip.bgeN (a : BitVec 5) (b : BitVec 5) (o : BitVec 14) : RoundTrip.Statement (.bgeN a b o) := by
  refine roundTrip_of32 _ (fun w hw => ?_)
  change 51 + a.toNat * 134217728 + b.toNat * 4194304 + o.toNat * 256 = w at hw
  obtain ⟨lt, e0, e1, e2, e3, e4⟩ := layout1 (w := w) (by decide : 1 < 2) (by decide : 25 < 128) o.isLt b.isLt a.isLt (by omega)
  clear hw
  exact ⟨by simpa using e0, lt, by simp [decode32, decodeScalar, decodeMajor19, e1, fld_eq (lo := 8) (n := 14) e2, fld_eq (lo := 22) (n := 5) e3, fld_eq (lo := 27) (n := 5) e4]⟩
theorem RoundTrip.bpAny (p : BitVec 5) (o : BitVec 17) : RoundTrip.Statement (.bpAny p o) := by
  refine roundTrip_of32 _ (fun w hw => ?_)
  change 53 + p.toNat * 134217728 + o.toNat * 256 = w at hw
  obtain ⟨lt, e0, e1, e2, e3, e4⟩ := layout11 (w := w) (by decide : 1 < 2) (by decide : 26 < 128) o.isLt (by decide : 0 < 4) p.isLt (by omega)
  clear hw
  exact ⟨by simpa using e0, lt, by simp [decode32, decodeScalar, decodeMajor1a, e1, e3, fld_eq (lo := 8) (n := 17) e2, fld_eq (lo := 27) (n := 5) e4]⟩
theorem RoundTrip.bpNone (p : BitVec 5) (o : BitVec 17) : RoundTrip.Statement (.bpNone p o) := by
  refine roundTrip_of32 _ (fun w hw => ?_)
  change 33554485 + p.toNat * 134217728 + o.toNat * 256 = w at hw
  obtain ⟨lt, e0, e1, e2, e3, e4⟩ := layout11 (w := w) (by decide : 1 < 2) (by decide : 26 < 128) o.isLt (by decide : 1 < 4) p.isLt (by omega)
  clear hw
  exact ⟨by simpa using e0, lt, by simp [decode32, decodeScalar, decodeMajor1a, e1, e3, fld_eq (lo := 8) (n := 17) e2, fld_eq (lo := 27) (n := 5) e4]⟩
theorem RoundTrip.bpAll (p : BitVec 5) (o : BitVec 17) : RoundTrip.Statement (.bpAll p o) := by
  refine roundTrip_of32 _ (fun w hw => ?_)
  change 67108917 + p.toNat * 134217728 + o.toNat * 256 = w at hw
  obtain ⟨lt, e0, e1, e2, e3, e4⟩ := layout11 (w := w) (by decide : 1 < 2) (by decide : 26 < 128) o.isLt (by decide : 2 < 4) p.isLt (by omega)
  clear hw
  exact ⟨by simpa using e0, lt, by simp [decode32, decodeScalar, decodeMajor1a, e1, e3, fld_eq (lo := 8) (n := 17) e2, fld_eq (lo := 27) (n := 5) e4]⟩
theorem RoundTrip.bpNall (p : BitVec 5) (o : BitVec 17) : RoundTrip.Statement (.bpNall p o) := by
  refine roundTrip_of32 _ (fun w hw => ?_)
  change 100663349 + p.toNat * 134217728 + o.toNat * 256 = w at hw
  obtain ⟨lt, e0, e1, e2, e3, e4⟩ := layout11 (w := w) (by decide : 1 < 2) (by decide : 26 < 128) o.isLt (by decide : 3 < 4) p.isLt (by omega)
  clear hw
  exact ⟨by simpa using e0, lt, by simp [decode32, decodeScalar, decodeMajor1a, e1, e3, fld_eq (lo := 8) (n := 17) e2, fld_eq (lo := 27) (n := 5) e4]⟩
theorem RoundTrip.nop : RoundTrip.Statement (.nop) := by
  refine roundTrip_of32 _ (fun w hw => ?_)
  change 55 = w at hw
  obtain ⟨lt, e0, e1, e2⟩ := layout10 (w := w) (by decide : 1 < 2) (by decide : 27 < 128) (by decide : 0 < 16777216) (by omega)
  clear hw
  exact ⟨by simpa using e0, lt, by simp [decode32, decodeScalar, decodeMajor1b, e1, e2]⟩
theorem RoundTrip.trap (a : BitVec 5) : RoundTrip.Statement (.trap a) := by
  refine roundTrip_of32 _ (fun w hw => ?_)
  change 311 + a.toNat * 4194304 = w at hw
  obtain ⟨lt, e0, e1, e2, e3, e4⟩ := layout1 (w := w) (by decide : 1 < 2) (by decide : 27 < 128) (by decide : 1 < 16384) a.isLt (by decide : 0 < 32) (by omega)
  have k0 : w / 256 % 16777216 ≠ 0 := by clear lt e0 e1 e2 e3 e4; omega
  clear hw
  exact ⟨by simpa using e0, lt, by simp [decode32, decodeScalar, decodeMajor1b, e1, e2, e4, k0, fld_eq (lo := 22) (n := 5) e3]⟩
theorem RoundTrip.eret : RoundTrip.Statement (.eret) := by
  refine roundTrip_of32 _ (fun w hw => ?_)
  change 567 = w at hw
  obtain ⟨lt, e0, e1, e2⟩ := layout10 (w := w) (by decide : 1 < 2) (by decide : 27 < 128) (by decide : 2 < 16777216) (by omega)
  have k0 : w / 256 % 16384 = 2 := by clear lt e0 e1 e2; omega
  have k1 : w / 134217728 % 32 = 0 := by clear lt e0 e1 e2; omega
  clear hw
  exact ⟨by simpa using e0, lt, by simp [decode32, decodeScalar, decodeMajor1b, e1, e2, k0, k1]⟩
theorem RoundTrip.fenceI : RoundTrip.Statement (.fenceI) := by
  refine roundTrip_of32 _ (fun w hw => ?_)
  change 823 = w at hw
  obtain ⟨lt, e0, e1, e2⟩ := layout10 (w := w) (by decide : 1 < 2) (by decide : 27 < 128) (by decide : 3 < 16777216) (by omega)
  have k0 : w / 256 % 16384 = 3 := by clear lt e0 e1 e2; omega
  have k1 : w / 134217728 % 32 = 0 := by clear lt e0 e1 e2; omega
  clear hw
  exact ⟨by simpa using e0, lt, by simp [decode32, decodeScalar, decodeMajor1b, e1, e2, k0, k1]⟩
theorem RoundTrip.seal (d : BitVec 5) (a : BitVec 5) : RoundTrip.Statement (.seal d a) := by
  refine roundTrip_of32 _ (fun w hw => ?_)
  change 1079 + d.toNat * 134217728 + a.toNat * 4194304 = w at hw
  obtain ⟨lt, e0, e1, e2, e3, e4⟩ := layout1 (w := w) (by decide : 1 < 2) (by decide : 27 < 128) (by decide : 4 < 16384) a.isLt d.isLt (by omega)
  have k0 : w / 256 % 16777216 ≠ 0 := by clear lt e0 e1 e2 e3 e4; omega
  have k1 : w / 256 % 16777216 ≠ 2 := by clear lt e0 e1 e2 e3 e4; omega
  have k2 : w / 256 % 16777216 ≠ 3 := by clear lt e0 e1 e2 e3 e4; omega
  clear hw
  exact ⟨by simpa using e0, lt, by simp [decode32, decodeScalar, decodeMajor1b, e1, e2, k0, k1, k2, fld_eq (lo := 22) (n := 5) e3, fld_eq (lo := 27) (n := 5) e4]⟩
theorem RoundTrip.unseal (d : BitVec 5) (a : BitVec 5) : RoundTrip.Statement (.unseal d a) := by
  refine roundTrip_of32 _ (fun w hw => ?_)
  change 1335 + d.toNat * 134217728 + a.toNat * 4194304 = w at hw
  obtain ⟨lt, e0, e1, e2, e3, e4⟩ := layout1 (w := w) (by decide : 1 < 2) (by decide : 27 < 128) (by decide : 5 < 16384) a.isLt d.isLt (by omega)
  have k0 : w / 256 % 16777216 ≠ 0 := by clear lt e0 e1 e2 e3 e4; omega
  have k1 : w / 256 % 16777216 ≠ 2 := by clear lt e0 e1 e2 e3 e4; omega
  have k2 : w / 256 % 16777216 ≠ 3 := by clear lt e0 e1 e2 e3 e4; omega
  clear hw
  exact ⟨by simpa using e0, lt, by simp [decode32, decodeScalar, decodeMajor1b, e1, e2, k0, k1, k2, fld_eq (lo := 22) (n := 5) e3, fld_eq (lo := 27) (n := 5) e4]⟩
theorem RoundTrip.trestart (d : BitVec 5) (a : BitVec 5) (b : BitVec 5) : RoundTrip.Statement (.trestart d a b) := by
  refine roundTrip_of32 _ (fun w hw => ?_)
  change 1591 + d.toNat * 134217728 + a.toNat * 4194304 + b.toNat * 131072 = w at hw
  obtain ⟨lt, e0, e1, e2, e3, e4, e5⟩ := layout0 (w := w) (by decide : 1 < 2) (by decide : 27 < 128) (by decide : 6 < 512) b.isLt a.isLt d.isLt (by omega)
  have k0 : w / 256 % 16777216 ≠ 0 := by clear lt e0 e1 e2 e3 e4 e5; omega
  have k1 : w / 256 % 16384 ≠ 1 := by clear lt e0 e1 e2 e3 e4 e5; omega
  have k2 : w / 256 % 16777216 ≠ 2 := by clear lt e0 e1 e2 e3 e4 e5; omega
  have k3 : w / 256 % 16777216 ≠ 3 := by clear lt e0 e1 e2 e3 e4 e5; omega
  have k4 : w / 256 % 16384 ≠ 4 := by clear lt e0 e1 e2 e3 e4 e5; omega
  have k5 : w / 256 % 16384 ≠ 5 := by clear lt e0 e1 e2 e3 e4 e5; omega
  clear hw
  exact ⟨by simpa using e0, lt, by simp [decode32, decodeScalar, decodeMajor1b, e1, e2, k0, k1, k2, k3, k4, k5, fld_eq (lo := 17) (n := 5) e3, fld_eq (lo := 22) (n := 5) e4, fld_eq (lo := 27) (n := 5) e5]⟩
theorem RoundTrip.dbgfreeze : RoundTrip.Statement (.dbgfreeze) := by
  refine roundTrip_of32 _ (fun w hw => ?_)
  change 1847 = w at hw
  obtain ⟨lt, e0, e1, e2⟩ := layout10 (w := w) (by decide : 1 < 2) (by decide : 27 < 128) (by decide : 7 < 16777216) (by omega)
  have k0 : w / 256 % 512 = 7 := by clear lt e0 e1 e2; omega
  have k1 : w / 256 % 16384 = 7 := by clear lt e0 e1 e2; omega
  have k2 : w / 134217728 % 32 = 0 := by clear lt e0 e1 e2; omega
  clear hw
  exact ⟨by simpa using e0, lt, by simp [decode32, decodeScalar, decodeMajor1b, e1, e2, k0, k1, k2]⟩
theorem RoundTrip.cMov (a : BitVec 5) (b : BitVec 5) : RoundTrip.Statement (.cMov a b) := by
  refine roundTrip_of16 _ (fun w hw => ?_)
  change 2 + a.toNat * 2048 + b.toNat * 64 = w at hw
  obtain ⟨lt, e0, e1, e2, e3⟩ := layout12 (w := w) (by decide : 0 < 2) (by decide : 1 < 32) b.isLt a.isLt (by omega)
  clear hw
  exact ⟨by simpa using e0, lt, by simp [decode16, e1, fld_eq (lo := 6) (n := 5) e2, fld_eq (lo := 11) (n := 5) e3]⟩
theorem RoundTrip.cAdd (a : BitVec 5) (b : BitVec 5) : RoundTrip.Statement (.cAdd a b) := by
  refine roundTrip_of16 _ (fun w hw => ?_)
  change 4 + a.toNat * 2048 + b.toNat * 64 = w at hw
  obtain ⟨lt, e0, e1, e2, e3⟩ := layout12 (w := w) (by decide : 0 < 2) (by decide : 2 < 32) b.isLt a.isLt (by omega)
  clear hw
  exact ⟨by simpa using e0, lt, by simp [decode16, e1, fld_eq (lo := 6) (n := 5) e2, fld_eq (lo := 11) (n := 5) e3]⟩
theorem RoundTrip.cSub (a : BitVec 5) (b : BitVec 5) : RoundTrip.Statement (.cSub a b) := by
  refine roundTrip_of16 _ (fun w hw => ?_)
  change 6 + a.toNat * 2048 + b.toNat * 64 = w at hw
  obtain ⟨lt, e0, e1, e2, e3⟩ := layout12 (w := w) (by decide : 0 < 2) (by decide : 3 < 32) b.isLt a.isLt (by omega)
  clear hw
  exact ⟨by simpa using e0, lt, by simp [decode16, e1, fld_eq (lo := 6) (n := 5) e2, fld_eq (lo := 11) (n := 5) e3]⟩
theorem RoundTrip.cAnd (a : BitVec 5) (b : BitVec 5) : RoundTrip.Statement (.cAnd a b) := by
  refine roundTrip_of16 _ (fun w hw => ?_)
  change 8 + a.toNat * 2048 + b.toNat * 64 = w at hw
  obtain ⟨lt, e0, e1, e2, e3⟩ := layout12 (w := w) (by decide : 0 < 2) (by decide : 4 < 32) b.isLt a.isLt (by omega)
  clear hw
  exact ⟨by simpa using e0, lt, by simp [decode16, e1, fld_eq (lo := 6) (n := 5) e2, fld_eq (lo := 11) (n := 5) e3]⟩
theorem RoundTrip.cAddi (a : BitVec 5) (i : BitVec 5) : RoundTrip.Statement (.cAddi a i) := by
  refine roundTrip_of16 _ (fun w hw => ?_)
  change 10 + a.toNat * 2048 + i.toNat * 64 = w at hw
  obtain ⟨lt, e0, e1, e2, e3⟩ := layout12 (w := w) (by decide : 0 < 2) (by decide : 5 < 32) i.isLt a.isLt (by omega)
  clear hw
  exact ⟨by simpa using e0, lt, by simp [decode16, e1, fld_eq (lo := 6) (n := 5) e2, fld_eq (lo := 11) (n := 5) e3]⟩
theorem RoundTrip.cLi (a : BitVec 5) (i : BitVec 5) : RoundTrip.Statement (.cLi a i) := by
  refine roundTrip_of16 _ (fun w hw => ?_)
  change 12 + a.toNat * 2048 + i.toNat * 64 = w at hw
  obtain ⟨lt, e0, e1, e2, e3⟩ := layout12 (w := w) (by decide : 0 < 2) (by decide : 6 < 32) i.isLt a.isLt (by omega)
  clear hw
  exact ⟨by simpa using e0, lt, by simp [decode16, e1, fld_eq (lo := 6) (n := 5) e2, fld_eq (lo := 11) (n := 5) e3]⟩
theorem RoundTrip.cShli (a : BitVec 5) (i : BitVec 5) : RoundTrip.Statement (.cShli a i) := by
  refine roundTrip_of16 _ (fun w hw => ?_)
  change 14 + a.toNat * 2048 + i.toNat * 64 = w at hw
  obtain ⟨lt, e0, e1, e2, e3⟩ := layout12 (w := w) (by decide : 0 < 2) (by decide : 7 < 32) i.isLt a.isLt (by omega)
  clear hw
  exact ⟨by simpa using e0, lt, by simp [decode16, e1, fld_eq (lo := 6) (n := 5) e2, fld_eq (lo := 11) (n := 5) e3]⟩
theorem RoundTrip.cLd (a : BitVec 5) (b : BitVec 5) : RoundTrip.Statement (.cLd a b) := by
  refine roundTrip_of16 _ (fun w hw => ?_)
  change 16 + a.toNat * 2048 + b.toNat * 64 = w at hw
  obtain ⟨lt, e0, e1, e2, e3⟩ := layout12 (w := w) (by decide : 0 < 2) (by decide : 8 < 32) b.isLt a.isLt (by omega)
  clear hw
  exact ⟨by simpa using e0, lt, by simp [decode16, e1, fld_eq (lo := 6) (n := 5) e2, fld_eq (lo := 11) (n := 5) e3]⟩
theorem RoundTrip.cSt (a : BitVec 5) (b : BitVec 5) : RoundTrip.Statement (.cSt a b) := by
  refine roundTrip_of16 _ (fun w hw => ?_)
  change 18 + a.toNat * 2048 + b.toNat * 64 = w at hw
  obtain ⟨lt, e0, e1, e2, e3⟩ := layout12 (w := w) (by decide : 0 < 2) (by decide : 9 < 32) b.isLt a.isLt (by omega)
  clear hw
  exact ⟨by simpa using e0, lt, by simp [decode16, e1, fld_eq (lo := 6) (n := 5) e2, fld_eq (lo := 11) (n := 5) e3]⟩
theorem RoundTrip.cB (o : BitVec 10) : RoundTrip.Statement (.cB o) := by
  refine roundTrip_of16 _ (fun w hw => ?_)
  change 20 + o.toNat * 64 = w at hw
  obtain ⟨lt, e0, e1, e2⟩ := layout13 (w := w) (by decide : 0 < 2) (by decide : 10 < 32) o.isLt (by omega)
  clear hw
  exact ⟨by simpa using e0, lt, by simp [decode16, e1, fld_eq (lo := 6) (n := 10) e2]⟩
theorem RoundTrip.cBeqz (a : BitVec 5) (i : BitVec 5) : RoundTrip.Statement (.cBeqz a i) := by
  refine roundTrip_of16 _ (fun w hw => ?_)
  change 22 + a.toNat * 2048 + i.toNat * 64 = w at hw
  obtain ⟨lt, e0, e1, e2, e3⟩ := layout12 (w := w) (by decide : 0 < 2) (by decide : 11 < 32) i.isLt a.isLt (by omega)
  clear hw
  exact ⟨by simpa using e0, lt, by simp [decode16, e1, fld_eq (lo := 6) (n := 5) e2, fld_eq (lo := 11) (n := 5) e3]⟩
theorem RoundTrip.cBnez (a : BitVec 5) (i : BitVec 5) : RoundTrip.Statement (.cBnez a i) := by
  refine roundTrip_of16 _ (fun w hw => ?_)
  change 24 + a.toNat * 2048 + i.toNat * 64 = w at hw
  obtain ⟨lt, e0, e1, e2, e3⟩ := layout12 (w := w) (by decide : 0 < 2) (by decide : 12 < 32) i.isLt a.isLt (by omega)
  clear hw
  exact ⟨by simpa using e0, lt, by simp [decode16, e1, fld_eq (lo := 6) (n := 5) e2, fld_eq (lo := 11) (n := 5) e3]⟩
theorem RoundTrip.cRet : RoundTrip.Statement (.cRet) := by
  refine roundTrip_of16 _ (fun w hw => ?_)
  change 26 = w at hw
  obtain ⟨lt, e0, e1, e2⟩ := layout13 (w := w) (by decide : 0 < 2) (by decide : 13 < 32) (by decide : 0 < 1024) (by omega)
  clear hw
  exact ⟨by simpa using e0, lt, by simp [decode16, e1, e2]⟩
theorem RoundTrip.cAwait (a : BitVec 5) (i : BitVec 4) : RoundTrip.Statement (.cAwait a i) := by
  refine roundTrip_of16 _ (fun w hw => ?_)
  change 28 + a.toNat * 2048 + i.toNat * 64 = w at hw
  obtain ⟨lt, e0, e1, e2, e3, e4⟩ := layout14 (w := w) (by decide : 0 < 2) (by decide : 14 < 32) i.isLt (by decide : 0 < 2) a.isLt (by omega)
  clear hw
  exact ⟨by simpa using e0, lt, by simp [decode16, e1, e3, fld_eq (lo := 6) (n := 4) e2, fld_eq (lo := 11) (n := 5) e4]⟩
theorem RoundTrip.cNop : RoundTrip.Statement (.cNop) := by
  refine roundTrip_of16 _ (fun w hw => ?_)
  change 30 = w at hw
  obtain ⟨lt, e0, e1, e2⟩ := layout13 (w := w) (by decide : 0 < 2) (by decide : 15 < 32) (by decide : 0 < 1024) (by omega)
  clear hw
  exact ⟨by simpa using e0, lt, by simp [decode16, e1, e2]⟩
theorem RoundTrip.cOr (a : BitVec 5) (b : BitVec 5) : RoundTrip.Statement (.cOr a b) := by
  refine roundTrip_of16 _ (fun w hw => ?_)
  change 32 + a.toNat * 2048 + b.toNat * 64 = w at hw
  obtain ⟨lt, e0, e1, e2, e3⟩ := layout12 (w := w) (by decide : 0 < 2) (by decide : 16 < 32) b.isLt a.isLt (by omega)
  clear hw
  exact ⟨by simpa using e0, lt, by simp [decode16, e1, fld_eq (lo := 6) (n := 5) e2, fld_eq (lo := 11) (n := 5) e3]⟩
theorem RoundTrip.cXor (a : BitVec 5) (b : BitVec 5) : RoundTrip.Statement (.cXor a b) := by
  refine roundTrip_of16 _ (fun w hw => ?_)
  change 34 + a.toNat * 2048 + b.toNat * 64 = w at hw
  obtain ⟨lt, e0, e1, e2, e3⟩ := layout12 (w := w) (by decide : 0 < 2) (by decide : 17 < 32) b.isLt a.isLt (by omega)
  clear hw
  exact ⟨by simpa using e0, lt, by simp [decode16, e1, fld_eq (lo := 6) (n := 5) e2, fld_eq (lo := 11) (n := 5) e3]⟩
theorem RoundTrip.cShri (a : BitVec 5) (i : BitVec 5) : RoundTrip.Statement (.cShri a i) := by
  refine roundTrip_of16 _ (fun w hw => ?_)
  change 36 + a.toNat * 2048 + i.toNat * 64 = w at hw
  obtain ⟨lt, e0, e1, e2, e3⟩ := layout12 (w := w) (by decide : 0 < 2) (by decide : 18 < 32) i.isLt a.isLt (by omega)
  clear hw
  exact ⟨by simpa using e0, lt, by simp [decode16, e1, fld_eq (lo := 6) (n := 5) e2, fld_eq (lo := 11) (n := 5) e3]⟩
theorem RoundTrip.cSari (a : BitVec 5) (i : BitVec 5) : RoundTrip.Statement (.cSari a i) := by
  refine roundTrip_of16 _ (fun w hw => ?_)
  change 38 + a.toNat * 2048 + i.toNat * 64 = w at hw
  obtain ⟨lt, e0, e1, e2, e3⟩ := layout12 (w := w) (by decide : 0 < 2) (by decide : 19 < 32) i.isLt a.isLt (by omega)
  clear hw
  exact ⟨by simpa using e0, lt, by simp [decode16, e1, fld_eq (lo := 6) (n := 5) e2, fld_eq (lo := 11) (n := 5) e3]⟩
theorem RoundTrip.cLdw (a : BitVec 5) (b : BitVec 5) : RoundTrip.Statement (.cLdw a b) := by
  refine roundTrip_of16 _ (fun w hw => ?_)
  change 40 + a.toNat * 2048 + b.toNat * 64 = w at hw
  obtain ⟨lt, e0, e1, e2, e3⟩ := layout12 (w := w) (by decide : 0 < 2) (by decide : 20 < 32) b.isLt a.isLt (by omega)
  clear hw
  exact ⟨by simpa using e0, lt, by simp [decode16, e1, fld_eq (lo := 6) (n := 5) e2, fld_eq (lo := 11) (n := 5) e3]⟩
theorem RoundTrip.cStw (a : BitVec 5) (b : BitVec 5) : RoundTrip.Statement (.cStw a b) := by
  refine roundTrip_of16 _ (fun w hw => ?_)
  change 42 + a.toNat * 2048 + b.toNat * 64 = w at hw
  obtain ⟨lt, e0, e1, e2, e3⟩ := layout12 (w := w) (by decide : 0 < 2) (by decide : 21 < 32) b.isLt a.isLt (by omega)
  clear hw
  exact ⟨by simpa using e0, lt, by simp [decode16, e1, fld_eq (lo := 6) (n := 5) e2, fld_eq (lo := 11) (n := 5) e3]⟩
theorem RoundTrip.cSlt (a : BitVec 5) (b : BitVec 5) : RoundTrip.Statement (.cSlt a b) := by
  refine roundTrip_of16 _ (fun w hw => ?_)
  change 44 + a.toNat * 2048 + b.toNat * 64 = w at hw
  obtain ⟨lt, e0, e1, e2, e3⟩ := layout12 (w := w) (by decide : 0 < 2) (by decide : 22 < 32) b.isLt a.isLt (by omega)
  clear hw
  exact ⟨by simpa using e0, lt, by simp [decode16, e1, fld_eq (lo := 6) (n := 5) e2, fld_eq (lo := 11) (n := 5) e3]⟩
theorem RoundTrip.cShl (a : BitVec 5) (b : BitVec 5) : RoundTrip.Statement (.cShl a b) := by
  refine roundTrip_of16 _ (fun w hw => ?_)
  change 46 + a.toNat * 2048 + b.toNat * 64 = w at hw
  obtain ⟨lt, e0, e1, e2, e3⟩ := layout12 (w := w) (by decide : 0 < 2) (by decide : 23 < 32) b.isLt a.isLt (by omega)
  clear hw
  exact ⟨by simpa using e0, lt, by simp [decode16, e1, fld_eq (lo := 6) (n := 5) e2, fld_eq (lo := 11) (n := 5) e3]⟩
theorem RoundTrip.cShr (a : BitVec 5) (b : BitVec 5) : RoundTrip.Statement (.cShr a b) := by
  refine roundTrip_of16 _ (fun w hw => ?_)
  change 48 + a.toNat * 2048 + b.toNat * 64 = w at hw
  obtain ⟨lt, e0, e1, e2, e3⟩ := layout12 (w := w) (by decide : 0 < 2) (by decide : 24 < 32) b.isLt a.isLt (by omega)
  clear hw
  exact ⟨by simpa using e0, lt, by simp [decode16, e1, fld_eq (lo := 6) (n := 5) e2, fld_eq (lo := 11) (n := 5) e3]⟩
theorem RoundTrip.cNeg (a : BitVec 5) (b : BitVec 5) : RoundTrip.Statement (.cNeg a b) := by
  refine roundTrip_of16 _ (fun w hw => ?_)
  change 50 + a.toNat * 2048 + b.toNat * 64 = w at hw
  obtain ⟨lt, e0, e1, e2, e3⟩ := layout12 (w := w) (by decide : 0 < 2) (by decide : 25 < 32) b.isLt a.isLt (by omega)
  clear hw
  exact ⟨by simpa using e0, lt, by simp [decode16, e1, fld_eq (lo := 6) (n := 5) e2, fld_eq (lo := 11) (n := 5) e3]⟩
theorem RoundTrip.cSeq (a : BitVec 5) (b : BitVec 5) : RoundTrip.Statement (.cSeq a b) := by
  refine roundTrip_of16 _ (fun w hw => ?_)
  change 52 + a.toNat * 2048 + b.toNat * 64 = w at hw
  obtain ⟨lt, e0, e1, e2, e3⟩ := layout12 (w := w) (by decide : 0 < 2) (by decide : 26 < 32) b.isLt a.isLt (by omega)
  clear hw
  exact ⟨by simpa using e0, lt, by simp [decode16, e1, fld_eq (lo := 6) (n := 5) e2, fld_eq (lo := 11) (n := 5) e3]⟩
theorem RoundTrip.cMul (a : BitVec 5) (b : BitVec 5) : RoundTrip.Statement (.cMul a b) := by
  refine roundTrip_of16 _ (fun w hw => ?_)
  change 54 + a.toNat * 2048 + b.toNat * 64 = w at hw
  obtain ⟨lt, e0, e1, e2, e3⟩ := layout12 (w := w) (by decide : 0 < 2) (by decide : 27 < 32) b.isLt a.isLt (by omega)
  clear hw
  exact ⟨by simpa using e0, lt, by simp [decode16, e1, fld_eq (lo := 6) (n := 5) e2, fld_eq (lo := 11) (n := 5) e3]⟩
theorem RoundTrip.cYield : RoundTrip.Statement (.cYield) := by
  refine roundTrip_of16 _ (fun w hw => ?_)
  change 56 = w at hw
  obtain ⟨lt, e0, e1, e2⟩ := layout13 (w := w) (by decide : 0 < 2) (by decide : 28 < 32) (by decide : 0 < 1024) (by omega)
  clear hw
  exact ⟨by simpa using e0, lt, by simp [decode16, e1, e2]⟩
theorem RoundTrip.cTend : RoundTrip.Statement (.cTend) := by
  refine roundTrip_of16 _ (fun w hw => ?_)
  change 58 = w at hw
  obtain ⟨lt, e0, e1, e2⟩ := layout13 (w := w) (by decide : 0 < 2) (by decide : 29 < 32) (by decide : 0 < 1024) (by omega)
  clear hw
  exact ⟨by simpa using e0, lt, by simp [decode16, e1, e2]⟩
theorem RoundTrip.cMin (a : BitVec 5) (b : BitVec 5) : RoundTrip.Statement (.cMin a b) := by
  refine roundTrip_of16 _ (fun w hw => ?_)
  change 60 + a.toNat * 2048 + b.toNat * 64 = w at hw
  obtain ⟨lt, e0, e1, e2, e3⟩ := layout12 (w := w) (by decide : 0 < 2) (by decide : 30 < 32) b.isLt a.isLt (by omega)
  clear hw
  exact ⟨by simpa using e0, lt, by simp [decode16, e1, fld_eq (lo := 6) (n := 5) e2, fld_eq (lo := 11) (n := 5) e3]⟩
theorem RoundTrip.cMax (a : BitVec 5) (b : BitVec 5) : RoundTrip.Statement (.cMax a b) := by
  refine roundTrip_of16 _ (fun w hw => ?_)
  change 62 + a.toNat * 2048 + b.toNat * 64 = w at hw
  obtain ⟨lt, e0, e1, e2, e3⟩ := layout12 (w := w) (by decide : 0 < 2) (by decide : 31 < 32) b.isLt a.isLt (by omega)
  clear hw
  exact ⟨by simpa using e0, lt, by simp [decode16, e1, fld_eq (lo := 6) (n := 5) e2, fld_eq (lo := 11) (n := 5) e3]⟩
theorem RoundTrip.vset (d : BitVec 5) (a : BitVec 5) (f : BitVec 4) (g : BitVec 2) (s : BitVec 3) : RoundTrip.Statement (.vset d a f g s) := by
  refine roundTrip_of32 _ (fun w hw => ?_)
  change 65 + d.toNat * 134217728 + a.toNat * 4194304 + f.toNat * 8192 + g.toNat * 2048 + s.toNat * 256 = w at hw
  obtain ⟨lt, e0, e1, e2, e3, e4, e5, e6, e7⟩ := layout15 (w := w) (by decide : 1 < 2) (by decide : 32 < 128) s.isLt g.isLt f.isLt (by decide : 0 < 32) a.isLt d.isLt (by omega)
  clear hw
  exact ⟨by simpa using e0, lt, by simp [decode32, decodeVectorLow, decodeMajor20, e1, e5, fld_eq (lo := 8) (n := 3) e2, fld_eq (lo := 11) (n := 2) e3, fld_eq (lo := 13) (n := 4) e4, fld_eq (lo := 22) (n := 5) e6, fld_eq (lo := 27) (n := 5) e7]⟩
theorem RoundTrip.vsetKeep (d : BitVec 5) (f : BitVec 4) (g : BitVec 2) (s : BitVec 3) : RoundTrip.Statement (.vsetKeep d f g s) := by
  refine roundTrip_of32 _ (fun w hw => ?_)
  change 131137 + d.toNat * 134217728 + f.toNat * 8192 + g.toNat * 2048 + s.toNat * 256 = w at hw
  obtain ⟨lt, e0, e1, e2, e3, e4, e5, e6⟩ := layout16 (w := w) (by decide : 1 < 2) (by decide : 32 < 128) s.isLt g.isLt f.isLt (by decide : 1 < 1024) d.isLt (by omega)
  have k0 : w / 131072 % 32 = 1 := by clear lt e0 e1 e2 e3 e4 e5 e6; omega
  clear hw
  exact ⟨by simpa using e0, lt, by simp [decode32, decodeVectorLow, decodeMajor20, e1, e5, k0, fld_eq (lo := 8) (n := 3) e2, fld_eq (lo := 11) (n := 2) e3, fld_eq (lo := 13) (n := 4) e4, fld_eq (lo := 27) (n := 5) e6]⟩
theorem RoundTrip.vadd (d : BitVec 6) (a : BitVec 6) (b : BitVec 6) (n : BitVec 1) (p : BitVec 5) : RoundTrip.Statement (.vadd d a b n p) := by
  refine roundTrip_of32 _ (fun w hw => ?_)
  change 67 + d.toNat * 67108864 + a.toNat * 1048576 + b.toNat * 16384 + n.toNat * 8192 + p.toNat * 256 = w at hw
  obtain ⟨lt, e0, e1, e2, e3, e4, e5, e6⟩ := layout17 (w := w) (by decide : 1 < 2) (by decide : 33 < 128) p.isLt n.isLt b.isLt a.isLt d.isLt (by omega)
  clear hw
  exact ⟨by simpa using e0, lt, by simp [decode32, decodeVectorLow, decodeMajor21, e1, fld_eq (lo := 8) (n := 5) e2, fld_eq (lo := 13) (n := 1) e3, fld_eq (lo := 14) (n := 6) e4, fld_eq (lo := 20) (n := 6) e5, fld_eq (lo := 26) (n := 6) e6]⟩
theorem RoundTrip.vsub (d : BitVec 6) (a : BitVec 6) (b : BitVec 6) (n : BitVec 1) (p : BitVec 5) : RoundTrip.Statement (.vsub d a b n p) := by
  refine roundTrip_of32 _ (fun w hw => ?_)
  change 69 + d.toNat * 67108864 + a.toNat * 1048576 + b.toNat * 16384 + n.toNat * 8192 + p.toNat * 256 = w at hw
  obtain ⟨lt, e0, e1, e2, e3, e4, e5, e6⟩ := layout17 (w := w) (by decide : 1 < 2) (by decide : 34 < 128) p.isLt n.isLt b.isLt a.isLt d.isLt (by omega)
  clear hw
  exact ⟨by simpa using e0, lt, by simp [decode32, decodeVectorLow, decodeMajor22, e1, fld_eq (lo := 8) (n := 5) e2, fld_eq (lo := 13) (n := 1) e3, fld_eq (lo := 14) (n := 6) e4, fld_eq (lo := 20) (n := 6) e5, fld_eq (lo := 26) (n := 6) e6]⟩
theorem RoundTrip.vmul (d : BitVec 6) (a : BitVec 6) (b : BitVec 6) (n : BitVec 1) (p : BitVec 5) : RoundTrip.Statement (.vmul d a b n p) := by
  refine roundTrip_of32 _ (fun w hw => ?_)
  change 71 + d.toNat * 67108864 + a.toNat * 1048576 + b.toNat * 16384 + n.toNat * 8192 + p.toNat * 256 = w at hw
  obtain ⟨lt, e0, e1, e2, e3, e4, e5, e6⟩ := layout17 (w := w) (by decide : 1 < 2) (by decide : 35 < 128) p.isLt n.isLt b.isLt a.isLt d.isLt (by omega)
  clear hw
  exact ⟨by simpa using e0, lt, by simp [decode32, decodeVectorLow, decodeMajor23, e1, fld_eq (lo := 8) (n := 5) e2, fld_eq (lo := 13) (n := 1) e3, fld_eq (lo := 14) (n := 6) e4, fld_eq (lo := 20) (n := 6) e5, fld_eq (lo := 26) (n := 6) e6]⟩
theorem RoundTrip.vmulh (d : BitVec 6) (a : BitVec 6) (b : BitVec 6) (n : BitVec 1) (p : BitVec 5) : RoundTrip.Statement (.vmulh d a b n p) := by
  refine roundTrip_of32 _ (fun w hw => ?_)
  change 73 + d.toNat * 67108864 + a.toNat * 1048576 + b.toNat * 16384 + n.toNat * 8192 + p.toNat * 256 = w at hw
  obtain ⟨lt, e0, e1, e2, e3, e4, e5, e6⟩ := layout17 (w := w) (by decide : 1 < 2) (by decide : 36 < 128) p.isLt n.isLt b.isLt a.isLt d.isLt (by omega)
  clear hw
  exact ⟨by simpa using e0, lt, by simp [decode32, decodeVectorLow, decodeMajor24, e1, fld_eq (lo := 8) (n := 5) e2, fld_eq (lo := 13) (n := 1) e3, fld_eq (lo := 14) (n := 6) e4, fld_eq (lo := 20) (n := 6) e5, fld_eq (lo := 26) (n := 6) e6]⟩
theorem RoundTrip.vmacc (d : BitVec 6) (a : BitVec 6) (b : BitVec 6) (n : BitVec 1) (p : BitVec 5) : RoundTrip.Statement (.vmacc d a b n p) := by
  refine roundTrip_of32 _ (fun w hw => ?_)
  change 75 + d.toNat * 67108864 + a.toNat * 1048576 + b.toNat * 16384 + n.toNat * 8192 + p.toNat * 256 = w at hw
  obtain ⟨lt, e0, e1, e2, e3, e4, e5, e6⟩ := layout17 (w := w) (by decide : 1 < 2) (by decide : 37 < 128) p.isLt n.isLt b.isLt a.isLt d.isLt (by omega)
  clear hw
  exact ⟨by simpa using e0, lt, by simp [decode32, decodeVectorLow, decodeMajor25, e1, fld_eq (lo := 8) (n := 5) e2, fld_eq (lo := 13) (n := 1) e3, fld_eq (lo := 14) (n := 6) e4, fld_eq (lo := 20) (n := 6) e5, fld_eq (lo := 26) (n := 6) e6]⟩
theorem RoundTrip.vmin (d : BitVec 6) (a : BitVec 6) (b : BitVec 6) (n : BitVec 1) (p : BitVec 5) : RoundTrip.Statement (.vmin d a b n p) := by
  refine roundTrip_of32 _ (fun w hw => ?_)
  change 77 + d.toNat * 67108864 + a.toNat * 1048576 + b.toNat * 16384 + n.toNat * 8192 + p.toNat * 256 = w at hw
  obtain ⟨lt, e0, e1, e2, e3, e4, e5, e6⟩ := layout17 (w := w) (by decide : 1 < 2) (by decide : 38 < 128) p.isLt n.isLt b.isLt a.isLt d.isLt (by omega)
  clear hw
  exact ⟨by simpa using e0, lt, by simp [decode32, decodeVectorLow, decodeMajor26, e1, fld_eq (lo := 8) (n := 5) e2, fld_eq (lo := 13) (n := 1) e3, fld_eq (lo := 14) (n := 6) e4, fld_eq (lo := 20) (n := 6) e5, fld_eq (lo := 26) (n := 6) e6]⟩
theorem RoundTrip.vmax (d : BitVec 6) (a : BitVec 6) (b : BitVec 6) (n : BitVec 1) (p : BitVec 5) : RoundTrip.Statement (.vmax d a b n p) := by
  refine roundTrip_of32 _ (fun w hw => ?_)
  change 79 + d.toNat * 67108864 + a.toNat * 1048576 + b.toNat * 16384 + n.toNat * 8192 + p.toNat * 256 = w at hw
  obtain ⟨lt, e0, e1, e2, e3, e4, e5, e6⟩ := layout17 (w := w) (by decide : 1 < 2) (by decide : 39 < 128) p.isLt n.isLt b.isLt a.isLt d.isLt (by omega)
  clear hw
  exact ⟨by simpa using e0, lt, by simp [decode32, decodeVectorLow, decodeMajor27, e1, fld_eq (lo := 8) (n := 5) e2, fld_eq (lo := 13) (n := 1) e3, fld_eq (lo := 14) (n := 6) e4, fld_eq (lo := 20) (n := 6) e5, fld_eq (lo := 26) (n := 6) e6]⟩
theorem RoundTrip.vand (d : BitVec 6) (a : BitVec 6) (b : BitVec 6) (n : BitVec 1) (p : BitVec 5) : RoundTrip.Statement (.vand d a b n p) := by
  refine roundTrip_of32 _ (fun w hw => ?_)
  change 81 + d.toNat * 67108864 + a.toNat * 1048576 + b.toNat * 16384 + n.toNat * 8192 + p.toNat * 256 = w at hw
  obtain ⟨lt, e0, e1, e2, e3, e4, e5, e6⟩ := layout17 (w := w) (by decide : 1 < 2) (by decide : 40 < 128) p.isLt n.isLt b.isLt a.isLt d.isLt (by omega)
  clear hw
  exact ⟨by simpa using e0, lt, by simp [decode32, decodeVectorLow, decodeMajor28, e1, fld_eq (lo := 8) (n := 5) e2, fld_eq (lo := 13) (n := 1) e3, fld_eq (lo := 14) (n := 6) e4, fld_eq (lo := 20) (n := 6) e5, fld_eq (lo := 26) (n := 6) e6]⟩
theorem RoundTrip.vor (d : BitVec 6) (a : BitVec 6) (b : BitVec 6) (n : BitVec 1) (p : BitVec 5) : RoundTrip.Statement (.vor d a b n p) := by
  refine roundTrip_of32 _ (fun w hw => ?_)
  change 83 + d.toNat * 67108864 + a.toNat * 1048576 + b.toNat * 16384 + n.toNat * 8192 + p.toNat * 256 = w at hw
  obtain ⟨lt, e0, e1, e2, e3, e4, e5, e6⟩ := layout17 (w := w) (by decide : 1 < 2) (by decide : 41 < 128) p.isLt n.isLt b.isLt a.isLt d.isLt (by omega)
  clear hw
  exact ⟨by simpa using e0, lt, by simp [decode32, decodeVectorLow, decodeMajor29, e1, fld_eq (lo := 8) (n := 5) e2, fld_eq (lo := 13) (n := 1) e3, fld_eq (lo := 14) (n := 6) e4, fld_eq (lo := 20) (n := 6) e5, fld_eq (lo := 26) (n := 6) e6]⟩
theorem RoundTrip.vxor (d : BitVec 6) (a : BitVec 6) (b : BitVec 6) (n : BitVec 1) (p : BitVec 5) : RoundTrip.Statement (.vxor d a b n p) := by
  refine roundTrip_of32 _ (fun w hw => ?_)
  change 85 + d.toNat * 67108864 + a.toNat * 1048576 + b.toNat * 16384 + n.toNat * 8192 + p.toNat * 256 = w at hw
  obtain ⟨lt, e0, e1, e2, e3, e4, e5, e6⟩ := layout17 (w := w) (by decide : 1 < 2) (by decide : 42 < 128) p.isLt n.isLt b.isLt a.isLt d.isLt (by omega)
  clear hw
  exact ⟨by simpa using e0, lt, by simp [decode32, decodeVectorLow, decodeMajor2a, e1, fld_eq (lo := 8) (n := 5) e2, fld_eq (lo := 13) (n := 1) e3, fld_eq (lo := 14) (n := 6) e4, fld_eq (lo := 20) (n := 6) e5, fld_eq (lo := 26) (n := 6) e6]⟩
theorem RoundTrip.vshl (d : BitVec 6) (a : BitVec 6) (b : BitVec 6) (n : BitVec 1) (p : BitVec 5) : RoundTrip.Statement (.vshl d a b n p) := by
  refine roundTrip_of32 _ (fun w hw => ?_)
  change 87 + d.toNat * 67108864 + a.toNat * 1048576 + b.toNat * 16384 + n.toNat * 8192 + p.toNat * 256 = w at hw
  obtain ⟨lt, e0, e1, e2, e3, e4, e5, e6⟩ := layout17 (w := w) (by decide : 1 < 2) (by decide : 43 < 128) p.isLt n.isLt b.isLt a.isLt d.isLt (by omega)
  clear hw
  exact ⟨by simpa using e0, lt, by simp [decode32, decodeVectorLow, decodeMajor2b, e1, fld_eq (lo := 8) (n := 5) e2, fld_eq (lo := 13) (n := 1) e3, fld_eq (lo := 14) (n := 6) e4, fld_eq (lo := 20) (n := 6) e5, fld_eq (lo := 26) (n := 6) e6]⟩
theorem RoundTrip.vshr (d : BitVec 6) (a : BitVec 6) (b : BitVec 6) (n : BitVec 1) (p : BitVec 5) : RoundTrip.Statement (.vshr d a b n p) := by
  refine roundTrip_of32 _ (fun w hw => ?_)
  change 89 + d.toNat * 67108864 + a.toNat * 1048576 + b.toNat * 16384 + n.toNat * 8192 + p.toNat * 256 = w at hw
  obtain ⟨lt, e0, e1, e2, e3, e4, e5, e6⟩ := layout17 (w := w) (by decide : 1 < 2) (by decide : 44 < 128) p.isLt n.isLt b.isLt a.isLt d.isLt (by omega)
  clear hw
  exact ⟨by simpa using e0, lt, by simp [decode32, decodeVectorLow, decodeMajor2c, e1, fld_eq (lo := 8) (n := 5) e2, fld_eq (lo := 13) (n := 1) e3, fld_eq (lo := 14) (n := 6) e4, fld_eq (lo := 20) (n := 6) e5, fld_eq (lo := 26) (n := 6) e6]⟩
theorem RoundTrip.vsar (d : BitVec 6) (a : BitVec 6) (b : BitVec 6) (n : BitVec 1) (p : BitVec 5) : RoundTrip.Statement (.vsar d a b n p) := by
  refine roundTrip_of32 _ (fun w hw => ?_)
  change 91 + d.toNat * 67108864 + a.toNat * 1048576 + b.toNat * 16384 + n.toNat * 8192 + p.toNat * 256 = w at hw
  obtain ⟨lt, e0, e1, e2, e3, e4, e5, e6⟩ := layout17 (w := w) (by decide : 1 < 2) (by decide : 45 < 128) p.isLt n.isLt b.isLt a.isLt d.isLt (by omega)
  clear hw
  exact ⟨by simpa using e0, lt, by simp [decode32, decodeVectorLow, decodeMajor2d, e1, fld_eq (lo := 8) (n := 5) e2, fld_eq (lo := 13) (n := 1) e3, fld_eq (lo := 14) (n := 6) e4, fld_eq (lo := 20) (n := 6) e5, fld_eq (lo := 26) (n := 6) e6]⟩
theorem RoundTrip.vadds (d : BitVec 6) (a : BitVec 6) (b : BitVec 6) (n : BitVec 1) (p : BitVec 5) : RoundTrip.Statement (.vadds d a b n p) := by
  refine roundTrip_of32 _ (fun w hw => ?_)
  change 93 + d.toNat * 67108864 + a.toNat * 1048576 + b.toNat * 16384 + n.toNat * 8192 + p.toNat * 256 = w at hw
  obtain ⟨lt, e0, e1, e2, e3, e4, e5, e6⟩ := layout17 (w := w) (by decide : 1 < 2) (by decide : 46 < 128) p.isLt n.isLt b.isLt a.isLt d.isLt (by omega)
  clear hw
  exact ⟨by simpa using e0, lt, by simp [decode32, decodeVectorLow, decodeMajor2e, e1, fld_eq (lo := 8) (n := 5) e2, fld_eq (lo := 13) (n := 1) e3, fld_eq (lo := 14) (n := 6) e4, fld_eq (lo := 20) (n := 6) e5, fld_eq (lo := 26) (n := 6) e6]⟩
theorem RoundTrip.vsubs (d : BitVec 6) (a : BitVec 6) (b : BitVec 6) (n : BitVec 1) (p : BitVec 5) : RoundTrip.Statement (.vsubs d a b n p) := by
  refine roundTrip_of32 _ (fun w hw => ?_)
  change 95 + d.toNat * 67108864 + a.toNat * 1048576 + b.toNat * 16384 + n.toNat * 8192 + p.toNat * 256 = w at hw
  obtain ⟨lt, e0, e1, e2, e3, e4, e5, e6⟩ := layout17 (w := w) (by decide : 1 < 2) (by decide : 47 < 128) p.isLt n.isLt b.isLt a.isLt d.isLt (by omega)
  clear hw
  exact ⟨by simpa using e0, lt, by simp [decode32, decodeVectorLow, decodeMajor2f, e1, fld_eq (lo := 8) (n := 5) e2, fld_eq (lo := 13) (n := 1) e3, fld_eq (lo := 14) (n := 6) e4, fld_eq (lo := 20) (n := 6) e5, fld_eq (lo := 26) (n := 6) e6]⟩
theorem RoundTrip.vfadd (d : BitVec 6) (a : BitVec 6) (b : BitVec 6) (n : BitVec 1) (p : BitVec 5) : RoundTrip.Statement (.vfadd d a b n p) := by
  refine roundTrip_of32 _ (fun w hw => ?_)
  change 97 + d.toNat * 67108864 + a.toNat * 1048576 + b.toNat * 16384 + n.toNat * 8192 + p.toNat * 256 = w at hw
  obtain ⟨lt, e0, e1, e2, e3, e4, e5, e6⟩ := layout17 (w := w) (by decide : 1 < 2) (by decide : 48 < 128) p.isLt n.isLt b.isLt a.isLt d.isLt (by omega)
  clear hw
  exact ⟨by simpa using e0, lt, by simp [decode32, decodeVectorLow, decodeMajor30, e1, fld_eq (lo := 8) (n := 5) e2, fld_eq (lo := 13) (n := 1) e3, fld_eq (lo := 14) (n := 6) e4, fld_eq (lo := 20) (n := 6) e5, fld_eq (lo := 26) (n := 6) e6]⟩
theorem RoundTrip.vfsub (d : BitVec 6) (a : BitVec 6) (b : BitVec 6) (n : BitVec 1) (p : BitVec 5) : RoundTrip.Statement (.vfsub d a b n p) := by
  refine roundTrip_of32 _ (fun w hw => ?_)
  change 99 + d.toNat * 67108864 + a.toNat * 1048576 + b.toNat * 16384 + n.toNat * 8192 + p.toNat * 256 = w at hw
  obtain ⟨lt, e0, e1, e2, e3, e4, e5, e6⟩ := layout17 (w := w) (by decide : 1 < 2) (by decide : 49 < 128) p.isLt n.isLt b.isLt a.isLt d.isLt (by omega)
  clear hw
  exact ⟨by simpa using e0, lt, by simp [decode32, decodeVectorLow, decodeMajor31, e1, fld_eq (lo := 8) (n := 5) e2, fld_eq (lo := 13) (n := 1) e3, fld_eq (lo := 14) (n := 6) e4, fld_eq (lo := 20) (n := 6) e5, fld_eq (lo := 26) (n := 6) e6]⟩
theorem RoundTrip.vfmul (d : BitVec 6) (a : BitVec 6) (b : BitVec 6) (n : BitVec 1) (p : BitVec 5) : RoundTrip.Statement (.vfmul d a b n p) := by
  refine roundTrip_of32 _ (fun w hw => ?_)
  change 101 + d.toNat * 67108864 + a.toNat * 1048576 + b.toNat * 16384 + n.toNat * 8192 + p.toNat * 256 = w at hw
  obtain ⟨lt, e0, e1, e2, e3, e4, e5, e6⟩ := layout17 (w := w) (by decide : 1 < 2) (by decide : 50 < 128) p.isLt n.isLt b.isLt a.isLt d.isLt (by omega)
  clear hw
  exact ⟨by simpa using e0, lt, by simp [decode32, decodeVectorLow, decodeMajor32, e1, fld_eq (lo := 8) (n := 5) e2, fld_eq (lo := 13) (n := 1) e3, fld_eq (lo := 14) (n := 6) e4, fld_eq (lo := 20) (n := 6) e5, fld_eq (lo := 26) (n := 6) e6]⟩
theorem RoundTrip.vfma (d : BitVec 6) (a : BitVec 6) (b : BitVec 6) (n : BitVec 1) (p : BitVec 5) : RoundTrip.Statement (.vfma d a b n p) := by
  refine roundTrip_of32 _ (fun w hw => ?_)
  change 103 + d.toNat * 67108864 + a.toNat * 1048576 + b.toNat * 16384 + n.toNat * 8192 + p.toNat * 256 = w at hw
  obtain ⟨lt, e0, e1, e2, e3, e4, e5, e6⟩ := layout17 (w := w) (by decide : 1 < 2) (by decide : 51 < 128) p.isLt n.isLt b.isLt a.isLt d.isLt (by omega)
  clear hw
  exact ⟨by simpa using e0, lt, by simp [decode32, decodeVectorLow, decodeMajor33, e1, fld_eq (lo := 8) (n := 5) e2, fld_eq (lo := 13) (n := 1) e3, fld_eq (lo := 14) (n := 6) e4, fld_eq (lo := 20) (n := 6) e5, fld_eq (lo := 26) (n := 6) e6]⟩
theorem RoundTrip.vfms (d : BitVec 6) (a : BitVec 6) (b : BitVec 6) (n : BitVec 1) (p : BitVec 5) : RoundTrip.Statement (.vfms d a b n p) := by
  refine roundTrip_of32 _ (fun w hw => ?_)
  change 105 + d.toNat * 67108864 + a.toNat * 1048576 + b.toNat * 16384 + n.toNat * 8192 + p.toNat * 256 = w at hw
  obtain ⟨lt, e0, e1, e2, e3, e4, e5, e6⟩ := layout17 (w := w) (by decide : 1 < 2) (by decide : 52 < 128) p.isLt n.isLt b.isLt a.isLt d.isLt (by omega)
  clear hw
  exact ⟨by simpa using e0, lt, by simp [decode32, decodeVectorLow, decodeMajor34, e1, fld_eq (lo := 8) (n := 5) e2, fld_eq (lo := 13) (n := 1) e3, fld_eq (lo := 14) (n := 6) e4, fld_eq (lo := 20) (n := 6) e5, fld_eq (lo := 26) (n := 6) e6]⟩
theorem RoundTrip.vfnma (d : BitVec 6) (a : BitVec 6) (b : BitVec 6) (n : BitVec 1) (p : BitVec 5) : RoundTrip.Statement (.vfnma d a b n p) := by
  refine roundTrip_of32 _ (fun w hw => ?_)
  change 107 + d.toNat * 67108864 + a.toNat * 1048576 + b.toNat * 16384 + n.toNat * 8192 + p.toNat * 256 = w at hw
  obtain ⟨lt, e0, e1, e2, e3, e4, e5, e6⟩ := layout17 (w := w) (by decide : 1 < 2) (by decide : 53 < 128) p.isLt n.isLt b.isLt a.isLt d.isLt (by omega)
  clear hw
  exact ⟨by simpa using e0, lt, by simp [decode32, decodeVectorLow, decodeMajor35, e1, fld_eq (lo := 8) (n := 5) e2, fld_eq (lo := 13) (n := 1) e3, fld_eq (lo := 14) (n := 6) e4, fld_eq (lo := 20) (n := 6) e5, fld_eq (lo := 26) (n := 6) e6]⟩
theorem RoundTrip.vfmin (d : BitVec 6) (a : BitVec 6) (b : BitVec 6) (n : BitVec 1) (p : BitVec 5) : RoundTrip.Statement (.vfmin d a b n p) := by
  refine roundTrip_of32 _ (fun w hw => ?_)
  change 109 + d.toNat * 67108864 + a.toNat * 1048576 + b.toNat * 16384 + n.toNat * 8192 + p.toNat * 256 = w at hw
  obtain ⟨lt, e0, e1, e2, e3, e4, e5, e6⟩ := layout17 (w := w) (by decide : 1 < 2) (by decide : 54 < 128) p.isLt n.isLt b.isLt a.isLt d.isLt (by omega)
  clear hw
  exact ⟨by simpa using e0, lt, by simp [decode32, decodeVectorLow, decodeMajor36, e1, fld_eq (lo := 8) (n := 5) e2, fld_eq (lo := 13) (n := 1) e3, fld_eq (lo := 14) (n := 6) e4, fld_eq (lo := 20) (n := 6) e5, fld_eq (lo := 26) (n := 6) e6]⟩
theorem RoundTrip.vfmax (d : BitVec 6) (a : BitVec 6) (b : BitVec 6) (n : BitVec 1) (p : BitVec 5) : RoundTrip.Statement (.vfmax d a b n p) := by
  refine roundTrip_of32 _ (fun w hw => ?_)
  change 111 + d.toNat * 67108864 + a.toNat * 1048576 + b.toNat * 16384 + n.toNat * 8192 + p.toNat * 256 = w at hw
  obtain ⟨lt, e0, e1, e2, e3, e4, e5, e6⟩ := layout17 (w := w) (by decide : 1 < 2) (by decide : 55 < 128) p.isLt n.isLt b.isLt a.isLt d.isLt (by omega)
  clear hw
  exact ⟨by simpa using e0, lt, by simp [decode32, decodeVectorLow, decodeMajor37, e1, fld_eq (lo := 8) (n := 5) e2, fld_eq (lo := 13) (n := 1) e3, fld_eq (lo := 14) (n := 6) e4, fld_eq (lo := 20) (n := 6) e5, fld_eq (lo := 26) (n := 6) e6]⟩
theorem RoundTrip.vfdiv (d : BitVec 6) (a : BitVec 6) (b : BitVec 6) (n : BitVec 1) (p : BitVec 5) : RoundTrip.Statement (.vfdiv d a b n p) := by
  refine roundTrip_of32 _ (fun w hw => ?_)
  change 113 + d.toNat * 67108864 + a.toNat * 1048576 + b.toNat * 16384 + n.toNat * 8192 + p.toNat * 256 = w at hw
  obtain ⟨lt, e0, e1, e2, e3, e4, e5, e6⟩ := layout17 (w := w) (by decide : 1 < 2) (by decide : 56 < 128) p.isLt n.isLt b.isLt a.isLt d.isLt (by omega)
  clear hw
  exact ⟨by simpa using e0, lt, by simp [decode32, decodeVectorLow, decodeMajor38, e1, fld_eq (lo := 8) (n := 5) e2, fld_eq (lo := 13) (n := 1) e3, fld_eq (lo := 14) (n := 6) e4, fld_eq (lo := 20) (n := 6) e5, fld_eq (lo := 26) (n := 6) e6]⟩
theorem RoundTrip.vmov (d : BitVec 6) (a : BitVec 6) (n : BitVec 1) (p : BitVec 5) : RoundTrip.Statement (.vmov d a n p) := by
  refine roundTrip_of32 _ (fun w hw => ?_)
  change 115 + d.toNat * 67108864 + a.toNat * 1048576 + n.toNat * 8192 + p.toNat * 256 = w at hw
  obtain ⟨lt, e0, e1, e2, e3, e4, e5, e6⟩ := layout17 (w := w) (by decide : 1 < 2) (by decide : 57 < 128) p.isLt n.isLt (by decide : 0 < 64) a.isLt d.isLt (by omega)
  clear hw
  exact ⟨by simpa using e0, lt, by simp [decode32, decodeVectorLow, decodeMajor39, e1, e4, fld_eq (lo := 8) (n := 5) e2, fld_eq (lo := 13) (n := 1) e3, fld_eq (lo := 20) (n := 6) e5, fld_eq (lo := 26) (n := 6) e6]⟩
theorem RoundTrip.vabs (d : BitVec 6) (a : BitVec 6) (n : BitVec 1) (p : BitVec 5) : RoundTrip.Statement (.vabs d a n p) := by
  refine roundTrip_of32 _ (fun w hw => ?_)
  change 16499 + d.toNat * 67108864 + a.toNat * 1048576 + n.toNat * 8192 + p.toNat * 256 = w at hw
  obtain ⟨lt, e0, e1, e2, e3, e4, e5, e6⟩ := layout17 (w := w) (by decide : 1 < 2) (by decide : 57 < 128) p.isLt n.isLt (by decide : 1 < 64) a.isLt d.isLt (by omega)
  clear hw
  exact ⟨by simpa using e0, lt, by simp [decode32, decodeVectorLow, decodeMajor39, e1, e4, fld_eq (lo := 8) (n := 5) e2, fld_eq (lo := 13) (n := 1) e3, fld_eq (lo := 20) (n := 6) e5, fld_eq (lo := 26) (n := 6) e6]⟩
theorem RoundTrip.vneg (d : BitVec 6) (a : BitVec 6) (n : BitVec 1) (p : BitVec 5) : RoundTrip.Statement (.vneg d a n p) := by
  refine roundTrip_of32 _ (fun w hw => ?_)
  change 32883 + d.toNat * 67108864 + a.toNat * 1048576 + n.toNat * 8192 + p.toNat * 256 = w at hw
  obtain ⟨lt, e0, e1, e2, e3, e4, e5, e6⟩ := layout17 (w := w) (by decide : 1 < 2) (by decide : 57 < 128) p.isLt n.isLt (by decide : 2 < 64) a.isLt d.isLt (by omega)
  clear hw
  exact ⟨by simpa using e0, lt, by simp [decode32, decodeVectorLow, decodeMajor39, e1, e4, fld_eq (lo := 8) (n := 5) e2, fld_eq (lo := 13) (n := 1) e3, fld_eq (lo := 20) (n := 6) e5, fld_eq (lo := 26) (n := 6) e6]⟩
theorem RoundTrip.vnot (d : BitVec 6) (a : BitVec 6) (n : BitVec 1) (p : BitVec 5) : RoundTrip.Statement (.vnot d a n p) := by
  refine roundTrip_of32 _ (fun w hw => ?_)
  change 49267 + d.toNat * 67108864 + a.toNat * 1048576 + n.toNat * 8192 + p.toNat * 256 = w at hw
  obtain ⟨lt, e0, e1, e2, e3, e4, e5, e6⟩ := layout17 (w := w) (by decide : 1 < 2) (by decide : 57 < 128) p.isLt n.isLt (by decide : 3 < 64) a.isLt d.isLt (by omega)
  clear hw
  exact ⟨by simpa using e0, lt, by simp [decode32, decodeVectorLow, decodeMajor39, e1, e4, fld_eq (lo := 8) (n := 5) e2, fld_eq (lo := 13) (n := 1) e3, fld_eq (lo := 20) (n := 6) e5, fld_eq (lo := 26) (n := 6) e6]⟩
theorem RoundTrip.vclz (d : BitVec 6) (a : BitVec 6) (n : BitVec 1) (p : BitVec 5) : RoundTrip.Statement (.vclz d a n p) := by
  refine roundTrip_of32 _ (fun w hw => ?_)
  change 65651 + d.toNat * 67108864 + a.toNat * 1048576 + n.toNat * 8192 + p.toNat * 256 = w at hw
  obtain ⟨lt, e0, e1, e2, e3, e4, e5, e6⟩ := layout17 (w := w) (by decide : 1 < 2) (by decide : 57 < 128) p.isLt n.isLt (by decide : 4 < 64) a.isLt d.isLt (by omega)
  clear hw
  exact ⟨by simpa using e0, lt, by simp [decode32, decodeVectorLow, decodeMajor39, e1, e4, fld_eq (lo := 8) (n := 5) e2, fld_eq (lo := 13) (n := 1) e3, fld_eq (lo := 20) (n := 6) e5, fld_eq (lo := 26) (n := 6) e6]⟩
theorem RoundTrip.vpopc (d : BitVec 6) (a : BitVec 6) (n : BitVec 1) (p : BitVec 5) : RoundTrip.Statement (.vpopc d a n p) := by
  refine roundTrip_of32 _ (fun w hw => ?_)
  change 82035 + d.toNat * 67108864 + a.toNat * 1048576 + n.toNat * 8192 + p.toNat * 256 = w at hw
  obtain ⟨lt, e0, e1, e2, e3, e4, e5, e6⟩ := layout17 (w := w) (by decide : 1 < 2) (by decide : 57 < 128) p.isLt n.isLt (by decide : 5 < 64) a.isLt d.isLt (by omega)
  clear hw
  exact ⟨by simpa using e0, lt, by simp [decode32, decodeVectorLow, decodeMajor39, e1, e4, fld_eq (lo := 8) (n := 5) e2, fld_eq (lo := 13) (n := 1) e3, fld_eq (lo := 20) (n := 6) e5, fld_eq (lo := 26) (n := 6) e6]⟩
theorem RoundTrip.vfabs (d : BitVec 6) (a : BitVec 6) (n : BitVec 1) (p : BitVec 5) : RoundTrip.Statement (.vfabs d a n p) := by
  refine roundTrip_of32 _ (fun w hw => ?_)
  change 98419 + d.toNat * 67108864 + a.toNat * 1048576 + n.toNat * 8192 + p.toNat * 256 = w at hw
  obtain ⟨lt, e0, e1, e2, e3, e4, e5, e6⟩ := layout17 (w := w) (by decide : 1 < 2) (by decide : 57 < 128) p.isLt n.isLt (by decide : 6 < 64) a.isLt d.isLt (by omega)
  clear hw
  exact ⟨by simpa using e0, lt, by simp [decode32, decodeVectorLow, decodeMajor39, e1, e4, fld_eq (lo := 8) (n := 5) e2, fld_eq (lo := 13) (n := 1) e3, fld_eq (lo := 20) (n := 6) e5, fld_eq (lo := 26) (n := 6) e6]⟩
theorem RoundTrip.vfneg (d : BitVec 6) (a : BitVec 6) (n : BitVec 1) (p : BitVec 5) : RoundTrip.Statement (.vfneg d a n p) := by
  refine roundTrip_of32 _ (fun w hw => ?_)
  change 114803 + d.toNat * 67108864 + a.toNat * 1048576 + n.toNat * 8192 + p.toNat * 256 = w at hw
  obtain ⟨lt, e0, e1, e2, e3, e4, e5, e6⟩ := layout17 (w := w) (by decide : 1 < 2) (by decide : 57 < 128) p.isLt n.isLt (by decide : 7 < 64) a.isLt d.isLt (by omega)
  clear hw
  exact ⟨by simpa using e0, lt, by simp [decode32, decodeVectorLow, decodeMajor39, e1, e4, fld_eq (lo := 8) (n := 5) e2, fld_eq (lo := 13) (n := 1) e3, fld_eq (lo := 20) (n := 6) e5, fld_eq (lo := 26) (n := 6) e6]⟩
theorem RoundTrip.vfsqrt (d : BitVec 6) (a : BitVec 6) (n : BitVec 1) (p : BitVec 5) : RoundTrip.Statement (.vfsqrt d a n p) := by
  refine roundTrip_of32 _ (fun w hw => ?_)
  change 131187 + d.toNat * 67108864 + a.toNat * 1048576 + n.toNat * 8192 + p.toNat * 256 = w at hw
  obtain ⟨lt, e0, e1, e2, e3, e4, e5, e6⟩ := layout17 (w := w) (by decide : 1 < 2) (by decide : 57 < 128) p.isLt n.isLt (by decide : 8 < 64) a.isLt d.isLt (by omega)
  clear hw
  exact ⟨by simpa using e0, lt, by simp [decode32, decodeVectorLow, decodeMajor39, e1, e4, fld_eq (lo := 8) (n := 5) e2, fld_eq (lo := 13) (n := 1) e3, fld_eq (lo := 20) (n := 6) e5, fld_eq (lo := 26) (n := 6) e6]⟩
theorem RoundTrip.vfrsq (d : BitVec 6) (a : BitVec 6) (n : BitVec 1) (p : BitVec 5) : RoundTrip.Statement (.vfrsq d a n p) := by
  refine roundTrip_of32 _ (fun w hw => ?_)
  change 147571 + d.toNat * 67108864 + a.toNat * 1048576 + n.toNat * 8192 + p.toNat * 256 = w at hw
  obtain ⟨lt, e0, e1, e2, e3, e4, e5, e6⟩ := layout17 (w := w) (by decide : 1 < 2) (by decide : 57 < 128) p.isLt n.isLt (by decide : 9 < 64) a.isLt d.isLt (by omega)
  clear hw
  exact ⟨by simpa using e0, lt, by simp [decode32, decodeVectorLow, decodeMajor39, e1, e4, fld_eq (lo := 8) (n := 5) e2, fld_eq (lo := 13) (n := 1) e3, fld_eq (lo := 20) (n := 6) e5, fld_eq (lo := 26) (n := 6) e6]⟩
theorem RoundTrip.vfrcp (d : BitVec 6) (a : BitVec 6) (n : BitVec 1) (p : BitVec 5) : RoundTrip.Statement (.vfrcp d a n p) := by
  refine roundTrip_of32 _ (fun w hw => ?_)
  change 163955 + d.toNat * 67108864 + a.toNat * 1048576 + n.toNat * 8192 + p.toNat * 256 = w at hw
  obtain ⟨lt, e0, e1, e2, e3, e4, e5, e6⟩ := layout17 (w := w) (by decide : 1 < 2) (by decide : 57 < 128) p.isLt n.isLt (by decide : 10 < 64) a.isLt d.isLt (by omega)
  clear hw
  exact ⟨by simpa using e0, lt, by simp [decode32, decodeVectorLow, decodeMajor39, e1, e4, fld_eq (lo := 8) (n := 5) e2, fld_eq (lo := 13) (n := 1) e3, fld_eq (lo := 20) (n := 6) e5, fld_eq (lo := 26) (n := 6) e6]⟩
theorem RoundTrip.vfexp2 (d : BitVec 6) (a : BitVec 6) (n : BitVec 1) (p : BitVec 5) : RoundTrip.Statement (.vfexp2 d a n p) := by
  refine roundTrip_of32 _ (fun w hw => ?_)
  change 180339 + d.toNat * 67108864 + a.toNat * 1048576 + n.toNat * 8192 + p.toNat * 256 = w at hw
  obtain ⟨lt, e0, e1, e2, e3, e4, e5, e6⟩ := layout17 (w := w) (by decide : 1 < 2) (by decide : 57 < 128) p.isLt n.isLt (by decide : 11 < 64) a.isLt d.isLt (by omega)
  clear hw
  exact ⟨by simpa using e0, lt, by simp [decode32, decodeVectorLow, decodeMajor39, e1, e4, fld_eq (lo := 8) (n := 5) e2, fld_eq (lo := 13) (n := 1) e3, fld_eq (lo := 20) (n := 6) e5, fld_eq (lo := 26) (n := 6) e6]⟩
theorem RoundTrip.vflog2 (d : BitVec 6) (a : BitVec 6) (n : BitVec 1) (p : BitVec 5) : RoundTrip.Statement (.vflog2 d a n p) := by
  refine roundTrip_of32 _ (fun w hw => ?_)
  change 196723 + d.toNat * 67108864 + a.toNat * 1048576 + n.toNat * 8192 + p.toNat * 256 = w at hw
  obtain ⟨lt, e0, e1, e2, e3, e4, e5, e6⟩ := layout17 (w := w) (by decide : 1 < 2) (by decide : 57 < 128) p.isLt n.isLt (by decide : 12 < 64) a.isLt d.isLt (by omega)
  clear hw
  exact ⟨by simpa using e0, lt, by simp [decode32, decodeVectorLow, decodeMajor39, e1, e4, fld_eq (lo := 8) (n := 5) e2, fld_eq (lo := 13) (n := 1) e3, fld_eq (lo := 20) (n := 6) e5, fld_eq (lo := 26) (n := 6) e6]⟩
theorem RoundTrip.vftanh (d : BitVec 6) (a : BitVec 6) (n : BitVec 1) (p : BitVec 5) : RoundTrip.Statement (.vftanh d a n p) := by
  refine roundTrip_of32 _ (fun w hw => ?_)
  change 213107 + d.toNat * 67108864 + a.toNat * 1048576 + n.toNat * 8192 + p.toNat * 256 = w at hw
  obtain ⟨lt, e0, e1, e2, e3, e4, e5, e6⟩ := layout17 (w := w) (by decide : 1 < 2) (by decide : 57 < 128) p.isLt n.isLt (by decide : 13 < 64) a.isLt d.isLt (by omega)
  clear hw
  exact ⟨by simpa using e0, lt, by simp [decode32, decodeVectorLow, decodeMajor39, e1, e4, fld_eq (lo := 8) (n := 5) e2, fld_eq (lo := 13) (n := 1) e3, fld_eq (lo := 20) (n := 6) e5, fld_eq (lo := 26) (n := 6) e6]⟩
theorem RoundTrip.vfclass (d : BitVec 6) (a : BitVec 6) (n : BitVec 1) (p : BitVec 5) : RoundTrip.Statement (.vfclass d a n p) := by
  refine roundTrip_of32 _ (fun w hw => ?_)
  change 229491 + d.toNat * 67108864 + a.toNat * 1048576 + n.toNat * 8192 + p.toNat * 256 = w at hw
  obtain ⟨lt, e0, e1, e2, e3, e4, e5, e6⟩ := layout17 (w := w) (by decide : 1 < 2) (by decide : 57 < 128) p.isLt n.isLt (by decide : 14 < 64) a.isLt d.isLt (by omega)
  clear hw
  exact ⟨by simpa using e0, lt, by simp [decode32, decodeVectorLow, decodeMajor39, e1, e4, fld_eq (lo := 8) (n := 5) e2, fld_eq (lo := 13) (n := 1) e3, fld_eq (lo := 20) (n := 6) e5, fld_eq (lo := 26) (n := 6) e6]⟩
theorem RoundTrip.vunpk4Lo (d : BitVec 6) (a : BitVec 6) (n : BitVec 1) (p : BitVec 5) : RoundTrip.Statement (.vunpk4Lo d a n p) := by
  refine roundTrip_of32 _ (fun w hw => ?_)
  change 245875 + d.toNat * 67108864 + a.toNat * 1048576 + n.toNat * 8192 + p.toNat * 256 = w at hw
  obtain ⟨lt, e0, e1, e2, e3, e4, e5, e6⟩ := layout17 (w := w) (by decide : 1 < 2) (by decide : 57 < 128) p.isLt n.isLt (by decide : 15 < 64) a.isLt d.isLt (by omega)
  clear hw
  exact ⟨by simpa using e0, lt, by simp [decode32, decodeVectorLow, decodeMajor39, e1, e4, fld_eq (lo := 8) (n := 5) e2, fld_eq (lo := 13) (n := 1) e3, fld_eq (lo := 20) (n := 6) e5, fld_eq (lo := 26) (n := 6) e6]⟩
theorem RoundTrip.vunpk4Hi (d : BitVec 6) (a : BitVec 6) (n : BitVec 1) (p : BitVec 5) : RoundTrip.Statement (.vunpk4Hi d a n p) := by
  refine roundTrip_of32 _ (fun w hw => ?_)
  change 262259 + d.toNat * 67108864 + a.toNat * 1048576 + n.toNat * 8192 + p.toNat * 256 = w at hw
  obtain ⟨lt, e0, e1, e2, e3, e4, e5, e6⟩ := layout17 (w := w) (by decide : 1 < 2) (by decide : 57 < 128) p.isLt n.isLt (by decide : 16 < 64) a.isLt d.isLt (by omega)
  clear hw
  exact ⟨by simpa using e0, lt, by simp [decode32, decodeVectorLow, decodeMajor39, e1, e4, fld_eq (lo := 8) (n := 5) e2, fld_eq (lo := 13) (n := 1) e3, fld_eq (lo := 20) (n := 6) e5, fld_eq (lo := 26) (n := 6) e6]⟩
theorem RoundTrip.vpack4 (d : BitVec 6) (a : BitVec 6) (n : BitVec 1) (p : BitVec 5) : RoundTrip.Statement (.vpack4 d a n p) := by
  refine roundTrip_of32 _ (fun w hw => ?_)
  change 278643 + d.toNat * 67108864 + a.toNat * 1048576 + n.toNat * 8192 + p.toNat * 256 = w at hw
  obtain ⟨lt, e0, e1, e2, e3, e4, e5, e6⟩ := layout17 (w := w) (by decide : 1 < 2) (by decide : 57 < 128) p.isLt n.isLt (by decide : 17 < 64) a.isLt d.isLt (by omega)
  clear hw
  exact ⟨by simpa using e0, lt, by simp [decode32, decodeVectorLow, decodeMajor39, e1, e4, fld_eq (lo := 8) (n := 5) e2, fld_eq (lo := 13) (n := 1) e3, fld_eq (lo := 20) (n := 6) e5, fld_eq (lo := 26) (n := 6) e6]⟩
theorem RoundTrip.vcvtI8 (d : BitVec 6) (a : BitVec 6) (n : BitVec 1) (p : BitVec 5) : RoundTrip.Statement (.vcvtI8 d a n p) := by
  refine roundTrip_of32 _ (fun w hw => ?_)
  change 295027 + d.toNat * 67108864 + a.toNat * 1048576 + n.toNat * 8192 + p.toNat * 256 = w at hw
  obtain ⟨lt, e0, e1, e2, e3, e4, e5, e6⟩ := layout17 (w := w) (by decide : 1 < 2) (by decide : 57 < 128) p.isLt n.isLt (by decide : 18 < 64) a.isLt d.isLt (by omega)
  clear hw
  exact ⟨by simpa using e0, lt, by simp [decode32, decodeVectorLow, decodeMajor39, e1, e4, fld_eq (lo := 8) (n := 5) e2, fld_eq (lo := 13) (n := 1) e3, fld_eq (lo := 20) (n := 6) e5, fld_eq (lo := 26) (n := 6) e6]⟩
theorem RoundTrip.vcvtN8 (d : BitVec 6) (a : BitVec 6) (n : BitVec 1) (p : BitVec 5) : RoundTrip.Statement (.vcvtN8 d a n p) := by
  refine roundTrip_of32 _ (fun w hw => ?_)
  change 311411 + d.toNat * 67108864 + a.toNat * 1048576 + n.toNat * 8192 + p.toNat * 256 = w at hw
  obtain ⟨lt, e0, e1, e2, e3, e4, e5, e6⟩ := layout17 (w := w) (by decide : 1 < 2) (by decide : 57 < 128) p.isLt n.isLt (by decide : 19 < 64) a.isLt d.isLt (by omega)
  clear hw
  exact ⟨by simpa using e0, lt, by simp [decode32, decodeVectorLow, decodeMajor39, e1, e4, fld_eq (lo := 8) (n := 5) e2, fld_eq (lo := 13) (n := 1) e3, fld_eq (lo := 20) (n := 6) e5, fld_eq (lo := 26) (n := 6) e6]⟩
theorem RoundTrip.vcvtI16 (d : BitVec 6) (a : BitVec 6) (n : BitVec 1) (p : BitVec 5) : RoundTrip.Statement (.vcvtI16 d a n p) := by
  refine roundTrip_of32 _ (fun w hw => ?_)
  change 327795 + d.toNat * 67108864 + a.toNat * 1048576 + n.toNat * 8192 + p.toNat * 256 = w at hw
  obtain ⟨lt, e0, e1, e2, e3, e4, e5, e6⟩ := layout17 (w := w) (by decide : 1 < 2) (by decide : 57 < 128) p.isLt n.isLt (by decide : 20 < 64) a.isLt d.isLt (by omega)
  clear hw
  exact ⟨by simpa using e0, lt, by simp [decode32, decodeVectorLow, decodeMajor39, e1, e4, fld_eq (lo := 8) (n := 5) e2, fld_eq (lo := 13) (n := 1) e3, fld_eq (lo := 20) (n := 6) e5, fld_eq (lo := 26) (n := 6) e6]⟩
theorem RoundTrip.vcvtN16 (d : BitVec 6) (a : BitVec 6) (n : BitVec 1) (p : BitVec 5) : RoundTrip.Statement (.vcvtN16 d a n p) := by
  refine roundTrip_of32 _ (fun w hw => ?_)
  change 344179 + d.toNat * 67108864 + a.toNat * 1048576 + n.toNat * 8192 + p.toNat * 256 = w at hw
  obtain ⟨lt, e0, e1, e2, e3, e4, e5, e6⟩ := layout17 (w := w) (by decide : 1 < 2) (by decide : 57 < 128) p.isLt n.isLt (by decide : 21 < 64) a.isLt d.isLt (by omega)
  clear hw
  exact ⟨by simpa using e0, lt, by simp [decode32, decodeVectorLow, decodeMajor39, e1, e4, fld_eq (lo := 8) (n := 5) e2, fld_eq (lo := 13) (n := 1) e3, fld_eq (lo := 20) (n := 6) e5, fld_eq (lo := 26) (n := 6) e6]⟩
theorem RoundTrip.vcvtI32 (d : BitVec 6) (a : BitVec 6) (n : BitVec 1) (p : BitVec 5) : RoundTrip.Statement (.vcvtI32 d a n p) := by
  refine roundTrip_of32 _ (fun w hw => ?_)
  change 360563 + d.toNat * 67108864 + a.toNat * 1048576 + n.toNat * 8192 + p.toNat * 256 = w at hw
  obtain ⟨lt, e0, e1, e2, e3, e4, e5, e6⟩ := layout17 (w := w) (by decide : 1 < 2) (by decide : 57 < 128) p.isLt n.isLt (by decide : 22 < 64) a.isLt d.isLt (by omega)
  clear hw
  exact ⟨by simpa using e0, lt, by simp [decode32, decodeVectorLow, decodeMajor39, e1, e4, fld_eq (lo := 8) (n := 5) e2, fld_eq (lo := 13) (n := 1) e3, fld_eq (lo := 20) (n := 6) e5, fld_eq (lo := 26) (n := 6) e6]⟩
theorem RoundTrip.vcvtN32 (d : BitVec 6) (a : BitVec 6) (n : BitVec 1) (p : BitVec 5) : RoundTrip.Statement (.vcvtN32 d a n p) := by
  refine roundTrip_of32 _ (fun w hw => ?_)
  change 376947 + d.toNat * 67108864 + a.toNat * 1048576 + n.toNat * 8192 + p.toNat * 256 = w at hw
  obtain ⟨lt, e0, e1, e2, e3, e4, e5, e6⟩ := layout17 (w := w) (by decide : 1 < 2) (by decide : 57 < 128) p.isLt n.isLt (by decide : 23 < 64) a.isLt d.isLt (by omega)
  clear hw
  exact ⟨by simpa using e0, lt, by simp [decode32, decodeVectorLow, decodeMajor39, e1, e4, fld_eq (lo := 8) (n := 5) e2, fld_eq (lo := 13) (n := 1) e3, fld_eq (lo := 20) (n := 6) e5, fld_eq (lo := 26) (n := 6) e6]⟩
theorem RoundTrip.vcvtI64 (d : BitVec 6) (a : BitVec 6) (n : BitVec 1) (p : BitVec 5) : RoundTrip.Statement (.vcvtI64 d a n p) := by
  refine roundTrip_of32 _ (fun w hw => ?_)
  change 393331 + d.toNat * 67108864 + a.toNat * 1048576 + n.toNat * 8192 + p.toNat * 256 = w at hw
  obtain ⟨lt, e0, e1, e2, e3, e4, e5, e6⟩ := layout17 (w := w) (by decide : 1 < 2) (by decide : 57 < 128) p.isLt n.isLt (by decide : 24 < 64) a.isLt d.isLt (by omega)
  clear hw
  exact ⟨by simpa using e0, lt, by simp [decode32, decodeVectorLow, decodeMajor39, e1, e4, fld_eq (lo := 8) (n := 5) e2, fld_eq (lo := 13) (n := 1) e3, fld_eq (lo := 20) (n := 6) e5, fld_eq (lo := 26) (n := 6) e6]⟩
theorem RoundTrip.vcvtF64 (d : BitVec 6) (a : BitVec 6) (n : BitVec 1) (p : BitVec 5) : RoundTrip.Statement (.vcvtF64 d a n p) := by
  refine roundTrip_of32 _ (fun w hw => ?_)
  change 409715 + d.toNat * 67108864 + a.toNat * 1048576 + n.toNat * 8192 + p.toNat * 256 = w at hw
  obtain ⟨lt, e0, e1, e2, e3, e4, e5, e6⟩ := layout17 (w := w) (by decide : 1 < 2) (by decide : 57 < 128) p.isLt n.isLt (by decide : 25 < 64) a.isLt d.isLt (by omega)
  clear hw
  exact ⟨by simpa using e0, lt, by simp [decode32, decodeVectorLow, decodeMajor39, e1, e4, fld_eq (lo := 8) (n := 5) e2, fld_eq (lo := 13) (n := 1) e3, fld_eq (lo := 20) (n := 6) e5, fld_eq (lo := 26) (n := 6) e6]⟩
theorem RoundTrip.vcvtF32 (d : BitVec 6) (a : BitVec 6) (n : BitVec 1) (p : BitVec 5) : RoundTrip.Statement (.vcvtF32 d a n p) := by
  refine roundTrip_of32 _ (fun w hw => ?_)
  change 426099 + d.toNat * 67108864 + a.toNat * 1048576 + n.toNat * 8192 + p.toNat * 256 = w at hw
  obtain ⟨lt, e0, e1, e2, e3, e4, e5, e6⟩ := layout17 (w := w) (by decide : 1 < 2) (by decide : 57 < 128) p.isLt n.isLt (by decide : 26 < 64) a.isLt d.isLt (by omega)
  clear hw
  exact ⟨by simpa using e0, lt, by simp [decode32, decodeVectorLow, decodeMajor39, e1, e4, fld_eq (lo := 8) (n := 5) e2, fld_eq (lo := 13) (n := 1) e3, fld_eq (lo := 20) (n := 6) e5, fld_eq (lo := 26) (n := 6) e6]⟩
theorem RoundTrip.vcvtF16 (d : BitVec 6) (a : BitVec 6) (n : BitVec 1) (p : BitVec 5) : RoundTrip.Statement (.vcvtF16 d a n p) := by
  refine roundTrip_of32 _ (fun w hw => ?_)
  change 442483 + d.toNat * 67108864 + a.toNat * 1048576 + n.toNat * 8192 + p.toNat * 256 = w at hw
  obtain ⟨lt, e0, e1, e2, e3, e4, e5, e6⟩ := layout17 (w := w) (by decide : 1 < 2) (by decide : 57 < 128) p.isLt n.isLt (by decide : 27 < 64) a.isLt d.isLt (by omega)
  clear hw
  exact ⟨by simpa using e0, lt, by simp [decode32, decodeVectorLow, decodeMajor39, e1, e4, fld_eq (lo := 8) (n := 5) e2, fld_eq (lo := 13) (n := 1) e3, fld_eq (lo := 20) (n := 6) e5, fld_eq (lo := 26) (n := 6) e6]⟩
theorem RoundTrip.vcvtBf16 (d : BitVec 6) (a : BitVec 6) (n : BitVec 1) (p : BitVec 5) : RoundTrip.Statement (.vcvtBf16 d a n p) := by
  refine roundTrip_of32 _ (fun w hw => ?_)
  change 458867 + d.toNat * 67108864 + a.toNat * 1048576 + n.toNat * 8192 + p.toNat * 256 = w at hw
  obtain ⟨lt, e0, e1, e2, e3, e4, e5, e6⟩ := layout17 (w := w) (by decide : 1 < 2) (by decide : 57 < 128) p.isLt n.isLt (by decide : 28 < 64) a.isLt d.isLt (by omega)
  clear hw
  exact ⟨by simpa using e0, lt, by simp [decode32, decodeVectorLow, decodeMajor39, e1, e4, fld_eq (lo := 8) (n := 5) e2, fld_eq (lo := 13) (n := 1) e3, fld_eq (lo := 20) (n := 6) e5, fld_eq (lo := 26) (n := 6) e6]⟩
theorem RoundTrip.vcvtE4m3 (d : BitVec 6) (a : BitVec 6) (n : BitVec 1) (p : BitVec 5) : RoundTrip.Statement (.vcvtE4m3 d a n p) := by
  refine roundTrip_of32 _ (fun w hw => ?_)
  change 475251 + d.toNat * 67108864 + a.toNat * 1048576 + n.toNat * 8192 + p.toNat * 256 = w at hw
  obtain ⟨lt, e0, e1, e2, e3, e4, e5, e6⟩ := layout17 (w := w) (by decide : 1 < 2) (by decide : 57 < 128) p.isLt n.isLt (by decide : 29 < 64) a.isLt d.isLt (by omega)
  clear hw
  exact ⟨by simpa using e0, lt, by simp [decode32, decodeVectorLow, decodeMajor39, e1, e4, fld_eq (lo := 8) (n := 5) e2, fld_eq (lo := 13) (n := 1) e3, fld_eq (lo := 20) (n := 6) e5, fld_eq (lo := 26) (n := 6) e6]⟩
theorem RoundTrip.vcvtE5m2 (d : BitVec 6) (a : BitVec 6) (n : BitVec 1) (p : BitVec 5) : RoundTrip.Statement (.vcvtE5m2 d a n p) := by
  refine roundTrip_of32 _ (fun w hw => ?_)
  change 491635 + d.toNat * 67108864 + a.toNat * 1048576 + n.toNat * 8192 + p.toNat * 256 = w at hw
  obtain ⟨lt, e0, e1, e2, e3, e4, e5, e6⟩ := layout17 (w := w) (by decide : 1 < 2) (by decide : 57 < 128) p.isLt n.isLt (by decide : 30 < 64) a.isLt d.isLt (by omega)
  clear hw
  exact ⟨by simpa using e0, lt, by simp [decode32, decodeVectorLow, decodeMajor39, e1, e4, fld_eq (lo := 8) (n := 5) e2, fld_eq (lo := 13) (n := 1) e3, fld_eq (lo := 20) (n := 6) e5, fld_eq (lo := 26) (n := 6) e6]⟩
theorem RoundTrip.vcvtE2m1 (d : BitVec 6) (a : BitVec 6) (n : BitVec 1) (p : BitVec 5) : RoundTrip.Statement (.vcvtE2m1 d a n p) := by
  refine roundTrip_of32 _ (fun w hw => ?_)
  change 508019 + d.toNat * 67108864 + a.toNat * 1048576 + n.toNat * 8192 + p.toNat * 256 = w at hw
  obtain ⟨lt, e0, e1, e2, e3, e4, e5, e6⟩ := layout17 (w := w) (by decide : 1 < 2) (by decide : 57 < 128) p.isLt n.isLt (by decide : 31 < 64) a.isLt d.isLt (by omega)
  clear hw
  exact ⟨by simpa using e0, lt, by simp [decode32, decodeVectorLow, decodeMajor39, e1, e4, fld_eq (lo := 8) (n := 5) e2, fld_eq (lo := 13) (n := 1) e3, fld_eq (lo := 20) (n := 6) e5, fld_eq (lo := 26) (n := 6) e6]⟩
theorem RoundTrip.vcmpEq (d : BitVec 5) (a : BitVec 6) (b : BitVec 6) (p : BitVec 4) : RoundTrip.Statement (.vcmpEq d a b p) := by
  refine roundTrip_of32 _ (fun w hw => ?_)
  change 117 + d.toNat * 134217728 + a.toNat * 2097152 + b.toNat * 32768 + p.toNat * 256 = w at hw
  obtain ⟨lt, e0, e1, e2, e3, e4, e5, e6⟩ := layout18 (w := w) (by decide : 1 < 2) (by decide : 58 < 128) p.isLt (by decide : 0 < 8) b.isLt a.isLt d.isLt (by omega)
  clear hw
  exact ⟨by simpa using e0, lt, by simp [decode32, decodeVectorLow, decodeMajor3a, e1, e3, fld_eq (lo := 8) (n := 4) e2, fld_eq (lo := 15) (n := 6) e4, fld_eq (lo := 21) (n := 6) e5, fld_eq (lo := 27) (n := 5) e6]⟩
theorem RoundTrip.vcmpNe (d : BitVec 5) (a : BitVec 6) (b : BitVec 6) (p : BitVec 4) : RoundTrip.Statement (.vcmpNe d a b p) := by
  refine roundTrip_of32 _ (fun w hw => ?_)
  change 4213 + d.toNat * 134217728 + a.toNat * 2097152 + b.toNat * 32768 + p.toNat * 256 = w at hw
  obtain ⟨lt, e0, e1, e2, e3, e4, e5, e6⟩ := layout18 (w := w) (by decide : 1 < 2) (by decide : 58 < 128) p.isLt (by decide : 1 < 8) b.isLt a.isLt d.isLt (by omega)
  clear hw
  exact ⟨by simpa using e0, lt, by simp [decode32, decodeVectorLow, decodeMajor3a, e1, e3, fld_eq (lo := 8) (n := 4) e2, fld_eq (lo := 15) (n := 6) e4, fld_eq (lo := 21) (n := 6) e5, fld_eq (lo := 27) (n := 5) e6]⟩
theorem RoundTrip.vcmpLt (d : BitVec 5) (a : BitVec 6) (b : BitVec 6) (p : BitVec 4) : RoundTrip.Statement (.vcmpLt d a b p) := by
  refine roundTrip_of32 _ (fun w hw => ?_)
  change 8309 + d.toNat * 134217728 + a.toNat * 2097152 + b.toNat * 32768 + p.toNat * 256 = w at hw
  obtain ⟨lt, e0, e1, e2, e3, e4, e5, e6⟩ := layout18 (w := w) (by decide : 1 < 2) (by decide : 58 < 128) p.isLt (by decide : 2 < 8) b.isLt a.isLt d.isLt (by omega)
  clear hw
  exact ⟨by simpa using e0, lt, by simp [decode32, decodeVectorLow, decodeMajor3a, e1, e3, fld_eq (lo := 8) (n := 4) e2, fld_eq (lo := 15) (n := 6) e4, fld_eq (lo := 21) (n := 6) e5, fld_eq (lo := 27) (n := 5) e6]⟩
theorem RoundTrip.vcmpGe (d : BitVec 5) (a : BitVec 6) (b : BitVec 6) (p : BitVec 4) : RoundTrip.Statement (.vcmpGe d a b p) := by
  refine roundTrip_of32 _ (fun w hw => ?_)
  change 12405 + d.toNat * 134217728 + a.toNat * 2097152 + b.toNat * 32768 + p.toNat * 256 = w at hw
  obtain ⟨lt, e0, e1, e2, e3, e4, e5, e6⟩ := layout18 (w := w) (by decide : 1 < 2) (by decide : 58 < 128) p.isLt (by decide : 3 < 8) b.isLt a.isLt d.isLt (by omega)
  clear hw
  exact ⟨by simpa using e0, lt, by simp [decode32, decodeVectorLow, decodeMajor3a, e1, e3, fld_eq (lo := 8) (n := 4) e2, fld_eq (lo := 15) (n := 6) e4, fld_eq (lo := 21) (n := 6) e5, fld_eq (lo := 27) (n := 5) e6]⟩
theorem RoundTrip.vcmpLe (d : BitVec 5) (a : BitVec 6) (b : BitVec 6) (p : BitVec 4) : RoundTrip.Statement (.vcmpLe d a b p) := by
  refine roundTrip_of32 _ (fun w hw => ?_)
  change 16501 + d.toNat * 134217728 + a.toNat * 2097152 + b.toNat * 32768 + p.toNat * 256 = w at hw
  obtain ⟨lt, e0, e1, e2, e3, e4, e5, e6⟩ := layout18 (w := w) (by decide : 1 < 2) (by decide : 58 < 128) p.isLt (by decide : 4 < 8) b.isLt a.isLt d.isLt (by omega)
  clear hw
  exact ⟨by simpa using e0, lt, by simp [decode32, decodeVectorLow, decodeMajor3a, e1, e3, fld_eq (lo := 8) (n := 4) e2, fld_eq (lo := 15) (n := 6) e4, fld_eq (lo := 21) (n := 6) e5, fld_eq (lo := 27) (n := 5) e6]⟩
theorem RoundTrip.vcmpGt (d : BitVec 5) (a : BitVec 6) (b : BitVec 6) (p : BitVec 4) : RoundTrip.Statement (.vcmpGt d a b p) := by
  refine roundTrip_of32 _ (fun w hw => ?_)
  change 20597 + d.toNat * 134217728 + a.toNat * 2097152 + b.toNat * 32768 + p.toNat * 256 = w at hw
  obtain ⟨lt, e0, e1, e2, e3, e4, e5, e6⟩ := layout18 (w := w) (by decide : 1 < 2) (by decide : 58 < 128) p.isLt (by decide : 5 < 8) b.isLt a.isLt d.isLt (by omega)
  clear hw
  exact ⟨by simpa using e0, lt, by simp [decode32, decodeVectorLow, decodeMajor3a, e1, e3, fld_eq (lo := 8) (n := 4) e2, fld_eq (lo := 15) (n := 6) e4, fld_eq (lo := 21) (n := 6) e5, fld_eq (lo := 27) (n := 5) e6]⟩
theorem RoundTrip.vfcmpEq (d : BitVec 5) (a : BitVec 6) (b : BitVec 6) (p : BitVec 4) : RoundTrip.Statement (.vfcmpEq d a b p) := by
  refine roundTrip_of32 _ (fun w hw => ?_)
  change 119 + d.toNat * 134217728 + a.toNat * 2097152 + b.toNat * 32768 + p.toNat * 256 = w at hw
  obtain ⟨lt, e0, e1, e2, e3, e4, e5, e6⟩ := layout18 (w := w) (by decide : 1 < 2) (by decide : 59 < 128) p.isLt (by decide : 0 < 8) b.isLt a.isLt d.isLt (by omega)
  clear hw
  exact ⟨by simpa using e0, lt, by simp [decode32, decodeVectorLow, decodeMajor3b, e1, e3, fld_eq (lo := 8) (n := 4) e2, fld_eq (lo := 15) (n := 6) e4, fld_eq (lo := 21) (n := 6) e5, fld_eq (lo := 27) (n := 5) e6]⟩
theorem RoundTrip.vfcmpNe (d : BitVec 5) (a : BitVec 6) (b : BitVec 6) (p : BitVec 4) : RoundTrip.Statement (.vfcmpNe d a b p) := by
  refine roundTrip_of32 _ (fun w hw => ?_)
  change 4215 + d.toNat * 134217728 + a.toNat * 2097152 + b.toNat * 32768 + p.toNat * 256 = w at hw
  obtain ⟨lt, e0, e1, e2, e3, e4, e5, e6⟩ := layout18 (w := w) (by decide : 1 < 2) (by decide : 59 < 128) p.isLt (by decide : 1 < 8) b.isLt a.isLt d.isLt (by omega)
  clear hw
  exact ⟨by simpa using e0, lt, by simp [decode32, decodeVectorLow, decodeMajor3b, e1, e3, fld_eq (lo := 8) (n := 4) e2, fld_eq (lo := 15) (n := 6) e4, fld_eq (lo := 21) (n := 6) e5, fld_eq (lo := 27) (n := 5) e6]⟩
theorem RoundTrip.vfcmpLt (d : BitVec 5) (a : BitVec 6) (b : BitVec 6) (p : BitVec 4) : RoundTrip.Statement (.vfcmpLt d a b p) := by
  refine roundTrip_of32 _ (fun w hw => ?_)
  change 8311 + d.toNat * 134217728 + a.toNat * 2097152 + b.toNat * 32768 + p.toNat * 256 = w at hw
  obtain ⟨lt, e0, e1, e2, e3, e4, e5, e6⟩ := layout18 (w := w) (by decide : 1 < 2) (by decide : 59 < 128) p.isLt (by decide : 2 < 8) b.isLt a.isLt d.isLt (by omega)
  clear hw
  exact ⟨by simpa using e0, lt, by simp [decode32, decodeVectorLow, decodeMajor3b, e1, e3, fld_eq (lo := 8) (n := 4) e2, fld_eq (lo := 15) (n := 6) e4, fld_eq (lo := 21) (n := 6) e5, fld_eq (lo := 27) (n := 5) e6]⟩
theorem RoundTrip.vfcmpGe (d : BitVec 5) (a : BitVec 6) (b : BitVec 6) (p : BitVec 4) : RoundTrip.Statement (.vfcmpGe d a b p) := by
  refine roundTrip_of32 _ (fun w hw => ?_)
  change 12407 + d.toNat * 134217728 + a.toNat * 2097152 + b.toNat * 32768 + p.toNat * 256 = w at hw
  obtain ⟨lt, e0, e1, e2, e3, e4, e5, e6⟩ := layout18 (w := w) (by decide : 1 < 2) (by decide : 59 < 128) p.isLt (by decide : 3 < 8) b.isLt a.isLt d.isLt (by omega)
  clear hw
  exact ⟨by simpa using e0, lt, by simp [decode32, decodeVectorLow, decodeMajor3b, e1, e3, fld_eq (lo := 8) (n := 4) e2, fld_eq (lo := 15) (n := 6) e4, fld_eq (lo := 21) (n := 6) e5, fld_eq (lo := 27) (n := 5) e6]⟩
theorem RoundTrip.vfcmpLe (d : BitVec 5) (a : BitVec 6) (b : BitVec 6) (p : BitVec 4) : RoundTrip.Statement (.vfcmpLe d a b p) := by
  refine roundTrip_of32 _ (fun w hw => ?_)
  change 16503 + d.toNat * 134217728 + a.toNat * 2097152 + b.toNat * 32768 + p.toNat * 256 = w at hw
  obtain ⟨lt, e0, e1, e2, e3, e4, e5, e6⟩ := layout18 (w := w) (by decide : 1 < 2) (by decide : 59 < 128) p.isLt (by decide : 4 < 8) b.isLt a.isLt d.isLt (by omega)
  clear hw
  exact ⟨by simpa using e0, lt, by simp [decode32, decodeVectorLow, decodeMajor3b, e1, e3, fld_eq (lo := 8) (n := 4) e2, fld_eq (lo := 15) (n := 6) e4, fld_eq (lo := 21) (n := 6) e5, fld_eq (lo := 27) (n := 5) e6]⟩
theorem RoundTrip.vfcmpGt (d : BitVec 5) (a : BitVec 6) (b : BitVec 6) (p : BitVec 4) : RoundTrip.Statement (.vfcmpGt d a b p) := by
  refine roundTrip_of32 _ (fun w hw => ?_)
  change 20599 + d.toNat * 134217728 + a.toNat * 2097152 + b.toNat * 32768 + p.toNat * 256 = w at hw
  obtain ⟨lt, e0, e1, e2, e3, e4, e5, e6⟩ := layout18 (w := w) (by decide : 1 < 2) (by decide : 59 < 128) p.isLt (by decide : 5 < 8) b.isLt a.isLt d.isLt (by omega)
  clear hw
  exact ⟨by simpa using e0, lt, by simp [decode32, decodeVectorLow, decodeMajor3b, e1, e3, fld_eq (lo := 8) (n := 4) e2, fld_eq (lo := 15) (n := 6) e4, fld_eq (lo := 21) (n := 6) e5, fld_eq (lo := 27) (n := 5) e6]⟩
theorem RoundTrip.vfcmpUno (d : BitVec 5) (a : BitVec 6) (b : BitVec 6) (p : BitVec 4) : RoundTrip.Statement (.vfcmpUno d a b p) := by
  refine roundTrip_of32 _ (fun w hw => ?_)
  change 24695 + d.toNat * 134217728 + a.toNat * 2097152 + b.toNat * 32768 + p.toNat * 256 = w at hw
  obtain ⟨lt, e0, e1, e2, e3, e4, e5, e6⟩ := layout18 (w := w) (by decide : 1 < 2) (by decide : 59 < 128) p.isLt (by decide : 6 < 8) b.isLt a.isLt d.isLt (by omega)
  clear hw
  exact ⟨by simpa using e0, lt, by simp [decode32, decodeVectorLow, decodeMajor3b, e1, e3, fld_eq (lo := 8) (n := 4) e2, fld_eq (lo := 15) (n := 6) e4, fld_eq (lo := 21) (n := 6) e5, fld_eq (lo := 27) (n := 5) e6]⟩
theorem RoundTrip.vfcmpOrd (d : BitVec 5) (a : BitVec 6) (b : BitVec 6) (p : BitVec 4) : RoundTrip.Statement (.vfcmpOrd d a b p) := by
  refine roundTrip_of32 _ (fun w hw => ?_)
  change 28791 + d.toNat * 134217728 + a.toNat * 2097152 + b.toNat * 32768 + p.toNat * 256 = w at hw
  obtain ⟨lt, e0, e1, e2, e3, e4, e5, e6⟩ := layout18 (w := w) (by decide : 1 < 2) (by decide : 59 < 128) p.isLt (by decide : 7 < 8) b.isLt a.isLt d.isLt (by omega)
  clear hw
  exact ⟨by simpa using e0, lt, by simp [decode32, decodeVectorLow, decodeMajor3b, e1, e3, fld_eq (lo := 8) (n := 4) e2, fld_eq (lo := 15) (n := 6) e4, fld_eq (lo := 21) (n := 6) e5, fld_eq (lo := 27) (n := 5) e6]⟩
theorem RoundTrip.vmerge (d : BitVec 6) (a : BitVec 6) (b : BitVec 6) (n : BitVec 1) (p : BitVec 5) : RoundTrip.Statement (.vmerge d a b n p) := by
  refine roundTrip_of32 _ (fun w hw => ?_)
  change 121 + d.toNat * 67108864 + a.toNat * 1048576 + b.toNat * 16384 + n.toNat * 8192 + p.toNat * 256 = w at hw
  obtain ⟨lt, e0, e1, e2, e3, e4, e5, e6⟩ := layout17 (w := w) (by decide : 1 < 2) (by decide : 60 < 128) p.isLt n.isLt b.isLt a.isLt d.isLt (by omega)
  clear hw
  exact ⟨by simpa using e0, lt, by simp [decode32, decodeVectorLow, decodeMajor3c, e1, fld_eq (lo := 8) (n := 5) e2, fld_eq (lo := 13) (n := 1) e3, fld_eq (lo := 14) (n := 6) e4, fld_eq (lo := 20) (n := 6) e5, fld_eq (lo := 26) (n := 6) e6]⟩
theorem RoundTrip.vslideup (d : BitVec 6) (a : BitVec 6) (s : BitVec 5) (n : BitVec 1) (p : BitVec 5) : RoundTrip.Statement (.vslideup d a s n p) := by
  refine roundTrip_of32 _ (fun w hw => ?_)
  change 123 + d.toNat * 67108864 + a.toNat * 1048576 + s.toNat * 32768 + n.toNat * 8192 + p.toNat * 256 = w at hw
  obtain ⟨lt, e0, e1, e2, e3, e4, e5, e6, e7⟩ := layout19 (w := w) (by decide : 1 < 2) (by decide : 61 < 128) p.isLt n.isLt (by decide : 0 < 2) s.isLt a.isLt d.isLt (by omega)
  clear hw
  exact ⟨by simpa using e0, lt, by simp [decode32, decodeVectorLow, decodeMajor3d, e1, e4, fld_eq (lo := 8) (n := 5) e2, fld_eq (lo := 13) (n := 1) e3, fld_eq (lo := 15) (n := 5) e5, fld_eq (lo := 20) (n := 6) e6, fld_eq (lo := 26) (n := 6) e7]⟩
theorem RoundTrip.vslideupRot (d : BitVec 6) (a : BitVec 6) (s : BitVec 5) (n : BitVec 1) (p : BitVec 5) : RoundTrip.Statement (.vslideupRot d a s n p) := by
  refine roundTrip_of32 _ (fun w hw => ?_)
  change 16507 + d.toNat * 67108864 + a.toNat * 1048576 + s.toNat * 32768 + n.toNat * 8192 + p.toNat * 256 = w at hw
  obtain ⟨lt, e0, e1, e2, e3, e4, e5, e6, e7⟩ := layout19 (w := w) (by decide : 1 < 2) (by decide : 61 < 128) p.isLt n.isLt (by decide : 1 < 2) s.isLt a.isLt d.isLt (by omega)
  clear hw
  exact ⟨by simpa using e0, lt, by simp [decode32, decodeVectorLow, decodeMajor3d, e1, e4, fld_eq (lo := 8) (n := 5) e2, fld_eq (lo := 13) (n := 1) e3, fld_eq (lo := 15) (n := 5) e5, fld_eq (lo := 20) (n := 6) e6, fld_eq (lo := 26) (n := 6) e7]⟩
theorem RoundTrip.vslidedn (d : BitVec 6) (a : BitVec 6) (s : BitVec 5) (n : BitVec 1) (p : BitVec 5) : RoundTrip.Statement (.vslidedn d a s n p) := by
  refine roundTrip_of32 _ (fun w hw => ?_)
  change 125 + d.toNat * 67108864 + a.toNat * 1048576 + s.toNat * 32768 + n.toNat * 8192 + p.toNat * 256 = w at hw
  obtain ⟨lt, e0, e1, e2, e3, e4, e5, e6, e7⟩ := layout19 (w := w) (by decide : 1 < 2) (by decide : 62 < 128) p.isLt n.isLt (by decide : 0 < 2) s.isLt a.isLt d.isLt (by omega)
  clear hw
  exact ⟨by simpa using e0, lt, by simp [decode32, decodeVectorLow, decodeMajor3e, e1, e4, fld_eq (lo := 8) (n := 5) e2, fld_eq (lo := 13) (n := 1) e3, fld_eq (lo := 15) (n := 5) e5, fld_eq (lo := 20) (n := 6) e6, fld_eq (lo := 26) (n := 6) e7]⟩
theorem RoundTrip.vslidednRot (d : BitVec 6) (a : BitVec 6) (s : BitVec 5) (n : BitVec 1) (p : BitVec 5) : RoundTrip.Statement (.vslidednRot d a s n p) := by
  refine roundTrip_of32 _ (fun w hw => ?_)
  change 16509 + d.toNat * 67108864 + a.toNat * 1048576 + s.toNat * 32768 + n.toNat * 8192 + p.toNat * 256 = w at hw
  obtain ⟨lt, e0, e1, e2, e3, e4, e5, e6, e7⟩ := layout19 (w := w) (by decide : 1 < 2) (by decide : 62 < 128) p.isLt n.isLt (by decide : 1 < 2) s.isLt a.isLt d.isLt (by omega)
  clear hw
  exact ⟨by simpa using e0, lt, by simp [decode32, decodeVectorLow, decodeMajor3e, e1, e4, fld_eq (lo := 8) (n := 5) e2, fld_eq (lo := 13) (n := 1) e3, fld_eq (lo := 15) (n := 5) e5, fld_eq (lo := 20) (n := 6) e6, fld_eq (lo := 26) (n := 6) e7]⟩
theorem RoundTrip.vgathr (d : BitVec 6) (a : BitVec 6) (b : BitVec 6) (n : BitVec 1) (p : BitVec 5) : RoundTrip.Statement (.vgathr d a b n p) := by
  refine roundTrip_of32 _ (fun w hw => ?_)
  change 127 + d.toNat * 67108864 + a.toNat * 1048576 + b.toNat * 16384 + n.toNat * 8192 + p.toNat * 256 = w at hw
  obtain ⟨lt, e0, e1, e2, e3, e4, e5, e6⟩ := layout17 (w := w) (by decide : 1 < 2) (by decide : 63 < 128) p.isLt n.isLt b.isLt a.isLt d.isLt (by omega)
  clear hw
  exact ⟨by simpa using e0, lt, by simp [decode32, decodeVectorLow, decodeMajor3f, e1, fld_eq (lo := 8) (n := 5) e2, fld_eq (lo := 13) (n := 1) e3, fld_eq (lo := 14) (n := 6) e4, fld_eq (lo := 20) (n := 6) e5, fld_eq (lo := 26) (n := 6) e6]⟩
theorem RoundTrip.vcompress (d : BitVec 6) (a : BitVec 6) (n : BitVec 1) (p : BitVec 5) : RoundTrip.Statement (.vcompress d a n p) := by
  refine roundTrip_of32 _ (fun w hw => ?_)
  change 129 + d.toNat * 67108864 + a.toNat * 1048576 + n.toNat * 8192 + p.toNat * 256 = w at hw
  obtain ⟨lt, e0, e1, e2, e3, e4, e5, e6⟩ := layout17 (w := w) (by decide : 1 < 2) (by decide : 64 < 128) p.isLt n.isLt (by decide : 0 < 64) a.isLt d.isLt (by omega)
  clear hw
  exact ⟨by simpa using e0, lt, by simp [decode32, decodeVectorHigh, decodeMajor40, e1, e4, fld_eq (lo := 8) (n := 5) e2, fld_eq (lo := 13) (n := 1) e3, fld_eq (lo := 20) (n := 6) e5, fld_eq (lo := 26) (n := 6) e6]⟩
theorem RoundTrip.vexpand (d : BitVec 6) (a : BitVec 6) (n : BitVec 1) (p : BitVec 5) : RoundTrip.Statement (.vexpand d a n p) := by
  refine roundTrip_of32 _ (fun w hw => ?_)
  change 131 + d.toNat * 67108864 + a.toNat * 1048576 + n.toNat * 8192 + p.toNat * 256 = w at hw
  obtain ⟨lt, e0, e1, e2, e3, e4, e5, e6⟩ := layout17 (w := w) (by decide : 1 < 2) (by decide : 65 < 128) p.isLt n.isLt (by decide : 0 < 64) a.isLt d.isLt (by omega)
  clear hw
  exact ⟨by simpa using e0, lt, by simp [decode32, decodeVectorHigh, decodeMajor41, e1, e4, fld_eq (lo := 8) (n := 5) e2, fld_eq (lo := 13) (n := 1) e3, fld_eq (lo := 20) (n := 6) e5, fld_eq (lo := 26) (n := 6) e6]⟩
theorem RoundTrip.vbcast (d : BitVec 6) (s : BitVec 5) (n : BitVec 1) (p : BitVec 5) : RoundTrip.Statement (.vbcast d s n p) := by
  refine roundTrip_of32 _ (fun w hw => ?_)
  change 133 + d.toNat * 67108864 + s.toNat * 32768 + n.toNat * 8192 + p.toNat * 256 = w at hw
  obtain ⟨lt, e0, e1, e2, e3, e4, e5, e6, e7⟩ := layout19 (w := w) (by decide : 1 < 2) (by decide : 66 < 128) p.isLt n.isLt (by decide : 0 < 2) s.isLt (by decide : 0 < 64) d.isLt (by omega)
  clear hw
  exact ⟨by simpa using e0, lt, by simp [decode32, decodeVectorHigh, decodeMajor42, e1, e4, e6, fld_eq (lo := 8) (n := 5) e2, fld_eq (lo := 13) (n := 1) e3, fld_eq (lo := 15) (n := 5) e5, fld_eq (lo := 26) (n := 6) e7]⟩
theorem RoundTrip.vbcastE (d : BitVec 6) (a : BitVec 6) (s : BitVec 5) (n : BitVec 1) (p : BitVec 5) : RoundTrip.Statement (.vbcastE d a s n p) := by
  refine roundTrip_of32 _ (fun w hw => ?_)
  change 16517 + d.toNat * 67108864 + a.toNat * 1048576 + s.toNat * 32768 + n.toNat * 8192 + p.toNat * 256 = w at hw
  obtain ⟨lt, e0, e1, e2, e3, e4, e5, e6, e7⟩ := layout19 (w := w) (by decide : 1 < 2) (by decide : 66 < 128) p.isLt n.isLt (by decide : 1 < 2) s.isLt a.isLt d.isLt (by omega)
  clear hw
  exact ⟨by simpa using e0, lt, by simp [decode32, decodeVectorHigh, decodeMajor42, e1, e4, fld_eq (lo := 8) (n := 5) e2, fld_eq (lo := 13) (n := 1) e3, fld_eq (lo := 15) (n := 5) e5, fld_eq (lo := 20) (n := 6) e6, fld_eq (lo := 26) (n := 6) e7]⟩
theorem RoundTrip.vextr (i : BitVec 5) (a : BitVec 6) (d : BitVec 5) : RoundTrip.Statement (.vextr i a d) := by
  refine roundTrip_of32 _ (fun w hw => ?_)
  change 135 + i.toNat * 67108864 + a.toNat * 1048576 + d.toNat * 32768 = w at hw
  obtain ⟨lt, e0, e1, e2, e3, e4, e5, e6⟩ := layout20 (w := w) (by decide : 1 < 2) (by decide : 67 < 128) (by decide : 0 < 128) d.isLt a.isLt i.isLt (by decide : 0 < 2) (by omega)
  clear hw
  exact ⟨by simpa using e0, lt, by simp [decode32, decodeVectorHigh, decodeMajor43, e1, e2, e6, fld_eq (lo := 15) (n := 5) e3, fld_eq (lo := 20) (n := 6) e4, fld_eq (lo := 26) (n := 5) e5]⟩
theorem RoundTrip.vextrSx (i : BitVec 5) (a : BitVec 6) (d : BitVec 5) : RoundTrip.Statement (.vextrSx i a d) := by
  refine roundTrip_of32 _ (fun w hw => ?_)
  change 16519 + i.toNat * 67108864 + a.toNat * 1048576 + d.toNat * 32768 = w at hw
  obtain ⟨lt, e0, e1, e2, e3, e4, e5, e6⟩ := layout20 (w := w) (by decide : 1 < 2) (by decide : 67 < 128) (by decide : 64 < 128) d.isLt a.isLt i.isLt (by decide : 0 < 2) (by omega)
  clear hw
  exact ⟨by simpa using e0, lt, by simp [decode32, decodeVectorHigh, decodeMajor43, e1, e2, e6, fld_eq (lo := 15) (n := 5) e3, fld_eq (lo := 20) (n := 6) e4, fld_eq (lo := 26) (n := 5) e5]⟩
theorem RoundTrip.vins (d : BitVec 6) (i : BitVec 5) (s : BitVec 5) (n : BitVec 1) (p : BitVec 5) : RoundTrip.Statement (.vins d i s n p) := by
  refine roundTrip_of32 _ (fun w hw => ?_)
  change 137 + d.toNat * 67108864 + i.toNat * 1048576 + s.toNat * 32768 + n.toNat * 8192 + p.toNat * 256 = w at hw
  obtain ⟨lt, e0, e1, e2, e3, e4, e5, e6, e7, e8⟩ := layout21 (w := w) (by decide : 1 < 2) (by decide : 68 < 128) p.isLt n.isLt (by decide : 0 < 2) s.isLt i.isLt (by decide : 0 < 2) d.isLt (by omega)
  clear hw
  exact ⟨by simpa using e0, lt, by simp [decode32, decodeVectorHigh, decodeMajor44, e1, e4, e7, fld_eq (lo := 8) (n := 5) e2, fld_eq (lo := 13) (n := 1) e3, fld_eq (lo := 15) (n := 5) e5, fld_eq (lo := 20) (n := 5) e6, fld_eq (lo := 26) (n := 6) e8]⟩
theorem RoundTrip.vinsCv (d : BitVec 6) (i : BitVec 5) (s : BitVec 5) (n : BitVec 1) (p : BitVec 5) : RoundTrip.Statement (.vinsCv d i s n p) := by
  refine roundTrip_of32 _ (fun w hw => ?_)
  change 16521 + d.toNat * 67108864 + i.toNat * 1048576 + s.toNat * 32768 + n.toNat * 8192 + p.toNat * 256 = w at hw
  obtain ⟨lt, e0, e1, e2, e3, e4, e5, e6, e7, e8⟩ := layout21 (w := w) (by decide : 1 < 2) (by decide : 68 < 128) p.isLt n.isLt (by decide : 1 < 2) s.isLt i.isLt (by decide : 0 < 2) d.isLt (by omega)
  clear hw
  exact ⟨by simpa using e0, lt, by simp [decode32, decodeVectorHigh, decodeMajor44, e1, e4, e7, fld_eq (lo := 8) (n := 5) e2, fld_eq (lo := 13) (n := 1) e3, fld_eq (lo := 15) (n := 5) e5, fld_eq (lo := 20) (n := 5) e6, fld_eq (lo := 26) (n := 6) e8]⟩
theorem RoundTrip.vfoldSum (d : BitVec 6) (a : BitVec 6) (n : BitVec 1) (p : BitVec 5) : RoundTrip.Statement (.vfoldSum d a n p) := by
  refine roundTrip_of32 _ (fun w hw => ?_)
  change 139 + d.toNat * 67108864 + a.toNat * 1048576 + n.toNat * 8192 + p.toNat * 256 = w at hw
  obtain ⟨lt, e0, e1, e2, e3, e4, e5, e6⟩ := layout17 (w := w) (by decide : 1 < 2) (by decide : 69 < 128) p.isLt n.isLt (by decide : 0 < 64) a.isLt d.isLt (by omega)
  clear hw
  exact ⟨by simpa using e0, lt, by simp [decode32, decodeVectorHigh, decodeMajor45, e1, e4, fld_eq (lo := 8) (n := 5) e2, fld_eq (lo := 13) (n := 1) e3, fld_eq (lo := 20) (n := 6) e5, fld_eq (lo := 26) (n := 6) e6]⟩
theorem RoundTrip.vfoldMin (d : BitVec 6) (a : BitVec 6) (n : BitVec 1) (p : BitVec 5) : RoundTrip.Statement (.vfoldMin d a n p) := by
  refine roundTrip_of32 _ (fun w hw => ?_)
  change 16523 + d.toNat * 67108864 + a.toNat * 1048576 + n.toNat * 8192 + p.toNat * 256 = w at hw
  obtain ⟨lt, e0, e1, e2, e3, e4, e5, e6⟩ := layout17 (w := w) (by decide : 1 < 2) (by decide : 69 < 128) p.isLt n.isLt (by decide : 1 < 64) a.isLt d.isLt (by omega)
  clear hw
  exact ⟨by simpa using e0, lt, by simp [decode32, decodeVectorHigh, decodeMajor45, e1, e4, fld_eq (lo := 8) (n := 5) e2, fld_eq (lo := 13) (n := 1) e3, fld_eq (lo := 20) (n := 6) e5, fld_eq (lo := 26) (n := 6) e6]⟩
theorem RoundTrip.vfoldMax (d : BitVec 6) (a : BitVec 6) (n : BitVec 1) (p : BitVec 5) : RoundTrip.Statement (.vfoldMax d a n p) := by
  refine roundTrip_of32 _ (fun w hw => ?_)
  change 32907 + d.toNat * 67108864 + a.toNat * 1048576 + n.toNat * 8192 + p.toNat * 256 = w at hw
  obtain ⟨lt, e0, e1, e2, e3, e4, e5, e6⟩ := layout17 (w := w) (by decide : 1 < 2) (by decide : 69 < 128) p.isLt n.isLt (by decide : 2 < 64) a.isLt d.isLt (by omega)
  clear hw
  exact ⟨by simpa using e0, lt, by simp [decode32, decodeVectorHigh, decodeMajor45, e1, e4, fld_eq (lo := 8) (n := 5) e2, fld_eq (lo := 13) (n := 1) e3, fld_eq (lo := 20) (n := 6) e5, fld_eq (lo := 26) (n := 6) e6]⟩
theorem RoundTrip.vfoldAnd (d : BitVec 6) (a : BitVec 6) (n : BitVec 1) (p : BitVec 5) : RoundTrip.Statement (.vfoldAnd d a n p) := by
  refine roundTrip_of32 _ (fun w hw => ?_)
  change 49291 + d.toNat * 67108864 + a.toNat * 1048576 + n.toNat * 8192 + p.toNat * 256 = w at hw
  obtain ⟨lt, e0, e1, e2, e3, e4, e5, e6⟩ := layout17 (w := w) (by decide : 1 < 2) (by decide : 69 < 128) p.isLt n.isLt (by decide : 3 < 64) a.isLt d.isLt (by omega)
  clear hw
  exact ⟨by simpa using e0, lt, by simp [decode32, decodeVectorHigh, decodeMajor45, e1, e4, fld_eq (lo := 8) (n := 5) e2, fld_eq (lo := 13) (n := 1) e3, fld_eq (lo := 20) (n := 6) e5, fld_eq (lo := 26) (n := 6) e6]⟩
theorem RoundTrip.vfoldOr (d : BitVec 6) (a : BitVec 6) (n : BitVec 1) (p : BitVec 5) : RoundTrip.Statement (.vfoldOr d a n p) := by
  refine roundTrip_of32 _ (fun w hw => ?_)
  change 65675 + d.toNat * 67108864 + a.toNat * 1048576 + n.toNat * 8192 + p.toNat * 256 = w at hw
  obtain ⟨lt, e0, e1, e2, e3, e4, e5, e6⟩ := layout17 (w := w) (by decide : 1 < 2) (by decide : 69 < 128) p.isLt n.isLt (by decide : 4 < 64) a.isLt d.isLt (by omega)
  clear hw
  exact ⟨by simpa using e0, lt, by simp [decode32, decodeVectorHigh, decodeMajor45, e1, e4, fld_eq (lo := 8) (n := 5) e2, fld_eq (lo := 13) (n := 1) e3, fld_eq (lo := 20) (n := 6) e5, fld_eq (lo := 26) (n := 6) e6]⟩
theorem RoundTrip.vfoldXor (d : BitVec 6) (a : BitVec 6) (n : BitVec 1) (p : BitVec 5) : RoundTrip.Statement (.vfoldXor d a n p) := by
  refine roundTrip_of32 _ (fun w hw => ?_)
  change 82059 + d.toNat * 67108864 + a.toNat * 1048576 + n.toNat * 8192 + p.toNat * 256 = w at hw
  obtain ⟨lt, e0, e1, e2, e3, e4, e5, e6⟩ := layout17 (w := w) (by decide : 1 < 2) (by decide : 69 < 128) p.isLt n.isLt (by decide : 5 < 64) a.isLt d.isLt (by omega)
  clear hw
  exact ⟨by simpa using e0, lt, by simp [decode32, decodeVectorHigh, decodeMajor45, e1, e4, fld_eq (lo := 8) (n := 5) e2, fld_eq (lo := 13) (n := 1) e3, fld_eq (lo := 20) (n := 6) e5, fld_eq (lo := 26) (n := 6) e6]⟩
theorem RoundTrip.vfoldFsum (d : BitVec 6) (a : BitVec 6) (n : BitVec 1) (p : BitVec 5) : RoundTrip.Statement (.vfoldFsum d a n p) := by
  refine roundTrip_of32 _ (fun w hw => ?_)
  change 98443 + d.toNat * 67108864 + a.toNat * 1048576 + n.toNat * 8192 + p.toNat * 256 = w at hw
  obtain ⟨lt, e0, e1, e2, e3, e4, e5, e6⟩ := layout17 (w := w) (by decide : 1 < 2) (by decide : 69 < 128) p.isLt n.isLt (by decide : 6 < 64) a.isLt d.isLt (by omega)
  clear hw
  exact ⟨by simpa using e0, lt, by simp [decode32, decodeVectorHigh, decodeMajor45, e1, e4, fld_eq (lo := 8) (n := 5) e2, fld_eq (lo := 13) (n := 1) e3, fld_eq (lo := 20) (n := 6) e5, fld_eq (lo := 26) (n := 6) e6]⟩
theorem RoundTrip.vfoldFmin (d : BitVec 6) (a : BitVec 6) (n : BitVec 1) (p : BitVec 5) : RoundTrip.Statement (.vfoldFmin d a n p) := by
  refine roundTrip_of32 _ (fun w hw => ?_)
  change 114827 + d.toNat * 67108864 + a.toNat * 1048576 + n.toNat * 8192 + p.toNat * 256 = w at hw
  obtain ⟨lt, e0, e1, e2, e3, e4, e5, e6⟩ := layout17 (w := w) (by decide : 1 < 2) (by decide : 69 < 128) p.isLt n.isLt (by decide : 7 < 64) a.isLt d.isLt (by omega)
  clear hw
  exact ⟨by simpa using e0, lt, by simp [decode32, decodeVectorHigh, decodeMajor45, e1, e4, fld_eq (lo := 8) (n := 5) e2, fld_eq (lo := 13) (n := 1) e3, fld_eq (lo := 20) (n := 6) e5, fld_eq (lo := 26) (n := 6) e6]⟩
theorem RoundTrip.vfoldFmax (d : BitVec 6) (a : BitVec 6) (n : BitVec 1) (p : BitVec 5) : RoundTrip.Statement (.vfoldFmax d a n p) := by
  refine roundTrip_of32 _ (fun w hw => ?_)
  change 131211 + d.toNat * 67108864 + a.toNat * 1048576 + n.toNat * 8192 + p.toNat * 256 = w at hw
  obtain ⟨lt, e0, e1, e2, e3, e4, e5, e6⟩ := layout17 (w := w) (by decide : 1 < 2) (by decide : 69 < 128) p.isLt n.isLt (by decide : 8 < 64) a.isLt d.isLt (by omega)
  clear hw
  exact ⟨by simpa using e0, lt, by simp [decode32, decodeVectorHigh, decodeMajor45, e1, e4, fld_eq (lo := 8) (n := 5) e2, fld_eq (lo := 13) (n := 1) e3, fld_eq (lo := 20) (n := 6) e5, fld_eq (lo := 26) (n := 6) e6]⟩
theorem RoundTrip.vidx (d : BitVec 6) (n : BitVec 1) (p : BitVec 5) : RoundTrip.Statement (.vidx d n p) := by
  refine roundTrip_of32 _ (fun w hw => ?_)
  change 141 + d.toNat * 67108864 + n.toNat * 8192 + p.toNat * 256 = w at hw
  obtain ⟨lt, e0, e1, e2, e3, e4, e5⟩ := layout22 (w := w) (by decide : 1 < 2) (by decide : 70 < 128) p.isLt n.isLt (by decide : 0 < 4096) d.isLt (by omega)
  clear hw
  exact ⟨by simpa using e0, lt, by simp [decode32, decodeVectorHigh, decodeMajor46, e1, e4, fld_eq (lo := 8) (n := 5) e2, fld_eq (lo := 13) (n := 1) e3, fld_eq (lo := 26) (n := 6) e5]⟩
theorem RoundTrip.vrand (d : BitVec 6) (n : BitVec 1) (p : BitVec 5) : RoundTrip.Statement (.vrand d n p) := by
  refine roundTrip_of32 _ (fun w hw => ?_)
  change 143 + d.toNat * 67108864 + n.toNat * 8192 + p.toNat * 256 = w at hw
  obtain ⟨lt, e0, e1, e2, e3, e4, e5⟩ := layout22 (w := w) (by decide : 1 < 2) (by decide : 71 < 128) p.isLt n.isLt (by decide : 0 < 4096) d.isLt (by omega)
  clear hw
  exact ⟨by simpa using e0, lt, by simp [decode32, decodeVectorHigh, decodeMajor47, e1, e4, fld_eq (lo := 8) (n := 5) e2, fld_eq (lo := 13) (n := 1) e3, fld_eq (lo := 26) (n := 6) e5]⟩
theorem RoundTrip.vramp (d : BitVec 6) (s : BitVec 5) (n : BitVec 1) (p : BitVec 5) : RoundTrip.Statement (.vramp d s n p) := by
  refine roundTrip_of32 _ (fun w hw => ?_)
  change 145 + d.toNat * 67108864 + s.toNat * 32768 + n.toNat * 8192 + p.toNat * 256 = w at hw
  obtain ⟨lt, e0, e1, e2, e3, e4, e5, e6, e7⟩ := layout19 (w := w) (by decide : 1 < 2) (by decide : 72 < 128) p.isLt n.isLt (by decide : 0 < 2) s.isLt (by decide : 0 < 64) d.isLt (by omega)
  clear hw
  exact ⟨by simpa using e0, lt, by simp [decode32, decodeVectorHigh, decodeMajor48, e1, e4, e6, fld_eq (lo := 8) (n := 5) e2, fld_eq (lo := 13) (n := 1) e3, fld_eq (lo := 15) (n := 5) e5, fld_eq (lo := 26) (n := 6) e7]⟩
theorem RoundTrip.vrampC (d : BitVec 6) (s : BitVec 5) (n : BitVec 1) (p : BitVec 5) : RoundTrip.Statement (.vrampC d s n p) := by
  refine roundTrip_of32 _ (fun w hw => ?_)
  change 1048721 + d.toNat * 67108864 + s.toNat * 32768 + n.toNat * 8192 + p.toNat * 256 = w at hw
  obtain ⟨lt, e0, e1, e2, e3, e4, e5, e6, e7⟩ := layout19 (w := w) (by decide : 1 < 2) (by decide : 72 < 128) p.isLt n.isLt (by decide : 0 < 2) s.isLt (by decide : 1 < 64) d.isLt (by omega)
  clear hw
  exact ⟨by simpa using e0, lt, by simp [decode32, decodeVectorHigh, decodeMajor48, e1, e4, e6, fld_eq (lo := 8) (n := 5) e2, fld_eq (lo := 13) (n := 1) e3, fld_eq (lo := 15) (n := 5) e5, fld_eq (lo := 26) (n := 6) e7]⟩
theorem RoundTrip.vrampW (d : BitVec 6) (wl : BitVec 5) (n : BitVec 1) (p : BitVec 5) : RoundTrip.Statement (.vrampW d wl n p) := by
  refine roundTrip_of32 _ (fun w hw => ?_)
  change 16529 + d.toNat * 67108864 + wl.toNat * 32768 + n.toNat * 8192 + p.toNat * 256 = w at hw
  obtain ⟨lt, e0, e1, e2, e3, e4, e5, e6, e7⟩ := layout19 (w := w) (by decide : 1 < 2) (by decide : 72 < 128) p.isLt n.isLt (by decide : 1 < 2) wl.isLt (by decide : 0 < 64) d.isLt (by omega)
  clear hw
  exact ⟨by simpa using e0, lt, by simp [decode32, decodeVectorHigh, decodeMajor48, e1, e4, e6, fld_eq (lo := 8) (n := 5) e2, fld_eq (lo := 13) (n := 1) e3, fld_eq (lo := 15) (n := 5) e5, fld_eq (lo := 26) (n := 6) e7]⟩
theorem RoundTrip.vrampCW (d : BitVec 6) (wl : BitVec 5) (n : BitVec 1) (p : BitVec 5) : RoundTrip.Statement (.vrampCW d wl n p) := by
  refine roundTrip_of32 _ (fun w hw => ?_)
  change 1065105 + d.toNat * 67108864 + wl.toNat * 32768 + n.toNat * 8192 + p.toNat * 256 = w at hw
  obtain ⟨lt, e0, e1, e2, e3, e4, e5, e6, e7⟩ := layout19 (w := w) (by decide : 1 < 2) (by decide : 72 < 128) p.isLt n.isLt (by decide : 1 < 2) wl.isLt (by decide : 1 < 64) d.isLt (by omega)
  clear hw
  exact ⟨by simpa using e0, lt, by simp [decode32, decodeVectorHigh, decodeMajor48, e1, e4, e6, fld_eq (lo := 8) (n := 5) e2, fld_eq (lo := 13) (n := 1) e3, fld_eq (lo := 15) (n := 5) e5, fld_eq (lo := 26) (n := 6) e7]⟩
theorem RoundTrip.vbsc (d : BitVec 6) (a : BitVec 6) (b : BitVec 6) (n : BitVec 1) (p : BitVec 5) : RoundTrip.Statement (.vbsc d a b n p) := by
  refine roundTrip_of32 _ (fun w hw => ?_)
  change 147 + d.toNat * 67108864 + a.toNat * 1048576 + b.toNat * 16384 + n.toNat * 8192 + p.toNat * 256 = w at hw
  obtain ⟨lt, e0, e1, e2, e3, e4, e5, e6⟩ := layout17 (w := w) (by decide : 1 < 2) (by decide : 73 < 128) p.isLt n.isLt b.isLt a.isLt d.isLt (by omega)
  clear hw
  exact ⟨by simpa using e0, lt, by simp [decode32, decodeVectorHigh, decodeMajor49, e1, fld_eq (lo := 8) (n := 5) e2, fld_eq (lo := 13) (n := 1) e3, fld_eq (lo := 14) (n := 6) e4, fld_eq (lo := 20) (n := 6) e5, fld_eq (lo := 26) (n := 6) e6]⟩
theorem RoundTrip.vfscl (d : BitVec 6) (a : BitVec 6) (s : BitVec 5) (n : BitVec 1) (p : BitVec 5) : RoundTrip.Statement (.vfscl d a s n p) := by
  refine roundTrip_of32 _ (fun w hw => ?_)
  change 149 + d.toNat * 67108864 + a.toNat * 1048576 + s.toNat * 32768 + n.toNat * 8192 + p.toNat * 256 = w at hw
  obtain ⟨lt, e0, e1, e2, e3, e4, e5, e6, e7⟩ := layout19 (w := w) (by decide : 1 < 2) (by decide : 74 < 128) p.isLt n.isLt (by decide : 0 < 2) s.isLt a.isLt d.isLt (by omega)
  clear hw
  exact ⟨by simpa using e0, lt, by simp [decode32, decodeVectorHigh, decodeMajor4a, e1, e4, fld_eq (lo := 8) (n := 5) e2, fld_eq (lo := 13) (n := 1) e3, fld_eq (lo := 15) (n := 5) e5, fld_eq (lo := 20) (n := 6) e6, fld_eq (lo := 26) (n := 6) e7]⟩
theorem RoundTrip.vaddVs (d : BitVec 6) (a : BitVec 6) (s : BitVec 5) (o : BitVec 1) (n : BitVec 1) (p : BitVec 5) : RoundTrip.Statement (.vaddVs d a s o n p) := by
  refine roundTrip_of32 _ (fun w hw => ?_)
  change 151 + d.toNat * 67108864 + a.toNat * 1048576 + s.toNat * 32768 + o.toNat * 16384 + n.toNat * 8192 + p.toNat * 256 = w at hw
  obtain ⟨lt, e0, e1, e2, e3, e4, e5, e6, e7⟩ := layout19 (w := w) (by decide : 1 < 2) (by decide : 75 < 128) p.isLt n.isLt o.isLt s.isLt a.isLt d.isLt (by omega)
  clear hw
  exact ⟨by simpa using e0, lt, by simp [decode32, decodeVectorHigh, decodeMajor4b, e1, fld_eq (lo := 8) (n := 5) e2, fld_eq (lo := 13) (n := 1) e3, fld_eq (lo := 14) (n := 1) e4, fld_eq (lo := 15) (n := 5) e5, fld_eq (lo := 20) (n := 6) e6, fld_eq (lo := 26) (n := 6) e7]⟩
theorem RoundTrip.vmulVs (d : BitVec 6) (a : BitVec 6) (s : BitVec 5) (o : BitVec 1) (n : BitVec 1) (p : BitVec 5) : RoundTrip.Statement (.vmulVs d a s o n p) := by
  refine roundTrip_of32 _ (fun w hw => ?_)
  change 153 + d.toNat * 67108864 + a.toNat * 1048576 + s.toNat * 32768 + o.toNat * 16384 + n.toNat * 8192 + p.toNat * 256 = w at hw
  obtain ⟨lt, e0, e1, e2, e3, e4, e5, e6, e7⟩ := layout19 (w := w) (by decide : 1 < 2) (by decide : 76 < 128) p.isLt n.isLt o.isLt s.isLt a.isLt d.isLt (by omega)
  clear hw
  exact ⟨by simpa using e0, lt, by simp [decode32, decodeVectorHigh, decodeMajor4c, e1, fld_eq (lo := 8) (n := 5) e2, fld_eq (lo := 13) (n := 1) e3, fld_eq (lo := 14) (n := 1) e4, fld_eq (lo := 15) (n := 5) e5, fld_eq (lo := 20) (n := 6) e6, fld_eq (lo := 26) (n := 6) e7]⟩
theorem RoundTrip.vfaddVs (d : BitVec 6) (a : BitVec 6) (s : BitVec 5) (o : BitVec 1) (n : BitVec 1) (p : BitVec 5) : RoundTrip.Statement (.vfaddVs d a s o n p) := by
  refine roundTrip_of32 _ (fun w hw => ?_)
  change 155 + d.toNat * 67108864 + a.toNat * 1048576 + s.toNat * 32768 + o.toNat * 16384 + n.toNat * 8192 + p.toNat * 256 = w at hw
  obtain ⟨lt, e0, e1, e2, e3, e4, e5, e6, e7⟩ := layout19 (w := w) (by decide : 1 < 2) (by decide : 77 < 128) p.isLt n.isLt o.isLt s.isLt a.isLt d.isLt (by omega)
  clear hw
  exact ⟨by simpa using e0, lt, by simp [decode32, decodeVectorHigh, decodeMajor4d, e1, fld_eq (lo := 8) (n := 5) e2, fld_eq (lo := 13) (n := 1) e3, fld_eq (lo := 14) (n := 1) e4, fld_eq (lo := 15) (n := 5) e5, fld_eq (lo := 20) (n := 6) e6, fld_eq (lo := 26) (n := 6) e7]⟩
theorem RoundTrip.vfmulVs (d : BitVec 6) (a : BitVec 6) (s : BitVec 5) (o : BitVec 1) (n : BitVec 1) (p : BitVec 5) : RoundTrip.Statement (.vfmulVs d a s o n p) := by
  refine roundTrip_of32 _ (fun w hw => ?_)
  change 157 + d.toNat * 67108864 + a.toNat * 1048576 + s.toNat * 32768 + o.toNat * 16384 + n.toNat * 8192 + p.toNat * 256 = w at hw
  obtain ⟨lt, e0, e1, e2, e3, e4, e5, e6, e7⟩ := layout19 (w := w) (by decide : 1 < 2) (by decide : 78 < 128) p.isLt n.isLt o.isLt s.isLt a.isLt d.isLt (by omega)
  clear hw
  exact ⟨by simpa using e0, lt, by simp [decode32, decodeVectorHigh, decodeMajor4e, e1, fld_eq (lo := 8) (n := 5) e2, fld_eq (lo := 13) (n := 1) e3, fld_eq (lo := 14) (n := 1) e4, fld_eq (lo := 15) (n := 5) e5, fld_eq (lo := 20) (n := 6) e6, fld_eq (lo := 26) (n := 6) e7]⟩
theorem RoundTrip.vfmaVs (d : BitVec 6) (a : BitVec 6) (s : BitVec 5) (o : BitVec 1) (n : BitVec 1) (p : BitVec 5) : RoundTrip.Statement (.vfmaVs d a s o n p) := by
  refine roundTrip_of32 _ (fun w hw => ?_)
  change 159 + d.toNat * 67108864 + a.toNat * 1048576 + s.toNat * 32768 + o.toNat * 16384 + n.toNat * 8192 + p.toNat * 256 = w at hw
  obtain ⟨lt, e0, e1, e2, e3, e4, e5, e6, e7⟩ := layout19 (w := w) (by decide : 1 < 2) (by decide : 79 < 128) p.isLt n.isLt o.isLt s.isLt a.isLt d.isLt (by omega)
  clear hw
  exact ⟨by simpa using e0, lt, by simp [decode32, decodeVectorHigh, decodeMajor4f, e1, fld_eq (lo := 8) (n := 5) e2, fld_eq (lo := 13) (n := 1) e3, fld_eq (lo := 14) (n := 1) e4, fld_eq (lo := 15) (n := 5) e5, fld_eq (lo := 20) (n := 6) e6, fld_eq (lo := 26) (n := 6) e7]⟩
theorem RoundTrip.pand (d : BitVec 5) (a : BitVec 5) (b : BitVec 5) : RoundTrip.Statement (.pand d a b) := by
  refine roundTrip_of32 _ (fun w hw => ?_)
  change 161 + d.toNat * 134217728 + a.toNat * 4194304 + b.toNat * 131072 = w at hw
  obtain ⟨lt, e0, e1, e2, e3, e4, e5⟩ := layout0 (w := w) (by decide : 1 < 2) (by decide : 80 < 128) (by decide : 0 < 512) b.isLt a.isLt d.isLt (by omega)
  clear hw
  exact ⟨by simpa using e0, lt, by simp [decode32, decodeVectorHigh, decodeMajor50, e1, e2, fld_eq (lo := 17) (n := 5) e3, fld_eq (lo := 22) (n := 5) e4, fld_eq (lo := 27) (n := 5) e5]⟩
theorem RoundTrip.por (d : BitVec 5) (a : BitVec 5) (b : BitVec 5) : RoundTrip.Statement (.por d a b) := by
  refine roundTrip_of32 _ (fun w hw => ?_)
  change 417 + d.toNat * 134217728 + a.toNat * 4194304 + b.toNat * 131072 = w at hw
  obtain ⟨lt, e0, e1, e2, e3, e4, e5⟩ := layout0 (w := w) (by decide : 1 < 2) (by decide : 80 < 128) (by decide : 1 < 512) b.isLt a.isLt d.isLt (by omega)
  clear hw
  exact ⟨by simpa using e0, lt, by simp [decode32, decodeVectorHigh, decodeMajor50, e1, e2, fld_eq (lo := 17) (n := 5) e3, fld_eq (lo := 22) (n := 5) e4, fld_eq (lo := 27) (n := 5) e5]⟩
theorem RoundTrip.pxor (d : BitVec 5) (a : BitVec 5) (b : BitVec 5) : RoundTrip.Statement (.pxor d a b) := by
  refine roundTrip_of32 _ (fun w hw => ?_)
  change 673 + d.toNat * 134217728 + a.toNat * 4194304 + b.toNat * 131072 = w at hw
  obtain ⟨lt, e0, e1, e2, e3, e4, e5⟩ := layout0 (w := w) (by decide : 1 < 2) (by decide : 80 < 128) (by decide : 2 < 512) b.isLt a.isLt d.isLt (by omega)
  clear hw
  exact ⟨by simpa using e0, lt, by simp [decode32, decodeVectorHigh, decodeMajor50, e1, e2, fld_eq (lo := 17) (n := 5) e3, fld_eq (lo := 22) (n := 5) e4, fld_eq (lo := 27) (n := 5) e5]⟩
theorem RoundTrip.pandn (d : BitVec 5) (a : BitVec 5) (b : BitVec 5) : RoundTrip.Statement (.pandn d a b) := by
  refine roundTrip_of32 _ (fun w hw => ?_)
  change 929 + d.toNat * 134217728 + a.toNat * 4194304 + b.toNat * 131072 = w at hw
  obtain ⟨lt, e0, e1, e2, e3, e4, e5⟩ := layout0 (w := w) (by decide : 1 < 2) (by decide : 80 < 128) (by decide : 3 < 512) b.isLt a.isLt d.isLt (by omega)
  clear hw
  exact ⟨by simpa using e0, lt, by simp [decode32, decodeVectorHigh, decodeMajor50, e1, e2, fld_eq (lo := 17) (n := 5) e3, fld_eq (lo := 22) (n := 5) e4, fld_eq (lo := 27) (n := 5) e5]⟩
theorem RoundTrip.pnot (d : BitVec 5) (a : BitVec 5) : RoundTrip.Statement (.pnot d a) := by
  refine roundTrip_of32 _ (fun w hw => ?_)
  change 1185 + d.toNat * 134217728 + a.toNat * 4194304 = w at hw
  obtain ⟨lt, e0, e1, e2, e3, e4⟩ := layout1 (w := w) (by decide : 1 < 2) (by decide : 80 < 128) (by decide : 4 < 16384) a.isLt d.isLt (by omega)
  have k0 : w / 256 % 512 = 4 := by clear lt e0 e1 e2 e3 e4; omega
  clear hw
  exact ⟨by simpa using e0, lt, by simp [decode32, decodeVectorHigh, decodeMajor50, e1, e2, k0, fld_eq (lo := 22) (n := 5) e3, fld_eq (lo := 27) (n := 5) e4]⟩
theorem RoundTrip.pmov (d : BitVec 5) (a : BitVec 5) : RoundTrip.Statement (.pmov d a) := by
  refine roundTrip_of32 _ (fun w hw => ?_)
  change 1441 + d.toNat * 134217728 + a.toNat * 4194304 = w at hw
  obtain ⟨lt, e0, e1, e2, e3, e4⟩ := layout1 (w := w) (by decide : 1 < 2) (by decide : 80 < 128) (by decide : 5 < 16384) a.isLt d.isLt (by omega)
  have k0 : w / 256 % 512 = 5 := by clear lt e0 e1 e2 e3 e4; omega
  clear hw
  exact ⟨by simpa using e0, lt, by simp [decode32, decodeVectorHigh, decodeMajor50, e1, e2, k0, fld_eq (lo := 22) (n := 5) e3, fld_eq (lo := 27) (n := 5) e4]⟩
theorem RoundTrip.psetn (d : BitVec 5) (a : BitVec 5) : RoundTrip.Statement (.psetn d a) := by
  refine roundTrip_of32 _ (fun w hw => ?_)
  change 1697 + d.toNat * 134217728 + a.toNat * 4194304 = w at hw
  obtain ⟨lt, e0, e1, e2, e3, e4⟩ := layout1 (w := w) (by decide : 1 < 2) (by decide : 80 < 128) (by decide : 6 < 16384) a.isLt d.isLt (by omega)
  have k0 : w / 256 % 512 = 6 := by clear lt e0 e1 e2 e3 e4; omega
  clear hw
  exact ⟨by simpa using e0, lt, by simp [decode32, decodeVectorHigh, decodeMajor50, e1, e2, k0, fld_eq (lo := 22) (n := 5) e3, fld_eq (lo := 27) (n := 5) e4]⟩
theorem RoundTrip.pclr (d : BitVec 5) : RoundTrip.Statement (.pclr d) := by
  refine roundTrip_of32 _ (fun w hw => ?_)
  change 1953 + d.toNat * 134217728 = w at hw
  obtain ⟨lt, e0, e1, e2, e3⟩ := layout3 (w := w) (by decide : 1 < 2) (by decide : 80 < 128) (by decide : 7 < 524288) d.isLt (by omega)
  have k0 : w / 256 % 512 = 7 := by clear lt e0 e1 e2 e3; omega
  have k1 : w / 256 % 16384 = 7 := by clear lt e0 e1 e2 e3; omega
  clear hw
  exact ⟨by simpa using e0, lt, by simp [decode32, decodeVectorHigh, decodeMajor50, e1, e2, k0, k1, fld_eq (lo := 27) (n := 5) e3]⟩
theorem RoundTrip.pfirst (d : BitVec 5) (a : BitVec 5) : RoundTrip.Statement (.pfirst d a) := by
  refine roundTrip_of32 _ (fun w hw => ?_)
  change 2209 + d.toNat * 134217728 + a.toNat * 4194304 = w at hw
  obtain ⟨lt, e0, e1, e2, e3, e4⟩ := layout1 (w := w) (by decide : 1 < 2) (by decide : 80 < 128) (by decide : 8 < 16384) a.isLt d.isLt (by omega)
  have k0 : w / 256 % 512 = 8 := by clear lt e0 e1 e2 e3 e4; omega
  have k1 : w / 256 % 524288 ≠ 7 := by clear lt e0 e1 e2 e3 e4; omega
  clear hw
  exact ⟨by simpa using e0, lt, by simp [decode32, decodeVectorHigh, decodeMajor50, e1, e2, k0, k1, fld_eq (lo := 22) (n := 5) e3, fld_eq (lo := 27) (n := 5) e4]⟩
theorem RoundTrip.pcnt (d : BitVec 5) (a : BitVec 5) : RoundTrip.Statement (.pcnt d a) := by
  refine roundTrip_of32 _ (fun w hw => ?_)
  change 2465 + d.toNat * 134217728 + a.toNat * 4194304 = w at hw
  obtain ⟨lt, e0, e1, e2, e3, e4⟩ := layout1 (w := w) (by decide : 1 < 2) (by decide : 80 < 128) (by decide : 9 < 16384) a.isLt d.isLt (by omega)
  have k0 : w / 256 % 512 = 9 := by clear lt e0 e1 e2 e3 e4; omega
  have k1 : w / 256 % 524288 ≠ 7 := by clear lt e0 e1 e2 e3 e4; omega
  clear hw
  exact ⟨by simpa using e0, lt, by simp [decode32, decodeVectorHigh, decodeMajor50, e1, e2, k0, k1, fld_eq (lo := 22) (n := 5) e3, fld_eq (lo := 27) (n := 5) e4]⟩
theorem RoundTrip.mma (c : BitVec 6) (a : BitVec 6) (b : BitVec 6) (f : BitVec 4) : RoundTrip.Statement (.mma c a b f) := by
  refine roundTrip_of32 _ (fun w hw => ?_)
  change 163 + c.toNat * 67108864 + a.toNat * 1048576 + b.toNat * 16384 + f.toNat * 1024 = w at hw
  obtain ⟨lt, e0, e1, e2, e3, e4, e5, e6⟩ := layout23 (w := w) (by decide : 1 < 2) (by decide : 81 < 128) (by decide : 0 < 4) f.isLt b.isLt a.isLt c.isLt (by omega)
  clear hw
  exact ⟨by simpa using e0, lt, by simp [decode32, decodeVectorHigh, decodeMajor51, e1, e2, fld_eq (lo := 10) (n := 4) e3, fld_eq (lo := 14) (n := 6) e4, fld_eq (lo := 20) (n := 6) e5, fld_eq (lo := 26) (n := 6) e6]⟩
theorem RoundTrip.mzero (c : BitVec 6) : RoundTrip.Statement (.mzero c) := by
  refine roundTrip_of32 _ (fun w hw => ?_)
  change 167 + c.toNat * 67108864 = w at hw
  obtain ⟨lt, e0, e1, e2, e3⟩ := layout24 (w := w) (by decide : 1 < 2) (by decide : 83 < 128) (by decide : 0 < 262144) c.isLt (by omega)
  clear hw
  exact ⟨by simpa using e0, lt, by simp [decode32, decodeVectorHigh, decodeMajor53, e1, e2, fld_eq (lo := 26) (n := 6) e3]⟩
theorem RoundTrip.mepi (c : BitVec 6) (a : BitVec 6) (b : BitVec 6) (f : BitVec 4) : RoundTrip.Statement (.mepi c a b f) := by
  refine roundTrip_of32 _ (fun w hw => ?_)
  change 169 + c.toNat * 67108864 + a.toNat * 1048576 + b.toNat * 16384 + f.toNat * 1024 = w at hw
  obtain ⟨lt, e0, e1, e2, e3, e4, e5, e6⟩ := layout23 (w := w) (by decide : 1 < 2) (by decide : 84 < 128) (by decide : 0 < 4) f.isLt b.isLt a.isLt c.isLt (by omega)
  clear hw
  exact ⟨by simpa using e0, lt, by simp [decode32, decodeVectorHigh, decodeMajor54, e1, e2, fld_eq (lo := 10) (n := 4) e3, fld_eq (lo := 14) (n := 6) e4, fld_eq (lo := 20) (n := 6) e5, fld_eq (lo := 26) (n := 6) e6]⟩
theorem RoundTrip.mcks (c : BitVec 6) (a : BitVec 6) (f : BitVec 4) : RoundTrip.Statement (.mcks c a f) := by
  refine roundTrip_of32 _ (fun w hw => ?_)
  change 171 + c.toNat * 67108864 + a.toNat * 1048576 + f.toNat * 1024 = w at hw
  obtain ⟨lt, e0, e1, e2, e3, e4, e5, e6⟩ := layout23 (w := w) (by decide : 1 < 2) (by decide : 85 < 128) (by decide : 0 < 4) f.isLt (by decide : 0 < 64) a.isLt c.isLt (by omega)
  clear hw
  exact ⟨by simpa using e0, lt, by simp [decode32, decodeVectorHigh, decodeMajor55, e1, e2, e4, fld_eq (lo := 10) (n := 4) e3, fld_eq (lo := 20) (n := 6) e5, fld_eq (lo := 26) (n := 6) e6]⟩
theorem RoundTrip.ld (d : BitVec 5) (b : BitVec 5) (z : BitVec 2) (o : BitVec 12) : RoundTrip.Statement (.ld d b z o) := by
  refine roundTrip_of32 _ (fun w hw => ?_)
  change 177 + d.toNat * 134217728 + b.toNat * 4194304 + z.toNat * 1048576 + o.toNat * 256 = w at hw
  obtain ⟨lt, e0, e1, e2, e3, e4, e5⟩ := layout25 (w := w) (by decide : 1 < 2) (by decide : 88 < 128) o.isLt z.isLt b.isLt d.isLt (by omega)
  clear hw
  exact ⟨by simpa using e0, lt, by simp [decode32, decodeMemory, decodeMajor58, e1, fld_eq (lo := 8) (n := 12) e2, fld_eq (lo := 20) (n := 2) e3, fld_eq (lo := 22) (n := 5) e4, fld_eq (lo := 27) (n := 5) e5]⟩
theorem RoundTrip.ldN (d : BitVec 5) (b : BitVec 5) (z : BitVec 2) (o : BitVec 12) : RoundTrip.Statement (.ldN d b z o) := by
  refine roundTrip_of32 _ (fun w hw => ?_)
  change 179 + d.toNat * 134217728 + b.toNat * 4194304 + z.toNat * 1048576 + o.toNat * 256 = w at hw
  obtain ⟨lt, e0, e1, e2, e3, e4, e5⟩ := layout25 (w := w) (by decide : 1 < 2) (by decide : 89 < 128) o.isLt z.isLt b.isLt d.isLt (by omega)
  clear hw
  exact ⟨by simpa using e0, lt, by simp [decode32, decodeMemory, decodeMajor59, e1, fld_eq (lo := 8) (n := 12) e2, fld_eq (lo := 20) (n := 2) e3, fld_eq (lo := 22) (n := 5) e4, fld_eq (lo := 27) (n := 5) e5]⟩
theorem RoundTrip.st (d : BitVec 5) (b : BitVec 5) (z : BitVec 2) (o : BitVec 12) : RoundTrip.Statement (.st d b z o) := by
  refine roundTrip_of32 _ (fun w hw => ?_)
  change 181 + d.toNat * 134217728 + b.toNat * 4194304 + z.toNat * 1048576 + o.toNat * 256 = w at hw
  obtain ⟨lt, e0, e1, e2, e3, e4, e5⟩ := layout25 (w := w) (by decide : 1 < 2) (by decide : 90 < 128) o.isLt z.isLt b.isLt d.isLt (by omega)
  clear hw
  exact ⟨by simpa using e0, lt, by simp [decode32, decodeMemory, decodeMajor5a, e1, fld_eq (lo := 8) (n := 12) e2, fld_eq (lo := 20) (n := 2) e3, fld_eq (lo := 22) (n := 5) e4, fld_eq (lo := 27) (n := 5) e5]⟩
theorem RoundTrip.lda (d : BitVec 5) (b : BitVec 5) (z : BitVec 2) (t : BitVec 5) (o : BitVec 7) : RoundTrip.Statement (.lda d b z t o) := by
  refine roundTrip_of32 _ (fun w hw => ?_)
  change 183 + d.toNat * 134217728 + b.toNat * 4194304 + z.toNat * 1048576 + t.toNat * 32768 + o.toNat * 256 = w at hw
  obtain ⟨lt, e0, e1, e2, e3, e4, e5, e6⟩ := layout26 (w := w) (by decide : 1 < 2) (by decide : 91 < 128) o.isLt t.isLt z.isLt b.isLt d.isLt (by omega)
  clear hw
  exact ⟨by simpa using e0, lt, by simp [decode32, decodeMemory, decodeMajor5b, e1, fld_eq (lo := 8) (n := 7) e2, fld_eq (lo := 15) (n := 5) e3, fld_eq (lo := 20) (n := 2) e4, fld_eq (lo := 22) (n := 5) e5, fld_eq (lo := 27) (n := 5) e6]⟩
theorem RoundTrip.ldp (d : BitVec 5) (a : BitVec 5) (b : BitVec 5) (x : BitVec 1) (z : BitVec 2) : RoundTrip.Statement (.ldp d a b x z) := by
  refine roundTrip_of32 _ (fun w hw => ?_)
  change 185 + d.toNat * 134217728 + a.toNat * 4194304 + b.toNat * 131072 + x.toNat * 32768 + z.toNat * 8192 = w at hw
  obtain ⟨lt, e0, e1, e2, e3, e4, e5, e6, e7, e8⟩ := layout27 (w := w) (by decide : 1 < 2) (by decide : 92 < 128) (by decide : 0 < 32) z.isLt x.isLt (by decide : 0 < 2) b.isLt a.isLt d.isLt (by omega)
  clear hw
  exact ⟨by simpa using e0, lt, by simp [decode32, decodeMemory, decodeMajor5c, e1, e2, e5, fld_eq (lo := 13) (n := 2) e3, fld_eq (lo := 15) (n := 1) e4, fld_eq (lo := 17) (n := 5) e6, fld_eq (lo := 22) (n := 5) e7, fld_eq (lo := 27) (n := 5) e8]⟩
theorem RoundTrip.stp (d : BitVec 5) (a : BitVec 5) (b : BitVec 5) (z : BitVec 2) : RoundTrip.Statement (.stp d a b z) := by
  refine roundTrip_of32 _ (fun w hw => ?_)
  change 441 + d.toNat * 134217728 + a.toNat * 4194304 + b.toNat * 131072 + z.toNat * 8192 = w at hw
  obtain ⟨lt, e0, e1, e2, e3, e4, e5, e6, e7⟩ := layout28 (w := w) (by decide : 1 < 2) (by decide : 92 < 128) (by decide : 1 < 32) z.isLt (by decide : 0 < 4) b.isLt a.isLt d.isLt (by omega)
  have k0 : w / 65536 % 2 = 0 := by clear lt e0 e1 e2 e3 e4 e5 e6 e7; omega
  clear hw
  exact ⟨by simpa using e0, lt, by simp [decode32, decodeMemory, decodeMajor5c, e1, e2, e4, k0, fld_eq (lo := 13) (n := 2) e3, fld_eq (lo := 17) (n := 5) e5, fld_eq (lo := 22) (n := 5) e6, fld_eq (lo := 27) (n := 5) e7]⟩
theorem RoundTrip.ldpC (d : BitVec 5) (a : BitVec 5) (b : BitVec 5) : RoundTrip.Statement (.ldpC d a b) := by
  refine roundTrip_of32 _ (fun w hw => ?_)
  change 25273 + d.toNat * 134217728 + a.toNat * 4194304 + b.toNat * 131072 = w at hw
  obtain ⟨lt, e0, e1, e2, e3, e4, e5⟩ := layout0 (w := w) (by decide : 1 < 2) (by decide : 92 < 128) (by decide : 98 < 512) b.isLt a.isLt d.isLt (by omega)
  have k0 : w / 256 % 32 = 2 := by clear lt e0 e1 e2 e3 e4 e5; omega
  have k1 : w / 32768 % 4 = 0 := by clear lt e0 e1 e2 e3 e4 e5; omega
  have k2 : w / 65536 % 2 = 0 := by clear lt e0 e1 e2 e3 e4 e5; omega
  clear hw
  exact ⟨by simpa using e0, lt, by simp [decode32, decodeMemory, decodeMajor5c, e1, e2, k0, k1, k2, fld_eq (lo := 17) (n := 5) e3, fld_eq (lo := 22) (n := 5) e4, fld_eq (lo := 27) (n := 5) e5]⟩
theorem RoundTrip.vld (d : BitVec 6) (b : BitVec 5) (n : BitVec 1) (p : BitVec 5) : RoundTrip.Statement (.vld d b n p) := by
  refine roundTrip_of32 _ (fun w hw => ?_)
  change 187 + d.toNat * 67108864 + b.toNat * 2097152 + n.toNat * 8192 + p.toNat * 256 = w at hw
  obtain ⟨lt, e0, e1, e2, e3, e4, e5, e6⟩ := layout29 (w := w) (by decide : 1 < 2) (by decide : 93 < 128) p.isLt n.isLt (by decide : 0 < 128) b.isLt d.isLt (by omega)
  clear hw
  exact ⟨by simpa using e0, lt, by simp [decode32, decodeMemory, decodeMajor5d, e1, e4, fld_eq (lo := 8) (n := 5) e2, fld_eq (lo := 13) (n := 1) e3, fld_eq (lo := 21) (n := 5) e5, fld_eq (lo := 26) (n := 6) e6]⟩
theorem RoundTrip.vldS (d : BitVec 6) (b : BitVec 5) (s : BitVec 5) (n : BitVec 1) (p : BitVec 5) : RoundTrip.Statement (.vldS d b s n p) := by
  refine roundTrip_of32 _ (fun w hw => ?_)
  change 16571 + d.toNat * 67108864 + b.toNat * 2097152 + s.toNat * 32768 + n.toNat * 8192 + p.toNat * 256 = w at hw
  obtain ⟨lt, e0, e1, e2, e3, e4, e5, e6, e7, e8⟩ := layout30 (w := w) (by decide : 1 < 2) (by decide : 93 < 128) p.isLt n.isLt (by decide : 1 < 2) s.isLt (by decide : 0 < 2) b.isLt d.isLt (by omega)
  have k0 : w / 16384 % 128 ≠ 0 := by clear lt e0 e1 e2 e3 e4 e5 e6 e7 e8; omega
  clear hw
  exact ⟨by simpa using e0, lt, by simp [decode32, decodeMemory, decodeMajor5d, e1, e4, e6, k0, fld_eq (lo := 8) (n := 5) e2, fld_eq (lo := 13) (n := 1) e3, fld_eq (lo := 15) (n := 5) e5, fld_eq (lo := 21) (n := 5) e7, fld_eq (lo := 26) (n := 6) e8]⟩
theorem RoundTrip.vst (d : BitVec 6) (b : BitVec 5) (n : BitVec 1) (p : BitVec 5) : RoundTrip.Statement (.vst d b n p) := by
  refine roundTrip_of32 _ (fun w hw => ?_)
  change 189 + d.toNat * 67108864 + b.toNat * 2097152 + n.toNat * 8192 + p.toNat * 256 = w at hw
  obtain ⟨lt, e0, e1, e2, e3, e4, e5, e6⟩ := layout29 (w := w) (by decide : 1 < 2) (by decide : 94 < 128) p.isLt n.isLt (by decide : 0 < 128) b.isLt d.isLt (by omega)
  clear hw
  exact ⟨by simpa using e0, lt, by simp [decode32, decodeMemory, decodeMajor5e, e1, e4, fld_eq (lo := 8) (n := 5) e2, fld_eq (lo := 13) (n := 1) e3, fld_eq (lo := 21) (n := 5) e5, fld_eq (lo := 26) (n := 6) e6]⟩
theorem RoundTrip.vstCk (d : BitVec 6) (b : BitVec 5) (r : BitVec 2) (n : BitVec 1) (p : BitVec 5) : RoundTrip.Statement (.vstCk d b r n p) := by
  refine roundTrip_of32 _ (fun w hw => ?_)
  change 1048765 + d.toNat * 67108864 + b.toNat * 2097152 + r.toNat * 32768 + n.toNat * 8192 + p.toNat * 256 = w at hw
  obtain ⟨lt, e0, e1, e2, e3, e4, e5, e6, e7, e8⟩ := layout31 (w := w) (by decide : 1 < 2) (by decide : 94 < 128) p.isLt n.isLt (by decide : 0 < 2) r.isLt (by decide : 8 < 16) b.isLt d.isLt (by omega)
  have k0 : w / 16384 % 128 ≠ 0 := by clear lt e0 e1 e2 e3 e4 e5 e6 e7 e8; omega
  clear hw
  exact ⟨by simpa using e0, lt, by simp [decode32, decodeMemory, decodeMajor5e, e1, e4, e6, k0, fld_eq (lo := 8) (n := 5) e2, fld_eq (lo := 13) (n := 1) e3, fld_eq (lo := 15) (n := 2) e5, fld_eq (lo := 21) (n := 5) e7, fld_eq (lo := 26) (n := 6) e8]⟩
theorem RoundTrip.vstS (d : BitVec 6) (b : BitVec 5) (s : BitVec 5) (n : BitVec 1) (p : BitVec 5) : RoundTrip.Statement (.vstS d b s n p) := by
  refine roundTrip_of32 _ (fun w hw => ?_)
  change 16573 + d.toNat * 67108864 + b.toNat * 2097152 + s.toNat * 32768 + n.toNat * 8192 + p.toNat * 256 = w at hw
  obtain ⟨lt, e0, e1, e2, e3, e4, e5, e6, e7, e8⟩ := layout30 (w := w) (by decide : 1 < 2) (by decide : 94 < 128) p.isLt n.isLt (by decide : 1 < 2) s.isLt (by decide : 0 < 2) b.isLt d.isLt (by omega)
  have k0 : w / 16384 % 128 ≠ 0 := by clear lt e0 e1 e2 e3 e4 e5 e6 e7 e8; omega
  clear hw
  exact ⟨by simpa using e0, lt, by simp [decode32, decodeMemory, decodeMajor5e, e1, e4, e6, k0, fld_eq (lo := 8) (n := 5) e2, fld_eq (lo := 13) (n := 1) e3, fld_eq (lo := 15) (n := 5) e5, fld_eq (lo := 21) (n := 5) e7, fld_eq (lo := 26) (n := 6) e8]⟩
theorem RoundTrip.vgld (d : BitVec 6) (b : BitVec 5) (i : BitVec 6) (n : BitVec 1) (p : BitVec 5) : RoundTrip.Statement (.vgld d b i n p) := by
  refine roundTrip_of32 _ (fun w hw => ?_)
  change 191 + d.toNat * 67108864 + b.toNat * 2097152 + i.toNat * 32768 + n.toNat * 8192 + p.toNat * 256 = w at hw
  obtain ⟨lt, e0, e1, e2, e3, e4, e5, e6, e7⟩ := layout32 (w := w) (by decide : 1 < 2) (by decide : 95 < 128) p.isLt n.isLt (by decide : 0 < 2) i.isLt b.isLt d.isLt (by omega)
  clear hw
  exact ⟨by simpa using e0, lt, by simp [decode32, decodeMemory, decodeMajor5f, e1, e4, fld_eq (lo := 8) (n := 5) e2, fld_eq (lo := 13) (n := 1) e3, fld_eq (lo := 15) (n := 6) e5, fld_eq (lo := 21) (n := 5) e6, fld_eq (lo := 26) (n := 6) e7]⟩
theorem RoundTrip.vgldX2 (d : BitVec 6) (b : BitVec 5) (i : BitVec 6) (n : BitVec 1) (p : BitVec 5) : RoundTrip.Statement (.vgldX2 d b i n p) := by
  refine roundTrip_of32 _ (fun w hw => ?_)
  change 16575 + d.toNat * 67108864 + b.toNat * 2097152 + i.toNat * 32768 + n.toNat * 8192 + p.toNat * 256 = w at hw
  obtain ⟨lt, e0, e1, e2, e3, e4, e5, e6, e7⟩ := layout32 (w := w) (by decide : 1 < 2) (by decide : 95 < 128) p.isLt n.isLt (by decide : 1 < 2) i.isLt b.isLt d.isLt (by omega)
  clear hw
  exact ⟨by simpa using e0, lt, by simp [decode32, decodeMemory, decodeMajor5f, e1, e4, fld_eq (lo := 8) (n := 5) e2, fld_eq (lo := 13) (n := 1) e3, fld_eq (lo := 15) (n := 6) e5, fld_eq (lo := 21) (n := 5) e6, fld_eq (lo := 26) (n := 6) e7]⟩
theorem RoundTrip.vsst (d : BitVec 6) (b : BitVec 5) (i : BitVec 6) (n : BitVec 1) (p : BitVec 5) : RoundTrip.Statement (.vsst d b i n p) := by
  refine roundTrip_of32 _ (fun w hw => ?_)
  change 193 + d.toNat * 67108864 + b.toNat * 2097152 + i.toNat * 32768 + n.toNat * 8192 + p.toNat * 256 = w at hw
  obtain ⟨lt, e0, e1, e2, e3, e4, e5, e6, e7⟩ := layout32 (w := w) (by decide : 1 < 2) (by decide : 96 < 128) p.isLt n.isLt (by decide : 0 < 2) i.isLt b.isLt d.isLt (by omega)
  clear hw
  exact ⟨by simpa using e0, lt, by simp [decode32, decodeMemory, decodeMajor60, e1, e4, fld_eq (lo := 8) (n := 5) e2, fld_eq (lo := 13) (n := 1) e3, fld_eq (lo := 15) (n := 6) e5, fld_eq (lo := 21) (n := 5) e6, fld_eq (lo := 26) (n := 6) e7]⟩
theorem RoundTrip.vldp (d : BitVec 6) (b : BitVec 5) (n : BitVec 1) (p : BitVec 5) : RoundTrip.Statement (.vldp d b n p) := by
  refine roundTrip_of32 _ (fun w hw => ?_)
  change 195 + d.toNat * 67108864 + b.toNat * 2097152 + n.toNat * 8192 + p.toNat * 256 = w at hw
  obtain ⟨lt, e0, e1, e2, e3, e4, e5, e6⟩ := layout29 (w := w) (by decide : 1 < 2) (by decide : 97 < 128) p.isLt n.isLt (by decide : 0 < 128) b.isLt d.isLt (by omega)
  clear hw
  exact ⟨by simpa using e0, lt, by simp [decode32, decodeMemory, decodeMajor61, e1, e4, fld_eq (lo := 8) (n := 5) e2, fld_eq (lo := 13) (n := 1) e3, fld_eq (lo := 21) (n := 5) e5, fld_eq (lo := 26) (n := 6) e6]⟩
theorem RoundTrip.vldpC (d : BitVec 6) (b : BitVec 5) (n : BitVec 1) (p : BitVec 5) : RoundTrip.Statement (.vldpC d b n p) := by
  refine roundTrip_of32 _ (fun w hw => ?_)
  change 1048771 + d.toNat * 67108864 + b.toNat * 2097152 + n.toNat * 8192 + p.toNat * 256 = w at hw
  obtain ⟨lt, e0, e1, e2, e3, e4, e5, e6⟩ := layout29 (w := w) (by decide : 1 < 2) (by decide : 97 < 128) p.isLt n.isLt (by decide : 64 < 128) b.isLt d.isLt (by omega)
  clear hw
  exact ⟨by simpa using e0, lt, by simp [decode32, decodeMemory, decodeMajor61, e1, e4, fld_eq (lo := 8) (n := 5) e2, fld_eq (lo := 13) (n := 1) e3, fld_eq (lo := 21) (n := 5) e5, fld_eq (lo := 26) (n := 6) e6]⟩
theorem RoundTrip.vstp (d : BitVec 6) (b : BitVec 5) (n : BitVec 1) (p : BitVec 5) : RoundTrip.Statement (.vstp d b n p) := by
  refine roundTrip_of32 _ (fun w hw => ?_)
  change 16579 + d.toNat * 67108864 + b.toNat * 2097152 + n.toNat * 8192 + p.toNat * 256 = w at hw
  obtain ⟨lt, e0, e1, e2, e3, e4, e5, e6⟩ := layout29 (w := w) (by decide : 1 < 2) (by decide : 97 < 128) p.isLt n.isLt (by decide : 1 < 128) b.isLt d.isLt (by omega)
  clear hw
  exact ⟨by simpa using e0, lt, by simp [decode32, decodeMemory, decodeMajor61, e1, e4, fld_eq (lo := 8) (n := 5) e2, fld_eq (lo := 13) (n := 1) e3, fld_eq (lo := 21) (n := 5) e5, fld_eq (lo := 26) (n := 6) e6]⟩
theorem RoundTrip.pst (b : BitVec 5) (s : BitVec 5) : RoundTrip.Statement (.pst b s) := by
  refine roundTrip_of32 _ (fun w hw => ?_)
  change 197 + b.toNat * 2097152 + s.toNat * 32768 = w at hw
  obtain ⟨lt, e0, e1, e2, e3, e4, e5, e6⟩ := layout33 (w := w) (by decide : 1 < 2) (by decide : 98 < 128) (by decide : 0 < 128) s.isLt (by decide : 0 < 2) b.isLt (by decide : 0 < 64) (by omega)
  clear hw
  exact ⟨by simpa using e0, lt, by simp [decode32, decodeMemory, decodeMajor62, e1, e2, e4, e6, fld_eq (lo := 15) (n := 5) e3, fld_eq (lo := 21) (n := 5) e5]⟩
theorem RoundTrip.pstV (d : BitVec 6) (b : BitVec 5) (n : BitVec 1) (p : BitVec 5) : RoundTrip.Statement (.pstV d b n p) := by
  refine roundTrip_of32 _ (fun w hw => ?_)
  change 16581 + d.toNat * 67108864 + b.toNat * 2097152 + n.toNat * 8192 + p.toNat * 256 = w at hw
  obtain ⟨lt, e0, e1, e2, e3, e4, e5, e6⟩ := layout29 (w := w) (by decide : 1 < 2) (by decide : 98 < 128) p.isLt n.isLt (by decide : 1 < 128) b.isLt d.isLt (by omega)
  have k0 : w / 1048576 % 2 = 0 := by clear lt e0 e1 e2 e3 e4 e5 e6; omega
  have k1 : w / 256 % 128 ≠ 0 := by clear lt e0 e1 e2 e3 e4 e5 e6; omega
  clear hw
  exact ⟨by simpa using e0, lt, by simp [decode32, decodeMemory, decodeMajor62, e1, e4, k0, k1, fld_eq (lo := 8) (n := 5) e2, fld_eq (lo := 13) (n := 1) e3, fld_eq (lo := 21) (n := 5) e5, fld_eq (lo := 26) (n := 6) e6]⟩
theorem RoundTrip.xcopy (t : BitVec 5) (a : BitVec 5) (b : BitVec 5) (h : BitVec 2) (k : BitVec 1) (q : BitVec 1) (s : BitVec 1) : RoundTrip.Statement (.xcopy t a b h k q s) := by
  refine roundTrip_of32 _ (fun w hw => ?_)
  change 199 + t.toNat * 134217728 + a.toNat * 4194304 + b.toNat * 131072 + h.toNat * 32768 + k.toNat * 8192 + q.toNat * 4096 + s.toNat * 2048 = w at hw
  obtain ⟨lt, e0, e1, e2, e3, e4, e5, e6, e7, e8, e9, e10⟩ := layout34 (w := w) (by decide : 1 < 2) (by decide : 99 < 128) (by decide : 0 < 8) s.isLt q.isLt k.isLt (by decide : 0 < 2) h.isLt b.isLt a.isLt t.isLt (by omega)
  clear hw
  exact ⟨by simpa using e0, lt, by simp [decode32, decodeMemory, decodeMajor63, e1, e2, e6, fld_eq (lo := 11) (n := 1) e3, fld_eq (lo := 12) (n := 1) e4, fld_eq (lo := 13) (n := 1) e5, fld_eq (lo := 15) (n := 2) e7, fld_eq (lo := 17) (n := 5) e8, fld_eq (lo := 22) (n := 5) e9, fld_eq (lo := 27) (n := 5) e10]⟩
theorem RoundTrip.wbind (a : BitVec 5) (n : BitVec 3) : RoundTrip.Statement (.wbind a n) := by
  refine roundTrip_of32 _ (fun w hw => ?_)
  change 201 + a.toNat * 4194304 + n.toNat * 2048 = w at hw
  obtain ⟨lt, e0, e1, e2, e3, e4, e5, e6⟩ := layout35 (w := w) (by decide : 1 < 2) (by decide : 100 < 128) (by decide : 0 < 8) n.isLt (by decide : 0 < 256) a.isLt (by decide : 0 < 32) (by omega)
  clear hw
  exact ⟨by simpa using e0, lt, by simp [decode32, decodeMemory, decodeMajor64, e1, e2, e4, e6, fld_eq (lo := 11) (n := 3) e3, fld_eq (lo := 22) (n := 5) e5]⟩
theorem RoundTrip.wunb (n : BitVec 3) : RoundTrip.Statement (.wunb n) := by
  refine roundTrip_of32 _ (fun w hw => ?_)
  change 457 + n.toNat * 2048 = w at hw
  obtain ⟨lt, e0, e1, e2, e3, e4⟩ := layout36 (w := w) (by decide : 1 < 2) (by decide : 100 < 128) (by decide : 1 < 8) n.isLt (by decide : 0 < 262144) (by omega)
  have k0 : w / 16384 % 256 = 0 := by clear lt e0 e1 e2 e3 e4; omega
  have k1 : w / 134217728 % 32 = 0 := by clear lt e0 e1 e2 e3 e4; omega
  clear hw
  exact ⟨by simpa using e0, lt, by simp [decode32, decodeMemory, decodeMajor64, e1, e2, e4, k0, k1, fld_eq (lo := 11) (n := 3) e3]⟩
theorem RoundTrip.wskip (a : BitVec 5) (n : BitVec 3) : RoundTrip.Statement (.wskip a n) := by
  refine roundTrip_of32 _ (fun w hw => ?_)
  change 713 + a.toNat * 4194304 + n.toNat * 2048 = w at hw
  obtain ⟨lt, e0, e1, e2, e3, e4, e5, e6⟩ := layout35 (w := w) (by decide : 1 < 2) (by decide : 100 < 128) (by decide : 2 < 8) n.isLt (by decide : 0 < 256) a.isLt (by decide : 0 < 32) (by omega)
  clear hw
  exact ⟨by simpa using e0, lt, by simp [decode32, decodeMemory, decodeMajor64, e1, e2, e4, e6, fld_eq (lo := 11) (n := 3) e3, fld_eq (lo := 22) (n := 5) e5]⟩
theorem RoundTrip.wpos (d : BitVec 5) (n : BitVec 3) : RoundTrip.Statement (.wpos d n) := by
  refine roundTrip_of32 _ (fun w hw => ?_)
  change 969 + d.toNat * 134217728 + n.toNat * 2048 = w at hw
  obtain ⟨lt, e0, e1, e2, e3, e4, e5⟩ := layout37 (w := w) (by decide : 1 < 2) (by decide : 100 < 128) (by decide : 3 < 8) n.isLt (by decide : 0 < 8192) d.isLt (by omega)
  have k0 : w / 16384 % 256 = 0 := by clear lt e0 e1 e2 e3 e4 e5; omega
  clear hw
  exact ⟨by simpa using e0, lt, by simp [decode32, decodeMemory, decodeMajor64, e1, e2, e4, k0, fld_eq (lo := 11) (n := 3) e3, fld_eq (lo := 27) (n := 5) e5]⟩
theorem RoundTrip.amoSwap (d : BitVec 5) (a : BitVec 5) (b : BitVec 5) (c : BitVec 2) (o : BitVec 2) (z : BitVec 1) : RoundTrip.Statement (.amoSwap d a b c o z) := by
  refine roundTrip_of32 _ (fun w hw => ?_)
  change 203 + d.toNat * 134217728 + a.toNat * 4194304 + b.toNat * 131072 + c.toNat * 32768 + o.toNat * 8192 + z.toNat * 4096 = w at hw
  obtain ⟨lt, e0, e1, e2, e3, e4, e5, e6, e7, e8⟩ := layout38 (w := w) (by decide : 1 < 2) (by decide : 101 < 128) (by decide : 0 < 16) z.isLt o.isLt c.isLt b.isLt a.isLt d.isLt (by omega)
  clear hw
  exact ⟨by simpa using e0, lt, by simp [decode32, decodeMemory, decodeMajor65, e1, e2, fld_eq (lo := 12) (n := 1) e3, fld_eq (lo := 13) (n := 2) e4, fld_eq (lo := 15) (n := 2) e5, fld_eq (lo := 17) (n := 5) e6, fld_eq (lo := 22) (n := 5) e7, fld_eq (lo := 27) (n := 5) e8]⟩
theorem RoundTrip.amoCas (d : BitVec 5) (a : BitVec 5) (b : BitVec 5) (c : BitVec 2) (o : BitVec 2) (z : BitVec 1) : RoundTrip.Statement (.amoCas d a b c o z) := by
  refine roundTrip_of32 _ (fun w hw => ?_)
  change 459 + d.toNat * 134217728 + a.toNat * 4194304 + b.toNat * 131072 + c.toNat * 32768 + o.toNat * 8192 + z.toNat * 4096 = w at hw
  obtain ⟨lt, e0, e1, e2, e3, e4, e5, e6, e7, e8⟩ := layout38 (w := w) (by decide : 1 < 2) (by decide : 101 < 128) (by decide : 1 < 16) z.isLt o.isLt c.isLt b.isLt a.isLt d.isLt (by omega)
  clear hw
  exact ⟨by simpa using e0, lt, by simp [decode32, decodeMemory, decodeMajor65, e1, e2, fld_eq (lo := 12) (n := 1) e3, fld_eq (lo := 13) (n := 2) e4, fld_eq (lo := 15) (n := 2) e5, fld_eq (lo := 17) (n := 5) e6, fld_eq (lo := 22) (n := 5) e7, fld_eq (lo := 27) (n := 5) e8]⟩
theorem RoundTrip.amoAdd (d : BitVec 5) (a : BitVec 5) (b : BitVec 5) (c : BitVec 2) (o : BitVec 2) (z : BitVec 1) : RoundTrip.Statement (.amoAdd d a b c o z) := by
  refine roundTrip_of32 _ (fun w hw => ?_)
  change 715 + d.toNat * 134217728 + a.toNat * 4194304 + b.toNat * 131072 + c.toNat * 32768 + o.toNat * 8192 + z.toNat * 4096 = w at hw
  obtain ⟨lt, e0, e1, e2, e3, e4, e5, e6, e7, e8⟩ := layout38 (w := w) (by decide : 1 < 2) (by decide : 101 < 128) (by decide : 2 < 16) z.isLt o.isLt c.isLt b.isLt a.isLt d.isLt (by omega)
  clear hw
  exact ⟨by simpa using e0, lt, by simp [decode32, decodeMemory, decodeMajor65, e1, e2, fld_eq (lo := 12) (n := 1) e3, fld_eq (lo := 13) (n := 2) e4, fld_eq (lo := 15) (n := 2) e5, fld_eq (lo := 17) (n := 5) e6, fld_eq (lo := 22) (n := 5) e7, fld_eq (lo := 27) (n := 5) e8]⟩
theorem RoundTrip.amoAnd (d : BitVec 5) (a : BitVec 5) (b : BitVec 5) (c : BitVec 2) (o : BitVec 2) (z : BitVec 1) : RoundTrip.Statement (.amoAnd d a b c o z) := by
  refine roundTrip_of32 _ (fun w hw => ?_)
  change 971 + d.toNat * 134217728 + a.toNat * 4194304 + b.toNat * 131072 + c.toNat * 32768 + o.toNat * 8192 + z.toNat * 4096 = w at hw
  obtain ⟨lt, e0, e1, e2, e3, e4, e5, e6, e7, e8⟩ := layout38 (w := w) (by decide : 1 < 2) (by decide : 101 < 128) (by decide : 3 < 16) z.isLt o.isLt c.isLt b.isLt a.isLt d.isLt (by omega)
  clear hw
  exact ⟨by simpa using e0, lt, by simp [decode32, decodeMemory, decodeMajor65, e1, e2, fld_eq (lo := 12) (n := 1) e3, fld_eq (lo := 13) (n := 2) e4, fld_eq (lo := 15) (n := 2) e5, fld_eq (lo := 17) (n := 5) e6, fld_eq (lo := 22) (n := 5) e7, fld_eq (lo := 27) (n := 5) e8]⟩
theorem RoundTrip.amoOr (d : BitVec 5) (a : BitVec 5) (b : BitVec 5) (c : BitVec 2) (o : BitVec 2) (z : BitVec 1) : RoundTrip.Statement (.amoOr d a b c o z) := by
  refine roundTrip_of32 _ (fun w hw => ?_)
  change 1227 + d.toNat * 134217728 + a.toNat * 4194304 + b.toNat * 131072 + c.toNat * 32768 + o.toNat * 8192 + z.toNat * 4096 = w at hw
  obtain ⟨lt, e0, e1, e2, e3, e4, e5, e6, e7, e8⟩ := layout38 (w := w) (by decide : 1 < 2) (by decide : 101 < 128) (by decide : 4 < 16) z.isLt o.isLt c.isLt b.isLt a.isLt d.isLt (by omega)
  clear hw
  exact ⟨by simpa using e0, lt, by simp [decode32, decodeMemory, decodeMajor65, e1, e2, fld_eq (lo := 12) (n := 1) e3, fld_eq (lo := 13) (n := 2) e4, fld_eq (lo := 15) (n := 2) e5, fld_eq (lo := 17) (n := 5) e6, fld_eq (lo := 22) (n := 5) e7, fld_eq (lo := 27) (n := 5) e8]⟩
theorem RoundTrip.amoXor (d : BitVec 5) (a : BitVec 5) (b : BitVec 5) (c : BitVec 2) (o : BitVec 2) (z : BitVec 1) : RoundTrip.Statement (.amoXor d a b c o z) := by
  refine roundTrip_of32 _ (fun w hw => ?_)
  change 1483 + d.toNat * 134217728 + a.toNat * 4194304 + b.toNat * 131072 + c.toNat * 32768 + o.toNat * 8192 + z.toNat * 4096 = w at hw
  obtain ⟨lt, e0, e1, e2, e3, e4, e5, e6, e7, e8⟩ := layout38 (w := w) (by decide : 1 < 2) (by decide : 101 < 128) (by decide : 5 < 16) z.isLt o.isLt c.isLt b.isLt a.isLt d.isLt (by omega)
  clear hw
  exact ⟨by simpa using e0, lt, by simp [decode32, decodeMemory, decodeMajor65, e1, e2, fld_eq (lo := 12) (n := 1) e3, fld_eq (lo := 13) (n := 2) e4, fld_eq (lo := 15) (n := 2) e5, fld_eq (lo := 17) (n := 5) e6, fld_eq (lo := 22) (n := 5) e7, fld_eq (lo := 27) (n := 5) e8]⟩
theorem RoundTrip.amoMin (d : BitVec 5) (a : BitVec 5) (b : BitVec 5) (c : BitVec 2) (o : BitVec 2) (z : BitVec 1) : RoundTrip.Statement (.amoMin d a b c o z) := by
  refine roundTrip_of32 _ (fun w hw => ?_)
  change 1739 + d.toNat * 134217728 + a.toNat * 4194304 + b.toNat * 131072 + c.toNat * 32768 + o.toNat * 8192 + z.toNat * 4096 = w at hw
  obtain ⟨lt, e0, e1, e2, e3, e4, e5, e6, e7, e8⟩ := layout38 (w := w) (by decide : 1 < 2) (by decide : 101 < 128) (by decide : 6 < 16) z.isLt o.isLt c.isLt b.isLt a.isLt d.isLt (by omega)
  clear hw
  exact ⟨by simpa using e0, lt, by simp [decode32, decodeMemory, decodeMajor65, e1, e2, fld_eq (lo := 12) (n := 1) e3, fld_eq (lo := 13) (n := 2) e4, fld_eq (lo := 15) (n := 2) e5, fld_eq (lo := 17) (n := 5) e6, fld_eq (lo := 22) (n := 5) e7, fld_eq (lo := 27) (n := 5) e8]⟩
theorem RoundTrip.amoMax (d : BitVec 5) (a : BitVec 5) (b : BitVec 5) (c : BitVec 2) (o : BitVec 2) (z : BitVec 1) : RoundTrip.Statement (.amoMax d a b c o z) := by
  refine roundTrip_of32 _ (fun w hw => ?_)
  change 1995 + d.toNat * 134217728 + a.toNat * 4194304 + b.toNat * 131072 + c.toNat * 32768 + o.toNat * 8192 + z.toNat * 4096 = w at hw
  obtain ⟨lt, e0, e1, e2, e3, e4, e5, e6, e7, e8⟩ := layout38 (w := w) (by decide : 1 < 2) (by decide : 101 < 128) (by decide : 7 < 16) z.isLt o.isLt c.isLt b.isLt a.isLt d.isLt (by omega)
  clear hw
  exact ⟨by simpa using e0, lt, by simp [decode32, decodeMemory, decodeMajor65, e1, e2, fld_eq (lo := 12) (n := 1) e3, fld_eq (lo := 13) (n := 2) e4, fld_eq (lo := 15) (n := 2) e5, fld_eq (lo := 17) (n := 5) e6, fld_eq (lo := 22) (n := 5) e7, fld_eq (lo := 27) (n := 5) e8]⟩
theorem RoundTrip.amoMinN (d : BitVec 5) (a : BitVec 5) (b : BitVec 5) (c : BitVec 2) (o : BitVec 2) (z : BitVec 1) : RoundTrip.Statement (.amoMinN d a b c o z) := by
  refine roundTrip_of32 _ (fun w hw => ?_)
  change 2251 + d.toNat * 134217728 + a.toNat * 4194304 + b.toNat * 131072 + c.toNat * 32768 + o.toNat * 8192 + z.toNat * 4096 = w at hw
  obtain ⟨lt, e0, e1, e2, e3, e4, e5, e6, e7, e8⟩ := layout38 (w := w) (by decide : 1 < 2) (by decide : 101 < 128) (by decide : 8 < 16) z.isLt o.isLt c.isLt b.isLt a.isLt d.isLt (by omega)
  clear hw
  exact ⟨by simpa using e0, lt, by simp [decode32, decodeMemory, decodeMajor65, e1, e2, fld_eq (lo := 12) (n := 1) e3, fld_eq (lo := 13) (n := 2) e4, fld_eq (lo := 15) (n := 2) e5, fld_eq (lo := 17) (n := 5) e6, fld_eq (lo := 22) (n := 5) e7, fld_eq (lo := 27) (n := 5) e8]⟩
theorem RoundTrip.amoMaxN (d : BitVec 5) (a : BitVec 5) (b : BitVec 5) (c : BitVec 2) (o : BitVec 2) (z : BitVec 1) : RoundTrip.Statement (.amoMaxN d a b c o z) := by
  refine roundTrip_of32 _ (fun w hw => ?_)
  change 2507 + d.toNat * 134217728 + a.toNat * 4194304 + b.toNat * 131072 + c.toNat * 32768 + o.toNat * 8192 + z.toNat * 4096 = w at hw
  obtain ⟨lt, e0, e1, e2, e3, e4, e5, e6, e7, e8⟩ := layout38 (w := w) (by decide : 1 < 2) (by decide : 101 < 128) (by decide : 9 < 16) z.isLt o.isLt c.isLt b.isLt a.isLt d.isLt (by omega)
  clear hw
  exact ⟨by simpa using e0, lt, by simp [decode32, decodeMemory, decodeMajor65, e1, e2, fld_eq (lo := 12) (n := 1) e3, fld_eq (lo := 13) (n := 2) e4, fld_eq (lo := 15) (n := 2) e5, fld_eq (lo := 17) (n := 5) e6, fld_eq (lo := 22) (n := 5) e7, fld_eq (lo := 27) (n := 5) e8]⟩
theorem RoundTrip.amoFadd (d : BitVec 5) (a : BitVec 5) (b : BitVec 5) (c : BitVec 2) (o : BitVec 2) (z : BitVec 1) : RoundTrip.Statement (.amoFadd d a b c o z) := by
  refine roundTrip_of32 _ (fun w hw => ?_)
  change 2763 + d.toNat * 134217728 + a.toNat * 4194304 + b.toNat * 131072 + c.toNat * 32768 + o.toNat * 8192 + z.toNat * 4096 = w at hw
  obtain ⟨lt, e0, e1, e2, e3, e4, e5, e6, e7, e8⟩ := layout38 (w := w) (by decide : 1 < 2) (by decide : 101 < 128) (by decide : 10 < 16) z.isLt o.isLt c.isLt b.isLt a.isLt d.isLt (by omega)
  clear hw
  exact ⟨by simpa using e0, lt, by simp [decode32, decodeMemory, decodeMajor65, e1, e2, fld_eq (lo := 12) (n := 1) e3, fld_eq (lo := 13) (n := 2) e4, fld_eq (lo := 15) (n := 2) e5, fld_eq (lo := 17) (n := 5) e6, fld_eq (lo := 22) (n := 5) e7, fld_eq (lo := 27) (n := 5) e8]⟩
theorem RoundTrip.redAdd (a : BitVec 5) (b : BitVec 5) (z : BitVec 1) : RoundTrip.Statement (.redAdd a b z) := by
  refine roundTrip_of32 _ (fun w hw => ?_)
  change 719 + a.toNat * 4194304 + b.toNat * 131072 + z.toNat * 4096 = w at hw
  obtain ⟨lt, e0, e1, e2, e3, e4, e5, e6, e7⟩ := layout39 (w := w) (by decide : 1 < 2) (by decide : 103 < 128) (by decide : 2 < 16) z.isLt (by decide : 0 < 16) b.isLt a.isLt (by decide : 0 < 32) (by omega)
  clear hw
  exact ⟨by simpa using e0, lt, by simp [decode32, decodeMemory, decodeMajor67, e1, e2, e4, e7, fld_eq (lo := 12) (n := 1) e3, fld_eq (lo := 17) (n := 5) e5, fld_eq (lo := 22) (n := 5) e6]⟩
theorem RoundTrip.redAnd (a : BitVec 5) (b : BitVec 5) (z : BitVec 1) : RoundTrip.Statement (.redAnd a b z) := by
  refine roundTrip_of32 _ (fun w hw => ?_)
  change 975 + a.toNat * 4194304 + b.toNat * 131072 + z.toNat * 4096 = w at hw
  obtain ⟨lt, e0, e1, e2, e3, e4, e5, e6, e7⟩ := layout39 (w := w) (by decide : 1 < 2) (by decide : 103 < 128) (by decide : 3 < 16) z.isLt (by decide : 0 < 16) b.isLt a.isLt (by decide : 0 < 32) (by omega)
  clear hw
  exact ⟨by simpa using e0, lt, by simp [decode32, decodeMemory, decodeMajor67, e1, e2, e4, e7, fld_eq (lo := 12) (n := 1) e3, fld_eq (lo := 17) (n := 5) e5, fld_eq (lo := 22) (n := 5) e6]⟩
theorem RoundTrip.redOr (a : BitVec 5) (b : BitVec 5) (z : BitVec 1) : RoundTrip.Statement (.redOr a b z) := by
  refine roundTrip_of32 _ (fun w hw => ?_)
  change 1231 + a.toNat * 4194304 + b.toNat * 131072 + z.toNat * 4096 = w at hw
  obtain ⟨lt, e0, e1, e2, e3, e4, e5, e6, e7⟩ := layout39 (w := w) (by decide : 1 < 2) (by decide : 103 < 128) (by decide : 4 < 16) z.isLt (by decide : 0 < 16) b.isLt a.isLt (by decide : 0 < 32) (by omega)
  clear hw
  exact ⟨by simpa using e0, lt, by simp [decode32, decodeMemory, decodeMajor67, e1, e2, e4, e7, fld_eq (lo := 12) (n := 1) e3, fld_eq (lo := 17) (n := 5) e5, fld_eq (lo := 22) (n := 5) e6]⟩
theorem RoundTrip.redXor (a : BitVec 5) (b : BitVec 5) (z : BitVec 1) : RoundTrip.Statement (.redXor a b z) := by
  refine roundTrip_of32 _ (fun w hw => ?_)
  change 1487 + a.toNat * 4194304 + b.toNat * 131072 + z.toNat * 4096 = w at hw
  obtain ⟨lt, e0, e1, e2, e3, e4, e5, e6, e7⟩ := layout39 (w := w) (by decide : 1 < 2) (by decide : 103 < 128) (by decide : 5 < 16) z.isLt (by decide : 0 < 16) b.isLt a.isLt (by decide : 0 < 32) (by omega)
  clear hw
  exact ⟨by simpa using e0, lt, by simp [decode32, decodeMemory, decodeMajor67, e1, e2, e4, e7, fld_eq (lo := 12) (n := 1) e3, fld_eq (lo := 17) (n := 5) e5, fld_eq (lo := 22) (n := 5) e6]⟩
theorem RoundTrip.redMin (a : BitVec 5) (b : BitVec 5) (z : BitVec 1) : RoundTrip.Statement (.redMin a b z) := by
  refine roundTrip_of32 _ (fun w hw => ?_)
  change 1743 + a.toNat * 4194304 + b.toNat * 131072 + z.toNat * 4096 = w at hw
  obtain ⟨lt, e0, e1, e2, e3, e4, e5, e6, e7⟩ := layout39 (w := w) (by decide : 1 < 2) (by decide : 103 < 128) (by decide : 6 < 16) z.isLt (by decide : 0 < 16) b.isLt a.isLt (by decide : 0 < 32) (by omega)
  clear hw
  exact ⟨by simpa using e0, lt, by simp [decode32, decodeMemory, decodeMajor67, e1, e2, e4, e7, fld_eq (lo := 12) (n := 1) e3, fld_eq (lo := 17) (n := 5) e5, fld_eq (lo := 22) (n := 5) e6]⟩
theorem RoundTrip.redMax (a : BitVec 5) (b : BitVec 5) (z : BitVec 1) : RoundTrip.Statement (.redMax a b z) := by
  refine roundTrip_of32 _ (fun w hw => ?_)
  change 1999 + a.toNat * 4194304 + b.toNat * 131072 + z.toNat * 4096 = w at hw
  obtain ⟨lt, e0, e1, e2, e3, e4, e5, e6, e7⟩ := layout39 (w := w) (by decide : 1 < 2) (by decide : 103 < 128) (by decide : 7 < 16) z.isLt (by decide : 0 < 16) b.isLt a.isLt (by decide : 0 < 32) (by omega)
  clear hw
  exact ⟨by simpa using e0, lt, by simp [decode32, decodeMemory, decodeMajor67, e1, e2, e4, e7, fld_eq (lo := 12) (n := 1) e3, fld_eq (lo := 17) (n := 5) e5, fld_eq (lo := 22) (n := 5) e6]⟩
theorem RoundTrip.redMinN (a : BitVec 5) (b : BitVec 5) (z : BitVec 1) : RoundTrip.Statement (.redMinN a b z) := by
  refine roundTrip_of32 _ (fun w hw => ?_)
  change 2255 + a.toNat * 4194304 + b.toNat * 131072 + z.toNat * 4096 = w at hw
  obtain ⟨lt, e0, e1, e2, e3, e4, e5, e6, e7⟩ := layout39 (w := w) (by decide : 1 < 2) (by decide : 103 < 128) (by decide : 8 < 16) z.isLt (by decide : 0 < 16) b.isLt a.isLt (by decide : 0 < 32) (by omega)
  clear hw
  exact ⟨by simpa using e0, lt, by simp [decode32, decodeMemory, decodeMajor67, e1, e2, e4, e7, fld_eq (lo := 12) (n := 1) e3, fld_eq (lo := 17) (n := 5) e5, fld_eq (lo := 22) (n := 5) e6]⟩
theorem RoundTrip.redMaxN (a : BitVec 5) (b : BitVec 5) (z : BitVec 1) : RoundTrip.Statement (.redMaxN a b z) := by
  refine roundTrip_of32 _ (fun w hw => ?_)
  change 2511 + a.toNat * 4194304 + b.toNat * 131072 + z.toNat * 4096 = w at hw
  obtain ⟨lt, e0, e1, e2, e3, e4, e5, e6, e7⟩ := layout39 (w := w) (by decide : 1 < 2) (by decide : 103 < 128) (by decide : 9 < 16) z.isLt (by decide : 0 < 16) b.isLt a.isLt (by decide : 0 < 32) (by omega)
  clear hw
  exact ⟨by simpa using e0, lt, by simp [decode32, decodeMemory, decodeMajor67, e1, e2, e4, e7, fld_eq (lo := 12) (n := 1) e3, fld_eq (lo := 17) (n := 5) e5, fld_eq (lo := 22) (n := 5) e6]⟩
theorem RoundTrip.redFadd (a : BitVec 5) (b : BitVec 5) (z : BitVec 1) : RoundTrip.Statement (.redFadd a b z) := by
  refine roundTrip_of32 _ (fun w hw => ?_)
  change 2767 + a.toNat * 4194304 + b.toNat * 131072 + z.toNat * 4096 = w at hw
  obtain ⟨lt, e0, e1, e2, e3, e4, e5, e6, e7⟩ := layout39 (w := w) (by decide : 1 < 2) (by decide : 103 < 128) (by decide : 10 < 16) z.isLt (by decide : 0 < 16) b.isLt a.isLt (by decide : 0 < 32) (by omega)
  clear hw
  exact ⟨by simpa using e0, lt, by simp [decode32, decodeMemory, decodeMajor67, e1, e2, e4, e7, fld_eq (lo := 12) (n := 1) e3, fld_eq (lo := 17) (n := 5) e5, fld_eq (lo := 22) (n := 5) e6]⟩
theorem RoundTrip.vamo (d : BitVec 6) (b : BitVec 5) (i : BitVec 6) (n : BitVec 1) (p : BitVec 5) : RoundTrip.Statement (.vamo d b i n p) := by
  refine roundTrip_of32 _ (fun w hw => ?_)
  change 205 + d.toNat * 67108864 + b.toNat * 2097152 + i.toNat * 32768 + n.toNat * 8192 + p.toNat * 256 = w at hw
  obtain ⟨lt, e0, e1, e2, e3, e4, e5, e6, e7⟩ := layout32 (w := w) (by decide : 1 < 2) (by decide : 102 < 128) p.isLt n.isLt (by decide : 0 < 2) i.isLt b.isLt d.isLt (by omega)
  clear hw
  exact ⟨by simpa using e0, lt, by simp [decode32, decodeMemory, decodeMajor66, e1, e4, fld_eq (lo := 8) (n := 5) e2, fld_eq (lo := 13) (n := 1) e3, fld_eq (lo := 15) (n := 6) e5, fld_eq (lo := 21) (n := 5) e6, fld_eq (lo := 26) (n := 6) e7]⟩
theorem RoundTrip.vred (d : BitVec 6) (b : BitVec 5) (i : BitVec 6) (n : BitVec 1) (p : BitVec 5) : RoundTrip.Statement (.vred d b i n p) := by
  refine roundTrip_of32 _ (fun w hw => ?_)
  change 209 + d.toNat * 67108864 + b.toNat * 2097152 + i.toNat * 32768 + n.toNat * 8192 + p.toNat * 256 = w at hw
  obtain ⟨lt, e0, e1, e2, e3, e4, e5, e6, e7⟩ := layout32 (w := w) (by decide : 1 < 2) (by decide : 104 < 128) p.isLt n.isLt (by decide : 0 < 2) i.isLt b.isLt d.isLt (by omega)
  clear hw
  exact ⟨by simpa using e0, lt, by simp [decode32, decodeMemory, decodeMajor68, e1, e4, fld_eq (lo := 8) (n := 5) e2, fld_eq (lo := 13) (n := 1) e3, fld_eq (lo := 15) (n := 6) e5, fld_eq (lo := 21) (n := 5) e6, fld_eq (lo := 26) (n := 6) e7]⟩
theorem RoundTrip.gll (d : BitVec 6) (b : BitVec 5) (i : BitVec 6) (n : BitVec 1) (p : BitVec 5) : RoundTrip.Statement (.gll d b i n p) := by
  refine roundTrip_of32 _ (fun w hw => ?_)
  change 211 + d.toNat * 67108864 + b.toNat * 2097152 + i.toNat * 32768 + n.toNat * 8192 + p.toNat * 256 = w at hw
  obtain ⟨lt, e0, e1, e2, e3, e4, e5, e6, e7⟩ := layout32 (w := w) (by decide : 1 < 2) (by decide : 105 < 128) p.isLt n.isLt (by decide : 0 < 2) i.isLt b.isLt d.isLt (by omega)
  clear hw
  exact ⟨by simpa using e0, lt, by simp [decode32, decodeMemory, decodeMajor69, e1, e4, fld_eq (lo := 8) (n := 5) e2, fld_eq (lo := 13) (n := 1) e3, fld_eq (lo := 15) (n := 6) e5, fld_eq (lo := 21) (n := 5) e6, fld_eq (lo := 26) (n := 6) e7]⟩
theorem RoundTrip.scc (d : BitVec 6) (b : BitVec 5) (i : BitVec 6) (n : BitVec 1) (p : BitVec 5) : RoundTrip.Statement (.scc d b i n p) := by
  refine roundTrip_of32 _ (fun w hw => ?_)
  change 213 + d.toNat * 67108864 + b.toNat * 2097152 + i.toNat * 32768 + n.toNat * 8192 + p.toNat * 256 = w at hw
  obtain ⟨lt, e0, e1, e2, e3, e4, e5, e6, e7⟩ := layout32 (w := w) (by decide : 1 < 2) (by decide : 106 < 128) p.isLt n.isLt (by decide : 0 < 2) i.isLt b.isLt d.isLt (by omega)
  clear hw
  exact ⟨by simpa using e0, lt, by simp [decode32, decodeMemory, decodeMajor6a, e1, e4, fld_eq (lo := 8) (n := 5) e2, fld_eq (lo := 13) (n := 1) e3, fld_eq (lo := 15) (n := 6) e5, fld_eq (lo := 21) (n := 5) e6, fld_eq (lo := 26) (n := 6) e7]⟩
theorem RoundTrip.fence (s : BitVec 3) : RoundTrip.Statement (.fence s) := by
  refine roundTrip_of32 _ (fun w hw => ?_)
  change 215 + s.toNat * 8192 = w at hw
  obtain ⟨lt, e0, e1, e2, e3, e4⟩ := layout40 (w := w) (by decide : 1 < 2) (by decide : 107 < 128) (by decide : 0 < 32) s.isLt (by decide : 0 < 65536) (by omega)
  clear hw
  exact ⟨by simpa using e0, lt, by simp [decode32, decodeMemory, decodeMajor6b, e1, e2, e4, fld_eq (lo := 13) (n := 3) e3]⟩
theorem RoundTrip.fenceRel (s : BitVec 3) : RoundTrip.Statement (.fenceRel s) := by
  refine roundTrip_of32 _ (fun w hw => ?_)
  change 471 + s.toNat * 8192 = w at hw
  obtain ⟨lt, e0, e1, e2, e3, e4⟩ := layout40 (w := w) (by decide : 1 < 2) (by decide : 107 < 128) (by decide : 1 < 32) s.isLt (by decide : 0 < 65536) (by omega)
  clear hw
  exact ⟨by simpa using e0, lt, by simp [decode32, decodeMemory, decodeMajor6b, e1, e2, e4, fld_eq (lo := 13) (n := 3) e3]⟩
theorem RoundTrip.fenceAcq (s : BitVec 3) : RoundTrip.Statement (.fenceAcq s) := by
  refine roundTrip_of32 _ (fun w hw => ?_)
  change 727 + s.toNat * 8192 = w at hw
  obtain ⟨lt, e0, e1, e2, e3, e4⟩ := layout40 (w := w) (by decide : 1 < 2) (by decide : 107 < 128) (by decide : 2 < 32) s.isLt (by decide : 0 < 65536) (by omega)
  clear hw
  exact ⟨by simpa using e0, lt, by simp [decode32, decodeMemory, decodeMajor6b, e1, e2, e4, fld_eq (lo := 13) (n := 3) e3]⟩
theorem RoundTrip.fenceScPkg : RoundTrip.Statement (.fenceScPkg) := by
  refine roundTrip_of32 _ (fun w hw => ?_)
  change 25559 = w at hw
  obtain ⟨lt, e0, e1, e2⟩ := layout10 (w := w) (by decide : 1 < 2) (by decide : 107 < 128) (by decide : 99 < 16777216) (by omega)
  have k0 : w / 256 % 32 = 3 := by clear lt e0 e1 e2; omega
  have k1 : w / 65536 % 65536 = 0 := by clear lt e0 e1 e2; omega
  clear hw
  exact ⟨by simpa using e0, lt, by simp [decode32, decodeMemory, decodeMajor6b, e1, e2, k0, k1]⟩
theorem RoundTrip.fenceSv : RoundTrip.Statement (.fenceSv) := by
  refine roundTrip_of32 _ (fun w hw => ?_)
  change 1239 = w at hw
  obtain ⟨lt, e0, e1, e2⟩ := layout10 (w := w) (by decide : 1 < 2) (by decide : 107 < 128) (by decide : 4 < 16777216) (by omega)
  have k0 : w / 256 % 32 = 4 := by clear lt e0 e1 e2; omega
  have k1 : w / 65536 % 65536 = 0 := by clear lt e0 e1 e2; omega
  clear hw
  exact ⟨by simpa using e0, lt, by simp [decode32, decodeMemory, decodeMajor6b, e1, e2, k0, k1]⟩
theorem RoundTrip.fenceVs : RoundTrip.Statement (.fenceVs) := by
  refine roundTrip_of32 _ (fun w hw => ?_)
  change 1495 = w at hw
  obtain ⟨lt, e0, e1, e2⟩ := layout10 (w := w) (by decide : 1 < 2) (by decide : 107 < 128) (by decide : 5 < 16777216) (by omega)
  have k0 : w / 256 % 32 = 5 := by clear lt e0 e1 e2; omega
  have k1 : w / 65536 % 65536 = 0 := by clear lt e0 e1 e2; omega
  clear hw
  exact ⟨by simpa using e0, lt, by simp [decode32, decodeMemory, decodeMajor6b, e1, e2, k0, k1]⟩
theorem RoundTrip.pbarOrder : RoundTrip.Statement (.pbarOrder) := by
  refine roundTrip_of32 _ (fun w hw => ?_)
  change 217 = w at hw
  obtain ⟨lt, e0, e1, e2⟩ := layout10 (w := w) (by decide : 1 < 2) (by decide : 108 < 128) (by decide : 0 < 16777216) (by omega)
  clear hw
  exact ⟨by simpa using e0, lt, by simp [decode32, decodeMemory, decodeMajor6c, e1, e2]⟩
theorem RoundTrip.pbarComplete : RoundTrip.Statement (.pbarComplete) := by
  refine roundTrip_of32 _ (fun w hw => ?_)
  change 8409 = w at hw
  obtain ⟨lt, e0, e1, e2⟩ := layout10 (w := w) (by decide : 1 < 2) (by decide : 108 < 128) (by decide : 32 < 16777216) (by omega)
  clear hw
  exact ⟨by simpa using e0, lt, by simp [decode32, decodeMemory, decodeMajor6c, e1, e2]⟩
theorem RoundTrip.pflush (a : BitVec 5) : RoundTrip.Statement (.pflush a) := by
  refine roundTrip_of32 _ (fun w hw => ?_)
  change 473 + a.toNat * 4194304 = w at hw
  obtain ⟨lt, e0, e1, e2, e3, e4⟩ := layout1 (w := w) (by decide : 1 < 2) (by decide : 108 < 128) (by decide : 1 < 16384) a.isLt (by decide : 0 < 32) (by omega)
  have k0 : w / 256 % 16777216 ≠ 0 := by clear lt e0 e1 e2 e3 e4; omega
  have k1 : w / 256 % 16777216 ≠ 32 := by clear lt e0 e1 e2 e3 e4; omega
  clear hw
  exact ⟨by simpa using e0, lt, by simp [decode32, decodeMemory, decodeMajor6c, e1, e2, e4, k0, k1, fld_eq (lo := 22) (n := 5) e3]⟩
theorem RoundTrip.prefL1 (b : BitVec 5) (z : BitVec 2) (o : BitVec 12) : RoundTrip.Statement (.prefL1 b z o) := by
  refine roundTrip_of32 _ (fun w hw => ?_)
  change 219 + b.toNat * 4194304 + z.toNat * 1048576 + o.toNat * 256 = w at hw
  obtain ⟨lt, e0, e1, e2, e3, e4, e5⟩ := layout25 (w := w) (by decide : 1 < 2) (by decide : 109 < 128) o.isLt z.isLt b.isLt (by decide : 0 < 32) (by omega)
  clear hw
  exact ⟨by simpa using e0, lt, by simp [decode32, decodeMemory, decodeMajor6d, e1, e5, fld_eq (lo := 8) (n := 12) e2, fld_eq (lo := 20) (n := 2) e3, fld_eq (lo := 22) (n := 5) e4]⟩
theorem RoundTrip.prefL2 (b : BitVec 5) (z : BitVec 2) (o : BitVec 12) : RoundTrip.Statement (.prefL2 b z o) := by
  refine roundTrip_of32 _ (fun w hw => ?_)
  change 134217947 + b.toNat * 4194304 + z.toNat * 1048576 + o.toNat * 256 = w at hw
  obtain ⟨lt, e0, e1, e2, e3, e4, e5⟩ := layout25 (w := w) (by decide : 1 < 2) (by decide : 109 < 128) o.isLt z.isLt b.isLt (by decide : 1 < 32) (by omega)
  clear hw
  exact ⟨by simpa using e0, lt, by simp [decode32, decodeMemory, decodeMajor6d, e1, e5, fld_eq (lo := 8) (n := 12) e2, fld_eq (lo := 20) (n := 2) e3, fld_eq (lo := 22) (n := 5) e4]⟩
theorem RoundTrip.dlg (t : BitVec 5) (a : BitVec 5) (b : BitVec 5) : RoundTrip.Statement (.dlg t a b) := by
  refine roundTrip_of32 _ (fun w hw => ?_)
  change 221 + t.toNat * 134217728 + a.toNat * 4194304 + b.toNat * 131072 = w at hw
  obtain ⟨lt, e0, e1, e2, e3, e4, e5⟩ := layout0 (w := w) (by decide : 1 < 2) (by decide : 110 < 128) (by decide : 0 < 512) b.isLt a.isLt t.isLt (by omega)
  clear hw
  exact ⟨by simpa using e0, lt, by simp [decode32, decodeMemory, decodeMajor6e, e1, e2, fld_eq (lo := 17) (n := 5) e3, fld_eq (lo := 22) (n := 5) e4, fld_eq (lo := 27) (n := 5) e5]⟩
theorem RoundTrip.dlgAm (a : BitVec 5) (b : BitVec 5) : RoundTrip.Statement (.dlgAm a b) := by
  refine roundTrip_of32 _ (fun w hw => ?_)
  change 2269 + a.toNat * 4194304 + b.toNat * 131072 = w at hw
  obtain ⟨lt, e0, e1, e2, e3, e4, e5⟩ := layout0 (w := w) (by decide : 1 < 2) (by decide : 110 < 128) (by decide : 8 < 512) b.isLt a.isLt (by decide : 0 < 32) (by omega)
  clear hw
  exact ⟨by simpa using e0, lt, by simp [decode32, decodeMemory, decodeMajor6e, e1, e2, e5, fld_eq (lo := 17) (n := 5) e3, fld_eq (lo := 22) (n := 5) e4]⟩
theorem RoundTrip.cmoInv (a : BitVec 5) : RoundTrip.Statement (.cmoInv a) := by
  refine roundTrip_of32 _ (fun w hw => ?_)
  change 223 + a.toNat * 4194304 = w at hw
  obtain ⟨lt, e0, e1, e2, e3, e4⟩ := layout1 (w := w) (by decide : 1 < 2) (by decide : 111 < 128) (by decide : 0 < 16384) a.isLt (by decide : 0 < 32) (by omega)
  clear hw
  exact ⟨by simpa using e0, lt, by simp [decode32, decodeMemory, decodeMajor6f, e1, e2, e4, fld_eq (lo := 22) (n := 5) e3]⟩
theorem RoundTrip.cmoWb (a : BitVec 5) : RoundTrip.Statement (.cmoWb a) := by
  refine roundTrip_of32 _ (fun w hw => ?_)
  change 479 + a.toNat * 4194304 = w at hw
  obtain ⟨lt, e0, e1, e2, e3, e4⟩ := layout1 (w := w) (by decide : 1 < 2) (by decide : 111 < 128) (by decide : 1 < 16384) a.isLt (by decide : 0 < 32) (by omega)
  clear hw
  exact ⟨by simpa using e0, lt, by simp [decode32, decodeMemory, decodeMajor6f, e1, e2, e4, fld_eq (lo := 22) (n := 5) e3]⟩
theorem RoundTrip.cmoZero (a : BitVec 5) : RoundTrip.Statement (.cmoZero a) := by
  refine roundTrip_of32 _ (fun w hw => ?_)
  change 735 + a.toNat * 4194304 = w at hw
  obtain ⟨lt, e0, e1, e2, e3, e4⟩ := layout1 (w := w) (by decide : 1 < 2) (by decide : 111 < 128) (by decide : 2 < 16384) a.isLt (by decide : 0 < 32) (by omega)
  clear hw
  exact ⟨by simpa using e0, lt, by simp [decode32, decodeMemory, decodeMajor6f, e1, e2, e4, fld_eq (lo := 22) (n := 5) e3]⟩
theorem RoundTrip.cmoPfr (d : BitVec 5) (a : BitVec 5) : RoundTrip.Statement (.cmoPfr d a) := by
  refine roundTrip_of32 _ (fun w hw => ?_)
  change 991 + d.toNat * 134217728 + a.toNat * 4194304 = w at hw
  obtain ⟨lt, e0, e1, e2, e3, e4⟩ := layout1 (w := w) (by decide : 1 < 2) (by decide : 111 < 128) (by decide : 3 < 16384) a.isLt d.isLt (by omega)
  clear hw
  exact ⟨by simpa using e0, lt, by simp [decode32, decodeMemory, decodeMajor6f, e1, e2, fld_eq (lo := 22) (n := 5) e3, fld_eq (lo := 27) (n := 5) e4]⟩
theorem RoundTrip.cmoPfw (a : BitVec 5) (b : BitVec 5) : RoundTrip.Statement (.cmoPfw a b) := by
  refine roundTrip_of32 _ (fun w hw => ?_)
  change 1247 + a.toNat * 4194304 + b.toNat * 131072 = w at hw
  obtain ⟨lt, e0, e1, e2, e3, e4, e5⟩ := layout0 (w := w) (by decide : 1 < 2) (by decide : 111 < 128) (by decide : 4 < 512) b.isLt a.isLt (by decide : 0 < 32) (by omega)
  have k0 : w / 256 % 16384 ≠ 0 := by clear lt e0 e1 e2 e3 e4 e5; omega
  have k1 : w / 256 % 16384 ≠ 1 := by clear lt e0 e1 e2 e3 e4 e5; omega
  have k2 : w / 256 % 16384 ≠ 2 := by clear lt e0 e1 e2 e3 e4 e5; omega
  have k3 : w / 256 % 16384 ≠ 3 := by clear lt e0 e1 e2 e3 e4 e5; omega
  clear hw
  exact ⟨by simpa using e0, lt, by simp [decode32, decodeMemory, decodeMajor6f, e1, e2, e5, k0, k1, k2, k3, fld_eq (lo := 17) (n := 5) e3, fld_eq (lo := 22) (n := 5) e4]⟩
theorem RoundTrip.cmoObjclr (a : BitVec 5) : RoundTrip.Statement (.cmoObjclr a) := by
  refine roundTrip_of32 _ (fun w hw => ?_)
  change 1503 + a.toNat * 4194304 = w at hw
  obtain ⟨lt, e0, e1, e2, e3, e4⟩ := layout1 (w := w) (by decide : 1 < 2) (by decide : 111 < 128) (by decide : 5 < 16384) a.isLt (by decide : 0 < 32) (by omega)
  have k0 : w / 256 % 512 = 5 := by clear lt e0 e1 e2 e3 e4; omega
  clear hw
  exact ⟨by simpa using e0, lt, by simp [decode32, decodeMemory, decodeMajor6f, e1, e2, e4, k0, fld_eq (lo := 22) (n := 5) e3]⟩
theorem RoundTrip.qinit (d : BitVec 5) (a : BitVec 5) (b : BitVec 5) : RoundTrip.Statement (.qinit d a b) := by
  refine roundTrip_of32 _ (fun w hw => ?_)
  change 225 + d.toNat * 134217728 + a.toNat * 4194304 + b.toNat * 131072 = w at hw
  obtain ⟨lt, e0, e1, e2, e3, e4, e5⟩ := layout0 (w := w) (by decide : 1 < 2) (by decide : 112 < 128) (by decide : 0 < 512) b.isLt a.isLt d.isLt (by omega)
  clear hw
  exact ⟨by simpa using e0, lt, by simp [decode32, decodeService, decodeMajor70, e1, e2, fld_eq (lo := 17) (n := 5) e3, fld_eq (lo := 22) (n := 5) e4, fld_eq (lo := 27) (n := 5) e5]⟩
theorem RoundTrip.qfree (d : BitVec 5) (a : BitVec 5) : RoundTrip.Statement (.qfree d a) := by
  refine roundTrip_of32 _ (fun w hw => ?_)
  change 481 + d.toNat * 134217728 + a.toNat * 4194304 = w at hw
  obtain ⟨lt, e0, e1, e2, e3, e4⟩ := layout1 (w := w) (by decide : 1 < 2) (by decide : 112 < 128) (by decide : 1 < 16384) a.isLt d.isLt (by omega)
  have k0 : w / 256 % 512 = 1 := by clear lt e0 e1 e2 e3 e4; omega
  clear hw
  exact ⟨by simpa using e0, lt, by simp [decode32, decodeService, decodeMajor70, e1, e2, k0, fld_eq (lo := 22) (n := 5) e3, fld_eq (lo := 27) (n := 5) e4]⟩
theorem RoundTrip.qstat (d : BitVec 5) (a : BitVec 5) (b : BitVec 5) : RoundTrip.Statement (.qstat d a b) := by
  refine roundTrip_of32 _ (fun w hw => ?_)
  change 737 + d.toNat * 134217728 + a.toNat * 4194304 + b.toNat * 131072 = w at hw
  obtain ⟨lt, e0, e1, e2, e3, e4, e5⟩ := layout0 (w := w) (by decide : 1 < 2) (by decide : 112 < 128) (by decide : 2 < 512) b.isLt a.isLt d.isLt (by omega)
  have k0 : w / 256 % 16384 ≠ 1 := by clear lt e0 e1 e2 e3 e4 e5; omega
  clear hw
  exact ⟨by simpa using e0, lt, by simp [decode32, decodeService, decodeMajor70, e1, e2, k0, fld_eq (lo := 17) (n := 5) e3, fld_eq (lo := 22) (n := 5) e4, fld_eq (lo := 27) (n := 5) e5]⟩
theorem RoundTrip.qpeek (d : BitVec 5) (a : BitVec 5) (b : BitVec 5) : RoundTrip.Statement (.qpeek d a b) := by
  refine roundTrip_of32 _ (fun w hw => ?_)
  change 993 + d.toNat * 134217728 + a.toNat * 4194304 + b.toNat * 131072 = w at hw
  obtain ⟨lt, e0, e1, e2, e3, e4, e5⟩ := layout0 (w := w) (by decide : 1 < 2) (by decide : 112 < 128) (by decide : 3 < 512) b.isLt a.isLt d.isLt (by omega)
  have k0 : w / 256 % 16384 ≠ 1 := by clear lt e0 e1 e2 e3 e4 e5; omega
  clear hw
  exact ⟨by simpa using e0, lt, by simp [decode32, decodeService, decodeMajor70, e1, e2, k0, fld_eq (lo := 17) (n := 5) e3, fld_eq (lo := 22) (n := 5) e4, fld_eq (lo := 27) (n := 5) e5]⟩
theorem RoundTrip.enqTry (p : BitVec 5) (a : BitVec 5) (b : BitVec 5) : RoundTrip.Statement (.enqTry p a b) := by
  refine roundTrip_of32 _ (fun w hw => ?_)
  change 227 + p.toNat * 134217728 + a.toNat * 4194304 + b.toNat * 131072 = w at hw
  obtain ⟨lt, e0, e1, e2, e3, e4, e5⟩ := layout0 (w := w) (by decide : 1 < 2) (by decide : 113 < 128) (by decide : 0 < 512) b.isLt a.isLt p.isLt (by omega)
  clear hw
  exact ⟨by simpa using e0, lt, by simp [decode32, decodeService, decodeMajor71, e1, e2, fld_eq (lo := 17) (n := 5) e3, fld_eq (lo := 22) (n := 5) e4, fld_eq (lo := 27) (n := 5) e5]⟩
theorem RoundTrip.enqWait (a : BitVec 5) (b : BitVec 5) : RoundTrip.Statement (.enqWait a b) := by
  refine roundTrip_of32 _ (fun w hw => ?_)
  change 8419 + a.toNat * 4194304 + b.toNat * 131072 = w at hw
  obtain ⟨lt, e0, e1, e2, e3, e4, e5⟩ := layout0 (w := w) (by decide : 1 < 2) (by decide : 113 < 128) (by decide : 32 < 512) b.isLt a.isLt (by decide : 0 < 32) (by omega)
  clear hw
  exact ⟨by simpa using e0, lt, by simp [decode32, decodeService, decodeMajor71, e1, e2, e5, fld_eq (lo := 17) (n := 5) e3, fld_eq (lo := 22) (n := 5) e4]⟩
theorem RoundTrip.deqTry (p : BitVec 5) (a : BitVec 5) (b : BitVec 5) : RoundTrip.Statement (.deqTry p a b) := by
  refine roundTrip_of32 _ (fun w hw => ?_)
  change 229 + p.toNat * 134217728 + a.toNat * 4194304 + b.toNat * 131072 = w at hw
  obtain ⟨lt, e0, e1, e2, e3, e4, e5⟩ := layout0 (w := w) (by decide : 1 < 2) (by decide : 114 < 128) (by decide : 0 < 512) b.isLt a.isLt p.isLt (by omega)
  clear hw
  exact ⟨by simpa using e0, lt, by simp [decode32, decodeService, decodeMajor72, e1, e2, fld_eq (lo := 17) (n := 5) e3, fld_eq (lo := 22) (n := 5) e4, fld_eq (lo := 27) (n := 5) e5]⟩
theorem RoundTrip.deqWait (a : BitVec 5) (b : BitVec 5) : RoundTrip.Statement (.deqWait a b) := by
  refine roundTrip_of32 _ (fun w hw => ?_)
  change 8421 + a.toNat * 4194304 + b.toNat * 131072 = w at hw
  obtain ⟨lt, e0, e1, e2, e3, e4, e5⟩ := layout0 (w := w) (by decide : 1 < 2) (by decide : 114 < 128) (by decide : 32 < 512) b.isLt a.isLt (by decide : 0 < 32) (by omega)
  clear hw
  exact ⟨by simpa using e0, lt, by simp [decode32, decodeService, decodeMajor72, e1, e2, e5, fld_eq (lo := 17) (n := 5) e3, fld_eq (lo := 22) (n := 5) e4]⟩
theorem RoundTrip.venqTry (d : BitVec 6) (a : BitVec 5) (p : BitVec 5) : RoundTrip.Statement (.venqTry d a p) := by
  refine roundTrip_of32 _ (fun w hw => ?_)
  change 231 + d.toNat * 67108864 + a.toNat * 2097152 + p.toNat * 32768 = w at hw
  obtain ⟨lt, e0, e1, e2, e3, e4, e5, e6⟩ := layout33 (w := w) (by decide : 1 < 2) (by decide : 115 < 128) (by decide : 0 < 128) p.isLt (by decide : 0 < 2) a.isLt d.isLt (by omega)
  clear hw
  exact ⟨by simpa using e0, lt, by simp [decode32, decodeService, decodeMajor73, e1, e2, e4, fld_eq (lo := 15) (n := 5) e3, fld_eq (lo := 21) (n := 5) e5, fld_eq (lo := 26) (n := 6) e6]⟩
theorem RoundTrip.venqWait (d : BitVec 6) (a : BitVec 5) : RoundTrip.Statement (.venqWait d a) := by
  refine roundTrip_of32 _ (fun w hw => ?_)
  change 1048807 + d.toNat * 67108864 + a.toNat * 2097152 = w at hw
  obtain ⟨lt, e0, e1, e2, e3, e4⟩ := layout41 (w := w) (by decide : 1 < 2) (by decide : 115 < 128) (by decide : 4096 < 8192) a.isLt d.isLt (by omega)
  have k0 : w / 256 % 128 = 0 := by clear lt e0 e1 e2 e3 e4; omega
  have k1 : w / 1048576 % 2 = 1 := by clear lt e0 e1 e2 e3 e4; omega
  clear hw
  exact ⟨by simpa using e0, lt, by simp [decode32, decodeService, decodeMajor73, e1, e2, k0, k1, fld_eq (lo := 21) (n := 5) e3, fld_eq (lo := 26) (n := 6) e4]⟩
theorem RoundTrip.vdeqTry (d : BitVec 6) (a : BitVec 5) (p : BitVec 5) : RoundTrip.Statement (.vdeqTry d a p) := by
  refine roundTrip_of32 _ (fun w hw => ?_)
  change 16615 + d.toNat * 67108864 + a.toNat * 2097152 + p.toNat * 32768 = w at hw
  obtain ⟨lt, e0, e1, e2, e3, e4, e5, e6⟩ := layout33 (w := w) (by decide : 1 < 2) (by decide : 115 < 128) (by decide : 64 < 128) p.isLt (by decide : 0 < 2) a.isLt d.isLt (by omega)
  have k0 : w / 256 % 8192 ≠ 4096 := by clear lt e0 e1 e2 e3 e4 e5 e6; omega
  clear hw
  exact ⟨by simpa using e0, lt, by simp [decode32, decodeService, decodeMajor73, e1, e2, e4, k0, fld_eq (lo := 15) (n := 5) e3, fld_eq (lo := 21) (n := 5) e5, fld_eq (lo := 26) (n := 6) e6]⟩
theorem RoundTrip.vdeqWait (d : BitVec 6) (a : BitVec 5) : RoundTrip.Statement (.vdeqWait d a) := by
  refine roundTrip_of32 _ (fun w hw => ?_)
  change 1065191 + d.toNat * 67108864 + a.toNat * 2097152 = w at hw
  obtain ⟨lt, e0, e1, e2, e3, e4⟩ := layout41 (w := w) (by decide : 1 < 2) (by decide : 115 < 128) (by decide : 4160 < 8192) a.isLt d.isLt (by omega)
  have k0 : w / 256 % 128 = 64 := by clear lt e0 e1 e2 e3 e4; omega
  have k1 : w / 1048576 % 2 = 1 := by clear lt e0 e1 e2 e3 e4; omega
  clear hw
  exact ⟨by simpa using e0, lt, by simp [decode32, decodeService, decodeMajor73, e1, e2, k0, k1, fld_eq (lo := 21) (n := 5) e3, fld_eq (lo := 26) (n := 6) e4]⟩
theorem RoundTrip.tspawn (d : BitVec 5) (a : BitVec 5) : RoundTrip.Statement (.tspawn d a) := by
  refine roundTrip_of32 _ (fun w hw => ?_)
  change 233 + d.toNat * 134217728 + a.toNat * 4194304 = w at hw
  obtain ⟨lt, e0, e1, e2, e3, e4⟩ := layout1 (w := w) (by decide : 1 < 2) (by decide : 116 < 128) (by decide : 0 < 16384) a.isLt d.isLt (by omega)
  clear hw
  exact ⟨by simpa using e0, lt, by simp [decode32, decodeService, decodeMajor74, e1, e2, fld_eq (lo := 22) (n := 5) e3, fld_eq (lo := 27) (n := 5) e4]⟩
theorem RoundTrip.tend : RoundTrip.Statement (.tend) := by
  refine roundTrip_of32 _ (fun w hw => ?_)
  change 489 = w at hw
  obtain ⟨lt, e0, e1, e2⟩ := layout10 (w := w) (by decide : 1 < 2) (by decide : 116 < 128) (by decide : 1 < 16777216) (by omega)
  have k0 : w / 256 % 16384 = 1 := by clear lt e0 e1 e2; omega
  clear hw
  exact ⟨by simpa using e0, lt, by simp [decode32, decodeService, decodeMajor74, e1, e2, k0]⟩
theorem RoundTrip.yield : RoundTrip.Statement (.yield) := by
  refine roundTrip_of32 _ (fun w hw => ?_)
  change 745 = w at hw
  obtain ⟨lt, e0, e1, e2⟩ := layout10 (w := w) (by decide : 1 < 2) (by decide : 116 < 128) (by decide : 2 < 16777216) (by omega)
  have k0 : w / 256 % 16384 = 2 := by clear lt e0 e1 e2; omega
  clear hw
  exact ⟨by simpa using e0, lt, by simp [decode32, decodeService, decodeMajor74, e1, e2, k0]⟩
theorem RoundTrip.gjoin (d : BitVec 5) (a : BitVec 5) : RoundTrip.Statement (.gjoin d a) := by
  refine roundTrip_of32 _ (fun w hw => ?_)
  change 1001 + d.toNat * 134217728 + a.toNat * 4194304 = w at hw
  obtain ⟨lt, e0, e1, e2, e3, e4⟩ := layout1 (w := w) (by decide : 1 < 2) (by decide : 116 < 128) (by decide : 3 < 16384) a.isLt d.isLt (by omega)
  have k0 : w / 256 % 16777216 ≠ 1 := by clear lt e0 e1 e2 e3 e4; omega
  have k1 : w / 256 % 16777216 ≠ 2 := by clear lt e0 e1 e2 e3 e4; omega
  clear hw
  exact ⟨by simpa using e0, lt, by simp [decode32, decodeService, decodeMajor74, e1, e2, k0, k1, fld_eq (lo := 22) (n := 5) e3, fld_eq (lo := 27) (n := 5) e4]⟩
theorem RoundTrip.gang (d : BitVec 5) (a : BitVec 5) (b : BitVec 5) : RoundTrip.Statement (.gang d a b) := by
  refine roundTrip_of32 _ (fun w hw => ?_)
  change 1257 + d.toNat * 134217728 + a.toNat * 4194304 + b.toNat * 131072 = w at hw
  obtain ⟨lt, e0, e1, e2, e3, e4, e5⟩ := layout0 (w := w) (by decide : 1 < 2) (by decide : 116 < 128) (by decide : 4 < 512) b.isLt a.isLt d.isLt (by omega)
  have k0 : w / 256 % 16384 ≠ 0 := by clear lt e0 e1 e2 e3 e4 e5; omega
  have k1 : w / 256 % 16777216 ≠ 1 := by clear lt e0 e1 e2 e3 e4 e5; omega
  have k2 : w / 256 % 16777216 ≠ 2 := by clear lt e0 e1 e2 e3 e4 e5; omega
  have k3 : w / 256 % 16384 ≠ 3 := by clear lt e0 e1 e2 e3 e4 e5; omega
  clear hw
  exact ⟨by simpa using e0, lt, by simp [decode32, decodeService, decodeMajor74, e1, e2, k0, k1, k2, k3, fld_eq (lo := 17) (n := 5) e3, fld_eq (lo := 22) (n := 5) e4, fld_eq (lo := 27) (n := 5) e5]⟩
theorem RoundTrip.ungang : RoundTrip.Statement (.ungang) := by
  refine roundTrip_of32 _ (fun w hw => ?_)
  change 1513 = w at hw
  obtain ⟨lt, e0, e1, e2⟩ := layout10 (w := w) (by decide : 1 < 2) (by decide : 116 < 128) (by decide : 5 < 16777216) (by omega)
  have k0 : w / 256 % 512 = 5 := by clear lt e0 e1 e2; omega
  have k1 : w / 256 % 16384 = 5 := by clear lt e0 e1 e2; omega
  clear hw
  exact ⟨by simpa using e0, lt, by simp [decode32, decodeService, decodeMajor74, e1, e2, k0, k1]⟩
theorem RoundTrip.wqry (d : BitVec 5) (a : BitVec 5) (b : BitVec 5) : RoundTrip.Statement (.wqry d a b) := by
  refine roundTrip_of32 _ (fun w hw => ?_)
  change 235 + d.toNat * 134217728 + a.toNat * 4194304 + b.toNat * 131072 = w at hw
  obtain ⟨lt, e0, e1, e2, e3, e4, e5⟩ := layout0 (w := w) (by decide : 1 < 2) (by decide : 117 < 128) (by decide : 0 < 512) b.isLt a.isLt d.isLt (by omega)
  clear hw
  exact ⟨by simpa using e0, lt, by simp [decode32, decodeService, decodeMajor75, e1, e2, fld_eq (lo := 17) (n := 5) e3, fld_eq (lo := 22) (n := 5) e4, fld_eq (lo := 27) (n := 5) e5]⟩
theorem RoundTrip.wqryOpen (d : BitVec 5) (a : BitVec 5) (b : BitVec 5) : RoundTrip.Statement (.wqryOpen d a b) := by
  refine roundTrip_of32 _ (fun w hw => ?_)
  change 8427 + d.toNat * 134217728 + a.toNat * 4194304 + b.toNat * 131072 = w at hw
  obtain ⟨lt, e0, e1, e2, e3, e4, e5⟩ := layout0 (w := w) (by decide : 1 < 2) (by decide : 117 < 128) (by decide : 32 < 512) b.isLt a.isLt d.isLt (by omega)
  clear hw
  exact ⟨by simpa using e0, lt, by simp [decode32, decodeService, decodeMajor75, e1, e2, fld_eq (lo := 17) (n := 5) e3, fld_eq (lo := 22) (n := 5) e4, fld_eq (lo := 27) (n := 5) e5]⟩
theorem RoundTrip.tlbiVa (a : BitVec 5) (b : BitVec 5) : RoundTrip.Statement (.tlbiVa a b) := by
  refine roundTrip_of32 _ (fun w hw => ?_)
  change 241 + a.toNat * 4194304 + b.toNat * 131072 = w at hw
  obtain ⟨lt, e0, e1, e2, e3, e4, e5⟩ := layout0 (w := w) (by decide : 1 < 2) (by decide : 120 < 128) (by decide : 0 < 512) b.isLt a.isLt (by decide : 0 < 32) (by omega)
  clear hw
  exact ⟨by simpa using e0, lt, by simp [decode32, decodeService, decodeMajor78, e1, e2, e5, fld_eq (lo := 17) (n := 5) e3, fld_eq (lo := 22) (n := 5) e4]⟩
theorem RoundTrip.tlbiPart (a : BitVec 5) : RoundTrip.Statement (.tlbiPart a) := by
  refine roundTrip_of32 _ (fun w hw => ?_)
  change 497 + a.toNat * 4194304 = w at hw
  obtain ⟨lt, e0, e1, e2, e3, e4⟩ := layout1 (w := w) (by decide : 1 < 2) (by decide : 120 < 128) (by decide : 1 < 16384) a.isLt (by decide : 0 < 32) (by omega)
  have k0 : w / 256 % 512 = 1 := by clear lt e0 e1 e2 e3 e4; omega
  clear hw
  exact ⟨by simpa using e0, lt, by simp [decode32, decodeService, decodeMajor78, e1, e2, e4, k0, fld_eq (lo := 22) (n := 5) e3]⟩
theorem RoundTrip.tlbiAll : RoundTrip.Statement (.tlbiAll) := by
  refine roundTrip_of32 _ (fun w hw => ?_)
  change 753 = w at hw
  obtain ⟨lt, e0, e1, e2⟩ := layout10 (w := w) (by decide : 1 < 2) (by decide : 120 < 128) (by decide : 2 < 16777216) (by omega)
  have k0 : w / 256 % 512 = 2 := by clear lt e0 e1 e2; omega
  have k1 : w / 256 % 16384 = 2 := by clear lt e0 e1 e2; omega
  have k2 : w / 134217728 % 32 = 0 := by clear lt e0 e1 e2; omega
  clear hw
  exact ⟨by simpa using e0, lt, by simp [decode32, decodeService, decodeMajor78, e1, e2, k0, k1, k2]⟩
theorem RoundTrip.probe (d : BitVec 5) (a : BitVec 5) (b : BitVec 5) : RoundTrip.Statement (.probe d a b) := by
  refine roundTrip_of32 _ (fun w hw => ?_)
  change 1009 + d.toNat * 134217728 + a.toNat * 4194304 + b.toNat * 131072 = w at hw
  obtain ⟨lt, e0, e1, e2, e3, e4, e5⟩ := layout0 (w := w) (by decide : 1 < 2) (by decide : 120 < 128) (by decide : 3 < 512) b.isLt a.isLt d.isLt (by omega)
  have k0 : w / 256 % 16384 ≠ 1 := by clear lt e0 e1 e2 e3 e4 e5; omega
  have k1 : w / 256 % 16777216 ≠ 2 := by clear lt e0 e1 e2 e3 e4 e5; omega
  clear hw
  exact ⟨by simpa using e0, lt, by simp [decode32, decodeService, decodeMajor78, e1, e2, k0, k1, fld_eq (lo := 17) (n := 5) e3, fld_eq (lo := 22) (n := 5) e4, fld_eq (lo := 27) (n := 5) e5]⟩
theorem RoundTrip.gissue (d : BitVec 5) (a : BitVec 5) (b : BitVec 5) : RoundTrip.Statement (.gissue d a b) := by
  refine roundTrip_of32 _ (fun w hw => ?_)
  change 243 + d.toNat * 134217728 + a.toNat * 4194304 + b.toNat * 131072 = w at hw
  obtain ⟨lt, e0, e1, e2, e3, e4, e5⟩ := layout0 (w := w) (by decide : 1 < 2) (by decide : 121 < 128) (by decide : 0 < 512) b.isLt a.isLt d.isLt (by omega)
  clear hw
  exact ⟨by simpa using e0, lt, by simp [decode32, decodeService, decodeMajor79, e1, e2, fld_eq (lo := 17) (n := 5) e3, fld_eq (lo := 22) (n := 5) e4, fld_eq (lo := 27) (n := 5) e5]⟩
theorem RoundTrip.grevoke (d : BitVec 5) (a : BitVec 5) : RoundTrip.Statement (.grevoke d a) := by
  refine roundTrip_of32 _ (fun w hw => ?_)
  change 499 + d.toNat * 134217728 + a.toNat * 4194304 = w at hw
  obtain ⟨lt, e0, e1, e2, e3, e4⟩ := layout1 (w := w) (by decide : 1 < 2) (by decide : 121 < 128) (by decide : 1 < 16384) a.isLt d.isLt (by omega)
  have k0 : w / 256 % 512 = 1 := by clear lt e0 e1 e2 e3 e4; omega
  clear hw
  exact ⟨by simpa using e0, lt, by simp [decode32, decodeService, decodeMajor79, e1, e2, k0, fld_eq (lo := 22) (n := 5) e3, fld_eq (lo := 27) (n := 5) e4]⟩
theorem RoundTrip.gcheck (d : BitVec 5) (a : BitVec 5) (b : BitVec 5) : RoundTrip.Statement (.gcheck d a b) := by
  refine roundTrip_of32 _ (fun w hw => ?_)
  change 755 + d.toNat * 134217728 + a.toNat * 4194304 + b.toNat * 131072 = w at hw
  obtain ⟨lt, e0, e1, e2, e3, e4, e5⟩ := layout0 (w := w) (by decide : 1 < 2) (by decide : 121 < 128) (by decide : 2 < 512) b.isLt a.isLt d.isLt (by omega)
  have k0 : w / 256 % 16384 ≠ 1 := by clear lt e0 e1 e2 e3 e4 e5; omega
  clear hw
  exact ⟨by simpa using e0, lt, by simp [decode32, decodeService, decodeMajor79, e1, e2, k0, fld_eq (lo := 17) (n := 5) e3, fld_eq (lo := 22) (n := 5) e4, fld_eq (lo := 27) (n := 5) e5]⟩
theorem RoundTrip.kvalloc (d : BitVec 5) (a : BitVec 5) (b : BitVec 5) : RoundTrip.Statement (.kvalloc d a b) := by
  refine roundTrip_of32 _ (fun w hw => ?_)
  change 245 + d.toNat * 134217728 + a.toNat * 4194304 + b.toNat * 131072 = w at hw
  obtain ⟨lt, e0, e1, e2, e3, e4, e5⟩ := layout0 (w := w) (by decide : 1 < 2) (by decide : 122 < 128) (by decide : 0 < 512) b.isLt a.isLt d.isLt (by omega)
  clear hw
  exact ⟨by simpa using e0, lt, by simp [decode32, decodeService, decodeMajor7a, e1, e2, fld_eq (lo := 17) (n := 5) e3, fld_eq (lo := 22) (n := 5) e4, fld_eq (lo := 27) (n := 5) e5]⟩
theorem RoundTrip.kvallocInit (d : BitVec 5) (a : BitVec 5) (b : BitVec 5) : RoundTrip.Statement (.kvallocInit d a b) := by
  refine roundTrip_of32 _ (fun w hw => ?_)
  change 8437 + d.toNat * 134217728 + a.toNat * 4194304 + b.toNat * 131072 = w at hw
  obtain ⟨lt, e0, e1, e2, e3, e4, e5⟩ := layout0 (w := w) (by decide : 1 < 2) (by decide : 122 < 128) (by decide : 32 < 512) b.isLt a.isLt d.isLt (by omega)
  clear hw
  exact ⟨by simpa using e0, lt, by simp [decode32, decodeService, decodeMajor7a, e1, e2, fld_eq (lo := 17) (n := 5) e3, fld_eq (lo := 22) (n := 5) e4, fld_eq (lo := 27) (n := 5) e5]⟩
theorem RoundTrip.kvref (d : BitVec 5) (a : BitVec 5) (b : BitVec 5) : RoundTrip.Statement (.kvref d a b) := by
  refine roundTrip_of32 _ (fun w hw => ?_)
  change 501 + d.toNat * 134217728 + a.toNat * 4194304 + b.toNat * 131072 = w at hw
  obtain ⟨lt, e0, e1, e2, e3, e4, e5⟩ := layout0 (w := w) (by decide : 1 < 2) (by decide : 122 < 128) (by decide : 1 < 512) b.isLt a.isLt d.isLt (by omega)
  clear hw
  exact ⟨by simpa using e0, lt, by simp [decode32, decodeService, decodeMajor7a, e1, e2, fld_eq (lo := 17) (n := 5) e3, fld_eq (lo := 22) (n := 5) e4, fld_eq (lo := 27) (n := 5) e5]⟩
theorem RoundTrip.kvunref (d : BitVec 5) (a : BitVec 5) (b : BitVec 5) : RoundTrip.Statement (.kvunref d a b) := by
  refine roundTrip_of32 _ (fun w hw => ?_)
  change 757 + d.toNat * 134217728 + a.toNat * 4194304 + b.toNat * 131072 = w at hw
  obtain ⟨lt, e0, e1, e2, e3, e4, e5⟩ := layout0 (w := w) (by decide : 1 < 2) (by decide : 122 < 128) (by decide : 2 < 512) b.isLt a.isLt d.isLt (by omega)
  clear hw
  exact ⟨by simpa using e0, lt, by simp [decode32, decodeService, decodeMajor7a, e1, e2, fld_eq (lo := 17) (n := 5) e3, fld_eq (lo := 22) (n := 5) e4, fld_eq (lo := 27) (n := 5) e5]⟩
theorem RoundTrip.kvapp (d : BitVec 5) (a : BitVec 5) (b : BitVec 5) : RoundTrip.Statement (.kvapp d a b) := by
  refine roundTrip_of32 _ (fun w hw => ?_)
  change 1013 + d.toNat * 134217728 + a.toNat * 4194304 + b.toNat * 131072 = w at hw
  obtain ⟨lt, e0, e1, e2, e3, e4, e5⟩ := layout0 (w := w) (by decide : 1 < 2) (by decide : 122 < 128) (by decide : 3 < 512) b.isLt a.isLt d.isLt (by omega)
  clear hw
  exact ⟨by simpa using e0, lt, by simp [decode32, decodeService, decodeMajor7a, e1, e2, fld_eq (lo := 17) (n := 5) e3, fld_eq (lo := 22) (n := 5) e4, fld_eq (lo := 27) (n := 5) e5]⟩
theorem RoundTrip.kvspl (d : BitVec 5) (a : BitVec 5) (b : BitVec 5) : RoundTrip.Statement (.kvspl d a b) := by
  refine roundTrip_of32 _ (fun w hw => ?_)
  change 1269 + d.toNat * 134217728 + a.toNat * 4194304 + b.toNat * 131072 = w at hw
  obtain ⟨lt, e0, e1, e2, e3, e4, e5⟩ := layout0 (w := w) (by decide : 1 < 2) (by decide : 122 < 128) (by decide : 4 < 512) b.isLt a.isLt d.isLt (by omega)
  clear hw
  exact ⟨by simpa using e0, lt, by simp [decode32, decodeService, decodeMajor7a, e1, e2, fld_eq (lo := 17) (n := 5) e3, fld_eq (lo := 22) (n := 5) e4, fld_eq (lo := 27) (n := 5) e5]⟩
theorem RoundTrip.kvreq (d : BitVec 5) (a : BitVec 5) (b : BitVec 5) : RoundTrip.Statement (.kvreq d a b) := by
  refine roundTrip_of32 _ (fun w hw => ?_)
  change 1525 + d.toNat * 134217728 + a.toNat * 4194304 + b.toNat * 131072 = w at hw
  obtain ⟨lt, e0, e1, e2, e3, e4, e5⟩ := layout0 (w := w) (by decide : 1 < 2) (by decide : 122 < 128) (by decide : 5 < 512) b.isLt a.isLt d.isLt (by omega)
  clear hw
  exact ⟨by simpa using e0, lt, by simp [decode32, decodeService, decodeMajor7a, e1, e2, fld_eq (lo := 17) (n := 5) e3, fld_eq (lo := 22) (n := 5) e4, fld_eq (lo := 27) (n := 5) e5]⟩
theorem RoundTrip.kvsrcGet (d : BitVec 5) (a : BitVec 5) (b : BitVec 5) : RoundTrip.Statement (.kvsrcGet d a b) := by
  refine roundTrip_of32 _ (fun w hw => ?_)
  change 1781 + d.toNat * 134217728 + a.toNat * 4194304 + b.toNat * 131072 = w at hw
  obtain ⟨lt, e0, e1, e2, e3, e4, e5⟩ := layout0 (w := w) (by decide : 1 < 2) (by decide : 122 < 128) (by decide : 6 < 512) b.isLt a.isLt d.isLt (by omega)
  clear hw
  exact ⟨by simpa using e0, lt, by simp [decode32, decodeService, decodeMajor7a, e1, e2, fld_eq (lo := 17) (n := 5) e3, fld_eq (lo := 22) (n := 5) e4, fld_eq (lo := 27) (n := 5) e5]⟩
theorem RoundTrip.kvsrcSet (d : BitVec 5) (a : BitVec 5) (b : BitVec 5) : RoundTrip.Statement (.kvsrcSet d a b) := by
  refine roundTrip_of32 _ (fun w hw => ?_)
  change 9973 + d.toNat * 134217728 + a.toNat * 4194304 + b.toNat * 131072 = w at hw
  obtain ⟨lt, e0, e1, e2, e3, e4, e5⟩ := layout0 (w := w) (by decide : 1 < 2) (by decide : 122 < 128) (by decide : 38 < 512) b.isLt a.isLt d.isLt (by omega)
  clear hw
  exact ⟨by simpa using e0, lt, by simp [decode32, decodeService, decodeMajor7a, e1, e2, fld_eq (lo := 17) (n := 5) e3, fld_eq (lo := 22) (n := 5) e4, fld_eq (lo := 27) (n := 5) e5]⟩
theorem RoundTrip.kvsrcBump (d : BitVec 5) (a : BitVec 5) (b : BitVec 5) : RoundTrip.Statement (.kvsrcBump d a b) := by
  refine roundTrip_of32 _ (fun w hw => ?_)
  change 18165 + d.toNat * 134217728 + a.toNat * 4194304 + b.toNat * 131072 = w at hw
  obtain ⟨lt, e0, e1, e2, e3, e4, e5⟩ := layout0 (w := w) (by decide : 1 < 2) (by decide : 122 < 128) (by decide : 70 < 512) b.isLt a.isLt d.isLt (by omega)
  clear hw
  exact ⟨by simpa using e0, lt, by simp [decode32, decodeService, decodeMajor7a, e1, e2, fld_eq (lo := 17) (n := 5) e3, fld_eq (lo := 22) (n := 5) e4, fld_eq (lo := 27) (n := 5) e5]⟩
theorem RoundTrip.kvg (d : BitVec 6) (b : BitVec 5) (e : BitVec 6) (m : BitVec 1) : RoundTrip.Statement (.kvg d b e m) := by
  refine roundTrip_of32 _ (fun w hw => ?_)
  change 247 + d.toNat * 67108864 + b.toNat * 2097152 + e.toNat * 32768 + m.toNat * 16384 = w at hw
  obtain ⟨lt, e0, e1, e2, e3, e4, e5, e6⟩ := layout42 (w := w) (by decide : 1 < 2) (by decide : 123 < 128) (by decide : 0 < 64) m.isLt e.isLt b.isLt d.isLt (by omega)
  clear hw
  exact ⟨by simpa using e0, lt, by simp [decode32, decodeService, decodeMajor7b, e1, e2, fld_eq (lo := 14) (n := 1) e3, fld_eq (lo := 15) (n := 6) e4, fld_eq (lo := 21) (n := 5) e5, fld_eq (lo := 26) (n := 6) e6]⟩
theorem RoundTrip.kvgStale (d : BitVec 6) (b : BitVec 5) (e : BitVec 6) (m : BitVec 1) : RoundTrip.Statement (.kvgStale d b e m) := by
  refine roundTrip_of32 _ (fun w hw => ?_)
  change 503 + d.toNat * 67108864 + b.toNat * 2097152 + e.toNat * 32768 + m.toNat * 16384 = w at hw
  obtain ⟨lt, e0, e1, e2, e3, e4, e5, e6⟩ := layout42 (w := w) (by decide : 1 < 2) (by decide : 123 < 128) (by decide : 1 < 64) m.isLt e.isLt b.isLt d.isLt (by omega)
  clear hw
  exact ⟨by simpa using e0, lt, by simp [decode32, decodeService, decodeMajor7b, e1, e2, fld_eq (lo := 14) (n := 1) e3, fld_eq (lo := 15) (n := 6) e4, fld_eq (lo := 21) (n := 5) e5, fld_eq (lo := 26) (n := 6) e6]⟩
theorem RoundTrip.kvgRep (d : BitVec 6) (b : BitVec 5) (e : BitVec 6) (m : BitVec 1) : RoundTrip.Statement (.kvgRep d b e m) := by
  refine roundTrip_of32 _ (fun w hw => ?_)
  change 759 + d.toNat * 67108864 + b.toNat * 2097152 + e.toNat * 32768 + m.toNat * 16384 = w at hw
  obtain ⟨lt, e0, e1, e2, e3, e4, e5, e6⟩ := layout42 (w := w) (by decide : 1 < 2) (by decide : 123 < 128) (by decide : 2 < 64) m.isLt e.isLt b.isLt d.isLt (by omega)
  clear hw
  exact ⟨by simpa using e0, lt, by simp [decode32, decodeService, decodeMajor7b, e1, e2, fld_eq (lo := 14) (n := 1) e3, fld_eq (lo := 15) (n := 6) e4, fld_eq (lo := 21) (n := 5) e5, fld_eq (lo := 26) (n := 6) e6]⟩
theorem RoundTrip.kvgAny (d : BitVec 6) (b : BitVec 5) (e : BitVec 6) (m : BitVec 1) : RoundTrip.Statement (.kvgAny d b e m) := by
  refine roundTrip_of32 _ (fun w hw => ?_)
  change 1015 + d.toNat * 67108864 + b.toNat * 2097152 + e.toNat * 32768 + m.toNat * 16384 = w at hw
  obtain ⟨lt, e0, e1, e2, e3, e4, e5, e6⟩ := layout42 (w := w) (by decide : 1 < 2) (by decide : 123 < 128) (by decide : 3 < 64) m.isLt e.isLt b.isLt d.isLt (by omega)
  clear hw
  exact ⟨by simpa using e0, lt, by simp [decode32, decodeService, decodeMajor7b, e1, e2, fld_eq (lo := 14) (n := 1) e3, fld_eq (lo := 15) (n := 6) e4, fld_eq (lo := 21) (n := 5) e5, fld_eq (lo := 26) (n := 6) e6]⟩
theorem RoundTrip.rkjob (d : BitVec 5) (a : BitVec 5) : RoundTrip.Statement (.rkjob d a) := by
  refine roundTrip_of32 _ (fun w hw => ?_)
  change 249 + d.toNat * 134217728 + a.toNat * 4194304 = w at hw
  obtain ⟨lt, e0, e1, e2, e3, e4⟩ := layout1 (w := w) (by decide : 1 < 2) (by decide : 124 < 128) (by decide : 0 < 16384) a.isLt d.isLt (by omega)
  clear hw
  exact ⟨by simpa using e0, lt, by simp [decode32, decodeService, decodeMajor7c, e1, e2, fld_eq (lo := 22) (n := 5) e3, fld_eq (lo := 27) (n := 5) e4]⟩
theorem RoundTrip.rkstat (d : BitVec 5) (a : BitVec 5) : RoundTrip.Statement (.rkstat d a) := by
  refine roundTrip_of32 _ (fun w hw => ?_)
  change 505 + d.toNat * 134217728 + a.toNat * 4194304 = w at hw
  obtain ⟨lt, e0, e1, e2, e3, e4⟩ := layout1 (w := w) (by decide : 1 < 2) (by decide : 124 < 128) (by decide : 1 < 16384) a.isLt d.isLt (by omega)
  clear hw
  exact ⟨by simpa using e0, lt, by simp [decode32, decodeService, decodeMajor7c, e1, e2, fld_eq (lo := 22) (n := 5) e3, fld_eq (lo := 27) (n := 5) e4]⟩
theorem RoundTrip.rkcancel (d : BitVec 5) (a : BitVec 5) : RoundTrip.Statement (.rkcancel d a) := by
  refine roundTrip_of32 _ (fun w hw => ?_)
  change 761 + d.toNat * 134217728 + a.toNat * 4194304 = w at hw
  obtain ⟨lt, e0, e1, e2, e3, e4⟩ := layout1 (w := w) (by decide : 1 < 2) (by decide : 124 < 128) (by decide : 2 < 16384) a.isLt d.isLt (by omega)
  clear hw
  exact ⟨by simpa using e0, lt, by simp [decode32, decodeService, decodeMajor7c, e1, e2, fld_eq (lo := 22) (n := 5) e3, fld_eq (lo := 27) (n := 5) e4]⟩
theorem RoundTrip.await (t : BitVec 5) (l : BitVec 8) : RoundTrip.Statement (.await t l) := by
  refine roundTrip_of32 _ (fun w hw => ?_)
  change 251 + t.toNat * 134217728 + l.toNat * 524288 = w at hw
  obtain ⟨lt, e0, e1, e2, e3, e4⟩ := layout43 (w := w) (by decide : 1 < 2) (by decide : 125 < 128) (by decide : 0 < 2048) l.isLt t.isLt (by omega)
  clear hw
  exact ⟨by simpa using e0, lt, by simp [decode32, decodeService, decodeMajor7d, e1, e2, fld_eq (lo := 19) (n := 8) e3, fld_eq (lo := 27) (n := 5) e4]⟩
theorem RoundTrip.awaitT (t : BitVec 5) (l : BitVec 8) : RoundTrip.Statement (.awaitT t l) := by
  refine roundTrip_of32 _ (fun w hw => ?_)
  change 65787 + t.toNat * 134217728 + l.toNat * 524288 = w at hw
  obtain ⟨lt, e0, e1, e2, e3, e4⟩ := layout43 (w := w) (by decide : 1 < 2) (by decide : 125 < 128) (by decide : 256 < 2048) l.isLt t.isLt (by omega)
  clear hw
  exact ⟨by simpa using e0, lt, by simp [decode32, decodeService, decodeMajor7d, e1, e2, fld_eq (lo := 19) (n := 8) e3, fld_eq (lo := 27) (n := 5) e4]⟩
theorem RoundTrip.awaitany (t : BitVec 5) (l : BitVec 8) : RoundTrip.Statement (.awaitany t l) := by
  refine roundTrip_of32 _ (fun w hw => ?_)
  change 131323 + t.toNat * 134217728 + l.toNat * 524288 = w at hw
  obtain ⟨lt, e0, e1, e2, e3, e4⟩ := layout43 (w := w) (by decide : 1 < 2) (by decide : 125 < 128) (by decide : 512 < 2048) l.isLt t.isLt (by omega)
  clear hw
  exact ⟨by simpa using e0, lt, by simp [decode32, decodeService, decodeMajor7d, e1, e2, fld_eq (lo := 19) (n := 8) e3, fld_eq (lo := 27) (n := 5) e4]⟩
theorem RoundTrip.celli (d : BitVec 5) (a : BitVec 5) (b : BitVec 5) : RoundTrip.Statement (.celli d a b) := by
  refine roundTrip_of32 _ (fun w hw => ?_)
  change 253 + d.toNat * 134217728 + a.toNat * 4194304 + b.toNat * 131072 = w at hw
  obtain ⟨lt, e0, e1, e2, e3, e4, e5⟩ := layout0 (w := w) (by decide : 1 < 2) (by decide : 126 < 128) (by decide : 0 < 512) b.isLt a.isLt d.isLt (by omega)
  clear hw
  exact ⟨by simpa using e0, lt, by simp [decode32, decodeService, decodeMajor7e, e1, e2, fld_eq (lo := 17) (n := 5) e3, fld_eq (lo := 22) (n := 5) e4, fld_eq (lo := 27) (n := 5) e5]⟩
theorem RoundTrip.signal (d : BitVec 5) (a : BitVec 5) (b : BitVec 5) (e : BitVec 1) (s : BitVec 3) : RoundTrip.Statement (.signal d a b e s) := by
  refine roundTrip_of32 _ (fun w hw => ?_)
  change 509 + d.toNat * 134217728 + a.toNat * 4194304 + b.toNat * 131072 + e.toNat * 65536 + s.toNat * 8192 = w at hw
  obtain ⟨lt, e0, e1, e2, e3, e4, e5, e6, e7⟩ := layout9 (w := w) (by decide : 1 < 2) (by decide : 126 < 128) (by decide : 1 < 32) s.isLt e.isLt b.isLt a.isLt d.isLt (by omega)
  have k0 : w / 256 % 512 ≠ 0 := by clear lt e0 e1 e2 e3 e4 e5 e6 e7; omega
  clear hw
  exact ⟨by simpa using e0, lt, by simp [decode32, decodeService, decodeMajor7e, e1, e2, k0, fld_eq (lo := 13) (n := 3) e3, fld_eq (lo := 16) (n := 1) e4, fld_eq (lo := 17) (n := 5) e5, fld_eq (lo := 22) (n := 5) e6, fld_eq (lo := 27) (n := 5) e7]⟩
theorem RoundTrip.cread (d : BitVec 5) (a : BitVec 5) (b : BitVec 5) : RoundTrip.Statement (.cread d a b) := by
  refine roundTrip_of32 _ (fun w hw => ?_)
  change 765 + d.toNat * 134217728 + a.toNat * 4194304 + b.toNat * 131072 = w at hw
  obtain ⟨lt, e0, e1, e2, e3, e4, e5⟩ := layout0 (w := w) (by decide : 1 < 2) (by decide : 126 < 128) (by decide : 2 < 512) b.isLt a.isLt d.isLt (by omega)
  have k0 : w / 256 % 32 = 2 := by clear lt e0 e1 e2 e3 e4 e5; omega
  clear hw
  exact ⟨by simpa using e0, lt, by simp [decode32, decodeService, decodeMajor7e, e1, e2, k0, fld_eq (lo := 17) (n := 5) e3, fld_eq (lo := 22) (n := 5) e4, fld_eq (lo := 27) (n := 5) e5]⟩
theorem RoundTrip.rvinit (d : BitVec 5) (a : BitVec 5) (b : BitVec 5) : RoundTrip.Statement (.rvinit d a b) := by
  refine roundTrip_of32 _ (fun w hw => ?_)
  change 1021 + d.toNat * 134217728 + a.toNat * 4194304 + b.toNat * 131072 = w at hw
  obtain ⟨lt, e0, e1, e2, e3, e4, e5⟩ := layout0 (w := w) (by decide : 1 < 2) (by decide : 126 < 128) (by decide : 3 < 512) b.isLt a.isLt d.isLt (by omega)
  have k0 : w / 256 % 32 = 3 := by clear lt e0 e1 e2 e3 e4 e5; omega
  clear hw
  exact ⟨by simpa using e0, lt, by simp [decode32, decodeService, decodeMajor7e, e1, e2, k0, fld_eq (lo := 17) (n := 5) e3, fld_eq (lo := 22) (n := 5) e4, fld_eq (lo := 27) (n := 5) e5]⟩
theorem RoundTrip.rvarr (d : BitVec 5) (a : BitVec 5) (b : BitVec 5) : RoundTrip.Statement (.rvarr d a b) := by
  refine roundTrip_of32 _ (fun w hw => ?_)
  change 1277 + d.toNat * 134217728 + a.toNat * 4194304 + b.toNat * 131072 = w at hw
  obtain ⟨lt, e0, e1, e2, e3, e4, e5⟩ := layout0 (w := w) (by decide : 1 < 2) (by decide : 126 < 128) (by decide : 4 < 512) b.isLt a.isLt d.isLt (by omega)
  have k0 : w / 256 % 32 = 4 := by clear lt e0 e1 e2 e3 e4 e5; omega
  clear hw
  exact ⟨by simpa using e0, lt, by simp [decode32, decodeService, decodeMajor7e, e1, e2, k0, fld_eq (lo := 17) (n := 5) e3, fld_eq (lo := 22) (n := 5) e4, fld_eq (lo := 27) (n := 5) e5]⟩
theorem RoundTrip.rvfree (d : BitVec 5) (a : BitVec 5) : RoundTrip.Statement (.rvfree d a) := by
  refine roundTrip_of32 _ (fun w hw => ?_)
  change 1533 + d.toNat * 134217728 + a.toNat * 4194304 = w at hw
  obtain ⟨lt, e0, e1, e2, e3, e4⟩ := layout1 (w := w) (by decide : 1 < 2) (by decide : 126 < 128) (by decide : 5 < 16384) a.isLt d.isLt (by omega)
  have k0 : w / 256 % 32 = 5 := by clear lt e0 e1 e2 e3 e4; omega
  have k1 : w / 256 % 512 = 5 := by clear lt e0 e1 e2 e3 e4; omega
  clear hw
  exact ⟨by simpa using e0, lt, by simp [decode32, decodeService, decodeMajor7e, e1, e2, k0, k1, fld_eq (lo := 22) (n := 5) e3, fld_eq (lo := 27) (n := 5) e4]⟩
theorem RoundTrip.barw (d : BitVec 5) : RoundTrip.Statement (.barw d) := by
  refine roundTrip_of32 _ (fun w hw => ?_)
  change 1789 + d.toNat * 134217728 = w at hw
  obtain ⟨lt, e0, e1, e2, e3⟩ := layout3 (w := w) (by decide : 1 < 2) (by decide : 126 < 128) (by decide : 6 < 524288) d.isLt (by omega)
  have k0 : w / 256 % 32 = 6 := by clear lt e0 e1 e2 e3; omega
  have k1 : w / 256 % 512 = 6 := by clear lt e0 e1 e2 e3; omega
  have k2 : w / 256 % 16384 = 6 := by clear lt e0 e1 e2 e3; omega
  clear hw
  exact ⟨by simpa using e0, lt, by simp [decode32, decodeService, decodeMajor7e, e1, e2, k0, k1, k2, fld_eq (lo := 27) (n := 5) e3]⟩
theorem RoundTrip.waituntil (a : BitVec 5) (b : BitVec 5) : RoundTrip.Statement (.waituntil a b) := by
  refine roundTrip_of32 _ (fun w hw => ?_)
  change 2045 + a.toNat * 4194304 + b.toNat * 131072 = w at hw
  obtain ⟨lt, e0, e1, e2, e3, e4, e5⟩ := layout0 (w := w) (by decide : 1 < 2) (by decide : 126 < 128) (by decide : 7 < 512) b.isLt a.isLt (by decide : 0 < 32) (by omega)
  have k0 : w / 256 % 32 = 7 := by clear lt e0 e1 e2 e3 e4 e5; omega
  have k1 : w / 256 % 16384 ≠ 5 := by clear lt e0 e1 e2 e3 e4 e5; omega
  have k2 : w / 256 % 524288 ≠ 6 := by clear lt e0 e1 e2 e3 e4 e5; omega
  clear hw
  exact ⟨by simpa using e0, lt, by simp [decode32, decodeService, decodeMajor7e, e1, e2, e5, k0, k1, k2, fld_eq (lo := 17) (n := 5) e3, fld_eq (lo := 22) (n := 5) e4]⟩
theorem RoundTrip.reportRound : RoundTrip.Statement (.reportRound) :=
  fun h => absurd rfl h
theorem RoundTrip.launchDequeue (part : Nat) : RoundTrip.Statement (.launchDequeue part) :=
  fun h => absurd rfl h
theorem RoundTrip.launchCancel (order : Nat) : RoundTrip.Statement (.launchCancel order) :=
  fun h => absurd rfl h
theorem RoundTrip.panClaim (core : Nat) (serial : Nat) : RoundTrip.Statement (.panClaim core serial) :=
  fun h => absurd rfl h
theorem RoundTrip.creationMessage (core : Nat) (serial : Nat) (tid : Nat) (restart : Bool) : RoundTrip.Statement (.creationMessage core serial tid restart) :=
  fun h => absurd rfl h
theorem RoundTrip.endMessage (core : Nat) (serial : Nat) (tid : Nat) : RoundTrip.Statement (.endMessage core serial tid) :=
  fun h => absurd rfl h
theorem RoundTrip.tspawnRequest (core : Nat) (seq : Nat) (serial : Nat) (target : Nat) : RoundTrip.Statement (.tspawnRequest core seq serial target) :=
  fun h => absurd rfl h
theorem RoundTrip.gjoinRequest (core : Nat) (seq : Nat) (serial : Nat) (count : Nat) : RoundTrip.Statement (.gjoinRequest core seq serial count) :=
  fun h => absurd rfl h
theorem RoundTrip.wqryRequest (core : Nat) (seq : Nat) (serial : Nat) (list : Nat) (place : Nat) (off : Nat) : RoundTrip.Statement (.wqryRequest core seq serial list place off) :=
  fun h => absurd rfl h
theorem RoundTrip.wqryOpenRequest (core : Nat) (serial : Nat) (list : Nat) (extent : BitVec 60) : RoundTrip.Statement (.wqryOpenRequest core serial list extent) :=
  fun h => absurd rfl h
theorem RoundTrip.trestartRequest (core : Nat) (target : Nat) (lid : Nat) (tid : Nat) : RoundTrip.Statement (.trestartRequest core target lid tid) :=
  fun h => absurd rfl h
theorem RoundTrip.sluiceReply (core : Nat) (seq : Nat) (err : Nat) : RoundTrip.Statement (.sluiceReply core seq err) :=
  fun h => absurd rfl h
theorem RoundTrip.preemptionMessage (core : Nat) (serial : Nat) : RoundTrip.Statement (.preemptionMessage core serial) :=
  fun h => absurd rfl h
theorem RoundTrip.preemptionAcknowledgement (core : Nat) (serial : Nat) : RoundTrip.Statement (.preemptionAcknowledgement core serial) :=
  fun h => absurd rfl h
theorem RoundTrip.resumptionMessage (core : Nat) (serial : Nat) : RoundTrip.Statement (.resumptionMessage core serial) :=
  fun h => absurd rfl h
theorem RoundTrip.quantumExpiry (core : Nat) : RoundTrip.Statement (.quantumExpiry core) :=
  fun h => absurd rfl h
theorem RoundTrip.stallPromisePassed (core : Nat) : RoundTrip.Statement (.stallPromisePassed core) :=
  fun h => absurd rfl h
theorem RoundTrip.tokenWake (core : Nat) (slot : Nat) (err : BitVec 24) : RoundTrip.Statement (.tokenWake core slot err) :=
  fun h => absurd rfl h
theorem RoundTrip.tokenRegistration (home : Nat) (token : BitVec 64) (core : Nat) (slot : Nat) : RoundTrip.Statement (.tokenRegistration home token core slot) :=
  fun h => absurd rfl h
theorem RoundTrip.timerTokenReady (core : Nat) (slot : Nat) : RoundTrip.Statement (.timerTokenReady core slot) :=
  fun h => absurd rfl h
theorem RoundTrip.awaitTimeout (core : Nat) (slot : Nat) : RoundTrip.Statement (.awaitTimeout core slot) :=
  fun h => absurd rfl h
theorem RoundTrip.waituntilTime (core : Nat) (slot : Nat) : RoundTrip.Statement (.waituntilTime core slot) :=
  fun h => absurd rfl h
theorem RoundTrip.backgroundRestore (core : Nat) : RoundTrip.Statement (.backgroundRestore core) :=
  fun h => absurd rfl h
theorem RoundTrip.backgroundRestoreDone (core : Nat) : RoundTrip.Statement (.backgroundRestoreDone core) :=
  fun h => absurd rfl h
theorem RoundTrip.thermalRankingTable (core : Nat) (table : List Nat) : RoundTrip.Statement (.thermalRankingTable core table) :=
  fun h => absurd rfl h
theorem RoundTrip.thermalCclimStep (core : Nat) (hot : Bool) : RoundTrip.Statement (.thermalCclimStep core hot) :=
  fun h => absurd rfl h
theorem RoundTrip.mobileRecord (core : Nat) (slot : Nat) (target : Nat) : RoundTrip.Statement (.mobileRecord core slot target) :=
  fun h => absurd rfl h
theorem RoundTrip.mailboxCsrWrite (core : Nat) (csr : BitVec 12) (value : BitVec 64) : RoundTrip.Statement (.mailboxCsrWrite core csr value) :=
  fun h => absurd rfl h
theorem RoundTrip.levellingVisit (die : Nat) : RoundTrip.Statement (.levellingVisit die) :=
  fun h => absurd rfl h
theorem RoundTrip.delegation (core : Nat) (issuer : Nat) (seq : Nat) (part : Nat) (priv : Bool) (block : List (BitVec 64)) : RoundTrip.Statement (.delegation core issuer seq part priv block) :=
  fun h => absurd rfl h
theorem RoundTrip.activeMessage (core : Nat) (issuer : Nat) (part : Nat) (priv : Bool) (block : List (BitVec 64)) : RoundTrip.Statement (.activeMessage core issuer part priv block) :=
  fun h => absurd rfl h
theorem RoundTrip.delegationReply (core : Nat) (seq : Nat) (err : Nat) : RoundTrip.Statement (.delegationReply core seq err) :=
  fun h => absurd rfl h
theorem RoundTrip.serviceRoutineTimeout (core : Nat) : RoundTrip.Statement (.serviceRoutineTimeout core) :=
  fun h => absurd rfl h
theorem RoundTrip.gangJoin (core : Nat) (member : Nat) (seq : Nat) (serial : Nat) (leaderTid : Nat) (index : Nat) : RoundTrip.Statement (.gangJoin core member seq serial leaderTid index) :=
  fun h => absurd rfl h
theorem RoundTrip.gangFormationTimeout (core : Nat) : RoundTrip.Statement (.gangFormationTimeout core) :=
  fun h => absurd rfl h
theorem RoundTrip.gangOperandMessage (core : Nat) (chunk : List (BitVec 64)) : RoundTrip.Statement (.gangOperandMessage core chunk) :=
  fun h => absurd rfl h
theorem RoundTrip.presenceStoreLanding (core : Nat) (off : Nat) (value : BitVec 64) : RoundTrip.Statement (.presenceStoreLanding core off value) :=
  fun h => absurd rfl h
theorem RoundTrip.ldaDataArrival (core : Nat) (id : Nat) : RoundTrip.Statement (.ldaDataArrival core id) :=
  fun h => absurd rfl h
theorem RoundTrip.vamoElementArrival (core : Nat) (serial : Nat) (tid : Nat) : RoundTrip.Statement (.vamoElementArrival core serial tid) :=
  fun h => absurd rfl h
theorem RoundTrip.wellRefillLanding (core : Nat) (well : BitVec 3) : RoundTrip.Statement (.wellRefillLanding core well) :=
  fun h => absurd rfl h
theorem RoundTrip.transferComplete (core : Nat) (ch : Nat) (id : Nat) : RoundTrip.Statement (.transferComplete core ch id) :=
  fun h => absurd rfl h
theorem RoundTrip.channelCellResume (core : Nat) (ch : Nat) : RoundTrip.Statement (.channelCellResume core ch) :=
  fun h => absurd rfl h
theorem RoundTrip.storeBufferDrain (core : Nat) : RoundTrip.Statement (.storeBufferDrain core) :=
  fun h => absurd rfl h
theorem RoundTrip.durableStoreAccept (num : Nat) : RoundTrip.Statement (.durableStoreAccept num) :=
  fun h => absurd rfl h
theorem RoundTrip.persistAcknowledgement (num : Nat) : RoundTrip.Statement (.persistAcknowledgement num) :=
  fun h => absurd rfl h
theorem RoundTrip.containmentScrub (core : Nat) (pass : Bool) : RoundTrip.Statement (.containmentScrub core pass) :=
  fun h => absurd rfl h
theorem RoundTrip.queueWaiterWake (core : Nat) (slot : Nat) : RoundTrip.Statement (.queueWaiterWake core slot) :=
  fun h => absurd rfl h
theorem RoundTrip.waiterTableRetry (core : Nat) (slot : Nat) : RoundTrip.Statement (.waiterTableRetry core slot) :=
  fun h => absurd rfl h
theorem RoundTrip.wireBarrierRelease (line : Nat) : RoundTrip.Statement (.wireBarrierRelease line) :=
  fun h => absurd rfl h
theorem RoundTrip.barrierTimeout (core : Nat) (slot : Nat) : RoundTrip.Statement (.barrierTimeout core slot) :=
  fun h => absurd rfl h
theorem RoundTrip.deferredArrival (core : Nat) (ch : Nat) (id : Nat) : RoundTrip.Statement (.deferredArrival core ch id) :=
  fun h => absurd rfl h
theorem RoundTrip.postedSignalRefused (core : Nat) (token : BitVec 64) (epc : BitVec 64) (serial : Nat) (tid : Nat) : RoundTrip.Statement (.postedSignalRefused core token epc serial tid) :=
  fun h => absurd rfl h
theorem RoundTrip.fabricErrorResponse (num : Nat) : RoundTrip.Statement (.fabricErrorResponse num) :=
  fun h => absurd rfl h
theorem RoundTrip.ingressRequest (kind : Nat) (peer : Nat) (part : Nat) (tpart : Nat) (off : Nat) (token : BitVec 64) (data : List (BitVec 8)) : RoundTrip.Statement (.ingressRequest kind peer part tpart off token data) :=
  fun h => absurd rfl h
theorem RoundTrip.leaseExpiry (line : Nat) : RoundTrip.Statement (.leaseExpiry line) :=
  fun h => absurd rfl h
theorem RoundTrip.retentionEntry (core : Nat) (pan : Nat) : RoundTrip.Statement (.retentionEntry core pan) :=
  fun h => absurd rfl h
theorem RoundTrip.retentionExit (core : Nat) (pan : Nat) : RoundTrip.Statement (.retentionExit core pan) :=
  fun h => absurd rfl h
theorem RoundTrip.rakeJobStart (part : Nat) (job : Nat) : RoundTrip.Statement (.rakeJobStart part job) :=
  fun h => absurd rfl h
theorem RoundTrip.rakeLayerAdvance (part : Nat) (job : Nat) : RoundTrip.Statement (.rakeLayerAdvance part job) :=
  fun h => absurd rfl h
theorem RoundTrip.hostMemRead (part : Nat) (off : Nat) : RoundTrip.Statement (.hostMemRead part off) :=
  fun h => absurd rfl h
theorem RoundTrip.hostMemWrite (part : Nat) (off : Nat) (data : List (Option (BitVec 8))) : RoundTrip.Statement (.hostMemWrite part off data) :=
  fun h => absurd rfl h
theorem RoundTrip.hostTailStore (part : Nat) (off : Nat) (tail : BitVec 32) : RoundTrip.Statement (.hostTailStore part off tail) :=
  fun h => absurd rfl h
theorem RoundTrip.hostBiResponse (line : Nat) : RoundTrip.Statement (.hostBiResponse line) :=
  fun h => absurd rfl h
theorem RoundTrip.attestationRequest (nonce : BitVec 256) : RoundTrip.Statement (.attestationRequest nonce) :=
  fun h => absurd rfl h
theorem RoundTrip.attestationSigned : RoundTrip.Statement (.attestationSigned) :=
  fun h => absurd rfl h
theorem RoundTrip.stationDown (station : Nat) : RoundTrip.Statement (.stationDown station) :=
  fun h => absurd rfl h
theorem RoundTrip.bitternResize (die : Nat) (mib : Nat) : RoundTrip.Statement (.bitternResize die mib) :=
  fun h => absurd rfl h
theorem RoundTrip.partitionLiveWrite (part : Nat) : RoundTrip.Statement (.partitionLiveWrite part) :=
  fun h => absurd rfl h
theorem RoundTrip.grantKeyRotation (part : Nat) (slot : Nat) : RoundTrip.Statement (.grantKeyRotation part slot) :=
  fun h => absurd rfl h
theorem RoundTrip.controlSpaceWrite (pa : Nat) (data : List (BitVec 8)) : RoundTrip.Statement (.controlSpaceWrite pa data) :=
  fun h => absurd rfl h
theorem RoundTrip.adaptiveVoltagePeriod (die : Nat) : RoundTrip.Statement (.adaptiveVoltagePeriod die) :=
  fun h => absurd rfl h
theorem RoundTrip.equalisationPeriod : RoundTrip.Statement (.equalisationPeriod) :=
  fun h => absurd rfl h
theorem RoundTrip.thresholdPeriod (watts : Nat) : RoundTrip.Statement (.thresholdPeriod watts) :=
  fun h => absurd rfl h
theorem RoundTrip.railDroop (die : Nat) (cycles : Nat) : RoundTrip.Statement (.railDroop die cycles) :=
  fun h => absurd rfl h
theorem RoundTrip.overtemperature (celsius : Nat) : RoundTrip.Statement (.overtemperature celsius) :=
  fun h => absurd rfl h
theorem RoundTrip.freezeSignal : RoundTrip.Statement (.freezeSignal) :=
  fun h => absurd rfl h
theorem RoundTrip.powerLoss : RoundTrip.Statement (.powerLoss) :=
  fun h => absurd rfl h
theorem RoundTrip.packageReset (verified : Bool) : RoundTrip.Statement (.packageReset verified) :=
  fun h => absurd rfl h
theorem RoundTrip.nonInstruction (word : BitVec 32) : RoundTrip.Statement (.nonInstruction word) :=
  fun h => absurd rfl h
theorem RoundTrip.coreCheckFailure (core : Nat) : RoundTrip.Statement (.coreCheckFailure core) :=
  fun h => absurd rfl h
theorem RoundTrip.mapOutDone (core : Nat) : RoundTrip.Statement (.mapOutDone core) :=
  fun h => absurd rfl h
theorem RoundTrip.panPreparationDone (core : Nat) (serial : Nat) : RoundTrip.Statement (.panPreparationDone core serial) :=
  fun h => absurd rfl h
theorem RoundTrip.persistBufferDrain : RoundTrip.Statement (.persistBufferDrain) :=
  fun h => absurd rfl h
theorem RoundTrip.stationUp (station : Nat) : RoundTrip.Statement (.stationUp station) :=
  fun h => absurd rfl h
theorem RoundTrip.fabricStoreAcknowledgement (num : Nat) : RoundTrip.Statement (.fabricStoreAcknowledgement num) :=
  fun h => absurd rfl h
theorem RoundTrip.rakeCopyResume (part : Nat) (job : Nat) : RoundTrip.Statement (.rakeCopyResume part job) :=
  fun h => absurd rfl h

end Sys2Proof.Laws
end

