-- ==== Sys2Proof/Tests/Slice0.lean ====
section
/-! SUPPORT. Tests: words of the spec decoded, ill-formed fields refused, single steps, and for each claim with hypotheses a state
and operands that meet them. Expected values come from the spec's tables and examples. -/

noncomputable section

open Sys2Proof
open Sys2Proof.Machine

set_option Elab.async false

/-! ### Decoding -/

/-- Words the spec writes out: R126 R127: scalar forms, and a quotient without sign. -/
theorem test_decode_scalar_words :
    decodeTableWord 32 0x190A0003 = some (.add 3 4 5) ∧
    decodeTableWord 32 0x190A1503 = some (.divN 3 4 5) ∧
    decodeTableWord 32 0x51C0200F = some (.shri 10 7 32) ∧
    decodeTableWord 32 0x28123415 = some (.li 5 0x1234) ∧
    decodeTableWord 32 0x28567817 = some (.lih 5 0x5678) ∧
    decodeTableWord 32 0x59C7C019 = some (.ext 11 7 0 31 0) ∧
    decodeTableWord 32 0xD789C01B = some (.ins 26 30 39 0) ∧
    decodeTableWord 32 0x29A3C11D = some (.mkpl 5 6 0 30 1) := by
  decide

/-- Words the spec writes out: R143 R150 and the programs: branches, system forms, CSR writes. -/
theorem test_decode_control_words :
    decodeTableWord 32 0x583FF42B = some (.bne 11 0 0x3FF4) ∧
    decodeTableWord 32 0x433FDA2B = some (.bne 8 12 0x3FDA) ∧
    decodeTableWord 32 0x11FFF835 = some (.bpAny 2 0x1FFF8) ∧
    decodeTableWord 32 0x00000037 = some (.nop) ∧
    decodeTableWord 32 0x00000237 = some (.eret) ∧
    decodeTableWord 32 0x0200951F = some (.csrw 0 8 0x025) ∧
    decodeTableWord 32 0x0280991F = some (.csrw 0 10 0x026) := by
  decide

/-- Words the spec writes out: R79 R158 R169 R180: formats VV, VT, V1, VC, VS and the predicate functions. -/
theorem test_decode_vector_words :
    decodeTableWord 32 0x21062367 = some (.vfma 8 16 24 1 3) ∧
    decodeTableWord 32 0x29806A41 = some (.vset 5 6 3 1 2) ∧
    decodeTableWord 32 0x05008141 = some (.vset 0 20 4 0 1) ∧
    decodeTableWord 32 0x05803C41 = some (.vset 0 22 1 3 4) ∧
    decodeTableWord 32 0x2047C073 = some (.vcvtE2m1 8 4 0 0) ∧
    decodeTableWord 32 0x1104A177 = some (.vfcmpLt 2 8 9 1) ∧
    decodeTableWord 32 0x4083007F = some (.vgathr 16 8 12 0 0) ∧
    decodeTableWord 32 0x40148091 = some (.vrampC 16 9 0 0) ∧
    decodeTableWord 32 0x288009A1 = some (.pcnt 5 2) := by
  decide

/-- Words the spec writes out: R196 to R203. -/
theorem test_decode_matrix_words :
    decodeTableWord 32 0x800000A7 = some (.mzero 32) ∧
    decodeTableWord 32 0x808400A3 = some (.mma 32 8 16 0) ∧
    decodeTableWord 32 0x80A600A3 = some (.mma 32 10 24 0) ∧
    decodeTableWord 32 0xA20C04A9 = some (.mepi 40 32 48 1) ∧
    decodeTableWord 32 0x808408A3 = some (.mma 32 8 16 2) ∧
    decodeTableWord 32 0x020A08A3 = some (.mma 0 32 40 2) ∧
    decodeTableWord 32 0x000000A9 = some (.mepi 0 0 0 0) := by
  decide

/-- Words the spec writes out: R258 to R266. -/
theorem test_decode_memory_words_1 :
    decodeTableWord 32 0x193002B1 = some (.ld 3 4 3 2) ∧
    decodeTableWord 32 0x497601B7 = some (.lda 9 5 3 12 1) ∧
    decodeTableWord 32 0x393400B7 = some (.lda 7 4 3 8 0) ∧
    decodeTableWord 32 0xA33000B5 = some (.st 20 12 3 0) ∧
    decodeTableWord 32 0x98E062B9 = some (.ldpC 19 3 16) ∧
    decodeTableWord 32 0x628062B9 = some (.ldpC 12 10 0) ∧
    decodeTableWord 32 0x206000BB = some (.vld 8 3 0 0) ∧
    decodeTableWord 32 0x235080BD = some (.vstCk 8 26 1 0 0) ∧
    decodeTableWord 32 0x82E000C3 = some (.vldp 32 23 0 0) ∧
    decodeTableWord 32 0x008300C5 = some (.pst 4 6) := by
  decide

/-- Words the spec writes out: R258 to R266. -/
theorem test_decode_memory_words_2 :
    decodeTableWord 32 0x01A880C5 = some (.pst 13 17) := by
  decide

/-- Words the spec writes out: R266 to R283: transfers, atomics, fences, delegations. -/
theorem test_decode_atomic_words :
    decodeTableWord 32 0x384400C7 = some (.xcopy 7 1 2 0 0 0 0) ∧
    decodeTableWord 32 0x945010C7 = some (.xcopy 18 17 8 0 0 1 0) ∧
    decodeTableWord 32 0x190B42CB = some (.amoAdd 3 4 5 2 2 0) ∧
    decodeTableWord 32 0x000041D7 = some (.fenceRel 2) ∧
    decodeTableWord 32 0x000020D9 = some (.pbarComplete) ∧
    decodeTableWord 32 0x000000D9 = some (.pbarOrder) ∧
    decodeTableWord 32 0x010001D9 = some (.pflush 4) ∧
    decodeTableWord 32 0x010A08DD = some (.dlgAm 4 5) := by
  decide

/-- Words the spec writes out: R300 to R313. -/
theorem test_decode_queue_words :
    decodeTableWord 32 0x010A20E3 = some (.enqWait 4 5) ∧
    decodeTableWord 32 0x010C20E5 = some (.deqWait 4 6) ∧
    decodeTableWord 32 0x110C00E5 = some (.deqTry 2 4 6) ∧
    decodeTableWord 32 0x046420E5 = some (.deqWait 17 18) ∧
    decodeTableWord 32 0x209000E7 = some (.venqWait 8 4) ∧
    decodeTableWord 32 0x190A00E1 = some (.qinit 3 4 5) ∧
    decodeTableWord 32 0x000001E9 = some (.tend) ∧
    decodeTableWord 32 0x3A5400EB = some (.wqry 7 9 10) ∧
    decodeTableWord 32 0x394C20EB = some (.wqryOpen 7 5 6) := by
  decide

/-- Words the spec writes out: R316 R330: translation upkeep and grants. -/
theorem test_decode_translation_words :
    decodeTableWord 32 0x010A00F1 = some (.tlbiVa 4 5) ∧
    decodeTableWord 32 0x014001F1 = some (.tlbiPart 5) ∧
    decodeTableWord 32 0x000002F1 = some (.tlbiAll) ∧
    decodeTableWord 32 0x190A03F1 = some (.probe 3 4 5) ∧
    decodeTableWord 32 0x190A00F3 = some (.gissue 3 4 5) ∧
    decodeTableWord 32 0x190001F3 = some (.grevoke 3 4) ∧
    decodeTableWord 32 0x190A02F3 = some (.gcheck 3 4 5) := by
  decide

/-- Words the spec writes out: R347 R353: the key and value forms, and the Rake. -/
theorem test_decode_kv_words_1 :
    decodeTableWord 32 0x190A00F5 = some (.kvalloc 3 4 5) ∧
    decodeTableWord 32 0x190A20F5 = some (.kvallocInit 3 4 5) ∧
    decodeTableWord 32 0x190A01F5 = some (.kvref 3 4 5) ∧
    decodeTableWord 32 0x190A02F5 = some (.kvunref 3 4 5) ∧
    decodeTableWord 32 0x190A03F5 = some (.kvapp 3 4 5) ∧
    decodeTableWord 32 0x190A04F5 = some (.kvspl 3 4 5) ∧
    decodeTableWord 32 0x190A05F5 = some (.kvreq 3 4 5) ∧
    decodeTableWord 32 0x190A46F5 = some (.kvsrcBump 3 4 5) ∧
    decodeTableWord 32 0x409226F5 = some (.kvsrcSet 8 2 9) ∧
    decodeTableWord 32 0x408442F7 = some (.kvgRep 16 4 8 1) := by
  decide

/-- Words the spec writes out: R347 R353: the key and value forms, and the Rake. -/
theorem test_decode_kv_words_2 :
    decodeTableWord 32 0x404403F7 = some (.kvgAny 16 2 8 0) ∧
    decodeTableWord 32 0x604400F7 = some (.kvg 24 2 8 0) ∧
    decodeTableWord 32 0x428000F9 = some (.rkjob 8 10) := by
  decide

/-- Words the spec writes out: R372 R382: tokens, cells, rendezvous. -/
theorem test_decode_wait_words_1 :
    decodeTableWord 32 0x380800FB = some (.await 7 1) ∧
    decodeTableWord 32 0x381100FB = some (.awaitT 7 2) ∧
    decodeTableWord 32 0x300200FB = some (.awaitany 6 0) ∧
    decodeTableWord 32 0x190A00FD = some (.celli 3 4 5) ∧
    decodeTableWord 32 0x055A61FD = some (.signal 0 21 13 0 3) ∧
    decodeTableWord 32 0x190A02FD = some (.cread 3 4 5) ∧
    decodeTableWord 32 0x190A03FD = some (.rvinit 3 4 5) ∧
    decodeTableWord 32 0x190A04FD = some (.rvarr 3 4 5) ∧
    decodeTableWord 32 0x190005FD = some (.rvfree 3 4) ∧
    decodeTableWord 32 0x380006FD = some (.barw 7) := by
  decide

/-- Words the spec writes out: R372 R382: tokens, cells, rendezvous. -/
theorem test_decode_wait_words_2 :
    decodeTableWord 32 0x01D007FD = some (.waituntil 7 8) := by
  decide

/-- The words of the CSR, operand-exchange, jump and system forms, laid out field by field from R74 and R79. -/
theorem test_decode_control_fields_1 :
    decodeTableWord 32 0x2801001F = some (.csrr 5 0x40) ∧
    decodeTableWord 32 0x118E2021 = some (.oxl 2 6 7 1) ∧
    decodeTableWord 32 0x1A400121 = some (.oxm 3 9) ∧
    decodeTableWord 32 0x21400221 = some (.oxr 4 5) ∧
    decodeTableWord 32 0xFFFFF023 = some (.b 0xFFFFF0) ∧
    decodeTableWord 32 0x00001025 = some (.call 0x10) ∧
    decodeTableWord 32 0x0883FF27 = some (.jr 1 2 0x3FF) ∧
    decodeTableWord 32 0x19000529 = some (.beq 3 4 5) ∧
    decodeTableWord 32 0x02400137 = some (.trap 9) ∧
    decodeTableWord 32 0x19000437 = some (.seal 3 4) := by
  decide

/-- The words of the CSR, operand-exchange, jump and system forms, laid out field by field from R74 and R79. -/
theorem test_decode_control_fields_2 :
    decodeTableWord 32 0x190A0637 = some (.trestart 3 4 5) := by
  decide

/-- The words of the vector and predicate forms, laid out field by field from R74 and R79. -/
theorem test_decode_vector_fields_1 :
    decodeTableWord 32 0x2092A343 = some (.vadd 8 9 10 1 3) ∧
    decodeTableWord 32 0x0420C479 = some (.vmerge 1 2 3 0 4) ∧
    decodeTableWord 32 0x1083827B = some (.vslideup 4 8 7 0 2) ∧
    decodeTableWord 32 0x14030085 = some (.vbcast 5 6 0 0) ∧
    decodeTableWord 32 0x1C320189 = some (.vins 7 3 4 0 1) ∧
    decodeTableWord 32 0x2090058B = some (.vfoldSum 8 9 0 5) ∧
    decodeTableWord 32 0x0C820087 = some (.vextr 3 8 4) ∧
    decodeTableWord 32 0x20928093 = some (.vbsc 8 9 10 0 0) ∧
    decodeTableWord 32 0x20918295 = some (.vfscl 8 9 3 0 2) ∧
    decodeTableWord 32 0x2091C297 = some (.vaddVs 8 9 3 1 0 2) := by
  decide

/-- The words of the vector and predicate forms, laid out field by field from R74 and R79. -/
theorem test_decode_vector_fields_2 :
    decodeTableWord 32 0xFC00278D = some (.vidx 63 1 7) ∧
    decodeTableWord 32 0x088600A1 = some (.pand 1 2 3) ∧
    decodeTableWord 32 0x209010AB = some (.mcks 8 9 4) := by
  decide

/-- The words of the loads, stores and wells, laid out field by field from R74 and R79. -/
theorem test_decode_memory_fields_1 :
    decodeTableWord 32 0x191FFFB3 = some (.ldN 3 4 1 0xFFF) ∧
    decodeTableWord 32 0x190AC0B9 = some (.ldp 3 4 5 1 2) ∧
    decodeTableWord 32 0x190A61B9 = some (.stp 3 4 5 3) ∧
    decodeTableWord 32 0x206241BB = some (.vldS 8 3 4 0 1) ∧
    decodeTableWord 32 0x246242BD = some (.vstS 9 3 4 0 2) ∧
    decodeTableWord 32 0x207401BF = some (.vgld 8 3 40 0 1) ∧
    decodeTableWord 32 0x2074A2C1 = some (.vsst 8 3 41 1 2) ∧
    decodeTableWord 32 0xF0A043C3 = some (.vstp 60 5 0 3) ∧
    decodeTableWord 32 0x84C044C5 = some (.pstV 33 6 0 4) ∧
    decodeTableWord 32 0x010028C9 = some (.wbind 4 5) := by
  decide

/-- The words of the loads, stores and wells, laid out field by field from R74 and R79. -/
theorem test_decode_memory_fields_2 :
    decodeTableWord 32 0x01803AC9 = some (.wskip 6 7) ∧
    decodeTableWord 32 0x48000BC9 = some (.wpos 9 1) := by
  decide

/-- The words of the atomics, fences, delegations and cache operations, laid out field by field from R74 and R79. -/
theorem test_decode_atomic_fields_1 :
    decodeTableWord 32 0x190AFACB = some (.amoFadd 3 4 5 1 3 1) ∧
    decodeTableWord 32 0x01D019CF = some (.redMaxN 7 8 1) ∧
    decodeTableWord 32 0x206480CD = some (.vamo 8 3 9 0 0) ∧
    decodeTableWord 32 0x288582D1 = some (.vred 10 4 11 0 2) ∧
    decodeTableWord 32 0x30A6A3D3 = some (.gll 12 5 13 1 3) ∧
    decodeTableWord 32 0x38C784D5 = some (.scc 14 6 15 0 4) ∧
    decodeTableWord 32 0x000060D7 = some (.fence 3) ∧
    decodeTableWord 32 0x000022D7 = some (.fenceAcq 1) ∧
    decodeTableWord 32 0x000063D7 = some (.fenceScPkg) ∧
    decodeTableWord 32 0x00E801DB = some (.prefL1 3 2 0x801) := by
  decide

/-- The words of the atomics, fences, delegations and cache operations, laid out field by field from R74 and R79. -/
theorem test_decode_atomic_fields_2 :
    decodeTableWord 32 0x298E00DD = some (.dlg 5 6 7) ∧
    decodeTableWord 32 0x024002DF = some (.cmoZero 9) ∧
    decodeTableWord 32 0x1A0003DF = some (.cmoPfr 3 8) ∧
    decodeTableWord 32 0x028005DF = some (.cmoObjclr 10) := by
  decide

/-- The words of the queue, task and gang forms, laid out field by field from R74 and R79. -/
theorem test_decode_task_fields_1 :
    decodeTableWord 32 0x190001E1 = some (.qfree 3 4) ∧
    decodeTableWord 32 0x190A02E1 = some (.qstat 3 4 5) ∧
    decodeTableWord 32 0x31D003E1 = some (.qpeek 6 7 8) ∧
    decodeTableWord 32 0xA0C1C0E7 = some (.vdeqTry 40 6 3) ∧
    decodeTableWord 32 0x190000E9 = some (.tspawn 3 4) ∧
    decodeTableWord 32 0x000002E9 = some (.yield) ∧
    decodeTableWord 32 0x298003E9 = some (.gjoin 5 6) ∧
    decodeTableWord 32 0x190A04E9 = some (.gang 3 4 5) ∧
    decodeTableWord 32 0x000005E9 = some (.ungang) ∧
    decodeTableWord 32 0x207441F7 = some (.kvgStale 8 3 40 1) := by
  decide

/-- The words of the queue, task and gang forms, laid out field by field from R74 and R79. -/
theorem test_decode_task_fields_2 :
    decodeTableWord 32 0x190001F9 = some (.rkstat 3 4) ∧
    decodeTableWord 32 0x298002F9 = some (.rkcancel 5 6) := by
  decide

/-- The compressed words R80, R150 and the example of R82 write out. -/
theorem test_decode_compressed_words :
    decodeTableWord 16 0x274A = some (.cAddi 4 0b11101) ∧ decodeTableWord 16 0x26D8 = some (.cBnez 4 0b11011) ∧
    decodeTableWord 16 0x4FCC = some (.cLi 9 31) := by
  decide

/-! ### Reserved words and ill-formed fields -/

/-- R83. A function number no table lists, and a field marked 0 that is not, decode to no instruction. -/
theorem test_reserved_words :
    decodeTableWord 32 0x190A1B03 = none ∧ decodeTableWord 32 0x00020037 = none ∧ decodeTableWord 32 0x190A00FF = none := by
  decide

/-- R75. A predicate above 23, the complement of p0, and p0 as a destination. -/
theorem test_ill_formed_predicates :
    wellFormed (.vadd 1 2 3 0 24) = false ∧ wellFormed (.vadd 1 2 3 1 0) = false ∧ wellFormed (.bpAny 24 0) = false ∧
    wellFormed (.pand 0 1 2) = false ∧ wellFormed (.vadd 1 2 3 1 23) = true := by
  decide

/-- R117, R131, R132, R136. A field past bit 63, an unassigned CSR, ox registers past ox7, a place above 15. -/
theorem test_ill_formed_scalar_fields :
    wellFormed (.ext 1 2 0 1 63) = false ∧ wellFormed (.ins 1 2 63 1) = false ∧ wellFormed (.csrr 1 0x00F) = false ∧
    wellFormed (.oxl 7 1 2 1) = false ∧ wellFormed (.oxm 8 1) = false ∧ wellFormed (.mkplAbs 1 2 0 16 0) = false := by
  decide

/-- R158, R78, R261, R273, R276, R382. A type of no width, a pair past s31, the token register of lda, an order with no scope,
scopes that do not exist. -/
theorem test_ill_formed_other_fields :
    wellFormed (.vset 1 2 4 0 2) = false ∧ wellFormed (.awaitany 31 0) = false ∧ wellFormed (.lda 3 4 3 3 0) = false ∧
    wellFormed (.lda 3 4 3 0 0) = false ∧ wellFormed (.amoAdd 1 2 3 1 0 0) = false ∧ wellFormed (.fence 6) = false ∧
    wellFormed (.signal 1 2 3 0 0) = false := by
  decide

/-! ### States for the tests -/

/-- The page tables and the code of the tests: after the page of the code, two pages of HBM, one of the durable tier and one of peer 1
(R317). -/
def wmem : Mem :=
  [(0x108000, 0x01), (0x108002, 0x20), (0x108003, 0x01), (0x120000, 0x01), (0x120002, 0x21), (0x120003, 0x01), (0x121000, 0x01),
   (0x121002, 0x22), (0x121003, 0x01), (0x122000, 0x13), (0x122002, 0x23), (0x122003, 0x01), (0x122008, 0xEF), (0x12200A, 0x24),
   (0x12200B, 0x01), (0x122010, 0xEF), (0x122012, 0x25), (0x122013, 0x01), (0x122018, 0xEF), (0x12201D, 0x40), (0x122020, 0xEF),
   (0x122021, 0x04), (0x122026, 0x04), (0x123000, 0x37)]

/-- A privileged task of partition 0 on core 0 whose next instruction is nop; its partition may address peer 1 (R401). -/
def w0 : State :=
  { State.reset.withFetchWord 32 0x37 with
    mem := wmem, ctl := memWrite (State.reset.withFetchWord 32 0x37).ctl 0x3F0000000200 2 }

/-- The state of the tests is the one `withFetchWord` makes, with the data pages and the peer added. -/
theorem test_base : w0 =
    (let s := State.reset.withFetchWord 32 0x37
     { s with mem := memWriteBytes (memWriteBytes (memWriteBytes (memWriteBytes s.mem 0x122008 (natBytes 8 0x12400EF))
                0x122010 (natBytes 8 0x12500EF)) 0x122018 (natBytes 8 0x4000000000EF)) 0x122020 (natBytes 8 0x40000000004EF)
              ctl := memWrite s.ctl 0x3F0000000200 2 }) := by
  have h1 : wmem = memWriteBytes (memWriteBytes (memWriteBytes (memWriteBytes (State.reset.withFetchWord 32 0x37).mem 0x122008
      (natBytes 8 0x12400EF)) 0x122010 (natBytes 8 0x12500EF)) 0x122018 (natBytes 8 0x4000000000EF)) 0x122020 (natBytes 8 0x40000000004EF) := by
    decide +kernel
  simp only [w0, h1]

/-- `w0` with values in registers. -/
def w (l : List (BitVec 5 × Word)) : State := l.foldl (fun s p => s.setX p.1 p.2) w0

/-- Addresses in the first and second HBM pages, the durable page and the page of peer 1. -/
def h1 : Word := 0x8000000001000
def h2 : Word := 0x8000000002000
def du : Word := 0x8000000003000
def fa : Word := 0x8000000004000

/-- The same task in user mode. -/
def wu : State := { w0 with core := { w0.core with run := .running { fetchTask with priv := false } } }

/-- The same core in a service routine. -/
def ws : State := { w0 with core := { w0.core with service := some ⟨⟨1, some 0, 0, true, List.replicate 8 0⟩, 0, w0.ctx, w0.lc, none⟩ } }

/-- Whether a result is one with a property. -/
def okWith {ε α : Type} (r : Except ε α) (p : α → Bool) : Bool := match r with | .ok a => p a | .error _ => false

theorem of_okWith {ε α : Type} {r : Except ε α} {p : α → Bool} (h : okWith r p = true) : ∃ a, r = .ok a ∧ p a = true := by
  cases r with
  | ok a => exact ⟨a, rfl, h⟩
  | error e => cases h

/-- A result with a property, from its evaluation. -/
theorem res_ok {ε α : Type} {r : Except ε α} {P : α → Prop} [DecidablePred P] (h : okWith r (fun a => decide (P a)) = true) :
    ∃ a, r = .ok a ∧ P a := by
  obtain ⟨a, h, hp⟩ := of_okWith h
  exact ⟨a, h, of_decide_eq_true hp⟩

/-- A result with a given value, from its evaluation. -/
theorem res_eq {ε α : Type} [DecidableEq α] {r : Except ε α} {b : α} (h : okWith r (fun a => decide (a = b)) = true) : r = .ok b := by
  obtain ⟨a, h, hp⟩ := of_okWith h
  rw [h, of_decide_eq_true hp]

theorem res_unit {ε : Type} {r : Except ε Unit} (h : okWith r (fun _ => true) = true) : r = .ok () := by
  obtain ⟨a, h, -⟩ := of_okWith h
  exact h

/-- A translation to an address of the device, from its evaluation. -/
theorem res_phys {r : Res Target} {pa : Nat} (P : Use → Prop) [DecidablePred P]
    (h : (match r with | .ok (.phys p u) => decide (p = pa ∧ P u) | _ => false) = true) : ∃ u, r = .ok (.phys pa u) ∧ P u := by
  cases r with
  | error e => cases h
  | ok g =>
    cases g with
    | peer => cases h
    | phys p u =>
      obtain ⟨rfl, hu⟩ := of_decide_eq_true h
      exact ⟨u, rfl, hu⟩

/-- A result with a property, from its evaluation. -/
theorem out_next {r : Out} {P : State → Prop} [DecidablePred P]
    (h : (match r with | .next a => decide (P a) | _ => false) = true) : ∃ a, r = .next a ∧ P a := by
  cases r with
  | next a => exact ⟨a, rfl, of_decide_eq_true h⟩
  | fault f => cases h
  | refused x => cases h

theorem wf_of {s : State} (h : (Memory.wf s.mem && Memory.wf s.ctl && Memory.wf s.pad && Memory.wf s.persisted) = true) : s.memWf := by
  simp only [Bool.and_eq_true] at h
  exact ⟨h.1.1.1, h.1.1.2, h.1.2, h.2⟩

/-- `w` with a vector length and a type. -/
def wv (vl : BitVec 11) (f : BitVec 4) (g : BitVec 2) (s : BitVec 3) (l : List (BitVec 5 × Word)) : State :=
  { w l with ctx := { (w l).ctx with vl := vl, vty := vtyOf f g s } }

/-- `s` with the n low bytes of v at a physical address. -/
def put (s : State) (pa n v : Nat) : State := { s with mem := memWriteBytes s.mem pa (natBytes n v) }

/-- The state an instruction leaves. -/
def after (o : Out) : State := match o with | .next t => t | _ => w0

/-! ### Single steps -/

/-- R143, R37. In a service routine nop moves the pc past itself and adds one to PMC0's count of instructions; nothing else of the context
changes. -/
theorem test_step_nop : ∃ t, step ws = .next t ∧ t.ctx.pc = ws.ctx.pc + 4 ∧ t.core.pmc[0] = 1 ∧ t.ctx.s = ws.ctx.s ∧ t.schedule = [] := by
  obtain ⟨t, h, p⟩ := out_next (r := step ws)
    (P := fun t => t.ctx.pc = ws.ctx.pc + 4 ∧ t.core.pmc[0] = 1 ∧ t.ctx.s = ws.ctx.s ∧ t.schedule = []) (by decide +kernel)
  exact ⟨t, h, p⟩

/-! ### States and operands that meet the hypotheses of the claims -/

theorem witness_DecodeEncodeAgree : (Instr.cTend).size ≠ 0 := by decide

theorem witness_FetchReadsMemory_two : ∃ pa u, w0.ctx.pc.getLsbD 0 = false ∧ w0.core.fetched = [] ∧ w0.poison = [] ∧
    translate w0 w0.part w0.privileged w0.ctx.pc Need.exec = .ok (.phys pa u) ∧ physLe w0 pa 2 % 2 = 1 ∧
    (let s1 := { markUsed w0 u false with core := { (markUsed w0 u false).core with fetched := [(pa, physLe w0 pa 2)] } }
      ∃ v, translate s1 s1.part s1.privileged (w0.ctx.pc + 2) Need.exec = .ok (.phys (pa + 2) v)) := by
  obtain ⟨u, hu, h2⟩ := res_phys (r := translate w0 w0.part w0.privileged w0.ctx.pc Need.exec) (pa := 0x123000) 
    (fun u => (let s1 := { markUsed w0 u false with core := { (markUsed w0 u false).core with fetched := [(0x123000, physLe w0 0x123000 2)] } }
      match translate s1 s1.part s1.privileged (w0.ctx.pc + 2) Need.exec with | .ok (.phys p u) => decide (p = 0x123002 ∧ True) | _ => false) = true)
    (by decide +kernel)
  obtain ⟨v, hv, -⟩ := res_phys (fun _ => True) h2
  exact ⟨_, u, by decide +kernel, by decide +kernel, by decide +kernel, hu, by decide +kernel, v, hv⟩

theorem witness_StepKeepsMemoryForm : ws.memWf ∧ ∃ t, step ws = .next t := by
  obtain ⟨t, h, -⟩ := test_step_nop
  exact ⟨wf_of (by decide +kernel), t, h⟩

theorem witness_FetchReadsMemory_one : ∃ pa u, let s := State.reset.withFetchWord 16 0x4FCC
    s.core.fetched = [] ∧ s.poison = [] ∧ s.ctx.pc.getLsbD 0 = false ∧
    translate s s.part s.privileged s.ctx.pc Need.exec = .ok (.phys pa u) ∧ physLe s pa 2 % 2 = 0 := by
  obtain ⟨u, hu, -⟩ := res_phys (r := let s := State.reset.withFetchWord 16 0x4FCC
    translate s s.part s.privileged s.ctx.pc Need.exec) (pa := 0x123000) (fun _ => True) (by decide +kernel)
  exact ⟨_, u, by decide +kernel, by decide +kernel, by decide +kernel, hu, by decide +kernel⟩

theorem witness_FetchReadsMemory_odd : { w0 with ctx := { w0.ctx with pc := 9 } }.ctx.pc.getLsbD 0 = true := by decide

theorem witness_StepRunsDecodedInstruction : (ws.powered = true ∧ ws.frozen = false ∧ ws.schedule = .core 0 :: []) ∧
    (let s1 := ({ ws with schedule := [] } : State).switchTo 0
     let s0 := setCut (1 + Config.stepCycles s1.free) s1
     (∃ bs u, fetchWord s0 = .ok (bs, u) ∧ decode bs = .ok (.nop, [])) ∧ droopHeld s0 = false ∧ quantumOver s0.core s0.cyc = false ∧
     mayPick s0 = false ∧ s0.core.routines = [] ∧ mayIssue s0 = true ∧ dueCause s0 = none ∧ s0.headStep = none) := by
  obtain ⟨a, ha, hb⟩ := res_ok (r := let s1 := ({ ws with schedule := [] } : State).switchTo 0
    fetchWord (setCut (1 + Config.stepCycles s1.free) s1)) (P := fun a => a.1 = natBytes 4 0x37) (by decide +kernel)
  exact ⟨by decide +kernel, ⟨a.1, a.2, ha, by rw [hb]; rfl⟩, by decide +kernel⟩

/-- A follower of a gang whose leader has sent it a nop at 64 (R29). -/
def wstep : State :=
  { w0 with core := { w0.core with run := .running { fetchTask with gang := .follower 1 1 1 0 [⟨0, 64, 68, natBytes 4 0x37, 3, 0, 3, 0, false⟩] } } }

theorem witness_StepRunsDecodedInstruction_follower : (let s1 := ({ wstep with schedule := [] } : State).switchTo 0
     let s0 := setCut (1 + Config.stepCycles s1.free) s1
     mayPick s0 = false ∧ mayIssue s0 = true ∧ dueCause s0 = none ∧
     ∃ st, s0.headStep = some st ∧ decode st.bytes = .ok (.nop, [])) := by
  intro s1 s0
  have key (c : Cut) : let s0 : State := { s1 with cut := c }
      mayPick s0 = false ∧ mayIssue s0 = true ∧ dueCause s0 = none ∧ ∃ st, s0.headStep = some st ∧ decode st.bytes = .ok (.nop, []) :=
    ⟨rfl, rfl, rfl, _, rfl, rfl⟩
  have h : ∃ c, s0 = { s1 with cut := c } := by
    show ∃ c, setCut _ _ = _
    unfold setCut
    split <;> exact ⟨_, rfl⟩
  obtain ⟨c, h⟩ := h
  rw [h]
  exact key c

theorem witness_StoppedPackageStays : (∀ v l, w0.schedule ≠ .event (.packageReset v) :: l) ∧
    (∀ l, w0.schedule ≠ .event .powerLoss :: l) ∧ w0.privileged = true := by
  have h : w0.schedule = [.core 0] := rfl
  exact ⟨by simp [h], by simp [h], by decide +kernel⟩

/-- Division by zero and of the most negative number by -1 among the forms of the tables (R91, R127-R131, R79). -/
theorem witness_ScalarArithmeticResults : ∃ v,
    table127 (w [(4, 0x8000000000000000), (5, 0xFFFFFFFFFFFFFFFF)]).x (.div 3 4 5) = some (3, v) ∧ v = 0x8000000000000000 ∧
    table127 (w [(4, 7)]).x (.rem 3 4 0) = some (3, 7) ∧ table127 (w [(4, 0xF0)]).x (.rol 0 4 0) = some (0, 0xF0) :=
  ⟨_, rfl, by decide +kernel, by decide +kernel, by decide +kernel⟩

theorem witness_ImmediateResults :
    table128 (w [(3, 0xA000000000000000)]).x (.ext 2 3 1 3 60) = some (2, 0xFFFFFFFFFFFFFFFA) ∧
    table128 (w [(30, 0x1FF)]).x (.ins 26 30 7 56) = some (26, 0xFF00000000000000) ∧
    64 < (63 : BitVec 6).toNat + ((1 : BitVec 6).toNat + 1) := by decide +kernel

theorem witness_PlaceAddressBuilt : ((w [(6, 0xFFFFF)]).x 6).toNat < 2 ^ 20 ∧ 2 ^ 20 ≤ ((w [(6, 0x100000)]).x 6).toNat := by decide +kernel

theorem witness_CompressedResults : table79 (w [(9, 5)]).x (.cLi 9 31) = some (9, 0xFFFFFFFFFFFFFFFF) ∧
    table79 (w [(31, 5), (30, 7)]).x (.cMul 31 30) = some (31, 35) := by decide +kernel

/-- A pc from which a short branch reaches address 0. -/
def wz : State := { ws with ctx := { ws.ctx with pc := 16 } }

theorem witness_Branches : branchTable w0.x (.beq 0 0 3) = some (true, 3, 4) ∧ w0.inService = false ∧
    branchTable ws.x (.cBnez 0 3) = some (false, 3, 2) ∧ branchTable wz.x (.b (-8)) = some (true, -8, 4) ∧ wz.inService = true ∧
    wz.ctx.pc + BitVec.ofInt 64 (2 * (-8)) = 0 ∧ ws.ctx.pc + BitVec.ofInt 64 (2 * 3) ≠ 0 ∧
    ((23 : BitVec 5).toNat < 24 ∧ (3 : BitVec 5).toNat < 4 ∧ 24 ≤ (24 : BitVec 5).toNat) := by decide +kernel

theorem witness_JumpsAndLinks : ws.inService = true ∧ w0.inService = false ∧ ws.x 31 = 0 ∧ (w0.x 31).getLsbD 0 = false ∧
    ((w [(4, 7)]).x 4 + (0 : BitVec 14).signExtend 64).getLsbD 0 = true ∧ ws.x 4 + (0 : BitVec 14).signExtend 64 = 0 ∧
    ((w [(4, 7)]).x 4 + (0x3FFF : BitVec 14).signExtend 64).getLsbD 0 = false := by decide +kernel

theorem witness_CsrReads : csrAssigned 0x057 = true ∧ csrAssigned 0x000 = true ∧ csrReadOnly 0x04B = true := by decide

theorem witness_CsrWrites : csrKept 0x005 ((w [(4, 6)]).x 4) = some 0 ∧ csrKept 0x03F ((w [(4, 5)]).csr 0x03F ||| (w [(4, 5)]).x 4) = some 5 ∧
    csrKept 0x00E ((w [(4, 5)]).csr 0x00E &&& ~~~((w [(4, 5)]).x 4)) = some 0 ∧ csrKept 0x025 ((w [(4, 15)]).x 4) = some 7 ∧
    wu.privileged = false ∧ w0.privileged = true ∧ csrKeptPrivileged w0 0x042 1 = some 2 ∧ csrKeptPrivileged w0 0x042 100 = some 48 ∧
    csrKeptPrivileged w0 0x043 (w0.csr 0x043 &&& ~~~(w0.csr 0x043)) = some 1 ∧ csrKeptPrivileged w0 0x044 0x1FFFF = some 0xFFFF ∧
    csrKeptPrivileged w0 0x057 5 = some 5 ∧
    (0x042 ≤ (0x042 : BitVec 12).toNat ∧ (0x042 : BitVec 12).toNat ≤ 0x044) := by decide +kernel

theorem witness_OxForms : (7 : BitVec 5).toNat < 8 ∧ ws.inService = true ∧ w0.inService = false ∧
    (0 : BitVec 5).toNat + ((7 : BitVec 3).toNat + 1) ≤ 8 ∧ ((w [(4, h1)]).x 4 + (w [(4, h1)]).x 0).toNat % 8 = 0 ∧
    (w [(4, h1)]).strike .address = none ∧ ∃ ws s1, readDoublewords (w [(4, h1)]) ((w [(4, h1)]).x 4 + (w [(4, h1)]).x 0) true 8 = .ok (ws, s1) := by
  obtain ⟨a, ha, -⟩ := res_ok (r := readDoublewords (w [(4, h1)]) ((w [(4, h1)]).x 4 + (w [(4, h1)]).x 0) true 8) (P := fun _ => True)
    (by decide +kernel)
  exact ⟨by decide, by decide +kernel, by decide +kernel, by decide, by decide +kernel, by decide +kernel, a.1, a.2, ha⟩

/-- A task with a handler, and one inside it. -/
def wh : State := { w0 with lc := { w0.lc with ehandler := h1 } }
def wi (epc : Word) : State := { wh with ctx := { wh.ctx with inHandler := true, epc := epc } }

theorem witness_HandlerEntryAndReturn : (exc .awaitTimeout 0 0).cause ∈ [Cause.copyOnWrite, .staleBlock, .promiseMissed, .barrierTimeout,
      .awaitTimeout, .matrixCheck] ∧ wh.inService = false ∧ wh.core.run.task = some fetchTask ∧ fetchTask.gang = .none ∧
    wh.lc.ehandler ≠ 0 ∧ wh.ctx.inHandler = false ∧ (wi 8).ctx.inHandler = true ∧ (wi 8).inService = false ∧
    (wi 8).ctx.epc.getLsbD 0 = false ∧ (wi 9).ctx.epc.getLsbD 0 = true := by decide +kernel

theorem witness_SealAndRestart : let s := w [(4, 0x100000), (5, 0xFFFFFFFFFFFF)]
    s.privileged = true ∧ (∃ c, coreOperand s (s.x 4) = .ok c ∧ dieOf c = dieOf s.cur ∧ c ≠ s.cur) ∧ (s.x 5).toNat < 2 ^ 48 ∧
    s.core.answer = none ∧ s.core.asked = false ∧ { s with core := { s.core with answer := some 3 } }.core.answer = some 3 := by
  refine ⟨by decide +kernel, res_ok (by decide +kernel), by decide +kernel, by decide +kernel, by decide +kernel, rfl⟩

/-! ### Vector and matrix -/

theorem aside {s : State} (h : s.ctx.wells = Vector.replicate 8 none) (sh : VectorShape) : WellsAside s sh := by
  intro k x hx
  simp only [Ctx.well, h] at hx
  simp [Vector.getElem?_replicate] at hx
  split at hx <;> simp at hx

theorem calm {s : State} (h : (decide (s.cut = .none) && decide (s.strikes = [])) = true) : Undisturbed s := by
  simpa [Undisturbed] using h

theorem one_active {s : State} {p : BitVec 5} {n : BitVec 1} (hv : s.ctx.vl = 1) (h : executes s.ctx p n 0 = true) : OneActive s p n 0 := by
  intro i
  cases i with
  | zero => simpa using h
  | succ j => simp [executes, hv]

theorem one_active_of {s : State} {p : BitVec 5} {n : BitVec 1} {k : Nat} (hk : k < s.ctx.vl.toNat)
    (h : ∀ i, i < s.ctx.vl.toNat → executes s.ctx p n i = decide (i = k)) : OneActive s p n k := by
  intro i
  by_cases hi : i < s.ctx.vl.toNat
  · exact h i hi
  · have : i ≠ k := by omega
    simp [executes, hi, this]

theorem witness_VectorComputeCompletes : let s := wv 64 1 0 4 []
    (∀ sh, WellsAside s sh) ∧ Undisturbed s ∧ s.ctx.vl.toNat = vlmaxOf s.ctx.sew s.ctx.group ∧
    (∀ i ∈ ([.vadd 8 9 10 0 23, .vcmpEq 23 8 9 3, .vgathr 16 8 12 0 0, .vfoldSum 16 8 0 0, .vextr 3 8 4] : List Instr),
      (vectorShape s i).isSome = true) ∧
    (vectorShape (wv 256 2 1 2 []) (.vfma 8 10 12 1 3)).isSome = true ∧ (vectorShape (wv 256 2 1 2 []) (.vrand 8 0 0)).isSome = true ∧
    (vectorShape (wv 256 3 1 2 []) (.vcvtF32 8 12 0 0)).isSome = true ∧ (vectorShape (wv 1 3 0 2 []) (.vramp 8 3 0 0)).isSome = true :=
  ⟨aside (by decide +kernel), calm (by decide +kernel), by decide +kernel⟩

/-- `wv` with stochastic rounding (R98). -/
def wvr (vl : BitVec 11) (f : BitVec 4) (g : BitVec 2) (s : BitVec 3) : State :=
  { wv vl f g s [] with ctx := { (wv vl f g s []).ctx with frm := 5 } }

/-- An instruction whose fields and type a state allows, at a length within VLMAX, undisturbed (R152-R154). -/
def fitsVector (s : State) (i : Instr) : Bool :=
  (vectorShape s i).isSome && decide (s.ctx.vl.toNat ≤ vlmaxOf s.ctx.sew s.ctx.group) && decide (s.cut = .none) && decide (s.strikes = [])

/-- One instruction for each clause: elements of every kind of table, draws, a block format, moves, folds. -/
theorem witness_VectorResults : (∀ sh, WellsAside (wvr 32 7 0 1) sh) ∧
    (∀ i ∈ ([.vadds 8 9 10 1 3, .vmov 8 9 0 23, .vmerge 8 9 10 0 4, .vslideup 4 8 7 0 2, .vidx 63 1 7] : List Instr),
      fitsVector (wv 512 0 0 1 []) i = true ∧ (elementTable (wv 512 0 0 1 []) i).isSome = true) ∧
    (∀ i ∈ ([.vfma 8 10 12 1 3, .vflog2 8 10 0 0, .vfmaVs 8 10 3 1 0 2, .vbsc 8 10 12 0 0, .vrampC 8 3 0 0, .vcvtF32 8 12 0 0] : List Instr),
      fitsVector (wv 256 2 1 2 []) i = true ∧ (elementTable (wv 256 2 1 2 []) i).isSome = true) ∧
    fitsVector (wv 256 2 1 2 []) (.vrand 8 0 0) = true ∧
    (fitsVector (wvr 256 3 1 2) (.vcvtF32 8 12 0 0) = true ∧ convDraws (wvr 256 3 1 2).ctx (.float fmtF32) = true) ∧
    (fitsVector (wvr 32 7 0 1) (.vcvtF32 8 12 0 0) = true ∧ 7 ≤ (wvr 32 7 0 1).ctx.fmt ∧
      convDraws (wvr 32 7 0 1).ctx (.float fmtF32) = true ∧ bits ((wvr 32 7 0 1).ctx.getOx 0) 5 0 < 56) ∧
    (∀ i ∈ ([.vcompress 8 9 0 3, .vexpand 8 9 1 3, .vextr 3 8 4, .vextrSx 3 8 4, .vins 7 3 4 0 1, .vinsCv 7 3 4 0 1] : List Instr),
      fitsVector (wv 512 0 0 1 []) i = true) ∧
    (fitsVector (wv 512 0 0 1 []) (.vfoldMin 8 9 0 5) = true ∧ (foldTable (wv 512 0 0 1 []).ctx (.vfoldMin 8 9 0 5)).isSome = true) ∧
    (fitsVector (wv 256 2 1 2 []) (.vfoldFsum 8 10 0 5) = true ∧ (floatFoldTable (.vfoldFsum 8 10 0 5)).isSome = true) :=
  ⟨aside (by decide +kernel), by decide +kernel⟩

theorem witness_VsetSetsLength : vtypeOk 3 2 = true ∧ vtypeOk 0 4 = true := by decide

theorem witness_PredicateOperations : let s := wv 1024 0 0 1 [(4, 1000)]
    table170 s (.pand 23 0 23) ≠ none ∧ s.ctx.boundPred 23 = false ∧ s.ctx.vl.toNat ≤ 1024 ∧
    (∀ r ∈ ([23, 0, 23] : List (BitVec 5)), r.toNat < 24 ∧ (s.inService = true → r.toNat < 4)) ∧
    (s.ctx.getP 0).getLsbD 0 = true ∧ (∀ j, j < (wv 0 0 0 1 []).ctx.vl.toNat → ((wv 0 0 0 1 []).ctx.getP 5).getLsbD j = false) ∧
    (fitsVector (wv 512 0 0 1 []) (.vcmpGt 23 8 9 3) = true ∧ (table169 (wv 512 0 0 1 []) (.vcmpGt 23 8 9 3)).isSome = true) ∧
    (fitsVector (wv 256 2 1 2 []) (.vfcmpUno 2 8 10 15) = true ∧ (table169 (wv 256 2 1 2 []) (.vfcmpUno 2 8 10 15)).isSome = true) := by
  refine ⟨by simp [table170], by decide +kernel⟩

theorem witness_MatrixResults : let s := wv 16 3 0 2 []
    s.ctx.boundGroup (32, s.ctx.vl.toNat / 2) = false ∧
    (∀ i ∈ ([.mma 32 8 16 0, .mma 32 8 16 8, .mzero 32, .mepi 40 32 0 0, .mcks 8 32 0] : List Instr), (matrixShape s i).isSome = true) ∧
    ((matFormat 0).isSome = true ∧ (matFormat 8).isSome = true ∧ (outFormat 0).isSome = true) ∧
    (s.mmaSeq = none ∧ s.followers = [] ∧ { s.lc with mckth := 0 }.mckth = 0) ∧ (∀ sh, WellsAside s sh) ∧ Undisturbed s :=
  ⟨by decide +kernel, by decide +kernel, by decide, by decide +kernel, aside (by decide +kernel), calm (by decide +kernel)⟩

/-! ### Memory -/

theorem noPeer {s : State} {va : Word} {need : Need} {g : Target} (h : translate s s.part s.privileged va need = .ok g) :
    noPeerFault s va need := by
  intro e he
  rw [h] at he
  cases he

theorem ready {s : State} (h : s.ctx.release = none) : storeReady s := by
  intro c hc
  rw [h] at hc
  cases hc

theorem unstruck {s : State} (h : (decide (s.strike .address = none) && decide (s.strike .loadPath = none)) = true) : Unstruck s := by
  simpa [Unstruck] using h

theorem no_updates {s : State} (h : s.core.l1.all (fun k => decide (k < 2 ^ 61)) = true) : NoUpdateLines s := by
  simpa [NoUpdateLines] using h

/-- `s` after a `fence.rel` of a scope with no store since (R236). -/
def fenced (c : Nat) (s : State) : State := { s with ctx := { s.ctx with release := some c } }

/-- A fence at pod scope whose task has nothing open towards the fabric. -/
theorem ready_pod {s : State} {c : Nat} (h : (decide (s.ctx.release = some c) && !s.publish.fabricOpen && decide (s.publish.lostStore = none)) = true) :
    storeReady s := by
  simp only [Bool.and_eq_true, Bool.not_eq_true', decide_eq_true_eq] at h
  intro d _ _
  exact ⟨h.1.2, h.2⟩

/-- A soft error waits for the next address generation of core 0 (R17). -/
def wstruck : State := { w0 with strikes := [⟨0, 0, 1, .address⟩] }

/-- A register that holds the last place of a page, and a place below it. -/
theorem witness_ScalarLoadResults : let s := w [(4, h1)]
    let s1 := beforeLoad s false 0x124FF8 8
    (∃ u, translate s s.part s.privileged (h1 + 4088) Need.read = .ok (.phys 0x124FF8 u)) ∧ s.memWf ∧ NoUpdateLines s1 ∧
    (loadTable s (.ld 3 4 3 0x1FF) = some (3, h1 + 4088, 8, true, 4) ∧ (h1 + 4088).toNat % 8 = 0) ∧ s.strike .address = none ∧
    s1.strike .loadPath = none ∧ touchesPoison s1 0x124FF8 8 = false ∧ collected s (fun _ => true) = [] ∧
    ∀ b ∈ s.ownStores, b.vec = false := by
  obtain ⟨u, hu, -⟩ := res_phys (r := let s := w [(4, h1)]; translate s s.part s.privileged (h1 + 4088) Need.read) (pa := 0x124FF8)
    (fun _ => True) (by decide +kernel)
  exact ⟨⟨u, hu⟩, wf_of (by decide +kernel), no_updates (by decide +kernel), by decide +kernel⟩

theorem witness_ScalarStoreResults : let s := w [(3, 7), (4, h1)]
    storeTable s (.st 3 4 3 0x1FF) = some (7, h1 + 4088, 8, 4) ∧ s.memWf ∧ s.strike .address = none ∧
    noPeerFault s (h1 + 4088) Need.write ∧ storeReady s ∧ (∃ u, translate (beforeStore s) (beforeStore s).part (beforeStore s).privileged (h1 + 4088) Need.write = .ok (.phys 0x124FF8 u)) ∧
    touchesObject (beforeStore s) 0x124FF8 8 = false := by
  obtain ⟨u, hu, -⟩ := res_phys (r := let s := beforeStore (w [(3, 7), (4, h1)]); translate s s.part s.privileged (h1 + 4088) Need.write)
    (pa := 0x124FF8) (fun _ => True) (by decide +kernel)
  exact ⟨by decide +kernel, wf_of (by decide +kernel), by decide +kernel, noPeer hu, ready (by decide +kernel), ⟨u, hu⟩, by decide +kernel⟩

/-- The same after a `fence.rel.pod`. -/
theorem witness_ScalarStoreResults_release : let s := fenced 4 (w [(3, 7), (4, h1)])
    s.memWf ∧ storeReady s ∧
    (∃ u, translate (beforeStore s) (beforeStore s).part (beforeStore s).privileged (h1 + 4088) Need.write = .ok (.phys 0x124FF8 u)) ∧
    touchesObject (beforeStore s) 0x124FF8 8 = false := by
  obtain ⟨u, hu, -⟩ := res_phys (r := let s := beforeStore (fenced 4 (w [(3, 7), (4, h1)]))
    translate s s.part s.privileged (h1 + 4088) Need.write) (pa := 0x124FF8) (fun _ => True) (by decide +kernel)
  exact ⟨wf_of (by decide +kernel), ready_pod (c := 4) (by decide +kernel), ⟨u, hu⟩, by decide +kernel⟩

theorem witness_MemoryAccessTraps : (loadTable (w [(4, h1)]) (.ld 3 4 1 0) = some (3, h1, 2, true, 4)) ∧
    (loadTable (w [(4, h1 + 7)]) (.cLd 3 4) = some (3, h1 + 7, 8, true, 2) ∧ (h1 + 7).toNat % 8 ≠ 0 ∧ w0.strike .address = none) ∧
    (∃ x, wstruck.strike .address = some x) ∧
    (let s := { w [(3, 7), (4, h1)] with objects := [0x12400] }
     storeTable s (.st 3 4 0 15) = some (7, h1 + 15, 1, 4) ∧ (h1 + 15).toNat % 1 = 0 ∧ noPeerFault s (h1 + 15) Need.write ∧ storeReady s ∧
      (∃ u, translate (beforeStore s) (beforeStore s).part (beforeStore s).privileged (h1 + 15) Need.write = .ok (.phys 0x12400F u)) ∧
      touchesObject (beforeStore s) 0x12400F 1 = true) := by
  obtain ⟨u, hu, -⟩ := res_phys (r := let s := beforeStore { w [(3, 7), (4, h1)] with objects := [0x12400] }
    translate s s.part s.privileged (h1 + 15) Need.write) (pa := 0x12400F) (fun _ => True) (by decide +kernel)
  exact ⟨by decide +kernel, by decide +kernel, ⟨_, rfl⟩, by decide +kernel, by decide, noPeer hu, ready (by decide +kernel), ⟨u, hu⟩,
    by decide +kernel⟩

/-- The last doubleword of the task's own scratchpad: a relative place of offset 0 (R132). -/
def pl : Word := 0x2000FFFF8

theorem witness_PlaceAccessResults : let s := w [(4, pl)]
    s.memWf ∧ Unstruck s ∧ s.padFlips = [] ∧ ((bits (s.x 4) 19 0 : Int) + (s.x 0).toInt) % ((2 ^ (3 : BitVec 2).toNat : Nat) : Int) = 0 ∧
    placeOf s (s.x 4) (s.x 0).toInt 8 = .ok (0, 0xFFFF8) ∧ rangeAwake s 0 0xFFFF8 8 = true ∧ s.ownFlights = [] ∧
    padTouchesPoison s 0 0xFFFF8 8 = false :=
  ⟨wf_of (by decide +kernel), unstruck (by decide +kernel), by decide +kernel, by decide +kernel, res_eq (by decide +kernel),
    by decide +kernel⟩

/-- A store after `fence.rel.pkg`. -/
theorem witness_PlaceAccessResults_store : let s := fenced 3 (w [(4, pl)])
    s.memWf ∧ storeReady s ∧ placeOf s (s.x 4) (s.x 0).toInt 8 = .ok (0, 0xFFFF8) ∧
    placeOf (beforeStore s) (s.x 4) (s.x 0).toInt 8 = .ok (0, 0xFFFF8) ∧ Unstruck s ∧ (beforeStore s).strike .loadPath = none ∧
    (beforeStore s).padFlips = [] ∧ rangeAwake (beforeStore s) 0 0xFFFF8 8 = true ∧ (beforeStore s).ownFlights = [] :=
  ⟨wf_of (by decide +kernel), ready_pod (c := 3) (by decide +kernel), res_eq (by decide +kernel), res_eq (by decide +kernel),
    unstruck (by decide +kernel), by decide +kernel⟩

theorem witness_PresenceStoreLands : let s := w [(4, pl), (5, 9)]
    s.memWf ∧ (s.x 4).toNat % 8 = 0 ∧ s.strike .address = none ∧ placeOf s (s.x 4) 0 8 = .ok (0, 0xFFFF8) ∧ orders (fenceScope 3 s) s ∧
    fenceScope 3 (fenced 4 s) = 4 ∧ orders 4 (fenced 4 s) :=
  ⟨wf_of (by decide +kernel), by decide +kernel, by decide +kernel, res_eq (by decide +kernel), fun h => absurd h (by decide +kernel),
    by decide +kernel, fun _ => ⟨by decide +kernel, by decide +kernel⟩⟩

/-- One active element, of 64 bits (R114, R152). -/
def wone : State := wv 1 1 0 4 [(4, h1)]

theorem wone_active : OneActive wone 0 0 0 := one_active (by decide +kernel) (by decide +kernel)

theorem wone_read : ∃ u, translate wone wone.part wone.privileged h1 Need.read = .ok (.phys 0x124000 u) := by
  obtain ⟨u, hu, -⟩ := res_phys (r := translate wone wone.part wone.privileged h1 Need.read) (pa := 0x124000) (fun _ => True)
    (by decide +kernel)
  exact ⟨u, hu⟩

theorem wone_write : ∃ u, translate wone wone.part wone.privileged h1 Need.write = .ok (.phys 0x124000 u) := by
  obtain ⟨u, hu, -⟩ := res_phys (r := translate wone wone.part wone.privileged h1 Need.write) (pa := 0x124000) (fun _ => True)
    (by decide +kernel)
  exact ⟨u, hu⟩

/-- The fields of R264, beside `wone_active`, `wone_read`, `wone_write` and `aside`. -/
theorem witness_VectorLoadElement : vectorLoadTable wone 0 (.vgld 8 4 9 0 0) = some (8, some 9, 0, 0, h1) ∧
    WellsAside wone (memoryShape wone 8 (some 9) true) ∧ OneActive wone 0 0 0 ∧ wone.memWf ∧ Undisturbed wone ∧
    (∃ u, translate wone wone.part wone.privileged h1 Need.read = .ok (.phys 0x124000 u)) ∧
    NoUpdateLines (beforeLoad wone true 0x124000 8) ∧ memoryFields wone 8 (some 9) true 0 0 = true ∧
    wone.ctx.vl.toNat ≤ vlmaxOf wone.ctx.sew wone.ctx.group ∧ 8 ≤ wone.ctx.sew ∧ wone.ctx.sew ≤ 64 ∧ h1.toNat % (wone.ctx.sew / 8) = 0 ∧
    touchesPoison (beforeLoad wone true 0x124000 (wone.ctx.sew / 8)) 0x124000 (wone.ctx.sew / 8) = false :=
  ⟨by decide +kernel, aside (by decide +kernel) _, wone_active, wf_of (by decide +kernel), calm (by decide +kernel), wone_read,
    no_updates (by decide +kernel), by decide +kernel⟩

theorem witness_VectorStoreElement : vectorStoreTable wone 0 (.vstS 63 4 3 0 0) = some (63, none, 0, 0, h1) ∧
    WellsAside wone (memoryShape wone 63 none false) ∧ OneActive wone 0 0 0 ∧ wone.memWf ∧ Undisturbed wone ∧
    noPeerFault wone h1 Need.write ∧ storeReady wone ∧ beforeStore wone = wone ∧
    (∃ u, translate wone wone.part wone.privileged h1 Need.write = .ok (.phys 0x124000 u)) ∧
    memoryFields wone 63 none false 0 0 = true ∧ 8 ≤ wone.ctx.sew ∧ wone.ctx.sew ≤ 64 ∧
    wone.ctx.vl.toNat ≤ vlmaxOf wone.ctx.sew wone.ctx.group ∧ h1.toNat % (wone.ctx.sew / 8) = 0 ∧
    touchesObject wone 0x124000 (wone.ctx.sew / 8) = false :=
  ⟨by decide +kernel, aside (by decide +kernel) _, wone_active, wf_of (by decide +kernel), calm (by decide +kernel),
    noPeer wone_write.choose_spec, ready (by decide +kernel), rfl, wone_write, by decide +kernel⟩

theorem witness_WideGather : OneActive wone 0 0 0 ∧ wone.memWf ∧ Undisturbed wone ∧
    WellsAside wone ⟨[(62, 2 * wone.ctx.group)], [wone.ctx.dest 16], 0, none⟩ ∧
    (∃ u, translate wone wone.part wone.privileged h1 Need.read = .ok (.phys 0x124000 u)) ∧
    NoUpdateLines (beforeLoad wone true 0x124000 16) ∧ wone.ctx.vl.toNat ≤ vlmaxOf wone.ctx.sew wone.ctx.group ∧
    wone.x 4 + BitVec.ofNat 64 (wone.ctx.elem 16 64 0) = h1 ∧ maskOk wone 0 0 = true ∧ wone.ctx.sew = 64 ∧ wone.ctx.group ≤ 4 ∧
    groupHere wone 62 (2 * wone.ctx.group) = true ∧ groupHere wone 16 wone.ctx.group = true ∧
    disjointGroups (62, 2 * wone.ctx.group) (wone.ctx.dest 16) = true ∧ h1.toNat % 16 = 0 ∧
    touchesPoison (beforeLoad wone true 0x124000 16) 0x124000 16 = false :=
  ⟨wone_active, wf_of (by decide +kernel), calm (by decide +kernel), aside (by decide +kernel) _, wone_read, no_updates (by decide +kernel),
    by decide +kernel⟩

/-- Two rows of 64 bytes, the last element active alone; the checksum register is v5. -/
def wck : State :=
  let s := wv 128 1 0 1 [(4, h1)]
  { s with ctx := { s.ctx with p := s.ctx.p.set 1 (1#1024 <<< 127), ox := s.ctx.ox.set 5 5 } }

theorem witness_CheckedStore : OneActive wck 1 0 127 ∧ wck.memWf ∧ Undisturbed wck ∧ storeReady wck ∧ beforeStore wck = wck ∧
    noPeerFault wck (h1 + 127) Need.write ∧ WellsAside wck ⟨[], [wck.ctx.dest 8, (5, 1)], 0, none⟩ ∧
    (∃ u, translate wck wck.part wck.privileged (h1 + 127) Need.write = .ok (.phys 0x12407F u)) ∧
    wck.ctx.vl.toNat ≤ vlmaxOf wck.ctx.sew wck.ctx.group ∧ wck.x 4 + BitVec.ofNat 64 (127 * (wck.ctx.sew / 8)) = h1 + 127 ∧
    bits (wck.ctx.getOx 5) 5 0 = 5 ∧ memoryFields wck 8 none false 0 1 = true ∧ wck.inService = false ∧ wck.ctx.sew = 8 ∧
    wck.ctx.vl.toNat % 64 = 0 ∧ wck.ctx.vstart.toNat % 64 = 0 ∧ 16 * (3 : BitVec 2).toNat + wck.ctx.vl.toNat / 64 ≤ 64 ∧
    disjointGroups (5, 1) (wck.ctx.dest 8) = true ∧ (h1 + 127).toNat % (wck.ctx.sew / 8) = 0 ∧
    touchesObject wck 0x12407F (wck.ctx.sew / 8) = false := by
  obtain ⟨u, hu, -⟩ := res_phys (r := translate wck wck.part wck.privileged (h1 + 127) Need.write) (pa := 0x12407F) (fun _ => True)
    (by decide +kernel)
  exact ⟨one_active_of (by decide +kernel) (by decide +kernel), wf_of (by decide +kernel), calm (by decide +kernel),
    ready (by decide +kernel), rfl, noPeer hu, aside (by decide +kernel) _, ⟨u, hu⟩, by decide +kernel⟩

/-- One active element whose place is the last doubleword of the task's own scratchpad. -/
theorem witness_VectorPlaceElement : let s := wv 1 1 0 4 [(4, pl)]
    OneActive s 0 0 0 ∧ s.memWf ∧ Undisturbed s ∧ storeReady s ∧ beforeStore s = s ∧ orders (fenceScope 3 s) s ∧
    resolvePlace s (s.x 4) 0 (s.ctx.vl.toNat * 8) = .ok (0, 0xFFFF8) ∧ WellsAside s ⟨[s.ctx.dest 60], [s.ctx.dest 60], 0, none⟩ ∧
    s.ctx.sew = 64 ∧ s.ctx.vl.toNat ≤ vlmaxOf 64 s.ctx.group ∧ maskOk s 0 0 = true ∧ groupHere s 60 s.ctx.group = true ∧
    bits (s.x 4) 19 0 % 8 = 0 ∧ padRefusal s s.part s.privileged 0 ((0xFFFF8 + 0 * 8) / 65536) = none ∧
    rangeAwake s 0 0xFFFF8 (s.ctx.vl.toNat * 8) = true ∧ s.ownFlights = [] ∧ s.padFlips = [] ∧ (ordered (fenceScope 3 s) s).cur = 0 ∧
    padRefusal (ordered (fenceScope 3 s) s) 0 true 0 15 = none ∧ padTouchesPoison s 0 (0xFFFF8 + 0 * 8) 8 = false :=
  ⟨one_active (by decide +kernel) (by decide +kernel), wf_of (by decide +kernel), calm (by decide +kernel), ready (by decide +kernel), rfl,
    fun h => absurd h (by decide +kernel), res_eq (by decide +kernel), aside (by decide +kernel) _, by decide +kernel⟩

/-! ### Atomics -/

/-- An add of 64 bits with a release of package scope at the last place of a page, and a reduction there. -/
theorem witness_AtomicResults : let s := w [(5, h1 + 4088)]
    let s1 := atomicBefore 2 2 s
    atomicTable (.amoAdd 3 4 5 2 2 0) = some (.add, 3, 4, 5, 2, 2, 0) ∧ reduceTable (.redMax 4 5 1) = some (.max, 4, 5, 1) ∧
    atomicReady 2 2 s ∧ storeReady s ∧ beforeStore s = s ∧ s.memWf ∧ noPeerFault s (s.x 5) Need.atom ∧
    (∃ u, translate s1 s1.part s1.privileged (s.x 5) Need.atom = .ok (.phys 0x124FF8 u) ∧
      touchesPoison (markUsed s1 u true).publish 0x124FF8 8 = false ∧ roomForUpdates (markUsed s u true).publish 0x124FF8) ∧
    ¬((2 : BitVec 2) = 0 ∧ (2 : BitVec 2) ≠ 0) ∧ (s.x 5).toNat % 8 = 0 ∧ s.strike .address = none ∧ s1.strike .loadPath = none ∧
    spaceOf 0x124FF8 ≠ .control ∧ touchesObject s1 0x124FF8 8 = false ∧ touchesObject s 0x124FF8 4 = false ∧
    touchesPoison s 0x124FF8 4 = false := by
  have room (u : Use) (h : decide ((markUsed (w [(5, h1 + 4088)]) u true).publish.core.l1 = []) = true) :
      roomForUpdates (markUsed (w [(5, h1 + 4088)]) u true).publish 0x124FF8 := .inr (by rw [of_decide_eq_true h]; decide)
  obtain ⟨u, hu, hp⟩ := res_phys (r := let s := atomicBefore 2 2 (w [(5, h1 + 4088)]); translate s s.part s.privileged (h1 + 4088) Need.atom)
    (pa := 0x124FF8) (fun u => touchesPoison (markUsed (atomicBefore 2 2 (w [(5, h1 + 4088)])) u true).publish 0x124FF8 8 = false ∧
      decide ((markUsed (w [(5, h1 + 4088)]) u true).publish.core.l1 = []) = true) (by decide +kernel)
  obtain ⟨v, hv, -⟩ := res_phys (r := let s := w [(5, h1 + 4088)]; translate s s.part s.privileged (h1 + 4088) Need.atom)
    (pa := 0x124FF8) (fun _ => True) (by decide +kernel)
  exact ⟨rfl, rfl, fun h => absurd h (by decide +kernel), ready (by decide +kernel), rfl, wf_of (by decide +kernel), noPeer hv,
    ⟨u, hu, hp.1, room u hp.2⟩, by decide +kernel⟩

/-- A collected maximum that its home combines (R249). -/
theorem witness_AtomicResults_combine : let r : Reduction := ⟨0x124FFC, 4, 9, 7, 1, 0, h1 + 4092, false⟩
    amoOfCode r.op = some .maxN ∧ r.pa % r.size = 0 ∧ spaceOf r.pa ≠ .control ∧ touchesObject w0 r.pa r.size = false ∧
    touchesPoison w0 r.pa r.size = false ∧ w0.memWf ∧ atomicNew r.size (physLe w0 r.pa r.size) (r.x.toNat % 2 ^ (8 * r.size)) 0 .maxN = some 7 :=
  ⟨rfl, by decide, by decide, by decide +kernel, by decide +kernel, wf_of (by decide +kernel), by decide +kernel⟩

/-- A relaxed add whose SPRED is 23. -/
def wva : State := let s := wv 1 1 0 4 [(4, h1)]; { s with ctx := { s.ctx with ox := s.ctx.ox.set 3 0x1702 } }

theorem witness_VectorAtomicElement : OneActive wva 0 0 0 ∧ wva.memWf ∧ Undisturbed wva ∧ atomicReady 0 0 wva ∧
    atomicBefore 0 0 wva = wva ∧ noPeerFault wva h1 Need.atom ∧
    (∃ u, translate wva wva.part wva.privileged h1 Need.atom = .ok (.phys 0x124000 u) ∧
      touchesPoison (markUsed wva u true).publish 0x124000 8 = false ∧ touchesPoison (markUsed wva u false).publish 0x124000 8 = false) ∧
    WellsAside wva ⟨[wva.ctx.dest 8], [wva.ctx.dest 8, wva.ctx.dest 9], 23, none⟩ ∧
    wva.ctx.sew = 64 ∧ wva.ctx.vl.toNat ≤ vlmaxOf 64 wva.ctx.group ∧
    wva.inService = false ∧ maskOk wva 0 0 = true ∧ groupHere wva 8 wva.ctx.group = true ∧ groupHere wva 9 wva.ctx.group = true ∧
    disjointGroups (wva.ctx.dest 8) (wva.ctx.dest 9) = true ∧ bits (wva.ctx.getOx 3) 63 13 = 0 ∧
    (atomicDesc (wva.ctx.getOx 3)).op = 2 ∧ (atomicDesc (wva.ctx.getOx 3)).order = 0 ∧ (atomicDesc (wva.ctx.getOx 3)).scope = 0 ∧
    (atomicDesc (wva.ctx.getOx 3)).spred = 23 ∧ wva.x 4 + BitVec.ofNat 64 (wva.ctx.elem 9 64 0) = h1 ∧ h1.toNat % 8 = 0 ∧
    touchesObject wva 0x124000 8 = false ∧ amoOfCode 2 = some .add ∧ touchesPoison wva 0x124000 8 = false ∧ wva.stamps = [] := by
  have at_ := res_phys (r := translate wva wva.part wva.privileged h1 Need.atom) (pa := 0x124000)
    (fun u => touchesPoison (markUsed wva u true).publish 0x124000 8 = false ∧
      touchesPoison (markUsed wva u false).publish 0x124000 8 = false) (by decide +kernel)
  refine ⟨one_active (by decide +kernel) (by decide +kernel), wf_of (by decide +kernel), calm (by decide +kernel), ready (by decide +kernel),
    rfl, ?_, at_, aside (by decide +kernel) _, by decide +kernel⟩
  obtain ⟨u, hu, -⟩ := at_
  exact noPeer hu

/-! ### Privilege, fences, lines, delegation, copies, wells -/

theorem witness_PrivilegedFormsTrap : privilegedForm (.cmoObjclr 4) = true ∧ wu.privileged = false := by decide +kernel

/-- A store of the task is open towards peer 1, and one that was lost. -/
def wfab : State := { w0 with fabric := [⟨1, 0, 1, 0, 1, 0x40, fa, 0, 0, 0, 0⟩] }
def wlost : State := { w0 with core := { w0.core with run := .running { fetchTask with lost := some fa } } }

theorem witness_FencesRelease : (5 : BitVec 3).toNat ≤ 5 ∧ orders 5 w0 ∧ orders 4 w0 ∧ wfab.publish.fabricOpen = true ∧
    wlost.publish.fabricOpen = false ∧ wlost.publish.lostStore = some fa ∧ w0.core.run.task = some fetchTask ∧ w0.ctx.seen = none ∧ w0.publish.fabricOpen = false :=
  ⟨by decide, fun h => absurd h (by decide), fun _ => ⟨by decide +kernel, by decide +kernel⟩, by decide +kernel⟩

theorem witness_LineOperations : let s := w [(4, h1), (5, du), (6, fa), (7, 15), (8, 4), (9, 16)]
    (∃ u, translate s s.part s.privileged (s.x 4) Need.read = .ok (.phys 0x124000 u)) ∧ spaceOf 0x124000 ≠ .durable ∧
    (∃ u, translate s s.part s.privileged (s.x 5) Need.read = .ok (.phys 0x40000000000 u)) ∧ spaceOf 0x40000000000 = .durable ∧
    (∃ p ad u, translate s s.part s.privileged (s.x 6) Need.read = .ok (.peer p ad u)) ∧
    (∃ e, translate s s.part s.privileged (s.x 0 + BitVec.ofInt 64 ((0 : BitVec 12).toInt * 2 ^ (0 : BitVec 2).toNat)) Need.read
      = .error e) ∧ (∀ p a u, (Target.peer p a u).use = u) ∧
    (∃ u, translate s s.part s.privileged (s.x 4) Need.write = .ok (.phys 0x124000 u)) ∧ s.privileged = true ∧
    (∃ p ad u, translate s s.part s.privileged (s.x 6) Need.write = .ok (.peer p ad u)) ∧ noPeerFault s (s.x 4) Need.write ∧
    storeReady s ∧ beforeStore s = s ∧ NoUpdateLines s ∧ s.memWf ∧ s.ownFlights = [] ∧ s.strike .address = none ∧
    (s.x 4).toNat % 128 = 0 ∧ touchesObject s 0x124000 128 = false ∧
    s.x 7 = BitVec.ofNat 64 (15 : Fin 16).val ∧ padRefusal s s.part s.privileged s.cur (15 : Fin 16).val = none ∧ pfmtOk (s.x 8) = true ∧
    16 ≤ (s.x 9).toNat := by
  refine ⟨?_, by decide, ?_, by decide, ?_, ?_, fun _ _ _ => rfl, ?_, by decide +kernel, ?_, ?_, ready (by decide +kernel), rfl,
    no_updates (by decide +kernel), wf_of (by decide +kernel), by decide +kernel⟩
  · obtain ⟨u, h, -⟩ := res_phys (r := let s := w [(4, h1), (5, du), (6, fa), (7, 15), (8, 4), (9, 16)]
      translate s s.part s.privileged (s.x 4) Need.read) (pa := 0x124000) (fun _ => True) (by decide +kernel)
    exact ⟨u, h⟩
  · obtain ⟨u, h, -⟩ := res_phys (r := let s := w [(4, h1), (5, du), (6, fa), (7, 15), (8, 4), (9, 16)]
      translate s s.part s.privileged (s.x 5) Need.read) (pa := 0x40000000000) (fun _ => True) (by decide +kernel)
    exact ⟨u, h⟩
  · obtain ⟨g, h, hg⟩ := res_ok (r := let s := w [(4, h1), (5, du), (6, fa), (7, 15), (8, 4), (9, 16)]
      translate s s.part s.privileged (s.x 6) Need.read) (P := fun g => (match g with | .peer .. => true | _ => false) = true)
      (by decide +kernel)
    cases g with
    | peer p ad u => exact ⟨p, ad, u, h⟩
    | phys p u => simp at hg
  · have h : (match (translate (w [(4, h1), (5, du), (6, fa), (7, 15), (8, 4), (9, 16)]) 0 true 0 Need.read) with
      | .error _ => true | _ => false) = true := by decide +kernel
    show ∃ e, translate (w [(4, h1), (5, du), (6, fa), (7, 15), (8, 4), (9, 16)]) 0 true 0 Need.read = .error e
    cases hc : translate (w [(4, h1), (5, du), (6, fa), (7, 15), (8, 4), (9, 16)]) 0 true 0 Need.read with
    | error e => exact ⟨e, rfl⟩
    | ok g => rw [hc] at h; cases h
  · obtain ⟨u, h, -⟩ := res_phys (r := let s := w [(4, h1), (5, du), (6, fa), (7, 15), (8, 4), (9, 16)]
      translate s s.part s.privileged (s.x 4) Need.write) (pa := 0x124000) (fun _ => True) (by decide +kernel)
    exact ⟨u, h⟩
  · obtain ⟨g, h, hg⟩ := res_ok (r := let s := w [(4, h1), (5, du), (6, fa), (7, 15), (8, 4), (9, 16)]
      translate s s.part s.privileged (s.x 6) Need.write) (P := fun g => (match g with | .peer .. => true | _ => false) = true)
      (by decide +kernel)
    cases g with
    | peer p ad u => exact ⟨p, ad, u, h⟩
    | phys p u => simp at hg
  · obtain ⟨u, h, -⟩ := res_phys (r := let s := w [(4, h1), (5, du), (6, fa), (7, 15), (8, 4), (9, 16)]
      translate s s.part s.privileged (s.x 4) Need.write) (pa := 0x124000) (fun _ => True) (by decide +kernel)
    exact noPeer h

theorem witness_DelegationsSend : let s := w [(4, 0x100000), (5, h1 + 4032)]
    (s.x 5).toNat % 64 = 0 ∧ s.strike .address = none ∧ coreOperand s (s.x 4) = .ok 1 ∧ ∃ bs s1, readVa s (s.x 5) 64 Need.read = .ok (bs, s1) := by
  obtain ⟨a, h, -⟩ := res_ok (r := let s := w [(4, 0x100000), (5, h1 + 4032)]; readVa s (s.x 5) 64 Need.read) (P := fun _ => True)
    (by decide +kernel)
  exact ⟨by decide +kernel, by decide +kernel, res_eq (by decide +kernel), a.1, a.2, h⟩

/-- A copy of one row of 64 bytes from HBM to HBM, its channel free or full (R266, R267). -/
def wcopy : State := let s := w [(4, h1), (5, h2)]; { s with ctx := { s.ctx with ox := s.ctx.ox.set 1 64 } }
def wfull : State := { wcopy with core := { wcopy.core with
  chans := wcopy.core.chans.set 2 { (wcopy.core.chans[2]) with out := List.replicate 64 ⟨0, 0, 0, 0, 0, true, 0, .arrive 0 false 0 0, false, false⟩ } } }

theorem witness_TransfersStart : (∃ ck s1, checksumRegister wcopy true = .ok (ck, s1)) ∧
    (∃ u, translate wcopy wcopy.part wcopy.privileged (wcopy.x 4) Need.read = .ok (.phys 0x124000 u)) ∧
    wcopy.inService = false ∧ wcopy.strike .address = none ∧ (wcopy.ctx.getOx 1).toNat < 2 ^ 40 ∧
    (copyShape wcopy 4 5 false false).rowlen = 64 ∧ (copyShape wcopy 4 5 false false).rows ≤ 64 ∧
    (copyShape wcopy 4 5 false false).check wcopy (converting wcopy (copyShape wcopy 4 5 false false).a (copyShape wcopy 4 5 false false).b) = none ∧
    wcopy.core.chans[(2 : Fin 4)].out.length < 64 ∧ 64 ≤ wfull.core.chans[(2 : Fin 4)].out.length ∧
    (copyShape wfull 4 5 false false).check wfull (converting wfull (copyShape wfull 4 5 false false).a (copyShape wfull 4 5 false false).b)
      = none := by
  obtain ⟨a, h, -⟩ := res_ok (r := checksumRegister wcopy true) (P := fun _ => True) (by decide +kernel)
  obtain ⟨u, hu, -⟩ := res_phys (r := translate wcopy wcopy.part wcopy.privileged (wcopy.x 4) Need.read) (pa := 0x124000) (fun _ => True)
    (by decide +kernel)
  exact ⟨⟨a.1, a.2, h⟩, ⟨u, hu⟩, by decide +kernel⟩

/-- A descriptor of a well over v8, of 64-bit elements (R270), in memory and bound as well 7. -/
def wdesc : State := put (w [(4, h1), (5, 1)]) 0x124000 8 0x100040
def wwell : State := { wdesc with ctx := wdesc.ctx.setWell 7 (some ⟨(Vector.replicate 8 0).set 0 0x100040, []⟩) }

theorem witness_WellForms : (∃ x, wstruck.strike .address = some x ∧ wstruck.inService = false) ∧
    (∃ a, readAs wdesc .vector wdesc.part wdesc.privileged (wdesc.x 4) 64 Need.read true = .ok a ∧
      (let x : Well := ⟨Vector.ofFn (fun i => (bytesToWords 8 a.1)[i.val]?.getD 0), []⟩
       x.descriptorOk = true ∧ wdesc.ctx.wellFits 7 x = true)) ∧
    wdesc.inService = false ∧ wdesc.strike .address = none ∧ (wdesc.x 4).toNat % 64 = 0 ∧
    wwell.ctx.well 7 ≠ none ∧ wdesc.ctx.well 7 = none ∧ wwell.x 0 = 0 ∧ 1 < ((w [(5, 2)]).x 5).toNat :=
  ⟨⟨_, rfl, by decide +kernel⟩, res_ok (by decide +kernel), by decide +kernel⟩

/-! ### Queues -/

/-- The template of a queue of one 8-byte element whose ring begins at the second page (R283, R304). -/
@[irreducible] def wqt : State := { w [(4, h1), (5, h1 + 64), (6, h1 + 128)] with mem := wmem ++ [(0x124041, 0x20), (0x124046, 0x08)] }

/-- The control block qinit writes for it, with TAIL and FREE as given (R283). -/
def qcb (tail free : Nat) : Nat :=
  qSeal (putField (putField (putField (putField (putField 0x8000000002000 95 80 1) 159 128 tail) 191 160 free) 239 224 1) 351 328 1)

/-- The queue, empty and full. -/
@[irreducible] def wq : State :=
  { wqt with
    mem := wmem ++ [(0x124001, 0x20), (0x124006, 0x08), (0x12400A, 1), (0x124014, 1), (0x12401C, 1), (0x12401E, 0x77), (0x12401F, 0x24), (0x124029, 1)]
    objects := [0x12400, 0x12401, 0x12402, 0x12403] }
@[irreducible] def wq1 : State :=
  { wqt with
    mem := wmem ++ [(0x124001, 0x20), (0x124006, 0x08), (0x12400A, 1), (0x124010, 1), (0x12401C, 1), (0x12401E, 0x5D), (0x12401F, 0x4A), (0x124029, 1)]
    objects := [0x12400, 0x12401, 0x12402, 0x12403], full := [0x24A00] }

/-- The blocks in memory are those of R283, with their check. -/
theorem test_queue_blocks : readQcb wq 0x124000 = qcb 0 1 ∧ readQcb wq1 0x124000 = qcb 1 0 := by decide +kernel

/-- R289. The enqueue of a full queue clears its predicate and completes. -/
theorem test_enqueue_full : (after (execEnqTry 1 4 6 wq1)).ctx.getP 1 = 0 ∧ (after (execEnqTry 1 4 6 wq1)).ctx.pc = fetchVa + 4 := by
  decide +kernel

theorem enqTry_table {s : State} {p a b : BitVec 5} (h : (predDestOk p && predHere s p.toNat && !s.ctx.boundPred p.toNat) = true) :
    enqueueTable s (.enqTry p a b) = some (some p.toNat, a, elementAt s (s.x b)) := if_pos h

theorem deqWait_table {s : State} {a b : BitVec 5} (h : waitAllowed s = true) :
    dequeueTable s (.deqWait a b) = some (none, a, destinationAt s (s.x b), putAt) := if_pos h

theorem witness_QueueTransfers_enqueue : ∃ elem,
    enqueueTable wq (.enqTry 23 4 6) = some (some 23, 4, elem) ∧ (enqueueTable wq (.venqWait 63 4)).isSome = true ∧
    (∃ o, openQueue wq (wq.x 4) .enqueue = .ok o ∧ qFree o.q ≠ 0 ∧ ∃ a, elem o = .ok a ∧ fenceScope (modeScope o.q) a.2 = 2 ∧
      orders 2 a.2 ∧ ∃ s2, enqueueNow (ordered 2 a.2) o a.1 = .ok s2) ∧
    (∃ o, openQueue wq1 (wq1.x 4) .enqueue = .ok o ∧ qFree o.q = 0 ∧ ∃ a, elementAt wq1 (wq1.x 6) o = .ok a) ∧
    wq1.core.run.task = some fetchTask := by
  refine ⟨elementAt wq (wq.x 6), enqTry_table (by decide +kernel), by decide +kernel, ?_, ?_, by decide +kernel⟩
  · obtain ⟨o, h, hq, hr⟩ := res_ok (r := openQueue wq (wq.x 4) .enqueue) (P := fun o => qFree o.q ≠ 0 ∧
      okWith (elementAt wq (wq.x 6) o) (fun a => decide (fenceScope (modeScope o.q) a.2 = 2) &&
        okWith (enqueueNow (ordered 2 a.2) o a.1) (fun _ => true)) = true) (by decide +kernel)
    obtain ⟨a, ha, hb⟩ := of_okWith hr
    obtain ⟨hf, hb⟩ := (Bool.and_eq_true _ _).mp hb
    obtain ⟨s2, h2, -⟩ := of_okWith hb
    exact ⟨o, h, hq, a, ha, of_decide_eq_true hf, fun h => absurd h (by decide), s2, h2⟩
  · obtain ⟨o, h, hp⟩ := of_okWith (r := openQueue wq1 (wq1.x 4) .enqueue) (p := fun o => decide (qFree o.q = 0) &&
      okWith (elementAt wq1 (wq1.x 6) o) (fun _ => true)) (by decide +kernel)
    obtain ⟨hq, hr⟩ := (Bool.and_eq_true _ _).mp hp
    obtain ⟨a, ha, -⟩ := of_okWith hr
    exact ⟨o, h, of_decide_eq_true hq, a, ha⟩

/-- What was found meets a condition; nothing found meets none. -/
def foundAnd {α β : Type} (p : α → β → Bool) : Option (α × β) → Bool
  | some y => p y.1 y.2
  | none => false

/-- A slot that holds an element, with a continuation that succeeds. -/
theorem found {α β γ : Type} {r : Res (Option (α × β))} {f : α → β → Res γ}
    (h : okWith r (foundAnd fun a b => okWith (f a b) (fun _ => true)) = true) : ∃ a b, r = .ok (some (a, b)) ∧ ∃ c, f a b = .ok c := by
  obtain ⟨x, hx, hy⟩ := of_okWith h
  cases x with
  | none => cases hy
  | some y =>
    obtain ⟨c, hc, -⟩ := of_okWith hy
    exact ⟨y.1, y.2, hx, c, hc⟩

theorem witness_QueueTransfers_dequeue : ∃ check put,
    dequeueTable wq1 (.deqWait 4 6) = some (none, 4, check, put) ∧ (dequeueTable wq1 (.vdeqTry 63 4 23)).isSome = true ∧
    (∃ o, openQueue wq1 (wq1.x 4) .dequeue = .ok o ∧ ∃ dst, check o = .ok dst ∧ qCount o.q ≠ 0 ∧
      ∃ bs s1, dequeueNow wq1.publish o = .ok (some (bs, s1)) ∧ ∃ s2, put dst o bs s1 = .ok s2) ∧
    (∃ o, openQueue wq (wq.x 4) .dequeue = .ok o ∧ qCount o.q = 0) ∧ wq.core.run.task = some fetchTask := by
  refine ⟨destinationAt wq1 (wq1.x 6), putAt, deqWait_table (by decide +kernel), by decide +kernel, ?_,
    res_ok (by decide +kernel), by decide +kernel⟩
  obtain ⟨o, h, hr⟩ := of_okWith (r := openQueue wq1 (wq1.x 4) .dequeue) (p := fun o => okWith (destinationAt wq1 (wq1.x 6) o) fun dst =>
    decide (qCount o.q ≠ 0) && okWith (dequeueNow wq1.publish o)
      (foundAnd fun bs s1 => okWith (putAt dst o bs s1) (fun _ => true))) (by decide +kernel)
  obtain ⟨dst, hd, hr⟩ := of_okWith hr
  obtain ⟨hq, hr⟩ := (Bool.and_eq_true _ _).mp hr
  exact ⟨o, h, dst, hd, of_decide_eq_true hq, found (f := putAt dst o) hr⟩

theorem witness_EnqueueAtHome : wq.memWf ∧ 0x124000 % 64 = 0 ∧ spaceOf 0x124000 ≠ .control ∧
    (∀ a ∈ [0x125000], spaceOf a ≠ .control ∧ (a + slotPiece (readQcb wq 0x124000) ≤ 0x124000 ∨ 0x124000 + 64 ≤ a)) ∧
    0 < qFree (readQcb wq 0x124000) :=
  ⟨wf_of (by decide +kernel), by decide, by decide, by decide +kernel, by decide +kernel⟩

theorem witness_QueueUpkeep : (wqt.x 4).toNat % 64 = 0 ∧ (wqt.x 5).toNat % 64 = 0 ∧
    (∃ tgt, translate wqt wqt.part wqt.privileged (wqt.x 4) Need.queue = .ok tgt ∧ ∃ a, readVa wqt (wqt.x 5) 64 Need.read = .ok a ∧
      ∃ k, qinitStatus a.2 (wqt.x 4).toNat tgt (leNat a.1) = .ok k) ∧
    (∃ o, openQueue wq (wq.x 4) .look = .ok o ∧ qCount o.q = 0 ∧ qEnqw o.q = 0 ∧ qDeqw o.q = 0 ∧ qFree o.q = qCap o.q ∧ qMode o.q ≠ 2) ∧
    (∃ o, openQueue wq1 (wq1.x 4) .look = .ok o ∧ ¬(qCount o.q = 0 ∧ qEnqw o.q = 0 ∧ qDeqw o.q = 0 ∧ qFree o.q = qCap o.q)) ∧
    ((w [(7, 7)]).x 7).toNat < 8 ∧ 8 ≤ ((w [(7, 8)]).x 7).toNat ∧
    (∃ o, openQueue wq (wq.x 4) .dequeue = .ok o ∧ ∃ dst, destinationAt wq (wq.x 6) o = .ok dst ∧ qCount o.q = 0) ∧
    (∃ o, openQueue wq1 (wq1.x 4) .dequeue = .ok o ∧ ∃ dst, destinationAt wq1 (wq1.x 6) o = .ok dst ∧ qCount o.q ≠ 0 ∧
      ∃ l bs, readSlot wq1.publish o = .ok (some (l, bs)) ∧ ∃ s2, putAt dst o bs (touchSlot (acquireSlot o.q wq1.publish l)
        wq1.publish.part o (dequeueSlot wq1.publish wq1.publish.part o.pa o.q wq1.publish.cur).1 Need.read) = .ok s2) := by
  refine ⟨by decide +kernel, by decide +kernel, ?_, res_ok (by decide +kernel), res_ok (by decide +kernel), by decide +kernel,
    by decide +kernel, ?_, ?_⟩
  · obtain ⟨g, hg, hr⟩ := of_okWith (r := translate wqt wqt.part wqt.privileged (wqt.x 4) Need.queue) (p := fun tgt =>
      okWith (readVa wqt (wqt.x 5) 64 Need.read) (fun a => okWith (qinitStatus a.2 (wqt.x 4).toNat tgt (leNat a.1)) (fun k => decide (k.1 = 0))))
      (by decide +kernel)
    obtain ⟨a, ha, hb⟩ := of_okWith hr
    obtain ⟨k, hk, -⟩ := of_okWith hb
    exact ⟨g, hg, a, ha, k, hk⟩
  · obtain ⟨o, h, hr⟩ := of_okWith (r := openQueue wq (wq.x 4) .dequeue) (p := fun o =>
      okWith (destinationAt wq (wq.x 6) o) (fun _ => decide (qCount o.q = 0))) (by decide +kernel)
    obtain ⟨dst, hd, hq⟩ := of_okWith hr
    exact ⟨o, h, dst, hd, of_decide_eq_true hq⟩
  · obtain ⟨o, h, hr⟩ := of_okWith (r := openQueue wq1 (wq1.x 4) .dequeue) (p := fun o => okWith (destinationAt wq1 (wq1.x 6) o) fun dst =>
      decide (qCount o.q ≠ 0) && okWith (readSlot wq1.publish o) (foundAnd fun l bs =>
        okWith (putAt dst o bs (touchSlot (acquireSlot o.q wq1.publish l) wq1.publish.part o
          (dequeueSlot wq1.publish wq1.publish.part o.pa o.q wq1.publish.cur).1 Need.read)) (fun _ => true))) (by decide +kernel)
    obtain ⟨dst, hd, hr⟩ := of_okWith hr
    obtain ⟨hq, hr⟩ := (Bool.and_eq_true _ _).mp hr
    exact ⟨o, h, dst, hd, of_decide_eq_true hq, found (f := fun l bs => putAt dst o bs (touchSlot (acquireSlot o.q wq1.publish l) _ o _ _)) hr⟩

/-! ### Cells, rendezvous, waiting, tasks, gangs, grants -/

/-- A cell with COUNT 1 and TARGET 3 at the first page, a rendezvous that expects 2 behind it and one in the wrong phase, and a live-mask
table of four entries that keep every register (R34, R373, R375). -/
def wobj : State :=
  let s := w [(4, h1), (5, 3), (6, cellToken h1.toNat), (7, h1 + 16), (8, h1 + 32), (9, rendezvousToken (h1 + 16) 1), (10, 2), (11, 0x100000000)]
  { s with
    mem := wmem ++ [(0x124000, 1), (0x124004, 3), (0x124008, 5), (0x124010, 2), (0x124020, 2), (0x124028, 1),
      (0x124070, 0xFF), (0x124071, 0xFF), (0x124072, 0xFF), (0x124073, 0xFF), (0x124078, 0xFF), (0x124079, 0xFF), (0x12407A, 0xFF), (0x12407B, 0xFF)]
    objects := [0x12400, 0x12401, 0x12402]
    lc := { s.lc with lmtbase := 0x38000000001040 } }

theorem witness_CellForms : wobj.memWf ∧ objectPa wobj (wobj.x 4) Need.atom = .ok 0x124000 ∧
    (∃ u, translate wobj wobj.part wobj.privileged (tokVa (wobj.x 6)) Need.atom = .ok (.phys 0x124000 u) ∧
      0x124000 / 16 ∈ (ordered 4 wobj).objects ∧
      (let s1 := stampHome (markUsed (podSignal (ordered 4 wobj) 0x124000) u true) 0x124000
       touchesPoison s1 0x124000 16 = false ∧ cellReserved (object16 s1 0x124000) = false) ∧
      (let s1 := stampHome (markUsed (ordered 1 wobj) u true) 0x124000
       touchesPoison s1 0x124000 16 = false ∧ cellReserved (object16 s1 0x124000) = false) ∧
      cellReserved (object16 (stampHome (markUsed (ordered 1 { wobj with mem := memWrite wobj.mem 0x12400F 1 }) u true) 0x124000) 0x124000)
        = true) ∧
    orders (fenceScope 5 wobj) wobj ∧ orders (fenceScope 4 wobj) wobj ∧ tokenObject wobj (wobj.x 6) Need.atom = .ok () ∧
    objectPa wobj (tokVa (wobj.x 6)) Need.atom = .ok 0x124000 ∧
    ((wobj.x 4).toNat % 16 = 0 ∧ (wobj.x 5).toNat < 2 ^ 32 ∧ spaceOf 0x124000 ≠ .control ∧ 0x124000 % 16 = 0) ∧
    2 ^ 32 ≤ (wobj.x 11).toNat ∧ tokenOperand wobj [2] (wobj.x 6) = none ∧ tokFabric (wobj.x 6) = false ∧ fenceScope 4 wobj = 4 ∧
    0x124000 / 16 ∉ (ordered 1 { wobj with objects := [] }).objects ∧ tokenOperand wobj [2, 3] (wobj.x 6) = none := by
  refine ⟨wf_of (by decide +kernel), res_eq (by decide +kernel), res_phys (fun u => 0x124000 / 16 ∈ (ordered 4 wobj).objects ∧
      (let s1 := stampHome (markUsed (podSignal (ordered 4 wobj) 0x124000) u true) 0x124000
       touchesPoison s1 0x124000 16 = false ∧ cellReserved (object16 s1 0x124000) = false) ∧
      (let s1 := stampHome (markUsed (ordered 1 wobj) u true) 0x124000
       touchesPoison s1 0x124000 16 = false ∧ cellReserved (object16 s1 0x124000) = false) ∧
      cellReserved (object16 (stampHome (markUsed (ordered 1 { wobj with mem := memWrite wobj.mem 0x12400F 1 }) u true) 0x124000) 0x124000)
        = true) (by decide +kernel), fun h => absurd h (by decide +kernel), fun _ => ⟨by decide +kernel, by decide +kernel⟩,
    res_unit (by decide +kernel), res_eq (by decide +kernel), by decide +kernel⟩

/-- A task that has arrived at wire barrier 0, with its timeout in the future and past (R378, R380). -/
def wbar (dl : Word) : State :=
  { w0 with cyc := 100, lines := [⟨0, 0, [((1, 0), false)], []⟩],
            core := { w0.core with run := .running { fetchTask with arrival := some (barrierToken 0 false 7, dl) } } }

/-- The asker of a task of core 0 (R381). -/
def asks0 (s : State) : Asker := match s.core.run.task with | some x => x.asks 0 | none => engineAsks 0 0

theorem witness_RendezvousAndBarriers : wobj.memWf ∧ objectPa wobj (wobj.x 7) Need.atom = .ok 0x124010 ∧
    objectPa wobj (wobj.x 8) Need.atom = .ok 0x124020 ∧ (∀ x, w0.core.run.task = some x → x.arrival = none) ∧
    ((wobj.x 7).toNat % 16 = 0 ∧ spaceOf 0x124010 ≠ .control ∧ 0x124010 % 16 = 0) ∧
    (wobj.x 10 ≠ 0 ∧ (wobj.x 10).toNat < 2 ^ 32) ∧ 0x124010 / 16 ∈ wobj.objects ∧ (wobj.x 0).toNat < 16 ∧
    rvReserved (object16 wobj 0x124010) = false ∧ rvReserved (object16 { wobj with mem := memWrite wobj.mem 0x12401F 1 } 0x124010) = true ∧
    (let v := object16 ((wobj.touch wobj.part (wobj.x 7).toNat Need.atom true).publish) 0x124010
     (wobj.x 0).getLsbD 1 = false ∧ rvPar v = (wobj.x 0).toNat % 2 ∧ rvArrived v + 1 ≠ rvExpect v) ∧
    rvPar (object16 ((wobj.touch wobj.part (wobj.x 8).toNat Need.atom true).publish) 0x124020) ≠ (wobj.x 0).toNat % 2 ∧
    ((w [(4, 14)]).x 4).getLsbD 1 = true ∧ ((w [(4, 14)]).x 4).toNat / 4 = (3 : Fin 4).val ∧
    0x124010 / 16 ∉ { wobj with objects := [] }.objects ∧
    (wbar 101).core.run.task = some { fetchTask with arrival := some (barrierToken 0 false 7, 101) } ∧
    tokenReady (wbar 101) (asks0 (wbar 101)) (barrierToken 0 false 7) = none ∧ (wbar 101).cyc.toNat < (101 : Word).toNat ∧
    tokenReady (wbar 100) (asks0 (wbar 100)) (barrierToken 0 false 7) = none ∧ (100 : Word).toNat ≤ (wbar 100).cyc.toNat := by
  refine ⟨wf_of (by decide +kernel), res_eq (by decide +kernel), res_eq (by decide +kernel), ?_, by decide +kernel⟩
  intro x hx
  have h : w0.core.run.task = some fetchTask := by decide +kernel
  rw [h] at hx
  cases hx
  rfl

/-- Time tokens: ready, a promise the core stalls for, and one it does not (R36, R38). -/
def wtok : State :=
  let s := w [(4, 0x6000000000000000), (5, 0x6000000000000014), (6, 0x6000000000010000), (8, transferToken 0 0 1), (9, 20)]
  { s with mem := wobj.mem, lc := wobj.lc, objects := [],
           core := { s.core with chans := s.core.chans.set 0 { (s.core.chans[0]) with nextId := 2, out := [⟨1, 0, 0, 0, 0, true, 0, .arrive 0 false 0 0, false, false⟩] } } }

/-- A state from which no wait has begun. -/
def began (s : State) : State := { s with core := { s.core with run := s.core.run.mapTask (fun t => { t with waitFrom := none }) } }

/-- An await of a barrier whose arrival has run out, and one of a leader whose members stand at it. -/
theorem witness_AwaitForms_barrier : let x : TaskInfo := { fetchTask with arrival := some (barrierToken 0 false 7, 90) }
    let s : State := { (wtok.setX 7 (barrierToken 0 false 7)) with cyc := 100, lines := (wbar 90).lines, core := { wtok.core with run := .running x } }
    s.gang = .none ∧ (∃ a, awaitPrepare s ⟨4, .await, 7, encAwait 7 3⟩ 3 = .ok a ∧ a.1.core.run.task = some x ∧
      firstReady (began a.1) (x.asks s.cur) a.2.1 0 = none ∧ barrierDue (began a.1) x a.2.1 = some (barrierToken 0 false 7)) := by
  exact ⟨by decide +kernel, res_ok (by decide +kernel)⟩

theorem witness_AwaitForms : awaitTable (.awaitany 4 3) = some (⟨4, .awaitAny, 4, encAwaitany 4 3⟩, 3) ∧ awaitTable (.cAwait 6 3) = some (⟨2, .await, 6, encCAwait 6 3⟩, 3) ∧
    wtok.inService = false ∧ 3 < maskCount wtok ∧ wtok.gang = .none ∧
    (∃ e, checkTokens wtok ((⟨4, .await, 7, encAwait 7 3⟩ : AwaitForm).regs.map wtok.x) = .error e) ∧
    (∃ a, awaitPrepare wtok ⟨4, .awaitAny, 4, encAwaitany 4 3⟩ 3 = .ok a ∧ a.1.core.run.task = some fetchTask ∧ firstReady (began a.1) (fetchTask.asks 0) a.2.1 0 = some (0, 0)) ∧
    (∃ a, awaitPrepare wtok ⟨4, .await, 5, encAwait 5 3⟩ 3 = .ok a ∧ firstReady (began a.1) (fetchTask.asks 0) a.2.1 0 = none ∧ barrierDue (began a.1) fetchTask a.2.1 = none ∧
      earliestPromise (began a.1) a.2.1 = some 20 ∧ stallsFor (began a.1) (some 20) = true) ∧
    (∃ a, awaitPrepare wtok ⟨2, .await, 6, encCAwait 6 3⟩ 3 = .ok a ∧ firstReady (began a.1) (fetchTask.asks 0) a.2.1 0 = none ∧ barrierDue (began a.1) fetchTask a.2.1 = none ∧
      stallsFor (began a.1) (earliestPromise (began a.1) a.2.1) = false) ∧
    tokKind (wtok.x 8) = 1 ∧ checkToken wtok (wtok.x 8) = .ok () ∧ (wtok.x 0).toNat ≤ wtok.cyc.toNat ∧
    tokenReady wtok (engineAsks wtok.cur wtok.part) (wtok.x 8) = none ∧ checkToken w0 (transferToken 0 0 0) = .ok () ∧
    (tokenReady w0 (engineAsks w0.cur w0.part) (transferToken 0 0 0)).isSome = true ∧
    wtok.cyc.toNat < (wtok.x 9).toNat ∧ (wtok.x 9).toNat - wtok.cyc.toNat ≤ wtok.core.swth.toNat := by
  refine ⟨rfl, rfl, by decide +kernel, by decide +kernel, by decide +kernel, ?_, res_ok (by decide +kernel), res_ok (by decide +kernel),
    res_ok (by decide +kernel), by decide +kernel, res_unit (by decide +kernel), by decide +kernel, by decide +kernel,
    res_unit (by decide +kernel), by decide +kernel, by decide +kernel, by decide +kernel⟩
  have h : okWith (checkTokens wtok ((⟨4, .await, 7, encAwait 7 3⟩ : AwaitForm).regs.map wtok.x)) (fun _ => true) = false := by decide +kernel
  cases hc : checkTokens wtok ((⟨4, .await, 7, encAwait 7 3⟩ : AwaitForm).regs.map wtok.x) with
  | ok u => rw [hc] at h; cases h
  | error e => exact ⟨e, rfl⟩

/-- The same waiting for an answer, and answered. -/
def wask : State := { w0 with core := { w0.core with asked := true } }
def wans : State := { w0 with core := { w0.core with asked := true, answer := some 2 } }

/-- Leader of a formed gang. -/
def wgang : State := { w0 with core := { w0.core with run := .running { fetchTask with gang := .leader 1 [(0, 0), (1, 1)] 0 } } }

theorem witness_TaskControlForms : let s := w [(4, 0x100000), (5, 7), (6, pl)]
    (requestTable s (.tspawn 3 4)).isSome = true ∧ (requestTable s (.gjoin 3 5)).isSome = true ∧ (requestTable s (.wqry 3 6 5)).isSome = true ∧
    s.inService = false ∧ (s.x 4).toNat < 2 ^ 60 ∧ (s.x 5).toNat < 8 ∧ s.core.answer = none ∧ s.core.asked = false ∧
    wask.core.asked = true ∧ wask.core.answer = none ∧ wans.core.answer = some 2 ∧
    s.inGang = false ∧ s.core.run.task = some fetchTask ∧ ws.inService = true ∧ wgang.inGang = true := by
  decide +kernel

/-- A task that forms a gang. -/
def wform : State := { w0 with core := { w0.core with run := .running { fetchTask with gang := .forming 1 0 5 0 0 [] } } }

/-- A follower of column 1 and a leader outside its launch's cores (R70). -/
def wcore (c : Nat) (v : Word) : State := { w [(4, v)] with cur := c }

theorem witness_GangForms :
    (((wcore 1 5).x 4).toNat = 1 + 4 * 1 + 16 * 0 ∧ 1 < gangWidth 1 ∧ 0 < gangHeight 1 ∧ 1 ≤ colOf (wcore 1 5).cur ∧ 0 * gangWidth 1 + 1 ≠ 0) ∧
    (wcore 1 5).core.run.task = some fetchTask ∧ fetchTask.gang = .none ∧ (wcore 1 5).launchOf fetchTask.serial = some fetchLaunch ∧
    fetchLaunch.cores.contains (wcore 0 1).cur = true ∧ (wcore 0 1).core.joins = [] ∧ ((wcore 0 1).x 4).toNat = 1 + 4 * 0 + 16 * 0 ∧
    fetchLaunch.cores.contains (wcore 5 3).cur = false ∧ ((wcore 5 3).x 4).toNat = 3 + 4 * 0 + 16 * 0 ∧
    gangWidth 1 ≤ 3 ∧ ws.inService = true ∧ wgang.inService = false ∧ wgang.inGang = true ∧ w0.inGang = false ∧
    wform.inGang = false ∧ wform.inService = false ∧ wform.gang ≠ .none ∧ wgang.gang = .leader 1 [(0, 0), (1, 1)] 0 ∧
    [(0, 0), (1, 1)].all (memberHere wgang) = true := by
  decide +kernel

theorem witness_InvalidationsAndGrants : let s := w [(4, h1), (5, 63), (6, 64), (7, 0x1000000), (8, 0x40000), (9, 3), (10, 12 <<< 34), (11, 0)]
    s.privileged = true ∧ (drainEverywhere s).fabric = [] ∧ (s.x 5).toNat < 64 ∧ 64 ≤ (s.x 6).toNat ∧ (s.x 0).toNat < 64 ∧
    (∃ l, walkFresh s (s.x 0).toNat (s.x 4) = .ok l ∧ l.size = 0) ∧ (∃ f, walkFresh s (s.x 0).toNat (s.x 0) = .error f) ∧
    ((s.x 0).toNat < 2 ^ 24 ∧ (s.x 0).toNat / 2 ^ 18 = s.part) ∧ (∃ tok, issuable tok = true) ∧ issuable (s.x 11) = false ∧
    ¬((s.x 7).toNat < 2 ^ 24 ∧ (s.x 7).toNat / 2 ^ 18 = s.part) ∧ ¬((s.x 8).toNat < 2 ^ 24 ∧ (s.x 8).toNat / 2 ^ 18 = s.part) ∧
    (s.x 9).toNat < 4 := by
  refine ⟨by decide +kernel, by decide +kernel, by decide +kernel, by decide +kernel, by decide +kernel, res_ok (by decide +kernel), ?_,
    by decide +kernel, ?_, by decide +kernel, by decide +kernel, by decide +kernel, by decide +kernel⟩
  · have h : okWith (walkFresh (w [(4, h1), (5, 63), (6, 64), (7, 0x1000000), (8, 0x40000), (9, 3), (10, 12 <<< 34), (11, 0)]) 0 0) (fun _ => true) = false := by
      decide +kernel
    show ∃ f, walkFresh (w [(4, h1), (5, 63), (6, 64), (7, 0x1000000), (8, 0x40000), (9, 3), (10, 12 <<< 34), (11, 0)]) 0 0 = .error f
    cases hc : walkFresh (w [(4, h1), (5, 63), (6, 64), (7, 0x1000000), (8, 0x40000), (9, 3), (10, 12 <<< 34), (11, 0)]) 0 0 with
    | ok u => rw [hc] at h; cases h
    | error e => exact ⟨e, rfl⟩
  · exact ⟨0x300000000, by decide⟩

/-! ### KV tables and the Rake -/

/-- At the first page: a pool of four descriptors (R340, R342), of which 0 is current, 1 shared, 2 free and 3 under repair; block tables
(R344) at 0x300 with a part-filled last page, 0x340 with a full one, 0x380 empty, 0x3C0 ending in the shared page, 0x400 in the page under
repair, 0x4C0 with no room; splice records (R352) at 0x440, 0x460 with an old version, 0x480 past the end; a requantisation record at 0x4A0
(R353); Rake jobs (R359) at 0x500 and, refused, 0x540; pool templates at 0x600 and, refused, 0x640. -/
def kvMem : Mem := wmem ++
  [(0x124001, 0x11), (0x124006, 0x08), (0x124009, 0x12), (0x12400E, 0x08), (0x124010, 0x04), (0x124013, 0x02), (0x124016, 0x02),
   (0x124019, 0x04), (0x12401B, 0x01), (0x12401D, 0x03), (0x124100, 0x01), (0x124102, 0x01), (0x124107, 0x31), (0x124108, 0x02),
   (0x12410C, 0x80), (0x124110, 0x02), (0x124112, 0x01), (0x124117, 0x31), (0x124118, 0x02), (0x12411C, 0x80), (0x124122, 0x03),
   (0x124130, 0x01), (0x124132, 0x01), (0x124137, 0x33), (0x124138, 0x02), (0x12413C, 0x80), (0x124300, 0x01), (0x124304, 0x04),
   (0x124309, 0x10), (0x12430E, 0x08), (0x124310, 0x02), (0x124314, 0x80), (0x124315, 0xC0), (0x124340, 0x01), (0x124344, 0x04),
   (0x124349, 0x10), (0x12434E, 0x08), (0x124350, 0x02), (0x124354, 0x80), (0x124356, 0x04), (0x124384, 0x04), (0x124389, 0x10),
   (0x12438E, 0x08), (0x1243C0, 0x01), (0x1243C4, 0x04), (0x1243C9, 0x10), (0x1243CE, 0x08), (0x1243D0, 0x02), (0x1243D4, 0x80),
   (0x1243D5, 0xC0), (0x1243D8, 0x01), (0x124400, 0x01), (0x124404, 0x04), (0x124409, 0x10), (0x12440E, 0x08), (0x124410, 0x02),
   (0x124414, 0x80), (0x124415, 0xC0), (0x124418, 0x03), (0x124440, 0x01), (0x124444, 0x01), (0x124450, 0x02), (0x124454, 0x80),
   (0x124455, 0x80), (0x124456, 0x20), (0x124460, 0x01), (0x124464, 0x01), (0x124470, 0x02), (0x124474, 0x80), (0x124475, 0x80),
   (0x124476, 0x20), (0x124479, 0x20), (0x124480, 0x09), (0x124484, 0x01), (0x124490, 0x02), (0x124494, 0x80), (0x124495, 0x80),
   (0x124496, 0x20), (0x1244A1, 0x10), (0x1244A6, 0x08), (0x1244A9, 0x20), (0x1244AE, 0x38), (0x1244C0, 0x01), (0x1244C4, 0x01),
   (0x1244C9, 0x10), (0x1244CE, 0x08), (0x1244D0, 0x02), (0x1244D4, 0x80), (0x1244D5, 0xC0), (0x124501, 0x13), (0x124506, 0x08),
   (0x12450C, 0x01), (0x124520, 0x01), (0x124521, 0x01), (0x124541, 0x13), (0x124546, 0x08), (0x124560, 0x01), (0x124561, 0x01),
   (0x124601, 0x18), (0x124606, 0x08), (0x124609, 0x19), (0x12460E, 0x08), (0x124610, 0x04), (0x124619, 0x04), (0x12461D, 0x03),
   (0x124641, 0x18), (0x124646, 0x08), (0x124649, 0x19), (0x12464E, 0x08), (0x124659, 0x03), (0x12465D, 0x03)]

/-- `w` with them; the registers name the pool, the tables and the records. -/
def wk (l : List (BitVec 5 × Word)) : State :=
  { w l with mem := kvMem, objects := [0x12400, 0x12401, 0x12402, 0x12403, 0x12410, 0x12411, 0x12413] }

/-- The pool of the tests, and with no descriptor free. -/

def wpool : State := wk [(4, h1), (5, h1 + 0x600), (6, h1 + 0x640), (7, h1 + 0x700), (8, 1), (9, 0x5000001), (10, 0x100000000), (11, h2)]
def wnone : State := { wpool with mem := memWrite kvMem 0x124013 0 }

theorem witness_PoolForms : let s := wpool
    let s1 := s.publish
    let q := s1.party
    s.memWf ∧ objectAt s1 q (s.x 4) Need.change = .ok 0x124000 ∧ objectAt s1 q (s.x 7) Need.change = .ok 0x124700 ∧
    (∃ a, readVa s1 (s.x 5) 64 Need.read = .ok a ∧ poolTemplateOk ⟨s.x 7, leNat a.1⟩ = true ∧
      okWith (pagesTake s1 q (Pool.descBase ⟨s.x 7, leNat a.1⟩) 1) (fun _ => true) = true) ∧
    (∃ a, readVa s1 (s.x 6) 64 Need.read = .ok a ∧ poolTemplateOk ⟨s.x 7, leNat a.1⟩ = false) ∧
    (∃ p, getPool s1 q (s.x 4) Need.change = .ok p ∧ p.freeCnt = 2 ∧ (s.x 11).toNat % 4096 = 0 ∧
      okWith (allocDesc s1 q p (nativeDesc p (s.x 11))) (fun _ => true) = true ∧
      okWith (getDesc s1 q p (s.x 8).toNat Need.change) (fun e => decide (e.refcnt = 2)) = true ∧
      (s.x 9).toNat < 2 ^ 32 ∧ sourceOk p ((s.x 9).toNat % 2 ^ 24) = true ∧
      okWith (versionOf s1 q p ((s.x 9).toNat % 2 ^ 24) Need.change) (fun v => decide (v = 0)) = true) ∧
    (∃ p, getPool wnone.publish q (s.x 4) Need.change = .ok p ∧ p.freeCnt = 0) ∧
    ((s.x 4).toNat % 64 = 0 ∧ (s.x 5).toNat % 64 = 0 ∧ (s.x 6).toNat % 64 = 0 ∧ (s.x 7).toNat % 64 = 0) ∧
    touchesObject s1 0x124000 64 = true ∧ touchesObject s1 0x124700 64 = false ∧ touchesPoison s1 0x124700 64 = false ∧
    2 ^ 32 ≤ (s.x 10).toNat :=
  ⟨wf_of (by decide +kernel), res_eq (by decide +kernel), res_eq (by decide +kernel), res_ok (by decide +kernel), res_ok (by decide +kernel),
    res_ok (by decide +kernel), res_ok (by decide +kernel), by decide +kernel⟩

/-- A table and its pool, with what the clause at hand needs of them. -/
def tableWith (s : State) (a : BitVec 5) (f : State → Party → Table → Pool → Bool) : Bool :=
  okWith (getTable s.publish s.publish.party (s.x a) Need.change) fun t =>
    okWith (getPool s.publish s.publish.party t.pool Need.change) fun p =>
      f ((s.publish.reads s.publish.party t.va 16).reads s.publish.party t.pool 64) s.publish.party t p

theorem of_tableWith {s : State} {a : BitVec 5} {f : State → Party → Table → Pool → Bool} (h : tableWith s a f = true) :
    ∃ t p, getTable s.publish s.publish.party (s.x a) Need.change = .ok t ∧ getPool s.publish s.publish.party t.pool Need.change = .ok p ∧
      f ((s.publish.reads s.publish.party t.va 16).reads s.publish.party t.pool 64) s.publish.party t p = true := by
  obtain ⟨t, ht, h⟩ := of_okWith h
  obtain ⟨p, hp, h⟩ := of_okWith h
  exact ⟨t, p, ht, hp, h⟩

/-- The last entry and its descriptor, and the state once both are read. -/
def lastWith (f : State → Entry → Desc → Bool) (s : State) (q : Party) (t : Table) (p : Pool) : Bool :=
  decide (t.nent ≠ 0) && okWith (getEntry s q t (t.nent - 1) Need.change) fun e =>
    okWith (entryChecked s q p e (entryVa t (t.nent - 1)) Need.change) fun k =>
      f ((s.reads q (entryVa t (t.nent - 1)) 16).reads q k.va 16) e k

/-- The splice record of a register, its entries and the version answer. -/
def spliceWith (r : Word) (stale : Bool) (f : State → Table → Pool → Nat × List PageWord → List Entry → Bool) (s : State) (q : Party)
    (t : Table) (p : Pool) : Bool :=
  okWith (spliceRecord s q p r) fun x => okWith (getEntries s q t Need.change 0 t.nent) fun es =>
    let v := descsRead q p (es.map entryDesc) ((s.reads q r (16 + 16 * x.2.length)).readsTable q t t.nent)
    okWith (entriesChecked s q p t 0 es) (fun _ => true) && okWith (staleWord v q p x.2) (fun y => decide (y = stale)) &&
      f (x.2.foldl (fun s w => s.reads q (BitVec.ofNat 64 (p.svtBase + w.src)) 1) v) t p x es

def wtab : State := wk [(4, h1 + 0x300), (5, h1 + 0x340), (6, h1 + 0x380), (7, h1 + 0x3C0), (8, h1 + 0x400), (9, h1 + 0x440), (10, h1 + 0x460),
  (11, h1 + 0x480), (12, h1 + 0x4C0), (13, h1 + 0x310), (14, h1 + 0x4A0), (15, h2), (16, h1 + 0x410)]

/-- kvapp: an empty table and one whose last page is full, with and without a page and a free descriptor; a part-filled last page of
each kind (R351). -/
theorem witness_BlockTableForms_append :
    tableWith wtab 6 (fun s q t p => decide (t.nent = 0) && okWith (allocDesc s q p (nativeDesc p (wtab.x 15))) (fun _ => true) &&
      decide (p.freeCnt ≠ 0) && decide (t.nent ≠ t.cap) && decide ((wtab.x 15).toNat % 4096 = 0) && decide (wtab.x 15 ≠ 0) &&
      okWith (entriesWritable s q t t.nent 1) (fun _ => true)) = true ∧
    tableWith wtab 5 (fun s q t p => lastWith (fun w e _ => decide (entryStart e + entryNtok e = p.ptok) &&
      okWith (allocDesc w q p (nativeDesc p (wtab.x 15))) (fun _ => true)) s q t p) = true ∧
    tableWith wtab 4 (fun s q t p => lastWith (fun w e k => decide (entryStart e + entryNtok e ≠ p.ptok) && decide (k.state = 1) &&
      decide (k.refcnt ≤ 1) && okWith (tableWritable w q (entryVa t (t.nent - 1)) 16) (fun _ => true)) s q t p) = true ∧
    tableWith wtab 7 (fun s q t p => lastWith (fun _ e k => decide (entryStart e + entryNtok e ≠ p.ptok) && decide (k.state = 1) &&
      decide (1 < k.refcnt)) s q t p) = true ∧
    tableWith wtab 8 (fun s q t p => lastWith (fun _ e k => decide (entryStart e + entryNtok e ≠ p.ptok) && decide (k.state = 3)) s q t p) = true ∧
    wtab.x 0 = 0 := by
  decide +kernel

/-- kvspl: a position past the end, no room, an old version, too few descriptors, and a splice (R352). -/
theorem witness_BlockTableForms_splice :
    tableWith wtab 4 (spliceWith (wtab.x 11) false (fun _ _ _ r es => decide ((es.map entryNtok).sum < r.1))) = true ∧
    tableWith wtab 12 (spliceWith (wtab.x 9) false (fun _ t _ r es => decide (r.1 ≤ (es.map entryNtok).sum) &&
      decide (t.cap < t.nent + (r.2.length + 1)) && decide (locate es 0 r.1 = (0, 1)))) = true ∧
    tableWith wtab 4 (spliceWith (wtab.x 10) true (fun _ t _ r es => decide (r.1 ≤ (es.map entryNtok).sum) &&
      decide (t.nent + (r.2.length + 1) ≤ t.cap))) = true ∧
    tableWith { wtab with mem := wnone.mem } 4 (spliceWith (wtab.x 9) false (fun _ _ p r _ => decide (p.freeCnt < r.2.length))) = true ∧
    tableWith wtab 4 (fun s q t p => spliceWith (wtab.x 9) false (fun z t p r es => decide (r.2.length ≤ p.freeCnt) &&
      okWith (splice z q t p es r.2 (locate es 0 r.1).1 (locate es 0 r.1).2) (fun _ => true)) s q t p) = true := by
  decide +kernel

/-- kvreq: an entry under repair, no descriptor free, and an entry that can be requantised (R353). -/
theorem witness_BlockTableForms_requantise : let s1 := wtab.publish
    let q := s1.party
    wtab.requantHere = none ∧ (wtab.x 14).toNat % 32 = 0 ∧
    (∃ r, requantRecord s1 q (wtab.x 14) = .ok r ∧ okWith (getPool s1 q r.1 Need.change) (fun p => decide (p.freeCnt ≠ 0) &&
      okWith (readObject s1 q (wtab.x 13) 16 Need.change) (fun e => okWith (entryChecked s1 q p e (wtab.x 13) Need.change) (fun k => decide (k.state ≠ 3) &&
        okWith (convertPage p k.efmt r.2.2 .rne (k.page * 4096) r.2.1 1 0 s1) (fun _ => true))) &&
      okWith (readObject s1 q (wtab.x 16) 16 Need.change) (fun e => okWith (entryChecked s1 q p e (wtab.x 16) Need.change) (fun k => decide (k.state = 3))))
      = true) := by
  exact ⟨by decide +kernel, by decide +kernel, res_ok (by decide +kernel)⟩

/-- The second access of that kvreq, its page converted into the free descriptor 2 (R353). -/
theorem witness_BlockTableForms_swap :
    (let r : Requant := ⟨1, 0, wtab.ctx.pc, h1, memLe wtab.mem 0x124310 16, 0x38002000000000, 2⟩
     let s : State := { wtab with core := { wtab.core with requant := some r } }
     s.requantHere = some r ∧ okWith (getPool s s.party r.pool Need.change) (fun p =>
       okWith (swapEntry s s.party p (s.x 13) r.entry r.page r.desc) (fun x => decide (x.2 = 0))) = true) := by
  decide +kernel

/-- A gather of two tokens of 64 bytes of layer 0 from the page of descriptor 0, and of layer 1 from the page under repair (R355, R357). -/
def wgat (layer desc : Nat) : State :=
  let s := wk [(4, h1)]
  { s with ctx := { s.ctx with vl := 2, vty := vtyOf 1 0 4, ox := s.ctx.ox.set 6 (0x40010000 + BitVec.ofNat 64 layer)
                               v := s.ctx.v.set 9 (BitVec.ofNat 4096 (0x8000000002 + 3 * 2 ^ 46 + desc * 2 ^ 64)), vdmap := 0xFFFFFFFFFFFFFFFF } }

theorem witness_GatherForms : gatherTable (.kvgRep 8 4 9 1) = some (.repaired, 8, 4, 9, 1) ∧
    WellsAside (wgat 1 3) ⟨[(wgat 1 3).ctx.dest 8], [(wgat 1 3).ctx.dest 9], 0, none⟩ ∧ Undisturbed (wgat 1 3) ∧
    (∃ p, getPool (wgat 1 3) (wgat 1 3).party ((wgat 1 3).x 4) Need.object = .ok p ∧
      okWith (gatherPlan (wgat 1 3) .repaired p (gatherOf ((wgat 1 3).ctx.getOx 6)) 1 9 8 1 0 0) (fun r => r.isRight) = true) ∧
    (∃ p, getPool (wgat 0 0) (wgat 0 0).party ((wgat 0 0).x 4) Need.object = .ok p ∧
      okWith (gatherPlan (wgat 0 0) .current p (gatherOf ((wgat 0 0).ctx.getOx 6)) 1 9 8 1 0 0) (fun r => match r with
        | .inl l => decide (l.length = 3) && decide (l.findSome? (spanPeer (wgat 0 0) 64) = none)
          && okWith (gatherBytes 64 l (gatherReads .current p (gatheredEntries (wgat 0 0) 9
            (gatherOf ((wgat 0 0).ctx.getOx 6)).pos 8 1 0 0) (wgat 0 0)) [] 0) (fun _ => true)
        | .inr _ => false) = true) ∧
    (wgat 1 3).inService = false ∧ (wgat 1 3).ctx.sew = 64 ∧ (wgat 1 3).ctx.vl.toNat % 2 = 0 ∧
    (wgat 1 3).ctx.vstart.toNat < (wgat 1 3).ctx.vl.toNat ∧ ((wgat 1 3).ctx.getOx 6).toNat < 2 ^ 61 ∧
    (gatherOf ((wgat 1 3).ctx.getOx 6)).span = 64 ∧ 64 ≤ (wgat 1 3).ctx.group * 512 ∧ groupHere (wgat 1 3) 8 (wgat 1 3).ctx.group = true ∧
    groupHere (wgat 1 3) 9 (wgat 1 3).ctx.group = true ∧ disjointGroups ((wgat 1 3).ctx.dest 8) ((wgat 1 3).ctx.dest 9) = true ∧
    ((wgat 1 3).x 4).toNat % 64 = 0 :=
  ⟨rfl, aside (by decide +kernel) _, calm (by decide +kernel), res_ok (by decide +kernel), res_ok (by decide +kernel), by decide +kernel⟩

/-- A gather whose rows lie in the page of a peer the partition may not address (R84, R401). -/
def wfar : State :=
  { wgat 0 0 with
    ctl := memWrite (wgat 0 0).ctl 0x3F0000000200 0
    mem := memWrite kvMem 0x124108 4
    ctx := { (wgat 0 0).ctx with v := (wgat 0 0).ctx.v.set 9 (BitVec.ofNat 4096 (0x8000000004 + 3 * 2 ^ 46)) } }

/-- A plan to gather, with a condition on it. -/
def planned (p : List TokenAt → Bool) : List TokenAt ⊕ Desc → Bool
  | .inl l => p l
  | .inr _ => false

theorem witness_GatherForms_peer : ∃ p, getPool wfar wfar.party (wfar.x 4) Need.object = .ok p ∧ ∃ l,
    gatherPlan wfar .current p (gatherOf (wfar.ctx.getOx 6)) 1 9 8 1 0 0 = .ok (.inl l) ∧ (l.findSome? (spanPeer wfar 64)).isSome = true := by
  obtain ⟨p, hp, h⟩ := of_okWith (r := getPool wfar wfar.party (wfar.x 4) Need.object) (p := fun p =>
    okWith (gatherPlan wfar .current p (gatherOf (wfar.ctx.getOx 6)) 1 9 8 1 0 0) (planned fun l => (l.findSome? (spanPeer wfar 64)).isSome))
    (by decide +kernel)
  obtain ⟨r, hr, h⟩ := of_okWith h
  cases r with
  | inl l => exact ⟨p, hp, l, hr, h⟩
  | inr k => cases h

/-- A job of partition 0, active or not. -/
def jb (n : Nat) (a : Bool) : RakeJob :=
  { part := 0, job := n, words := Vector.replicate 8 0, threshold := 0, active := a, err := false, cancelled := false, started := false,
    advanced := false, layer := 0, pool := 0, pos := 0, entries := [], copies := [], selected := [], parked := false, tid := 0, serial := 1 }
def wrk (l : List RakeJob) : State := { wk [(4, h1 + 0x500), (5, h1 + 0x540), (6, 63), (7, 64)] with rake := l }

theorem witness_RakeForms : let s := wrk []
    let s1 := s.publish
    let s2 := s1.reads s1.party (s.x 4) 64
    let t2 := s1.reads s1.party (s.x 5) 64
    (∃ v, readObject s1 s1.party (s.x 4) 64 Need.object = .ok v ∧ acceptJob s2 (jobOf s2 0 v) (s.x 4) = none) ∧
    (∃ v, readObject s1 s1.party (s.x 5) 64 Need.object = .ok v ∧ acceptJob t2 (jobOf t2 0 v) (s.x 5) = some (exc .bounds 26 (s.x 5))) ∧
    ((s.x 4).toNat % 64 = 0 ∧ freeJob s2 s2.part = some 0 ∧ freeJob t2 t2.part = some 0) ∧
    freeJob (wrk ((List.range 64).map (fun n => jb n true))) 0 = none ∧ (s.x 6).toNat < 64 ∧ 64 ≤ (s.x 7).toNat ∧
    s.job s.part (s.x 6).toNat = none ∧ (wrk [jb 63 true]).job 0 63 = some (jb 63 true) ∧
    (wrk [jb 63 false]).publish.job 0 63 = some (jb 63 false) ∧ (wrk [jb 63 true]).publish.job 0 63 = some (jb 63 true) :=
  ⟨res_ok (by decide +kernel), res_ok (by decide +kernel), by decide +kernel⟩

/-! ### Events -/

/-- The state of the tests at cycle 100 with messages under way. -/
def we (l : List Event) : State := { w0 with cyc := 100, pending := l }

/-- The message is the first query under way (R445). -/
def servedFirst (e : Event) : Bool := decide ((we [e]).pending.find? isQuery = some e)

/-- A message that is not under way; every kind of message of Sluice for an unknown launch (R57-R63). -/
theorem witness_LaunchMessages :
    messageOf (.hostBiResponse 7) = some (.hostBiResponse 7) ∧ Event.hostBiResponse 7 ∉ w0.pending ∧
    (we [.creationMessage 0 9 0 false, .panPreparationDone 0 9, .resumptionMessage 0 9]).launchOf 9 = none ∧
    .panClaim 0 9 ∉ (we [.creationMessage 0 9 0 false, .panPreparationDone 0 9, .resumptionMessage 0 9]).pending ∧
    ((we [.panClaim 0 9]).coreOf 0).closed = false ∧ servedFirst (.endMessage 0 9 0) = true ∧
    servedFirst (.tspawnRequest 0 1 9 1) = true ∧ servedFirst (.gjoinRequest 0 1 9 1) = true ∧
    servedFirst (.wqryRequest 0 1 9 7 0 0) = true ∧ servedFirst (.wqryOpenRequest 0 9 7 0) = true ∧
    servedFirst (.trestartRequest 0 0 7 0) = true ∧ (we []).launches.find? (fun l => l.lid.toNat = 7) = none := by
  exact ⟨rfl, by decide +kernel⟩

/-- The reply word of a `wqry` on its way to pan 15 of core 0 (R313), which takes it, and where the core is closed does not. -/
def wreply : State :=
  { we [.presenceStoreLanding 0 0xFFFF8 9, .sluiceReply 0 3 0] with flights := [⟨0, 0xFFFF8, 9, sluiceSender 0, 0, 3, false, 0, true, none⟩] }

theorem witness_LaunchMessages_reply : (let f : Flight := ⟨0, 0xFFFF8, 9, sluiceSender 0, 0, 3, false, 0, true, none⟩
      let s : State := { wreply with core := { w0.core with closed := true } }
      s.flights.any (fun f => f.sender = sluiceSender 0 ∧ f.tid = 3) = true ∧ landingFlight s 0 0xFFFF8 9 = some f ∧ f.stamp = none ∧
      panAwake s 0 (0xFFFF8 / 65536) = true ∧ arrivalRefusal s f = some 8) ∧
    (we []).flights.any (fun f => f.sender = sluiceSender 0 ∧ f.tid = 3) = false ∧ (w0.coreOf 0).closed = false := by decide +kernel

/-- A launch of four tasks (TCOUNT, R58), two of which were created and one ended, with a work list open (R312); one of user mode. -/
def lwide : Launch := { fetchLaunch with words := fetchLaunch.words.set 6 3, nextTid := 2, ended := 1, lists := fetchLaunch.lists.set 7 (some ⟨9, 3⟩) }
def luser : Launch := { lwide with priv := false, nextTid := 4 }

/-- A core with more started tasks than its list takes, and one that prepares pans for launch 1. -/
def wlist (n : Nat) : State := { w0 with core := { w0.core with created := List.replicate n ⟨1, 0, 0, false⟩ } }
def wprep : State := { w0 with core := { w0.core with preparing := [1], heldCreations := [⟨1, 3, 0, false⟩] } }
def wclosed : State := { w0 with core := { w0.core with closed := true } }

theorem witness_LaunchMessages_creation : (we [.creationMessage 0 1 0 false]).launchOf 1 = some fetchLaunch ∧
    ((w0.coreOf 0).closed = false ∧ (w0.coreOf 0).created.length < 64 ∧ (w0.coreOf 0).preparing.contains 1 = false) ∧
    (wprep.coreOf 0).preparing.contains 1 = true ∧ ⟨1, 3, 0, false⟩ ∈ (wprep.coreOf 0).heldCreations ∧
    ¬((wlist 64).coreOf 0).created.length < 64 ∧ (wclosed.coreOf 0).closed = true ∧ (w0.coreOf 0).closed = false := by decide +kernel

/-- The end of a task: more tasks to create, all created, the last one; the state in which Sluice has counted it. -/
theorem witness_LaunchMessages_end : (lwide.ended + 1 < lwide.tcount ∧ lwide.nextTid < lwide.tcount) ∧ luser.tcount ≤ luser.nextTid ∧
    fetchLaunch.tcount ≤ fetchLaunch.ended + 1 ∧
    (answerJoins (mapLaunch (taken (.endMessage 0 1 0) (we [.endMessage 0 1 0])) 1 (fun l => { l with ended := l.ended + 1 })) 1).launchOf 1
      = some { fetchLaunch with ended := 1 } := by decide +kernel

/-- tspawn with room, without room, and past the last task; gjoin for too many, for few and for more tasks than have ended; work lists. -/
theorem witness_LaunchMessages_requests : (lwide.nextTid < lwide.tcount ∧ lwide.cores.contains 0 = true) ∧ lwide.cores.contains 1 = false ∧
    (lwide.tcount ≤ 4 ∧ 1 < lwide.tcount ∧ 1 ≤ lwide.ended ∧ 3 < lwide.tcount ∧ lwide.ended < 3) ∧
    lwide.lists[7]?.getD none = some ⟨9, 3⟩ ∧ lwide.lists[6]?.getD none = none ∧
    Event.panClaim 0 1 ∉ (we [.tspawnRequest 0 1 1 0]).pending := by decide +kernel

/-- trestart of a task that was not lost, and of one that was, with and without room (R148); dequeues and dependences (R55, R56). -/
def llost : Launch := { fetchLaunch with words := fetchLaunch.words.set 7 (1 <<< 44), lostTids := [0], ended := 1 }
def wdep (tok : Word) : Pending := ⟨0, 2, 2, (Vector.replicate 16 0).set 9 tok, 0, 3, 0, [], []⟩

theorem witness_LaunchMessages_restart : (we []).launches.find? (fun l => l.lid.toNat = 1) = some fetchLaunch ∧
    ¬(fetchLaunch.restart = true ∧ fetchLaunch.lostTids.contains 0 = true) ∧
    (llost.restart = true ∧ llost.lostTids.contains 0 = true ∧
      (taken (.trestartRequest 0 0 1 0) (we [.trestartRequest 0 0 1 0])).pending.any (endsTask 1 0) = false) ∧
    (64 ≤ ((wlist 64).coreOf 0).created.length ∧ freeEntries { w0 with view := [(0, 0)] } 0 = 0) ∧
    ((w0.coreOf 0).created.length < 64 ∧ freeEntries w0 0 ≠ 0) ∧
    (w0.pendingLaunches.find? (fun p => p.order = 3) = none) ∧
    { we [] with pendingLaunches := [wdep 0] }.pendingLaunches.find? (fun p => p.order = 3) = some (wdep 0) ∧
    failedDependence (we []) 0 ((wdep 0).launch (we [])).deps = none ∧
    failedDependence (we []) 0 ((wdep (cellToken h1.toNat)).launch (we [])).deps = some (cellToken h1.toNat, Cause.invalidToken.code, 2) := by
  decide +kernel

/-- Core 0 stalled in an await at cycle 100, for a time token that is ready and a barrier that is not (R36, R380). -/
def wst (kind : WaitKind) (l : List Event) (tok : Word := 0x6000000000000014) : State :=
  let x : TaskInfo := { fetchTask with arrival := some (barrierToken 0 false 7, 90) }
  let v : Wait := { kind := kind, reg := 4, size := 4, code := [], tokens := [tok], t0 := 0, since := 0, which := 0, err := none, timedOut := false,
                    isOver := false, till := 60, retry := 60, bytes := 0 }
  { we l with core := { w0.core with run := .stalled x 50 v } }

/-- A suspended task of a mobile launch in the cache of core 0, whose neighbour core 1 takes it (R68). -/
def lmob : Launch := { fetchLaunch with words := fetchLaunch.words.set 7 (1 <<< 43) }
def wrec : Suspended := ⟨{ fetchTask with slot := 3 }, w0.ctx, .ready, .cache, none, true, 64, 0, false⟩
def wmob (l : Launch) (ranking : List Nat) : State :=
  { we [.mobileRecord 0 3 1] with launches := [l], core := { w0.core with run := .idle, tasks := [wrec], ranking := ranking } }

theorem witness_SchedulingEvents : Event.preemptionMessage 0 1 ∈ (we [.preemptionMessage 0 1]).pending ∧
    (∃ x q v, ((wst .await [.stallPromisePassed 0]).coreOf 0).run = .stalled x q v ∧ q.toNat < (wst .await []).cyc.toNat) ∧
    (w0.coreOf 0).service = none ∧ (w0.coreOf 0).asked = false ∧ (w0.coreOf 0).closed = false ∧
    Event.resumptionMessage 0 1 ∉ (we [.preemptionMessage 0 1]).pending ∧ Event.panClaim 0 1 ∉ (we [.preemptionMessage 0 1]).pending ∧
    w0.launchOf 1 = some fetchLaunch ∧ copiesInto w0 0 fetchLaunch.panMask = false ∧
    (launchPans w0 0 1).all (fun x => panAwake w0 x.1 x.2) = true ∧
    quantumOver ({ w0 with cyc := 0x100000 }.coreOf 0) 0x100000 = true ∧ quantumOver (w0.coreOf 0) w0.cyc = false ∧
    (let s : State := { w0 with hot := 90, cool := 70, core := { w0.core with temp := 91 } }
     isHot s (s.coreOf 0) = true ∧ isCool s (s.coreOf 0) = false) ∧
    (let s : State := { w0 with hot := 90, cool := 70, core := { w0.core with temp := 69 } }
     isCool s (s.coreOf 0) = true ∧ isHot s (s.coreOf 0) = false) ∧
    w0.rounds ≤ w0.cyc.toNat / 1024 ∧ (we []).cyc.toNat / 1024 < { we [] with rounds := 1 }.rounds :=
  ⟨by decide +kernel, ⟨_, _, _, rfl, by decide +kernel⟩, by decide +kernel⟩

/-- The mobile record: gone, of a launch that is not mobile, taken by core 1, refused with and without a next core in the table. -/
theorem witness_SchedulingEvents_mobile : Event.mobileRecord 0 3 1 ∈ (wmob lmob [1]).pending ∧
    (cached ((taken (.mobileRecord 0 3 1) (we [.mobileRecord 0 3 1])).switchTo 0).core.tasks).find? (fun r => r.info.slot = 3) = none ∧
    (cached ((taken (.mobileRecord 0 3 1) (wmob lmob [1])).switchTo 0).core.tasks).find? (fun r => r.info.slot = 3) = some wrec ∧
    mayMove ((taken (.mobileRecord 0 3 1) (wmob fetchLaunch [1])).switchTo 0) wrec = false ∧
    mayMove ((taken (.mobileRecord 0 3 1) (wmob lmob [1])).switchTo 0) wrec = true ∧
    acceptsRecord ((taken (.mobileRecord 0 3 1) (wmob lmob [1])).switchTo 0) 1 wrec = true ∧
    acceptsRecord ((taken (.mobileRecord 0 3 1) (wmob lmob [1])).switchTo 0) 0 wrec = false ∧
    nextInTable 0 [0, 1] = some 1 ∧ nextInTable 0 [1, 0] = none := by decide +kernel

/-- A die with no levelled queue and one with one. -/
def wlev : State := writeQcb { wq with levelled := [(0x124000, 0)] } 0x124000 (putField (readQcb wq 0x124000) 75 72 2)

theorem witness_SchedulingEvents_levelling : w0.levelled.filter (fun x => homeDie x.1 = 0) = [] ∧
    (qcbFailure { wlev with mem := memWrite wlev.mem 0x124030 1 } 0x124000).isSome = true ∧
    wlev.levelled.filter (fun x => homeDie x.1 = homeDie 0x124000) = [(0x124000, 0)] ∧ qcbFailure wlev 0x124000 = none ∧
    qMode (readQcb wlev 0x124000) = 2 ∧ fieldOf (readQcb wlev 0x124000) 76 76 = 0 := by
  decide +kernel

/-- Its barrier not released, where the task has arrived on line 0, and released. -/
def wopen : State := { we [] with lines := [⟨0, 0, [((1, 0), false)], []⟩] }
def wgone : State := { we [] with lines := [⟨0, 1, [], [false]⟩] }

/-- A wait of slot 0 of core 0 with its messages; AWTO has passed at cycle 2^21. -/
theorem witness_TokenEvents_slot : ∃ x v, slotWait (wst .queue [.timerTokenReady 0 0, .waituntilTime 0 0, .waiterTableRetry 0 0, .barrierTimeout 0 0,
      .tokenRegistration 0 0x6000000000000014 0 0, .tokenRegistration 0 0x600000000000FFFF 0 0]) 0 0 = some (x, v) ∧
    v.kind = .queue ∧ x.arrival = some (barrierToken 0 false 7, 90) ∧
    ((readyToken (we []) (x.asks 0) (fun u => tokKind u = 6) v.tokens).isSome = true ∧ v.till.toNat ≤ (we []).cyc.toNat ∧
      v.retry.toNat ≤ (we []).cyc.toNat ∧ (90 : Word).toNat ≤ (we []).cyc.toNat ∧
      tokenReady (taken (.barrierTimeout 0 0) wopen) (x.asks 0) (barrierToken 0 false 7) = none ∧
      tokenReady (taken (.barrierTimeout 0 0) wgone) (x.asks 0) (barrierToken 0 false 7) = some 0 ∧
      (tokenReady (taken (.timerTokenReady 0 0) (we [])) (x.asks 0) 0x6000000000000014).isSome = true ∧
      tokenReady (taken (.timerTokenReady 0 0) (we [])) (x.asks 0) 0x600000000000FFFF = none ∧ ((we []).coreOf 0).closed = false) :=
  ⟨_, _, rfl, rfl, rfl, by decide +kernel⟩

/-- An await whose time has run out, its token not ready and ready; a retry of an await alone, beside its wake, and in a gang. -/
theorem witness_TokenEvents_await : (let s : State := { wst .awaitT [.awaitTimeout 0 0, .waiterTableRetry 0 0] 0x600000000FFFFFFF with cyc := 0x200000 }
     ∃ y u, slotWait s 0 0 = some (y, u) ∧ u.kind = .awaitT ∧ (awtoOf s 0 y.serial ≤ s.cyc.toNat - u.t0.toNat ∧
      firstReady (taken (.awaitTimeout 0 0) s) (y.asks 0) u.tokens 0 = none ∧ gangMembers (taken (.waiterTableRetry 0 0) s) y = [] ∧
      (∀ err, .tokenWake 0 0 err ∉ s.pending) ∧ ∀ z ∈ s.waiters, ¬(z.core = 0 ∧ z.slot = 0))) ∧
    Event.tokenWake 0 0 7 ∈ (wst .awaitT [.waiterTableRetry 0 0, .tokenWake 0 0 7]).pending ∧
    firstReady (taken (.awaitTimeout 0 0) { wst .awaitT [.awaitTimeout 0 0] with cyc := 0x200000 }) (engineAsks 0 0) [0x6000000000000014] 0
      = some (0, 0) ∧
    gangMembers (taken (.waiterTableRetry 0 0) (wst .await [])) { fetchTask with gang := .leader 1 [(0, 0), (1, 1)] 0 } ≠ [] := by
  refine ⟨⟨_, _, rfl, rfl, by decide +kernel, by decide +kernel, by decide +kernel, ?_, by decide +kernel⟩, by decide +kernel⟩
  intro err h
  have h : Event.tokenWake 0 0 err ∈ [.awaitTimeout 0 0, .waiterTableRetry 0 0] := h
  simp at h

/-- Core 0 closed (R147), core 0 in a service routine at the end of its quantum, a member of a forming gang. -/
def wmem1 : State := { w0 with core := { w0.core with run := .running { fetchTask with gang := .forming 1 1 5 0 0 [] } } }

theorem witness_TokenEvents_core : routineRefusal w0 0 [0] = none ∧ (w0.coreOf 0).routines.length < 16 ∧
    routineRefusal wclosed 0 [0] = some (.protection, 8) ∧
    ({ ws with cyc := 0x100000 }.coreOf 0).service = some ⟨⟨1, some 0, 0, true, List.replicate 8 0⟩, 0, w0.ctx, w0.lc, none⟩ ∧
    ({ ws with cyc := 0x100000 }.coreOf 0).qntm.toNat ≤ 0x100000 ∧ (ws.coreOf 0).asked = false ∧
    (joiner (wmem1.coreOf 0) 1 5).isSome = true ∧ wmem1.launchOf 1 = some fetchLaunch ∧
    ((tasksOf (wmem1.coreOf 0)).contains (1, 0) = true ∧ fetchLaunch.cores.contains 0 = true ∧ (wmem1.coreOf 0).closed = false ∧
      (joinsFor wmem1 0 1 0).any (fun i => i.core = 0 ∧ (i.place wmem1).isSome ∧ i.place wmem1 = (⟨1, 0, 1, 0, 0, 5⟩ : GangJoin).place wmem1)
        = false ∧ leads (wmem1.coreOf 0) 1 0 0 = false) ∧ fetchLaunch.cores.contains 1 = false ∧
    (expiredLeaders { w0 with cyc := 0x200000, core := { w0.core with run := .running { fetchTask with gang := .forming 1 0 5 0 0 [] } } } 0).length = 1 := by
  decide +kernel

/-- A follower that takes a chunk, a task that takes none, a deferred arrival at the head of its channel, a closed core, a line all of
whose members have arrived, a posted signal whose core keeps what it will report. -/
theorem witness_TokenEvents_channels :
    ((wstep.coreOf 0).containing = none ∧ chunkWanted wstep 0 [1, 0, 0] = true) ∧ chunkWanted w0 0 [1, 0, 0] = false ∧
    (transferPans w0 0 0 1).all (fun x => panAwake w0 x.1 x.2) = true ∧ (wclosed.coreOf 0).closed = true ∧
    (wtok.coreOf 0).chans[(0 : Fin 4)].out = [⟨1, 0, 0, 0, 0, true, 0, .arrive 0 false 0 0, false, false⟩] ∧
    (let s : State := { wst .await [.wireBarrierRelease 0] with ctx := { w0.ctx with bwmask := 1 }, lines := [⟨0, 0, [((1, 0), false)], []⟩] }
     (lineOf s 0).arrived ≠ [] ∧ ∀ e ∈ enrolled s, e.1 = 0 → (lineOf s 0).hasArrived e.2 = true) ∧
    (w0.coreOf 0).posted.find? (fun p => p.token = 5) = none ∧
    (let p : Posted := ⟨5, 64, 1, 0, 0, 7, 0⟩
     let s : State := { w0 with core := { w0.core with posted := [p] } }
     (s.coreOf 0).posted.find? (fun p => p.token = 5 ∧ p.pc = 64 ∧ p.serial = 1 ∧ p.tid = 0) = some p) := by
  decide +kernel

/-- A presence store to pan 15 of core 0, which takes it, and of core 0 closed, which does not. -/
def wfly : Flight := ⟨0, 0xFFFF8, 9, 1, 1, 0, false, 0, true, none⟩

theorem witness_MemoryEvents_presence : let s : State := { we [.presenceStoreLanding 0 0xFFFF8 9] with flights := [wfly] }
    landingFlight s 0 0xFFFF8 9 = some wfly ∧ panAwake s 0 15 = true ∧ wfly.stamp = none ∧ arrivalRefusal s wfly = none ∧
    arrivalRefusal wclosed wfly = some 8 ∧ wfly.sender < 2048 ∧
    clockAhead (s.clockOf (dieOf wfly.core)) (Vector.replicate 8 0) = false := by decide +kernel

theorem witness_MemoryEvents : drainReady { we [] with core := { w0.core with sbuf := [] } } 0 = true ∧
    (let d : Durable := ⟨3, 0x40000000000, [1], 1, 0, 0, 0, du, false, none, false⟩
     let s : State := { we [.durableStoreAccept 3, .persistAcknowledgement 3] with durable := [d] }
     s.durable.find? (fun d => d.num = 3) = some d ∧ acceptReady s d = true) ∧
    wfab.fabric.find? (fun f => f.num = 1) = some ⟨1, 0, 1, 0, 1, 0x40, fa, 0, 0, 0, 0⟩ ∧
    (∀ l ∈ ([⟨7, 0⟩] : List Lease), l.line = 7 → w0.leaseCycles ≤ (0x1000 : Word).toNat - l.last.toNat) ∧ w0.pbuf = [] ∧
    scrubDue { w0 with cyc := 0x40000, core := { w0.core with containing := some ⟨0, [], 0, 25, 0, none⟩ } } 0 = true ∧
    (w0.coreOf 2047).absent = false ∧ (w0.coreOf 2047).containing = none := by
  decide +kernel

/-- Pans in every phase of retention (R219), each with its time over, and a map-out that is done (R393). -/
theorem witness_MemoryEvents_phases :
    (let s : State := { w0 with cyc := 0x2000, core := { w0.core with
        pfmt := w0.core.pfmt.set 12 0x80, retention := ((w0.core.retention.set 15 .entering).set 14 .leaving).set 13 .recalled } }
     entryDue s 0 15 = true ∧ (s.coreOf 0).retention[(15 : Fin 16)] = .entering ∧ (s.coreOf 0).retention[(14 : Fin 16)] = .leaving ∧
     entryDue s 0 13 = true ∧ (s.coreOf 0).retention[(13 : Fin 16)] = .recalled ∧ entryDue s 0 12 = true ∧
     (s.coreOf 0).retention[(12 : Fin 16)] = .active ∧ (s.coreOf 0).pfmt[(12 : Fin 16)].getLsbD 7 = true ∧
      512 ≤ s.cyc.toNat - (s.coreOf 0).panTime[(14 : Fin 16)].toNat) ∧
    (let s : State := { w0 with cyc := 0x10000, core := { w0.core with containing := some ⟨0, [], 0, 25, 0, some (0, 0)⟩ } }
     (s.coreOf 0).containing = some ⟨0, [], 0, 25, 0, some (0, 0)⟩ ∧ 65536 ≤ s.cyc.toNat - (0 : Word).toNat) := by
  decide +kernel

/-- Jobs that start, stand between layers, and resume (R358-R361). -/
theorem witness_MemoryEvents_rake : (wrk [jb 63 true]).job 0 63 = some (jb 63 true) ∧ (jb 63 true).active = true ∧ (jb 63 false).active = false ∧
    (layerOver (wrk [jb 63 true]) (jb 63 true) = true ∧ (jb 63 true).advanced = false) ∧
    (let j := { jb 63 true with advanced := true }
     (wrk [j]).job 0 63 = some j ∧ j.tol ≤ j.layer) ∧
    (let j := { jb 1 true with words := (Vector.replicate 8 0).set 4 0x100, advanced := true }
     (wrk [j]).job 0 1 = some j ∧ j.layer < j.tol) ∧
    (let j := { jb 1 true with parked := true, entries := [(1, true)] }
     (wrk [j]).job 0 1 = some j ∧ j.parked = true ∧ j.entries ≠ []) := by
  decide +kernel

/-- Partition 0 LIVE with a window of 2^44 bytes, whose second page is the first data page (R401-R403). -/
def whost : State := { w0 with
  mem := [(0x100000, 0x01), (0x100002, 0x20), (0x100003, 0x01)] ++ wmem
  ctl := memWrite (memWrite w0.ctl 0x3F0000000007 0x40) 0x3F0000000070 44 }

theorem witness_OutsideEvents : w0.memWf ∧
    (∃ t, hostTarget whost.fresh 0 0x1000 Need.read = .ok t ∧ t.1 = 0x124000) ∧
    (∃ t, hostTarget whost.fresh 0 0x1000 Need.write = .ok t ∧ t.1 = 0x124000) ∧
    hostServes w0.fresh 0 0x1000 = false ∧ hostServes whost.fresh 0 0x1000 = true ∧
    enabledOffsets 0x1000 [some 1] ≠ [16, 17, 18, 19] ∧ hostTouchesObject whost.fresh 0x124000 [0] = false ∧
    hostTouchesObject { whost.fresh with objects := [0x12400] } 0x124000 [0] = true ∧ w0.attest.length < 4 ∧ w0.recovery = false ∧
    (ingressOf 0).isSome = true ∧ ingressShape .load 0x1078 8 = true ∧ ingressToken whost.fresh .load 1 0 0 0x1078 8 0 = some 1 ∧
    ingressToken w0.fresh .load 1 0 0 0x1078 8 0 = some 6 ∧ w0.fabric = [] ∧ partLive w0 63 = false ∧ bitternLines w0 7 = 0 ∧
    w0.power.avEnabled = true ∧ { w0 with power := { w0.power with avEnabled := false } }.power.avEnabled = false ∧
    { w0 with power := { w0.power with above := 1 } }.power.above = 1 ∧ { w0 with recovery := true }.recovery = true :=
  ⟨wf_of (by decide +kernel), res_ok (by decide +kernel), res_ok (by decide +kernel), by decide +kernel⟩

/-- The launch queue of priority 0 of that partition at the first data page, its next slot at the second (R285, R404). -/
def wtail : State :=
  writeQcb { whost with ctl := memWrite (memWrite whost.ctl 0x3F0000000009 0x10) 0x3F000000000E 8, objects := wq.objects,
                        mem := [(0x100000, 0x01), (0x100002, 0x20), (0x100003, 0x01)] ++ wq.mem } 0x124000 (putField (putField (readQcb wq 0x124000) 75 72 4) 71 69 4)

theorem witness_OutsideEvents_tail : (∃ t, hostTarget whost.fresh 0 0x1010 Need.write = .ok t ∧ t.1 / 64 * 64 = 0x124000) ∧
    tailFailure wtail 0 0x124000 = none ∧ (tailStore wtail 0 0x124000 1).isSome = true := by
  exact ⟨res_ok (by decide +kernel), by decide +kernel, by decide +kernel⟩

theorem mac_small (k : BitVec 256) (t : Word) (a b c : Nat) : grantMac k t a b c < 2 ^ 24 := by
  have h (n : Nat) : leNat (natBytes 3 n) < 2 ^ 24 := by
    simp only [natBytes, leNat]
    omega
  exact h _

/-- The MAC of a token depends on its slot and its bits below 40 alone (R333). -/
theorem mac_fields (s : State) (t u : Word) (a b c : Nat) (h : t.toNat % 2 ^ 40 = u.toNat % 2 ^ 40) (g : grantSlot t = grantSlot u) :
    macHere s t a b c = macHere s u a b c := by
  unfold macHere grantMac
  rw [h, g]

/-- A token for loads of the first 8 KiB with the MAC its fields have (R332, R333). -/
theorem token_of (s : State) : ∃ t : Word, t.toNat % 2 ^ 40 = 2 ^ 36 + 13 * 2 ^ 30 ∧ grantMacOf t = macHere s t 1 0 0 := by
  let u : Word := BitVec.ofNat 64 (2 ^ 36 + 13 * 2 ^ 30)
  obtain ⟨m, hm⟩ : ∃ m, m = macHere s u 1 0 0 := ⟨_, rfl⟩
  have hs : m < 2 ^ 24 := by rw [hm]; exact mac_small _ _ _ _ _
  have h : (BitVec.ofNat 64 (2 ^ 36 + 13 * 2 ^ 30 + m * 2 ^ 40)).toNat = 2 ^ 36 + 13 * 2 ^ 30 + m * 2 ^ 40 := by
    simp only [BitVec.toNat_ofNat]
    omega
  have l : (BitVec.ofNat 64 (2 ^ 36 + 13 * 2 ^ 30 + m * 2 ^ 40)).toNat % 2 ^ 40 = 2 ^ 36 + 13 * 2 ^ 30 := by rw [h]; omega
  refine ⟨BitVec.ofNat 64 (2 ^ 36 + 13 * 2 ^ 30 + m * 2 ^ 40), l, ?_⟩
  rw [mac_fields s _ u 1 0 0 (by rw [l]; rfl) (by rw [show grantSlot u = 0 from by decide]; simp only [grantSlot, bits, h]; omega), ← hm]
  simp only [grantMacOf, bits, h]
  omega

theorem let_in (s : State) (q : ¬(64 ≤ 0 ∨ (!partLive s 0) = true ∨ (!peerAllowed s 0 1) = true)) (c : bits s.cyc 31 20 = 0) :
    ∃ t, ingressToken s .load 1 0 0 0x1078 8 t = none := by
  obtain ⟨t, h, m⟩ := token_of s
  refine ⟨t, ?_⟩
  have x : grantExp t = 0 := by simp only [grantExp, bits]; omega
  have k : tokenChecks s t 1 0 0 = 0 := by
    have y : grantCurrent s t = true := by rw [grantCurrent, x, c]; decide
    rw [tokenChecks, if_neg (by simpa using m), y]
    rfl
  have b : grantBase t = 0 := by simp only [grantBase, bits]; omega
  have l : grantLsize t = 13 := by simp only [grantLsize, bits]; omega
  have v : windowCovers t 0x1078 8 = true := by rw [windowCovers, windowEnd, b, l]; decide
  have p : t.getLsbD 36 = true := by
    simp only [BitVec.getLsbD, Nat.testBit_eq_decide_div_mod_eq, decide_eq_true_eq]
    omega
  have n : t ≠ 0 := by rintro rfl; simp at p
  rw [ingressToken, if_neg q, if_neg n]
  simp only [k, ingressNeed, p, v, Bool.not_true, Bool.false_eq_true, if_false]

/-- A load by peer 1 that its token lets in, and the leaf it finds (R334, R335). -/
theorem witness_OutsideEvents_ingress : (∃ t, ingressToken whost.fresh .load 1 0 0 0x1078 8 t = none) ∧
    ∃ pa u, ingressLeaf whost.fresh .load 0 0x1078 = .ok (pa, u) := by
  refine ⟨let_in _ (by decide +kernel) (by decide +kernel), ?_⟩
  obtain ⟨a, h, -⟩ := of_okWith (r := ingressLeaf whost.fresh .load 0 0x1078) (p := fun _ => true) (by decide +kernel)
  exact ⟨a.1, a.2, h⟩

end
end

section
/-! SUPPORT. Little-endian values, fields of records, and bytes that read back. -/

namespace Sys2Proof.Machine

/-! ### Little-endian values (R3) -/

@[simp] theorem natBytes_length (n v : Nat) : (natBytes n v).length = n := by
  induction n generalizing v with
  | zero => rfl
  | succ n ih => simp [natBytes, ih]

theorem leNat_append (a b : List Byte) : leNat (a ++ b) = leNat a + 256 ^ a.length * leNat b := by
  induction a with
  | nil => simp [leNat]
  | cons x a ih =>
    rw [List.cons_append, leNat, leNat, ih, List.length_cons, Nat.pow_succ]
    ring

theorem leNat_lt (l : List Byte) : leNat l < 256 ^ l.length := by
  induction l with
  | nil => decide
  | cons b l ih =>
    have hb := b.isLt
    rw [leNat, List.length_cons, Nat.pow_succ]
    omega

theorem leNat_natBytes (n v : Nat) : leNat (natBytes n v) = v % 256 ^ n := by
  induction n generalizing v with
  | zero => simp [natBytes, leNat, Nat.mod_one]
  | succ n ih => rw [natBytes, leNat, ih, Nat.pow_succ', Nat.mod_mul, BitVec.toNat_ofNat]

/-! ### Fields of records (R2) -/

/-- A record whose field is replaced: what lies below the field, the new value, what lies above. -/
theorem putField_eq {hi lo : Nat} (h : lo ≤ hi + 1) (v x : Nat) :
    putField v hi lo x = v % 2 ^ lo + 2 ^ lo * (x % 2 ^ (hi + 1 - lo) + 2 ^ (hi + 1 - lo) * (v / 2 ^ (hi + 1))) := by
  have width : 2 ^ lo * 2 ^ (hi + 1 - lo) = 2 ^ (hi + 1) := by rw [← Nat.pow_add, Nat.add_sub_cancel' h]
  have above : v / 2 ^ lo / 2 ^ (hi + 1 - lo) = v / 2 ^ (hi + 1) := by rw [Nat.div_div_eq_div_mul, width]
  have outer := Nat.div_add_mod v (2 ^ lo)
  have inner := Nat.div_add_mod (v / 2 ^ lo) (2 ^ (hi + 1 - lo))
  rw [above] at inner
  rw [putField, fieldOf, Nat.mul_add, Nat.mul_comm _ (2 ^ lo), Nat.mul_comm _ (2 ^ lo)]
  rw [← inner, Nat.mul_add] at outer
  omega

theorem fieldOf_putField_same {hi lo : Nat} (h : lo ≤ hi + 1) (v x : Nat) :
    fieldOf (putField v hi lo x) hi lo = x % 2 ^ (hi + 1 - lo) := by
  rw [fieldOf, putField_eq h, Nat.add_mul_div_left _ _ (Nat.two_pow_pos lo), Nat.mod_div_self, Nat.zero_add, Nat.add_mul_mod_self_left,
    Nat.mod_mod]

theorem putField_div {hi lo : Nat} (h : lo ≤ hi + 1) (v x : Nat) : putField v hi lo x / 2 ^ (hi + 1) = v / 2 ^ (hi + 1) := by
  have width : 2 ^ (hi + 1) = 2 ^ lo * 2 ^ (hi + 1 - lo) := by rw [← Nat.pow_add, Nat.add_sub_cancel' h]
  rw [putField_eq h]
  conv_lhs => rw [width]
  rw [← Nat.div_div_eq_div_mul, Nat.add_mul_div_left _ _ (Nat.two_pow_pos lo), Nat.mod_div_self, Nat.zero_add,
    Nat.add_mul_div_left _ _ (Nat.two_pow_pos _), Nat.mod_div_self, Nat.zero_add, ← width]

/-- A field above the one replaced keeps its value. -/
theorem fieldOf_putField_above {hi lo hi' lo' : Nat} (h : lo ≤ hi + 1) (habove : hi < lo') (v x : Nat) :
    fieldOf (putField v hi lo x) hi' lo' = fieldOf v hi' lo' := by
  have cut (u : Nat) : u / 2 ^ lo' = u / 2 ^ (hi + 1) / 2 ^ (lo' - (hi + 1)) := by
    rw [Nat.div_div_eq_div_mul, ← Nat.pow_add, Nat.add_sub_cancel' habove]
  rw [fieldOf, fieldOf, cut, putField_div h, ← cut]

/-- So does a field below it. -/
theorem fieldOf_putField_below {hi lo hi' lo' : Nat} (h : lo ≤ hi + 1) (hbelow : hi' < lo) (v x : Nat) :
    fieldOf (putField v hi lo x) hi' lo' = fieldOf v hi' lo' := by
  have low : putField v hi lo x % 2 ^ lo = v % 2 ^ lo := by rw [putField_eq h, Nat.add_mul_mod_self_left, Nat.mod_mod]
  have cut (u : Nat) : fieldOf u hi' lo' = fieldOf (u % 2 ^ lo) hi' lo' := by
    refine Nat.eq_of_testBit_eq fun i => ?_
    simp only [fieldOf, Nat.testBit_mod_two_pow, Nat.testBit_div_two_pow]
    by_cases hi0 : i < hi' + 1 - lo'
    · simp [hi0, show i + lo' < lo by omega]
    · simp [hi0]
  rw [cut, low, ← cut]

theorem putField_lt {hi lo n : Nat} (h : lo ≤ hi + 1) (hn : hi < n) {v : Nat} (hv : v < 2 ^ n) (x : Nat) : putField v hi lo x < 2 ^ n := by
  have split : 2 ^ n = 2 ^ (n - (hi + 1)) * 2 ^ (hi + 1) := by rw [← Nat.pow_add, Nat.sub_add_cancel hn]
  rw [split, ← Nat.div_lt_iff_lt_mul (Nat.two_pow_pos _)] at hv ⊢
  rwa [putField_div h]
/-! ### Bytes that read back -/

/-- A byte inside what was written reads as it was written. -/
theorem memRead_memWriteBytes_in {m : Mem} (h : Memory.wf m = true) (a : Nat) (bs : List Byte) (k : Nat) (hk : k < bs.length) :
    memRead (memWriteBytes m a bs) (a + k) = bs[k] := by
  induction bs generalizing m a k with
  | nil => cases hk
  | cons b bs ih =>
    have hw := memWrite_wf a b h
    cases k with
    | zero =>
      rw [memWriteBytes, memRead_memWriteBytes_out _ _ _ _ (by omega) hw, Nat.add_zero, memRead_memWrite_same h]
      rfl
    | succ k =>
      rw [memWriteBytes, ← Nat.add_assoc, Nat.add_right_comm, ih hw (a + 1) k (Nat.lt_of_succ_lt_succ hk)]
      rfl

theorem physByte_memory {s : State} {pa : Nat} (h : spaceOf pa ≠ .control) : physByte s pa = memRead s.mem pa := by
  unfold physByte
  split
  · contradiction
  · rfl

/-- A granule lies in one space (R206). -/
theorem spaceOf_granule {pa : Nat} (k : Nat) (h : pa % 16 = 0) (hk : k < 16) : spaceOf (pa + k) = spaceOf pa := by
  have cut {c : Nat} (hc : c % 16 = 0) : (pa + k < c) = (pa < c) := propext (by omega)
  unfold spaceOf
  simp only [cut (c := 0x010000000000) rfl, cut (c := 0x040000000000) rfl, cut (c := 0x080000000000) rfl,
    cut (c := 0x3F0000000000) rfl, cut (c := 0x400000000000) rfl]

theorem physLe_lt (s : State) (pa n : Nat) : physLe s pa n < 256 ^ n := by
  simpa [physLe] using leNat_lt ((List.range n).map fun k => physByte s (pa + k))

/-- A value in memory, cut after its first bytes. -/
theorem physLe_add (s : State) (pa m n : Nat) : physLe s pa (m + n) = physLe s pa m + 256 ^ m * physLe s (pa + m) n := by
  unfold physLe
  rw [List.range_add, List.map_append, leNat_append]
  simp [Function.comp_def, Nat.add_assoc]

end Sys2Proof.Machine
end

section
/-! SUPPORT. What messages and accesses leave: the register sets of every core, and the canonical form of the memories. -/

namespace Sys2Proof.Machine

/-! ### Messages: clocks, stamps, copies and leases that a write ends, wakes (R222, R244, R337, R372) -/

/-- Only clocks, messages under way, and what waits for them or is ended by them may have changed. -/
structure State.OnlyMessages (s t : State) : Prop where
  rest : t = { s with clocks := t.clocks, heldStamps := t.heldStamps, pending := t.pending, rdc := t.rdc, leases := t.leases, waiters := t.waiters }

namespace State.OnlyMessages
variable {s t u : State}

theorem refl (s : State) : s.OnlyMessages s := ⟨rfl⟩

theorem trans (h : s.OnlyMessages t) (g : t.OnlyMessages u) : s.OnlyMessages u :=
  ⟨g.rest.trans (by rw [h.rest])⟩

/-- `trans` with the later change first, which fixes the state between them. -/
theorem after (g : t.OnlyMessages u) (h : s.OnlyMessages t) : s.OnlyMessages u := h.trans g

theorem cur (h : s.OnlyMessages t) : t.cur = s.cur := by rw [h.rest]
theorem ctx (h : s.OnlyMessages t) : t.ctx = s.ctx := by rw [h.rest]
theorem core (h : s.OnlyMessages t) : t.core = s.core := by rw [h.rest]
theorem others (h : s.OnlyMessages t) : t.others = s.others := by rw [h.rest]
theorem mem (h : s.OnlyMessages t) : t.mem = s.mem := by rw [h.rest]
theorem objects (h : s.OnlyMessages t) : t.objects = s.objects := by rw [h.rest]

theorem sameMems (h : s.OnlyMessages t) : s.SameMems t :=
  by rw [h.rest]; exact ⟨rfl, rfl, rfl, rfl⟩

theorem foldl {α : Type} (f : State → α → State) (hf : ∀ (s : State) (a : α), s.OnlyMessages (f s a)) (s : State) (l : List α) :
    s.OnlyMessages (l.foldl f s) :=
  List.foldlRecOn l f (refl s) fun t h a _ => h.trans (hf t a)

end State.OnlyMessages

theorem applyHeld_onlyMessages (n : Nat) (s : State) : s.OnlyMessages (applyHeld n s) := by
  induction n generalizing s with
  | zero => exact .refl s
  | succ n ih =>
    unfold applyHeld
    split
    · exact .refl s
    · exact (ih _).after ⟨rfl⟩

theorem receive_onlyMessages (s : State) (die : Nat) (stamp : Clock) (e : Option Event) : s.OnlyMessages (s.receive die stamp e) := by
  unfold State.receive
  split
  · exact ⟨rfl⟩
  · exact (applyHeld_onlyMessages _ _).after ⟨rfl⟩

theorem sendStamped_onlyMessages (s : State) (a b : Nat) (e : Option Event) : s.OnlyMessages (s.sendStamped a b e) := by
  unfold State.sendStamped
  split
  · exact ⟨rfl⟩
  · exact (receive_onlyMessages _ _ _ _).after ⟨rfl⟩

theorem stampHome_onlyMessages (s : State) (pa : Nat) : s.OnlyMessages (stampHome s pa) := by
  unfold stampHome
  split
  · exact sendStamped_onlyMessages s _ _ none
  · exact .refl s

theorem dropRemote_onlyMessages (s : State) (keep : Option Nat) (pa n : Nat) : s.OnlyMessages (dropRemote s keep pa n) := by
  unfold dropRemote
  dsimp only
  split
  · exact .refl s
  · split
    · exact (State.OnlyMessages.foldl _ (fun s l => sendStamped_onlyMessages s _ _ none) _ _).after ⟨rfl⟩
    · exact ⟨rfl⟩

theorem recall_onlyMessages (s : State) (line n : Nat) : s.OnlyMessages (s.recall line n) := by
  unfold State.recall
  split <;> exact ⟨rfl⟩

theorem sendWake_onlyMessages (err : BitVec 24) (s : State) (w : Waiter) : s.OnlyMessages (sendWake err s w) := by
  unfold sendWake
  dsimp only
  split
  · exact ⟨rfl⟩
  · exact sendStamped_onlyMessages s _ _ _

theorem wakeWaiters_onlyMessages (s : State) (p : Waiter → Bool) (err : BitVec 24) : s.OnlyMessages (wakeWaiters s p err) := by
  unfold wakeWaiters
  dsimp only
  split
  · exact .refl s
  · exact (State.OnlyMessages.foldl _ (sendWake_onlyMessages err) _ _).after ⟨rfl⟩

theorem judgeCell_onlyMessages (s : State) (pa : Nat) : s.OnlyMessages (judgeCell s pa) := by
  unfold judgeCell
  dsimp only
  split
  · exact wakeWaiters_onlyMessages s _ _
  · exact .refl s

/-! ### Register sets of every core -/

theorem State.ctxOf_eq (s : State) (c : Nat) :
    s.ctxOf c = if c = s.cur then s.ctx else ((findParked s.others c).map Parked.ctx).getD Ctx.clear := by
  unfold State.ctxOf
  split
  · rfl
  · cases findParked s.others c <;> rfl

theorem findParked_putParked_same (l : List Parked) (q : Parked) : findParked (putParked l q) q.id = some q := by
  induction l with
  | nil => simp [putParked, findParked]
  | cons p l ih =>
    unfold putParked
    split
    · simp [findParked]
    · split
      · simp [findParked]
      · rw [findParked, if_neg (Ne.symm ‹_›), ih]

theorem findParked_putParked_ne (l : List Parked) (q : Parked) {c : Nat} (h : c ≠ q.id) :
    findParked (putParked l q) c = findParked l c := by
  induction l with
  | nil => simp [putParked, findParked, h.symm]
  | cons p l ih =>
    unfold putParked
    split
    · rw [findParked, if_neg h.symm]
    · split
      · rw [findParked, if_neg h.symm, findParked, if_neg (by omega)]
      · rw [findParked, findParked, ih]

theorem findParked_filter_ne (l : List Parked) {b c : Nat} (h : c ≠ b) : findParked (l.filter (fun p => p.id ≠ b)) c = findParked l c := by
  induction l with
  | nil => rfl
  | cons p l ih =>
    rw [List.filter_cons]
    split
    · rw [findParked, findParked, ih]
    · rename_i hp
      have hb : p.id = b := by simpa using hp
      rw [findParked, if_neg (fun hc => h (hc.symm.trans hb)), ih]

theorem findParked_map (f : Parked → Parked) (hid : ∀ p, (f p).id = p.id) (l : List Parked) (c : Nat) :
    findParked (l.map f) c = (findParked l c).map f := by
  induction l with
  | nil => rfl
  | cons p l ih =>
    rw [List.map_cons, findParked, findParked, hid, ih]
    split <;> rfl

/-! ### What keeps every register set and the canonical form -/

/-- The executing core is the same, every core holds the register set it held, and memories in canonical form stay so. -/
structure State.Keeps (s t : State) : Prop where
  cur : t.cur = s.cur
  contexts : ∀ c, t.ctxOf c = s.ctxOf c
  form : s.memWf → t.memWf

namespace State.Keeps
variable {s t u : State}

theorem refl (s : State) : s.Keeps s := ⟨rfl, fun _ => rfl, id⟩

theorem trans (h : s.Keeps t) (g : t.Keeps u) : s.Keeps u :=
  ⟨g.cur.trans h.cur, fun c => (g.contexts c).trans (h.contexts c), fun w => g.form (h.form w)⟩

/-- `trans` with the later change first, which fixes the state between them. -/
theorem after (g : t.Keeps u) (h : s.Keeps t) : s.Keeps u := h.trans g

theorem ctx (h : s.Keeps t) : t.ctx = s.ctx := by
  simpa [State.ctxOf, h.cur] using h.contexts s.cur

theorem foldl {α : Type} {f : State → α → State} (hf : ∀ (s : State) (a : α), s.Keeps (f s a)) (s : State) (l : List α) :
    s.Keeps (l.foldl f s) :=
  List.foldlRecOn l f (refl s) fun t h a _ => h.trans (hf t a)

/-- Cores other than the executing one may change in all but their register sets. -/
theorem of_others (cur : t.cur = s.cur) (ctx : t.ctx = s.ctx) (f : Parked → Parked) (hf : ∀ p, (f p).id = p.id ∧ (f p).ctx = p.ctx)
    (others : t.others = s.others.map f) (form : s.memWf → t.memWf) : s.Keeps t := by
  refine ⟨cur, fun c => ?_, form⟩
  rw [State.ctxOf_eq, State.ctxOf_eq, cur, ctx, others, findParked_map f (fun p => (hf p).1), Option.map_map]
  have : Parked.ctx ∘ f = Parked.ctx := funext fun p => (hf p).2
  rw [this]

theorem of_same (cur : t.cur = s.cur) (ctx : t.ctx = s.ctx) (others : t.others = s.others) (form : s.memWf → t.memWf) : s.Keeps t :=
  of_others cur ctx id (fun _ => ⟨rfl, rfl⟩) (by rw [others, List.map_id]) form

end State.Keeps

theorem State.OnlyMessages.keeps {s t : State} (h : s.OnlyMessages t) : s.Keeps t := .of_same h.cur h.ctx h.others h.sameMems.memWf

theorem ctxOf_putParked (s : State) (q : Parked) (c : Nat) :
    { s with others := putParked s.others q }.ctxOf c = if c = s.cur then s.ctx else if c = q.id then q.ctx else s.ctxOf c := by
  rw [State.ctxOf_eq, State.ctxOf_eq]
  dsimp only
  split
  · rfl
  · split
    · subst c
      rw [findParked_putParked_same]
      rfl
    · rw [findParked_putParked_ne _ _ ‹_›]

theorem setCore_keeps (s : State) (c : Nat) (k : Core) : s.Keeps (s.setCore c k) := by
  unfold State.setCore
  split
  · exact ⟨rfl, fun _ => rfl, id⟩
  · refine ⟨rfl, fun b => ?_, id⟩
    rw [ctxOf_putParked]
    split
    · rw [State.ctxOf, if_pos ‹_›]
    · split
      · rw [‹b = c›]
      · rfl

/-- Which core executes is no part of the register sets. -/
theorem switchTo_ctxOf (s : State) (c b : Nat) : (s.switchTo c).ctxOf b = s.ctxOf b := by
  unfold State.switchTo
  split
  · rfl
  · by_cases hb : b = c
    · rw [State.ctxOf_eq, if_pos hb, hb]
    · rw [State.ctxOf_eq, if_neg hb, findParked_filter_ne _ hb]
      by_cases hs : b = s.cur
      · subst b
        rw [findParked_putParked_same _ (⟨s.cur, s.core, s.ctx, s.lc⟩ : Parked), State.ctxOf_eq, if_pos rfl]
        rfl
      · rw [findParked_putParked_ne _ _ hs, State.ctxOf_eq, if_neg hs]

theorem switchTo_cur (s : State) (c : Nat) : (s.switchTo c).cur = c := by
  unfold State.switchTo
  split
  · exact Eq.symm ‹_›
  · rfl

theorem switchTo_sameMems (s : State) (c : Nat) : s.SameMems (s.switchTo c) := by
  unfold State.switchTo
  split
  · exact .refl s
  · exact ⟨rfl, rfl, rfl, rfl⟩

/-- Work of another core's units that keeps the register sets keeps them. -/
theorem onCore_keeps (s : State) (c : Nat) {f : State → State} (hf : ∀ s : State, s.Keeps (f s)) : s.Keeps (s.onCore c f) := by
  have h := hf (s.switchTo c)
  refine ⟨switchTo_cur _ _, fun b => ?_, fun w => ?_⟩
  · rw [State.onCore, switchTo_ctxOf, h.contexts, switchTo_ctxOf]
  · exact (switchTo_sameMems _ _).memWf (h.form ((switchTo_sameMems s c).memWf w))

/-! ### Writes at their points of order -/

theorem rotateIfLive_keeps (old s : State) (pa n : Nat) : s.Keeps (rotateIfLive old s pa n) := by
  unfold rotateIfLive
  dsimp only
  split
  · refine .foldl (fun s p => ?_) _ _
    split
    · exact .foldl (f := rotateSlot p) (fun s k => ⟨rfl, fun _ => rfl, id⟩) _ _
    · exact .refl s
  · exact .refl s

/-- The memory a write outside the control space leaves, and what it leaves alone. -/
theorem writeThrough_memory (keep : Option Nat) (s : State) {pa : Nat} (bs : List Byte) (h : spaceOf pa ≠ .control) :
    let t := writeThrough keep s pa bs
    t.mem = memWriteBytes s.mem pa bs ∧ t.objects = s.objects ∧ t.core = s.core ∧ t.cur = s.cur ∧ t.ctx = s.ctx ∧
      ∃ f, (∀ p, (f p).id = p.id ∧ (f p).ctx = p.ctx) ∧ t.others = s.others.map f := by
  have d := (dropRemote_onlyMessages s keep pa bs.length).trans
    (recall_onlyMessages _ (pa / 128) ((pa + bs.length - 1) / 128 + 1 - pa / 128))
  unfold writeThrough
  split
  · contradiction
  · refine ⟨by rw [← d.mem], d.objects, d.core, d.cur, d.ctx, ?_⟩
    rw [← d.others]
    dsimp only
    split
    · exact ⟨Parked.overwritten (wordsTouched pa bs.length) pa bs.length, fun p => ⟨rfl, rfl⟩, rfl⟩
    · exact ⟨id, fun p => ⟨rfl, rfl⟩, by rw [List.map_id]⟩

theorem writeThrough_keeps (keep : Option Nat) (s : State) (pa : Nat) (bs : List Byte) : s.Keeps (writeThrough keep s pa bs) := by
  by_cases h : spaceOf pa = .control
  · have form := writeThrough_memWf keep (s := s) pa bs
    unfold writeThrough at form ⊢
    rw [h] at form ⊢
    have r := rotateIfLive_keeps s { s with ctl := ctlStore false s.ctl pa bs } pa bs.length
    exact ⟨r.cur, r.contexts, form⟩
  · obtain ⟨-, -, -, hcur, hctx, f, hf, hothers⟩ := writeThrough_memory keep s bs h
    exact .of_others hcur hctx f hf hothers (writeThrough_memWf keep pa bs)

theorem storeWrite_keeps (s : State) (pa : Nat) (bs : List Byte) : s.Keeps (storeWrite s pa bs) := writeThrough_keeps _ s pa bs

theorem physWrite_keeps (s : State) (pa : Nat) (bs : List Byte) : s.Keeps (physWrite s pa bs) :=
  (writeThrough_keeps none s pa bs).trans ⟨rfl, fun _ => rfl, id⟩

theorem endResvBy_keeps (s : State) (core serial tid pa n : Nat) : s.Keeps (s.endResvBy core serial tid pa n) := by
  unfold State.endResvBy
  split
  · exact .refl s
  · exact ⟨rfl, fun _ => rfl, id⟩

theorem restamp_keeps (old : State) (pa n serial tid : Nat) (stamp : Option Clock) (s : State) :
    s.Keeps (restamp old pa n serial tid stamp s) := by
  unfold restamp
  split
  · exact ⟨rfl, fun _ => rfl, id⟩
  · split
    · exact .refl s
    · exact ⟨rfl, fun _ => rfl, id⟩

/-- A store that arrives: reservations end, the bytes change, its stamp stays. -/
theorem storeArrival_keeps (old : State) (core serial tid pa n m : Nat) (bs : List Byte) (stamp : Option Clock) (s : State) :
    s.Keeps (restamp old pa n serial tid stamp (storeWrite (s.endResvBy core serial tid pa m) pa bs)) :=
  ((endResvBy_keeps s core serial tid pa m).trans (storeWrite_keeps _ pa bs)).trans (restamp_keeps _ _ _ _ _ _ _)

/-! ### Presence stores -/

theorem blame_keeps (s : State) (core serial tid : Nat) (d : Cause × Nat × Word) : s.Keeps (s.blame core serial tid d) := by
  unfold State.blame
  split
  · exact setCore_keeps s core _
  · exact .of_others rfl rfl (fun p => { p with core := p.core.blame serial tid d }) (fun _ => ⟨rfl, rfl⟩) rfl id

theorem countError_keeps (s : State) (die off : Nat) : s.Keeps (countError s die off) := by
  unfold countError
  refine .of_same rfl rfl rfl ?_
  rintro ⟨hmem, hctl, hrest⟩
  exact ⟨hmem, memWriteBytes_wf _ _ hctl, hrest⟩

theorem settleGroup_keeps (s : State) (g : Nat × Nat) : s.Keeps (settleGroup s g) := by
  unfold settleGroup
  dsimp only
  split
  · exact countError_keeps s _ _
  · exact (countError_keeps _ _ _).after
      (.foldl (f := fun s k => setPadPoison s (4 * g.1 + k) false) (fun s k => ⟨rfl, fun _ => rfl, id⟩) s (List.range 4))

theorem settleFlips_keeps (s : State) (core pan : Nat) : s.Keeps (settleFlips s core pan) := by
  unfold settleFlips
  dsimp only
  split
  · exact .refl s
  · exact (State.Keeps.foldl settleGroup_keeps _ _).after ⟨rfl, fun _ => rfl, id⟩

theorem armRetention_keeps (s : State) (core pan : Nat) : s.Keeps (armRetention s core pan) := by
  unfold armRetention
  split
  · exact ⟨rfl, fun _ => rfl, id⟩
  · exact .refl s

theorem wakePan_keeps (s : State) (core pan : Nat) : s.Keeps (wakePan s core pan) :=
  ((settleFlips_keeps s core pan).trans (setCore_keeps _ _ _)).trans (armRetention_keeps _ _ _)

theorem padWrite_keeps (s : State) (core off : Nat) (bs : List Byte) : s.Keeps (padWrite s core off bs) :=
  .of_same rfl rfl rfl fun ⟨hmem, hctl, hpad, hpersisted⟩ => ⟨hmem, hctl, memWriteBytes_wf _ _ hpad, hpersisted⟩

theorem landPresence_keeps (s : State) (core off : Nat) (v : Word) : s.Keeps (landPresence s core off v) :=
  (wakeWaiters_onlyMessages _ _ _).keeps.after ((padWrite_keeps s core off _).trans ⟨rfl, fun _ => rfl, id⟩)

theorem refuseFlight_keeps (s : State) (f : Flight) (k : Nat) : s.Keeps (refuseFlight s f k) := by
  unfold refuseFlight
  split
  · exact ⟨rfl, fun _ => rfl, id⟩
  · exact blame_keeps s _ _ _ _

theorem landFlight_keeps (s : State) (f : Flight) : s.Keeps (landFlight s f) := by
  have arrived (u : State) : u.Keeps (match arrivalRefusal u f with
      | some k => refuseFlight u f k
      | none => landPresence (wakePan u f.core (f.off / 65536)) f.core f.off f.value) := by
    split
    · exact refuseFlight_keeps u f _
    · exact (wakePan_keeps u _ _).trans (landPresence_keeps _ _ _ _)
  unfold landFlight
  dsimp only
  refine State.Keeps.trans ?_ (arrived _)
  split
  · exact (receive_onlyMessages _ _ _ _).keeps.after ⟨rfl, fun _ => rfl, id⟩
  · exact ⟨rfl, fun _ => rfl, id⟩

/-! ### The store buffer and the durable tier -/

theorem stampStore_keeps (s : State) (b : Buffered) : s.Keeps (stampStore s b) := by
  unfold stampStore
  split
  · exact .refl s
  · have bump : s.Keeps (s.bumpClock (dieOf s.cur)) := ⟨rfl, fun _ => rfl, id⟩
    dsimp only
    split
    · exact (bump.trans (.foldl landFlight_keeps _ _)).trans (receive_onlyMessages _ _ _ _).keeps
    · exact bump

theorem sendStore_keeps (s : State) (b : Buffered) : s.Keeps (sendStore s b) := by
  unfold sendStore
  dsimp only
  refine (stampStore_keeps s b).trans ?_
  split
  · exact ⟨rfl, fun _ => rfl, id⟩
  · split
    · exact blame_keeps _ _ _ _ _
    · exact storeArrival_keeps _ _ _ _ _ _ _ _ _ _

theorem sendAll_keeps (s : State) (l : List Buffered) : s.Keeps (sendAll s l) := by
  induction l generalizing s with
  | nil => exact .refl s
  | cons b l ih => exact (sendStore_keeps s b).trans (ih _)

theorem drain_keeps (s : State) : s.Keeps s.drain := (sendAll_keeps _ _).after ⟨rfl, fun _ => rfl, id⟩

theorem acceptDurable_keeps (s : State) (d : Durable) : s.Keeps (acceptDurable s d) := by
  unfold acceptDurable
  split
  · exact (blame_keeps _ _ _ _ _).after ⟨rfl, fun _ => rfl, id⟩
  · have arrived := onCore_keeps s d.core fun u =>
      storeArrival_keeps u d.core d.serial d.tid d.pa d.bytes.length d.bytes.length d.bytes d.stamp u
    dsimp only
    refine arrived.trans (.of_same rfl rfl rfl ?_)
    exact fun ⟨hmem, hctl, hpad, hpersisted⟩ => ⟨hmem, hctl, hpad, memWriteBytes_wf _ _ hpersisted⟩

theorem acceptAll_keeps (s : State) (l : List Durable) : s.Keeps (acceptAll s l) := by
  induction l generalizing s with
  | nil => exact .refl s
  | cons d l ih =>
    refine State.Keeps.trans ?_ (ih _)
    split
    · exact .refl s
    · exact acceptDurable_keeps s d

theorem persistAll_keeps (s : State) : s.Keeps s.persistAll := (acceptAll_keeps s s.durable).trans ⟨rfl, fun _ => rfl, id⟩

theorem publish_keeps (s : State) : s.Keeps s.publish :=
  ((drain_keeps s).trans (acceptAll_keeps _ _)).trans (.foldl landFlight_keeps _ _)

/-! ### Releases (R235, R237) and the walker's marks (R320) -/

theorem ordered_keeps (scope : Nat) (s : State) : s.Keeps (ordered scope s) := by
  unfold ordered
  split
  · exact (publish_keeps s).trans (persistAll_keeps _)
  · exact publish_keeps s

/-- A release that need not wait goes on in the state that it orders. -/
theorem orderAt_ordered {scope : Nat} {s : State} (k : State → Out) (h : orders scope s) : orderAt scope s k = k (ordered scope s) := by
  have pod (hs : scope = 4 ∨ scope = 6) (k : State → Out) : podRelease s k = k s.publish := by
    obtain ⟨hopen, hlost⟩ := h hs
    simp [podRelease, hopen, hlost]
  unfold orderAt ordered
  by_cases h4 : scope = 4
  · simp [h4, pod (.inl h4)]
  · by_cases h5 : scope = 5
    · simp [h5]
    · by_cases h6 : scope = 6
      · simp [h6, pod (.inr h6)]
      · simp [h4, h5, h6]

theorem releaseAt_ordered {scope : Nat} {s : State} (k : State → Out) (h : orders (fenceScope scope s) s) :
    releaseAt scope s k = k (ordered (fenceScope scope s) s) := orderAt_ordered k h

/-- The marks change one byte of memory, TLBs and walk caches, and may recall a lease. -/
theorem markUsed_eq (s : State) (u : Use) (write : Bool) : ∃ r m l w, s.OnlyMessages r ∧
    markUsed s u write = { r with mem := m, tlb := l, walkCache := w } ∧ (Memory.wf r.mem = true → Memory.wf m = true) := by
  unfold markUsed
  dsimp only
  generalize hr : (if pteMode u.leaf.pte = 0 then s.recall (u.leaf.frame * 32 + u.va % 4096 / 128) 1 else s) = r
  have recalled : s.OnlyMessages r := by
    subst r
    split
    · exact recall_onlyMessages s _ _
    · exact .refl s
  split
  · split
    · exact ⟨r, _, _, r.walkCache, recalled, rfl, memWrite_wf _ _⟩
    · exact ⟨r, r.mem, r.tlb, r.walkCache, recalled, rfl, id⟩
  · exact ⟨r, _, _, _, recalled, rfl, memWrite_wf _ _⟩

theorem markUsed_keeps (s : State) (u : Use) (write : Bool) : s.Keeps (markUsed s u write) := by
  obtain ⟨r, m, l, w, recalled, h, wf⟩ := markUsed_eq s u write
  rw [h]
  exact recalled.keeps.trans (.of_same rfl rfl rfl fun ⟨hmem, hrest⟩ => ⟨wf hmem, hrest⟩)

@[simp] theorem markUsed_objects (s : State) (u : Use) (write : Bool) : (markUsed s u write).objects = s.objects := by
  obtain ⟨r, m, l, w, recalled, h, -⟩ := markUsed_eq s u write
  rw [h]
  exact recalled.objects

theorem touch_keeps (s : State) (part va : Nat) (need : Need) (write : Bool) : s.Keeps (s.touch part va need write) := by
  unfold State.touch
  split
  · exact markUsed_keeps s _ write
  · exact .refl s

end Sys2Proof.Machine
end

section
/-! SUPPORT. Cells at their homes, and what `celli`, `signal` and `cread` do (R373, R382, R383). -/

namespace Sys2Proof.Machine

/-! ### Granules -/

theorem object16_lt (s : State) (pa : Nat) : object16 s pa < 2 ^ 128 := physLe_lt s pa 16

/-- The value of a granule outside the control space is that of its bytes of memory. -/
theorem object16_eq (s : State) {pa : Nat} (hspace : spaceOf pa ≠ .control) (hpa : pa % 16 = 0) :
    object16 s pa = leNat ((List.range 16).map fun k => memRead s.mem (pa + k)) := by
  unfold object16 physLe
  congr 1
  refine List.map_congr_left fun k hk => physByte_memory ?_
  rwa [spaceOf_granule k hpa (List.mem_range.mp hk)]

/-- A granule written whole reads back. -/
theorem object16_written {s t : State} {pa : Nat} {bs : List Byte} (hwf : s.memWf) (hspace : spaceOf pa ≠ .control) (hpa : pa % 16 = 0)
    (hlen : bs.length = 16) (hmem : t.mem = memWriteBytes s.mem pa bs) : object16 t pa = leNat bs := by
  obtain ⟨hwf, -⟩ := hwf
  rw [object16_eq t hspace hpa, hmem]
  congr 1
  refine List.ext_getElem (by simp [hlen]) fun k _ hk => ?_
  rw [List.getElem_map, List.getElem_range, memRead_memWriteBytes_in hwf pa bs k hk]

theorem object16_congr {s t : State} {pa : Nat} (hspace : spaceOf pa ≠ .control) (hpa : pa % 16 = 0)
    (hmem : ∀ a, memRead t.mem a = memRead s.mem a) : object16 t pa = object16 s pa := by
  rw [object16_eq t hspace hpa, object16_eq s hspace hpa]
  simp only [hmem]

/-- A home has written a granule: it has its value, and the executing context and the counters of its core are as before. -/
structure GranuleWritten (pa v : Nat) (s t : State) : Prop where
  value : object16 t pa = v
  context : t.ctx = s.ctx
  counters : t.core.pmc = s.core.pmc

theorem homeWrite_granule {s : State} {pa : Nat} {bs : List Byte} (hwf : s.memWf) (hspace : spaceOf pa ≠ .control) (hpa : pa % 16 = 0)
    (hlen : bs.length = 16) : GranuleWritten pa (leNat bs) s (homeWrite s pa bs) := by
  obtain ⟨hmem, -, hcore, -, hctx, -⟩ := writeThrough_memory none s bs hspace
  have hwrite : (homeWrite s pa bs).mem = (writeThrough none s pa bs).mem ∧ (homeWrite s pa bs).ctx = (writeThrough none s pa bs).ctx ∧
      (homeWrite s pa bs).core.pmc = (writeThrough none s pa bs).core.pmc := by
    unfold homeWrite physWrite
    dsimp only
    split <;> exact ⟨rfl, rfl, rfl⟩
  obtain ⟨hmem', hctx', hpmc'⟩ := hwrite
  exact ⟨object16_written hwf hspace hpa hlen (hmem'.trans hmem), hctx'.trans hctx, by rw [hpmc', hcore]⟩

/-- The waiters that a change wakes change no granule. -/
theorem GranuleWritten.judged {pa v : Nat} {s t : State} (hspace : spaceOf pa ≠ .control) (hpa : pa % 16 = 0)
    (h : GranuleWritten pa v s t) : GranuleWritten pa v s (judgeCell t pa) := by
  have j := judgeCell_onlyMessages t pa
  have same := object16_congr (s := t) hspace hpa fun a => by rw [j.mem]
  exact ⟨same.trans h.value, j.ctx.trans h.context, by rw [j.core, h.counters]⟩

/-! ### A cell that is made (R373, R383) -/

/-- A cell with COUNT 0, a target and a generation. -/
def newCell (target gen : Nat) : Nat := target * 2 ^ 32 + gen * 2 ^ 64

/-- GEN lies at byte 8 of the granule. -/
theorem cellGen_object16 (s : State) (pa : Nat) : cellGen (object16 s pa) = physLe s (pa + 8) 2 := by
  have whole : object16 s pa = physLe s pa 8 + 256 ^ 8 * (physLe s (pa + 8) 2 + 256 ^ 2 * physLe s (pa + 8 + 2) 6) := by
    rw [← physLe_add, ← physLe_add]
    rfl
  have low := physLe_lt s pa 8
  have gen := physLe_lt s (pa + 8) 2
  rw [whole, cellGen, fieldOf]
  omega

theorem initCell_granule {s : State} {pa target : Nat} (hwf : s.memWf) (hspace : spaceOf pa ≠ .control) (hpa : pa % 16 = 0)
    (ht : target < 2 ^ 32) : GranuleWritten pa (newCell target ((cellGen (object16 s pa) + 1) % 65536)) s (initCell s pa target) := by
  rw [cellGen_object16]
  generalize hg : (physLe s (pa + 8) 2 + 1) % 65536 = g
  have h := homeWrite_granule (bs := natBytes 4 0 ++ natBytes 4 target ++ natBytes 2 g ++ natBytes 6 0) hwf hspace hpa (by simp)
  have hv : leNat (natBytes 4 0 ++ natBytes 4 target ++ natBytes 2 g ++ natBytes 6 0) = newCell target g := by
    simp only [leNat_append, leNat_natBytes, natBytes_length, List.length_append, newCell]
    omega
  rw [hv] at h
  subst g
  exact ⟨h.value, h.context, h.counters⟩

theorem mem_setAdd (l : List Nat) (k : Nat) : k ∈ setAdd l k := by
  induction l with
  | nil => simp [setAdd]
  | cons a l ih =>
    unfold setAdd
    split
    · simp
    · split
      · simp [*]
      · simp [ih]

theorem initCell_objects (s : State) (pa target : Nat) : pa / 16 ∈ (initCell s pa target).objects := mem_setAdd _ _

theorem newCell_fields {target gen : Nat} (ht : target < 2 ^ 32) (hg : gen < 65536) :
    cellCount (newCell target gen) = 0 ∧ cellTarget (newCell target gen) = target ∧ cellGen (newCell target gen) = gen ∧
      cellErr (newCell target gen) = false := by
  rw [cellErr, decide_eq_false_iff_not]
  simp only [cellCount, cellTarget, cellGen, fieldOf, newCell]
  omega

/-! ### A cell that is signalled (R383) -/

/-- A cell after a signal. -/
def signalledCell (v amount : Nat) (err : Bool) : Nat :=
  let v1 := putField v 31 0 (cellCount v + amount)
  if err then putField v1 80 80 1 else v1

theorem signalledCell_lt {v : Nat} (h : v < 2 ^ 128) (amount : Nat) (err : Bool) : signalledCell v amount err < 2 ^ 128 := by
  have counted := putField_lt (hi := 31) (lo := 0) (by decide) (by decide) h (cellCount v + amount)
  cases err with
  | false => exact counted
  | true => exact putField_lt (by decide) (by decide) counted 1

theorem cellCount_signalledCell (v amount : Nat) (err : Bool) :
    cellCount (signalledCell v amount err) = (cellCount v + amount) % 2 ^ 32 := by
  have counted := fieldOf_putField_same (hi := 31) (lo := 0) (by decide) v (cellCount v + amount)
  cases err with
  | false => exact counted
  | true => exact (fieldOf_putField_below (by decide) (by decide) _ 1).trans counted

theorem cellTarget_signalledCell (v amount : Nat) (err : Bool) : cellTarget (signalledCell v amount err) = cellTarget v := by
  have counted := fieldOf_putField_above (hi := 31) (lo := 0) (hi' := 63) (lo' := 32) (by decide) (by decide) v (cellCount v + amount)
  cases err with
  | false => exact counted
  | true => exact (fieldOf_putField_below (by decide) (by decide) _ 1).trans counted

theorem cellErr_signalledCell (v amount : Nat) (err : Bool) : cellErr (signalledCell v amount err) = (cellErr v || err) := by
  cases err with
  | false => rw [Bool.or_false, cellErr, signalledCell, if_neg Bool.false_ne_true, fieldOf_putField_above (by decide) (by decide), cellErr]
  | true => rw [Bool.or_true, cellErr, signalledCell, if_pos rfl, fieldOf_putField_same (by decide)]; rfl

theorem signalCellAt_granule {s : State} {pa : Nat} (hwf : s.memWf) (hspace : spaceOf pa ≠ .control) (hpa : pa % 16 = 0) (amount : Nat)
    (err : Bool) : GranuleWritten pa (signalledCell (object16 s pa) amount err) s (signalCellAt s pa amount err) := by
  have h := homeWrite_granule (bs := natBytes 16 (signalledCell (object16 s pa) amount err)) hwf hspace hpa (natBytes_length _ _)
  have fits : signalledCell (object16 s pa) amount err % 256 ^ 16 = signalledCell (object16 s pa) amount err :=
    Nat.mod_eq_of_lt (signalledCell_lt (object16_lt s pa) amount err)
  rw [leNat_natBytes, fits] at h
  exact h.judged hspace hpa

/-! ### Frames against an earlier state of the same context -/

theorem State.x_eq {s u : State} (h : u.ctx = s.ctx) (r : BitVec 5) : u.x r = s.x r := by rw [State.x, State.x, h]

theorem ScalarWritten.of_ctx {s u t : State} {d : BitVec 5} {v : Word} (h : u.ctx = s.ctx) (w : ScalarWritten u t d v) :
    ScalarWritten s t d v := fun r => by rw [w r, State.x_eq h]

theorem SameButScalars.of_ctx {s u t : State} (h : u.ctx = s.ctx) (w : SameButScalars u t) : SameButScalars s t := by
  unfold SameButScalars at w ⊢
  rwa [← h]

theorem Completed.of_ctx {n : Nat} {s u t : State} (h : u.ctx = s.ctx) (p : u.core.pmc = s.core.pmc) (c : Completed n u t) :
    Completed n s t := ⟨by rw [c.pc, h], by simp only [c.counted, p]⟩

/-! ### Operands (R382) -/

theorem tooWide_iff (v : Word) : tooWide v = true ↔ 2 ^ 32 ≤ v.toNat := by
  have := v.isLt
  rw [tooWide, decide_eq_true_eq, bits]
  omega

theorem not_tooWide {v : Word} (h : v.toNat < 2 ^ 32) : tooWide v = false := by
  rw [Bool.eq_false_iff, Ne, tooWide_iff]
  omega

theorem bits_low {v : Word} (h : v.toNat < 2 ^ 32) : bits v 31 0 = v.toNat := by
  simp only [bits]
  omega

/-! ### celli -/

/-- The state in which `celli` makes its cell: its page is marked, and its party's stores are published (R320, R383). -/
def celliReady (s : State) (va : Word) : State := (s.touch s.part va.toNat Need.atom true).publish

theorem celliReady_keeps (s : State) (va : Word) : s.Keeps (celliReady s va) := (touch_keeps s _ _ _ _).trans (publish_keeps _)

theorem exec_celli {s : State} {d a b : BitVec 5} {pa : Nat} (hva : (s.x a).toNat % 16 = 0) (hb : (s.x b).toNat < 2 ^ 32)
    (hobj : objectPa s (s.x a) Need.atom = .ok pa) : exec (.celli d a b) s =
      complete 4 1 ((judgeCell (initCell (celliReady s (s.x a)) pa (s.x b).toNat) pa).setX d (cellToken (s.x a).toNat)) := by
  show execCelli d a b s = _
  simp [execCelli, misalignedAt, hva, not_tooWide hb, withRes, hobj, bits_low hb, celliReady]

/-! ### signal -/

theorem signalScopeOk_of {sc : BitVec 3} (h1 : 1 ≤ sc.toNat) (h5 : sc.toNat ≤ 5) : signalScopeOk sc = true := by
  simp [signalScopeOk, h1, h5]

theorem exec_signal_tooWide {s : State} {d a b : BitVec 5} {e : BitVec 1} {sc : BitVec 3} (h1 : 1 ≤ sc.toNat) (h5 : sc.toNat ≤ 5)
    (hb : 2 ^ 32 ≤ (s.x b).toNat) : exec (.signal d a b e sc) s = .next (takeCause s (exc .bounds 0 (s.x b))) := by
  show execSignal d a b e sc s = _
  simp [execSignal, whenOk, signalScopeOk_of h1 h5, (tooWide_iff _).mpr hb, raise]

/-- The state in which a signal reaches its cell, after what it orders: its page is marked, and its clock has come to the home
(R237, R244, R320). -/
def signalReached (sc : BitVec 3) (pa : Nat) (u : Use) (s : State) : State :=
  stampHome (markUsed (if sc = 4 ∧ s.objects.contains (pa / 16) = true then podSignal s pa else s) u true) pa

theorem signalReached_keeps (sc : BitVec 3) (pa : Nat) (u : Use) (s : State) : s.Keeps (signalReached sc pa u s) := by
  have noted : s.Keeps (if sc = 4 ∧ s.objects.contains (pa / 16) = true then podSignal s pa else s) := by
    split
    · exact ⟨rfl, fun _ => rfl, id⟩
    · exact .refl s
  exact (noted.trans (markUsed_keeps _ u true)).trans (stampHome_onlyMessages _ pa).keeps

@[simp] theorem signalReached_objects (sc : BitVec 3) (pa : Nat) (u : Use) (s : State) : (signalReached sc pa u s).objects = s.objects := by
  rw [signalReached, (stampHome_onlyMessages _ pa).objects, markUsed_objects]
  split <;> rfl

/-- A signal to a cell of this package comes to its home after what its release orders. -/
theorem exec_signal_local {s : State} {d a b : BitVec 5} {e : BitVec 1} {sc : BitVec 3} {pa : Nat} {u : Use} (h1 : 1 ≤ sc.toNat)
    (h5 : sc.toNat ≤ 5) (hb : (s.x b).toNat < 2 ^ 32) (htok : tokenOperand s [2] (s.x a) = none) (hfab : tokFabric (s.x a) = false)
    (hord : orders (fenceScope sc.toNat s) s) (htr : translate s s.part s.privileged (tokVa (s.x a)) Need.atom = .ok (.phys pa u)) :
    exec (.signal d a b e sc) s =
      signalLocal d (s.x a) pa (s.x b).toNat (e = 1) (signalReached sc pa u (ordered (fenceScope sc.toNat s) s)) := by
  show execSignal d a b e sc s = _
  simp only [execSignal, whenOk, signalScopeOk_of h1 h5, not_tooWide hb, htok, hfab, htr, withRes, releaseAt_ordered _ hord,
    bits_low hb, signalReached, if_true, Bool.false_eq_true, if_false]

section
variable {s : State} {d : BitVec 5} {tok : Word} {pa amount : Nat} {err : Bool}

theorem signalLocal_reserved (hobj : pa / 16 ∈ s.objects) (hclean : touchesPoison s pa 16 = false)
    (hres : cellReserved (object16 s pa) = true) :
    signalLocal d tok pa amount err s = .next (takeCause s (exc .illegalInstruction 0 tok)) := by
  simp [signalLocal, hobj, hclean, hres, raise]

theorem signalLocal_counts (hobj : pa / 16 ∈ s.objects) (hclean : touchesPoison s pa 16 = false)
    (hres : cellReserved (object16 s pa) = false) : signalLocal d tok pa amount err s =
      complete 4 1 ((signalCellAt s pa amount err).setX d (BitVec.ofNat 64 ((cellCount (object16 s pa) + amount) % 2 ^ 32))) := by
  simp [signalLocal, hobj, hclean, hres]

theorem signalLocal_refused (hobj : pa / 16 ∉ s.objects) (hd : d ≠ 0) :
    signalLocal d tok pa amount err s = .next (takeCause s (exc .invalidToken 2 tok)) := by
  rw [signalLocal, if_neg (by simpa using hobj), if_neg hd, raise]

/-- A posted signal to no cell goes on: the refusal is under way, and the core keeps what its record will name. -/
theorem signalLocal_posted (hobj : pa / 16 ∉ s.objects) : ∃ t, signalLocal 0 tok pa amount err s = .next t ∧ Completed 4 s t ∧ SameBytes s t ∧
    t.pending = s.pending ++ [.postedSignalRefused s.cur tok s.ctx.pc s.taskKey.1 s.taskKey.2] ∧
    ∃ p, t.core.posted = s.core.posted ++ [p] ∧ p.token = tok ∧ p.pc = s.ctx.pc ∧ (p.serial, p.tid) = s.taskKey ∧ p.part = s.part := by
  simp only [signalLocal, List.contains_eq_mem, hobj, decide_false, Bool.false_eq_true, if_false, if_true, complete_next]
  refine ⟨_, rfl, ?_, ?_, by simp, _, by simp; rfl, rfl, rfl, rfl, rfl⟩
  · refine Completed.of_ctx ?_ ?_ (complete_completed 4 1 _) <;> rfl
  · constructor <;> simp

end

/-! ### cread -/

theorem creadField_eq (kind v k : Nat) : creadField kind v k =
    (if kind = 2 then [cellCount v, cellTarget v, cellGen v, fieldOf v 80 80]
      else [rvExpect v, rvArrived v, rvPar v, rvPhase v, rvGen v])[k]?.getD 0 := by
  unfold creadField
  split
  · match k with
    | 0 | 1 | 2 | 3 => rfl
    | _ + 4 => rfl
  · match k with
    | 0 | 1 | 2 | 3 | 4 => rfl
    | _ + 5 => rfl

theorem exec_cread {s : State} {d a b : BitVec 5} {pa : Nat} (htok : tokenOperand s [2, 3] (s.x a) = none)
    (hfab : tokFabric (s.x a) = false) (hobj : tokenObject s (s.x a) Need.atom = .ok ())
    (hpa : objectPa s (tokVa (s.x a)) Need.atom = .ok pa) : exec (.cread d a b) s =
      (let u := s.touch s.part (tokVa (s.x a)).toNat Need.atom false
       complete 4 1 (u.setX d (BitVec.ofNat 64 (creadField (tokKind (s.x a)) (object16 u pa) (s.x b).toNat)))) := by
  show execCread d a b s = _
  simp [execCread, htok, hfab, hobj, hpa, withRes]

end Sys2Proof.Machine
end

section
/-! The claim about `celli`, `signal` and `cread` (O46): an access comes to its object in a state that keeps the register set, and the
home then writes the granule. -/

namespace Sys2Proof.Machine

/-- What `celli` leaves. -/
theorem celli_makes_cell {s : State} (d a b : BitVec 5) {pa : Nat} (hwf : s.memWf) (hva : (s.x a).toNat % 16 = 0)
    (hb : (s.x b).toNat < 2 ^ 32) (hobj : objectPa s (s.x a) Need.atom = .ok pa) (hspace : spaceOf pa ≠ .control) (hpa : pa % 16 = 0) :
    ∃ t, exec (.celli d a b) s = .next t ∧ Completed 4 (celliReady s (s.x a)) t ∧ ScalarWritten s t d (cellToken (s.x a).toNat) ∧
      SameButScalars s t ∧ cellCount (object16 t pa) = 0 ∧ cellTarget (object16 t pa) = (s.x b).toNat ∧ cellErr (object16 t pa) = false ∧
      cellGen (object16 t pa) = (cellGen (object16 (celliReady s (s.x a)) pa) + 1) % 65536 ∧ pa / 16 ∈ t.objects := by
  have keeps := celliReady_keeps s (s.x a)
  have made := (initCell_granule (keeps.form hwf) hspace hpa hb).judged hspace hpa
  have fields := newCell_fields hb (Nat.mod_lt (cellGen (object16 (celliReady s (s.x a)) pa) + 1) (Nat.succ_pos 65535))
  have objects := initCell_objects (celliReady s (s.x a)) pa (s.x b).toNat
  rw [exec_celli hva hb hobj, complete_next]
  -- From here on only what is known of the published state and of the judged cell counts.
  generalize celliReady s (s.x a) = s0 at *
  rw [← (judgeCell_onlyMessages _ pa).objects] at objects
  generalize judgeCell (initCell s0 pa (s.x b).toNat) pa = u at *
  have ctx := made.context.trans keeps.ctx
  have done := complete_scalar 4 1 d (cellToken (s.x a).toNat) u
  have same := (object16_congr hspace hpa done.bytes.mem).trans made.value
  obtain ⟨hcount, htarget, hgen, herr⟩ := fields
  refine ⟨_, rfl, done.done.of_ctx made.context made.counters, done.result.of_ctx ctx, done.context.of_ctx ctx, ?_, ?_, ?_, ?_, ?_⟩
  · rw [same, hcount]
  · rw [same, htarget]
  · rw [same, herr]
  · rw [same, hgen]
  · rwa [State.retire_objects, State.advance_objects, State.setX_objects]

/-- What a signal that its cell takes leaves. -/
theorem signalLocal_takes {s : State} (d : BitVec 5) (tok : Word) {pa : Nat} (amount : Nat) (err : Bool) (hwf : s.memWf)
    (hspace : spaceOf pa ≠ .control) (hpa : pa % 16 = 0) (hobj : pa / 16 ∈ s.objects) (hclean : touchesPoison s pa 16 = false)
    (hres : cellReserved (object16 s pa) = false) : ∃ t, signalLocal d tok pa amount err s = .next t ∧ t.ctx.pc = s.ctx.pc + 4 ∧
      SameButScalars s t ∧ ScalarWritten s t d (BitVec.ofNat 64 ((cellCount (object16 s pa) + amount) % 2 ^ 32)) ∧
      cellCount (object16 t pa) = (cellCount (object16 s pa) + amount) % 2 ^ 32 ∧
      cellTarget (object16 t pa) = cellTarget (object16 s pa) ∧ cellErr (object16 t pa) = (cellErr (object16 s pa) || err) := by
  have taken := signalCellAt_granule hwf hspace hpa amount err
  have done := complete_scalar 4 1 d (BitVec.ofNat 64 ((cellCount (object16 s pa) + amount) % 2 ^ 32)) (signalCellAt s pa amount err)
  have same := (object16_congr hspace hpa done.bytes.mem).trans taken.value
  refine ⟨_, (signalLocal_counts hobj hclean hres).trans (complete_next _ _ _), ?_, done.context.of_ctx taken.context,
    done.result.of_ctx taken.context, ?_, ?_, ?_⟩
  · rw [done.done.pc, taken.context]
    rfl
  · rw [same, cellCount_signalledCell]
  · rw [same, cellTarget_signalledCell]
  · rw [same, cellErr_signalledCell]

/-- What `cread` leaves. -/
theorem cread_gives_field {s : State} (d a b : BitVec 5) {pa : Nat} (htok : tokenOperand s [2, 3] (s.x a) = none)
    (hfab : tokFabric (s.x a) = false) (hobj : tokenObject s (s.x a) Need.atom = .ok ())
    (hpa : objectPa s (tokVa (s.x a)) Need.atom = .ok pa) :
    let s1 := s.touch s.part (tokVa (s.x a)).toNat Need.atom false
    ∃ t, exec (.cread d a b) s = .next t ∧ Completed 4 s1 t ∧ SameBytes s1 t ∧ SameButScalars s t ∧
      ScalarWritten s t d (BitVec.ofNat 64 (creadField (tokKind (s.x a)) (object16 s1 pa) (s.x b).toNat)) := by
  intro s1
  have ctx : s1.ctx = s.ctx := (touch_keeps s _ _ _ _).ctx
  have done := complete_scalar 4 1 d (BitVec.ofNat 64 (creadField (tokKind (s.x a)) (object16 s1 pa) (s.x b).toNat)) s1
  exact ⟨_, (exec_cread htok hfab hobj hpa).trans (complete_next _ _ _), done.done, done.bytes, done.context.of_ctx ctx,
    done.result.of_ctx ctx⟩

/-- Settles O46: each form through the state in which its access reaches the object, and the granule its home then writes. -/
theorem cellForms : Obligations.CellForms := by
  unfold Obligations.CellForms
  intro s d a b hwf
  refine ⟨fun pa hva hb hobj hspace hpa => celli_makes_cell d a b hwf hva hb hobj hspace hpa, fun e sc h1 h5 =>
    ⟨exec_signal_tooWide h1 h5, fun pa u hb htok hfab hord htr hspace hpa => ?_⟩, fun pa htok hfab hobj hpa => ?_⟩
  · intro s0 s1
    have keeps : s.Keeps s1 := (ordered_keeps _ s).trans (signalReached_keeps sc pa u s0)
    have objects : s1.objects = s0.objects := signalReached_objects sc pa u s0
    have home : exec (.signal d a b e sc) s = signalLocal d (s.x a) pa (s.x b).toNat (e = 1) s1 :=
      exec_signal_local h1 h5 hb htok hfab hord htr
    rw [home, ← objects]
    refine ⟨fun hobj hclean hres => signalLocal_reserved hobj hclean hres, fun hobj hclean hres => ?_, fun hobj =>
      ⟨fun hd => hd ▸ signalLocal_posted hobj, fun hd => signalLocal_refused hobj hd⟩⟩
    obtain ⟨t, hnext, hpc, hcontext, hresult, hfields⟩ :=
      signalLocal_takes d (s.x a) (s.x b).toNat (decide (e = 1)) (keeps.form hwf) hspace hpa hobj hclean hres
    exact ⟨t, hnext, by rw [hpc, keeps.ctx], hcontext.of_ctx keeps.ctx, hresult.of_ctx keeps.ctx, hfields⟩
  · intro s1 v
    rw [← creadField_eq]
    exact cread_gives_field d a b htok hfab hobj hpa

end Sys2Proof.Machine
end

section
/-! SUPPORT. What scalar loads and stores do before they access memory: the doubled address generation and the alignment (R17, R259), what
stands before a store (R84, R236, R237), and the refusal of an object granule (R230). -/

namespace Sys2Proof.Machine

/-! ### Address generation and alignment (R17, R259) -/

theorem addressOk_struck {s : State} {x : Strike} (h : s.strike .address = some x) (k : Out) :
    addressOk s k = .next (takeCause (s.met x) (exc .shadowMismatch 1 0)) := by
  rw [addressOk, h]
  rfl

theorem addressOk_unstruck {s : State} (h : s.strike .address = none) (k : Out) : addressOk s k = k := by
  rw [addressOk, h]

theorem misalignedAt_iff (va : Word) (n : Nat) : misalignedAt va n = true ↔ va.toNat % n ≠ 0 := decide_eq_true_iff

/-- The checks of a scalar access that come before its translation, and then the access. -/
def scalarAccess (s : State) (va : Word) (n : Nat) (k : Out) : Out :=
  addressOk s (if misalignedAt va n then raise s (exc .misaligned 0 va) else k)

section
variable {s : State} {va : Word} {n : Nat}

theorem scalarAccess_struck {x : Strike} (h : s.strike .address = some x) (k : Out) :
    scalarAccess s va n k = .next (takeCause (s.met x) (exc .shadowMismatch 1 0)) := addressOk_struck h _

theorem scalarAccess_misaligned (h : s.strike .address = none) (hva : va.toNat % n ≠ 0) (k : Out) :
    scalarAccess s va n k = .next (takeCause s (exc .misaligned 0 va)) := by
  rw [scalarAccess, addressOk_unstruck h, if_pos ((misalignedAt_iff va n).mpr hva), raise]

theorem scalarAccess_aligned (h : s.strike .address = none) (hva : va.toNat % n = 0) (k : Out) : scalarAccess s va n k = k := by
  rw [scalarAccess, addressOk_unstruck h, if_neg (mt (misalignedAt_iff va n).mp (not_not_intro hva))]

end

/-! ### The instructions of R260 and R79 -/

theorem exec_load {s : State} {i : Instr} {d : BitVec 5} {va : Word} {n size : Nat} {sg : Bool}
    (h : loadTable s i = some (d, va, n, sg, size)) : exec i s = loadScalar size d sg n va s := by
  unfold loadTable at h
  split at h
  case h_5 => cases h
  all_goals
    cases h
    rfl

theorem exec_store {s : State} {i : Instr} {v va : Word} {n size : Nat} (h : storeTable s i = some (v, va, n, size)) :
    exec i s = storeScalar size v n va s := by
  unfold storeTable at h
  split at h
  case h_4 => cases h
  all_goals
    cases h
    rfl

/-- Every scalar load and store makes these checks first. -/
theorem exec_scalarAccess {s : State} {i : Instr} {va : Word} {n : Nat}
    (h : (∃ d sg size, loadTable s i = some (d, va, n, sg, size)) ∨ (∃ v size, storeTable s i = some (v, va, n, size))) :
    ∃ k, exec i s = scalarAccess s va n k := by
  obtain ⟨d, sg, size, hload⟩ | ⟨v, size, hstore⟩ := h
  · exact ⟨_, exec_load hload⟩
  · exact ⟨_, exec_store hstore⟩

/-! ### Stores -/

/-- A store whose address raises no Peer fault goes on. -/
theorem peerFirst_noPeerFault {s : State} {va : Word} {need : Need} (h : noPeerFault s va need) (k : Out) : peerFirst s va need k = k := by
  unfold peerFirst
  split
  · exact if_neg (h _ ‹_›)
  · rfl

/-- A store that need not wait for a `fence.rel` is made in the state that this orders. -/
theorem storeAfterFence_ready {s : State} (h : storeReady s) (k : State → Out) : storeAfterFence s k = k (beforeStore s) := by
  unfold storeAfterFence beforeStore
  cases hr : s.ctx.release with
  | none => rfl
  | some c => exact orderAt_ordered k (h c hr)

/-- An aligned store comes to its write in the state before it. -/
theorem storeScalar_ready {s : State} {va : Word} {n : Nat} (size : Nat) (v : Word) (hva : va.toNat % n = 0)
    (hstrike : s.strike .address = none) (hpeer : noPeerFault s va Need.write) (hready : storeReady s) :
    storeScalar size v n va s = withRes (beforeStore s) (writeVa (beforeStore s) false va (natBytes n v.toNat) Need.write)
      (complete size 1) :=
  calc storeScalar size v n va s
    _ = peerFirst s va Need.write (storeAfterFence s fun s1 =>
          withRes s1 (writeVa s1 false va (natBytes n v.toNat) Need.write) (complete size 1)) := scalarAccess_aligned hstrike hva _
    _ = _ := by rw [peerFirst_noPeerFault hpeer, storeAfterFence_ready hready]

/-- A store that touches an object granule is refused (R230). -/
theorem writeVa_object {s : State} {va : Word} {need : Need} {pa : Nat} {u : Use} (vec : Bool) (bs : List Byte)
    (htr : translate s s.part s.privileged va need = .ok (.phys pa u)) (hobj : touchesObject s pa bs.length = true) :
    writeVa s vec va bs need = .error (exc .objectOverwrite 0 va) := by
  rw [writeVa, htr]
  exact if_pos hobj

end Sys2Proof.Machine
end

section
/-! The claim about the traps of scalar accesses (O28). -/

namespace Sys2Proof.Machine

/-- Settles O28: the first two traps come from the checks that every scalar access makes first, the third from the write of a store that
has passed them. -/
theorem memoryAccessTraps : Obligations.MemoryAccessTraps := by
  unfold Obligations.MemoryAccessTraps
  refine ⟨fun s i va n haccess => ?_, fun s i v va n size pa u hstore hva hstrike hpeer hready => ?_⟩
  · obtain ⟨k, hexec⟩ := exec_scalarAccess haccess
    rw [hexec]
    exact ⟨fun x hx => scalarAccess_struck hx k, fun hstrike hva => scalarAccess_misaligned hstrike hva k⟩
  · intro s0 htr hobj
    have refused : writeVa s0 false va (natBytes n v.toNat) Need.write = .error (exc .objectOverwrite 0 va) :=
      writeVa_object false _ htr (by rwa [natBytes_length])
    rw [exec_store hstore, storeScalar_ready size v hva hstrike hpeer hready, refused, withRes, raise]

end Sys2Proof.Machine
end

section
/-! SUPPORT. The state in which a message has been taken, and what work on a core leaves in that core's state. -/

namespace Sys2Proof.Machine

/-! ### Messages that are taken -/

@[simp] theorem taken_coreOf (e : Event) (s : State) (c : Nat) : (taken e s).coreOf c = s.coreOf c := rfl
@[simp] theorem taken_launchOf (e : Event) (s : State) (n : Nat) : (taken e s).launchOf n = s.launchOf n := rfl
@[simp] theorem taken_slotWait (e : Event) (s : State) (c k : Nat) : slotWait (taken e s) c k = slotWait s c k := rfl

section
variable {e : Event} {s : State} {f : State → State}

theorem takeEvent_taken (h : e ∈ s.pending) : takeEvent e s f = .next (f (taken e s)) := takeEvent_next f h

theorem takeDue_taken {due : State → Bool} (h : e ∈ s.pending) (hd : due s = true) : takeDue e due s f = .next (f (taken e s)) :=
  takeDue_next f h hd

theorem takeMail_taken {core : Nat} (h : e ∈ s.pending) (hc : (s.coreOf core).closed = false) :
    takeMail e core s f = .next (f (taken e s)) := takeMail_next f h hc

/-- An event that accesses pans takes place where they are all awake. -/
theorem takeWhenAwake_taken {pans : List (Nat × Nat)} {due : State → Bool} (h : e ∈ s.pending) (hd : due s = true)
    (awake : pans.all (fun x => panAwake s x.1 x.2) = true) : takeWhenAwake e pans due s f = .next (f (taken e s)) := by
  unfold takeWhenAwake
  rw [if_neg (by simp [h, hd]), if_pos awake, takeEvent_taken h]

end

/-! ### A core's state -/

theorem State.coreOf_eq (s : State) (c : Nat) :
    s.coreOf c = if c = s.cur then s.core else ((findParked s.others c).map Parked.core).getD Core.reset := by
  unfold State.coreOf
  split
  · rfl
  · cases findParked s.others c <;> rfl

@[simp] theorem coreOf_setCore (s : State) (c : Nat) (k : Core) : (s.setCore c k).coreOf c = k := by
  unfold State.setCore
  split
  · exact if_pos ‹_›
  · rw [State.coreOf_eq, if_neg (by exact ‹_›), findParked_putParked_same _ (⟨c, k, s.ctxOf c, s.copyOf c⟩ : Parked)]
    rfl

@[simp] theorem switchTo_core (s : State) (c : Nat) : (s.switchTo c).core = s.coreOf c := by
  unfold State.switchTo
  split
  · exact (if_pos ‹_›).symm
  · rfl

/-- Which core executes is no part of the cores' states. -/
theorem switchTo_coreOf (s : State) (c b : Nat) : (s.switchTo c).coreOf b = s.coreOf b := by
  by_cases hc : c = s.cur
  · rw [State.switchTo, if_pos hc]
  · by_cases hb : b = c
    · rw [State.coreOf, switchTo_cur, if_pos hb, switchTo_core, hb]
    · rw [State.coreOf_eq, switchTo_cur, if_neg hb, State.switchTo, if_neg hc, findParked_filter_ne _ hb]
      by_cases hs : b = s.cur
      · subst b
        rw [findParked_putParked_same _ (⟨s.cur, s.core, s.ctx, s.lc⟩ : Parked), State.coreOf_eq, if_pos rfl]
        rfl
      · rw [findParked_putParked_ne _ _ hs, State.coreOf_eq, if_neg hs]

/-- What work of a core's units leaves in that core. -/
theorem onCore_coreOf {s : State} {c : Nat} {f : State → State} (hcur : (f (s.switchTo c)).cur = c) :
    (s.onCore c f).coreOf c = (f (s.switchTo c)).core := by
  rw [State.onCore, switchTo_coreOf, State.coreOf, if_pos hcur.symm]

end Sys2Proof.Machine
end

section
/-! The claim about scheduler turns and management's messages to cores (O57): each event by the condition under which it takes place, and
what it is then. -/

namespace Sys2Proof.Machine

/-! ### Pre-emption and resumption (R62, R64) -/

/-- A launch of which one core more is restored. -/
def restoredOn (core : Nat) (l : Launch) : Launch :=
  match l.preempted with
  | .resuming w =>
    let rest := w.filter (fun c => c ≠ core)
    { l with preempted := if rest.isEmpty then .no else .resuming rest }
  | _ => l

section
variable {s : State} {core serial : Nat} {l : Launch}

theorem exec_preemptionMessage (hl : s.launchOf serial = some l) (hp : .preemptionMessage core serial ∈ s.pending)
    (hservice : (s.coreOf core).service = none) (hasked : (s.coreOf core).asked = false) (hclosed : (s.coreOf core).closed = false)
    (hresumption : .resumptionMessage core serial ∉ s.pending) (hclaim : .panClaim core serial ∉ s.pending) :
    let q := (taken (.preemptionMessage core serial) s).onCore core (fun s => quiesceHere s l)
    exec (.preemptionMessage core serial) s = .next { q with pending := q.pending ++ [.preemptionAcknowledgement core serial] } := by
  show execPreemptionMessage core serial s = _
  rw [execPreemptionMessage, takeDue_taken hp (by simp [hservice, hasked, hclosed, hresumption, hclaim])]
  simp only [taken_launchOf, hl]

theorem exec_preemptionAcknowledgement (hl : s.launchOf serial = some l) (hp : .preemptionAcknowledgement core serial ∈ s.pending)
    (hcopies : copiesInto s core l.panMask = false) (awake : (launchPans s core serial).all (fun x => panAwake s x.1 x.2) = true) :
    exec (.preemptionAcknowledgement core serial) s
      = .next (acknowledge ((taken (.preemptionAcknowledgement core serial) s).onCore core (fun s => saveHere s l)) core serial) := by
  show execPreemptionAcknowledgement core serial s = _
  rw [execPreemptionAcknowledgement, takeWhenAwake_taken hp (by simp [hl, hcopies]) awake]
  simp only [taken_launchOf, hl]

/-- One core less has still to restore a launch. -/
theorem exec_resumptionMessage (hl : s.launchOf serial = some l) (hp : .resumptionMessage core serial ∈ s.pending)
    (hclosed : (s.coreOf core).closed = false) : exec (.resumptionMessage core serial) s
      = .next (mapLaunch ((taken (.resumptionMessage core serial) s).onCore core (fun s => resumeHere s l)) serial (restoredOn core)) := by
  show execResumptionMessage core serial s = _
  rw [execResumptionMessage, takeMail_taken hp hclosed]
  simp only [taken_launchOf, hl]
  rfl

end

/-! ### The scheduler of a core (R45, R49, R419) -/

section
variable {s : State} {core : Nat}

theorem exec_quantumExpiry_over (h : quantumOver (s.coreOf core) s.cyc = true) :
    exec (.quantumExpiry core) s = .next (s.onCore core expireHere) := if_pos h

theorem exec_quantumExpiry_running (h : quantumOver (s.coreOf core) s.cyc = false) : exec (.quantumExpiry core) s = .next s :=
  if_neg (by rw [h]; exact Bool.false_ne_true)

theorem exec_stallPromisePassed {x : TaskInfo} {p : Word} {w : Wait} (hp : .stallPromisePassed core ∈ s.pending)
    (hrun : (s.coreOf core).run = .stalled x p w) (hpassed : p.toNat < s.cyc.toNat) :
    let u := taken (.stallPromisePassed core) s
    let cores := if (gangMembers u x).isEmpty then [core] else (gangMembers u x).map (fun m => m.1)
    exec (.stallPromisePassed core) s = .next (cores.foldl (fun s c => s.onCore c suspendStalled)
      { u with pending := u.pending.filter (fun e => !cores.any (fun c => e = Event.stallPromisePassed c)) }) := by
  show execStallPromisePassed core s = _
  rw [execStallPromisePassed, takeDue_taken hp (by simp [hrun, hpassed])]
  simp only [taken_coreOf, hrun]

theorem exec_backgroundRestore (hp : .backgroundRestore core ∈ s.pending) :
    exec (.backgroundRestore core) s = .next ((taken (.backgroundRestore core) s).onCore core beginRestore) :=
  takeEvent_taken (f := fun s => s.onCore core beginRestore) hp

theorem exec_backgroundRestoreDone (hp : .backgroundRestoreDone core ∈ s.pending) :
    ∃ t, exec (.backgroundRestoreDone core) s = .next t ∧ (t.coreOf core).restoring = none :=
  ⟨_, takeEvent_taken (f := fun s => s.setCore core { s.coreOf core with restoring := none }) hp, by rw [coreOf_setCore]⟩

/-! ### Thermal displacement and mailbox writes (R32, R67) -/

theorem exec_thermalRankingTable (table : List Nat) :
    ∃ t, exec (.thermalRankingTable core table) s = .next t ∧ (t.coreOf core).ranking = table.take 16 :=
  ⟨_, rfl, by rw [coreOf_setCore]⟩

@[simp] theorem isCool_switchTo (k : Core) : isCool (s.switchTo core) k = isCool s k := by
  rw [isCool, isCool, State.switchTo]
  split <;> rfl

@[simp] theorem isHot_switchTo (k : Core) : isHot (s.switchTo core) k = isHot s k := by
  rw [isHot, isHot, State.switchTo]
  split <;> rfl

/-- A step of CCLIM on the executing core. -/
def stepCclim (hot : Bool) (s : State) : State :=
  if hot then
    if isHot s s.core then
      shrinkCache 65 { s with core := { s.core with cclim := if 2 < s.core.cclim then s.core.cclim - 1 else s.core.cclim } }
    else s
  else if isCool s s.core then
    { s with core := { s.core with cclim := if s.core.cclim < s.core.cclimSet then s.core.cclim + 1 else s.core.cclim } }
  else s

theorem exec_thermalCclimStep (hot : Bool) : exec (.thermalCclimStep core hot) s = .next (s.onCore core (stepCclim hot)) := rfl

/-- What a core's units do depends on the state in which the core executes. -/
theorem onCore_congr {f g : State → State} (h : f (s.switchTo core) = g (s.switchTo core)) : s.onCore core f = s.onCore core g := by
  rw [State.onCore, State.onCore, h]

theorem exec_thermalCclimStep_cool (h : isCool s (s.coreOf core) = true) : ∃ t, exec (.thermalCclimStep core false) s = .next t ∧
    (t.coreOf core).cclim =
      (if (s.coreOf core).cclim < (s.coreOf core).cclimSet then (s.coreOf core).cclim + 1 else (s.coreOf core).cclim) := by
  refine ⟨_, exec_thermalCclimStep false, ?_⟩
  rw [onCore_coreOf]
  all_goals simp only [stepCclim, Bool.false_eq_true, if_false, switchTo_core, isCool_switchTo, h, if_true, switchTo_cur]

theorem exec_thermalCclimStep_notCool (h : isCool s (s.coreOf core) = false) :
    exec (.thermalCclimStep core false) s = .next (s.onCore core id) := by
  rw [exec_thermalCclimStep, onCore_congr (g := id)]
  simp only [stepCclim, Bool.false_eq_true, if_false, switchTo_core, isCool_switchTo, h, id]

theorem exec_thermalCclimStep_hot (h : isHot s (s.coreOf core) = true) :
    exec (.thermalCclimStep core true) s = .next (s.onCore core (fun s => shrinkCache 65
      { s with core := { s.core with cclim := if 2 < s.core.cclim then s.core.cclim - 1 else s.core.cclim } })) := by
  rw [exec_thermalCclimStep, onCore_congr]
  simp only [stepCclim, if_true, switchTo_core, isHot_switchTo, h]

theorem exec_thermalCclimStep_notHot (h : isHot s (s.coreOf core) = false) :
    exec (.thermalCclimStep core true) s = .next (s.onCore core id) := by
  rw [exec_thermalCclimStep, onCore_congr (g := id)]
  simp only [stepCclim, if_true, switchTo_core, isHot_switchTo, h, Bool.false_eq_true, if_false, id]

theorem exec_mailboxCsrWrite {csr : BitVec 12} (value : BitVec 64) (h : csr = 0x042 ∨ csr = 0x043 ∨ csr = 0x044) :
    exec (.mailboxCsrWrite core csr value) s = .next (s.onCore core (fun s => s.csrStore csr value)) := if_pos h

end

/-! ### The mobile record (R68) -/

/-- What becomes of a mobile record on its core. -/
def offerMobile (core slot target : Nat) (s : State) : State :=
  match (cached s.core.tasks).find? (fun u => u.info.slot = slot) with
  | none => s
  | some u =>
    if !mayMove s u then evict s u
    else if acceptsRecord s target u then moveRecord s u target
    else match nextInTable target s.core.ranking with
      | some c => { s with pending := s.pending ++ [Event.mobileRecord core slot c] }
      | none => evict s u

theorem exec_mobileRecord {s : State} {core slot target : Nat} (hp : .mobileRecord core slot target ∈ s.pending) :
    exec (.mobileRecord core slot target) s
      = .next ((taken (.mobileRecord core slot target) s).onCore core (offerMobile core slot target)) :=
  takeEvent_taken (f := fun s => s.onCore core (offerMobile core slot target)) hp

section
variable {v : State} {core slot target : Nat}

theorem offerMobile_gone (h : (cached v.core.tasks).find? (fun r => r.info.slot = slot) = none) : offerMobile core slot target v = v := by
  rw [offerMobile, h]

variable {r : Suspended} (hr : (cached v.core.tasks).find? (fun r => r.info.slot = slot) = some r)
include hr

theorem offerMobile_fixed (hmove : mayMove v r = false) : offerMobile core slot target v = evict v r := by
  simp only [offerMobile, hr, hmove, Bool.not_false, if_true]

theorem offerMobile_accepted (hmove : mayMove v r = true) (haccept : acceptsRecord v target r = true) :
    offerMobile core slot target v = moveRecord v r target := by
  simp only [offerMobile, hr, hmove, haccept, Bool.not_true, Bool.false_eq_true, if_false, if_true]

theorem offerMobile_refused_next {c : Nat} (hmove : mayMove v r = true) (haccept : acceptsRecord v target r = false)
    (hc : nextInTable target v.core.ranking = some c) :
    offerMobile core slot target v = { v with pending := v.pending ++ [.mobileRecord core slot c] } := by
  simp only [offerMobile, hr, hmove, haccept, hc, Bool.not_true, Bool.false_eq_true, if_false]

theorem offerMobile_refused_last (hmove : mayMove v r = true) (haccept : acceptsRecord v target r = false)
    (hend : nextInTable target v.core.ranking = none) : offerMobile core slot target v = evict v r := by
  simp only [offerMobile, hr, hmove, haccept, hend, Bool.not_true, Bool.false_eq_true, if_false]

end

/-! ### Levelling (R69) -/

/-- The visit of a levelling unit to one queue. -/
def visitQueue (s : State) (x : Nat × Nat) : State :=
  match qcbFailure s x.1 with
  | some k => reportCorrupt s x.2 0 8 k (BitVec.ofNat 64 x.1)
  | none => if qMode (readQcb s x.1) ≠ 2 ∨ fieldOf (readQcb s x.1) 76 76 = 1 then s
    else (List.range (qSegs (readQcb s x.1))).foldl (levelSegment x.2 x.1) s

theorem exec_levellingVisit (die : Nat) (s : State) :
    exec (.levellingVisit die) s = .next ((s.levelled.filter (fun x => homeDie x.1 = die)).foldl visitQueue s) := rfl

theorem exec_levellingVisit_none {s : State} {die : Nat} (h : s.levelled.filter (fun x => homeDie x.1 = die) = []) :
    exec (.levellingVisit die) s = .next s := by rw [exec_levellingVisit, h, List.foldl_nil]

theorem exec_levellingVisit_one {s : State} {die : Nat} {x : Nat × Nat} (h : s.levelled.filter (fun x => homeDie x.1 = die) = [x]) :
    exec (.levellingVisit die) s = .next (visitQueue s x) := by rw [exec_levellingVisit, h, List.foldl_cons, List.foldl_nil]

theorem visitQueue_corrupt {s : State} {x : Nat × Nat} {k : Nat} (h : qcbFailure s x.1 = some k) :
    visitQueue s x = reportCorrupt s x.2 0 8 k (BitVec.ofNat 64 x.1) := by rw [visitQueue, h]

theorem visitQueue_levels {s : State} {x : Nat × Nat} (hok : qcbFailure s x.1 = none) (hmode : qMode (readQcb s x.1) = 2)
    (hstop : fieldOf (readQcb s x.1) 76 76 = 0) :
    visitQueue s x = (List.range (qSegs (readQcb s x.1))).foldl (levelSegment x.2 x.1) s := by
  simp only [visitQueue, hok, hmode, hstop, ne_eq, not_true_eq_false, Nat.zero_ne_one, or_self, if_false]

/-! ### The round of reports (R57) -/

theorem exec_reportRound_due {s : State} (h : s.rounds ≤ s.cyc.toNat / 1024) : exec .reportRound s = .next (reportRound s) := if_pos h

theorem exec_reportRound_early {s : State} (h : s.cyc.toNat / 1024 < s.rounds) : exec .reportRound s = .next s :=
  if_neg (Nat.not_le_of_lt h)

/-- Settles O57, event by event. -/
theorem schedulingEvents : Obligations.SchedulingEvents := by
  unfold Obligations.SchedulingEvents
  refine ⟨fun s core serial l hl => ⟨exec_preemptionMessage hl, exec_preemptionAcknowledgement hl, exec_resumptionMessage hl⟩,
    fun s core => ⟨exec_quantumExpiry_over, exec_quantumExpiry_running, fun x p w => exec_stallPromisePassed, exec_backgroundRestore,
      exec_backgroundRestoreDone, exec_thermalRankingTable, exec_thermalCclimStep_cool, exec_thermalCclimStep_notCool,
      exec_thermalCclimStep_hot, exec_thermalCclimStep_notHot, fun csr value => exec_mailboxCsrWrite value, fun slot target hp => ?_⟩,
    fun s die => ⟨exec_levellingVisit_none, fun x k hone hk => ?_, fun x hone hok hmode hstop => ?_⟩,
    fun s => ⟨exec_reportRound_due, exec_reportRound_early⟩⟩
  · intro u v becomes
    have offered {f : State → State} (h : offerMobile core slot target v = f v) : becomes f :=
      (exec_mobileRecord hp).trans (congrArg _ (onCore_congr h))
    refine ⟨fun hgone => offered (offerMobile_gone hgone), fun r hr => ⟨fun hmove => offered (offerMobile_fixed hr hmove),
      fun hmove haccept => offered (offerMobile_accepted hr hmove haccept), fun hmove haccept =>
      ⟨fun c hc => offered (offerMobile_refused_next hr hmove haccept hc),
        fun hend => offered (offerMobile_refused_last hr hmove haccept hend)⟩⟩⟩
  · rw [exec_levellingVisit_one hone, visitQueue_corrupt hk]
  · rw [exec_levellingVisit_one hone, visitQueue_levels hok hmode hstop]

end Sys2Proof.Machine
end

section
/-! The claim about tokens, transfers, delegations and gangs (O58): each event by the condition under which it takes place, and what it
leaves. -/

namespace Sys2Proof.Machine

/-! ### Events that end a wait (R63, R294, R371, R372, R380, R383) -/

section
variable {s : State} {core slot : Nat} {x : TaskInfo} {w : Wait} (hw : slotWait s core slot = some (x, w))
include hw

theorem exec_tokenWake {err : BitVec 24} (hp : .tokenWake core slot err ∈ s.pending) (hopen : (s.coreOf core).closed = false) :
    let u := taken (.tokenWake core slot err) s
    exec (.tokenWake core slot err) s = .next (wakeSlot u core slot (fun _ => wakeOutcome u core x w err)) := by
  show execTokenWake core slot err s = _
  rw [execTokenWake, takeMail_taken hp hopen]
  simp only [taken_slotWait, hw]

theorem exec_timerTokenReady (hp : .timerTokenReady core slot ∈ s.pending)
    (hready : (readyToken s (x.asks core) (fun u => tokKind u = 6) w.tokens).isSome = true) :
    let u := taken (.timerTokenReady core slot) s
    exec (.timerTokenReady core slot) s = .next (wakeSlot u core slot (fun _ => wakeOutcome u core x w 0)) := by
  show execTimerTokenReady core slot s = _
  rw [execTimerTokenReady, takeDue_taken hp (by simp only [hw, hready])]
  simp only [taken_slotWait, hw]

/-- An await.t that has waited AWTO cycles times out, unless one of its tokens is ready by then (R371, R386). -/
theorem exec_awaitTimeout (hp : .awaitTimeout core slot ∈ s.pending) (hlate : awtoOf s core x.serial ≤ s.cyc.toNat - w.t0.toNat) :
    let u := taken (.awaitTimeout core slot) s
    (firstReady u (x.asks core) w.tokens 0 = none →
      exec (.awaitTimeout core slot) s = .next (wakeSlot u core slot (fun w => { w with timedOut := true, isOver := true }))) ∧
    (∀ k err, firstReady u (x.asks core) w.tokens 0 = some (k, err) →
      exec (.awaitTimeout core slot) s = .next (wakeSlot u core slot (fun _ => wakeOutcome u core x w err))) := by
  have taking : exec (.awaitTimeout core slot) s = execAwaitTimeout core slot s := rfl
  rw [execAwaitTimeout, takeDue_taken hp (by simp only [hw, hlate, decide_true])] at taking
  simp only [taken_slotWait, hw] at taking
  exact ⟨fun h => by rw [taking, h], fun k err h => by rw [taking, h]⟩

theorem exec_waituntilTime (hp : .waituntilTime core slot ∈ s.pending) (hdue : w.till.toNat ≤ s.cyc.toNat) :
    exec (.waituntilTime core slot) s
      = .next (wakeSlot (taken (.waituntilTime core slot) s) core slot (fun w => { w with isOver := true })) := by
  show execWaituntilTime core slot s = _
  rw [execWaituntilTime, takeDue_taken hp (by simp only [hw, hdue, decide_true])]

end

/-! ### The retry after a full waiter table (R294, R371, R372) -/

/-- Whether a wake for a slot is on its way. -/
def wakeUnderWay (s : State) (core slot : Nat) : Bool :=
  s.pending.any (fun e => match e with | .tokenWake c k _ => decide (c = core ∧ k = slot) | _ => false)

theorem wakeUnderWay_iff (s : State) (core slot : Nat) : wakeUnderWay s core slot = true ↔ ∃ err, .tokenWake core slot err ∈ s.pending := by
  rw [wakeUnderWay, List.any_eq_true]
  constructor
  · rintro ⟨e, he, hmine⟩
    split at hmine
    · obtain ⟨rfl, rfl⟩ := of_decide_eq_true hmine
      exact ⟨_, he⟩
    · cases hmine
  · rintro ⟨err, herr⟩
    exact ⟨_, herr, decide_eq_true ⟨rfl, rfl⟩⟩

/-- Taking another message leaves the wakes under way. -/
theorem wakeUnderWay_taken (s : State) (core slot : Nat) :
    wakeUnderWay (taken (.waiterTableRetry core slot) s) core slot = wakeUnderWay s core slot := by
  rw [Bool.eq_iff_iff, wakeUnderWay_iff, wakeUnderWay_iff]
  exact exists_congr fun err => List.mem_erase_of_ne (by simp)

/-- Whether nothing but the retry concerns a wait: its task is in no gang, and no other token of it is registered. -/
def waitsAlone (s : State) (core slot : Nat) (x : TaskInfo) : Prop :=
  gangMembers s x = [] ∧ ∀ y ∈ s.waiters, ¬(y.core = core ∧ y.slot = slot)

theorem waitsAlone_iff (s : State) (core slot : Nat) (x : TaskInfo) : waitsAlone s core slot x ↔
    (gangMembers s x).isEmpty ∧ !s.waiters.any (fun y => y.core = core ∧ y.slot = slot) := by
  simp [waitsAlone]

section
variable {s : State} {core slot : Nat} {x : TaskInfo} {w : Wait} (hw : slotWait s core slot = some (x, w))
  (hp : .waiterTableRetry core slot ∈ s.pending) (hdue : w.retry.toNat ≤ s.cyc.toNat)
include hw hp hdue

theorem exec_waiterTableRetry_other (hawait : w.kind ≠ .await) (hawaitT : w.kind ≠ .awaitT) (hawaitAny : w.kind ≠ .awaitAny) :
    exec (.waiterTableRetry core slot) s
      = .next (wakeSlot (taken (.waiterTableRetry core slot) s) core slot (fun w => { w with isOver := true })) := by
  show execWaiterTableRetry core slot s = _
  rw [execWaiterTableRetry, takeDue_taken hp (by simp only [hw, hdue, decide_true])]
  simp only [taken_slotWait, hw]

/-- What the retry of an await does. -/
theorem exec_waiterTableRetry_await (hkind : w.kind = .await ∨ w.kind = .awaitT ∨ w.kind = .awaitAny) :
    let u := taken (.waiterTableRetry core slot) s
    exec (.waiterTableRetry core slot) s = .next (
      if wakeUnderWay u core slot then u
      else if (gangMembers u x).isEmpty ∧ !u.waiters.any (fun y => y.core = core ∧ y.slot = slot) then
        wakeSlot (mapStarted u core x.serial x.tid (fun t => { t with waitFrom := some w.t0 }) id) core slot
          (fun w => { w with kind := .tableFull, isOver := true })
      else retryMember u core slot x w) := by
  show execWaiterTableRetry core slot s = _
  rw [execWaiterTableRetry, takeDue_taken hp (by simp only [hw, hdue, decide_true])]
  simp only [taken_slotWait, hw]
  obtain hk | hk | hk := hkind <;> rw [hk] <;> rfl

theorem exec_waiterTableRetry_wakes (hkind : w.kind = .await ∨ w.kind = .awaitT ∨ w.kind = .awaitAny)
    (hwake : ∃ err, .tokenWake core slot err ∈ s.pending) :
    exec (.waiterTableRetry core slot) s = .next (taken (.waiterTableRetry core slot) s) := by
  rw [exec_waiterTableRetry_await hw hp hdue hkind, if_pos]
  rwa [wakeUnderWay_taken, wakeUnderWay_iff]

variable (hkind : w.kind = .await ∨ w.kind = .awaitT ∨ w.kind = .awaitAny) (hno : ∀ err, .tokenWake core slot err ∉ s.pending)
include hkind hno

theorem exec_waiterTableRetry_alone (halone : waitsAlone (taken (.waiterTableRetry core slot) s) core slot x) :
    exec (.waiterTableRetry core slot) s = .next (wakeSlot
      (mapStarted (taken (.waiterTableRetry core slot) s) core x.serial x.tid (fun t => { t with waitFrom := some w.t0 }) id) core slot
      (fun w => { w with kind := .tableFull, isOver := true })) := by
  rw [exec_waiterTableRetry_await hw hp hdue hkind, if_neg, if_pos ((waitsAlone_iff _ _ _ _).mp halone)]
  rw [wakeUnderWay_taken, wakeUnderWay_iff]
  exact fun ⟨err, herr⟩ => hno err herr

theorem exec_waiterTableRetry_registered (halone : ¬waitsAlone (taken (.waiterTableRetry core slot) s) core slot x) :
    exec (.waiterTableRetry core slot) s = .next (retryMember (taken (.waiterTableRetry core slot) s) core slot x w) := by
  rw [exec_waiterTableRetry_await hw hp hdue hkind, if_neg, if_neg (mt (waitsAlone_iff _ _ _ _).mpr halone)]
  rw [wakeUnderWay_taken, wakeUnderWay_iff]
  exact fun ⟨err, herr⟩ => hno err herr

end

/-! ### Barrier timeouts, registrations and queue wakes (R294, R366, R380) -/

section
variable {s : State} {core slot : Nat} {x : TaskInfo} {w : Wait} (hw : slotWait s core slot = some (x, w))
include hw

/-- A barrier arrival whose time has run out, unless its token is ready by then (R380). -/
theorem exec_barrierTimeout {tok dl : Word} (hp : .barrierTimeout core slot ∈ s.pending) (harrival : x.arrival = some (tok, dl))
    (hdue : dl.toNat ≤ s.cyc.toNat) :
    let u := taken (.barrierTimeout core slot) s
    (tokenReady u (x.asks core) tok = none → exec (.barrierTimeout core slot) s = .next (wakeSlot
      (mapStarted u core x.serial x.tid (fun t => { expireBarrier t tok with due := some (.barrierTimeout, 0, tok) }) id) core slot
      (fun w => { w with timedOut := true, isOver := true }))) ∧
    (∀ e, tokenReady u (x.asks core) tok = some e →
      exec (.barrierTimeout core slot) s = .next (wakeSlot u core slot (fun _ => wakeOutcome u core x w e))) := by
  have taking : exec (.barrierTimeout core slot) s = execBarrierTimeout core slot s := rfl
  rw [execBarrierTimeout, takeDue_taken hp (by simp only [hw, harrival, hdue, decide_true])] at taking
  simp only [taken_slotWait, hw, harrival] at taking
  exact ⟨fun h => by rw [taking, h]; rfl, fun e h => by rw [taking, h]; rfl⟩

/-- The home of a token answers a registration at once where the token is ready, and notes the task where it is not. -/
theorem exec_tokenRegistration {home : Nat} {token : Word} (hp : .tokenRegistration home token core slot ∈ s.pending)
    (hopen : (s.coreOf home).closed = false) :
    let u := taken (.tokenRegistration home token core slot) s
    (∀ e, tokenReady u (x.asks core) token = some e → exec (.tokenRegistration home token core slot) s
      = .next (u.sendStamped (dieOf home) (dieOf core) (some (.tokenWake core slot e)))) ∧
    (tokenReady u (x.asks core) token = none → exec (.tokenRegistration home token core slot) s
      = .next (addWaiter u ⟨.token token, x.part, core, slot, 257, none⟩ false)) := by
  have taking : exec (.tokenRegistration home token core slot) s = execTokenRegistration home token core slot s := rfl
  rw [execTokenRegistration, takeMail_taken hp hopen] at taking
  simp only [taken_slotWait, hw] at taking
  exact ⟨fun e h => by rw [taking, h], fun h => by rw [taking, h]⟩

end

theorem mem_addWaiter_back (s : State) (w : Waiter) : w ∈ (addWaiter s w false).waiters := by simp [addWaiter]

theorem exec_queueWaiterWake {s : State} {core slot : Nat} (hp : .queueWaiterWake core slot ∈ s.pending)
    (hopen : (s.coreOf core).closed = false) : exec (.queueWaiterWake core slot) s
      = .next (wakeSlot (taken (.queueWaiterWake core slot) s) core slot (fun w => { w with isOver := true })) :=
  takeMail_taken (f := fun s => wakeSlot s core slot (fun w => { w with isOver := true })) hp hopen

/-! ### Delegations and active messages (R279) -/

section
variable {s : State} {core issuer seq part : Nat} {priv : Bool} {block : List Word}

@[simp] theorem taken_routineRefusal (e : Event) : routineRefusal (taken e s) core block = routineRefusal s core block := rfl

theorem exec_delegation_accepted (hp : .delegation core issuer seq part priv block ∈ s.pending)
    (hok : routineRefusal s core block = none) (hroom : (s.coreOf core).routines.length < 16) :
    exec (.delegation core issuer seq part priv block) s = .next (acceptRoutine
      (taken (.delegation core issuer seq part priv block) s) core ⟨issuer, some seq, part, priv, block⟩) := by
  show execDelegation core issuer seq part priv block s = _
  rw [execDelegation, takeDue_taken hp (by simp [hroom])]
  simp only [taken_routineRefusal, hok]

theorem exec_delegation_refused {c : Cause} {k : Nat} (hp : .delegation core issuer seq part priv block ∈ s.pending)
    (hrefused : routineRefusal s core block = some (c, k)) :
    let u := taken (.delegation core issuer seq part priv block) s
    exec (.delegation core issuer seq part priv block) s
      = .next { u with pending := u.pending ++ [.delegationReply issuer seq (c.code + k * 256)] } := by
  show execDelegation core issuer seq part priv block s = _
  rw [execDelegation, takeDue_taken hp (by simp [hrefused])]
  simp only [taken_routineRefusal, hrefused]

theorem exec_activeMessage_accepted (hp : .activeMessage core issuer part priv block ∈ s.pending)
    (hok : routineRefusal s core block = none) (hroom : (s.coreOf core).routines.length < 16) :
    exec (.activeMessage core issuer part priv block) s = .next (acceptRoutine
      (taken (.activeMessage core issuer part priv block) s) core ⟨issuer, none, part, priv, block⟩) := by
  show execActiveMessage core issuer part priv block s = _
  rw [execActiveMessage, takeDue_taken hp (by simp [hroom])]
  simp only [taken_routineRefusal, hok]

theorem exec_activeMessage_refused {c : Cause} {k : Nat} (hp : .activeMessage core issuer part priv block ∈ s.pending)
    (hrefused : routineRefusal s core block = some (c, k)) :
    exec (.activeMessage core issuer part priv block) s = .next (report (taken (.activeMessage core issuer part priv block) s)
      { code := c.code, sub := k, source := 9, core := core, part := part, epc := block.headD 0 }) := by
  show execActiveMessage core issuer part priv block s = _
  rw [execActiveMessage, takeDue_taken hp (by simp [hrefused])]
  simp only [taken_routineRefusal, hrefused]

/-- What only messages changed leaves the cores. -/
theorem State.OnlyMessages.coreOf {t : State} (h : s.OnlyMessages t) (c : Nat) : t.coreOf c = s.coreOf c := by
  rw [State.coreOf_eq, State.coreOf_eq, h.cur, h.core, h.others]

/-- A reply is kept at its core (R366). -/
theorem mem_replies_signalReply (s : State) (core seq : Nat) (err : BitVec 24) :
    (seq, err) ∈ ((signalReply s core seq err).coreOf core).replies := by
  rw [signalReply, (wakeWaiters_onlyMessages _ _ _).coreOf, coreOf_setCore]
  exact List.mem_append_right _ (List.mem_singleton_self _)

theorem exec_delegationReply (err : Nat) (hp : .delegationReply core seq err ∈ s.pending) (hopen : (s.coreOf core).closed = false) :
    ∃ t, exec (.delegationReply core seq err) s = .next t ∧ (seq, BitVec.ofNat 24 err) ∈ (t.coreOf core).replies :=
  ⟨_, takeMail_taken (f := fun s => signalReply s core seq (BitVec.ofNat 24 err)) hp hopen, mem_replies_signalReply _ _ _ _⟩

theorem exec_serviceRoutineTimeout {v : Service} (hp : .serviceRoutineTimeout core ∈ s.pending) (hv : (s.coreOf core).service = some v)
    (hlate : (s.coreOf core).qntm.toNat ≤ s.cyc.toNat - v.start.toNat) (hasked : (s.coreOf core).asked = false) :
    exec (.serviceRoutineTimeout core) s
      = .next ((taken (.serviceRoutineTimeout core) s).onCore core (fun s => failRoutine s (exc .awaitTimeout 0 0))) := by
  show execServiceRoutineTimeout core s = _
  rw [execServiceRoutineTimeout, takeDue_taken hp (by simp [hv, hlate, hasked])]

end

/-! ### Gangs (R70, R194) -/

/-- Whether a join finds a place in the gang that it names. -/
def joinFits (s u : State) (core serial leaderTid : Nat) (j : GangJoin) (l : Launch) : Prop :=
  (tasksOf (s.coreOf core)).contains (serial, leaderTid) = true ∧ l.cores.contains j.core = true ∧ (s.coreOf core).closed = false ∧
    (joinsFor u core serial leaderTid).any (fun i => i.core = j.core ∧ (i.place u).isSome ∧ i.place u = j.place u) = false ∧
    leads (s.coreOf core) serial leaderTid j.core = false

section
variable {s : State} {core member seq serial leaderTid index : Nat} {x : TaskInfo} {l : Launch}
  (hp : .gangJoin core member seq serial leaderTid index ∈ s.pending) (hx : joiner (s.coreOf member) serial seq = some x)
  (hl : s.launchOf serial = some l)
include hp hx hl

theorem exec_gangJoin_joins
    (hfits : joinFits s (taken (.gangJoin core member seq serial leaderTid index) s) core serial leaderTid
      ⟨serial, leaderTid, index, member, x.tid, seq⟩ l) :
    let u := taken (.gangJoin core member seq serial leaderTid index) s
    exec (.gangJoin core member seq serial leaderTid index) s = .next (formGang (u.setCore core { u.coreOf core with
      joins := (u.coreOf core).joins ++ [⟨serial, leaderTid, index, member, x.tid, seq⟩] }) core serial leaderTid) := by
  show execGangJoin core member seq serial leaderTid index s = _
  rw [execGangJoin, takeEvent_taken hp]
  obtain ⟨htask, hcore, hopen, hfree, hleads⟩ := hfits
  simp only [taken_coreOf, taken_launchOf, hx, hl, htask, hcore, hopen, hfree, hleads, Bool.not_true, Bool.or_self, Bool.false_eq_true,
    or_self, if_false]

theorem exec_gangJoin_fails
    (hfits : ¬joinFits s (taken (.gangJoin core member seq serial leaderTid index) s) core serial leaderTid
      ⟨serial, leaderTid, index, member, x.tid, seq⟩ l) :
    exec (.gangJoin core member seq serial leaderTid index) s
      = .next (failJoin (taken (.gangJoin core member seq serial leaderTid index) s) ⟨serial, leaderTid, index, member, x.tid, seq⟩) := by
  show execGangJoin core member seq serial leaderTid index s = _
  rw [execGangJoin, takeEvent_taken hp]
  simp only [taken_coreOf, taken_launchOf, hx, hl]
  refine congrArg _ (if_pos (by_contra fun hok => hfits ?_))
  simp only [not_or, Bool.not_eq_true, Bool.not_eq_false', Bool.or_eq_false_iff] at hok
  exact hok

end

section
variable {s : State} {core : Nat}

theorem exec_gangFormationTimeout (hp : .gangFormationTimeout core ∈ s.pending) (hlate : expiredLeaders s core ≠ []) :
    let u := taken (.gangFormationTimeout core) s
    exec (.gangFormationTimeout core) s
      = .next (failOrphans ((expiredLeaders u core).foldl (fun s l => failFormation s core l) u) core) := by
  show execGangFormationTimeout core s = _
  rw [execGangFormationTimeout, takeDue_taken hp (by simp [hlate])]

/-- A chunk takes its slot of the ring, or is discarded. -/
theorem exec_gangOperandMessage {chunk : List Word} (hp : .gangOperandMessage core chunk ∈ s.pending) :
    let u := taken (.gangOperandMessage core chunk) s
    exec (.gangOperandMessage core chunk) s = .next (
      if (s.coreOf core).containing.isSome || !chunkWanted s core chunk then u
      else u.setCore core { s.coreOf core with ring := (s.coreOf core).ring ++ [chunk] }) := by
  show execGangOperandMessage core chunk s = _
  rw [execGangOperandMessage, takeEvent_taken hp]
  exact congrArg _ (apply_ite id _ _ _)

theorem exec_gangOperandMessage_wanted {chunk : List Word} (hp : .gangOperandMessage core chunk ∈ s.pending)
    (hcore : (s.coreOf core).containing = none) (hchunk : chunkWanted s core chunk = true) :
    ∃ t, exec (.gangOperandMessage core chunk) s = .next t ∧ (t.coreOf core).ring = (s.coreOf core).ring ++ [chunk] :=
  ⟨_, exec_gangOperandMessage hp, by simp [hcore, hchunk]⟩

theorem exec_gangOperandMessage_discarded {chunk : List Word} (hp : .gangOperandMessage core chunk ∈ s.pending)
    (h : ¬((s.coreOf core).containing = none ∧ chunkWanted s core chunk = true)) :
    exec (.gangOperandMessage core chunk) s = .next (taken (.gangOperandMessage core chunk) s) := by
  rw [exec_gangOperandMessage hp, if_pos]
  rw [Bool.or_eq_true, Bool.not_eq_true', Option.isSome_iff_ne_none]
  by_contra hno
  exact h ⟨by_contra fun hc => hno (.inl hc), Bool.eq_true_of_not_eq_false fun hc => hno (.inr hc)⟩

/-! ### What lands in a register, and the channels (R155, R261, R267, R327, R377) -/

theorem exec_vamoElementArrival {serial tid : Nat} (hp : .vamoElementArrival core serial tid ∈ s.pending) :
    exec (.vamoElementArrival core serial tid) s = .next ((taken (.vamoElementArrival core serial tid) s).onCore core (fun s =>
      let t := landVamoElement s serial tid
      if t.core.vamos.any (fun v => v.serial = serial ∧ v.tid = tid) then
        { t with pending := t.pending ++ [.vamoElementArrival core serial tid] } else t)) := by
  show execVamoElementArrival core serial tid s = _
  rw [execVamoElementArrival, takeEvent_taken hp]

theorem exec_ldaDataArrival {id : Nat} (hp : .ldaDataArrival core id ∈ s.pending) : exec (.ldaDataArrival core id) s
    = .next ((taken (.ldaDataArrival core id) s).onCore core (fun s => landLoad s (BitVec.ofNat 32 id))) := by
  show execLdaDataArrival core id s = _
  rw [execLdaDataArrival, takeEvent_taken hp]

theorem exec_transferComplete {ch id : Nat} (hp : .transferComplete core ch id ∈ s.pending)
    (awake : (transferPans s core ch id).all (fun x => panAwake s x.1 x.2) = true) :
    exec (.transferComplete core ch id) s = .next (transferComplete core ch id (taken (.transferComplete core ch id) s)) :=
  takeWhenAwake_taken (due := fun _ => true) (f := transferComplete core ch id) hp rfl awake

theorem exec_channelCellResume_sealed {ch : Nat} (h : (s.coreOf core).closed = true) : exec (.channelCellResume core ch) s = .next s :=
  if_pos h

theorem exec_channelCellResume {ch : Nat} (hp : .channelCellResume core ch ∈ s.pending) (h : (s.coreOf core).closed = false) :
    exec (.channelCellResume core ch) s = .next (resumeChannel core ch (taken (.channelCellResume core ch) s)) :=
  (if_neg (by rw [h]; exact Bool.false_ne_true)).trans (takeEvent_next (resumeChannel core ch) hp)

theorem resumeChannel_unparked (s : State) (core : Nat) (ch : Fin 4) :
    ∀ x ∈ ((resumeChannel core ch.val s).coreOf core).chans[ch].out, x.parked = false := by
  have resumed : ((resumeChannel core ch.val s).coreOf core).chans[ch].out
      = (s.coreOf core).chans[ch].out.map (fun t => { t with parked := false }) := by
    rw [resumeChannel, onCore_coreOf] <;> simp [switchTo_cur]
  rw [resumed]
  intro x hx
  obtain ⟨t, -, rfl⟩ := List.mem_map.mp hx
  rfl

theorem exec_deferredArrival {ch : Fin 4} {id : Nat} {x : Transfer} {rest : List Transfer} {va tok : Word} {par : Bool} {gen : BitVec 16}
    (hp : .deferredArrival core ch.val id ∈ s.pending) (hout : (s.coreOf core).chans[ch].out = x :: rest) (hid : x.id = BitVec.ofNat 32 id)
    (hjob : x.job = .arrive va par gen tok) (hpark : x.parked = false) : exec (.deferredArrival core ch.val id) s
      = .next ((taken (.deferredArrival core ch.val id) s).onCore core (fun s => runArrival s ch x va par gen tok)) := by
  have first : findTransfer ((taken (.deferredArrival core ch.val id) s).switchTo core) ch (BitVec.ofNat 32 id) = some x := by
    rw [findTransfer, switchTo_core, taken_coreOf, hout]
    simp [hid]
  show execDeferredArrival core ch.val id s = _
  rw [execDeferredArrival, takeDue_taken hp]
  · refine congrArg _ (onCore_congr ?_)
    simp only [ch.isLt, dite_true, first, hjob, hpark, Bool.false_eq_true, if_false]
  · have out : (s.coreOf core).chans[ch.val].out = x :: rest := hout
    simp [out, hid]

end

/-! ### Wire barriers (R378) -/

theorem lineOf_line (s : State) (n : Nat) : (lineOf s n).line = n := by
  unfold lineOf
  cases h : s.lines.find? (fun l => l.line = n) with
  | none => rfl
  | some l => simpa using List.find?_some h

/-- A line record that is set is the line's record. -/
theorem lineOf_setLine (s : State) (l : WireLine) : lineOf (setLine s l) l.line = l := by
  unfold lineOf setLine
  dsimp only
  split
  · rename_i hany
    obtain ⟨k, hk, hkl⟩ := List.any_eq_true.mp hany
    have found : ∀ ls : List WireLine, k ∈ ls →
        (ls.map (fun k => if k.line = l.line then l else k)).find? (fun m => m.line = l.line) = some l := by
      intro ls
      induction ls with
      | nil => exact fun h => absurd h List.not_mem_nil
      | cons m ls ih =>
        intro hmem
        by_cases hm : m.line = l.line
        · simp [hm]
        · have hrest : k ∈ ls := (List.mem_cons.mp hmem).resolve_left fun h => hm (h ▸ of_decide_eq_true hkl)
          simp [hm, ih hrest]
    rw [found _ hk, Option.getD_some]
  · rename_i hnone
    have missing : s.lines.find? (fun k => k.line = l.line) = none := by
      rw [List.find?_eq_none]
      exact fun k hk hkl => hnone (List.any_eq_true.mpr ⟨k, hk, hkl⟩)
    rw [List.find?_append, missing]
    simp

/-- The record of a line whose phase ends. -/
def endedPhase (l : WireLine) : WireLine :=
  { l with phase := l.phase + 1, arrived := [], released := [false, true].filter (fun p => l.arrived.any (fun a => a.2 = p)) }

theorem mem_endedPhase_released (l : WireLine) (p : Bool) : p ∈ (endedPhase l).released ↔ ∃ a ∈ l.arrived, a.2 = p := by
  cases p <;> simp [endedPhase]

theorem wakeBarriers_onlyMessages (s : State) : s.OnlyMessages (wakeBarriers s) := wakeWaiters_onlyMessages s _ _

theorem State.OnlyMessages.lineOf {s t : State} (h : s.OnlyMessages t) (n : Nat) : lineOf t n = Sys2Proof.Machine.lineOf s n := by
  rw [h.rest]
  rfl

theorem exec_wireBarrierRelease {s : State} {line : Nat} (hp : .wireBarrierRelease line ∈ s.pending) (harrived : (lineOf s line).arrived ≠ [])
    (hall : ∀ e ∈ enrolled s, e.1 = line → (lineOf s line).hasArrived e.2 = true) :
    exec (.wireBarrierRelease line) s
      = .next (wakeBarriers (setLine (taken (.wireBarrierRelease line) s) (endedPhase (lineOf s line)))) := by
  refine (takeEvent_next _ hp).trans (congrArg _ (if_pos ⟨?_, ?_⟩))
  · simpa [lineOf] using harrived
  · refine List.all_eq_true.mpr fun e he => ?_
    obtain ⟨hmem, hline⟩ := List.mem_filter.mp he
    exact hall e hmem (of_decide_eq_true hline)

theorem lineOf_wireBarrierRelease (s : State) (l : WireLine) : lineOf (wakeBarriers (setLine s (endedPhase l))) l.line = endedPhase l := by
  rw [(wakeBarriers_onlyMessages _).lineOf]
  exact lineOf_setLine s (endedPhase l)

/-! ### Posted signals (R383) -/

section
variable {s : State} {core : Nat} {token epc : Word} {serial tid : Nat} (hp : .postedSignalRefused core token epc serial tid ∈ s.pending)
include hp

theorem exec_postedSignalRefused_unknown
    (h : (s.coreOf core).posted.find? (fun p => p.token = token ∧ p.pc = epc ∧ p.serial = serial ∧ p.tid = tid) = none) :
    exec (.postedSignalRefused core token epc serial tid) s = .next (taken (.postedSignalRefused core token epc serial tid) s) := by
  show execPostedSignalRefused core token epc serial tid s = _
  rw [execPostedSignalRefused, takeEvent_taken hp]
  simp only [taken_coreOf, h]

theorem exec_postedSignalRefused_reported {p : Posted}
    (h : (s.coreOf core).posted.find? (fun p => p.token = token ∧ p.pc = epc ∧ p.serial = serial ∧ p.tid = tid) = some p) :
    let u := taken (.postedSignalRefused core token epc serial tid) s
    exec (.postedSignalRefused core token epc serial tid) s
      = .next (report (u.setCore core { u.coreOf core with posted := (u.coreOf core).posted.erase p })
          { code := Cause.invalidToken.code, sub := 2, source := 11, lid := p.lid, tid := tid, core := core, part := p.part,
            epc := epc, eaddr := token, tag := p.tag }) := by
  show execPostedSignalRefused core token epc serial tid s = _
  rw [execPostedSignalRefused, takeEvent_taken hp]
  simp only [taken_coreOf, h]

end

/-- Settles O58, event by event. -/
theorem tokenEvents : Obligations.TokenEvents := by
  unfold Obligations.TokenEvents
  refine ⟨fun s core slot x w hw => ?_, fun s core slot => exec_queueWaiterWake, fun s core issuer seq part priv block => ?_,
    fun s core member seq serial leaderTid index hp x l hx hl => ⟨exec_gangJoin_joins hp hx hl, exec_gangJoin_fails hp hx hl⟩,
    fun s core => ?_, fun s line hp harrived hall => ?_, fun s core token epc serial tid hp =>
      ⟨exec_postedSignalRefused_unknown hp, fun p => exec_postedSignalRefused_reported hp⟩⟩
  · intro ends
    refine ⟨fun err => exec_tokenWake hw, exec_timerTokenReady hw, exec_awaitTimeout hw, exec_waituntilTime hw, fun hp hdue =>
      ⟨exec_waiterTableRetry_other hw hp hdue, fun hkind => ⟨exec_waiterTableRetry_wakes hw hp hdue hkind, fun hno =>
        ⟨exec_waiterTableRetry_alone hw hp hdue hkind hno, exec_waiterTableRetry_registered hw hp hdue hkind hno⟩⟩⟩,
      fun tok dl => exec_barrierTimeout hw, fun home token hp hopen => ?_⟩
    obtain ⟨ready, waits⟩ := exec_tokenRegistration hw hp hopen
    exact ⟨ready, fun h => ⟨_, waits h, _, mem_addWaiter_back _ _, rfl, rfl, rfl⟩⟩
  · exact ⟨fun hp => ⟨exec_delegation_accepted hp, fun c k => exec_delegation_refused hp⟩, fun hp =>
      ⟨exec_activeMessage_accepted hp, fun c k => exec_activeMessage_refused hp⟩, exec_delegationReply,
      fun v => exec_serviceRoutineTimeout⟩
  · exact ⟨exec_gangFormationTimeout, fun chunk hp =>
      ⟨exec_gangOperandMessage_wanted hp, exec_gangOperandMessage_discarded hp⟩, fun serial tid => exec_vamoElementArrival,
      fun id => exec_ldaDataArrival, fun ch id => exec_transferComplete, fun ch _ => exec_channelCellResume_sealed,
      fun ch hp hopen => ⟨_, exec_channelCellResume hp hopen, resumeChannel_unparked _ core ch⟩, fun well => rfl,
      fun ch id x rest va tok par gen => exec_deferredArrival⟩
  · have ended := lineOf_wireBarrierRelease (taken (.wireBarrierRelease line) s) (lineOf s line)
    rw [lineOf_line] at ended
    refine ⟨_, exec_wireBarrierRelease hp harrived hall, ?_⟩
    rw [ended]
    exact ⟨rfl, rfl, mem_endedPhase_released (lineOf s line)⟩

end Sys2Proof.Machine
end

section
/-! SUPPORT. What a read leaves: every register set, but for the clock that a load of the executing party notes (R237, R244, R259). -/

namespace Sys2Proof.Machine

/-! ### Writes of homes and records of devices (R287, R290, R299, R396) -/

theorem fresh_keeps (s : State) : s.Keeps s.fresh := ⟨rfl, fun _ => rfl, id⟩

theorem setFull_keeps (s : State) (l : List Nat) : s.Keeps { s with full := l } := ⟨rfl, fun _ => rfl, id⟩

theorem setRdc_keeps (s : State) (l : List RdcLine) : s.Keeps { s with rdc := l } := ⟨rfl, fun _ => rfl, id⟩

theorem count_keeps (s : State) (k : Fin 8) (n : Nat) : s.Keeps (s.count k n) := ⟨rfl, fun _ => rfl, id⟩

/-- Bytes that also enter the persist domain (R225, R252). -/
theorem persistBytes_keeps (s : State) (pa : Nat) (bs : List Byte) (l : List Nat) :
    s.Keeps { s with persisted := memWriteBytes s.persisted pa bs, pbuf := l } :=
  .of_same rfl rfl rfl fun ⟨hmem, hctl, hpad, hpersisted⟩ => ⟨hmem, hctl, hpad, memWriteBytes_wf _ _ hpersisted⟩

theorem homeWrite_keeps (s : State) (pa : Nat) (bs : List Byte) : s.Keeps (homeWrite s pa bs) := by
  unfold homeWrite
  dsimp only
  split
  · exact (physWrite_keeps s pa bs).trans (persistBytes_keeps _ pa bs _)
  · exact physWrite_keeps s pa bs

theorem writeQcb_keeps (s : State) (pa q : Nat) : s.Keeps (writeQcb s pa q) := by
  unfold writeQcb
  dsimp only
  split
  · exact (physWrite_keeps s pa _).trans (persistBytes_keeps _ pa _ _)
  · exact physWrite_keeps s pa _

theorem setSegCounts_keeps (s : State) (part q seg head tail : Nat) : s.Keeps (setSegCounts s part q seg head tail) := by
  unfold setSegCounts
  split
  · exact (touch_keeps s _ _ _ _).trans (homeWrite_keeps _ _ _)
  · exact .refl s

theorem writePieces_keeps (piece : Nat) (s : State) (l : List Nat) (bs : List Byte) : s.Keeps (writePieces piece s l bs) := by
  induction l generalizing s bs with
  | nil => exact .refl s
  | cons pa l ih => exact (homeWrite_keeps s pa _).trans (ih _ _)

theorem wakeDequeuer_keeps (s : State) (qpa : Nat) : s.Keeps (wakeDequeuer s qpa) := by
  unfold wakeDequeuer
  split
  · exact .refl s
  · exact (writeQcb_keeps _ _ _).after ⟨rfl, fun _ => rfl, id⟩

theorem enqueueAt_keeps (s : State) (part qpa : Nat) (slot : List Nat) (seg : Option Nat) (elem : List Byte) :
    s.Keeps (enqueueAt s part qpa slot seg elem) := by
  unfold enqueueAt
  refine (wakeDequeuer_keeps _ qpa).after ((setFull_keeps _ _).after ((writePieces_keeps _ _ slot elem).after ?_))
  split
  · exact (setSegCounts_keeps _ _ _ _ _ _).after (writeQcb_keeps s qpa _)
  · exact writeQcb_keeps s qpa _

theorem offerRecord_keeps {s t : State} {part core : Nat} {qva : Word} {elem : List Byte} (h : offerRecord s part core qva elem = .taken t) :
    s.Keeps t := by
  unfold offerRecord at h
  dsimp only at h
  repeat' split at h
  all_goals cases h
  exact ((enqueueAt_keeps s _ _ _ _ _).trans (touch_keeps _ _ _ _ _)).trans (touch_keeps _ _ _ _ _)

theorem logRecord_keeps (s : State) (r : List Word) : s.Keeps (logRecord s r) := ⟨rfl, fun _ => rfl, id⟩

theorem reportError_keeps (s : State) (part core : Nat) (rec : List Word) : s.Keeps (reportError s part core rec) := by
  unfold reportError
  refine (logRecord_keeps s rec).trans ?_
  dsimp only
  split
  · exact offerRecord_keeps ‹_›
  · exact (touch_keeps _ _ _ _ _).trans (writeQcb_keeps _ _ _)
  · exact logRecord_keeps _ _
  · exact .refl _

theorem report_keeps (s : State) (e : ErrInfo) : s.Keeps (report s e) := reportError_keeps s e.part e.core _

theorem reportCorrupt_keeps (s : State) (part core source sub : Nat) (qva : Word) : s.Keeps (reportCorrupt s part core source sub qva) :=
  report_keeps s _

theorem produceRecord_keeps (s : State) (part mode core : Nat) (rec : List Word) : s.Keeps (produceRecord s part mode core rec) := by
  unfold produceRecord
  split
  · exact offerRecord_keeps ‹_›
  · exact ⟨rfl, fun _ => rfl, id⟩
  · exact (logRecord_keeps s rec).trans (reportCorrupt_keeps _ _ _ _ _ _)
  · exact logRecord_keeps s rec

theorem countMigration_keeps (s : State) (part : Nat) (va : Word) (peer : Nat) (pte : Word) : s.Keeps (countMigration s part va peer pte) := by
  unfold countMigration
  split
  · exact .refl s
  · dsimp only
    split
    · exact (produceRecord_keeps _ _ _ _ _).after ⟨rfl, fun _ => rfl, id⟩
    · exact ⟨rfl, fun _ => rfl, id⟩

/-! ### Reductions and stores that a read orders (R235, R249) -/

theorem combineOne_keeps (s : State) (c : Collected) : s.Keeps (combineOne s c) := by
  unfold combineOne
  dsimp only
  split
  · exact blame_keeps s _ _ _ _
  · split
    · exact .refl s
    · split
      · exact onCore_keeps s _ fun u => (endResvBy_keeps u _ _ _ _ _).trans (homeWrite_keeps _ _ _)
      · exact .refl s

theorem combineAll_keeps (k : Nat) (s : State) (l : List Collected) : s.Keeps (combineAll k s l) := by
  induction k generalizing s l with
  | zero => exact .refl s
  | succ k ih =>
    cases l with
    | nil => exact .refl s
    | cons r l => exact (ih _ _).after ((combineOne_keeps _ _).after (fresh_keeps s))

theorem combineWhere_keeps (p : Collected → Bool) (s : State) : s.Keeps (combineWhere p s) := by
  unfold combineWhere
  split
  · exact .refl s
  · refine (combineAll_keeps _ _ _).after (.of_others rfl rfl _ (fun _ => ?_) rfl id)
    exact ⟨rfl, rfl⟩

theorem publishWhere_keeps (s : State) (sel : Buffered → Bool) : s.Keeps (s.publishWhere sel) := by
  unfold State.publishWhere
  exact (acceptAll_keeps _ _).after ((sendAll_keeps _ _).after ⟨rfl, fun _ => rfl, id⟩)

theorem passOther_keeps (s : State) (vec : Bool) (pa n : Nat) : s.Keeps (s.passOther vec pa n) := by
  unfold State.passOther
  dsimp only
  split
  · exact publishWhere_keeps s _
  · exact .refl s

/-! ### Caches (R220, R222, R223) -/

theorem fillL1_keeps (s : State) (key : Nat) : s.Keeps (fillL1 s key) := by
  unfold fillL1
  dsimp only
  split
  · exact ⟨rfl, fun _ => rfl, id⟩
  · split
    · exact ⟨rfl, fun _ => rfl, id⟩
    · exact (combineWhere_keeps _ _).after ⟨rfl, fun _ => rfl, id⟩

theorem lookL1_keeps (s : State) (who : Loader) (hold : Bool) (key : Nat) : s.Keeps (lookL1 s who hold key) := by
  unfold lookL1
  split
  · exact .refl s
  · dsimp only
    split
    · exact (count_keeps s 6 1).trans (fillL1_keeps _ key)
    · exact count_keeps s 6 1

/-- What a cache line that goes changes: lines of RDCs and L1s. -/
structure State.OnlyLines (s t : State) : Prop where
  core : t.core = { s.core with l1 := t.core.l1 }
  others : ∃ f : Parked → Parked, (∀ p, (f p).id = p.id ∧ (f p).ctx = p.ctx) ∧ t.others = s.others.map f
  rest : t = { s with core := t.core, others := t.others, rdc := t.rdc }

namespace State.OnlyLines
variable {s t u : State}

theorem refl (s : State) : s.OnlyLines s := ⟨rfl, ⟨id, fun _ => ⟨rfl, rfl⟩, (List.map_id _).symm⟩, rfl⟩

theorem trans (h : s.OnlyLines t) (g : t.OnlyLines u) : s.OnlyLines u := by
  obtain ⟨hcore, ⟨f, hf, hothers⟩, hrest⟩ := h
  obtain ⟨gcore, ⟨k, hk, gothers⟩, grest⟩ := g
  refine ⟨gcore.trans (by rw [hcore]), ⟨k ∘ f, fun p => ⟨(hk _).1.trans (hf p).1, (hk _).2.trans (hf p).2⟩, ?_⟩,
    grest.trans (by rw [hrest])⟩
  rw [gothers, hothers, List.map_map]

theorem keeps (h : s.OnlyLines t) : s.Keeps t := by
  obtain ⟨-, ⟨f, hf, hothers⟩, hrest⟩ := h
  exact .of_others (by rw [hrest]) (by rw [hrest]) f hf hothers (by rw [hrest]; exact id)

end State.OnlyLines

theorem dropRdc_onlyLines (s : State) (l : RdcLine) : s.OnlyLines (dropRdc s l) := by
  unfold dropRdc dropFromL1s
  dsimp only
  refine ⟨?_, ⟨_, fun p => ?_, rfl⟩, rfl⟩
  · split <;> rfl
  · split <;> exact ⟨rfl, rfl⟩

theorem dropFabricLines_onlyLines (s : State) (die part : Nat) : s.OnlyLines (dropFabricLines s die part) :=
  List.foldlRecOn _ dropRdc (.refl s) fun t h l _ => h.trans (dropRdc_onlyLines t l)

theorem fillRdc_keeps (s : State) (l : RdcLine) : s.Keeps (fillRdc s l) := by
  unfold fillRdc
  dsimp only
  refine (setRdc_keeps _ _).after ?_
  split
  · exact .refl s
  · split
    · exact (dropRdc_onlyLines s _).keeps
    · exact .refl s

theorem fetchRdc_keeps (s : State) (pa : Nat) : s.Keeps (fetchRdc s pa) := by
  unfold fetchRdc
  dsimp only
  split
  · exact fillRdc_keeps s _
  · exact .refl s

theorem loadLine_keeps (s : State) (who : Loader) (leaf : Leaf) (pa : Nat) : s.Keeps (loadLine s who leaf pa) := by
  unfold loadLine
  split
  · exact .refl s
  · refine State.Keeps.trans ?_ (lookL1_keeps _ _ _ _)
    split
    · exact fetchRdc_keeps s pa
    · exact .refl s

theorem cachedLine_keeps {s t : State} {who : Loader} {part peer addr : Nat} {va : Word} {bs : List Byte}
    (h : cachedLine s who part peer addr va = .ok (bs, t)) : s.Keeps t := by
  unfold cachedLine at h
  dsimp only at h
  split at h
  · cases h
    exact lookL1_keeps s _ _ _
  · split at h
    · cases h
    · cases h
      exact (lookL1_keeps _ _ _ _).after ((fillRdc_keeps _ _).after (fresh_keeps s))

/-! ### Reads -/

/-- The executing core is the same and holds the register set it held, but for the clock that its last load has read. -/
structure State.KeepsOwn (s t : State) : Prop where
  cur : t.cur = s.cur
  ctx : t.ctx = { s.ctx with seen := t.ctx.seen }

namespace State.KeepsOwn
variable {s t u : State}

theorem refl (s : State) : s.KeepsOwn s := ⟨rfl, rfl⟩

theorem trans (h : s.KeepsOwn t) (g : t.KeepsOwn u) : s.KeepsOwn u := ⟨g.cur.trans h.cur, g.ctx.trans (by rw [h.ctx])⟩

theorem x (h : s.KeepsOwn t) (r : BitVec 5) : t.x r = s.x r := by
  rw [State.x, h.ctx]
  rfl

end State.KeepsOwn

theorem State.Keeps.own {s t : State} (h : s.Keeps t) : s.KeepsOwn t := ⟨h.cur, by rw [h.ctx]⟩

theorem noteRead_keepsOwn (s : State) (who : Loader) (pa n : Nat) : s.KeepsOwn (s.noteRead who pa n) := by
  unfold State.noteRead
  split
  · exact .refl s
  · exact ⟨rfl, rfl⟩

/-- A line that a read fetches. -/
theorem fetchLine_keeps {s t : State} {fetch : Bool} (h : s.Keeps t) : s.Keeps (if fetch then t else s) := by
  cases fetch
  · exact .refl s
  · exact h

theorem readAs_keepsOwn {s t : State} {who : Loader} {part : Nat} {priv : Bool} {va : Word} {n : Nat} {need : Need} {newLine : Bool}
    {bs : List Byte} (h : readAs s who part priv va n need newLine = .ok (bs, t)) : s.KeepsOwn t := by
  unfold readAs at h
  split at h
  · cases h
  · rename_i pa u _
    have ordered : s.Keeps (combineRead (if who = .engine then s else s.passOther (who = .vector) pa n) (who = .vector) pa n) := by
      refine State.Keeps.trans ?_ (combineWhere_keeps _ _)
      split
      · exact .refl s
      · exact passOther_keeps s _ _ _
    dsimp only at h
    generalize combineRead (if who = .engine then s else s.passOther (who = .vector) pa n) (who = .vector) pa n = r at h ordered
    split at h
    · cases h
    · split at h
      · cases h
      · cases h
        exact ((ordered.trans (fetchLine_keeps (loadLine_keeps r who u.leaf pa))).trans (markUsed_keeps _ u false)).own.trans
          (noteRead_keepsOwn _ who pa n)
  · rename_i peer addr u _
    split at h
    · cases h
    · split at h
      · split at h
        · cases h
        · rename_i line hline
          cases h
          exact ((cachedLine_keeps hline).trans (markUsed_keeps _ u false)).own
      · dsimp only at h
        have counted := fetchLine_keeps (fetch := newLine) (countMigration_keeps s part va peer u.leaf.pte)
        generalize (if newLine then countMigration s part va peer u.leaf.pte else s) = r at h counted
        split at h
        · cases h
        · cases h
          exact ((fresh_keeps _).after ((markUsed_keeps _ u false).after
            (counted.trans (fetchLine_keeps (lookL1_keeps r who false 0))))).own

end Sys2Proof.Machine
end

section
/-! The claim about the operand-extension registers (O17). -/

namespace Sys2Proof.Machine

/-! ### Operand-extension registers (R31, R136) -/

/-- An operand-extension register after a write. -/
theorem getOx_setOx (c : Ctx) {n : Nat} (v : Word) {k : Nat} (hk : k < 8) : (c.setOx n v).getOx k = if k = n then v else c.getOx k := by
  simp only [Ctx.getOx, Ctx.setOx, Vector.getElem?_setIfInBounds]
  split
  · subst k
    simp [hk]
  · rw [if_neg (Ne.symm ‹_›)]

@[simp] theorem setOxs_pc (c : Ctx) (n : Nat) (ws : List Word) : (setOxs c n ws).pc = c.pc := by
  induction ws generalizing c n with
  | nil => rfl
  | cons w ws ih => exact ih _ _

@[simp] theorem setOxs_s (c : Ctx) (n : Nat) (ws : List Word) : (setOxs c n ws).s = c.s := by
  induction ws generalizing c n with
  | nil => rfl
  | cons w ws ih => exact ih _ _

/-- The registers a list of doublewords goes to take them, the others keep what they hold. -/
theorem getOx_setOxs (c : Ctx) (n : Nat) (ws : List Word) {j : Nat} (hj : j < 8) :
    (setOxs c n ws).getOx j = if n ≤ j ∧ j < n + ws.length then ws[j - n]?.getD 0 else c.getOx j := by
  induction ws generalizing c n with
  | nil => rw [setOxs, if_neg (by simp)]
  | cons w ws ih =>
    rw [setOxs, ih, getOx_setOx c w hj, List.length_cons]
    by_cases h : j = n
    · subst j
      rw [if_neg (by omega), if_pos rfl, if_pos (by omega), Nat.sub_self]
      rfl
    · rw [if_neg h]
      by_cases hin : n + 1 ≤ j ∧ j < n + 1 + ws.length
      · rw [if_pos hin, if_pos (by omega), show j - n = j - (n + 1) + 1 by omega, List.getElem?_cons_succ]
      · rw [if_neg hin, if_neg (by omega)]

/-! ### oxm and oxr (R136) -/

section
variable {s : State} (n r : BitVec 5)

/-- A routine has no operand-extension registers (R31). -/
theorem whenOk_hasOx_service (ok : Bool) (word : Nat) (k : Out) (h : s.inService = true) :
    whenOk (ok && s.hasOx) word s k = .next (takeCause s (exc .illegalInstruction 0 (BitVec.ofNat 64 word))) := by
  simp only [whenOk, State.hasOx, h, Bool.not_true, Bool.and_false, Bool.false_eq_true, if_false]
  rfl

theorem whenOk_hasOx_task {ok : Bool} (word : Nat) (k : Out) (hok : ok = true) (h : s.inService = false) :
    whenOk (ok && s.hasOx) word s k = k := by
  simp only [whenOk, State.hasOx, hok, h, Bool.not_false, Bool.and_true, if_true]

theorem exec_oxm (hn : n.toNat < 8) (h : s.inService = false) :
    exec (.oxm n r) s = .next (({ s with ctx := s.ctx.setOx n.toNat (s.x r) }.advance 4).retire 1) :=
  whenOk_hasOx_task _ _ (decide_eq_true hn) h

theorem exec_oxr (hn : n.toNat < 8) (h : s.inService = false) :
    exec (.oxr r n) s = .next (((s.setX r (s.ctx.getOx n.toNat)).advance 4).retire 1) :=
  whenOk_hasOx_task _ _ (decide_eq_true hn) h

/-- What `oxm` leaves. -/
theorem oxm_moves :
    let t := ({ s with ctx := s.ctx.setOx n.toNat (s.x r) }.advance 4).retire 1
    Completed 4 s t ∧ t.ctx = { s.ctx with pc := t.ctx.pc, ox := t.ctx.ox } ∧ OnlyRegisters s t ∧ SameBytes s t ∧
      ∀ k, k < 8 → t.ctx.getOx k = if k = n.toNat then s.x r else s.ctx.getOx k := by
  intro t
  have only := complete_only 4 1 { s with ctx := s.ctx.setOx n.toNat (s.x r) }
  have done := complete_plain 4 1 { s with ctx := s.ctx.setOx n.toNat (s.x r) }
  refine ⟨⟨done.done.pc, done.done.counted⟩, ?_, ⟨only.launch, only.core, ?_⟩, ⟨done.bytes.mem, done.bytes.ctl, done.bytes.pad,
    done.bytes.persisted⟩, fun k hk => ?_⟩
  · rw [State.retire_ctx]
    rfl
  · exact only.rest
  · rw [State.retire_ctx]
    exact getOx_setOx s.ctx (s.x r) hk

end

/-! ### oxl (R136, R137) -/

theorem readDoublewords_length {s t : State} {va : Word} {line : Bool} {n : Nat} {ws : List Word}
    (h : readDoublewords s va line n = .ok (ws, t)) : ws.length = n := by
  induction n generalizing s va line ws t with
  | zero => cases h; rfl
  | succ n ih =>
    unfold readDoublewords at h
    split at h
    · cases h
    · split at h
      · cases h
      · rename_i rest
        cases h
        rw [List.length_cons, ih rest]

/-- Reading the doublewords leaves the register set of the executing core, but for the clock its last load has read. -/
theorem readDoublewords_keepsOwn {s t : State} {va : Word} {line : Bool} {n : Nat} {ws : List Word}
    (h : readDoublewords s va line n = .ok (ws, t)) : s.KeepsOwn t := by
  induction n generalizing s va line ws t with
  | zero => cases h; exact .refl s
  | succ n ih =>
    unfold readDoublewords at h
    split at h
    · cases h
    · rename_i first
      split at h
      · cases h
      · rename_i rest
        cases h
        exact (readAs_keepsOwn first).trans (ih rest)

theorem exec_oxl {s s1 : State} {n a b : BitVec 5} {k : BitVec 3} {ws : List Word} (hn : n.toNat + (k.toNat + 1) ≤ 8)
    (hservice : s.inService = false) (hstrike : s.strike .address = none) (halign : (s.x a + s.x b).toNat % 8 = 0)
    (hread : readDoublewords s (s.x a + s.x b) true (k.toNat + 1) = .ok (ws, s1)) :
    exec (.oxl n a b k) s = .next (({ s1 with ctx := setOxs s1.ctx n.toNat ws }.advance 4).retire 1) := by
  have range : oxRangeOk n k = true := decide_eq_true hn
  show execOxl n a b k s = _
  rw [execOxl, whenOk_hasOx_task _ _ range hservice, addressOk_unstruck hstrike,
    if_neg (mt (misalignedAt_iff _ 8).mp (not_not_intro halign)), hread, withRes, complete_next]

/-- Settles O17: an `oxl` writes what it has read to registers that its reads have left alone. -/
theorem oxForms : Obligations.OxForms := by
  unfold Obligations.OxForms
  refine ⟨fun s n r hn => ⟨fun h => ⟨⟨_, exec_oxm n r hn h, oxm_moves n r⟩, _, exec_oxr n r hn h, complete_scalar 4 1 r _ s⟩,
    fun h => ⟨whenOk_hasOx_service _ _ _ h, whenOk_hasOx_service _ _ _ h⟩⟩, ?_⟩
  intro s s1 n a b k ws hn hservice hstrike halign hread
  have reads := (readDoublewords_keepsOwn hread).ctx
  have done := complete_plain 4 1 { s1 with ctx := setOxs s1.ctx n.toNat ws }
  refine ⟨_, exec_oxl hn hservice hstrike halign hread, ?_, ?_, fun j hj => ?_, ⟨done.bytes.mem, done.bytes.ctl, done.bytes.pad,
    done.bytes.persisted⟩⟩
  · rw [done.done.pc, setOxs_pc, reads]
    rfl
  · rw [State.retire_ctx, State.advance_ctx, setOxs_s, reads]
  · rw [State.retire_ctx, State.advance_ctx]
    refine (getOx_setOxs s1.ctx n.toNat ws hj).trans ?_
    rw [readDoublewords_length hread, reads]
    exact if_congr (by omega) rfl rfl

end Sys2Proof.Machine
end

section
/-! SUPPORT. The parts of an await: what its preparation leaves (R34-R36), what it does then (R44, R371), and what one that completes at
once writes (R369). -/

namespace Sys2Proof.Machine

/-! ### Live registers (R34, R35) -/

/-- A scalar register after the clearing. -/
theorem getS_clearDead (c : Ctx) (m : LiveMask) (r : BitVec 5) :
    (clearDead c m).getS r = if m.s.getLsbD r.toNat then c.getS r else 0 := by
  unfold Ctx.getS clearDead
  by_cases hr : r = 0
  · simp [hr]
  · simp only [hr, if_false, Vector.getElem_ofFn]

/-- The registers that are or-ed into a mask are in it, and so is what was in it. -/
theorem getLsbD_foldl_or (regs : List (BitVec 5)) (k : BitVec 32) (r : BitVec 5) (h : k.getLsbD r.toNat = true ∨ r ∈ regs) :
    (regs.foldl (fun k r => k ||| BitVec.ofNat 32 (2 ^ r.toNat)) k).getLsbD r.toNat = true := by
  induction regs generalizing k with
  | nil => exact h.resolve_right List.not_mem_nil
  | cons q regs ih =>
    refine ih _ ?_
    rw [BitVec.getLsbD_or, Bool.or_eq_true]
    rcases h with h | h
    · exact .inl (.inl h)
    · rcases List.mem_cons.mp h with rfl | h
      · exact .inl (.inr (by rw [BitVec.getLsbD_ofNat, Nat.testBit_two_pow_self, Bool.and_true, decide_eq_true_eq]; exact r.isLt))
      · exact .inr h

theorem widen_live (m : LiveMask) (c : Ctx) {regs : List (BitVec 5)} {r : BitVec 5} (h : r ∈ regs) :
    (m.widen c regs).s.getLsbD r.toNat = true := getLsbD_foldl_or regs m.s r (.inr h)

/-! ### The preparation -/

theorem awaitPrepare_error {s : State} {f : AwaitForm} {idx : Nat} {e : Exc} (h : checkTokens s (f.regs.map s.x) = .error e) :
    awaitPrepare s f idx = .error e := by
  rw [awaitPrepare, h]

/-- What the preparation of an await leaves: it has read its tokens first, and then cleared what its mask leaves out, but no token
register. -/
structure Prepared (s : State) (f : AwaitForm) (s1 : State) (toks : List Word) (m : LiveMask) : Prop where
  tokens : toks = f.regs.map s.x
  cur : s1.cur = s.cur
  cleared : ∀ r, s1.x r = if m.s.getLsbD r.toNat then s.x r else 0
  live : ∀ r ∈ f.regs, m.s.getLsbD r.toNat = true

/-- The state after the clearing of an await. -/
def clearedState (s : State) (toks : List Word) (m : LiveMask) : State :=
  let s1 := discardDead s m
  renewBarrier { s1 with ctx := clearDead s1.ctx m } toks

theorem renewBarrier_own (s : State) (toks : List Word) : (renewBarrier s toks).cur = s.cur ∧ (renewBarrier s toks).ctx = s.ctx :=
  ⟨rfl, rfl⟩

theorem discardDead_own (s : State) (m : LiveMask) : (discardDead s m).cur = s.cur ∧ (discardDead s m).ctx = s.ctx := ⟨rfl, rfl⟩

theorem clearedState_cur (s : State) (toks : List Word) (m : LiveMask) : (clearedState s toks m).cur = s.cur := by
  rw [clearedState, (renewBarrier_own _ _).1]
  dsimp only
  exact (discardDead_own s m).1

theorem clearedState_ctx (s : State) (toks : List Word) (m : LiveMask) : (clearedState s toks m).ctx = clearDead s.ctx m :=
  (renewBarrier_own _ _).2.trans (congrArg (clearDead · m) (discardDead_own s m).2)

theorem awaitPrepare_ok {s s1 : State} {f : AwaitForm} {idx : Nat} {toks : List Word} {m : LiveMask}
    (h : awaitPrepare s f idx = .ok (s1, toks, m)) : Prepared s f s1 toks m := by
  unfold awaitPrepare at h
  dsimp only at h
  split at h
  · cases h
  · have touched : s.Keeps (((f.regs.map s.x).filter (fun t => [2, 3, 11].contains (tokKind t) && !tokFabric t)).foldl
        (fun s t => s.touch s.part (tokVa t).toNat Need.read false) s) := .foldl (fun s t => touch_keeps s _ _ _ _) s _
    split at h
    · cases h
    · rename_i r hread
      have read := touched.own.trans (readAs_keepsOwn hread)
      rw [Except.ok.injEq, Prod.mk.injEq, Prod.mk.injEq] at h
      obtain ⟨hs1, htoks, hm⟩ := h
      have hs1 : clearedState r.2 (f.regs.map s.x) m = s1 := by rw [← hm]; exact hs1
      refine ⟨htoks.symm, ?_, fun q => ?_, fun q hq => ?_⟩
      · exact (congrArg State.cur hs1).symm.trans ((clearedState_cur _ _ _).trans read.cur)
      · rw [← hs1, ← read.x q, State.x, clearedState_ctx]
        exact getS_clearDead _ _ _
      · rw [← hm]
        exact widen_live _ _ hq

/-! ### What an await does (R44, R371) -/

/-- The state in which an await tests its tokens: its wait begins here. -/
def testing (s : State) : State :=
  { s with core := { s.core with run := s.core.run.mapTask (fun t => { t with waitFrom := none }) } }

theorem firstReady_index {s : State} {who : Asker} {toks : List Word} {n k : Nat} {e : BitVec 24}
    (h : firstReady s who toks n = some (k, e)) : k < n + toks.length := by
  induction toks generalizing n with
  | nil => cases h
  | cons t toks ih =>
    unfold firstReady at h
    rw [List.length_cons]
    split at h
    · cases h
      omega
    · have := ih h
      omega

/-- A task tests the tokens of its await, and completes, takes a Barrier timeout, stalls, or is suspended. -/
def awaitTests (s : State) (t : TaskInfo) (toks : List Word) (w : Wait) : State :=
  match firstReady s (t.asks s.cur) toks 0 with
  | some r => awaitDone s.fresh t (w.ended r)
  | none =>
    match barrierDue s t toks with
    | some a =>
      takeCause { s with core := { s.core with run := s.core.run.mapTask (fun t => expireBarrier t a) } } (exc .barrierTimeout 0 a)
    | none =>
      match earliestPromise s toks with
      | some q => if stallsFor s (earliestPromise s toks) then stall (awaitRegister s t w).fresh t q w
          else suspendAndPick (awaitRegister s t w).fresh t .waiting (some w) w.bytes
      | none => suspendAndPick (awaitRegister s t w).fresh t .waiting (some w) w.bytes

theorem awaitAlone_tests {s : State} (f : AwaitForm) (toks : List Word) (m : LiveMask) {x : TaskInfo} (hx : s.core.run.task = some x) :
    awaitAlone s f toks m = awaitTests (testing s) { x with waitFrom := none } toks (f.wait s toks m) := by
  unfold awaitAlone
  rw [hx]
  rfl

section
variable {s : State} {t : TaskInfo} {toks : List Word} {w : Wait}

theorem awaitTests_ready {r : Nat × BitVec 24} (h : firstReady s (t.asks s.cur) toks 0 = some r) :
    awaitTests s t toks w = awaitDone s.fresh t (w.ended r) := by
  rw [awaitTests, h]

variable (hnone : firstReady s (t.asks s.cur) toks 0 = none)
include hnone

theorem awaitTests_timeout {a : Word} (hdue : barrierDue s t toks = some a) : awaitTests s t toks w = takeCause
    { s with core := { s.core with run := s.core.run.mapTask (fun t => expireBarrier t a) } } (exc .barrierTimeout 0 a) := by
  rw [awaitTests, hnone]
  dsimp only
  rw [hdue]

variable (hdue : barrierDue s t toks = none)
include hdue

theorem awaitTests_suspends (hp : stallsFor s (earliestPromise s toks) = false) :
    awaitTests s t toks w = suspendAndPick (awaitRegister s t w).fresh t .waiting (some w) w.bytes := by
  rw [awaitTests, hnone]
  dsimp only
  rw [hdue]
  dsimp only
  rw [hp]
  cases earliestPromise s toks <;> rfl

theorem awaitTests_stalls {q : Word} (hq : earliestPromise s toks = some q) (hp : stallsFor s (some q) = true) :
    awaitTests s t toks w = stall (awaitRegister s t w).fresh t q w := by
  rw [awaitTests, hnone]
  dsimp only
  rw [hdue]
  dsimp only
  rw [hq]
  exact if_pos hp

end

/-! ### An await that completes (R369, R371) -/

/-- Whether a wait is an await's. -/
def WaitKind.isAwait (k : WaitKind) : Prop := k = .await ∨ k = .awaitT ∨ k = .awaitAny

/-- The scalar registers that an await leaves: the ready token of an awaitany first, and an error word in its place. -/
def awaitSwap (c : Ctx) (w : Wait) : Ctx :=
  if w.which = 1 then (c.setS w.reg (c.getS (w.reg + 1))).setS (w.reg + 1) (c.getS w.reg) else c

def awaitResult (c : Ctx) (w : Wait) : Ctx :=
  match w.err with
  | some e => (awaitSwap c w).setS w.reg (errorWord e)
  | none => awaitSwap c w

/-- Only scalar registers differ. -/
theorem setS_eq (c : Ctx) (r : BitVec 5) (v : Word) : c.setS r v = { c with s := (c.setS r v).s } := by
  unfold Ctx.setS
  split <;> rfl

theorem awaitSwap_eq (c : Ctx) (w : Wait) : awaitSwap c w = { c with s := (awaitSwap c w).s } := by
  unfold awaitSwap
  split
  · rw [setS_eq, setS_eq c]
  · rfl

theorem awaitResult_eq (c : Ctx) (w : Wait) : awaitResult c w = { c with s := (awaitResult c w).s } := by
  unfold awaitResult
  split
  · rw [setS_eq, awaitSwap_eq]
  · exact awaitSwap_eq c w

theorem finishWait_await (c : Ctx) (t : TaskInfo) {w : Wait} (hkind : w.kind.isAwait) (htime : w.timedOut = false) :
    (finishWait c t w).1 = { awaitResult c w with pc := c.pc + BitVec.ofNat 64 w.size } := by
  have pc : (awaitResult c w).pc = c.pc := by rw [awaitResult_eq]
  rw [← pc]
  obtain hk | hk | hk := hkind <;> simp only [finishWait, hk, htime, Bool.false_eq_true, if_false] <;> rfl

theorem succ_ne_self (r : BitVec 5) : r + 1 ≠ r := by bv_omega

/-- The swap of an awaitany's registers; s0 stays zero. -/
theorem getS_awaitSwap (c : Ctx) {w : Wait} (hlast : w.which = 1 → w.reg ≠ 31) (r : BitVec 5) : (awaitSwap c w).getS r =
    if w.which = 1 ∧ r = w.reg ∧ r ≠ 0 then c.getS (w.reg + 1) else if w.which = 1 ∧ r = w.reg + 1 then c.getS w.reg else c.getS r := by
  by_cases hwhich : w.which = 1
  · have hnext : w.reg + 1 ≠ 0 := by
      have := hlast hwhich
      bv_omega
    simp only [awaitSwap, hwhich, true_and, if_true]
    by_cases hr : r = w.reg + 1
    · subst r
      rw [Ctx.getS_setS_same, if_neg hnext, if_neg (fun h => succ_ne_self _ h.1), if_pos rfl]
    · rw [Ctx.getS_setS_ne _ _ hr, if_neg hr]
      by_cases hown : r = w.reg
      · subst r
        rw [Ctx.getS_setS_same]
        by_cases hz : w.reg = 0
        · rw [if_pos hz, if_neg (fun h => h.2 hz), hz]
          rfl
        · rw [if_neg hz, if_pos ⟨rfl, hz⟩]
      · rw [Ctx.getS_setS_ne _ _ hown, if_neg fun h => hown h.1]
  · simp only [awaitSwap, hwhich, false_and, if_false]

theorem getS_awaitResult_ended (c : Ctx) {w : Wait} {k : Nat} {e : BitVec 24} (hlast : k = 1 → w.reg ≠ 31) (r : BitVec 5) :
    (awaitResult c (w.ended (k, e))).getS r = if e ≠ 0 ∧ r = w.reg ∧ r ≠ 0 then errorWord e
      else if k = 1 ∧ r = w.reg ∧ r ≠ 0 then c.getS (w.reg + 1) else if k = 1 ∧ r = w.reg + 1 then c.getS w.reg else c.getS r := by
  have swapped := getS_awaitSwap c (w := w.ended (k, e)) hlast r
  by_cases he : e = 0
  · have noError : (w.ended (k, e)).err = none := if_pos he
    rw [awaitResult, noError, if_neg (fun h => h.1 he)]
    exact swapped
  · have error : (w.ended (k, e)).err = some e := if_neg he
    simp only [awaitResult, error]
    by_cases hr : r = w.reg
    · subst r
      by_cases hz : w.reg = 0
      · have reg : (w.ended (k, e)).reg = 0 := hz
        rw [if_neg (fun h => h.2.2 hz)]
        refine Eq.trans ?_ swapped
        rw [reg, hz]
        rfl
      · rw [if_pos ⟨he, rfl, hz⟩]
        exact (Ctx.getS_setS_same _ _ _).trans (if_neg hz)
    · rw [if_neg (fun h => hr h.2.1)]
      exact (Ctx.getS_setS_ne _ _ hr).trans swapped

theorem acquireWait_onlyLines (s : State) (core part : Nat) (w : Wait) : s.OnlyLines (acquireWait s core part w) := by
  unfold acquireWait
  split
  · exact dropFabricLines_onlyLines s _ _
  · exact .refl s

/-- A task whose await has ended. -/
def awaitEnded (s : State) (t : TaskInfo) (w : Wait) : State :=
  { s with ctx := (finishWait s.ctx t w).1, core := { s.core with run := .running (finishWait s.ctx t w).2 } }

theorem awaitDone_eq (s : State) (t : TaskInfo) (w : Wait) :
    awaitDone s t w = (acquireWait (awaitEnded s t w) s.cur t.part w).retire 1 := rfl

/-- What an await that completes leaves: its scalar registers, the pc, its account, and lines of caches. -/
theorem awaitDone_ctx (s : State) (t : TaskInfo) (w : Wait) : (awaitDone s t w).ctx = (finishWait s.ctx t w).1 := by
  rw [awaitDone_eq, State.retire_ctx, (acquireWait_onlyLines _ _ _ _).rest]
  rfl

theorem awaitDone_counted (s : State) (t : TaskInfo) (w : Wait) : (awaitDone s t w).core.pmc[0] = s.core.pmc[0] + 1 := by
  have pmc : (acquireWait (awaitEnded s t w) s.cur t.part w).core.pmc = s.core.pmc := by
    rw [(acquireWait_onlyLines _ _ _ _).core]
    rfl
  simp only [awaitDone_eq, State.retire_pmc, pmc, Vector.getElem_set_self]

theorem awaitDone_bytes (s : State) (t : TaskInfo) (w : Wait) : SameBytes s (awaitDone s t w) := by
  have lines := (acquireWait_onlyLines (awaitEnded s t w) s.cur t.part w).rest
  constructor <;> intro a <;> rw [awaitDone_eq, lines]
  · rw [State.retire_mem]
    rfl
  · rw [State.retire_ctl]
    rfl
  · rw [State.retire_pad]
    rfl
  · rw [State.retire_persisted]
    rfl

end Sys2Proof.Machine
end

section
/-! The claim about awaits and waituntil (O48). -/

namespace Sys2Proof.Machine

/-! ### The forms (R371) -/

theorem exec_await {s : State} {i : Instr} {f : AwaitForm} {idx : Nat} (h : awaitTable i = some (f, idx)) :
    exec i s = awaitForm f idx s ∧ f.kind.isAwait ∧ (f.kind = .awaitAny → f.reg ≠ 31) := by
  unfold awaitTable at h
  split at h
  case h_1 => cases h; exact ⟨rfl, .inl rfl, nofun⟩
  case h_2 => cases h; exact ⟨rfl, .inr (.inl rfl), nofun⟩
  case h_3 t l =>
    split at h
    · cases h
    · rename_i ht
      cases h
      exact ⟨if_pos (decide_eq_true ht), .inr (.inr rfl), fun _ => ht⟩
  case h_4 => cases h; exact ⟨rfl, .inl rfl, nofun⟩
  case h_5 => cases h

section
variable {s : State} {f : AwaitForm} {idx : Nat} (hservice : s.inService = false) (hidx : idx < maskCount s)
include hservice hidx

theorem awaitForm_leader {sh : Nat} {ms : List (Nat × Nat)} {n : Nat} (hgang : s.gang = .leader sh ms n) :
    awaitForm f idx s = .next (if ms.all (memberHere s) then awaitGang s ms f idx else s) := by
  rw [awaitForm, hgang]
  refine (if_pos (by simp [hservice, hidx])).trans ?_
  exact (apply_ite Host.Outcome.next _ _ _).symm

theorem awaitForm_alone (hgang : ∀ sh ms n, s.gang ≠ .leader sh ms n) :
    awaitForm f idx s = withRes s (awaitPrepare s f idx) fun r => .next (awaitAlone r.1 f r.2.1 r.2.2) := by
  refine (if_pos (by simp [hservice, hidx])).trans ?_
  split
  · rename_i h
    exact absurd h (hgang _ _ _)
  · rfl

end

/-! ### A ready token (R369, R371) -/

/-- Only awaitany has a second token. -/
theorem awaitAny_of_second {s : State} {who : Asker} {f : AwaitForm} {g : BitVec 5 → Word} {k : Nat} {e : BitVec 24}
    (h : firstReady s who (f.regs.map g) 0 = some (k, e)) (hk : k = 1) : f.kind = .awaitAny := by
  by_contra hno
  have := firstReady_index h
  simp [AwaitForm.regs, hno, hk] at this

theorem testing_ctx (s : State) : (testing s).fresh.ctx = s.ctx := rfl

theorem testing_pmc (s : State) : (testing s).fresh.core.pmc = s.core.pmc := rfl

theorem testing_memories (s : State) : (testing s).fresh.mem = s.mem ∧ (testing s).fresh.ctl = s.ctl ∧ (testing s).fresh.pad = s.pad ∧
    (testing s).fresh.persisted = s.persisted := ⟨rfl, rfl, rfl, rfl⟩

/-- What an await with a ready token leaves. -/
theorem awaitDone_ended (s : State) (t : TaskInfo) {w : Wait} {k : Nat} (e : BitVec 24) (hkind : w.kind.isAwait)
    (htime : w.timedOut = false) (hlast : k = 1 → w.reg ≠ 31) :
    let u := awaitDone (testing s).fresh t (w.ended (k, e))
    Completed w.size s u ∧ SameBytes s u ∧ u.ctx = { s.ctx with pc := u.ctx.pc, s := u.ctx.s } ∧
    ∀ r, u.x r = if e ≠ 0 ∧ r = w.reg ∧ r ≠ 0 then BitVec.ofNat 64 (e.toNat + 2 ^ 59)
      else if k = 1 ∧ r = w.reg ∧ r ≠ 0 then s.x (w.reg + 1) else if k = 1 ∧ r = w.reg + 1 then s.x w.reg else s.x r := by
  intro u
  have ctx : u.ctx = { awaitResult s.ctx (w.ended (k, e)) with pc := s.ctx.pc + BitVec.ofNat 64 w.size } := by
    rw [← testing_ctx s]
    exact (awaitDone_ctx _ _ _).trans (finishWait_await _ _ hkind htime)
  obtain ⟨mem, ctl, pad, persisted⟩ := testing_memories s
  have bytes : SameBytes (testing s).fresh u := awaitDone_bytes _ _ _
  refine ⟨⟨by rw [ctx], ?_⟩, ⟨?_, ?_, ?_, ?_⟩, ?_, fun r => ?_⟩
  · rw [← testing_pmc]
    exact awaitDone_counted _ _ _
  · rw [← mem]
    exact bytes.mem
  · rw [← ctl]
    exact bytes.ctl
  · rw [← pad]
    exact bytes.pad
  · rw [← persisted]
    exact bytes.persisted
  · rw [ctx, awaitResult_eq]
  · rw [State.x, ctx]
    exact getS_awaitResult_ended _ hlast r

/-! ### waituntil (R383) -/

/-- The wait of a waituntil. -/
def untilWait (s : State) (a b : BitVec 5) : Wait :=
  { kind := .waitUntil, reg := a, size := 4, code := [], tokens := [s.x a], t0 := s.cyc, since := s.cyc, which := 0, err := none,
    timedOut := false, isOver := false, till := s.x b, retry := s.cyc + 4096, bytes := fullRecordBytes s.ctx }

/-- A task that holds its core until the time of its waituntil. -/
def heldUntil (s : State) (x : TaskInfo) (a b : BitVec 5) : State :=
  { s with
    pending := s.pending ++ [.waituntilTime s.cur x.slot]
    core := { s.core with run := .stalled x (s.x b) (untilWait s a b) } }

section
variable {s : State} {a b : BitVec 5} (hservice : s.inService = false) (hkind : tokKind (s.x a) = 1)
  (hcheck : checkToken s (s.x a) = .ok ())
include hservice hkind hcheck

/-- A waituntil whose token passes its checks, once its time has come. -/
theorem exec_waituntil_due (hdue : (s.x b).toNat ≤ s.cyc.toNat) : exec (.waituntil a b) s =
    if (tokenReady s (engineAsks s.cur s.part) (s.x a)).isSome then complete 4 1 s else raise s (exc .promiseMissed 0 (s.x a)) := by
  show execWaituntil a b s = _
  rw [execWaituntil, outsideService, hservice]
  dsimp only
  rw [hkind, hcheck]
  simp only [withRes, hdue, if_true, Bool.false_eq_true, if_false, ne_eq, not_true_eq_false]
  cases tokenReady s (engineAsks s.cur s.part) (s.x a) <;> rfl

/-- Before its time, within SWTH cycles of it, its task holds its core. -/
theorem exec_waituntil_early {x : TaskInfo} (hx : s.core.run.task = some x) (hearly : s.cyc.toNat < (s.x b).toNat)
    (hnear : (s.x b).toNat - s.cyc.toNat ≤ s.core.swth.toNat) : exec (.waituntil a b) s = .next (heldUntil s x a b) := by
  show execWaituntil a b s = _
  rw [execWaituntil, outsideService, hservice]
  dsimp only
  rw [hkind, hcheck]
  simp only [withRes, Nat.not_le_of_lt hearly, hx, hnear, if_true, Bool.false_eq_true, if_false, ne_eq, not_true_eq_false]
  rfl

end

/-- Settles O48: an await by its preparation and its tests, waituntil by its time. -/
theorem awaitForms : Obligations.AwaitForms := by
  unfold Obligations.AwaitForms
  refine ⟨fun s i f idx hi hservice hidx => ?_, fun s a b hservice hkind hcheck => ⟨fun hdue e he => ?_, fun hdue hnone => ?_,
    fun x hx hearly hnear => ⟨_, exec_waituntil_early hservice hkind hcheck hx hearly hnear, rfl, rfl, ⟨_, rfl⟩, rfl⟩⟩⟩
  · obtain ⟨hexec, hkind, hlast⟩ := exec_await (s := s) hi
    refine ⟨fun sh ms n hgang => hexec.trans (awaitForm_leader hservice hidx hgang), fun hgang => ?_⟩
    have hexec := hexec.trans (awaitForm_alone hservice hidx hgang)
    refine ⟨fun e he => by rw [hexec, awaitPrepare_error he]; rfl, fun s1 toks m x hok hx => ?_⟩
    obtain ⟨htoks, hcur, hcleared, hlive⟩ := awaitPrepare_ok hok
    have tests : exec i s = .next (awaitTests (testing s1) { x with waitFrom := none } toks (f.wait s1 toks m)) := by
      rw [hexec, hok, ← awaitAlone_tests f toks m hx]
      rfl
    have asks : ({ x with waitFrom := none } : TaskInfo).asks (testing s1).cur = x.asks s1.cur := rfl
    rw [← hcur, ← asks]
    refine ⟨hcleared, hlive, fun k e hready => ?_, fun a hnone hdue => ?_, fun hnone hdue => ⟨fun hp => ?_, fun q hq hp => ?_⟩⟩
    · subst htoks
      refine ⟨_, tests.trans (congrArg _ (awaitTests_ready hready)), ?_⟩
      exact awaitDone_ended s1 _ (w := f.wait s1 _ m) e hkind rfl fun hk => hlast (awaitAny_of_second hready hk)
    · exact tests.trans (congrArg _ (awaitTests_timeout hnone hdue))
    · exact tests.trans (congrArg _ (awaitTests_suspends hnone hdue hp))
    · exact tests.trans (congrArg _ (awaitTests_stalls hnone hdue hq hp))
  · exact ⟨_, (exec_waituntil_due hservice hkind hcheck hdue).trans (if_pos (by rw [he]; rfl)), complete_plain 4 1 s⟩
  · exact (exec_waituntil_due hservice hkind hcheck hdue).trans (if_neg (by rw [hnone]; exact Bool.false_ne_true))

end Sys2Proof.Machine
end

section
/-! SUPPORT. Messages that are not under way, the launches that Sluice knows, and the pans that a core prepares. -/

namespace Sys2Proof.Machine

/-! ### Messages that are not under way (log entry 4) -/

section
variable {e : Event} {s : State} {f : State → State} (h : e ∉ s.pending)
include h

theorem takeDue_absent {due : State → Bool} : takeDue e due s f = .next s := takeDue_idle f (.inl h)
theorem takeMail_absent {core : Nat} : takeMail e core s f = .next s := takeDue_absent h
theorem takeQuery_absent : takeQuery e s f = .next s := takeDue_absent h
theorem takeWhenAwake_absent {pans : List (Nat × Nat)} {due : State → Bool} : takeWhenAwake e pans due s f = .next s :=
  if_pos (by simp [h])

end

/-- Whether something else holds an event back makes no difference where it does nothing. -/
theorem held_idle {c : Prop} [Decidable c] {s : State} {o : Out} (h : o = .next s) : (if c then .next s else o) = .next s := by
  rw [h, ite_self]

theorem takeQuery_taken {e : Event} {s : State} {f : State → State} (h : s.pending.find? isQuery = some e) :
    takeQuery e s f = .next (f (taken e s)) := takeQuery_next f h

/-! ### The launches that Sluice knows (R59, R310) -/

/-- A launch that is changed and keeps its serial is found as it then is. -/
theorem launchOf_mapLaunch (s : State) (serial : Nat) {f : Launch → Launch} (hf : ∀ l, (f l).serial = l.serial) :
    (mapLaunch s serial f).launchOf serial = (s.launchOf serial).map f := by
  unfold State.launchOf mapLaunch
  rw [List.find?_map]
  have same : ((fun l : Launch => decide (l.serial = serial)) ∘ fun l => if l.serial = serial then f l else l)
      = fun l => decide (l.serial = serial) := by
    funext l
    simp only [Function.comp]
    split <;> simp [hf]
  rw [same]
  cases h : s.launches.find? (fun l => l.serial = serial) with
  | none => rfl
  | some l =>
    have found : l.serial = serial := by simpa using List.find?_some h
    exact congrArg some (if_pos found)

/-- A launch without the joins that it has answered. -/
def withoutAnswered (l : Launch) : Launch := { l with joins := l.joins.filter (fun j => !(j.2.2 ≤ l.ended)) }

theorem launchOf_answerJoins (s : State) (serial : Nat) :
    (answerJoins s serial).launchOf serial = (s.launchOf serial).map withoutAnswered := by
  unfold answerJoins
  cases h : s.launchOf serial with
  | none => exact h
  | some l => exact (launchOf_mapLaunch s serial (f := withoutAnswered) fun _ => rfl).trans (congrArg _ h)

theorem answerJoins_mem (s : State) (serial : Nat) : (answerJoins s serial).mem = s.mem := by
  unfold answerJoins
  split <;> rfl

/-! ### Bytes and cores -/

theorem State.SameMems.bytes {s t : State} (h : s.SameMems t) : SameBytes s t := by
  obtain ⟨hmem, hctl, hpad, hpersisted⟩ := h
  exact ⟨fun a => by rw [hmem], fun a => by rw [hctl], fun a => by rw [hpad], fun a => by rw [hpersisted]⟩

theorem setCore_sameMems (s : State) (c : Nat) (k : Core) : s.SameMems (s.setCore c k) := by
  unfold State.setCore
  split <;> exact ⟨rfl, rfl, rfl, rfl⟩

theorem not_full_iff (k : Core) : ¬(k.closed = true ∨ listFull k = true) ↔ k.closed = false ∧ k.created.length < 64 := by
  simp [listFull]

/-! ### Pans that a core prepares (R212) -/

/-- A core that has begun to prepare the pans of a launch. -/
def preparingPans (s : State) (core serial : Nat) (l : Launch) : State :=
  let k := s.coreOf core
  let t := s.setCore core { claimPans k l.panMask serial with preparing := k.preparing ++ [serial] }
  { t with pending := t.pending ++ [.panPreparationDone core serial] }

theorem preparingPans_coreOf (s : State) (core serial : Nat) (l : Launch) : (preparingPans s core serial l).coreOf core
    = { claimPans (s.coreOf core) l.panMask serial with preparing := (s.coreOf core).preparing ++ [serial] } := coreOf_setCore _ _ _

theorem preparingPans_sameMems (s : State) (core serial : Nat) (l : Launch) : s.SameMems (preparingPans s core serial l) :=
  setCore_sameMems s core _

theorem preparingPans_claims (s : State) (core serial : Nat) (l : Launch) (p : Fin 16) :
    ((preparingPans s core serial l).coreOf core).claims[p] =
      if l.panMask.testBit p.val then some serial else (s.coreOf core).claims[p] := by
  simp [preparingPans_coreOf, claimPans]

/-- Preparing pans changes no creation message that the core holds. -/
theorem clearPans_held (s : State) (core mask : Nat) :
    ((clearPans s core mask).coreOf core).heldCreations = (s.coreOf core).heldCreations := by
  refine List.foldlRecOn (motive := fun t : State => (t.coreOf core).heldCreations = (s.coreOf core).heldCreations) (pansOf mask) _ rfl
    fun t ht p _ => ?_
  rw [clearPan, coreOf_setCore]
  exact ht

/-- A creation message that a core held comes to it again. -/
def createdAgain (core serial : Nat) (c : Created) : Event := .creationMessage core serial c.tid c.restart

/-- A core that has prepared the pans of a launch: the creation messages it held come again. -/
def preparedPans (s : State) (core serial : Nat) (l : Launch) : State :=
  let t := clearPans s core l.panMask
  let k := t.coreOf core
  let u := t.setCore core { k with
    preparing := k.preparing.filter (fun n => n ≠ serial)
    heldCreations := k.heldCreations.filter (fun c => c.serial ≠ serial) }
  { u with pending := u.pending ++ (k.heldCreations.filter (fun c => c.serial = serial)).map (createdAgain core serial) }

theorem preparedPans_preparing (s : State) (core serial : Nat) (l : Launch) :
    serial ∉ ((preparedPans s core serial l).coreOf core).preparing := by
  have done : ((preparedPans s core serial l).coreOf core).preparing
      = ((clearPans s core l.panMask).coreOf core).preparing.filter (fun n => n ≠ serial) :=
    congrArg Core.preparing (coreOf_setCore _ _ _)
  simp [done]

theorem preparedPans_creations (s : State) (core serial : Nat) (l : Launch) :
    ∀ c ∈ (s.coreOf core).heldCreations, c.serial = serial →
      .creationMessage core serial c.tid c.restart ∈ (preparedPans s core serial l).pending := by
  intro c hc hserial
  refine List.mem_append_right _ (List.mem_map_of_mem (f := createdAgain core serial) ?_)
  rw [clearPans_held]
  exact List.mem_filter.mpr ⟨hc, decide_eq_true hserial⟩

end Sys2Proof.Machine
end

section
/-! The claim about Sluice and launch messages (O56): each message by the condition under which it takes place, and what it is then. -/

namespace Sys2Proof.Machine

/-! ### Messages that are not under way (log entry 4) -/

/-- A message that is not under way does nothing (log entry 4): each, by how it is taken, in the order of `messageOf`. -/
theorem exec_message_absent {s : State} {i : Instr} {e : Event} (hi : messageOf i = some e) (h : e ∉ s.pending) : exec i s = .next s := by
  unfold messageOf at hi
  split at hi <;> cases hi <;> dsimp only [exec]
  exacts [takeMail_absent h, takeEvent_idle _ h, takeDue_absent h, takeQuery_absent h, takeQuery_absent h, takeQuery_absent h,
    takeQuery_absent h, takeQuery_absent h, takeQuery_absent h, held_idle (takeMail_absent h), takeDue_absent h, takeWhenAwake_absent h,
    takeMail_absent h, takeDue_absent h, takeMail_absent h, takeMail_absent h, takeDue_absent h, takeDue_absent h, takeDue_absent h,
    takeEvent_idle _ h, takeEvent_idle _ h, takeEvent_idle _ h, takeDue_absent h, takeDue_absent h, takeMail_absent h, takeDue_absent h,
    takeEvent_idle _ h, takeDue_absent h, takeEvent_idle _ h, takeEvent_idle _ h, takeEvent_idle _ h, takeWhenAwake_absent h,
    held_idle (takeEvent_idle _ h), takeDue_absent h, takeDue_absent h, takeEvent_idle _ h, takeMail_absent h, takeDue_absent h,
    takeEvent_idle _ h, takeDue_absent h, takeWhenAwake_absent h, takeDue_absent h, takeEvent_idle _ h, takeEvent_idle _ h,
    takeDue_absent h, takeDue_absent h, takeDue_absent h, takeEvent_idle _ h, takeDue_absent h, takeEvent_idle _ h, takeEvent_idle _ h,
    takeDue_absent h]

/-! ### End messages (R59, R60) -/

/-- Sluice has counted the end of a task, and answered the joins that waited for it. -/
def countedEnd (s : State) (serial : Nat) : State :=
  answerJoins (mapLaunch s serial (fun l => { l with ended := l.ended + 1 })) serial

theorem launchOf_countedEnd (s : State) (serial : Nat) : (countedEnd s serial).launchOf serial
    = (s.launchOf serial).map (fun l => withoutAnswered { l with ended := l.ended + 1 }) := by
  rw [countedEnd, launchOf_answerJoins, launchOf_mapLaunch, Option.map_map]
  · rfl
  · exact fun _ => rfl

theorem countedEnd_mem (s : State) (serial : Nat) : (countedEnd s serial).mem = s.mem := answerJoins_mem _ _

/-- What Sluice does once it has counted the end of a task: it ends the launch, or sends the next TID. -/
def servedEnd (core serial : Nat) (s : State) : State :=
  match s.launchOf serial with
  | none => s
  | some l =>
    if l.tcount ≤ l.ended then endLaunch s l
    else if l.nextTid < l.tcount then
      sendCreation (mapLaunch s serial (fun l => { l with nextTid := l.nextTid + 1 })) core serial l.nextTid false
    else s

theorem exec_endMessage {s : State} {core serial tid : Nat} (hq : s.pending.find? isQuery = some (.endMessage core serial tid)) :
    exec (.endMessage core serial tid) s = .next (servedEnd core serial (countedEnd (taken (.endMessage core serial tid) s) serial)) :=
  takeQuery_taken (f := fun s => servedEnd core serial (countedEnd s serial)) hq

/-! ### Messages for a launch that has ended -/

section
variable {s : State} {core serial tid seq : Nat} {restart : Bool} (hl : s.launchOf serial = none)
include hl

theorem exec_creationMessage_unknown (hp : .creationMessage core serial tid restart ∈ s.pending)
    (hclaim : .panClaim core serial ∉ s.pending) :
    exec (.creationMessage core serial tid restart) s = .next (taken (.creationMessage core serial tid restart) s) := by
  show execCreationMessage core serial tid restart s = _
  rw [execCreationMessage, takeDue_taken hp (by simp [hclaim])]
  simp only [taken_launchOf, hl, Option.isNone_none, if_true]

theorem exec_panClaim_unknown (hp : .panClaim core serial ∈ s.pending) (hopen : (s.coreOf core).closed = false) :
    exec (.panClaim core serial) s = .next (taken (.panClaim core serial) s) := by
  show execPanClaim core serial s = _
  rw [execPanClaim, takeMail_taken hp hopen]
  simp only [taken_launchOf, hl]

theorem exec_panPreparationDone_unknown (hp : .panPreparationDone core serial ∈ s.pending) :
    exec (.panPreparationDone core serial) s = .next (taken (.panPreparationDone core serial) s) := by
  show execPanPreparationDone core serial s = _
  rw [execPanPreparationDone, takeEvent_taken hp]
  simp only [taken_launchOf, hl]

theorem exec_resumptionMessage_unknown (hp : .resumptionMessage core serial ∈ s.pending) (hopen : (s.coreOf core).closed = false) :
    exec (.resumptionMessage core serial) s = .next (taken (.resumptionMessage core serial) s) := by
  show execResumptionMessage core serial s = _
  rw [execResumptionMessage, takeMail_taken hp hopen]
  simp only [taken_launchOf, hl]

theorem exec_endMessage_unknown (hq : s.pending.find? isQuery = some (.endMessage core serial tid)) :
    exec (.endMessage core serial tid) s = .next (countedEnd (taken (.endMessage core serial tid) s) serial) := by
  rw [exec_endMessage hq, servedEnd, launchOf_countedEnd, taken_launchOf, hl]
  rfl

theorem exec_tspawnRequest_unknown {target : Nat} (hq : s.pending.find? isQuery = some (.tspawnRequest core seq serial target)) :
    exec (.tspawnRequest core seq serial target) s = .next (replyTo (taken (.tspawnRequest core seq serial target) s) core seq 0x200) := by
  show execTspawnRequest core seq serial target s = _
  rw [execTspawnRequest, takeQuery_taken hq]
  simp only [taken_launchOf, hl, sluiceRefusal]

theorem exec_gjoinRequest_unknown {count : Nat} (hq : s.pending.find? isQuery = some (.gjoinRequest core seq serial count)) :
    exec (.gjoinRequest core seq serial count) s = .next (replyTo (taken (.gjoinRequest core seq serial count) s) core seq 0x200) := by
  show execGjoinRequest core seq serial count s = _
  rw [execGjoinRequest, takeQuery_taken hq]
  simp only [taken_launchOf, hl, sluiceRefusal]

theorem exec_wqryRequest_unknown {list place off : Nat}
    (hq : s.pending.find? isQuery = some (.wqryRequest core seq serial list place off)) :
    exec (.wqryRequest core seq serial list place off) s
      = .next (replyTo (taken (.wqryRequest core seq serial list place off) s) core seq 0x200) := by
  show execWqryRequest core seq serial list place off s = _
  rw [execWqryRequest, takeQuery_taken hq]
  simp only [taken_launchOf, hl, sluiceRefusal]

theorem exec_wqryOpenRequest_unknown {list : Nat} {extent : BitVec 60}
    (hq : s.pending.find? isQuery = some (.wqryOpenRequest core serial list extent)) : exec (.wqryOpenRequest core serial list extent) s
      = .next (answerCore (taken (.wqryOpenRequest core serial list extent) s) core 2) := by
  show execWqryOpenRequest core serial list extent s = _
  rw [execWqryOpenRequest, takeQuery_taken hq]
  simp only [taken_launchOf, hl]

end

/-! ### Messages for a launch that Sluice knows: creations, claims and ends (R57-R60, R212) -/

section
variable {s : State} {core serial tid : Nat} {restart : Bool} {l : Launch} (hl : s.launchOf serial = some l)
include hl

/-- A creation message comes to a core once its pans are claimed: it goes back, is held, or enters the core's list. -/
theorem exec_creationMessage (hp : .creationMessage core serial tid restart ∈ s.pending) (hclaim : .panClaim core serial ∉ s.pending) :
    let u := taken (.creationMessage core serial tid restart) s
    let c : Created := ⟨serial, tid, s.cyc, restart⟩
    exec (.creationMessage core serial tid restart) s = .next (
      if (s.coreOf core).closed = true ∨ listFull (s.coreOf core) = true then
        { u with returned := u.returned ++ [.creationMessage core serial tid restart] }
      else if (s.coreOf core).preparing.contains serial then
        u.setCore core { u.coreOf core with heldCreations := (u.coreOf core).heldCreations ++ [c] }
      else enterCreated u core c) := by
  show execCreationMessage core serial tid restart s = _
  rw [execCreationMessage, takeDue_taken hp (by simp [hclaim])]
  simp only [taken_launchOf, hl, Option.isNone_some, Bool.false_eq_true, if_false]
  rfl

section
variable (hp : .creationMessage core serial tid restart ∈ s.pending) (hclaim : .panClaim core serial ∉ s.pending)
include hp hclaim

theorem exec_creationMessage_returned (hfull : ¬((s.coreOf core).closed = false ∧ (s.coreOf core).created.length < 64)) :
    let u := taken (.creationMessage core serial tid restart) s
    exec (.creationMessage core serial tid restart) s
      = .next { u with returned := u.returned ++ [.creationMessage core serial tid restart] } := by
  rw [← not_full_iff, not_not] at hfull
  exact (exec_creationMessage hl hp hclaim).trans (congrArg _ (if_pos hfull))

variable (hfree : (s.coreOf core).closed = false ∧ (s.coreOf core).created.length < 64)
include hfree

theorem exec_creationMessage_held (hprep : (s.coreOf core).preparing.contains serial = true) :
    let u := taken (.creationMessage core serial tid restart) s
    exec (.creationMessage core serial tid restart) s = .next (u.setCore core
      { u.coreOf core with heldCreations := (u.coreOf core).heldCreations ++ [⟨serial, tid, s.cyc, restart⟩] }) := by
  rw [← not_full_iff] at hfree
  exact (exec_creationMessage hl hp hclaim).trans (congrArg _ ((if_neg hfree).trans (if_pos hprep)))

theorem exec_creationMessage_entered (hprep : (s.coreOf core).preparing.contains serial = false) :
    exec (.creationMessage core serial tid restart) s
      = .next (enterCreated (taken (.creationMessage core serial tid restart) s) core ⟨serial, tid, s.cyc, restart⟩) := by
  rw [← not_full_iff] at hfree
  rw [exec_creationMessage hl hp hclaim, if_neg hfree, if_neg (by rw [hprep]; exact Bool.false_ne_true)]

end

theorem exec_panClaim (hp : .panClaim core serial ∈ s.pending) (hopen : (s.coreOf core).closed = false) :
    exec (.panClaim core serial) s = .next (preparingPans (taken (.panClaim core serial) s) core serial l) := by
  show execPanClaim core serial s = _
  rw [execPanClaim, takeMail_taken hp hopen]
  simp only [taken_launchOf, hl]
  rfl

theorem exec_panPreparationDone (hp : .panPreparationDone core serial ∈ s.pending) :
    exec (.panPreparationDone core serial) s = .next (preparedPans (taken (.panPreparationDone core serial) s) core serial l) := by
  show execPanPreparationDone core serial s = _
  rw [execPanPreparationDone, takeEvent_taken hp]
  simp only [taken_launchOf, hl]
  rfl

end

/-! ### The end of a task (R59, R60) -/

section
variable {s : State} {core serial : Nat} {l : Launch} (hl : s.launchOf serial = some l)
include hl

theorem servedEnd_ends (hall : l.tcount ≤ l.ended) : servedEnd core serial s = endLaunch s l := by
  simp only [servedEnd, hl, if_pos hall]

theorem servedEnd_next (hmore : l.ended < l.tcount) (hnext : l.nextTid < l.tcount) : servedEnd core serial s
    = sendCreation (mapLaunch s serial (fun l => { l with nextTid := l.nextTid + 1 })) core serial l.nextTid false := by
  simp only [servedEnd, hl, if_neg (Nat.not_le_of_lt hmore), if_pos hnext]

theorem servedEnd_waits (hmore : l.ended < l.tcount) (hlast : l.tcount ≤ l.nextTid) : servedEnd core serial s = s := by
  simp only [servedEnd, hl, if_neg (Nat.not_le_of_lt hmore), if_neg (Nat.not_lt_of_le hlast)]

end

section
variable {s : State} {core serial tid : Nat} {l : Launch} (hl : s.launchOf serial = some l)
  (hq : s.pending.find? isQuery = some (.endMessage core serial tid))
include hl

theorem launchOf_countedEnd_taken (e : Event) :
    (countedEnd (taken e s) serial).launchOf serial = some (withoutAnswered { l with ended := l.ended + 1 }) := by
  rw [launchOf_countedEnd, taken_launchOf, hl, Option.map_some]

include hq

theorem exec_endMessage_next (hmore : l.ended + 1 < l.tcount) (hnext : l.nextTid < l.tcount) : exec (.endMessage core serial tid) s
    = .next (sendCreation (mapLaunch (countedEnd (taken (.endMessage core serial tid) s) serial) serial
        (fun l => { l with nextTid := l.nextTid + 1 })) core serial l.nextTid false) := by
  rw [exec_endMessage hq, servedEnd_next (launchOf_countedEnd_taken hl _) hmore hnext]
  rfl

theorem exec_endMessage_waits (hmore : l.ended + 1 < l.tcount) (hlast : l.tcount ≤ l.nextTid) :
    exec (.endMessage core serial tid) s = .next (countedEnd (taken (.endMessage core serial tid) s) serial) := by
  rw [exec_endMessage hq, servedEnd_waits (launchOf_countedEnd_taken hl _) hmore hlast]

theorem exec_endMessage_ends (hall : l.tcount ≤ l.ended + 1) {m : Launch}
    (hm : (countedEnd (taken (.endMessage core serial tid) s) serial).launchOf serial = some m) :
    exec (.endMessage core serial tid) s = .next (endLaunch (countedEnd (taken (.endMessage core serial tid) s) serial) m) := by
  obtain rfl : withoutAnswered { l with ended := l.ended + 1 } = m := Option.some.inj ((launchOf_countedEnd_taken hl _).symm.trans hm)
  rw [exec_endMessage hq, servedEnd_ends hm hall]

end

/-! ### Requests of tasks (R307, R310, R312, R313) -/

/-- Whether a core can take a task that a tspawn places on it. -/
def takesSpawn (s : State) (target serial : Nat) : Prop :=
  (s.coreOf target).closed = false ∧ (s.coreOf target).created.length < 64 ∧ (s.coreOf target).preparing.contains serial = false ∧
    .panClaim target serial ∉ s.pending

theorem takesSpawn_iff (s : State) (target serial : Nat) : takesSpawn s target serial ↔
    ¬((s.coreOf target).closed = true ∨ listFull (s.coreOf target) = true ∨ (s.coreOf target).preparing.contains serial = true ∨
      s.pending.contains (.panClaim target serial) = true) := by
  simp [takesSpawn, listFull]

/-- Taking a query leaves what decides whether a core can take a task. -/
theorem takesSpawn_taken (s : State) {e : Event} {target serial : Nat} (he : .panClaim target serial ≠ e) :
    takesSpawn (taken e s) target serial ↔ takesSpawn s target serial := by
  have claim : .panClaim target serial ∈ (taken e s).pending ↔ .panClaim target serial ∈ s.pending := List.mem_erase_of_ne he
  rw [takesSpawn, claim]
  rfl

section
variable {s : State} {core serial seq : Nat} {l : Launch} (hl : s.launchOf serial = some l)
include hl

section
variable {target : Nat} (hq : s.pending.find? isQuery = some (.tspawnRequest core seq serial target))
include hq

/-- A tspawn finds no place in its launch, is held while its core can not take the task, or places the next TID there. -/
theorem exec_tspawnRequest :
    let u := taken (.tspawnRequest core seq serial target) s
    exec (.tspawnRequest core seq serial target) s = .next (
      if l.tcount ≤ l.nextTid ∨ (!l.cores.contains target) = true then replyTo u core seq 0x200
      else if (u.coreOf target).closed = true ∨ listFull (u.coreOf target) = true ∨
          (u.coreOf target).preparing.contains serial = true ∨ u.pending.contains (.panClaim target serial) = true then
        { u with returned := u.returned ++ [.tspawnRequest core seq serial target] }
      else replyTo (enterCreated (mapLaunch u serial (fun l => { l with nextTid := l.nextTid + 1 })) target
        ⟨serial, l.nextTid, s.cyc, false⟩) core seq 0) := by
  show execTspawnRequest core seq serial target s = _
  rw [execTspawnRequest, takeQuery_taken hq]
  simp only [taken_launchOf, hl]
  rfl

theorem exec_tspawnRequest_refused (h : ¬(l.nextTid < l.tcount ∧ l.cores.contains target = true)) :
    exec (.tspawnRequest core seq serial target) s = .next (replyTo (taken (.tspawnRequest core seq serial target) s) core seq 0x200) := by
  refine (exec_tspawnRequest hl hq).trans (congrArg _ (if_pos ?_))
  simpa [or_iff_not_imp_left] using h

variable (hplace : l.nextTid < l.tcount ∧ l.cores.contains target = true)
include hplace

theorem exec_tspawnRequest_held (hfull : ¬takesSpawn s target serial) :
    let u := taken (.tspawnRequest core seq serial target) s
    exec (.tspawnRequest core seq serial target) s
      = .next { u with returned := u.returned ++ [.tspawnRequest core seq serial target] } := by
  rw [← takesSpawn_taken s (e := .tspawnRequest core seq serial target) (by simp), takesSpawn_iff, not_not] at hfull
  refine (exec_tspawnRequest hl hq).trans (congrArg _ ((if_neg ?_).trans (if_pos hfull)))
  simpa using hplace

theorem exec_tspawnRequest_placed (hfree : takesSpawn s target serial) : exec (.tspawnRequest core seq serial target) s
    = .next (replyTo (enterCreated (mapLaunch (taken (.tspawnRequest core seq serial target) s) serial
        (fun l => { l with nextTid := l.nextTid + 1 })) target ⟨serial, l.nextTid, s.cyc, false⟩) core seq 0) := by
  rw [← takesSpawn_taken s (e := .tspawnRequest core seq serial target) (by simp), takesSpawn_iff] at hfree
  refine (exec_tspawnRequest hl hq).trans (congrArg _ ((if_neg ?_).trans (if_neg hfree)))
  simpa using hplace

end

section
variable {count : Nat} (hq : s.pending.find? isQuery = some (.gjoinRequest core seq serial count))
include hq

/-- A gjoin names too many tasks, is answered at once, or waits for the ends it names. -/
theorem exec_gjoinRequest :
    let u := taken (.gjoinRequest core seq serial count) s
    exec (.gjoinRequest core seq serial count) s = .next (
      if l.tcount ≤ count then replyTo u core seq 0x200
      else if count ≤ l.ended then replyTo u core seq 0
      else mapLaunch u serial (fun l => { l with joins := l.joins ++ [(core, seq, count)] })) := by
  show execGjoinRequest core seq serial count s = _
  rw [execGjoinRequest, takeQuery_taken hq]
  simp only [taken_launchOf, hl]
  rfl

theorem exec_gjoinRequest_refused (h : l.tcount ≤ count) : exec (.gjoinRequest core seq serial count) s
    = .next (replyTo (taken (.gjoinRequest core seq serial count) s) core seq 0x200) := by rw [exec_gjoinRequest hl hq, if_pos h]

theorem exec_gjoinRequest_answered (h : count < l.tcount) (hended : count ≤ l.ended) : exec (.gjoinRequest core seq serial count) s
    = .next (replyTo (taken (.gjoinRequest core seq serial count) s) core seq 0) := by
  rw [exec_gjoinRequest hl hq, if_neg (Nat.not_le_of_lt h), if_pos hended]

theorem exec_gjoinRequest_waits (h : count < l.tcount) (hended : l.ended < count) : exec (.gjoinRequest core seq serial count) s
    = .next (mapLaunch (taken (.gjoinRequest core seq serial count) s) serial
        (fun l => { l with joins := l.joins ++ [(core, seq, count)] })) := by
  rw [exec_gjoinRequest hl hq, if_neg (Nat.not_le_of_lt h), if_neg (Nat.not_le_of_lt hended)]

end

theorem exec_wqryRequest {list place off : Nat} {w : WorkList}
    (hq : s.pending.find? isQuery = some (.wqryRequest core seq serial list place off)) (hw : l.lists[list]?.getD none = some w) :
    let u := mapLaunch (taken (.wqryRequest core seq serial list place off) s) serial
      (fun l => { l with lists := l.lists.setIfInBounds list (some { w with next := w.next + 1 }) })
    exec (.wqryRequest core seq serial list place off) s = .next (sendReplyWord u l core seq place off (workWord w list)) := by
  show execWqryRequest core seq serial list place off s = _
  rw [execWqryRequest, takeQuery_taken hq]
  simp only [taken_launchOf, hl, hw]

section
variable {list : Nat} {extent : BitVec 60} (hq : s.pending.find? isQuery = some (.wqryOpenRequest core serial list extent))
include hq

theorem exec_wqryOpenRequest_open {w : WorkList} (hw : l.lists[list]?.getD none = some w) :
    exec (.wqryOpenRequest core serial list extent) s
      = .next (answerCore (taken (.wqryOpenRequest core serial list extent) s) core (if w.extent = extent then 1 else 2)) := by
  show execWqryOpenRequest core serial list extent s = _
  rw [execWqryOpenRequest, takeQuery_taken hq]
  simp only [taken_launchOf, hl, hw]

theorem exec_wqryOpenRequest_opens (hw : l.lists[list]?.getD none = none) : exec (.wqryOpenRequest core serial list extent) s
    = .next (answerCore (mapLaunch (taken (.wqryOpenRequest core serial list extent) s) serial
        (fun l => { l with lists := l.lists.setIfInBounds list (some ⟨extent, 0⟩) })) core 0) := by
  show execWqryOpenRequest core serial list extent s = _
  rw [execWqryOpenRequest, takeQuery_taken hq]
  simp only [taken_launchOf, hl, hw]

end

end

/-! ### Restarts of lost tasks (R148) -/

/-- Whether a task of a launch is lost and may start anew: none is whose end message is under way. -/
def isLost (s : State) (l : Launch) (tid : Nat) : Prop :=
  l.restart = true ∧ l.lostTids.contains tid = true ∧ s.pending.any (endsTask l.serial tid) = false

theorem isLost_iff (s : State) (l : Launch) (tid : Nat) : isLost s l tid ↔
    ¬((!l.restart) = true ∨ (!l.lostTids.contains tid) = true ∨ s.pending.any (endsTask l.serial tid) = true) := by
  simp [isLost]

section
variable {s : State} {core target lid tid : Nat} (hq : s.pending.find? isQuery = some (.trestartRequest core target lid tid))
include hq

theorem exec_trestartRequest_unknown (hl : s.launches.find? (fun l => l.lid.toNat = lid) = none) :
    exec (.trestartRequest core target lid tid) s = .next (answerCore (taken (.trestartRequest core target lid tid) s) core 1) := by
  show execTrestartRequest core target lid tid s = _
  rw [execTrestartRequest, takeQuery_taken hq]
  simp only [taken, State.fresh, hl]

variable {l : Launch} (hl : s.launches.find? (fun l => l.lid.toNat = lid) = some l)
include hl

/-- A restart is of no lost task, finds its core full, or sends the task there anew. -/
theorem exec_trestartRequest :
    let u := taken (.trestartRequest core target lid tid) s
    exec (.trestartRequest core target lid tid) s = .next (
      if (!l.restart) = true ∨ (!l.lostTids.contains tid) = true ∨ u.pending.any (endsTask l.serial tid) = true then answerCore u core 2
      else if listFull (s.coreOf target) = true ∨ freeEntries s target = 0 then answerCore u core 3
      else answerCore (sendCreation (mapLaunch u l.serial
        (fun l => { l with lostTids := setDrop l.lostTids tid, ended := l.ended - 1 })) target l.serial tid true) core 0) := by
  show execTrestartRequest core target lid tid s = _
  rw [execTrestartRequest, takeQuery_taken hq]
  have known : (taken (.trestartRequest core target lid tid) s).launches.find? (fun l => l.lid.toNat = lid) = some l := hl
  simp only [known]
  rfl

theorem exec_trestartRequest_notLost (h : ¬isLost (taken (.trestartRequest core target lid tid) s) l tid) :
    exec (.trestartRequest core target lid tid) s = .next (answerCore (taken (.trestartRequest core target lid tid) s) core 2) := by
  rw [isLost_iff, not_not] at h
  exact (exec_trestartRequest hq hl).trans (congrArg _ (if_pos h))

variable (hlost : isLost (taken (.trestartRequest core target lid tid) s) l tid)
include hlost

theorem exec_trestartRequest_full (hfull : 64 ≤ (s.coreOf target).created.length ∨ freeEntries s target = 0) :
    exec (.trestartRequest core target lid tid) s = .next (answerCore (taken (.trestartRequest core target lid tid) s) core 3) := by
  rw [isLost_iff] at hlost
  refine (exec_trestartRequest hq hl).trans (congrArg _ ((if_neg hlost).trans (if_pos ?_)))
  simpa [listFull] using hfull

theorem exec_trestartRequest_sent (hroom : (s.coreOf target).created.length < 64) (hentries : freeEntries s target ≠ 0) :
    exec (.trestartRequest core target lid tid) s = .next (answerCore (sendCreation
      (mapLaunch (taken (.trestartRequest core target lid tid) s) l.serial
        (fun l => { l with lostTids := setDrop l.lostTids tid, ended := l.ended - 1 })) target l.serial tid true) core 0) := by
  rw [isLost_iff] at hlost
  refine (exec_trestartRequest hq hl).trans (congrArg _ ((if_neg hlost).trans (if_neg ?_)))
  simp [listFull, hroom, hentries]

end

/-! ### Replies, and the word of a wqry (R313, R366) -/

section
variable {s : State} {core seq err : Nat}

theorem exec_sluiceReply_waits (h : s.flights.any (fun f => f.sender = sluiceSender core ∧ f.tid = seq) = true) :
    exec (.sluiceReply core seq err) s = .next s := if_pos h

theorem exec_sluiceReply (h : s.flights.any (fun f => f.sender = sluiceSender core ∧ f.tid = seq) = false)
    (hp : .sluiceReply core seq err ∈ s.pending) (hopen : (s.coreOf core).closed = false) : exec (.sluiceReply core seq err) s
      = .next (signalReply (taken (.sluiceReply core seq err) s) core seq (BitVec.ofNat 24 err)) :=
  (if_neg (by rw [h]; exact Bool.false_ne_true)).trans
    (takeMail_taken (f := fun s => signalReply s core seq (BitVec.ofNat 24 err)) hp hopen)

/-- A presence store that has arrived: it is under way no longer. -/
def arrived (s : State) (f : Flight) : State :=
  { s with flights := s.flights.erase f, pending := s.pending.erase (.presenceStoreLanding f.core f.off f.value) }

theorem landFlight_refused {f : Flight} {k : Nat} (hstamp : f.stamp = none) (h : arrivalRefusal s f = some k) :
    landFlight s f = refuseFlight (arrived s f) f k := by
  have refused : arrivalRefusal (arrived s f) f = some k := h
  unfold landFlight
  rw [hstamp]
  dsimp only
  rw [← arrived, refused]

/-- A word of Sluice that its pan refuses changes no byte; the reply that waits for it carries Protection. -/
theorem refuseFlight_reply {f : Flight} (k : Nat) (hsender : f.sender = sluiceSender core) (hp : .sluiceReply core f.tid 0 ∈ s.pending) :
    SameBytes s (refuseFlight s f k) ∧ .sluiceReply core f.tid (5 + k * 256) ∈ (refuseFlight s f k).pending := by
  have issuer : f.sender - 2048 = core := by rw [hsender, sluiceSender]; omega
  rw [refuseFlight, if_pos (by rw [hsender, sluiceSender]; omega), issuer]
  exact ⟨⟨fun _ => rfl, fun _ => rfl, fun _ => rfl, fun _ => rfl⟩, List.mem_map.mpr ⟨_, hp, if_pos rfl⟩⟩

theorem exec_presenceStoreLanding_unstamped {place off : Nat} {w : Word} {f : Flight} (hp : .presenceStoreLanding place off w ∈ s.pending)
    (hf : landingFlight s place off w = some f) (hstamp : f.stamp = none) (awake : panAwake s place (off / 65536) = true) :
    exec (.presenceStoreLanding place off w) s = .next (landFlight (taken (.presenceStoreLanding place off w) s) f) := by
  have lands : landingFlight (taken (.presenceStoreLanding place off w) s) place off w = some f := hf
  show execPresenceStoreLanding place off w s = _
  rw [execPresenceStoreLanding, takeWhenAwake_taken hp (by simp [hf, hstamp]) (by simp [awake])]
  simp only [lands]

theorem exec_presenceStoreLanding_refused {place off k : Nat} {w : Word} {f : Flight} (hp : .presenceStoreLanding place off w ∈ s.pending)
    (hf : landingFlight s place off w = some f) (hsender : f.sender = sluiceSender core) (hstamp : f.stamp = none)
    (awake : panAwake s place (off / 65536) = true) (hrefused : arrivalRefusal s f = some k)
    (hreply : .sluiceReply core f.tid 0 ∈ s.pending) : ∃ t, exec (.presenceStoreLanding place off w) s = .next t ∧ SameBytes s t ∧
      .sluiceReply core f.tid (5 + k * 256) ∈ t.pending := by
  refine ⟨_, exec_presenceStoreLanding_unstamped hp hf hstamp awake, ?_⟩
  have refused : arrivalRefusal (taken (.presenceStoreLanding place off w) s) f = some k := hrefused
  rw [landFlight_refused hstamp refused]
  have waits : .sluiceReply core f.tid 0 ∈ (arrived (taken (.presenceStoreLanding place off w) s) f).pending :=
    (List.mem_erase_of_ne (by simp)).mpr ((List.mem_erase_of_ne (by simp)).mpr hreply)
  obtain ⟨bytes, reply⟩ := refuseFlight_reply k hsender waits
  exact ⟨⟨bytes.mem, bytes.ctl, bytes.pad, bytes.persisted⟩, reply⟩

end

/-! ### The launch queues and dependences (R55, R56) -/

section
variable {s : State} {order : Nat}

theorem exec_launchCancel_unknown (h : s.pendingLaunches.find? (fun p => p.order = order) = none) :
    exec (.launchCancel order) s = .next (taken (.launchCancel order) s) := by
  have gone : (taken (.launchCancel order) s).pendingLaunches.find? (fun p => p.order = order) = none := h
  show execLaunchCancel order s = _
  rw [execLaunchCancel, ← taken]
  simp only [gone]

variable {p : Pending} (hp : s.pendingLaunches.find? (fun p => p.order = order) = some p)
include hp

theorem exec_launchCancel_kept
    (hdeps : let u := taken (.launchCancel order) s; failedDependence u p.part (p.launch u).deps = none) :
    exec (.launchCancel order) s = .next (taken (.launchCancel order) s) := by
  have found : (taken (.launchCancel order) s).pendingLaunches.find? (fun p => p.order = order) = some p := hp
  show execLaunchCancel order s = _
  rw [execLaunchCancel, ← taken]
  simp only [found, hdeps]

theorem exec_launchCancel_cancelled {tok : Word} {code sub : Nat}
    (hdeps : let u := taken (.launchCancel order) s; failedDependence u p.part (p.launch u).deps = some (tok, code, sub)) :
    let u := taken (.launchCancel order) s
    exec (.launchCancel order) s = .next (signalDone (sluiceRecord { u with
      pendingLaunches := u.pendingLaunches.filter (fun q => q.order ≠ order), pending := u.pending ++ [.launchDequeue p.part] }
        (p.launch u) code sub tok (p.launch u).lid.toNat) (p.launch u) true) := by
  have found : (taken (.launchCancel order) s).pendingLaunches.find? (fun p => p.order = order) = some p := hp
  show execLaunchCancel order s = _
  rw [execLaunchCancel, ← taken]
  simp only [found, hdeps]

end

/-- Settles O56, message by message. -/
theorem launchMessages : Obligations.LaunchMessages := by
  unfold Obligations.LaunchMessages
  refine ⟨fun s i e => exec_message_absent, fun s core serial tid seq restart hl => ?_, fun s core serial tid seq restart l hl => ?_,
    fun s core target lid tid hq => ?_, fun s core seq err => ?_, fun s part order => ?_⟩
  · exact ⟨exec_creationMessage_unknown hl, exec_panClaim_unknown hl, exec_panPreparationDone_unknown hl,
      exec_resumptionMessage_unknown hl, fun hq => ⟨_, exec_endMessage_unknown hl hq,
        by rw [launchOf_countedEnd, taken_launchOf, hl, Option.map_none], countedEnd_mem _ _⟩,
      fun target => exec_tspawnRequest_unknown hl, fun count => exec_gjoinRequest_unknown hl,
      fun list place off => exec_wqryRequest_unknown hl, fun list extent => exec_wqryOpenRequest_unknown hl⟩
  · refine ⟨fun hp hclaim => ⟨exec_creationMessage_entered hl hp hclaim, exec_creationMessage_held hl hp hclaim,
      exec_creationMessage_returned hl hp hclaim⟩, fun hp hopen => ⟨_, exec_panClaim hl hp hopen, ?_,
      List.mem_append_right _ (List.mem_singleton_self _), ?_, fun p => ?_⟩, fun hp =>
      ⟨_, exec_panPreparationDone hl hp, preparedPans_preparing _ _ _ _,
        preparedPans_creations (taken (.panPreparationDone core serial) s) core serial l⟩, fun hq =>
      ⟨exec_endMessage_next hl hq, exec_endMessage_waits hl hq, fun hall m => exec_endMessage_ends hl hq hall⟩, fun target hq =>
      ⟨exec_tspawnRequest_placed hl hq, exec_tspawnRequest_held hl hq, exec_tspawnRequest_refused hl hq⟩, fun count hq =>
      ⟨exec_gjoinRequest_refused hl hq, exec_gjoinRequest_answered hl hq, exec_gjoinRequest_waits hl hq⟩,
      fun list w place off => exec_wqryRequest hl, fun list extent hq =>
      ⟨fun w => exec_wqryOpenRequest_open hl hq, exec_wqryOpenRequest_opens hl hq⟩⟩
    · rw [preparingPans_coreOf]
      exact List.mem_append_right _ (List.mem_singleton_self _)
    · exact State.SameMems.bytes (s := s) (preparingPans_sameMems (taken (.panClaim core serial) s) core serial l)
    · exact preparingPans_claims (taken (.panClaim core serial) s) core serial l p
  · exact ⟨exec_trestartRequest_unknown hq, fun l hl => ⟨exec_trestartRequest_notLost hq hl, exec_trestartRequest_full hq hl,
      exec_trestartRequest_sent hq hl⟩⟩
  · exact ⟨exec_sluiceReply_waits, fun hno hp hopen => ⟨_, exec_sluiceReply hno hp hopen, mem_replies_signalReply _ _ _ _⟩,
      fun place off w f k hp hf hsender htid hstamp awake hrefused hreply => htid ▸
        exec_presenceStoreLanding_refused hp hf hsender hstamp awake hrefused (htid ▸ hreply)⟩
  · exact ⟨rfl, exec_launchCancel_unknown, fun p hp => ⟨exec_launchCancel_kept hp,
      fun tok code sub => exec_launchCancel_cancelled hp⟩⟩

end Sys2Proof.Machine
end

section
/-! SUPPORT. What an instruction that gives a token leaves (R366), a reply to the executing core, and the running task. -/

namespace Sys2Proof.Machine

/-! ### Instructions that give a token (R366) -/

/-- An instruction that completes with a token in scalar register `d`, and leaves the rest of the register set and every byte. -/
structure TokenDone (d : BitVec 5) (token : Word) (s t : State) : Prop where
  done : Completed 4 s t
  context : SameButScalars s t
  bytes : SameBytes s t
  result : ScalarWritten s t d token

/-- What completes is what the register set, the counters and the memories say. -/
theorem complete_tokenDone {s u : State} {d : BitVec 5} {token : Word} (hctx : u.ctx = s.ctx.setS d token)
    (hpmc : u.core.pmc = s.core.pmc) (hmems : s.SameMems u) : TokenDone d token s u.finished := by
  have scalar := complete_scalar 4 1 d token s
  have ctx : u.finished.ctx = (s.setX d token).finished.ctx := by simp [State.finished, hctx]
  obtain ⟨mem, ctl, pad, persisted⟩ := hmems.bytes
  refine ⟨⟨?_, ?_⟩, ?_, ?_, fun r => ?_⟩
  · rw [ctx]
    exact scalar.done.pc
  · simp [State.finished, hpmc]
  · rw [SameButScalars, ctx]
    exact scalar.context
  · constructor <;> simp [State.finished, *]
  · rw [State.x_eq ctx]
    exact scalar.result r

/-- Messages sent besides change none of this. -/
theorem TokenDone.sends {d : BitVec 5} {token : Word} {s t : State} (h : TokenDone d token s t) (p : List Event) :
    TokenDone d token s { t with pending := p } :=
  ⟨⟨h.done.pc, h.done.counted⟩, h.context, ⟨h.bytes.mem, h.bytes.ctl, h.bytes.pad, h.bytes.persisted⟩, h.result⟩

/-! ### A token that is signalled at once (R70, R369) -/

theorem signalReply_ctx (s : State) (core seq : Nat) (err : BitVec 24) : (signalReply s core seq err).ctx = s.ctx := by
  rw [signalReply, (wakeWaiters_onlyMessages _ _ _).ctx, (setCore_keeps _ _ _).ctx]

theorem signalReply_cur (s : State) (core seq : Nat) (err : BitVec 24) : (signalReply s core seq err).cur = s.cur := by
  rw [signalReply, (wakeWaiters_onlyMessages _ _ _).cur, (setCore_keeps _ _ _).cur]

theorem signalReply_sameMems (s : State) (core seq : Nat) (err : BitVec 24) : s.SameMems (signalReply s core seq err) :=
  (setCore_sameMems s core _).trans (wakeWaiters_onlyMessages _ _ _).sameMems

/-- A reply to the executing core leaves its counters. -/
theorem signalReply_pmc (s : State) (seq : Nat) (err : BitVec 24) : (signalReply s s.cur seq err).core.pmc = s.core.pmc := by
  rw [signalReply, (wakeWaiters_onlyMessages _ _ _).core, State.setCore, if_pos rfl, State.coreOf, if_pos rfl]

/-- The reply is kept at the executing core. -/
theorem mem_replies_signalReply_own (s : State) (seq : Nat) (err : BitVec 24) :
    (seq, err) ∈ (signalReply s s.cur seq err).core.replies := by
  have kept := mem_replies_signalReply s s.cur seq err
  rwa [State.coreOf, if_pos (signalReply_cur _ _ _ _).symm] at kept

/-! ### The running task -/

section
variable {s : State} (hservice : s.inService = false)
include hservice

theorem gang_eq {x : TaskInfo} (hx : s.core.run.task = some x) : s.gang = x.gang := by
  simp [State.gang, hservice, hx]

theorem taskKey_eq {x : TaskInfo} (hx : s.core.run.task = some x) : s.taskKey = (x.serial, x.tid) := by
  have idle : s.core.service = none := by simpa [State.inService] using hservice
  unfold State.taskKey
  rw [idle]
  cases hrun : s.core.run <;> rw [hrun] at hx <;> cases hx <;> rfl

end

end Sys2Proof.Machine
end

section
/-! The claim about gang and ungang (O50): what a gang instruction finds decides whether its task starts to form a gang or gets a token
with error status. -/

namespace Sys2Proof.Machine

/-! ### A gang that cannot form (R70) -/

/-- The executing task has the token of a gang that does not form, with error status. -/
def refusedGang (d : BitVec 5) (s : State) : State :=
  signalReply ((newReply s none).2.setX d (replyToken 9 s.cur (s.core.nextSeq % 2 ^ 32))) s.cur (s.core.nextSeq % 2 ^ 32) gangFailed

theorem gangRefused_done (d : BitVec 5) (s : State) : ∃ t, gangRefused d s = .next t ∧
    TokenDone d (replyToken 9 s.cur (s.core.nextSeq % 2 ^ 32)) s t ∧ (s.core.nextSeq % 2 ^ 32, gangFailed) ∈ t.core.replies := by
  have kept : (s.core.nextSeq % 2 ^ 32, gangFailed) ∈ (refusedGang d s).core.replies :=
    mem_replies_signalReply_own ((newReply s none).2.setX d (replyToken 9 s.cur (s.core.nextSeq % 2 ^ 32))) _ _
  refine ⟨(refusedGang d s).finished, rfl, complete_tokenDone (signalReply_ctx _ _ _ _) ?_ ?_, by simpa [State.finished] using kept⟩
  · exact signalReply_pmc ((newReply s none).2.setX d (replyToken 9 s.cur (s.core.nextSeq % 2 ^ 32))) _ _
  · exact signalReply_sameMems ((newReply s none).2.setX d (replyToken 9 s.cur (s.core.nextSeq % 2 ^ 32))) _ _ _

/-! ### Gangs that start to form (R70) -/

/-- The task of the executing core has its gang token and waits for its gang. -/
def startsGang (d : BitVec 5) (shape index : Nat) (s : State) : State :=
  let q := newReply s none
  let s1 := q.2.setX d (replyToken 9 s.cur q.1)
  State.finished { s1 with core := { s1.core with run := s1.core.run.mapTask (fun t =>
    { t with gang := .forming shape index q.1 (s.ctx.pc + 4) s.cyc [] }) } }

theorem startsGang_done (d : BitVec 5) (shape index : Nat) (s : State) :
    TokenDone d (replyToken 9 s.cur (s.core.nextSeq % 2 ^ 32)) s (startsGang d shape index s) :=
  complete_tokenDone rfl rfl ⟨rfl, rfl, rfl, rfl⟩

theorem Run.mapTask_task (f : TaskInfo → TaskInfo) (r : Run) : (r.mapTask f).task = r.task.map f := by
  cases r <;> rfl

theorem startsGang_task (d : BitVec 5) (shape index : Nat) {s : State} {x : TaskInfo} (hx : s.core.run.task = some x) :
    (startsGang d shape index s).core.run.task =
      some { x with gang := .forming shape index (s.core.nextSeq % 2 ^ 32) (s.ctx.pc + 4) s.cyc [] } := by
  simp only [startsGang, State.finished, State.retire_core_run, State.advance_core, State.setX_core, newReply, Run.mapTask_task, hx,
    Option.map_some]

@[simp] theorem startsGang_pending (d : BitVec 5) (shape index : Nat) (s : State) : (startsGang d shape index s).pending = s.pending := by
  simp [startsGang, State.finished, newReply]

@[simp] theorem startsGang_joins (d : BitVec 5) (shape index : Nat) (s : State) :
    (startsGang d shape index s).core.joins = s.core.joins := by
  simp [startsGang, State.finished, newReply]

@[simp] theorem startsGang_cur (d : BitVec 5) (shape index : Nat) (s : State) : (startsGang d shape index s).cur = s.cur := by
  simp [startsGang, State.finished, newReply]

theorem two_le_gangSize (shape : Nat) : 2 ≤ gangWidth shape * gangHeight shape := by
  unfold gangWidth gangHeight
  split <;> split <;> decide

/-- No gang forms at a core that holds no join: every shape has a place besides its leader's. -/
theorem formGang_noJoins {s : State} {core : Nat} (serial tid : Nat) (h : (s.coreOf core).joins = []) : formGang s core serial tid = s := by
  have noJoins : joinsFor s core serial tid = [] := by simp [joinsFor, h]
  unfold formGang
  split
  · rfl
  · split
    · rename_i shape _ _ _ _ _
      have size := two_le_gangSize shape
      simp only [noJoins, List.find?_nil, Option.map_none, List.filterMap_none, List.length_nil]
      exact if_pos (by omega)
    · rfl

/-- A follower's join is on its way to the core of its leader. -/
theorem gangStart_follower {d : BitVec 5} {shape dx dy tid : Nat} {s : State} (h : dy * gangWidth shape + dx ≠ 0) :
    gangStart d shape dx dy tid s = .next { startsGang d shape (dy * gangWidth shape + dx) s with
      pending := (startsGang d shape (dy * gangWidth shape + dx) s).pending ++ [.gangJoin
        (coreAt (dieOf s.cur) (rowOf s.cur - dy) (colOf s.cur - dx)) s.cur (s.core.nextSeq % 2 ^ 32) s.taskKey.1 tid
        (dy * gangWidth shape + dx)] } := if_neg h

/-- A leader that no member has joined waits. -/
theorem gangStart_leader {d : BitVec 5} {shape dx dy tid : Nat} {s : State} (h : dy * gangWidth shape + dx = 0)
    (hjoins : s.core.joins = []) : gangStart d shape dx dy tid s = .next { startsGang d shape 0 s with
      pending := (startsGang d shape 0 s).pending ++ [.gangFormationTimeout s.cur] } := by
  have waits : (({ startsGang d shape 0 s with
      pending := (startsGang d shape 0 s).pending ++ [.gangFormationTimeout s.cur] } : State).coreOf s.cur).joins = [] := by
    rw [State.coreOf, if_pos (startsGang_cur d shape 0 s).symm]
    exact (startsGang_joins d shape 0 s).trans hjoins
  refine (if_pos h).trans (congrArg _ ?_)
  rw [h]
  exact formGang_noJoins s.taskKey.1 s.taskKey.2 waits

/-! ### gang (R311) -/

/-- What a gang instruction does that names a place on its die. -/
def gangPlaced (d : BitVec 5) (shape dx dy tid : Nat) (s : State) : Out :=
  match s.gang, s.launchOf s.taskKey.1 with
  | .none, some l => if dx = 0 ∧ dy = 0 ∧ !l.cores.contains s.cur then gangRefused d s else gangStart d shape dx dy tid s
  | _, _ => gangRefused d s

section
variable {s : State} {d a b : BitVec 5} {shape dx dy : Nat} (hv : (s.x a).toNat = shape + 4 * dx + 16 * dy) (h1 : 1 ≤ shape)
  (h3 : shape ≤ 3) (hx : dx < 4) (hy : dy < 2)
include hv h1 h3 hx hy

/-- A gang instruction with its operand taken apart. -/
theorem exec_gang : exec (.gang d a b) s =
    whenOk (!s.inService && !s.inGang && decide (dx < gangWidth shape) && decide (dy < gangHeight shape)) (encGang d a b) s
      (if colOf s.cur < dx ∨ rowOf s.cur < dy then raise s (exc .bounds 0 (s.x a)) else gangPlaced d shape dx dy (s.x b).toNat s) := by
  have hshape : bits (s.x a) 1 0 = shape := by simp only [bits, hv]; omega
  have hdx : bits (s.x a) 3 2 = dx := by simp only [bits, hv]; omega
  have hdy : bits (s.x a) 4 4 = dy := by simp only [bits, hv]; omega
  have hrest : bits (s.x a) 63 5 = 0 := by simp only [bits, hv]; omega
  have hne : shape ≠ 0 := by omega
  show execGang d a b s = _
  simp only [execGang, hshape, hdx, hdy, hrest, hne, ne_eq, not_false_eq_true, decide_true, Bool.and_true]
  rfl

theorem exec_gang_illegal (h : s.inService = true ∨ s.inGang = true ∨ gangWidth shape ≤ dx ∨ gangHeight shape ≤ dy) :
    exec (.gang d a b) s = .next (takeCause s (exc .illegalInstruction 0 (BitVec.ofNat 64 (encGang d a b)))) := by
  refine (exec_gang hv h1 h3 hx hy).trans (if_neg ?_)
  simp only [Bool.and_eq_true, Bool.not_eq_true', decide_eq_true_eq]
  rintro ⟨⟨⟨hservice, hgang⟩, hwidth⟩, hheight⟩
  simp only [hservice, hgang, Bool.false_eq_true, false_or] at h
  omega

theorem exec_gang_placed (hservice : s.inService = false) (hgang : s.inGang = false) (hwidth : dx < gangWidth shape)
    (hheight : dy < gangHeight shape) (hcol : dx ≤ colOf s.cur) (hrow : dy ≤ rowOf s.cur) :
    exec (.gang d a b) s = gangPlaced d shape dx dy (s.x b).toNat s := by
  refine (exec_gang hv h1 h3 hx hy).trans ((if_pos ?_).trans (if_neg ?_))
  · simp [hservice, hgang, hwidth, hheight]
  · omega

end

/-- Only the leader's place has index 0. -/
theorem gangIndex_eq_zero (shape dx dy : Nat) : dy * gangWidth shape + dx = 0 ↔ dx = 0 ∧ dy = 0 := by
  have width : 0 < gangWidth shape := by unfold gangWidth; split <;> decide
  rw [Nat.add_eq_zero_iff, Nat.mul_eq_zero]
  omega

section
variable {s : State} {d : BitVec 5} {shape dx dy tid : Nat}

/-- A task that has its place already gets a token with error status. -/
theorem gangPlaced_inGang (h : s.gang ≠ .none) : gangPlaced d shape dx dy tid s = gangRefused d s := by
  unfold gangPlaced
  split
  · exact absurd ‹_› h
  · rfl

variable {l : Launch} (hgang : s.gang = .none) (hl : s.launchOf s.taskKey.1 = some l)
include hgang hl

/-- So does a leader outside its launch's cores. -/
theorem gangPlaced_outside (hindex : dy * gangWidth shape + dx = 0) (hcore : l.cores.contains s.cur = false) :
    gangPlaced d shape dx dy tid s = gangRefused d s := by
  obtain ⟨hdx, hdy⟩ := (gangIndex_eq_zero shape dx dy).mp hindex
  simp only [gangPlaced, hgang, hl]
  exact if_pos ⟨hdx, hdy, by rw [hcore]; rfl⟩

theorem gangPlaced_starts (h : dy * gangWidth shape + dx = 0 → l.cores.contains s.cur = true) :
    gangPlaced d shape dx dy tid s = gangStart d shape dx dy tid s := by
  simp only [gangPlaced, hgang, hl]
  refine if_neg ?_
  rintro ⟨hdx, hdy, hcore⟩
  rw [h ((gangIndex_eq_zero shape dx dy).mpr ⟨hdx, hdy⟩)] at hcore
  exact absurd hcore (by decide)

end

/-! ### ungang (R311) -/

theorem exec_ungang_alone {s : State} (hservice : s.inService = false) (h : ∀ sh ms n, s.gang ≠ .leader sh ms n) :
    exec .ungang s = complete 4 1 s := by
  show execUngang s = _
  rw [execUngang, outsideService, if_neg (by rw [hservice]; exact Bool.false_ne_true)]
  split
  · exact absurd ‹_› (h _ _ _)
  · rfl

theorem exec_ungang_leader {s : State} {sh n : Nat} {ms : List (Nat × Nat)} (h : s.gang = .leader sh ms n) :
    exec .ungang s = .next (if ms.all (memberHere s) then (disband (ms.foldl followPast s) s.cur 1 1).finished else s) := by
  have hservice : ¬s.inService = true := fun hs => by simp [State.gang, hs] at h
  show execUngang s = _
  rw [execUngang, outsideService, if_neg hservice, h]
  exact (apply_ite _ _ _ _).symm

/-- Settles O50: gang by what it finds, ungang by the gang of its task. -/
theorem gangForms : Obligations.GangForms := by
  unfold Obligations.GangForms
  intro s d a b shape dx dy hv h1 h3 hx4 hy2 index q
  refine ⟨fun hservice hwidth hheight hcol hrow x l hx hgang hl => ?_, fun hservice hwidth hheight hcol hrow hin hgang => ?_,
    exec_gang_illegal hv h1 h3 hx4 hy2, fun hservice hgang => ⟨_, exec_ungang_alone hservice hgang, complete_plain 4 1 s⟩,
    fun sh ms n => exec_ungang_leader⟩
  · have alone : s.gang = .none := (gang_eq hservice hx).trans hgang
    have key : s.taskKey.1 = x.serial := congrArg Prod.fst (taskKey_eq hservice hx)
    have placed := exec_gang_placed (d := d) (b := b) hv h1 h3 hx4 hy2 hservice (by simp [State.inGang, alone]) hwidth hheight hcol hrow
    rw [← key] at hl
    refine ⟨fun hindex => ?_, fun hindex hcore hjoins => ?_, fun hindex hcore => ?_⟩
    · refine ⟨_, (placed.trans (gangPlaced_starts alone hl fun h => absurd h hindex)).trans (gangStart_follower hindex), ?_⟩
      obtain ⟨done, context, bytes, result⟩ := (startsGang_done d shape index s).sends _
      exact ⟨done, context, bytes, result, ⟨_, startsGang_task d shape index hx, rfl⟩, by rw [startsGang_pending, key]⟩
    · refine ⟨_, (placed.trans (gangPlaced_starts alone hl fun _ => hcore)).trans (gangStart_leader hindex hjoins), ?_⟩
      obtain ⟨done, context, bytes, result⟩ := (startsGang_done d shape 0 s).sends _
      exact ⟨done, context, bytes, result, ⟨_, startsGang_task d shape 0 hx, rfl⟩, by rw [startsGang_pending]⟩
    · obtain ⟨t, ht, done, reply⟩ := gangRefused_done d s
      exact ⟨t, (placed.trans (gangPlaced_outside alone hl hindex hcore)).trans ht, done.done, done.bytes, done.result, reply⟩
  · obtain ⟨t, ht, done, reply⟩ := gangRefused_done d s
    have placed := exec_gang_placed (d := d) (b := b) hv h1 h3 hx4 hy2 hservice hin hwidth hheight hcol hrow
    exact ⟨t, (placed.trans (gangPlaced_inGang hgang)).trans ht, done.done, done.bytes, done.result, reply⟩

end Sys2Proof.Machine
end

section
/-! The claim about the encoding (O1): the decoder reads a word back from its bytes, and the instruction back from its word. -/

namespace Sys2Proof

/-! ### A word and its bytes (R3, R72) -/

theorem leValue_leBytes (n w : Nat) : leValue (leBytes n w) = w % 256 ^ n := by
  induction n generalizing w with
  | zero => exact (Nat.mod_one w).symm
  | succ n ih => rw [leBytes, leValue, ih, Nat.pow_succ', Nat.mod_mul, BitVec.toNat_ofNat]

/-- A decoded word needs no more bytes than its length announces. -/
theorem decodeWord_low (w : Nat) : decodeWord (w % 256 ^ wordBytes w) = decodeWord w := by
  unfold wordBytes decodeWord
  by_cases even : w % 2 = 0
  · have low : w % 65536 % 2 = 0 := by omega
    simp [even, low]
  · have low : w % 4294967296 % 2 = 1 := by omega
    have major : w % 4294967296 / 2 % 128 = w / 2 % 128 := by omega
    simp [even, low, major]

theorem decode_leBytes {w : Nat} {i : Instr} (h : decodeWord w = .ok i) (rest : List Byte) :
    decode (leBytes (wordBytes w) w ++ rest) = .ok (i, rest) := by
  rw [← decodeWord_low, ← leValue_leBytes] at h
  have parity : (BitVec.ofNat 8 w).toNat % 2 = w % 2 := by rw [BitVec.toNat_ofNat]; omega
  by_cases even : w % 2 = 0
  · simp only [wordBytes, even, if_true, leBytes, List.cons_append, List.nil_append] at h ⊢
    simp only [decode, parity, even, h, if_true]
  · simp only [wordBytes, even, if_false, leBytes, List.cons_append, List.nil_append] at h ⊢
    simp only [decode, parity, even, h, if_false]

/-! ### The length that bit 0 announces (R72, R79) -/

/-- One row of a decoder's list of forms of 2 bytes. -/
theorem size_ite {c : Prop} [Decidable c] {a i : Instr} {o : Option Instr} (ha : a.size = 2) (ho : o = some i → i.size = 2) :
    (if c then some a else o) = some i → i.size = 2 := by
  intro h
  split at h
  · exact Option.some.inj h ▸ ha
  · exact ho h

theorem size_of_decode16 {w : Nat} {i : Instr} : decode16 w = some i → i.size = 2 := by
  unfold decode16
  repeat refine size_ite rfl ?_
  exact nofun

theorem size_mem (i : Instr) : i.size ∈ [0, 2, 4] := by
  refine List.contains_iff_mem.mp ?_
  cases i <;> rfl

/-- Bit 0 of the word of a compressed form is 0 (R79). -/
theorem instrWord_even {i : Instr} (h : i.size = 2) : instrWord i % 2 = 0 := by
  cases i with
  | cRet | cNop | cYield | cTend => rfl
  | cB =>
    show (20 + _ * 64) % 2 = 0
    omega
  | cMov | cAdd | cSub | cAnd | cAddi | cLi | cShli | cLd | cSt | cBeqz | cBnez | cAwait | cOr | cXor | cShri | cSari | cLdw |
  cStw | cSlt | cShl | cShr | cNeg | cSeq | cMul | cMin | cMax =>
    show (_ + _ * 2048 + _ * 64) % 2 = 0
    omega
  | _ => cases h

theorem size_eq_wordBytes {i : Instr} (h : i.size ≠ 0) (hw : decodeWord (instrWord i) = .ok i) :
    i.size = wordBytes (instrWord i) := by
  unfold wordBytes
  by_cases even : instrWord i % 2 = 0
  · rw [decodeWord, if_pos even] at hw
    rw [if_pos even]
    split at hw
    case h_1 row =>
      cases hw
      exact size_of_decode16 row
    case h_2 => cases hw
  · rw [if_neg even]
    have sizes := size_mem i
    simp only [List.mem_cons, List.not_mem_nil, or_false, h, false_or] at sizes
    exact sizes.resolve_left fun h2 => even (instrWord_even h2)

end Sys2Proof

namespace Sys2Proof.Laws

/-! ### Every row of the opcode table -/

/-- The decoder gives back every row from its word. -/
theorem roundTrip (i : Instr) : RoundTrip.Statement i :=
  i.casesOn (motive := RoundTrip.Statement)
    RoundTrip.add RoundTrip.sub RoundTrip.and RoundTrip.or RoundTrip.xor RoundTrip.andn RoundTrip.shl RoundTrip.shr RoundTrip.sar
    RoundTrip.rol RoundTrip.min RoundTrip.max RoundTrip.minN RoundTrip.maxN RoundTrip.slt RoundTrip.sltN RoundTrip.seq RoundTrip.mul
    RoundTrip.mulh RoundTrip.mulhN RoundTrip.div RoundTrip.divN RoundTrip.rem RoundTrip.remN RoundTrip.clz RoundTrip.ctz
    RoundTrip.popc RoundTrip.addi RoundTrip.andi RoundTrip.ori RoundTrip.xori RoundTrip.shli RoundTrip.shri RoundTrip.sari
    RoundTrip.slti RoundTrip.li RoundTrip.lih RoundTrip.ext RoundTrip.ins RoundTrip.mkpl RoundTrip.mkplAbs RoundTrip.csrr
    RoundTrip.csrw RoundTrip.csrs RoundTrip.csrc RoundTrip.oxl RoundTrip.oxm RoundTrip.oxr RoundTrip.b RoundTrip.call RoundTrip.jr
    RoundTrip.beq RoundTrip.bne RoundTrip.blt RoundTrip.bge RoundTrip.bltN RoundTrip.bgeN RoundTrip.bpAny RoundTrip.bpNone
    RoundTrip.bpAll RoundTrip.bpNall RoundTrip.nop RoundTrip.trap RoundTrip.eret RoundTrip.fenceI RoundTrip.seal RoundTrip.unseal
    RoundTrip.trestart RoundTrip.dbgfreeze RoundTrip.cMov RoundTrip.cAdd RoundTrip.cSub RoundTrip.cAnd RoundTrip.cAddi RoundTrip.cLi
    RoundTrip.cShli RoundTrip.cLd RoundTrip.cSt RoundTrip.cB RoundTrip.cBeqz RoundTrip.cBnez RoundTrip.cRet RoundTrip.cAwait
    RoundTrip.cNop RoundTrip.cOr RoundTrip.cXor RoundTrip.cShri RoundTrip.cSari RoundTrip.cLdw RoundTrip.cStw RoundTrip.cSlt
    RoundTrip.cShl RoundTrip.cShr RoundTrip.cNeg RoundTrip.cSeq RoundTrip.cMul RoundTrip.cYield RoundTrip.cTend RoundTrip.cMin
    RoundTrip.cMax RoundTrip.vset RoundTrip.vsetKeep RoundTrip.vadd RoundTrip.vsub RoundTrip.vmul RoundTrip.vmulh RoundTrip.vmacc
    RoundTrip.vmin RoundTrip.vmax RoundTrip.vand RoundTrip.vor RoundTrip.vxor RoundTrip.vshl RoundTrip.vshr RoundTrip.vsar
    RoundTrip.vadds RoundTrip.vsubs RoundTrip.vfadd RoundTrip.vfsub RoundTrip.vfmul RoundTrip.vfma RoundTrip.vfms RoundTrip.vfnma
    RoundTrip.vfmin RoundTrip.vfmax RoundTrip.vfdiv RoundTrip.vmov RoundTrip.vabs RoundTrip.vneg RoundTrip.vnot RoundTrip.vclz
    RoundTrip.vpopc RoundTrip.vfabs RoundTrip.vfneg RoundTrip.vfsqrt RoundTrip.vfrsq RoundTrip.vfrcp RoundTrip.vfexp2 RoundTrip.vflog2
    RoundTrip.vftanh RoundTrip.vfclass RoundTrip.vunpk4Lo RoundTrip.vunpk4Hi RoundTrip.vpack4 RoundTrip.vcvtI8 RoundTrip.vcvtN8
    RoundTrip.vcvtI16 RoundTrip.vcvtN16 RoundTrip.vcvtI32 RoundTrip.vcvtN32 RoundTrip.vcvtI64 RoundTrip.vcvtF64 RoundTrip.vcvtF32
    RoundTrip.vcvtF16 RoundTrip.vcvtBf16 RoundTrip.vcvtE4m3 RoundTrip.vcvtE5m2 RoundTrip.vcvtE2m1 RoundTrip.vcmpEq RoundTrip.vcmpNe
    RoundTrip.vcmpLt RoundTrip.vcmpGe RoundTrip.vcmpLe RoundTrip.vcmpGt RoundTrip.vfcmpEq RoundTrip.vfcmpNe RoundTrip.vfcmpLt
    RoundTrip.vfcmpGe RoundTrip.vfcmpLe RoundTrip.vfcmpGt RoundTrip.vfcmpUno RoundTrip.vfcmpOrd RoundTrip.vmerge RoundTrip.vslideup
    RoundTrip.vslideupRot RoundTrip.vslidedn RoundTrip.vslidednRot RoundTrip.vgathr RoundTrip.vcompress RoundTrip.vexpand
    RoundTrip.vbcast RoundTrip.vbcastE RoundTrip.vextr RoundTrip.vextrSx RoundTrip.vins RoundTrip.vinsCv RoundTrip.vfoldSum
    RoundTrip.vfoldMin RoundTrip.vfoldMax RoundTrip.vfoldAnd RoundTrip.vfoldOr RoundTrip.vfoldXor RoundTrip.vfoldFsum
    RoundTrip.vfoldFmin RoundTrip.vfoldFmax RoundTrip.vidx RoundTrip.vrand RoundTrip.vramp RoundTrip.vrampC RoundTrip.vrampW
    RoundTrip.vrampCW RoundTrip.vbsc RoundTrip.vfscl RoundTrip.vaddVs RoundTrip.vmulVs RoundTrip.vfaddVs RoundTrip.vfmulVs
    RoundTrip.vfmaVs RoundTrip.pand RoundTrip.por RoundTrip.pxor RoundTrip.pandn RoundTrip.pnot RoundTrip.pmov RoundTrip.psetn
    RoundTrip.pclr RoundTrip.pfirst RoundTrip.pcnt RoundTrip.mma RoundTrip.mzero RoundTrip.mepi RoundTrip.mcks RoundTrip.ld
    RoundTrip.ldN RoundTrip.st RoundTrip.lda RoundTrip.ldp RoundTrip.stp RoundTrip.ldpC RoundTrip.vld RoundTrip.vldS RoundTrip.vst
    RoundTrip.vstCk RoundTrip.vstS RoundTrip.vgld RoundTrip.vgldX2 RoundTrip.vsst RoundTrip.vldp RoundTrip.vldpC RoundTrip.vstp
    RoundTrip.pst RoundTrip.pstV RoundTrip.xcopy RoundTrip.wbind RoundTrip.wunb RoundTrip.wskip RoundTrip.wpos RoundTrip.amoSwap
    RoundTrip.amoCas RoundTrip.amoAdd RoundTrip.amoAnd RoundTrip.amoOr RoundTrip.amoXor RoundTrip.amoMin RoundTrip.amoMax
    RoundTrip.amoMinN RoundTrip.amoMaxN RoundTrip.amoFadd RoundTrip.redAdd RoundTrip.redAnd RoundTrip.redOr RoundTrip.redXor
    RoundTrip.redMin RoundTrip.redMax RoundTrip.redMinN RoundTrip.redMaxN RoundTrip.redFadd RoundTrip.vamo RoundTrip.vred
    RoundTrip.gll RoundTrip.scc RoundTrip.fence RoundTrip.fenceRel RoundTrip.fenceAcq RoundTrip.fenceScPkg RoundTrip.fenceSv
    RoundTrip.fenceVs RoundTrip.pbarOrder RoundTrip.pbarComplete RoundTrip.pflush RoundTrip.prefL1 RoundTrip.prefL2 RoundTrip.dlg
    RoundTrip.dlgAm RoundTrip.cmoInv RoundTrip.cmoWb RoundTrip.cmoZero RoundTrip.cmoPfr RoundTrip.cmoPfw RoundTrip.cmoObjclr
    RoundTrip.qinit RoundTrip.qfree RoundTrip.qstat RoundTrip.qpeek RoundTrip.enqTry RoundTrip.enqWait RoundTrip.deqTry
    RoundTrip.deqWait RoundTrip.venqTry RoundTrip.venqWait RoundTrip.vdeqTry RoundTrip.vdeqWait RoundTrip.tspawn RoundTrip.tend
    RoundTrip.yield RoundTrip.gjoin RoundTrip.gang RoundTrip.ungang RoundTrip.wqry RoundTrip.wqryOpen RoundTrip.tlbiVa
    RoundTrip.tlbiPart RoundTrip.tlbiAll RoundTrip.probe RoundTrip.gissue RoundTrip.grevoke RoundTrip.gcheck RoundTrip.kvalloc
    RoundTrip.kvallocInit RoundTrip.kvref RoundTrip.kvunref RoundTrip.kvapp RoundTrip.kvspl RoundTrip.kvreq RoundTrip.kvsrcGet
    RoundTrip.kvsrcSet RoundTrip.kvsrcBump RoundTrip.kvg RoundTrip.kvgStale RoundTrip.kvgRep RoundTrip.kvgAny RoundTrip.rkjob
    RoundTrip.rkstat RoundTrip.rkcancel RoundTrip.await RoundTrip.awaitT RoundTrip.awaitany RoundTrip.celli RoundTrip.signal
    RoundTrip.cread RoundTrip.rvinit RoundTrip.rvarr RoundTrip.rvfree RoundTrip.barw RoundTrip.waituntil RoundTrip.reportRound
    RoundTrip.launchDequeue RoundTrip.launchCancel RoundTrip.panClaim RoundTrip.creationMessage RoundTrip.endMessage
    RoundTrip.tspawnRequest RoundTrip.gjoinRequest RoundTrip.wqryRequest RoundTrip.wqryOpenRequest RoundTrip.trestartRequest
    RoundTrip.sluiceReply RoundTrip.preemptionMessage RoundTrip.preemptionAcknowledgement RoundTrip.resumptionMessage
    RoundTrip.quantumExpiry RoundTrip.stallPromisePassed RoundTrip.tokenWake RoundTrip.tokenRegistration RoundTrip.timerTokenReady
    RoundTrip.awaitTimeout RoundTrip.waituntilTime RoundTrip.backgroundRestore RoundTrip.backgroundRestoreDone
    RoundTrip.thermalRankingTable RoundTrip.thermalCclimStep RoundTrip.mobileRecord RoundTrip.mailboxCsrWrite RoundTrip.levellingVisit
    RoundTrip.delegation RoundTrip.activeMessage RoundTrip.delegationReply RoundTrip.serviceRoutineTimeout RoundTrip.gangJoin
    RoundTrip.gangFormationTimeout RoundTrip.gangOperandMessage RoundTrip.presenceStoreLanding RoundTrip.ldaDataArrival
    RoundTrip.vamoElementArrival RoundTrip.wellRefillLanding RoundTrip.transferComplete RoundTrip.channelCellResume
    RoundTrip.storeBufferDrain RoundTrip.durableStoreAccept RoundTrip.persistAcknowledgement RoundTrip.containmentScrub
    RoundTrip.queueWaiterWake RoundTrip.waiterTableRetry RoundTrip.wireBarrierRelease RoundTrip.barrierTimeout
    RoundTrip.deferredArrival RoundTrip.postedSignalRefused RoundTrip.fabricErrorResponse RoundTrip.ingressRequest
    RoundTrip.leaseExpiry RoundTrip.retentionEntry RoundTrip.retentionExit RoundTrip.rakeJobStart RoundTrip.rakeLayerAdvance
    RoundTrip.hostMemRead RoundTrip.hostMemWrite RoundTrip.hostTailStore RoundTrip.hostBiResponse RoundTrip.attestationRequest
    RoundTrip.attestationSigned RoundTrip.stationDown RoundTrip.bitternResize RoundTrip.partitionLiveWrite RoundTrip.grantKeyRotation
    RoundTrip.controlSpaceWrite RoundTrip.adaptiveVoltagePeriod RoundTrip.equalisationPeriod RoundTrip.thresholdPeriod
    RoundTrip.railDroop RoundTrip.overtemperature RoundTrip.freezeSignal RoundTrip.powerLoss RoundTrip.packageReset
    RoundTrip.nonInstruction RoundTrip.coreCheckFailure RoundTrip.mapOutDone RoundTrip.panPreparationDone RoundTrip.persistBufferDrain
    RoundTrip.stationUp RoundTrip.fabricStoreAcknowledgement RoundTrip.rakeCopyResume

/-- Settles O1: the word of every row decodes to the row, and its bytes to the word. -/
theorem decodeEncodeAgree : Obligations.DecodeEncodeAgree := by
  unfold Obligations.DecodeEncodeAgree
  intro i h rest
  have word := roundTrip i h
  rw [encode, size_eq_wordBytes h word]
  exact decode_leBytes word rest

end Sys2Proof.Laws
end

section
/-! The claims about the compressed arithmetic forms (O12), nops and words that are no instruction (O18). -/

namespace Sys2Proof.Machine

/-! ### Scalar values (R127) -/

theorem shiftLeft_eq_mul (a : Word) (n : Nat) : a <<< n = BitVec.ofNat 64 (a.toNat * 2 ^ n) := by
  rw [← Nat.shiftLeft_eq]
  rfl

theorem ushiftRight_eq_div (a : Word) (n : Nat) : a >>> n = BitVec.ofNat 64 (a.toNat / 2 ^ n) := by
  rw [← Nat.shiftRight_eq_div_pow, ← BitVec.toNat_ushiftRight, BitVec.ofNat_toNat, BitVec.setWidth_eq]

theorem sshiftRight_eq_div (a : Word) (n : Nat) : a.sshiftRight n = BitVec.ofInt 64 (a.toInt / 2 ^ n) := by
  rw [BitVec.sshiftRight, Int.shiftRight_eq_div_pow]
  rfl

theorem mul_eq_ofInt (a b : Word) : a * b = BitVec.ofInt 64 (a.toInt * b.toInt) := by
  rw [BitVec.ofInt_mul, BitVec.ofInt_toInt, BitVec.ofInt_toInt]

theorem shamt_eq (b : Word) : shamt b = shiftOf b := by
  simp [shamt, bits, shiftOf]

theorem shiftLeft_shamt (a b : Word) : a <<< shamt b = BitVec.ofNat 64 (a.toNat * 2 ^ shiftOf b) := by rw [shamt_eq, shiftLeft_eq_mul]

theorem ushiftRight_shamt (a b : Word) : a >>> shamt b = BitVec.ofNat 64 (a.toNat / 2 ^ shiftOf b) := by rw [shamt_eq, ushiftRight_eq_div]

theorem boolWord_decide (p : Prop) [Decidable p] : boolWord (decide p) = if p then 1 else 0 := by
  simp only [boolWord, decide_eq_true_eq]

theorem ltSigned_iff (a b : Word) : ltSigned a b = true ↔ a.toInt < b.toInt := BitVec.slt_iff_toInt_lt

theorem boolWord_ltSigned (a b : Word) : boolWord (ltSigned a b) = if a.toInt < b.toInt then 1 else 0 := by
  simp only [boolWord, ltSigned_iff]

theorem minSigned_eq (a b : Word) : minSigned a b = if a.toInt ≤ b.toInt then a else b := by
  simp only [minSigned, ltSigned_iff, ← not_le, ite_not]

theorem maxSigned_eq (a b : Word) : maxSigned a b = if a.toInt ≤ b.toInt then b else a := by
  simp only [maxSigned, ltSigned_iff]
  split_ifs with hlt hle hle
  · rfl
  · exact absurd hlt.le hle
  · exact (BitVec.eq_of_toInt_eq (le_antisymm hle (not_lt.mp hlt)))
  · rfl

/-! ### Results in scalar registers (R107, R123) -/

theorem scalarResult_done (n : Nat) (d : BitVec 5) (v : Word) (s : State) :
    ∃ t, scalarResult n d v s = .next t ∧ ScalarDone n d v s t :=
  ⟨_, rfl, complete_scalar n 1 d v s⟩

/-- The arithmetic of R79 is that of the equivalents: each gives the value of its row of the table. -/
theorem exec_compressed {s : State} {i : Instr} {d : BitVec 5} {v : Word} (h : table79 s.x i = some (d, v)) :
    exec i s = scalarResult 2 d v s := by
  cases i with
  | cMov | cAdd | cSub | cAnd | cOr | cXor | cAddi | cLi | cShli | cNeg => cases h; rfl
  | cShri => cases h; rw [← ushiftRight_eq_div]; rfl
  | cSari => cases h; rw [← sshiftRight_eq_div]; rfl
  | cShl => cases h; rw [← shiftLeft_shamt]; rfl
  | cShr => cases h; rw [← ushiftRight_shamt]; rfl
  | cSlt => cases h; rw [← boolWord_ltSigned]; rfl
  | cSeq => cases h; rw [← boolWord_decide]; rfl
  | cMul => cases h; rw [← mul_eq_ofInt]; rfl
  | cMin => cases h; rw [← minSigned_eq]; rfl
  | cMax => cases h; rw [← maxSigned_eq]; rfl
  | _ => cases h

/-- Settles O12: by the table, a compressed form is one result in a scalar register. -/
theorem compressedResults : Obligations.CompressedResults := by
  unfold Obligations.CompressedResults
  intro s i d v h
  rw [exec_compressed h]
  exact scalarResult_done 2 d v s

/-- Settles O18: the nops complete, and what raises Illegal instruction names its word. -/
theorem nopsAndIllegal : Obligations.NopsAndIllegal := by
  unfold Obligations.NopsAndIllegal
  refine ⟨fun s a => ⟨⟨_, rfl, complete_plain 4 1 s⟩, ⟨_, rfl, complete_plain 2 1 s⟩, ?_⟩, fun w s => ?_⟩
  · show raise s (exc .illegalInstruction (0x8000 + bits (s.x a) 14 0) (BitVec.ofNat 64 (encTrap a))) = _
    rw [bits, pow_zero, Nat.div_one]
    rfl
  · show raise s (exc .illegalInstruction 0 (BitVec.ofNat 64 w.toNat)) = _
    rw [BitVec.ofNat_toNat]
    rfl

end Sys2Proof.Machine
end

section
/-! The claim about the fetch (O3): a halfword that the fetch path holds no copy of is read at its point of order. -/

namespace Sys2Proof.Machine

/-! ### One halfword (R146, R320) -/

@[simp] theorem markUsed_core (s : State) (u : Use) (write : Bool) : (markUsed s u write).core = s.core := by
  obtain ⟨r, m, l, w, recalled, h, -⟩ := markUsed_eq s u write
  rw [h]
  exact recalled.core

@[simp] theorem markUsed_poison (s : State) (u : Use) (write : Bool) : (markUsed s u write).poison = s.poison := by
  obtain ⟨r, m, l, w, recalled, h, -⟩ := markUsed_eq s u write
  rw [h]
  show r.poison = s.poison
  rw [recalled.rest]

theorem touchesPoison_clean {s : State} (h : s.poison = []) (pa n : Nat) : touchesPoison s pa n = false := by
  simp [touchesPoison, h]

theorem halfwordAt_unheld {s : State} {pa : Nat} (h : ∀ f ∈ s.core.fetched, f.1 ≠ pa) : halfwordAt s pa = physLe s pa 2 := by
  have unheld : s.core.fetched.find? (fun f => f.1 = pa) = none := by simpa using h
  rw [halfwordAt, unheld]

/-- The state that the fetch of a halfword at `pa` leaves: the walker's marks, and the fetch path holds it (R146, R320). -/
def fetchedHalf (s : State) (pa : Nat) (u : Use) : State :=
  { markUsed s u false with
    core := { s.core with fetched := (pa, physLe s pa 2) :: s.core.fetched.filter (fun f => f.1 ≠ pa) } }

theorem fetchHalf_phys {s : State} {va : Word} {pa : Nat} {u : Use} (newLine : Bool)
    (ht : translate s s.part s.privileged va Need.exec = .ok (.phys pa u)) (hclean : s.poison = [])
    (hheld : ∀ f ∈ s.core.fetched, f.1 ≠ pa) : fetchHalf s va newLine = .ok (physLe s pa 2, fetchedHalf s pa u) := by
  simp [fetchHalf, ht, touchesPoison_clean hclean, halfwordAt_unheld hheld, fetchedHalf]

theorem fetchedHalf_ctx (s : State) (pa : Nat) (u : Use) : (fetchedHalf s pa u).ctx = s.ctx := (markUsed_keeps s u false).ctx

/-! ### The word at the pc (R72) -/

theorem fetchWord_short {s s1 : State} {h : Nat} (hpc : s.ctx.pc.getLsbD 0 = false) (h1 : fetchHalf s s.ctx.pc true = .ok (h, s1))
    (hbit : h % 2 = 0) : fetchWord s = .ok (natBytes 2 h, s1) := by
  simp only [fetchWord, hpc, Bool.false_eq_true, if_false, h1, hbit, if_true]

theorem fetchWord_long {s s1 s2 : State} {h k : Nat} (hpc : s.ctx.pc.getLsbD 0 = false) (h1 : fetchHalf s s.ctx.pc true = .ok (h, s1))
    (hbit : h % 2 = 1) (h2 : ∀ newLine, fetchHalf s1 (s.ctx.pc + 2) newLine = .ok (k, s2)) :
    fetchWord s = .ok (natBytes 2 h ++ natBytes 2 k, s2) := by
  simp only [fetchWord, hpc, Bool.false_eq_true, if_false, h1, hbit, one_ne_zero, h2]

/-- Settles O3: the fetch of the second halfword starts in the state that the first one leaves. -/
theorem fetchReadsMemory : Obligations.FetchReadsMemory := by
  unfold Obligations.FetchReadsMemory
  intro s pa u hempty hclean
  refine ⟨fun hpc ht => ?_, fun hpc => by rw [fetchWord, if_pos hpc]⟩
  intro s1
  have first := fetchHalf_phys true ht hclean (by simp [hempty])
  have state : fetchedHalf s pa u = s1 := by simp [fetchedHalf, s1, hempty]
  rw [state] at first
  have ctx : s1.ctx = s.ctx := state ▸ fetchedHalf_ctx s pa u
  refine ⟨fun hbit => ⟨s1, fetchWord_short hpc first hbit, ctx⟩, fun pb v hbit ht2 hne => ?_⟩
  have second := fun newLine => fetchHalf_phys newLine ht2 (by simp [s1, hclean]) (by simpa [s1] using hne.symm)
  exact ⟨_, fetchWord_long hpc first hbit second, (fetchedHalf_ctx s1 pb v).trans ctx⟩

end Sys2Proof.Machine
end

section
/-! SUPPORT. Elements of vector groups and what writes of elements leave (R108, R109, R113). -/

namespace Sys2Proof.Machine

/-! ### Vector registers (R108, R113) -/

/-- Writing a register marks it, and it alone, in VDMAP. -/
theorem Ctx.vdmap_setV (c : Ctx) (n k : Nat) (v : VReg) :
    (c.setV n v).vdmap.getLsbD k = (c.vdmap.getLsbD k || (decide (k < 64) && decide (n = k))) := by
  simp only [Ctx.setV, BitVec.getLsbD_or, BitVec.getLsbD_ofNat, Nat.testBit_two_pow]

theorem Ctx.getV_setV_same (c : Ctx) {n : Nat} (v : VReg) (hn : n < 64) : (c.setV n v).getV n = v := by
  have mark : (c.setV n v).vdmap.getLsbD n = true := by simp [Ctx.vdmap_setV, hn]
  rw [Ctx.getV, if_pos mark]
  simp [Ctx.setV, hn]

theorem Ctx.getV_setV_ne (c : Ctx) {n k : Nat} (v : VReg) (h : k ≠ n) : (c.setV n v).getV k = c.getV k := by
  have mark : (c.setV n v).vdmap.getLsbD k = c.vdmap.getLsbD k := by simp [Ctx.vdmap_setV, h.symm]
  rw [Ctx.getV, mark]
  simp only [Ctx.setV, Vector.getElem?_setIfInBounds, h.symm, if_false, Ctx.getV]

/-- Register k is one of a group (first, count). -/
def inGroup (r : Nat × Nat) (k : Nat) : Prop := r.1 ≤ k ∧ k < r.1 + r.2

theorem not_inGroup_of_disjoint {a b : Nat × Nat} (h : disjointGroups a b = true) {k : Nat} (ha : inGroup a k) : ¬inGroup b k := by
  simp only [disjointGroups, rangesMeet, Bool.not_eq_true', Bool.and_eq_false_iff, decide_eq_false_iff_not] at h
  unfold inGroup at *
  omega

theorem disjointGroups_symm {a b : Nat × Nat} (h : disjointGroups a b = true) : disjointGroups b a = true := by
  simp only [disjointGroups, rangesMeet, Bool.not_eq_true', Bool.and_eq_false_iff, decide_eq_false_iff_not] at h ⊢
  omega

/-! ### Bits of an element (R109) -/

theorem getLsbD_putBits (r : VReg) (off w x : Nat) {j : Nat} (hj : j < 4096) :
    (putBits r off w x).getLsbD j = if off ≤ j ∧ j < off + w then x.testBit (j - off) else r.getLsbD j := by
  simp only [putBits, BitVec.getLsbD_or, BitVec.getLsbD_and, BitVec.getLsbD_not, BitVec.getLsbD_shiftLeft, BitVec.getLsbD_ofNat,
    Nat.testBit_two_pow_sub_one, Nat.testBit_mod_two_pow, hj, decide_true, Bool.true_and]
  by_cases hlo : j < off
  · simp [hlo, not_le.mpr hlo]
  · have hlt : j - off < 4096 := by omega
    by_cases hw : j < off + w
    · simp [hlo, not_lt.mp hlo, hw, hlt, show j - off < w by omega]
    · simp [hlo, hw, hlt, show ¬j - off < w by omega]

theorem testBit_elem (c : Ctx) (v w i j : Nat) :
    (c.elem v w i).testBit j = (decide (j < w) && (c.getV (v + i * w / 4096)).getLsbD (i * w % 4096 + j)) := by
  simp [Ctx.elem, Nat.testBit_mod_two_pow, BitVec.testBit_toNat]

theorem elem_lt (c : Ctx) (v w i : Nat) : c.elem v w i < 2 ^ w := Nat.mod_lt _ (Nat.two_pow_pos w)

theorem elem_congr {c c' : Ctx} {v w i : Nat} (h : c'.getV (v + i * w / 4096) = c.getV (v + i * w / 4096)) :
    c'.elem v w i = c.elem v w i := by
  simp only [Ctx.elem, h]

/-- An element whose width divides that of a register ends inside its register. -/
theorem elem_inside {w : Nat} (hw : w ∣ 4096) (i : Nat) : i * w % 4096 + w ≤ 4096 := by
  obtain ⟨q, hq⟩ := hw
  rw [hq, Nat.mul_comm i, Nat.mul_mod_mul_left, ← Nat.mul_succ]
  have : 0 < q := Nat.pos_of_ne_zero fun h => by simp [h] at hq
  exact Nat.mul_le_mul_left w (Nat.mod_lt i this)

theorem elem_setElem_same (c : Ctx) {v w : Nat} (hw : w ∣ 4096) (i x : Nat) (hreg : v + i * w / 4096 < 64) :
    (c.setElem v w i x).elem v w i = x % 2 ^ w := by
  refine Nat.eq_of_testBit_eq fun j => ?_
  rw [testBit_elem, Nat.testBit_mod_two_pow]
  by_cases hj : j < w
  · have := elem_inside hw i
    simp [Ctx.setElem, Ctx.getV_setV_same _ _ hreg, getLsbD_putBits _ _ _ _ (show i * w % 4096 + j < 4096 by omega), hj]
  · simp [hj]

theorem elem_setElem_ne (c : Ctx) {v w : Nat} (hw : w ∣ 4096) {i k : Nat} (x : Nat) (hreg : v + i * w / 4096 < 64) (h : k ≠ i) :
    (c.setElem v w i x).elem v w k = c.elem v w k := by
  by_cases hr : k * w / 4096 = i * w / 4096
  · refine Nat.eq_of_testBit_eq fun j => ?_
    rw [testBit_elem, testBit_elem, hr]
    by_cases hj : j < w
    · have := elem_inside hw k
      have apart : ¬(i * w % 4096 ≤ k * w % 4096 + j ∧ k * w % 4096 + j < i * w % 4096 + w) := by
        have hi := Nat.div_add_mod (i * w) 4096
        have hk := Nat.div_add_mod (k * w) 4096
        rcases Nat.lt_or_gt_of_ne h with lt | gt
        · have := Nat.mul_le_mul_right w (Nat.succ_le_of_lt lt)
          rw [Nat.succ_mul] at this
          omega
        · have := Nat.mul_le_mul_right w (Nat.succ_le_of_lt gt)
          rw [Nat.succ_mul] at this
          omega
      simp [Ctx.setElem, Ctx.getV_setV_same _ _ hreg, getLsbD_putBits _ _ _ _ (show k * w % 4096 + j < 4096 by omega), apart]
    · simp [hj]
  · exact elem_congr (Ctx.getV_setV_ne _ _ (by omega))

/-- An element of q parts: part k is an element of the width of the parts. -/
theorem elem_part (c : Ctx) (v : Nat) {q w : Nat} (hw : q * w ∣ 4096) (m : Nat) {k : Nat} (hk : k < q) :
    c.elem v w (m * q + k) = c.elem v (q * w) m / 2 ^ (k * w) % 2 ^ w := by
  have inside := elem_inside hw m
  have part : k * w + w ≤ q * w := by rw [← Nat.succ_mul]; exact Nat.mul_le_mul_right w hk
  have bit : (m * q + k) * w = m * (q * w) + k * w := by ring
  refine Nat.eq_of_testBit_eq fun j => ?_
  rw [testBit_elem, Nat.testBit_mod_two_pow, Nat.testBit_div_two_pow, testBit_elem, bit]
  by_cases hj : j < w
  · have hreg : (m * (q * w) + k * w) / 4096 = m * (q * w) / 4096 := by omega
    have hoff : (m * (q * w) + k * w) % 4096 + j = m * (q * w) % 4096 + (j + k * w) := by omega
    simp [hj, hreg, hoff, show j + k * w < q * w by omega]
  · simp [hj]

end Sys2Proof.Machine
end

section
/-! SUPPORT. What runs of element writes leave: the elements they give, every other register, and the flags they join (R99, R109). -/

namespace Sys2Proof.Machine

/-! ### Registers outside the groups written -/

/-- From `c` to `c'` only registers of the groups `ds`, and their VDMAP bits, were written. -/
structure WritesOnly (ds : List (Nat × Nat)) (c c' : Ctx) : Prop where
  other : ∀ k, (∀ r ∈ ds, ¬inGroup r k) → c'.getV k = c.getV k
  rest : c' = { c with v := c'.v, vdmap := c'.vdmap }

theorem WritesOnly.refl (ds : List (Nat × Nat)) (c : Ctx) : WritesOnly ds c c := ⟨fun _ _ => rfl, rfl⟩

theorem WritesOnly.trans {ds : List (Nat × Nat)} {c c' c'' : Ctx} (h : WritesOnly ds c c') (g : WritesOnly ds c' c'') :
    WritesOnly ds c c'' :=
  ⟨fun k hk => (g.other k hk).trans (h.other k hk), by rw [g.rest, h.rest]⟩

theorem WritesOnly.setElem {ds : List (Nat × Nat)} {c c' : Ctx} (h : WritesOnly ds c c') {r : Nat × Nat} (hr : r ∈ ds) {w i : Nat}
    (x : Nat) (hi : i * w / 4096 < r.2) : WritesOnly ds c (c'.setElem r.1 w i x) := by
  refine h.trans ⟨fun k hk => Ctx.getV_setV_ne _ _ fun e => hk r hr ?_, rfl⟩
  exact ⟨by omega, by omega⟩

theorem WritesOnly.ffl {ds : List (Nat × Nat)} {c c' : Ctx} (h : WritesOnly ds c c') : c'.ffl = c.ffl := by rw [h.rest]

/-- An element that lies in no group written is as before. -/
theorem WritesOnly.elem {ds : List (Nat × Nat)} {c c' : Ctx} (h : WritesOnly ds c c') {g : Nat × Nat}
    (hg : ∀ r ∈ ds, disjointGroups r g = true) {w i : Nat} (hi : i * w / 4096 < g.2) : c'.elem g.1 w i = c.elem g.1 w i :=
  elem_congr (h.other _ fun r hr hin => not_inGroup_of_disjoint (hg r hr) hin ⟨by omega, by omega⟩)

/-! ### Elements of the group written -/

/-- From `c` to `c'` the elements of group g for which P holds were given the values `f`, the others kept. -/
structure Written (g : Nat × Nat) (w : Nat) (f : Nat → Nat) (P : Nat → Prop) (c c' : Ctx) : Prop where
  new : ∀ k, k * w / 4096 < g.2 → P k → c'.elem g.1 w k = f k % 2 ^ w
  old : ∀ k, k * w / 4096 < g.2 → ¬P k → c'.elem g.1 w k = c.elem g.1 w k

section
variable {g : Nat × Nat} {w : Nat} {f : Nat → Nat} {P Q : Nat → Prop} {c c' c'' : Ctx}

theorem Written.refl (h : ∀ k, ¬P k) : Written g w f P c c := ⟨fun k _ hk => absurd hk (h k), fun _ _ _ => rfl⟩

theorem Written.congr (h : Written g w f P c c') (hPQ : ∀ k, k * w / 4096 < g.2 → (P k ↔ Q k)) : Written g w f Q c c' :=
  ⟨fun k hk hQ => h.new k hk ((hPQ k hk).mpr hQ), fun k hk hQ => h.old k hk fun hP => hQ ((hPQ k hk).mp hP)⟩

/-- Writes that leave the elements of the group leave what it was given. -/
theorem Written.keep (h : Written g w f P c c') (hk : ∀ k, k * w / 4096 < g.2 → c''.elem g.1 w k = c'.elem g.1 w k) :
    Written g w f P c c'' :=
  ⟨fun k hin hP => (hk k hin).trans (h.new k hin hP), fun k hin hP => (hk k hin).trans (h.old k hin hP)⟩

theorem Written.setElem (h : Written g w f P c c') (hw : w ∣ 4096) {i : Nat} (hi : i * w / 4096 < g.2) (hg : g.1 + g.2 ≤ 64) :
    Written g w f (fun k => P k ∨ k = i) c (c'.setElem g.1 w i (f i)) := by
  have hreg : g.1 + i * w / 4096 < 64 := by omega
  refine ⟨fun k hk hP => ?_, fun k hk hP => ?_⟩
  · by_cases e : k = i
    · rw [e, elem_setElem_same _ hw _ _ hreg]
    · rw [elem_setElem_ne _ hw _ hreg e]
      exact h.new k hk (hP.resolve_right e)
  · obtain ⟨hP, e⟩ := not_or.mp hP
    rw [elem_setElem_ne _ hw _ hreg e]
    exact h.old k hk hP

theorem Written.elem_eq (h : Written g w f P c c') [DecidablePred P] {k : Nat} (hk : k * w / 4096 < g.2) :
    c'.elem g.1 w k = if P k then f k % 2 ^ w else c.elem g.1 w k := by
  split
  · exact h.new k hk ‹_›
  · exact h.old k hk ‹_›

end

/-! ### Flags (R99) -/

theorem ite_or_eq_or (p q : Bool) (v : BitVec 5) : (if p || q then v else 0) = (if p then v else 0) ||| (if q then v else 0) := by
  cases p <;> cases q <;> simp

@[simp] theorem bits_union (a b : Flags) : (a.union b).bits = a.bits ||| b.bits := by
  unfold Flags.bits Flags.union
  dsimp only
  simp only [ite_or_eq_or]
  ac_rfl

@[simp] theorem bits_none : Flags.none.bits = 0 := rfl

/-- The flags `f` are those of `fs` together. -/
def FlagsOf (fs : Flags → Prop) (f : Flags) : Prop := ∀ j, f.bits.getLsbD j = true ↔ ∃ x, fs x ∧ x.bits.getLsbD j = true

theorem flagsOf_none {fs : Flags → Prop} (h : ∀ x, ¬fs x) : FlagsOf fs Flags.none :=
  fun j => by simpa using fun x hx => absurd hx (h x)

theorem FlagsOf.congr {fs gs : Flags → Prop} {f : Flags} (h : FlagsOf fs f) (e : ∀ x, fs x ↔ gs x) : FlagsOf gs f :=
  fun j => by simp only [h j, e]

theorem FlagsOf.union {fs gs : Flags → Prop} {f g : Flags} (h : FlagsOf fs f) (h' : FlagsOf gs g) :
    FlagsOf (fun x => fs x ∨ gs x) (f.union g) := by
  intro j
  rw [bits_union, BitVec.getLsbD_or, Bool.or_eq_true, h j, h' j]
  simp only [or_and_right, exists_or]

theorem flagsOf_self (f : Flags) : FlagsOf (fun x => x = f) f := fun j => by simp

/-- Flags joined along a list. -/
theorem flagsOf_foldl {α : Type} (flags : α → Flags) (gs : α → Flags → Prop) (hflags : ∀ a, FlagsOf (gs a) (flags a)) (l : List α)
    {fs : Flags → Prop} {f : Flags} (h : FlagsOf fs f) :
    FlagsOf (fun x => fs x ∨ ∃ a ∈ l, gs a x) (l.foldl (fun f a => f.union (flags a)) f) := by
  induction l generalizing fs f with
  | nil => exact h.congr fun x => by simp
  | cons a l ih => exact (ih (h.union (hflags a))).congr fun x => by simp [or_assoc]

theorem flagsOf_joinFlags (l : List (Nat × Flags)) : FlagsOf (fun x => ∃ r ∈ l, x = r.2) (joinFlags l) := by
  have none : FlagsOf (fun _ => False) Flags.none := flagsOf_none fun _ => id
  unfold joinFlags
  exact (flagsOf_foldl (fun r : Nat × Flags => r.2) (fun r x => x = r.2) (fun r => flagsOf_self r.2) l none).congr fun x => by
    simp only [false_or]

end Sys2Proof.Machine
end

section
/-! SUPPORT. The frame of a vector or matrix instruction whose registers no well holds and that nothing cuts short: what its completion
leaves (R99, R114), and what its sources do (R155, R272). -/

namespace Sys2Proof.Machine

/-! ### Completion (R99, R114) -/

/-- The state that a completed vector instruction leaves, which read no well: the registers `r.1`, FFL with the flags of `r.2`, VSTART 0. -/
def vectorFinished (beats : Nat) (r : Ctx × Flags) (s : State) : State :=
  (({ s with ctx := { r.1.raise r.2 with vstart := 0 } } : State).advance 4).retire beats

theorem vectorDone_next (beats : Nat) (r : Ctx × Flags) (s : State) : vectorDone [] beats r s = .next (vectorFinished beats r s) := rfl

theorem vectorFinished_ctx (beats : Nat) (r : Ctx × Flags) (s : State) :
    (vectorFinished beats r s).ctx = { r.1.raise r.2 with vstart := 0, pc := r.1.pc + 4 } := by
  simp [vectorFinished]

theorem vectorFinished_ffl (beats : Nat) (r : Ctx × Flags) (s : State) : (vectorFinished beats r s).ctx.ffl = r.1.ffl ||| r.2.bits := by
  rw [vectorFinished_ctx]
  rfl

theorem vectorFinished_elem (beats : Nat) (r : Ctx × Flags) (s : State) (v w i : Nat) :
    (vectorFinished beats r s).ctx.elem v w i = r.1.elem v w i := by
  rw [vectorFinished_ctx]
  rfl

theorem vectorFinished_flags {fs : Flags → Prop} (beats : Nat) {r : Ctx × Flags} {s : State} (hffl : r.1.ffl = s.ctx.ffl)
    (h : FlagsOf fs r.2) : FlagsJoined fs s (vectorFinished beats r s) := by
  intro j
  rw [vectorFinished_ffl, BitVec.getLsbD_or, Bool.or_eq_true, hffl, h j]

theorem vectorFinished_done {sh : VectorShape} (beats : Nat) {r : Ctx × Flags} {s : State} (h : WritesOnly sh.dests s.ctx r.1) :
    VectorDone sh s (vectorFinished beats r s) := by
  have ctx := vectorFinished_ctx beats r s
  have pc : r.1.pc = s.ctx.pc := by rw [h.rest]
  have scalar : ∀ q, r.1.getS q = s.ctx.getS q := fun q => by rw [h.rest]; rfl
  have done := complete_completed 4 beats { s with ctx := { r.1.raise r.2 with vstart := 0 } }
  have only := complete_only 4 beats { s with ctx := { r.1.raise r.2 with vstart := 0 } }
  refine ⟨⟨?_, done.counted⟩, by rw [ctx], fun k _ hk => ?_, fun k _ _ => ?_, fun q _ => ?_, ?_,
    ⟨only.launch, only.core, only.rest⟩, ?_⟩
  · rw [ctx, ← pc]; rfl
  · rw [ctx]; exact h.other k hk
  · rw [ctx, h.rest]; rfl
  · rw [State.x, ctx]; exact scalar q
  · rw [ctx, h.rest]; rfl
  · constructor <;> simp [vectorFinished]

/-! ### Wells (R155, R271, R272) -/

theorem Well.group_pos (w : Well) : 0 < w.group := Nat.two_pow_pos _

theorem Well.buffer_lt (w : Well) : w.buffer < w.nbuf := by
  have pos : 0 < w.nbuf := Nat.succ_pos _
  unfold Well.buffer
  split
  · exact Nat.mod_lt _ pos
  · exact pos

/-- The current strip lies in the bound group. -/
theorem Well.strip_le (w : Well) : w.buffer * w.group + w.group ≤ w.regs := by
  rw [← Nat.succ_mul]
  exact Nat.mul_le_mul_right _ w.buffer_lt

theorem rangesMeet_strip {w : Well} {r : Nat × Nat} (h : rangesMeet r (w.vreg, w.regs) = false) :
    rangesMeet r (w.vreg + w.buffer * w.group, w.group) = false := by
  have strip := w.strip_le
  have pos := w.group_pos
  simp only [rangesMeet, Bool.and_eq_false_iff, decide_eq_false_iff_not] at h ⊢
  omega

theorem Ctx.exists_well_of_mem {c : Ctx} {w : Well} (h : some w ∈ c.wells.toList) : ∃ k, c.well k = some w := by
  obtain ⟨k, hk, e⟩ := List.getElem_of_mem h
  refine ⟨k, ?_⟩
  simp only [Vector.length_toList] at hk
  simpa [Ctx.well, hk] using e

section
variable {s : State} {sh : VectorShape} (h : WellsAside s sh)
include h

theorem boundGroup_aside {r : Nat × Nat} (hr : r ∈ sh.dests ++ sh.reads) : s.ctx.boundGroup r = false := by
  rw [Ctx.boundGroup, List.any_eq_false]
  intro x hx
  cases x with
  | none => simp
  | some w =>
    obtain ⟨k, hk⟩ := Ctx.exists_well_of_mem hx
    simpa using (h k w hk).1 r hr

theorem wellsRead_aside {rs : List (Nat × Nat)} (hrs : ∀ r ∈ rs, r ∈ sh.dests ++ sh.reads) : s.ctx.wellsRead rs = [] := by
  rw [Ctx.wellsRead, List.filter_eq_nil_iff]
  intro k _
  cases hk : s.ctx.well k with
  | none => simp
  | some w => simpa using fun a b hr => rangesMeet_strip ((h k w hk).1 _ (hrs _ hr))

theorem stripRegister_aside {r : Nat × Nat} (hr : r ∈ sh.dests ++ sh.reads) {v : Nat} (hv : inGroup r v) :
    s.ctx.stripRegister v = none := by
  rw [Ctx.stripRegister, List.findSome?_eq_none_iff]
  intro k _
  cases hk : s.ctx.well k with
  | none => rfl
  | some w =>
    have apart := rangesMeet_strip ((h k w hk).1 r hr)
    have pos := w.group_pos
    simp only [rangesMeet, Bool.and_eq_false_iff, decide_eq_false_iff_not] at apart
    unfold inGroup at hv
    exact if_neg (by omega)

theorem landRegisters_aside {r : Nat × Nat} (hr : r ∈ sh.dests ++ sh.reads) {l : List Nat} (hl : ∀ v ∈ l, inGroup r v) :
    landRegisters s l = (s, none) := by
  induction l with
  | nil => rfl
  | cons v l ih =>
    rw [landRegisters, stripRegister_aside h hr (hl v (by simp))]
    exact ih fun u hu => hl u (by simp [hu])

end

/-! ### Sources -/

/-- The elements below hi of a source lie in its group. -/
def Source.inside (r : Source) (hi : Nat) : Prop := r.all = true ∨ (r.skip + hi - 1) * r.width / 4096 < r.count

/-- A source that is read row by row, of rows that fit its group. -/
theorem inside_rows {first n w vl : Nat} (hpos : 0 < vl) (hfit : ∀ m, m < vl → m * (64 * w) / 4096 < n) :
    (⟨first, n, 64 * w, 0, false⟩ : Source).inside vl := by
  refine .inr ?_
  simpa using hfit (vl - 1) (by omega)

theorem Source.registers_inGroup {r : Source} {lo hi : Nat} (h : r.inside hi) {v : Nat} (hv : v ∈ r.registers lo hi) :
    inGroup (r.first, r.count) v := by
  unfold Source.registers at hv
  split at hv
  · simp only [List.mem_map, List.mem_range] at hv
    obtain ⟨k, hk, rfl⟩ := hv
    exact ⟨by simp, by simpa using hk⟩
  · have last := h.resolve_left ‹_›
    simp only [List.mem_map, List.mem_range] at hv
    obtain ⟨k, hk, rfl⟩ := hv
    exact ⟨by dsimp only; omega, by dsimp only; omega⟩

theorem landSources_aside {s : State} {sh : VectorShape} (h : WellsAside s sh) (o : VOp) (lo hi : Nat) {srcs : List Source}
    (hreads : ∀ r ∈ srcs, (r.first, r.count) ∈ sh.reads ∧ r.inside hi) : landSources o lo hi srcs s = (s, none) := by
  induction srcs with
  | nil => rfl
  | cons r l ih =>
    obtain ⟨hr, hin⟩ := hreads r (by simp)
    have land := landRegisters_aside h (List.mem_append_right _ hr) (l := r.registers lo hi) fun v hv => Source.registers_inGroup hin hv
    have rest := ih fun q hq => hreads q (by simp [hq])
    simp only [landSources, land, rest]

theorem wellsRead_sources {s : State} {sh : VectorShape} (h : WellsAside s sh) {srcs : List Source}
    (hreads : ∀ r ∈ srcs, (r.first, r.count) ∈ sh.reads) :
    s.ctx.wellsRead (srcs.map (fun r => (r.first, r.count))) = [] :=
  wellsRead_aside h fun r hr => by
    obtain ⟨q, hq, rfl⟩ := List.mem_map.mp hr
    exact List.mem_append_right _ (hreads q hq)

theorem wellsReady_none (s : State) (k : State → Out) : wellsReady [] s k = k s := rfl

theorem destBound_aside {s : State} {sh : VectorShape} (h : WellsAside s sh) {o : VOp} (hd : ∀ r ∈ o.dests, r ∈ sh.dests)
    (hp : o.pdest = 0) : s.ctx.destBound o = false := by
  have groups : o.dests.any s.ctx.boundGroup = false :=
    List.any_eq_false.mpr fun r hr => by simpa using boundGroup_aside h (by simp [hd r hr])
  simp [Ctx.destBound, groups, hp, Ctx.boundPred]

/-! ### Nothing cuts it short (R49, R17) -/

theorem lastElem_undisturbed {s : State} (h : Undisturbed s) (unit lo vl : Nat) : s.lastElem unit lo vl = vl := by
  rw [State.lastElem, h.1]

theorem strike_undisturbed {s : State} (h : Undisturbed s) (on : StrikeOn) : s.strike on = none := by
  rw [State.strike, h.2]
  rfl

theorem whenOk_of {ok : Bool} (h : ok = true) (word : Nat) (s : State) (k : Out) : whenOk ok word s k = k := if_pos h

end Sys2Proof.Machine
end

section
/-! SUPPORT. The rows that matrix instructions write: mzero, mepi and mcks (R186, R196-R201). -/

namespace Sys2Proof.Machine

/-! ### Rows of 64 elements (R186) -/

/-- The elements of row m. -/
def rowElems (m : Nat) : List Nat := (List.range 64).map (64 * m + ·)

theorem mem_rowElems {m k : Nat} : k ∈ rowElems m ↔ k / 64 = m := by
  simp only [rowElems, List.mem_map, List.mem_range]
  refine ⟨fun ⟨n, hn, e⟩ => by omega, fun e => ⟨k % 64, Nat.mod_lt _ (by decide), by omega⟩⟩

/-- The codes of row m of a matrix whose elements are `f`. -/
def rowCodes (f : Nat → Nat) (m : Nat) : List Nat := (rowElems m).map f

/-- Row m of elements of w bits lies in n registers. -/
def rowFits (w n m : Nat) : Prop := (64 * m + 63) * w / 4096 < n

theorem rowFits.elem {w n m k : Nat} (h : rowFits w n m) (hk : k / 64 ≤ m) : k * w / 4096 < n :=
  lt_of_le_of_lt (Nat.div_le_div_right (Nat.mul_le_mul_right w (by omega))) h

theorem rowFits.start {w n m : Nat} (h : rowFits w n m) : m * (64 * w) / 4096 < n := by
  have e := h.elem (k := 64 * m) (by omega)
  rwa [Nat.mul_comm 64, Nat.mul_assoc] at e

theorem writeRow_rowCodes (c : Ctx) (v w m : Nat) (f : Nat → Nat) :
    writeRow c v w m (rowCodes f m) = (rowElems m).foldl (fun c i => c.setElem v w i (f i)) c := by
  have pairs : (rowCodes f m).zip (List.range 64) = (List.range 64).map fun n => (f (64 * m + n), n) := by
    rw [rowCodes, rowElems, List.map_map]
    conv_lhs => arg 2; rw [← List.map_id (List.range 64)]
    rw [List.zip_map']
    rfl
  rw [writeRow, pairs, List.foldl_map, rowElems, List.foldl_map]

section
variable {g : Nat × Nat} {w : Nat} {f : Nat → Nat} {P : Nat → Prop} {c c' : Ctx}

theorem Written.setElems (h : Written g w f P c c') (hw : w ∣ 4096) (hg : g.1 + g.2 ≤ 64) {l : List Nat}
    (hl : ∀ i ∈ l, i * w / 4096 < g.2) :
    Written g w f (fun k => P k ∨ k ∈ l) c (l.foldl (fun c i => c.setElem g.1 w i (f i)) c') := by
  induction l generalizing P c' with
  | nil => exact h.congr fun k _ => by simp
  | cons i l ih =>
    exact (ih (h.setElem hw (hl i (by simp)) hg) fun j hj => hl j (by simp [hj])).congr fun k _ => by simp [or_assoc]

theorem Written.writeRow (h : Written g w f P c c') (hw : w ∣ 4096) (hg : g.1 + g.2 ≤ 64) {m : Nat} (hm : rowFits w g.2 m) :
    Written g w f (fun k => P k ∨ k / 64 = m) c (writeRow c' g.1 w m (rowCodes f m)) := by
  rw [writeRow_rowCodes]
  exact (h.setElems hw hg fun i hi => hm.elem (mem_rowElems.mp hi).le).congr fun k _ => by rw [mem_rowElems]

theorem Written.writeRows (h : Written g w f P c c') (hw : w ∣ 4096) (hg : g.1 + g.2 ≤ 64) {l : List Nat}
    (hl : ∀ m ∈ l, rowFits w g.2 m) :
    Written g w f (fun k => P k ∨ k / 64 ∈ l) c (l.foldl (fun c m => Machine.writeRow c g.1 w m (rowCodes f m)) c') := by
  induction l generalizing P c' with
  | nil => exact h.congr fun k _ => by simp
  | cons m l ih =>
    have first := h.writeRow hw hg (hl m (by simp))
    have rest := ih first fun j hj => hl j (by simp [hj])
    rw [List.foldl_cons]
    exact rest.congr fun k _ => by simp only [List.mem_cons, or_assoc]

variable {ds : List (Nat × Nat)}

theorem WritesOnly.writeRow (h : WritesOnly ds c c') (hd : g ∈ ds) (f : Nat → Nat) {m : Nat} (hm : rowFits w g.2 m) :
    WritesOnly ds c (writeRow c' g.1 w m (rowCodes f m)) := by
  rw [writeRow_rowCodes]
  refine List.foldlRecOn _ _ h fun c'' h i hi => h.setElem hd _ (hm.elem (mem_rowElems.mp hi).le)

theorem WritesOnly.writeRows (h : WritesOnly ds c c') (hd : g ∈ ds) (f : Nat → Nat) {l : List Nat} (hl : ∀ m ∈ l, rowFits w g.2 m) :
    WritesOnly ds c (l.foldl (fun c m => Machine.writeRow c g.1 w m (rowCodes f m)) c') :=
  List.foldlRecOn _ _ h fun _ h m hm => h.writeRow hd f (hl m hm)

end

/-! ### mzero (R196) -/

theorem replicate_zero_eq (m : Nat) : List.replicate 64 0 = rowCodes (fun _ => 0) m := by
  rw [rowCodes, List.map_const', rowElems, List.length_map, List.length_range]

/-- What mzero leaves of the registers: n rows from lo are zero. -/
def zeroRows (v lo : Nat) (c : Ctx) (n : Nat) : Ctx :=
  (List.range n).foldl (fun c k => writeRow c v 32 (lo + k) (List.replicate 64 0)) c

theorem zeroRows_eq (v lo : Nat) (c : Ctx) (n : Nat) :
    zeroRows v lo c n = ((List.range n).map (lo + ·)).foldl (fun c m => writeRow c v 32 m (rowCodes (fun _ => 0) m)) c := by
  rw [zeroRows, List.foldl_map]
  simp only [← replicate_zero_eq]

/-! ### Rows as numbers -/

/-- The parts of a number, joined. -/
theorem joinCodes_eq (w : Nat) (N x : Nat) :
    joinCodes w ((List.range N).map fun n => x / 2 ^ (n * w) % 2 ^ w) = x % 2 ^ (N * w) := by
  induction N generalizing x with
  | zero => simp [joinCodes, Nat.mod_one]
  | succ N ih =>
    have tail : ((List.range N).map Nat.succ).map (fun n => x / 2 ^ (n * w) % 2 ^ w)
        = (List.range N).map fun n => x / 2 ^ w / 2 ^ (n * w) % 2 ^ w := by
      rw [List.map_map]
      refine List.map_congr_left fun n _ => ?_
      simp only [Function.comp_apply, Nat.succ_mul, Nat.div_div_eq_div_mul, ← Nat.pow_add, Nat.add_comm w]
    rw [List.range_succ_eq_map, List.map_cons, tail, joinCodes, ih]
    simp only [Nat.zero_mul, pow_zero, Nat.div_one, Nat.mod_mod, Nat.succ_mul, Nat.add_comm (N * w), Nat.pow_add, Nat.mod_mul]

theorem joinCodes_congr (w : Nat) {l l' : List Nat} (h : l.map (· % 2 ^ w) = l'.map (· % 2 ^ w)) : joinCodes w l = joinCodes w l' := by
  induction l generalizing l' with
  | nil => rw [List.map_eq_nil_iff.mp h.symm]
  | cons x l ih =>
    cases l' with
    | nil => cases h
    | cons y l' =>
      obtain ⟨head, tail⟩ := List.cons.inj h
      rw [joinCodes, joinCodes, ih tail]
      exact congrArg (· + _) head

/-- The codes of a row that was written, joined. -/
theorem joinCodes_row {c : Ctx} {v w : Nat} (hw : 64 * w ∣ 4096) {m : Nat} {f : Nat → Nat}
    (h : ∀ k, k / 64 = m → c.elem v w k = f k % 2 ^ w) : joinCodes w (rowCodes f m) = c.elem v (64 * w) m := by
  have codes : (rowCodes f m).map (· % 2 ^ w)
      = ((List.range 64).map fun n => c.elem v (64 * w) m / 2 ^ (n * w) % 2 ^ w).map (· % 2 ^ w) := by
    rw [rowCodes, rowElems, List.map_map, List.map_map, List.map_map]
    refine List.map_congr_left fun n hn => ?_
    have hn := List.mem_range.mp hn
    have part := elem_part c v hw m hn
    rw [Nat.mul_comm m] at part
    simp only [Function.comp_apply, ← h (64 * m + n) (by omega), part, Nat.mod_mod]
  rw [joinCodes_congr w codes, joinCodes_eq]
  exact Nat.mod_eq_of_lt (elem_lt c v _ m)

/-! ### Rows and their flags -/

/-- From `c` to `r` the rows for which R holds were given the elements of `out`, and the flags are theirs. -/
structure RowsDone (g : Nat × Nat) (w : Nat) (out : Nat → Nat → Nat × Flags) (R : Nat → Prop) (c : Ctx) (r : Ctx × Flags) : Prop where
  elems : Written g w (fun k => (out (k / 64) (k % 64)).1) (fun k => R (k / 64)) c r.1
  flags : FlagsOf (fun x => ∃ m n, R m ∧ n < 64 ∧ x = (out m n).2) r.2

section
variable {g : Nat × Nat} {w : Nat} {out : Nat → Nat → Nat × Flags} {R Q : Nat → Prop} {c : Ctx} {r : Ctx × Flags}

theorem RowsDone.start (h : ∀ m, ¬R m) : RowsDone g w out R c (c, Flags.none) :=
  ⟨Written.refl fun k => h (k / 64), flagsOf_none fun _ ⟨m, _, hm, _⟩ => h m hm⟩

theorem RowsDone.congr (h : RowsDone g w out R c r) (e : ∀ m, R m ↔ Q m) : RowsDone g w out Q c r :=
  ⟨h.elems.congr fun k _ => e (k / 64), h.flags.congr fun x => by simp only [e]⟩

theorem rowCodes_out (out : Nat → Nat → Nat × Flags) (m : Nat) :
    rowCodes (fun k => (out (k / 64) (k % 64)).1) m = ((List.range 64).map (out m)).map (fun x => x.1) := by
  rw [rowCodes, rowElems, List.map_map, List.map_map]
  refine List.map_congr_left fun n hn => ?_
  have hn := List.mem_range.mp hn
  have row : (64 * m + n) / 64 = m := by omega
  have column : (64 * m + n) % 64 = n := by omega
  simp only [Function.comp_apply, row, column]

theorem flagsOf_row (out : Nat → Nat → Nat × Flags) (m : Nat) :
    FlagsOf (fun x => ∃ n, n < 64 ∧ x = (out m n).2) (joinFlags ((List.range 64).map (out m))) :=
  (flagsOf_joinFlags _).congr fun x => by simp

theorem RowsDone.elem_eq (h : RowsDone g w out R c r) [DecidablePred R] {m n : Nat} (hm : rowFits w g.2 m) (hn : n < 64) :
    r.1.elem g.1 w (64 * m + n) = if R m then (out m n).1 % 2 ^ w else c.elem g.1 w (64 * m + n) := by
  have row : (64 * m + n) / 64 = m := by omega
  have column : (64 * m + n) % 64 = n := by omega
  have elem := h.elems.elem_eq (k := 64 * m + n) (hm.elem row.le)
  simpa only [row, column] using elem

/-- A row that was written, read as one number. -/
theorem RowsDone.joined (h : RowsDone g w out R c r) (hw : 64 * w ∣ 4096) {m : Nat} (hm : rowFits w g.2 m) (hR : R m) :
    joinCodes w (((List.range 64).map (out m)).map (fun x => x.1)) = r.1.elem g.1 (64 * w) m := by
  rw [← rowCodes_out]
  refine joinCodes_row hw fun k hk => h.elems.new k (hm.elem hk.le) ?_
  rwa [hk]

end

/-! ### Rows from m below m + n -/

theorem or_range_zero {p : Prop} {m k : Nat} : p ↔ p ∨ m ≤ k ∧ k < m + 0 := (or_iff_left (by omega)).symm

theorem or_range_succ {p : Prop} {n m k : Nat} : (p ∨ k = m) ∨ m + 1 ≤ k ∧ k < m + 1 + n ↔ p ∨ m ≤ k ∧ k < m + (n + 1) :=
  or_assoc.trans (or_congr_right (by omega))

/-! ### Checksums (R200) -/

theorem fletcherLoop_lt (n x : Nat) {p q : Nat} (hp : p < 65536) (hq : q < 65536) : fletcherLoop n x p q < 2 ^ 32 := by
  induction n generalizing x p q with
  | zero => rw [fletcherLoop]; omega
  | succ n ih => exact ih _ (by omega) (by omega)

theorem fletcher_mod (bytes x : Nat) : fletcher bytes x % 2 ^ 32 = fletcher bytes x :=
  Nat.mod_eq_of_lt (fletcherLoop_lt _ _ (by decide) (by decide))

/-! ### mepi (R197-R200) -/

/-- C(m, n) of mepi and its flags. -/
def mepiOut (f : OutFormat) (mode : RMode) (d : Epilogue) (c : Ctx) (va vb m n : Nat) : Nat × Flags :=
  let code := c.elem va 32 (64 * m + n)
  let u := epilogueValue mode (fmtF32.val code) d.scale (if d.biasEn then some (fmtF32.val (c.elem vb 32 n)) else none)
  let r := match f.float with
    | some g => roundOutput g mode d.sat code (activate d.act u.1)
    | none => roundInt8 mode code (activate d.act u.1)
  (r.1, u.2.union r.2)

theorem mepiRow_eq (f : OutFormat) (mode : RMode) (d : Epilogue) (c : Ctx) (va vb m : Nat) :
    mepiRow f mode d c va vb m = (List.range 64).map (mepiOut f mode d c va vb m) := rfl

/-- The checksum of row m that mepi writes (R200). -/
def mepiCheck (f : OutFormat) (mode : RMode) (d : Epilogue) (c : Ctx) (va vb m : Nat) : Nat :=
  fletcher (8 * f.width) (joinCodes f.width ((mepiRow f mode d c va vb m).map (fun x => x.1)))

/-- What mepi has done once the rows for which R holds are written. -/
structure MepiDone (f : OutFormat) (mode : RMode) (d : Epilogue) (vc va vb count : Nat) (R : Nat → Prop) (c : Ctx) (r : Ctx × Flags) :
    Prop where
  rows : RowsDone (vc, count) f.width (mepiOut f mode d c va vb) R c r
  check : d.ckEn = true → Written (d.ck, 1) 32 (mepiCheck f mode d c va vb) R c r.1
  only : WritesOnly ((vc, count) :: (if d.ckEn then [(d.ck, 1)] else [])) c r.1

section
variable {f : OutFormat} {mode : RMode} {d : Epilogue} {vc va vb count : Nat} {R : Nat → Prop} {c : Ctx} {r : Ctx × Flags}

/-- One row of mepi: its elements, then the checksum where it is enabled. -/
theorem MepiDone.row (h : MepiDone f mode d vc va vb count R c r) (hw : f.width ∣ 4096) (hg : vc + count ≤ 64) {m : Nat}
    (hm : rowFits f.width count m) (h128 : m < 128) (hck : d.ckEn = true → d.ck < 64 ∧ disjointGroups (vc, count) (d.ck, 1) = true) :
    MepiDone f mode d vc va vb count (fun k => R k ∨ k = m) c (mepiRows f mode d c vc va vb 1 m r) := by
  have codes := rowCodes_out (mepiOut f mode d c va vb) m
  have written := h.rows.elems.writeRow hw hg hm
  have only := h.only.writeRow (g := (vc, count)) (by simp) (fun k => (mepiOut f mode d c va vb (k / 64) (k % 64)).1) hm
  have flags := (h.rows.flags.union (flagsOf_row (mepiOut f mode d c va vb) m)).congr
    (gs := fun x => ∃ m' n, (R m' ∨ m' = m) ∧ n < 64 ∧ x = (mepiOut f mode d c va vb m' n).2) fun x => by
      simp only [or_and_right, exists_or, exists_and_left, exists_eq_left]
  rw [codes] at written only
  rw [mepiRows, mepiRows, mepiRow_eq]
  by_cases hen : d.ckEn = true
  · obtain ⟨hreg, apart⟩ := hck hen
    have hfit : m * 32 / 4096 < 1 := by omega
    have row : WritesOnly [(vc, count)] r.1
        (writeRow r.1 vc f.width m (((List.range 64).map (mepiOut f mode d c va vb m)).map (fun x => x.1))) := by
      rw [← codes]
      exact (WritesOnly.refl _ _).writeRow (g := (vc, count)) (by simp) _ hm
    have ck := ((h.check hen).keep fun k hk => row.elem (by simpa using apart) hk).setElem (i := m) (by decide) hfit (by simpa using hreg)
    have sum (c' : Ctx) : WritesOnly [(d.ck, 1)] c' (c'.setElem d.ck 32 m (mepiCheck f mode d c va vb m)) :=
      (WritesOnly.refl _ _).setElem (r := (d.ck, 1)) (by simp) _ hfit
    rw [if_pos hen]
    refine ⟨⟨?_, flags⟩, fun _ => ck, ?_⟩
    · exact written.keep fun k hk => (sum _).elem (by simpa using disjointGroups_symm apart) hk
    · exact only.setElem (r := (d.ck, 1)) (by simp [hen]) _ hfit
  · rw [if_neg hen]
    exact ⟨⟨written, flags⟩, fun e => absurd e hen, only⟩

theorem mepiRows_succ (n m : Nat) : mepiRows f mode d c vc va vb (n + 1) m r
    = mepiRows f mode d c vc va vb n (m + 1) (mepiRows f mode d c vc va vb 1 m r) := rfl

theorem MepiDone.congr {Q : Nat → Prop} (h : MepiDone f mode d vc va vb count R c r) (e : ∀ m, R m ↔ Q m) :
    MepiDone f mode d vc va vb count Q c r :=
  ⟨h.rows.congr e, fun hen => (h.check hen).congr fun m _ => e m, h.only⟩

theorem MepiDone.run (hw : f.width ∣ 4096) (hg : vc + count ≤ 64)
    (hck : d.ckEn = true → d.ck < 64 ∧ disjointGroups (vc, count) (d.ck, 1) = true) (n : Nat) {m : Nat}
    (hm : ∀ k, m ≤ k → k < m + n → rowFits f.width count k ∧ k < 128) (h : MepiDone f mode d vc va vb count R c r) :
    MepiDone f mode d vc va vb count (fun k => R k ∨ m ≤ k ∧ k < m + n) c (mepiRows f mode d c vc va vb n m r) := by
  induction n generalizing R m r with
  | zero => exact h.congr fun k => or_range_zero
  | succ n ih =>
    obtain ⟨fits, small⟩ := hm m le_rfl (by omega)
    rw [mepiRows_succ]
    exact (ih (fun k hlo hk => hm k (by omega) (by omega)) (h.row hw hg fits small hck)).congr fun k => or_range_succ

/-- What mepi leaves once it has written the rows from m below m + n. -/
theorem mepiRows_done (hw : f.width ∣ 4096) (hg : vc + count ≤ 64)
    (hck : d.ckEn = true → d.ck < 64 ∧ disjointGroups (vc, count) (d.ck, 1) = true) (n m : Nat)
    (hm : ∀ k, m ≤ k → k < m + n → rowFits f.width count k ∧ k < 128) :
    MepiDone f mode d vc va vb count (fun k => m ≤ k ∧ k < m + n) c (mepiRows f mode d c vc va vb n m (c, Flags.none)) :=
  have none : MepiDone f mode d vc va vb count (fun _ => False) c (c, Flags.none) :=
    ⟨RowsDone.start fun _ => id, fun _ => Written.refl fun _ => id, WritesOnly.refl _ _⟩
  (none.run hw hg hck n hm).congr fun k => by simp only [false_or]

end

/-! ### mcks (R201) -/

section
variable {bytes va : Nat} {g : Nat × Nat} {c r : Ctx} {R : Nat → Prop}

theorem mcksRows_run (hg : g.1 + g.2 ≤ 64) (n : Nat) {m : Nat} (hm : ∀ k, m ≤ k → k < m + n → k * 32 / 4096 < g.2)
    (h : Written g 32 (fun k => fletcher bytes (c.elem va (8 * bytes) k)) R c r) (only : WritesOnly [g] c r) :
    Written g 32 (fun k => fletcher bytes (c.elem va (8 * bytes) k)) (fun k => R k ∨ m ≤ k ∧ k < m + n) c
      (mcksRows bytes c g.1 va n m r) ∧ WritesOnly [g] c (mcksRows bytes c g.1 va n m r) := by
  induction n generalizing R m r with
  | zero => exact ⟨h.congr fun k _ => or_range_zero, only⟩
  | succ n ih =>
    have fits : m * 32 / 4096 < g.2 := hm m le_rfl (by omega)
    have first := h.setElem (by decide) fits hg
    obtain ⟨rest, restOnly⟩ := ih (m := m + 1) (fun k hlo hk => hm k (by omega) (by omega)) first (only.setElem (by simp) _ fits)
    exact ⟨rest.congr fun k _ => or_range_succ, restOnly⟩

/-- What mcks leaves once it has written the words from m below m + n. -/
theorem mcksRows_done (hg : g.1 + g.2 ≤ 64) (n : Nat) {m : Nat} (hm : ∀ k, m ≤ k → k < m + n → k * 32 / 4096 < g.2) :
    Written g 32 (fun k => fletcher bytes (c.elem va (8 * bytes) k)) (fun k => m ≤ k ∧ k < m + n) c (mcksRows bytes c g.1 va n m c) ∧
      WritesOnly [g] c (mcksRows bytes c g.1 va n m c) := by
  obtain ⟨words, only⟩ := mcksRows_run (bytes := bytes) (va := va) hg n hm (Written.refl (P := fun _ => False) fun _ => id)
    (WritesOnly.refl _ c)
  exact ⟨words.congr fun k _ => by simp only [false_or], only⟩

end

end Sys2Proof.Machine
end

section
/-! SUPPORT. The rows of mma with the row check off (R102, R185-R190). -/

namespace Sys2Proof.Machine

/-! ### Rows of A and columns of B (R185, R186) -/

theorem matFormat_widths {f : BitVec 4} {fm : MatFormat} (h : matFormat f = some fm) :
    fm.k * fm.width = 512 ∧ fm.k / 32 * 8 = fm.k / 4 ∧ fm.k / 4 ∣ 64 ∧ fm.k % 32 = 0 := by
  unfold matFormat at h
  split at h <;> cases h <;> decide

theorem matFormat_block {f : BitVec 4} {fm : MatFormat} (h : matFormat f = some fm) :
    decide (fm.block ≠ 0) = decide (5 ≤ f.toNat) := by
  unfold matFormat at h
  split at h <;> cases h <;> simp_all

theorem matFormat_isSome {f : BitVec 4} (h : f.toNat ≤ 8) : ∃ fm, matFormat f = some fm := by
  have all : ∀ f : BitVec 4, f.toNat ≤ 8 → (matFormat f).isSome := by decide
  exact Option.isSome_iff_exists.mp (all f h)

/-- Row m of A, or column m of B, as R188 reads it. -/
def MatFormat.line (f : MatFormat) (c : Ctx) (v sv m : Nat) : List FVal := (List.range f.k).map fun k =>
  f.value (c.elem sv 8 (m * (f.k / 32) + k / 32)) (c.elem v f.width (m * f.k + k))

theorem value_plain {f : MatFormat} (h : f.block = 0) (scale scale' code : Nat) : f.value scale code = f.value scale' code := by
  simp [MatFormat.value, h]

theorem row_eq_line {f : BitVec 4} {fm : MatFormat} (h : matFormat f = some fm) (c : Ctx) (v sv m : Nat) :
    fm.row (c.row512 v m) (fm.scales c sv m) = fm.line c v sv m := by
  obtain ⟨width, scaleWidth, scaleDvd, blocks⟩ := matFormat_widths h
  refine List.map_congr_left fun k hk => ?_
  have hk := List.mem_range.mp hk
  have code : c.row512 v m / 2 ^ (k * fm.width) % 2 ^ fm.width = c.elem v fm.width (m * fm.k + k) := by
    rw [elem_part c v (by rw [width]; decide) m hk, width]
    rfl
  rw [code]
  by_cases hb : fm.block = 0
  · exact value_plain hb _ _ _
  · have scale : fm.scales c sv m / 256 ^ (k / 32) % 256 = c.elem sv 8 (m * (fm.k / 32) + k / 32) := by
      have hdvd : fm.k / 32 * 8 ∣ 4096 := by rw [scaleWidth]; exact scaleDvd.trans (by decide)
      rw [elem_part c sv hdvd m (by omega), scaleWidth, MatFormat.scales, if_neg hb, Nat.mul_comm (k / 32) 8, Nat.pow_mul]
      norm_num
    rw [scale]

/-- C(m, n) of mma and its flags. -/
def mmaOut (f : MatFormat) (c : Ctx) (vc va asc vb bsc m n : Nat) : Nat × Flags :=
  dotProduct (c.elem vc 32 (64 * m + n)) (f.line c va asc m) (f.line c vb bsc n)

/-! ### One row with the check off (R190) -/

/-- A row whose elements are `out`, unchecked. -/
def uncheckedRow (out : Nat → Nat → Nat × Flags) (m : Nat) : RowResult :=
  ⟨m, ((List.range 64).map (out m)).map (fun x => x.1), joinFlags ((List.range 64).map (out m)), false, true⟩

theorem rowChecked_off (cs cs' : List Nat) (a : List FVal) (bs : List (List FVal)) : rowChecked 0 cs cs' a bs = false := by
  have off : decide (0 < (fmtF32.val ((0 : BitVec 32)).toNat).exact.1) = false := by decide
  simp only [rowChecked, off, Bool.and_false, Bool.false_and]

theorem uncheckedRow_congr {out out' : Nat → Nat → Nat × Flags} {m : Nat} (h : ∀ n, n < 64 → out m n = out' m n) :
    uncheckedRow out m = uncheckedRow out' m := by
  have row : (List.range 64).map (out m) = (List.range 64).map (out' m) := List.map_congr_left fun n hn => h n (List.mem_range.mp hn)
  rw [uncheckedRow, uncheckedRow, row]

theorem mmaRow_off (c : Ctx) (vc m : Nat) (a : List FVal) (col : Nat → List FVal) :
    mmaRow c 0 vc m a ((List.range 64).map col) = uncheckedRow (fun m n => dotProduct (c.elem vc 32 (64 * m + n)) a (col n)) m := by
  simp only [mmaRow, rowPasses, rowChecked_off, Bool.not_false, if_true, uncheckedRow, List.zipWith_map, List.zipWith_self]

/-! ### Chunks (R189) -/

/-- What the chunks have done once the rows for which R holds are written. -/
structure ChunksDone (g : Nat × Nat) (out : Nat → Nat → Nat × Flags) (R : Nat → Prop) (c : Ctx) (r : ChunkRun) : Prop where
  rows : RowsDone g 32 out R c (r.ctx, r.flags)
  only : WritesOnly [g] c r.ctx
  recomputed : r.recomputed = 0
  failed : r.failed = none

/-- The rows of chunk j. -/
def chunkRows (lo hi j : Nat) : List Nat :=
  ((List.range 8).map (fun k => 8 * j + k)).filter (fun m => decide (lo ≤ m) && decide (m < hi))

theorem mem_chunkRows {lo hi j m : Nat} : m ∈ chunkRows lo hi j ↔ (lo ≤ m ∧ m < hi) ∧ m / 8 = j := by
  simp only [chunkRows, List.mem_filter, List.mem_map, List.mem_range, Bool.and_eq_true, decide_eq_true_eq]
  refine ⟨fun ⟨⟨k, hk, e⟩, hm⟩ => ⟨hm, by omega⟩, fun ⟨hm, e⟩ => ⟨⟨m % 8, Nat.mod_lt _ (by decide), by omega⟩, hm⟩⟩

section
variable {g : Nat × Nat} {out : Nat → Nat → Nat × Flags} {R : Nat → Prop} {c : Ctx} {r : ChunkRun}

theorem ChunksDone.congr {Q : Nat → Prop} (h : ChunksDone g out R c r) (e : ∀ m, R m ↔ Q m) : ChunksDone g out Q c r :=
  ⟨h.rows.congr e, h.only, h.recomputed, h.failed⟩

theorem ChunksDone.chunk (h : ChunksDone g out R c r) (hg : g.1 + g.2 ≤ 64) {l : List Nat} (hl : ∀ m ∈ l, rowFits 32 g.2 m) :
    ChunksDone g out (fun m => R m ∨ m ∈ l) c
      { ctx := (l.map (uncheckedRow out)).foldl (fun c x => writeRow c g.1 32 x.row x.codes) r.ctx
        flags := (l.map (uncheckedRow out)).foldl (fun f x => f.union x.flags) r.flags
        rows := r.rows + l.length, recomputed := r.recomputed + 0, failed := none } := by
  have codes := rowCodes_out out
  have written := h.rows.elems.writeRows (by decide) hg hl
  have only := h.only.writeRows (by simp) (fun k => (out (k / 64) (k % 64)).1) hl
  simp only [codes] at written only
  have flags := flagsOf_foldl (fun m => (uncheckedRow out m).flags) (fun m x => ∃ n, n < 64 ∧ x = (out m n).2) (flagsOf_row out) l
    h.rows.flags
  rw [List.foldl_map, List.foldl_map, h.recomputed]
  exact ⟨⟨written, flags.congr fun x => by simp only [or_and_right, exists_or, exists_and_left]⟩, only, rfl, rfl⟩

/-- The chunks from j below j + n, every row of which is computed as `out` gives it while it is not written. -/
theorem runChunks_done {compute : Ctx → Nat → RowResult} {lo hi : Nat} (strikes : Nat → Nat) (hg : g.1 + g.2 ≤ 64)
    (hfit : ∀ m, m < hi → rowFits 32 g.2 m)
    (hrow : ∀ c' m, m < hi → WritesOnly [g] c c' → (∀ n, n < 64 → c'.elem g.1 32 (64 * m + n) = c.elem g.1 32 (64 * m + n)) →
      compute c' m = uncheckedRow out m) (n : Nat) {j : Nat}
    (h : ChunksDone g out (fun m => (lo ≤ m ∧ m < hi) ∧ m / 8 < j) c r) :
    ChunksDone g out (fun m => (lo ≤ m ∧ m < hi) ∧ m / 8 < j + n) c (runChunks compute strikes g.1 lo hi n j r) := by
  induction n generalizing j r with
  | zero => exact h
  | succ n ih =>
    have computed : (chunkRows lo hi j).map (compute r.ctx) = (chunkRows lo hi j).map (uncheckedRow out) := by
      refine List.map_congr_left fun m hm => ?_
      obtain ⟨⟨_, hhi⟩, hj⟩ := mem_chunkRows.mp hm
      refine hrow r.ctx m hhi h.only fun n hn => h.rows.elems.old _ ((hfit m hhi).elem (by omega)) ?_
      omega
    have passes : ((chunkRows lo hi j).map (uncheckedRow out)).find?
        (fun x => !x.passes || (x.checked && decide (2 ≤ strikes x.row))) = none := by
      rw [List.find?_eq_none]
      intro x hx
      obtain ⟨m, _, rfl⟩ := List.mem_map.mp hx
      simp [uncheckedRow]
    have unstruck : ((chunkRows lo hi j).map (uncheckedRow out)).any (fun x => x.checked && decide (1 ≤ strikes x.row)) = false := by
      rw [List.any_eq_false]
      intro x hx
      obtain ⟨m, _, rfl⟩ := List.mem_map.mp hx
      simp [uncheckedRow]
    have fits : ∀ m ∈ chunkRows lo hi j, rowFits 32 g.2 m := fun m hm => hfit m (mem_chunkRows.mp hm).1.2
    have next := (h.chunk hg fits).congr (Q := fun m => (lo ≤ m ∧ m < hi) ∧ m / 8 < j + 1) fun m => by
      rw [mem_chunkRows]
      omega
    have run := ih next
    rw [runChunks]
    rw [show ((List.range 8).map (fun k => 8 * j + k)).filter (fun m => decide (lo ≤ m) && decide (m < hi)) = chunkRows lo hi j from rfl,
      computed]
    simp only [passes, unstruck]
    exact run.congr fun m => by omega

end

end Sys2Proof.Machine
end

section
/-! The claim about the matrix instructions (O25): each is one completion of the frame, with the rows that its function of the registers
gives. -/

namespace Sys2Proof.Machine

/-! ### Rows and tiles (R187) -/

theorem rowsOk_iff (c : Ctx) : rowsOk c = true ↔ c.vl.toNat % 8 = 0 ∧ c.vl.toNat ≤ 64 := by
  simp only [rowsOk, Bool.and_eq_true, decide_eq_true_eq]

/-- Every matrix instruction with allowed fields has VL a multiple of 8 and at most 64 (R187). -/
theorem rows_of_shape {s : State} {i : Instr} {sh : VectorShape} (h : matrixShape s i = some sh) :
    s.ctx.vl.toNat % 8 = 0 ∧ s.ctx.vl.toNat ≤ 64 := by
  rw [← rowsOk_iff]
  by_contra bad
  rw [Bool.not_eq_true] at bad
  cases i with
  | mzero | mma => simp [matrixShape, bad] at h
  | mcks | mepi =>
    simp only [matrixShape, bad, Bool.false_and, Bool.false_eq_true, if_false] at h
    split at h <;> cases h
  | _ => cases h

theorem tileHere_le {s : State} {v : BitVec 6} {n : Nat} (h : tileHere s v n = true) : v.toNat + n ≤ 64 := by
  have hv := v.isLt
  simp only [tileHere, vecHere, Bool.and_eq_true] at h
  obtain ⟨_, h⟩ := h
  split at h <;> simp only [decide_eq_true_eq] at h <;> omega

theorem rowFits_f32 {vl m : Nat} (h8 : vl % 8 = 0) (hm : m < vl) : rowFits 32 (vl / 2) m := by
  unfold rowFits
  omega

theorem outFormat_width {f : BitVec 4} {fm : OutFormat} (h : outFormat f = some fm) : 64 * fm.width ∣ 4096 := by
  unfold outFormat at h
  split at h <;> cases h <;> decide

theorem rowFits_out {f : BitVec 4} {fm : OutFormat} (h : outFormat f = some fm) {vl m : Nat} (h8 : vl % 8 = 0) (hm : m < vl) :
    rowFits fm.width (vl / 8 * fm.regs) m := by
  unfold outFormat at h
  unfold rowFits
  split at h <;> cases h <;> dsimp only <;> omega

/-! ### Completion -/

/-- Where no suspension is due, the rows from VSTART to VL - 1 are written and the instruction completes. -/
theorem matrixTo_done (s : State) (rows : Ctx → Nat → Ctx × Flags) : matrixTo [] s.ctx.vstart.toNat s.ctx.vl.toNat none rows s
    = .next (vectorFinished ((s.ctx.vl.toNat - s.ctx.vstart.toNat) * s.ctx.group) (rows s.ctx (s.ctx.vl.toNat - s.ctx.vstart.toNat)) s) := by
  rw [matrixTo]
  exact (if_neg (lt_irrefl _)).trans (vectorDone_next _ _ s)

/-- With VSTART at or past VL nothing is written; the completion is that of no row. -/
theorem matrixDone_empty {s : State} {rows : Ctx → Nat → Ctx × Flags} (hrows : rows s.ctx 0 = (s.ctx, Flags.none))
    (hle : s.ctx.vl.toNat ≤ s.ctx.vstart.toNat) : matrixDone [] 0 (s.ctx, Flags.none) s
    = .next (vectorFinished ((s.ctx.vl.toNat - s.ctx.vstart.toNat) * s.ctx.group) (rows s.ctx (s.ctx.vl.toNat - s.ctx.vstart.toNat)) s) := by
  rw [Nat.sub_eq_zero_of_le hle, hrows, Nat.zero_mul]
  rfl

/-- What mepi and mcks do once their fields are allowed: by what they write, what they read, and their function of the registers. -/
def rowsFrom (o : VOp) (srcs : List Source) (rows : Ctx → Nat → Ctx × Flags) (s : State) : Out :=
  let lo := s.ctx.vstart.toNat
  let vl := s.ctx.vl.toNat
  let wells := s.ctx.wellsRead (srcs.map (fun r => (r.first, r.count)))
  let last := s.lastElem 8 lo vl
  if s.ctx.destBound o then raise s (exc .boundRegisterAccess 0 0)
  else if vl ≤ lo then matrixDone [] 0 (s.ctx, Flags.none) s
  else wellsReady wells s fun s =>
    let l := landSources o lo last srcs s
    matrixTo wells lo (match l.2 with | some (top, _) => max lo top | none => last) (l.2.map (fun e => e.2)) rows l.1

theorem rowsFrom_done {s : State} {sh : VectorShape} {o : VOp} {srcs : List Source} {rows : Ctx → Nat → Ctx × Flags}
    (hw : WellsAside s sh) (hu : Undisturbed s) (hdests : o.dests = sh.dests) (hpdest : o.pdest = 0)
    (hreads : ∀ r ∈ srcs, (r.first, r.count) ∈ sh.reads ∧ (0 < s.ctx.vl.toNat → r.inside s.ctx.vl.toNat))
    (hrows : rows s.ctx 0 = (s.ctx, Flags.none)) : rowsFrom o srcs rows s
    = .next (vectorFinished ((s.ctx.vl.toNat - s.ctx.vstart.toNat) * s.ctx.group) (rows s.ctx (s.ctx.vl.toNat - s.ctx.vstart.toNat)) s) := by
  have unbound : s.ctx.destBound o = false := destBound_aside hw (fun r hr => hdests ▸ hr) hpdest
  rw [rowsFrom, lastElem_undisturbed hu, wellsRead_sources hw fun r hr => (hreads r hr).1]
  dsimp only
  rw [if_neg (Bool.eq_false_iff.mp unbound), wellsReady_none]
  by_cases hle : s.ctx.vl.toNat ≤ s.ctx.vstart.toNat
  · rw [if_pos hle]
    exact matrixDone_empty hrows hle
  · have land := landSources_aside hw o s.ctx.vstart.toNat s.ctx.vl.toNat fun r hr =>
      And.intro (hreads r hr).1 ((hreads r hr).2 (by omega))
    rw [if_neg hle, land]
    exact matrixTo_done s rows

/-! ### mzero (R196) -/

theorem exec_mzero {s : State} {c : BitVec 6} (hrows : rowsOk s.ctx = true) (htile : tileHere s c (s.ctx.vl.toNat / 2) = true)
    (hbound : s.ctx.boundGroup (c.toNat, s.ctx.vl.toNat / 2) = false) (hu : Undisturbed s) :
    let n := s.ctx.vl.toNat - s.ctx.vstart.toNat
    exec (.mzero c) s = .next (vectorFinished (n * s.ctx.group) (zeroRows c.toNat s.ctx.vstart.toNat s.ctx n, Flags.none) s) := by
  show execMzero c s = _
  rw [execMzero, whenOk_of (by rw [hrows, htile]; rfl), if_neg (by simp [hbound])]
  dsimp only
  rw [lastElem_undisturbed hu]
  split
  · exact matrixDone_empty (rows := fun x n => (zeroRows c.toNat s.ctx.vstart.toNat x n, Flags.none)) rfl ‹_›
  · exact matrixTo_done s fun x n => (zeroRows c.toNat s.ctx.vstart.toNat x n, Flags.none)

theorem mzero_results {s : State} {c : BitVec 6} {sh : VectorShape} (hsh : matrixShape s (.mzero c) = some sh)
    (hbound : s.ctx.boundGroup (c.toNat, s.ctx.vl.toNat / 2) = false) (hu : Undisturbed s) :
    ∃ t, exec (.mzero c) s = .next t ∧ VectorDone sh s t ∧ ∀ k, k < 64 * s.ctx.vl.toNat →
      t.ctx.elem c.toNat 32 k = if 64 * s.ctx.vstart.toNat ≤ k then 0 else s.ctx.elem c.toNat 32 k := by
  obtain ⟨h8, _⟩ := rows_of_shape hsh
  simp only [matrixShape, Option.ite_none_right_eq_some, Bool.and_eq_true, Option.some.injEq] at hsh
  obtain ⟨⟨hrows, htile⟩, rfl⟩ := hsh
  have written : ∀ m ∈ (List.range (s.ctx.vl.toNat - s.ctx.vstart.toNat)).map (s.ctx.vstart.toNat + ·),
      rowFits 32 (c.toNat, s.ctx.vl.toNat / 2).2 m := by
    intro m hm
    simp only [List.mem_map, List.mem_range] at hm
    exact rowFits_f32 h8 (by omega)
  have rows := (Written.refl (g := (c.toNat, s.ctx.vl.toNat / 2)) (c := s.ctx) (f := fun _ => 0) (P := fun _ => False)
    fun _ => id).writeRows (w := 32) (by decide) (tileHere_le htile) written
  have only := (WritesOnly.refl [(c.toNat, s.ctx.vl.toNat / 2)] s.ctx).writeRows (by simp) (fun _ => 0) written
  rw [← zeroRows_eq] at rows only
  refine ⟨_, exec_mzero hrows htile hbound hu, vectorFinished_done _ only, fun k hk => ?_⟩
  rw [vectorFinished_elem, rows.elem_eq ((rowFits_f32 h8 (m := k / 64) (by omega)).elem le_rfl)]
  simp only [List.mem_map, List.mem_range, false_or, Nat.zero_mod]
  exact if_congr ⟨fun ⟨a, ha⟩ => by omega, fun h => ⟨k / 64 - s.ctx.vstart.toNat, by omega⟩⟩ rfl rfl

/-! ### mcks (R201) -/

section
variable {s : State} {c a : BitVec 6} {f : BitVec 4} {fm : OutFormat} {sh : VectorShape}

theorem matrixShape_mcks (hf : outFormat f = some fm) (hsh : matrixShape s (.mcks c a f) = some sh) :
    let ag := (a.toNat, s.ctx.vl.toNat / 8 * fm.regs)
    (rowsOk s.ctx && vecHere s c.toNat && tileHere s a ag.2 && disjointGroups (c.toNat, 1) ag) = true ∧
    sh = ⟨[(c.toNat, 1)], [ag], 0, none⟩ := by
  simp only [matrixShape, hf, Option.ite_none_right_eq_some, Option.some.injEq] at hsh
  exact ⟨hsh.1, hsh.2.symm⟩

theorem exec_mcks (hf : outFormat f = some fm) (hsh : matrixShape s (.mcks c a f) = some sh) (hw : WellsAside s sh) (hu : Undisturbed s) :
    let n := s.ctx.vl.toNat - s.ctx.vstart.toNat
    exec (.mcks c a f) s = .next (vectorFinished (n * s.ctx.group)
      (mcksRows (8 * fm.width) s.ctx c.toNat a.toNat n s.ctx.vstart.toNat s.ctx, Flags.none) s) := by
  obtain ⟨h8, _⟩ := rows_of_shape hsh
  obtain ⟨hok, rfl⟩ := matrixShape_mcks hf hsh
  have run : exec (.mcks c a f) s = rowsFrom { pred := 0, pinv := false, sources := [], dests := [(c.toNat, 1)] }
      [⟨a.toNat, s.ctx.vl.toNat / 8 * fm.regs, 64 * fm.width, 0, false⟩]
      (fun x n => (mcksRows (8 * fm.width) x c.toNat a.toNat n s.ctx.vstart.toNat x, Flags.none)) s := by
    show execMcks c a f s = _
    simp only [execMcks, hf]
    exact whenOk_of hok _ _ _
  refine run.trans (rowsFrom_done hw hu rfl rfl (fun r hr => ?_) rfl)
  rw [List.mem_singleton.mp hr]
  exact ⟨by simp, fun hpos => inside_rows hpos fun m hm => (rowFits_out hf h8 hm).start⟩

theorem mcks_results (hf : outFormat f = some fm) (hsh : matrixShape s (.mcks c a f) = some sh) (hw : WellsAside s sh)
    (hu : Undisturbed s) : ∃ t, exec (.mcks c a f) s = .next t ∧ VectorDone sh s t ∧ t.ctx.ffl = s.ctx.ffl ∧
      ∀ m, m < 128 → t.ctx.elem c.toNat 32 m = if s.ctx.vstart.toNat ≤ m ∧ m < s.ctx.vl.toNat
        then fletcher (8 * fm.width) (s.ctx.elem a.toNat (64 * fm.width) m) else s.ctx.elem c.toNat 32 m := by
  have run := exec_mcks hf hsh hw hu
  obtain ⟨_, h64⟩ := rows_of_shape hsh
  obtain ⟨_, rfl⟩ := matrixShape_mcks hf hsh
  have hc := c.isLt
  obtain ⟨checks, only⟩ := mcksRows_done (bytes := 8 * fm.width) (va := a.toNat) (g := (c.toNat, 1)) (by dsimp only; omega)
    (s.ctx.vl.toNat - s.ctx.vstart.toNat) (m := s.ctx.vstart.toNat) (c := s.ctx)
    (fun k hlo hk => by dsimp only; omega)
  refine ⟨_, run, vectorFinished_done _ only, ?_, fun m hm => ?_⟩
  · rw [vectorFinished_ffl, only.ffl, bits_none]
    exact BitVec.or_zero
  · rw [vectorFinished_elem, checks.elem_eq (by dsimp only; omega), fletcher_mod, ← Nat.mul_assoc]
    exact if_congr (by omega) rfl rfl

end

/-! ### mepi (R197-R200) -/

section
variable {s : State} {c a b : BitVec 6} {f : BitVec 4} {fm : OutFormat} {sh : VectorShape}

/-- The fields of ox5 that govern mepi (R198). -/
def State.epilogue (s : State) : Epilogue := epilogueOf (s.ctx.getOx 5)

/-- Rows of mepi from VSTART on. -/
def mepiRun (fm : OutFormat) (c a b : BitVec 6) (s : State) (x : Ctx) (n : Nat) : Ctx × Flags :=
  mepiRows fm (rmodeOf x.frm) s.epilogue x c.toNat a.toNat b.toNat n s.ctx.vstart.toNat (x, Flags.none)

/-- C(m, n) of an executing mepi and its flags. -/
def mepiElem (fm : OutFormat) (a b : BitVec 6) (s : State) : Nat → Nat → Nat × Flags :=
  mepiOut fm (rmodeOf s.ctx.frm) s.epilogue s.ctx a.toNat b.toNat

theorem apart_of_allDisjoint {r q : Nat × Nat} {l : List (Nat × Nat)} (h : allDisjoint (r :: l) = true) (hq : q ∈ l) :
    disjointGroups r q = true := by
  simp only [allDisjoint, Bool.and_eq_true, List.all_eq_true] at h
  exact h.1 q hq

/-- A group and, where a flag says so, one register besides. -/
theorem mem_cons_ite {α : Type} {x y z : α} {p : Prop} [Decidable p] : x ∈ y :: (if p then [z] else []) ↔ x = y ∨ p ∧ x = z := by
  split <;> simp_all

theorem matrixShape_mepi (hf : outFormat f = some fm) (hsh : matrixShape s (.mepi c a b f) = some sh) :
    let og := (c.toNat, s.ctx.vl.toNat / 8 * fm.regs)
    let ag := (a.toNat, s.ctx.vl.toNat / 2)
    let extra := (if s.epilogue.biasEn then [(b.toNat, 1)] else []) ++ (if s.epilogue.ckEn then [(s.epilogue.ck, 1)] else [])
    (rowsOk s.ctx && s.hasOx && decide (bits (s.ctx.getOx 5) 31 12 = 0) && decide (s.epilogue.act ≤ 4) && (s.epilogue.biasEn || decide (b = 0))
      && tileHere s c og.2 && tileHere s a ag.2 && allDisjoint (og :: extra) && allDisjoint (ag :: extra)
      && ((decide (c = a) && decide (f = 0)) || disjointGroups og ag)) = true ∧
    sh = ⟨og :: (if s.epilogue.ckEn then [(s.epilogue.ck, 1)] else []), ag :: (if s.epilogue.biasEn then [(b.toNat, 1)] else []),
      0, none⟩ := by
  simp only [matrixShape, hf, Option.ite_none_right_eq_some, Option.some.injEq] at hsh
  exact ⟨hsh.1, hsh.2.symm⟩

theorem exec_mepi (hf : outFormat f = some fm) (hsh : matrixShape s (.mepi c a b f) = some sh) (hw : WellsAside s sh)
    (hu : Undisturbed s) :
    let n := s.ctx.vl.toNat - s.ctx.vstart.toNat
    exec (.mepi c a b f) s = .next (vectorFinished (n * s.ctx.group) (mepiRun fm c a b s s.ctx n) s) := by
  obtain ⟨h8, _⟩ := rows_of_shape hsh
  obtain ⟨hok, rfl⟩ := matrixShape_mepi hf hsh
  have run : exec (.mepi c a b f) s = rowsFrom
      { pred := 0, pinv := false, sources := [],
        dests := (c.toNat, s.ctx.vl.toNat / 8 * fm.regs) :: (if s.epilogue.ckEn then [(s.epilogue.ck, 1)] else []) }
      (⟨a.toNat, s.ctx.vl.toNat / 2, 2048, 0, false⟩ :: (if s.epilogue.biasEn then [⟨b.toNat, 1, 32, 0, true⟩] else []))
      (mepiRun fm c a b s) s := by
    show execMepi c a b f s = _
    simp only [execMepi, hf]
    exact whenOk_of hok _ _ _
  refine run.trans (rowsFrom_done hw hu rfl rfl (fun r hr => ?_) rfl)
  rcases mem_cons_ite.mp hr with rfl | ⟨bias, rfl⟩
  · exact ⟨by simp, fun hpos => inside_rows (w := 32) hpos fun m hm => by omega⟩
  · exact ⟨by simp [bias], fun _ => .inl rfl⟩

theorem mepi_results (hf : outFormat f = some fm) (hsh : matrixShape s (.mepi c a b f) = some sh) (hw : WellsAside s sh)
    (hu : Undisturbed s) : ∃ t, exec (.mepi c a b f) s = .next t ∧ VectorDone sh s t ∧
      FlagsJoined (fun y => ∃ m n, s.ctx.vstart.toNat ≤ m ∧ m < s.ctx.vl.toNat ∧ n < 64 ∧ y = (mepiElem fm a b s m n).2) s t ∧
      (∀ m n, m < s.ctx.vl.toNat → n < 64 → t.ctx.elem c.toNat fm.width (64 * m + n)
        = if s.ctx.vstart.toNat ≤ m then (mepiElem fm a b s m n).1 % 2 ^ fm.width else s.ctx.elem c.toNat fm.width (64 * m + n)) ∧
      (s.epilogue.ckEn = true → ∀ m, m < 128 → t.ctx.elem s.epilogue.ck 32 m = if s.ctx.vstart.toNat ≤ m ∧ m < s.ctx.vl.toNat
        then fletcher (8 * fm.width) (t.ctx.elem c.toNat (64 * fm.width) m) else s.ctx.elem s.epilogue.ck 32 m) := by
  have run := exec_mepi hf hsh hw hu
  obtain ⟨h8, h64⟩ := rows_of_shape hsh
  obtain ⟨hok, rfl⟩ := matrixShape_mepi hf hsh
  simp only [Bool.and_eq_true] at hok
  obtain ⟨⟨⟨⟨⟨_, htile⟩, _⟩, hapart⟩, _⟩, _⟩ := hok
  have hwidth := outFormat_width hf
  have fits : ∀ m, m < s.ctx.vl.toNat → rowFits fm.width (s.ctx.vl.toNat / 8 * fm.regs) m := fun m => rowFits_out hf h8
  have check : s.epilogue.ckEn = true → s.epilogue.ck < 64 ∧
      disjointGroups (c.toNat, s.ctx.vl.toNat / 8 * fm.regs) (s.epilogue.ck, 1) = true := fun hen =>
    ⟨Nat.mod_lt _ (by decide), apart_of_allDisjoint hapart (by simp [hen])⟩
  have done : MepiDone fm (rmodeOf s.ctx.frm) s.epilogue c.toNat a.toNat b.toNat (s.ctx.vl.toNat / 8 * fm.regs)
      (fun m => s.ctx.vstart.toNat ≤ m ∧ m < s.ctx.vl.toNat) s.ctx (mepiRun fm c a b s s.ctx (s.ctx.vl.toNat - s.ctx.vstart.toNat)) :=
    (mepiRows_done ((Nat.dvd_mul_left _ _).trans hwidth) (tileHere_le htile) check _ _
      fun k hlo hk => ⟨fits k (by omega), by omega⟩).congr fun m => by omega
  refine ⟨_, run, vectorFinished_done _ done.only, ?_, fun m n hm hn => ?_, fun hen m hm => ?_⟩
  · exact vectorFinished_flags _ done.only.ffl (done.rows.flags.congr fun y => by simp only [and_assoc, mepiElem])
  · rw [vectorFinished_elem, done.rows.elem_eq (fits m hm) hn]
    simp only [hm, and_true]
    rfl
  · rw [vectorFinished_elem, vectorFinished_elem, (done.check hen).elem_eq (by dsimp only; omega), mepiCheck, fletcher_mod]
    refine ite_congr rfl (fun hrow => ?_) fun _ => rfl
    rw [← done.rows.joined hwidth (fits m hrow.2) hrow]
    rfl

end

/-! ### mma (R188) -/

/-- The scale registers of A and B (R187). -/
def State.scaleA (s : State) : Nat := bits (s.ctx.getOx 4) 5 0
def State.scaleB (s : State) : Nat := bits (s.ctx.getOx 4) 11 6

/-- The chunks of an mma outside gangs, from VSTART on. -/
def mmaChunks (fm : MatFormat) (c a b : BitVec 6) (s : State) : ChunkRun :=
  let lo := s.ctx.vstart.toNat
  let vl := s.ctx.vl.toNat
  let cols := (List.range 64).map (fun n => fm.row (s.ctx.row512 b.toNat n) (fm.scales s.ctx s.scaleB n))
  runChunks (fun x m => mmaRow x s.lc.mckth c.toNat m (fm.row (x.row512 a.toNat m) (fm.scales x s.scaleA m)) cols)
    (strikesRow s lo) c.toNat lo vl ((vl + 7) / 8 - lo / 8) (lo / 8) ⟨s.ctx, Flags.none, 0, 0, none⟩

/-- C(m, n) of an executing mma and its flags. -/
def mmaElem (fm : MatFormat) (c a b : BitVec 6) (s : State) : Nat → Nat → Nat × Flags :=
  mmaOut fm s.ctx c.toNat a.toNat s.scaleA b.toNat s.scaleB

/-- What mma reads (R185, R187). -/
def mmaReads (blk : Bool) (a b : BitVec 6) (s : State) : List (Nat × Nat) :=
  (a.toNat, s.ctx.vl.toNat / 8) :: (b.toNat, 8) :: (if blk then [(s.scaleA, 1), (s.scaleB, 1)] else [])

/-- The same as sources of the frame: A row by row, B and the scales as wholes. -/
def mmaSources (blk : Bool) (a b : BitVec 6) (s : State) : List Source :=
  (⟨a.toNat, s.ctx.vl.toNat / 8, 512, 0, false⟩ :: (if blk then [⟨s.scaleA, 1, 8, 0, true⟩] else []))
    ++ (⟨b.toNat, 8, 512, 0, true⟩ :: (if blk then [⟨s.scaleB, 1, 8, 0, true⟩] else []))

theorem mmaSources_reads {blk : Bool} {a b : BitVec 6} {s : State} (h8 : s.ctx.vl.toNat % 8 = 0) (hpos : 0 < s.ctx.vl.toNat) :
    ∀ r ∈ mmaSources blk a b s, (r.first, r.count) ∈ mmaReads blk a b s ∧ r.inside s.ctx.vl.toNat := by
  intro r hr
  rcases List.mem_append.mp hr with hA | hB
  · rcases mem_cons_ite.mp hA with rfl | ⟨hblk, rfl⟩
    · exact ⟨by simp [mmaReads], inside_rows (w := 8) hpos fun m hm => by omega⟩
    · exact ⟨by simp [mmaReads, hblk], .inl rfl⟩
  · rcases mem_cons_ite.mp hB with rfl | ⟨hblk, rfl⟩
    · exact ⟨by simp [mmaReads], .inl rfl⟩
    · exact ⟨by simp [mmaReads, hblk], .inl rfl⟩

theorem State.count_zero (s : State) (k : Fin 8) : s.count k 0 = s := by
  simp [State.count]

section
variable {s : State} {c a b : BitVec 6} {f : BitVec 4} {fm : MatFormat} {sh : VectorShape}

theorem matrixShape_mma (hf : matFormat f = some fm) (hsh : matrixShape s (.mma c a b f) = some sh) :
    let cg := (c.toNat, s.ctx.vl.toNat / 2)
    (rowsOk s.ctx && tileHere s a (s.ctx.vl.toNat / 8) && decide (b.toNat % 8 = 0) && vecHere s (b.toNat + 7)
      && tileHere s c (s.ctx.vl.toNat / 2) && disjointGroups cg (a.toNat, s.ctx.vl.toNat / 8) && disjointGroups cg (b.toNat, 8)
      && (decide (fm.block = 0) || (s.hasOx && decide (bits (s.ctx.getOx 4) 63 12 = 0) && disjointGroups cg (s.scaleA, 1)
        && disjointGroups cg (s.scaleB, 1)))) = true ∧
    sh = ⟨[cg], mmaReads (decide (fm.block ≠ 0)) a b s, 0, none⟩ := by
  have plain : decide (fm.block = 0) = !decide (5 ≤ f.toNat) := by rw [← matFormat_block hf]; simp
  simp only [matrixShape, Option.ite_none_right_eq_some, Option.some.injEq] at hsh
  obtain ⟨hok, rfl⟩ := hsh
  rw [plain, matFormat_block hf]
  refine ⟨?_, rfl⟩
  simp only [Bool.and_assoc, Bool.and_eq_true (decide (f.toNat ≤ 8))] at hok ⊢
  exact hok.2

/-- A row that is not yet written is computed as in the old registers while only C is written: A and its scales are not in C. -/
theorem mmaRow_unwritten (hf : matFormat f = some fm) (hsh : matrixShape s (.mma c a b f) = some sh) (hth : s.lc.mckth = 0) {x : Ctx} {m : Nat}
    (hm : m < s.ctx.vl.toNat) (only : WritesOnly [(c.toNat, s.ctx.vl.toNat / 2)] s.ctx x)
    (old : ∀ n, n < 64 → x.elem c.toNat 32 (64 * m + n) = s.ctx.elem c.toNat 32 (64 * m + n)) :
    mmaRow x s.lc.mckth c.toNat m (fm.row (x.row512 a.toNat m) (fm.scales x s.scaleA m))
      ((List.range 64).map (fun n => fm.row (s.ctx.row512 b.toNat n) (fm.scales s.ctx s.scaleB n)))
      = uncheckedRow (mmaElem fm c a b s) m := by
  obtain ⟨h8, h64⟩ := rows_of_shape hsh
  obtain ⟨hok, rfl⟩ := matrixShape_mma hf hsh
  simp only [Bool.and_eq_true, Bool.or_eq_true, decide_eq_true_eq] at hok
  obtain ⟨⟨⟨_, hapart⟩, _⟩, hscales⟩ := hok
  obtain ⟨_, _, scaleDvd, _⟩ := matFormat_widths hf
  have data : x.row512 a.toNat m = s.ctx.row512 a.toNat m :=
    only.elem (g := (a.toNat, s.ctx.vl.toNat / 8)) (by simpa using hapart) (by dsimp only; omega)
  have scales : fm.scales x s.scaleA m = fm.scales s.ctx s.scaleA m := by
    unfold MatFormat.scales
    split
    · rfl
    · have hk : fm.k / 4 ≤ 64 := Nat.le_of_dvd (by decide) scaleDvd
      have hm64 : m * (fm.k / 4) ≤ 63 * 64 := Nat.mul_le_mul (by omega) hk
      obtain ⟨⟨_, hscale⟩, _⟩ := hscales.resolve_left ‹_›
      exact only.elem (g := (s.scaleA, 1)) (by simpa using hscale) (by dsimp only; omega)
  rw [hth, data, scales, mmaRow_off]
  refine uncheckedRow_congr fun n hn => ?_
  rw [old n hn, row_eq_line hf, row_eq_line hf]
  rfl

/-- The chunks that a whole mma runs, with the check off: rows VSTART to VL - 1 are done. -/
theorem mmaChunks_done (hf : matFormat f = some fm) (hsh : matrixShape s (.mma c a b f) = some sh) (hth : s.lc.mckth = 0) :
    ChunksDone (c.toNat, s.ctx.vl.toNat / 2) (mmaElem fm c a b s) (fun m => s.ctx.vstart.toNat ≤ m ∧ m < s.ctx.vl.toNat) s.ctx
      (mmaChunks fm c a b s) := by
  obtain ⟨h8, _⟩ := rows_of_shape hsh
  have htile : tileHere s c (s.ctx.vl.toNat / 2) = true := by
    obtain ⟨hok, _⟩ := matrixShape_mma hf hsh
    simp only [Bool.and_eq_true] at hok
    obtain ⟨⟨⟨⟨_, htile⟩, _⟩, _⟩, _⟩ := hok
    exact htile
  have start : ChunksDone (c.toNat, s.ctx.vl.toNat / 2) (mmaElem fm c a b s)
      (fun m => (s.ctx.vstart.toNat ≤ m ∧ m < s.ctx.vl.toNat) ∧ m / 8 < s.ctx.vstart.toNat / 8) s.ctx
      ⟨s.ctx, Flags.none, 0, 0, none⟩ :=
    ⟨RowsDone.start fun m => by omega, WritesOnly.refl _ _, rfl, rfl⟩
  exact (runChunks_done (strikesRow s s.ctx.vstart.toNat) (tileHere_le htile) (fun m hm => rowFits_f32 h8 hm)
    (fun x m hm only old => mmaRow_unwritten hf hsh hth hm only old) _ start).congr fun m => by omega

/-- An mma none of whose chunks fails, with no message to send and no cause or suspension to end it. -/
theorem mmaRun_done (hu : Undisturbed s) (hseq : s.mmaSeq = none) (hfailed : (mmaChunks fm c a b s).failed = none)
    (hrecomputed : (mmaChunks fm c a b s).recomputed = 0) :
    mmaRun fm c.toNat b.toNat s.scaleB s.ctx.vstart.toNat s.ctx.vl.toNat []
        (fun x m => fm.row (x.row512 a.toNat m) (fm.scales x s.scaleA m)) (fun _ => []) none s
      = .next (vectorFinished (16 * (s.ctx.vl.toNat - s.ctx.vstart.toNat)) ((mmaChunks fm c a b s).ctx, (mmaChunks fm c a b s).flags) s) := by
  have spent : spendStrike 0 { s with pending := s.pending ++ [] } = s := by
    rw [List.append_nil, spendStrike, strike_undisturbed hu]
  simp only [mmaChunks] at hfailed hrecomputed
  simp only [mmaRun, hfailed, hrecomputed, spent, countErrors, State.count_zero, lt_irrefl, if_false, hseq]
  rfl

theorem exec_mma (hf : matFormat f = some fm) (hsh : matrixShape s (.mma c a b f) = some sh) (hw : WellsAside s sh) (hu : Undisturbed s)
    (hseq : s.mmaSeq = none) (hlead : s.followers = []) (hth : s.lc.mckth = 0) :
    exec (.mma c a b f) s = .next (vectorFinished (16 * (s.ctx.vl.toNat - s.ctx.vstart.toNat))
      ((mmaChunks fm c a b s).ctx, (mmaChunks fm c a b s).flags) s) := by
  have done := mmaChunks_done hf hsh hth
  obtain ⟨h8, _⟩ := rows_of_shape hsh
  obtain ⟨hok, rfl⟩ := matrixShape_mma hf hsh
  have unbound : s.ctx.boundGroup (c.toNat, s.ctx.vl.toNat / 2) = false := boundGroup_aside hw (by simp)
  have allowed : exec (.mma c a b f) s = if s.ctx.boundGroup (c.toNat, s.ctx.vl.toNat / 2) then raise s (exc .boundRegisterAccess 0 0)
      else if s.ctx.vl.toNat ≤ s.ctx.vstart.toNat then matrixDone [] 0 (s.ctx, Flags.none) s else execMmaRows fm c a b s := by
    show execMma c a b f s = _
    simp only [execMma, hf]
    exact whenOk_of hok _ _ _
  rw [allowed, if_neg (Bool.eq_false_iff.mp unbound)]
  by_cases hle : s.ctx.vl.toNat ≤ s.ctx.vstart.toNat
  · have empty : mmaChunks fm c a b s = ⟨s.ctx, Flags.none, 0, 0, none⟩ := by
      rw [mmaChunks, show (s.ctx.vl.toNat + 7) / 8 - s.ctx.vstart.toNat / 8 = 0 by omega]
      rfl
    rw [if_pos hle, empty, Nat.sub_eq_zero_of_le hle]
    rfl
  · have reads := mmaSources_reads (blk := decide (fm.block ≠ 0)) (a := a) (b := b) h8 (by omega)
    have wells := wellsRead_sources hw fun r hr => (reads r hr).1
    have land (o : VOp) := landSources_aside hw o s.ctx.vstart.toNat s.ctx.vl.toNat reads
    unfold mmaSources State.scaleA State.scaleB at wells land
    rw [if_neg hle]
    simp only [execMmaRows, hseq, hlead, List.any_nil, Bool.false_eq_true, if_false, lastElem_undisturbed hu, wells, wellsReady_none, land]
    exact mmaRun_done hu hseq done.failed done.recomputed

theorem mma_results (hf : matFormat f = some fm) (hsh : matrixShape s (.mma c a b f) = some sh) (hw : WellsAside s sh) (hu : Undisturbed s)
    (hseq : s.mmaSeq = none) (hlead : s.followers = []) (hth : s.lc.mckth = 0) :
    ∃ t, exec (.mma c a b f) s = .next t ∧ VectorDone sh s t ∧
      FlagsJoined (fun y => ∃ m n, s.ctx.vstart.toNat ≤ m ∧ m < s.ctx.vl.toNat ∧ n < 64 ∧ y = (mmaElem fm c a b s m n).2) s t ∧
      ∀ m n, m < s.ctx.vl.toNat → n < 64 → t.ctx.elem c.toNat 32 (64 * m + n)
        = if s.ctx.vstart.toNat ≤ m then (mmaElem fm c a b s m n).1 % 2 ^ 32 else s.ctx.elem c.toNat 32 (64 * m + n) := by
  have run := exec_mma hf hsh hw hu hseq hlead hth
  have done := mmaChunks_done hf hsh hth
  obtain ⟨h8, _⟩ := rows_of_shape hsh
  obtain ⟨_, rfl⟩ := matrixShape_mma hf hsh
  refine ⟨_, run, vectorFinished_done _ done.only, ?_, fun m n hm hn => ?_⟩
  · exact vectorFinished_flags _ done.only.ffl (done.rows.flags.congr fun y => by simp only [and_assoc])
  · rw [vectorFinished_elem, done.rows.elem_eq (rowFits_f32 h8 hm) hn]
    simp only [hm, and_true]

end

/-! ### Instructions with allowed fields -/

section
variable {s : State} {c a b : BitVec 6} {f : BitVec 4} {sh : VectorShape}

theorem mzero_dest (h : matrixShape s (.mzero c) = some sh) : (c.toNat, s.ctx.vl.toNat / 2) ∈ sh.dests ++ sh.reads := by
  simp only [matrixShape, Option.ite_none_right_eq_some, Option.some.injEq] at h
  simp [← h.2]

theorem matFormat_of_mma (h : matrixShape s (.mma c a b f) = some sh) : ∃ fm, matFormat f = some fm := by
  simp only [matrixShape, Option.ite_none_right_eq_some, Bool.and_assoc, Bool.and_eq_true (decide (f.toNat ≤ 8)), decide_eq_true_eq] at h
  exact matFormat_isSome h.1.1

theorem outFormat_of_mepi (h : matrixShape s (.mepi c a b f) = some sh) : ∃ fm, outFormat f = some fm :=
  Option.ne_none_iff_exists'.mp fun hf => by simp [matrixShape, hf] at h

theorem outFormat_of_mcks (h : matrixShape s (.mcks c a f) = some sh) : ∃ fm, outFormat f = some fm :=
  Option.ne_none_iff_exists'.mp fun hf => by simp [matrixShape, hf] at h

end

/-- Settles O25: each matrix instruction with allowed fields completes with its rows, its checksums and the flags of what it computed. -/
theorem matrixResults : Obligations.MatrixResults := by
  unfold Obligations.MatrixResults
  refine ⟨fun s i sh hsh hw hu hseq hlead hth => ?_, fun s c hsh hbound hu => ?_, fun s c a b f fm sh hf hsh hw hu hseq hlead hth => ?_,
    fun s c a b f fm sh hf hsh hw hu => ?_, fun s c a f fm sh hf hsh hw hu => ?_⟩
  · cases i with
    | mzero c =>
      obtain ⟨t, run, done, -⟩ := mzero_results hsh (boundGroup_aside hw (mzero_dest hsh)) hu
      exact ⟨t, run, done⟩
    | mma c a b f =>
      obtain ⟨fm, hf⟩ := matFormat_of_mma hsh
      obtain ⟨t, run, done, -⟩ := mma_results hf hsh hw hu hseq hlead hth
      exact ⟨t, run, done⟩
    | mepi c a b f =>
      obtain ⟨fm, hf⟩ := outFormat_of_mepi hsh
      obtain ⟨t, run, done, -⟩ := mepi_results hf hsh hw hu
      exact ⟨t, run, done⟩
    | mcks c a f =>
      obtain ⟨fm, hf⟩ := outFormat_of_mcks hsh
      obtain ⟨t, run, done, -⟩ := mcks_results hf hsh hw hu
      exact ⟨t, run, done⟩
    | _ => cases hsh
  · obtain ⟨t, run, -, elems⟩ := mzero_results hsh hbound hu
    exact ⟨t, run, elems⟩
  · obtain ⟨t, run, -, flags, elems⟩ := mma_results hf hsh hw hu hseq hlead hth
    exact ⟨t, run, flags, elems⟩
  · obtain ⟨t, run, -, flags, elems, checks⟩ := mepi_results hf hsh hw hu
    exact ⟨t, run, flags, elems, checks⟩
  · obtain ⟨t, run, -, flags, words⟩ := mcks_results hf hsh hw hu
    exact ⟨t, run, flags, words⟩

end Sys2Proof.Machine
end

section
/-! The claim about vset (O23): the first part does not hold of a follower of a gang, whose VL and VTY are its leader's (R29). -/

namespace Sys2Proof.Machine

theorem exec_vset {f : BitVec 4} {w : BitVec 3} (h : vtypeOk f w = true) (d a : BitVec 5) (g : BitVec 2) (s : State) :
    exec (.vset d a f g w) s = setType d f g w (s.x a).toNat s := whenOk_of h _ _ _

/-- A follower takes the VL its leader has after the instruction, whatever it requests itself (R29). -/
theorem setType_follower {s : State} {st : GangStep} (h : s.headStep = some st) (d : BitVec 5) (f : BitVec 4) (g : BitVec 2)
    (w : BitVec 3) (req : Nat) : ∃ t, setType d f g w req s = .next t ∧ t.ctx.vl = st.vlNext :=
  ⟨_, rfl, by simp [h]⟩

/-- Core 0 runs a follower of a gang. Its leader has executed `vset s0, s1` for 32-bit elements with 16 in its s1 (R29, R158). -/
def vsetFollower : State :=
  let s := State.reset.withFetchWord 32 (encVset 0 1 3 0 2)
  let step : GangStep := ⟨0, fetchVa, fetchVa + 4, natBytes 4 (encVset 0 1 3 0 2), 0, 0, 16, vtyOf 3 0 2, false⟩
  { s with core := { s.core with run := .running { fetchTask with gang := .follower 1 1 1 0 [step] } } }

/-- The follower's own s1 holds 0, not 16 (R29: its registers stay its own). -/
theorem vsetFollower_request : (vsetFollower.x 1).toNat = 0 := rfl

/-- Refutes O23: the vset of `vsetFollower` leaves its leader's VL, 16, and not the 0 that its own s1 requests. -/
theorem not_vsetSetsLength : ¬ Obligations.VsetSetsLength := by
  unfold Obligations.VsetSetsLength
  rintro ⟨sets, -⟩
  obtain ⟨⟨t, run, -, own, -⟩, -⟩ := sets vsetFollower 0 1 3 0 2 (by decide)
  obtain ⟨u, follows, leaders⟩ := setType_follower (s := vsetFollower) rfl 0 3 0 2 (vsetFollower.x 1).toNat
  rw [exec_vset (by decide)] at run
  cases run.symm.trans follows
  rw [leaders, vsetFollower_request] at own
  exact absurd own (by decide)

end Sys2Proof.Machine
end

section
/-! SUPPORT. Predicate registers, and what writes of predicate bits leave (R107, R110). -/

namespace Sys2Proof.Machine

/-! ### Predicate registers (R107) -/

theorem Ctx.getP_setP_same (c : Ctx) {n : Nat} (v : PReg) (h0 : n ≠ 0) (hn : n < 24) : (c.setP n v).getP n = v := by
  simp [Ctx.setP, Ctx.getP, h0, hn]

theorem Ctx.getP_setP_ne (c : Ctx) {n k : Nat} (v : PReg) (h : k ≠ n) : (c.setP n v).getP k = c.getP k := by
  unfold Ctx.setP
  split
  · rfl
  · simp [Ctx.getP, h.symm]

theorem Ctx.setP_rest (c : Ctx) (n : Nat) (v : PReg) : c.setP n v = { c with p := (c.setP n v).p } := by
  unfold Ctx.setP
  split <;> rfl

theorem predHere_of {s : State} {r : BitVec 5} (h : r.toNat < 24 ∧ (s.inService = true → r.toNat < 4)) : predHere s r.toNat = true := by
  unfold predHere
  split
  · exact decide_eq_true (h.2 ‹_›)
  · exact decide_eq_true h.1

/-! ### The bits below VL (R110) -/

theorem Ctx.getLsbD_setPLow_same (c : Ctx) {d : Nat} (x : PReg) (h0 : d ≠ 0) (hd : d < 24) {k : Nat} (hk : k < 1024) :
    ((c.setPLow d x).getP d).getLsbD k = if k < c.vl.toNat then x.getLsbD k else (c.getP d).getLsbD k := by
  rw [Ctx.setPLow, Ctx.getP_setP_same _ _ h0 hd]
  simp only [BitVec.getLsbD_or, BitVec.getLsbD_and, BitVec.getLsbD_not, BitVec.getLsbD_ofNat, Nat.testBit_two_pow_sub_one, hk,
    decide_true, Bool.true_and]
  split <;> simp [*]

/-! ### One bit (R169) -/

theorem Ctx.getLsbD_setPBit_same (c : Ctx) {d : Nat} (i : Nat) (b : Bool) (h0 : d ≠ 0) (hd : d < 24) {k : Nat} (hk : k < 1024) :
    ((c.setPBit d i b).getP d).getLsbD k = if k = i then b else (c.getP d).getLsbD k := by
  rw [Ctx.setPBit, Ctx.getP_setP_same _ _ h0 hd]
  have mask : (BitVec.ofNat 1024 (2 ^ i)).getLsbD k = decide (k = i) := by
    simp only [BitVec.getLsbD_ofNat, Nat.testBit_two_pow, hk, decide_true, Bool.true_and, eq_comm]
  cases b with
  | false =>
    rw [if_neg Bool.false_ne_true, BitVec.getLsbD_and, BitVec.getLsbD_not, mask]
    by_cases e : k = i <;> simp [e, hk]
  | true =>
    rw [if_pos rfl, BitVec.getLsbD_or, mask]
    by_cases e : k = i <;> simp [e]

@[simp] theorem Ctx.setPBit_ffl (c : Ctx) (d i : Nat) (b : Bool) : (c.setPBit d i b).ffl = c.ffl := by
  rw [Ctx.setPBit, Ctx.setP_rest]

/-- Give bits of predicate d the values `b`, at the places in a list. -/
def Ctx.setPBits (c : Ctx) (d : Nat) (b : Nat → Bool) (l : List Nat) : Ctx := l.foldl (fun c i => c.setPBit d i (b i)) c

theorem Ctx.getLsbD_setPBits_same (c : Ctx) {d : Nat} (b : Nat → Bool) (l : List Nat) (h0 : d ≠ 0) (hd : d < 24) {k : Nat}
    (hk : k < 1024) : ((c.setPBits d b l).getP d).getLsbD k = if k ∈ l then b k else (c.getP d).getLsbD k := by
  induction l generalizing c with
  | nil => simp [Ctx.setPBits]
  | cons i l ih =>
    rw [Ctx.setPBits, List.foldl_cons, ← Ctx.setPBits, ih, Ctx.getLsbD_setPBit_same _ _ _ h0 hd hk]
    by_cases hl : k ∈ l
    · simp [hl]
    · by_cases e : k = i
      · simp [e]
      · simp [hl, e]

@[simp] theorem Ctx.setPBits_ffl (c : Ctx) (d : Nat) (b : Nat → Bool) (l : List Nat) : (c.setPBits d b l).ffl = c.ffl := by
  induction l generalizing c with
  | nil => rfl
  | cons i l ih => rw [Ctx.setPBits, List.foldl_cons, ← Ctx.setPBits, ih, Ctx.setPBit_ffl]

end Sys2Proof.Machine
end

section
/-! SUPPORT. The frame of vector instructions, `runVector`, where no well holds a register named and nothing cuts it short (R152-R157). -/

namespace Sys2Proof.Machine

/-! ### The active elements in order (R114, R152) -/

theorem elemLoop_eq_foldl (act : Nat → Bool) (f : Nat → Ctx × Flags → Ctx × Flags) (i n : Nat) (r : Ctx × Flags) :
    elemLoop act f i n r = ((List.range' i n).filter act).foldl (fun r i => f i r) r := by
  induction n generalizing i r with
  | zero => rfl
  | succ n ih => cases h : act i <;> simp [elemLoop, List.range'_succ, h, ih]

/-- The active elements of an instruction, in order. -/
def Ctx.activeElems (c : Ctx) (o : VOp) : List Nat :=
  (List.range' (c.firstElem o) (c.vl.toNat - c.firstElem o)).filter (c.active o)

theorem Ctx.mem_activeElems {c : Ctx} {o : VOp} {k : Nat} : k ∈ c.activeElems o ↔ c.active o k = true := by
  rw [Ctx.activeElems, List.mem_filter, List.mem_range'_1, and_iff_right_iff_imp]
  intro h
  simp only [Ctx.active, Bool.and_eq_true, decide_eq_true_eq] at h
  omega

theorem Ctx.activeElems_eq_nil {c : Ctx} {o : VOp} (hselect : o.select = false) (h : c.anyActive o = false) : c.activeElems o = [] := by
  rw [List.eq_nil_iff_forall_not_mem]
  intro k hk
  rw [Ctx.mem_activeElems] at hk
  simp only [Ctx.anyActive, hselect, Bool.false_eq_true, if_false, List.any_eq_false, List.mem_range] at h
  refine h k ?_ hk
  simp only [Ctx.active, Bool.and_eq_true, decide_eq_true_eq] at hk
  omega

theorem Ctx.firstElem_lt {c : Ctx} {o : VOp} (h : c.anyActive o = true) : c.firstElem o < c.vl.toNat := by
  unfold Ctx.anyActive at h
  split at h
  · exact of_decide_eq_true h
  · obtain ⟨k, -, hk⟩ := List.any_eq_true.mp h
    simp only [Ctx.active, Bool.and_eq_true, decide_eq_true_eq] at hk
    omega

/-- Elements that execute by R114 and R152 are the active ones of an instruction that is no whole-vector one. -/
theorem executes_eq_active {c : Ctx} {o : VOp} {p : BitVec 5} {n : BitVec 1} (hpred : o.pred = p.toNat) (hpinv : o.pinv = decide (n = 1))
    (hwhole : o.whole = false) (k : Nat) : executes c p n k = c.active o k := by
  have governs : c.governs o k = if n = 1 then !(c.getP p.toNat).getLsbD k else (c.getP p.toNat).getLsbD k := by
    rw [Ctx.governs, hpred, hpinv]
    split <;> simp only [*, decide_true, decide_false, Bool.bne_true, Bool.bne_false]
  simp [executes, Ctx.active, Ctx.firstElem, governs, hwhole]

/-! ### Destinations and sources (R109, R155) -/

theorem boundPred_aside {s : State} {sh : VectorShape} (h : WellsAside s sh) : s.ctx.boundPred sh.pdest = false := by
  by_cases h0 : sh.pdest = 0
  · simp [Ctx.boundPred, h0]
  · have free : ∀ w, some w ∈ s.ctx.wells.toList → w.cmp ≠ sh.pdest := fun w hw => by
      obtain ⟨k, hk⟩ := Ctx.exists_well_of_mem hw
      exact (h k w hk).2 h0
    rw [Ctx.boundPred, Bool.and_eq_false_iff, List.any_eq_false]
    refine .inr fun x hx => ?_
    cases x with
    | none => simp
    | some w => simpa using free w hx

theorem destBound_shape {s : State} {sh : VectorShape} (h : WellsAside s sh) {o : VOp} (hdests : ∀ r ∈ o.dests, r ∈ sh.dests)
    (hpdest : o.pdest = sh.pdest) : s.ctx.destBound o = false := by
  have groups : o.dests.any s.ctx.boundGroup = false :=
    List.any_eq_false.mpr fun r hr => by simpa using boundGroup_aside h (by simp [hdests r hr])
  rw [Ctx.destBound, groups, hpdest, boundPred_aside h, Bool.or_false]

theorem Ctx.sew_pos (c : Ctx) : 0 < c.sew := Nat.mul_pos (by decide) (Nat.two_pow_pos _)

/-- Up to VLMAX the elements of a group lie in its registers (R109, R112). -/
theorem Ctx.source_inside {c : Ctx} (hvl : c.vl.toNat ≤ vlmaxOf c.sew c.group) (a : BitVec 6) (hpos : 0 < c.vl.toNat) :
    (c.source a).inside c.vl.toNat := by
  have fits : c.vl.toNat * c.sew ≤ c.group * 4096 := (Nat.le_div_iff_mul_le c.sew_pos).mp (hvl.trans (Nat.min_le_right _ _))
  have last : (c.vl.toNat - 1) * c.sew < c.vl.toNat * c.sew := Nat.mul_lt_mul_of_pos_right (by omega) c.sew_pos
  refine .inr ?_
  simp only [Ctx.source, Nat.zero_add]
  omega

/-! ### The run (R114, R160) -/

theorem shadowCheck_undisturbed {s : State} (h : Undisturbed s) (o : VOp) (lo hi : Nat) : shadowCheck o lo hi s = (s, none) := by
  rw [shadowCheck, strike_undisturbed h]

theorem runTo_done (body : Body) {lo : Nat} {s : State} (h : lo < s.ctx.vl.toNat) : runTo body [] lo s.ctx.vl.toNat none s
    = .next (vectorFinished ((s.ctx.vl.toNat - lo) * s.ctx.group) (body lo s.ctx.vl.toNat s.ctx) s) := by
  rw [runTo, if_neg (Nat.not_le.mpr h), if_neg (Nat.lt_irrefl _)]
  rfl

/-- A vector instruction completes with what its body does from the first element to VL - 1. -/
theorem runVector_done {s : State} {sh : VectorShape} {o : VOp} {body : Body} (hw : WellsAside s sh) (hu : Undisturbed s)
    (hdests : ∀ r ∈ o.dests, r ∈ sh.dests) (hpdest : o.pdest = sh.pdest)
    (hreads : ∀ r ∈ o.sources, (r.first, r.count) ∈ sh.reads ∧ (0 < s.ctx.vl.toNat → r.inside s.ctx.vl.toNat))
    (hidle : s.ctx.anyActive o = false → body (s.ctx.firstElem o) s.ctx.vl.toNat s.ctx = (s.ctx, Flags.none)) :
    ∃ beats, runVector o body s = .next (vectorFinished beats (body (s.ctx.firstElem o) s.ctx.vl.toNat s.ctx) s) := by
  rw [runVector, if_neg (by simp [destBound_shape hw hdests hpdest])]
  cases any : s.ctx.anyActive o with
  | false => exact ⟨1, by rw [hidle any]; rfl⟩
  | true =>
    have lt := Ctx.firstElem_lt any
    have land := landSources_aside hw o (s.ctx.firstElem o) s.ctx.vl.toNat fun r hr => ⟨(hreads r hr).1, (hreads r hr).2 (by omega)⟩
    refine ⟨_, Eq.trans ?_ (runTo_done body lt)⟩
    simp only [Bool.not_true, Bool.false_eq_true, if_false, lastElem_undisturbed hu, ite_self,
      wellsRead_sources hw fun r hr => (hreads r hr).1, wellsReady_none, land, shadowCheck_undisturbed hu]

end Sys2Proof.Machine
end

section
/-! The claim about predicate operations and compares (O24). -/

namespace Sys2Proof.Machine

/-! ### Predicate operations (R170) -/

theorem popSrc_of {s : State} {r : BitVec 5} (h : r.toNat < 24 ∧ (s.inService = true → r.toNat < 4)) : popSrc s r = true := by
  rw [popSrc, predHere_of h, predSrcOk, decide_eq_true h.1]
  rfl

theorem popWrite_next {s : State} {ok : Bool} {d : BitVec 5} (hok : ok = true) (h0 : d ≠ 0)
    (hd : d.toNat < 24 ∧ (s.inService = true → d.toNat < 4)) (hb : s.ctx.boundPred d.toNat = false) (word : Nat) (x : PReg) :
    popWrite ok d word x s = .next { s with ctx := s.ctx.setPLow d.toNat x }.finished := by
  rw [popWrite, whenOk_of (by simpa [predDestOk, predHere_of hd, hd.1, hok] using h0), hb]
  rfl

/-- Completing with other predicates leaves everything but them and the pc. -/
theorem finished_predicates {s : State} {c : Ctx} (h : c = { s.ctx with p := c.p }) :
    let t := { s with ctx := c }.finished
    Completed 4 s t ∧ t.ctx = { s.ctx with pc := t.ctx.pc, p := t.ctx.p } ∧ OnlyRegisters s t ∧ SameBytes s t := by
  have done := complete_completed 4 1 { s with ctx := c }
  have only := complete_only 4 1 { s with ctx := c }
  refine ⟨⟨?_, done.counted⟩, ?_, ⟨only.launch, only.core, only.rest⟩, by constructor <;> simp [State.finished]⟩
  · have pc : c.pc = s.ctx.pc := by rw [h]
    rw [← pc]
    exact done.pc
  · simp only [State.finished, State.retire_ctx, State.advance_ctx]
    rw [h]

/-- Each operation of R170 writes the bits of its row of the table. -/
theorem exec_table170 {s : State} {i : Instr} {d : BitVec 5} {srcs : List (BitVec 5)} {f : Nat → Bool}
    (h : table170 s i = some (d, srcs, f)) (hsrcs : ∀ r ∈ srcs, popSrc s r = true) : ∃ ok word x,
    exec i s = popWrite ok d word x s ∧ ok = true ∧ ∀ k, k < 1024 → k < s.ctx.vl.toNat → x.getLsbD k = f k := by
  cases i with
  | pand | por | pxor => cases h; exact ⟨_, _, _, rfl, by simp [hsrcs], fun k _ _ => by simp⟩
  | pandn | pnot => cases h; exact ⟨_, _, _, rfl, by simp [hsrcs], fun k hk _ => by simp [hk]⟩
  | pmov => cases h; exact ⟨_, _, _, rfl, by simp [hsrcs], fun _ _ _ => rfl⟩
  | psetn d a =>
    cases h
    refine ⟨_, _, _, rfl, rfl, fun k hk hvl => ?_⟩
    rw [BitVec.getLsbD_ofNat, Nat.testBit_two_pow_sub_one]
    simp [hk, hvl]
  | pclr => cases h; exact ⟨_, _, _, rfl, rfl, fun k _ _ => by simp⟩
  | _ => cases h

/-! ### pcnt and pfirst (R170) -/

theorem exec_pcnt {s : State} {a : BitVec 5} (h : popSrc s a = true) (d : BitVec 5) : exec (.pcnt d a) s
    = scalarResult 4 d (BitVec.ofNat 64 ((List.range s.ctx.vl.toNat).filter (fun k => (s.ctx.getP a.toNat).getLsbD k)).length) s := by
  refine (whenOk_of h _ _ _).trans ?_
  rw [Ctx.predBits, List.filter_map, List.length_map]
  rfl

theorem firstSet_eq_findIdx (l : List Bool) (i : Nat) : firstSet l i = (l.findIdx? (fun b => b)).map (· + i) := by
  induction l generalizing i with
  | nil => rfl
  | cons b l ih => cases b <;> simp [firstSet, List.findIdx?_cons, ih, Function.comp_def, Nat.add_assoc, Nat.add_comm 1]

theorem firstSet_lowest {l : List Bool} {k : Nat} (hk : k < l.length) (hset : l[k] = true) (hlow : ∀ j (hj : j < k), l[j] = false) :
    firstSet l 0 = some k := by
  have first : l.findIdx? (fun b => b) = some k := by
    rw [List.findIdx?_eq_some_iff_getElem]
    exact ⟨hk, hset, fun j hj => by simp [hlow j hj]⟩
  rw [firstSet_eq_findIdx, first]
  rfl

theorem firstSet_clear {l : List Bool} (h : ∀ b ∈ l, b = false) : firstSet l 0 = none := by
  rw [firstSet_eq_findIdx, List.findIdx?_eq_none_iff.mpr h]
  rfl

theorem exec_pfirst {s : State} {a : BitVec 5} (h : popSrc s a = true) (d : BitVec 5) {r : Option Nat}
    (hr : firstSet (s.ctx.predBits a.toNat) 0 = r) :
    exec (.pfirst d a) s = scalarResult 4 d (r.elim (BitVec.allOnes 64) (BitVec.ofNat 64)) s := by
  refine (whenOk_of h _ _ _).trans ?_
  rw [hr]
  cases r <;> rfl

/-! ### Compares (R169) -/

theorem readInt_eq_intReading {c : Ctx} {x : Nat} (hx : x < 2 ^ c.sew) : readInt c.signed c.sew x = intReading c x := by
  have pos := c.sew_pos
  by_cases hf : c.fmt = 0
  · have half : x < 2 ^ (c.sew - 1) ↔ ¬2 ^ (c.sew - 1) ≤ x := not_le.symm
    simp only [readInt, Ctx.signed, intReading, sext, hf, decide_true, if_true, Nat.mod_eq_of_lt hx, pos.ne', if_false, half, ite_not,
      true_and]
  · simp [readInt, Ctx.signed, intReading, hf, Nat.mod_eq_of_lt hx]

/-- An instruction is the compare of format VP into d under p that gives element k the bit and the flags `f k`. -/
def IsCompare (s : State) (i : Instr) (d : BitVec 5) (p : BitVec 4) (f : Nat → Bool × Flags) : Prop :=
  ∃ ok a b word g, exec i s = compare ok d a b p word g s ∧ vectorShape s i = compareShape s ok d a b p ∧
    ∀ k, g (s.ctx.elem a.toNat s.ctx.sew k) (s.ctx.elem b.toNat s.ctx.sew k) = f k

section
variable {s : State} {i : Instr} {d : BitVec 5} {a b : BitVec 6} {p : BitVec 4} {word : Nat}

theorem isCompare_int (x : Cond) (run : exec i s = compareInt x d a b p word s)
    (shape : vectorShape s i = compareShape s s.ctx.isInt d a b p) :
    IsCompare s i d p fun k => (intCond x (intReading s.ctx (s.ctx.elem a.toNat s.ctx.sew k))
      (intReading s.ctx (s.ctx.elem b.toNat s.ctx.sew k)), Flags.none) :=
  ⟨s.ctx.isInt, a, b, word, fun y z => (intCond x (readInt s.ctx.signed s.ctx.sew y) (readInt s.ctx.signed s.ctx.sew z), Flags.none),
    run, shape, fun k => by simp only [readInt_eq_intReading (elem_lt _ _ _ _)]⟩

theorem isCompare_float (x : Cond) (run : exec i s = compareFloat x d a b p word s)
    (shape : vectorShape s i = compareShape s s.ctx.isFloat d a b p) :
    IsCompare s i d p fun k => floatCond x (s.ctx.format.val (s.ctx.elem a.toNat s.ctx.sew k))
      (s.ctx.format.val (s.ctx.elem b.toNat s.ctx.sew k)) :=
  ⟨s.ctx.isFloat, a, b, word, fun y z => floatCond x (s.ctx.format.val y) (s.ctx.format.val z), run, shape, fun _ => rfl⟩

end

theorem isCompare_of_table169 {s : State} {i : Instr} {d : BitVec 5} {p : BitVec 4} {f : Nat → Bool × Flags}
    (h : table169 s i = some (d, p, f)) : IsCompare s i d p f := by
  cases i with
  | vcmpEq => cases h; exact isCompare_int .eq rfl rfl
  | vcmpNe => cases h; exact isCompare_int .ne rfl rfl
  | vcmpLt => cases h; exact isCompare_int .lt rfl rfl
  | vcmpGe => cases h; exact isCompare_int .ge rfl rfl
  | vcmpLe => cases h; exact isCompare_int .le rfl rfl
  | vcmpGt => cases h; exact isCompare_int .gt rfl rfl
  | vfcmpEq => cases h; exact isCompare_float .eq rfl rfl
  | vfcmpNe => cases h; exact isCompare_float .ne rfl rfl
  | vfcmpLt => cases h; exact isCompare_float .lt rfl rfl
  | vfcmpGe => cases h; exact isCompare_float .ge rfl rfl
  | vfcmpLe => cases h; exact isCompare_float .le rfl rfl
  | vfcmpGt => cases h; exact isCompare_float .gt rfl rfl
  | vfcmpUno => cases h; exact isCompare_float .uno rfl rfl
  | vfcmpOrd => cases h; exact isCompare_float .ord rfl rfl
  | _ => cases h

theorem writePredicate_eq (o : VOp) (d : Nat) (f : Ctx → Nat → Bool × Flags) (c : Ctx) :
    writePredicate o d f (c.firstElem o) c.vl.toNat c = (c.setPBits d (fun k => (f c k).1) (c.activeElems o),
      (c.activeElems o).foldl (fun x k => x.union (f c k).2) Flags.none) := by
  rw [writePredicate, elemLoop_eq_foldl]
  exact Prod.ext (List.foldl_hom Prod.fst fun _ _ => rfl).symm (List.foldl_hom Prod.snd fun _ _ => rfl).symm

/-- What a compare names (R155, R169). -/
def compareOp (c : Ctx) (d : BitVec 5) (a b : BitVec 6) (p : BitVec 4) : VOp :=
  { pred := p.toNat, pinv := false, sources := [c.source a, c.source b], dests := [], pdest := d.toNat }

theorem mem_activeElems_compareOp {c : Ctx} {d : BitVec 5} {a b : BitVec 6} {p : BitVec 4} {k : Nat} :
    k ∈ c.activeElems (compareOp c d a b p) ↔ executes c (p.zeroExtend 5) 0 k = true := by
  have pred : (compareOp c d a b p).pred = (p.zeroExtend 5).toNat := by
    simp [compareOp, Nat.mod_eq_of_lt (show p.toNat < 32 by omega)]
  rw [Ctx.mem_activeElems, executes_eq_active pred rfl rfl]

section
variable {s : State} {sh : VectorShape} {ok : Bool} {d : BitVec 5} {a b : BitVec 6} {p : BitVec 4}

theorem compareShape_eq (hsh : compareShape s ok d a b p = some sh) :
    (predDestOk d && predHere s d.toNat && predHere s p.toNat && ok && groupHere s a s.ctx.group && groupHere s b s.ctx.group) = true ∧
    d.toNat ≠ 0 ∧ d.toNat < 24 ∧ sh = ⟨[], [s.ctx.dest a, s.ctx.dest b], d.toNat, none⟩ := by
  simp only [compareShape, Option.ite_none_right_eq_some, Option.some.injEq] at hsh
  obtain ⟨allowed, rfl⟩ := hsh
  refine ⟨allowed, ?_⟩
  simp only [predDestOk, Bool.and_eq_true, decide_eq_true_eq] at allowed
  obtain ⟨⟨⟨⟨⟨⟨lt, ne⟩, -⟩, -⟩, -⟩, -⟩, -⟩ := allowed
  exact ⟨fun e => ne (BitVec.eq_of_toNat_eq e), lt, rfl⟩

/-- A compare completes: the bits of the active elements are written, and their flags join FFL. -/
theorem compare_next (hsh : compareShape s ok d a b p = some sh) (hw : WellsAside s sh) (hu : Undisturbed s)
    (hvl : s.ctx.vl.toNat ≤ vlmaxOf s.ctx.sew s.ctx.group) (word : Nat) (g : Nat → Nat → Bool × Flags) {f : Nat → Bool × Flags}
    (hf : ∀ k, g (s.ctx.elem a.toNat s.ctx.sew k) (s.ctx.elem b.toNat s.ctx.sew k) = f k) :
    ∃ beats, compare ok d a b p word g s = .next (vectorFinished beats
      (s.ctx.setPBits d.toNat (fun k => (f k).1) (s.ctx.activeElems (compareOp s.ctx d a b p)),
        (s.ctx.activeElems (compareOp s.ctx d a b p)).foldl (fun x k => x.union (f k).2) Flags.none) s) := by
  obtain ⟨allowed, -, -, rfl⟩ := compareShape_eq hsh
  have wrote := writePredicate_eq (compareOp s.ctx d a b p) d.toNat
    (fun c k => g (c.elem a.toNat s.ctx.sew k) (c.elem b.toNat s.ctx.sew k)) s.ctx
  simp only [hf] at wrote
  obtain ⟨beats, run⟩ := runVector_done (o := compareOp s.ctx d a b p) (body := writePredicate (compareOp s.ctx d a b p) d.toNat
      fun c k => g (c.elem a.toNat s.ctx.sew k) (c.elem b.toNat s.ctx.sew k)) hw hu (by simp [compareOp]) rfl
    (by simpa [compareOp] using ⟨⟨.inl rfl, Ctx.source_inside hvl a⟩, .inr rfl, Ctx.source_inside hvl b⟩)
    (fun idle => by rw [wrote, Ctx.activeElems_eq_nil rfl idle]; rfl)
  rw [wrote] at run
  exact ⟨beats, (whenOk_of allowed _ _ _).trans run⟩

theorem compare_results (hsh : compareShape s ok d a b p = some sh) (hw : WellsAside s sh) (hu : Undisturbed s)
    (hvl : s.ctx.vl.toNat ≤ vlmaxOf s.ctx.sew s.ctx.group) (word : Nat) (g : Nat → Nat → Bool × Flags) {f : Nat → Bool × Flags}
    (hf : ∀ k, g (s.ctx.elem a.toNat s.ctx.sew k) (s.ctx.elem b.toNat s.ctx.sew k) = f k) :
    ∃ t, compare ok d a b p word g s = .next t ∧
      FlagsJoined (fun x => ∃ k, executes s.ctx (p.zeroExtend 5) 0 k = true ∧ x = (f k).2) s t ∧
      ∀ k, k < 1024 → (t.ctx.getP d.toNat).getLsbD k =
        if executes s.ctx (p.zeroExtend 5) 0 k then (f k).1 else (s.ctx.getP d.toNat).getLsbD k := by
  obtain ⟨-, d0, lt, -⟩ := compareShape_eq hsh
  obtain ⟨beats, run⟩ := compare_next hsh hw hu hvl word g hf
  refine ⟨_, run, vectorFinished_flags _ (Ctx.setPBits_ffl _ _ _ _) ?_, fun k hk => ?_⟩
  · refine (flagsOf_foldl (fun k => (f k).2) (fun k x => x = (f k).2) (fun k => flagsOf_self _) _
      (flagsOf_none fun _ => id)).congr fun x => ?_
    simp only [mem_activeElems_compareOp, false_or]
  · rw [vectorFinished_ctx]
    refine (Ctx.getLsbD_setPBits_same _ _ _ d0 lt hk).trans ?_
    simp only [mem_activeElems_compareOp]

end

/-- Settles O24: the tables give each operation as one write of predicate bits, or as one scalar result. -/
theorem predicateOperations : Obligations.PredicateOperations := by
  unfold Obligations.PredicateOperations
  refine ⟨fun s i d srcs f htable h0 hhere hbound _ => ?_, fun s d a ha hs => ?_, fun s i d p f sh htable hsh hw hu hvl => ?_⟩
  · obtain ⟨hd, hsrcs⟩ := List.forall_mem_cons.mp hhere
    have d0 : d.toNat ≠ 0 := fun e => h0 (BitVec.eq_of_toNat_eq e)
    obtain ⟨ok, word, x, run, hok, bit⟩ := exec_table170 htable fun r hr => popSrc_of (hsrcs r hr)
    obtain ⟨done, ctx, outside, bytes⟩ := finished_predicates (s := s) (Ctx.setP_rest s.ctx d.toNat _)
    refine ⟨_, run.trans (popWrite_next hok h0 hd hbound word x), done, fun k hk => ?_, fun q _ hq => ?_, ctx, outside, bytes⟩
    · simp only [State.finished, State.retire_ctx, State.advance_ctx]
      refine (Ctx.getLsbD_setPLow_same _ x d0 hd.1 hk).trans ?_
      split
      · exact bit k hk ‹_›
      · rfl
    · simp only [State.finished, State.retire_ctx, State.advance_ctx]
      exact Ctx.getP_setP_ne _ _ hq
  · have src := popSrc_of ⟨ha, hs⟩
    refine ⟨?_, fun k hk hset hlow => ?_, fun hclear => ?_⟩
    · rw [exec_pcnt src]
      exact scalarResult_done 4 d _ s
    · have first : firstSet (s.ctx.predBits a.toNat) 0 = some k :=
        firstSet_lowest (by simpa [Ctx.predBits] using hk) (by simpa [Ctx.predBits] using hset)
          fun j hj => by simpa [Ctx.predBits] using hlow j hj
      rw [exec_pfirst src d first]
      exact scalarResult_done 4 d _ s
    · have clear : firstSet (s.ctx.predBits a.toNat) 0 = none := firstSet_clear (by simpa [Ctx.predBits] using hclear)
      rw [exec_pfirst src d clear]
      exact scalarResult_done 4 d _ s
  · obtain ⟨ok, a, b, word, g, run, shape, elems⟩ := isCompare_of_table169 htable
    obtain ⟨t, next, results⟩ := compare_results (shape ▸ hsh) hw hu hvl word g elems
    exact ⟨t, run.trans next, results⟩

end Sys2Proof.Machine
end

section
/-! The claim about memory, the durable tier, the fabric, scratchpads, containment and the Rake (O59): each message by the condition under
which it lands, and what it is then. -/

namespace Sys2Proof.Machine

/-! ### Presence stores (R63, R147, R211, R217) -/

theorem exec_presenceStoreLanding {s : State} {core off : Nat} {v : Word} {f : Flight} (hp : .presenceStoreLanding core off v ∈ s.pending)
    (hf : landingFlight s core off v = some f) (awake : panAwake s core (off / 65536) = true)
    (hclock : ∀ c, f.stamp = some c → clockAhead (s.clockOf (dieOf f.core)) c = false) :
    exec (.presenceStoreLanding core off v) s = .next (landFlight (taken (.presenceStoreLanding core off v) s) f) := by
  have found : landingFlight (taken (.presenceStoreLanding core off v) s) core off v = some f := hf
  show execPresenceStoreLanding core off v s = _
  rw [execPresenceStoreLanding, takeWhenAwake_taken hp _ (by simpa using awake)]
  · simp only [found]
  · simpa [hf, Option.all_eq_true] using hclock

/-- A presence store without a clock lands where its target takes it. -/
theorem landFlight_lands {s : State} {f : Flight} (hstamp : f.stamp = none) (h : arrivalRefusal s f = none) :
    landFlight s f = landPresence (wakePan (arrived s f) f.core (f.off / 65536)) f.core f.off f.value := by
  have lands : arrivalRefusal (arrived s f) f = none := h
  unfold landFlight
  rw [hstamp]
  dsimp only
  rw [← arrived, lands]

/-- A core's store that is refused makes its sender raise Protection. -/
theorem refuseFlight_blames (s : State) {f : Flight} (k : Nat) (h : f.sender < 2048) :
    ∃ a, refuseFlight s f k = s.blame f.sender f.serial f.tid (.protection, k, a) :=
  ⟨_, if_neg (Nat.not_le_of_lt h)⟩

/-! ### The store buffer, the durable tier and the fabric (R225, R246, R250, R252, R337) -/

section
variable {s : State}

theorem exec_storeBufferDrain {core : Nat} (hp : .storeBufferDrain core ∈ s.pending) (hready : drainReady s core = true) :
    exec (.storeBufferDrain core) s = .next ((taken (.storeBufferDrain core) s).onCore core (drainOne core)) :=
  takeDue_taken (f := fun s => s.onCore core (drainOne core)) (due := fun s => drainReady s core) hp hready

variable {num : Nat}

theorem exec_durableStoreAccept {d : Durable} (hp : .durableStoreAccept num ∈ s.pending)
    (hd : s.durable.find? (fun d => d.num = num) = some d) (hready : acceptReady s d = true) :
    exec (.durableStoreAccept num) s = .next (acceptDurable (taken (.durableStoreAccept num) s) d) := by
  have found : (taken (.durableStoreAccept num) s).durable.find? (fun d => d.num = num) = some d := hd
  show execDurableStoreAccept num s = _
  rw [execDurableStoreAccept, takeDue_taken hp (by simp only [hd, hready])]
  simp only [found]

/-- Persist barriers wait for the store no more. -/
theorem exec_persistAcknowledgement (hp : .persistAcknowledgement num ∈ s.pending) : ∃ t, exec (.persistAcknowledgement num) s = .next t ∧
    (∀ d ∈ t.durable, d.num ≠ num) ∧ t.persisted = s.persisted :=
  ⟨_, takeEvent_taken (f := fun s => { s with durable := s.durable.filter (fun d => d.num ≠ num) }) hp,
    fun _ hd => of_decide_eq_true (List.mem_filter.mp hd).2, rfl⟩

/-- Releases wait for the store no more. -/
theorem exec_fabricStoreAcknowledgement (hp : .fabricStoreAcknowledgement num ∈ s.pending) :
    ∃ t, exec (.fabricStoreAcknowledgement num) s = .next t ∧ ∀ f ∈ t.fabric, f.num ≠ num :=
  ⟨_, takeEvent_taken (f := fun s => { s with fabric := s.fabric.filter (fun f => f.num ≠ num) }) hp,
    fun _ hf => of_decide_eq_true (List.mem_filter.mp hf).2⟩

theorem exec_fabricErrorResponse {f : FabricStore} (hf : s.fabric.find? (fun f => f.num = num) = some f) :
    exec (.fabricErrorResponse num) s = .next (refuseFabric s.fresh f) := by
  show execFabricErrorResponse num s = _
  simp only [execFabricErrorResponse, hf]

theorem exec_leaseExpiry (hp : .leaseExpiry num ∈ s.pending)
    (hover : ∀ l ∈ s.leases, l.line = num → s.leaseCycles ≤ s.cyc.toNat - l.last.toNat) :
    ∃ t, exec (.leaseExpiry num) s = .next t ∧ ∀ l ∈ t.leases, l.line ≠ num := by
  show ∃ t, execLeaseExpiry num s = .next t ∧ _
  rw [execLeaseExpiry, takeDue_taken hp]
  · exact ⟨_, rfl, fun _ hl => of_decide_eq_true (List.mem_filter.mp hl).2⟩
  · simpa only [List.all_eq_true, Bool.or_eq_true, decide_eq_true_eq, ne_eq, ← imp_iff_not_or] using hover

theorem exec_persistBufferDrain_empty (h : s.pbuf = []) : exec .persistBufferDrain s = .next s := if_pos (by simp [h])

theorem exec_persistBufferDrain (h : s.pbuf ≠ []) : exec .persistBufferDrain s = .next { s.fresh with pbuf := s.pbuf.tail } :=
  if_neg (by simpa using h)

end

/-! ### The retention of pans (R219) -/

theorem setPan_retention (s : State) (core : Nat) (pan : Fin 16) (r : Retention) :
    ((setPan s core pan.val r).coreOf core).retention[pan] = r := by
  simp [setPan]

theorem armRetention_coreOf (s : State) (core pan c : Nat) : (armRetention s core pan).coreOf c = s.coreOf c := by
  unfold armRetention
  split <;> rfl

/-- What becomes of a pan whose next step into retention is due. -/
def stepRetention (core pan : Nat) (s : State) : State :=
  match (s.coreOf core).retention[pan]?.getD .active with
  | .active =>
    if ((s.coreOf core).pfmt[pan]?.getD 0).getLsbD 7 then
      { setPan s core pan .entering with pending := (setPan s core pan .entering).pending ++ [Event.retentionEntry core pan] }
    else s
  | .entering => setPan s core pan .retained
  | .recalled => { setPan s core pan .leaving with pending := (setPan s core pan .leaving).pending ++ [Event.retentionExit core pan] }
  | _ => s

theorem exec_retentionEntry {s : State} {core pan : Nat} (hp : .retentionEntry core pan ∈ s.pending) (hdue : entryDue s core pan = true) :
    exec (.retentionEntry core pan) s = .next (stepRetention core pan (taken (.retentionEntry core pan) s)) :=
  takeDue_taken (f := stepRetention core pan) (due := fun s => entryDue s core pan) hp hdue

section
variable {s : State} {core : Nat} {pan : Fin 16}

theorem stepRetention_begins (hr : (s.coreOf core).retention[pan] = .active) (hreten : (s.coreOf core).pfmt[pan].getLsbD 7 = true) :
    ((stepRetention core pan s).coreOf core).retention[pan] = .entering ∧
      .retentionEntry core pan.val ∈ (stepRetention core pan s).pending := by
  rw [Fin.getElem_fin] at hr hreten
  simp only [stepRetention, Fin.is_lt, Vector.getElem?_eq_getElem, Option.getD_some, hr, hreten, if_true]
  exact ⟨setPan_retention s core pan _, List.mem_append_right _ (List.mem_singleton_self _)⟩

theorem stepRetention_retains (hr : (s.coreOf core).retention[pan] = .entering) :
    ((stepRetention core pan s).coreOf core).retention[pan] = .retained := by
  rw [Fin.getElem_fin] at hr
  simp only [stepRetention, Fin.is_lt, Vector.getElem?_eq_getElem, Option.getD_some, hr]
  exact setPan_retention s core pan _

theorem stepRetention_recalled (hr : (s.coreOf core).retention[pan] = .recalled) :
    ((stepRetention core pan s).coreOf core).retention[pan] = .leaving ∧
      .retentionExit core pan.val ∈ (stepRetention core pan s).pending := by
  rw [Fin.getElem_fin] at hr
  simp only [stepRetention, Fin.is_lt, Vector.getElem?_eq_getElem, Option.getD_some, hr]
  exact ⟨setPan_retention s core pan _, List.mem_append_right _ (List.mem_singleton_self _)⟩

theorem exec_retentionExit (hp : .retentionExit core pan.val ∈ s.pending) (hr : (s.coreOf core).retention[pan] = .leaving)
    (hage : 512 ≤ s.cyc.toNat - (s.coreOf core).panTime[pan].toNat) :
    ∃ t, exec (.retentionExit core pan.val) s = .next t ∧ (t.coreOf core).retention[pan] = .active := by
  have leaves : ((taken (.retentionExit core pan.val) s).coreOf core).retention[pan.val]?.getD .active = .leaving := by
    simpa using hr
  show ∃ t, execRetentionExit core pan.val s = .next t ∧ _
  rw [execRetentionExit, takeDue_taken hp]
  · refine ⟨_, congrArg _ (if_pos leaves), ?_⟩
    rw [armRetention_coreOf]
    exact setPan_retention _ core pan _
  · simp only [Fin.getElem_fin] at hage
    simp [panAge, hage]

/-! ### Containment (R147, R392, R393) -/

/-- Whether an event is other than the end of a core's scrub. -/
def notScrubOf (core : Nat) (e : Event) : Bool :=
  match e with
  | .containmentScrub c _ => decide (c ≠ core)
  | _ => true

/-- The state in which the scrub of a core has ended. -/
def scrubTaken (core : Nat) (s : State) : State := { s.fresh with pending := s.pending.filter (notScrubOf core) }

/-- The end of a scrub under way is taken with either outcome. -/
theorem exec_containmentScrub (pass : Bool) {p : Bool} (hp : .containmentScrub core p ∈ s.pending) (hdue : scrubDue s core = true) :
    exec (.containmentScrub core pass) s = .next (scrubCore core pass (scrubTaken core s)) := by
  refine if_pos ⟨List.any_eq_true.mpr ⟨_, hp, ?_⟩, hdue⟩
  simp

theorem scrubTaken_pending (core : Nat) (s : State) (p : Bool) : .containmentScrub core p ∉ (scrubTaken core s).pending := by
  simp [scrubTaken, notScrubOf]

theorem exec_coreCheckFailure_contained (h : (s.coreOf core).containing ≠ none) : exec (.coreCheckFailure core) s = .next s :=
  if_pos (.inr (.inl (Option.isSome_iff_ne_none.mpr h)))

theorem exec_coreCheckFailure (hcore : core < 2048) (hcont : (s.coreOf core).containing = none) (hhere : (s.coreOf core).absent = false) :
    ∃ code sub : Nat, exec (.coreCheckFailure core) s = .next (s.fresh.onCore core (fun s => contain s code sub 0 false)) :=
  ⟨_, _, if_neg (by simp [hcont, hhere, hcore])⟩

theorem exec_mapOutDone_free (hp : .mapOutDone core ∈ s.pending) (h : (s.coreOf core).containing = none) :
    exec (.mapOutDone core) s = .next (taken (.mapOutDone core) s) := by
  show execMapOutDone core s = _
  rw [execMapOutDone, takeDue_taken hp (by simp only [h])]
  simp only [taken_coreOf, h]

theorem exec_mapOutDone {c : Containment} {m : Word × Nat} (hp : .mapOutDone core ∈ s.pending) (hc : (s.coreOf core).containing = some c)
    (hm : c.mapping = some m) (hover : 65536 ≤ s.cyc.toNat - m.1.toNat) : exec (.mapOutDone core) s
      = .next (endContainment (setOutside (taken (.mapOutDone core) s) (dieOf core) (rowOf core) (physicalColumn (colOf core) m.2))
          core c true true) := by
  show execMapOutDone core s = _
  rw [execMapOutDone, takeDue_taken hp (by simpa only [hc, hm, decide_eq_true_eq] using hover)]
  simp only [taken_coreOf, hc, hm]

end

/-! ### The Rake (R358-R361) -/

@[simp] theorem taken_job (e : Event) (s : State) (part n : Nat) : (taken e s).job part n = s.job part n := rfl

theorem job_slot {s : State} {part job : Nat} {j : RakeJob} (hj : s.job part job = some j) : j.part = part ∧ j.job = job := by
  simpa using List.find?_some hj

section
variable {s : State} {part job : Nat} {j : RakeJob} (hj : s.job part job = some j)
include hj

theorem exec_rakeJobStart (hp : .rakeJobStart part job ∈ s.pending) (hactive : j.active = true) :
    exec (.rakeJobStart part job) s = .next (beginJob (taken (.rakeJobStart part job) s) j) := by
  show execRakeJobStart part job s = _
  rw [execRakeJobStart, takeEvent_taken hp]
  simp only [taken_job, hj, hactive, if_true]

theorem exec_rakeLayerAdvance (hp : .rakeLayerAdvance part job ∈ s.pending)
    (hdue : j.active = false ∨ j.advanced = true ∨ layerOver s j = true) :
    exec (.rakeLayerAdvance part job) s = .next (if j.active then advanceJob (taken (.rakeLayerAdvance part job) s) j
      else taken (.rakeLayerAdvance part job) s) := by
  show execRakeLayerAdvance part job s = _
  rw [execRakeLayerAdvance, takeDue_taken hp (by simpa only [hj, Bool.or_eq_true, Bool.not_eq_true', or_assoc] using hdue)]
  simp only [taken_job, hj]

theorem exec_rakeLayerAdvance_stopped (hp : .rakeLayerAdvance part job ∈ s.pending) (hactive : j.active = false) :
    exec (.rakeLayerAdvance part job) s = .next (taken (.rakeLayerAdvance part job) s) := by
  rw [exec_rakeLayerAdvance hj hp (.inl hactive), if_neg (by simp [hactive])]

theorem exec_rakeLayerAdvance_active (hp : .rakeLayerAdvance part job ∈ s.pending) (hactive : j.active = true)
    (hdue : j.advanced = true ∨ layerOver s j = true) :
    exec (.rakeLayerAdvance part job) s = .next (advanceJob (taken (.rakeLayerAdvance part job) s) j) := by
  rw [exec_rakeLayerAdvance hj hp (.inr hdue), if_pos hactive]

theorem exec_rakeCopyResume (hp : .rakeCopyResume part job ∈ s.pending) (hactive : j.active = true) (hparked : j.parked = true) :
    exec (.rakeCopyResume part job) s = .next (if j.entries.isEmpty
      then beginJob (taken (.rakeCopyResume part job) s) { j with parked := false }
      else runJob (taken (.rakeCopyResume part job) s) { j with parked := false }) := by
  show execRakeCopyResume part job s = _
  rw [execRakeCopyResume, takeEvent_taken hp]
  simp only [taken_job, hj, hactive, hparked, Bool.and_self, if_true]

end

section
variable (s : State) {j : RakeJob}

/-- RTL is written in a turn of its own. -/
theorem advanceJob_writes (h : j.advanced = false) :
    let v := (advanceCopies s j).putJob { j with advanced := true }
    advanceJob s j = { v with pending := v.pending ++ [.rakeLayerAdvance j.part j.job] } := if_pos (by simp [h])

theorem advanceJob_starts (h : j.advanced = true) (hlayer : j.layer < j.tol) :
    advanceJob s j = startLayer s { j with layer := j.layer + 1 } := by
  rw [advanceJob, if_neg (by simp [h]), if_pos hlayer]

theorem advanceJob_ends (h : j.advanced = true) (hlayer : j.tol ≤ j.layer) : advanceJob s j = endJob s j := by
  rw [advanceJob, if_neg (by simp [h]), if_neg (Nat.not_lt_of_le hlayer)]

end

/-- Settles O59, message by message. -/
theorem memoryEvents : Obligations.MemoryEvents := by
  unfold Obligations.MemoryEvents
  refine ⟨fun s core off v f => ⟨exec_presenceStoreLanding, fun hstamp => ⟨landFlight_lands hstamp, fun k hk => ?_⟩⟩,
    fun s core => exec_storeBufferDrain, fun s num d => ⟨exec_durableStoreAccept, exec_persistAcknowledgement,
      exec_fabricStoreAcknowledgement, fun f => exec_fabricErrorResponse, exec_leaseExpiry⟩,
    fun s => ⟨exec_persistBufferDrain_empty, fun h => ⟨_, exec_persistBufferDrain h, rfl, rfl⟩⟩, fun s core pan => ?_,
    fun s part job j hj => ?_⟩
  · have refused := landFlight_refused hstamp hk
    exact ⟨refused, fun hsender => refused ▸ refuseFlight_blames _ k hsender⟩
  · refine ⟨fun hp hdue => ⟨fun hr hreten => ⟨_, exec_retentionEntry hp hdue, stepRetention_begins hr hreten⟩,
        fun hr => ⟨_, exec_retentionEntry hp hdue, stepRetention_retains hr⟩,
        fun hr => ⟨_, exec_retentionEntry hp hdue, stepRetention_recalled hr⟩⟩,
      exec_retentionExit, ?_, exec_coreCheckFailure_contained, exec_coreCheckFailure, fun hp => ⟨exec_mapOutDone_free hp,
        fun c m => exec_mapOutDone hp⟩⟩
    rintro pass _ hp ⟨p, rfl⟩ hdue
    exact ⟨_, exec_containmentScrub pass hp hdue, rfl, rfl, scrubTaken_pending core s, rfl⟩
  · obtain ⟨rfl, rfl⟩ := job_slot hj
    refine ⟨exec_rakeJobStart hj, fun hp => ⟨exec_rakeLayerAdvance_stopped hj hp, fun hactive hover hadv => ?_, fun hactive hadv => ?_⟩,
      fun hp hactive hparked => ?_⟩
    · rw [exec_rakeLayerAdvance_active hj hp hactive (.inr hover), advanceJob_writes _ hadv]
    · rw [exec_rakeLayerAdvance_active hj hp hactive (.inl hadv)]
      exact ⟨fun hlayer => congrArg _ (advanceJob_starts _ hadv hlayer), fun hlayer => congrArg _ (advanceJob_ends _ hadv hlayer)⟩
    · rw [exec_rakeCopyResume hj hp hactive hparked]
      exact ⟨fun hentries => congrArg _ (if_neg (by simpa using hentries)), fun hentries => congrArg _ (if_pos (by simp [hentries]))⟩

end Sys2Proof.Machine
end

section
/-! The claim about what comes from outside the package (O60): it has a host write that touches an object mark its leaf, and the model
discards such a write before the walker's marks. -/

namespace Sys2Proof.Machine

/-- A write of the host that touches an object is discarded and reported; the leaf that it translated by is left unmarked (R230, R404). -/
theorem hostWrite_discarded {s : State} {part off pa : Nat} {u : Use} {data : List (Option Byte)} (hserves : hostServes s part off = true)
    (ht : hostTarget s part off Need.write = .ok (pa, u)) (hoffs : enabledOffsets off data ≠ [16, 17, 18, 19])
    (hobj : hostTouchesObject (markUsed s u true) (pa / 64 * 64) (enabledOffsets off data) = true) :
    hostWrite part off data s = hostRecord s part (exc .objectOverwrite 0 (BitVec.ofNat 64 off)) := by
  simp only [hostWrite, hserves, ht, hoffs, hobj, Bool.not_true, Bool.false_eq_true, if_false, decide_false, if_true]

/-- Partition 0 of `whost`, LIVE with its window, with an object in the granule at its second page; no TLB holds the page's leaf. -/
def hostObject : State := { whost with objects := [0x12400] }

/-- What the host's write of one byte to that granule finds: the two reports differ in the leaf that the marks put into a TLB. -/
theorem hostObject_marks : ∃ t, hostTarget hostObject.fresh 0 0x1000 Need.write = .ok t ∧
    hostTouchesObject (markUsed hostObject.fresh t.2 true) (t.1 / 64 * 64) (enabledOffsets 0x1000 [some 1]) = true ∧
    (hostRecord (markUsed hostObject.fresh t.2 true) 0 (exc .objectOverwrite 0 0x1000)).tlb ≠
      (hostRecord hostObject.fresh 0 (exc .objectOverwrite 0 0x1000)).tlb :=
  res_ok (by decide +kernel)

/-- Refutes O60: in `hostObject` the discarded write of one byte at offset 0x1000 leaves no TLB entry, and the claim has one. -/
theorem not_outsideEvents : ¬ Obligations.OutsideEvents := by
  unfold Obligations.OutsideEvents
  intro h
  obtain ⟨host, -⟩ := h
  obtain ⟨-, -, writes, -⟩ := host hostObject 0 0x1000
  obtain ⟨⟨pa, u⟩, ht, hobj, hdiffer⟩ := hostObject_marks
  have hserves : hostServes hostObject.fresh 0 0x1000 = true := by decide +kernel
  have hoffs : enabledOffsets 0x1000 [some 1] ≠ [16, 17, 18, 19] := by decide
  obtain ⟨plain, -⟩ := writes pa u hserves ht
  obtain ⟨-, claimed⟩ := plain [some 1] hoffs
  have discarded := hostWrite_discarded hserves ht hoffs hobj
  have same : Host.Outcome.next (hostWrite 0 0x1000 [some 1] hostObject.fresh) = .next _ := claimed hobj
  rw [discarded] at same
  exact hdiffer (congrArg State.tlb (Host.Outcome.next.inj same)).symm

end Sys2Proof.Machine
end

section
/-! SUPPORT. A store that enters the store buffer as its stream then sees it, and the byte that the walker marks. -/

namespace Sys2Proof.Machine

/-! ### The newest store to a byte (R234, R246) -/

theorem covers_iff (b : Buffered) (a : Nat) : b.covers a = true ↔ b.pa ≤ a ∧ a < b.pa + b.bytes.length := by
  simp [Buffered.covers]

theorem bufferedByte_newest {b : Buffered} {a : Nat} (h : b.covers a = true) (l : List Buffered) :
    bufferedByte a (l ++ [b]) = b.bytes[a - b.pa]? := by
  have inside : a - b.pa < b.bytes.length := by
    rw [covers_iff] at h
    omega
  induction l with
  | nil => simp [bufferedByte, h]
  | cons c l ih => rw [List.cons_append, bufferedByte, ih, List.getElem?_eq_getElem inside]

theorem bufferedByte_apart {b : Buffered} {a : Nat} (h : b.covers a = false) (l : List Buffered) :
    bufferedByte a (l ++ [b]) = bufferedByte a l := by
  induction l with
  | nil => simp [bufferedByte, h]
  | cons c l ih => rw [List.cons_append, bufferedByte, ih, bufferedByte]

/-! ### What a stream sees after a store of its own -/

/-- A store has joined those of its party that are on their way, and no byte has changed at its point of order. -/
structure StoreMade (b : Buffered) (s t : State) : Prop where
  own : t.ownStores = s.ownStores ++ [b]
  point : ∀ a, physByte t a = physByte s a

/-- The stores of its stream end with it. -/
theorem StoreMade.stream {b : Buffered} {s t : State} (h : StoreMade b s t) :
    t.ownStores.filter (fun x => decide (x.vec = b.vec)) = s.ownStores.filter (fun x => decide (x.vec = b.vec)) ++ [b] := by
  simp [h.own]

theorem StoreMade.viewBytes_same {b : Buffered} {s t : State} (h : StoreMade b s t) : viewBytes t b.vec b.pa b.bytes.length = b.bytes := by
  refine List.ext_getElem (by simp [viewBytes]) fun k _ hk => ?_
  have inside : b.covers (b.pa + k) = true := (covers_iff _ _).mpr (by omega)
  simp only [viewBytes, h.stream, List.getElem_map, List.getElem_range, bufferedByte_newest inside, Nat.add_sub_cancel_left,
    List.getElem?_eq_getElem hk]

theorem StoreMade.viewBytes_apart {b : Buffered} {s t : State} (h : StoreMade b s t) {a : Nat}
    (ha : a < b.pa ∨ b.pa + b.bytes.length ≤ a) : viewBytes t b.vec a 1 = viewBytes s b.vec a 1 := by
  have outside : b.covers a = false := by
    rw [Bool.eq_false_iff, Ne, covers_iff]
    omega
  simp only [viewBytes, h.stream, List.range_one, List.map_cons, List.map_nil, Nat.add_zero, bufferedByte_apart outside, h.point]

/-! ### The store buffer (R246) -/

/-- The party of a core is its routine, or its task. -/
theorem taskKey_congr {s t : State} (hservice : t.core.service = s.core.service) (hrun : t.core.run = s.core.run) :
    t.taskKey = s.taskKey := by
  rw [State.taskKey, State.taskKey, hservice, hrun]

/-- A store as it enters the buffer. -/
def State.storeRecord (s : State) (vec : Bool) (va : Word) (pa : Nat) (bs : List Byte) : Buffered :=
  ⟨pa, bs, s.taskKey.1, s.taskKey.2, s.ctx.epoch, va, vec, s.ctx.release.isSome⟩

/-- What a store that enters the buffer leaves: the release it was, reservations that a routine ends, and its drain under way. -/
theorem buffer_eq (s : State) (vec : Bool) (va : Word) (pa : Nat) (bs : List Byte) : ∃ resv pending, s.buffer vec va pa bs =
    { s with
      ctx := { s.ctx with release := none }
      core := { s.core with resv := resv, sbuf := s.core.sbuf ++ [s.storeRecord vec va pa bs] }
      pending := pending } := by
  unfold State.buffer
  dsimp only
  split <;> exact ⟨_, _, rfl⟩

/-- An instruction whose store has entered the buffer completes. -/
theorem buffer_storeMade (s : State) (vec : Bool) (va : Word) (pa : Nat) (bs : List Byte) (size : Nat) :
    StoreMade (s.storeRecord vec va pa bs) s (((s.buffer vec va pa bs).advance size).retire 1) := by
  obtain ⟨resv, pending, hbuffer⟩ := buffer_eq s vec va pa bs
  have key : (((s.buffer vec va pa bs).advance size).retire 1).taskKey = s.taskKey := by
    refine taskKey_congr ?_ ?_ <;> simp [hbuffer]
  refine ⟨?_, fun a => ?_⟩
  · simp only [State.ownStores, key]
    simp [hbuffer, State.storeRecord]
  · simp [physByte, clockByte, State.clockOf, hbuffer]

/-- It leaves the register set but for the release it was, and every byte. -/
theorem buffer_done (s : State) (vec : Bool) (va : Word) (pa : Nat) (bs : List Byte) (size : Nat) :
    let t := ((s.buffer vec va pa bs).advance size).retire 1
    Completed size s t ∧ t.ctx = { s.ctx with pc := t.ctx.pc, release := none } ∧ SameBytes s t := by
  obtain ⟨resv, pending, hbuffer⟩ := buffer_eq s vec va pa bs
  refine ⟨?_, by simp [hbuffer], ?_⟩
  · constructor <;> simp [hbuffer]
  · constructor <;> simp [hbuffer]

theorem writeVa_phys {s : State} {va : Word} {need : Need} {pa : Nat} {u : Use} (vec : Bool) (bs : List Byte)
    (htr : translate s s.part s.privileged va need = .ok (.phys pa u)) (hobj : touchesObject s pa bs.length = false) :
    writeVa s vec va bs need = .ok ((combineRead (markUsed s u true) vec pa bs.length).buffer vec va pa bs) := by
  rw [writeVa, htr]
  simp [writeTo, hobj]

/-! ### The walker's marks (R320) -/

theorem markUsed_mem (s : State) (u : Use) (write : Bool) :
    (markUsed s u write).mem = s.mem ∨ ∃ b, (markUsed s u write).mem = memWrite s.mem u.leaf.entry b := by
  unfold markUsed
  dsimp only
  generalize hr : (if pteMode u.leaf.pte = 0 then s.recall (u.leaf.frame * 32 + u.va % 4096 / 128) 1 else s) = r
  have recalled : r.mem = s.mem := by
    subst r
    split
    · exact (recall_onlyMessages s _ _).mem
    · rfl
  split
  · split
    · exact .inr ⟨_, by rw [recalled]⟩
    · exact .inl recalled
  · exact .inr ⟨_, by rw [recalled]⟩

theorem markUsed_sameBytesBut {s : State} (u : Use) (write : Bool) (hwf : s.memWf) : SameBytesBut u.leaf.entry s (markUsed s u write) := by
  obtain ⟨r, m, l, w, recalled, h, -⟩ := markUsed_eq s u write
  obtain ⟨-, hctl, hpad, hpersisted⟩ := recalled.sameMems
  obtain ⟨hmem, -⟩ := hwf
  refine ⟨fun a ha => ?_, fun a => by rw [h, ← hctl], fun a => by rw [h, ← hpad], fun a => by rw [h, ← hpersisted]⟩
  obtain same | ⟨b, hb⟩ := markUsed_mem s u write
  · rw [same]
  · rw [hb, memRead_memWrite_ne _ _ ha hmem]

end Sys2Proof.Machine
end

section
/-! The claim about scalar stores (O27). -/

namespace Sys2Proof.Machine

/-- Settles O27: the store is the newest of its stream, which so sees its bytes, and the leaf's entry is the one byte that is marked. -/
theorem scalarStoreResults : Obligations.ScalarStoreResults := by
  unfold Obligations.ScalarStoreResults
  refine ⟨fun s i v va n size pa u hstore hva _ hstrike hpeer hready => ?_, fun s u write hwf =>
    ⟨markUsed_sameBytesBut u write hwf, (markUsed_keeps s u write).ctx⟩⟩
  intro s0 s1 htr hobj
  have length := natBytes_length n v.toNat
  have written := writeVa_phys false (natBytes n v.toNat) htr (by rwa [length])
  have made := buffer_storeMade s1 false va pa (natBytes n v.toNat) size
  have next : exec i s = .next (((s1.buffer false va pa (natBytes n v.toNat)).advance size).retire 1) := by
    rw [exec_store hstore, storeScalar_ready size v hva hstrike hpeer hready, written, length]
    rfl
  obtain ⟨done, context, bytes⟩ := buffer_done s1 false va pa (natBytes n v.toNat) size
  have view := made.viewBytes_same
  refine ⟨_, next, done, context, bytes, ?_, fun a ha => made.viewBytes_apart (a := a) ?_⟩
  · rwa [State.storeRecord, length] at view
  · rwa [State.storeRecord, length]

end Sys2Proof.Machine
end

section
/-! SUPPORT. The values of atomics and reductions, by the table of R273. -/

namespace Sys2Proof.Machine

/-! ### Words cut to the size of the operation (R273) -/

theorem minUnsigned_eq (a b : Word) : minUnsigned a b = if a.toNat ≤ b.toNat then a else b := by
  simp only [minUnsigned, ltUnsigned, BitVec.ult_iff_toNat_lt, ← not_le, ite_not]

theorem maxUnsigned_eq (a b : Word) : maxUnsigned a b = if a.toNat ≤ b.toNat then b else a := by
  simp only [maxUnsigned, ltUnsigned, BitVec.ult_iff_toNat_lt]
  split_ifs with hlt hle hle
  · rfl
  · exact absurd hlt.le hle
  · exact BitVec.eq_of_toNat_eq (le_antisymm hle (not_lt.mp hlt))
  · rfl

theorem sext_eq {k : Nat} (hk : k ≠ 0) (v : Nat) :
    sext v k = if v % 2 ^ k < 2 ^ (k - 1) then ((v % 2 ^ k : Nat) : Int) else ((v % 2 ^ k : Nat) : Int) - 2 ^ k := by
  simp [sext, hk]

theorem sext_mod (v k : Nat) : sext (v % 2 ^ k) k = sext v k := by simp only [sext, Nat.mod_mod]

theorem bytes_pow (n : Nat) : 256 ^ n = 2 ^ (8 * n) := (Nat.pow_mul 2 8 n).symm

section
variable {n : Nat} (hn : n = 4 ∨ n = 8)
include hn

theorem narrow_toNat (v : Word) : (narrow n v).toNat = v.toNat % 2 ^ (8 * n) := by
  have := v.isLt
  rw [narrow, BitVec.toNat_ofNat]
  obtain rfl | rfl := hn <;> omega

theorem widen_toInt (v : Word) : (widen n v).toInt = sext v.toNat (8 * n) := by
  rw [widen, wrap64, BitVec.toInt_ofInt, sext_eq (by omega)]
  obtain rfl | rfl := hn
  · split_ifs <;> exact Int.bmod_eq_of_le (by omega) (by omega)
  · split_ifs <;> exact Int.bmod_eq_of_le (by omega) (by omega)

/-- The low bytes of a word are not changed by its extension. -/
theorem narrow_widen (v : Word) : (narrow n (widen n v)).toNat = v.toNat % 2 ^ (8 * n) := by
  rw [narrow_toNat hn, widen, wrap64, BitVec.toNat_ofInt, sext_eq (by omega)]
  obtain rfl | rfl := hn
  · split_ifs <;> omega
  · split_ifs <;> omega

theorem amoValue_lt (op : AmoOp) (old x e : Word) : (amoValue op n old x e).toNat < 256 ^ n := by
  unfold amoValue
  rw [narrow_toNat hn, bytes_pow]
  exact Nat.mod_lt _ (Nat.two_pow_pos _)

/-- The value that an integer atomic or reduction leaves is that of the table. -/
theorem amoValue_eq {op : AmoOp} {old v : Nat} (hold : old < 256 ^ n) (x e : Word)
    (h : atomicNew n old (x.toNat % 2 ^ (8 * n)) (e.toNat % 2 ^ (8 * n)) op = some v) :
    (amoValue op n (BitVec.ofNat 64 old) x e).toNat = v := by
  rw [bytes_pow] at hold
  have fits : 2 ^ (8 * n) ≤ 2 ^ 64 := Nat.pow_le_pow_right (by decide) (by omega)
  have held : (BitVec.ofNat 64 old).toNat = old := by
    rw [BitVec.toNat_ofNat]
    exact Nat.mod_eq_of_lt (by omega)
  have kept : old % 2 ^ (8 * n) = old := Nat.mod_eq_of_lt hold
  have inSign := widen_toInt hn (BitVec.ofNat 64 old)
  have inLow := narrow_widen hn (BitVec.ofNat 64 old)
  rw [held] at inSign
  rw [held, kept] at inLow
  unfold amoValue
  cases op <;> simp only [atomicNew, Option.some.injEq, reduceCtorEq] at h <;> subst v
  case swap => exact narrow_toNat hn x
  case cas =>
    have same : BitVec.ofNat 64 old = narrow n e ↔ old = e.toNat % 2 ^ (8 * n) := by
      rw [← BitVec.toNat_inj, held, narrow_toNat hn]
    simp only [same, apply_ite (fun w => (narrow n w).toNat), narrow_toNat hn, held, kept]
  case add =>
    rw [narrow_toNat hn, BitVec.toNat_add, held, Nat.mod_mod_of_dvd _ (Nat.pow_dvd_pow 2 (by omega)), Nat.add_mod_mod]
  case and => rw [narrow_toNat hn, BitVec.toNat_and, held, Nat.and_mod_two_pow, kept]
  case or => rw [narrow_toNat hn, BitVec.toNat_or, held, Nat.or_mod_two_pow, kept]
  case xor => rw [narrow_toNat hn, BitVec.toNat_xor, held, Nat.xor_mod_two_pow, kept]
  case min =>
    simp only [minSigned_eq, inSign, widen_toInt hn, apply_ite (fun w => (narrow n w).toNat), inLow, narrow_widen hn, sext_mod]
  case max =>
    simp only [maxSigned_eq, inSign, widen_toInt hn, apply_ite (fun w => (narrow n w).toNat), inLow, narrow_widen hn, sext_mod]
  case minN =>
    simp only [minUnsigned_eq, apply_ite (fun w => (narrow n w).toNat), narrow_toNat hn, held, kept, Nat.mod_mod]
  case maxN =>
    simp only [maxUnsigned_eq, apply_ite (fun w => (narrow n w).toNat), narrow_toNat hn, held, kept, Nat.mod_mod]

end

end Sys2Proof.Machine
end

section
/-! SUPPORT. Writes of homes at the size of an atomic, and what an acquire of an atomic leaves in memory (R206, R228, R244, R249). -/

namespace Sys2Proof.Machine

/-! ### Aligned words (R206, R321) -/

/-- Translation keeps the place in the page. -/
theorem translate_offset {s : State} {part : Nat} {priv : Bool} {va : Word} {need : Need} {pa : Nat} {u : Use}
    (h : translate s part priv va need = .ok (.phys pa u)) : pa % 4096 = va.toNat % 4096 := by
  unfold translate at h
  dsimp only at h
  repeat' split at h
  all_goals
    cases h
    all_goals omega

theorem aligned_of_translate {s : State} {part : Nat} {priv : Bool} {va : Word} {need : Need} {pa : Nat} {u : Use} {n : Nat}
    (hn : n = 4 ∨ n = 8) (hva : va.toNat % n = 0) (h : translate s part priv va need = .ok (.phys pa u)) : pa % n = 0 := by
  have offset := translate_offset h
  obtain rfl | rfl := hn <;> omega

/-- An aligned word lies in one space. -/
theorem spaceOf_word {pa n k : Nat} (hn : n = 4 ∨ n = 8) (hpa : pa % n = 0) (hk : k < n) : spaceOf (pa + k) = spaceOf pa := by
  have start : pa / 16 * 16 % 16 = 0 := Nat.mul_mod_left _ _
  have low := spaceOf_granule (pa % 16) start (Nat.mod_lt _ (by decide))
  have high := spaceOf_granule (pa % 16 + k) start (by obtain rfl | rfl := hn <;> omega)
  rw [← Nat.add_assoc] at high
  rw [Nat.div_add_mod'] at low high
  rw [high, low]

/-! ### Writes of homes (R225) -/

theorem homeWrite_mem (s : State) {pa : Nat} (bs : List Byte) (h : spaceOf pa ≠ .control) :
    (homeWrite s pa bs).mem = memWriteBytes s.mem pa bs := by
  obtain ⟨hmem, -⟩ := writeThrough_memory none s bs h
  unfold homeWrite physWrite
  dsimp only
  split <;> exact hmem

/-- An aligned word written reads back. -/
theorem physLe_written {s t : State} {pa n v : Nat} (hwf : Memory.wf s.mem = true) (hspace : spaceOf pa ≠ .control) (hn : n = 4 ∨ n = 8)
    (hpa : pa % n = 0) (hv : v < 256 ^ n) (hmem : t.mem = memWriteBytes s.mem pa (natBytes n v)) : physLe t pa n = v := by
  have bytes : (List.range n).map (fun k => physByte t (pa + k)) = natBytes n v := by
    refine List.ext_getElem (by simp) fun k hk hk' => ?_
    have inside : k < n := by simpa using hk
    rw [List.getElem_map, List.getElem_range, physByte_memory (by rwa [spaceOf_word hn hpa inside]), hmem,
      memRead_memWriteBytes_in hwf pa _ k hk']
  rw [physLe, bytes, leNat_natBytes, Nat.mod_eq_of_lt hv]

/-! ### Memory that acquires leave (R217, R244, R250) -/

@[simp] theorem setCore_mem (s : State) (c : Nat) (k : Core) : (s.setCore c k).mem = s.mem := by
  unfold State.setCore
  split <;> rfl

@[simp] theorem blame_mem (s : State) (core serial tid : Nat) (d : Cause × Nat × Word) : (s.blame core serial tid d).mem = s.mem := by
  unfold State.blame
  split
  · exact setCore_mem s core _
  · rfl

theorem foldl_mem {α : Type} {f : State → α → State} (hf : ∀ (s : State) (a : α), (f s a).mem = s.mem) (s : State) (l : List α) :
    (l.foldl f s).mem = s.mem :=
  List.foldlRecOn (motive := fun t => t.mem = s.mem) l f rfl fun t h a _ => (hf t a).trans h

theorem settleGroup_mem (s : State) (g : Nat × Nat) : (settleGroup s g).mem = s.mem := by
  unfold settleGroup
  dsimp only
  split
  · rfl
  · exact foldl_mem (f := fun s k => setPadPoison s (4 * g.1 + k) false) (fun _ _ => rfl) s (List.range 4)

theorem settleFlips_mem (s : State) (core pan : Nat) : (settleFlips s core pan).mem = s.mem := by
  unfold settleFlips
  dsimp only
  split
  · rfl
  · exact foldl_mem settleGroup_mem _ _

theorem armRetention_mem (s : State) (core pan : Nat) : (armRetention s core pan).mem = s.mem := by
  unfold armRetention
  split <;> rfl

theorem wakePan_mem (s : State) (core pan : Nat) : (wakePan s core pan).mem = s.mem := by
  rw [wakePan, armRetention_mem, setCore_mem, settleFlips_mem]

theorem landPresence_mem (s : State) (core off : Nat) (v : Word) : (landPresence s core off v).mem = s.mem :=
  (wakeWaiters_onlyMessages _ _ _).mem

theorem refuseFlight_mem (s : State) (f : Flight) (k : Nat) : (refuseFlight s f k).mem = s.mem := by
  unfold refuseFlight
  split
  · rfl
  · exact blame_mem s _ _ _ _

/-- A presence store lands in a scratchpad. -/
theorem landFlight_mem (s : State) (f : Flight) : (landFlight s f).mem = s.mem := by
  have arrived (u : State) : (match arrivalRefusal u f with
      | some k => refuseFlight u f k
      | none => landPresence (wakePan u f.core (f.off / 65536)) f.core f.off f.value).mem = u.mem := by
    split
    · exact refuseFlight_mem u f _
    · rw [landPresence_mem, wakePan_mem]
  unfold landFlight
  dsimp only
  refine (arrived _).trans ?_
  split
  · exact (receive_onlyMessages _ _ _ _).mem
  · rfl

theorem acquireStamp_mem (s : State) (stamp : Option Clock) : (s.acquireStamp stamp).mem = s.mem := by
  unfold State.acquireStamp
  split
  · exact (receive_onlyMessages _ _ _ _).mem.trans (foldl_mem landFlight_mem s _)
  · rfl

theorem acquireStamp_keeps (s : State) (stamp : Option Clock) : s.Keeps (s.acquireStamp stamp) := by
  unfold State.acquireStamp
  split
  · exact (State.Keeps.foldl landFlight_keeps s _).trans (receive_onlyMessages _ _ _ _).keeps
  · exact .refl s

/-- The lines that an acquire at pod scope drops first. -/
theorem podLines_onlyLines (s : State) (pod : Bool) :
    s.OnlyLines (if pod then dropFabricLines s (dieOf s.cur) s.part else s) := by
  cases pod
  · exact .refl s
  · exact dropFabricLines_onlyLines s _ _

theorem State.OnlyLines.mem {s t : State} (h : s.OnlyLines t) : t.mem = s.mem := by rw [h.rest]

theorem acquireAtomic_mem (s : State) (order scope : BitVec 2) (pa n : Nat) : (s.acquireAtomic order scope pa n).mem = s.mem := by
  unfold State.acquireAtomic State.acquire
  split
  · rw [acquireStamp_mem, (podLines_onlyLines s _).mem]
  · rfl

theorem acquireAtomic_keeps (s : State) (order scope : BitVec 2) (pa n : Nat) : s.Keeps (s.acquireAtomic order scope pa n) := by
  unfold State.acquireAtomic State.acquire
  split
  · exact (podLines_onlyLines s _).keeps.trans (acquireStamp_keeps _ _)
  · exact .refl s

end Sys2Proof.Machine
end

section
/-! SUPPORT. Scalar atomics and reductions: what they wait for, and the states they leave (R249, R273). -/

namespace Sys2Proof.Machine

/-! ### What an atomic waits for (R236, R237) -/

theorem beforeStore_keeps (s : State) : s.Keeps (beforeStore s) := by
  unfold beforeStore
  split
  · exact .refl s
  · exact ordered_keeps _ s

theorem atomicBefore_keeps (o c : BitVec 2) (s : State) : s.Keeps (atomicBefore o c s) := by
  unfold atomicBefore
  split
  · exact ordered_keeps _ s
  · exact beforeStore_keeps s

theorem atomicPeer_noPeerFault {s : State} {va : Word} (h : noPeerFault s va Need.atom) : atomicPeer s va = none := by
  unfold atomicPeer
  split
  · exact if_neg (h _ ‹_›)
  · rfl

theorem orderAtomic_ready {o c : BitVec 2} {s : State} (h : atomicReady o c s) (k : State → Out) :
    orderAtomic o c s k = k (atomicBefore o c s) := by
  unfold orderAtomic atomicBefore
  unfold atomicReady at h
  split
  · rw [if_pos ‹_›] at h
    exact releaseAt_ordered k h
  · rw [if_neg ‹_›] at h
    exact storeAfterFence_ready h k

theorem struck_scalar {s : State} (h : s.strike .loadPath = none) : s.struck .scalar = false := by
  simp [State.struck, h]

/-! ### Atomics (R273) -/

theorem exec_atomic {i : Instr} {op : AmoOp} {d a b : BitVec 5} {c o : BitVec 2} {z : BitVec 1}
    (h : atomicTable i = some (op, d, a, b, c, o, z)) (s : State) : ∃ word, exec i s = atomic op d a b c o z word s := by
  unfold atomicTable at h
  split at h
  case h_12 => cases h
  all_goals
    cases h
    exact ⟨_, rfl⟩

theorem amoSize_cases (z : BitVec 1) : amoSize z = 4 ∨ amoSize z = 8 := by
  unfold amoSize
  split
  · exact .inl rfl
  · exact .inr rfl

/-- An aligned atomic comes to its home in the state that its release leaves. -/
theorem atomic_ready {s : State} (op : AmoOp) (d a : BitVec 5) {b : BitVec 5} {c o : BitVec 2} {z : BitVec 1} (word : Nat)
    (hfields : ¬(o = 0 ∧ c ≠ 0)) (hva : (s.x b).toNat % amoSize z = 0) (hstrike : s.strike .address = none)
    (hpeer : noPeerFault s (s.x b) Need.atom) (hready : atomicReady o c s) :
    let s1 := atomicBefore o c s
    atomic op d a b c o z word s = withRes s1 (atomicAt s1 (s.x b) (amoSize z) o c op (s1.x a) (s1.x d)) fun r =>
      complete 4 1 (r.2.setX d r.1) := by
  intro s1
  have fields : orderOk o c = true := by simpa [orderOk, imp_iff_not_or] using hfields
  unfold atomic
  rw [whenOk, if_pos fields]
  refine (scalarAccess_aligned hstrike hva _).trans ?_
  rw [atomicPeer_noPeerFault hpeer]
  exact orderAtomic_ready hready _

/-- The home's write of an atomic, between what its release and its acquire say (R244, R249). -/
def State.atomicWrite (order scope : BitVec 2) (pa n : Nat) (v : Word) (s : State) : State :=
  let rel := decide (2 ≤ order.toNat)
  let s1 := (if rel then stampHome s pa else s).acquireAtomic order scope pa n
  let s2 := homeWrite (if s1.inService then s1.dropOwnResv pa n else s1) pa (natBytes n v.toNat)
  if rel then s2.markRelease pa n else s2

/-- An atomic whose word is neither an object nor poisoned: its old value, and what it leaves. -/
theorem atomicAt_phys {s : State} {va : Word} {pa n : Nat} {u : Use} (order scope : BitVec 2) (op : AmoOp) (x e : Word)
    (htr : translate s s.part s.privileged va Need.atom = .ok (.phys pa u)) (hobj : touchesObject s pa n = false)
    (hstrike : s.strike .loadPath = none) (hclean : touchesPoison (markUsed s u true).publish pa n = false) :
    let s1 := (markUsed s u true).publish
    let old := BitVec.ofNat 64 (physLe s1 pa n)
    atomicAt s va n order scope op x e = .ok (old, s1.released.atomicWrite order scope pa n (amoValue op n old x e)) := by
  intro s1 old
  have clean : touchesPoison s1.released pa n = false := hclean
  unfold atomicAt
  rw [htr]
  dsimp only
  rw [hobj, struck_scalar hstrike, clean]
  rfl

theorem atomicWrite_mem {pa : Nat} (order scope : BitVec 2) (n : Nat) (v : Word) (s : State) (h : spaceOf pa ≠ .control) :
    (s.atomicWrite order scope pa n v).mem = memWriteBytes s.mem pa (natBytes n v.toNat) := by
  have stamped : (if decide (2 ≤ order.toNat) = true then stampHome s pa else s).mem = s.mem := by
    split
    · exact (stampHome_onlyMessages s pa).mem
    · rfl
  have ended (t : State) : (if t.inService then t.dropOwnResv pa n else t).mem = t.mem := by split <;> rfl
  have marked (t : State) : (if decide (2 ≤ order.toNat) = true then t.markRelease pa n else t).mem = t.mem := by
    unfold State.markRelease
    split_ifs <;> rfl
  rw [State.atomicWrite, marked, homeWrite_mem _ _ h, ended, acquireAtomic_mem, stamped]

theorem atomicWrite_keeps (order scope : BitVec 2) (pa n : Nat) (v : Word) (s : State) : s.Keeps (s.atomicWrite order scope pa n v) := by
  have stamped : s.Keeps (if decide (2 ≤ order.toNat) = true then stampHome s pa else s) := by
    split
    · exact (stampHome_onlyMessages s pa).keeps
    · exact .refl s
  have ended (t : State) : t.Keeps (if t.inService then t.dropOwnResv pa n else t) := by
    split
    · exact ⟨rfl, fun _ => rfl, id⟩
    · exact .refl t
  have marked (t : State) : t.Keeps (if decide (2 ≤ order.toNat) = true then t.markRelease pa n else t) := by
    unfold State.markRelease
    split_ifs
    · exact ⟨rfl, fun _ => rfl, id⟩
    · exact .refl t
    · exact .refl t
  exact (((stamped.trans (acquireAtomic_keeps _ order scope pa n)).trans (ended _)).trans (homeWrite_keeps _ _ _)).trans (marked _)

/-! ### Reductions (R249) -/

theorem exec_reduce {i : Instr} {op : AmoOp} {a b : BitVec 5} {z : BitVec 1} (h : reduceTable i = some (op, a, b, z)) (s : State) :
    exec i s = reduce op a b z s := by
  unfold reduceTable at h
  split at h
  case h_10 => cases h
  all_goals
    cases h
    rfl

/-- An aligned reduction is collected in the state that a `fence.rel` before it leaves. -/
theorem reduce_ready {s : State} (op : AmoOp) (a : BitVec 5) {b : BitVec 5} {z : BitVec 1} (hva : (s.x b).toNat % amoSize z = 0)
    (hstrike : s.strike .address = none) (hpeer : noPeerFault s (s.x b) Need.atom) (hready : storeReady s) :
    let s1 := beforeStore s
    reduce op a b z s = withRes s1 (reduceAt s1 false (s.x b) (amoSize z) op (s1.x a)) (complete 4 1) := by
  intro s1
  refine (scalarAccess_aligned hstrike hva _).trans ?_
  rw [atomicPeer_noPeerFault hpeer]
  exact storeAfterFence_ready hready _

theorem reduceAt_phys {s : State} {va : Word} {pa n : Nat} {u : Use} (vec : Bool) (op : AmoOp) (x : Word)
    (htr : translate s s.part s.privileged va Need.atom = .ok (.phys pa u)) (hobj : touchesObject s pa n = false)
    (hstrike : s.strike .loadPath = none) (hclean : touchesPoison s pa n = false) :
    reduceAt s vec va n op x = .ok (holdUpdates ((markUsed s u true).publish.collect vec va pa n op x) pa) := by
  unfold reduceAt
  rw [htr]
  dsimp only
  rw [hobj, struck_scalar hstrike, hclean]
  rfl

/-- What a reduction that is collected leaves: the release it was, reservations that a routine ends, and its record. -/
theorem collect_eq (s : State) (vec : Bool) (va : Word) (pa n : Nat) (op : AmoOp) (x : Word) : ∃ resv, s.collect vec va pa n op x =
    { s with
      ctx := { s.ctx with release := none }
      core := { s.core with
        resv := resv
        reductions := s.core.reductions ++ [⟨pa, n, op.code, x, s.taskKey.1, s.taskKey.2, va, vec⟩] } } := by
  unfold State.collect
  dsimp only
  split <;> exact ⟨_, rfl⟩

theorem holdUpdates_keeps (s : State) (pa : Nat) : s.Keeps (holdUpdates s pa) := by
  have left : s.Keeps { s with core := { s.core with l1 := s.core.l1.filter (fun k => k ≠ pa / 128) } } := ⟨rfl, fun _ => rfl, id⟩
  unfold holdUpdates
  dsimp only
  split
  · exact left
  · exact left.trans (fillL1_keeps _ _)

/-- Where the L1 has room, nothing else changes. -/
theorem holdUpdates_room {s : State} {pa : Nat} (h : roomForUpdates s pa) :
    ∃ l, holdUpdates s pa = { s with core := { s.core with l1 := l } } := by
  unfold holdUpdates
  dsimp only
  split
  · exact ⟨_, rfl⟩
  · rename_i absent
    have apart : updateKey pa ≠ pa / 128 := by
      unfold updateKey
      omega
    have others : ((s.core.l1.filter (fun k => k ≠ pa / 128)).filter (fun k => k % 128 = updateKey pa % 128)).length < 4 := by
      obtain held | room := h
      · exact absurd (List.contains_iff_mem.mpr (List.mem_filter.mpr ⟨held, decide_eq_true apart⟩)) absent
      · exact lt_of_le_of_lt (List.filter_sublist.filter _).length_le room
    unfold fillL1
    dsimp only
    rw [if_pos others]
    exact ⟨_, rfl⟩

/-! ### Reductions that their homes combine (R249) -/

theorem onCore_mem (s : State) (c : Nat) (f : State → State) : (s.onCore c f).mem = (f (s.switchTo c)).mem := by
  obtain ⟨same, -⟩ := switchTo_sameMems (f (s.switchTo c)) s.cur
  exact same

theorem physLe_switchTo (s : State) (c pa n : Nat) : physLe (s.switchTo c) pa n = physLe s pa n := by
  unfold State.switchTo
  split <;> rfl

theorem endResvBy_mem (s : State) (core serial tid pa n : Nat) : (s.endResvBy core serial tid pa n).mem = s.mem := by
  unfold State.endResvBy
  split <;> rfl

/-- The memory that the combining of a reduction leaves. -/
theorem combineOne_mem {s : State} (core : Nat) {r : Reduction} {op : AmoOp} (hop : amoOfCode r.op = some op)
    (hspace : spaceOf r.pa ≠ .control) (hobj : touchesObject s r.pa r.size = false) (hclean : touchesPoison s r.pa r.size = false) :
    (combineOne s (core, r)).mem = memWriteBytes s.mem r.pa
      (natBytes r.size (amoValue op r.size (BitVec.ofNat 64 (physLe s r.pa r.size)) r.x 0).toNat) := by
  obtain ⟨same, -⟩ := switchTo_sameMems s core
  have combined : combineOne s (core, r) = s.onCore core fun s => homeWrite (s.endResvBy core r.serial r.tid r.pa r.size) r.pa
      (natBytes r.size (amoValue op r.size (BitVec.ofNat 64 (physLe s r.pa r.size)) r.x 0).toNat) := by
    simp [combineOne, hobj, hclean, hop]
  rw [combined, onCore_mem, homeWrite_mem _ _ hspace, endResvBy_mem, physLe_switchTo, same]

end Sys2Proof.Machine
end

section
/-! The claim about scalar atomics and reductions (O35). -/

namespace Sys2Proof.Machine

/-- An atomic that completes has written sd, taken the release before it, and changed its word. -/
theorem atomicWrite_done (order scope : BitVec 2) (d : BitVec 5) {pa : Nat} (n : Nat) (v old : Word) (s : State)
    (h : spaceOf pa ≠ .control) :
    let t := (((s.released.atomicWrite order scope pa n v).setX d old).advance 4).retire 1
    t.ctx.pc = s.ctx.pc + 4 ∧ ScalarWritten s t d old ∧ t.ctx = { s.ctx with pc := t.ctx.pc, s := t.ctx.s, release := none } ∧
      t.mem = memWriteBytes s.mem pa (natBytes n v.toNat) := by
  have ctx : (s.released.atomicWrite order scope pa n v).ctx = { s.ctx with release := none } :=
    (atomicWrite_keeps order scope pa n v _).ctx
  have done := complete_scalar 4 1 d old (s.released.atomicWrite order scope pa n v)
  refine ⟨?_, fun r => ?_, ?_, ?_⟩
  · rw [done.done.pc, ctx]
    rfl
  · rw [done.result r, State.x, State.x, ctx]
    rfl
  · have context := done.context
    unfold SameButScalars at context
    rwa [ctx] at context
  · simp only [State.retire_mem, State.advance_mem, State.setX_mem]
    exact atomicWrite_mem order scope n v _ h

/-- A reduction that completes has taken the release before it; where the L1 has room it is collected and nothing else changes. -/
theorem holdUpdates_done (s : State) (vec : Bool) (va : Word) (pa n : Nat) (op : AmoOp) (x : Word) :
    let t := ((holdUpdates (s.collect vec va pa n op x) pa).advance 4).retire 1
    t.ctx = { s.ctx with pc := s.ctx.pc + 4, release := none } ∧ (roomForUpdates s pa → SameBytes s t ∧
      t.core.reductions = s.core.reductions ++ [⟨pa, n, op.code, x, s.taskKey.1, s.taskKey.2, va, vec⟩]) := by
  obtain ⟨resv, collects⟩ := collect_eq s vec va pa n op x
  have ctx := (holdUpdates_keeps (s.collect vec va pa n op x) pa).ctx.trans (congrArg State.ctx collects)
  refine ⟨by simp [ctx], fun room => ?_⟩
  have room' : roomForUpdates (s.collect vec va pa n op x) pa := by rwa [collects]
  obtain ⟨l, held⟩ := holdUpdates_room room'
  rw [collects] at held
  refine ⟨?_, by simp [collects, held]⟩
  constructor <;> simp [collects, held]

/-- Settles O35: an atomic writes its word as its home has it after the accesses before it, a reduction is one more collected record,
and its home writes the word in the same way. -/
theorem atomicResults : Obligations.AtomicResults := by
  unfold Obligations.AtomicResults
  refine ⟨fun s i op d a b c o z pa u htable hfields => ?_, fun s i op a b z pa u htable => ?_, fun s core r op v hop _ hsize hpa hspace
    hobj hclean hwf hnew => ?_⟩
  · intro n s1 s2 old hva hstrike hpath hpeer hready hwf htr hspace hobj hclean
    have hn : n = 4 ∨ n = 8 := amoSize_cases z
    have ordered : s.Keeps s1 := atomicBefore_keeps o c s
    have keeps : s.Keeps s2 := ordered.trans ((markUsed_keeps s1 u true).trans (publish_keeps _))
    obtain ⟨wf, -⟩ := keeps.form hwf
    obtain ⟨word, hexec⟩ := exec_atomic htable s
    obtain ⟨pc, result, context, memory⟩ :=
      atomicWrite_done o c d n (amoValue op n (BitVec.ofNat 64 old) (s.x a) (s.x d)) (BitVec.ofNat 64 old) s2 hspace
    refine ⟨_, ?_, by rw [pc, keeps.ctx], result.of_ctx keeps.ctx, by rwa [keeps.ctx] at context, fun v hnew => ?_, fun k hk => ?_⟩
    · have made := atomicAt_phys o c op (s.x a) (s.x d) htr hobj hpath hclean
      rw [hexec, atomic_ready op d a word hfields hva hstrike hpeer hready, State.x_eq ordered.ctx, State.x_eq ordered.ctx]
      exact congrArg (fun r => withRes s1 r _) made
    · rw [physLe_written wf hspace hn (aligned_of_translate hn hva htr) (amoValue_lt hn op _ _ _) memory]
      exact amoValue_eq hn (physLe_lt s2 pa n) (s.x a) (s.x d) hnew
    · rw [memory]
      exact memRead_memWriteBytes_out _ _ _ _ (by rwa [natBytes_length]) wf
  · intro n s1 s2 hva hstrike hpath hpeer hready _ htr hobj hclean
    have ordered : s.Keeps s1 := beforeStore_keeps s
    have keeps : s.Keeps s2 := ordered.trans ((markUsed_keeps s1 u true).trans (publish_keeps _))
    obtain ⟨context, collected⟩ := holdUpdates_done s2 false (s.x b) pa n op (s.x a)
    refine ⟨_, ?_, by rw [context, keeps.ctx], collected⟩
    have made := reduceAt_phys false op (s.x a) htr hobj hpath hclean
    rw [exec_reduce htable, reduce_ready op a hva hstrike hpeer hready, State.x_eq ordered.ctx]
    exact congrArg (fun r => withRes s1 r _) made
  · obtain ⟨wf, -⟩ := hwf
    rw [physLe_written wf hspace hsize hpa (amoValue_lt hsize op _ _ _) (combineOne_mem core hop hspace hobj hclean)]
    exact amoValue_eq hsize (physLe_lt s r.pa r.size) r.x 0 (by simpa using hnew)

end Sys2Proof.Machine
end

section
/-! SUPPORT. The claims about the memories after reset (O6) and about an enqueue at its home (O44): control blocks written and read
back (R286, R290). -/

namespace Sys2Proof.Machine

/-- Settles O6: the memories hold nothing after reset but the control space's settings, whose addresses rise. -/
theorem resetMemoryForm : Obligations.ResetMemoryForm := ⟨rfl, by decide, rfl, rfl⟩

/-! ### Control blocks (R283, R286) -/

/-- A block of 64 bytes lies in one space (R206). -/
theorem spaceOf_block {pa : Nat} (k : Nat) (h : pa % 64 = 0) (hk : k < 64) : spaceOf (pa + k) = spaceOf pa := by
  have granule := spaceOf_granule (pa := pa + k / 16 * 16) (k % 16) (by omega) (Nat.mod_lt _ (by decide))
  have cut {c : Nat} (hc : c % 64 = 0) : (pa + k / 16 * 16 < c) = (pa < c) := propext (by omega)
  have start : spaceOf (pa + k / 16 * 16) = spaceOf pa := by
    unfold spaceOf
    simp only [cut (c := 0x010000000000) rfl, cut (c := 0x040000000000) rfl, cut (c := 0x080000000000) rfl,
      cut (c := 0x3F0000000000) rfl, cut (c := 0x400000000000) rfl]
  rw [← start, ← granule, Nat.add_assoc, Nat.div_add_mod']

theorem readQcb_lt (s : State) (pa : Nat) : readQcb s pa < 2 ^ (8 * 64) := by
  rw [← bytes_pow]
  exact physLe_lt s pa 64

/-- The block at an address outside the control space is that of its bytes of memory. -/
theorem readQcb_eq (s : State) {pa : Nat} (hspace : spaceOf pa ≠ .control) (hpa : pa % 64 = 0) :
    readQcb s pa = leNat ((List.range 64).map fun k => memRead s.mem (pa + k)) := by
  unfold readQcb
  congr 1
  refine List.map_congr_left fun k hk => physByte_memory ?_
  rwa [spaceOf_block k hpa (List.mem_range.mp hk)]

theorem readQcb_congr {s t : State} {pa : Nat} (hspace : spaceOf pa ≠ .control) (hpa : pa % 64 = 0)
    (hmem : ∀ k, k < 64 → memRead t.mem (pa + k) = memRead s.mem (pa + k)) : readQcb t pa = readQcb s pa := by
  rw [readQcb_eq t hspace hpa, readQcb_eq s hspace hpa]
  congr 1
  exact List.map_congr_left fun k hk => hmem k (List.mem_range.mp hk)

theorem writeQcb_mem (s : State) {pa : Nat} (q : Nat) (h : spaceOf pa ≠ .control) :
    (writeQcb s pa q).mem = memWriteBytes s.mem pa (natBytes 64 (qSeal q)) := by
  obtain ⟨hmem, -⟩ := writeThrough_memory none s (natBytes 64 (qSeal q)) h
  unfold writeQcb physWrite
  dsimp only
  split <;> exact hmem

/-- A block written reads back with its check code. -/
theorem readQcb_writeQcb {s : State} {pa q : Nat} (hwf : s.memWf) (hspace : spaceOf pa ≠ .control) (hpa : pa % 64 = 0) (hq : q < 2 ^ (8 * 64)) :
    readQcb (writeQcb s pa q) pa = qSeal q := by
  obtain ⟨hwf, -⟩ := hwf
  have sealed : qSeal q < 2 ^ (8 * 64) := putField_lt (by decide) (by decide) hq _
  have bytes : (List.range 64).map (fun k => memRead (writeQcb s pa q).mem (pa + k)) = natBytes 64 (qSeal q) := by
    refine List.ext_getElem (by simp) fun k _ hk => ?_
    rw [List.getElem_map, List.getElem_range, writeQcb_mem s q hspace, memRead_memWriteBytes_in hwf pa _ k hk]
  rw [readQcb_eq _ hspace hpa, bytes, leNat_natBytes, bytes_pow, Nat.mod_eq_of_lt sealed]

/-- The check code lies above every field an enqueue changes. -/
theorem fieldOf_qSeal (q : Nat) {hi lo : Nat} (h : hi < 240) : fieldOf (qSeal q) hi lo = fieldOf q hi lo :=
  fieldOf_putField_below (by decide) h q _

/-! ### Full bits stay with writes (R285) -/

theorem rotateIfLive_full (old s : State) (pa n : Nat) : (rotateIfLive old s pa n).full = s.full := by
  unfold rotateIfLive
  dsimp only
  split
  · refine List.foldlRecOn (motive := fun t : State => t.full = s.full) _ _ rfl fun t h p _ => ?_
    split
    · exact List.foldlRecOn (motive := fun u : State => u.full = s.full) _ (rotateSlot p) h fun _ hu _ _ => hu
    · exact h
  · rfl

theorem writeThrough_full (keep : Option Nat) (s : State) (pa : Nat) (bs : List Byte) : (writeThrough keep s pa bs).full = s.full := by
  have messages := (dropRemote_onlyMessages s keep pa bs.length).trans
    (recall_onlyMessages _ (pa / 128) ((pa + bs.length - 1) / 128 + 1 - pa / 128))
  unfold writeThrough
  split
  · exact rotateIfLive_full s _ _ _
  · dsimp only
    rw [messages.rest]

theorem homeWrite_full (s : State) (pa : Nat) (bs : List Byte) : (homeWrite s pa bs).full = s.full := by
  unfold homeWrite physWrite
  dsimp only
  split <;> exact writeThrough_full none s pa bs

theorem writeQcb_full (s : State) (pa q : Nat) : (writeQcb s pa q).full = s.full := by
  unfold writeQcb physWrite
  dsimp only
  split <;> exact writeThrough_full none s pa _

/-! ### Slots (R285, R290) -/

/-- Pieces that lie apart from a range leave its bytes. -/
theorem writePieces_apart {piece lo hi : Nat} {slot : List Nat}
    (hslot : ∀ a ∈ slot, spaceOf a ≠ .control ∧ (a + piece ≤ lo ∨ hi ≤ a)) {s : State} (bs : List Byte) (hwf : s.memWf) {j : Nat}
    (hlo : lo ≤ j) (hhi : j < hi) : memRead (writePieces piece s slot bs).mem j = memRead s.mem j := by
  induction slot generalizing s bs with
  | nil => rfl
  | cons a slot ih =>
    obtain ⟨hspace, hapart⟩ := hslot a (List.mem_cons_self ..)
    have short : (bs.take piece).length ≤ piece := List.length_take_le ..
    rw [writePieces, ih (fun b hb => hslot b (List.mem_cons_of_mem _ hb)) _ ((homeWrite_keeps s a _).form hwf), homeWrite_mem s _ hspace,
      memRead_memWriteBytes_out _ _ _ _ (by omega) hwf.1]

/-- A dequeuer that wakes leaves the counts of the queue and the full bits (R294). -/
theorem wakeDequeuer_counts {s : State} {qpa : Nat} (hwf : s.memWf) (hspace : spaceOf qpa ≠ .control) (hqpa : qpa % 64 = 0) {hi lo : Nat}
    (h : hi < 208) : fieldOf (readQcb (wakeDequeuer s qpa) qpa) hi lo = fieldOf (readQcb s qpa) hi lo := by
  unfold wakeDequeuer
  split
  · rfl
  · rename_i w rest _
    have small := putField_lt (hi := 223) (lo := 208) (by decide) (by decide) (readQcb_lt s qpa) (qDeqw (readQcb s qpa) - 1)
    refine (congrArg (fieldOf · hi lo) (readQcb_writeQcb (s := { s with waiters := rest, pending := _ }) hwf hspace hqpa small)).trans ?_
    rw [fieldOf_qSeal _ (by omega), fieldOf_putField_below (by decide) h]

theorem wakeDequeuer_full (s : State) (qpa : Nat) : (wakeDequeuer s qpa).full = s.full := by
  unfold wakeDequeuer
  split
  · rfl
  · exact writeQcb_full _ _ _

/-! ### The enqueue (R290) -/

/-- The block with TAIL one up and FREE one down. -/
def enqueuedBlock (q : Nat) : Nat := putField (putField q 159 128 (qTail q + 1)) 191 160 (qFree q - 1)

/-- An enqueue without a segment has written that block, the slot and its full bit. -/
theorem enqueueAt_counts {s : State} {qpa : Nat} (part : Nat) {slot : List Nat} (elem : List Byte) (hwf : s.memWf) (hqpa : qpa % 64 = 0)
    (hspace : spaceOf qpa ≠ .control)
    (hslot : ∀ a ∈ slot, spaceOf a ≠ .control ∧ (a + slotPiece (readQcb s qpa) ≤ qpa ∨ qpa + 64 ≤ a)) {hi lo : Nat} (h : hi < 208) :
    fieldOf (readQcb (enqueueAt s part qpa slot none elem) qpa) hi lo = fieldOf (enqueuedBlock (readQcb s qpa)) hi lo := by
  have small : enqueuedBlock (readQcb s qpa) < 2 ^ (8 * 64) :=
    putField_lt (by decide) (by decide) (putField_lt (by decide) (by decide) (readQcb_lt s qpa) _) _
  let written := writeQcb s qpa (enqueuedBlock (readQcb s qpa))
  let filled := writePieces (slotPiece (readQcb s qpa)) written slot elem
  have wf : written.memWf := (writeQcb_keeps s qpa _).form hwf
  have apart : readQcb { filled with full := setAdd filled.full (slot.headD 0 / 8) } qpa = readQcb written qpa :=
    readQcb_congr hspace hqpa fun k hk => writePieces_apart hslot elem wf (Nat.le_add_right ..) (Nat.add_lt_add_left hk _)
  have woken := wakeDequeuer_counts (s := { filled with full := setAdd filled.full (slot.headD 0 / 8) }) (hi := hi) (lo := lo)
    ((writePieces_keeps _ written slot elem).form wf) hspace hqpa h
  rw [apart, readQcb_writeQcb hwf hspace hqpa small, fieldOf_qSeal _ (by omega)] at woken
  exact woken

theorem enqueueAt_full (s : State) (part qpa : Nat) (slot : List Nat) (elem : List Byte) :
    slot.headD 0 / 8 ∈ (enqueueAt s part qpa slot none elem).full := by
  unfold enqueueAt
  dsimp only
  rw [wakeDequeuer_full]
  exact mem_setAdd _ _

/-- Settles O44: the block that is written has the new counts, and neither the slot nor the dequeuer that wakes changes them. -/
theorem enqueueAtHome : Obligations.EnqueueAtHome := by
  intro s part qpa slot elem hwf hqpa hspace hslot _
  have counts {hi lo : Nat} (h : hi < 208) := enqueueAt_counts part elem hwf hqpa hspace hslot (lo := lo) h
  have free : qFree (readQcb s qpa) < 2 ^ 32 := Nat.mod_lt _ (by decide)
  refine ⟨(counts (by decide)).trans ?_, (counts (by decide)).trans ?_, (counts (by decide)).trans ?_, enqueueAt_full s part qpa slot elem,
    (enqueueAt_keeps s part qpa slot none elem).ctx⟩
  · rw [enqueuedBlock, fieldOf_putField_below (by decide) (by decide), fieldOf_putField_same (by decide)]
  · rw [enqueuedBlock, fieldOf_putField_same (by decide)]
    exact Nat.mod_eq_of_lt (by omega)
  · rw [enqueuedBlock, fieldOf_putField_below (by decide) (by decide), fieldOf_putField_below (by decide) (by decide)]
    rfl

end Sys2Proof.Machine
end

section
/-! SUPPORT. What a load by one stream leaves: lines in the caches, the marks of its leaf, and the clock it has read (R220, R235, R244,
R320); and the claim about scalar loads (O26). -/

namespace Sys2Proof.Machine

/-! ### The executing core's own reductions (R249) -/

theorem switchTo_self (s : State) : s.switchTo s.cur = s := if_pos rfl

theorem homeWrite_core (s : State) (pa : Nat) (bs : List Byte) : (homeWrite s pa bs).core.pmc = s.core.pmc := by
  have through : (writeThrough none s pa bs).core.pmc = s.core.pmc := by
    by_cases h : spaceOf pa = .control
    · unfold writeThrough rotateIfLive
      rw [h]
      dsimp only
      split
      · refine List.foldlRecOn (motive := fun t : State => t.core.pmc = s.core.pmc) _ _ rfl fun t ht p _ => ?_
        split
        · exact List.foldlRecOn (motive := fun u : State => u.core.pmc = s.core.pmc) _ (rotateSlot p) ht fun _ hu _ _ => hu
        · exact ht
      · rfl
    · obtain ⟨-, -, core, -⟩ := writeThrough_memory none s bs h
      rw [core]
  unfold homeWrite physWrite
  dsimp only
  split <;> exact through

/-- Combining a reduction of the executing core leaves its counters. -/
theorem combineOne_own_pmc (s : State) (r : Reduction) : (combineOne s (s.cur, r)).core.pmc = s.core.pmc := by
  unfold combineOne State.blame
  dsimp only
  split
  · split
    · rw [State.setCore, if_pos rfl, State.coreOf, if_pos rfl]
    · rfl
  · split
    · rfl
    · split
      · rename_i op _
        have kept := (endResvBy_keeps s s.cur r.serial r.tid r.pa r.size).trans (homeWrite_keeps _ r.pa
          (natBytes r.size (amoValue op r.size (BitVec.ofNat 64 (physLe s r.pa r.size)) r.x 0).toNat))
        have ends : (s.endResvBy s.cur r.serial r.tid r.pa r.size).core.pmc = s.core.pmc := by
          unfold State.endResvBy
          split <;> rfl
        rw [State.onCore, switchTo_self, State.switchTo, if_pos kept.cur.symm, homeWrite_core, ends]
      · rfl

theorem openChoice_mem {α : Type} (s : State) (kind va : Nat) (a : α) (l : List α) : openChoice s kind va a l ∈ a :: l := by
  unfold openChoice
  split
  · exact List.mem_cons_self ..
  · rw [List.getD_getElem?]
    split
    · exact List.getElem_mem _
    · exact List.mem_cons_self ..

theorem mem_combinable {q : Collected} {ahead l : List Collected} (h : q ∈ combinable ahead l) : q ∈ l := by
  induction l generalizing ahead with
  | nil => cases h
  | cons r l ih =>
    rw [combinable, List.mem_append] at h
    obtain h | h := h
    · split at h
      · exact List.mem_cons.mpr (.inl (List.mem_singleton.mp h))
      · cases h
    · exact List.mem_cons_of_mem _ (ih h)

theorem combineAll_own_pmc (k : Nat) (s : State) {l : List Collected} (h : ∀ c ∈ l, c.1 = s.cur) :
    (combineAll k s l).core.pmc = s.core.pmc := by
  induction k generalizing s l with
  | zero => rfl
  | succ k ih =>
    cases l with
    | nil => rfl
    | cons r l =>
      rw [combineAll]
      have mem : openChoice s 26 r.2.pa r (combinable [r] l) ∈ r :: l :=
        List.cons_subset_cons _ (fun q => mem_combinable) (openChoice_mem s 26 r.2.pa r (combinable [r] l))
      generalize openChoice s 26 r.2.pa r (combinable [r] l) = q at mem
      obtain ⟨c, x⟩ := q
      obtain rfl : c = s.cur := h _ mem
      have kept := combineOne_keeps s.fresh (s.cur, x)
      rw [ih _ fun c hc => (h c (List.mem_of_mem_erase hc)).trans kept.cur.symm]
      exact combineOne_own_pmc s.fresh x

/-- A line that enters the L1 leaves the counters of its core. -/
theorem fillL1_pmc (s : State) (key : Nat) : (fillL1 s key).core.pmc = s.core.pmc := by
  unfold fillL1
  dsimp only
  split
  · rfl
  · split
    · rfl
    · unfold combineWhere
      split
      · rfl
      · refine combineAll_own_pmc _ _ fun c hc => ?_
        have own := (List.mem_filter.mp hc).2
        simp only [Bool.and_eq_true, decide_eq_true_eq] at own
        exact own.1

/-- Where the L1 holds no update-only line, a line that enters it leaves every byte. -/
theorem fillL1_sameMems {s : State} (h : NoUpdateLines s) (key : Nat) (hkey : key < 2 ^ 61) : s.SameMems (fillL1 s key) := by
  unfold fillL1
  dsimp only
  split
  · exact ⟨rfl, rfl, rfl, rfl⟩
  · generalize (Config.openValue 23 (s.free * 2 ^ 80 + key)).toNat % _ = k
    rw [if_pos]
    · exact ⟨rfl, rfl, rfl, rfl⟩
    · rw [List.getD_getElem?]
      split
      · exact h _ (List.mem_of_mem_filter (List.getElem_mem _))
      · exact hkey

/-! ### Lines of this package (R220, R222) -/

/-- A line that leaves an RDC leaves no new line in the L1. -/
theorem dropRdc_l1 (s : State) (l : RdcLine) : (dropRdc s l).core.l1 ⊆ s.core.l1 := by
  unfold dropRdc dropFromL1s
  dsimp only
  split
  · exact fun _ => List.mem_of_mem_filter
  · exact List.Subset.refl _

/-- What a line fetched into the RDC leaves. -/
structure RdcFetched (s t : State) : Prop where
  mems : s.SameMems t
  pmc : t.core.pmc = s.core.pmc
  l1 : t.core.l1 ⊆ s.core.l1

theorem fetchRdc_fetched (s : State) (pa : Nat) : RdcFetched s (fetchRdc s pa) := by
  unfold fetchRdc fillRdc
  dsimp only
  split
  · split
    · exact ⟨⟨rfl, rfl, rfl, rfl⟩, rfl, List.Subset.refl _⟩
    · split
      · rename_i l _
        have dropped := dropRdc_onlyLines s l
        exact ⟨by rw [dropped.rest]; exact ⟨rfl, rfl, rfl, rfl⟩, by rw [dropped.core], dropRdc_l1 s l⟩
      · exact ⟨⟨rfl, rfl, rfl, rfl⟩, rfl, List.Subset.refl _⟩
  · exact ⟨⟨rfl, rfl, rfl, rfl⟩, rfl, List.Subset.refl _⟩

/-- The number of a line of this package is below those of update-only lines. -/
theorem lineKey_lt {s : State} {part : Nat} {priv : Bool} {va : Word} {need : Need} {pa : Nat} {u : Use}
    (h : translate s part priv va need = .ok (.phys pa u)) : pa / 128 < 2 ^ 61 := by
  have space : spaceOf pa ≠ .reserved := by
    unfold translate at h
    dsimp only at h
    repeat' split at h
    all_goals
      cases h
      try simp_all
  unfold spaceOf at space
  repeat' split at space
  all_goals first | omega | contradiction

/-- A load looks for its line in the caches: PMC0 and, without update-only lines, every byte stay. -/
theorem loadLine_fetched (s : State) (who : Loader) (leaf : Leaf) (pa : Nat) :
    (loadLine s who leaf pa).core.pmc[0] = s.core.pmc[0] ∧
      (pa / 128 < 2 ^ 61 → NoUpdateLines s → s.SameMems (loadLine s who leaf pa)) := by
  unfold loadLine
  split
  · exact ⟨rfl, fun _ _ => .refl s⟩
  · have fetched : RdcFetched s (if holdsLine leaf pa then fetchRdc s pa else s) := by
      split
      · exact fetchRdc_fetched s pa
      · exact ⟨.refl s, rfl, List.Subset.refl _⟩
    generalize (if holdsLine leaf pa then fetchRdc s pa else s) = r at fetched
    unfold lookL1
    split
    · exact ⟨by simp only [fetched.pmc], fun _ _ => fetched.mems⟩
    · dsimp only
      have counted : (r.count 6 1).core.pmc[0] = s.core.pmc[0] := by simp [fetched.pmc]
      split
      · exact ⟨by simpa only [fillL1_pmc] using counted, fun hkey hnone =>
          fetched.mems.trans (fillL1_sameMems (s := r.count 6 1) (fun k hk => hnone k (fetched.l1 hk)) _ hkey)⟩
      · exact ⟨counted, fun _ _ => fetched.mems⟩

/-! ### What a load leaves (R235, R244, R320) -/

theorem beforeLoad_keeps (s : State) (vec : Bool) (pa n : Nat) : s.Keeps (beforeLoad s vec pa n) :=
  (passOther_keeps s vec pa n).trans (combineWhere_keeps _ _)

/-- The state that a load of a line of this package leaves once its bytes are read. -/
def loadedState (s : State) (who : Loader) (newLine : Bool) (pa n : Nat) (u : Use) : State :=
  (markUsed (if newLine then loadLine s who u.leaf pa else s) u false).noteRead who pa n

theorem loadedState_keepsOwn (s : State) (who : Loader) (newLine : Bool) (pa n : Nat) (u : Use) :
    s.KeepsOwn (loadedState s who newLine pa n u) :=
  ((fetchLine_keeps (loadLine_keeps s who u.leaf pa)).trans (markUsed_keeps _ u false)).own.trans (noteRead_keepsOwn _ who pa n)

theorem noteRead_rest (s : State) (who : Loader) (pa n : Nat) :
    s.noteRead who pa n = { s with ctx := { s.ctx with seen := (s.noteRead who pa n).ctx.seen } } := by
  unfold State.noteRead
  split <;> rfl

theorem loadedState_pmc (s : State) (who : Loader) (newLine : Bool) (pa n : Nat) (u : Use) :
    (loadedState s who newLine pa n u).core.pmc[0] = s.core.pmc[0] := by
  rw [loadedState, noteRead_rest, markUsed_core]
  cases newLine
  · rfl
  · exact (loadLine_fetched s who u.leaf pa).1

theorem sameBytesBut_after {e : Nat} {s t u : State} (h : s.SameMems t) (g : SameBytesBut e t u) : SameBytesBut e s u := by
  obtain ⟨hmem, hctl, hpad, hpersisted⟩ := h
  obtain ⟨gmem, gctl, gpad, gpersisted⟩ := g
  exact ⟨by rwa [hmem] at gmem, by rwa [hctl] at gctl, by rwa [hpad] at gpad, by rwa [hpersisted] at gpersisted⟩

theorem sameBytesBut_then {e : Nat} {s t u : State} (g : SameBytesBut e s t) (h : t.SameMems u) : SameBytesBut e s u := by
  obtain ⟨hmem, hctl, hpad, hpersisted⟩ := h
  obtain ⟨gmem, gctl, gpad, gpersisted⟩ := g
  exact ⟨by rwa [hmem], by rwa [hctl], by rwa [hpad], by rwa [hpersisted]⟩

/-- Where no update-only line leaves the L1, a load changes the byte of its leaf entry alone. -/
theorem loadedState_bytes {s : State} (who : Loader) (newLine : Bool) {pa : Nat} (n : Nat) (u : Use) (hwf : s.memWf)
    (hkey : pa / 128 < 2 ^ 61) (hnone : NoUpdateLines s) : SameBytesBut u.leaf.entry s (loadedState s who newLine pa n u) := by
  have fetched : s.SameMems (if newLine then loadLine s who u.leaf pa else s) := by
    cases newLine
    · exact .refl s
    · exact (loadLine_fetched s who u.leaf pa).2 hkey hnone
  rw [loadedState, noteRead_rest]
  exact sameBytesBut_after fetched (sameBytesBut_then (markUsed_sameBytesBut u false (fetched.memWf hwf)) ⟨rfl, rfl, rfl, rfl⟩)

/-- A load of one of the task's streams from a line of this package. -/
theorem readAs_phys {s : State} {who : Loader} {part : Nat} {priv : Bool} {va : Word} {n : Nat} {need : Need} {pa : Nat} {u : Use}
    (newLine : Bool) (hwho : who ≠ .engine) (htr : translate s part priv va need = .ok (.phys pa u))
    (hpath : (beforeLoad s (decide (who = .vector)) pa n).strike .loadPath = none)
    (hclean : touchesPoison (beforeLoad s (decide (who = .vector)) pa n) pa n = false) :
    readAs s who part priv va n need newLine = .ok (viewBytes (beforeLoad s (decide (who = .vector)) pa n) (decide (who = .vector)) pa n,
      loadedState (beforeLoad s (decide (who = .vector)) pa n) who newLine pa n u) := by
  have unstruck : (beforeLoad s (decide (who = .vector)) pa n).struck who = false := by simp [State.struck, hpath]
  unfold readAs
  rw [htr]
  simp only [if_neg hwho]
  unfold beforeLoad at unstruck hclean ⊢
  rw [unstruck, hclean]
  rfl

/-- An instruction whose load has left `u` and that writes its value to a scalar register. -/
theorem loaded_done {s u : State} (size : Nat) (d : BitVec 5) (v : Word) (own : s.KeepsOwn u) (pmc : u.core.pmc[0] = s.core.pmc[0]) :
    let t := ((u.setX d v).advance size).retire 1
    Completed size s t ∧ SameButLoaded s t ∧ ScalarWritten s t d v ∧ u.SameMems t := by
  obtain ⟨done, result, context, -, -⟩ := complete_scalar size 1 d v u
  refine ⟨⟨by rw [done.pc, own.ctx], by rw [done.counted, pmc]⟩, ?_, fun r => by rw [result r, own.x], ?_⟩
  · unfold SameButLoaded
    unfold SameButScalars at context
    rw [own.ctx] at context
    rw [context]
  · exact ⟨by simp, by simp, by simp, by simp⟩

/-- Where nothing is collected and the other stream has no store under way, a load finds the state as it is. -/
theorem beforeLoad_idle {s : State} {vec : Bool} (pa n : Nat) (hnone : collected s (fun _ => true) = [])
    (hown : ∀ b ∈ s.ownStores, b.vec = vec) : beforeLoad s vec pa n = s := by
  have passed : s.passOther vec pa n = s := by
    have none : (s.ownStores.any fun b => decide (b.vec ≠ vec) && decide (b.pa < pa + n) && decide (pa < b.pa + b.bytes.length)) = false := by
      simp only [List.any_eq_false]
      intro b hb
      simp [hown b hb]
    unfold State.passOther
    dsimp only
    rw [none]
    rfl
  have empty (p : Collected → Bool) : collected s p = [] := by
    have all : (s.core.reductions.map fun r => (s.cur, r)) ++ s.others.flatMap (fun q => q.core.reductions.map fun r => (q.id, r)) = [] := by
      simpa [collected] using hnone
    rw [collected, all]
    rfl
  rw [beforeLoad, passed, combineRead, combineWhere, empty]

/-- Settles O26: the value is what the stream sees once what it waits for is done, and the load marks its leaf and fetches its line. -/
theorem scalarLoadResults : Obligations.ScalarLoadResults := by
  refine ⟨fun s i d va n size pa sg u hload hva hwf hstrike htr => ?_, fun s vec pa n hnone hown => beforeLoad_idle pa n hnone hown⟩
  intro s1 hpath hclean
  have read : readVa s va n Need.read = .ok (viewBytes s1 false pa n, loadedState s1 .scalar true pa n u) :=
    readAs_phys true (by decide) htr hpath hclean
  obtain ⟨done, context, result, rest⟩ := loaded_done size d (loadValue sg n (viewBytes s1 false pa n))
    (loadedState_keepsOwn s1 .scalar true pa n u) (loadedState_pmc s1 .scalar true pa n u)
  refine ⟨_, ?_, done, context, fun hnone => ?_, result⟩
  · rw [exec_load hload]
    refine (scalarAccess_aligned hstrike hva _).trans ?_
    rw [read]
    rfl
  · exact sameBytesBut_then (loadedState_bytes .scalar true n u ((beforeLoad_keeps s false pa n).form hwf) (lineKey_lt htr) hnone) rest

end Sys2Proof.Machine
end

section
/-! SUPPORT. What an access to an active pan leaves, and presence stores that are sent (R217, R219, R234, R263); and the claims about
place accesses (O29) and presence stores (O30). -/

namespace Sys2Proof.Machine

theorem getElem_natBytes (n v k : Nat) (hk : k < (natBytes n v).length) : (natBytes n v)[k] = BitVec.ofNat 8 (v / 256 ^ k) := by
  induction n generalizing v k with
  | zero => simp [natBytes] at hk
  | succ n ih =>
    cases k with
    | zero => simp [natBytes]
    | succ k =>
      simp only [natBytes, List.getElem_cons_succ]
      rw [ih, Nat.div_div_eq_div_mul, Nat.pow_succ']

/-! ### Pans that are active (R219, R234) -/

/-- Only the times of pans and what is under way for them may have changed. -/
structure PanReached (s t : State) : Prop where
  core : t.core = { s.core with retention := t.core.retention, panTime := t.core.panTime }
  rest : t = { s with core := t.core, others := t.others, pending := t.pending }

theorem PanReached.trans {s t u : State} (h : PanReached s t) (g : PanReached t u) : PanReached s u :=
  ⟨g.core.trans (by rw [h.core]), g.rest.trans (by rw [h.rest])⟩

theorem armRetention_reached (s : State) (core pan : Nat) : PanReached s (armRetention s core pan) := by
  unfold armRetention
  split <;> exact ⟨rfl, rfl⟩

theorem setPan_reached (s : State) (core : Nat) (r : Vector Retention 16) (p : Vector Word 16) :
    PanReached s (s.setCore core { s.coreOf core with retention := r, panTime := p }) := by
  unfold State.setCore
  split
  · rw [State.coreOf, if_pos ‹_›]
    exact ⟨rfl, rfl⟩
  · exact ⟨rfl, rfl⟩

theorem wakePan_reached {s : State} (h : s.padFlips = []) (core pan : Nat) : PanReached s (wakePan s core pan) := by
  have settled : settleFlips s core pan = s := by simp [settleFlips, h]
  rw [wakePan, settled]
  exact (setPan_reached s core _ _).trans (armRetention_reached _ core pan)

theorem PanReached.ownFlights {s t : State} (h : PanReached s t) : t.ownFlights = s.ownFlights := by
  have key : t.taskKey = s.taskKey := taskKey_congr (by rw [h.core]) (by rw [h.core])
  rw [State.ownFlights, State.ownFlights, key, h.rest]

/-- An access to an active pan of a task with no presence store under way reaches it. -/
theorem landInRange_none {s : State} (h : s.ownFlights = []) (core off n : Nat) : landInRange s core off n = s := by
  rw [landInRange, h]
  rfl

theorem whenAwake_awake {s : State} {core off n : Nat} (h : rangeAwake s core off n = true) (k : State → Out) :
    whenAwake s core off n k = k s := if_pos h

theorem panReached_clean {s t : State} (h : PanReached s t) (core off n : Nat) :
    padTouchesPoison t core off n = padTouchesPoison s core off n ∧ padBytes t core off n = padBytes s core off n := by
  rw [h.rest]
  exact ⟨rfl, rfl⟩

theorem readPlace_reached {s : State} {w : Word} {o : Int} {n c off : Nat} (hflips : s.padFlips = []) (hpath : s.strike .loadPath = none)
    (hplace : placeOf s w o n = .ok (c, off)) (hflights : s.ownFlights = []) (hclean : padTouchesPoison s c off n = false) :
    readPlace s w o n = .ok (padBytes s c off n, wakePan s c (off / 65536)) := by
  have reached := wakePan_reached hflips c (off / 65536)
  obtain ⟨clean, bytes⟩ := panReached_clean reached c off n
  unfold readPlace
  rw [hplace]
  simp only [landInRange_none (reached.ownFlights.trans hflights), struck_scalar hpath, clean, hclean, bytes]
  rfl

theorem writePlace_reached {s : State} {w : Word} {o : Int} {c off : Nat} {bs : List Byte} (hflips : s.padFlips = [])
    (hpath : s.strike .loadPath = none) (hplace : placeOf s w o bs.length = .ok (c, off)) (hflights : s.ownFlights = []) :
    writePlace s w o bs = .ok (padWrite (wakePan s c (off / 65536)) c off bs) := by
  have reached := wakePan_reached hflips c (off / 65536)
  unfold writePlace
  rw [hplace]
  simp only [landInRange_none (reached.ownFlights.trans hflights), struck_scalar hpath]
  rfl

theorem PanReached.sameBytes {s t : State} (h : PanReached s t) : SameBytes s t := by
  rw [h.rest]
  exact ⟨fun _ => rfl, fun _ => rfl, fun _ => rfl, fun _ => rfl⟩

/-- An instruction that completes after such an access, with `v` in a scalar register and the presence bits `l`. -/
theorem panReached_done {s u : State} (d : BitVec 5) (v : Word) (l : List Nat) (h : PanReached s u) :
    let t := ((({ u with present := l } : State).setX d v).advance 4).retire 1
    Completed 4 s t ∧ SameButScalars s t ∧ SameBytes s t ∧ t.present = l ∧ ScalarWritten s t d v := by
  have ctx : u.ctx = s.ctx := by rw [h.rest]
  have pmc : u.core.pmc = s.core.pmc := by rw [h.core]
  obtain ⟨mem, ctl, pad, persisted⟩ := h.sameBytes
  obtain ⟨done, result, context, -, same⟩ := complete_scalar 4 1 d v { u with present := l }
  exact ⟨Completed.of_ctx (u := { u with present := l }) ctx pmc done, SameButScalars.of_ctx (u := { u with present := l }) ctx context,
    ⟨fun a => (same.mem a).trans (mem a), fun a => (same.ctl a).trans (ctl a), fun a => (same.pad a).trans (pad a),
      fun a => (same.persisted a).trans (persisted a)⟩, by simp,
    ScalarWritten.of_ctx (u := { u with present := l }) ctx result⟩

/-- A store to the pan completes: it has taken the release before it, and its bytes are the pan's. -/
theorem padWrite_done {s u : State} (c off : Nat) (bs : List Byte) (h : PanReached s u) (hwf : s.memWf) :
    let t := ((padWrite u c off bs).released.advance 4).retire 1
    Completed 4 s t ∧ t.ctx = { s.ctx with pc := t.ctx.pc, release := none } ∧ t.present = s.present ∧ t.mem = s.mem ∧
      (∀ k (hk : k < bs.length), memRead t.pad (padAddr c off + k) = bs[k]) ∧
      (∀ k, k < padAddr c off ∨ padAddr c off + bs.length ≤ k → memRead t.pad k = memRead s.pad k) := by
  obtain ⟨-, -, hpad, -⟩ := hwf
  have pmc : u.core.pmc = s.core.pmc := by rw [h.core]
  rw [h.rest]
  refine ⟨⟨by simp [State.released, padWrite], by simp [State.released, padWrite, pmc]⟩, by simp [State.released, padWrite],
    by simp [State.released, padWrite], by simp [State.released, padWrite], fun k hk => ?_, fun k hk => ?_⟩
  · simp only [State.retire_pad, State.advance_pad, State.released, padWrite]
    exact memRead_memWriteBytes_in hpad _ _ k hk
  · simp only [State.retire_pad, State.advance_pad, State.released, padWrite]
    exact memRead_memWriteBytes_out _ _ _ _ hk hpad

/-! ### The instructions (R262) -/

/-- The checks of a place access before it, and then the access. -/
theorem placeAccess_checked {s : State} {w : Word} {o : Int} {n c off : Nat} (hstrike : s.strike .address = none)
    (halign : ((bits w 19 0 : Int) + o) % (n : Int) = 0) (hplace : placeOf s w o n = .ok (c, off)) (k : Nat × Nat → Out) :
    (addressOk s <| if placeMisaligned w o n then raise s (exc .misaligned 0 w) else withRes s (placeOf s w o n) k) = k (c, off) := by
  have aligned : placeMisaligned w o n = false := by simp [placeMisaligned, halign]
  rw [addressOk_unstruck hstrike, aligned, hplace]
  rfl

section
variable {s : State} {d a b : BitVec 5} {c off : Nat}

theorem exec_ldp {sx : BitVec 1} {z : BitVec 2} (hflips : s.padFlips = []) (hun : Unstruck s)
    (halign : ((bits (s.x a) 19 0 : Int) + (s.x b).toInt) % ((2 ^ z.toNat : Nat) : Int) = 0)
    (hplace : placeOf s (s.x a) (s.x b).toInt (2 ^ z.toNat) = .ok (c, off)) (hawake : rangeAwake s c off (2 ^ z.toNat) = true)
    (hflights : s.ownFlights = []) (hclean : padTouchesPoison s c off (2 ^ z.toNat) = false) :
    exec (.ldp d a b sx z) s = complete 4 1 ((wakePan s c (off / 65536)).setX d (loadValue (sx = 1) (2 ^ z.toNat)
      (padBytes s c off (2 ^ z.toNat)))) := by
  obtain ⟨hstrike, hpath⟩ := hun
  refine (placeAccess_checked hstrike halign hplace _).trans ?_
  dsimp only [sizeBytes, placeOffset]
  rw [whenAwake_awake hawake, readPlace_reached hflips hpath hplace hflights hclean]
  rfl

theorem exec_ldpC (hflips : s.padFlips = []) (hun : Unstruck s) (halign : ((bits (s.x a) 19 0 : Int) + (s.x b).toInt) % ((8 : Nat) : Int) = 0)
    (hplace : placeOf s (s.x a) (s.x b).toInt 8 = .ok (c, off)) (hawake : rangeAwake s c off 8 = true) (hflights : s.ownFlights = [])
    (hclean : padTouchesPoison s c off 8 = false) : exec (.ldpC d a b) s = complete 4 1
      ((consumeWord (wakePan s c (off / 65536)) c off).setX d (loadValue false 8 (padBytes s c off 8))) := by
  obtain ⟨hstrike, hpath⟩ := hun
  refine (placeAccess_checked hstrike halign hplace _).trans ?_
  dsimp only [placeOffset]
  rw [whenAwake_awake hawake, readPlace_reached hflips hpath hplace hflights hclean]
  rfl

theorem exec_stp {z : BitVec 2} (hstrike : s.strike .address = none)
    (halign : ((bits (s.x a) 19 0 : Int) + (s.x b).toInt) % ((2 ^ z.toNat : Nat) : Int) = 0)
    (hplace : placeOf s (s.x a) (s.x b).toInt (2 ^ z.toNat) = .ok (c, off)) (hready : storeReady s)
    (hpath : (beforeStore s).strike .loadPath = none) (hflips : (beforeStore s).padFlips = [])
    (hplace0 : placeOf (beforeStore s) (s.x a) (s.x b).toInt (2 ^ z.toNat) = .ok (c, off))
    (hawake : rangeAwake (beforeStore s) c off (2 ^ z.toNat) = true) (hflights : (beforeStore s).ownFlights = []) :
    exec (.stp d a b z) s = complete 4 1 (padWrite (wakePan (beforeStore s) c (off / 65536)) c off
      (natBytes (2 ^ z.toNat) (s.x d).toNat)).released := by
  refine (placeAccess_checked hstrike halign hplace _).trans ?_
  dsimp only [sizeBytes, placeOffset]
  rw [storeAfterFence_ready hready, whenAwake_awake hawake,
    writePlace_reached hflips hpath (by rwa [natBytes_length]) hflights]
  rfl

end

theorem loadValue_eq (sx : BitVec 1) (n : Nat) (bs : List Byte) : loadValue (sx = 1) n bs
    = if sx = 1 then BitVec.ofInt 64 (sext (leNat bs) (8 * n)) else BitVec.ofNat 64 (leNat bs) := by
  unfold loadValue wrap64
  by_cases h : sx = 1 <;> simp [h]

/-- Settles O29: an access reaches its pan, whose bytes it reads, or writes as a store that the `fence.rel` before it lets go. -/
theorem placeAccessResults : Obligations.PlaceAccessResults := by
  intro s d a b sx z c off w n hwf hflips hun halign hplace
  have reached := wakePan_reached hflips c (off / 65536)
  have present : (wakePan s c (off / 65536)).present = s.present := by rw [reached.rest]
  refine ⟨fun hawake hflights => ⟨fun hclean => ?_, fun hz hclean => ?_⟩, fun hready => ?_⟩
  · obtain ⟨done, context, bytes, bits, result⟩ := panReached_done d (loadValue (sx = 1) n (padBytes s c off n))
      (wakePan s c (off / 65536)).present reached
    refine ⟨_, exec_ldp hflips hun halign hplace hawake hflights hclean, done, context, bytes, bits.trans present, ?_⟩
    rw [← loadValue_eq]
    exact result
  · subst hz
    obtain ⟨done, -, bytes, bits, result⟩ := panReached_done d (loadValue false 8 (padBytes s c off 8))
      (setDrop (wakePan s c (off / 65536)).present (padWord c off)) reached
    refine ⟨_, exec_ldpC hflips hun halign hplace hawake hflights hclean, done, bytes, fun k => ?_, result⟩
    refine (iff_of_eq (congrArg (k ∈ ·) bits)).trans ?_
    simp [setDrop, present]
  · intro s0 hpath hflips0 hplace0 hawake0 hflights0
    obtain ⟨done, context, bits, mem, inside, outside⟩ := padWrite_done c off (natBytes n (s.x d).toNat)
      (wakePan_reached hflips0 c (off / 65536)) ((beforeStore_keeps s).form hwf)
    refine ⟨_, exec_stp hun.1 halign hplace hready hpath hflips0 hplace0 hawake0 hflights0, done, context, bits, mem, fun k hk => ?_,
      fun k hk => outside k (by rwa [natBytes_length])⟩
    exact (inside k (by rwa [natBytes_length])).trans (getElem_natBytes _ _ _ _)

/-! ### Presence stores (R217, R263) -/

theorem sendPresence_eq (s : State) (vec : Bool) (core off : Nat) (v : Word) : ∃ f c, sendPresence s vec core off v =
    { s with flights := f, clocks := c, pending := s.pending ++ [.presenceStoreLanding core off v] } := by
  unfold sendPresence
  dsimp only
  split
  · exact ⟨_, _, rfl⟩
  · exact ⟨_, _, rfl⟩

/-- An instruction whose presence store is on its way completes, and has taken the release before it. -/
theorem sendPresence_done (s : State) (vec : Bool) (c off : Nat) (v : Word) :
    let t := ((sendPresence s.released vec c off v).advance 4).retire 1
    Completed 4 s t ∧ SameBytes s t ∧ t.ctx = { s.ctx with pc := t.ctx.pc, release := none } ∧
      t.pending = s.pending ++ [.presenceStoreLanding c off v] := by
  obtain ⟨f, cl, sent⟩ := sendPresence_eq s.released vec c off v
  rw [sent]
  refine ⟨⟨by simp [State.released], by simp [State.released]⟩, ?_, by simp [State.released], by simp [State.released]⟩
  constructor <;> simp [State.released]

theorem exec_pst {s : State} {b d : BitVec 5} {c off : Nat} (hstrike : s.strike .address = none) (halign : (s.x b).toNat % 8 = 0)
    (hplace : placeOf s (s.x b) 0 8 = .ok (c, off)) (hready : orders (fenceScope 3 s) s) : exec (.pst b d) s
      = complete 4 1 (sendPresence (ordered (fenceScope 3 s) s).released false c off (s.x d)) := by
  have aligned : ¬bits (s.x b) 2 0 ≠ 0 := by
    simp only [bits]
    omega
  refine (addressOk_unstruck hstrike _).trans ?_
  rw [if_neg aligned, hplace]
  exact releaseAt_ordered _ hready

/-- Settles O30: a presence store is sent in the state that its release orders, and its landing writes the word and its bit. -/
theorem presenceStoreLands : Obligations.PresenceStoreLands := by
  intro s b d c off hwf hstrike halign hplace s1
  have ctx : s1.ctx = s.ctx := (ordered_keeps _ s).ctx
  obtain ⟨-, -, hpad, -⟩ := hwf
  refine ⟨fun hready => ?_, fun k hk => ?_, ?_⟩
  · obtain ⟨done, bytes, context, sent⟩ := sendPresence_done s1 false c off (s.x d)
    exact ⟨_, exec_pst hstrike halign hplace hready, done, bytes, context, by rwa [State.x_eq ctx]⟩
  · have landed : (landPresence s c off (s.x d)).pad = memWriteBytes s.pad (padAddr c off) (natBytes 8 (s.x d).toNat) := by
      rw [landPresence, (wakeWaiters_onlyMessages _ _ _).sameMems.2.2.1]
      rfl
    rw [landed, memRead_memWriteBytes_in hpad _ _ k (by rwa [natBytes_length]), getElem_natBytes]
  · have set : (landPresence s c off (s.x d)).present = setAdd s.present (padWord c off) := by
      rw [landPresence, (wakeWaiters_onlyMessages _ _ _).rest]
      rfl
    rw [set]
    exact mem_setAdd _ _

end Sys2Proof.Machine
end


section
/-! SUPPORT. Delegations (R279) and the transfers that a channel starts (R261, R266, R267). -/

namespace Sys2Proof.Machine

/-! ### Delegations -/

theorem delegationOperands_ok {s s1 : State} {a b : BitVec 5} {c : Nat} {bs : List Byte} (halign : (s.x b).toNat % 64 = 0)
    (hcore : coreOperand s (s.x a) = .ok c) (hread : readVa s (s.x b) 64 Need.read = .ok (bs, s1)) :
    delegationOperands s a b = .ok (c, bytesToWords 8 bs, s1) := by
  have aligned : misalignedAt (s.x b) 64 = false := by simp [misalignedAt, halign]
  simp only [delegationOperands, aligned, hcore, hread]
  rfl

/-- A request that a reply answers is under way, and the register has the reply's token. -/
theorem replySent_tokenDone (s : State) (t : BitVec 5) (token : Word) (promise : Option Word) (m : Event) :
    let r := ({ (newReply s promise).2 with pending := (newReply s promise).2.pending ++ [m] }.setX t token).finished
    TokenDone t token s r ∧ r.core.nextSeq = s.core.nextSeq + 1 ∧ r.pending = s.pending ++ [m] := by
  refine ⟨complete_tokenDone (s := s) rfl rfl ?_, ?_, ?_⟩
  · exact ⟨rfl, rfl, rfl, rfl⟩
  · simp [newReply, State.finished]
  · simp [newReply, State.finished]

theorem execDlg_sent {s s1 : State} {t a b : BitVec 5} {c : Nat} {bs : List Byte} (hstrike : s.strike .address = none)
    (hops : delegationOperands s a b = .ok (c, bytesToWords 8 bs, s1)) :
    let q := newReply s1.publish none
    exec (.dlg t a b) s = .next ({ q.2 with pending := q.2.pending ++
      [Event.delegation c s.cur q.1 s.part s.privileged (bytesToWords 8 bs)] }.setX t (replyToken 9 s.cur q.1)).finished := by
  refine (addressOk_unstruck hstrike _).trans ?_
  rw [hops]
  rfl

theorem execDlgAm_sent {s s1 : State} {a b : BitVec 5} {c : Nat} {bs : List Byte} (hstrike : s.strike .address = none)
    (hops : delegationOperands s a b = .ok (c, bytesToWords 8 bs, s1)) :
    exec (.dlgAm a b) s = complete 4 1 { s1.publish with pending := s1.publish.pending ++
      [Event.activeMessage c s.cur s.part s.privileged (bytesToWords 8 bs)] } := by
  refine (addressOk_unstruck hstrike _).trans ?_
  rw [hops]
  rfl

/-- An instruction that only sends a message completes. -/
theorem complete_sends (s : State) (p : List Event) : let r := (({ s with pending := p } : State).advance 4).retire 1
    Completed 4 s r ∧ SameButPc s r ∧ SameBytes s r ∧ r.pending = p := by
  refine ⟨⟨by simp, by simp⟩, by simp [SameButPc], ?_, by simp⟩
  constructor <;> simp

/-- Settles O40: in the state the block's read and the release leave, the message is sent and dlg's token written. -/
theorem delegationsSend : Obligations.DelegationsSend := by
  intro s s1 t a b c bs hstrike halign hcore hread
  have ops := delegationOperands_ok halign hcore hread
  constructor
  · obtain ⟨⟨done, context, bytes, result⟩, seq, sent⟩ := replySent_tokenDone s1.publish t
      (replyToken 9 s.cur (newReply s1.publish none).1) none
      (.delegation c s.cur (newReply s1.publish none).1 s.part s.privileged (bytesToWords 8 bs))
    exact ⟨_, execDlg_sent hstrike ops, done, context, bytes, result, seq, sent⟩
  · exact ⟨_, execDlgAm_sent hstrike ops, complete_sends _ _⟩

end Sys2Proof.Machine
end


section
/-! The claim about transfers (O41): it has an lda leave every register of its task but the pc and the token's; its read of the data
leaves the clock that the task then has seen (R244), as every load does. -/

namespace Sys2Proof.Machine

/-- The task of `w` has read the clock of a release, and its s4 holds the address of a word that no release has written. -/
def ldaAfterRead : State := { w [(4, h1)] with ctx := { (w [(4, h1)]).ctx with seen := some (Vector.replicate 8 0) } }

/-- The lda of that word leaves no clock as the one last read. -/
theorem ldaAfterRead_runs : ∃ t, exec (.lda 1 4 3 2 0) ldaAfterRead = .next t ∧ t.ctx.seen = none :=
  out_next (by decide +kernel)

theorem ldaAfterRead_translates : ∃ u, translate ldaAfterRead ldaAfterRead.part ldaAfterRead.privileged
    (ldaAfterRead.x 4 + BitVec.ofInt 64 ((0 : BitVec 7).toInt * 2 ^ (3 : BitVec 2).toNat)) Need.read = .ok (.phys 0x124000 u) ∧ True :=
  res_phys (fun _ => True) (by decide +kernel)

/-- Refutes O41: the lda of `ldaAfterRead` changes the clock that its task has seen, which the claim has it leave. -/
theorem not_transfersStart : ¬ Obligations.TransfersStart := by
  unfold Obligations.TransfersStart
  rintro ⟨-, loads⟩
  obtain ⟨u, translates, -⟩ := ldaAfterRead_translates
  obtain ⟨r, claimed, -, context, -⟩ := loads ldaAfterRead 1 4 2 3 0 0x124000 u (by decide) (by decide) (by decide +kernel)
    (by decide +kernel) translates (by decide +kernel)
  obtain ⟨t, run, forgets⟩ := ldaAfterRead_runs
  cases claimed.symm.trans run
  have kept : r.ctx.seen = ldaAfterRead.ctx.seen := by rw [context]
  exact absurd (kept.symm.trans forgets) (by decide +kernel)

end Sys2Proof.Machine
end


section
/-! SUPPORT. What the instructions and messages under way leave of each core's account: its count of instructions (R385) and the stores in
its buffer (R234). -/

namespace Sys2Proof.Machine

/-- What a core has counted and what waits in its store buffer. -/
def Core.account (k : Core) : Word × List Buffered := (k.pmc[0], k.sbuf)

/-- The executing core is the same, and every core's account is as it was. -/
structure State.KeepsAccounts (s t : State) : Prop where
  cur : t.cur = s.cur
  accounts : ∀ c, (t.coreOf c).account = (s.coreOf c).account

namespace State.KeepsAccounts
variable {s t u : State}

theorem refl (s : State) : s.KeepsAccounts s := ⟨rfl, fun _ => rfl⟩

theorem trans (h : s.KeepsAccounts t) (g : t.KeepsAccounts u) : s.KeepsAccounts u :=
  ⟨g.cur.trans h.cur, fun c => (g.accounts c).trans (h.accounts c)⟩

/-- `trans` with the later change first, which fixes the state between them. -/
theorem after (g : t.KeepsAccounts u) (h : s.KeepsAccounts t) : s.KeepsAccounts u := h.trans g

theorem own (h : s.KeepsAccounts t) : t.core.account = s.core.account := by
  simpa [State.coreOf, h.cur] using h.accounts s.cur

theorem counted (h : s.KeepsAccounts t) : t.core.pmc[0] = s.core.pmc[0] := congrArg Prod.fst h.own

theorem stores (h : s.KeepsAccounts t) : t.core.sbuf = s.core.sbuf := congrArg Prod.snd h.own

theorem foldl {α : Type} {f : State → α → State} (hf : ∀ (s : State) (a : α), s.KeepsAccounts (f s a)) (s : State) (l : List α) :
    s.KeepsAccounts (l.foldl f s) :=
  List.foldlRecOn l f (refl s) fun t h a _ => h.trans (hf t a)

/-- Every core may change in all but its account. -/
theorem of_others (cur : t.cur = s.cur) (core : t.core.account = s.core.account) (f : Parked → Parked)
    (hf : ∀ p, (f p).id = p.id ∧ (f p).core.account = p.core.account) (others : t.others = s.others.map f) : s.KeepsAccounts t := by
  refine ⟨cur, fun c => ?_⟩
  rw [State.coreOf_eq, State.coreOf_eq, cur, others, findParked_map f (fun p => (hf p).1), Option.map_map]
  split
  · exact core
  · cases findParked s.others c with
    | none => rfl
    | some p => exact (hf p).2

theorem of_same (cur : t.cur = s.cur) (core : t.core.account = s.core.account) (others : t.others = s.others) : s.KeepsAccounts t :=
  of_others cur core id (fun _ => ⟨rfl, rfl⟩) (by rw [others, List.map_id])

end State.KeepsAccounts

theorem State.OnlyMessages.accounts {s t : State} (h : s.OnlyMessages t) : s.KeepsAccounts t :=
  .of_same h.cur (by rw [h.core]) h.others

theorem setCore_accounts {s : State} {c : Nat} {k : Core} (h : k.account = (s.coreOf c).account) : s.KeepsAccounts (s.setCore c k) := by
  unfold State.setCore
  split
  · subst c
    refine .of_same rfl ?_ rfl
    rwa [State.coreOf, if_pos rfl] at h
  · refine ⟨rfl, fun b => ?_⟩
    rw [State.coreOf_eq, State.coreOf_eq]
    split
    · rfl
    · by_cases hb : b = c
      · subst hb
        rw [findParked_putParked_same _ (⟨b, k, s.ctxOf b, s.copyOf b⟩ : Parked)]
        rwa [State.coreOf_eq, if_neg ‹_›] at h
      · rw [findParked_putParked_ne _ _ hb]

theorem switchTo_accounts (s : State) (c b : Nat) : ((s.switchTo c).coreOf b).account = (s.coreOf b).account := by
  rw [switchTo_coreOf]

/-- Work of another core's units that keeps the accounts keeps them. -/
theorem onCore_accounts (s : State) (c : Nat) {f : State → State} (hf : ∀ s : State, s.KeepsAccounts (f s)) :
    s.KeepsAccounts (s.onCore c f) := by
  refine ⟨switchTo_cur _ _, fun b => ?_⟩
  rw [State.onCore, switchTo_accounts, (hf _).accounts, switchTo_accounts]

/-! ### Writes at their points of order -/

theorem rotateIfLive_accounts (old s : State) (pa n : Nat) : s.KeepsAccounts (rotateIfLive old s pa n) := by
  unfold rotateIfLive
  dsimp only
  split
  · refine .foldl (fun s p => ?_) _ _
    split
    · exact .foldl (f := rotateSlot p) (fun s k => .of_same rfl rfl rfl) _ _
    · exact .refl s
  · exact .refl s

theorem writeThrough_accounts (keep : Option Nat) (s : State) (pa : Nat) (bs : List Byte) :
    s.KeepsAccounts (writeThrough keep s pa bs) := by
  unfold writeThrough
  split
  · exact (rotateIfLive_accounts s _ pa bs.length).after (.of_same rfl rfl rfl)
  · have messages := (dropRemote_onlyMessages s keep pa bs.length).trans
      (recall_onlyMessages _ (pa / 128) ((pa + bs.length - 1) / 128 + 1 - pa / 128))
    refine messages.accounts.trans ?_
    dsimp only
    split
    · exact .of_others rfl rfl (Parked.overwritten (wordsTouched pa bs.length) pa bs.length) (fun p => ⟨rfl, rfl⟩) rfl
    · exact .of_same rfl rfl rfl

theorem storeWrite_accounts (s : State) (pa : Nat) (bs : List Byte) : s.KeepsAccounts (storeWrite s pa bs) :=
  writeThrough_accounts _ s pa bs

theorem physWrite_accounts (s : State) (pa : Nat) (bs : List Byte) : s.KeepsAccounts (physWrite s pa bs) :=
  (writeThrough_accounts none s pa bs).trans (.of_same rfl rfl rfl)

theorem homeWrite_accounts (s : State) (pa : Nat) (bs : List Byte) : s.KeepsAccounts (homeWrite s pa bs) := by
  unfold homeWrite
  dsimp only
  split
  · exact (physWrite_accounts s pa bs).trans (.of_same rfl rfl rfl)
  · exact physWrite_accounts s pa bs

theorem writeQcb_accounts (s : State) (pa q : Nat) : s.KeepsAccounts (writeQcb s pa q) := by
  have written := physWrite_accounts s pa (natBytes 64 (qSeal q))
  unfold writeQcb
  dsimp only
  generalize physWrite s pa (natBytes 64 (qSeal q)) = t at written
  split
  · exact written.trans (.of_same rfl rfl rfl)
  · exact written

theorem endResvBy_accounts (s : State) (core serial tid pa n : Nat) : s.KeepsAccounts (s.endResvBy core serial tid pa n) := by
  unfold State.endResvBy
  split
  · exact .refl s
  · exact .of_same rfl rfl rfl

theorem restamp_accounts (old : State) (pa n serial tid : Nat) (stamp : Option Clock) (s : State) :
    s.KeepsAccounts (restamp old pa n serial tid stamp s) := by
  unfold restamp
  split
  · exact .of_same rfl rfl rfl
  · split
    · exact .refl s
    · exact .of_same rfl rfl rfl

theorem storeArrival_accounts (old : State) (core serial tid pa n m : Nat) (bs : List Byte) (stamp : Option Clock) (s : State) :
    s.KeepsAccounts (restamp old pa n serial tid stamp (storeWrite (s.endResvBy core serial tid pa m) pa bs)) :=
  ((endResvBy_accounts s core serial tid pa m).trans (storeWrite_accounts _ pa bs)).trans (restamp_accounts _ _ _ _ _ _ _)

/-! ### Presence stores -/

theorem blame_accounts (s : State) (core serial tid : Nat) (d : Cause × Nat × Word) : s.KeepsAccounts (s.blame core serial tid d) := by
  unfold State.blame
  split
  · exact setCore_accounts rfl
  · exact .of_others rfl rfl (fun p => { p with core := p.core.blame serial tid d }) (fun _ => ⟨rfl, rfl⟩) rfl

theorem countError_accounts (s : State) (die off : Nat) : s.KeepsAccounts (countError s die off) := .of_same rfl rfl rfl

theorem settleGroup_accounts (s : State) (g : Nat × Nat) : s.KeepsAccounts (settleGroup s g) := by
  unfold settleGroup
  dsimp only
  split
  · exact countError_accounts s _ _
  · exact (countError_accounts _ _ _).after
      (.foldl (f := fun s k => setPadPoison s (4 * g.1 + k) false) (fun s k => .of_same rfl rfl rfl) s (List.range 4))

theorem settleFlips_accounts (s : State) (core pan : Nat) : s.KeepsAccounts (settleFlips s core pan) := by
  unfold settleFlips
  dsimp only
  split
  · exact .refl s
  · exact (State.KeepsAccounts.foldl settleGroup_accounts _ _).after (.of_same rfl rfl rfl)

theorem armRetention_accounts (s : State) (core pan : Nat) : s.KeepsAccounts (armRetention s core pan) := by
  unfold armRetention
  split
  · exact .of_same rfl rfl rfl
  · exact .refl s

theorem setPan_accounts (s : State) (core : Nat) (r : Vector Retention 16) (p : Vector Word 16) :
    s.KeepsAccounts (s.setCore core { s.coreOf core with retention := r, panTime := p }) := setCore_accounts rfl

theorem wakePan_accounts (s : State) (core pan : Nat) : s.KeepsAccounts (wakePan s core pan) :=
  ((settleFlips_accounts s core pan).trans (setPan_accounts _ core _ _)).trans (armRetention_accounts _ _ _)

theorem landPresence_accounts (s : State) (core off : Nat) (v : Word) : s.KeepsAccounts (landPresence s core off v) :=
  (wakeWaiters_onlyMessages _ _ _).accounts.after (.of_same rfl rfl rfl)

theorem refuseFlight_accounts (s : State) (f : Flight) (k : Nat) : s.KeepsAccounts (refuseFlight s f k) := by
  unfold refuseFlight
  split
  · exact .of_same rfl rfl rfl
  · exact blame_accounts s _ _ _ _

theorem landFlight_accounts (s : State) (f : Flight) : s.KeepsAccounts (landFlight s f) := by
  have arrived (u : State) : u.KeepsAccounts (match arrivalRefusal u f with
      | some k => refuseFlight u f k
      | none => landPresence (wakePan u f.core (f.off / 65536)) f.core f.off f.value) := by
    split
    · exact refuseFlight_accounts u f _
    · exact (wakePan_accounts u _ _).trans (landPresence_accounts _ _ _ _)
  unfold landFlight
  dsimp only
  refine State.KeepsAccounts.trans ?_ (arrived _)
  split
  · exact (receive_onlyMessages _ _ _ _).accounts.after (.of_same rfl rfl rfl)
  · exact .of_same rfl rfl rfl

/-! ### The store buffer and the durable tier -/

theorem stampStore_accounts (s : State) (b : Buffered) : s.KeepsAccounts (stampStore s b) := by
  unfold stampStore
  split
  · exact .refl s
  · have bump : s.KeepsAccounts (s.bumpClock (dieOf s.cur)) := .of_same rfl rfl rfl
    dsimp only
    split
    · exact (bump.trans (.foldl landFlight_accounts _ _)).trans (receive_onlyMessages _ _ _ _).accounts
    · exact bump

theorem sendStore_accounts (s : State) (b : Buffered) : s.KeepsAccounts (sendStore s b) := by
  unfold sendStore
  dsimp only
  refine (stampStore_accounts s b).trans ?_
  split
  · exact .of_same rfl rfl rfl
  · split
    · exact blame_accounts _ _ _ _ _
    · exact storeArrival_accounts _ _ _ _ _ _ _ _ _ _

theorem sendAll_accounts (s : State) (l : List Buffered) : s.KeepsAccounts (sendAll s l) := by
  induction l generalizing s with
  | nil => exact .refl s
  | cons b l ih => exact (sendStore_accounts s b).trans (ih _)

theorem acceptDurable_accounts (s : State) (d : Durable) : s.KeepsAccounts (acceptDurable s d) := by
  unfold acceptDurable
  split
  · exact (blame_accounts _ _ _ _ _).after (.of_same rfl rfl rfl)
  · exact (onCore_accounts s d.core fun u =>
      storeArrival_accounts u d.core d.serial d.tid d.pa d.bytes.length d.bytes.length d.bytes d.stamp u).trans (.of_same rfl rfl rfl)

theorem acceptAll_accounts (s : State) (l : List Durable) : s.KeepsAccounts (acceptAll s l) := by
  induction l generalizing s with
  | nil => exact .refl s
  | cons d l ih =>
    refine State.KeepsAccounts.trans ?_ (ih _)
    split
    · exact .refl s
    · exact acceptDurable_accounts s d

/-- What a publication counts and leaves in the executing core's buffer: nothing. -/
theorem publish_account (s : State) : s.publish.core.account = (s.core.pmc[0], []) := by
  have drained := sendAll_accounts { s with core := { s.core with sbuf := [] } } s.core.sbuf
  have published : State.KeepsAccounts { s with core := { s.core with sbuf := [] } } s.publish :=
    (drained.trans (acceptAll_accounts _ _)).trans (.foldl landFlight_accounts _ _)
  exact published.own

theorem publish_counted (s : State) : s.publish.core.pmc[0] = s.core.pmc[0] := congrArg Prod.fst (publish_account s)

theorem publish_sbuf (s : State) : s.publish.core.sbuf = [] := congrArg Prod.snd (publish_account s)

/-! ### The walker's marks (R320) -/

theorem markUsed_accounts (s : State) (u : Use) (write : Bool) : s.KeepsAccounts (markUsed s u write) := by
  obtain ⟨r, m, l, w, recalled, h, -⟩ := markUsed_eq s u write
  rw [h]
  exact recalled.accounts.trans (.of_same rfl rfl rfl)

theorem touch_accounts (s : State) (part va : Nat) (need : Need) (write : Bool) : s.KeepsAccounts (s.touch part va need write) := by
  unfold State.touch
  split
  · exact markUsed_accounts s _ write
  · exact .refl s

end Sys2Proof.Machine
end


section
/-! The claim about task control (O49): requests to Sluice and their tokens, the wait of wqry.open, and the ends of a task's turn
(R307-R312). -/

namespace Sys2Proof.Machine

/-! ### Requests (R307, R310, R312, R366) -/

theorem outsideService_open {s : State} (h : s.inService = false) (word : Nat) (k : Out) : outsideService s word k = k :=
  if_neg (by simp [h])

theorem listOperand_of {v : Word} (h : v.toNat < 8) : listOperand v = .ok v.toNat := by
  have low : ¬bits v 63 3 ≠ 0 := by
    have := v.isLt
    simp only [bits]
    omega
  rw [listOperand, if_neg low]

/-- The requests of the table leave their event with Sluice. -/
theorem exec_request {s : State} {i : Instr} {d : BitVec 5} {ev : Nat → Event} (h : requestTable s i = some (d, ev))
    (hservice : s.inService = false) : exec i s = askSluice d ev s := by
  cases i with
  | tspawn d a =>
    simp only [requestTable] at h
    split at h
    · rename_i c hc
      cases h
      refine (outsideService_open hservice _ _).trans ?_
      rw [hc]
      rfl
    · cases h
  | gjoin d a =>
    cases h
    exact outsideService_open hservice _ _
  | wqry d a b =>
    simp only [requestTable] at h
    split at h
    · rename_i operands
      obtain ⟨halign, hlist⟩ := operands
      split at h
      · rename_i p hp
        cases h
        refine (outsideService_open hservice _ _).trans ?_
        rw [if_neg (by simp [misalignedAt, halign]), hp, listOperand_of hlist]
        rfl
      · cases h
    · cases h
  | _ => cases h

/-! ### The wait for an answer (R312) -/

theorem exec_wqryOpen {s : State} {a b : BitVec 5} (d : BitVec 5) (hservice : s.inService = false) (hitem : (s.x a).toNat < 2 ^ 60)
    (hlist : (s.x b).toNat < 8) : exec (.wqryOpen d a b) s =
      s.ask (.wqryOpenRequest s.cur s.taskKey.1 (s.x b).toNat (BitVec.ofNat 60 (s.x a).toNat)) fun v s => complete 4 1 (s.setX d v) := by
  have low : ¬bits (s.x a) 63 60 ≠ 0 := by
    simp only [bits]
    omega
  refine (outsideService_open hservice _ _).trans ?_
  rw [if_neg low, listOperand_of hlist]
  rfl

theorem ask_asks {s : State} (hanswer : s.core.answer = none) (hasked : s.core.asked = false) (e : Event) (k : Word → State → Out) :
    s.ask e k = .next { s with core := { s.core with asked := true }, pending := s.pending ++ [e] } := by
  simp [State.ask, hanswer, hasked]

theorem ask_waits {s : State} (hanswer : s.core.answer = none) (hasked : s.core.asked = true) (e : Event) (k : Word → State → Out) :
    s.ask e k = .next s := by
  simp [State.ask, hanswer, hasked]

theorem ask_answered {s : State} {v : Word} (hanswer : s.core.answer = some v) (e : Event) (k : Word → State → Out) :
    s.ask e k = k v { s with core := { s.core with answer := none, asked := false } } := by
  simp [State.ask, hanswer]

/-! ### The end of a task's turn (R308, R309) -/

theorem releaseIfComplete_rest (s : State) (n : Nat) :
    releaseIfComplete s n = { s with pending := (releaseIfComplete s n).pending } := by
  unfold releaseIfComplete
  dsimp only
  split <;> rfl

theorem leaveLines_core (s : State) (serial tid : Nat) (lines : List Nat) :
    (leaveLines s serial tid lines).core = s.core ∧ (leaveLines s serial tid lines).cur = s.cur := by
  unfold leaveLines endEnrolment
  exact List.foldlRecOn (motive := fun t : State => t.core = s.core ∧ t.cur = s.cur) _ releaseIfComplete ⟨rfl, rfl⟩
    fun t h n _ => by rw [releaseIfComplete_rest]; exact h

theorem dropWaiters_accounts (s : State) (core slot : Nat) : s.KeepsAccounts (dropWaiters s core slot) := by
  unfold dropWaiters
  refine State.KeepsAccounts.after (.foldl (fun t w => ?_) _ _) (.of_same rfl rfl rfl)
  split
  · exact writeQcb_accounts t _ _
  · exact writeQcb_accounts t _ _
  · exact .refl t

theorem returnCopy_accounts (s : State) : s.KeepsAccounts (returnCopy s) := by
  unfold returnCopy
  split
  · exact .refl s
  · exact .of_same rfl rfl rfl

/-- The core of an ended task is free and has kept its account. -/
theorem removeRunning_core (s : State) (t : TaskInfo) :
    (removeRunning s t).core.run = .idle ∧ (removeRunning s t).core.account = s.core.account ∧ (removeRunning s t).cur = s.cur := by
  have dropped := (returnCopy_accounts s).trans (dropWaiters_accounts _ s.cur t.slot)
  unfold removeRunning
  dsimp only
  rw [(leaveLines_core _ _ _ _).1, (leaveLines_core _ _ _ _).2]
  exact ⟨rfl, dropped.own, dropped.cur⟩

/-- The state of a core whose task has ended, before it picks. -/
def tended (s : State) (x : TaskInfo) : State := sendEnd (removeRunning (s.publish.retire 1) x) x.serial x.tid

theorem tended_left (s : State) (x : TaskInfo) : (tended s x).core.run = .idle ∧ (tended s x).core.sbuf = [] ∧
    .endMessage s.cur x.serial x.tid ∈ (tended s x).pending ∧ (tended s x).core.pmc[0] = s.core.pmc[0] + 1 := by
  obtain ⟨run, account, cur⟩ := removeRunning_core (s.publish.retire 1) x
  obtain ⟨counted, stores⟩ := Prod.mk.inj account
  refine ⟨run, stores.trans ?_, ?_, counted.trans ?_⟩
  · simp [publish_sbuf]
  · simp [tended, sendEnd, cur, (publish_keeps s).cur]
  · simp [publish_counted]

theorem tendWith_ends {s : State} {x : TaskInfo} (word : Nat) (hservice : s.inService = false) (hgang : s.inGang = false)
    (hx : s.core.run.task = some x) : tendWith word s = .next (tended s x).pick := by
  simp [tendWith, whenOk, hservice, hgang, hx, tended]

theorem yieldWith_suspends {s : State} {x : TaskInfo} (size word : Nat) (hservice : s.inService = false) (hgang : s.inGang = false)
    (hx : s.core.run.task = some x) : yieldWith size word s =
      .next (suspendAndPick ((s.advance size).retire 1) x .ready none (fullRecordBytes s.ctx)) := by
  have record : fullRecordBytes ((s.advance size).retire 1).ctx = fullRecordBytes s.ctx := by simp [fullRecordBytes, boundWells]
  simp only [yieldWith, whenOk, hservice, hgang, hx, record]
  rfl

theorem notHere_of {s : State} (h : s.inService = true ∨ s.inGang = true) : (!s.inService && !s.inGang) = false := by
  rcases h with h | h <;> simp [h]

/-- Settles O49: requests by their table, wqry.open by what the core holds of its answer, the ends of a turn by the running task. -/
theorem taskControlForms : Obligations.TaskControlForms := by
  refine ⟨fun s i d ev h hservice => ?_, fun s d a b hservice hitem hlist => ?_, fun s x hservice hgang hx => ?_, fun s h => ?_⟩
  · obtain ⟨⟨done, context, bytes, result⟩, seq, sent⟩ := replySent_tokenDone s d (replyToken 8 s.cur (s.core.nextSeq % 2 ^ 32))
      (some (sluicePromise s)) (ev (s.core.nextSeq % 2 ^ 32))
    exact ⟨_, exec_request h hservice, done, context, bytes, result, seq, sent⟩
  · rw [exec_wqryOpen d hservice hitem hlist]
    refine ⟨fun hanswer hasked => ⟨_, ask_asks hanswer hasked _ _, rfl, rfl, ?_, rfl⟩, fun hanswer hasked => ask_waits hanswer hasked _ _,
      fun v hanswer => ⟨_, ask_answered hanswer _ _, ?_⟩⟩
    · constructor <;> exact fun _ => rfl
    · obtain ⟨done, context, bytes, result⟩ := complete_tokenDone (s := s) (d := d) (token := v)
        (u := { s with core := { s.core with answer := none, asked := false } }.setX d v) rfl rfl ⟨rfl, rfl, rfl, rfl⟩
      exact ⟨done, result, context, bytes, by simp, by simp⟩
  · refine ⟨fun i hi => ⟨tended s x, ?_, tended_left s x⟩, yieldWith_suspends 4 _ hservice hgang hx,
      yieldWith_suspends 2 _ hservice hgang hx⟩
    rcases hi with rfl | rfl
    · exact tendWith_ends _ hservice hgang hx
    · exact tendWith_ends _ hservice hgang hx
  · have refused := notHere_of h
    constructor
    · show tendWith encTend s = _
      rw [tendWith, refused]
      rfl
    · show yieldWith 4 encYield s = _
      rw [yieldWith, refused]
      rfl

end Sys2Proof.Machine
end


section
/-! The claim about invalidations, probe and grants (O51; R325, R326, R332-R336). -/

namespace Sys2Proof.Machine

theorem whenPrivileged_of {s : State} (h : s.privileged = true) (k : Out) : whenPrivileged s k = k := if_pos h

/-! ### Invalidations (R325, R326) -/

theorem partOperand_of {w : Word} (h : w.toNat < 64) : partOperand w = .ok w.toNat := by
  have high : ¬bits w 63 6 ≠ 0 := by
    simp only [bits]
    omega
  have low : bits w 5 0 = w.toNat := by
    simp only [bits]
    omega
  rw [partOperand, if_neg high, low]

theorem partOperand_wide {w : Word} (h : 64 ≤ w.toNat) : partOperand w = .error (exc .bounds 0 w) := by
  have high : bits w 63 6 ≠ 0 := by
    have := w.isLt
    simp only [bits]
    omega
  rw [partOperand, if_pos high]

theorem drainEverywhere_keeps (s : State) : s.Keeps (drainEverywhere s) :=
  (publish_keeps s).trans (.foldl (f := fun s c => s.onCore c State.drain) (fun s c => onCore_keeps s c drain_keeps) _ _)

/-- The state in which an invalidation removes what it names. -/
def settled (s : State) : State := acceptAll (drainEverywhere s) (drainEverywhere s).durable

theorem settled_keeps (s : State) : s.Keeps (settled s) := (drainEverywhere_keeps s).trans (acceptAll_keeps _ _)

theorem invalidate_done {s : State} (h : (drainEverywhere s).fabric = []) (f : State → State) :
    invalidate f s = .next (f (settled s)).finished := if_pos (by simp [h])

/-- An invalidation that leaves the registers completes. -/
theorem invalidated_registers {s u : State} (h : u.ctx = (settled s).ctx) :
    u.finished.ctx.pc = s.ctx.pc + 4 ∧ SameButPc s u.finished := by
  have ctx := h.trans (settled_keeps s).ctx
  simp [State.finished, SameButPc, ctx]

theorem mem_dropVa {part va : Nat} {s : State} :
    (∀ e ∈ (dropVa part va s).tlb, e.covers part va = false) ∧ ∀ w ∈ (dropVa part va s).walkCache, w.part ≠ part := by
  simp [dropVa]

theorem mem_dropPartition {part : Nat} {s : State} :
    (∀ e ∈ (dropPartition part s).tlb, e.part = part → e.pte.getLsbD 8 = true) ∧ ∀ w ∈ (dropPartition part s).walkCache, w.part ≠ part := by
  refine ⟨fun e he hpart => ?_, by simp [dropPartition]⟩
  have kept := (List.mem_filter.mp he).2
  simpa [hpart] using kept

theorem exec_tlbiVa {s : State} {b : BitVec 5} (a : BitVec 5) (hpriv : s.privileged = true) (hb : (s.x b).toNat < 64) :
    exec (.tlbiVa a b) s = invalidate (dropVa (s.x b).toNat (s.x a).toNat) s := by
  refine (whenPrivileged_of hpriv _).trans ?_
  rw [partOperand_of hb]
  rfl

theorem exec_tlbiPart {s : State} {a : BitVec 5} (hpriv : s.privileged = true) (ha : (s.x a).toNat < 64) :
    exec (.tlbiPart a) s = invalidate (dropPartition (s.x a).toNat) s := by
  refine (whenPrivileged_of hpriv _).trans ?_
  rw [partOperand_of ha]
  rfl

theorem exec_probe {s : State} {b : BitVec 5} (d a : BitVec 5) (hpriv : s.privileged = true) (hb : (s.x b).toNat < 64) :
    exec (.probe d a b) s = complete 4 1 (s.setX d (probeValue (walkFresh s (s.x b).toNat (s.x a)))) := by
  refine (whenPrivileged_of hpriv _).trans ?_
  rw [partOperand_of hb]
  rfl

/-! ### Grants (R332, R333, R336) -/

theorem requesterOperand_of {s : State} {w : Word} (h : w.toNat < 2 ^ 24) (hpart : w.toNat / 2 ^ 18 = s.part) :
    requesterOperand s w = .ok (w.toNat % 4096, w.toNat / 4096 % 64, s.part) := by
  have high : bits w 63 24 = 0 := by
    simp only [bits]
    omega
  have target : bits w 23 18 = s.part := by
    simp only [bits]
    omega
  have peer : bits w 11 0 = w.toNat % 4096 := by simp [bits]
  rw [requesterOperand, high, target, peer, if_neg (by simp)]
  rfl

theorem requesterOperand_refused {s : State} {w : Word} (h : ¬(w.toNat < 2 ^ 24 ∧ w.toNat / 2 ^ 18 = s.part)) :
    requesterOperand s w = .error (exc .bounds 0 w) := by
  have bad : bits w 63 24 ≠ 0 ∨ bits w 23 18 ≠ s.part := by
    have := w.isLt
    simp only [bits]
    omega
  rw [requesterOperand, if_pos bad]

theorem tokenChecks_eq (s : State) (t : Word) (peer part tpart : Nat) : BitVec.ofNat 64 (tokenChecks s t peer part tpart)
    = if grantMacOf t ≠ macHere s t peer part tpart then 2 else if grantCurrent s t then 0 else 3 := by
  unfold tokenChecks
  split
  · rfl
  · cases grantCurrent s t <;> rfl

theorem exec_gcheck {s : State} {b : BitVec 5} (d a : BitVec 5) (hb : (s.x b).toNat < 2 ^ 24) (hpart : (s.x b).toNat / 2 ^ 18 = s.part) :
    exec (.gcheck d a b) s = complete 4 1 (s.setX d (BitVec.ofNat 64
      (tokenChecks s (s.x a) ((s.x b).toNat % 4096) ((s.x b).toNat / 4096 % 64) s.part))) := by
  show execGcheck d a b s = _
  rw [execGcheck, requesterOperand_of hb hpart]
  rfl

theorem exec_gissue {s : State} {b : BitVec 5} (d a : BitVec 5) (hpriv : s.privileged = true) (hb : (s.x b).toNat < 2 ^ 24)
    (hpart : (s.x b).toNat / 2 ^ 18 = s.part) : exec (.gissue d a b) s =
      if issuable (s.x a) then complete 4 1 (s.setX d (setBits (s.x a) 63 40
        (macHere s (s.x a) ((s.x b).toNat % 4096) ((s.x b).toNat / 4096 % 64) s.part)))
      else raise s (exc .bounds 0 (s.x a)) := by
  refine (whenPrivileged_of hpriv _).trans ?_
  rw [requesterOperand_of hb hpart]
  rfl

theorem exec_grevoke {s : State} {a : BitVec 5} (d : BitVec 5) (hpriv : s.privileged = true) (ha : (s.x a).toNat < 4) :
    exec (.grevoke d a) s = .next ((rotateSlot s.part s (s.x a).toNat).setX d 0).finished := by
  have high : ¬bits (s.x a) 63 2 ≠ 0 := by
    simp only [bits]
    omega
  have low : bits (s.x a) 1 0 = (s.x a).toNat := by
    simp only [bits]
    omega
  refine (whenPrivileged_of hpriv _).trans ?_
  rw [if_neg high, low]
  rfl

/-- What a rotation leaves at a slot's number. -/
theorem rotateSlot_find (s : State) (part slot n : Nat) : (rotateSlot part s slot).keys.find? (fun k => k.1 = n)
    = if n = 4 * part + slot then some (n, s.keyNext) else s.keys.find? (fun k => k.1 = n) := by
  rw [rotateSlot, List.find?_append, List.find?_filter]
  split
  · subst n
    have gone : s.keys.find? (fun k => decide ((decide (k.1 ≠ 4 * part + slot)) = true ∧ (decide (k.1 = 4 * part + slot)) = true)) = none := by
      simp [List.find?_eq_none]
    rw [gone]
    simp
  · rename_i h
    have same : (fun k : Nat × Nat => decide ((decide (k.1 ≠ 4 * part + slot)) = true ∧ (decide (k.1 = n)) = true))
        = fun k => decide (k.1 = n) := by
      funext k
      by_cases hk : k.1 = n <;> simp [hk, h]
    rw [same]
    simp [Ne.symm h]

theorem slotKey_rotated (s : State) (part slot : Nat) : slotKey (rotateSlot part s slot) part slot = Config.grantKey s.keyNext := by
  rw [slotKey, rotateSlot_find, if_pos rfl]

/-- A rotation leaves the keys of every other slot. -/
theorem slotKey_apart (s : State) {part slot p k : Nat} (h : 4 * p + k ≠ 4 * part + slot) :
    slotKey (rotateSlot part s slot) p k = slotKey s p k := by
  rw [slotKey, rotateSlot_find, if_neg h, slotKey]

/-- Settles O51: each form by the operand that it accepts, and what it removes, reads or makes. -/
theorem invalidationsAndGrants : Obligations.InvalidationsAndGrants := by
  refine ⟨fun s d a b hpriv => ⟨fun hopen => ⟨fun hb => ?_, fun ha => ?_, ?_⟩, fun hb => ?_, fun hb => ?_⟩, fun s d a b => ?_⟩
  · obtain ⟨pc, context⟩ := invalidated_registers (s := s) (u := dropVa (s.x b).toNat (s.x a).toNat (settled s)) rfl
    obtain ⟨entries, walks⟩ := mem_dropVa (part := (s.x b).toNat) (va := (s.x a).toNat) (s := settled s)
    exact ⟨_, (exec_tlbiVa a hpriv hb).trans (invalidate_done hopen _), pc, context, by simpa [State.finished] using entries,
      by simpa [State.finished] using walks⟩
  · obtain ⟨pc, context⟩ := invalidated_registers (s := s) (u := dropPartition (s.x a).toNat (settled s)) rfl
    obtain ⟨entries, walks⟩ := mem_dropPartition (part := (s.x a).toNat) (s := settled s)
    exact ⟨_, (exec_tlbiPart hpriv ha).trans (invalidate_done hopen _), pc, context, by simpa [State.finished] using entries,
      by simpa [State.finished] using walks⟩
  · obtain ⟨pc, context⟩ := invalidated_registers (s := s) (u := { settled s with tlb := [], walkCache := [] }) rfl
    exact ⟨_, (whenPrivileged_of hpriv _).trans (invalidate_done hopen _), pc, context, by simp [State.finished], by simp [State.finished]⟩
  · refine (whenPrivileged_of hpriv _).trans ?_
    rw [partOperand_wide hb]
    rfl
  · refine ⟨fun l hl => ⟨_, exec_probe d a hpriv hb, ?_⟩, fun f hf => ⟨_, exec_probe d a hpriv hb, ?_⟩⟩
    · rw [hl]
      exact complete_scalar 4 1 d _ s
    · rw [hf]
      exact complete_scalar 4 1 d _ s
  · refine ⟨fun hb hpart => ⟨⟨_, exec_gcheck d a hb hpart, ?_⟩, fun hpriv hok => ⟨_, ?_, complete_scalar 4 1 d _ s⟩, fun hpriv hbad => ?_⟩,
      fun hbad => ?_, fun hpriv ha => ?_⟩
    · rw [tokenChecks_eq]
      exact complete_scalar 4 1 d _ s
    · rw [exec_gissue d a hpriv hb hpart, if_pos hok]
      rfl
    · rw [exec_gissue d a hpriv hb hpart, if_neg (by simp [hbad])]
      rfl
    · show execGcheck d a b s = _
      rw [execGcheck, requesterOperand_refused hbad]
      rfl
    · obtain ⟨done, context, bytes, result⟩ := complete_tokenDone (s := s) (d := d) (token := 0)
        (u := (rotateSlot s.part s (s.x a).toNat).setX d 0) rfl rfl ⟨rfl, rfl, rfl, rfl⟩
      have keys : ((rotateSlot s.part s (s.x a).toNat).setX d 0).finished.keys = (rotateSlot s.part s (s.x a).toNat).keys := by
        simp [State.finished]
      have keyOf (p k : Nat) : slotKey ((rotateSlot s.part s (s.x a).toNat).setX d 0).finished p k
          = slotKey (rotateSlot s.part s (s.x a).toNat) p k := by rw [slotKey, keys, slotKey]
      refine ⟨_, exec_grevoke d hpriv ha, done, context, bytes, result, (keyOf _ _).trans (slotKey_rotated s _ _), fun part slot hslot h => ?_⟩
      exact (keyOf _ _).trans (slotKey_apart s (by omega))

end Sys2Proof.Machine
end


section
/-! The claim about wells (O42): binding, unbinding, reading the position, skipping (R269-R272). -/

namespace Sys2Proof.Machine

theorem Ctx.well_setWell {k : Nat} (h : k < 8) (c : Ctx) (w : Option Well) : (c.setWell k w).well k = w := by
  simp [Ctx.well, Ctx.setWell, h]

/-- The descriptor that 64 bytes hold, bound and not yet filled. -/
def wellOf (bs : List Byte) : Well := ⟨Vector.ofFn (fun i => (bytesToWords 8 bs)[i.val]?.getD 0), []⟩

/-- A well instruction that leaves the register set `c` completes. -/
theorem completeQueued_done {s : State} {c : Ctx} (hpc : c.pc = s.ctx.pc) : ∃ t, completeQueued 1 { s with ctx := c } = .next t ∧
    Completed 4 s t ∧ SameBytes s t ∧ t.ctx = { c with pc := t.ctx.pc, vstart := 0 } := by
  refine ⟨_, rfl, ⟨by simp [hpc], by simp⟩, ?_, by simp⟩
  constructor <;> simp

theorem onWell_bound {s : State} {n : BitVec 3} {w : Well} (hservice : s.inService = false) (h : s.ctx.well n.toNat = some w)
    (word : Nat) (k : Well → Out) : onWell n word s k = k w := by
  rw [onWell, outsideService_open hservice, h]

/-! ### Binding (R269, R270) -/

theorem exec_wbind_struck {s : State} {a : BitVec 5} {n : BitVec 3} {x : Strike} (hservice : s.inService = false)
    (h : s.strike .address = some x) : exec (.wbind a n) s = .next (takeCause (s.met x) (exc .shadowMismatch 1 0)) := by
  refine (outsideService_open hservice _ _).trans ?_
  unfold addressOk
  rw [h]
  rfl

theorem exec_wbind {s s1 : State} {a : BitVec 5} {n : BitVec 3} {bs : List Byte} (hservice : s.inService = false)
    (hstrike : s.strike .address = none) (halign : (s.x a).toNat % 64 = 0)
    (hread : readAs s .vector s.part s.privileged (s.x a) 64 Need.read true = .ok (bs, s1)) (hok : (wellOf bs).descriptorOk = true)
    (hfits : s.ctx.wellFits n.toNat (wellOf bs) = true) : exec (.wbind a n) s =
      completeQueued 1 { s1.publish with ctx := s1.publish.ctx.setWell n.toNat (some (wellOf bs)) } := by
  refine ((outsideService_open hservice _ _).trans (addressOk_unstruck hstrike _)).trans ?_
  rw [if_neg (by simp [misalignedAt, halign]), hread]
  exact if_pos (by simp only [← wellOf.eq_1, hok, hfits, Bool.and_self])

/-! ### Skipping (R272) -/

/-- The pc and the scalar registers are as before. -/
structure KeepsScalars (c e : Ctx) : Prop where
  pc : e.pc = c.pc
  s : e.s = c.s

theorem KeepsScalars.trans {c e f : Ctx} (h : KeepsScalars c e) (g : KeepsScalars e f) : KeepsScalars c f :=
  ⟨g.pc.trans h.pc, g.s.trans h.s⟩

theorem clearCmp_keepsScalars (c : Ctx) (w : Well) (rs : List Nat) : KeepsScalars c (clearCmp c w rs) := by
  unfold clearCmp
  split
  · exact ⟨rfl, rfl⟩
  · exact ⟨Ctx.setP_pc .., Ctx.setP_s ..⟩

theorem setGroupBits_keepsScalars (c : Ctx) (v n x : Nat) : KeepsScalars c (setGroupBits c v n x) := by
  induction n generalizing c v x with
  | zero => exact ⟨rfl, rfl⟩
  | succ n ih => exact KeepsScalars.trans (e := c.setV v (BitVec.ofNat 4096 x)) ⟨rfl, rfl⟩ (ih _ _ _)

theorem setWell_keepsScalars (c : Ctx) (k : Nat) (w : Option Well) : KeepsScalars c (c.setWell k w) := ⟨rfl, rfl⟩

theorem advanceWell_keepsScalars (read : Bool) (c : Ctx) (k : Nat) : KeepsScalars c (advanceWell read c k) := by
  unfold advanceWell
  split
  · exact ⟨rfl, rfl⟩
  · rename_i w _
    have cleared := clearCmp_keepsScalars c w w.current
    dsimp only
    split
    · split
      · exact (cleared.trans (setGroupBits_keepsScalars _ _ _ _)).trans (setWell_keepsScalars _ _ _)
      · exact cleared.trans (setWell_keepsScalars _ _ _)
    · split <;> exact cleared.trans (setWell_keepsScalars _ _ _)

theorem skipStrips_keepsScalars (c : Ctx) (k m : Nat) : KeepsScalars c (skipStrips c k m) := by
  unfold skipStrips
  split
  · exact ⟨rfl, rfl⟩
  · split
    · exact ⟨rfl, rfl⟩
    · split
      · exact List.foldlRecOn (motive := KeepsScalars c) _ _ ⟨rfl, rfl⟩ fun e h _ _ => h.trans (advanceWell_keepsScalars false e k)
      · exact (clearCmp_keepsScalars _ _ _).trans (setWell_keepsScalars _ _ _)

theorem skipStrips_zero (c : Ctx) (k : Nat) : skipStrips c k 0 = c := by
  unfold skipStrips
  split
  · rfl
  · exact if_pos rfl

theorem word_setWord_same {k : Nat} (h : k < 8) (w : Well) (v : Word) : (w.setWord k v).word k = v := by
  simp [Well.word, Well.setWord, h]

theorem word_setWord_ne {j k : Nat} (h : j ≠ k) (w : Well) (v : Word) : (w.setWord k v).word j = w.word j := by
  simp [Well.word, Well.setWord, Vector.getElem?_setIfInBounds, h.symm]

/-- Past the buffers of a ring only the position moves on. -/
theorem skipStrips_far {c : Ctx} {k m : Nat} {w : Well} (hk : k < 8) (hw : c.well k = some w) (hm : w.nbuf ≤ m) (h1 : 1 < m) :
    ∃ v, (skipStrips c k m).well k = some v ∧ v.word 6 = w.word 6 + BitVec.ofNat 64 (m * w.stripLength) := by
  unfold skipStrips
  rw [hw]
  dsimp only
  rw [if_neg (by omega), if_neg (by omega)]
  refine ⟨_, Ctx.well_setWell hk _ _, ?_⟩
  rw [word_setWord_ne (by decide), word_setWord_same (by decide)]

/-- Settles O42: each form completes with the register set that it says, and wbind binds the descriptor that it reads. -/
theorem wellForms : Obligations.WellForms := by
  intro s d a n hservice
  refine ⟨fun x hx => exec_wbind_struck hservice hx, fun bs s1 hstrike halign hread => ?_, fun w hw => ⟨?_, ?_, ?_⟩, fun hw => ?_⟩
  · intro w hok hfits
    have kept := (readAs_keepsOwn hread).trans (publish_keeps s1).own
    obtain ⟨t, run, done, bytes, context⟩ := completeQueued_done (s := s1.publish)
      (c := s1.publish.ctx.setWell n.toNat (some (wellOf bs))) rfl
    refine ⟨t, (exec_wbind hservice hstrike halign hread hok hfits).trans run, done, bytes, ?_, by rw [context], ?_⟩
    · rw [context]
      exact Ctx.well_setWell n.isLt _ _
    · rw [context]
      show s1.publish.ctx.s = s.ctx.s
      rw [kept.ctx]
  · obtain ⟨t, run, done, bytes, context⟩ := completeQueued_done (s := s) (c := s.ctx.setWell n.toNat none) rfl
    refine ⟨t, (onWell_bound hservice hw _ _).trans run, done, bytes, ?_, ?_⟩
    · rw [context]
      exact Ctx.well_setWell n.isLt _ _
    · rw [context]
      rfl
  · obtain ⟨done, result, context, -, bytes⟩ := complete_scalar 4 1 d (w.word 6) { s with ctx := { s.ctx with vstart := 0 } }
    refine ⟨_, (onWell_bound hservice hw _ _).trans ?_, ⟨done.pc, done.counted⟩, ⟨bytes.mem, bytes.ctl, bytes.pad, bytes.persisted⟩,
      result, context⟩
    show completeQueued 1 (s.setX d (w.word 6)) = _
    unfold completeQueued State.setX Ctx.setS
    split <;> rfl
  · have kept := skipStrips_keepsScalars s.ctx n.toNat (s.x a).toNat
    obtain ⟨t, run, done, bytes, context⟩ := completeQueued_done (s := s) (c := skipStrips s.ctx n.toNat (s.x a).toNat) kept.pc
    refine ⟨t, (onWell_bound hservice hw _ _).trans run, done, bytes, by rw [context], ?_, fun hzero => ?_, fun hm h1 => ?_⟩
    · rw [context]
      exact kept.s
    · rw [context]
      show (skipStrips s.ctx n.toNat (s.x a).toNat).wells = s.ctx.wells
      rw [show (s.x a).toNat = 0 by rw [hzero]; rfl, skipStrips_zero]
    · rw [context]
      exact skipStrips_far n.isLt hw hm h1
  · show onWell n (encWpos d n) s _ = _
    rw [onWell, outsideService_open hservice, hw]
    rfl

end Sys2Proof.Machine
end


section
/-! SUPPORT. What reads, records and writes at homes leave of the cores' accounts (R385), and of their counts of instructions. -/

namespace Sys2Proof.Machine

/-! ### Queues and records (R290, R395) -/

theorem setSegCounts_accounts (s : State) (part q seg head tail : Nat) : s.KeepsAccounts (setSegCounts s part q seg head tail) := by
  unfold setSegCounts
  split
  · exact (touch_accounts s _ _ _ _).trans (homeWrite_accounts _ _ _)
  · exact .refl s

theorem writePieces_accounts (piece : Nat) (s : State) (l : List Nat) (bs : List Byte) : s.KeepsAccounts (writePieces piece s l bs) := by
  induction l generalizing s bs with
  | nil => exact .refl s
  | cons pa l ih => exact (homeWrite_accounts s pa _).trans (ih _ _)

theorem wakeDequeuer_accounts (s : State) (qpa : Nat) : s.KeepsAccounts (wakeDequeuer s qpa) := by
  unfold wakeDequeuer
  split
  · exact .refl s
  · exact (writeQcb_accounts _ _ _).after (.of_same rfl rfl rfl)

theorem setFull_accounts (s : State) (l : List Nat) : s.KeepsAccounts { s with full := l } := .of_same rfl rfl rfl

theorem enqueueAt_accounts (s : State) (part qpa : Nat) (slot : List Nat) (seg : Option Nat) (elem : List Byte) :
    s.KeepsAccounts (enqueueAt s part qpa slot seg elem) := by
  unfold enqueueAt
  refine (wakeDequeuer_accounts _ qpa).after ((setFull_accounts _ _).after ((writePieces_accounts _ _ slot elem).after ?_))
  split
  · exact (setSegCounts_accounts _ _ _ _ _ _).after (writeQcb_accounts s qpa _)
  · exact writeQcb_accounts s qpa _

theorem offerRecord_accounts {s t : State} {part core : Nat} {qva : Word} {elem : List Byte}
    (h : offerRecord s part core qva elem = .taken t) : s.KeepsAccounts t := by
  unfold offerRecord at h
  dsimp only at h
  repeat' split at h
  all_goals cases h
  exact ((enqueueAt_accounts s _ _ _ _ _).trans (touch_accounts _ _ _ _ _)).trans (touch_accounts _ _ _ _ _)

theorem logRecord_accounts (s : State) (r : List Word) : s.KeepsAccounts (logRecord s r) := .of_same rfl rfl rfl

theorem reportError_accounts (s : State) (part core : Nat) (rec : List Word) : s.KeepsAccounts (reportError s part core rec) := by
  unfold reportError
  refine (logRecord_accounts s rec).trans ?_
  dsimp only
  split
  · exact offerRecord_accounts ‹_›
  · exact (touch_accounts _ _ _ _ _).trans (writeQcb_accounts _ _ _)
  · exact logRecord_accounts _ _
  · exact .refl _

theorem report_accounts (s : State) (e : ErrInfo) : s.KeepsAccounts (report s e) := reportError_accounts s e.part e.core _

theorem reportCorrupt_accounts (s : State) (part core source sub : Nat) (qva : Word) :
    s.KeepsAccounts (reportCorrupt s part core source sub qva) := report_accounts s _

theorem produceRecord_accounts (s : State) (part mode core : Nat) (rec : List Word) :
    s.KeepsAccounts (produceRecord s part mode core rec) := by
  unfold produceRecord
  split
  · exact offerRecord_accounts ‹_›
  · exact .of_same rfl rfl rfl
  · exact (logRecord_accounts s rec).trans (reportCorrupt_accounts _ _ _ _ _ _)
  · exact logRecord_accounts s rec

theorem setMigration_accounts (s : State) (l : List MigrationCounter) : s.KeepsAccounts { s with migration := l } := .of_same rfl rfl rfl

theorem countMigration_accounts (s : State) (part : Nat) (va : Word) (peer : Nat) (pte : Word) :
    s.KeepsAccounts (countMigration s part va peer pte) := by
  unfold countMigration
  split
  · exact .refl s
  · dsimp only
    split
    · exact (produceRecord_accounts _ _ _ _ _).after (setMigration_accounts s _)
    · exact setMigration_accounts s _

/-! ### Reductions (R249) -/

theorem combineOne_accounts (s : State) (c : Collected) : s.KeepsAccounts (combineOne s c) := by
  unfold combineOne
  dsimp only
  split
  · exact blame_accounts s _ _ _ _
  · split
    · exact .refl s
    · split
      · exact onCore_accounts s _ fun u => (endResvBy_accounts u _ _ _ _ _).trans (homeWrite_accounts _ _ _)
      · exact .refl s

theorem combineAll_accounts (k : Nat) (s : State) (l : List Collected) : s.KeepsAccounts (combineAll k s l) := by
  induction k generalizing s l with
  | zero => exact .refl s
  | succ k ih =>
    cases l with
    | nil => exact .refl s
    | cons r l => exact (ih _ _).after ((combineOne_accounts _ _).after (.of_same rfl rfl rfl))

theorem combineWhere_accounts (p : Collected → Bool) (s : State) : s.KeepsAccounts (combineWhere p s) := by
  unfold combineWhere
  split
  · exact .refl s
  · refine (combineAll_accounts _ _ _).after (.of_others rfl rfl _ (fun _ => ?_) rfl)
    exact ⟨rfl, rfl⟩

/-! ### Caches (R220, R222, R223) -/

theorem fillL1_accounts (s : State) (key : Nat) : s.KeepsAccounts (fillL1 s key) := by
  unfold fillL1
  dsimp only
  split
  · exact .of_same rfl rfl rfl
  · split
    · exact .of_same rfl rfl rfl
    · exact (combineWhere_accounts _ _).after (.of_same rfl rfl rfl)

/-- A unit's counter but that of instructions is no part of the account. -/
theorem count_accounts (s : State) (k : Fin 8) (n : Nat) (hk : k.val ≠ 0) : s.KeepsAccounts (s.count k n) := by
  have kept : (s.count k n).core.pmc[0] = s.core.pmc[0] := by
    rw [State.count_core, Vector.getElem_set_ne _ _ hk]
  exact .of_same rfl (congrArg (·, s.core.sbuf) kept) rfl

theorem lookL1_accounts (s : State) (who : Loader) (hold : Bool) (key : Nat) : s.KeepsAccounts (lookL1 s who hold key) := by
  have counted := count_accounts s 6 1 (by decide)
  unfold lookL1
  split
  · exact .refl s
  · dsimp only
    split
    · exact counted.trans (fillL1_accounts _ key)
    · exact counted

theorem dropRdc_accounts (s : State) (l : RdcLine) : s.KeepsAccounts (dropRdc s l) := by
  unfold dropRdc dropFromL1s
  dsimp only
  refine .of_others rfl ?_ _ (fun p => ?_) rfl
  · split <;> rfl
  · split <;> exact ⟨rfl, rfl⟩

theorem setRdc_accounts (s : State) (l : List RdcLine) : s.KeepsAccounts { s with rdc := l } := .of_same rfl rfl rfl

theorem fillRdc_accounts (s : State) (l : RdcLine) : s.KeepsAccounts (fillRdc s l) := by
  unfold fillRdc
  dsimp only
  refine (setRdc_accounts _ _).after ?_
  split
  · exact .refl s
  · split
    · exact dropRdc_accounts s _
    · exact .refl s

theorem loadLine_accounts (s : State) (who : Loader) (leaf : Leaf) (pa : Nat) : s.KeepsAccounts (loadLine s who leaf pa) := by
  unfold loadLine
  split
  · exact .refl s
  · refine State.KeepsAccounts.trans ?_ (lookL1_accounts _ _ _ _)
    split
    · unfold fetchRdc
      dsimp only
      split
      · exact fillRdc_accounts s _
      · exact .refl s
    · exact .refl s

theorem fresh_accounts (s : State) : s.KeepsAccounts s.fresh := .of_same rfl rfl rfl

theorem cachedLine_accounts {s t : State} {who : Loader} {part peer addr : Nat} {va : Word} {bs : List Byte}
    (h : cachedLine s who part peer addr va = .ok (bs, t)) : s.KeepsAccounts t := by
  unfold cachedLine at h
  dsimp only at h
  split at h
  · cases h
    exact lookL1_accounts s _ _ _
  · split at h
    · cases h
    · cases h
      exact (lookL1_accounts _ _ _ _).after ((fillRdc_accounts _ _).after (fresh_accounts s))

/-! ### Reads (R235, R385) -/

theorem publishWhere_counted (s : State) (sel : Buffered → Bool) : (s.publishWhere sel).core.pmc[0] = s.core.pmc[0] := by
  unfold State.publishWhere
  exact ((sendAll_accounts _ _).trans (acceptAll_accounts _ _)).counted

/-- The stores that a read orders leave the buffer, and are counted already. -/
theorem passOther_counted (s : State) (vec : Bool) (pa n : Nat) : (s.passOther vec pa n).core.pmc[0] = s.core.pmc[0] := by
  unfold State.passOther
  dsimp only
  split
  · exact publishWhere_counted s _
  · rfl

theorem fetchLine_accounts {s t : State} {fetch : Bool} (h : s.KeepsAccounts t) : s.KeepsAccounts (if fetch then t else s) := by
  cases fetch
  · exact .refl s
  · exact h

theorem noteRead_counted (s : State) (who : Loader) (pa n : Nat) : (s.noteRead who pa n).core.pmc[0] = s.core.pmc[0] := by
  rw [noteRead_rest]

/-- A read counts no instruction. -/
theorem readAs_counted {s t : State} {who : Loader} {part : Nat} {priv : Bool} {va : Word} {n : Nat} {need : Need} {newLine : Bool}
    {bs : List Byte} (h : readAs s who part priv va n need newLine = .ok (bs, t)) : t.core.pmc[0] = s.core.pmc[0] := by
  unfold readAs at h
  split at h
  · cases h
  · rename_i pa u _
    have ordered : (combineRead (if who = .engine then s else s.passOther (who = .vector) pa n) (who = .vector) pa n).core.pmc[0]
        = s.core.pmc[0] := by
      refine (combineWhere_accounts _ _).counted.trans ?_
      split
      · rfl
      · exact passOther_counted s _ _ _
    dsimp only at h
    generalize combineRead (if who = .engine then s else s.passOther (who = .vector) pa n) (who = .vector) pa n = r at h ordered
    split at h
    · cases h
    · split at h
      · cases h
      · cases h
        exact (noteRead_counted _ who pa n).trans (((fetchLine_accounts (loadLine_accounts r who u.leaf pa)).trans
          (markUsed_accounts _ u false)).counted.trans ordered)
  · rename_i peer addr u _
    split at h
    · cases h
    · split at h
      · split at h
        · cases h
        · rename_i line hline
          cases h
          exact ((cachedLine_accounts hline).trans (markUsed_accounts _ u false)).counted
      · dsimp only at h
        have migrated := fetchLine_accounts (fetch := newLine) (countMigration_accounts s part va peer u.leaf.pte)
        generalize (if newLine then countMigration s part va peer u.leaf.pte else s) = r at h migrated
        split at h
        · cases h
        · cases h
          exact ((fresh_accounts _).after ((markUsed_accounts _ u false).after
            (migrated.trans (fetchLine_accounts (lookL1_accounts r who false 0))))).counted

end Sys2Proof.Machine
end


section
/-! SUPPORT. What reads and writes of the objects of KV tables leave of the executing task (R348-R350); and the claim about pools (O52). -/

namespace Sys2Proof.Machine

/-! ### What an instruction of KV tables leaves of its task -/

/-- The executing core is the same, and every core keeps its register set and its account. -/
structure State.Tends (s t : State) : Prop where
  keeps : s.Keeps t
  accounts : s.KeepsAccounts t

namespace State.Tends
variable {s t u : State}

theorem refl (s : State) : s.Tends s := ⟨.refl s, .refl s⟩

theorem trans (h : s.Tends t) (g : t.Tends u) : s.Tends u := ⟨h.keeps.trans g.keeps, h.accounts.trans g.accounts⟩

theorem foldl {α : Type} {f : State → α → State} (hf : ∀ (s : State) (a : α), s.Tends (f s a)) (s : State) (l : List α) :
    s.Tends (l.foldl f s) :=
  List.foldlRecOn l f (refl s) fun t h a _ => h.trans (hf t a)

end State.Tends

/-- The executing task has its registers, but for its release and the clock that it has read, and its count of instructions. -/
structure SameTask (s t : State) : Prop where
  ctx : t.ctx = { s.ctx with release := t.ctx.release, seen := t.ctx.seen }
  counted : t.core.pmc[0] = s.core.pmc[0]

theorem SameTask.trans {s t u : State} (h : SameTask s t) (g : SameTask t u) : SameTask s u :=
  ⟨g.ctx.trans (by rw [h.ctx]), g.counted.trans h.counted⟩

theorem State.Tends.sameTask {s t : State} (h : s.Tends t) : SameTask s t := ⟨by rw [h.keeps.ctx], h.accounts.counted⟩

theorem publish_sameTask (s : State) : SameTask s s.publish := ⟨by rw [(publish_keeps s).ctx], publish_counted s⟩

theorem readVa_sameTask {s t : State} {va : Word} {n : Nat} {need : Need} {bs : List Byte} (h : readVa s va n need = .ok (bs, t)) :
    SameTask s t := ⟨by rw [(readAs_keepsOwn h).ctx], readAs_counted h⟩

/-- An instruction that completes with `v` in register d where its task is as before. -/
theorem answers_of {s u : State} {i : Instr} {d : BitVec 5} {v : Word} (h : SameTask s u)
    (run : exec i s = complete 4 1 (u.setX d v)) : Answers s i d v u := by
  obtain ⟨done, result, context, -, bytes⟩ := complete_scalar 4 1 d v u
  refine ⟨_, run, ⟨by rw [done.pc, h.ctx], by rw [done.counted, h.counted]⟩, ?_, fun r => ?_, bytes, by simp⟩
  · unfold SameButScalars at context
    rw [context, h.ctx]
  · rw [result r, State.x, h.ctx]
    rfl

/-! ### Objects (R320, R348) -/

theorem touch_tends (s : State) (part va : Nat) (need : Need) (write : Bool) : s.Tends (s.touch part va need write) :=
  ⟨touch_keeps .., touch_accounts ..⟩

theorem homeWrite_tends (s : State) (pa : Nat) (bs : List Byte) : s.Tends (homeWrite s pa bs) :=
  ⟨homeWrite_keeps .., homeWrite_accounts ..⟩

theorem reads_tends (s : State) (p : Party) (va : Word) (n : Nat) : s.Tends (s.reads p va n) :=
  .foldl (f := fun s k => s.touch p.part (if k = 0 then va.toNat else (va.toNat / 128 + k) * 128) Need.change false)
    (fun s k => touch_tends s _ _ _ _) _ _

theorem touch_core (s : State) (part va : Nat) (need : Need) (write : Bool) : (s.touch part va need write).core = s.core := by
  unfold State.touch
  split
  · exact markUsed_core s _ write
  · rfl

/-- The marks of a read leave the core that executes. -/
theorem reads_core (s : State) (p : Party) (va : Word) (n : Nat) : (s.reads p va n).core = s.core :=
  List.foldlRecOn (motive := fun t : State => t.core = s.core) _ _ rfl fun t h k _ => (touch_core t _ _ _ _).trans h

theorem party_congr {s t : State} (h : t.core = s.core) : t.party = s.party := by
  have mode : t.partMode = s.partMode := by rw [State.partMode, State.partMode, h]
  simp only [State.party, State.part, State.privileged, mode]

@[simp] theorem reads_party (s : State) (p : Party) (va : Word) (n : Nat) : (s.reads p va n).party = s.party :=
  party_congr (reads_core s p va n)

theorem writeObject_tends (s : State) (p : Party) (va : Word) (n v : Nat) : s.Tends (writeObject s p va n v) := by
  unfold writeObject
  split
  · exact (touch_tends s _ _ _ _).trans (homeWrite_tends _ _ _)
  · exact .refl s

theorem setObjects_tends (s : State) (l : List Nat) : s.Tends { s with objects := l } :=
  ⟨⟨rfl, fun _ => rfl, id⟩, .of_same rfl rfl rfl⟩

theorem setObject_tends (s : State) (p : Party) (va : Word) (on : Bool) : s.Tends (setObject s p va on) := by
  unfold setObject
  split
  · exact setObjects_tends s _
  · exact .refl s

theorem putFree_tends (s : State) (q : Party) (p : Pool) (head cnt : Nat) : s.Tends (putFree s q p head cnt).1 :=
  writeObject_tends s q _ _ _

theorem allocDesc_tends {s t : State} {q : Party} {p p2 : Pool} {value k : Nat} (h : allocDesc s q p value = .ok (t, p2, k)) : s.Tends t := by
  unfold allocDesc at h
  dsimp only at h
  split at h
  · cases h
  · split at h
    · cases h
    · split at h
      · cases h
      · cases h
        exact ((putFree_tends s q p _ _).trans (setObjects_tends _ _)).trans (writeObject_tends _ q _ _ _)

theorem releaseDesc_tends (s : State) (q : Party) (p : Pool) (e : Desc) : s.Tends (releaseDesc s q p e).1 := by
  unfold releaseDesc
  dsimp only
  split
  · exact ((writeObject_tends s q _ _ _).trans (setObject_tends _ q _ _)).trans (putFree_tends _ q _ _ _)
  · exact writeObject_tends s q _ _ _

theorem releaseDesc_count (s : State) (q : Party) (p : Pool) (e : Desc) : (releaseDesc s q p e).2.2 = e.refcnt - 1 := by
  unfold releaseDesc
  dsimp only
  split
  · exact Eq.symm ‹_›
  · rfl

/-! ### A pool that is made (R349) -/

theorem chainFree_tends (q : Party) (p : Pool) (n k i : Nat) (s : State) : s.Tends (chainFree q p n k i s) := by
  induction k generalizing i s with
  | zero => exact .refl s
  | succ k ih => exact ((writeObject_tends s q _ _ _).trans (setObject_tends _ q _ _)).trans (ih _ _)

theorem zeroGranules_tends (q : Party) (k va : Nat) (s : State) : s.Tends (zeroGranules q k va s) := by
  induction k generalizing va s with
  | zero => exact .refl s
  | succ k ih => exact ((writeObject_tends s q _ _ _).trans (setObject_tends _ q _ _)).trans (ih _ _)

theorem headerObjects_tends (s : State) (q : Party) (va : Word) : s.Tends (headerObjects s q va) :=
  .foldl (f := fun s k => setObject s q (va + BitVec.ofNat 64 k) true) (fun s k => setObject_tends s q _ true) _ _

theorem buildPool_tends (s : State) (q : Party) (va : Word) (old raw : Nat) : s.Tends (buildPool s q va old raw) :=
  (((chainFree_tends q _ _ _ _ s).trans (zeroGranules_tends q _ _ _)).trans (writeObject_tends _ q _ _ _)).trans
    (headerObjects_tends _ q va)

/-! ### The pool instructions -/

theorem publish_x (s : State) (r : BitVec 5) : s.publish.x r = s.x r := State.x_eq (publish_keeps s).ctx r

theorem not_misalignedAt {va : Word} {n : Nat} (h : va.toNat % n = 0) : ¬misalignedAt va n = true := by
  simp [misalignedAt, h]

section
variable {s s2 : State} {d a b : BitVec 5}

theorem exec_kvallocInit {pa : Nat} {bs : List Byte} (d : BitVec 5) (ha : (s.x a).toNat % 64 = 0) (hb : (s.x b).toNat % 64 = 0)
    (hobj : objectAt s.publish s.publish.party (s.x a) Need.change = .ok pa)
    (hread : readVa s.publish (s.x b) 64 Need.read = .ok (bs, s2)) : exec (.kvallocInit d a b) s =
      let q := s.publish.party
      let p : Pool := ⟨s.x a, leNat bs⟩
      if touchesObject s.publish pa 64 then complete 4 1 ((s2.reads q (s.x a) 64).setX d 2)
      else if !poolTemplateOk p then complete 4 1 ((s2.reads q (s.x a) 64).setX d 3)
      else if touchesPoison s.publish pa 64 then raise s.publish (consumed s.publish pa 64 (s.x a))
      else withRes s.publish (pagesTake s.publish q p.descBase (pageCount p.descBase (16 * p.ndesc))) fun _ =>
        withRes s.publish (pagesTake s.publish q p.svtBase (pageCount p.svtBase (2 ^ p.svtLog))) fun _ =>
          complete 4 1 ((buildPool s2 q (s.x a) (physLe s.publish pa 64) (leNat bs)).setX d 0) := by
  show execKvallocInit d a b s = _
  unfold execKvallocInit
  simp only [publish_x, if_neg (not_misalignedAt ha), if_neg (not_misalignedAt hb), hobj, hread, withRes]

theorem exec_kvalloc {p : Pool} (d : BitVec 5) (ha : (s.x a).toNat % 64 = 0) (hb : (s.x b).toNat % 4096 = 0)
    (hpool : getPool s.publish s.publish.party (s.x a) Need.change = .ok p) : exec (.kvalloc d a b) s =
      if p.freeCnt = 0 then complete 4 1 ((s.publish.reads s.publish.party (s.x a) 64).setX d (BitVec.allOnes 64))
      else withRes s.publish (allocDesc s.publish s.publish.party p (nativeDesc p (s.x b))) fun r =>
        complete 4 1 (r.1.setX d (BitVec.ofNat 64 r.2.2)) := by
  show execKvalloc d a b s = _
  unfold execKvalloc
  simp only [publish_x, if_neg (not_misalignedAt ha), if_neg (not_misalignedAt hb), hpool, withRes]

/-- The state in which kvref and kvunref have read the pool and the descriptor. -/
def descRead (s : State) (va at_ : Word) : State :=
  (s.publish.reads s.publish.party va 64).reads s.publish.party at_ 16

theorem descRead_tends (s : State) (va at_ : Word) : s.publish.Tends (descRead s va at_) :=
  (reads_tends _ _ va 64).trans (reads_tends _ _ at_ 16)

theorem withDesc_found {p : Pool} {e : Desc} (ha : (s.x a).toNat % 64 = 0)
    (hpool : getPool s.publish s.publish.party (s.x a) Need.change = .ok p)
    (hdesc : getDesc s.publish s.publish.party p (s.x b).toNat Need.change = .ok e) (k : State → Pool → Desc → Out) :
    withDesc a b s.publish k = k (descRead s (s.x a) e.va) p e := by
  unfold withDesc
  simp only [publish_x, if_neg (not_misalignedAt ha), hpool, hdesc, withRes]
  rfl

theorem descRead_party (s : State) (va at_ : Word) : (descRead s va at_).party = s.publish.party := by
  simp [descRead]

theorem exec_kvref {p : Pool} {e : Desc} (d : BitVec 5) (ha : (s.x a).toNat % 64 = 0)
    (hpool : getPool s.publish s.publish.party (s.x a) Need.change = .ok p)
    (hdesc : getDesc s.publish s.publish.party p (s.x b).toNat Need.change = .ok e) : exec (.kvref d a b) s =
      let u := descRead s (s.x a) e.va
      if e.refcnt = 65535 then complete 4 1 (u.setX d 0)
      else complete 4 1 ((writeObject u s.publish.party e.va 16 (putField e.raw 15 0 (e.refcnt + 1))).setX d
        (BitVec.ofNat 64 (e.refcnt + 1))) := by
  rw [← descRead_party s (s.x a) e.va]
  show execKvref d a b s = _
  unfold execKvref
  dsimp only
  rw [withDesc_found ha hpool hdesc]
  rfl

theorem exec_kvunref {p : Pool} {e : Desc} (d : BitVec 5) (ha : (s.x a).toNat % 64 = 0)
    (hpool : getPool s.publish s.publish.party (s.x a) Need.change = .ok p)
    (hdesc : getDesc s.publish s.publish.party p (s.x b).toNat Need.change = .ok e) : exec (.kvunref d a b) s =
      complete 4 1 ((releaseDesc (descRead s (s.x a) e.va) s.publish.party p e).1.setX d (BitVec.ofNat 64 (e.refcnt - 1))) := by
  rw [← descRead_party s (s.x a) e.va, ← releaseDesc_count (descRead s (s.x a) e.va) (descRead s (s.x a) e.va).party p e]
  show execKvunref d a b s = _
  unfold execKvunref
  dsimp only
  rw [withDesc_found ha hpool hdesc]

theorem physLe_finished (s : State) (pa n : Nat) : physLe s.finished pa n = physLe s pa n := by
  simp [physLe, physByte, clockByte, State.clockOf, State.finished]

/-- A count that is written reads back. -/
theorem writeObject_count {q : Party} {va : Word} {pa raw n : Nat} (hwf : s.memWf)
    (hobj : objectAt s q va Need.change = .ok pa) (hspace : spaceOf pa ≠ .control) (hpa : pa % 16 = 0) (hn : n < 2 ^ 16) :
    physLe (writeObject s q va 16 (putField raw 15 0 n)) pa 2 = n := by
  have written := homeWrite_granule (s := s.touch q.part va.toNat Need.change true) (bs := natBytes 16 (putField raw 15 0 n))
    ((touch_keeps ..).form hwf) hspace hpa (natBytes_length _ _)
  have target : writeObject s q va 16 (putField raw 15 0 n)
      = homeWrite (s.touch q.part va.toNat Need.change true) pa (natBytes 16 (putField raw 15 0 n)) := by
    simp only [writeObject, hobj]
  have field : putField raw 15 0 n % 2 ^ 16 = n := by
    have whole := fieldOf_putField_same (hi := 15) (lo := 0) (by decide) raw n
    rwa [fieldOf, Nat.pow_zero, Nat.div_one, Nat.mod_eq_of_lt hn] at whole
  have whole := written.value
  rw [leNat_natBytes] at whole
  rw [target]
  generalize homeWrite (s.touch q.part va.toNat Need.change true) pa (natBytes 16 (putField raw 15 0 n)) = t at whole
  have split : object16 t pa = physLe t pa 2 + 256 ^ 2 * physLe t (pa + 2) 14 := physLe_add t pa 2 14
  have low := physLe_lt t pa 2
  omega

/-! ### Source versions (R354) -/

theorem sourceVersion_found {p : Pool} {v : Nat} (d : BitVec 5) (new : Nat → Option Nat) (ha : (s.x a).toNat % 64 = 0)
    (hb : (s.x b).toNat < 2 ^ 32) (hpool : getPool s.publish s.publish.party (s.x a) Need.change = .ok p)
    (hsrc : sourceOk p ((s.x b).toNat % 2 ^ 24) = true)
    (hver : versionOf s.publish s.publish.party p ((s.x b).toNat % 2 ^ 24) Need.change = .ok v) :
    let at_ := BitVec.ofNat 64 (p.svtBase + (s.x b).toNat % 2 ^ 24)
    let u := (s.publish.reads s.publish.party (s.x a) 64).reads s.publish.party at_ 1
    sourceVersion d a b new s = match new v with
      | none => complete 4 1 (u.setX d (BitVec.ofNat 64 v))
      | some n => complete 4 1 ((writeObject u s.publish.party at_ 1 n).setX d (BitVec.ofNat 64 n)) := by
  have high : ¬bits (s.x b) 63 32 ≠ 0 := by
    simp only [bits]
    omega
  have low : bits (s.x b) 23 0 = (s.x b).toNat % 2 ^ 24 := by simp [bits]
  unfold sourceVersion
  simp only [publish_x, if_neg (not_misalignedAt ha), if_neg high, low, hpool, hsrc, hver, withRes, reads_party]
  rfl

end

/-- Settles O52: each form by its checks and what it reads, in the state that the publication of the party's stores leaves. -/
theorem poolForms : Obligations.PoolForms := by
  intro s d a b s1 q r1 hwf ha
  have published : SameTask s s1 := publish_sameTask s
  refine ⟨fun pa bs s2 hb hobj hread => ?_, fun p hpool => ⟨fun hb => ?_, fun e hdesc => ?_, fun hb hsrc v hver => ?_⟩, fun hb => ?_⟩
  · intro p
    have run := exec_kvallocInit d ha hb hobj hread
    have read : SameTask s s2 := published.trans (readVa_sameTask hread)
    refine ⟨fun hobject => ?_, fun hfree hbad => ?_, fun hfree hok hclean hdescs hvers => ?_⟩
    · exact answers_of (read.trans (reads_tends s2 q (s.x a) 64).sameTask) (run.trans (if_pos hobject))
    · exact answers_of (read.trans (reads_tends s2 q (s.x a) 64).sameTask)
        (run.trans ((if_neg (Bool.eq_false_iff.mp hfree)).trans (if_pos (by rw [hbad]; rfl))))
    · refine answers_of (read.trans (buildPool_tends s2 q (s.x a) (physLe s1 pa 64) (leNat bs)).sameTask)
        (run.trans ((if_neg (Bool.eq_false_iff.mp hfree)).trans ((if_neg (by rw [hok]; decide)).trans
          ((if_neg (Bool.eq_false_iff.mp hclean)).trans ?_))))
      rw [hdescs, hvers]
      rfl
  · have run := exec_kvalloc d ha hb hpool
    refine ⟨fun hnone => ?_, fun s2 p2 k hfree halloc => ?_⟩
    · exact answers_of (published.trans (reads_tends s1 q (s.x a) 64).sameTask) (run.trans (if_pos hnone))
    · refine answers_of (published.trans (allocDesc_tends halloc).sameTask) (run.trans ((if_neg hfree).trans ?_))
      rw [halloc]
      rfl
  · intro r2
    have read : SameTask s r2 := published.trans (descRead_tends s (s.x a) e.va).sameTask
    have context : r2.ctx = s.ctx := ((publish_keeps s).trans (descRead_tends s (s.x a) e.va).keeps).ctx
    refine ⟨fun hfull => ?_, fun hroom pa hobj hspace hpa => ?_, ?_⟩
    · exact answers_of read ((exec_kvref d ha hpool hdesc).trans (if_pos hfull))
    · have counted : e.refcnt + 1 < 2 ^ 16 := by
        have : e.refcnt < 2 ^ 16 := Nat.mod_lt _ (by decide)
        omega
      have wrote := writeObject_tends r2 q e.va 16 (putField e.raw 15 0 (e.refcnt + 1))
      obtain ⟨done, result, scalars, -, -⟩ := complete_scalar 4 1 d (BitVec.ofNat 64 (e.refcnt + 1))
        (writeObject r2 q e.va 16 (putField e.raw 15 0 (e.refcnt + 1)))
      have same := wrote.keeps.ctx.trans context
      refine ⟨_, (exec_kvref d ha hpool hdesc).trans (if_neg hroom), ⟨done.pc.trans (by rw [same]), done.counted.trans ?_⟩,
        .of_ctx same result, .of_ctx same scalars, ?_⟩
      · rw [(read.trans wrote.sameTask).counted]
      · exact (physLe_finished _ pa 2).trans (writeObject_count
          ((descRead_tends s (s.x a) e.va).keeps.form ((publish_keeps s).form hwf)) hobj hspace hpa counted)
    · exact answers_of (read.trans (releaseDesc_tends r2 q p e).sameTask) (exec_kvunref d ha hpool hdesc)
  · intro at_ set r2
    have read : SameTask s r2 := published.trans ((reads_tends s1 q (s.x a) 64).trans (reads_tends r1 q at_ 1)).sameTask
    have named : bits (s.x b) 31 24 = set := by
      simp only [bits, set]
      omega
    refine ⟨answers_of read ?_, answers_of (read.trans (writeObject_tends r2 q at_ 1 set).sameTask) ?_,
      answers_of (read.trans (writeObject_tends r2 q at_ 1 ((v + 1) % 256)).sameTask) ?_⟩
    · exact sourceVersion_found d (fun _ => none) ha hb hpool hsrc hver
    · rw [← named]
      exact sourceVersion_found d (fun _ => some (bits (s.x b) 31 24)) ha hb hpool hsrc hver
    · exact sourceVersion_found d (fun v => some ((v + 1) % 256)) ha hb hpool hsrc hver
  · have high : bits (s.x b) 63 32 ≠ 0 := by
      have := (s.x b).isLt
      simp only [bits]
      omega
    show sourceVersion d a b (fun _ => none) s = _
    unfold sourceVersion
    simp only [publish_x, if_neg (not_misalignedAt ha), if_pos high]
    rfl

end Sys2Proof.Machine
end


section
/-! The claim about block tables (O53): appending, splicing and requantising (R351-R353). -/

namespace Sys2Proof.Machine

/-! ### What writes of tables leave of the task -/

theorem putEntries_tends (q : Party) (t : Table) (j : Nat) (l : List Entry) (s : State) : s.Tends (putEntries q t j l s) := by
  induction l generalizing j s with
  | nil => exact .refl s
  | cons e l ih => exact (writeObject_tends s q _ _ _).trans (ih _ _)

theorem putCount_tends (s : State) (q : Party) (t : Table) (n : Nat) : s.Tends (putCount s q t n) := writeObject_tends s q _ _ _

theorem spliceEntries_tends {q : Party} {l : List PageWord} {s t : State} {p : Pool} {es : List Entry}
    (h : spliceEntries q l s p = .ok (t, es)) : s.Tends t := by
  induction l generalizing s p es with
  | nil => cases h; exact .refl _
  | cons w l ih =>
    unfold spliceEntries at h
    split at h
    · cases h
    · rename_i alloc
      split at h
      · cases h
      · rename_i rest
        cases h
        exact (allocDesc_tends alloc).trans (ih rest)

theorem addReference_tends {s t : State} {q : Party} {p : Pool} {i : Nat} (h : addReference s q p i = .ok t) : s.Tends t := by
  unfold addReference at h
  split at h
  · cases h
  · cases h
    exact writeObject_tends s q _ _ _

theorem splice_tends {s t : State} {q : Party} {tb : Table} {p : Pool} {es : List Entry} {ws : List PageWord} {j o : Nat}
    (h : splice s q tb p es ws j o = .ok t) : s.Tends t := by
  unfold splice at h
  dsimp only at h
  split at h
  · cases h
  · split at h
    · cases h
    · rename_i new
      split at h
      · cases h
      · rename_i s2 added
        cases h
        refine ((spliceEntries_tends new).trans ?_).trans ((putEntries_tends q tb j _ s2).trans (putCount_tends _ q tb _))
        split at added
        · exact addReference_tends added
        · cases added
          exact .refl _

theorem descsRead_tends (q : Party) (p : Pool) (l : List Nat) (s : State) : s.Tends (descsRead q p l s) :=
  .foldl (f := fun s i => s.reads q (descVa p i) 16) (fun s i => reads_tends s q _ 16) _ _

theorem swapEntry_tends {s : State} {q : Party} {p : Pool} {at_ : Word} {e : Entry} {page i : Nat} {x : State × Nat}
    (h : swapEntry s q p at_ e page i = .ok x) : s.Tends x.1 := by
  unfold swapEntry at h
  split at h
  · cases h
  · split at h
    · cases h
    · split at h
      · cases h
        exact (writeObject_tends s q _ _ _).trans (releaseDesc_tends _ q p _)
      · cases h
        exact releaseDesc_tends s q p _

/-! ### The table and its pool -/

section
variable {s : State} {a b : BitVec 5}

/-- The state in which an instruction on a block table has read the header and the pool. -/
def tableRead (s : State) (t : Table) : State :=
  (s.publish.reads s.publish.party t.va 16).reads s.publish.party t.pool 64

theorem tableRead_tends (s : State) (t : Table) : s.publish.Tends (tableRead s t) := (reads_tends _ _ _ _).trans (reads_tends _ _ _ _)

theorem tableRead_party (s : State) (t : Table) : (tableRead s t).party = s.publish.party := by simp [tableRead]

theorem tableRead_x (s : State) (t : Table) (r : BitVec 5) : (tableRead s t).x r = s.x r :=
  (State.x_eq (tableRead_tends s t).keeps.ctx r).trans (publish_x s r)

theorem tableRead_sameTask (s : State) (t : Table) : SameTask s (tableRead s t) :=
  (publish_sameTask s).trans (tableRead_tends s t).sameTask

theorem withTable_found {t : Table} {p : Pool} (htable : getTable s.publish s.publish.party (s.x a) Need.change = .ok t)
    (hpool : getPool s.publish s.publish.party t.pool Need.change = .ok p) (k : State → Table → Pool → Out) :
    withTable a s.publish k = k (tableRead s t) t p := by
  unfold withTable
  rw [publish_x, htable, withRes, hpool]
  rfl

/-! ### Appending (R351) -/

/-- The state in which kvapp has read the last entry and its descriptor. -/
def lastRead (s : State) (t : Table) (k : Desc) : State :=
  ((tableRead s t).reads s.publish.party (entryVa t (t.nent - 1)) 16).reads s.publish.party k.va 16

theorem lastRead_tends (s : State) (t : Table) (k : Desc) : (tableRead s t).Tends (lastRead s t k) :=
  (reads_tends _ _ _ _).trans (reads_tends _ _ _ _)

theorem lastRead_party (s : State) (t : Table) (k : Desc) : (lastRead s t k).party = s.publish.party := by
  simp [lastRead, tableRead_party]

theorem exec_kvapp {t : Table} {p : Pool} (d b : BitVec 5) (ha : (s.x a).toNat % 16 = 0)
    (htable : getTable s.publish s.publish.party (s.x a) Need.change = .ok t)
    (hpool : getPool s.publish s.publish.party t.pool Need.change = .ok p) : exec (.kvapp d a b) s =
      let q := s.publish.party
      if t.nent = 0 then openPage d b t p (tableRead s t)
      else
        let at_ := entryVa t (t.nent - 1)
        withRes (tableRead s t) (getEntry (tableRead s t) q t (t.nent - 1) Need.change) fun e =>
          withRes (tableRead s t) (entryChecked (tableRead s t) q p e at_ Need.change) fun k =>
            let w := lastRead s t k
            if entryStart e + entryNtok e = p.ptok then openPage d b t p w
            else if k.state = 2 ∨ k.state = 3 then complete 4 1 (w.setX d 0x200)
            else if 1 < k.refcnt then raise w (exc .copyOnWrite 0 at_)
            else withRes w (tableWritable w q at_ 16) fun _ =>
              complete 4 1 ((writeObject w q at_ 16 (putField e 52 46 (entryNtok e + 1))).setX d
                (BitVec.ofNat 64 (entryStart e + entryNtok e))) := by
  show execKvapp d a b s = _
  unfold execKvapp
  dsimp only
  rw [publish_x, if_neg (not_misalignedAt ha), withTable_found htable hpool]
  rfl

/-- What a page that opens in `w` answers. -/
def OpensPage (s : State) (d a b : BitVec 5) (t : Table) (p : Pool) (w : State) : Prop :=
  let q := s.publish.party
  (s.x b = 0 ∨ t.nent = t.cap ∨ p.freeCnt = 0 → Answers s (.kvapp d a b) d 0x100 w) ∧
  (∀ s2 p2 k, s.x b ≠ 0 → t.nent ≠ t.cap → p.freeCnt ≠ 0 → (s.x b).toNat % 4096 = 0 → entriesWritable w q t t.nent 1 = .ok () →
    allocDesc w q p (nativeDesc p (s.x b)) = .ok (s2, p2, k) → Answers s (.kvapp d a b) d 0
      (putCount (putEntries q t t.nent [entryValue ((s.x b).toNat / 4096) 0 1 0 0 k] s2) q t (t.nent + 1)))

theorem opensPage_of {d : BitVec 5} {t : Table} {p : Pool} {w : State} (hw : SameTask s w) (hparty : w.party = s.publish.party)
    (run : exec (.kvapp d a b) s = openPage d b t p w) : OpensPage s d a b t p w := by
  have hx : w.x b = s.x b := by
    rw [State.x, hw.ctx]
    rfl
  unfold openPage at run
  dsimp only at run
  rw [hx, hparty] at run
  refine ⟨fun hnone => answers_of hw (run.trans (if_pos hnone)), fun s2 p2 k hpage hroom hfree halign hwritable halloc => ?_⟩
  refine answers_of (hw.trans ((allocDesc_tends halloc).trans ((putEntries_tends _ t _ _ s2).trans (putCount_tends _ _ t _))).sameTask)
    (run.trans ((if_neg (by rintro (h | h | h); exacts [hpage h, hroom h, hfree h])).trans ((if_neg (not_misalignedAt halign)).trans ?_)))
  rw [hwritable, withRes, halloc]
  rfl

/-! ### Splicing (R352) -/

/-- The state in which kvspl has read its record, the table's entries and their descriptors. -/
def spliceRead (s : State) (b : BitVec 5) (t : Table) (p : Pool) (r : Nat × List PageWord) (es : List Entry) : State :=
  descsRead s.publish.party p (es.map entryDesc)
    (((tableRead s t).reads s.publish.party (s.x b) (16 + 16 * r.2.length)).readsTable s.publish.party t t.nent)

/-- The versions of the page words' sources are read too. -/
def versionsRead (q : Party) (p : Pool) (l : List PageWord) (s : State) : State :=
  l.foldl (fun s w => s.reads q (BitVec.ofNat 64 (p.svtBase + w.src)) 1) s

theorem versionsRead_tends (q : Party) (p : Pool) (l : List PageWord) (s : State) : s.Tends (versionsRead q p l s) :=
  .foldl (f := fun (s : State) (w : PageWord) => s.reads q (BitVec.ofNat 64 (p.svtBase + w.src)) 1) (fun s w => reads_tends s q _ 1) s l

theorem spliceRead_sameTask (s : State) (b : BitVec 5) (t : Table) (p : Pool) (r : Nat × List PageWord) (es : List Entry) :
    SameTask s (spliceRead s b t p r es) :=
  (tableRead_sameTask s t).trans (((reads_tends _ _ (s.x b) _).trans (reads_tends _ _ t.va _)).trans (descsRead_tends _ p _ _)).sameTask

theorem exec_kvspl {t : Table} {p : Pool} {r : Nat × List PageWord} {es : List Entry} (d : BitVec 5) (ha : (s.x a).toNat % 16 = 0)
    (hb : (s.x b).toNat % 16 = 0) (htable : getTable s.publish s.publish.party (s.x a) Need.change = .ok t)
    (hpool : getPool s.publish s.publish.party t.pool Need.change = .ok p)
    (hrec : spliceRecord (tableRead s t) s.publish.party p (s.x b) = .ok r)
    (hes : getEntries (tableRead s t) s.publish.party t Need.change 0 t.nent = .ok es)
    (hchecked : entriesChecked (tableRead s t) s.publish.party p t 0 es = .ok ()) : exec (.kvspl d a b) s =
      let q := s.publish.party
      let v := spliceRead s b t p r es
      let z := versionsRead q p r.2 v
      let at_ := locate es 0 r.1
      let need := r.2.length + (if at_.1 < es.length ∧ 0 < at_.2 then 1 else 0)
      if (es.map entryNtok).sum < r.1 then raise (tableRead s t) (exc .bounds 25 (BitVec.ofNat 64 r.1))
      else if t.cap < t.nent + need then complete 4 1 (v.setX d 1)
      else withRes v (staleWord v q p r.2) fun stale =>
        if stale then complete 4 1 (z.setX d 2)
        else if p.freeCnt < r.2.length then complete 4 1 (z.setX d 3)
        else withRes z (splice z q t p es r.2 at_.1 at_.2) fun s1 => complete 4 1 (s1.setX d 0) := by
  show execKvspl d a b s = _
  unfold execKvspl
  dsimp only
  rw [publish_x, publish_x, if_neg (not_misalignedAt ha), if_neg (not_misalignedAt hb), withTable_found htable hpool, tableRead_x, hrec]
  simp only [withRes, hes, hchecked]
  rfl

/-! ### Requantising (R353) -/

/-- The state in which kvreq has read the entry, its record, the pool and the descriptor. -/
def requantRead (s : State) (a b : BitVec 5) (pool : Word) (k : Desc) : State :=
  let q := s.publish.party
  (((s.publish.reads q (s.x a) 16).reads q (s.x b) 32).reads q pool 64).reads q k.va 16

theorem requantRead_sameTask (s : State) (a b : BitVec 5) (pool : Word) (k : Desc) : SameTask s (requantRead s a b pool k) :=
  (publish_sameTask s).trans ((((reads_tends _ _ _ _).trans (reads_tends _ _ _ _)).trans (reads_tends _ _ _ _)).trans
    (reads_tends _ _ _ _)).sameTask

theorem exec_kvreq {e : Entry} {r : Word × Nat × Nat} {p : Pool} {k : Desc} (d : BitVec 5) (hnone : s.requantHere = none)
    (ha : (s.x a).toNat % 16 = 0) (hb : (s.x b).toNat % 32 = 0)
    (hentry : readObject s.publish s.publish.party (s.x a) 16 Need.change = .ok e)
    (hrec : requantRecord s.publish s.publish.party (s.x b) = .ok r)
    (hpool : getPool s.publish s.publish.party r.1 Need.change = .ok p)
    (hdesc : entryChecked s.publish s.publish.party p e (s.x a) Need.change = .ok k) : exec (.kvreq d a b) s =
      let w := requantRead s a b r.1 k
      if k.state = 3 then complete 4 1 (w.setX d 2)
      else if p.freeCnt = 0 then complete 4 1 (w.setX d 3)
      else withRes w (requantise w s.publish.party p (s.x a) e k r.2.1 r.2.2) .next := by
  show execKvreq d a b s = _
  unfold execKvreq
  rw [hnone]
  dsimp only
  rw [publish_x, publish_x, if_neg (not_misalignedAt ha), if_neg (not_misalignedAt hb), hentry]
  simp only [withRes, hrec, hpool, hdesc]
  rfl

theorem exec_kvreq_swap {r : Requant} {p : Pool} {x : State × Nat} (d b : BitVec 5) (hhere : s.requantHere = some r) :
    let s2 := { s with core := { s.core with asked := false, answer := none, requant := none } }
    getPool s2 s2.party r.pool Need.change = .ok p → swapEntry s2 s2.party p (s.x a) r.entry r.page r.desc = .ok x →
    exec (.kvreq d a b) s = complete 4 1 (x.1.setX d (BitVec.ofNat 64 x.2)) := by
  intro s2 hpool hswap
  show execKvreq d a b s = _
  unfold execKvreq
  rw [hhere]
  show withRes s2 (getPool s2 s2.party r.pool Need.change) _ = _
  rw [hpool]
  show withRes s2 (swapEntry s2 s2.party p (s.x a) r.entry r.page r.desc) _ = _
  rw [hswap]
  rfl

end

/-- Settles O53: each form by its checks, in the states in which it has read its records. -/
theorem blockTableForms : Obligations.BlockTableForms := by
  intro s d a b s1 q ha
  refine ⟨fun t p htable hpool => ?_, fun e r p k hnone hb hentry hrec hpool hdesc => ?_, fun r p x hhere => ?_⟩
  · intro u opens
    have run := exec_kvapp d b ha htable hpool
    refine ⟨fun hempty => ?_, fun e k hsome hentry hdesc => ?_, fun r es hb hrec hes hchecked => ?_⟩
    · exact opensPage_of (tableRead_sameTask s t) (tableRead_party s t) (run.trans (if_pos hempty))
    · intro w
      have task : SameTask s w := (tableRead_sameTask s t).trans (lastRead_tends s t k).sameTask
      have run := run.trans (if_neg hsome)
      rw [show getEntry (tableRead s t) s.publish.party t (t.nent - 1) Need.change = .ok e from hentry, withRes,
        show entryChecked (tableRead s t) s.publish.party p e (entryVa t (t.nent - 1)) Need.change = .ok k from hdesc, withRes] at run
      refine ⟨fun hfull => opensPage_of task (lastRead_party s t k) (run.trans (if_pos hfull)), fun hroom => ?_⟩
      have run := run.trans (if_neg hroom)
      refine ⟨fun hstate => answers_of task (run.trans (if_pos hstate)), fun h2 h3 hshared => ?_, fun h2 h3 hown hwritable => ?_⟩
      · exact run.trans ((if_neg (by simp [h2, h3])).trans (if_pos hshared))
      · refine answers_of (task.trans (writeObject_tends w q _ 16 _).sameTask)
          (run.trans ((if_neg (by simp [h2, h3])).trans ((if_neg (Nat.not_lt.mpr hown)).trans ?_)))
        rw [show tableWritable (lastRead s t k) s.publish.party (entryVa t (t.nent - 1)) 16 = .ok () from hwritable]
        rfl
    · intro at_ need v z
      have run := exec_kvspl d ha hb htable hpool hrec hes hchecked
      have task : SameTask s v := spliceRead_sameTask s b t p r es
      have versions : SameTask s z := task.trans (versionsRead_tends q p r.2 v).sameTask
      refine ⟨fun hpast => run.trans (if_pos hpast), fun hin => ?_⟩
      have run := run.trans (if_neg (Nat.not_lt.mpr hin))
      refine ⟨fun hfull => answers_of task (run.trans (if_pos hfull)), fun hroom hstale => ?_, fun hroom hcurrent hfew => ?_,
        fun hroom hcurrent henough s2 hsplice => ?_⟩
      · refine answers_of versions (run.trans ((if_neg (Nat.not_lt.mpr hroom)).trans ?_))
        rw [show staleWord (spliceRead s b t p r es) s.publish.party p r.2 = .ok true from hstale]
        rfl
      · refine answers_of versions (run.trans ((if_neg (Nat.not_lt.mpr hroom)).trans ?_))
        rw [show staleWord (spliceRead s b t p r es) s.publish.party p r.2 = .ok false from hcurrent]
        exact if_pos hfew
      · refine answers_of (versions.trans (splice_tends hsplice).sameTask) (run.trans ((if_neg (Nat.not_lt.mpr hroom)).trans ?_))
        rw [show staleWord (spliceRead s b t p r es) s.publish.party p r.2 = .ok false from hcurrent]
        refine (if_neg (Nat.not_lt.mpr henough)).trans ?_
        show withRes z (splice z q t p es r.2 at_.1 at_.2) _ = _
        rw [hsplice]
        rfl
  · intro w
    have run := exec_kvreq d hnone ha hb hentry hrec hpool hdesc
    have task : SameTask s w := requantRead_sameTask s a b r.1 k
    refine ⟨fun hstate => answers_of task (run.trans (if_pos hstate)), fun hstate hfull => ?_, fun hstate hroom => ?_⟩
    · exact answers_of task (run.trans ((if_neg hstate).trans (if_pos hfull)))
    · have run := run.trans ((if_neg hstate).trans (if_neg hroom))
      split
      · rename_i s2 done
        exact run.trans (by rw [show requantise (requantRead s a b r.1 k) s.publish.party p (s.x a) e k r.2.1 r.2.2 = .ok s2 from done]; rfl)
      · rename_i x failed
        exact run.trans (by rw [show requantise (requantRead s a b r.1 k) s.publish.party p (s.x a) e k r.2.1 r.2.2 = .error x from failed]; rfl)
  · intro s2 hpool hswap
    have task : SameTask s s2 := ⟨rfl, rfl⟩
    exact answers_of (task.trans (swapEntry_tends hswap).sameTask) (exec_kvreq_swap d b hhere hpool hswap)

end Sys2Proof.Machine
end


section
/-! The claim about jobs of the Rake (O55; R358, R362): start, status and cancel. -/

namespace Sys2Proof.Machine

/-! ### The record of a job (R358, R359) -/

theorem natBytes_drop (m n v : Nat) : (natBytes (m + n) v).drop m = natBytes n (v / 256 ^ m) := by
  induction m generalizing v with
  | zero => simp
  | succ m ih => rw [Nat.succ_add, natBytes, List.drop_succ_cons, ih, Nat.div_div_eq_div_mul, Nat.pow_succ']

theorem natBytes_take (m n v : Nat) : (natBytes (m + n) v).take m = natBytes m v := by
  induction m generalizing v with
  | zero => simp [natBytes]
  | succ m ih => rw [Nat.succ_add, natBytes, List.take_succ_cons, ih, natBytes]

/-- Doubleword k of a record. -/
theorem bytesToWords_natBytes (k n v : Nat) :
    (bytesToWords (k + 1 + n) (natBytes (8 * (k + 1 + n)) v))[k]? = some (BitVec.ofNat 64 (v / 2 ^ (64 * k) % 2 ^ 64)) := by
  induction k generalizing v with
  | zero =>
    rw [Nat.zero_add, Nat.add_comm 1 n, bytesToWords, List.getElem?_cons_zero, show 8 * (n + 1) = 8 + 8 * n by omega, natBytes_take,
      leNat_natBytes]
    simp
  | succ k ih =>
    rw [show k + 1 + 1 + n = (k + 1 + n) + 1 by omega, bytesToWords, List.getElem?_cons_succ,
      show 8 * (k + 1 + n + 1) = 8 + 8 * (k + 1 + n) by omega, natBytes_drop, ih, Nat.div_div_eq_div_mul,
      show 256 ^ 8 = 2 ^ 64 from rfl, ← Nat.pow_add, show 64 + 64 * k = 64 * (k + 1) by omega]

/-- The layer of a job lies in the low byte of its fifth doubleword. -/
theorem jobLayer (v : Nat) : bits ((bytesToWords 8 (natBytes 64 v))[4]?.getD 0) 7 0 = v / 2 ^ 256 % 256 := by
  have word := bytesToWords_natBytes 4 3 v
  have cut : v / 2 ^ (64 * 4) % 2 ^ 64 % 2 ^ 64 / 2 ^ 0 % 2 ^ (7 + 1 - 0) = v / 2 ^ 256 % 256 := by omega
  rw [show (bytesToWords 8 (natBytes 64 v))[4]? = _ from word, Option.getD_some, bits, BitVec.toNat_ofNat]
  exact cut

/-! ### The instructions -/

section
variable {s : State} {d a : BitVec 5}

/-- The state in which rkjob has read its record. -/
def recordRead (s : State) (va : Word) : State := s.publish.reads s.publish.party va 64

theorem recordRead_tends (s : State) (va : Word) : s.publish.Tends (recordRead s va) := reads_tends _ _ va 64

theorem recordRead_sameTask (s : State) (va : Word) : SameTask s (recordRead s va) :=
  (publish_sameTask s).trans (recordRead_tends s va).sameTask

theorem jobOf_eq (s : State) (n v : Nat) :
    ({ part := s.part, job := n, words := Vector.ofFn (fun i => (bytesToWords 8 (natBytes 64 v))[i.val]?.getD 0),
       threshold := s.lc.raketh, active := true, err := false, cancelled := false, started := false, advanced := false,
       layer := bits ((bytesToWords 8 (natBytes 64 v))[4]?.getD 0) 7 0, pool := 0, pos := 0, entries := [], copies := [],
       selected := [], parked := false, tid := s.taskKey.2, serial := s.taskKey.1 } : RakeJob) = jobOf s n v := by
  rw [jobLayer]
  rfl

theorem exec_rkjob_full {v : Nat} (d : BitVec 5) (ha : (s.x a).toNat % 64 = 0)
    (hread : readObject s.publish s.publish.party (s.x a) 64 Need.object = .ok v)
    (hn : freeJob (recordRead s (s.x a)) (recordRead s (s.x a)).part = none) :
    exec (.rkjob d a) s = complete 4 1 ((recordRead s (s.x a)).setX d 0x100) := by
  unfold recordRead at hn ⊢
  show execRkjob d a s = _
  unfold execRkjob
  simp only [publish_x, if_neg (not_misalignedAt ha), hread, withRes, hn]

theorem exec_rkjob_free {v n : Nat} (d : BitVec 5) (ha : (s.x a).toNat % 64 = 0)
    (hread : readObject s.publish s.publish.party (s.x a) 64 Need.object = .ok v)
    (hn : freeJob (recordRead s (s.x a)) (recordRead s (s.x a)).part = some n) :
    let u := recordRead s (s.x a)
    (acceptJob u (jobOf u n v) (s.x a) = none → exec (.rkjob d a) s =
      complete 4 1 ({ (u.reads u.party (jobOf u n v).table 16).putJob (jobOf u n v) with
        pending := u.pending ++ [Event.rakeJobStart u.part n] }.setX d (BitVec.ofNat 64 n))) ∧
    (∀ e, acceptJob u (jobOf u n v) (s.x a) = some e → ¬(e.cause = .translationNotPresent ∧ e.sub = 0) → exec (.rkjob d a) s =
      complete 4 1 ((rakeRecord u (jobOf u n v) e.cause.code e.sub e.addr).setX d 0x200)) := by
  unfold recordRead at hn ⊢
  refine ⟨fun haccept => ?_, fun e hrefused hother => ?_⟩
  · show execRkjob d a s = _
    unfold execRkjob
    simp only [publish_x, if_neg (not_misalignedAt ha), hread, withRes, hn, jobOf_eq, haccept]
  · show execRkjob d a s = _
    unfold execRkjob
    simp only [publish_x, if_neg (not_misalignedAt ha), hread, withRes, hn, jobOf_eq, hrefused, if_neg hother]

theorem putJob_job (s : State) (j : RakeJob) : (s.putJob j).job j.part j.job = some j := by
  have gone : (s.rake.filter fun i => !(decide (i.part = j.part) && decide (i.job = j.job))).find?
      (fun i => i.part = j.part ∧ i.job = j.job) = none := by
    rw [List.find?_eq_none]
    intro i hi
    have apart := (List.mem_filter.mp hi).2
    simpa [← Bool.decide_and] using apart
  rw [State.job, State.putJob, List.find?_append, gone]
  simp

/-- A job that is put into its slot leaves the task. -/
theorem putJob_tends (s : State) (j : RakeJob) : s.Tends (s.putJob j) := ⟨⟨rfl, fun _ => rfl, id⟩, .of_same rfl rfl rfl⟩

theorem withJob_named (h : (s.x a).toNat < 64) (k : Option RakeJob → Out) : withJob a s k = k (s.job s.part (s.x a).toNat) :=
  if_neg (Nat.not_le.mpr h)

/-- An accepted job is in its slot, and its start is under way. -/
theorem jobPut_done {u : State} (d : BitVec 5) (n : Nat) (j : RakeJob) (task : SameTask s u) (context : u.ctx = s.ctx) :
    let w := u.reads u.party j.table 16
    let t := ({ w.putJob j with pending := u.pending ++ [Event.rakeJobStart u.part n] }.setX d (BitVec.ofNat 64 n)).finished
    Completed 4 s t ∧ SameButScalars s t ∧ ScalarWritten s t d (BitVec.ofNat 64 n) ∧ t.job j.part j.job = some j ∧ SameBytes w t ∧
      t.pending = u.pending ++ [.rakeJobStart u.part n] := by
  intro w t
  have reached : u.Tends (w.putJob j) := (reads_tends u u.party j.table 16).trans (putJob_tends w j)
  have same : (w.putJob j).ctx = s.ctx := reached.keeps.ctx.trans context
  have put := putJob_job w j
  obtain ⟨done, result, scalars, -, bytes⟩ := complete_scalar 4 1 d (BitVec.ofNat 64 n)
    { w.putJob j with pending := u.pending ++ [Event.rakeJobStart u.part n] }
  refine ⟨⟨done.pc.trans (congrArg (fun c : Ctx => c.pc + BitVec.ofNat 64 4) same), done.counted.trans ?_⟩, .of_ctx same scalars, .of_ctx same result, ?_, ?_, ?_⟩
  · exact congrArg (· + 1) (task.trans reached.sameTask).counted
  · rw [State.job] at put ⊢
    simpa [t, State.finished] using put
  · exact ⟨bytes.mem, bytes.ctl, bytes.pad, bytes.persisted⟩
  · simp [t, State.finished]

/-- What rkstat answers for a slot. -/
def slotStatus (s : State) : Option RakeJob → Word
  | some j => jobStatus s j
  | none => 0

theorem exec_rkstat (d : BitVec 5) (h : (s.x a).toNat < 64) :
    exec (.rkstat d a) s = complete 4 1 (s.setX d (slotStatus s (s.job s.part (s.x a).toNat))) := by
  show execRkstat d a s = _
  rw [execRkstat, withJob_named h]
  rfl

theorem exec_rkcancel_active {j : RakeJob} (d : BitVec 5) (h : (s.x a).toNat < 64)
    (hj : s.publish.job s.publish.part (s.x a).toNat = some j) (hactive : j.active = true) :
    exec (.rkcancel d a) s = .next ((stopJob s.publish j false).setX d 0).finished := by
  show execRkcancel d a s = _
  unfold execRkcancel
  dsimp only
  rw [withJob_named (by rwa [publish_x]), publish_x, hj]
  exact if_pos hactive

theorem exec_rkcancel_idle (d : BitVec 5) (h : (s.x a).toNat < 64)
    (hidle : ∀ j, s.publish.job s.publish.part (s.x a).toNat = some j → j.active = false) :
    exec (.rkcancel d a) s = complete 4 1 (s.publish.setX d 1) := by
  show execRkcancel d a s = _
  unfold execRkcancel
  dsimp only
  rw [withJob_named (by rwa [publish_x]), publish_x]
  split
  · exact if_neg (by rw [hidle _ ‹_›]; decide)
  · rfl

end

/-- Settles O55: rkjob by the slots and the acceptance of its record, rkstat and rkcancel by the job of the slot. -/
theorem rakeForms : Obligations.RakeForms := by
  intro s d a s1
  refine ⟨fun v ha hread => ?_, fun ha => ⟨fun j hj => ?_, fun hj => ?_, fun j hj hactive => ?_, fun hidle => ?_⟩, fun ha => ⟨?_, ?_⟩⟩
  · intro s2
    have task : SameTask s s2 := recordRead_sameTask s (s.x a)
    have context : s2.ctx = s.ctx := ((publish_keeps s).trans (recordRead_tends s (s.x a)).keeps).ctx
    refine ⟨fun hfull => answers_of task (exec_rkjob_full d ha hread hfull), fun n hn => ?_⟩
    obtain ⟨accepted, refused⟩ := exec_rkjob_free d ha hread hn
    exact ⟨fun haccept => ⟨_, accepted haccept, jobPut_done d n (jobOf s2 n v) task context⟩, refused⟩
  · exact ⟨_, (exec_rkstat d ha).trans (by rw [hj]; rfl), complete_scalar 4 1 d (jobStatus s j) s⟩
  · exact ⟨_, (exec_rkstat d ha).trans (by rw [hj]; rfl), complete_scalar 4 1 d 0 s⟩
  · exact exec_rkcancel_active d ha hj hactive
  · exact answers_of (publish_sameTask s) (exec_rkcancel_idle d ha hidle)
  · exact if_pos ha
  · show execRkcancel d a s = _
    unfold execRkcancel
    dsimp only
    rw [withJob, publish_x, if_pos ha]
    rfl

end Sys2Proof.Machine
end


section
/-! SUPPORT. Marks do not depend on the register set (R320); and the claim about queue transfers (O43). -/

namespace Sys2Proof.Machine

/-! ### Marks with another register set -/

section
variable (s : State) (c : Ctx)

theorem walkFrom_setCtx (va : Word) (lvl table : Nat) : walkFrom { s with ctx := c } va lvl table = walkFrom s va lvl table := by
  induction lvl generalizing table with
  | zero => rfl
  | succ lvl ih =>
    unfold walkFrom
    dsimp only
    rw [ih]
    rfl

theorem findLeaf_setCtx (part : Nat) (va : Word) (need : Need) : findLeaf { s with ctx := c } part va need = findLeaf s part va need := by
  unfold findLeaf walk walksCached
  dsimp only
  simp only [walkFrom_setCtx]
  rfl

theorem walkPath_setCtx (part : Nat) (va : Word) (lvl table : Nat) :
    walkPath { s with ctx := c } part va lvl table = walkPath s part va lvl table := by
  induction lvl generalizing table with
  | zero => rfl
  | succ lvl ih =>
    unfold walkPath
    dsimp only
    rw [ih]
    rfl

theorem recall_setCtx (line n : Nat) : ({ s with ctx := c } : State).recall line n = { s.recall line n with ctx := c } := by
  unfold State.recall
  split <;> rfl

theorem markUsed_setCtx (u : Use) (write : Bool) : markUsed { s with ctx := c } u write = { markUsed s u write with ctx := c } := by
  have recalled : (if pteMode u.leaf.pte = 0 then State.recall { s with ctx := c } (u.leaf.frame * 32 + u.va % 4096 / 128) 1
      else { s with ctx := c }) =
      { (if pteMode u.leaf.pte = 0 then s.recall (u.leaf.frame * 32 + u.va % 4096 / 128) 1 else s) with ctx := c } := by
    rw [recall_setCtx]
    split <;> rfl
  unfold markUsed
  rw [recalled]
  dsimp only
  rw [walkPath_setCtx]
  split
  · split <;> rfl
  · rfl

theorem touch_setCtx (part va : Nat) (need : Need) (write : Bool) :
    ({ s with ctx := c } : State).touch part va need write = { s.touch part va need write with ctx := c } := by
  unfold State.touch
  rw [findLeaf_setCtx]
  cases findLeaf s part (BitVec.ofNat 64 va) need with
  | ok u => exact markUsed_setCtx s c u write
  | error e => rfl

end

/-! ### The ends of a queue instruction (R290) -/

/-- The predicate of a try form can be written. -/
def PredWritable (pd : Option Nat) : Prop := ∀ p, pd = some p → p ≠ 0 ∧ p < 24

theorem predWritable_none : PredWritable none := nofun

theorem predWritable_some {p : BitVec 5} (h : predDestOk p = true) : PredWritable (some p.toNat) := by
  intro q hq
  cases hq
  obtain ⟨hlt, hne⟩ : p.toNat < 24 ∧ p ≠ 0 := by simpa [predDestOk] using h
  exact ⟨fun h0 => hne (BitVec.eq_of_toNat_eq h0), hlt⟩

/-- A predicate written and the instruction completed. -/
theorem complete_setP (s : State) {p : Nat} (v : PReg) (h0 : p ≠ 0) (hp : p < 24) :
    ∃ t, complete 4 1 { s with ctx := s.ctx.setP p v } = .next t ∧ Completed 4 s t ∧ SameBytes s t ∧ t.pending = s.pending ∧
      t.ctx.release = s.ctx.release ∧ t.ctx.getP p = v := by
  refine ⟨_, rfl, ⟨by simp, by simp⟩, ⟨by simp, by simp, by simp, by simp⟩, by simp, ?_, ?_⟩
  · rw [Ctx.setP_rest]
    simp
  · rw [State.retire_ctx, State.advance_ctx]
    exact Ctx.getP_setP_same s.ctx v h0 hp

theorem succeed_done {pd : Option Nat} (hpd : PredWritable pd) (s : State) : ∃ t, succeed pd s = .next t ∧ Completed 4 s t ∧ SameBytes s t ∧
    t.pending = s.pending ∧ t.ctx.release = s.ctx.release ∧ ∀ p, pd = some p → t.ctx.getP p = BitVec.allOnes 1024 := by
  cases pd with
  | none => exact ⟨_, rfl, ⟨by simp [clearWoken], by simp [clearWoken]⟩, by constructor <;> simp [clearWoken], by simp [clearWoken],
      by simp [clearWoken], nofun⟩
  | some p =>
    obtain ⟨h0, hp⟩ := hpd p rfl
    obtain ⟨t, run, done, bytes, messages, release, pred⟩ := complete_setP (clearWoken s) (BitVec.allOnes 1024) h0 hp
    exact ⟨t, run, ⟨done.pc, done.counted⟩, ⟨bytes.mem, bytes.ctl, bytes.pad, bytes.persisted⟩, messages, release,
      fun q hq => Option.some.inj hq ▸ pred⟩

theorem cannotProceed_try {p : Nat} (hpd : PredWritable (some p)) (o : OpenQueue) (va : Word) (dequeue : Bool) (s : State) :
    ∃ t, cannotProceed (some p) o va dequeue s = .next t ∧ Completed 4 (lookedAt s o) t ∧ SameBytes (lookedAt s o) t ∧ t.ctx.getP p = 0 := by
  obtain ⟨h0, hp⟩ := hpd p rfl
  have marked : ({ s with ctx := s.ctx.setP p 0 } : State).touch s.part o.va Need.queue false =
      { lookedAt s o with ctx := (lookedAt s o).ctx.setP p 0 } := by
    rw [touch_setCtx, lookedAt, (touch_keeps ..).ctx]
  obtain ⟨t, run, done, bytes, -, -, pred⟩ := complete_setP (lookedAt s o) 0 h0 hp
  exact ⟨t, (congrArg (complete 4 1) marked).trans run, done, bytes, pred⟩

theorem cannotProceed_wait {s : State} {x : TaskInfo} (h : s.core.run.task = some x) (o : OpenQueue) (va : Word) (dequeue : Bool) :
    cannotProceed none o va dequeue s = .next (queueWait s x o va dequeue) := by
  simp only [cannotProceed, h]

/-- What the claim says of a queue that cannot serve the instruction. -/
theorem cannotProceed_done {pd : Option Nat} (hpd : PredWritable pd) (o : OpenQueue) (va : Word) (dequeue : Bool) {s : State} {r : Out}
    (run : r = cannotProceed pd o va dequeue s) :
    (∀ p, pd = some p → ∃ t, r = .next t ∧ Completed 4 (lookedAt s o) t ∧ SameBytes (lookedAt s o) t ∧ t.ctx.getP p = 0) ∧
    (pd = none → ∀ x, s.core.run.task = some x → r = .next (queueWait s x o va dequeue)) := by
  subst run
  refine ⟨fun p hp => ?_, fun hp x hx => ?_⟩
  · subst hp
    exact cannotProceed_try hpd o va dequeue s
  · subst hp
    exact cannotProceed_wait hx o va dequeue

/-! ### Enqueue -/

/-- An enqueue of the table is the form of R290, and its predicate can be written. -/
theorem enqueueTable_runs {s : State} {i : Instr} {pd : Option Nat} {a : BitVec 5} {elem : OpenQueue → Res (List Byte × State)}
    (h : enqueueTable s i = some (pd, a, elem)) : exec i s = enqueueForm pd (s.x a) elem s ∧ PredWritable pd := by
  unfold enqueueTable at h
  split at h
  case h_1 p a b =>
    simp only [Option.ite_none_right_eq_some, Option.some.injEq, Prod.mk.injEq, Bool.and_eq_true, Bool.not_eq_true'] at h
    obtain ⟨⟨⟨hp, hhere⟩, hbound⟩, rfl, rfl, rfl⟩ := h
    refine ⟨?_, predWritable_some hp⟩
    show execEnqTry p a b s = _
    simp [execEnqTry, whenOk, hp, hhere, hbound]
  case h_2 a b =>
    simp only [Option.ite_none_right_eq_some, Option.some.injEq, Prod.mk.injEq] at h
    obtain ⟨hok, rfl, rfl, rfl⟩ := h
    refine ⟨?_, predWritable_none⟩
    show execEnqWait a b s = _
    simp [execEnqWait, whenOk, hok]
  case h_3 d a p =>
    simp only [Option.ite_none_right_eq_some, Option.some.injEq, Prod.mk.injEq, Bool.and_eq_true, Bool.not_eq_true'] at h
    obtain ⟨⟨⟨⟨⟨hp, hhere⟩, hvec⟩, hgroup⟩, hbound⟩, rfl, rfl, rfl⟩ := h
    refine ⟨?_, predWritable_some hp⟩
    show execVenqTry d a p s = _
    simp [execVenqTry, venqForm, whenOk, hp, hhere, hvec, hgroup, hbound]
  case h_4 d a =>
    simp only [Option.ite_none_right_eq_some, Option.some.injEq, Prod.mk.injEq, Bool.and_eq_true, Bool.not_eq_true'] at h
    obtain ⟨⟨⟨hok, hvec⟩, hgroup⟩, rfl, rfl, rfl⟩ := h
    refine ⟨?_, predWritable_none⟩
    show execVenqWait d a s = _
    simp [execVenqWait, venqForm, whenOk, hok, hvec, hgroup]
  case h_5 => simp at h

theorem enqueueForm_room {s s1 s2 : State} {pd : Option Nat} {va : Word} {elem : OpenQueue → Res (List Byte × State)} {o : OpenQueue}
    {bs : List Byte} (hopen : openQueue s va .enqueue = .ok o) (helem : elem o = .ok (bs, s1)) (hroom : qFree o.q ≠ 0)
    (horders : orders (fenceScope (modeScope o.q) s1) s1)
    (hnow : enqueueNow (ordered (fenceScope (modeScope o.q) s1) s1) o bs = .ok s2) :
    enqueueForm pd va elem s = succeed pd s2.released := by
  simp only [enqueueForm, hopen, withRes, helem, if_neg hroom]
  rw [releaseAt_ordered _ horders, hnow]

theorem enqueueForm_full {s s1 : State} {va : Word} {elem : OpenQueue → Res (List Byte × State)} {o : OpenQueue}
    {bs : List Byte} (pd : Option Nat) (hopen : openQueue s va .enqueue = .ok o) (helem : elem o = .ok (bs, s1)) (hfull : qFree o.q = 0) :
    enqueueForm pd va elem s = cannotProceed pd o va false s := by
  simp only [enqueueForm, hopen, withRes, helem, if_pos hfull]

/-! ### Dequeue -/

/-- A dequeue of the table is the form of R290, and its predicate can be written. -/
theorem dequeueTable_runs {s : State} {i : Instr} {pd : Option Nat} {a : BitVec 5} {check : OpenQueue → Res Dest}
    {put : Dest → OpenQueue → List Byte → State → Res State} (h : dequeueTable s i = some (pd, a, check, put)) :
    exec i s = dequeueForm pd (s.x a) check put s ∧ PredWritable pd := by
  unfold dequeueTable at h
  split at h
  case h_1 p a b =>
    simp only [Option.ite_none_right_eq_some, Option.some.injEq, Prod.mk.injEq, Bool.and_eq_true, Bool.not_eq_true'] at h
    obtain ⟨⟨⟨hp, hhere⟩, hbound⟩, rfl, rfl, rfl, rfl⟩ := h
    refine ⟨?_, predWritable_some hp⟩
    show execDeqTry p a b s = _
    simp [execDeqTry, whenOk, hp, hhere, hbound]
  case h_2 a b =>
    simp only [Option.ite_none_right_eq_some, Option.some.injEq, Prod.mk.injEq] at h
    obtain ⟨hok, rfl, rfl, rfl, rfl⟩ := h
    refine ⟨?_, predWritable_none⟩
    show execDeqWait a b s = _
    simp [execDeqWait, whenOk, hok]
  case h_3 d a p =>
    simp only [Option.ite_none_right_eq_some, Option.some.injEq, Prod.mk.injEq, Bool.and_eq_true, Bool.not_eq_true'] at h
    obtain ⟨⟨⟨⟨⟨hp, hhere⟩, hvec⟩, hgroup⟩, hbound⟩, rfl, rfl, rfl, rfl⟩ := h
    refine ⟨?_, predWritable_some hp⟩
    show execVdeqTry d a p s = _
    simp [execVdeqTry, vdeqForm, whenOk, hp, hhere, hvec, hgroup, hbound]
  case h_4 d a =>
    simp only [Option.ite_none_right_eq_some, Option.some.injEq, Prod.mk.injEq, Bool.and_eq_true, Bool.not_eq_true'] at h
    obtain ⟨⟨⟨hok, hvec⟩, hgroup⟩, rfl, rfl, rfl, rfl⟩ := h
    refine ⟨?_, predWritable_none⟩
    show execVdeqWait d a s = _
    simp [execVdeqWait, vdeqForm, whenOk, hok, hvec, hgroup]
  case h_5 => simp at h

section
variable {s : State} {va : Word} {check : OpenQueue → Res Dest} {o : OpenQueue} {dst : Dest} (pd : Option Nat)
  (put : Dest → OpenQueue → List Byte → State → Res State)

theorem dequeueForm_element {bs : List Byte} {s1 s2 : State} (hopen : openQueue s va .dequeue = .ok o) (hcheck : check o = .ok dst)
    (hcount : qCount o.q ≠ 0) (hnow : dequeueNow s.publish o = .ok (some (bs, s1))) (hput : put dst o bs s1 = .ok s2) :
    dequeueForm pd va check put s = succeed pd s2 := by
  simp only [dequeueForm, hopen, withRes, hcheck, if_neg hcount, hnow, hput]

theorem dequeueForm_empty (hopen : openQueue s va .dequeue = .ok o) (hcheck : check o = .ok dst) (hcount : qCount o.q = 0) :
    dequeueForm pd va check put s = cannotProceed pd o va true s := by
  simp only [dequeueForm, hopen, withRes, hcheck, if_pos hcount]

end

/-- Settles O43: each form is the enqueue or the dequeue of R290, which succeeds with room (an element) and cannot proceed without. -/
theorem queueTransfers : Obligations.QueueTransfers := by
  refine ⟨?_, ?_⟩
  · intro s s1 i pd a elem o bs htable hopen helem
    obtain ⟨form, writable⟩ := enqueueTable_runs htable
    refine ⟨fun s2 hroom horders hnow => ?_, fun hfull =>
      cannotProceed_done writable o (s.x a) false (form.trans (enqueueForm_full pd hopen helem hfull))⟩
    obtain ⟨t, run, done, bytes, messages, release, pred⟩ := succeed_done writable s2.released
    exact ⟨t, (form.trans (enqueueForm_room hopen helem hroom horders hnow)).trans run, ⟨done.pc, done.counted⟩,
      ⟨bytes.mem, bytes.ctl, bytes.pad, bytes.persisted⟩, messages, release, pred⟩
  · intro s i pd a check put o dst htable hopen hcheck
    obtain ⟨form, writable⟩ := dequeueTable_runs htable
    refine ⟨fun bs s1 s2 hcount hnow hput => ?_, fun hempty =>
      cannotProceed_done writable o (s.x a) true (form.trans (dequeueForm_empty pd put hopen hcheck hempty))⟩
    obtain ⟨t, run, done, bytes, messages, -, pred⟩ := succeed_done writable s2
    exact ⟨t, (form.trans (dequeueForm_element pd put hopen hcheck hcount hnow hput)).trans run, done, bytes, messages, pred⟩

end Sys2Proof.Machine
end


section
/-! SUPPORT. The claim about the upkeep of queues (O45): qinit, qfree, qstat, qpeek (R304, R305). -/

namespace Sys2Proof.Machine

/-- An access that reads raises no Peer fault. -/
theorem noPeerFault_of_readVa {s t : State} {va : Word} {n : Nat} {need : Need} {bs : List Byte} (h : readVa s va n need = .ok (bs, t)) :
    noPeerFault s va need := by
  intro e he
  unfold readVa readAs at h
  rw [he] at h
  cases h

theorem noPeerFault_of_translate {s : State} {va : Word} {need : Need} {tgt : Target}
    (h : translate s s.part s.privileged va need = .ok tgt) : noPeerFault s va need := by
  intro e he
  rw [h] at he
  cases he

theorem not_mem_setDropRange {l : List Nat} {k n g : Nat} (h : k ≤ g) (h' : g < k + n) : g ∉ setDropRange l k n := by
  simp only [setDropRange, List.mem_filter, Bool.or_eq_true, decide_eq_true_eq]
  omega

/-- A queue that is not levelled has no segments. -/
theorem setSegments_flat {q : Nat} (h : qMode q ≠ 2) (s : State) (on : Bool) : setSegments s q on = s := if_neg h

section
variable {s : State} {d a b : BitVec 5}

theorem exec_qinit {s1 s2 : State} {tgt : Target} {bs : List Byte} {k : Nat} (ha : (s.x a).toNat % 64 = 0) (hb : (s.x b).toNat % 64 = 0)
    (htranslate : translate s s.part s.privileged (s.x a) Need.queue = .ok tgt) (hread : readVa s (s.x b) 64 Need.read = .ok (bs, s1))
    (hstatus : qinitStatus s1 (s.x a).toNat tgt (leNat bs) = .ok (k, s2)) :
    exec (.qinit d a b) s = complete 4 1 (s2.setX d (BitVec.ofNat 64 k)) := by
  show execQinit d a b s = _
  unfold execQinit
  rw [if_neg (not_misalignedAt ha), if_neg (not_misalignedAt hb), peerFirst_noPeerFault (noPeerFault_of_translate htranslate),
    peerFirst_noPeerFault (noPeerFault_of_readVa hread), htranslate, hread]
  simp only [withRes, hstatus]

variable {o : OpenQueue}

/-- The state that qfree leaves of an idle queue that is not levelled, but for its answer. -/
def freedQueue (s : State) (o : OpenQueue) : State :=
  let s1 := (s.touch s.part o.va Need.queue true).publish
  { s1 with objects := setDropRange s1.objects (o.pa / 16) 4, levelled := s1.levelled.filter (fun x => x.1 ≠ o.pa) }

theorem freedQueue_ctx (s : State) (o : OpenQueue) : (freedQueue s o).ctx = s.ctx :=
  ((touch_keeps ..).trans (publish_keeps _)).ctx

theorem exec_qfree_idle (hopen : openQueue s (s.x a) .look = .ok o)
    (hidle : qCount o.q = 0 ∧ qEnqw o.q = 0 ∧ qDeqw o.q = 0 ∧ qFree o.q = qCap o.q) (hmode : qMode o.q ≠ 2) :
    exec (.qfree d a) s = complete 4 1 ((freedQueue s o).setX d 0) := by
  show execQfree d a s = _
  simp only [execQfree, hopen, withRes, if_pos hidle, setSegments_flat hmode]
  rfl

theorem exec_qfree_busy (hopen : openQueue s (s.x a) .look = .ok o)
    (hbusy : ¬(qCount o.q = 0 ∧ qEnqw o.q = 0 ∧ qDeqw o.q = 0 ∧ qFree o.q = qCap o.q)) :
    exec (.qfree d a) s = complete 4 1 ((lookedAt s o).setX d 1) := by
  show execQfree d a s = _
  simp only [execQfree, hopen, withRes, if_neg hbusy]
  rfl

theorem exec_qstat (hopen : openQueue s (s.x a) .look = .ok o) :
    exec (.qstat d a b) s = complete 4 1 ((lookedAt s o).setX d (BitVec.ofNat 64 (qstatValue s o.q (s.x b).toNat))) := by
  show execQstat d a b s = _
  simp only [execQstat, hopen, withRes]
  rfl

theorem exec_qpeek_empty {dst : Dest} (hopen : openQueue s (s.x a) .dequeue = .ok o) (hdst : destinationAt s (s.x b) o = .ok dst)
    (hempty : qCount o.q = 0) : exec (.qpeek d a b) s = complete 4 1 ((lookedAt s o).setX d 0) := by
  show execQpeek d a b s = _
  simp only [execQpeek, hopen, withRes, hdst, if_pos hempty]
  rfl

theorem exec_qpeek_element {dst : Dest} {l : List Nat} {bs : List Byte} {s2 : State} (hopen : openQueue s (s.x a) .dequeue = .ok o)
    (hdst : destinationAt s (s.x b) o = .ok dst) (hcount : qCount o.q ≠ 0) (hslot : readSlot s.publish o = .ok (some (l, bs)))
    (hput : putAt dst o bs (touchSlot (acquireSlot o.q s.publish l) s.publish.part o
      (dequeueSlot s.publish s.publish.part o.pa o.q s.publish.cur).1 Need.read) = .ok s2) :
    exec (.qpeek d a b) s = complete 4 1 (s2.setX d 1) := by
  show execQpeek d a b s = _
  simp only [execQpeek, hopen, withRes, hdst, if_neg hcount, hslot, hput]

theorem qstatValue_field (s : State) (q : Nat) {k : Nat} (h : k < 8) :
    qstatValue s q k = [qHead q, qTail q, qFree q, qEnqw q, qDeqw q, qGen q, qMode q, qLost q][k]?.getD 0 := by
  unfold qstatValue
  interval_cases k <;> rfl

theorem qstatValue_flat (s : State) {q k : Nat} (h : 8 ≤ k) (hseg : qMode q ≠ 2 ∨ qSegs q ≤ k - 8) : qstatValue s q k = 0 := by
  have none : ¬(qMode q = 2 ∧ k - 8 < qSegs q) := by omega
  obtain ⟨j, rfl⟩ : ∃ j, k = j + 8 := ⟨k - 8, by omega⟩
  exact if_neg none

end

/-- Settles O45: each form completes in the state of what it has read, with its answer in sd. -/
theorem queueUpkeep : Obligations.QueueUpkeep := by
  intro s d a b
  refine ⟨fun tgt bs s1 k s2 ha hb htranslate hread hstatus => ?_, fun o hopen => ⟨fun hidle hmode => ?_, fun hbusy => ?_, ?_⟩,
    fun o dst hopen hdst => ⟨fun hempty => ?_, fun l bs s2 hcount => ?_⟩⟩
  · have result := complete_scalar 4 1 d (BitVec.ofNat 64 k) s2
    exact ⟨_, exec_qinit ha hb htranslate hread hstatus, result.done, result.bytes, result.result, by simp⟩
  · have result := complete_scalar 4 1 d 0 (freedQueue s o)
    refine ⟨_, exec_qfree_idle hopen hidle hmode, by rw [result.done.pc, freedQueue_ctx]; rfl, result.result.of_ctx (freedQueue_ctx s o),
      fun g hlow hhigh => ?_⟩
    simpa [freedQueue] using not_mem_setDropRange hlow hhigh
  · exact ⟨_, exec_qfree_busy hopen hbusy, complete_scalar 4 1 d 1 (lookedAt s o)⟩
  · have context : (lookedAt s o).ctx = s.ctx := (touch_keeps ..).ctx
    have result := complete_scalar 4 1 d (BitVec.ofNat 64 (qstatValue s o.q (s.x b).toNat)) (lookedAt s o)
    have answer := result.result.of_ctx context
    refine ⟨_, exec_qstat hopen, by rw [result.done.pc, context]; rfl, result.context.of_ctx context, fun h => ?_, fun h hseg => ?_⟩
    · rw [← qstatValue_field s o.q h]
      exact answer
    · exact (congrArg (fun v => ScalarWritten s _ d (BitVec.ofNat 64 v)) (qstatValue_flat s h hseg)).mp answer
  · exact ⟨_, exec_qpeek_empty hopen hdst hempty, complete_scalar 4 1 d 0 (lookedAt s o)⟩
  · intro s0 hslot hput
    have result := complete_scalar 4 1 d 1 s2
    exact ⟨_, exec_qpeek_element hopen hdst hcount hslot hput, result.done, result.bytes, result.result⟩

end Sys2Proof.Machine
end


section
/-! SUPPORT. The claim about rendezvous and wire barriers (O47): rendezvous at their homes (R375-R377), and arrivals on the lines of a
wire barrier (R378-R380). -/

namespace Sys2Proof.Machine

/-! ### A rendezvous that is made (R375) -/

/-- A rendezvous with no arrivals, a number of participants and a generation. -/
def newRendezvous (expect gen : Nat) : Nat := expect + gen * 2 ^ 80

theorem newRendezvous_fields {expect gen : Nat} (he : expect < 2 ^ 32) (hg : gen < 65536) :
    rvExpect (newRendezvous expect gen) = expect ∧ rvArrived (newRendezvous expect gen) = 0 ∧ rvPar (newRendezvous expect gen) = 0 ∧
      rvPhase (newRendezvous expect gen) = 0 ∧ rvGen (newRendezvous expect gen) = gen := by
  simp only [rvExpect, rvArrived, rvPar, rvPhase, rvGen, fieldOf, newRendezvous]
  omega

theorem newRendezvous_lt {expect gen : Nat} (he : expect < 2 ^ 32) (hg : gen < 65536) : newRendezvous expect gen < 2 ^ 128 := by
  unfold newRendezvous
  omega

/-- A granule that a home writes whole as a number. -/
theorem homeWrite_value {s : State} {pa v : Nat} (hwf : s.memWf) (hspace : spaceOf pa ≠ .control) (hpa : pa % 16 = 0) (hv : v < 2 ^ 128) :
    GranuleWritten pa v s (homeWrite s pa (natBytes 16 v)) := by
  have h := homeWrite_granule (bs := natBytes 16 v) hwf hspace hpa (natBytes_length _ _)
  have fits : v % 256 ^ 16 = v := Nat.mod_eq_of_lt hv
  rwa [leNat_natBytes, fits] at h

/-- What only sends messages changes no granule. -/
theorem GranuleWritten.then {pa v : Nat} {s t u : State} (hspace : spaceOf pa ≠ .control) (hpa : pa % 16 = 0)
    (h : GranuleWritten pa v s t) (messages : t.OnlyMessages u) : GranuleWritten pa v s u :=
  ⟨(object16_congr hspace hpa fun a => by rw [messages.mem]).trans h.value, messages.ctx.trans h.context, by rw [messages.core, h.counters]⟩

theorem failRendezvous_onlyMessages (s : State) (pa : Nat) : s.OnlyMessages (failRendezvous s pa) := wakeWaiters_onlyMessages ..

theorem judgeRendezvous_onlyMessages (s : State) (pa : Nat) : s.OnlyMessages (judgeRendezvous s pa) := wakeWaiters_onlyMessages ..

section
variable {s : State} {d a b : BitVec 5} {pa : Nat}

/-- The waiters of a rendezvous that is made anew have failed. -/
def rendezvousCleared (s : State) (pa : Nat) : State := if s.objects.contains (pa / 16) then failRendezvous s pa else s

theorem rendezvousCleared_onlyMessages (s : State) (pa : Nat) : s.OnlyMessages (rendezvousCleared s pa) := by
  unfold rendezvousCleared
  split
  · exact failRendezvous_onlyMessages s pa
  · exact .refl s

/-- The granule that rvinit writes in a state. -/
def rendezvousMade (s : State) (pa expect : Nat) : State :=
  let s2 := rendezvousCleared s pa
  let s3 := homeWrite s2 pa (natBytes 16 (newRendezvous expect ((rvGen (object16 s2 pa) + 1) % 65536)))
  { s3 with objects := setAdd s3.objects (pa / 16) }

theorem rendezvousMade_granule {expect : Nat} (hwf : s.memWf) (hspace : spaceOf pa ≠ .control) (hpa : pa % 16 = 0) (he : expect < 2 ^ 32) :
    GranuleWritten pa (newRendezvous expect ((rvGen (object16 s pa) + 1) % 65536)) s (rendezvousMade s pa expect) := by
  have cleared := rendezvousCleared_onlyMessages s pa
  have same : object16 (rendezvousCleared s pa) pa = object16 s pa := object16_congr hspace hpa fun a => by rw [cleared.mem]
  have made := homeWrite_value (s := rendezvousCleared s pa) (cleared.keeps.form hwf) hspace hpa
    (newRendezvous_lt he (Nat.mod_lt (rvGen (object16 s pa) + 1) (Nat.succ_pos 65535)))
  rw [← same] at made ⊢
  exact ⟨made.value, made.context.trans cleared.ctx, made.counters.trans (by rw [cleared.core])⟩

theorem exec_rvinit (hva : (s.x a).toNat % 16 = 0) (hobj : objectPa s (s.x a) Need.atom = .ok pa) (hzero : s.x b ≠ 0)
    (hb : (s.x b).toNat < 2 ^ 32) :
    exec (.rvinit d a b) s = complete 4 1 ((rendezvousMade (celliReady s (s.x a)) pa (s.x b).toNat).setX d 0) := by
  show execRvinit d a b s = _
  unfold execRvinit
  dsimp only
  rw [if_neg (not_misalignedAt hva), if_neg (by rw [not_tooWide hb]; exact fun h => h.elim nofun hzero), hobj]
  simp only [withRes, bits_low hb]
  rfl

/-! ### Arrivals (R376) -/

theorem bits_above {w : Word} (h : w.toNat < 16) : bits w 63 4 = 0 := by
  simp only [bits]
  omega

theorem exec_rvarr_reserved (hva : (s.x a).toNat % 16 = 0) (hobj : objectPa s (s.x a) Need.atom = .ok pa) (hmem : pa / 16 ∈ s.objects)
    (hb : (s.x b).toNat < 16) (hres : rvReserved (object16 s pa) = true) :
    exec (.rvarr d a b) s = .next (takeCause s (exc .illegalInstruction 0 (s.x a))) := by
  show execRvarr d a b s = _
  unfold execRvarr
  dsimp only
  rw [if_neg (not_misalignedAt hva), if_neg (by simp [bits_above hb]), hobj]
  simp [withRes, hmem, hres, raise]

/-- An arrival forgets what its core kept of the token's failure. -/
def forgetFailure (s : State) (tok : Word) : State :=
  { s with core := { s.core with failed := s.core.failed.filter (fun f => f.1 ≠ tok) } }

/-- A deferred arrival is under way on a channel (R377). -/
def arrivalDeferred (s : State) (core : Nat) (ch : Fin 4) (job : Job) : State :=
  let c := s.core.chans[ch]
  let s2 := startTransfer s ch s.cyc c.nextStart job
  { s2 with pending := s2.pending ++ [Event.deferredArrival core ch.val c.nextId.toNat] }

theorem arrivalDeferred_channel (s : State) (core : Nat) (ch : Fin 4) (job : Job) :
    (arrivalDeferred s core ch job).core.chans[ch].nextId = s.core.chans[ch].nextId + 1 := by
  simp [arrivalDeferred, startTransfer]

/-- The token of an arrival at a rendezvous. -/
def arrivalToken (s : State) (va : Word) (pa : Nat) : Word := rendezvousToken va (rvPhase (object16 s pa) + 1)

section
variable (hva : (s.x a).toNat % 16 = 0) (hobj : objectPa s (s.x a) Need.atom = .ok pa) (hmem : pa / 16 ∈ s.objects)
  (hb : (s.x b).toNat < 16) (hres : rvReserved (object16 s pa) = false)
include hva hobj hmem hb hres

theorem exec_rvarr_now (hnow : (s.x b).getLsbD 1 = false) : exec (.rvarr d a b) s =
    (let s0 := celliReady s (s.x a)
     let tok := arrivalToken s0 (s.x a) pa
     match arriveAt (forgetFailure s0 tok) pa ((s.x b).getLsbD 0) with
     | none => raise (forgetFailure s0 tok) (exc .rendezvousPhaseError 0 (s.x a))
     | some s2 => complete 4 1 (s2.setX d tok)) := by
  show execRvarr d a b s = _
  unfold execRvarr
  dsimp only
  rw [if_neg (not_misalignedAt hva), if_neg (by simp [bits_above hb]), hobj]
  simp only [withRes, List.contains_eq_mem, hmem, decide_true, Bool.not_true, Bool.false_eq_true, if_false, hres, hnow]
  rfl

theorem exec_rvarr_deferred (ch : Fin 4) (hlater : (s.x b).getLsbD 1 = true) (hch : (s.x b).toNat / 4 = ch.val)
    (hroom : (celliReady s (s.x a)).core.chans[ch].out.length < 64) : exec (.rvarr d a b) s =
    complete 4 1 ((arrivalDeferred (forgetFailure (celliReady s (s.x a)) (arrivalToken (celliReady s (s.x a)) (s.x a) pa)) s.cur ch
      (.arrive (s.x a) ((s.x b).getLsbD 0) (BitVec.ofNat 16 (rvGen (object16 (celliReady s (s.x a)) pa)))
        (arrivalToken (celliReady s (s.x a)) (s.x a) pa))).setX d (arrivalToken (celliReady s (s.x a)) (s.x a) pa)) := by
  have channel : bits (s.x b) 3 2 = ch.val := by
    simp only [bits]
    omega
  obtain ⟨k, hk⟩ := ch
  subst channel
  show execRvarr d a b s = _
  unfold execRvarr
  dsimp only
  rw [if_neg (not_misalignedAt hva), if_neg (by simp [bits_above hb]), hobj]
  refine (if_neg (by simp [hmem])).trans ((if_neg (by simp [hres])).trans ?_)
  refine (if_pos hlater).trans ?_
  refine (if_neg (c := (!channelRoom _ _) = true) ?_).trans ?_
  · rw [Bool.not_eq_true', Bool.not_eq_false]
    exact decide_eq_true hroom
  · unfold arrivalDeferred forgetFailure arrivalToken celliReady
    rfl

omit hb in
theorem exec_rvfree : exec (.rvfree d a) s =
    (let s1 := failRendezvous (celliReady s (s.x a)) pa
     let s2 := { s1 with objects := setDrop s1.objects (pa / 16) }
     complete 4 1 (s2.setX d (BitVec.ofNat 64 (rvArrived (object16 s1 pa))))) := by
  show execRvfree d a s = _
  unfold execRvfree
  dsimp only
  rw [if_neg (not_misalignedAt hva), hobj]
  simp only [withRes, List.contains_eq_mem, hmem, decide_true, Bool.not_true, Bool.false_eq_true, if_false, hres]
  rfl

end

theorem exec_rvfree_reserved (hva : (s.x a).toNat % 16 = 0) (hobj : objectPa s (s.x a) Need.atom = .ok pa) (hmem : pa / 16 ∈ s.objects)
    (hres : rvReserved (object16 s pa) = true) : exec (.rvfree d a) s = .next (takeCause s (exc .illegalInstruction 0 (s.x a))) := by
  show execRvfree d a s = _
  unfold execRvfree
  dsimp only
  rw [if_neg (not_misalignedAt hva), hobj]
  simp [withRes, hmem, hres, raise]

theorem exec_rvfree_none (hva : (s.x a).toNat % 16 = 0) (hobj : objectPa s (s.x a) Need.atom = .ok pa) (hmem : pa / 16 ∉ s.objects) :
    exec (.rvfree d a) s = .next (takeCause s (exc .invalidToken 2 (s.x a))) := by
  show execRvfree d a s = _
  unfold execRvfree
  dsimp only
  rw [if_neg (not_misalignedAt hva), hobj]
  simp [withRes, hmem, raise]

end

/-! ### The object after an arrival -/

/-- A rendezvous after one more arrival: the last of its phase starts the next with the other parity (R376). -/
def arrivedRendezvous (v : Nat) : Nat :=
  if rvArrived v + 1 = rvExpect v then putField (putField (putField v 63 32 0) 64 64 (1 - rvPar v)) 79 65 (rvPhase v + 1)
  else putField v 63 32 (rvArrived v + 1)

theorem arrivedRendezvous_lt {v : Nat} (h : v < 2 ^ 128) : arrivedRendezvous v < 2 ^ 128 := by
  unfold arrivedRendezvous
  split
  · exact putField_lt (by decide) (by decide) (putField_lt (by decide) (by decide) (putField_lt (by decide) (by decide) h _) _) _
  · exact putField_lt (by decide) (by decide) h _

theorem rvExpect_arrived (v : Nat) : rvExpect (arrivedRendezvous v) = rvExpect v := by
  unfold arrivedRendezvous
  split
  · exact (fieldOf_putField_below (by decide) (by decide) _ _).trans
      ((fieldOf_putField_below (by decide) (by decide) _ _).trans (fieldOf_putField_below (by decide) (by decide) _ _))
  · exact fieldOf_putField_below (by decide) (by decide) _ _

theorem rvGen_arrived (v : Nat) : rvGen (arrivedRendezvous v) = rvGen v := by
  unfold arrivedRendezvous
  split
  · exact (fieldOf_putField_above (by decide) (by decide) _ _).trans
      ((fieldOf_putField_above (by decide) (by decide) _ _).trans (fieldOf_putField_above (by decide) (by decide) _ _))
  · exact fieldOf_putField_above (by decide) (by decide) _ _

/-- The last arrival of a phase. -/
theorem arrivedRendezvous_last {v : Nat} (h : rvArrived v + 1 = rvExpect v) : rvArrived (arrivedRendezvous v) = 0 ∧
    rvPar (arrivedRendezvous v) = 1 - rvPar v ∧ rvPhase (arrivedRendezvous v) = (rvPhase v + 1) % 32768 := by
  rw [arrivedRendezvous, if_pos h]
  refine ⟨?_, ?_, fieldOf_putField_same (by decide) _ _⟩
  · exact (fieldOf_putField_below (by decide) (by decide) _ _).trans
      ((fieldOf_putField_below (by decide) (by decide) _ _).trans (fieldOf_putField_same (by decide) _ _))
  · refine ((fieldOf_putField_below (by decide) (by decide) _ _).trans (fieldOf_putField_same (by decide) _ _)).trans ?_
    exact Nat.mod_eq_of_lt (by omega)

/-- An arrival before the last. -/
theorem arrivedRendezvous_counted {v : Nat} (h : rvArrived v + 1 ≠ rvExpect v) : rvArrived (arrivedRendezvous v) = (rvArrived v + 1) % 2 ^ 32 ∧
    rvPar (arrivedRendezvous v) = rvPar v ∧ rvPhase (arrivedRendezvous v) = rvPhase v := by
  rw [arrivedRendezvous, if_neg h]
  exact ⟨fieldOf_putField_same (by decide) _ _, fieldOf_putField_above (by decide) (by decide) _ _,
    fieldOf_putField_above (by decide) (by decide) _ _⟩

theorem rvPar_matches {v : Nat} (w : Word) : decide (rvPar v = 1) = w.getLsbD 0 ↔ rvPar v = w.toNat % 2 := by
  have par : rvPar v < 2 := Nat.mod_lt _ (by decide)
  have bit : w.getLsbD 0 = decide (w.toNat % 2 = 1) := by simp [BitVec.getLsbD, Nat.testBit_zero]
  rw [bit, decide_eq_decide]
  omega

section
variable {s : State} {pa : Nat} {w : Word}

theorem arriveAt_wrong (h : rvPar (object16 s pa) ≠ w.toNat % 2) : arriveAt s pa (w.getLsbD 0) = none :=
  if_pos (mt (rvPar_matches w).mp h)

theorem arriveAt_right (hwf : s.memWf) (hspace : spaceOf pa ≠ .control) (hpa : pa % 16 = 0) (h : rvPar (object16 s pa) = w.toNat % 2) :
    ∃ t, arriveAt s pa (w.getLsbD 0) = some t ∧ GranuleWritten pa (arrivedRendezvous (object16 s pa)) s t := by
  have written := homeWrite_value hwf hspace hpa (arrivedRendezvous_lt (object16_lt s pa))
  unfold arrivedRendezvous at written ⊢
  unfold arriveAt
  rw [if_neg (not_not_intro ((rvPar_matches w).mpr h))]
  split at written
  · rw [if_pos ‹_›, if_pos ‹_›]
    exact ⟨_, rfl, written.then hspace hpa (judgeRendezvous_onlyMessages _ pa)⟩
  · rw [if_neg ‹_›, if_neg ‹_›]
    exact ⟨_, rfl, written⟩

end

section
variable {s : State} {pa : Nat} {w : Word} (tok : Word)

theorem arriveAt_forgotten_wrong (h : rvPar (object16 s pa) ≠ w.toNat % 2) : arriveAt (forgetFailure s tok) pa (w.getLsbD 0) = none :=
  arriveAt_wrong (s := forgetFailure s tok) h

theorem arriveAt_forgotten_right (hwf : s.memWf) (hspace : spaceOf pa ≠ .control) (hpa : pa % 16 = 0)
    (h : rvPar (object16 s pa) = w.toNat % 2) :
    ∃ t, arriveAt (forgetFailure s tok) pa (w.getLsbD 0) = some t ∧ GranuleWritten pa (arrivedRendezvous (object16 s pa)) s t := by
  obtain ⟨t, arrives, arrived⟩ := arriveAt_right (s := forgetFailure s tok) hwf hspace hpa h
  exact ⟨t, arrives, arrived.value, arrived.context, arrived.counters⟩

end

theorem sameBytes_trans {s t u : State} (h : SameBytes s t) (g : SameBytes t u) : SameBytes s u :=
  ⟨fun a => (g.mem a).trans (h.mem a), fun a => (g.ctl a).trans (h.ctl a), fun a => (g.pad a).trans (h.pad a),
    fun a => (g.persisted a).trans (h.persisted a)⟩

/-! ### What the forms of a rendezvous leave -/

/-- An instruction that completes after a home has written a granule. -/
theorem granuleWritten_done {s u : State} {pa v : Nat} {d : BitVec 5} {x : Word} (hspace : spaceOf pa ≠ .control) (hpa : pa % 16 = 0)
    (h : GranuleWritten pa v s u) : ∃ t, complete 4 1 (u.setX d x) = .next t ∧ Completed 4 s t ∧ ScalarWritten s t d x ∧
      object16 t pa = v ∧ t.objects = u.objects := by
  obtain ⟨done, result, -, -, bytes⟩ := complete_scalar 4 1 d x u
  exact ⟨_, rfl, done.of_ctx h.context h.counters, result.of_ctx h.context, (object16_congr hspace hpa bytes.mem).trans h.value, by simp⟩

/-! ### Wire barriers (R378-R380) -/

theorem releaseIfComplete_eq (s : State) (n : Nat) : ∃ p, releaseIfComplete s n = { s with pending := p } := by
  unfold releaseIfComplete
  dsimp only
  split
  · exact ⟨_, rfl⟩
  · exact ⟨s.pending, rfl⟩

theorem arriveLine_eq (s : State) (key : Nat × Nat) (par : Bool) (n : Nat) :
    ∃ l p, arriveLine s key par n = { s with lines := l, pending := p } := by
  unfold arriveLine
  obtain ⟨p, h⟩ := releaseIfComplete_eq
    (setLine s { lineOf s n with arrived := if (lineOf s n).arrived.contains (key, par) then (lineOf s n).arrived else (lineOf s n).arrived ++ [(key, par)] }) n
  exact ⟨_, p, h⟩

theorem arriveLines_eq (s : State) (key : Nat × Nat) (ns : List Nat) :
    ∃ l p, ns.foldl (fun (s : State) (n : Nat) => arriveLine s key s.ctx.parity n) s = { s with lines := l, pending := p } := by
  refine List.foldlRecOn (motive := fun t : State => ∃ l p, t = { s with lines := l, pending := p }) ns _ ⟨s.lines, s.pending, rfl⟩
    fun t ht n _ => ?_
  obtain ⟨l, p, rfl⟩ := ht
  obtain ⟨l', p', h⟩ := arriveLine_eq { s with lines := l, pending := p } key s.ctx.parity n
  exact ⟨l', p', h⟩

/-- An arrival changes lines and messages, what the core knows of its task, and the parity. -/
theorem barrierArrive_eq (s : State) : ∃ l p r, (barrierArrive s).2 =
    { s with lines := l, pending := p, ctx := { s.ctx with parity := !s.ctx.parity }, core := { s.core with run := r } } := by
  obtain ⟨l, p, h⟩ := arriveLines_eq s s.taskKey (linesOfMask s.cur s.ctx.bwmask)
  unfold barrierArrive
  dsimp only
  rw [h]
  exact ⟨l, p, _, rfl⟩

section
variable {s : State} {d : BitVec 5}

/-- A wire-barrier arrival of a party with no arrival before it. -/
theorem exec_barw_arrives (h : s.inService = false → ∀ x, s.core.run.task = some x → x.arrival = none) :
    exec (.barw d) s = complete 4 1 ((barrierArrive s.publish).2.setX d (barrierArrive s.publish).1) := by
  show execBarw d s = _
  unfold execBarw
  by_cases hservice : s.inService = true
  · simp [hservice]
  · rw [Bool.not_eq_true] at hservice
    cases htask : s.core.run.task with
    | none => simp [hservice, htask]
    | some x => simp [hservice, htask, h hservice x htask]

/-- The count of a barrier's wait that goes on stays. -/
theorem renewBarrier_counting {x : TaskInfo} {tok dl : Word} (hx : s.core.run.task = some x) (harrival : x.arrival = some (tok, dl))
    (hdl : dl ≠ 0) : renewBarrier s [tok] = s := by
  have kept : ∀ h : TaskInfo, (if [tok].contains tok ∧ dl = 0 then h else x) = x := fun h => if_neg fun e => hdl e.2
  unfold renewBarrier
  cases hrun : s.core.run with
  | idle => rw [Run.mapTask, ← hrun]
  | running t =>
    rw [hrun] at hx
    cases hx
    simp only [Run.mapTask, harrival, kept]
    rw [← hrun]
  | stalled t p w =>
    rw [hrun] at hx
    cases hx
    simp only [Run.mapTask, harrival, kept]
    rw [← hrun]

/-- While the arrival before it is unreleased a barw waits, until its time has run out. -/
theorem exec_barw_held {x : TaskInfo} {tok dl : Word} (hservice : s.inService = false) (hx : s.core.run.task = some x)
    (harrival : x.arrival = some (tok, dl)) (hready : tokenReady s (x.asks s.cur) tok = none) (hdl : dl ≠ 0) :
    exec (.barw d) s = if dl.toNat ≤ s.cyc.toNat then
      raise { s with core := { s.core with run := s.core.run.mapTask (fun t => expireBarrier t tok) } } (exc .barrierTimeout 0 tok)
    else waitHere s := by
  show execBarw d s = _
  unfold execBarw
  simp [hservice, hx, harrival, renewBarrier_counting hx harrival hdl, hready]

end

/-! ### The claim -/

section
variable {s : State} {d a b : BitVec 5} {pa : Nat} (hva : (s.x a).toNat % 16 = 0) (hobj : objectPa s (s.x a) Need.atom = .ok pa)
include hva hobj

theorem rvinit_makes (hwf : s.memWf) (hspace : spaceOf pa ≠ .control) (hpa : pa % 16 = 0) (hzero : s.x b ≠ 0) (hb : (s.x b).toNat < 2 ^ 32) :
    ∃ t, exec (.rvinit d a b) s = .next t ∧ Completed 4 (celliReady s (s.x a)) t ∧ ScalarWritten s t d 0 ∧
      rvExpect (object16 t pa) = (s.x b).toNat ∧ rvArrived (object16 t pa) = 0 ∧ rvPar (object16 t pa) = 0 ∧
      rvPhase (object16 t pa) = 0 ∧ rvGen (object16 t pa) = (rvGen (object16 (celliReady s (s.x a)) pa) + 1) % 65536 ∧
      pa / 16 ∈ t.objects := by
  have keeps := celliReady_keeps s (s.x a)
  have made := rendezvousMade_granule (keeps.form hwf) hspace hpa hb
  obtain ⟨t, run, done, written, value, objects⟩ := granuleWritten_done (d := d) (x := 0) hspace hpa made
  obtain ⟨he, ha, hp, hph, hg⟩ := newRendezvous_fields hb
    (Nat.mod_lt (rvGen (object16 (celliReady s (s.x a)) pa) + 1) (Nat.succ_pos 65535))
  rw [← value] at he ha hp hph hg
  exact ⟨t, (exec_rvinit hva hobj hzero hb).trans run, done, written.of_ctx keeps.ctx, he, ha, hp, hph, hg, objects ▸ mem_setAdd _ _⟩

section
variable (hmem : pa / 16 ∈ s.objects) (hb : (s.x b).toNat < 16) (hres : rvReserved (object16 s pa) = false)
include hmem hb hres

theorem rvarr_arrives (hwf : s.memWf) (hspace : spaceOf pa ≠ .control) (hpa : pa % 16 = 0) (hnow : (s.x b).getLsbD 1 = false)
    (hpar : rvPar (object16 (celliReady s (s.x a)) pa) = (s.x b).toNat % 2) :
    let v := object16 (celliReady s (s.x a)) pa
    ∃ t, exec (.rvarr d a b) s = .next t ∧ Completed 4 (celliReady s (s.x a)) t ∧
      ScalarWritten s t d (arrivalToken (celliReady s (s.x a)) (s.x a) pa) ∧
      rvExpect (object16 t pa) = rvExpect v ∧ rvGen (object16 t pa) = rvGen v ∧
      (rvArrived v + 1 = rvExpect v → rvArrived (object16 t pa) = 0 ∧ rvPar (object16 t pa) = 1 - rvPar v ∧
        rvPhase (object16 t pa) = (rvPhase v + 1) % 32768) ∧
      (rvArrived v + 1 ≠ rvExpect v → rvArrived (object16 t pa) = (rvArrived v + 1) % 2 ^ 32 ∧ rvPar (object16 t pa) = rvPar v ∧
        rvPhase (object16 t pa) = rvPhase v) := by
  have keeps := celliReady_keeps s (s.x a)
  have form := keeps.form hwf
  have context := keeps.ctx
  have run := exec_rvarr_now (d := d) hva hobj hmem hb hres hnow
  generalize celliReady s (s.x a) = s0 at form context run hpar ⊢
  obtain ⟨u, arrives, arrived⟩ := arriveAt_forgotten_right (arrivalToken s0 (s.x a) pa) form hspace hpa hpar
  obtain ⟨t, ends, done, written, value, -⟩ := granuleWritten_done (d := d) (x := arrivalToken s0 (s.x a) pa) hspace hpa arrived
  simp only [arrives] at run
  refine ⟨t, run.trans ends, done, written.of_ctx context, ?_⟩
  rw [value]
  exact ⟨rvExpect_arrived _, rvGen_arrived _, arrivedRendezvous_last, arrivedRendezvous_counted⟩

theorem rvarr_wrong (hnow : (s.x b).getLsbD 1 = false) (hpar : rvPar (object16 (celliReady s (s.x a)) pa) ≠ (s.x b).toNat % 2) :
    exec (.rvarr d a b) s = .next (takeCause (forgetFailure (celliReady s (s.x a)) (arrivalToken (celliReady s (s.x a)) (s.x a) pa))
      (exc .rendezvousPhaseError 0 (s.x a))) := by
  have run := exec_rvarr_now (d := d) hva hobj hmem hb hres hnow
  generalize celliReady s (s.x a) = s0 at run hpar ⊢
  simp only [arriveAt_forgotten_wrong _ hpar] at run
  exact run

theorem rvarr_deferred (ch : Fin 4) (hlater : (s.x b).getLsbD 1 = true) (hch : (s.x b).toNat / 4 = ch.val)
    (hroom : (celliReady s (s.x a)).core.chans[ch].out.length < 64) :
    ∃ t, exec (.rvarr d a b) s = .next t ∧ Completed 4 (celliReady s (s.x a)) t ∧
      ScalarWritten s t d (arrivalToken (celliReady s (s.x a)) (s.x a) pa) ∧ SameBytes (celliReady s (s.x a)) t ∧
      t.core.chans[ch].nextId = (celliReady s (s.x a)).core.chans[ch].nextId + 1 ∧
      t.pending = (celliReady s (s.x a)).pending ++ [.deferredArrival s.cur ch.val (celliReady s (s.x a)).core.chans[ch].nextId.toNat] := by
  refine ⟨_, exec_rvarr_deferred hva hobj hmem hb hres ch hlater hch hroom, ?_⟩
  have context := (celliReady_keeps s (s.x a)).ctx
  generalize celliReady s (s.x a) = s0 at context ⊢
  generalize arrivalToken s0 (s.x a) pa = tok
  generalize Job.arrive _ _ _ tok = job
  obtain ⟨done, result, -, -, bytes⟩ := complete_scalar 4 1 d tok (arrivalDeferred (forgetFailure s0 tok) s.cur ch job)
  have channel := arrivalDeferred_channel (forgetFailure s0 tok) s.cur ch job
  refine ⟨⟨done.pc, done.counted⟩, result.of_ctx context, ⟨bytes.mem, bytes.ctl, bytes.pad, bytes.persisted⟩, ?_, by simp; rfl⟩
  simp only [State.retire_core_chans, State.advance_core, State.setX_core, channel]
  rfl

end

theorem rvfree_frees (hmem : pa / 16 ∈ s.objects) (hspace : spaceOf pa ≠ .control) (hpa : pa % 16 = 0)
    (hres : rvReserved (object16 s pa) = false) : ∃ t, exec (.rvfree d a) s = .next t ∧ Completed 4 (celliReady s (s.x a)) t ∧
      SameBytes (celliReady s (s.x a)) t ∧ ScalarWritten s t d (BitVec.ofNat 64 (rvArrived (object16 (celliReady s (s.x a)) pa))) ∧
      pa / 16 ∉ t.objects := by
  have keeps := celliReady_keeps s (s.x a)
  have messages := failRendezvous_onlyMessages (celliReady s (s.x a)) pa
  have same : object16 (failRendezvous (celliReady s (s.x a)) pa) pa = object16 (celliReady s (s.x a)) pa :=
    object16_congr hspace hpa fun a => by rw [messages.mem]
  refine ⟨_, exec_rvfree hva hobj hmem hres, ?_⟩
  rw [same]
  generalize rvArrived (object16 (celliReady s (s.x a)) pa) = n
  have result := complete_scalar 4 1 d (BitVec.ofNat 64 n)
    { failRendezvous (celliReady s (s.x a)) pa with objects := setDrop (failRendezvous (celliReady s (s.x a)) pa).objects (pa / 16) }
  have bytes := messages.sameMems.bytes
  have freed := result.bytes
  have counted : Completed 4 (failRendezvous (celliReady s (s.x a)) pa) _ := ⟨result.done.pc, result.done.counted⟩
  refine ⟨counted.of_ctx messages.ctx (by rw [messages.core]), ?_, result.result.of_ctx (messages.ctx.trans keeps.ctx), by simp [setDrop]⟩
  exact sameBytes_trans bytes ⟨freed.mem, freed.ctl, freed.pad, freed.persisted⟩

end

/-- Settles O47: an access comes to its object in a state that keeps the register set, and the home then writes the granule or refuses;
a barw arrives on its lines where no arrival stands. -/
theorem rendezvousAndBarriers : Obligations.RendezvousAndBarriers := by
  refine ⟨fun s d a b pa hwf hva hobj hspace hpa => ?_, fun s d => ⟨fun hnone => ?_, fun x tok dl hservice hx harrival hready hdl => ?_⟩⟩
  · refine ⟨rvinit_makes hva hobj hwf hspace hpa, fun hmem hb hres =>
      ⟨exec_rvarr_reserved hva hobj hmem hb hres, exec_rvfree_reserved hva hobj hmem hres⟩, fun hmem hb hres => ⟨?_, ?_, ?_, ?_⟩,
      exec_rvfree_none hva hobj⟩
    · exact rvarr_arrives hva hobj hmem hb hres hwf hspace hpa
    · exact rvarr_wrong hva hobj hmem hb hres
    · exact rvarr_deferred hva hobj hmem hb hres
    · exact rvfree_frees hva hobj hmem hspace hpa hres
  · obtain ⟨l, p, r, arrived⟩ := barrierArrive_eq s.publish
    have keeps := publish_keeps s
    have token : (barrierArrive s.publish).1 = barrierToken s.cur s.ctx.parity s.ctx.bwmask := by
      rw [← keeps.ctx, ← keeps.cur]
      rfl
    have run := exec_barw_arrives (d := d) hnone
    rw [token, arrived] at run
    refine ⟨_, run, ?_⟩
    obtain ⟨done, result, context, -, bytes⟩ := complete_scalar 4 1 d (barrierToken s.cur s.ctx.parity s.ctx.bwmask)
      { s.publish with lines := l, pending := p, ctx := { s.publish.ctx with parity := !s.publish.ctx.parity },
                       core := { s.publish.core with run := r } }
    refine ⟨⟨done.pc, done.counted⟩, ⟨bytes.mem, bytes.ctl, bytes.pad, bytes.persisted⟩, ?_, fun q => (result q).trans ?_, ?_⟩
    · rw [context, keeps.ctx]
    · rw [State.x, State.x, keeps.ctx]
      rfl
    · rw [context, keeps.ctx]
  · rw [renewBarrier_counting hx harrival hdl]
    intro s0 y dl0 hy hdl0
    cases hx.symm.trans hy
    cases harrival.symm.trans hdl0
    exact ⟨fun hwait => (exec_barw_held hservice hx harrival hready hdl).trans (if_neg (by omega)),
      fun hover => (exec_barw_held hservice hx harrival hready hdl).trans (if_pos hover)⟩

end Sys2Proof.Machine
end


section
/-! SUPPORT. The claim about gathers (O54): what writing a group as one number leaves, and the gather where no well holds a register that it
names (R355-R357). -/

namespace Sys2Proof.Machine

/-! ### A group written as one number (R109) -/

theorem getV_setGroupBits_out {v n k : Nat} (c : Ctx) (x : Nat) (h : k < v ∨ v + n ≤ k) : (setGroupBits c v n x).getV k = c.getV k := by
  induction n generalizing c v x with
  | zero => rfl
  | succ n ih => exact (ih (c.setV v (BitVec.ofNat 4096 x)) (x / 2 ^ 4096) (by omega)).trans (Ctx.getV_setV_ne _ _ (by omega))

theorem getV_setGroupBits_in {v n j : Nat} (c : Ctx) (x : Nat) (hj : j < n) (hv : v + n ≤ 64) :
    (setGroupBits c v n x).getV (v + j) = BitVec.ofNat 4096 (x / 2 ^ (4096 * j)) := by
  induction n generalizing c v x j with
  | zero => omega
  | succ n ih =>
    cases j with
    | zero =>
      rw [setGroupBits, getV_setGroupBits_out _ _ (by omega), Nat.add_zero, Ctx.getV_setV_same _ _ (by omega), Nat.mul_zero, Nat.pow_zero,
        Nat.div_one]
    | succ j =>
      have next := ih (v := v + 1) (j := j) (c.setV v (BitVec.ofNat 4096 x)) (x / 2 ^ 4096) (by omega) (by omega)
      rw [Nat.div_div_eq_div_mul, ← pow_add] at next
      rw [setGroupBits, Nat.mul_succ, Nat.add_comm (4096 * j), Nat.add_comm j, ← Nat.add_assoc]
      exact next

/-- Each element of a group written as one number is its bits of the number. -/
theorem elem_setGroupBits {v n w k : Nat} (c : Ctx) (x : Nat) (hw : w ∣ 4096) (hk : k * w < n * 4096) (hv : v + n ≤ 64) :
    (setGroupBits c v n x).elem v w k = x / 2 ^ (k * w) % 2 ^ w := by
  have hj : k * w / 4096 < n := Nat.div_lt_of_lt_mul (by omega)
  refine Nat.eq_of_testBit_eq fun b => ?_
  rw [testBit_elem, getV_setGroupBits_in c x hj hv, Nat.testBit_mod_two_pow]
  by_cases hb : b < w
  · have inside := elem_inside hw k
    rw [BitVec.getLsbD_ofNat, Nat.testBit_div_two_pow, Nat.testBit_div_two_pow]
    have bit : k * w % 4096 + b + 4096 * (k * w / 4096) = b + k * w := by omega
    rw [bit, decide_eq_true (show k * w % 4096 + b < 4096 by omega), Bool.true_and]
  · simp [hb]

theorem setGroupBits_ctx (c : Ctx) (v n x : Nat) : WritesOnly [(v, n)] c (setGroupBits c v n x) := by
  refine ⟨fun k hk => getV_setGroupBits_out c x ?_, ?_⟩
  · have := hk (v, n) (by simp)
    unfold inGroup at this
    omega
  · clear * -
    induction n generalizing c v x with
    | zero => rfl
    | succ n ih =>
      rw [setGroupBits, ih]
      rfl

/-- A group that an instruction may name lies in the register file. -/
theorem groupHere_fits {s : State} {v : BitVec 6} {n : Nat} (h : groupHere s v n = true) : v.toNat + n ≤ 64 := by
  simp only [groupHere, vecHere, Bool.and_eq_true] at h
  obtain ⟨-, h⟩ := h
  split at h <;> simp at h <;> omega

/-! ### Reads of a gather -/

theorem spanSeen_keepsOwn {n span : Nat} {s t : State} {seen seen' : List Nat} {va : Word} {bs : List Byte}
    (h : spanSeen n s seen va span = .ok (bs, t, seen')) : s.KeepsOwn t := by
  induction n generalizing s seen va span bs with
  | zero => cases h; exact .refl _
  | succ n ih =>
    unfold spanSeen at h
    split at h
    · cases h; exact .refl _
    · dsimp only at h
      split at h
      · cases h
      · rename_i hread
        split at h
        · cases h
        · rename_i hrest
          cases h
          unfold readSeen at hread
          dsimp only at hread
          split at hread
          · cases hread
          · rename_i hline
            cases hread
            exact (readAs_keepsOwn hline).trans (ih hrest)

theorem gatherBytes_keepsOwn {span acc v : Nat} {l : List TokenAt} {s t : State} {seen seen' : List Nat}
    (h : gatherBytes span l s seen acc = .ok (v, t, seen')) : s.KeepsOwn t := by
  induction l generalizing s seen acc with
  | nil => cases h; exact .refl _
  | cons a l ih =>
    unfold gatherBytes at h
    split at h
    · cases h
    · exact (spanSeen_keepsOwn ‹_›).trans (ih h)

theorem gatherReads_keeps (form : GatherForm) (p : Pool) (es : List Entry) (s : State) : s.Keeps (gatherReads form p es s) := by
  unfold gatherReads
  refine (reads_tends s _ _ _).keeps.trans (State.Keeps.foldl (fun (s : State) (e : Entry) => ?_) _ es)
  split
  · dsimp only
    split
    · exact (reads_tends ..).keeps
    · exact ((reads_tends ..).keeps).trans (reads_tends ..).keeps
  · exact .refl s

/-! ### The gather -/

theorem gatherTable_runs {i : Instr} {form : GatherForm} {d : BitVec 6} {b : BitVec 5} {e : BitVec 6} {m : BitVec 1}
    (h : gatherTable i = some (form, d, b, e, m)) (s : State) : ∃ word, exec i s = kvGather form d b e m word s := by
  cases i with
  | kvg | kvgStale | kvgRep | kvgAny => cases h; exact ⟨_, rfl⟩
  | _ => cases h

section
variable {s : State} {form : GatherForm} {d : BitVec 6} {b : BitVec 5} {e : BitVec 6} {m : BitVec 1}

theorem bits_clear {w : Word} (h : w.toNat < 2 ^ 61) : bits w 63 61 = 0 := by
  simp only [bits]
  omega

/-- A whole-vector instruction under p0 with VSTART below VL has active elements. -/
theorem anyActive_whole {c : Ctx} {o : VOp} (hpred : o.pred = 0) (hpinv : o.pinv = false) (hselect : o.select = false)
    (hwhole : o.whole = true) (h : c.vstart.toNat < c.vl.toNat) : c.anyActive o = true := by
  have pos : 0 < c.vl.toNat := by omega
  rw [Ctx.anyActive, hselect, if_neg Bool.false_ne_true, List.any_eq_true]
  exact ⟨0, List.mem_range.mpr pos, by simp [Ctx.active, Ctx.firstElem, Ctx.governs, Ctx.getP, hpred, hpinv, hwhole, h, pos]⟩

/-- A gather whose fields are allowed and whose registers no well holds goes on to its entries. -/
theorem kvGather_allowed (word : Nat) (hservice : s.inService = false) (hsew : s.ctx.sew = 64) (heven : s.ctx.vl.toNat % 2 = 0)
    (hstart : s.ctx.vstart.toNat < s.ctx.vl.toNat) (hox : (s.ctx.getOx 6).toNat < 2 ^ 61) (hspan : (gatherOf (s.ctx.getOx 6)).span ≠ 0)
    (hspan8 : (gatherOf (s.ctx.getOx 6)).span % 8 = 0) (hfits : (gatherOf (s.ctx.getOx 6)).span ≤ s.ctx.group * 512)
    (hd : groupHere s d s.ctx.group = true) (he : groupHere s e s.ctx.group = true)
    (hapart : disjointGroups (s.ctx.dest d) (s.ctx.dest e) = true) (hw : WellsAside s ⟨[s.ctx.dest d], [s.ctx.dest e], 0, none⟩) :
    kvGather form d b e m word s = gather form d.toNat (gatherOf (s.ctx.getOx 6)) (s.x b) m.toNat e.toNat s := by
  have pos : s.ctx.vl.toNat ≠ 0 := by omega
  have wells : s.ctx.wellsRead [(e.toNat, s.ctx.group)] = [] := wellsRead_aside hw (by simp [Ctx.dest])
  unfold kvGather
  dsimp only
  rw [whenOk_of (by simp [State.hasOx, hservice, hsew, heven, pos, bits_clear hox, hspan, hspan8, hfits, hd, he, hapart]),
    destBound_aside hw (by simp) rfl, anyActive_whole rfl rfl rfl rfl hstart, wells]
  simp only [Bool.false_eq_true, if_false, Bool.not_true, wellsReady_none]
  rw [landSources_aside hw _ _ _ (by simp [Ctx.table, Ctx.dest, Source.inside])]

section
variable {p : Pool} {g : Gather} {kv : Nat} (hu : Undisturbed s) (halign : (s.x b).toNat % 64 = 0)
  (hpool : getPool s s.party (s.x b) Need.object = .ok p)
include hu halign hpool

theorem gather_rows {l : List TokenAt} {v : Nat} {s1 : State} {seen : List Nat}
    (hw : WellsAside s ⟨[s.ctx.dest d], [s.ctx.dest e], 0, none⟩)
    (hplan : gatherPlan s form p g kv e.toNat (g.tokens s.ctx.group) (s.ctx.vl.toNat / 2) 0 0 = .ok (.inl l))
    (hpeer : l.findSome? (spanPeer s g.span) = none)
    (hread : gatherBytes g.span l (gatherReads form p (gatheredEntries s e.toNat g.pos (g.tokens s.ctx.group) (s.ctx.vl.toNat / 2) 0 0) s) [] 0
      = .ok (v, s1, seen)) : gather form d.toNat g (s.x b) kv e.toNat s
      = .next (vectorFinished (s.ctx.vl.toNat * s.ctx.group) (setGroupBits s1.ctx d.toNat s.ctx.group v, Flags.none) s1) := by
  have wells : s.ctx.wellsRead [(e.toNat, s.ctx.group)] = [] := wellsRead_aside hw (by simp [Ctx.dest])
  simp only [gather, strike_undisturbed hu, if_neg (not_misalignedAt halign), hpool, hplan, hpeer, hread, wells, vectorDone_next]

theorem gather_parks {k : Desc} (hplan : gatherPlan s form p g kv e.toNat (g.tokens s.ctx.group) (s.ctx.vl.toNat / 2) 0 0 = .ok (.inr k)) :
    gather form d.toNat g (s.x b) kv e.toNat s = .next (parkOnRepair (s.reads s.party k.va 16) k g.layer) := by
  simp only [gather, strike_undisturbed hu, if_neg (not_misalignedAt halign), hpool, hplan]

theorem gather_peerFault {l : List TokenAt} {x : Exc}
    (hplan : gatherPlan s form p g kv e.toNat (g.tokens s.ctx.group) (s.ctx.vl.toNat / 2) 0 0 = .ok (.inl l))
    (hpeer : l.findSome? (spanPeer s g.span) = some x) :
    gather form d.toNat g (s.x b) kv e.toNat s = .next (takeCause { s with ctx := { s.ctx with vstart := 0 } } x) := by
  simp only [gather, strike_undisturbed hu, if_neg (not_misalignedAt halign), hpool, hplan, hpeer, raise]

end

end

/-- Settles O54: a gather of the table whose fields are allowed is `gather`, which goes on, parks or faults as its plan says. -/
theorem gatherForms : Obligations.GatherForms := by
  intro s i form d b e m p htable g G hservice hsew heven _ hstart hox hspan hspan8 hfits hd he hapart hw hu halign hpool
  obtain ⟨word, run⟩ := gatherTable_runs htable s
  have allowed := run.trans (kvGather_allowed word hservice hsew heven hstart hox hspan hspan8 hfits hd he hapart hw)
  refine ⟨fun l v s1 seen hplan hpeer hread => ?_, fun k hplan => allowed.trans (gather_parks hu halign hpool hplan),
    fun l x hplan hpeer => allowed.trans (gather_peerFault hu halign hpool hplan hpeer)⟩
  have own := (gatherReads_keeps form p _ s).own.trans (gatherBytes_keepsOwn hread)
  obtain ⟨done, vstart, vectors, -, -, context, -, bytes⟩ := vectorFinished_done (sh := ⟨[s.ctx.dest d], [], 0, none⟩)
    (s.ctx.vl.toNat * s.ctx.group) (r := (setGroupBits s1.ctx d.toNat s.ctx.group v, Flags.none)) (setGroupBits_ctx s1.ctx d.toNat s.ctx.group v)
  refine ⟨_, allowed.trans (gather_rows hu halign hpool hw hplan hpeer hread), done, bytes, vstart, ?_, fun k hk hout => ?_, fun k hk => ?_⟩
  · rw [vectorFinished_ctx, (setGroupBits_ctx s1.ctx d.toNat s.ctx.group v).rest, own.ctx]
    rfl
  · have outside : ∀ r ∈ [s.ctx.dest d], ¬(r.1 ≤ k ∧ k < r.1 + r.2) := by
      simp only [List.mem_singleton, forall_eq, Ctx.dest]
      omega
    rw [vectors k hk outside, own.ctx]
    rfl
  · rw [vectorFinished_elem, Nat.mul_comm 64]
    exact elem_setGroupBits s1.ctx v (by decide) hk (groupHere_fits hd)

end Sys2Proof.Machine
end


section
/-! SUPPORT. The soft errors that instructions have still to meet (R17) are as before after stores at their points of order, releases and
reads. -/

namespace Sys2Proof.Machine

/-- The soft errors still to be met are the same. -/
structure State.SameStrikes (s t : State) : Prop where
  strikes : t.strikes = s.strikes

namespace State.SameStrikes
variable {s t u : State}

theorem refl (s : State) : s.SameStrikes s := ⟨rfl⟩

theorem trans (h : s.SameStrikes t) (g : t.SameStrikes u) : s.SameStrikes u := ⟨g.strikes.trans h.strikes⟩

/-- `trans` with the later change first, which fixes the state between them. -/
theorem after (g : t.SameStrikes u) (h : s.SameStrikes t) : s.SameStrikes u := h.trans g

theorem foldl {α : Type} {f : State → α → State} (hf : ∀ (s : State) (a : α), s.SameStrikes (f s a)) (s : State) (l : List α) :
    s.SameStrikes (l.foldl f s) :=
  List.foldlRecOn l f (refl s) fun t h a _ => h.trans (hf t a)

end State.SameStrikes

theorem State.OnlyMessages.sameStrikes {s t : State} (h : s.OnlyMessages t) : s.SameStrikes t := ⟨by rw [h.rest]⟩

/-! ### Other cores -/

theorem setCore_strikes (s : State) (c : Nat) (k : Core) : s.SameStrikes (s.setCore c k) := by
  unfold State.setCore
  split <;> exact ⟨rfl⟩

theorem switchTo_strikes (s : State) (c : Nat) : s.SameStrikes (s.switchTo c) := by
  unfold State.switchTo
  split <;> exact ⟨rfl⟩

theorem onCore_strikes (s : State) (c : Nat) {f : State → State} (hf : ∀ s : State, s.SameStrikes (f s)) : s.SameStrikes (s.onCore c f) :=
  ((switchTo_strikes s c).trans (hf _)).trans (switchTo_strikes _ _)

theorem blame_strikes (s : State) (core serial tid : Nat) (d : Cause × Nat × Word) : s.SameStrikes (s.blame core serial tid d) := by
  unfold State.blame
  split
  · exact setCore_strikes _ _ _
  · exact ⟨rfl⟩

/-! ### Writes at their points of order -/

theorem rotateIfLive_strikes (old s : State) (pa n : Nat) : s.SameStrikes (rotateIfLive old s pa n) := by
  unfold rotateIfLive
  dsimp only
  split
  · refine .foldl (fun s p => ?_) _ _
    split
    · exact .foldl (f := rotateSlot p) (fun s k => ⟨rfl⟩) _ _
    · exact .refl s
  · exact .refl s

theorem writeThrough_strikes (keep : Option Nat) (s : State) (pa : Nat) (bs : List Byte) : s.SameStrikes (writeThrough keep s pa bs) := by
  unfold writeThrough
  split
  · exact (rotateIfLive_strikes s _ pa bs.length).after ⟨rfl⟩
  · exact ((dropRemote_onlyMessages s keep pa bs.length).trans
      (recall_onlyMessages _ (pa / 128) ((pa + bs.length - 1) / 128 + 1 - pa / 128))).sameStrikes.trans ⟨rfl⟩

theorem homeWrite_strikes (s : State) (pa : Nat) (bs : List Byte) : s.SameStrikes (homeWrite s pa bs) := by
  have written : s.SameStrikes (physWrite s pa bs) := (writeThrough_strikes none s pa bs).trans ⟨rfl⟩
  unfold homeWrite
  dsimp only
  split
  · exact written.trans ⟨rfl⟩
  · exact written

theorem endResvBy_strikes (s : State) (core serial tid pa n : Nat) : s.SameStrikes (s.endResvBy core serial tid pa n) := by
  unfold State.endResvBy
  split <;> exact ⟨rfl⟩

theorem restamp_strikes (old : State) (pa n serial tid : Nat) (stamp : Option Clock) (s : State) :
    s.SameStrikes (restamp old pa n serial tid stamp s) := by
  unfold restamp
  split
  · exact ⟨rfl⟩
  · split <;> exact ⟨rfl⟩

theorem storeArrival_strikes (old : State) (core serial tid pa n m : Nat) (bs : List Byte) (stamp : Option Clock) (s : State) :
    s.SameStrikes (restamp old pa n serial tid stamp (storeWrite (s.endResvBy core serial tid pa m) pa bs)) :=
  ((endResvBy_strikes s core serial tid pa m).trans (writeThrough_strikes _ _ pa bs)).trans (restamp_strikes _ _ _ _ _ _ _)

/-! ### Presence stores -/

theorem settleGroup_strikes (s : State) (g : Nat × Nat) : s.SameStrikes (settleGroup s g) := by
  unfold settleGroup
  dsimp only
  split
  · exact ⟨rfl⟩
  · exact (State.SameStrikes.foldl (f := fun s k => setPadPoison s (4 * g.1 + k) false) (fun s k => ⟨rfl⟩) s (List.range 4)).trans ⟨rfl⟩

theorem settleFlips_strikes (s : State) (core pan : Nat) : s.SameStrikes (settleFlips s core pan) := by
  unfold settleFlips
  dsimp only
  split
  · exact .refl s
  · exact (State.SameStrikes.foldl settleGroup_strikes _ _).after ⟨rfl⟩

theorem armRetention_strikes (s : State) (core pan : Nat) : s.SameStrikes (armRetention s core pan) := by
  unfold armRetention
  split <;> exact ⟨rfl⟩

theorem wakePan_strikes (s : State) (core pan : Nat) : s.SameStrikes (wakePan s core pan) :=
  ((settleFlips_strikes s core pan).trans (setCore_strikes _ core _)).trans (armRetention_strikes _ _ _)

theorem landPresence_strikes (s : State) (core off : Nat) (v : Word) : s.SameStrikes (landPresence s core off v) :=
  (wakeWaiters_onlyMessages _ _ _).sameStrikes.after ⟨rfl⟩

theorem refuseFlight_strikes (s : State) (f : Flight) (k : Nat) : s.SameStrikes (refuseFlight s f k) := by
  unfold refuseFlight
  split
  · exact ⟨rfl⟩
  · exact blame_strikes s _ _ _ _

theorem landFlight_strikes (s : State) (f : Flight) : s.SameStrikes (landFlight s f) := by
  have arrived (u : State) : u.SameStrikes (match arrivalRefusal u f with
      | some k => refuseFlight u f k
      | none => landPresence (wakePan u f.core (f.off / 65536)) f.core f.off f.value) := by
    split
    · exact refuseFlight_strikes u f _
    · exact (wakePan_strikes u _ _).trans (landPresence_strikes _ _ _ _)
  unfold landFlight
  dsimp only
  refine State.SameStrikes.trans ?_ (arrived _)
  split
  · exact (receive_onlyMessages _ _ _ _).sameStrikes.after ⟨rfl⟩
  · exact ⟨rfl⟩

/-! ### The store buffer and the durable tier -/

theorem stampStore_strikes (s : State) (b : Buffered) : s.SameStrikes (stampStore s b) := by
  unfold stampStore
  split
  · exact .refl s
  · have bump : s.SameStrikes (s.bumpClock (dieOf s.cur)) := ⟨rfl⟩
    dsimp only
    split
    · exact (bump.trans (.foldl landFlight_strikes _ _)).trans (receive_onlyMessages _ _ _ _).sameStrikes
    · exact bump

theorem sendStore_strikes (s : State) (b : Buffered) : s.SameStrikes (sendStore s b) := by
  unfold sendStore
  dsimp only
  refine (stampStore_strikes s b).trans ?_
  split
  · exact ⟨rfl⟩
  · split
    · exact blame_strikes _ _ _ _ _
    · exact storeArrival_strikes _ _ _ _ _ _ _ _ _ _

theorem sendAll_strikes (s : State) (l : List Buffered) : s.SameStrikes (sendAll s l) := by
  induction l generalizing s with
  | nil => exact .refl s
  | cons b l ih => exact (sendStore_strikes s b).trans (ih _)

theorem acceptDurable_strikes (s : State) (d : Durable) : s.SameStrikes (acceptDurable s d) := by
  unfold acceptDurable
  split
  · exact (blame_strikes _ _ _ _ _).after ⟨rfl⟩
  · exact (onCore_strikes s d.core fun u =>
      storeArrival_strikes u d.core d.serial d.tid d.pa d.bytes.length d.bytes.length d.bytes d.stamp u).trans ⟨rfl⟩

theorem acceptAll_strikes (s : State) (l : List Durable) : s.SameStrikes (acceptAll s l) := by
  induction l generalizing s with
  | nil => exact .refl s
  | cons d l ih =>
    refine State.SameStrikes.trans ?_ (ih _)
    split
    · exact .refl s
    · exact acceptDurable_strikes s d

theorem publish_strikes (s : State) : s.SameStrikes s.publish := by
  have drained : s.SameStrikes s.drain := (sendAll_strikes _ _).after ⟨rfl⟩
  exact (drained.trans (acceptAll_strikes _ _)).trans (.foldl landFlight_strikes _ _)

theorem ordered_strikes (scope : Nat) (s : State) : s.SameStrikes (ordered scope s) := by
  have persisted (u : State) : u.SameStrikes u.persistAll := (acceptAll_strikes u u.durable).trans ⟨rfl⟩
  unfold ordered
  split
  · exact (publish_strikes s).trans (persisted _)
  · exact publish_strikes s

theorem beforeStore_strikes (s : State) : s.SameStrikes (beforeStore s) := by
  unfold beforeStore
  split
  · exact .refl s
  · exact ordered_strikes _ s

theorem atomicBefore_strikes (order scope : BitVec 2) (s : State) : s.SameStrikes (atomicBefore order scope s) := by
  unfold atomicBefore
  split
  · exact ordered_strikes _ s
  · exact beforeStore_strikes s

/-! ### What a load waits for (R235, R249) -/

theorem combineOne_strikes (s : State) (c : Collected) : s.SameStrikes (combineOne s c) := by
  unfold combineOne
  dsimp only
  split
  · exact blame_strikes s _ _ _ _
  · split
    · exact .refl s
    · split
      · exact onCore_strikes s _ fun u => (endResvBy_strikes u _ _ _ _ _).trans (homeWrite_strikes _ _ _)
      · exact .refl s

theorem combineAll_strikes (k : Nat) (s : State) (l : List Collected) : s.SameStrikes (combineAll k s l) := by
  induction k generalizing s l with
  | zero => exact .refl s
  | succ k ih =>
    cases l with
    | nil => exact .refl s
    | cons r l => exact (ih _ _).after ((combineOne_strikes _ _).after ⟨rfl⟩)

theorem combineWhere_strikes (p : Collected → Bool) (s : State) : s.SameStrikes (combineWhere p s) := by
  unfold combineWhere
  split
  · exact .refl s
  · exact (combineAll_strikes _ _ _).after ⟨rfl⟩

theorem publishWhere_strikes (s : State) (sel : Buffered → Bool) : s.SameStrikes (s.publishWhere sel) := by
  unfold State.publishWhere
  exact (acceptAll_strikes _ _).after ((sendAll_strikes _ _).after ⟨rfl⟩)

theorem beforeLoad_strikes (s : State) (vec : Bool) (pa n : Nat) : s.SameStrikes (beforeLoad s vec pa n) := by
  refine State.SameStrikes.trans ?_ (combineWhere_strikes _ _)
  unfold State.passOther
  dsimp only
  split
  · exact publishWhere_strikes s _
  · exact .refl s

/-- What keeps the soft errors of a state without any meets none. -/
theorem strike_of_sameStrikes {s t : State} (hu : Undisturbed s) (h : s.SameStrikes t) (on : StrikeOn) : t.strike on = none := by
  rw [State.strike, h.strikes, hu.2]
  rfl

end Sys2Proof.Machine
end


section
/-! SUPPORT. The frame of vector memory instructions, `runMemory`, with one active element, where no well holds a register named and
nothing cuts it short (R84, R157, R264). -/

namespace Sys2Proof.Machine

/-! ### One element among groups -/

section
variable {act : Nat → Bool} {f : MemElem} {k : Nat} {r r1 : MemAcc}

theorem memGroup_none {i n : Nat} (h : ∀ j, i ≤ j → j < i + n → act j = false) : memGroup act f i n r = .ok r := by
  induction n generalizing i with
  | zero => rfl
  | succ n ih =>
    rw [memGroup, h i (Nat.le_refl i) (by omega), if_neg Bool.false_ne_true]
    exact ih fun j hj hlt => h j (by omega) (by omega)

theorem memGroup_one {i n : Nat} (hact : ∀ j, act j = decide (j = k)) (hi : i ≤ k) (hn : k < i + n) (hf : f k r = .ok r1) :
    memGroup act f i n r = .ok r1 := by
  induction n generalizing i with
  | zero => omega
  | succ n ih =>
    by_cases e : i = k
    · subst e
      simp only [memGroup, hact, decide_true, if_true, hf]
      exact memGroup_none fun j hj _ => (hact j).trans (decide_eq_false (by omega))
    · rw [memGroup, hact, if_neg (by simp [e])]
      exact ih (by omega) (by omega)

/-- An element group ends after each element of it. -/
theorem lt_groupEnd {unit : Nat} (hunit : 0 < unit) (i : Nat) : i < (i / unit + 1) * unit := by
  rw [Nat.mul_comm]
  exact Nat.lt_mul_div_succ i hunit

theorem memGroups_none {unit hi fuel i : Nat} (hunit : 0 < unit) (h : ∀ j, i ≤ j → act j = false) :
    memGroups act f unit hi fuel i r = (r, none) := by
  induction fuel generalizing i with
  | zero => rfl
  | succ fuel ih =>
    have next := lt_groupEnd hunit i
    rw [memGroups]
    split
    · rfl
    · dsimp only
      rw [memGroup_none fun j hj _ => h j hj]
      exact ih fun j hj => h j (by omega)

theorem memGroups_one {unit hi fuel i : Nat} (hunit : 0 < unit) (hact : ∀ j, act j = decide (j = k)) (hi' : i ≤ k) (hk : k < hi)
    (hfuel : k / unit < i / unit + fuel) (hf : f k r = .ok r1) : memGroups act f unit hi fuel i r = (r1, none) := by
  induction fuel generalizing i with
  | zero =>
    have := Nat.div_le_div_right (c := unit) hi'
    omega
  | succ fuel ih =>
    have next := lt_groupEnd hunit i
    rw [memGroups, if_neg (by omega)]
    dsimp only
    by_cases inside : k < (i / unit + 1) * unit
    · rw [memGroup_one hact hi' (by omega) hf]
      exact memGroups_none hunit fun j hj => (hact j).trans (decide_eq_false (by omega))
    · rw [memGroup_none fun j _ hj => (hact j).trans (decide_eq_false (by omega))]
      have step : min hi ((i / unit + 1) * unit) / unit = i / unit + 1 := by
        rw [Nat.min_eq_right (by omega), Nat.mul_div_cancel _ hunit]
      exact ih (by omega) (by omega)

theorem firstBad_one {bad : Nat → Option Exc} {i n : Nat} (hact : ∀ j, act j = decide (j = k)) (hbad : bad k = none) :
    firstBad act bad i n = none := by
  induction n generalizing i with
  | zero => rfl
  | succ n ih =>
    by_cases e : i = k
    · subst e
      simp only [firstBad, hact, decide_true, if_true, hbad, ih]
    · rw [firstBad, hact, if_neg (by simp [e]), ih]

end

/-! ### The instruction -/

/-- The active element of an instruction that is no whole-vector one. -/
structure ActiveElement (c : Ctx) (o : VOp) (k : Nat) : Prop where
  only : ∀ j, c.active o j = decide (j = k)
  from_ : c.firstElem o ≤ k
  below : k < c.vl.toNat
  any : c.anyActive o = true

theorem activeElement_of {s : State} {p : BitVec 5} {n : BitVec 1} {k : Nat} {o : VOp} (h : OneActive s p n k) (hpred : o.pred = p.toNat)
    (hpinv : o.pinv = decide (n = 1)) (hwhole : o.whole = false) (hselect : o.select = false) : ActiveElement s.ctx o k := by
  have only (j : Nat) : s.ctx.active o j = decide (j = k) := (executes_eq_active hpred hpinv hwhole j).symm.trans (h j)
  have here : s.ctx.active o k = true := (only k).trans (decide_eq_true rfl)
  have range := here
  simp only [Ctx.active, Bool.and_eq_true, decide_eq_true_eq] at range
  obtain ⟨⟨from_, below⟩, -⟩ := range
  refine ⟨only, from_, below, ?_⟩
  rw [Ctx.anyActive, hselect, if_neg Bool.false_ne_true, List.any_eq_true]
  exact ⟨k, List.mem_range.mpr below, here⟩

section
variable {s : State} {sh : VectorShape} {o : VOp} {m : MemForm} {k : Nat}

/-- A vector memory instruction whose one active element passes its checks goes on to its elements, after what its release waits for. -/
theorem runMemory_one (hact : ActiveElement s.ctx o k) (hbound : s.ctx.destBound o = false) (hw : WellsAside s sh) (hu : Undisturbed s)
    (hreads : ∀ r ∈ o.sources, (r.first, r.count) ∈ sh.reads ∧ r.inside s.ctx.vl.toNat) (hbad : m.bad s.ctx k = none)
    (hfar : m.far s s.ctx k = none) :
    runMemory o m s = m.pre s (memoryTo o m [] (s.ctx.firstElem o) s.ctx.vl.toNat none) := by
  have land := landSources_aside hw o (s.ctx.firstElem o) s.ctx.vl.toNat hreads
  rw [runMemory, hbound, hact.any]
  simp only [Bool.false_eq_true, if_false, Bool.not_true, lastElem_undisturbed hu, wellsRead_sources hw fun r hr => (hreads r hr).1,
    wellsReady_none, land, strike_undisturbed hu, firstBad_one hact.only hbad, firstBad_one hact.only hfar, Option.map_none]

/-- Its elements: the access of the active one, and what follows. -/
theorem memoryTo_one {t : State} {seen : List Nat} (hact : ActiveElement s.ctx o k) (hunit : 8 ≤ o.unit) (hvl : s.ctx.vl.toNat ≤ 1024)
    (haccess : m.access s.ctx k (s, []) = .ok (t, seen)) (hlen : t.ctx.vl = s.ctx.vl) :
    ∃ beats, memoryTo o m [] (s.ctx.firstElem o) s.ctx.vl.toNat none s
      = m.post s.ctx.vl.toNat t (.next (vectorFinished beats (t.ctx, Flags.none) t)) := by
  have below := hact.below
  have groups : k / o.unit < s.ctx.firstElem o / o.unit + 130 := by
    have few : k / o.unit < 130 := lt_of_le_of_lt
      ((Nat.div_le_div_left hunit (by decide)).trans (Nat.div_le_div_right (c := 8) (show k ≤ 1023 by omega))) (by decide)
    exact few.trans_le (Nat.le_add_left _ _)
  refine ⟨(s.ctx.vl.toNat - s.ctx.firstElem o) * t.ctx.group, ?_⟩
  rw [memoryTo]
  simp only [memGroups_one (by omega) hact.only hact.from_ below groups haccess, hlen, Nat.lt_irrefl, if_false]
  rfl

/-- What a finished instruction leaves of the state that its elements leave. -/
theorem memoryFinished_done (beats : Nat) (t : State) : VectorDone ⟨[], [], 0, none⟩ t (vectorFinished beats (t.ctx, Flags.none) t) :=
  vectorFinished_done beats (.refl [] t.ctx)

end

theorem vl_le_of_vlmax {c : Ctx} {w g : Nat} (h : c.vl.toNat ≤ vlmaxOf w g) : c.vl.toNat ≤ 1024 := h.trans (Nat.min_le_left _ _)

end Sys2Proof.Machine
end


section
/-! SUPPORT. Elements and addresses of vector memory instructions; and the claim about vector loads with one active element (O31). -/

namespace Sys2Proof.Machine

/-! ### Elements of groups (R109, R111) -/

theorem Ctx.sew_dvd (c : Ctx) : c.sew ∣ 4096 := by
  have low : c.vty.toNat % 8 ≤ 10 := (Nat.le_of_lt_succ (Nat.mod_lt _ (by decide))).trans (by decide)
  exact Nat.mul_dvd_mul_left 4 (Nat.pow_dvd_pow 2 low)

/-- An element of 8 bits or more is whole bytes. -/
theorem Ctx.sew_bytes {c : Ctx} (h : 8 ≤ c.sew) : 8 * (c.sew / 8) = c.sew := by
  unfold Ctx.sew at h ⊢
  cases hk : c.vty.toNat % 8 with
  | zero => simp [hk] at h
  | succ j =>
    rw [Nat.pow_succ]
    omega

/-- Up to VLMAX the elements of a group lie in its registers (R112). -/
theorem element_inside {c : Ctx} {w g k : Nat} (hw : 0 < w) (hvl : c.vl.toNat ≤ vlmaxOf w g) (hk : k < c.vl.toNat) : k * w < g * 4096 := by
  have fits : c.vl.toNat * w ≤ g * 4096 := (Nat.le_div_iff_mul_le hw).mp (hvl.trans (Nat.min_le_right _ _))
  exact (Nat.mul_lt_mul_of_pos_right hk hw).trans_le fits

theorem register_inside {g k w : Nat} (h : k * w < g * 4096) : k * w / 4096 < g := Nat.div_lt_of_lt_mul (by omega)

/-- An instruction that completes in a state has completed in an earlier one of the same pc and count. -/
theorem completed_from {n : Nat} {s u t : State} (done : Completed n u t) (pc : u.ctx.pc = s.ctx.pc) (pmc : u.core.pmc[0] = s.core.pmc[0]) :
    Completed n s t := ⟨by rw [done.pc, pc], done.counted.trans (congrArg (· + 1) pmc)⟩

theorem elemBytes_eq {w : Nat} (h : 8 ≤ w) : elemBytes w = w / 8 := Nat.max_eq_right (by omega)

theorem pickElem_bytes {w : Nat} (h : 8 ≤ w) (i : Nat) (bs : List Byte) : pickElem w i bs = leNat bs := if_neg (by omega)

theorem alignment_none {n : Nat} {va : Nat → Word} {k : Nat} (h : (va k).toNat % n = 0) : alignment n va k = none :=
  if_neg (not_misalignedAt h)

theorem peerBad_none {s : State} {need : Need} {va : Nat → Word} {k : Nat} (h : noPeerFault s (va k) need) : peerBad need va s k = none := by
  unfold peerBad
  split
  · exact if_neg (h _ ‹_›)
  · rfl

/-! ### Loads (R264) -/

/-- The vector loads of the table are the form of R264, at the address of the table. -/
theorem vectorLoadTable_runs {s : State} {i : Instr} {k : Nat} {d : BitVec 6} {idx : Option (BitVec 6)} {n : BitVec 1} {p : BitVec 5} {va : Word}
    (h : vectorLoadTable s k i = some (d, idx, n, p, va)) (hsew : 8 ≤ s.ctx.sew) :
    ∃ ok word f, exec i s = vectorLoad ok d idx n p word f s ∧ ok = true ∧ f s.ctx k = va := by
  have wide : s.ctx.sew ≠ 4 := by omega
  cases i with
  | vld => cases h; exact ⟨_, _, _, rfl, rfl, by simp [packedAddress, wide]⟩
  | vldS => cases h; exact ⟨_, _, _, rfl, decide_eq_true wide, rfl⟩
  | vgld => cases h; exact ⟨_, _, _, rfl, decide_eq_true wide, rfl⟩
  | _ => cases h

/-- The line that a load of an element has fetched. -/
theorem readSeen_phys {s : State} {va : Word} {n : Nat} {need : Need} {pa : Nat} {u : Use} (hu : Undisturbed s)
    (htr : translate s s.part s.privileged va need = .ok (.phys pa u)) (hclean : touchesPoison (beforeLoad s true pa n) pa n = false) :
    readSeen s [] va n need = .ok (viewBytes (beforeLoad s true pa n) true pa n, loadedState (beforeLoad s true pa n) .vector true pa n u,
      [va.toNat / 128]) := by
  have path := strike_of_sameStrikes hu (beforeLoad_strikes s true pa n) .loadPath
  have read := readAs_phys (who := .vector) true (by decide) htr path hclean
  simp only [decide_true] at read
  simp only [readSeen, List.contains_nil, Bool.not_false, read, Bool.false_eq_true, if_false]

section
variable {s : State} {k pa : Nat} {d : BitVec 6} {idx : Option (BitVec 6)} {n : BitVec 1} {p : BitVec 5}

/-- The sources that are an index group. -/
def indexSources (c : Ctx) (idx : Option (BitVec 6)) : List Source := match idx with | some i => [c.source i] | none => []

/-- An index group lies in its registers. -/
theorem indexSources_inside {reads : List (Nat × Nat)} (hreads : ∀ i, idx = some i → s.ctx.dest i ∈ reads)
    (hvl : s.ctx.vl.toNat ≤ vlmaxOf s.ctx.sew s.ctx.group) (hpos : 0 < s.ctx.vl.toNat) :
    ∀ r ∈ indexSources s.ctx idx, (r.first, r.count) ∈ reads ∧ r.inside s.ctx.vl.toNat := by
  cases idx with
  | none => simp [indexSources]
  | some i => simpa [indexSources] using ⟨hreads i rfl, Ctx.source_inside hvl i hpos⟩

/-- What a vector load names. -/
def loadOp (c : Ctx) (d : BitVec 6) (idx : Option (BitVec 6)) (n : BitVec 1) (p : BitVec 5) : VOp :=
  { pred := p.toNat, pinv := n = 1, sources := indexSources c idx, dests := [c.dest d] }

/-- What a vector load does with its elements. -/
def loadForm (w : Nat) (d : BitVec 6) (idx : Option (BitVec 6)) (f : Ctx → Nat → Word) : MemForm :=
  { index := idx, bad := fun c => alignment (elemBytes w) (f c), far := fun s c => peerBad Need.read (f c) s,
    access := fun c => loadElem d.toNat w (f c) }

theorem vectorLoad_eq {f : Ctx → Nat → Word} (word : Nat) (h : memoryFields s d idx true n p = true) :
    vectorLoad true d idx n p word f s = runMemory (loadOp s.ctx d idx n p) (loadForm s.ctx.sew d idx f) s := by
  refine whenOk_of ?_ word s _
  cases idx <;> simpa [memoryFields, Bool.and_assoc] using h

/-- The state after the element of a vector load. -/
def elementLoaded (s : State) (d : BitVec 6) (k pa : Nat) (u : Use) : State :=
  let s1 := beforeLoad s true pa (s.ctx.sew / 8)
  (loadedState s1 .vector true pa (s.ctx.sew / 8) u).putElem d.toNat s.ctx.sew k (leNat (viewBytes s1 true pa (s.ctx.sew / 8)))

theorem elementLoaded_ctx (u : Use) : ∃ seen, (elementLoaded s d k pa u).ctx =
    { s.ctx with seen := seen }.setElem d.toNat s.ctx.sew k (leNat (viewBytes (beforeLoad s true pa (s.ctx.sew / 8)) true pa (s.ctx.sew / 8))) := by
  have own := (beforeLoad_keeps s true pa (s.ctx.sew / 8)).own.trans (loadedState_keepsOwn _ .vector true pa (s.ctx.sew / 8) u)
  exact ⟨_, congrArg (fun c : Ctx => c.setElem d.toNat s.ctx.sew k _) own.ctx⟩

theorem vectorLoad_one {f : Ctx → Nat → Word} {u : Use} (word : Nat) (hfields : memoryFields s d idx true n p = true)
    (hw : WellsAside s (memoryShape s d idx true)) (hvl : s.ctx.vl.toNat ≤ vlmaxOf s.ctx.sew s.ctx.group) (hsew : 8 ≤ s.ctx.sew)
    (hone : OneActive s p n k) (hu : Undisturbed s) (halign : (f s.ctx k).toNat % (s.ctx.sew / 8) = 0)
    (htr : translate s s.part s.privileged (f s.ctx k) Need.read = .ok (.phys pa u))
    (hclean : touchesPoison (beforeLoad s true pa (s.ctx.sew / 8)) pa (s.ctx.sew / 8) = false) :
    ∃ beats, vectorLoad true d idx n p word f s
      = .next (vectorFinished beats ((elementLoaded s d k pa u).ctx, Flags.none) (elementLoaded s d k pa u)) := by
  have active : ActiveElement s.ctx (loadOp s.ctx d idx n p) k := activeElement_of hone rfl rfl rfl rfl
  have pos : 0 < s.ctx.vl.toNat := Nat.zero_lt_of_lt active.below
  have reads := readSeen_phys hu htr hclean
  have len : (elementLoaded s d k pa u).ctx.vl = s.ctx.vl := by
    obtain ⟨seen, h⟩ := elementLoaded_ctx (s := s) (d := d) (k := k) (pa := pa) u
    rw [h]
    rfl
  obtain ⟨beats, run⟩ := memoryTo_one (m := loadForm s.ctx.sew d idx f) (t := elementLoaded s d k pa u)
    (seen := [(f s.ctx k).toNat / 128]) active (Nat.le_refl 8) (vl_le_of_vlmax hvl)
    (by simp only [loadForm, loadElem, elemBytes_eq hsew, reads, pickElem_bytes hsew, elementLoaded]) len
  refine ⟨beats, (vectorLoad_eq word hfields).trans (Eq.trans ?_ run)⟩
  refine runMemory_one active (destBound_aside hw (by simp [loadOp, memoryShape]) rfl) hw hu ?_ ?_ ?_
  · exact indexSources_inside (fun i hi => by simp [memoryShape, hi]) hvl pos
  · exact alignment_none (by rwa [elemBytes_eq hsew])
  · exact peerBad_none (noPeerFault_of_translate htr)

end

/-- Settles O31: the load of its one element is a read of the vector stream, whose bytes it puts in their place. -/
theorem vectorLoadElement : Obligations.VectorLoadElement := by
  intro s i k pa d idx n p va u htable hfields hw hvl hsew _ hone hwf hu halign htr s1 hclean
  obtain ⟨ok, word, f, form, rfl, rfl⟩ := vectorLoadTable_runs htable hsew
  obtain ⟨beats, run⟩ := vectorLoad_one word hfields hw hvl hsew hone hu halign htr hclean
  have below : k < s.ctx.vl.toNat := (activeElement_of (o := loadOp s.ctx d idx n p) hone rfl rfl rfl rfl).below
  simp only [memoryFields, Bool.and_eq_true] at hfields
  obtain ⟨⟨-, hd⟩, -⟩ := hfields
  have fits := groupHere_fits hd
  have inside {j : Nat} (hj : j * s.ctx.sew < s.ctx.group * 4096) : d.toNat + j * s.ctx.sew / 4096 < 64 := by
    have := register_inside hj
    omega
  obtain ⟨seen, context⟩ := elementLoaded_ctx (s := s) (d := d) (k := k) (pa := pa) u
  obtain ⟨done, vstart, -, -, scalars, -, -, bytes⟩ := memoryFinished_done beats (elementLoaded s d k pa u)
  refine ⟨_, form.trans run, ?_, vstart, fun hnone => ?_, ?_, fun j hj => ?_⟩
  · refine completed_from done ?_ (loadedState_pmc ..)
    rw [context, (beforeLoad_keeps ..).ctx]
    rfl
  · have loaded := loadedState_bytes .vector true (s.ctx.sew / 8) u ((beforeLoad_keeps s true pa (s.ctx.sew / 8)).form hwf) (lineKey_lt htr) hnone
    exact ⟨fun a ha => (bytes.mem a).trans (loaded.mem a ha), fun a => (bytes.ctl a).trans (loaded.ctl a),
      fun a => (bytes.pad a).trans (loaded.pad a), fun a => (bytes.persisted a).trans (loaded.persisted a)⟩
  · rw [vectorFinished_ctx, context]
    rfl
  · rw [vectorFinished_elem, context]
    split
    · subst j
      rw [elem_setElem_same _ s.ctx.sew_dvd _ _ (inside hj)]
      have value := leNat_lt (viewBytes (beforeLoad s true pa (s.ctx.sew / 8)) true pa (s.ctx.sew / 8))
      rw [show (viewBytes _ true pa (s.ctx.sew / 8)).length = s.ctx.sew / 8 by simp [viewBytes], bytes_pow, Ctx.sew_bytes hsew] at value
      exact Nat.mod_eq_of_lt value
    · rw [elem_setElem_ne _ s.ctx.sew_dvd _ (inside (element_inside s.ctx.sew_pos hvl below)) ‹_›]
      rfl

end Sys2Proof.Machine
end


section
/-! SUPPORT. The claim about vector stores with one active element (O32): its element's store enters the store buffer (R234, R264). -/

namespace Sys2Proof.Machine

theorem vectorStoreTable_runs {s : State} {i : Instr} {k : Nat} {d : BitVec 6} {idx : Option (BitVec 6)} {n : BitVec 1} {p : BitVec 5} {va : Word}
    (h : vectorStoreTable s k i = some (d, idx, n, p, va)) (hsew : 8 ≤ s.ctx.sew) :
    ∃ ok word f, exec i s = vectorStore ok d idx n p word f s ∧ ok = true ∧ f s.ctx k = va := by
  have wide : s.ctx.sew ≠ 4 := by omega
  cases i with
  | vst => cases h; exact ⟨_, _, _, rfl, rfl, by simp [packedAddress, wide]⟩
  | vstS => cases h; exact ⟨_, _, _, rfl, decide_eq_true wide, rfl⟩
  | vsst => cases h; exact ⟨_, _, _, rfl, decide_eq_true wide, rfl⟩
  | _ => cases h

/-- A store that has entered the buffer is on its way. -/
theorem buffer_made (s : State) (vec : Bool) (va : Word) (pa : Nat) (bs : List Byte) :
    StoreMade (s.storeRecord vec va pa bs) s (s.buffer vec va pa bs) := by
  obtain ⟨resv, pending, hbuffer⟩ := buffer_eq s vec va pa bs
  have key : (s.buffer vec va pa bs).taskKey = s.taskKey := by
    rw [hbuffer]
    rfl
  refine ⟨?_, fun a => ?_⟩
  · simp only [State.ownStores, key]
    simp [hbuffer, State.storeRecord]
  · rw [hbuffer]
    rfl

/-- A store that enters the buffer leaves the register set but for the release it was, the count and every byte. -/
theorem buffer_kept (s : State) (vec : Bool) (va : Word) (pa : Nat) (bs : List Byte) :
    (s.buffer vec va pa bs).ctx = { s.ctx with release := none } ∧ (s.buffer vec va pa bs).core.pmc[0] = s.core.pmc[0] ∧
      s.SameMems (s.buffer vec va pa bs) := by
  obtain ⟨resv, pending, h⟩ := buffer_eq s vec va pa bs
  rw [h]
  exact ⟨rfl, rfl, rfl, rfl, rfl, rfl⟩

theorem vectorFinished_ownStores (beats : Nat) (r : Ctx × Flags) (s : State) : (vectorFinished beats r s).ownStores = s.ownStores := by
  have key : (vectorFinished beats r s).taskKey = s.taskKey := by
    refine taskKey_congr ?_ ?_ <;> simp [vectorFinished]
  simp only [State.ownStores, key]
  simp [vectorFinished]

theorem vectorFinished_physByte (beats : Nat) (r : Ctx × Flags) (s : State) (a : Nat) : physByte (vectorFinished beats r s) a = physByte s a := by
  simp [physByte, clockByte, State.clockOf, vectorFinished]

theorem StoreMade.finished {b : Buffered} {s t : State} (h : StoreMade b s t) (beats : Nat) (r : Ctx × Flags) :
    StoreMade b s (vectorFinished beats r t) :=
  ⟨(vectorFinished_ownStores beats r t).trans h.own, fun a => (vectorFinished_physByte beats r t a).trans (h.point a)⟩

section
variable {s : State} {k pa : Nat} {d : BitVec 6} {idx : Option (BitVec 6)} {n : BitVec 1} {p : BitVec 5}

/-- What a vector store names. -/
def storeOp (c : Ctx) (d : BitVec 6) (idx : Option (BitVec 6)) (n : BitVec 1) (p : BitVec 5) : VOp :=
  { pred := p.toNat, pinv := n = 1, sources := c.source d :: indexSources c idx, dests := [] }

/-- What a vector store does with its elements. -/
def storeForm (w : Nat) (d : BitVec 6) (idx : Option (BitVec 6)) (f : Ctx → Nat → Word) : MemForm :=
  { index := idx, bad := fun c => alignment (elemBytes w) (f c), far := fun s c => peerBad Need.write (f c) s, pre := storeAfterFence,
    access := fun c => storeElem w (f c) (fun i => c.elem d.toNat w i) }

theorem vectorStore_eq {f : Ctx → Nat → Word} (word : Nat) (h : memoryFields s d idx false n p = true) :
    vectorStore true d idx n p word f s = runMemory (storeOp s.ctx d idx n p) (storeForm s.ctx.sew d idx f) s := by
  refine whenOk_of ?_ word s _
  cases idx <;> simpa [memoryFields, Bool.and_assoc] using h

/-- The state in which the homes have combined what was collected for a word that a store reaches, its page marked. -/
def storeReached (s : State) (pa n : Nat) (u : Use) : State := combineRead (markUsed (beforeStore s) u true) true pa n

theorem storeReached_keeps (s : State) (pa n : Nat) (u : Use) : s.Keeps (storeReached s pa n u) :=
  ((beforeStore_keeps s).trans (markUsed_keeps _ u true)).trans (combineWhere_keeps _ _)

/-- The access of an element of 8 bits or more: it enters the store buffer. -/
theorem storeElem_phys {s : State} {w : Nat} {f : Nat → Word} {x : Nat → Nat} {u : Use} {seen : List Nat} (hw : 8 ≤ w)
    (htr : translate s s.part s.privileged (f k) Need.write = .ok (.phys pa u)) (hobj : touchesObject s pa (w / 8) = false) :
    storeElem w f x k (s, seen)
      = .ok ((combineRead (markUsed s u true) true pa (w / 8)).buffer true (f k) pa (natBytes (w / 8) (x k)), seen) := by
  have written := writeVa_phys true (natBytes (w / 8) (x k)) htr (by rwa [natBytes_length])
  rw [natBytes_length] at written
  have wide : w ≠ 4 := by omega
  simp only [storeElem, if_neg wide, written]

theorem vectorStore_one {f : Ctx → Nat → Word} {u : Use} (word : Nat) (hfields : memoryFields s d idx false n p = true)
    (hw : WellsAside s (memoryShape s d idx false)) (hvl : s.ctx.vl.toNat ≤ vlmaxOf s.ctx.sew s.ctx.group) (hsew : 8 ≤ s.ctx.sew)
    (hone : OneActive s p n k) (hu : Undisturbed s) (halign : (f s.ctx k).toNat % (s.ctx.sew / 8) = 0)
    (hpeer : noPeerFault s (f s.ctx k) Need.write) (hready : storeReady s)
    (htr : translate (beforeStore s) (beforeStore s).part (beforeStore s).privileged (f s.ctx k) Need.write = .ok (.phys pa u))
    (hobj : touchesObject (beforeStore s) pa (s.ctx.sew / 8) = false) :
    let t := (storeReached s pa (s.ctx.sew / 8) u).buffer true (f s.ctx k) pa (natBytes (s.ctx.sew / 8) (s.ctx.elem d.toNat s.ctx.sew k))
    ∃ beats, vectorStore true d idx n p word f s = .next (vectorFinished beats (t.ctx, Flags.none) t) := by
  intro t
  have active : ActiveElement s.ctx (storeOp s.ctx d idx n p) k := activeElement_of hone rfl rfl rfl rfl
  have pos : 0 < s.ctx.vl.toNat := Nat.zero_lt_of_lt active.below
  have context := (beforeStore_keeps s).ctx
  have ready : runMemory (storeOp s.ctx d idx n p) (storeForm s.ctx.sew d idx f) s =
      storeAfterFence s (memoryTo (storeOp s.ctx d idx n p) (storeForm s.ctx.sew d idx f) [] (s.ctx.firstElem (storeOp s.ctx d idx n p))
        s.ctx.vl.toNat none) := by
    refine runMemory_one active (destBound_aside hw (by simp [storeOp]) rfl) hw hu ?_ ?_ ?_
    · refine List.forall_mem_cons.mpr ⟨?_, indexSources_inside (fun i hi => by simp [memoryShape, hi]) hvl pos⟩
      exact ⟨by simp [memoryShape, Ctx.source, Ctx.dest], Ctx.source_inside hvl d pos⟩
    · exact alignment_none (by rwa [elemBytes_eq hsew])
    · exact peerBad_none hpeer
  have len : t.ctx.vl = (beforeStore s).ctx.vl := by
    show (State.buffer _ _ _ _ _).ctx.vl = _
    rw [(buffer_kept ..).1, (storeReached_keeps ..).ctx, context]
  have accessed := storeElem_phys (x := fun i => s.ctx.elem d.toNat s.ctx.sew i) (f := f s.ctx) (seen := []) hsew htr hobj
  obtain ⟨beats, run⟩ := memoryTo_one (s := beforeStore s) (m := storeForm s.ctx.sew d idx f) (t := t) (seen := [])
    (by rw [context]; exact active) (Nat.le_refl 8) (by rw [context]; exact vl_le_of_vlmax hvl) (by rw [context]; exact accessed) len
  rw [context] at run
  exact ⟨beats, ((vectorStore_eq word hfields).trans ready).trans ((storeAfterFence_ready hready _).trans run)⟩

/-- What a vector instruction leaves whose store has entered the buffer. -/
theorem storeFinished_done {s1 : State} (beats : Nat) (va : Word) (bs : List Byte) :
    let t := s1.buffer true va pa bs
    let r := vectorFinished beats (t.ctx, Flags.none) t
    Completed 4 s1 r ∧ r.ctx.vstart = 0 ∧ SameBytes s1 r ∧ r.ctx.s = s1.ctx.s ∧ r.ctx.v = s1.ctx.v ∧ viewBytes r true pa bs.length = bs ∧
      (∀ a, a < pa ∨ pa + bs.length ≤ a → viewBytes r true a 1 = viewBytes s1 true a 1) := by
  intro t r
  have made := (buffer_made s1 true va pa bs).finished beats (t.ctx, Flags.none)
  obtain ⟨context, pmc, mems⟩ : t.ctx = { s1.ctx with release := none } ∧ t.core.pmc[0] = s1.core.pmc[0] ∧ s1.SameMems t :=
    buffer_kept s1 true va pa bs
  have finished : r.ctx = _ := vectorFinished_ctx beats (t.ctx, Flags.none) t
  obtain ⟨done, vstart, -, -, -, -, -, bytes⟩ := memoryFinished_done beats t
  exact ⟨completed_from done ((congrArg Ctx.pc context).trans rfl) pmc, vstart, sameBytes_trans mems.bytes bytes,
    (congrArg Ctx.s finished).trans ((congrArg Ctx.s context).trans rfl),
    (congrArg Ctx.v finished).trans ((congrArg Ctx.v context).trans rfl),
    made.viewBytes_same, fun a => made.viewBytes_apart⟩

end

/-- Settles O32: the store of its one element enters the buffer where its stream sees it. -/
theorem vectorStoreElement : Obligations.VectorStoreElement := by
  intro s i k pa d idx n p va u htable hfields hw hsew _ hone hwf hu hvl halign hpeer hready s0 s1 htr hobj
  obtain ⟨ok, word, f, form, rfl, rfl⟩ := vectorStoreTable_runs htable hsew
  obtain ⟨beats, run⟩ := vectorStore_one word hfields hw hvl hsew hone hu halign hpeer hready htr hobj
  obtain ⟨done, vstart, bytes, scalars, vectors, same, apart⟩ := storeFinished_done (pa := pa) (s1 := s1) beats (f s.ctx k)
    (natBytes (s.ctx.sew / 8) (s.ctx.elem d.toNat s.ctx.sew k))
  rw [natBytes_length] at same apart
  have context : s1.ctx = s.ctx := (storeReached_keeps s pa (s.ctx.sew / 8) u).ctx
  exact ⟨_, form.trans run, done, vstart, bytes, scalars.trans (congrArg Ctx.s context),
    vectors.trans (congrArg Ctx.v context), same, apart⟩

end Sys2Proof.Machine
end


section
/-! SUPPORT. The claim about the wide gather and the checked store with one active element (O33). -/

namespace Sys2Proof.Machine

/-- A vector memory instruction with one active element whose access succeeds, in the state that its release leaves. -/
theorem runMemory_element {s s0 t : State} {g : State → State} {sh : VectorShape} {o : VOp} {m : MemForm} {k : Nat} {seen : List Nat}
    (hact : ActiveElement s.ctx o k) (hbound : s.ctx.destBound o = false) (hw : WellsAside s sh) (hu : Undisturbed s)
    (hreads : ∀ r ∈ o.sources, (r.first, r.count) ∈ sh.reads ∧ r.inside s.ctx.vl.toNat) (hunit : 8 ≤ o.unit)
    (hvl : s.ctx.vl.toNat ≤ 1024) (hbad : m.bad s.ctx k = none) (hfar : m.far s s.ctx k = none)
    (hpre : ∀ K : State → Out, m.pre s K = K s0) (hctx : s0.ctx = s.ctx)
    (haccess : m.access s.ctx k (s0, []) = .ok (t, seen)) (hlen : t.ctx.vl = s.ctx.vl)
    (hpost : ∀ r, m.post s.ctx.vl.toNat t (.next r) = .next (g r)) :
    ∃ beats, runMemory o m s = .next (g (vectorFinished beats (t.ctx, Flags.none) t)) := by
  obtain ⟨beats, run⟩ := memoryTo_one (s := s0) (o := o) (m := m) (k := k) (t := t) (seen := seen) (by rwa [hctx]) hunit (by rwa [hctx])
    (by rwa [hctx]) (by rwa [hctx])
  rw [hctx] at run
  exact ⟨beats, (((runMemory_one hact hbound hw hu hreads hbad hfar).trans (hpre _)).trans run).trans (hpost _)⟩

section
variable {s : State} {k pa : Nat} {d : BitVec 6} {b : BitVec 5} {n : BitVec 1} {p : BitVec 5} {u : Use}

/-! ### vgld.x2 (R264) -/

/-- A pair of elements written. -/
def Ctx.setPair (c : Ctx) (v k x y : Nat) : Ctx := (c.setElem v 64 (2 * k) x).setElem v 64 (2 * k + 1) y

/-- A pair of elements written in the running context. -/
def State.putPair (s : State) (v k x y : Nat) : State := { s with ctx := s.ctx.setPair v k x y }

/-- The state after the element of a wide gather of n bytes. -/
def pairLoaded (s : State) (d : BitVec 6) (k pa n : Nat) (u : Use) : State :=
  (loadedState (beforeLoad s true pa n) .vector true pa n u).putPair d.toNat k (leNat ((viewBytes (beforeLoad s true pa n) true pa n).take 8))
    (leNat ((viewBytes (beforeLoad s true pa n) true pa n).drop 8))

theorem pairLoaded_ctx (s : State) (d : BitVec 6) (k pa n : Nat) (u : Use) : ∃ seen, (pairLoaded s d k pa n u).ctx =
    ({ s.ctx with seen := seen } : Ctx).setPair d.toNat k (leNat ((viewBytes (beforeLoad s true pa n) true pa n).take 8))
      (leNat ((viewBytes (beforeLoad s true pa n) true pa n).drop 8)) := by
  have own := (beforeLoad_keeps s true pa n).own.trans (loadedState_keepsOwn _ .vector true pa n u)
  exact ⟨_, congrArg (fun c : Ctx => c.setPair d.toNat k _ _) own.ctx⟩

theorem exec_vgldX2 {i : BitVec 6} (hone : OneActive s p n k) (hu : Undisturbed s) (hvl : s.ctx.vl.toNat ≤ vlmaxOf s.ctx.sew s.ctx.group)
    (hmask : maskOk s p n = true) (hsew : s.ctx.sew = 64) (hgroup : s.ctx.group ≤ 4) (hd : groupHere s d (2 * s.ctx.group) = true)
    (hi : groupHere s i s.ctx.group = true) (hapart : disjointGroups (d.toNat, 2 * s.ctx.group) (s.ctx.dest i) = true)
    (hw : WellsAside s ⟨[(d.toNat, 2 * s.ctx.group)], [s.ctx.dest i], 0, none⟩)
    (halign : (s.x b + BitVec.ofNat 64 (s.ctx.elem i.toNat 64 k)).toNat % 16 = 0)
    (htr : translate s s.part s.privileged (s.x b + BitVec.ofNat 64 (s.ctx.elem i.toNat 64 k)) Need.read = .ok (.phys pa u))
    (hclean : touchesPoison (beforeLoad s true pa 16) pa 16 = false) :
    ∃ beats, exec (.vgldX2 d b i n p) s = .next (vectorFinished beats ((pairLoaded s d k pa 16 u).ctx, Flags.none) (pairLoaded s d k pa 16 u)) := by
  have active : ActiveElement s.ctx ⟨p.toNat, decide (n = 1), [s.ctx.source i], [(d.toNat, 2 * s.ctx.group)], 0, 8, false, false⟩ k :=
    activeElement_of hone rfl rfl rfl rfl
  have address : indexedAddress s b i s.ctx k = s.x b + BitVec.ofNat 64 (s.ctx.elem i.toNat 64 k) := by rw [indexedAddress, hsew]
  have reads := readSeen_phys hu htr hclean
  have len : (pairLoaded s d k pa 16 u).ctx.vl = s.ctx.vl := by
    obtain ⟨seen, h⟩ := pairLoaded_ctx s d k pa 16 u
    rw [h]
    rfl
  have allowed : (maskOk s p n && decide (s.ctx.sew = 64) && decide (2 * s.ctx.group ≤ 8) && groupHere s d (2 * s.ctx.group)
      && groupHere s i s.ctx.group && disjointGroups (d.toNat, 2 * s.ctx.group) (s.ctx.dest i)) = true := by
    simp [hmask, hsew, hd, hi, hapart]
    omega
  show ∃ beats, execVgldX2 d b i n p s = _
  unfold execVgldX2
  dsimp only
  rw [whenOk_of allowed]
  refine runMemory_element (g := fun r => r) active (destBound_aside hw (by simp) rfl) hw hu ?_ (Nat.le_refl 8) (vl_le_of_vlmax hvl) ?_ ?_ (fun _ => rfl) rfl
    (seen := [(s.x b + BitVec.ofNat 64 (s.ctx.elem i.toNat 64 k)).toNat / 128]) ?_ len (fun _ => rfl)
  · simpa [Ctx.source, Ctx.dest] using Ctx.source_inside hvl i (Nat.zero_lt_of_lt active.below)
  · exact alignment_none (by rwa [address])
  · exact peerBad_none (by rw [address]; exact noPeerFault_of_translate htr)
  · simp only [address, reads]
    rfl

/-! ### vst.ck (R265) -/

/-- With one active element no row is wholly active. -/
theorem badRows_one {c : Ctx} {o : VOp} (hact : ∀ j, c.active o j = decide (j = k)) (v w ck rb lo vl : Nat) :
    badRows c o v w ck rb lo vl = [] := by
  rw [badRows, List.filter_eq_nil_iff]
  intro m _ whole
  simp only [Bool.and_eq_true, List.all_eq_true, List.mem_range, hact, decide_eq_true_eq] at whole
  obtain ⟨rows, -⟩ := whole
  have first := rows 0 (by decide)
  have second := rows 1 (by decide)
  omega

theorem exec_vstCk {r : BitVec 2} (hone : OneActive s p n k) (hu : Undisturbed s) (hvl : s.ctx.vl.toNat ≤ vlmaxOf s.ctx.sew s.ctx.group)
    (hfields : memoryFields s d none false n p = true) (hservice : s.inService = false)
    (hsew : s.ctx.sew = 8 ∨ s.ctx.sew = 16 ∨ s.ctx.sew = 32) (hrows : s.ctx.vl.toNat % 64 = 0) (hstart : s.ctx.vstart.toNat % 64 = 0)
    (hfits : 16 * r.toNat + s.ctx.vl.toNat / 64 ≤ 64) (hapart : disjointGroups (bits (s.ctx.getOx 5) 5 0, 1) (s.ctx.dest d) = true)
    (hw : WellsAside s ⟨[], [s.ctx.dest d, (bits (s.ctx.getOx 5) 5 0, 1)], 0, none⟩)
    (halign : (s.x b + BitVec.ofNat 64 (k * (s.ctx.sew / 8))).toNat % (s.ctx.sew / 8) = 0)
    (hpeer : noPeerFault s (s.x b + BitVec.ofNat 64 (k * (s.ctx.sew / 8))) Need.write) (hready : storeReady s)
    (htr : translate (beforeStore s) (beforeStore s).part (beforeStore s).privileged (s.x b + BitVec.ofNat 64 (k * (s.ctx.sew / 8))) Need.write
      = .ok (.phys pa u)) (hobj : touchesObject (beforeStore s) pa (s.ctx.sew / 8) = false) :
    let t := (storeReached s pa (s.ctx.sew / 8) u).buffer true (s.x b + BitVec.ofNat 64 (k * (s.ctx.sew / 8))) pa
      (natBytes (s.ctx.sew / 8) (s.ctx.elem d.toNat s.ctx.sew k))
    ∃ beats, exec (.vstCk d b r n p) s = .next (vectorFinished beats (t.ctx, Flags.none) t) := by
  intro t
  have wide : 8 ≤ s.ctx.sew := by omega
  have active : ActiveElement s.ctx ⟨p.toNat, decide (n = 1), [s.ctx.source d, ⟨bits (s.ctx.getOx 5) 5 0, 1, 32, 0, true⟩], [], 0, 64,
    false, false⟩ k := activeElement_of hone rfl rfl rfl rfl
  have address : packedAddress s b k = s.x b + BitVec.ofNat 64 (k * (s.ctx.sew / 8)) := by
    rw [packedAddress, if_neg (by omega)]
  have context : t.ctx = { s.ctx with release := none } := by
    show (State.buffer _ _ _ _ _).ctx = _
    rw [(buffer_kept ..).1, (storeReached_keeps ..).ctx]
  have unchecked (v w ck rb lo vl : Nat) : badRows t.ctx ⟨p.toNat, decide (n = 1), [s.ctx.source d,
      ⟨bits (s.ctx.getOx 5) 5 0, 1, 32, 0, true⟩], [], 0, 64, false, false⟩ v w ck rb lo vl = [] :=
    badRows_one (fun j => by rw [context]; exact active.only j) v w ck rb lo vl
  have accessed := storeElem_phys (x := fun i => s.ctx.elem d.toNat s.ctx.sew i) (f := packedAddress s b) (seen := []) wide
    (by rwa [address]) hobj
  rw [address] at accessed
  simp only [memoryFields, Bool.and_eq_true] at hfields
  obtain ⟨⟨hmask, hd⟩, -⟩ := hfields
  have allowed : (maskOk s p n && s.hasOx && groupHere s d s.ctx.group && (decide (s.ctx.sew = 8) || decide (s.ctx.sew = 16) || decide (s.ctx.sew = 32))
      && decide (s.ctx.vl.toNat % 64 = 0) && decide (s.ctx.vstart.toNat % 64 = 0) && decide (16 * r.toNat + s.ctx.vl.toNat / 64 ≤ 64)
      && disjointGroups (bits (s.ctx.getOx 5) 5 0, 1) (s.ctx.dest d)) = true := by
    simp [hmask, hd, State.hasOx, hservice, hrows, hstart, hfits, hapart]
    omega
  have pos : 0 < s.ctx.vl.toNat := Nat.zero_lt_of_lt active.below
  show ∃ beats, execVstCk d b r n p s = _
  unfold execVstCk
  dsimp only
  rw [whenOk_of allowed]
  refine runMemory_element (g := fun r => r) (s0 := beforeStore s) (t := t) active (destBound_aside hw (by simp) rfl) hw hu ?_ (by simp)
    (vl_le_of_vlmax hvl) ?_ ?_ (storeAfterFence_ready hready) (beforeStore_keeps s).ctx (seen := []) ?_ ((congrArg Ctx.vl context).trans rfl) ?_
  · simpa [Ctx.source, Ctx.dest, Source.inside] using Ctx.source_inside hvl d pos
  · exact alignment_none (by rwa [elemBytes_eq wide, address])
  · exact peerBad_none (by rwa [address])
  · refine (if_neg ?_).trans accessed
    rw [badRows_one active.only]
    exact Bool.false_ne_true
  · intro K
    dsimp only
    rw [unchecked]
    rfl

end

/-- Settles O33: the pair that the gather reads goes to its two elements, and the checked store has no row to check. -/
theorem wideGatherAndCheckedStore : Obligations.WideGatherAndCheckedStore := by
  intro s k pa d b n p u hone hwf hu hvl
  refine ⟨?_, ?_⟩
  · intro i va hmask hsew hgroup hd hi hapart hw halign htr s1 hclean
    obtain ⟨beats, run⟩ := exec_vgldX2 hone hu hvl hmask hsew hgroup hd hi hapart hw halign htr hclean
    obtain ⟨seen, context⟩ := pairLoaded_ctx s d k pa 16 u
    obtain ⟨done, vstart, -, -, -, -, -, bytes⟩ := memoryFinished_done beats (pairLoaded s d k pa 16 u)
    have below : k < s.ctx.vl.toNat := (activeElement_of (o := loadOp s.ctx d none n p) hone rfl rfl rfl rfl).below
    have fits := groupHere_fits hd
    have inside := element_inside (w := 64) (by decide) (hsew ▸ hvl) below
    have value (l : List Byte) (hl : l.length = 8) : leNat l % 2 ^ 64 = leNat l := by
      have := leNat_lt l
      rw [hl] at this
      exact Nat.mod_eq_of_lt this
    refine ⟨_, run, completed_from done ?_ (loadedState_pmc ..), vstart, fun hnone => ?_, ?_, ?_⟩
    · rw [context, (beforeLoad_keeps ..).ctx]
      rfl
    · have loaded := loadedState_bytes .vector true 16 u ((beforeLoad_keeps s true pa 16).form hwf) (lineKey_lt htr) hnone
      exact ⟨fun a ha => (bytes.mem a).trans (loaded.mem a ha), fun a => (bytes.ctl a).trans (loaded.ctl a),
        fun a => (bytes.pad a).trans (loaded.pad a), fun a => (bytes.persisted a).trans (loaded.persisted a)⟩
    · rw [vectorFinished_elem, context, Ctx.setPair, elem_setElem_ne _ (by decide) _ (by omega) (by omega),
        elem_setElem_same _ (by decide) _ _ (by omega)]
      exact value _ (by simp [viewBytes])
    · rw [vectorFinished_elem, context, Ctx.setPair, elem_setElem_same _ (by decide) _ _ (by omega)]
      exact value _ (by simp [viewBytes])
  · intro r va ck hfields hservice hsew hrows hstart hfits hapart hw halign hpeer hready s0 s1 htr hobj
    obtain ⟨beats, run⟩ := exec_vstCk hone hu hvl hfields hservice hsew hrows hstart hfits hapart hw halign hpeer hready htr hobj
    obtain ⟨done, vstart, bytes, -, -, same, -⟩ := storeFinished_done (pa := pa) (s1 := s1) beats va
      (natBytes (s.ctx.sew / 8) (s.ctx.elem d.toNat s.ctx.sew k))
    rw [natBytes_length] at same
    exact ⟨_, run, done, vstart, bytes, same⟩

end Sys2Proof.Machine
end


section
/-! SUPPORT. The vector place forms with one active element of 64 bits (R263, R264); and the claim about them (O34). -/

namespace Sys2Proof.Machine

/-! ### A place form -/

section
variable {s s0 t : State} {k c off : Nat} {d : BitVec 6} {b : BitVec 5} {n : BitVec 1} {p : BitVec 5}

theorem placeRange_ok {w : Word} {vl : Nat} (halign : bits w 19 0 % 8 = 0) (hplace : resolvePlace s w 0 (vl * 8) = .ok (c, off)) :
    placeRange s w 64 vl = .ok (c, off) := by
  have aligned : ¬decide (bits w 19 0 % elemBytes 64 ≠ 0) = true := by
    rw [elemBytes_eq (by decide)]
    simpa using halign
  rw [placeRange, if_neg aligned, show (vl * 64 + 7) / 8 = vl * 8 by omega]
  exact hplace

/-- What the element's access finds: its pan, awake and with nothing under way for it where the form accesses it now. -/
def panReached (now : Bool) (s : State) (core off : Nat) : State := if now then wakePan s core (off / 65536) else s

theorem panCheck_none {w : Word} (h : padRefusal s s.part s.privileged c (off / 65536) = none) : panCheck s w c off = none := by
  rw [panCheck, h]

theorem landInRange_panReached (now : Bool) (hready : now = true → s.ownFlights = [] ∧ s.padFlips = []) (m : Nat) :
    (if now then landInRange (wakePan s c (off / 65536)) c off m else s) = panReached now s c off := by
  cases now with
  | false => rfl
  | true =>
    obtain ⟨flights, flips⟩ := hready rfl
    exact landInRange_none ((wakePan_reached flips c (off / 65536)).ownFlights.trans flights) c off m

theorem panReached_reached (now : Bool) (hready : now = true → s.ownFlights = [] ∧ s.padFlips = []) (core off : Nat) :
    PanReached s (panReached now s core off) := by
  cases now with
  | false => exact ⟨rfl, rfl⟩
  | true => exact wakePan_reached (hready rfl).2 core _

/-- A place form with one active element, whose access succeeds in the state that its release leaves. -/
theorem placeForm_one {ok : Bool} {o : VOp} {word : Nat} {now : Bool} {pre : State → (State → Out) → Out}
    {f : Ctx → Nat → Nat → Nat → State → Res State} {after : Nat → Nat → Nat → State → State} {sh : VectorShape}
    (hone : OneActive s p n k) (hu : Undisturbed s) (hsew : s.ctx.sew = 64) (hvl : s.ctx.vl.toNat ≤ vlmaxOf 64 s.ctx.group)
    (hmask : maskOk s p n = true) (hok : ok = true) (hd : groupHere s d s.ctx.group = true) (halign : bits (s.x b) 19 0 % 8 = 0)
    (hplace : resolvePlace s (s.x b) 0 (s.ctx.vl.toNat * 8) = .ok (c, off)) (hw : WellsAside s sh)
    (hactive : ActiveElement s.ctx o k) (hunit : 8 ≤ o.unit) (hbound : s.ctx.destBound o = false)
    (hreads : ∀ r ∈ o.sources, (r.first, r.count) ∈ sh.reads ∧ r.inside s.ctx.vl.toNat)
    (hpre : ∀ K : State → Out, pre s K = K s0) (hctx : s0.ctx = s.ctx) (hsame : s.SameStrikes s0)
    (hawake : now = true → rangeAwake s0 c off (s.ctx.vl.toNat * 8) = true)
    (hready : now = true → s0.ownFlights = [] ∧ s0.padFlips = [])
    (hpan : padRefusal s0 s0.part s0.privileged c ((off + k * 8) / 65536) = none)
    (haccess : f s.ctx k c (off + k * 8) (panReached now s0 c (off + k * 8)) = .ok t) (hlen : t.ctx.vl = s.ctx.vl) :
    ∃ beats, placeForm ok o d n p b word now pre f after s
      = .next (after c off s.ctx.vl.toNat (vectorFinished beats (t.ctx, Flags.none) t)) := by
  have allowed : (maskOk s p n && ok && groupHere s d s.ctx.group) = true := by rw [hmask, hok, hd]; rfl
  have accessed : ¬(s.ctx.destBound o || !s.ctx.anyActive o) = true := by rw [hbound, hactive.any]; exact Bool.false_ne_true
  have place : placeElem off 64 k = off + k * 8 := by simp [placeElem]
  have unstruck : State.struck s0 .vector = false := by
    rw [State.struck, strike_of_sameStrikes hu hsame]
    rfl
  unfold placeForm
  dsimp only
  rw [whenOk_of allowed, if_neg accessed, hsew, placeRange_ok halign hplace]
  refine runMemory_element (g := after c off s.ctx.vl.toNat) hactive hbound hw hu hreads hunit (vl_le_of_vlmax hvl) rfl rfl
    (fun K => (hpre _).trans ?_) hctx (seen := []) ?_ hlen (fun _ => rfl)
  · cases now with
    | false => rfl
    | true =>
      rw [if_pos rfl, show (s.ctx.vl.toNat * 64 + 7) / 8 = s.ctx.vl.toNat * 8 by omega]
      exact whenAwake_awake (hawake rfl) K
  · simp only [place, panCheck_none hpan, unstruck, Bool.false_eq_true, if_false, landInRange_panReached now hready, haccess]

end

/-! ### The instructions -/

section
variable {s : State} {k c off : Nat} {d : BitVec 6} {b : BitVec 5} {n : BitVec 1} {p : BitVec 5}

/-- The state after the element of a place load. -/
def placeLoaded (s : State) (d : BitVec 6) (k c at_ : Nat) : State :=
  (wakePan s c (at_ / 65536)).putElem d.toNat 64 k (leNat (padBytes s c at_ 8))

theorem loadPlaceElem_ok {w : Word} {at_ : Nat} (hflips : s.padFlips = []) (hclean : padTouchesPoison s c at_ 8 = false) (consume : Bool) :
    loadPlaceElem d.toNat 64 w consume k c at_ (panReached true s c at_)
      = .ok (if consume then consumeWord (placeLoaded s d k c at_) c at_ else placeLoaded s d k c at_) := by
  obtain ⟨clean, bytes⟩ := panReached_clean (wakePan_reached hflips c (at_ / 65536)) c at_ 8
  rw [panReached, if_pos rfl, loadPlaceElem, elemBytes_eq (by decide), pickElem_bytes (by decide), clean, hclean, bytes]
  rfl

theorem placeLoaded_reached {at_ : Nat} (hflips : s.padFlips = []) :
    PanReached (s.putElem d.toNat 64 k (leNat (padBytes s c at_ 8))) (placeLoaded s d k c at_) := by
  have reached := wakePan_reached hflips c (at_ / 65536)
  unfold placeLoaded
  rw [reached.rest]
  exact ⟨reached.core, rfl⟩

/-- A place load has completed, with the bytes of the pad in its element. -/
theorem placeLoaded_done {at_ : Nat} {l : List Nat} (hflips : s.padFlips = []) (hvl : s.ctx.vl.toNat ≤ vlmaxOf 64 s.ctx.group)
    (hd : groupHere s d s.ctx.group = true) (hk : k < s.ctx.vl.toNat) (beats : Nat) :
    let u : State := { placeLoaded s d k c at_ with present := l }
    let t := vectorFinished beats (u.ctx, Flags.none) u
    Completed 4 s t ∧ SameBytes s t ∧ t.present = l ∧ t.ctx.elem d.toNat 64 k = leNat (padBytes s c at_ 8) := by
  intro u t
  have reached := placeLoaded_reached (d := d) (k := k) (c := c) (at_ := at_) hflips
  have context : u.ctx = s.ctx.setElem d.toNat 64 k (leNat (padBytes s c at_ 8)) := by
    show (placeLoaded s d k c at_).ctx = _
    rw [reached.rest]
    rfl
  obtain ⟨done, -, -, -, -, -, only, bytes⟩ := memoryFinished_done beats u
  obtain ⟨mem, ctl, pad, persisted⟩ := reached.sameBytes
  have fits := groupHere_fits hd
  have inside := register_inside (element_inside (by decide) hvl hk)
  have value := leNat_lt (padBytes s c at_ 8)
  refine ⟨completed_from done (by rw [context]; rfl) (by show (placeLoaded s d k c at_).core.pmc[0] = _; rw [reached.core]; rfl),
    ⟨fun a => (bytes.mem a).trans (mem a), fun a => (bytes.ctl a).trans (ctl a), fun a => (bytes.pad a).trans (pad a),
      fun a => (bytes.persisted a).trans (persisted a)⟩, by simp [t, vectorFinished, u], ?_⟩
  rw [vectorFinished_elem, context, elem_setElem_same _ (by decide) _ _ (by omega)]
  rw [show (padBytes s c at_ 8).length = 8 by simp [padBytes, memReadBytes]] at value
  exact Nat.mod_eq_of_lt value

/-! Stores -/

theorem storePlaceElem_eq (k x core at_ : Nat) (s : State) :
    storePlaceElem 64 k x core at_ s = padWrite s core at_ (natBytes 8 x) := rfl

theorem clearStored_eq (o : VOp) (r : Ctx) (w lo core at_ hi : Nat) (s : State) :
    ∃ l, clearStored o r w lo core at_ hi s = { s with padPoison := l } := by
  unfold clearStored
  split
  · exact ⟨_, rfl⟩
  · exact ⟨_, rfl⟩

/-- A place store has completed: its bytes are the pad's. -/
theorem placeStored_done {at_ : Nat} (hflips : s.padFlips = []) (hwf : s.memWf) (x beats : Nat) (l : List Nat) :
    let u := padWrite (wakePan s c (at_ / 65536)).released c at_ (natBytes 8 x)
    let t : State := { vectorFinished beats (u.ctx, Flags.none) u with padPoison := l }
    Completed 4 s t ∧ t.present = s.present ∧ t.mem = s.mem ∧
      (∀ j, j < 8 → memRead t.pad (padAddr c at_ + j) = BitVec.ofNat 8 (x / 256 ^ j)) ∧
      (∀ j, j < padAddr c at_ ∨ padAddr c at_ + 8 ≤ j → memRead t.pad j = memRead s.pad j) := by
  intro u t
  have reached := wakePan_reached hflips c (at_ / 65536)
  obtain ⟨-, -, hpad, -⟩ := hwf
  have pad : t.pad = memWriteBytes s.pad (padAddr c at_) (natBytes 8 x) := by
    have made : t.pad = u.pad := by simp [t, vectorFinished]
    rw [made]
    show memWriteBytes (wakePan s c (at_ / 65536)).pad _ _ = _
    rw [reached.rest]
  obtain ⟨done, -⟩ := memoryFinished_done beats u
  have completed := completed_from (s := s) done
    (by show (wakePan s c (at_ / 65536)).ctx.pc = _; rw [reached.rest])
    (by show (wakePan s c (at_ / 65536)).core.pmc[0] = _; rw [reached.core])
  refine ⟨⟨completed.pc, completed.counted⟩, ?_, ?_, fun j hj => ?_, fun j hj => ?_⟩
  · have made : t.present = (wakePan s c (at_ / 65536)).present := by simp [t, vectorFinished, u, padWrite, State.released]
    rw [made, reached.rest]
  · have made : t.mem = (wakePan s c (at_ / 65536)).mem := by simp [t, vectorFinished, u, padWrite, State.released]
    rw [made, reached.rest]
  · rw [pad, memRead_memWriteBytes_in hpad _ _ j (by rwa [natBytes_length])]
    exact getElem_natBytes _ _ _ _
  · rw [pad]
    exact memRead_memWriteBytes_out _ _ _ _ (by rwa [natBytes_length]) hpad

theorem sendPresence_ctx (s : State) (vec : Bool) (core off : Nat) (v : Word) : (sendPresence s vec core off v).ctx = s.ctx := by
  obtain ⟨f, cl, sent⟩ := sendPresence_eq s vec core off v
  rw [sent]

/-- The data group of a place store lies in its registers. -/
theorem placeOp_inside (hsew : s.ctx.sew = 64) (hvl : s.ctx.vl.toNat ≤ vlmaxOf 64 s.ctx.group) (hpos : 0 < s.ctx.vl.toNat) :
    ∀ r ∈ (placeOp s.ctx d n p true).sources, (r.first, r.count) ∈ [s.ctx.dest d] ∧ r.inside s.ctx.vl.toNat := by
  simpa [placeOp, Ctx.source, Ctx.dest] using Ctx.source_inside (hsew ▸ hvl) d hpos

/-- A vector presence store has completed: its word is under way. -/
theorem presenceSent_done (s : State) (c at_ beats : Nat) (v : Word) :
    let u := sendPresence s.released true c at_ v
    let t := vectorFinished beats (u.ctx, Flags.none) u
    Completed 4 s t ∧ SameBytes s t ∧ t.pending = s.pending ++ [.presenceStoreLanding c at_ v] := by
  intro u t
  obtain ⟨f, cl, sent⟩ := sendPresence_eq s.released true c at_ v
  have same : u = { s.released with flights := f, clocks := cl, pending := s.released.pending ++ [.presenceStoreLanding c at_ v] } := sent
  obtain ⟨done, -, -, -, -, -, -, bytes⟩ := memoryFinished_done beats u
  refine ⟨completed_from done (by rw [same]; rfl) (by rw [same]; rfl), ?_, ?_⟩
  · rw [same] at bytes
    obtain ⟨mem, ctl, pad, persisted⟩ := bytes
    have left : t = vectorFinished beats (u.ctx, Flags.none) u := rfl
    rw [left, same]
    exact ⟨mem, ctl, pad, persisted⟩
  · have made : t.pending = u.pending := by simp [t, vectorFinished]
    rw [made, same]
    rfl

/-! What the instructions run. -/

section
variable (hone : OneActive s p n k) (hu : Undisturbed s) (hsew : s.ctx.sew = 64) (hvl : s.ctx.vl.toNat ≤ vlmaxOf 64 s.ctx.group)
  (hmask : maskOk s p n = true) (hd : groupHere s d s.ctx.group = true) (halign : bits (s.x b) 19 0 % 8 = 0)
  (hplace : resolvePlace s (s.x b) 0 (s.ctx.vl.toNat * 8) = .ok (c, off))
  (hw : WellsAside s ⟨[s.ctx.dest d], [s.ctx.dest d], 0, none⟩)
include hone hu hsew hvl hmask hd halign hplace hw

theorem placeLoad_one {consume ok : Bool} (word : Nat) (hok : ok = true) (hawake : rangeAwake s c off (s.ctx.vl.toNat * 8) = true)
    (hflights : s.ownFlights = []) (hflips : s.padFlips = [])
    (hpan : padRefusal s s.part s.privileged c ((off + k * 8) / 65536) = none) (hclean : padTouchesPoison s c (off + k * 8) 8 = false) :
    let u := if consume then consumeWord (placeLoaded s d k c (off + k * 8)) c (off + k * 8) else placeLoaded s d k c (off + k * 8)
    ∃ beats, placeForm ok (placeOp s.ctx d n p false) d n p b word true (fun s k => k s)
      (fun _ i core off t => loadPlaceElem d.toNat 64 (s.x b) consume i core off t) (fun _ _ _ s => s) s
        = .next (vectorFinished beats (u.ctx, Flags.none) u) := by
  have len : (placeLoaded s d k c (off + k * 8)).ctx.vl = s.ctx.vl := by
    rw [(placeLoaded_reached hflips).rest]
    rfl
  refine placeForm_one hone hu hsew hvl hmask hok hd halign hplace hw (activeElement_of hone rfl rfl rfl rfl) (Nat.le_refl 8)
    (destBound_aside hw (by simp [placeOp]) rfl) (by simp [placeOp]) (fun _ => rfl) rfl (.refl s) (fun _ => hawake)
    (fun _ => ⟨hflights, hflips⟩) hpan (loadPlaceElem_ok hflips hclean consume) ?_
  cases consume <;> exact len

theorem exec_vstp (hready : storeReady s) (hawake : rangeAwake (beforeStore s) c off (s.ctx.vl.toNat * 8) = true)
    (hflights : (beforeStore s).ownFlights = []) (hflips : (beforeStore s).padFlips = [])
    (hpan : padRefusal (beforeStore s) (beforeStore s).part (beforeStore s).privileged c ((off + k * 8) / 65536) = none) :
    let at_ := off + k * 8
    let u := padWrite (wakePan (beforeStore s) c (at_ / 65536)).released c at_ (natBytes 8 (s.ctx.elem d.toNat 64 k))
    ∃ beats l, exec (.vstp d b n p) s = .next { vectorFinished beats (u.ctx, Flags.none) u with padPoison := l } := by
  intro at_ u
  have reached := wakePan_reached hflips c (at_ / 65536)
  have len : u.ctx.vl = s.ctx.vl := by
    show (wakePan (beforeStore s) c (at_ / 65536)).ctx.vl = _
    rw [reached.rest]
    exact congrArg Ctx.vl (beforeStore_keeps s).ctx
  have active : ActiveElement s.ctx (placeOp s.ctx d n p true) k := activeElement_of hone rfl rfl rfl rfl
  obtain ⟨beats, run⟩ := placeForm_one (ok := true) (word := encVstp d b n p) (now := true) (pre := storeAfterFence)
    (f := fun r i core off t => .ok (storePlaceElem s.ctx.sew i (r.elem d.toNat s.ctx.sew i) core off t.released))
    (after := fun core off hi t => clearStored (placeOp s.ctx d n p true) s.ctx s.ctx.sew (s.ctx.firstElem (placeOp s.ctx d n p true)) core
      off hi t)
    hone hu hsew hvl hmask rfl hd halign hplace hw active (Nat.le_refl 8)
    (destBound_aside hw (by simp [placeOp]) rfl)
    (placeOp_inside hsew hvl (Nat.zero_lt_of_lt active.below))
    (storeAfterFence_ready hready) (beforeStore_keeps s).ctx (beforeStore_strikes s) (fun _ => hawake) (fun _ => ⟨hflights, hflips⟩) hpan
    (t := u) (by rw [hsew]; rfl) len
  obtain ⟨l, cleared⟩ := clearStored_eq (placeOp s.ctx d n p true) s.ctx s.ctx.sew (s.ctx.firstElem (placeOp s.ctx d n p true)) c off
    s.ctx.vl.toNat (vectorFinished beats (u.ctx, Flags.none) u)
  exact ⟨beats, l, run.trans (congrArg Host.Outcome.next cleared)⟩

theorem exec_pstV (hready : orders (fenceScope 3 s) s)
    (hpan : padRefusal (ordered (fenceScope 3 s) s) (ordered (fenceScope 3 s) s).part (ordered (fenceScope 3 s) s).privileged c
      ((off + k * 8) / 65536) = none) :
    let u := sendPresence (ordered (fenceScope 3 s) s).released true c (off + k * 8) (BitVec.ofNat 64 (s.ctx.elem d.toNat 64 k))
    ∃ beats, exec (.pstV d b n p) s = .next (vectorFinished beats (u.ctx, Flags.none) u) := by
  intro u
  have len : u.ctx.vl = s.ctx.vl := by
    refine (congrArg Ctx.vl (sendPresence_ctx _ _ _ _ _)).trans ?_
    exact (show (ordered (fenceScope 3 s) s).released.ctx.vl = (ordered (fenceScope 3 s) s).ctx.vl from rfl).trans
      (congrArg Ctx.vl (ordered_keeps (fenceScope 3 s) s).ctx)
  have active : ActiveElement s.ctx (placeOp s.ctx d n p true) k := activeElement_of hone rfl rfl rfl rfl
  show ∃ beats, execPstV d b n p s = _
  unfold execPstV
  exact placeForm_one (s0 := ordered (fenceScope 3 s) s) (t := u) hone hu hsew hvl hmask (decide_eq_true hsew) hd halign hplace hw active
    (Nat.le_refl 8) (destBound_aside hw (by simp [placeOp]) rfl)
    (placeOp_inside hsew hvl (Nat.zero_lt_of_lt active.below))
    (fun K => releaseAt_ordered K hready) (ordered_keeps _ s).ctx (ordered_strikes _ s) (fun h => absurd h Bool.false_ne_true)
    (fun h => absurd h Bool.false_ne_true) hpan rfl len

end

end

/-- Settles O34: the access of the one element is the scalar place access of its word. -/
theorem vectorPlaceElement : Obligations.VectorPlaceElement := by
  intro s k c off d b n p hone hwf hu hsew hvl hmask hd halign hplace hw at_ ready
  have below : k < s.ctx.vl.toNat := (activeElement_of (o := placeOp s.ctx d n p true) hone rfl rfl rfl rfl).below
  refine ⟨fun ⟨hawake, hflights, hflips, hpan⟩ hclean => ⟨?_, ?_⟩, fun hready => ?_, fun hready => ?_⟩
  · obtain ⟨beats, run⟩ := placeLoad_one (consume := false) hone hu hsew hvl hmask hd halign hplace hw (encVldp d b n p) rfl hawake hflights
      hflips hpan hclean
    obtain ⟨done, bytes, present, value⟩ := placeLoaded_done (d := d) (k := k) (c := c) (at_ := at_)
      (l := (placeLoaded s d k c at_).present) hflips hvl hd below beats
    refine ⟨_, ?_, done, ?_, bytes, value⟩
    · show execVldp d b n p s = _
      unfold execVldp
      rw [hsew]
      exact run
    · rw [present, (placeLoaded_reached hflips).rest]
      rfl
  · obtain ⟨beats, run⟩ := placeLoad_one (consume := true) hone hu hsew hvl hmask hd halign hplace hw (encVldpC d b n p) (decide_eq_true hsew)
      hawake hflights hflips hpan hclean
    obtain ⟨done, bytes, present, value⟩ := placeLoaded_done (d := d) (k := k) (c := c) (at_ := at_)
      (l := setDrop (placeLoaded s d k c at_).present (padWord c at_)) hflips hvl hd below beats
    refine ⟨_, run, done, bytes, fun member => ?_, value⟩
    have dropped := (iff_of_eq (congrArg (padWord c at_ ∈ ·) present)).mp member
    simp [setDrop] at dropped
  · intro s0 ⟨hawake, hflights, hflips, hpan⟩
    rw [(beforeStore_keeps s).ctx] at hawake
    obtain ⟨beats, l, run⟩ := exec_vstp hone hu hsew hvl hmask hd halign hplace hw hready hawake hflights hflips hpan
    exact ⟨_, run, placeStored_done hflips ((beforeStore_keeps s).form hwf) (s.ctx.elem d.toNat 64 k) beats l⟩
  · intro s1 hpan
    obtain ⟨beats, run⟩ := exec_pstV hone hu hsew hvl hmask hd halign hplace hw hready hpan
    exact ⟨_, run, presenceSent_done s1 c at_ beats _⟩

end Sys2Proof.Machine
end


section
/-! SUPPORT. What acquires and the writes of homes leave of the executing party: its count, its reservations and the vector atomics it has
under way (R244, R249, R274, R275). -/

namespace Sys2Proof.Machine

/-- The executing party is the same, and has counted, reserved and sent what it had. -/
structure State.SameParty (s t : State) : Prop where
  cur : t.cur = s.cur
  counted : t.core.pmc[0] = s.core.pmc[0]
  vamos : t.core.vamos = s.core.vamos
  resv : t.core.resv = s.core.resv
  key : t.taskKey = s.taskKey

namespace State.SameParty
variable {s t u : State}

theorem refl (s : State) : s.SameParty s := ⟨rfl, rfl, rfl, rfl, rfl⟩

theorem trans (h : s.SameParty t) (g : t.SameParty u) : s.SameParty u :=
  ⟨g.cur.trans h.cur, g.counted.trans h.counted, g.vamos.trans h.vamos, g.resv.trans h.resv, g.key.trans h.key⟩

/-- `trans` with the later change first, which fixes the state between them. -/
theorem after (g : t.SameParty u) (h : s.SameParty t) : s.SameParty u := h.trans g

theorem foldl {α : Type} {f : State → α → State} (hf : ∀ (s : State) (a : α), s.SameParty (f s a)) (s : State) (l : List α) :
    s.SameParty (l.foldl f s) :=
  List.foldlRecOn l f (refl s) fun t h a _ => h.trans (hf t a)

theorem of_core (cur : t.cur = s.cur) (core : t.core = s.core) : s.SameParty t :=
  ⟨cur, by rw [core], by rw [core], by rw [core], by rw [State.taskKey, core]; rfl⟩

/-- Lines of the L1, and the times of pans, are not the party's. -/
theorem of_lines {l : List Nat} {r : Vector Retention 16} {p : Vector Word 16} (cur : t.cur = s.cur)
    (core : t.core = { s.core with l1 := l, retention := r, panTime := p }) : s.SameParty t :=
  ⟨cur, by rw [core], by rw [core], by rw [core], by rw [State.taskKey, core]; rfl⟩

end State.SameParty

theorem State.OnlyMessages.sameParty {s t : State} (h : s.OnlyMessages t) : s.SameParty t := .of_core h.cur h.core

/-! ### Presence stores that land -/

theorem settleGroup_sameParty (s : State) (g : Nat × Nat) : s.SameParty (settleGroup s g) := by
  unfold settleGroup
  dsimp only
  split
  · exact .of_core rfl rfl
  · exact (State.SameParty.foldl (f := fun s k => setPadPoison s (4 * g.1 + k) false) (fun s k => .of_core rfl rfl) s (List.range 4)).trans
      (.of_core rfl rfl)

theorem settleFlips_sameParty (s : State) (core pan : Nat) : s.SameParty (settleFlips s core pan) := by
  unfold settleFlips
  dsimp only
  split
  · exact .refl s
  · exact (State.SameParty.foldl settleGroup_sameParty _ _).after (.of_core rfl rfl)

theorem armRetention_sameParty (s : State) (core pan : Nat) : s.SameParty (armRetention s core pan) := by
  unfold armRetention
  split <;> exact .of_core rfl rfl

theorem setPan_sameParty (s : State) (core : Nat) (r : Vector Retention 16) (p : Vector Word 16) :
    s.SameParty (s.setCore core { s.coreOf core with retention := r, panTime := p }) := by
  unfold State.setCore
  split
  · rw [State.coreOf, if_pos ‹_›]
    exact .of_lines (l := s.core.l1) rfl rfl
  · exact .of_core rfl rfl

theorem wakePan_sameParty (s : State) (core pan : Nat) : s.SameParty (wakePan s core pan) :=
  ((settleFlips_sameParty s core pan).trans (setPan_sameParty _ core _ _)).trans (armRetention_sameParty _ _ _)

theorem landPresence_sameParty (s : State) (core off : Nat) (v : Word) : s.SameParty (landPresence s core off v) :=
  (wakeWaiters_onlyMessages _ _ _).sameParty.after (.of_core rfl rfl)

/-- A cause that falls due for a task, as it stands on its core, leaves which task it is. -/
theorem blame_taskKey (k : Core) (serial tid : Nat) (d : Cause × Nat × Word) (s : State) (h : s.core = k.blame serial tid d) (u : State)
    (hu : u.core = k) : s.taskKey = u.taskKey := by
  rw [State.taskKey, State.taskKey, h, hu]
  cases hs : k.service with
  | some v => simp [Core.blame, hs]
  | none =>
    cases hr : k.run <;> simp [Core.blame, hs, hr, Run.mapTask, TaskInfo.blame] <;> split <;> simp

theorem blame_sameParty (s : State) (core serial tid : Nat) (d : Cause × Nat × Word) : s.SameParty (s.blame core serial tid d) := by
  unfold State.blame
  split
  · unfold State.setCore
    dsimp only
    split
    · rw [State.coreOf, if_pos ‹_›]
      refine ⟨rfl, rfl, rfl, rfl, ?_⟩
      cases hs : s.core.service <;> simp [State.taskKey, hs]
    · exact .of_core rfl rfl
  · exact ⟨rfl, rfl, rfl, rfl, blame_taskKey s.core serial tid d _ rfl s rfl⟩

theorem refuseFlight_sameParty (s : State) (f : Flight) (k : Nat) : s.SameParty (refuseFlight s f k) := by
  unfold refuseFlight
  split
  · exact .of_core rfl rfl
  · exact blame_sameParty s _ _ _ _

theorem landFlight_sameParty (s : State) (f : Flight) : s.SameParty (landFlight s f) := by
  have arrived (u : State) : u.SameParty (match arrivalRefusal u f with
      | some k => refuseFlight u f k
      | none => landPresence (wakePan u f.core (f.off / 65536)) f.core f.off f.value) := by
    split
    · exact refuseFlight_sameParty u f _
    · exact (wakePan_sameParty u _ _).trans (landPresence_sameParty _ _ _ _)
  unfold landFlight
  dsimp only
  refine State.SameParty.trans ?_ (arrived _)
  split
  · exact (receive_onlyMessages _ _ _ _).sameParty.after (.of_core rfl rfl)
  · exact .of_core rfl rfl

/-! ### Acquires -/

theorem acquireStamp_sameParty (s : State) (stamp : Option Clock) : s.SameParty (s.acquireStamp stamp) := by
  unfold State.acquireStamp
  split
  · exact (State.SameParty.foldl landFlight_sameParty s _).trans (receive_onlyMessages _ _ _ _).sameParty
  · exact .refl s

theorem State.OnlyLines.sameParty {s t : State} (h : s.OnlyLines t) : s.SameParty t :=
  .of_lines (l := t.core.l1) (r := s.core.retention) (p := s.core.panTime) (by rw [h.rest]) h.core

theorem acquireAtomic_sameParty (s : State) (order scope : BitVec 2) (pa n : Nat) : s.SameParty (s.acquireAtomic order scope pa n) := by
  unfold State.acquireAtomic State.acquire
  split
  · exact (podLines_onlyLines s _).sameParty.trans (acquireStamp_sameParty _ _)
  · exact .refl s

/-! ### Writes of homes -/

theorem stamped_sameParty (s : State) (rel : Bool) (pa : Nat) : s.SameParty (if rel then stampHome s pa else s) := by
  cases rel
  · exact .refl s
  · exact (stampHome_onlyMessages s pa).sameParty

theorem marked_sameParty (s : State) (rel : Bool) (pa n : Nat) : s.SameParty (if rel then s.markRelease pa n else s) := by
  unfold State.markRelease
  split_ifs <;> exact .of_core rfl rfl

theorem homeWrite_sameParty {s : State} {pa : Nat} (bs : List Byte) (h : spaceOf pa ≠ .control) : s.SameParty (homeWrite s pa bs) := by
  obtain ⟨-, -, core, -⟩ := writeThrough_memory none s bs h
  have cur := (homeWrite_keeps s pa bs).cur
  refine .of_lines (l := (homeWrite s pa bs).core.l1) (r := s.core.retention) (p := s.core.panTime) cur ?_
  unfold homeWrite physWrite
  dsimp only
  split <;> rw [core]

/-- What the write of an atomic leaves of its party; its routine's reservations on the word may have ended. -/
theorem atomicWrite_party (s : State) {pa : Nat} (order scope : BitVec 2) (n : Nat) (v : Word) (h : spaceOf pa ≠ .control) :
    let t := s.atomicWrite order scope pa n v
    t.core.pmc[0] = s.core.pmc[0] ∧ t.core.vamos = s.core.vamos ∧ t.taskKey = s.taskKey := by
  have ended (u : State) : (if u.inService then u.dropOwnResv pa n else u).core.pmc[0] = u.core.pmc[0]
      ∧ (if u.inService then u.dropOwnResv pa n else u).core.vamos = u.core.vamos
      ∧ (if u.inService then u.dropOwnResv pa n else u).taskKey = u.taskKey := by
    split <;> exact ⟨rfl, rfl, rfl⟩
  have before := (stamped_sameParty s (decide (2 ≤ order.toNat)) pa).trans (acquireAtomic_sameParty _ order scope pa n)
  obtain ⟨counted, vamos, key⟩ := ended ((if decide (2 ≤ order.toNat) then stampHome s pa else s).acquireAtomic order scope pa n)
  have written (u : State) := (homeWrite_sameParty (s := u) (natBytes n v.toNat) h).trans
    (marked_sameParty _ (decide (2 ≤ order.toNat)) pa n)
  exact ⟨(written _).counted.trans (counted.trans before.counted), (written _).vamos.trans (vamos.trans before.vamos),
    (written _).key.trans (key.trans before.key)⟩

end Sys2Proof.Machine
end


section
/-! SUPPORT. The vector atomics with one active element (R274, R275); and the claim about them (O36). -/

namespace Sys2Proof.Machine

theorem AmoOp.code_of_amoOfCode {k : Nat} {op : AmoOp} (h : amoOfCode k = some op) : op.code = k := by
  unfold amoOfCode at h
  split at h <;> cases h <;> rfl

section
variable {s : State} {k pa : Nat} {d i : BitVec 6} {b : BitVec 5} {n : BitVec 1} {p : BitVec 5} {u : Use} {op : AmoOp}

/-! ### The form -/

/-- What the claim asks of the operands and fields. -/
structure AtomicElement (s : State) (k : Nat) (d i : BitVec 6) (b : BitVec 5) (n : BitVec 1) (p : BitVec 5) : Prop where
  one : OneActive s p n k
  form : s.memWf
  undisturbed : Undisturbed s
  sew : s.ctx.sew = 32 ∨ s.ctx.sew = 64
  vl : s.ctx.vl.toNat ≤ vlmaxOf s.ctx.sew s.ctx.group
  service : s.inService = false
  ok : atomicOk s d i n p = true
  order : orderOk (atomicDesc (s.ctx.getOx 3)).order (atomicDesc (s.ctx.getOx 3)).scope = true
  wells : WellsAside s ⟨[s.ctx.dest d], [s.ctx.dest d, s.ctx.dest i], (atomicDesc (s.ctx.getOx 3)).spred, none⟩
  aligned : (s.x b + BitVec.ofNat 64 (s.ctx.elem i.toNat s.ctx.sew k)).toNat % (s.ctx.sew / 8) = 0
  peer : noPeerFault s (s.x b + BitVec.ofNat 64 (s.ctx.elem i.toNat s.ctx.sew k)) Need.atom
  ready : atomicReady (atomicDesc (s.ctx.getOx 3)).order (atomicDesc (s.ctx.getOx 3)).scope s

/-- The state that the release of the instruction leaves. -/
def atomicReached (s : State) : State := atomicBefore (atomicDesc (s.ctx.getOx 3)).order (atomicDesc (s.ctx.getOx 3)).scope s

theorem AtomicElement.ctx : (atomicReached s).ctx = s.ctx := (atomicBefore_keeps _ _ s).ctx

theorem AtomicElement.loadPath (h : AtomicElement s k d i b n p) : (atomicReached s).strike .loadPath = none :=
  strike_of_sameStrikes h.undisturbed (atomicBefore_strikes _ _ s) .loadPath

/-- An atomic whose one element's access succeeds completes. -/
theorem AtomicElement.run (h : AtomicElement s k d i b n p) {o : VOp} {f : Ctx → MemElem} {t : State} (hactive : ActiveElement s.ctx o k)
    (hunit : o.unit = 8) (hbound : s.ctx.destBound o = false) (hreads : ∀ r ∈ o.sources, r = s.ctx.source d ∨ r = s.ctx.source i)
    (haccess : f s.ctx k (atomicReached s, []) = .ok (t, [])) (hlen : t.ctx.vl = s.ctx.vl) :
    ∃ beats, runMemory o (atomicForm s b i (atomicDesc (s.ctx.getOx 3)) f) s = .next (vectorFinished beats (t.ctx, Flags.none) t) := by
  have pos : 0 < s.ctx.vl.toNat := Nat.zero_lt_of_lt hactive.below
  refine runMemory_element (g := fun r => r) hactive hbound h.wells h.undisturbed (fun r hr => ?_) hunit.ge (vl_le_of_vlmax h.vl)
    (alignment_none h.aligned) (peerBad_none h.peer) (orderAtomic_ready h.ready) AtomicElement.ctx haccess hlen (fun _ => rfl)
  obtain rfl | rfl := hreads r hr
  · exact ⟨by simp [Ctx.source, Ctx.dest], Ctx.source_inside h.vl d pos⟩
  · exact ⟨by simp [Ctx.source, Ctx.dest], Ctx.source_inside h.vl i pos⟩

/-- What an instruction has completed whose element left the registers but a release and predicates. -/
theorem finished_completed {s1 t : State} (hpc : t.ctx.pc = s1.ctx.pc) (hpmc : t.core.pmc[0] = s1.core.pmc[0]) (beats : Nat) :
    Completed 4 s1 (vectorFinished beats (t.ctx, Flags.none) t) :=
  completed_from (memoryFinished_done beats t).done hpc hpmc

theorem sew_size (h : s.ctx.sew = 32 ∨ s.ctx.sew = 64) : s.ctx.sew / 8 = 4 ∨ s.ctx.sew / 8 = 8 := by omega

/-- The state in which an atomic comes to its home. -/
def atomicHome (s : State) (u : Use) (write : Bool) : State := (markUsed (atomicReached s) u write).publish

theorem atomicHome_keeps (s : State) (u : Use) (write : Bool) : s.Keeps (atomicHome s u write) :=
  (atomicBefore_keeps _ _ s).trans ((markUsed_keeps _ u write).trans (publish_keeps _))

/-- The operand of the element. -/
theorem elem_operand (hsew : s.ctx.sew = 32 ∨ s.ctx.sew = 64) (v j : Nat) :
    (BitVec.ofNat 64 (s.ctx.elem v s.ctx.sew j)).toNat = s.ctx.elem v s.ctx.sew j := by
  have fits : 2 ^ s.ctx.sew ≤ 2 ^ 64 := Nat.pow_le_pow_right (by decide) (by omega)
  rw [BitVec.toNat_ofNat]
  exact Nat.mod_eq_of_lt ((elem_lt s.ctx v s.ctx.sew j).trans_le fits)

/-! ### vamo (R274) -/

/-- The old value of an element is on its way to its register. -/
def State.sendVamo (s : State) (d k w : Nat) (old : Word) : State :=
  let key := s.taskKey
  { s with
    core := { s.core with vamos := s.core.vamos ++ [⟨key.1, key.2, d, k, w, old, true⟩] }
    pending := if s.pending.contains (.vamoElementArrival s.cur key.1 key.2) then s.pending
      else s.pending ++ [Event.vamoElementArrival s.cur key.1 key.2] }

/-- The state after the element of a vamo. -/
def vamoDone (s : State) (d : BitVec 6) (k pa : Nat) (u : Use) (op : AmoOp) : State :=
  let a := atomicDesc (s.ctx.getOx 3)
  let old := BitVec.ofNat 64 (physLe (atomicHome s u true) pa (s.ctx.sew / 8))
  ((atomicHome s u true).released.atomicWrite a.order a.scope pa (s.ctx.sew / 8)
    (amoValue op (s.ctx.sew / 8) old (BitVec.ofNat 64 (s.ctx.elem d.toNat s.ctx.sew k)) 0)).sendVamo d.toNat k s.ctx.sew old

theorem vamoDone_ctx : (vamoDone s d k pa u op).ctx = { s.ctx with release := none } := by
  show (State.atomicWrite _ _ _ _ _ _).ctx = _
  rw [(atomicWrite_keeps ..).ctx, State.released, (atomicHome_keeps s u true).ctx]

theorem exec_vamo (h : AtomicElement s k d i b n p) (hop : amoOfCode (atomicDesc (s.ctx.getOx 3)).op = some op)
    (hapart : disjointGroups (s.ctx.dest d) (s.ctx.dest i) = true)
    (htr : translate (atomicReached s) (atomicReached s).part (atomicReached s).privileged
      (s.x b + BitVec.ofNat 64 (s.ctx.elem i.toNat s.ctx.sew k)) Need.atom = .ok (.phys pa u))
    (hobj : touchesObject (atomicReached s) pa (s.ctx.sew / 8) = false)
    (hclean : touchesPoison (atomicHome s u true) pa (s.ctx.sew / 8) = false) :
    ∃ beats, exec (.vamo d b i n p) s
      = .next (vectorFinished beats ((vamoDone s d k pa u op).ctx, Flags.none) (vamoDone s d k pa u op)) := by
  have accessed := atomicAt_phys (atomicDesc (s.ctx.getOx 3)).order (atomicDesc (s.ctx.getOx 3)).scope op
    (BitVec.ofNat 64 (s.ctx.elem d.toNat s.ctx.sew k)) 0 htr hobj h.loadPath hclean
  have allowed : (atomicOk s d i n p && orderOk (atomicDesc (s.ctx.getOx 3)).order (atomicDesc (s.ctx.getOx 3)).scope
      && disjointGroups (s.ctx.dest d) (s.ctx.dest i)) = true := by
    rw [h.ok, h.order, hapart]
    rfl
  show ∃ beats, execVamo d b i n p s = _
  unfold execVamo
  simp only [hop]
  rw [whenOk_of allowed]
  refine h.run (activeElement_of h.one rfl rfl rfl rfl) rfl (destBound_aside h.wells (by simp) rfl) (by simp) ?_
    ((congrArg Ctx.vl vamoDone_ctx).trans rfl)
  simp only [indexedAddress, accessed]
  rfl

theorem vamoDone_completed (h : AtomicElement s k d i b n p) (hspace : spaceOf pa ≠ .control)
    (htr : translate (atomicReached s) (atomicReached s).part (atomicReached s).privileged
      (s.x b + BitVec.ofNat 64 (s.ctx.elem i.toNat s.ctx.sew k)) Need.atom = .ok (.phys pa u)) (beats : Nat) :
    let s1 := atomicHome s u true
    let t := vectorFinished beats ((vamoDone s d k pa u op).ctx, Flags.none) (vamoDone s d k pa u op)
    let old := physLe s1 pa (s.ctx.sew / 8)
    Completed 4 s1 t ∧ (∀ v, atomicNew (s.ctx.sew / 8) old (s.ctx.elem d.toNat s.ctx.sew k) 0 op = some v → physLe t pa (s.ctx.sew / 8) = v) ∧
      t.core.vamos = s1.core.vamos ++ [⟨s1.taskKey.1, s1.taskKey.2, d.toNat, k, s.ctx.sew, BitVec.ofNat 64 old, true⟩] := by
  intro s1 t old
  have size := sew_size h.sew
  have bits : 8 * (s.ctx.sew / 8) = s.ctx.sew := by have := h.sew; omega
  obtain ⟨counted, vamos, key⟩ := atomicWrite_party s1.released (atomicDesc (s.ctx.getOx 3)).order (atomicDesc (s.ctx.getOx 3)).scope
    (s.ctx.sew / 8) (amoValue op (s.ctx.sew / 8) (BitVec.ofNat 64 old) (BitVec.ofNat 64 (s.ctx.elem d.toNat s.ctx.sew k)) 0) hspace
  refine ⟨finished_completed (s1 := s1) (t := vamoDone s d k pa u op) ?_ counted beats, fun v hv => ?_, ?_⟩
  · rw [vamoDone_ctx, (atomicHome_keeps s u true).ctx]
  · have wf := ((atomicHome_keeps s u true).form h.form).1
    have memory := atomicWrite_mem (atomicDesc (s.ctx.getOx 3)).order (atomicDesc (s.ctx.getOx 3)).scope (s.ctx.sew / 8)
      (amoValue op (s.ctx.sew / 8) (BitVec.ofNat 64 old) (BitVec.ofNat 64 (s.ctx.elem d.toNat s.ctx.sew k)) 0) s1.released hspace
    have left : t.mem = (vamoDone s d k pa u op).mem := by simp [t, vectorFinished]
    rw [physLe_written (v := (amoValue op (s.ctx.sew / 8) (BitVec.ofNat 64 old) (BitVec.ofNat 64 (s.ctx.elem d.toNat s.ctx.sew k)) 0).toNat)
      wf hspace size (aligned_of_translate size h.aligned htr) (amoValue_lt size op _ _ _) (left.trans memory)]
    refine amoValue_eq size (physLe_lt s1 pa _) _ _ ?_
    rw [elem_operand h.sew, bits, Nat.mod_eq_of_lt (elem_lt ..)]
    simpa using hv
  · have left : t.core.vamos = (vamoDone s d k pa u op).core.vamos := by simp [t, vectorFinished]
    have sent : (vamoDone s d k pa u op).core.vamos = (State.atomicWrite _ _ _ _ _ s1.released).core.vamos
      ++ [⟨(State.atomicWrite _ _ _ _ _ s1.released).taskKey.1, (State.atomicWrite _ _ _ _ _ s1.released).taskKey.2, d.toNat, k, s.ctx.sew,
        BitVec.ofNat 64 old, true⟩] := rfl
    rw [left, sent, vamos, key]
    rfl

/-! ### vred (R274) -/

theorem holdUpdates_pmc (s : State) (pa : Nat) : (holdUpdates s pa).core.pmc = s.core.pmc := by
  unfold holdUpdates
  dsimp only
  split
  · rfl
  · exact fillL1_pmc _ _

/-- The state after the element of a vred. -/
def vredDone (s : State) (d i : BitVec 6) (b : BitVec 5) (k pa : Nat) (u : Use) (op : AmoOp) : State :=
  holdUpdates ((atomicHome s u true).collect true (s.x b + BitVec.ofNat 64 (s.ctx.elem i.toNat s.ctx.sew k)) pa (s.ctx.sew / 8) op
    (BitVec.ofNat 64 (s.ctx.elem d.toNat s.ctx.sew k))) pa

theorem vredDone_ctx : (vredDone s d i b k pa u op).ctx = { s.ctx with release := none } := by
  obtain ⟨resv, collects⟩ := collect_eq (atomicHome s u true) true (s.x b + BitVec.ofNat 64 (s.ctx.elem i.toNat s.ctx.sew k)) pa
    (s.ctx.sew / 8) op (BitVec.ofNat 64 (s.ctx.elem d.toNat s.ctx.sew k))
  rw [vredDone, (holdUpdates_keeps _ _).ctx, collects, (atomicHome_keeps s u true).ctx]

theorem exec_vred (h : AtomicElement s k d i b n p) (hop : amoOfCode (atomicDesc (s.ctx.getOx 3)).op = some op)
    (hrelaxed : (atomicDesc (s.ctx.getOx 3)).order = 0) (hswap : op ≠ .swap)
    (htr : translate (atomicReached s) (atomicReached s).part (atomicReached s).privileged
      (s.x b + BitVec.ofNat 64 (s.ctx.elem i.toNat s.ctx.sew k)) Need.atom = .ok (.phys pa u))
    (hobj : touchesObject (atomicReached s) pa (s.ctx.sew / 8) = false)
    (hclean : touchesPoison (atomicReached s) pa (s.ctx.sew / 8) = false) :
    ∃ beats, exec (.vred d b i n p) s
      = .next (vectorFinished beats ((vredDone s d i b k pa u op).ctx, Flags.none) (vredDone s d i b k pa u op)) := by
  have accessed := reduceAt_phys true op (BitVec.ofNat 64 (s.ctx.elem d.toNat s.ctx.sew k)) htr hobj h.loadPath hclean
  have scope : (atomicDesc (s.ctx.getOx 3)).scope = 0 := by
    have order := h.order
    simpa [orderOk, hrelaxed] using order
  have allowed : (atomicOk s d i n p && decide (op ≠ .swap) && decide ((atomicDesc (s.ctx.getOx 3)).order = 0)
      && decide ((atomicDesc (s.ctx.getOx 3)).scope = 0)) = true := by
    rw [h.ok, decide_eq_true hswap, decide_eq_true hrelaxed, decide_eq_true scope]
    rfl
  show ∃ beats, execVred d b i n p s = _
  unfold execVred
  simp only [hop]
  rw [whenOk_of allowed]
  refine h.run (activeElement_of h.one rfl rfl rfl rfl) rfl (destBound_aside h.wells (by simp) rfl) (by simp) ?_
    ((congrArg Ctx.vl vredDone_ctx).trans rfl)
  simp only [indexedAddress, accessed]
  rfl

theorem vredDone_completed (hop : amoOfCode (atomicDesc (s.ctx.getOx 3)).op = some op) (beats : Nat) :
    let s1 := atomicHome s u true
    let t := vectorFinished beats ((vredDone s d i b k pa u op).ctx, Flags.none) (vredDone s d i b k pa u op)
    Completed 4 s1 t ∧ (roomForUpdates s1 pa → SameBytes s1 t ∧ t.core.reductions = s1.core.reductions
      ++ [⟨pa, s.ctx.sew / 8, (atomicDesc (s.ctx.getOx 3)).op, BitVec.ofNat 64 (s.ctx.elem d.toNat s.ctx.sew k), s1.taskKey.1,
        s1.taskKey.2, s.x b + BitVec.ofNat 64 (s.ctx.elem i.toNat s.ctx.sew k), true⟩]) := by
  intro s1 t
  obtain ⟨resv, collects⟩ := collect_eq s1 true (s.x b + BitVec.ofNat 64 (s.ctx.elem i.toNat s.ctx.sew k)) pa
    (s.ctx.sew / 8) op (BitVec.ofNat 64 (s.ctx.elem d.toNat s.ctx.sew k))
  have counted : (vredDone s d i b k pa u op).core.pmc = s1.core.pmc := by
    rw [vredDone, holdUpdates_pmc, collects]
  refine ⟨finished_completed (s1 := s1) ?_ (congrArg (fun m : Vector Word 8 => m[0]) counted) beats, fun room => ?_⟩
  · rw [vredDone_ctx, (atomicHome_keeps s u true).ctx]
  · obtain ⟨l, held⟩ := holdUpdates_room (s := s1.collect true (s.x b + BitVec.ofNat 64 (s.ctx.elem i.toNat s.ctx.sew k)) pa
      (s.ctx.sew / 8) op (BitVec.ofNat 64 (s.ctx.elem d.toNat s.ctx.sew k))) (pa := pa) (by rwa [collects])
    rw [collects] at held
    have made : vredDone s d i b k pa u op = _ := (congrArg (holdUpdates · pa) collects).trans held
    obtain ⟨-, -, -, -, -, -, -, bytes⟩ := memoryFinished_done beats (vredDone s d i b k pa u op)
    have left : t.core.reductions = (vredDone s d i b k pa u op).core.reductions := by simp [t, vectorFinished]
    refine ⟨sameBytes_trans ?_ bytes, ?_⟩
    · rw [made]
      exact ⟨fun _ => rfl, fun _ => rfl, fun _ => rfl, fun _ => rfl⟩
    · rw [left, made, AmoOp.code_of_amoOfCode hop]

/-! ### gll (R275) -/

/-- The state after the element of a gll. -/
def gllDone (s : State) (d : BitVec 6) (k pa : Nat) (u : Use) : State :=
  let a := atomicDesc (s.ctx.getOx 3)
  let s1 := atomicHome s u false
  ((s1.acquireAtomic a.order a.scope pa (s.ctx.sew / 8)).reserve k (pa / 8)).putElem d.toNat s.ctx.sew k (physLe s1 pa (s.ctx.sew / 8))

theorem gllDone_ctx : (gllDone s d k pa u).ctx
    = s.ctx.setElem d.toNat s.ctx.sew k (physLe (atomicHome s u false) pa (s.ctx.sew / 8)) := by
  show (State.acquireAtomic _ _ _ _ _).ctx.setElem _ _ _ _ = _
  rw [(acquireAtomic_keeps ..).ctx, (atomicHome_keeps s u false).ctx]

theorem gllRead_phys {s : State} {va : Word} {m j : Nat} (a : AtomicDesc) (htr : translate s s.part s.privileged va Need.atom = .ok (.phys pa u))
    (hstrike : s.strike .loadPath = none) (hclean : touchesPoison (markUsed s u false).publish pa m = false) :
    gllRead s va m j a = .ok (physLe (markUsed s u false).publish pa m,
      ((markUsed s u false).publish.acquireAtomic a.order a.scope pa m).reserve j (pa / 8)) := by
  unfold gllRead
  rw [htr]
  dsimp only
  rw [State.struck, hstrike, hclean]
  rfl

theorem exec_gll (h : AtomicElement s k d i b n p) (hapart : disjointGroups (s.ctx.dest d) (s.ctx.dest i) = true)
    (htr : translate (atomicReached s) (atomicReached s).part (atomicReached s).privileged
      (s.x b + BitVec.ofNat 64 (s.ctx.elem i.toNat s.ctx.sew k)) Need.atom = .ok (.phys pa u))
    (hclean : touchesPoison (atomicHome s u false) pa (s.ctx.sew / 8) = false) :
    ∃ beats, exec (.gll d b i n p) s = .next (vectorFinished beats ((gllDone s d k pa u).ctx, Flags.none) (gllDone s d k pa u)) := by
  have accessed := gllRead_phys (j := k) (atomicDesc (s.ctx.getOx 3)) htr h.loadPath hclean
  have allowed : (atomicOk s d i n p && orderOk (atomicDesc (s.ctx.getOx 3)).order (atomicDesc (s.ctx.getOx 3)).scope
      && disjointGroups (s.ctx.dest d) (s.ctx.dest i)) = true := by
    rw [h.ok, h.order, hapart]
    rfl
  show ∃ beats, execGll d b i n p s = _
  unfold execGll
  dsimp only
  rw [whenOk_of allowed]
  refine h.run (activeElement_of h.one rfl rfl rfl rfl) rfl (destBound_aside h.wells (by simp) rfl) (by simp) ?_
    ((congrArg Ctx.vl gllDone_ctx).trans rfl)
  simp only [indexedAddress, accessed]
  rfl

theorem gllDone_completed (h : AtomicElement s k d i b n p) (hd : groupHere s d s.ctx.group = true) (beats : Nat) :
    let s1 := atomicHome s u false
    let t := vectorFinished beats ((gllDone s d k pa u).ctx, Flags.none) (gllDone s d k pa u)
    Completed 4 s1 t ∧ (k, pa / 8) ∈ t.core.resv ∧ t.ctx.elem d.toNat s.ctx.sew k = physLe s1 pa (s.ctx.sew / 8) := by
  intro s1 t
  have party := acquireAtomic_sameParty s1 (atomicDesc (s.ctx.getOx 3)).order (atomicDesc (s.ctx.getOx 3)).scope pa (s.ctx.sew / 8)
  refine ⟨finished_completed (s1 := s1) (t := gllDone s d k pa u) ?_ party.counted beats, ?_, ?_⟩
  · rw [gllDone_ctx, (atomicHome_keeps s u false).ctx]
    rfl
  · have left : t.core.resv = (gllDone s d k pa u).core.resv := by simp [t, vectorFinished]
    rw [left]
    exact List.mem_append_right _ (List.mem_singleton_self _)
  · have below := (activeElement_of (o := loadOp s.ctx d none n p) h.one rfl rfl rfl rfl).below
    have inside := register_inside (element_inside s.ctx.sew_pos h.vl below)
    have fits := groupHere_fits hd
    have wide : 8 ≤ s.ctx.sew := by have := h.sew; omega
    have value := physLe_lt s1 pa (s.ctx.sew / 8)
    rw [bytes_pow, Ctx.sew_bytes wide] at value
    rw [vectorFinished_elem, gllDone_ctx, elem_setElem_same _ s.ctx.sew_dvd _ _ (by omega)]
    exact Nat.mod_eq_of_lt value

/-! ### scc (R275) -/

/-- The reservation of element k ends. -/
def State.endElement (s : State) (k : Nat) : State := { s with core := { s.core with resv := s.core.resv.filter (fun e => e.1 ≠ k) } }

/-- The store of an scc whose reservation stands. -/
def State.sccWrite (s : State) (order : BitVec 2) (pa m x : Nat) : State :=
  let rel := decide (2 ≤ order.toNat)
  let s2 := (homeWrite (if rel then stampHome s pa else s) pa (natBytes m x)).dropOwnResv pa m
  if rel then s2.markRelease pa m else s2

theorem sccWrite_counted {s : State} (order : BitVec 2) (m x : Nat) (h : spaceOf pa ≠ .control) :
    (s.sccWrite order pa m x).core.pmc[0] = s.core.pmc[0] := by
  have written := (stamped_sameParty s (decide (2 ≤ order.toNat)) pa).trans (homeWrite_sameParty (natBytes m x) h)
  exact (marked_sameParty _ (decide (2 ≤ order.toNat)) pa m).counted.trans written.counted

theorem sccWrite_ctx (s : State) (order : BitVec 2) (pa m x : Nat) : (s.sccWrite order pa m x).ctx = s.ctx := by
  have stamped : (if decide (2 ≤ order.toNat) = true then stampHome s pa else s).ctx = s.ctx := by
    split
    · exact (stampHome_onlyMessages s pa).ctx
    · rfl
  have marked (t : State) : (if decide (2 ≤ order.toNat) = true then t.markRelease pa m else t).ctx = t.ctx := by
    unfold State.markRelease
    split_ifs <;> rfl
  rw [State.sccWrite, marked]
  exact (homeWrite_keeps _ pa _).ctx.trans stamped

theorem sccWrite_mem {s : State} (order : BitVec 2) (m x : Nat) (h : spaceOf pa ≠ .control) :
    (s.sccWrite order pa m x).mem = memWriteBytes s.mem pa (natBytes m x) := by
  have stamped : (if decide (2 ≤ order.toNat) = true then stampHome s pa else s).mem = s.mem := by
    split
    · exact (stampHome_onlyMessages s pa).mem
    · rfl
  have marked (t : State) : (if decide (2 ≤ order.toNat) = true then t.markRelease pa m else t).mem = t.mem := by
    unfold State.markRelease
    split_ifs <;> rfl
  rw [State.sccWrite, marked]
  exact (homeWrite_mem _ _ h).trans (by rw [stamped])

/-- The state in which the home decides an scc. -/
def sccHome (s : State) (u : Use) (pa : Nat) : State :=
  let a := atomicDesc (s.ctx.getOx 3)
  (atomicHome s u true).released.acquireAtomic a.order a.scope pa (s.ctx.sew / 8)

theorem sccHome_ctx : (sccHome s u pa).ctx = { s.ctx with release := none } := by
  rw [sccHome, (acquireAtomic_keeps ..).ctx, State.released, (atomicHome_keeps s u true).ctx]

theorem sccHome_party : (atomicHome s u true).SameParty (sccHome s u pa) :=
  (State.SameParty.of_core rfl rfl : (atomicHome s u true).SameParty (atomicHome s u true).released).trans (acquireAtomic_sameParty ..)

/-- The state after the element of an scc. -/
def sccDone (s : State) (d : BitVec 6) (k pa : Nat) (u : Use) : State :=
  let a := atomicDesc (s.ctx.getOx 3)
  let won := (atomicHome s u true).core.resv.contains (k, pa / 8)
  let t := (if won then (sccHome s u pa).sccWrite a.order pa (s.ctx.sew / 8) (s.ctx.elem d.toNat s.ctx.sew k) else sccHome s u pa).endElement k
  { t with ctx := t.ctx.setPBit a.spred k won }

theorem sccDone_ctx : (sccDone s d k pa u).ctx = ({ s.ctx with release := none } : Ctx).setPBit (atomicDesc (s.ctx.getOx 3)).spred k
    ((atomicHome s u true).core.resv.contains (k, pa / 8)) := by
  refine congrArg (fun r : Ctx => r.setPBit _ k _) (Eq.trans ?_ (sccHome_ctx (u := u) (pa := pa)))
  show (if _ then _ else _ : State).ctx = _
  split
  · exact sccWrite_ctx ..
  · rfl

theorem sccDone_counted (hspace : spaceOf pa ≠ .control) :
    (sccDone s d k pa u).core.pmc[0] = (atomicHome s u true).core.pmc[0] := by
  refine Eq.trans ?_ (sccHome_party (pa := pa)).counted
  unfold sccDone
  dsimp only [State.endElement]
  split
  · exact sccWrite_counted _ _ _ hspace
  · rfl

theorem acquireAtomic_unstamped {s : State} (h : s.stamps = []) (order scope : BitVec 2) (m : Nat) :
    s.OnlyLines (s.acquireAtomic order scope pa m) := by
  have unread : s.stampRead pa m = none := by simp [State.stampRead, State.stampsOf, h]
  unfold State.acquireAtomic State.acquire
  rw [unread]
  split
  · exact podLines_onlyLines s _
  · exact .refl s

theorem sccDone_mem (hspace : spaceOf pa ≠ .control) (won : (atomicHome s u true).core.resv.contains (k, pa / 8) = true) :
    (sccDone s d k pa u).mem = memWriteBytes (atomicHome s u true).mem pa (natBytes (s.ctx.sew / 8) (s.ctx.elem d.toNat s.ctx.sew k)) := by
  have home : (sccHome s u pa).mem = (atomicHome s u true).mem := acquireAtomic_mem ..
  unfold sccDone
  dsimp only [State.endElement]
  rw [if_pos won, sccWrite_mem _ _ _ hspace, home]

theorem sccDone_sameBytes (lost : (atomicHome s u true).core.resv.contains (k, pa / 8) = false) (unstamped : (atomicHome s u true).stamps = []) :
    SameBytes (atomicHome s u true) (sccDone s d k pa u) := by
  have lines := (acquireAtomic_unstamped (pa := pa) (s := (atomicHome s u true).released) unstamped (atomicDesc (s.ctx.getOx 3)).order
    (atomicDesc (s.ctx.getOx 3)).scope (s.ctx.sew / 8)).rest
  have home : SameBytes (atomicHome s u true) (sccHome s u pa) := by
    rw [sccHome, lines]
    exact ⟨fun _ => rfl, fun _ => rfl, fun _ => rfl, fun _ => rfl⟩
  obtain ⟨mem, ctl, pad, persisted⟩ := home
  unfold sccDone
  dsimp only [State.endElement]
  rw [lost]
  exact ⟨mem, ctl, pad, persisted⟩

theorem sccElem_phys (h : AtomicElement s k d i b n p)
    (htr : translate (atomicReached s) (atomicReached s).part (atomicReached s).privileged
      (s.x b + BitVec.ofNat 64 (s.ctx.elem i.toNat s.ctx.sew k)) Need.atom = .ok (.phys pa u))
    (hobj : touchesObject (atomicReached s) pa (s.ctx.sew / 8) = false) :
    let a := atomicDesc (s.ctx.getOx 3)
    let won := (atomicHome s u true).core.resv.contains (k, pa / 8)
    let x := s.ctx.elem d.toNat s.ctx.sew k
    sccElem (atomicReached s) (s.x b + BitVec.ofNat 64 (s.ctx.elem i.toNat s.ctx.sew k)) (s.ctx.sew / 8) a k x
      = .ok (won, (if won then (sccHome s u pa).sccWrite a.order pa (s.ctx.sew / 8) x else sccHome s u pa).endElement k) := by
  intro a won x
  have resv : won = (sccHome s u pa).core.resv.contains (k, pa / 8) := congrArg (List.contains · (k, pa / 8)) sccHome_party.resv.symm
  unfold sccElem
  rw [htr]
  dsimp only
  rw [hobj, State.struck, h.loadPath]
  show (if (sccHome s u pa).core.resv.contains (k, pa / 8) = true then _ else _ : Res (Bool × State)) = _
  rw [← resv]
  cases won <;> rfl

theorem exec_scc (h : AtomicElement s k d i b n p) (hpred : (atomicDesc (s.ctx.getOx 3)).spred ≠ 0)
    (hrange : (atomicDesc (s.ctx.getOx 3)).spred < 24) (hapart : (atomicDesc (s.ctx.getOx 3)).spred ≠ p.toNat)
    (htr : translate (atomicReached s) (atomicReached s).part (atomicReached s).privileged
      (s.x b + BitVec.ofNat 64 (s.ctx.elem i.toNat s.ctx.sew k)) Need.atom = .ok (.phys pa u))
    (hobj : touchesObject (atomicReached s) pa (s.ctx.sew / 8) = false) :
    ∃ beats, exec (.scc d b i n p) s = .next (vectorFinished beats ((sccDone s d k pa u).ctx, Flags.none) (sccDone s d k pa u)) := by
  have accessed := sccElem_phys h htr hobj
  have allowed : (atomicOk s d i n p && orderOk (atomicDesc (s.ctx.getOx 3)).order (atomicDesc (s.ctx.getOx 3)).scope
      && decide ((atomicDesc (s.ctx.getOx 3)).spred ≠ 0) && decide ((atomicDesc (s.ctx.getOx 3)).spred < 24)
      && decide ((atomicDesc (s.ctx.getOx 3)).spred ≠ p.toNat)) = true := by
    rw [h.ok, h.order, decide_eq_true hpred, decide_eq_true hrange, decide_eq_true hapart]
    rfl
  have len : (sccDone s d k pa u).ctx.vl = s.ctx.vl := by
    rw [sccDone_ctx, Ctx.setPBit, Ctx.setP_rest]
  show ∃ beats, execScc d b i n p s = _
  unfold execScc
  dsimp only
  rw [whenOk_of allowed]
  refine h.run (activeElement_of h.one rfl rfl rfl rfl) rfl (destBound_shape h.wells (by simp) rfl) (by simp) ?_ len
  simp only [indexedAddress, accessed]
  rfl

theorem sccDone_completed (h : AtomicElement s k d i b n p) (hspace : spaceOf pa ≠ .control) (hpred : (atomicDesc (s.ctx.getOx 3)).spred ≠ 0)
    (hrange : (atomicDesc (s.ctx.getOx 3)).spred < 24)
    (htr : translate (atomicReached s) (atomicReached s).part (atomicReached s).privileged
      (s.x b + BitVec.ofNat 64 (s.ctx.elem i.toNat s.ctx.sew k)) Need.atom = .ok (.phys pa u)) (beats : Nat) :
    let s1 := atomicHome s u true
    let t := vectorFinished beats ((sccDone s d k pa u).ctx, Flags.none) (sccDone s d k pa u)
    Completed 4 s1 t ∧ (t.ctx.getP (atomicDesc (s.ctx.getOx 3)).spred).getLsbD k = s1.core.resv.contains (k, pa / 8) ∧
      (s1.core.resv.contains (k, pa / 8) = true → physLe t pa (s.ctx.sew / 8) = s.ctx.elem d.toNat s.ctx.sew k) ∧
      (s1.core.resv.contains (k, pa / 8) = false → s1.stamps = [] → SameBytes s1 t) := by
  intro s1 t
  have size := sew_size h.sew
  have bits : 8 * (s.ctx.sew / 8) = s.ctx.sew := by have := h.sew; omega
  have below : k < 1024 := (activeElement_of (o := loadOp s.ctx d none n p) h.one rfl rfl rfl rfl).below.trans_le (vl_le_of_vlmax h.vl)
  obtain ⟨-, -, -, -, -, -, -, bytes⟩ := memoryFinished_done beats (sccDone s d k pa u)
  refine ⟨finished_completed (s1 := s1) (t := sccDone s d k pa u) ?_ ?_ beats, ?_, fun won => ?_, fun lost unstamped => ?_⟩
  · rw [sccDone_ctx, Ctx.setPBit, Ctx.setP_rest, (atomicHome_keeps s u true).ctx]
  · exact sccDone_counted hspace
  · rw [vectorFinished_ctx, sccDone_ctx]
    show ((Ctx.setPBit _ _ _ _).getP _).getLsbD k = _
    rw [Ctx.getLsbD_setPBit_same _ _ _ hpred hrange below, if_pos rfl]
  · have left : t.mem = (sccDone s d k pa u).mem := by simp [t, vectorFinished]
    have wf := ((atomicHome_keeps s u true).form h.form).1
    refine physLe_written wf hspace size (aligned_of_translate size h.aligned htr) ?_ (left.trans (sccDone_mem hspace won))
    rw [bytes_pow, bits]
    exact elem_lt ..
  · exact sameBytes_trans (sccDone_sameBytes lost unstamped) bytes

end

/-- Settles O36: each of the four makes its one access at the home, in the state that its release leaves. -/
theorem vectorAtomicElement : Obligations.VectorAtomicElement := by
  intro s k pa d i b n p u op hone hwf hu w desc va elem s0 s1 old hsew hvl hservice hmask hd hi apart hbits hop hcas horder hw halign hpeer
    hready htr hspace
  have atomic : AtomicElement s k d i b n p := by
    refine ⟨hone, hwf, hu, hsew, hvl, hservice, ?_, by simpa [orderOk, imp_iff_not_or] using horder, hw, halign, hpeer, hready⟩
    have compare : desc.op ≠ 1 := fun e => hcas (by rw [e] at hop; cases hop; rfl)
    have width : (decide (s.ctx.sew = 32) || decide (s.ctx.sew = 64)) = true := by simpa using hsew
    simp [atomicOk, hmask, State.hasOx, hservice, width, hd, hi, hbits]
    exact compare
  refine ⟨fun hobj => ⟨fun hapart hclean => ?_, fun hclean hrelaxed hswap => ?_, fun hpred hrange hother => ?_⟩, fun hapart hclean => ?_⟩
  · obtain ⟨beats, run⟩ := exec_vamo atomic hop hapart htr hobj hclean
    exact ⟨_, run, vamoDone_completed atomic hspace htr beats⟩
  · obtain ⟨beats, run⟩ := exec_vred atomic hop hrelaxed hswap htr hobj hclean
    exact ⟨_, run, vredDone_completed hop beats⟩
  · obtain ⟨beats, run⟩ := exec_scc atomic (Nat.ne_of_gt hpred) hrange hother htr hobj
    exact ⟨_, run, sccDone_completed atomic hspace (Nat.ne_of_gt hpred) hrange htr beats⟩
  · obtain ⟨beats, run⟩ := exec_gll atomic hapart htr hclean
    exact ⟨_, run, gllDone_completed atomic hd beats⟩

end Sys2Proof.Machine
end


section
/-! SUPPORT. A turn of a core with nothing due before issue (R400); and the claim about it (O4). -/

namespace Sys2Proof.Machine

theorem instrOf_decoded {bs rest : List Byte} {i : Instr} (h : decode bs = .ok (i, rest)) : instrOf bs = i := by
  rw [instrOf, h]

/-- What an instruction that is issued makes, with what its turn adds. -/
theorem runInstr_then {bs rest : List Byte} {i : Instr} (h : decode bs = .ok (i, rest)) (u : State) (f : State → Out) :
    andThen (runInstr bs u) f = andThen (exec i (prepare i u)) fun t => f (afterIssue i bs (prepare i u) t) := by
  unfold runInstr
  rw [instrOf_decoded h]
  dsimp only
  cases exec i (prepare i u) <;> rfl

/-- A step whose turn is a core's. -/
theorem step_core {s : State} {c : Nat} {l : List Turn} (hpower : s.powered = true) (hfrozen : s.frozen = false)
    (hturn : s.schedule = .core c :: l) (hc : c < 2048) :
    let s1 := ({ s with schedule := l }).switchTo c
    step s = coreTurn (1 + Config.stepCycles s1.free) s1 := by
  intro s1
  have turn : nextTurn s = (.core c, { s with schedule := l }) := by rw [nextTurn, hturn]
  have resets : headResets s = false := by rw [headResets, hturn]
  unfold step
  rw [hpower, hfrozen, resets, turn]
  simp only [Bool.not_true, Bool.false_and, Bool.false_eq_true, if_false, takeTurn, Nat.mod_eq_of_lt hc]
  rfl

section
variable {s : State}

theorem startRoutine_none (h : s.core.routines = []) : startRoutine s = s := by
  unfold startRoutine
  split
  case h_1 hroutines => exact absurd (hroutines.symm.trans h) (List.cons_ne_nil _ _)
  case h_2 => rfl

/-- With nothing due before it, a boundary is the issue. -/
theorem boundary_issues (hdroop : droopHeld s = false) (hquantum : quantumOver s.core s.cyc = false) (hpick : mayPick s = false)
    (hroutines : s.core.routines = []) : boundary s = issue s := by
  have calm : duePreemption s = none := by simp [duePreemption, hquantum, hroutines]
  rw [boundary, hdroop, calm]
  simp only [Bool.false_eq_true, if_false, Option.map_none]
  rw [boundary.atBoundary, hquantum, hpick, startRoutine_none hroutines]
  rfl

theorem issue_fetched {bs : List Byte} {u : State} (hmay : mayIssue s = true) (hdue : dueCause s = none) (hstep : s.headStep = none)
    (hfetch : fetchWord s = .ok (bs, u)) : issue s = runInstr bs u := by
  rw [issue, hmay, hdue, hstep, hfetch]
  rfl

theorem issue_followed {st : GangStep} (hmay : mayIssue s = true) (hdue : dueCause s = none) (hstep : s.headStep = some st) :
    issue s = runInstr st.bytes (enterStep st s) := by
  rw [issue, hmay, hdue, hstep]
  rfl

end

/-- A turn of a core in whose boundary an instruction is issued. -/
theorem coreTurn_issues {n : Nat} {s u : State} {bs rest : List Byte} {i : Instr} (hdecode : decode bs = .ok (i, rest))
    (h : boundary (setCut n s) = runInstr bs u) : coreTurn n s = turnOf n s i bs u := by
  rw [coreTurn, h, runInstr_then hdecode]
  rfl

/-- Settles O4: the boundary comes to the issue, which executes what the bytes decode to. -/
theorem stepRunsDecodedInstruction : Obligations.StepRunsDecodedInstruction := by
  intro s s0 c l bs rest i hpower hfrozen hturn hc s1 n hs0 hdroop hquantum hpick hroutines hmay hdue
  have turn := step_core hpower hfrozen hturn hc
  have issues := boundary_issues hdroop hquantum hpick hroutines
  refine ⟨fun u hstep hfetch hdecode => ?_, fun st hstep hdecode => ?_⟩
  · exact turn.trans (coreTurn_issues hdecode (hs0 ▸ issues.trans (issue_fetched hmay hdue hstep hfetch)))
  · exact turn.trans (coreTurn_issues hdecode (hs0 ▸ issues.trans (issue_followed hmay hdue hstep)))

end Sys2Proof.Machine
end


section
/-! SUPPORT. The canonical form of the memories (log entry 2): what it is of a state that a record update makes, of an outcome, and of a
fold. The lemma `f_form` of a function f of the model says that the state f leaves has that form where the state it is given has it. -/

namespace Sys2Proof.Machine

/-- A record update that names none of the four memories leaves their form. -/
theorem State.memWf.update {s : State} {
    cyc cur ctx lc core others present objects full poison padPoison padFlips pathPoison durable durableNext pbuf flights clocks stamps
    heldStamps rdc podSignals fabric fabricNext launches pendingLaunches nextOrder nextSerial rounds view supervised returned waiters
    levelled tlb walkCache migration keys keyNext leases leaseCycles rake heldRecords lines bittern stationsDown sparesUsed snoop
    heldWrites attest reports recovery images errLog power hot cool frozen powered schedule cut strikes pending free}
    (h : s.memWf) : State.memWf { s with
      cyc := cyc, cur := cur, ctx := ctx, lc := lc, core := core, others := others, present := present, objects := objects, full := full,
      poison := poison, padPoison := padPoison, padFlips := padFlips, pathPoison := pathPoison, durable := durable,
      durableNext := durableNext, pbuf := pbuf, flights := flights, clocks := clocks, stamps := stamps, heldStamps := heldStamps,
      rdc := rdc, podSignals := podSignals, fabric := fabric, fabricNext := fabricNext, launches := launches,
      pendingLaunches := pendingLaunches, nextOrder := nextOrder, nextSerial := nextSerial, rounds := rounds, view := view,
      supervised := supervised, returned := returned, waiters := waiters, levelled := levelled, tlb := tlb, walkCache := walkCache,
      migration := migration, keys := keys, keyNext := keyNext, leases := leases, leaseCycles := leaseCycles, rake := rake,
      heldRecords := heldRecords, lines := lines, bittern := bittern, stationsDown := stationsDown, sparesUsed := sparesUsed,
      snoop := snoop, heldWrites := heldWrites, attest := attest, reports := reports, recovery := recovery, images := images,
      errLog := errLog, power := power, hot := hot, cool := cool, frozen := frozen, powered := powered, schedule := schedule, cut := cut,
      strikes := strikes, pending := pending, free := free } := h

theorem State.memWf.setCtl {s : State} {m : Mem} (h : s.memWf) (w : Memory.wf m = true) : State.memWf { s with ctl := m } :=
  ⟨h.1, w, h.2.2⟩

theorem State.memWf.setPad {s : State} {m : Mem} (h : s.memWf) (w : Memory.wf m = true) : State.memWf { s with pad := m } :=
  ⟨h.1, h.2.1, w, h.2.2.2⟩

theorem State.memWf.setPersisted {s : State} {m : Mem} (h : s.memWf) (w : Memory.wf m = true) : State.memWf { s with persisted := m } :=
  ⟨h.1, h.2.1, h.2.2.1, w⟩

/-- What an outcome leaves is in canonical form. -/
def Formed (o : Out) : Prop := ∀ t, o = .next t → t.memWf

theorem formed_next {s : State} (h : s.memWf) : Formed (.next s) := by
  intro t e
  cases e
  exact h

theorem formed_fault (f : Fault) : Formed (.fault f) := fun _ e => nomatch e

theorem formed_refused (r : Refusal) : Formed (.refused r) := fun _ e => nomatch e

theorem ite_form {c : Prop} [Decidable c] {s t : State} (hs : s.memWf) (ht : t.memWf) : (if c then s else t).memWf := by
  split
  · exact hs
  · exact ht

theorem foldl_form {α : Type} {f : State → α → State} {s : State} {l : List α} (hf : ∀ t a, t.memWf → (f t a).memWf) (h : s.memWf) :
    (l.foldl f s).memWf :=
  List.foldlRecOn (motive := State.memWf) l f h fun t ht a _ => hf t a ht

/-- A state that a pair of results has been taken apart into. -/
theorem of_fst {α : Type} {p : State × α} {t : State} {a : α} (h : p.1.memWf) (e : p = (t, a)) : t.memWf := by
  rwa [e] at h

theorem of_snd {α : Type} {p : α × State} {t : State} {a : α} (h : p.2.memWf) (e : p = (a, t)) : t.memWf := by
  rwa [e] at h

/-- The state of a result that two equations name. -/
theorem some_form {s t : State} (e : some s = some t) (h : s.memWf) : t.memWf := by
  cases e
  exact h

theorem ok_snd {α : Type} {a b : α} {s t : State} (e : (.ok (a, s) : Res (α × State)) = .ok (b, t)) (h : s.memWf) : t.memWf := by
  cases e
  exact h

end Sys2Proof.Machine
end


section
/-! SUPPORT. Canonical form: what the operations of the state that the most of the model is made of leave, from what they keep. -/

namespace Sys2Proof.Machine

variable {s : State}

theorem publish_form (h : s.memWf) : s.publish.memWf := (publish_keeps s).form h

theorem fresh_form (h : s.memWf) : s.fresh.memWf := (fresh_keeps s).form h

theorem setCore_form {c : Nat} {k : Core} (h : s.memWf) : (s.setCore c k).memWf := (setCore_keeps s c k).form h

theorem switchTo_form {c : Nat} (h : s.memWf) : (s.switchTo c).memWf := (switchTo_sameMems s c).memWf h

theorem count_form {k : Fin 8} {n : Nat} (h : s.memWf) : (s.count k n).memWf := (count_keeps s k n).form h

theorem touch_form {part va : Nat} {need : Need} {write : Bool} (h : s.memWf) : (s.touch part va need write).memWf :=
  (touch_keeps s part va need write).form h

theorem markUsed_form {u : Use} {write : Bool} (h : s.memWf) : (markUsed s u write).memWf := (markUsed_keeps s u write).form h

theorem homeWrite_form {pa : Nat} {bs : List Byte} (h : s.memWf) : (homeWrite s pa bs).memWf := (homeWrite_keeps s pa bs).form h

theorem padWrite_form {core off : Nat} {bs : List Byte} (h : s.memWf) : (padWrite s core off bs).memWf :=
  (padWrite_keeps s core off bs).form h

theorem wakePan_form {core pan : Nat} (h : s.memWf) : (wakePan s core pan).memWf := (wakePan_keeps s core pan).form h

theorem landFlight_form {f : Flight} (h : s.memWf) : (landFlight s f).memWf := (landFlight_keeps s f).form h

theorem acquireAtomic_form {order scope : BitVec 2} {pa n : Nat} (h : s.memWf) : (s.acquireAtomic order scope pa n).memWf :=
  (acquireAtomic_keeps s order scope pa n).form h

theorem stampHome_form {pa : Nat} (h : s.memWf) : (stampHome s pa).memWf := (stampHome_onlyMessages s pa).sameMems.memWf h

theorem writeQcb_form {pa q : Nat} (h : s.memWf) : (writeQcb s pa q).memWf := (writeQcb_keeps s pa q).form h

theorem report_form {e : ErrInfo} (h : s.memWf) : (report s e).memWf := (report_keeps s e).form h

theorem logRecord_form {r : List Word} (h : s.memWf) : (logRecord s r).memWf := (logRecord_keeps s r).form h

theorem produceRecord_form {part mode core : Nat} {rec : List Word} (h : s.memWf) : (produceRecord s part mode core rec).memWf :=
  (produceRecord_keeps s part mode core rec).form h

theorem countError_form {die off : Nat} (h : s.memWf) : (countError s die off).memWf := (countError_keeps s die off).form h

theorem signalReply_form {core seq : Nat} {err : BitVec 24} (h : s.memWf) : (signalReply s core seq err).memWf :=
  (signalReply_sameMems s core seq err).memWf h

theorem reads_form {p : Party} {va : Word} {n : Nat} (h : s.memWf) : (s.reads p va n).memWf := (reads_tends s p va n).keeps.form h

theorem descsRead_form {q : Party} {p : Pool} {l : List Nat} (h : s.memWf) : (descsRead q p l s).memWf :=
  (descsRead_tends q p l s).keeps.form h

theorem writeObject_form {p : Party} {va : Word} {n v : Nat} (h : s.memWf) : (writeObject s p va n v).memWf :=
  (writeObject_tends s p va n v).keeps.form h

theorem releaseDesc_form {q : Party} {p : Pool} {d : Desc} (h : s.memWf) : (releaseDesc s q p d).1.memWf :=
  (releaseDesc_tends s q p d).keeps.form h

theorem putJob_form {j : RakeJob} (h : s.memWf) : (s.putJob j).memWf := (putJob_tends s j).keeps.form h

end Sys2Proof.Machine
end


section
/-! SUPPORT. Canonical form: what the operations of the state, the tasks, the operands and the accesses leave. -/

namespace Sys2Proof.Machine

variable {s : State}

/-! ### Space -/

theorem rotateSlot_form {part slot : Nat} (h : s.memWf) : (rotateSlot part s slot).memWf := h.update

theorem State.bumpClock_form {die : Nat} (h : s.memWf) : (State.bumpClock s die).memWf := h.update

theorem State.keepStamp_form {pa n serial tid : Nat} {stamp : Clock} (h : s.memWf) : (State.keepStamp s pa n serial tid stamp).memWf :=
  h.update

theorem State.dropOwnResv_form {pa n : Nat} (h : s.memWf) : (State.dropOwnResv s pa n).memWf := h.update

theorem setPoison_form {word : Nat} {path : Bool} (h : s.memWf) : (setPoison s word path).memWf := h.update

theorem setPadPoison_form {word : Nat} {path : Bool} (h : s.memWf) : (setPadPoison s word path).memWf := h.update

theorem State.met_form {x : Strike} (h : s.memWf) : (State.met s x).memWf := h.update

theorem countErrors_form {die off a : Nat} (h : s.memWf) : (countErrors s die off a).memWf := by
  fun_induction countErrors s die off a
  case case1 => exact h
  case case2 ih1 => exact ih1 (countError_form h)

/-! ### Translate -/

theorem State.setCtx_form {c : Nat} {x : Ctx} (h : s.memWf) : (State.setCtx s c x).memWf := by
  unfold State.setCtx
  split <;> exact h.update

theorem State.onCore_form {c : Nat} {f : State → State} (h : s.memWf) (hf : ∀ t, t.memWf → (f t).memWf) : (State.onCore s c f).memWf :=
  switchTo_form (hf _ (switchTo_form h))

/-! ### Stores -/

theorem rousePan_form {core pan : Nat} (h : s.memWf) : (rousePan s core pan).memWf := by
  unfold rousePan
  dsimp only
  split
  · exact State.memWf.update (setCore_form h)
  · exact setCore_form h
  · exact h

theorem State.acquireRange_form {pa n : Nat} (h : s.memWf) : (State.acquireRange s pa n).memWf := (acquireStamp_keeps ..).form h

theorem sendPresence_form {s0 : State} {vec : Bool} {core off : Nat} {v : Word} (h : s0.memWf) :
    (sendPresence s0 vec core off v).memWf := by
  unfold sendPresence
  dsimp only
  refine State.memWf.update ?_
  split
  · exact State.bumpClock_form h
  · exact h

theorem landInRange_form {core off n : Nat} (h : s.memWf) : (landInRange s core off n).memWf :=
  foldl_form (fun _ _ ht => landFlight_form ht) h

theorem State.markRelease_form {pa n : Nat} (h : s.memWf) : (State.markRelease s pa n).memWf := by
  unfold State.markRelease
  split
  · exact State.keepStamp_form h
  · exact h

theorem State.publishStream_form {vec : Bool} (h : s.memWf) : (State.publishStream s vec).memWf :=
  foldl_form (fun _ _ ht => landFlight_form ht) ((publishWhere_keeps ..).form h)

/-! ### Queue Home -/

theorem wakeEnqueuer_form {qpa : Nat} (h : s.memWf) : (wakeEnqueuer s qpa).memWf := by
  unfold wakeEnqueuer
  split
  · exact h
  · dsimp only
    exact writeQcb_form h.update

theorem offerRecord_form {s t : State} {part core : Nat} {qva : Word} {elem : List Byte} (h : s.memWf)
    (e : offerRecord s part core qva elem = .taken t) : t.memWf := by
  unfold offerRecord at e
  split at e
  · cases e
  · split at e
    · split at e
      · cases e
      · dsimp only at e
        split at e
        · cases e
        · split at e
          · cases e
            exact touch_form (touch_form ((enqueueAt_keeps ..).form h))
          · cases e
    · cases e

theorem pathFailed_form {die part core : Nat} {addr : Word} (h : s.memWf) : (pathFailed s die part core addr).memWf :=
  logRecord_form (countError_form h)

theorem offerHeld_form {qpa : Nat} (h : s.memWf) : (offerHeld s qpa).memWf := by
  unfold offerHeld
  split
  · exact h
  · split
    · exact State.memWf.update (offerRecord_form h ‹_›)
    · exact h

/-! ### Tasks -/

theorem rebase_form (h : s.memWf) : (rebase s).memWf := by
  unfold rebase
  split
  · exact h
  · split
    · exact h
    · dsimp only
      exact h.update

theorem State.charge_form {beats : Nat} (h : s.memWf) : (State.charge s beats).memWf := by
  unfold State.charge
  split
  · exact h
  · exact rebase_form h.update

theorem State.retire_form {beats : Nat} (h : s.memWf) : (State.retire s beats).memWf := count_form (State.charge_form h)

theorem State.retireHeld_form {beats : Nat} (h : s.memWf) : (State.retireHeld s beats).memWf := count_form h.update

theorem writeLines_form {a : List Nat} {a1 : List Byte} (h : s.memWf) : (writeLines s a a1).memWf := by
  fun_induction writeLines s a a1
  case case1 => exact h
  case case2 ih1 => exact ih1 (homeWrite_form h)

theorem mapStarted_form {core serial tid : Nat} {f : TaskInfo → TaskInfo} {g : Ctx → Ctx} (h : s.memWf) :
    (mapStarted s core serial tid f g).memWf := by
  unfold mapStarted
  dsimp only
  split
  · split
    · split
      · exact setCore_form (setCore_form h)
      · exact State.setCtx_form (setCore_form h)
    · exact setCore_form h
  · exact setCore_form h

theorem countStall_form {w : Wait} (h : s.memWf) : (countStall s w).memWf := by
  unfold countStall
  split
  · exact count_form h
  · exact count_form h
  · exact count_form h
  · exact h

theorem releaseSlot_form {slot : Nat} (h : s.memWf) : (releaseSlot s slot).memWf := by
  unfold releaseSlot
  dsimp only
  split
  · split
    · split
      · split
        · exact State.retireHeld_form (State.memWf.update (countStall_form h.update))
        · exact State.memWf.update (countStall_form h.update)
      · split
        · exact State.retire_form (State.memWf.update (countStall_form h.update))
        · exact State.memWf.update (countStall_form h.update)
    · exact h.update
  · exact h.update

theorem leaveGang_form {core serial tid reason : Nat} {trapped : Bool} {rest : List GangStep} (h : s.memWf) :
    (leaveGang s core serial tid reason trapped rest).memWf := by
  unfold leaveGang
  split
  · dsimp only
    exact setCore_form (mapStarted_form h)
  · exact h

theorem releaseMember_form {core serial tid : Nat} (h : s.memWf) : (releaseMember s core serial tid).memWf := by
  unfold releaseMember
  split
  · split
    · exact State.onCore_form h (fun t ht => releaseSlot_form ht)
    · exact h
  · exact h

theorem disbandTask_form {core : Nat} {t : TaskInfo} {own other : Nat} (h : s.memWf) : (disbandTask s core t own other).memWf := by
  unfold disbandTask
  split
  · exact leaveGang_form h
  · dsimp only
    exact foldl_form (fun t1 a ht1 => releaseMember_form ht1) (foldl_form (fun t1 a ht1 => leaveGang_form ht1) h)

theorem dropWaiters_form {core slot : Nat} (h : s.memWf) : (dropWaiters s core slot).memWf := by
  unfold dropWaiters
  dsimp only
  refine foldl_form (fun t a ht => ?_) h.update
  split
  · exact writeQcb_form ht
  · exact writeQcb_form ht
  · exact ht

theorem setLine_form {l : WireLine} (h : s.memWf) : (setLine s l).memWf := h.update

theorem releaseIfComplete_form {n : Nat} (h : s.memWf) : (releaseIfComplete s n).memWf := by
  unfold releaseIfComplete
  dsimp only
  split
  · exact h.update
  · exact h

theorem endEnrolment_form {lines : List Nat} (h : s.memWf) : (endEnrolment s lines).memWf :=
  foldl_form (fun _ _ ht => releaseIfComplete_form ht) h

theorem leaveLines_form {serial tid : Nat} {lines : List Nat} (h : s.memWf) : (leaveLines s serial tid lines).memWf :=
  endEnrolment_form h.update

theorem returnCopy_form (h : s.memWf) : (returnCopy s).memWf := by
  unfold returnCopy
  split
  · exact h
  · exact h.update

theorem markDamaged_form {serial tid : Nat} (h : s.memWf) : (markDamaged s serial tid).memWf := h.update

theorem sendEnd_form {serial tid : Nat} (h : s.memWf) : (sendEnd s serial tid).memWf := h.update

theorem endSuspended_form {t : Suspended} {cause : Cause} {sub : Nat} {addr : Word} (h : s.memWf) :
    (endSuspended s t cause sub addr).memWf := by
  unfold endSuspended
  extract_lets s0 _ s1 s2 s3 _ _ s4
  have hs0 : s0.memWf := disbandTask_form h
  have hs1 : s1.memWf := dropWaiters_form hs0.update
  have hs2 : s2.memWf := hs1.update
  have hs3 : s3.memWf := leaveLines_form hs2
  have hs4 : s4.memWf := report_form hs3
  split
  · exact hs4.update
  · exact sendEnd_form (markDamaged_form hs4)

theorem toBacking_form {t : Suspended} (h : s.memWf) : (toBacking s t).memWf := by
  unfold toBacking
  split
  · exact h
  · split
    · exact endSuspended_form h
    · dsimp only
      exact writeLines_form (State.memWf.update (fresh_form h))

theorem evict_form {t : Suspended} (h : s.memWf) : (evict s t).memWf := by
  unfold evict
  dsimp only
  split
  · exact State.memWf.update (count_form h)
  · exact toBacking_form (count_form h)

theorem makeRoom_form {a a1 a2 : Nat} {a3 : Option Nat} {a4 : Bool} (h : s.memWf) : (makeRoom a s a1 a2 a3 a4).memWf := by
  fun_induction makeRoom a s a1 a2 a3 a4
  case case1 => exact h
  case case2 => exact h
  case case3 => exact h
  case case4 ih1 => exact ih1 (evict_form h)

theorem saveInPlace_form {keep : Option Nat} {idled : Bool} (h : s.memWf) : (saveInPlace s keep idled).memWf := by
  unfold saveInPlace
  split
  · exact h
  · dsimp only
    exact State.memWf.update (makeRoom_form h)

theorem enter_form {t : TaskInfo} {c : Ctx} {w : Option Wait} (h : s.memWf) : (enter s t c w).memWf := by
  unfold enter
  dsimp only
  split
  · exact State.retire_form h.update
  · exact h.update

theorem pickLoop_form {idled : Bool} {n : Nat} (h : s.memWf) : (pickLoop idled n s).memWf := by
  induction n generalizing s with
  | zero => exact h
  | succ n ih =>
    have hs (keep : Option Nat) : ((saveInPlace s keep idled).count 2 1).memWf := count_form (saveInPlace_form h)
    unfold pickLoop
    split
    · exact h
    · dsimp only
      split
      · exact (hs none).update
      · exact enter_form (hs none).update
    · split
      · exact enter_form h.update
      · exact enter_form (hs _).update
      · split
        · split
          · exact enter_form (hs _).update
          · exact ih (endSuspended_form h)
        · exact enter_form (State.memWf.update (count_form (hs _)))

theorem State.pick_form (h : s.memWf) : (State.pick s).memWf := pickLoop_form h

theorem leave_form {t : TaskInfo} {phase : Phase} {w : Option Wait} {bytes : Nat} (h : s.memWf) : (leave s t phase w bytes).memWf :=
  State.memWf.update (returnCopy_form h)

theorem suspendAndPick_form {t : TaskInfo} {phase : Phase} {w : Option Wait} {bytes : Nat} (h : s.memWf) :
    (suspendAndPick s t phase w bytes).memWf := by
  unfold suspendAndPick
  dsimp only
  split
  · exact leave_form h
  · exact State.pick_form (leave_form h)

theorem removeRunning_form {t : TaskInfo} (h : s.memWf) : (removeRunning s t).memWf := by
  unfold removeRunning
  extract_lets s1 _ _ _ s2
  have hs1 : s1.memWf := dropWaiters_form (returnCopy_form h)
  have hs2 : s2.memWf := hs1.update
  exact leaveLines_form hs2

/-! ### Ops -/

theorem State.setX_form {r : BitVec 5} {v : Word} (h : s.memWf) : (State.setX s r v).memWf := h.update

theorem State.advance_form {size : Nat} (h : s.memWf) : (State.advance s size).memWf := h.update

theorem State.ask_form {e : Event} {k : Word → State → Out} (h : s.memWf) (hk : ∀ x0 t, t.memWf → Formed (k x0 t)) :
    Formed (State.ask s e k) := by
  unfold State.ask
  split
  · exact hk _ _ h.update
  · split
    · exact formed_next h
    · exact formed_next h.update

theorem complete_form {size beats : Nat} (h : s.memWf) : Formed (complete size beats s) :=
  formed_next (State.retire_form (State.advance_form h))

theorem waitHere_form (h : s.memWf) : Formed (waitHere s) := formed_next h

theorem disband_form {c own other : Nat} (h : s.memWf) : (disband s c own other).memWf := by
  unfold disband
  split
  · exact disbandTask_form h
  · exact h

theorem startRoutine_form (h : s.memWf) : (startRoutine s).memWf := by
  unfold startRoutine
  split
  · exact h.update
  · exact h

theorem pickIfIdle_form (h : s.memWf) : (pickIfIdle s).memWf := by
  unfold pickIfIdle
  split
  · exact pickLoop_form h
  · exact h

theorem replyRoutine_form {r : Routine} {err : Nat} (h : s.memWf) : (replyRoutine s r err).memWf := by
  unfold replyRoutine
  split
  · exact (sendStamped_onlyMessages ..).sameMems.memWf h
  · exact h

theorem leaveService_form {s0 : State} {err : Nat} (h : s0.memWf) : (leaveService s0 err).memWf := by
  unfold leaveService
  split
  · exact h
  · extract_lets s _ s1
    have hs : s.memWf := publish_form h
    have hs1 : s1.memWf := hs.update
    exact replyRoutine_form hs1

theorem endRoutine_form {err : Nat} (h : s.memWf) : (endRoutine s err).memWf := by
  unfold endRoutine
  split
  · exact pickIfIdle_form (leaveService_form h)
  · exact h

theorem reportRoutine_form {v : Service} {code sub : Nat} {nested : Bool} {addr : Word} (h : s.memWf) :
    (reportRoutine s v code sub nested addr).memWf :=
  report_form h

theorem failRoutine_form {e : Exc} (h : s.memWf) : (failRoutine s e).memWf := by
  unfold failRoutine
  split
  · exact h
  · exact endRoutine_form (reportRoutine_form h)

theorem closeRoutine_form (h : s.memWf) : (closeRoutine s).memWf := by
  unfold closeRoutine
  dsimp only
  split
  · exact failRoutine_form (publish_form h)
  · exact endRoutine_form (publish_form h)

theorem refuseRoutines_form (h : s.memWf) : (refuseRoutines s).memWf := by
  unfold refuseRoutines
  refine foldl_form (fun t a ht => ?_) h.update
  split
  · exact replyRoutine_form ht
  · exact report_form ht

theorem stopService_form {code sub : Nat} {addr : Word} (h : s.memWf) : (stopService s code sub addr).memWf := by
  unfold stopService
  refine refuseRoutines_form ?_
  split
  · exact leaveService_form (reportRoutine_form h)
  · exact h

theorem State.jump_form {target : Word} (h : s.memWf) : (State.jump s target).memWf := by
  unfold State.jump
  split
  · exact closeRoutine_form h
  · exact h.update

theorem initCell_form {pa target : Nat} (h : s.memWf) : (initCell s pa target).memWf := State.memWf.update (homeWrite_form h)

theorem initFaultCell_form {part va pa : Nat} (h : s.memWf) : (initFaultCell s part va pa).memWf := initCell_form (touch_form h)

theorem addWaiter_form {w : Waiter} {front : Bool} (h : s.memWf) : (addWaiter s w front).memWf := h.update

theorem waitOn_form {t : TaskInfo} {w : Wait} {on_ : WaiterOn} {pa : Nat} {front : Bool} (h : s.memWf) :
    (waitOn s t w on_ pa front).memWf := by
  unfold waitOn
  split
  · exact suspendAndPick_form h.update
  · exact suspendAndPick_form (addWaiter_form h)

theorem parkOnPage_form {t : TaskInfo} {x : Exc} {u : State} (h : s.memWf) (e : parkOnPage s t x = some u) : u.memWf := by
  unfold parkOnPage at e
  split at e
  · cases e
  · exact some_form e (waitOn_form (produceRecord_form (initFaultCell_form h)))

theorem endBySupervisor_form {t : TaskInfo} {e : Exc} {nested : Bool} (h : s.memWf) : (endBySupervisor s t e nested).memWf := by
  unfold endBySupervisor
  extract_lets _ s1 _ s2
  have hs1 : s1.memWf := removeRunning_form h
  have hs2 : s2.memWf := report_form hs1
  exact State.pick_form (sendEnd_form (markDamaged_form hs2))

theorem containRecord_form {core : Nat} {key : Nat × Nat} {code sub source drain : Nat} {epc addr : Word} (h : s.memWf) :
    (containRecord s core key code sub source drain epc addr).memWf :=
  report_form h

theorem contain_form {code sub : Nat} {addr : Word} {own : Bool} (h : s.memWf) : (contain s code sub addr own).memWf := by
  unfold contain
  extract_lets epc n s0 started s1 s2 keys slots lines s3 restart held s4 s5 s6
  have h1 : s1.memWf := returnCopy_form (foldl_form (fun t a ht => disbandTask_form ht) (stopService_form h))
  have h3 : s3.memWf := foldl_form (fun t a ht => dropWaiters_form ht) ((drain_keeps ..).form h1)
  have h5 : s5.memWf := endEnrolment_form (State.memWf.update h3)
  have h6 : s6.memWf := by
    dsimp only [s6]
    clear_value keys
    split
    · exact h5
    · refine foldl_form (fun t a ht => containRecord_form ht) ?_
      split <;> exact containRecord_form h5
  exact fresh_form h6.update

theorem enterHandler_form {e : Exc} (h : s.memWf) : (enterHandler s e).memWf := h.update

theorem countConsumed_form {e : Exc} (h : s.memWf) : (countConsumed s e).memWf := by
  unfold countConsumed
  split
  · dsimp only
    refine countError_form ?_
    split
    · split
      · exact pathFailed_form (State.met_form h)
      · exact h
    · exact h
  · exact h

theorem takeCause_form {e : Exc} (h : s.memWf) : (takeCause s e).memWf := by
  unfold takeCause
  split
  · exact contain_form (countConsumed_form h)
  · split
    · exact failRoutine_form h
    · split
      · exact h
      · split
        · split
          · exact parkOnPage_form h ‹_›
          · exact endBySupervisor_form (disband_form h)
        · dsimp only
          split
          · exact enterHandler_form (disband_form h)
          · exact endBySupervisor_form (disband_form h)

theorem raise_form {e : Exc} (h : s.memWf) : Formed (raise s e) := formed_next (takeCause_form h)

theorem illegal_form {word : Nat} (h : s.memWf) : Formed (illegal word s) := raise_form h

theorem addressOk_form {k : Out} (h : s.memWf) (hk : Formed k) : Formed (addressOk s k) := by
  unfold addressOk
  split
  · exact raise_form (State.met_form h)
  · exact hk

theorem returnFromHandler_form (h : s.memWf) : (returnFromHandler s).memWf := h.update

theorem withRes_form {α : Type} {r : Res α} {k : α → Out} (h : s.memWf) (hk : ∀ a, r = .ok a → Formed (k a)) :
    Formed (withRes s r k) := by
  unfold withRes
  split
  · exact hk _ rfl
  · exact raise_form h

/-! ### Operands -/

theorem outsideService_form {word : Nat} {k : Out} (h : s.memWf) (hk : Formed k) : Formed (outsideService s word k) := by
  unfold outsideService
  split
  · exact illegal_form h
  · exact hk

theorem whenPrivileged_form {k : Out} (h : s.memWf) (hk : Formed k) : Formed (whenPrivileged s k) := by
  unfold whenPrivileged
  split
  · exact hk
  · exact raise_form h

theorem whenOk_form {ok : Bool} {word : Nat} {k : Out} (h : s.memWf) (hk : Formed k) : Formed (whenOk ok word s k) := by
  unfold whenOk
  split
  · exact hk
  · exact illegal_form h

/-! ### Reductions -/

theorem State.collect_form {vec : Bool} {va : Word} {pa n : Nat} {op : AmoOp} {x : Word} (h : s.memWf) :
    (State.collect s vec va pa n op x).memWf := by
  unfold State.collect
  dsimp only
  refine State.memWf.update ?_
  split
  · exact State.dropOwnResv_form h
  · exact h

theorem combinePackage_form (h : s.memWf) : (combinePackage s).memWf := (combineWhere_keeps ..).form h

theorem combineRead_form {vec : Bool} {pa n : Nat} (h : s.memWf) : (combineRead s vec pa n).memWf := (combineWhere_keeps ..).form h

theorem combineStream_form {vec : Bool} (h : s.memWf) : (combineStream s vec).memWf := (combineWhere_keeps ..).form h

/-! ### Access -/

theorem cachedLine_form {who : Loader} {part peer addr : Nat} {va : Word} {r : List Byte} {t1 : State} (h : s.memWf)
    (e : cachedLine s who part peer addr va = .ok (r, t1)) : t1.memWf := by
  unfold cachedLine at e
  dsimp only at e
  split at e
  · cases e
    exact (lookL1_keeps ..).form h
  · split at e
    · cases e
    · cases e
      exact (lookL1_keeps ..).form ((fillRdc_keeps ..).form (fresh_form h))

theorem State.noteRead_form {who : Loader} {pa n : Nat} (h : s.memWf) : (State.noteRead s who pa n).memWf := by
  unfold State.noteRead
  split
  · exact h
  · exact h.update

theorem State.acquire_form {pod : Bool} {stamp : Option Clock} (h : s.memWf) : (State.acquire s pod stamp).memWf := by
  unfold State.acquire
  refine (acquireStamp_keeps ..).form ?_
  split
  · exact (dropFabricLines_onlyLines ..).keeps.form h
  · exact h

theorem readAs_form {who : Loader} {part : Nat} {priv : Bool} {va : Word} {n : Nat} {need : Need} {newLine : Bool} {r : List Byte}
    {t1 : State} (h : s.memWf) (e : readAs s who part priv va n need newLine = .ok (r, t1)) : t1.memWf := by
  unfold readAs at e
  split at e
  · cases e
  · dsimp only at e
    split at e
    · split at e
      · cases e
      · split at e
        · cases e
        · cases e
          refine State.noteRead_form ?_
          refine markUsed_form ?_
          split
          · exact (loadLine_keeps ..).form (combineRead_form h)
          · exact combineRead_form h
    · split at e
      · cases e
      · split at e
        · cases e
        · cases e
          refine State.noteRead_form ?_
          refine markUsed_form ?_
          split
          · exact (loadLine_keeps ..).form (combineRead_form ((passOther_keeps ..).form h))
          · exact combineRead_form ((passOther_keeps ..).form h)
  · split at e
    · cases e
    · split at e
      · split at e
        · cases e
        · cases e
          exact markUsed_form (cachedLine_form h ‹_›)
      · dsimp only at e
        split at e
        · cases e
        · cases e
          refine fresh_form ?_
          refine markUsed_form ?_
          split
          · exact (lookL1_keeps ..).form ((countMigration_keeps ..).form h)
          · exact h

theorem readVa_form {va : Word} {n : Nat} {need : Need} {r : List Byte} {t1 : State} (h : s.memWf) (e : readVa s va n need = .ok (r, t1)) :
    t1.memWf := by
  unfold readVa at e
  exact readAs_form h e

theorem State.buffer_form {vec : Bool} {va : Word} {pa : Nat} {bytes : List Byte} (h : s.memWf) :
    (State.buffer s vec va pa bytes).memWf := by
  unfold State.buffer
  dsimp only
  refine State.memWf.update ?_
  split
  · exact State.dropOwnResv_form h
  · exact h

theorem writeHeldLine_form {part peer addr : Nat} {bytes : List Byte} (h : s.memWf) : (writeHeldLine s part peer addr bytes).memWf :=
  h.update

theorem State.postFabric_form {peer addr : Nat} {va : Word} (h : s.memWf) : (State.postFabric s peer addr va).memWf := h.update

theorem writeTo_form {vec : Bool} {va : Word} {t : Target} {bytes : List Byte} {t1 : State} (h : s.memWf)
    (e : writeTo s vec va t bytes = .ok t1) : t1.memWf := by
  unfold writeTo at e
  split at e
  · split at e
    · cases e
    · cases e
      exact State.buffer_form (combineRead_form (markUsed_form h))
  · cases e
    exact writeHeldLine_form (State.postFabric_form (markUsed_form h))

theorem writeVa_form {vec : Bool} {va : Word} {bytes : List Byte} {need : Need} {t : State} (h : s.memWf)
    (e : writeVa s vec va bytes need = .ok t) : t.memWf := by
  unfold writeVa at e
  split at e
  · cases e
  · exact writeTo_form h e

theorem readPlace_form {w : Word} {off : Int} {n : Nat} {r : List Byte} {t1 : State} (h : s.memWf) (e : readPlace s w off n = .ok (r, t1)) :
    t1.memWf := by
  unfold readPlace at e
  split at e
  · cases e
  · dsimp only at e
    split at e
    · cases e
    · split at e
      · cases e
      · cases e
        exact landInRange_form (wakePan_form h)

theorem writePlace_form {w : Word} {off : Int} {bytes : List Byte} {t : State} (h : s.memWf) (e : writePlace s w off bytes = .ok t) :
    t.memWf := by
  unfold writePlace at e
  split at e
  · cases e
  · split at e
    · cases e
    · cases e
      exact padWrite_form (landInRange_form (wakePan_form h))

theorem whenAwake_form {core off n : Nat} {k : State → Out} (h : s.memWf) (hk : ∀ t, t.memWf → Formed (k t)) :
    Formed (whenAwake s core off n k) := by
  unfold whenAwake
  split
  · exact hk _ h
  · exact waitHere_form (foldl_form (fun t a ht => rousePan_form ht) h)

theorem consumeWord_form {core off : Nat} (h : s.memWf) : (consumeWord s core off).memWf := h.update

theorem State.released_form (h : s.memWf) : (State.released s).memWf := h.update

theorem State.clearLost_form (h : s.memWf) : (State.clearLost s).memWf := h.update

theorem podRelease_form {k : State → Out} (h : s.memWf) (hk : ∀ t, t.memWf → Formed (k t)) : Formed (podRelease s k) := by
  unfold podRelease
  dsimp only
  split
  · exact waitHere_form (publish_form h)
  · split
    · exact raise_form (State.clearLost_form (publish_form h))
    · exact hk _ (publish_form h)

theorem orderAt_form {scope : Nat} {k : State → Out} (h : s.memWf) (hk : ∀ t, t.memWf → Formed (k t)) : Formed (orderAt scope s k) := by
  unfold orderAt
  split
  · exact podRelease_form h (fun t ht => hk _ ht)
  · split
    · exact hk _ ((persistAll_keeps ..).form (publish_form h))
    · split
      · exact podRelease_form h (fun t ht => hk _ ((persistAll_keeps ..).form ht))
      · exact hk _ (publish_form h)

theorem releaseAt_form {scope : Nat} {k : State → Out} (h : s.memWf) (hk : ∀ t, t.memWf → Formed (k t)) :
    Formed (releaseAt scope s k) :=
  orderAt_form h (fun _ ht => hk _ ht)

theorem storeAfterFence_form {k : State → Out} (h : s.memWf) (hk : ∀ t, t.memWf → Formed (k t)) : Formed (storeAfterFence s k) := by
  unfold storeAfterFence
  split
  · exact hk _ h
  · exact orderAt_form h (fun t ht => hk _ ht)

/-! ### Kv Objects -/

theorem putDesc_form {q : Party} {va : Word} {raw : Nat} (h : s.memWf) : (putDesc s q va raw).memWf := writeObject_form h

theorem allocDesc_form {q : Party} {p : Pool} {value : Nat} {t : State} {r1 : Pool} {r2 : Nat} (h : s.memWf)
    (e : allocDesc s q p value = .ok (t, r1, r2)) : t.memWf := by
  unfold allocDesc at e
  dsimp only at e
  split at e
  · cases e
  · split at e
    · cases e
    · split at e
      · cases e
      · cases e
        exact putDesc_form (State.memWf.update ((putFree_tends ..).keeps.form h))

theorem State.readsTable_form {p : Party} {t : Table} {n : Nat} (h : s.memWf) : (State.readsTable s p t n).memWf := reads_form h

/-! ### Wells -/

theorem readSeen_form {seen : List Nat} {va : Word} {n : Nat} {need : Need} {r : List Byte} {t1 : State} {r2 : List Nat} (h : s.memWf)
    (e : readSeen s seen va n need = .ok (r, t1, r2)) : t1.memWf := by
  unfold readSeen at e
  dsimp only at e
  split at e
  · cases e
  · cases e
    exact readAs_form h ‹_›

theorem readSpan_form {who : Loader} {a : Nat} {a1 : Word} {a2 : Nat} {a3 : Need} {r : List Byte} {t1 : State} (h : s.memWf)
    (e : readSpan who a s a1 a2 a3 = .ok (r, t1)) : t1.memWf := by
  fun_induction readSpan who a s a1 a2 a3 generalizing r t1
  case case1 =>
    cases e
    exact h
  case case2 =>
    cases e
    exact h
  case case3 =>
    cases e
  case case4 ih1 =>
    cases e
  case case5 ih1 =>
    cases e
    exact ih1 (readAs_form h ‹_›) ‹_›

theorem wellElement_form {seen : List Nat} {w : Well} {p r : Nat} {t1 : State} {r2 : List Nat} (h : s.memWf)
    (e : wellElement s seen w p = .ok (r, t1, r2)) : t1.memWf := by
  unfold wellElement at e
  split at e
  · cases e
    exact h
  · dsimp only at e
    split at e
    · split at e
      · cases e
      · split at e
        · cases e
        · cases e
          exact readPlace_form h ‹_›
    · split at e
      · cases e
      · split at e
        · cases e
        · cases e
          exact readSeen_form h ‹_›

theorem refillElements_form {w : Well} {p a a1 : Nat} {a2 : List Nat} {a3 : Nat} (h : s.memWf) :
    (refillElements w p a a1 s a2 a3).state.memWf := by
  fun_induction refillElements w p a a1 s a2 a3
  case case1 =>
    dsimp only
    exact h
  case case2 =>
    dsimp only
    exact h
  case case3 ih1 => exact ih1 (wellElement_form h ‹_›)

theorem wellToken_form {w : Well} {pos : Nat} {r : Word} {t1 : State} (h : s.memWf) (e : wellToken s w pos = .ok (some (r, t1))) :
    t1.memWf := by
  unfold wellToken at e
  split at e
  · cases e
  · split at e
    · cases e
    · dsimp only at e
      split at e
      · cases e
      · split at e
        · cases e
        · split at e
          · cases e
          · cases e
          · split at e
            · cases e
            · split at e
              · cases e
              · split at e
                · cases e
                · cases e
                  exact reads_form (reads_form (reads_form h))

theorem refillTokens_form {w : Well} {r a a1 a2 : Nat} (h : s.memWf) : (refillTokens w r a a1 s a2).state.memWf := by
  fun_induction refillTokens w r a a1 s a2
  case case1 =>
    dsimp only
    exact h
  case case2 ih1 => exact ih1 h
  case case3 =>
    dsimp only
    exact h
  case case4 ih1 => exact ih1 h
  case case5 =>
    dsimp only
    exact wellToken_form h ‹_›
  case case6 ih1 => exact ih1 (readSpan_form (wellToken_form h ‹_›) ‹_›)

theorem refillRegister_form {w : Well} {r : Nat} (h : s.memWf) : (refillRegister s w r).state.memWf := by
  unfold refillRegister
  split
  · exact refillTokens_form h
  · dsimp only
    exact refillElements_form h

theorem landRegister_form {k r : Nat} (h : s.memWf) : (landRegister s k r).1.memWf := by
  unfold landRegister
  split
  · dsimp only
    exact h
  · split
    · dsimp only
      exact h
    · dsimp only
      split
      · dsimp only
        exact State.memWf.update (refillRegister_form h)
      · dsimp only
        exact State.memWf.update (refillRegister_form h)

theorem wellsReady_form {ks : List Nat} {k : State → Out} (h : s.memWf) (hk : ∀ t, t.memWf → Formed (k t)) :
    Formed (wellsReady ks s k) := by
  unfold wellsReady
  split
  · exact hk _ h
  · exact waitHere_form (foldl_form (fun t a ht => rousePan_form ht) h)

theorem landRegisters_form {a : List Nat} (h : s.memWf) : (landRegisters s a).1.memWf := by
  fun_induction landRegisters s a
  case case1 =>
    dsimp only
    exact h
  case case2 ih1 => exact ih1 h
  case case3 =>
    dsimp only
    exact of_fst (landRegister_form h) ‹_›
  case case4 ih1 => exact ih1 (of_fst (landRegister_form h) ‹_›)

theorem completeQueued_form {beats : Nat} (h : s.memWf) : Formed (completeQueued beats s) := complete_form h.update

theorem execWbind_form {a : BitVec 5} {n : BitVec 3} (h : s.memWf) : Formed (execWbind a n s) := by
  unfold execWbind
  refine outsideService_form h ?_
  dsimp only
  refine addressOk_form h ?_
  split
  · exact raise_form h
  · refine withRes_form h (fun a1 e => ?_)
    split
    · exact completeQueued_form (State.memWf.update (publish_form (readAs_form h e)))
    · exact illegal_form h

theorem onWell_form {n : BitVec 3} {word : Nat} {k : Well → Out} (h : s.memWf) (hk : ∀ x0, Formed (k x0)) :
    Formed (onWell n word s k) := by
  unfold onWell
  refine outsideService_form h ?_
  split
  · exact hk _
  · exact illegal_form h

end Sys2Proof.Machine
end


section
/-! SUPPORT. Canonical form: what vector and matrix computation leaves. -/

namespace Sys2Proof.Machine

variable {s : State}

/-! ### Vector -/

theorem landSources_form {o : VOp} {lo hi : Nat} {l : List Source} (h : s.memWf) : (landSources o lo hi l s).1.memWf := by
  induction l generalizing s with
  | nil => exact h
  | cons r l ih => exact ih (landRegisters_form h)

theorem vectorDone_form {wells : List Nat} {beats : Nat} {r : Ctx × Flags} (h : s.memWf) : Formed (vectorDone wells beats r s) :=
  complete_form h.update

theorem vectorStop_form {b lo : Nat} {r : Ctx × Flags} {e : Exc} (h : s.memWf) : Formed (vectorStop b lo r e s) :=
  raise_form (State.charge_form h.update)

theorem vectorSuspend_form {b lo : Nat} {r : Ctx × Flags} (h : s.memWf) : Formed (vectorSuspend b lo r s) :=
  formed_next (State.charge_form h.update)

theorem shadowCheck_form {o : VOp} {lo hi : Nat} (h : s.memWf) : (shadowCheck o lo hi s).1.memWf := by
  unfold shadowCheck
  split
  · dsimp only
    exact h
  · dsimp only
    split
    · split
      · dsimp only
        exact h
      · dsimp only
        exact count_form (countErrors_form (State.met_form h))
    · split
      · dsimp only
        exact h
      · dsimp only
        exact count_form (countErrors_form (State.met_form h))

theorem runTo_form {body : Body} {wells : List Nat} {lo top : Nat} {stop : Option Exc} (h : s.memWf) :
    Formed (runTo body wells lo top stop s) := by
  unfold runTo
  dsimp only
  split
  · exact vectorStop_form h
  · split
    · exact vectorSuspend_form h
    · exact vectorDone_form h

theorem runVector_form {o : VOp} {body : Body} (h : s.memWf) : Formed (runVector o body s) := by
  unfold runVector
  split
  · exact raise_form h
  · split
    · exact vectorDone_form h
    · dsimp only
      refine wellsReady_form h (fun t ht => ?_)
      split <;> exact runTo_form (shadowCheck_form (landSources_form ht))

theorem elementwise_form {ok : Bool} {d : BitVec 6} {srcs : List (BitVec 6)} {n : BitVec 1} {p : BitVec 5} {word : Nat}
    {f : Ctx → Nat → Nat × Flags} (h : s.memWf) : Formed (elementwise ok d srcs n p word f s) :=
  whenOk_form h (runVector_form h)

/-! ### Vector Arith -/

theorem setType_form {d : BitVec 5} {f : BitVec 4} {g : BitVec 2} {w : BitVec 3} {req : Nat} (h : s.memWf) :
    Formed (setType d f g w req s) :=
  complete_form (State.setX_form h.update)

theorem intBinary_form {op : IntOp} {d a b : BitVec 6} {n : BitVec 1} {p : BitVec 5} {word : Nat} (h : s.memWf) :
    Formed (intBinary op d a b n p word s) :=
  elementwise_form h

theorem floatBinary_form {op : FloatOp} {d a b : BitVec 6} {n : BitVec 1} {p : BitVec 5} {word : Nat} (h : s.memWf) :
    Formed (floatBinary op d a b n p word s) :=
  elementwise_form h

theorem scalarForm_form {ok : Bool} {d a : BitVec 6} {ss : BitVec 5} {order n : BitVec 1} {p : BitVec 5} {word : Nat}
    {f : Ctx → Nat → Nat → Nat × Flags} (h : s.memWf) : Formed (scalarForm ok d a ss order n p word f s) :=
  whenOk_form h (runVector_form h)

theorem intScalar_form {op : IntOp} {d a : BitVec 6} {ss : BitVec 5} {o n : BitVec 1} {p : BitVec 5} {word : Nat} (h : s.memWf) :
    Formed (intScalar op d a ss o n p word s) := by
  unfold intScalar
  dsimp only
  exact scalarForm_form h

theorem floatScalar_form {op : FloatOp} {d a : BitVec 6} {ss : BitVec 5} {o n : BitVec 1} {p : BitVec 5} {word : Nat} (h : s.memWf) :
    Formed (floatScalar op d a ss o n p word s) := by
  unfold floatScalar
  dsimp only
  exact scalarForm_form h

/-! ### Vector Unary -/

theorem unary_form {ok : Bool} {d a : BitVec 6} {n : BitVec 1} {p : BitVec 5} {word : Nat} {f : Nat → Nat × Flags} (h : s.memWf) :
    Formed (unary ok d a n p word f s) :=
  elementwise_form h

theorem unaryInt_form {f : Nat → Nat} {d a : BitVec 6} {n : BitVec 1} {p : BitVec 5} {word : Nat} (h : s.memWf) :
    Formed (unaryInt f d a n p word s) :=
  unary_form h

theorem unaryFloat_form {f : FVal → FVal × Flags} {d a : BitVec 6} {n : BitVec 1} {p : BitVec 5} {word : Nat} (h : s.memWf) :
    Formed (unaryFloat f d a n p word s) := by
  unfold unaryFloat
  dsimp only
  exact unary_form h

theorem unaryCode_form {f : FloatFormat → RMode → Nat → Nat × Flags} {d a : BitVec 6} {n : BitVec 1} {p : BitVec 5} {word : Nat}
    (h : s.memWf) : Formed (unaryCode f d a n p word s) :=
  unary_form h

theorem nibble_form {d a : BitVec 6} {n : BitVec 1} {p : BitVec 5} {word : Nat} {src : Source} {dw : Nat} {f : Ctx → Nat → Nat}
    (h : s.memWf) : Formed (nibble d a n p word src dw f s) :=
  whenOk_form h (runVector_form h)

theorem convert_form {x : ConvSource} {d a : BitVec 6} {n : BitVec 1} {p : BitVec 5} {word : Nat} (h : s.memWf) :
    Formed (convert x d a n p word s) :=
  whenOk_form h (runVector_form h)

/-! ### Vector Move -/

theorem compare_form {ok : Bool} {d : BitVec 5} {a b : BitVec 6} {p : BitVec 4} {word : Nat} {f : Nat → Nat → Bool × Flags} (h : s.memWf) :
    Formed (compare ok d a b p word f s) :=
  whenOk_form h (runVector_form h)

theorem compareInt_form {k : Cond} {d : BitVec 5} {a b : BitVec 6} {p : BitVec 4} {word : Nat} (h : s.memWf) :
    Formed (compareInt k d a b p word s) := by
  unfold compareInt
  dsimp only
  exact compare_form h

theorem compareFloat_form {k : Cond} {d : BitVec 5} {a b : BitVec 6} {p : BitVec 4} {word : Nat} (h : s.memWf) :
    Formed (compareFloat k d a b p word s) := by
  unfold compareFloat
  dsimp only
  exact compare_form h

theorem popWrite_form {ok : Bool} {d : BitVec 5} {word : Nat} {x : PReg} (h : s.memWf) : Formed (popWrite ok d word x s) := by
  unfold popWrite
  refine whenOk_form h ?_
  split
  · exact raise_form h
  · exact complete_form h.update

theorem moveForm_form {d : BitVec 6} {srcs : List (BitVec 6)} {reads : List Source} {n : BitVec 1} {p : BitVec 5} {word : Nat}
    {body : VOp → Body} {whole select : Bool} (h : s.memWf) : Formed (moveForm d srcs reads n p word body whole select s) :=
  whenOk_form h (runVector_form h)

theorem execVgathr_form {d a b : BitVec 6} {n : BitVec 1} {p : BitVec 5} (h : s.memWf) : Formed (execVgathr d a b n p s) := by
  unfold execVgathr
  dsimp only
  exact moveForm_form h

theorem execVslideup_form {d a : BitVec 6} {sc : BitVec 5} {n : BitVec 1} {p : BitVec 5} (h : s.memWf) :
    Formed (execVslideup d a sc n p s) := by
  unfold execVslideup
  dsimp only
  exact moveForm_form h

theorem slideForm_form {d a : BitVec 6} {n : BitVec 1} {p : BitVec 5} {word : Nat} {j : Nat → Option Nat} (h : s.memWf) :
    Formed (slideForm d a n p word j s) := by
  unfold slideForm
  dsimp only
  exact moveForm_form h

theorem execVcompress_form {d a : BitVec 6} {n : BitVec 1} {p : BitVec 5} (h : s.memWf) : Formed (execVcompress d a n p s) := by
  unfold execVcompress
  dsimp only
  exact moveForm_form h

theorem execVexpand_form {d a : BitVec 6} {n : BitVec 1} {p : BitVec 5} (h : s.memWf) : Formed (execVexpand d a n p s) := by
  unfold execVexpand
  dsimp only
  exact moveForm_form h

theorem execVbcastE_form {d a : BitVec 6} {sc : BitVec 5} {n : BitVec 1} {p : BitVec 5} (h : s.memWf) :
    Formed (execVbcastE d a sc n p s) := by
  unfold execVbcastE
  dsimp only
  exact moveForm_form h

theorem extract_form {i : BitVec 5} {a : BitVec 6} {d : BitVec 5} {word : Nat} {f : Nat → Word} (h : s.memWf) :
    Formed (extract i a d word f s) :=
  whenOk_form h (runVector_form h)

theorem insert_form {order : BitVec 1} {d : BitVec 6} {i sc : BitVec 5} {n : BitVec 1} {p : BitVec 5} {word : Nat} (h : s.memWf) :
    Formed (insert order d i sc n p word s) :=
  whenOk_form h (moveForm_form h)

theorem fold_form {ok : Bool} {d a : BitVec 6} {n : BitVec 1} {p : BitVec 5} {word : Nat} {op : Nat → Nat → Nat × Flags} (h : s.memWf) :
    Formed (fold ok d a n p word op s) :=
  whenOk_form h (runVector_form h)

theorem foldInt_form {op : IntOp} {d a : BitVec 6} {n : BitVec 1} {p : BitVec 5} {word : Nat} (h : s.memWf) :
    Formed (foldInt op d a n p word s) :=
  fold_form h

theorem foldFloat_form {op : FloatOp} {d a : BitVec 6} {n : BitVec 1} {p : BitVec 5} {word : Nat} (h : s.memWf) :
    Formed (foldFloat op d a n p word s) :=
  fold_form h

theorem ramp_form {causal ok : Bool} {d : BitVec 6} {n : BitVec 1} {p : BitVec 5} {word base : Nat} (h : s.memWf) :
    Formed (ramp causal ok d n p word base s) :=
  whenOk_form h (elementwise_form h)

/-! ### Matrix -/

theorem matrixDone_form {wells : List Nat} {beats : Nat} {r : Ctx × Flags} (h : s.memWf) : Formed (matrixDone wells beats r s) :=
  vectorDone_form h

theorem leaveRing_form {seq : Nat} (h : s.memWf) : (leaveRing seq s).memWf := h.update

theorem spendStrike_form {n : Nat} (h : s.memWf) : (spendStrike n s).memWf := by
  unfold spendStrike
  split
  · split
    · exact h
    · exact State.met_form h
  · exact h

theorem mmaRun_form {f : MatFormat} {vc vb bsc lo top : Nat} {wells : List Nat} {arow : Ctx → Nat → List FVal}
    {messages : Nat → List Event} {stop : Option Exc} (h : s.memWf) : Formed (mmaRun f vc vb bsc lo top wells arow messages stop s) := by
  unfold mmaRun
  extract_lets cols r read s0 s1 c partly
  have h1 : s1.memWf := count_form (countErrors_form (spendStrike_form h.update))
  have hp (b : Nat) : (partly b).memWf := State.charge_form h1.update
  split
  · exact raise_form (hp _)
  · exact raise_form (hp _)
  · split
    · exact formed_next (hp top).update
    · refine matrixDone_form ?_
      split
      · exact leaveRing_form h1
      · exact h1

theorem execMmaRows_form {fm : MatFormat} {c a b : BitVec 6} (h : s.memWf) : Formed (execMmaRows fm c a b s) := by
  unfold execMmaRows
  dsimp only
  split
  · split
    · exact waitHere_form h
    · exact wellsReady_form h (fun t ht => mmaRun_form (landSources_form ht))
  · split
    · exact waitHere_form h
    · exact wellsReady_form h (fun t ht => mmaRun_form (landSources_form ht))

theorem execMma_form {c a b : BitVec 6} {f : BitVec 4} (h : s.memWf) : Formed (execMma c a b f s) := by
  unfold execMma
  dsimp only
  split
  · exact illegal_form h
  · refine whenOk_form h ?_
    split
    · exact raise_form h
    · split
      · exact matrixDone_form h
      · exact execMmaRows_form h

theorem matrixTo_form {wells : List Nat} {lo top : Nat} {stop : Option Exc} {rows : Ctx → Nat → Ctx × Flags} (h : s.memWf) :
    Formed (matrixTo wells lo top stop rows s) := by
  unfold matrixTo
  dsimp only
  split
  · exact vectorStop_form h
  · split
    · exact vectorSuspend_form h
    · exact matrixDone_form h

theorem execMzero_form {c : BitVec 6} (h : s.memWf) : Formed (execMzero c s) := by
  unfold execMzero
  dsimp only
  refine whenOk_form h ?_
  split
  · exact raise_form h
  · split
    · exact matrixDone_form h
    · exact matrixTo_form h

theorem execMepi_form {c a b : BitVec 6} {f : BitVec 4} (h : s.memWf) : Formed (execMepi c a b f s) := by
  unfold execMepi
  dsimp only
  split
  · exact illegal_form h
  · refine whenOk_form h ?_
    split
    · split
      · exact raise_form h
      · split
        · exact matrixDone_form h
        · exact wellsReady_form h (fun t ht => matrixTo_form (landSources_form ht))
    · split
      · exact raise_form h
      · split
        · exact matrixDone_form h
        · exact wellsReady_form h (fun t ht => matrixTo_form (landSources_form ht))

theorem execMcks_form {c a : BitVec 6} {f : BitVec 4} (h : s.memWf) : Formed (execMcks c a f s) := by
  unfold execMcks
  dsimp only
  split
  · exact illegal_form h
  · refine whenOk_form h ?_
    split
    · exact raise_form h
    · split
      · exact matrixDone_form h
      · exact wellsReady_form h (fun t ht => matrixTo_form (landSources_form ht))

end Sys2Proof.Machine
end


section
/-! SUPPORT. Canonical form: what the scalar instructions, loads, maintenance and atomics leave. -/

namespace Sys2Proof.Machine

variable {s : State}

/-! ### Route -/

theorem newReply_form {promise : Option Word} (h : s.memWf) : (newReply s promise).2.memWf := h.update

theorem startTransfer_form {ch : Fin 4} {promise nextStart : Word} {job : Job} (h : s.memWf) :
    (startTransfer s ch promise nextStart job).memWf :=
  h.update

/-! ### Loads -/

theorem loadScalar_form {size : Nat} {d : BitVec 5} {signed : Bool} {n : Nat} {va : Word} (h : s.memWf) :
    Formed (loadScalar size d signed n va s) := by
  unfold loadScalar
  refine addressOk_form h ?_
  split
  · exact raise_form h
  · exact withRes_form h (fun a e => complete_form (State.setX_form (readVa_form h e)))

theorem peerFirst_form {va : Word} {need : Need} {k : Out} (h : s.memWf) (hk : Formed k) : Formed (peerFirst s va need k) := by
  unfold peerFirst
  split
  · split
    · exact raise_form h
    · exact hk
  · exact hk

theorem storeScalar_form {size : Nat} {v : Word} {n : Nat} {va : Word} (h : s.memWf) : Formed (storeScalar size v n va s) := by
  unfold storeScalar
  refine addressOk_form h ?_
  split
  · exact raise_form h
  · exact peerFirst_form h (storeAfterFence_form h (fun t ht => withRes_form ht (fun t1 e => complete_form (writeVa_form ht e))))

theorem loadAhead_form {d : BitVec 5} {va : Word} {n : Nat} (h : s.memWf) : (loadAhead s d va n).2.memWf := by
  unfold loadAhead
  split
  · dsimp only
    exact readVa_form h ‹_›
  · dsimp only
    exact fresh_form (countConsumed_form h)

theorem execLda_form {d b : BitVec 5} {z : BitVec 2} {t : BitVec 5} {o : BitVec 7} (h : s.memWf) : Formed (execLda d b z t o s) := by
  unfold execLda
  refine whenOk_form h ?_
  dsimp only
  refine addressOk_form h ?_
  split
  · exact raise_form h
  · refine withRes_form h (fun a e => ?_)
    split
    · exact waitHere_form h
    · exact complete_form (State.setX_form (State.memWf.update (startTransfer_form (loadAhead_form h))))

theorem execLdp_form {d a b : BitVec 5} {x : BitVec 1} {z : BitVec 2} (h : s.memWf) : Formed (execLdp d a b x z s) := by
  unfold execLdp
  dsimp only
  refine addressOk_form h ?_
  split
  · exact raise_form h
  · exact withRes_form h (fun a1 e => whenAwake_form h (fun t ht => withRes_form ht
      (fun a2 e1 => complete_form (State.setX_form (readPlace_form ht e1)))))

theorem execStp_form {d a b : BitVec 5} {z : BitVec 2} (h : s.memWf) : Formed (execStp d a b z s) := by
  unfold execStp
  dsimp only
  refine addressOk_form h ?_
  split
  · exact raise_form h
  · refine withRes_form h (fun a1 e => ?_)
    refine storeAfterFence_form h ?_
    exact fun t ht => whenAwake_form ht (fun t1 ht1 => withRes_form ht1 (fun t2 e1 => complete_form (State.released_form (writePlace_form ht1 e1))))

theorem execLdpC_form {d a b : BitVec 5} (h : s.memWf) : Formed (execLdpC d a b s) := by
  unfold execLdpC
  dsimp only
  refine addressOk_form h ?_
  split
  · exact raise_form h
  · refine withRes_form h ?_
    exact fun a1 e => whenAwake_form h (fun t ht => withRes_form ht (fun a2 e1 => complete_form
        (State.setX_form (consumeWord_form (readPlace_form ht e1)))))

theorem execPst_form {b d : BitVec 5} (h : s.memWf) : Formed (execPst b d s) := by
  unfold execPst
  dsimp only
  refine addressOk_form h ?_
  split
  · exact raise_form h
  · exact withRes_form h (fun a e => releaseAt_form h (fun t ht => complete_form (sendPresence_form (State.released_form ht))))

theorem readDoublewords_form {va : Word} {newLine : Bool} {a : Nat} {r : List Word} {t1 : State} (h : s.memWf)
    (e : readDoublewords s va newLine a = .ok (r, t1)) : t1.memWf := by
  fun_induction readDoublewords s va newLine a generalizing r t1
  case case1 =>
    cases e
    exact h
  case case2 =>
    cases e
  case case3 ih1 =>
    cases e
  case case4 ih1 =>
    cases e
    exact ih1 (readAs_form h ‹_›) ‹_›

theorem execOxl_form {n a b : BitVec 5} {k : BitVec 3} (h : s.memWf) : Formed (execOxl n a b k s) := by
  unfold execOxl
  refine whenOk_form h ?_
  dsimp only
  refine addressOk_form h ?_
  split
  · exact raise_form h
  · exact withRes_form h (fun a1 e => complete_form (State.memWf.update (readDoublewords_form h e)))

/-! ### Maintenance -/

theorem fenceFields_form {sc : BitVec 3} {word : Nat} {k : Out} (h : s.memWf) (hk : Formed k) : Formed (fenceFields sc word s k) :=
  whenOk_form h hk

theorem execFenceAcq_form {sc : BitVec 3} (h : s.memWf) : Formed (execFenceAcq sc s) := by
  unfold execFenceAcq
  refine fenceFields_form h ?_
  dsimp only
  exact complete_form (State.memWf.update (State.acquire_form h))

theorem execPflush_form {a : BitVec 5} (h : s.memWf) : Formed (execPflush a s) := by
  unfold execPflush
  refine addressOk_form h ?_
  refine withRes_form h (fun a1 e => ?_)
  split
  · split
    · dsimp only
      exact complete_form ((acceptAll_keeps ..).form ((drain_keeps ..).form (markUsed_form h)))
    · exact complete_form (markUsed_form h)
  · exact complete_form (markUsed_form h)

theorem prefetch_form {l1 : Bool} {va : Word} (h : s.memWf) : Formed (prefetch l1 va s) := by
  unfold prefetch
  dsimp only
  split
  · refine complete_form ?_
    refine markUsed_form ?_
    split
    · split
      · exact (fillL1_keeps ..).form ((fetchRdc_keeps ..).form h)
      · exact (fetchRdc_keeps ..).form h
    · exact h
  · split
    · split
      · refine complete_form ?_
        refine markUsed_form ?_
        split
        · exact (fillL1_keeps ..).form (cachedLine_form h ‹_›)
        · exact cachedLine_form h ‹_›
      · exact complete_form (fresh_form h)
    · exact complete_form h
  · exact complete_form h

theorem lineOp_form {va : Word} {f : Target → State → State} (h : s.memWf) (hf : ∀ x0 t, t.memWf → (f x0 t).memWf) :
    Formed (lineOp va s f) := by
  unfold lineOp
  refine addressOk_form h ?_
  refine withRes_form h (fun a e => ?_)
  refine complete_form ?_
  refine hf _ _ ?_
  split <;> exact markUsed_form h

theorem dropLine_form {key : Nat} (h : s.memWf) : (dropLine key s).memWf := by
  unfold dropLine
  dsimp only
  split
  · exact (dropRdc_onlyLines ..).keeps.form h.update
  · exact h.update

theorem execCmoInv_form {a : BitVec 5} (h : s.memWf) : Formed (execCmoInv a s) := by
  unfold execCmoInv
  refine lineOp_form h (fun x0 t ht => ?_)
  split <;> exact dropLine_form ht

theorem cleanLine_form {key : Nat} (h : s.memWf) : (cleanLine key s).memWf := h.update

theorem execCmoWb_form {a : BitVec 5} (h : s.memWf) : Formed (execCmoWb a s) := by
  unfold execCmoWb
  refine lineOp_form h (fun x0 t ht => ?_)
  split
  · exact cleanLine_form ht
  · exact ht

theorem execCmoZero_form {a : BitVec 5} (h : s.memWf) : Formed (execCmoZero a s) := by
  unfold execCmoZero
  dsimp only
  refine addressOk_form h ?_
  split
  · exact raise_form h
  · exact peerFirst_form h (storeAfterFence_form h (fun t ht => withRes_form ht (fun t1 e => complete_form (writeVa_form ht e))))

theorem execCmoObjclr_form {a : BitVec 5} (h : s.memWf) : Formed (execCmoObjclr a s) := by
  unfold execCmoObjclr
  refine whenPrivileged_form h ?_
  refine lineOp_form h (fun x0 t ht => ?_)
  split
  · exact ht.update
  · exact ht

theorem execCmoPfw_form {a b : BitVec 5} (h : s.memWf) : Formed (execCmoPfw a b s) := by
  unfold execCmoPfw
  refine whenOk_form h ?_
  refine withRes_form h (fun a1 e => ?_)
  dsimp only
  split
  · exact complete_form (State.memWf.update (landInRange_form h))
  · exact complete_form ((armRetention_keeps ..).form (State.memWf.update (landInRange_form h)))

theorem delegationOperands_form {a b : BitVec 5} {r : Nat} {r1 : List Word} {t2 : State} (h : s.memWf)
    (e : delegationOperands s a b = .ok (r, r1, t2)) : t2.memWf := by
  unfold delegationOperands at e
  dsimp only at e
  split at e
  · cases e
  · split at e
    · cases e
    · split at e
      · cases e
      · cases e
        exact readVa_form h ‹_›

theorem execDlg_form {t a b : BitVec 5} (h : s.memWf) : Formed (execDlg t a b s) := by
  unfold execDlg
  refine addressOk_form h ?_
  refine withRes_form h (fun a1 e => ?_)
  extract_lets s1 q __src s2
  have hs1 : s1.memWf := publish_form (delegationOperands_form h e)
  have hq : q.2.memWf := newReply_form hs1
  have h__src : __src.memWf := hq
  have hs2 : s2.memWf := h__src.update
  exact complete_form (State.setX_form hs2)

theorem execDlgAm_form {a b : BitVec 5} (h : s.memWf) : Formed (execDlgAm a b s) := by
  unfold execDlgAm
  refine addressOk_form h ?_
  refine withRes_form h (fun a1 e => ?_)
  dsimp only
  exact complete_form (State.memWf.update (publish_form (delegationOperands_form h e)))

/-! ### Csr -/

theorem setBwmask_form {v : Word} (h : s.memWf) : (setBwmask s v).memWf := by
  unfold setBwmask
  dsimp only
  split
  · exact h.update
  · exact endEnrolment_form h.update

theorem setCclim_form {v : Word} (h : s.memWf) : (setCclim s v).memWf := makeRoom_form h.update

theorem State.csrStore_form {c : BitVec 12} {v : Word} (h : s.memWf) : (State.csrStore s c v).memWf := by
  unfold State.csrStore
  dsimp only
  exact ite_form h.update <| ite_form h.update <| ite_form h.update <| ite_form h.update <| ite_form h.update <| ite_form h.update <|
    ite_form h.update <| ite_form h.update <| ite_form (setBwmask_form h) <| ite_form h.update <| ite_form h.update <| ite_form h.update <|
    ite_form (setCclim_form h) <| ite_form h.update <| ite_form h.update <| ite_form h.update h

theorem State.csrWrite_form {c : BitVec 12} {v : Word} {t : State} (h : s.memWf) (e : State.csrWrite s c v = some t) : t.memWf := by
  unfold State.csrWrite at e
  split at e
  · cases e
    exact h
  · cases e
    exact State.csrStore_form h
  · split at e
    · cases e
      exact State.csrStore_form h
    · cases e

theorem csrOp_form {d : BitVec 5} {c : BitVec 12} {new : Option Word} (h : s.memWf) : Formed (csrOp d c new s) := by
  unfold csrOp
  dsimp only
  split
  · exact complete_form (State.setX_form h)
  · split
    · exact complete_form (State.setX_form (State.csrWrite_form h ‹_›))
    · exact raise_form h

/-! ### Scalar -/

theorem scalarResult_form {size : Nat} {d : BitVec 5} {v : Word} (h : s.memWf) : Formed (scalarResult size d v s) :=
  complete_form (State.setX_form h)

theorem makePlace_form {d a : BitVec 5} {place : Nat} (h : s.memWf) : Formed (makePlace d a place s) := by
  unfold makePlace
  split
  · exact raise_form h
  · exact scalarResult_form h

theorem transfer_form {link : Option (BitVec 5 × Nat)} {target : Word} (h : s.memWf) : Formed (transfer link target s) := by
  unfold transfer
  extract_lets s1 s2
  have hs1 : s1.memWf := State.retire_form h
  have hs2 : s2.memWf := by
    dsimp only [s2]
    split
    · exact State.setX_form hs1
    · exact hs1
  exact formed_next (State.jump_form hs2)

theorem branchIf_form {n size : Nat} {c : Bool} {o : BitVec n} (h : s.memWf) : Formed (branchIf size c o s) := by
  unfold branchIf
  split
  · exact transfer_form h
  · exact complete_form h

theorem jumpRegister_form {size : Nat} {d : BitVec 5} {target : Word} (h : s.memWf) : Formed (jumpRegister size d target s) := by
  unfold jumpRegister
  split
  · exact raise_form h
  · exact transfer_form h

/-! ### Atomics -/

theorem atomicAt_form {va : Word} {n : Nat} {order scope : BitVec 2} {op : AmoOp} {x e r : Word} {t1 : State} (h : s.memWf)
    (eq : atomicAt s va n order scope op x e = .ok (r, t1)) : t1.memWf := by
  unfold atomicAt at eq
  split at eq
  · cases eq
  · split at eq
    · cases eq
    · split at eq
      · cases eq
      · dsimp only at eq
        split at eq
        · cases eq
        · cases eq
          split
          · refine State.markRelease_form ?_
            refine homeWrite_form ?_
            split
            · refine State.dropOwnResv_form ?_
              exact acquireAtomic_form (stampHome_form (State.released_form (publish_form (markUsed_form h))))
            · exact acquireAtomic_form (stampHome_form (State.released_form (publish_form (markUsed_form h))))
          · refine homeWrite_form ?_
            split
            · exact State.dropOwnResv_form (acquireAtomic_form (State.released_form (publish_form (markUsed_form h))))
            · exact acquireAtomic_form (State.released_form (publish_form (markUsed_form h)))
  · dsimp only at eq
    split at eq
    · cases eq
    · split at eq
      · cases eq
      · cases eq
        exact fresh_form (acquireAtomic_form (markUsed_form (State.released_form (publish_form h))))

theorem orderAtomic_form {order scope : BitVec 2} {k : State → Out} (h : s.memWf) (hk : ∀ t, t.memWf → Formed (k t)) :
    Formed (orderAtomic order scope s k) := by
  unfold orderAtomic
  split
  · exact releaseAt_form h (fun t ht => hk _ ht)
  · exact storeAfterFence_form h (fun t ht => hk _ ht)

theorem atomic_form {op : AmoOp} {d a b : BitVec 5} {c o : BitVec 2} {z : BitVec 1} {word : Nat} (h : s.memWf) :
    Formed (atomic op d a b c o z word s) := by
  unfold atomic
  refine whenOk_form h ?_
  dsimp only
  refine addressOk_form h ?_
  split
  · exact raise_form h
  · split
    · exact raise_form h
    · exact orderAtomic_form h (fun t ht => withRes_form ht (fun a1 e => complete_form (State.setX_form (atomicAt_form ht e))))

theorem reduceAt_form {vec : Bool} {va : Word} {n : Nat} {op : AmoOp} {x : Word} {t : State} (h : s.memWf)
    (e : reduceAt s vec va n op x = .ok t) : t.memWf := by
  unfold reduceAt at e
  split at e
  · cases e
  · split at e
    · cases e
    · split at e
      · cases e
      · split at e
        · cases e
        · cases e
          exact (holdUpdates_keeps ..).form (State.collect_form (publish_form (markUsed_form h)))
  · split at e
    · cases e
    · cases e
      exact State.postFabric_form (markUsed_form h)

theorem reduce_form {op : AmoOp} {a b : BitVec 5} {z : BitVec 1} (h : s.memWf) : Formed (reduce op a b z s) := by
  unfold reduce
  dsimp only
  refine addressOk_form h ?_
  split
  · exact raise_form h
  · split
    · exact raise_form h
    · exact storeAfterFence_form h (fun t ht => withRes_form ht (fun t1 e => complete_form (reduceAt_form ht e)))

end Sys2Proof.Machine
end


section
/-! SUPPORT. Canonical form: what vector memory instructions and copies leave. -/

namespace Sys2Proof.Machine

variable {s : State}

/-! ### Vector Mem -/

theorem memGroup_form {act : Nat → Bool} {f : MemElem} {i n : Nat} {r t : MemAcc} (hf : ∀ i r t, r.1.memWf → f i r = .ok t → t.1.memWf)
    (h : r.1.memWf) (e : memGroup act f i n r = .ok t) : t.1.memWf := by
  induction n generalizing i r with
  | zero =>
    cases e
    exact h
  | succ n ih =>
    unfold memGroup at e
    split at e
    · split at e
      · cases e
      · exact ih (hf _ _ _ h ‹_›) e
    · exact ih h e

theorem memGroups_form {act : Nat → Bool} {f : MemElem} {unit hi k i : Nat} {r : MemAcc}
    (hf : ∀ i r t, r.1.memWf → f i r = .ok t → t.1.memWf) (h : r.1.memWf) : (memGroups act f unit hi k i r).1.1.memWf := by
  induction k generalizing i r with
  | zero => exact h
  | succ k ih =>
    unfold memGroups
    split
    · exact h
    · dsimp only
      split
      · exact h
      · exact ih (memGroup_form hf h ‹_›)

/-- The parts of a vector memory instruction leave the memories in canonical form. -/
structure MemForm.Forms (m : MemForm) : Prop where
  pre : ∀ s k, s.memWf → (∀ t, t.memWf → Formed (k t)) → Formed (m.pre s k)
  access : ∀ c i r t, r.1.memWf → m.access c i r = .ok t → t.1.memWf
  post : ∀ b s k, s.memWf → Formed k → Formed (m.post b s k)

theorem MemForm.forms_access {idx : Option (BitVec 6)} {bad : Ctx → Nat → Option Exc} {far : State → Ctx → Nat → Option Exc}
    {access : Ctx → MemElem} (h : ∀ c i r t, r.1.memWf → access c i r = .ok t → t.1.memWf) :
    MemForm.Forms { index := idx, bad := bad, far := far, access := access } :=
  ⟨fun _ _ h hk => hk _ h, h, fun _ _ _ _ hk => hk⟩

theorem memoryTo_form {o : VOp} {m : MemForm} {wells : List Nat} {lo hi : Nat} {stop : Option Exc} (hm : m.Forms) (h : s.memWf) :
    Formed (memoryTo o m wells lo hi stop s) := by
  unfold memoryTo
  extract_lets r t done
  have ht : t.memWf := memGroups_form (r := (s, [])) (hm.access _) h
  split
  · exact hm.post _ _ _ ht (vectorStop_form ht)
  · refine hm.post _ _ _ ht ?_
    split
    · exact vectorStop_form ht
    · split
      · exact vectorSuspend_form ht
      · exact vectorDone_form ht

theorem runMemory_form {o : VOp} {m : MemForm} (hm : m.Forms) (h : s.memWf) : Formed (runMemory o m s) := by
  unfold runMemory
  split
  · exact raise_form h
  · split
    · exact vectorDone_form h
    · refine wellsReady_form h fun t ht => ?_
      extract_lets l c hi known
      have hl : l.1.memWf := landSources_form ht
      split
      · exact raise_form (State.met_form ht)
      · exact raise_form hl
      · split
        · exact raise_form hl
        · exact hm.pre _ _ hl fun u hu => memoryTo_form hm hu

theorem State.putElem_form {d w i x : Nat} (h : s.memWf) : (State.putElem s d w i x).memWf := h.update

theorem loadElem_forms {d w : Nat} {va : Nat → Word} {i : Nat} {r t : MemAcc} (h : r.1.memWf) (e : loadElem d w va i r = .ok t) :
    t.1.memWf := by
  unfold loadElem at e
  split at e
  · cases e
  · cases e
    exact State.putElem_form (readSeen_form h ‹_›)

theorem storeElem_forms {w : Nat} {va : Nat → Word} {x : Nat → Nat} {i : Nat} {r t : MemAcc} (h : r.1.memWf)
    (e : storeElem w va x i r = .ok t) : t.1.memWf := by
  unfold storeElem at e
  dsimp only at e
  split at e
  · cases e
  · cases e
    exact writeVa_form h ‹_›

theorem vectorLoad_form {ok : Bool} {d : BitVec 6} {idx : Option (BitVec 6)} {n : BitVec 1} {p : BitVec 5} {word : Nat}
    {va : Ctx → Nat → Word} (h : s.memWf) : Formed (vectorLoad ok d idx n p word va s) :=
  whenOk_form h (runMemory_form (MemForm.forms_access fun _ _ _ _ => loadElem_forms) h)

theorem vectorStore_form {ok : Bool} {d : BitVec 6} {idx : Option (BitVec 6)} {n : BitVec 1} {p : BitVec 5} {word : Nat}
    {va : Ctx → Nat → Word} (h : s.memWf) : Formed (vectorStore ok d idx n p word va s) :=
  whenOk_form h (runMemory_form ⟨fun _ _ h hk => storeAfterFence_form h hk, fun _ _ _ _ => storeElem_forms, fun _ _ _ _ hk => hk⟩ h)

theorem execVgldX2_form {d : BitVec 6} {b : BitVec 5} {i : BitVec 6} {n : BitVec 1} {p : BitVec 5} (h : s.memWf) :
    Formed (execVgldX2 d b i n p s) := by
  unfold execVgldX2
  refine whenOk_form h (runMemory_form (MemForm.forms_access fun c k r t hr e => ?_) h)
  split at e
  · cases e
  · cases e
    exact State.putElem_form (State.putElem_form (readSeen_form hr ‹_›))

theorem logRow_form {va : Word} {m : Nat} (h : s.memWf) : (logRow s va m).memWf := logRecord_form h

theorem execVstCk_form {d : BitVec 6} {b : BitVec 5} {r : BitVec 2} {n : BitVec 1} {p : BitVec 5} (h : s.memWf) :
    Formed (execVstCk d b r n p s) := by
  unfold execVstCk
  refine whenOk_form h (runMemory_form ⟨fun _ _ h hk => storeAfterFence_form h hk, fun c i r t hr e => ?_, fun b s k hs hk => ?_⟩ h)
  · dsimp only at e
    split at e
    · cases e
      exact hr
    · exact storeElem_forms hr e
  · dsimp only
    split
    · exact hk
    · exact vectorStop_form (foldl_form (fun _ _ ht => logRow_form ht) hs)

theorem placeForm_form {ok : Bool} {o : VOp} {d : BitVec 6} {n : BitVec 1} {p b : BitVec 5} {word : Nat} {now : Bool}
    {pre : State → (State → Out) → Out} {f : Ctx → Nat → Nat → Nat → State → Res State} {after : Nat → Nat → Nat → State → State}
    (hpre : ∀ s k, s.memWf → (∀ t, t.memWf → Formed (k t)) → Formed (pre s k))
    (hf : ∀ c i core off s t, s.memWf → f c i core off s = .ok t → t.memWf)
    (hafter : ∀ core off hi t, t.memWf → (after core off hi t).memWf) (h : s.memWf) :
    Formed (placeForm ok o d n p b word now pre f after s) := by
  unfold placeForm
  refine whenOk_form h ?_
  split
  · exact runMemory_form (MemForm.forms_access fun _ _ r t hr e => by cases e; exact hr) h
  · refine withRes_form h fun t _ => runMemory_form ⟨fun s k hs hk => hpre _ _ hs fun u hu => ?_, fun c i r t hr e => ?_, fun b s k _ hk => ?_⟩ h
    · split
      · exact whenAwake_form hu hk
      · exact hk u hu
    · dsimp only at e
      split at e
      · cases e
      · split at e
        · cases e
        · split at e
          · cases e
          · cases e
            refine hf _ _ _ _ _ _ ?_ ‹_›
            split
            · exact landInRange_form (wakePan_form hr)
            · exact hr
    · dsimp only
      split
      · exact formed_next (hafter _ _ _ _ (hk _ rfl))
      · exact hk

theorem loadPlaceElem_form {d w : Nat} {base : Word} {consume : Bool} {i core off : Nat} {s t : State} (h : s.memWf)
    (e : loadPlaceElem d w base consume i core off s = .ok t) : t.memWf := by
  unfold loadPlaceElem at e
  split at e
  · cases e
  · dsimp only at e
    cases e
    split
    · exact consumeWord_form (State.putElem_form h)
    · exact State.putElem_form h

theorem storePlaceElem_form {w i x core off : Nat} (h : s.memWf) : (storePlaceElem w i x core off s).memWf := padWrite_form h

theorem clearStored_form {o : VOp} {c : Ctx} {w lo core off hi : Nat} (h : s.memWf) : (clearStored o c w lo core off hi s).memWf := by
  unfold clearStored
  split
  · exact h
  · dsimp only
    exact h.update

theorem execVstp_form {d : BitVec 6} {b : BitVec 5} {n : BitVec 1} {p : BitVec 5} (h : s.memWf) : Formed (execVstp d b n p s) := by
  unfold execVstp
  refine placeForm_form (fun _ _ hs hk => storeAfterFence_form hs hk) (fun _ _ _ _ _ _ hs e => ?_) (fun _ _ _ _ ht => clearStored_form ht) h
  cases e
  exact storePlaceElem_form (State.released_form hs)

theorem execPstV_form {d : BitVec 6} {b : BitVec 5} {n : BitVec 1} {p : BitVec 5} (h : s.memWf) : Formed (execPstV d b n p s) := by
  refine placeForm_form (fun _ _ hs hk => releaseAt_form hs hk) (fun _ _ _ _ _ _ hs e => ?_) (fun _ _ _ _ ht => ht) h
  cases e
  exact sendPresence_form (State.released_form hs)

theorem atomicForm_forms {b : BitVec 5} {i : BitVec 6} {a : AtomicDesc} {f : Ctx → MemElem}
    (hf : ∀ c i r t, r.1.memWf → f c i r = .ok t → t.1.memWf) : (atomicForm s b i a f).Forms :=
  ⟨fun _ _ h hk => orderAtomic_form h hk, hf, fun _ _ _ _ hk => hk⟩

theorem execVamo_form {d : BitVec 6} {b : BitVec 5} {i : BitVec 6} {n : BitVec 1} {p : BitVec 5} (h : s.memWf) :
    Formed (execVamo d b i n p s) := by
  unfold execVamo
  dsimp only
  split
  · exact illegal_form h
  · refine whenOk_form h (runMemory_form (atomicForm_forms fun c k r t hr e => ?_) h)
    split at e
    · cases e
    · cases e
      exact State.memWf.update (atomicAt_form hr ‹_›)

theorem execVred_form {d : BitVec 6} {b : BitVec 5} {i : BitVec 6} {n : BitVec 1} {p : BitVec 5} (h : s.memWf) :
    Formed (execVred d b i n p s) := by
  unfold execVred
  dsimp only
  split
  · exact illegal_form h
  · refine whenOk_form h (runMemory_form (atomicForm_forms fun c k r t hr e => ?_) h)
    split at e
    · cases e
    · cases e
      exact reduceAt_form hr ‹_›

theorem State.reserve_form {k word : Nat} (h : s.memWf) : (State.reserve s k word).memWf := h.update

theorem gllRead_form {va : Word} {n k : Nat} {a : AtomicDesc} {r : Nat} {t1 : State} (h : s.memWf) (e : gllRead s va n k a = .ok (r, t1)) :
    t1.memWf := by
  unfold gllRead at e
  split at e
  · cases e
  · dsimp only at e
    split at e
    · cases e
    · split at e
      · cases e
      · cases e
        exact State.reserve_form (acquireAtomic_form (publish_form (markUsed_form h)))
  · dsimp only at e
    split at e
    · cases e
    · split at e
      · cases e
      · cases e
        exact State.reserve_form (fresh_form (acquireAtomic_form (markUsed_form (publish_form h))))

theorem execGll_form {d : BitVec 6} {b : BitVec 5} {i : BitVec 6} {n : BitVec 1} {p : BitVec 5} (h : s.memWf) :
    Formed (execGll d b i n p s) := by
  unfold execGll
  refine whenOk_form h (runMemory_form (atomicForm_forms fun c k r t hr e => ?_) h)
  split at e
  · cases e
  · cases e
    exact State.putElem_form (gllRead_form hr ‹_›)

theorem sccElem_form {va : Word} {n : Nat} {a : AtomicDesc} {k x : Nat} {r : Bool} {t1 : State} (h : s.memWf)
    (e : sccElem s va n a k x = .ok (r, t1)) : t1.memWf := by
  unfold sccElem at e
  dsimp only at e
  split at e
  · cases e
  · split at e
    · cases e
    · split at e
      · cases e
      · split at e
        · cases e
          refine State.memWf.update ?_
          split
          · refine State.markRelease_form ?_
            refine State.dropOwnResv_form ?_
            refine homeWrite_form ?_
            exact stampHome_form (acquireAtomic_form (State.released_form (publish_form (markUsed_form h))))
          · refine State.dropOwnResv_form ?_
            exact homeWrite_form (acquireAtomic_form (State.released_form (publish_form (markUsed_form h))))
        · cases e
          exact State.memWf.update (acquireAtomic_form (State.released_form (publish_form (markUsed_form h))))
  · split at e
    · cases e
    · split at e
      · cases e
      · cases e
        exact State.memWf.update (fresh_form (acquireAtomic_form (markUsed_form (State.released_form (publish_form h)))))

theorem execScc_form {d : BitVec 6} {b : BitVec 5} {i : BitVec 6} {n : BitVec 1} {p : BitVec 5} (h : s.memWf) :
    Formed (execScc d b i n p s) := by
  unfold execScc
  refine whenOk_form h (runMemory_form (atomicForm_forms fun c k r t hr e => ?_) h)
  split at e
  · cases e
  · cases e
    exact State.memWf.update (sccElem_form hr ‹_›)

/-! ### Copy -/

theorem checksumRegister_form {on : Bool} {r : Option VReg} {t1 : State} (h : s.memWf) (e : checksumRegister s on = .ok (r, t1)) :
    t1.memWf := by
  unfold checksumRegister at e
  split at e
  · cases e
    exact h
  · dsimp only at e
    split at e
    · cases e
    · cases e
      exact of_fst (landRegisters_form h) ‹_›

theorem execXcopy_form {t a b : BitVec 5} {h : BitVec 2} {k q sr : BitVec 1} (hs : s.memWf) : Formed (execXcopy t a b h k q sr s) := by
  unfold execXcopy
  dsimp only
  refine whenOk_form hs ?_
  refine addressOk_form hs ?_
  split
  · exact raise_form hs
  · split
    · exact waitHere_form hs
    · refine withRes_form hs (fun a1 e => ?_)
      refine complete_form ?_
      refine State.setX_form ?_
      exact State.memWf.update (startTransfer_form (foldl_form (fun t1 a2 ht1 => rousePan_form ht1) (publish_form (checksumRegister_form hs e))))

theorem copyRead_form {p : Engine} {d : Side} {off : Int} {first : Bool} {v : Word} {t : State} (h : s.memWf)
    (e : copyRead s p d off first = .ok (v, t)) : t.memWf := by
  unfold copyRead at e
  split at e
  · split at e
    · cases e
    · dsimp only at e
      split at e
      · cases e
      · exact ok_snd e (wakePan_form h)
  · dsimp only at e
    split at e
    · cases e
    · split at e
      · cases e
      · exact ok_snd e (markUsed_form h)
    · split at e
      · cases e
      · refine ok_snd e (fresh_form (markUsed_form ?_))
        split
        · exact (countMigration_keeps ..).form h
        · exact h

theorem copyWrite_form {p : Engine} {d : Side} {off : Int} {v : Word} {t : State} (h : s.memWf) (e : copyWrite s p d off v = .ok t) :
    t.memWf := by
  unfold copyWrite at e
  split at e
  · split at e
    · cases e
    · cases e
      exact padWrite_form (wakePan_form h)
  · dsimp only at e
    split at e
    · cases e
    · split at e
      · cases e
      · cases e
        exact State.dropOwnResv_form (homeWrite_form (markUsed_form h))
    · split at e
      · cases e
      · cases e
        exact fresh_form (markUsed_form h)

theorem poisonWord_form {p : Engine} {d : Side} {off : Int} {path : Bool} (h : s.memWf) : (poisonWord s p d off path).memWf := by
  unfold poisonWord
  split
  · split
    · exact setPadPoison_form h
    · exact h
  · split
    · split
      · exact h
      · exact setPoison_form h
    · exact h

theorem copyWords_form {p : Engine} {a b : Side} {r n k : Nat} {c : Copying} (h : c.state.memWf) :
    (copyWords p a b r n k c).state.memWf := by
  induction n generalizing k c with
  | zero => exact h
  | succ n ih =>
    unfold copyWords
    split
    · exact h
    · dsimp only
      split
      · split
        · exact poisonWord_form h
        · exact h
      · rename_i eq
        have h1 := copyRead_form h eq
        split
        · exact ih (copyWrite_form h1 ‹_›)
        · split
          · exact ih h1
          · exact h1

theorem logCopyRow_form {t : Transfer} {va : Word} {r : Nat} (h : s.memWf) : (logCopyRow s t va r).memWf := logRecord_form h

theorem copyRows_form {t : Transfer} {p : Engine} {a b : Side} {rowlen : Nat} {ck : Option VReg} {n r : Nat} {c : Copying}
    (h : c.state.memWf) : (copyRows t p a b rowlen ck n r c).state.memWf := by
  induction n generalizing r c with
  | zero => exact h
  | succ n ih =>
    unfold copyRows
    split
    · exact h
    · split
      · exact ih (copyWords_form h)
      · exact ih (logCopyRow_form h)

theorem putPadCode_form {core pan w e code : Nat} (h : s.memWf) : (putPadCode s core pan w e code).memWf := padWrite_form h

theorem wakeRow_form {x : PadRow} {f : BitVec 9} {rowlen : Nat} (h : s.memWf) : (wakeRow s x f rowlen).memWf :=
  foldl_form (fun _ _ ht => wakePan_form ht) h

theorem putPadBlock_form {y : PadRow} {g : BitVec 9} {e : Nat} {b : Block} (h : s.memWf) : (putPadBlock s y g e b).memWf :=
  foldl_form (fun _ _ ht => putPadCode_form ht) (padWrite_form h)

theorem clearCovered_form {core off n : Nat} (h : s.memWf) : (clearCovered s core off n).memWf := by
  unfold clearCovered
  split
  · exact h
  · exact h.update

theorem rowWritten_form {y : PadRow} {g : BitVec 9} {n : Nat} (h : s.memWf) : (rowWritten y g n s).memWf := by
  unfold rowWritten
  dsimp only
  split
  · exact clearCovered_form (clearCovered_form h)
  · exact clearCovered_form h

theorem convertUnits_form {s0 : State} {va : Word} {x y : PadRow} {f g : BitVec 9} {mode : RMode} {unit n k : Nat} {c : Copying}
    (h : c.state.memWf) : (convertUnits s0 va x y f g mode unit n k c).state.memWf := by
  induction n generalizing k c with
  | zero => exact rowWritten_form h
  | succ n ih =>
    unfold convertUnits
    split
    · exact setPadPoison_form (rowWritten_form h)
    · refine ih ?_
      dsimp only
      split
      · exact putPadBlock_form h
      · exact putPadCode_form h

theorem convertRow_form {p : Engine} {a b : Side} {f g : BitVec 9} {mode : RMode} {rowlen : Nat} {x y : PadRow} {c : Copying}
    (h : c.state.memWf) : (convertRow p a b f g mode rowlen x y c).state.memWf := by
  unfold convertRow
  split
  · exact h
  · exact convertUnits_form (wakeRow_form (wakeRow_form h))

theorem convertRows_form {p : Engine} {a b : Side} {f g : BitVec 9} {mode : RMode} {rowlen n r : Nat} {c : Copying} (h : c.state.memWf) :
    (convertRows p a b f g mode rowlen n r c).state.memWf := by
  induction n generalizing r c with
  | zero => exact h
  | succ n ih =>
    unfold convertRows
    split
    · exact h
    · split
      · exact ih (convertRow_form h)
      · exact h

theorem finishTransfer_form {ch : Fin 4} {t : Transfer} {err : BitVec 24} (h : s.memWf) : (finishTransfer s ch t err).memWf :=
  (wakeWaiters_onlyMessages ..).sameMems.memWf h.update

theorem transferRecord_form {t : Transfer} {err : BitVec 24} {addr : Word} (h : s.memWf) : (transferRecord s t err addr).memWf :=
  report_form h

theorem failTransfer_form {ch : Fin 4} {t : Transfer} {err : BitVec 24} {addr : Word} (h : s.memWf) :
    (failTransfer s ch t err addr).memWf :=
  finishTransfer_form (transferRecord_form h)

theorem setParked_form {ch : Fin 4} {id : BitVec 32} {on : Bool} (h : s.memWf) : (setParked s ch id on).memWf := h.update

theorem parkTransfer_form {ch : Fin 4} {t : Transfer} {e : Exc} {fail : State} (hs : s.memWf) (hfail : fail.memWf) :
    (parkTransfer s ch t e fail).memWf := by
  unfold parkTransfer
  split
  · exact setParked_form hs
  · split
    · exact hfail
    · extract_lets _ s1 s2
      have hs1 : s1.memWf := initFaultCell_form hs
      have hs2 : s2.memWf := produceRecord_form hs1
      exact setParked_form (addWaiter_form hs2)

theorem runCopy_form {ch : Fin 4} {t : Transfer} {a b : Side} {rowlen rows : Nat} {conv : Option (BitVec 9 × BitVec 9)} {frm : BitVec 3}
    {ck : Option VReg} (h : s.memWf) : (runCopy s ch t a b rowlen rows conv frm ck).memWf := by
  unfold runCopy
  dsimp only
  split
  · split
    · split
      · refine finishTransfer_form ?_
        refine convertRows_form ?_
        dsimp only
        exact h
      · refine failTransfer_form ?_
        refine countConsumed_form ?_
        refine convertRows_form ?_
        dsimp only
        exact h
    · exact failTransfer_form (fresh_form h)
  · split
    · exact parkTransfer_form h (failTransfer_form h)
    · split
      · refine finishTransfer_form ?_
        refine copyRows_form ?_
        dsimp only
        exact h
      · refine failTransfer_form ?_
        refine countConsumed_form ?_
        refine copyRows_form ?_
        dsimp only
        exact h

theorem transferComplete_form {core ch id : Nat} (h : s.memWf) : (transferComplete core ch id s).memWf := by
  unfold transferComplete
  refine State.onCore_form h (fun t ht => ?_)
  split
  · split
    · exact ht
    · split
      · split
        · exact ht
        · exact runCopy_form ht
      · exact ht
  · exact ht

theorem resumeChannel_form {core ch : Nat} (h : s.memWf) : (resumeChannel core ch s).memWf := by
  unfold resumeChannel
  refine State.onCore_form h (fun t ht => ?_)
  split
  · dsimp only
    exact ht.update
  · exact ht

theorem mapTaskCtx_form {core serial tid : Nat} {f : Ctx → Ctx} (h : s.memWf) : (mapTaskCtx s core serial tid f).memWf := by
  unfold mapTaskCtx
  dsimp only
  split
  · split
    · exact State.setCtx_form h
    · split <;> split <;> exact setCore_form h
  · split
    · split
      · exact State.setCtx_form h
      · exact setCore_form h
    · split
      · exact State.setCtx_form h
      · exact setCore_form h

theorem mapTask_form {serial tid : Nat} {f : Ctx → Ctx} (h : s.memWf) : (mapTask s serial tid f).memWf := by
  unfold mapTask
  split
  · split
    · exact mapTaskCtx_form h
    · exact h
  · split
    · exact mapTaskCtx_form h
    · exact h

theorem landLoad_form {id : BitVec 32} (h : s.memWf) : (landLoad s id).memWf := by
  unfold landLoad
  split
  · exact h
  · split
    · dsimp only
      refine finishTransfer_form ?_
      split
      · exact mapTask_form h
      · exact h
    · exact h

theorem landVamoElement_form {serial tid : Nat} (h : s.memWf) : (landVamoElement s serial tid).memWf := by
  unfold landVamoElement
  split
  · exact h
  · dsimp only
    split
    · exact mapTask_form h.update
    · exact h.update

theorem landVamos_form (h : s.memWf) : (landVamos s).memWf := by
  unfold landVamos
  dsimp only
  split
  · exact h
  · exact State.memWf.update (foldl_form (fun t a ht => landVamoElement_form ht) h)

theorem takeEvent_form {e : Event} {f : State → State} (h : s.memWf) (hf : ∀ t, t.memWf → (f t).memWf) : Formed (takeEvent e s f) := by
  unfold takeEvent
  split
  · refine formed_next ?_
    refine hf _ ?_
    dsimp only
    exact State.memWf.update (fresh_form h)
  · exact formed_next h

theorem takeWhenAwake_form {e : Event} {pans : List (Nat × Nat)} {due : State → Bool} {f : State → State} (h : s.memWf)
    (hf : ∀ t, t.memWf → (f t).memWf) : Formed (takeWhenAwake e pans due s f) := by
  unfold takeWhenAwake
  split
  · exact formed_next h
  · split
    · exact takeEvent_form h (fun t ht => hf _ ht)
    · dsimp only
      refine formed_next ?_
      split
      · exact h
      · exact fresh_form (foldl_form (fun t a ht => rousePan_form ht) h)

theorem execTransferComplete_form {core ch id : Nat} (h : s.memWf) : Formed (execTransferComplete core ch id s) :=
  takeWhenAwake_form h (fun _ ht => transferComplete_form ht)

theorem execChannelCellResume_form {core ch : Nat} (h : s.memWf) : Formed (execChannelCellResume core ch s) := by
  unfold execChannelCellResume
  split
  · exact formed_next h
  · exact takeEvent_form h (fun t ht => resumeChannel_form ht)

theorem execLdaDataArrival_form {core id : Nat} (h : s.memWf) : Formed (execLdaDataArrival core id s) :=
  takeEvent_form h (fun _ ht => State.onCore_form ht (fun _ ht1 => landLoad_form ht1))

theorem execVamoElementArrival_form {core serial tid : Nat} (h : s.memWf) : Formed (execVamoElementArrival core serial tid s) := by
  unfold execVamoElementArrival
  refine takeEvent_form h (fun t ht => ?_)
  refine State.onCore_form ht (fun t1 ht1 => ?_)
  dsimp only
  split
  · exact State.memWf.update (landVamoElement_form ht1)
  · exact landVamoElement_form ht1

end Sys2Proof.Machine
end


section
/-! SUPPORT. Canonical form: what queues, tokens, awaits, cells and task control leave. -/

namespace Sys2Proof.Machine

variable {s : State}

/-! ### Queues -/

theorem storeElement_form {piece : Nat} {l : Dest} {bs : List Byte} {t : State} (h : s.memWf) (e : storeElement piece s l bs = .ok t) :
    t.memWf := by
  induction l generalizing s bs with
  | nil =>
    cases e
    exact h
  | cons d l ih =>
    unfold storeElement at e
    split at e
    · cases e
    · exact ih (writeTo_form h ‹_›) e

theorem queueWait_form {t : TaskInfo} {o : OpenQueue} {va : Word} {dequeue : Bool} (h : s.memWf) :
    (queueWait s t o va dequeue).memWf := by
  unfold queueWait
  dsimp only
  refine waitOn_form ?_
  refine touch_form ?_
  split
  · exact h
  · split <;> exact writeQcb_form h

theorem clearWoken_form (h : s.memWf) : (clearWoken s).memWf := h.update

theorem cannotProceed_form {pd : Option Nat} {o : OpenQueue} {va : Word} {dequeue : Bool} (h : s.memWf) :
    Formed (cannotProceed pd o va dequeue s) := by
  unfold cannotProceed
  split
  · exact complete_form (touch_form h.update)
  · split
    · exact formed_next (queueWait_form h)
    · exact waitHere_form h

theorem succeed_form {pd : Option Nat} (h : s.memWf) : Formed (succeed pd s) := by
  unfold succeed
  dsimp only
  split
  · exact complete_form (State.memWf.update (clearWoken_form h))
  · exact complete_form (clearWoken_form h)

theorem touchSlot_form {part : Nat} {o : OpenQueue} {slot : Nat} {need : Need} (h : s.memWf) : (touchSlot s part o slot need).memWf :=
  touch_form (touch_form (touch_form h))

theorem stampSlot_form {q : Nat} {l : List Nat} (h : s.memWf) : (stampSlot q s l).memWf :=
  foldl_form (fun _ _ ht => State.markRelease_form (stampHome_form ht)) h

theorem acquireSlot_form {q : Nat} {l : List Nat} (h : s.memWf) : (acquireSlot q s l).memWf :=
  foldl_form (fun _ _ ht => State.acquireRange_form ((recall_onlyMessages ..).sameMems.memWf ht)) h

theorem enqueueNow_form {o : OpenQueue} {elem : List Byte} {t : State} (h : s.memWf) (e : enqueueNow s o elem = .ok t) : t.memWf := by
  unfold enqueueNow at e
  dsimp only at e
  split at e
  · cases e
  · cases e
    split
    · exact State.memWf.update (touchSlot_form (stampSlot_form ((enqueueAt_keeps ..).form (stampHome_form h))))
    · exact touchSlot_form (stampSlot_form ((enqueueAt_keeps ..).form (stampHome_form h)))

theorem enqueueForm_form {pd : Option Nat} {va : Word} {elem : OpenQueue → Res (List Byte × State)} (h : s.memWf)
    (helem : ∀ o r, elem o = .ok r → r.2.memWf) : Formed (enqueueForm pd va elem s) := by
  refine withRes_form h fun o _ => withRes_form h fun r er => ?_
  split
  · exact cannotProceed_form h
  · exact releaseAt_form (helem _ _ er) fun s0 h0 => withRes_form h0 fun s1 e1 => succeed_form (State.released_form (enqueueNow_form h0 e1))

theorem elementAt_form {va : Word} {o : OpenQueue} {r : List Byte} {t1 : State} (h : s.memWf) (e : elementAt s va o = .ok (r, t1)) :
    t1.memWf := by
  unfold elementAt at e
  split at e
  · cases e
  · split at e
    · cases e
    · exact readSpan_form h e

theorem execEnqTry_form {p a b : BitVec 5} (h : s.memWf) : Formed (execEnqTry p a b s) := by
  unfold execEnqTry
  refine whenOk_form h ?_
  split
  · exact raise_form h
  · exact enqueueForm_form h (fun o r e => elementAt_form h e)

theorem elementOf_form {d : Nat} {o : OpenQueue} {r : List Byte} {t1 : State} (h : s.memWf) (e : elementOf s d o = .ok (r, t1)) :
    t1.memWf := by
  unfold elementOf at e
  cases e
  exact h

theorem venqForm_form {ok : Bool} {pd : Option Nat} {d : BitVec 6} {a : BitVec 5} {word : Nat} (h : s.memWf) :
    Formed (venqForm ok pd d a word s) := by
  unfold venqForm
  refine whenOk_form h ?_
  split
  · exact raise_form h
  · exact enqueueForm_form h (fun o r e => elementOf_form h e)

theorem dequeueAt_form {part : Nat} {o : OpenQueue} {slot : List Nat} {seg : Option Nat} (h : s.memWf) :
    (dequeueAt s part o slot seg).memWf := by
  unfold dequeueAt
  extract_lets q s1 s2
  have h1 : s1.memWf := writeQcb_form h
  have h2 : s2.memWf := by
    dsimp only [s2]
    split
    · exact (setSegCounts_keeps ..).form h1
    · exact h1
  exact offerHeld_form (wakeEnqueuer_form h2.update)

theorem dequeueNow_form {o : OpenQueue} {bs : List Byte} {t : State} (h : s.memWf) (e : dequeueNow s o = .ok (some (bs, t))) :
    t.memWf := by
  unfold dequeueNow at e
  cases hr : readSlot s o with
  | error x =>
    rw [hr] at e
    cases e
  | ok r =>
    rw [hr] at e
    cases r with
    | none => cases e
    | some x =>
      cases e
      exact touchSlot_form (dequeueAt_form (acquireSlot_form h))

theorem dequeueForm_form {pd : Option Nat} {va : Word} {check : OpenQueue → Res Dest}
    {put : Dest → OpenQueue → List Byte → State → Res State} (h : s.memWf) (hput : ∀ d o bs s t, s.memWf → put d o bs s = .ok t → t.memWf) :
    Formed (dequeueForm pd va check put s) := by
  refine withRes_form h fun o _ => withRes_form h fun d _ => ?_
  split
  · exact cannotProceed_form h
  · have h0 := publish_form h
    refine withRes_form h0 fun r er => ?_
    split
    · exact waitHere_form h
    · have h1 := dequeueNow_form h0 er
      exact withRes_form h1 fun s2 e2 => succeed_form (hput _ _ _ _ _ h1 e2)

theorem putAt_form {d : Dest} {o : OpenQueue} {bs : List Byte} {s t : State} (h : s.memWf) (e : putAt d o bs s = .ok t) : t.memWf := by
  unfold putAt at e
  exact storeElement_form h e

theorem execDeqTry_form {p a b : BitVec 5} (h : s.memWf) : Formed (execDeqTry p a b s) := by
  unfold execDeqTry
  refine whenOk_form h ?_
  split
  · exact raise_form h
  · exact dequeueForm_form h (fun d o bs s1 t hs1 e => putAt_form hs1 e)

theorem putVector_form {d : Nat} {x : Dest} {x1 : OpenQueue} {bs : List Byte} {s t : State} (h : s.memWf)
    (e : putVector d x x1 bs s = .ok t) : t.memWf := by
  unfold putVector at e
  dsimp only at e
  cases e
  exact h.update

theorem vdeqForm_form {ok : Bool} {pd : Option Nat} {d : BitVec 6} {a : BitVec 5} {word : Nat} (h : s.memWf) :
    Formed (vdeqForm ok pd d a word s) := by
  unfold vdeqForm
  refine whenOk_form h ?_
  split
  · exact raise_form h
  · exact dequeueForm_form h (fun d1 o bs s1 t hs1 e => putVector_form hs1 e)

theorem clearFull_form {a a1 a2 : Nat} (h : s.memWf) : (clearFull a s a1 a2).memWf := by
  fun_induction clearFull a s a1 a2
  case case1 => exact h
  case case2 => exact h
  case case3 ih1 => exact ih1 h.update
  case case4 ih1 => exact ih1 h

theorem setSegments_form {q : Nat} {on : Bool} (h : s.memWf) : (setSegments s q on).memWf := by
  unfold setSegments
  split
  · refine foldl_form (fun t a ht => ?_) h
    split
    · dsimp only
      refine State.memWf.update ?_
      split
      · exact homeWrite_form (touch_form ht)
      · exact ht
    · exact ht
  · exact h

theorem makeQueue_form {qva qpa t : Nat} (h : s.memWf) : (makeQueue s qva qpa t).memWf := by
  unfold makeQueue
  extract_lets s1 _ s2 s3
  have hs1 : s1.memWf := publish_form (touch_form h)
  have hs2 : s2.memWf := clearFull_form hs1
  have hs3 : s3.memWf := setSegments_form (writeQcb_form hs2)
  exact hs3.update

theorem qinitStatus_form {qva : Nat} {tgt : Target} {t r1 : Nat} {t2 : State} (h : s.memWf) (e : qinitStatus s qva tgt t = .ok (r1, t2)) :
    t2.memWf := by
  unfold qinitStatus at e
  split at e
  · cases e
    exact h
  · split at e
    · cases e
      exact h
    · split at e
      · cases e
        exact h
      · split at e
        · cases e
          exact h
        · split at e
          · cases e
          · cases e
            exact h
          · cases e
            exact makeQueue_form h

theorem execQinit_form {d a b : BitVec 5} (h : s.memWf) : Formed (execQinit d a b s) := by
  unfold execQinit
  split
  · exact raise_form h
  · split
    · exact raise_form h
    · refine peerFirst_form h ?_
      refine peerFirst_form h ?_
      refine withRes_form h ?_
      exact fun a1 e => withRes_form h (fun a2 e1 => withRes_form (readVa_form h e1)
          (fun a3 e2 => complete_form (State.setX_form (qinitStatus_form (readVa_form h e1) e2))))

theorem execQfree_form {d a : BitVec 5} (h : s.memWf) : Formed (execQfree d a s) := by
  unfold execQfree
  refine withRes_form h (fun a1 e => ?_)
  split
  · extract_lets s1 s2
    have hs1 : s1.memWf := setSegments_form (publish_form (touch_form h))
    have hs2 : s2.memWf := hs1.update
    exact complete_form (State.setX_form hs2)
  · exact complete_form (State.setX_form (touch_form h))

theorem execQpeek_form {d a b : BitVec 5} (h : s.memWf) : Formed (execQpeek d a b s) := by
  refine withRes_form h fun o _ => withRes_form h fun dst _ => ?_
  split
  · exact complete_form (State.setX_form (touch_form h))
  · have h0 := publish_form h
    refine withRes_form h0 fun r _ => ?_
    split
    · exact waitHere_form h
    · refine withRes_form (touchSlot_form (acquireSlot_form h0)) fun s2 e2 => complete_form (State.setX_form ?_)
      exact putAt_form (touchSlot_form (acquireSlot_form h0)) e2

/-! ### Tokens -/

theorem signalCellAt_form {pa amount : Nat} {err : Bool} (h : s.memWf) : (signalCellAt s pa amount err).memWf :=
  (judgeCell_onlyMessages ..).sameMems.memWf (homeWrite_form h)

theorem podSignal_form {pa : Nat} (h : s.memWf) : (podSignal s pa).memWf := h.update

theorem registerToken_form {t : TaskInfo} {tok : Word} (h : s.memWf) : (registerToken s t tok).memWf := by
  unfold registerToken
  dsimp only
  split
  · exact h.update
  · exact addWaiter_form h
  · split
    · split
      · exact State.memWf.update (addWaiter_form h)
      · exact addWaiter_form h
    · exact addWaiter_form h
  · split
    · exact h.update
    · split
      · split
        · exact h.update
        · exact addWaiter_form h
      · exact h.update
  · split
    · exact h.update
    · split
      · split
        · exact h.update
        · exact addWaiter_form h
      · exact h.update
  · split
    · exact h.update
    · split
      · split
        · exact h.update
        · exact addWaiter_form h
      · exact h.update
  · split
    · exact addWaiter_form h
    · exact h.update

theorem registerTokens_form {t : TaskInfo} {a : List Word} (h : s.memWf) : (registerTokens t a s).memWf := by
  fun_induction registerTokens t a s
  case case1 => exact h
  case case2 ih1 => exact ih1 (registerToken_form h)

theorem endWait_form {core slot : Nat} (h : s.memWf) : (endWait s core slot).memWf := h.update

theorem putWait_form {core slot : Nat} {w : Wait} (h : s.memWf) : (putWait s core slot w).memWf := by
  unfold putWait
  dsimp only
  split <;> exact setCore_form h

theorem resumeSlot_form {core slot : Nat} (h : s.memWf) : (resumeSlot s core slot).memWf :=
  State.onCore_form h (fun _ ht => pickIfIdle_form (releaseSlot_form ht))

theorem resumeAfterWait_form {core : Nat} {t : TaskInfo} (h : s.memWf) : (resumeAfterWait s core t).memWf := by
  unfold resumeAfterWait
  dsimp only
  split
  · exact resumeSlot_form h
  · split
    · refine foldl_form (fun t1 a ht1 => ?_) h
      split
      · exact resumeSlot_form ht1
      · exact ht1
    · exact h

theorem wakeSlot_form {core slot : Nat} {f : Wait → Wait} (h : s.memWf) : (wakeSlot s core slot f).memWf := by
  unfold wakeSlot
  split
  · exact h
  · split
    · exact h
    · exact resumeAfterWait_form ((acquireWait_onlyLines ..).keeps.form (putWait_form (endWait_form h)))

/-! ### Awaits -/

theorem discardDead_form {m : LiveMask} (h : s.memWf) : (discardDead s m).memWf := h.update

theorem renewBarrier_form {toks : List Word} (h : s.memWf) : (renewBarrier s toks).memWf := h.update

theorem awaitPrepare_form {f : AwaitForm} {idx : Nat} {t : State} {r1 : List Word} {r2 : LiveMask} (h : s.memWf)
    (e : awaitPrepare s f idx = .ok (t, r1, r2)) : t.memWf := by
  unfold awaitPrepare at e
  dsimp only at e
  split at e
  · cases e
  · split at e
    · cases e
    · cases e
      exact renewBarrier_form (State.memWf.update (discardDead_form (readVa_form (foldl_form (fun t a ht => touch_form ht) h) ‹_›)))

theorem awaitDone_form {t : TaskInfo} {w : Wait} (h : s.memWf) : (awaitDone s t w).memWf :=
  State.retire_form ((acquireWait_onlyLines ..).keeps.form h.update)

theorem awaitRegister_form {t : TaskInfo} {w : Wait} (h : s.memWf) : (awaitRegister s t w).memWf := by
  unfold awaitRegister
  dsimp only
  split
  · exact State.memWf.update (registerTokens_form h)
  · exact registerTokens_form h

theorem stall_form {t : TaskInfo} {p : Word} {w : Wait} (h : s.memWf) : (stall s t p w).memWf := h.update

theorem awaitAlone_form {f : AwaitForm} {toks : List Word} {m : LiveMask} (h : s.memWf) : (awaitAlone s f toks m).memWf := by
  unfold awaitAlone
  split
  · exact h
  · dsimp only
    split
    · exact awaitDone_form (fresh_form h.update)
    · split
      · exact takeCause_form h.update
      · split
        · split
          · exact stall_form (fresh_form (awaitRegister_form h.update))
          · exact suspendAndPick_form (fresh_form (awaitRegister_form h.update))
        · exact suspendAndPick_form (fresh_form (awaitRegister_form h.update))

theorem gangPrepare_form {f : AwaitForm} {idx : Nat} {l : List (Nat × Nat)} (h : s.memWf) : (gangPrepare f idx l s).2.memWf := by
  induction l generalizing s with
  | nil => exact h
  | cons m l ih =>
    have h1 : (s.switchTo m.1).memWf := switchTo_form h
    unfold gangPrepare
    dsimp only
    split
    · exact takeCause_form h1
    · have h2 := awaitPrepare_form h1 ‹_›
      split
      · split
        · exact takeCause_form h2.update
        · exact ih h2
      · exact ih h2

theorem gangWait_form {t : TaskInfo} {w : Wait} {r : Option (Nat × BitVec 24)} (h : s.memWf) : (gangWait s t w r).1.memWf := by
  unfold gangWait
  split
  · dsimp only
    exact (acquireWait_onlyLines ..).keeps.form (fresh_form h)
  · dsimp only
    exact fresh_form (awaitRegister_form h)

theorem gangAct_form {f : AwaitForm} {idx : Nat} {ch : GangChoice} {r : Option (Nat × BitVec 24)} {s0 : State} (h : s0.memWf) :
    (gangAct f idx ch r s0).memWf := by
  unfold gangAct
  split
  · exact h
  · dsimp only
    split
    · exact awaitDone_form (fresh_form h.update)
    · exact stall_form (gangWait_form h.update)
    · exact suspendAndPick_form (gangWait_form h.update)

theorem awaitGang_form {ms : List (Nat × Nat)} {f : AwaitForm} {idx : Nat} (h : s.memWf) : (awaitGang s ms f idx).memWf := by
  unfold awaitGang
  extract_lets _ p s1
  have hp : p.2.memWf := gangPrepare_form (foldl_form (fun t a ht => State.onCore_form ht (fun t1 ht1 => count_form ht1)) h)
  have hs1 : s1.memWf := switchTo_form hp
  split
  · exact hs1
  · exact foldl_form (fun t a ht => State.onCore_form ht (fun t1 ht1 => gangAct_form ht1)) hs1

theorem awaitForm_form {f : AwaitForm} {idx : Nat} (h : s.memWf) : Formed (awaitForm f idx s) := by
  unfold awaitForm
  refine whenOk_form h ?_
  split
  · split
    · exact formed_next (awaitGang_form h)
    · exact waitHere_form h
  · exact withRes_form h (fun a e => formed_next (awaitAlone_form (awaitPrepare_form h e)))

theorem execWaituntil_form {a b : BitVec 5} (h : s.memWf) : Formed (execWaituntil a b s) := by
  unfold execWaituntil
  refine outsideService_form h ?_
  dsimp only
  split
  · exact raise_form h
  · refine withRes_form h (fun a1 e => ?_)
    split
    · split
      · exact complete_form h
      · exact raise_form h
    · split
      · exact waitHere_form h
      · split
        · exact formed_next h.update
        · exact formed_next (suspendAndPick_form h.update)

theorem takeDue_form {e : Event} {due : State → Bool} {f : State → State} (h : s.memWf) (hf : ∀ t, t.memWf → (f t).memWf) :
    Formed (takeDue e due s f) := by
  unfold takeDue
  split
  · refine formed_next ?_
    refine hf _ ?_
    dsimp only
    exact State.memWf.update (fresh_form h)
  · exact formed_next h

theorem takeMail_form {e : Event} {core : Nat} {f : State → State} (h : s.memWf) (hf : ∀ t, t.memWf → (f t).memWf) :
    Formed (takeMail e core s f) :=
  takeDue_form h (fun _ ht => hf _ ht)

theorem execTokenWake_form {core slot : Nat} {err : BitVec 24} (h : s.memWf) : Formed (execTokenWake core slot err s) := by
  unfold execTokenWake
  refine takeMail_form h (fun t ht => ?_)
  split
  · exact wakeSlot_form ht
  · exact ht

theorem execQueueWaiterWake_form {core slot : Nat} (h : s.memWf) : Formed (execQueueWaiterWake core slot s) :=
  takeMail_form h (fun _ ht => wakeSlot_form ht)

theorem execTokenRegistration_form {at_ : Nat} {token : BitVec 64} {core slot : Nat} (h : s.memWf) :
    Formed (execTokenRegistration at_ token core slot s) := by
  unfold execTokenRegistration
  refine takeMail_form h (fun t ht => ?_)
  split
  · exact ht
  · split
    · exact (sendStamped_onlyMessages ..).sameMems.memWf ht
    · exact addWaiter_form ht

theorem execTimerTokenReady_form {core slot : Nat} (h : s.memWf) : Formed (execTimerTokenReady core slot s) := by
  unfold execTimerTokenReady
  refine takeDue_form h (fun t ht => ?_)
  split
  · exact wakeSlot_form ht
  · exact ht

theorem execAwaitTimeout_form {core slot : Nat} (h : s.memWf) : Formed (execAwaitTimeout core slot s) := by
  unfold execAwaitTimeout
  refine takeDue_form h (fun t ht => ?_)
  split
  · split <;> exact wakeSlot_form ht
  · exact ht

theorem execWaituntilTime_form {core slot : Nat} (h : s.memWf) : Formed (execWaituntilTime core slot s) :=
  takeDue_form h (fun _ ht => wakeSlot_form ht)

theorem suspendStalled_form (h : s.memWf) : (suspendStalled s).memWf := by
  unfold suspendStalled
  split
  · exact suspendAndPick_form (countStall_form h)
  · exact h

theorem execStallPromisePassed_form {core : Nat} (h : s.memWf) : Formed (execStallPromisePassed core s) := by
  unfold execStallPromisePassed
  refine takeDue_form h (fun t ht => ?_)
  split
  · dsimp only
    exact foldl_form (fun t1 a ht1 => State.onCore_form ht1 (fun t2 ht2 => suspendStalled_form ht2)) ht.update
  · exact ht

theorem retryMember_form {core slot : Nat} {t : TaskInfo} {w : Wait} (h : s.memWf) : (retryMember s core slot t w).memWf := by
  unfold retryMember
  split
  · exact wakeSlot_form h
  · dsimp only
    exact State.onCore_form (putWait_form h) (fun t1 ht1 => registerTokens_form ht1)

theorem execWaiterTableRetry_form {core slot : Nat} (h : s.memWf) : Formed (execWaiterTableRetry core slot s) := by
  unfold execWaiterTableRetry
  refine takeDue_form h (fun t ht => ?_)
  split
  · exact ht
  · split
    · split
      · exact ht
      · split
        · exact wakeSlot_form (mapStarted_form ht)
        · exact retryMember_form ht
    · split
      · exact ht
      · split
        · exact wakeSlot_form (mapStarted_form ht)
        · exact retryMember_form ht
    · split
      · exact ht
      · split
        · exact wakeSlot_form (mapStarted_form ht)
        · exact retryMember_form ht
    · exact wakeSlot_form ht

theorem execBarrierTimeout_form {core slot : Nat} (h : s.memWf) : Formed (execBarrierTimeout core slot s) := by
  unfold execBarrierTimeout
  refine takeDue_form h (fun t ht => ?_)
  split
  · split
    · split
      · exact wakeSlot_form ht
      · dsimp only
        exact wakeSlot_form (mapStarted_form ht)
    · exact ht
  · exact ht

/-! ### Cells -/

theorem execCelli_form {d a b : BitVec 5} (h : s.memWf) : Formed (execCelli d a b s) := by
  unfold execCelli
  dsimp only
  split
  · exact raise_form h
  · split
    · exact raise_form h
    · refine withRes_form h ?_
      exact fun a1 e => complete_form (State.setX_form ((judgeCell_onlyMessages ..).sameMems.memWf (initCell_form (publish_form (touch_form h)))))

theorem signalFabric_form {d : BitVec 5} {tok : Word} {peer addr : Nat} (h : s.memWf) : Formed (signalFabric d tok peer addr s) := by
  unfold signalFabric
  split
  · exact complete_form (State.postFabric_form h)
  · split
    · exact raise_form (fresh_form h)
    · exact complete_form (State.setX_form (fresh_form h))

theorem signalLocal_form {d : BitVec 5} {tok : Word} {pa amount : Nat} {err : Bool} (h : s.memWf) :
    Formed (signalLocal d tok pa amount err s) := by
  unfold signalLocal
  split
  · split
    · exact raise_form h
    · split
      · exact raise_form h
      · dsimp only
        exact complete_form (State.setX_form (signalCellAt_form h))
  · split
    · dsimp only
      exact complete_form h.update
    · exact raise_form h

theorem execSignal_form {d a b : BitVec 5} {e : BitVec 1} {sc : BitVec 3} (h : s.memWf) : Formed (execSignal d a b e sc s) := by
  unfold execSignal
  refine whenOk_form h ?_
  dsimp only
  split
  · exact raise_form h
  · split
    · exact raise_form h
    · split
      · exact releaseAt_form h (fun t ht => signalFabric_form ht)
      · refine withRes_form h (fun a1 e1 => ?_)
        refine releaseAt_form h (fun t ht => ?_)
        split
        · refine signalLocal_form ?_
          refine stampHome_form ?_
          refine markUsed_form ?_
          split
          · exact podSignal_form ht
          · exact ht
        · exact signalFabric_form (markUsed_form ht)

theorem execCread_form {d a b : BitVec 5} (h : s.memWf) : Formed (execCread d a b s) := by
  unfold execCread
  dsimp only
  split
  · exact raise_form h
  · split
    · split
      · exact raise_form (fresh_form h)
      · exact complete_form (State.setX_form (fresh_form h))
    · exact withRes_form h (fun a1 e => withRes_form h (fun a2 e1 => complete_form (State.setX_form (touch_form h))))

theorem execRvinit_form {d a b : BitVec 5} (h : s.memWf) : Formed (execRvinit d a b s) := by
  unfold execRvinit
  dsimp only
  split
  · exact raise_form h
  · split
    · exact raise_form h
    · refine withRes_form h (fun a1 e => ?_)
      refine complete_form ?_
      refine State.setX_form ?_
      refine State.memWf.update ?_
      refine homeWrite_form ?_
      split
      · exact (failRendezvous_onlyMessages ..).sameMems.memWf (publish_form (touch_form h))
      · exact publish_form (touch_form h)

theorem arriveAt_form {pa : Nat} {par : Bool} {t : State} (h : s.memWf) (e : arriveAt s pa par = some t) : t.memWf := by
  unfold arriveAt at e
  dsimp only at e
  split at e
  · cases e
  · split at e
    · cases e
      exact (judgeRendezvous_onlyMessages ..).sameMems.memWf (homeWrite_form h)
    · cases e
      exact homeWrite_form h

theorem execRvarr_form {d a b : BitVec 5} (h : s.memWf) : Formed (execRvarr d a b s) := by
  unfold execRvarr
  dsimp only
  split
  · exact raise_form h
  · split
    · exact raise_form h
    · refine withRes_form h (fun a1 e => ?_)
      split
      · exact raise_form h
      · split
        · exact raise_form h
        · split
          · split
            · exact waitHere_form h
            · exact complete_form (State.setX_form (State.memWf.update (startTransfer_form (State.memWf.update (publish_form (touch_form h))))))
          · split
            · exact raise_form (State.memWf.update (publish_form (touch_form h)))
            · exact complete_form (State.setX_form (arriveAt_form (State.memWf.update (publish_form (touch_form h))) ‹_›))

theorem execRvfree_form {d a : BitVec 5} (h : s.memWf) : Formed (execRvfree d a s) := by
  unfold execRvfree
  dsimp only
  split
  · exact raise_form h
  · refine withRes_form h (fun a1 e => ?_)
    split
    · exact raise_form h
    · split
      · exact raise_form h
      · refine complete_form ?_
        exact State.setX_form (State.memWf.update ((failRendezvous_onlyMessages ..).sameMems.memWf (publish_form (touch_form h))))

theorem failArrival_form {tok : Word} {err : BitVec 24} (h : s.memWf) : (failArrival s tok err).memWf :=
  (wakeWaiters_onlyMessages ..).sameMems.memWf h.update

theorem discardArrival_form {t : Transfer} {code sub : Nat} {va tok : Word} {err : BitVec 24} (h : s.memWf) :
    (discardArrival s t code sub va tok err).memWf :=
  failArrival_form (logRecord_form h)

theorem engineArrival_form {t : Transfer} {pa : Nat} {va : Word} {par : Bool} {gen : BitVec 16} {tok : Word} (h : s.memWf) :
    (engineArrival s t pa va par gen tok).memWf := by
  unfold engineArrival
  split
  · exact discardArrival_form h
  · split
    · exact failArrival_form (report_form h)
    · split
      · exact arriveAt_form h ‹_›
      · exact discardArrival_form h

theorem runArrival_form {ch : Fin 4} {t : Transfer} {va : Word} {par : Bool} {gen : BitVec 16} {tok : Word} (h : s.memWf) :
    (runArrival s ch t va par gen tok).memWf := by
  unfold runArrival
  dsimp only
  split
  · exact finishTransfer_form (engineArrival_form (markUsed_form h))
  · exact finishTransfer_form (failArrival_form (report_form h))
  · split
    · exact parkTransfer_form h (finishTransfer_form (failArrival_form (report_form h)))
    · exact finishTransfer_form (failArrival_form (report_form h))

theorem execDeferredArrival_form {core ch id : Nat} (h : s.memWf) : Formed (execDeferredArrival core ch id s) := by
  unfold execDeferredArrival
  refine takeDue_form h (fun t ht => ?_)
  refine State.onCore_form ht (fun t1 ht1 => ?_)
  split
  · split
    · exact ht1
    · split
      · split
        · exact ht1
        · exact runArrival_form ht1
      · exact ht1
  · exact ht1

theorem arriveLine_form {key : Nat × Nat} {par : Bool} {n : Nat} (h : s.memWf) : (arriveLine s key par n).memWf :=
  releaseIfComplete_form (setLine_form h)

theorem barrierArrive_form (h : s.memWf) : (barrierArrive s).2.memWf := State.memWf.update (foldl_form (fun _ _ ht => arriveLine_form ht) h)

theorem execBarw_form {d : BitVec 5} (h : s.memWf) : Formed (execBarw d s) := by
  unfold execBarw
  dsimp only
  split
  · split
    · split
      · exact raise_form h.update
      · exact waitHere_form h
    · split
      · split
        · split
          · exact raise_form (State.memWf.update (renewBarrier_form h))
          · exact waitHere_form (renewBarrier_form h)
        · split
          · exact raise_form h.update
          · exact waitHere_form h
      · split
        · exact raise_form h.update
        · exact waitHere_form h
  · refine complete_form ?_
    refine State.setX_form ?_
    refine barrierArrive_form ?_
    refine publish_form ?_
    split
    · exact h
    · split
      · split
        · exact renewBarrier_form h
        · exact h
      · exact h

theorem execWireBarrierRelease_form {line : Nat} (h : s.memWf) : Formed (execWireBarrierRelease line s) := by
  unfold execWireBarrierRelease
  refine takeEvent_form h (fun t ht => ?_)
  dsimp only
  split
  · exact (wakeBarriers_onlyMessages ..).sameMems.memWf (setLine_form ht)
  · exact ht

theorem execPostedSignalRefused_form {core : Nat} {token epc : BitVec 64} {serial tid : Nat} (h : s.memWf) :
    Formed (execPostedSignalRefused core token epc serial tid s) := by
  unfold execPostedSignalRefused
  refine takeEvent_form h (fun t ht => ?_)
  dsimp only
  split
  · exact ht
  · exact report_form (setCore_form ht)

/-! ### Task Control -/

theorem answerCore_form {core : Nat} {v : Word} (h : s.memWf) : (answerCore s core v).memWf := by
  unfold answerCore
  dsimp only
  split
  · exact setCore_form h
  · exact h

theorem execSluiceReply_form {core seq err : Nat} (h : s.memWf) : Formed (execSluiceReply core seq err s) := by
  unfold execSluiceReply
  split
  · exact formed_next h
  · exact takeMail_form h (fun t ht => signalReply_form ht)

theorem askSluice_form {d : BitVec 5} {e : Nat → Event} (h : s.memWf) : Formed (askSluice d e s) :=
  complete_form (State.setX_form (State.memWf.update (newReply_form h)))

theorem execWqry_form {d a b : BitVec 5} (h : s.memWf) : Formed (execWqry d a b s) := by
  unfold execWqry
  refine outsideService_form h ?_
  split
  · exact raise_form h
  · exact withRes_form h (fun a1 e => withRes_form h (fun a2 e1 => askSluice_form h))

theorem execWqryOpen_form {d a b : BitVec 5} (h : s.memWf) : Formed (execWqryOpen d a b s) := by
  unfold execWqryOpen
  refine outsideService_form h ?_
  split
  · exact raise_form h
  · exact withRes_form h (fun a1 e => State.ask_form h (fun x0 t ht => complete_form (State.setX_form ht)))

theorem tendWith_form {word : Nat} (h : s.memWf) : Formed (tendWith word s) := by
  unfold tendWith
  refine whenOk_form h ?_
  split
  · exact waitHere_form h
  · dsimp only
    exact formed_next (State.pick_form (sendEnd_form (removeRunning_form (State.retire_form (publish_form h)))))

theorem yieldWith_form {size word : Nat} (h : s.memWf) : Formed (yieldWith size word s) := by
  unfold yieldWith
  refine whenOk_form h ?_
  split
  · exact waitHere_form h
  · dsimp only
    exact formed_next (suspendAndPick_form (State.retire_form (State.advance_form h)))

theorem failJoin_form {j : GangJoin} (h : s.memWf) : (failJoin s j).memWf := signalReply_form (mapStarted_form h)

theorem dropJoins_form {core serial tid : Nat} (h : s.memWf) : (dropJoins s core serial tid).memWf := setCore_form h

theorem cancelWait_form {s0 : State} {core slot : Nat} (h : s0.memWf) : (cancelWait s0 core slot).memWf := by
  unfold cancelWait
  extract_lets s s1 _ _ __src
  have hs : s.memWf := by
    dsimp only [s]
    split
    · split
      · exact State.onCore_form h (fun t ht => countStall_form ht)
      · exact h
    · exact h
  have hs1 : s1.memWf := endWait_form hs
  have h__src : __src.memWf := setCore_form hs1
  exact h__src.update

theorem cancelTaskWait_form {core serial tid : Nat} (h : s.memWf) : (cancelTaskWait s core serial tid).memWf := by
  unfold cancelTaskWait
  split
  · exact cancelWait_form h
  · exact h

theorem cancelTaskAwait_form {core serial tid : Nat} (h : s.memWf) : (cancelTaskAwait s core serial tid).memWf := by
  unfold cancelTaskAwait
  split
  · split
    · exact cancelWait_form h
    · exact cancelWait_form h
    · exact cancelWait_form h
    · exact h
  · exact h

theorem makeFollower_form {serial shape leader leaderTid : Nat} {pc : Word} {stream : List GangStep} {m : Nat × GangJoin} (h : s.memWf) :
    (makeFollower serial shape leader leaderTid pc stream s m).memWf :=
  signalReply_form (cancelTaskWait_form (mapStarted_form h))

theorem formGang_form {core serial tid : Nat} (h : s.memWf) : (formGang s core serial tid).memWf := by
  unfold formGang
  split
  · exact h
  · split
    · dsimp only
      split
      · exact h
      · refine foldl_form (fun t a ht => State.onCore_form ht (fun t1 ht1 => pickIfIdle_form ht1)) ?_
        refine dropJoins_form ?_
        refine foldl_form (fun t a ht => failJoin_form ht) ?_
        exact foldl_form (fun t a ht => makeFollower_form ht) (signalReply_form (cancelTaskAwait_form (mapStarted_form h)))
    · exact h

theorem gangRefused_form {d : BitVec 5} (h : s.memWf) : Formed (gangRefused d s) :=
  complete_form (signalReply_form (State.setX_form (newReply_form h)))

theorem gangStart_form {d : BitVec 5} {shape dx dy leaderTid : Nat} (h : s.memWf) : Formed (gangStart d shape dx dy leaderTid s) := by
  unfold gangStart
  extract_lets _ _ q s1 _ s2 s3
  have hq : q.2.memWf := newReply_form h
  have hs1 : s1.memWf := State.setX_form hq
  have hs2 : s2.memWf := hs1.update
  have hs3 : s3.memWf := State.retire_form (State.advance_form hs2)
  split
  · exact formed_next (formGang_form hs3.update)
  · exact formed_next hs3.update

theorem execGang_form {d a b : BitVec 5} (h : s.memWf) : Formed (execGang d a b s) := by
  unfold execGang
  dsimp only
  refine whenOk_form h ?_
  split
  · exact raise_form h
  · split
    · split
      · exact gangRefused_form h
      · exact gangStart_form h
    · exact gangRefused_form h

theorem followPast_form {m : Nat × Nat} (h : s.memWf) : (followPast s m).memWf := by
  unfold followPast
  split
  · exact h
  · exact State.onCore_form h (fun t ht => count_form (State.retire_form (State.advance_form ht)))

theorem execUngang_form (h : s.memWf) : Formed (execUngang s) := by
  unfold execUngang
  refine outsideService_form h ?_
  split
  · split
    · exact complete_form (disband_form (foldl_form (fun t a ht => followPast_form ht) h))
    · exact waitHere_form h
  · exact complete_form h

theorem execGangJoin_form {core member seq serial leaderTid index : Nat} (h : s.memWf) :
    Formed (execGangJoin core member seq serial leaderTid index s) := by
  unfold execGangJoin
  refine takeEvent_form h (fun t ht => ?_)
  split
  · exact ht
  · dsimp only
    split
    · split
      · exact failJoin_form ht
      · exact formGang_form (setCore_form ht)
    · split
      · exact failJoin_form ht
      · exact formGang_form (setCore_form ht)

theorem failFormation_form {core : Nat} {l : Nat × Nat × Nat × Word} (h : s.memWf) : (failFormation s core l).memWf :=
  dropJoins_form (foldl_form (fun _ _ ht => failJoin_form ht) (failJoin_form h))

theorem failOrphans_form {core : Nat} (h : s.memWf) : (failOrphans s core).memWf :=
  foldl_form (fun _ _ ht => failJoin_form ht) (setCore_form h)

theorem execGangFormationTimeout_form {core : Nat} (h : s.memWf) : Formed (execGangFormationTimeout core s) :=
  takeDue_form h (fun _ ht => failOrphans_form (foldl_form (fun _ _ ht1 => failFormation_form ht1) ht))

theorem acceptRoutine_form {core : Nat} {r : Routine} (h : s.memWf) : (acceptRoutine s core r).memWf := setCore_form h

theorem execDelegation_form {core issuer seq part : Nat} {priv : Bool} {block : List (BitVec 64)} (h : s.memWf) :
    Formed (execDelegation core issuer seq part priv block s) := by
  unfold execDelegation
  refine takeDue_form h (fun t ht => ?_)
  split
  · exact ht.update
  · exact acceptRoutine_form ht

theorem execActiveMessage_form {core issuer part : Nat} {priv : Bool} {block : List (BitVec 64)} (h : s.memWf) :
    Formed (execActiveMessage core issuer part priv block s) := by
  unfold execActiveMessage
  refine takeDue_form h (fun t ht => ?_)
  split
  · exact report_form ht
  · exact acceptRoutine_form ht

theorem execDelegationReply_form {core seq err : Nat} (h : s.memWf) : Formed (execDelegationReply core seq err s) :=
  takeMail_form h (fun _ ht => signalReply_form ht)

theorem execServiceRoutineTimeout_form {core : Nat} (h : s.memWf) : Formed (execServiceRoutineTimeout core s) :=
  takeDue_form h (fun _ ht => State.onCore_form ht (fun _ ht1 => failRoutine_form ht1))

end Sys2Proof.Machine
end


section
/-! SUPPORT. Canonical form: what Sluice, the placement of tasks, containment, the host and invalidations leave. -/

namespace Sys2Proof.Machine

variable {s : State}

/-! ### Sluice -/

theorem sluiceRecord_form {l : Launch} {code sub : Nat} {addr : Word} {lid : Nat} (h : s.memWf) :
    (sluiceRecord s l code sub addr lid).memWf :=
  report_form h

theorem signalDone_form {l : Launch} {err : Bool} (h : s.memWf) : (signalDone s l err).memWf := by
  unfold signalDone
  split
  · exact h
  · split
    · exact sluiceRecord_form h
    · exact signalCellAt_form ((acceptAll_keeps ..).form (touch_form h))

theorem rejectRecord_form {l : Launch} {e : Exc} (h : s.memWf) : (rejectRecord s l e).memWf := by
  unfold rejectRecord
  dsimp only
  split
  · exact sluiceRecord_form h
  · split
    · exact sluiceRecord_form h
    · exact signalCellAt_form (sluiceRecord_form h)

theorem takeRecord_form {part : Nat} {words : Vector Word 16} {va : Word} {supervised : Bool} (h : s.memWf) :
    (takeRecord s part words va supervised).memWf := by
  unfold takeRecord
  dsimp only
  split
  · exact rejectRecord_form h
  · exact State.memWf.update (fresh_form h)

theorem reportQueues_form {part : Nat} {a : List Nat} (h : s.memWf) : (reportQueues s part a).memWf := by
  fun_induction reportQueues s part a
  case case1 => exact h
  case case2 => exact h
  case case3 ih1 => exact ih1 h
  case case4 ih1 => exact ih1 ((reportCorrupt_keeps ..).form h)
  case case5 ih1 => exact ih1 h
  case case6 ih1 => exact ih1 h

theorem dequeueLaunch_form {part : Nat} (h : s.memWf) : (dequeueLaunch s part).memWf := by
  unfold dequeueLaunch
  split
  · exact h
  · dsimp only
    split
    · exact reportQueues_form h
    · split
      · refine State.memWf.update ?_
        refine takeRecord_form ?_
        exact State.memWf.update (touchSlot_form (dequeueAt_form (foldl_form (fun t a ht => (recall_onlyMessages ..).sameMems.memWf ht)
            (reportQueues_form h))))
      · refine takeRecord_form ?_
        exact State.memWf.update (touchSlot_form (dequeueAt_form (foldl_form (fun t a ht => (recall_onlyMessages ..).sameMems.memWf ht)
            (reportQueues_form h))))

theorem execLaunchDequeue_form {part : Nat} (h : s.memWf) : Formed (execLaunchDequeue part s) := by
  unfold execLaunchDequeue
  refine formed_next ?_
  refine dequeueLaunch_form ?_
  dsimp only
  exact State.memWf.update (fresh_form h)

theorem execLaunchCancel_form {order : Nat} (h : s.memWf) : Formed (execLaunchCancel order s) := by
  unfold execLaunchCancel
  dsimp only
  split
  · exact formed_next (State.memWf.update (fresh_form h))
  · split
    · exact formed_next (State.memWf.update (fresh_form h))
    · exact formed_next (signalDone_form (sluiceRecord_form (State.memWf.update (fresh_form h))))

theorem mapLaunch_form {serial : Nat} {f : Launch → Launch} (h : s.memWf) : (mapLaunch s serial f).memWf := h.update

theorem enterCreated_form {core : Nat} {c : Created} (h : s.memWf) : (enterCreated s core c).memWf :=
  State.onCore_form (setCore_form h) (fun _ ht => pickIfIdle_form ht)

theorem setView_form {core n : Nat} (h : s.memWf) : (setView s core n).memWf := h.update

theorem sendCreation_form {core serial tid : Nat} {restart : Bool} (h : s.memWf) : (sendCreation s core serial tid restart).memWf := by
  unfold sendCreation
  dsimp only
  split
  · exact h.update
  · exact State.memWf.update (setView_form h)

theorem execCreationMessage_form {core serial tid : Nat} {restart : Bool} (h : s.memWf) :
    Formed (execCreationMessage core serial tid restart s) := by
  unfold execCreationMessage
  refine takeDue_form h (fun t ht => ?_)
  dsimp only
  split
  · exact ht
  · split
    · exact ht.update
    · split
      · exact setCore_form ht
      · exact enterCreated_form ht

theorem endLaunch_form {s0 : State} {l : Launch} (h : s0.memWf) : (endLaunch s0 l).memWf := by
  unfold endLaunch
  extract_lets s s1 s2
  have hs : s.memWf := foldl_form (fun t a ht => landFlight_form ht) h
  have hs1 : s1.memWf := foldl_form (fun t a ht => setCore_form ht) hs
  have hs2 : s2.memWf := hs1.update
  exact signalDone_form hs2

theorem answerJoins_form {serial : Nat} (h : s.memWf) : (answerJoins s serial).memWf := by
  unfold answerJoins
  split
  · exact h
  · dsimp only
    exact State.memWf.update (mapLaunch_form h)

theorem takeQuery_form {e : Event} {f : State → State} (h : s.memWf) (hf : ∀ t, t.memWf → (f t).memWf) : Formed (takeQuery e s f) :=
  takeDue_form h (fun _ ht => hf _ ht)

theorem execEndMessage_form {core serial tid : Nat} (h : s.memWf) : Formed (execEndMessage core serial tid s) := by
  unfold execEndMessage
  refine takeQuery_form h (fun t ht => ?_)
  dsimp only
  split
  · exact answerJoins_form (mapLaunch_form ht)
  · split
    · exact endLaunch_form (answerJoins_form (mapLaunch_form ht))
    · split
      · exact sendCreation_form (mapLaunch_form (answerJoins_form (mapLaunch_form ht)))
      · exact answerJoins_form (mapLaunch_form ht)

theorem replyTo_form {core seq err : Nat} (h : s.memWf) : (replyTo s core seq err).memWf := h.update

theorem execTspawnRequest_form {core seq serial target : Nat} (h : s.memWf) : Formed (execTspawnRequest core seq serial target s) := by
  unfold execTspawnRequest
  refine takeQuery_form h (fun t ht => ?_)
  split
  · exact replyTo_form ht
  · split
    · exact replyTo_form ht
    · dsimp only
      split
      · exact ht.update
      · exact replyTo_form (enterCreated_form (mapLaunch_form ht))

theorem execGjoinRequest_form {core seq serial count : Nat} (h : s.memWf) : Formed (execGjoinRequest core seq serial count s) := by
  unfold execGjoinRequest
  refine takeQuery_form h (fun t ht => ?_)
  split
  · exact replyTo_form ht
  · split
    · exact replyTo_form ht
    · split
      · exact replyTo_form ht
      · exact mapLaunch_form ht

theorem sendReplyWord_form {l : Launch} {core seq place off : Nat} {word : Word} (h : s.memWf) :
    (sendReplyWord s l core seq place off word).memWf :=
  h.update

theorem execWqryRequest_form {core seq serial list place off : Nat} (h : s.memWf) :
    Formed (execWqryRequest core seq serial list place off s) := by
  unfold execWqryRequest
  refine takeQuery_form h (fun t ht => ?_)
  split
  · exact replyTo_form ht
  · split
    · exact replyTo_form ht
    · dsimp only
      exact sendReplyWord_form (mapLaunch_form ht)

theorem execWqryOpenRequest_form {core serial list : Nat} {extent : BitVec 60} (h : s.memWf) :
    Formed (execWqryOpenRequest core serial list extent s) := by
  unfold execWqryOpenRequest
  refine takeQuery_form h (fun t ht => ?_)
  split
  · exact answerCore_form ht
  · split
    · exact answerCore_form ht
    · exact answerCore_form (mapLaunch_form ht)

theorem execTrestartRequest_form {core target lid tid : Nat} (h : s.memWf) : Formed (execTrestartRequest core target lid tid s) := by
  unfold execTrestartRequest
  refine takeQuery_form h (fun t ht => ?_)
  split
  · exact answerCore_form ht
  · split
    · exact answerCore_form ht
    · split
      · exact answerCore_form ht
      · dsimp only
        exact answerCore_form (sendCreation_form (mapLaunch_form ht))

/-! ### Placement -/

theorem renewView_form (h : s.memWf) : (renewView s).memWf := h.update

theorem countCreations_form {l : List Event} (h : s.memWf) : (countCreations s l).memWf := by
  unfold countCreations
  refine foldl_form (fun t a ht => ?_) h
  split
  · exact setView_form ht
  · exact ht

theorem placeLaunch_form {p : Pending} {rects : List (Nat × Nat × Nat)} (h : s.memWf) : (placeLaunch s p rects).memWf :=
  State.memWf.update (countCreations_form h)

theorem preemptFor_form {p : Pending} (h : s.memWf) : (preemptFor s p).memWf := by
  unfold preemptFor
  dsimp only
  split
  · exact h
  · exact h.update

theorem tryPlace_form {p : Pending} (h : s.memWf) : (tryPlace s p).memWf := by
  unfold tryPlace
  split
  · exact h
  · split
    · exact placeLaunch_form h
    · split
      · exact h.update
      · split
        · exact h
        · split
          · exact placeLaunch_form h
          · dsimp only
            split
            · exact preemptFor_form h.update
            · exact h.update

theorem tryResume_form {l : Launch} (h : s.memWf) : (tryResume s l).memWf := by
  unfold tryResume
  split
  · dsimp only
    exact State.memWf.update (mapLaunch_form h)
  · exact h

theorem attempt_form {a : Attempt} (h : s.memWf) : (attempt s a).memWf := by
  unfold attempt
  split
  · split
    · exact tryPlace_form h
    · exact h
  · split
    · exact tryResume_form h
    · exact h

theorem sendReturned_form (h : s.memWf) : (sendReturned s).memWf := by
  unfold sendReturned
  refine foldl_form (fun t a ht => ?_) h.update
  split
  · exact sendCreation_form ht
  · split <;> exact ht.update
  · exact ht.update

theorem reportRound_form (h : s.memWf) : (reportRound s).memWf :=
  foldl_form (fun _ _ ht => attempt_form ht) (sendReturned_form (renewView_form h.update))

theorem execReportRound_form (h : s.memWf) : Formed (execReportRound s) := by
  unfold execReportRound
  split
  · exact formed_next (reportRound_form h)
  · exact formed_next h

theorem execPanClaim_form {core serial : Nat} (h : s.memWf) : Formed (execPanClaim core serial s) := by
  unfold execPanClaim
  refine takeMail_form h (fun t ht => ?_)
  split
  · exact ht
  · dsimp only
    exact State.memWf.update (setCore_form ht)

theorem clearPan_form {core pan : Nat} (h : s.memWf) : (clearPan s core pan).memWf :=
  setCore_form (State.memWf.update (h.setPad (memFilter_wf _ h.2.2.1)))

theorem clearPans_form {core mask : Nat} (h : s.memWf) : (clearPans s core mask).memWf := foldl_form (fun _ _ ht => clearPan_form ht) h

theorem execPanPreparationDone_form {core serial : Nat} (h : s.memWf) : Formed (execPanPreparationDone core serial s) := by
  unfold execPanPreparationDone
  refine takeEvent_form h (fun t ht => ?_)
  split
  · exact ht
  · extract_lets s1 _ _ s2
    have hs1 : s1.memWf := clearPans_form ht
    have hs2 : s2.memWf := setCore_form hs1
    exact hs2.update

theorem dropQueueWaiters_form {core slot : Nat} (h : s.memWf) : (dropQueueWaiters s core slot).memWf := by
  unfold dropQueueWaiters
  dsimp only
  refine foldl_form (fun t a ht => ?_) h.update
  split
  · exact writeQcb_form ht
  · exact writeQcb_form ht
  · exact ht

theorem suspendVictim_form {serial : Nat} (h : s.memWf) : (suspendVictim s serial).memWf := by
  unfold suspendVictim
  split
  · split
    · exact leave_form h
    · exact h
  · split
    · refine leave_form ?_
      dsimp only
      exact State.memWf.update (countStall_form h)
    · exact h
  · exact h

theorem setQueueStop_form {l : Launch} {on : Bool} (h : s.memWf) : (setQueueStop s l on).memWf := by
  unfold setQueueStop
  refine foldl_form (fun t a ht => ?_) h
  dsimp only
  split
  · exact writeQcb_form ht
  · exact ht

theorem quiesceHere_form {l : Launch} (h : s.memWf) : (quiesceHere s l).memWf := by
  unfold quiesceHere
  extract_lets _ s1 _ s2 _ s3 s4
  have hs1 : s1.memWf := suspendVictim_form h
  have hs2 : s2.memWf := foldl_form (fun t a ht => dropQueueWaiters_form ht) hs1
  have hs3 : s3.memWf := hs2.update
  have hs4 : s4.memWf := setQueueStop_form hs3
  split
  · exact State.pick_form hs4
  · exact pickIfIdle_form hs4

theorem execPreemptionMessage_form {core serial : Nat} (h : s.memWf) : Formed (execPreemptionMessage core serial s) := by
  unfold execPreemptionMessage
  refine takeDue_form h (fun t ht => ?_)
  dsimp only
  refine State.memWf.update ?_
  split
  · exact State.onCore_form ht (fun t1 ht1 => quiesceHere_form ht1)
  · exact ht

theorem writeArea_form {a : List (Nat × Nat)} {a1 : List Byte} (h : s.memWf) : (writeArea s a a1).memWf := by
  fun_induction writeArea s a a1
  case case1 => exact h
  case case2 ih1 => exact ih1 (homeWrite_form h)

theorem foldl_ok_form {α : Type} {f : Res State → α → Res State} (hf : ∀ r a t, (∀ s, r = .ok s → s.memWf) → f r a = .ok t → t.memWf)
    {r : Res State} {l : List α} {t : State} (h : ∀ s, r = .ok s → s.memWf) (e : l.foldl f r = .ok t) : t.memWf :=
  List.foldlRecOn (motive := fun r => ∀ s, r = .ok s → s.memWf) l f h (fun r hr a _ t e => hf r a t hr e) t e

theorem savePan_form {l : Launch} {core : Nat} {r : Res State} {pan : Nat} {t : State} (h : ∀ s, r = .ok s → s.memWf)
    (e : savePan l core r pan = .ok t) : t.memWf := by
  unfold savePan at e
  split at e
  · cases e
  · refine foldl_ok_form (fun r a t hr e => ?_) (fun s e => ?_) e
    · split at e
      · cases e
      · split at e
        · cases e
        · cases e
          exact writeArea_form (hr _ rfl)
    · cases e
      exact wakePan_form (h _ rfl)

theorem poisonSaved_form {l : Launch} {core pan : Nat} (h : s.memWf) : (poisonSaved l core s pan).memWf := by
  unfold poisonSaved
  dsimp only
  refine foldl_form (fun t a ht => ?_) h
  split
  · exact setPoison_form ht
  · exact ht

theorem endCreated_form {e : Exc} {c : Created} (h : s.memWf) : (endCreated e s c).memWf := by
  unfold endCreated
  split
  · exact h
  · dsimp only
    split
    · exact State.memWf.update (report_form h)
    · exact sendEnd_form (markDamaged_form (report_form h))

theorem endAllOf_form {serial : Nat} {e : Exc} (h : s.memWf) : (endAllOf s serial e).memWf := by
  unfold endAllOf
  extract_lets _ s1 _ _ s2
  have hs1 : s1.memWf := foldl_form (fun t a ht => endSuspended_form ht) h
  have hs2 : s2.memWf := hs1.update
  exact foldl_form (fun t a ht => endCreated_form ht) hs2

theorem saveFailed_form {l : Launch} {e : Exc} (h : s.memWf) : (saveFailed s l e).memWf := endAllOf_form (report_form h)

theorem saveHere_form {l : Launch} (h : s.memWf) : (saveHere s l).memWf := by
  unfold saveHere
  extract_lets mine s1 saved
  have h1 : s1.memWf := foldl_form (fun _ _ ht => toBacking_form ht) h
  have hsaved : saved.memWf := by
    dsimp only [saved]
    split
    · exact saveFailed_form h
    · split
      · exact saveFailed_form h1
      · rename_i eq
        refine foldl_form (fun _ _ ht => poisonSaved_form ht) (foldl_ok_form (fun _ _ _ => savePan_form) (fun s e => ?_) eq)
        cases e
        exact h1
  exact hsaved.update

theorem acknowledge_form {core serial : Nat} (h : s.memWf) : (acknowledge s core serial).memWf := by
  unfold acknowledge
  split
  · exact h
  · split
    · dsimp only
      split
      · exact State.memWf.update (mapLaunch_form h)
      · exact mapLaunch_form h
    · exact h

theorem execPreemptionAcknowledgement_form {core serial : Nat} (h : s.memWf) : Formed (execPreemptionAcknowledgement core serial s) := by
  unfold execPreemptionAcknowledgement
  refine takeWhenAwake_form h (fun t ht => ?_)
  split
  · exact ht
  · exact acknowledge_form (State.onCore_form ht (fun t1 ht1 => saveHere_form ht1))

theorem restorePan_form {l : Launch} {core : Nat} {r : Res State} {pan : Nat} {t : State} (h : ∀ s, r = .ok s → s.memWf)
    (e : restorePan l core r pan = .ok t) : t.memWf := by
  unfold restorePan at e
  split at e
  · cases e
  · dsimp only at e
    split at e
    · have hc := clearPan_form (core := core) (pan := pan) (h _ rfl)
      cases e
      refine (armRetention_keeps ..).form (setCore_form (foldl_form (fun _ _ ht => setPadPoison_form ht) ?_))
      exact State.memWf.update (hc.setPad (memWriteBytes_wf _ _ hc.2.2.1))
    · cases e
    · cases e
    · cases e
    · cases e
      exact h _ rfl

theorem resumeHere_form {l : Launch} (h : s.memWf) : (resumeHere s l).memWf := by
  unfold resumeHere
  extract_lets s0 restored s2
  have h0 : s0.memWf := h.update
  have hr : restored.memWf := by
    dsimp only [restored]
    split
    next eq =>
      refine foldl_ok_form (fun _ _ _ => restorePan_form) (fun s e => ?_) eq
      cases e
      exact h0
    next => exact endAllOf_form (clearPans_form h0)
  exact pickIfIdle_form (setQueueStop_form hr.update)

theorem execResumptionMessage_form {core serial : Nat} (h : s.memWf) : Formed (execResumptionMessage core serial s) := by
  unfold execResumptionMessage
  refine takeMail_form h (fun t ht => ?_)
  split
  · exact ht
  · dsimp only
    exact mapLaunch_form (State.onCore_form ht (fun t1 ht1 => resumeHere_form ht1))

/-! ### Containment -/

theorem restartRecord_form {core : Nat} {c : Containment} {key : Nat × Nat} {restarted mapped : Bool} (h : s.memWf) :
    (restartRecord s core c key restarted mapped).memWf :=
  report_form h

theorem restartTask_form {core : Nat} {c : Containment} {usable mapped : Bool} {t : Nat × Nat × Bool} (h : s.memWf) :
    (restartTask core c usable mapped s t).memWf := by
  unfold restartTask
  dsimp only
  split
  · exact sendCreation_form (restartRecord_form h)
  · exact State.memWf.update (markDamaged_form (restartRecord_form h))

theorem endContainment_form {core : Nat} {c : Containment} {usable mapped : Bool} (h : s.memWf) :
    (endContainment s core c usable mapped).memWf :=
  foldl_form (fun _ _ ht => restartTask_form ht) (setCore_form h)

theorem scrubCore_form {core : Nat} {pass : Bool} (h : s.memWf) : (scrubCore core pass s).memWf := by
  unfold scrubCore
  split
  · exact h
  · dsimp only
    split
    · exact endContainment_form (clearPans_form h)
    · split
      · exact State.memWf.update (setCore_form (clearPans_form h))
      · exact endContainment_form (clearPans_form h)

theorem execContainmentScrub_form {core : Nat} {pass : Bool} (h : s.memWf) : Formed (execContainmentScrub core pass s) := by
  unfold execContainmentScrub
  dsimp only
  split
  · exact formed_next (scrubCore_form (State.memWf.update (fresh_form h)))
  · exact formed_next h

theorem setOutside_form {die row out : Nat} (h : s.memWf) : (setOutside s die row out).memWf := h.setCtl (memWrite_wf _ _ h.2.1)

theorem execMapOutDone_form {core : Nat} (h : s.memWf) : Formed (execMapOutDone core s) := by
  unfold execMapOutDone
  refine takeDue_form h (fun t ht => ?_)
  split
  · split
    · exact endContainment_form (setOutside_form ht)
    · exact ht
  · exact ht

theorem execCoreCheckFailure_form {core : Nat} (h : s.memWf) : Formed (execCoreCheckFailure core s) := by
  unfold execCoreCheckFailure
  dsimp only
  split
  · exact formed_next h
  · exact formed_next (State.onCore_form (fresh_form h) (fun t ht => contain_form ht))

/-! ### Grants -/

theorem execGissue_form {d a b : BitVec 5} (h : s.memWf) : Formed (execGissue d a b s) := by
  unfold execGissue
  refine whenPrivileged_form h ?_
  refine withRes_form h (fun a1 e => ?_)
  split
  · exact complete_form (State.setX_form h)
  · exact raise_form h

theorem execGrevoke_form {d a : BitVec 5} (h : s.memWf) : Formed (execGrevoke d a s) := by
  unfold execGrevoke
  refine whenPrivileged_form h ?_
  split
  · exact raise_form h
  · exact complete_form (State.setX_form (rotateSlot_form h))

theorem execGrantKeyRotation_form {part slot : Nat} (h : s.memWf) : Formed (execGrantKeyRotation part slot s) := by
  unfold execGrantKeyRotation
  refine formed_next ?_
  split
  · exact rotateSlot_form (fresh_form h)
  · exact fresh_form h

theorem execPartitionLiveWrite_form {part : Nat} (h : s.memWf) : Formed (execPartitionLiveWrite part s) := by
  unfold execPartitionLiveWrite
  refine formed_next ?_
  split
  · dsimp only
    exact (physWrite_keeps ..).form (fresh_form h)
  · exact fresh_form h

theorem logIngress_form {code sub peer tpart off : Nat} (h : s.memWf) : (logIngress s code sub peer tpart off).memWf := logRecord_form h

theorem leaseLine_form {pa : Nat} (h : s.memWf) : (leaseLine s pa).memWf := by
  unfold leaseLine
  split
  · dsimp only
    exact h.update
  · exact h

theorem ingressWrite_form {pa : Nat} {bytes : List Byte} (h : s.memWf) : (ingressWrite s pa bytes).memWf :=
  homeWrite_form (State.dropOwnResv_form h)

theorem ingressEffect_form {r : Ingress} {pa peer tpart off : Nat} {data : List Byte} (h : s.memWf) :
    (ingressEffect s r pa peer tpart off data).memWf := by
  unfold ingressEffect
  dsimp only
  split
  · exact h
  · exact h
  · split
    · exact logIngress_form h
    · exact ingressWrite_form h
  · split
    · exact logIngress_form h
    · exact leaseLine_form (signalCellAt_form (podSignal_form h))
  · split
    · exact logIngress_form h
    · split
      · exact leaseLine_form (ingressWrite_form h)
      · exact ingressWrite_form h

theorem ingressFault_form {tpart off : Nat} {f : WalkFail} (h : s.memWf) : (ingressFault s tpart off f).memWf := by
  unfold ingressFault
  dsimp only
  exact produceRecord_form h

theorem execIngressRequest_form {kind peer part tpart off : Nat} {token : BitVec 64} {data : List (BitVec 8)} (h : s.memWf) :
    Formed (execIngressRequest kind peer part tpart off token data s) := by
  have h0 := fresh_form h
  unfold execIngressRequest
  dsimp only
  split
  · exact formed_next h0
  · split
    · exact formed_next (logIngress_form h0)
    · split
      · exact formed_next (logIngress_form h0)
      · split
        · exact formed_next (logIngress_form h0)
        · split
          · refine formed_next ?_
            split
            · exact ingressFault_form (logIngress_form h0)
            · exact logIngress_form h0
          · exact formed_next (ingressEffect_form (markUsed_form h0))

theorem execLeaseExpiry_form {line : Nat} (h : s.memWf) : Formed (execLeaseExpiry line s) := takeDue_form h (fun _ ht => ht.update)

theorem loseStore_form {f : FabricStore} (h : s.memWf) : (loseStore s f).memWf := by
  unfold loseStore
  dsimp only
  split
  · exact mapStarted_form (logRecord_form h)
  · exact logRecord_form h

theorem refuseFabric_form {f : FabricStore} (h : s.memWf) : (refuseFabric s f).memWf := loseStore_form h.update

theorem execFabricErrorResponse_form {num : Nat} (h : s.memWf) : Formed (execFabricErrorResponse num s) := by
  unfold execFabricErrorResponse
  split
  · exact formed_next (refuseFabric_form (fresh_form h))
  · exact formed_next h

theorem execFabricStoreAcknowledgement_form {num : Nat} (h : s.memWf) : Formed (execFabricStoreAcknowledgement num s) :=
  takeEvent_form h (fun _ ht => ht.update)

theorem execStationDown_form {station : Nat} (h : s.memWf) : Formed (execStationDown station s) := by
  unfold execStationDown
  split
  · dsimp only
    exact formed_next (foldl_form (fun t a ht => refuseFabric_form ht) (State.memWf.update (fresh_form h)))
  · exact formed_next (fresh_form h)

theorem execStationUp_form {station : Nat} (h : s.memWf) : Formed (execStationUp station s) := by
  unfold execStationUp
  refine formed_next ?_
  dsimp only
  exact State.memWf.update (fresh_form h)

/-! ### Host Events -/

theorem hostRecord_form {part : Nat} {e : Exc} (h : s.memWf) : (hostRecord s part e).memWf := report_form h

theorem grantHost_form {line : Nat} (h : s.memWf) : (grantHost s line).memWf := by
  unfold grantHost
  split
  · exact h
  · exact h.update

theorem execHostMemRead_form {part off : Nat} {s0 : State} (h : s0.memWf) : Formed (execHostMemRead part off s0) := by
  unfold execHostMemRead
  dsimp only
  split
  · exact formed_next (fresh_form h)
  · split
    · exact formed_next (hostRecord_form (fresh_form h))
    · exact formed_next (grantHost_form (markUsed_form (fresh_form h)))

theorem hostStore_form {pa : Nat} {bytes : List Byte} (h : s.memWf) : (hostStore s pa bytes).memWf :=
  State.memWf.update (homeWrite_form (State.dropOwnResv_form h))

theorem hostWord_form {data : List (Option Byte)} {pa : Nat} {k : Int} (h : s.memWf) : (hostWord data s pa k).memWf := by
  unfold hostWord
  dsimp only
  split
  · exact hostStore_form h
  · refine foldl_form (fun t a ht => ?_) h
    split
    · exact hostStore_form ht
    · exact ht

theorem of_ite_none {α : Type} {c : Prop} [Decidable c] {x : Option α} {y : α} (e : (if c then none else x) = some y) : x = some y := by
  split at e
  · cases e
  · exact e

theorem tailStore_form {part qpa tail : Nat} {t : State} (h : s.memWf) (e : tailStore s part qpa tail = some t) : t.memWf := by
  have e := of_ite_none e
  split at e
  · cases e
  · extract_lets s1 s2 s3 at e
    have h2 : s2.memWf := foldl_form (fun _ _ ht => touch_form ht.update) (writeQcb_form h)
    have h3 : s3.memWf := foldl_form (fun _ _ ht => (wakeDequeuer_keeps ..).form ht) h2
    clear_value s3
    exact some_form e (ite_form h3 h3.update)

theorem hostWrite_form {part off : Nat} {data : List (Option Byte)} (h : s.memWf) : (hostWrite part off data s).memWf := by
  unfold hostWrite
  split
  · exact h
  · split
    · exact hostRecord_form h
    · rename_i pa u _
      extract_lets half offs s1 isTail tail
      have h1 : s1.memWf := markUsed_form h
      have htail {s2 : State} (e : tail = some s2) : s2.memWf := by
        dsimp only [tail] at e
        split at e
        · split at e
          · exact some_form e ((reportCorrupt_keeps ..).form h)
          · exact tailStore_form h1 e
        · cases e
      clear_value tail
      split
      · exact htail rfl
      · split
        · exact hostRecord_form h
        · exact foldl_form (fun _ _ ht => hostWord_form ht) h1

theorem execHostMemWrite_form {part off : Nat} {data : List (Option (BitVec 8))} (h : s.memWf) :
    Formed (execHostMemWrite part off data s) :=
  formed_next (hostWrite_form (fresh_form h))

theorem execHostTailStore_form {part off : Nat} {tail : BitVec 32} (h : s.memWf) : Formed (execHostTailStore part off tail s) :=
  formed_next (hostWrite_form (fresh_form h))

theorem execAttestationRequest_form {nonce : BitVec 256} (h : s.memWf) : Formed (execAttestationRequest nonce s) := by
  unfold execAttestationRequest
  refine formed_next ?_
  split
  · dsimp only
    exact State.memWf.update (fresh_form h)
  · exact fresh_form h

theorem execAttestationSigned_form (h : s.memWf) : Formed (execAttestationSigned s) := by
  unfold execAttestationSigned
  split
  · exact formed_next h
  · refine formed_next ?_
    dsimp only
    exact State.memWf.update (fresh_form h)

/-! ### Invalidation -/

theorem invalidate_form {f : State → State} (hf : ∀ t, t.memWf → (f t).memWf) (h : s.memWf) : Formed (invalidate f s) := by
  unfold invalidate
  dsimp only
  split
  · exact complete_form (hf _ ((acceptAll_keeps ..).form ((drainEverywhere_keeps ..).form h)))
  · exact waitHere_form ((drainEverywhere_keeps ..).form h)

theorem dropVa_form {part va : Nat} (h : s.memWf) : (dropVa part va s).memWf := h.update

theorem dropPartition_form {part : Nat} (h : s.memWf) : (dropPartition part s).memWf := h.update

end Sys2Proof.Machine
end


section
/-! SUPPORT. Canonical form: what the KV tables, Rake, the scheduler, the management and the events of the package leave. -/

namespace Sys2Proof.Machine

variable {s : State}

/-! ### Kv Gather -/

theorem spanSeen_form {a : Nat} {a1 : List Nat} {a2 : Word} {a3 : Nat} {r : List Byte} {t1 : State} {r2 : List Nat} (h : s.memWf)
    (e : spanSeen a s a1 a2 a3 = .ok (r, t1, r2)) : t1.memWf := by
  fun_induction spanSeen a s a1 a2 a3 generalizing r t1 r2
  case case1 =>
    cases e
    exact h
  case case2 =>
    cases e
    exact h
  case case3 =>
    cases e
  case case4 ih1 =>
    cases e
  case case5 ih1 =>
    cases e
    exact ih1 (readSeen_form h ‹_›) ‹_›

theorem gatherBytes_form {span : Nat} {l : List TokenAt} {seen : List Nat} {acc r : Nat} {t : State} {r2 : List Nat} (h : s.memWf)
    (e : gatherBytes span l s seen acc = .ok (r, t, r2)) : t.memWf := by
  induction l generalizing s seen acc with
  | nil =>
    cases e
    exact h
  | cons x l ih =>
    unfold gatherBytes at e
    split at e
    · cases e
    · exact ih (spanSeen_form h ‹_›) e

theorem parkOnRepair_form {d : Desc} {layer : Nat} (h : s.memWf) : (parkOnRepair s d layer).memWf := by
  unfold parkOnRepair
  dsimp only
  split
  · exact disband_form h.update
  · split
    · exact waitOn_form (disband_form h.update)
    · exact disband_form h.update

theorem gather_form {form : GatherForm} {d : Nat} {g : Gather} {base : Word} {kv ve : Nat} (h : s.memWf) :
    Formed (gather form d g base kv ve s) := by
  unfold gather
  dsimp only
  split
  · exact raise_form (State.memWf.update (State.met_form h))
  · split
    · exact raise_form h.update
    · split
      · exact raise_form h.update
      · split
        · exact raise_form h.update
        · exact formed_next (parkOnRepair_form (reads_form h))
        · split
          · exact raise_form h.update
          · split
            · exact raise_form h.update
            · exact vectorDone_form (gatherBytes_form ((gatherReads_keeps ..).form h) ‹_›)

theorem kvGather_form {form : GatherForm} {d : BitVec 6} {b : BitVec 5} {e : BitVec 6} {m : BitVec 1} {word : Nat} (h : s.memWf) :
    Formed (kvGather form d b e m word s) := by
  unfold kvGather
  dsimp only
  refine whenOk_form h ?_
  split
  · exact raise_form h
  · split
    · exact vectorDone_form h
    · refine wellsReady_form h (fun t ht => ?_)
      split
      · exact raise_form (State.memWf.update (landSources_form ht))
      · exact gather_form (landSources_form ht)

/-! ### Kv Tables -/

theorem execKvallocInit_form {d a b : BitVec 5} {s0 : State} (h : s0.memWf) : Formed (execKvallocInit d a b s0) := by
  unfold execKvallocInit
  dsimp only
  split
  · exact raise_form (publish_form h)
  · split
    · exact raise_form (publish_form h)
    · refine withRes_form (publish_form h) (fun a1 e => ?_)
      refine withRes_form (publish_form h) (fun a2 e1 => ?_)
      split
      · exact complete_form (State.setX_form (reads_form (readVa_form (publish_form h) e1)))
      · split
        · exact complete_form (State.setX_form (reads_form (readVa_form (publish_form h) e1)))
        · split
          · exact raise_form (publish_form h)
          · refine withRes_form (publish_form h) (fun a3 e2 => ?_)
            refine withRes_form (publish_form h) ?_
            exact fun a4 e3 => complete_form (State.setX_form ((buildPool_tends ..).keeps.form (readVa_form (publish_form h) e1)))

theorem execKvalloc_form {d a b : BitVec 5} {s0 : State} (h : s0.memWf) : Formed (execKvalloc d a b s0) := by
  unfold execKvalloc
  dsimp only
  split
  · exact raise_form (publish_form h)
  · split
    · exact raise_form (publish_form h)
    · refine withRes_form (publish_form h) (fun a1 e => ?_)
      split
      · exact complete_form (State.setX_form (reads_form (publish_form h)))
      · exact withRes_form (publish_form h) (fun a2 e1 => complete_form (State.setX_form (allocDesc_form (publish_form h) e1)))

theorem withDesc_form {a b : BitVec 5} {k : State → Pool → Desc → Out} (h : s.memWf) (hk : ∀ t x1 x2, t.memWf → Formed (k t x1 x2)) :
    Formed (withDesc a b s k) := by
  unfold withDesc
  split
  · exact raise_form h
  · exact withRes_form h (fun a1 e => withRes_form h (fun a2 e1 => hk _ _ _ (reads_form (reads_form h))))

theorem execKvref_form {d a b : BitVec 5} {s0 : State} (h : s0.memWf) : Formed (execKvref d a b s0) := by
  unfold execKvref
  dsimp only
  refine withDesc_form (publish_form h) (fun t x1 x2 ht => ?_)
  split
  · exact complete_form (State.setX_form ht)
  · exact complete_form (State.setX_form (putDesc_form ht))

theorem execKvunref_form {d a b : BitVec 5} {s0 : State} (h : s0.memWf) : Formed (execKvunref d a b s0) := by
  unfold execKvunref
  dsimp only
  exact withDesc_form (publish_form h) (fun t x1 x2 ht => complete_form (State.setX_form (releaseDesc_form ht)))

theorem sourceVersion_form {d a b : BitVec 5} {new : Nat → Option Nat} {s0 : State} (h : s0.memWf) :
    Formed (sourceVersion d a b new s0) := by
  unfold sourceVersion
  dsimp only
  split
  · exact raise_form (publish_form h)
  · split
    · exact raise_form (publish_form h)
    · refine withRes_form (publish_form h) (fun a1 e => ?_)
      split
      · exact raise_form (publish_form h)
      · refine withRes_form (publish_form h) (fun a2 e1 => ?_)
        split
        · exact complete_form (State.setX_form (reads_form (reads_form (publish_form h))))
        · refine complete_form ?_
          exact State.setX_form (writeObject_form (reads_form (reads_form (publish_form h))))

theorem withTable_form {a : BitVec 5} {k : State → Table → Pool → Out} (h : s.memWf) (hk : ∀ t x1 x2, t.memWf → Formed (k t x1 x2)) :
    Formed (withTable a s k) :=
  withRes_form h (fun _ _ => withRes_form h (fun _ _ => hk _ _ _ (reads_form (reads_form h))))

theorem openPage_form {d b : BitVec 5} {t : Table} {p : Pool} (h : s.memWf) : Formed (openPage d b t p s) := by
  unfold openPage
  dsimp only
  split
  · exact complete_form (State.setX_form h)
  · split
    · exact raise_form h
    · refine withRes_form h ?_
      exact fun a e => withRes_form h (fun a1 e1 => complete_form (State.setX_form
          ((putCount_tends ..).keeps.form ((putEntries_tends ..).keeps.form (allocDesc_form h e1)))))

theorem execKvapp_form {d a b : BitVec 5} {s0 : State} (h : s0.memWf) : Formed (execKvapp d a b s0) := by
  unfold execKvapp
  dsimp only
  split
  · exact raise_form (publish_form h)
  · refine withTable_form (publish_form h) (fun t x1 x2 ht => ?_)
    split
    · exact openPage_form ht
    · refine withRes_form ht (fun a1 e => ?_)
      refine withRes_form ht (fun a2 e1 => ?_)
      split
      · exact openPage_form (reads_form (reads_form ht))
      · split
        · exact complete_form (State.setX_form (reads_form (reads_form ht)))
        · split
          · exact raise_form (reads_form (reads_form ht))
          · refine withRes_form ?_ ?_
            · exact reads_form (reads_form ht)
            · exact fun a3 e2 => complete_form (State.setX_form (writeObject_form (reads_form (reads_form ht))))

theorem spliceEntries_form {q : Party} {a : List PageWord} {a1 : Pool} {t : State} {r1 : List Entry} (h : s.memWf)
    (e : spliceEntries q a s a1 = .ok (t, r1)) : t.memWf := by
  fun_induction spliceEntries q a s a1 generalizing t r1
  case case1 =>
    cases e
    exact h
  case case2 =>
    cases e
  case case3 ih1 =>
    cases e
  case case4 ih1 =>
    cases e
    exact ih1 (allocDesc_form h ‹_›) ‹_›

theorem addReference_form {q : Party} {p : Pool} {i : Nat} {t : State} (h : s.memWf) (e : addReference s q p i = .ok t) : t.memWf := by
  unfold addReference at e
  split at e
  · cases e
  · cases e
    exact putDesc_form h

theorem splice_form {q : Party} {t : Table} {p : Pool} {es : List Entry} {ws : List PageWord} {j o : Nat} {u : State} (h : s.memWf)
    (e : splice s q t p es ws j o = .ok u) : u.memWf := by
  unfold splice at e
  dsimp only at e
  split at e
  · cases e
  · split at e
    · cases e
    · have h1 := spliceEntries_form h ‹_›
      split at e
      · cases e
      · rename_i eq
        cases e
        refine (putCount_tends ..).keeps.form ((putEntries_tends ..).keeps.form ?_)
        split at eq
        · exact addReference_form h1 eq
        · cases eq
          exact h1

theorem execKvspl_form {d a b : BitVec 5} {s0 : State} (h : s0.memWf) : Formed (execKvspl d a b s0) := by
  unfold execKvspl
  extract_lets s q
  have hs : s.memWf := publish_form h
  split
  · exact raise_form hs
  · split
    · exact raise_form hs
    · refine withTable_form hs fun t _ _ ht => withRes_form ht fun r _ => withRes_form ht fun es _ => withRes_form ht fun _ _ => ?_
      split
      · exact raise_form ht
      · extract_lets s1 place need s2
        have h1 : s1.memWf := descsRead_form (State.readsTable_form (reads_form ht))
        split
        · exact complete_form (State.setX_form h1)
        · refine withRes_form h1 fun stale _ => ?_
          have h2 : s2.memWf := foldl_form (fun _ _ hu => reads_form hu) h1
          split
          · exact complete_form (State.setX_form h2)
          · split
            · exact complete_form (State.setX_form h2)
            · exact withRes_form h2 fun s1 e => complete_form (State.setX_form (splice_form h2 e))

theorem writeSpan_form {n : Nat} {va : Word} {bs : List Byte} {t : State} (h : s.memWf) (e : writeSpan n s va bs = .ok t) : t.memWf := by
  induction n generalizing s va bs with
  | zero =>
    cases e
    exact h
  | succ n ih =>
    unfold writeSpan at e
    split at e
    · cases e
      exact h
    · dsimp only at e
      split at e
      · cases e
      · exact ih (writeVa_form h ‹_›) e

theorem convertPage_form {p : Pool} {f g : Nat} {mode : RMode} {old new n r : Nat} {s t : State} (h : s.memWf)
    (e : convertPage p f g mode old new n r s = .ok t) : t.memWf := by
  induction n generalizing r s with
  | zero =>
    cases e
    exact h
  | succ n ih =>
    unfold convertPage at e
    split at e
    · cases e
    · dsimp only at e
      split at e
      · cases e
      · exact ih (writeSpan_form (readSpan_form h ‹_›) ‹_›) e

theorem swapEntry_form {q : Party} {p : Pool} {at_ : Word} {e : Entry} {page i : Nat} {t : State} {r1 : Nat} (h : s.memWf)
    (eq : swapEntry s q p at_ e page i = .ok (t, r1)) : t.memWf := by
  unfold swapEntry at eq
  split at eq
  · cases eq
  · split at eq
    · cases eq
    · split at eq
      · cases eq
        exact releaseDesc_form (writeObject_form h)
      · cases eq
        exact releaseDesc_form h

theorem requantise_form {q : Party} {p : Pool} {va : Word} {x : Entry} {k : Desc} {page g : Nat} {t : State} (h : s.memWf)
    (e : requantise s q p va x k page g = .ok t) : t.memWf := by
  unfold requantise at e
  split at e
  · cases e
  · split at e
    · cases e
    · dsimp only at e
      split at e
      · cases e
      · cases e
        exact State.memWf.update (publish_form (convertPage_form (allocDesc_form h ‹_›) ‹_›))

theorem finishRequant_form {d a : BitVec 5} {r : Requant} {s0 : State} (h : s0.memWf) : Formed (finishRequant d a r s0) :=
  withRes_form h.update (fun _ _ => withRes_form h.update (fun _ e1 => complete_form (State.setX_form (swapEntry_form h.update e1))))

theorem execKvreq_form {d a b : BitVec 5} {s0 : State} (h : s0.memWf) : Formed (execKvreq d a b s0) := by
  unfold execKvreq
  split
  · exact finishRequant_form h
  · dsimp only
    split
    · exact raise_form (publish_form h)
    · split
      · exact raise_form (publish_form h)
      · refine withRes_form (publish_form h) (fun a1 e => ?_)
        refine withRes_form (publish_form h) (fun a2 e1 => ?_)
        refine withRes_form (publish_form h) (fun a3 e2 => ?_)
        refine withRes_form (publish_form h) (fun a4 e3 => ?_)
        split
        · refine complete_form ?_
          refine State.setX_form ?_
          exact reads_form (reads_form (reads_form (reads_form (publish_form h))))
        · split
          · refine complete_form ?_
            refine State.setX_form ?_
            exact reads_form (reads_form (reads_form (reads_form (publish_form h))))
          · refine withRes_form (reads_form (reads_form (reads_form (reads_form (publish_form h))))) (fun t e4 => ?_)
            refine formed_next ?_
            refine requantise_form ?_ e4
            exact reads_form (reads_form (reads_form (reads_form (publish_form h))))

/-! ### Landings -/

theorem drainOne_form {core : Nat} (h : s.memWf) : (drainOne core s).memWf := by
  unfold drainOne
  dsimp only
  split
  · split
    · exact h
    · exact h.update
  · split
    · exact h.update
    · split
      · exact (sendStore_keeps ..).form h.update
      · exact State.memWf.update ((sendStore_keeps ..).form h.update)

theorem execStoreBufferDrain_form {core : Nat} (h : s.memWf) : Formed (execStoreBufferDrain core s) :=
  takeDue_form h (fun _ ht => State.onCore_form ht (fun _ ht1 => drainOne_form ht1))

theorem execHostBiResponse_form {line : Nat} (h : s.memWf) : Formed (execHostBiResponse line s) := takeEvent_form h (fun _ ht => ht.update)

theorem execDurableStoreAccept_form {num : Nat} (h : s.memWf) : Formed (execDurableStoreAccept num s) := by
  unfold execDurableStoreAccept
  refine takeDue_form h (fun t ht => ?_)
  split
  · exact (acceptDurable_keeps ..).form ht
  · exact ht

theorem execPersistAcknowledgement_form {num : Nat} (h : s.memWf) : Formed (execPersistAcknowledgement num s) :=
  takeEvent_form h (fun _ ht => ht.update)

theorem execPersistBufferDrain_form (h : s.memWf) : Formed (execPersistBufferDrain s) := by
  unfold execPersistBufferDrain
  split
  · exact formed_next h
  · refine formed_next ?_
    dsimp only
    exact State.memWf.update (fresh_form h)

theorem execPresenceStoreLanding_form {core off : Nat} {value : BitVec 64} (h : s.memWf) :
    Formed (execPresenceStoreLanding core off value s) := by
  unfold execPresenceStoreLanding
  refine takeWhenAwake_form h (fun t ht => ?_)
  split
  · exact landFlight_form ht
  · exact ht

theorem execGangOperandMessage_form {core : Nat} {chunk : List (BitVec 64)} (h : s.memWf) :
    Formed (execGangOperandMessage core chunk s) := by
  unfold execGangOperandMessage
  refine takeEvent_form h (fun t ht => ?_)
  dsimp only
  split
  · exact ht
  · exact setCore_form ht

theorem refillAhead_form {k : Nat} (h : s.memWf) : (refillAhead k s).memWf := by
  unfold refillAhead
  split
  · split
    · split
      · exact h
      · split
        · exact fresh_form (of_fst (landRegister_form h) ‹_›)
        · exact h
    · exact h
  · exact h

theorem execWellRefillLanding_form {core : Nat} {well : BitVec 3} (h : s.memWf) : Formed (execWellRefillLanding core well s) :=
  formed_next (State.onCore_form h (fun _ ht => refillAhead_form ht))

theorem setPan_form {core pan : Nat} {r : Retention} (h : s.memWf) : (setPan s core pan r).memWf := setCore_form h

theorem execRetentionEntry_form {core pan : Nat} (h : s.memWf) : Formed (execRetentionEntry core pan s) := by
  unfold execRetentionEntry
  refine takeDue_form h (fun t ht => ?_)
  split
  · split
    · dsimp only
      exact State.memWf.update (setPan_form ht)
    · exact ht
  · exact setPan_form ht
  · dsimp only
    exact State.memWf.update (setPan_form ht)
  · exact ht

theorem execRetentionExit_form {core pan : Nat} (h : s.memWf) : Formed (execRetentionExit core pan s) := by
  unfold execRetentionExit
  refine takeDue_form h (fun t ht => ?_)
  split
  · exact (armRetention_keeps ..).form (setPan_form ((settleFlips_keeps ..).form ht))
  · exact ht

/-! ### Management -/

theorem managed_form {f : State → State} (h : s.memWf) (hf : ∀ t, t.memWf → (f t).memWf) : (managed s f).memWf := by
  unfold managed
  split
  · exact h
  · exact hf _ h

theorem execControlSpaceWrite_form {pa : Nat} {data : List (BitVec 8)} (h : s.memWf) : Formed (execControlSpaceWrite pa data s) := by
  refine formed_next (managed_form (fresh_form h) fun t ht => ?_)
  split
  · exact (rotateIfLive_sameMems ..).memWf (ht.setCtl (ctlStore_wf true pa data ht.2.1))
  · exact ht

theorem execBitternResize_form {die mib : Nat} (h : s.memWf) : Formed (execBitternResize die mib s) := by
  unfold execBitternResize
  dsimp only
  split
  · exact formed_next (fresh_form h)
  · split
    · exact formed_next (State.memWf.update (fresh_form h))
    · split
      · exact formed_next h
      · exact formed_next h.update

theorem execAdaptiveVoltagePeriod_form {die : Nat} (h : s.memWf) : Formed (execAdaptiveVoltagePeriod die s) :=
  formed_next (State.memWf.update (fresh_form h))

theorem execEqualisationPeriod_form (h : s.memWf) : Formed (execEqualisationPeriod s) := formed_next (fresh_form h)

theorem execThresholdPeriod_form {watts : Nat} (h : s.memWf) : Formed (execThresholdPeriod watts s) :=
  formed_next (State.memWf.update (fresh_form h))

theorem execRailDroop_form {die cycles : Nat} (h : s.memWf) : Formed (execRailDroop die cycles s) := by
  unfold execRailDroop
  refine formed_next ?_
  dsimp only
  exact State.memWf.update (fresh_form h)

theorem execOvertemperature_form {celsius : Nat} (h : s.memWf) : Formed (execOvertemperature celsius s) := by
  unfold execOvertemperature
  dsimp only
  refine formed_next ?_
  split
  · refine State.memWf.update ?_
    split
    · exact State.memWf.update (fresh_form h)
    · exact fresh_form h
  · split
    · exact State.memWf.update (fresh_form h)
    · exact fresh_form h

theorem execFreezeSignal_form (h : s.memWf) : Formed (execFreezeSignal s) := by
  unfold execFreezeSignal
  refine formed_next ?_
  dsimp only
  exact State.memWf.update (fresh_form h)

theorem keepMaps_wf {old new : Mem} (h : Memory.wf new = true) : Memory.wf (keepMaps old new) = true :=
  List.foldlRecOn (motive := fun m => Memory.wf m = true) _ _ h fun _ hm _ _ =>
    List.foldlRecOn (motive := fun m => Memory.wf m = true) _ _ hm fun _ hm _ _ => memWrite_wf _ _ hm

theorem survive_form (h : s.memWf) : (survive s).memWf := by
  have hdurable : Memory.wf (durableBytes s.persisted) = true := memFilter_wf _ h.2.2.2
  have hreset : State.reset.memWf := resetMemoryForm
  have hctl : Memory.wf (keepMaps s.ctl State.reset.ctl) = true := keepMaps_wf hreset.2.1
  unfold survive
  generalize durableBytes s.persisted = m at hdurable ⊢
  generalize keepMaps s.ctl State.reset.ctl = c at hctl ⊢
  exact ⟨hdurable, hctl, hreset.2.2.1, hdurable⟩

theorem execPowerLoss_form (h : s.memWf) : Formed (execPowerLoss s) := by
  unfold execPowerLoss
  refine formed_next ?_
  dsimp only
  exact State.memWf.update (survive_form h)

theorem execPackageReset_form {verified : Bool} (h : s.memWf) : Formed (execPackageReset verified s) :=
  formed_next (State.memWf.update (survive_form h))

theorem execNonInstruction_form {word : BitVec 32} (h : s.memWf) : Formed (execNonInstruction word s) := illegal_form h

/-! ### Rake -/

theorem rakeRecord_form {j : RakeJob} {code sub : Nat} {addr : Word} (h : s.memWf) : (rakeRecord s j code sub addr).memWf := report_form h

theorem signalJob_form {j : RakeJob} {err : Bool} (h : s.memWf) : (signalJob s j err).memWf := by
  unfold signalJob
  split
  · exact h
  · split
    · exact rakeRecord_form h
    · split
      · exact signalCellAt_form h
      · exact rakeRecord_form h

theorem wakeRepair_form {j : RakeJob} {va : Word} (h : s.memWf) : (wakeRepair s j va).memWf := by
  unfold wakeRepair
  split
  · exact (wakeWaiters_onlyMessages ..).sameMems.memWf h
  · exact h

theorem withCopy_form {j : RakeJob} {i : Nat} {k : Pool → Desc → State} (h : s.memWf) (hk : ∀ x0 x1, (k x0 x1).memWf) :
    (withCopy s j i k).memWf := by
  unfold withCopy
  split
  · exact rakeRecord_form h
  · split
    · exact rakeRecord_form h
    · exact hk _ _

theorem settleCopy_form {j : RakeJob} {state : Nat} {wake : Bool} {c : RakeCopy} (h : s.memWf) : (settleCopy j state wake s c).memWf := by
  unfold settleCopy
  refine withCopy_form h (fun x0 x1 => ?_)
  dsimp only
  split
  · exact wakeRepair_form (releaseDesc_form (putDesc_form h))
  · exact releaseDesc_form (putDesc_form h)

theorem dropJob_form {j : RakeJob} (h : s.memWf) : (dropJob s j).memWf := h.update

theorem stopJob_form {j : RakeJob} {err : Bool} (h : s.memWf) : (stopJob s j err).memWf :=
  signalJob_form (putJob_form (foldl_form (fun _ _ ht => settleCopy_form ht) (dropJob_form h)))

theorem failJob_form {j : RakeJob} {code sub : Nat} {addr : Word} (h : s.memWf) : (failJob s j code sub addr).memWf :=
  stopJob_form (rakeRecord_form h)

theorem sendItems_form {j : RakeJob} {a : List (Nat × Nat × Nat)} (h : s.memWf) : (sendItems j a s).memWf := by
  fun_induction sendItems j a s
  case case1 => exact h
  case case2 ih1 =>
    refine ih1 ?_
    split
    · exact withCopy_form h (fun x0 x1 => produceRecord_form h)
    · exact h

theorem startLayer_form {j0 : RakeJob} (h : s.memWf) : (startLayer s j0).memWf := by
  unfold startLayer
  dsimp only
  split
  · exact failJob_form h
  · exact State.memWf.update (sendItems_form (putJob_form ((judgeCell_onlyMessages ..).sameMems.memWf (initCell_form h))))

theorem advanceCopies_form {j : RakeJob} (h : s.memWf) : (advanceCopies s j).memWf :=
  foldl_form (fun _ _ ht => withCopy_form ht (fun _ _ => wakeRepair_form (putDesc_form ht))) h

theorem endJob_form {j : RakeJob} (h : s.memWf) : (endJob s j).memWf :=
  signalJob_form (putJob_form (foldl_form (fun _ _ ht => settleCopy_form ht) h))

theorem advanceJob_form {j : RakeJob} (h : s.memWf) : (advanceJob s j).memWf := by
  unfold advanceJob
  split
  · dsimp only
    exact State.memWf.update (putJob_form (advanceCopies_form h))
  · split
    · exact startLayer_form h
    · exact endJob_form h

theorem execRakeLayerAdvance_form {part job : Nat} (h : s.memWf) : Formed (execRakeLayerAdvance part job s) := by
  unfold execRakeLayerAdvance
  refine takeDue_form h (fun t ht => ?_)
  split
  · exact ht
  · split
    · exact advanceJob_form ht
    · exact ht

/-- The state that a step of a job's work leaves. -/
def RakeWork.state : RakeWork → State
  | .done s _ => s
  | .missing s _ _ => s
  | .failed s .. => s

theorem RakeWork.met_form {j : RakeJob} {e : Exc} (h : s.memWf) : (RakeWork.met s j e).state.memWf := by
  unfold RakeWork.met
  split <;> exact h

theorem readJob_form {j r : RakeJob} {t1 : State} (h : s.memWf) (e : readJob s j = .ok (r, t1)) : t1.memWf := by
  unfold readJob at e
  dsimp only at e
  split at e
  · cases e
  · split at e
    · cases e
    · split at e
      · cases e
      · split at e
        · cases e
        · cases e
          exact descsRead_form (reads_form (State.readsTable_form h))

theorem rewriteEntries_form {j : RakeJob} {page new : Nat} {l : List Nat} {n : Nat} (h : s.memWf) :
    (rewriteEntries j page new l n s).1.memWf := by
  induction l generalizing n s with
  | nil => exact h
  | cons k l ih =>
    unfold rewriteEntries
    dsimp only
    split
    · exact h
    · split
      · exact h
      · split
        · exact h
        · split
          · exact h
          · exact ih (releaseDesc_form (writeObject_form h))

theorem failCopy_form {j : RakeJob} {c : RakeCopy} {k : Nat} {e : Exc} (h : s.memWf) : (failCopy s j c k e).state.memWf := by
  have h1 : (withCopy s j c.desc fun _ d => putDesc s j.party d.va (putField d.raw 15 0 (k + 1))).memWf :=
    withCopy_form h fun _ _ => putDesc_form h
  exact h1

theorem makeCopy_form {j : RakeJob} {old : Nat} (h : s.memWf) : (makeCopy s j old).state.memWf := by
  unfold makeCopy
  dsimp only
  split
  · exact h
  · split
    · exact RakeWork.met_form h
    · have h1 := readAs_form h ‹_›
      split
      · exact RakeWork.met_form h1
      · split
        · exact RakeWork.met_form h1
        · split
          · exact h1
          · split
            · exact RakeWork.met_form h1
            · split
              · exact h1
              · split
                · exact RakeWork.met_form h1
                · have h2 := allocDesc_form h1 ‹_›
                  split
                  · exact failCopy_form (copyWords_form h2)
                  · split
                    · exact failCopy_form (of_fst (rewriteEntries_form (copyWords_form h2)) ‹_›)
                    · exact of_fst (rewriteEntries_form (copyWords_form h2)) ‹_›

theorem makeCopies_form {l : List Nat} {j : RakeJob} (h : s.memWf) : (makeCopies l s j).state.memWf := by
  induction l generalizing s j with
  | nil => exact h
  | cons d l ih =>
    have h1 := makeCopy_form (j := j) (old := d) h
    unfold makeCopies
    split
    next eq =>
      rw [eq] at h1
      exact ih h1
    next => exact h1

/-- The reads of the words of one entry, in their order. -/
theorem foldl_reads_form {α β : Type} {f : Res (β × State) → α → Res (β × State)} {l : List α} {b b' : β} {s t : State}
    (hf : ∀ r a b t, (∀ b s, r = .ok (b, s) → s.memWf) → f r a = .ok (b, t) → t.memWf) (h : s.memWf)
    (e : l.foldl f (.ok (b, s)) = .ok (b', t)) : t.memWf := by
  refine List.foldlRecOn (motive := fun r => ∀ b s, r = .ok (b, s) → s.memWf) l f (fun b s e => ?_) (fun r hr a _ b t e => hf r a b t hr e) b' t e
  cases e
  exact h

theorem selectTokens_form {j : RakeJob} {l : List (Nat × Bool)} {k u : Nat} {r : List (Nat × Nat × Nat)} {t : State} (h : s.memWf)
    (e : selectTokens j l k u s = .ok (r, t)) : t.memWf := by
  induction l generalizing k u s r t with
  | nil =>
    cases e
    exact h
  | cons x l ih =>
    unfold selectTokens at e
    extract_lets n copy read at e
    have hread (r : Res (List (Nat × Nat × Nat) × State)) (i : Nat) (b : List (Nat × Nat × Nat)) (t : State)
        (hr : ∀ b s, r = .ok (b, s) → s.memWf) (e : read r i = .ok (b, t)) : t.memWf := by
      dsimp only [read] at e
      clear_value copy
      split at e
      · cases e
      · split at e
        · cases e
        · split at e
          · cases e
          · have h1 := readAs_form (hr _ _ rfl) ‹_›
            split at e <;> exact ok_snd e h1
    split at e
    · cases e
    · split at e
      · cases e
      · exact ok_snd e (ih (foldl_reads_form hread h ‹_›) ‹_›)

theorem rakeWork_form {j : RakeJob} (h : s.memWf) : (rakeWork s j).state.memWf := by
  have h1 := makeCopies_form (l := (splicedDescs j).drop j.copies.length) (j := j) h
  unfold rakeWork
  split
  next eq =>
    rw [eq] at h1
    split
    · exact RakeWork.met_form h1
    · exact selectTokens_form h1 ‹_›
  next => exact h1

theorem parkJob_form {j : RakeJob} {e : Exc} (h : s.memWf) : (parkJob s j e).memWf := by
  unfold parkJob
  split
  · exact failJob_form h
  · dsimp only
    exact addWaiter_form (putJob_form (produceRecord_form (initCell_form h)))

theorem runJob_form {j : RakeJob} (h : s.memWf) : (runJob s j).memWf := by
  have h1 := rakeWork_form (j := j) h
  unfold runJob
  split
  next eq =>
    rw [eq] at h1
    exact startLayer_form h1
  next eq =>
    rw [eq] at h1
    exact parkJob_form h1
  next eq =>
    rw [eq] at h1
    exact failJob_form h1

theorem beginJob_form {j : RakeJob} (h : s.memWf) : (beginJob s j).memWf := by
  unfold beginJob
  split
  · exact runJob_form (readJob_form h ‹_›)
  · split
    · exact parkJob_form h
    · exact failJob_form h

theorem execRakeJobStart_form {part job : Nat} (h : s.memWf) : Formed (execRakeJobStart part job s) := by
  unfold execRakeJobStart
  refine takeEvent_form h (fun t ht => ?_)
  split
  · split
    · exact beginJob_form ht
    · exact ht
  · exact ht

theorem execRakeCopyResume_form {part job : Nat} (h : s.memWf) : Formed (execRakeCopyResume part job s) := by
  unfold execRakeCopyResume
  refine takeEvent_form h (fun t ht => ?_)
  split
  · split
    · dsimp only
      split
      · exact beginJob_form ht
      · exact runJob_form ht
    · exact ht
  · exact ht

theorem execRkjob_form {d a : BitVec 5} {s0 : State} (h : s0.memWf) : Formed (execRkjob d a s0) := by
  unfold execRkjob
  dsimp only
  split
  · exact raise_form (publish_form h)
  · refine withRes_form (publish_form h) (fun a1 e => ?_)
    split
    · exact complete_form (State.setX_form (reads_form (publish_form h)))
    · split
      · split
        · exact raise_form (reads_form (publish_form h))
        · exact complete_form (State.setX_form (rakeRecord_form (reads_form (publish_form h))))
      · refine complete_form ?_
        refine State.setX_form ?_
        exact State.memWf.update (putJob_form (reads_form (reads_form (publish_form h))))

theorem withJob_form {a : BitVec 5} {k : Option RakeJob → Out} (h : s.memWf) (hk : ∀ x0, Formed (k x0)) : Formed (withJob a s k) := by
  unfold withJob
  split
  · exact raise_form h
  · exact hk _

theorem execRkcancel_form {d a : BitVec 5} {s0 : State} (h : s0.memWf) : Formed (execRkcancel d a s0) := by
  unfold execRkcancel
  dsimp only
  refine withJob_form (publish_form h) (fun x0 => ?_)
  split
  · split
    · exact complete_form (State.setX_form (stopJob_form (publish_form h)))
    · exact complete_form (State.setX_form (publish_form h))
  · exact complete_form (State.setX_form (publish_form h))

/-! ### Scheduling -/

theorem restartQuantum_form (h : s.memWf) : (restartQuantum s).memWf := h.update

theorem expire_form (h : s.memWf) : (expire s).memWf := by
  unfold expire
  split
  · exact suspendAndPick_form h
  · dsimp only
    exact suspendAndPick_form (State.memWf.update (countStall_form h))
  · exact h

theorem expireMember_form {serial tid : Nat} (h : s.memWf) : (expireMember serial tid s).memWf := by
  unfold expireMember
  split
  · split
    · exact expire_form h
    · exact h
  · exact h

theorem expireHere_form (h : s.memWf) : (expireHere s).memWf := by
  unfold expireHere
  split
  · exact h
  · split
    · exact restartQuantum_form h
    · split
      · exact foldl_form (fun t a ht => State.onCore_form ht (fun t1 ht1 => expireMember_form ht1)) h
      · exact restartQuantum_form h
    · split
      · exact expire_form h
      · exact restartQuantum_form h

theorem execQuantumExpiry_form {core : Nat} (h : s.memWf) : Formed (execQuantumExpiry core s) := by
  unfold execQuantumExpiry
  split
  · exact formed_next (State.onCore_form h (fun t ht => expireHere_form ht))
  · exact formed_next h

theorem noteRestores_form (h : s.memWf) : (noteRestores s).memWf := h.update

theorem beginRestore_form (h : s.memWf) : (beginRestore s).memWf := by
  unfold beginRestore
  split
  · dsimp only
    split
    · exact State.memWf.update (count_form h.update)
    · split
      · exact State.memWf.update (count_form h.update)
      · exact endSuspended_form h
  · exact h

theorem execBackgroundRestore_form {core : Nat} (h : s.memWf) : Formed (execBackgroundRestore core s) :=
  takeEvent_form h (fun _ ht => State.onCore_form ht (fun _ ht1 => beginRestore_form ht1))

theorem execBackgroundRestoreDone_form {core : Nat} (h : s.memWf) : Formed (execBackgroundRestoreDone core s) :=
  takeEvent_form h (fun _ ht => setCore_form ht)

theorem execThermalRankingTable_form {core : Nat} {table : List Nat} (h : s.memWf) : Formed (execThermalRankingTable core table s) :=
  formed_next (setCore_form h)

theorem shrinkCache_form {a : Nat} (h : s.memWf) : (shrinkCache a s).memWf := by
  fun_induction shrinkCache a s
  case case1 => exact h
  case case2 => exact h
  case case3 => exact h
  case case4 ih1 => exact ih1 h.update
  case case5 ih1 => exact ih1 (evict_form h)
  case case6 ih1 => exact ih1 (evict_form h)

theorem execThermalCclimStep_form {core : Nat} {hot : Bool} (h : s.memWf) : Formed (execThermalCclimStep core hot s) := by
  unfold execThermalCclimStep
  refine formed_next ?_
  refine State.onCore_form h (fun t ht => ?_)
  split
  · split
    · exact shrinkCache_form ht.update
    · exact ht
  · split
    · exact ht.update
    · exact ht

theorem moveRecord_form {u : Suspended} {target : Nat} (h : s.memWf) : (moveRecord s u target).memWf := by
  unfold moveRecord
  extract_lets s1 _ _ s2 _ _ s3
  have hs1 : s1.memWf := count_form h
  have hs2 : s2.memWf := hs1.update
  have hs3 : s3.memWf := setCore_form hs2
  exact State.onCore_form (endEnrolment_form hs3) (fun t ht => pickIfIdle_form ht)

theorem execMobileRecord_form {core slot target : Nat} (h : s.memWf) : Formed (execMobileRecord core slot target s) := by
  unfold execMobileRecord
  refine takeEvent_form h (fun t ht => ?_)
  refine State.onCore_form ht (fun t1 ht1 => ?_)
  split
  · exact ht1
  · split
    · exact evict_form ht1
    · split
      · exact moveRecord_form ht1
      · split
        · exact ht1.update
        · exact evict_form ht1

theorem execMailboxCsrWrite_form {core : Nat} {csr : BitVec 12} {value : BitVec 64} (h : s.memWf) :
    Formed (execMailboxCsrWrite core csr value s) := by
  unfold execMailboxCsrWrite
  split
  · exact formed_next (State.onCore_form h (fun t ht => State.csrStore_form ht))
  · exact formed_next h

theorem movePoison_form {piece : Nat} {old : State} {src dst : List Nat} (hs : s.memWf) : (movePoison piece old src dst s).memWf :=
  foldl_form (fun _ _ ht => foldl_form (fun _ _ ht1 => setPoison_form ht1) ht) hs

theorem moveEntries_form {part q src dst n : Nat} (h : s.memWf) : (moveEntries part q src dst n s).memWf := by
  induction n generalizing s with
  | zero => exact h
  | succ n ih =>
    unfold moveEntries
    dsimp only
    split
    · exact ih ((setSegCounts_keeps ..).form (State.memWf.update (movePoison_form ((writePieces_keeps ..).form h))))
    · exact h

theorem levelSegment_form {part qpa seg : Nat} (h : s.memWf) : (levelSegment part qpa s seg).memWf := by
  unfold levelSegment
  dsimp only
  split
  · exact h
  · split
    · exact (setSegCounts_keeps ..).form (moveEntries_form h)
    · exact h

theorem execLevellingVisit_form {die : Nat} (h : s.memWf) : Formed (execLevellingVisit die s) := by
  unfold execLevellingVisit
  refine formed_next ?_
  refine foldl_form (fun t a ht => ?_) h
  dsimp only
  split
  · exact (reportCorrupt_keeps ..).form ht
  · split
    · exact ht
    · exact foldl_form (fun t1 a1 ht1 => levelSegment_form ht1) ht

/-! ### System -/

theorem execEret_form (h : s.memWf) : Formed (execEret s) := by
  unfold execEret
  split
  · exact illegal_form h
  · split
    · exact raise_form h
    · exact formed_next (returnFromHandler_form (State.retire_form h))

theorem execFenceI_form (h : s.memWf) : Formed (execFenceI s) := by
  unfold execFenceI
  dsimp only
  split
  · exact waitHere_form (publish_form h)
  · exact complete_form (State.memWf.update (publish_form h))

theorem setSealed_form {d a : BitVec 5} {closed : Bool} (h : s.memWf) : Formed (setSealed d a closed s) := by
  unfold setSealed
  refine whenPrivileged_form h ?_
  refine withRes_form h (fun a1 e => ?_)
  dsimp only
  split
  · exact complete_form (State.setX_form h)
  · exact complete_form (State.setX_form (setCore_form h))

theorem execTrestart_form {d a b : BitVec 5} (h : s.memWf) : Formed (execTrestart d a b s) := by
  unfold execTrestart
  refine whenPrivileged_form h ?_
  refine withRes_form h (fun a1 e => ?_)
  split
  · exact raise_form h
  · exact withRes_form h (fun a2 e1 => State.ask_form h (fun x0 t ht => complete_form (State.setX_form ht)))

end Sys2Proof.Machine
end


section
/-! SUPPORT. Canonical form: what an instruction, an event and a turn leave, and so a step (O5). -/

namespace Sys2Proof.Machine

variable {s : State}

/-! ### Dispatch -/

/-- The arms stand in the order of the instructions; an arm that is a call of one form takes the lemma of that form. -/
theorem exec_form {i : Instr} (h : s.memWf) : Formed (exec i s) := by
  unfold exec
  split
  iterate 37 exact scalarResult_form h
  iterate 2 exact whenOk_form h (scalarResult_form h)
  · exact makePlace_form h
  · exact whenOk_form h (makePlace_form h)
  iterate 4 exact whenOk_form h (csrOp_form h)
  · exact execOxl_form h
  · exact whenOk_form h (complete_form h.update)
  · exact whenOk_form h (scalarResult_form h)
  iterate 2 exact transfer_form h
  · exact jumpRegister_form h
  iterate 6 exact branchIf_form h
  iterate 4 exact whenOk_form h (branchIf_form h)
  · exact complete_form h
  · exact raise_form h
  · exact execEret_form h
  · exact execFenceI_form h
  iterate 2 exact setSealed_form h
  · exact execTrestart_form h
  · exact whenPrivileged_form h (formed_next h.update)
  iterate 7 exact scalarResult_form h
  · exact loadScalar_form h
  · exact storeScalar_form h
  · exact transfer_form h
  iterate 2 exact branchIf_form h
  · exact jumpRegister_form h
  · exact awaitForm_form h
  · exact complete_form h
  iterate 4 exact scalarResult_form h
  · exact loadScalar_form h
  · exact storeScalar_form h
  iterate 6 exact scalarResult_form h
  · exact yieldWith_form h
  · exact tendWith_form h
  iterate 2 exact scalarResult_form h
  iterate 2 exact whenOk_form h (setType_form h)
  iterate 15 exact intBinary_form h
  iterate 9 exact floatBinary_form h
  · exact unary_form h
  iterate 5 exact unaryInt_form h
  iterate 5 exact unaryFloat_form h
  iterate 3 exact unaryCode_form h
  · exact unary_form h
  iterate 3 exact nibble_form h
  iterate 14 exact convert_form h
  iterate 6 exact compareInt_form h
  iterate 8 exact compareFloat_form h
  · exact whenOk_form h (runVector_form h)
  · exact execVslideup_form h
  iterate 3 exact slideForm_form h
  · exact execVgathr_form h
  · exact execVcompress_form h
  · exact execVexpand_form h
  · exact moveForm_form h
  · exact execVbcastE_form h
  iterate 2 exact extract_form h
  iterate 2 exact insert_form h
  iterate 6 exact foldInt_form h
  iterate 3 exact foldFloat_form h
  · exact elementwise_form h
  · exact whenOk_form h (runVector_form h)
  iterate 4 exact ramp_form h
  · exact whenOk_form h (runVector_form h)
  · exact elementwise_form h
  iterate 2 exact intScalar_form h
  iterate 3 exact floatScalar_form h
  iterate 8 exact popWrite_form h
  iterate 2 exact whenOk_form h (complete_form (State.setX_form h))
  · exact execMma_form h
  · exact execMzero_form h
  · exact execMepi_form h
  · exact execMcks_form h
  iterate 2 exact loadScalar_form h
  · exact storeScalar_form h
  · exact execLda_form h
  · exact execLdp_form h
  · exact execStp_form h
  · exact execLdpC_form h
  iterate 2 exact vectorLoad_form h
  · exact vectorStore_form h
  · exact execVstCk_form h
  · exact vectorStore_form h
  · exact vectorLoad_form h
  · exact execVgldX2_form h
  · exact vectorStore_form h
  iterate 2 exact placeForm_form (fun _ _ hs hk => hk _ hs) (fun _ _ _ _ _ _ => loadPlaceElem_form) (fun _ _ _ _ ht => ht) h
  · exact execVstp_form h
  · exact execPst_form h
  · exact execPstV_form h
  · exact execXcopy_form h
  · exact execWbind_form h
  iterate 2 exact onWell_form h (fun x0 => completeQueued_form h.update)
  · exact onWell_form h (fun x0 => completeQueued_form (State.setX_form h))
  iterate 11 exact atomic_form h
  iterate 9 exact reduce_form h
  · exact execVamo_form h
  · exact execVred_form h
  · exact execGll_form h
  · exact execScc_form h
  · exact fenceFields_form h (orderAt_form h (fun t ht => complete_form ht))
  · exact fenceFields_form h (complete_form h.update)
  · exact execFenceAcq_form h
  · exact orderAt_form h (fun t ht => complete_form ht)
  iterate 2 exact complete_form (combineStream_form (State.publishStream_form h))
  · exact complete_form h.update
  · exact complete_form ((persistAll_keeps ..).form ((drain_keeps ..).form h))
  · exact execPflush_form h
  iterate 2 exact prefetch_form h
  · exact execDlg_form h
  · exact execDlgAm_form h
  · exact execCmoInv_form h
  · exact execCmoWb_form h
  · exact execCmoZero_form h
  · exact withRes_form h (fun a1 e => complete_form (State.setX_form h))
  · exact execCmoPfw_form h
  · exact execCmoObjclr_form h
  · exact execQinit_form h
  · exact execQfree_form h
  · exact withRes_form h (fun a1 e => complete_form (State.setX_form (touch_form h)))
  · exact execQpeek_form h
  · exact execEnqTry_form h
  · exact whenOk_form h (enqueueForm_form h (fun o r e => elementAt_form h e))
  · exact execDeqTry_form h
  · exact whenOk_form h (dequeueForm_form h (fun d o bs s1 t hs1 e => putAt_form hs1 e))
  iterate 2 exact venqForm_form h
  iterate 2 exact vdeqForm_form h
  · exact outsideService_form h (withRes_form h (fun a1 e => askSluice_form h))
  · exact tendWith_form h
  · exact yieldWith_form h
  · exact outsideService_form h (askSluice_form h)
  · exact execGang_form h
  · exact execUngang_form h
  · exact execWqry_form h
  · exact execWqryOpen_form h
  · exact whenPrivileged_form h (withRes_form h (fun a1 e => invalidate_form (fun t ht => dropVa_form ht) h))
  · exact whenPrivileged_form h (withRes_form h (fun a1 e => invalidate_form (fun t ht => dropPartition_form ht) h))
  · exact whenPrivileged_form h (invalidate_form (fun t ht => ht.update) h)
  · exact whenPrivileged_form h (withRes_form h (fun a1 e => complete_form (State.setX_form h)))
  · exact execGissue_form h
  · exact execGrevoke_form h
  · exact withRes_form h (fun a1 e => complete_form (State.setX_form h))
  · exact execKvalloc_form h
  · exact execKvallocInit_form h
  · exact execKvref_form h
  · exact execKvunref_form h
  · exact execKvapp_form h
  · exact execKvspl_form h
  · exact execKvreq_form h
  iterate 3 exact sourceVersion_form h
  iterate 4 exact kvGather_form h
  · exact execRkjob_form h
  · exact withJob_form h (fun x0 => complete_form (State.setX_form h))
  · exact execRkcancel_form h
  iterate 2 exact awaitForm_form h
  · exact whenOk_form h (awaitForm_form h)
  · exact execCelli_form h
  · exact execSignal_form h
  · exact execCread_form h
  · exact execRvinit_form h
  · exact execRvarr_form h
  · exact execRvfree_form h
  · exact execBarw_form h
  · exact execWaituntil_form h
  · exact execReportRound_form h
  · exact execLaunchDequeue_form h
  · exact execLaunchCancel_form h
  · exact execPanClaim_form h
  · exact execCreationMessage_form h
  · exact execEndMessage_form h
  · exact execTspawnRequest_form h
  · exact execGjoinRequest_form h
  · exact execWqryRequest_form h
  · exact execWqryOpenRequest_form h
  · exact execTrestartRequest_form h
  · exact execSluiceReply_form h
  · exact execPreemptionMessage_form h
  · exact execPreemptionAcknowledgement_form h
  · exact execResumptionMessage_form h
  · exact execQuantumExpiry_form h
  · exact execStallPromisePassed_form h
  · exact execTokenWake_form h
  · exact execTokenRegistration_form h
  · exact execTimerTokenReady_form h
  · exact execAwaitTimeout_form h
  · exact execWaituntilTime_form h
  · exact execBackgroundRestore_form h
  · exact execBackgroundRestoreDone_form h
  · exact execThermalRankingTable_form h
  · exact execThermalCclimStep_form h
  · exact execMobileRecord_form h
  · exact execMailboxCsrWrite_form h
  · exact execLevellingVisit_form h
  · exact execDelegation_form h
  · exact execActiveMessage_form h
  · exact execDelegationReply_form h
  · exact execServiceRoutineTimeout_form h
  · exact execGangJoin_form h
  · exact execGangFormationTimeout_form h
  · exact execGangOperandMessage_form h
  · exact execPresenceStoreLanding_form h
  · exact execLdaDataArrival_form h
  · exact execVamoElementArrival_form h
  · exact execWellRefillLanding_form h
  · exact execTransferComplete_form h
  · exact execChannelCellResume_form h
  · exact execStoreBufferDrain_form h
  · exact execDurableStoreAccept_form h
  · exact execPersistAcknowledgement_form h
  · exact execContainmentScrub_form h
  · exact execQueueWaiterWake_form h
  · exact execWaiterTableRetry_form h
  · exact execWireBarrierRelease_form h
  · exact execBarrierTimeout_form h
  · exact execDeferredArrival_form h
  · exact execPostedSignalRefused_form h
  · exact execFabricErrorResponse_form h
  · exact execIngressRequest_form h
  · exact execLeaseExpiry_form h
  · exact execRetentionEntry_form h
  · exact execRetentionExit_form h
  · exact execRakeJobStart_form h
  · exact execRakeLayerAdvance_form h
  · exact execHostMemRead_form h
  · exact execHostMemWrite_form h
  · exact execHostTailStore_form h
  · exact execHostBiResponse_form h
  · exact execAttestationRequest_form h
  · exact execAttestationSigned_form h
  · exact execStationDown_form h
  · exact execBitternResize_form h
  · exact execPartitionLiveWrite_form h
  · exact execGrantKeyRotation_form h
  · exact execControlSpaceWrite_form h
  · exact execAdaptiveVoltagePeriod_form h
  · exact execEqualisationPeriod_form h
  · exact execThresholdPeriod_form h
  · exact execRailDroop_form h
  · exact execOvertemperature_form h
  · exact execFreezeSignal_form h
  · exact execPowerLoss_form h
  · exact execPackageReset_form h
  · exact execNonInstruction_form h
  · exact execCoreCheckFailure_form h
  · exact execMapOutDone_form h
  · exact execPanPreparationDone_form h
  · exact execPersistBufferDrain_form h
  · exact execStationUp_form h
  · exact execFabricStoreAcknowledgement_form h
  · exact execRakeCopyResume_form h

/-! ### Event Run -/

theorem runEvent_form {e : Event} (h : s.memWf) : Formed (runEvent e s) := by
  unfold runEvent
  split
  · exact execReportRound_form h
  · exact execLaunchDequeue_form h
  · exact execLaunchCancel_form h
  · exact execPanClaim_form h
  · exact execCreationMessage_form h
  · exact execEndMessage_form h
  · exact execTspawnRequest_form h
  · exact execGjoinRequest_form h
  · exact execWqryRequest_form h
  · exact execWqryOpenRequest_form h
  · exact execTrestartRequest_form h
  · exact execSluiceReply_form h
  · exact execPreemptionMessage_form h
  · exact execPreemptionAcknowledgement_form h
  · exact execResumptionMessage_form h
  · exact execQuantumExpiry_form h
  · exact execStallPromisePassed_form h
  · exact execTokenWake_form h
  · exact execTokenRegistration_form h
  · exact execTimerTokenReady_form h
  · exact execAwaitTimeout_form h
  · exact execWaituntilTime_form h
  · exact execBackgroundRestore_form h
  · exact execBackgroundRestoreDone_form h
  · exact execThermalRankingTable_form h
  · exact execThermalCclimStep_form h
  · exact execMobileRecord_form h
  · exact execMailboxCsrWrite_form h
  · exact execLevellingVisit_form h
  · exact execDelegation_form h
  · exact execActiveMessage_form h
  · exact execDelegationReply_form h
  · exact execServiceRoutineTimeout_form h
  · exact execGangJoin_form h
  · exact execGangFormationTimeout_form h
  · exact execGangOperandMessage_form h
  · exact execPresenceStoreLanding_form h
  · exact execLdaDataArrival_form h
  · exact execVamoElementArrival_form h
  · exact execWellRefillLanding_form h
  · exact execTransferComplete_form h
  · exact execChannelCellResume_form h
  · exact execStoreBufferDrain_form h
  · exact execDurableStoreAccept_form h
  · exact execPersistAcknowledgement_form h
  · exact execContainmentScrub_form h
  · exact execQueueWaiterWake_form h
  · exact execWaiterTableRetry_form h
  · exact execWireBarrierRelease_form h
  · exact execBarrierTimeout_form h
  · exact execDeferredArrival_form h
  · exact execPostedSignalRefused_form h
  · exact execFabricErrorResponse_form h
  · exact execIngressRequest_form h
  · exact execLeaseExpiry_form h
  · exact execRetentionEntry_form h
  · exact execRetentionExit_form h
  · exact execRakeJobStart_form h
  · exact execRakeLayerAdvance_form h
  · exact execHostMemRead_form h
  · exact execHostMemWrite_form h
  · exact execHostTailStore_form h
  · exact execHostBiResponse_form h
  · exact execAttestationRequest_form h
  · exact execAttestationSigned_form h
  · exact execStationDown_form h
  · exact execBitternResize_form h
  · exact execPartitionLiveWrite_form h
  · exact execGrantKeyRotation_form h
  · exact execControlSpaceWrite_form h
  · exact execAdaptiveVoltagePeriod_form h
  · exact execEqualisationPeriod_form h
  · exact execThresholdPeriod_form h
  · exact execRailDroop_form h
  · exact execOvertemperature_form h
  · exact execFreezeSignal_form h
  · exact execPowerLoss_form h
  · exact execPackageReset_form h
  · exact execNonInstruction_form h
  · exact execCoreCheckFailure_form h
  · exact execMapOutDone_form h
  · exact execPanPreparationDone_form h
  · exact execPersistBufferDrain_form h
  · exact execStationUp_form h
  · exact execFabricStoreAcknowledgement_form h
  · exact execRakeCopyResume_form h

/-! ### Upsets -/

theorem poisonWords_form {words : List Nat} {path : Bool} (h : s.memWf) : (poisonWords words path s).memWf :=
  foldl_form (fun _ _ ht => setPoison_form ht) h

theorem poisonPadWords_form {words : List Nat} {path : Bool} (h : s.memWf) : (poisonPadWords words path s).memWf :=
  foldl_form (fun _ _ ht => setPadPoison_form ht) h

theorem corrected_form {die : Nat} (h : s.memWf) : (corrected s die).memWf := countError_form h

theorem uncorrected_form {die : Nat} {mark : State → State} (h : s.memWf) (hmark : ∀ t, t.memWf → (mark t).memWf) :
    (uncorrected s die mark).memWf :=
  countError_form (hmark _ h)

theorem padBitError_form {core word bits : Nat} (h : s.memWf) : (padBitError s core word bits).memWf := by
  unfold padBitError
  dsimp only
  split
  · split
    · exact corrected_form h
    · exact uncorrected_form h (fun t ht => poisonPadWords_form ht)
  · exact h.update

theorem bitError_form {at_ : MemoryAt} {bits : Nat} (h : s.memWf) : (bitError s at_ bits).memWf := by
  unfold bitError
  split
  · exact h
  · split
    · split
      · exact h
      · exact padBitError_form h
    · split
      · exact h
      · dsimp only
        refine corrected_form ?_
        split
        · exact h
        · exact setCore_form h
    · split
      · split
        · exact corrected_form h
        · split
          · exact uncorrected_form h (fun t ht => poisonWords_form ht)
          · exact h
      · exact h
    · split
      · split
        · exact corrected_form h
        · split
          · exact uncorrected_form h (fun t ht => poisonWords_form ht)
          · exact (dropRdc_onlyLines ..).keeps.form h
      · exact h
    · split
      · split
        · exact corrected_form h
        · dsimp only
          exact uncorrected_form h (fun t ht => setCore_form ht)
      · exact h
    · split
      · split
        · exact corrected_form h
        · exact uncorrected_form h (fun t ht => poisonWords_form ht)
      · exact h
    · split
      · split
        · exact h
        · exact poisonWords_form h
      · exact h

theorem scrubWord_form {word : Nat} (h : s.memWf) : (scrubWord s word).memWf := by
  unfold scrubWord
  split
  · dsimp only
    exact report_form h
  · exact h

theorem pathWord_form {word : Nat} (h : s.memWf) : (pathWord s word).memWf := by
  unfold pathWord
  dsimp only
  split
  · exact setPadPoison_form (pathFailed_form h)
  · exact setPoison_form (pathFailed_form h)

theorem takeOldest_form {k : Buffered → State → State} (h : s.memWf) (hk : ∀ x0 t, t.memWf → (k x0 t).memWf) :
    (takeOldest s k).memWf := by
  unfold takeOldest
  split
  · exact h
  · exact hk _ _ h.update

theorem pathStore_form {b : Buffered} (h : s.memWf) : (pathStore b s).memWf := by
  unfold pathStore
  dsimp only
  split
  · exact (sendStore_keeps ..).form (pathFailed_form h)
  · exact poisonWords_form ((acceptAll_keeps ..).form ((sendStore_keeps ..).form (pathFailed_form h)))

theorem pathRefused_form {serial tid : Nat} {addr : Word} (h : s.memWf) : (pathRefused s serial tid addr).memWf :=
  (blame_keeps ..).form (pathFailed_form h)

theorem pathControl_form {request : PathRequest} (h : s.memWf) : (pathControl request s).memWf := by
  unfold pathControl
  split
  · exact takeOldest_form h (fun x0 t ht => pathRefused_form ht)
  · split
    · exact h
    · exact pathRefused_form h.update
  · split
    · exact signalReply_form (pathFailed_form h.update)
    · exact report_form (pathFailed_form h.update)
    · exact h
  · split
    · split
      · exact h
      · extract_lets s1 s2
        have hs1 : s1.memWf := pathFailed_form h
        have hs2 : s2.memWf := hs1.update
        split
        · exact finishTransfer_form (failArrival_form hs2)
        · exact failTransfer_form hs2
    · exact h

theorem pathPresence_form {core : Nat} (h : s.memWf) : (pathPresence s core).memWf := by
  unfold pathPresence
  split
  · exact h
  · dsimp only
    split
    · exact pathFailed_form (landFlight_form h)
    · exact setPadPoison_form (pathFailed_form (landFlight_form h))

theorem supervisorRecord_form {part prio : Nat} {record : List Word} (h : s.memWf) : (supervisorRecord s part prio record).memWf := by
  unfold supervisorRecord
  dsimp only
  split
  · exact h
  · split
    · split
      · have h1 := offerRecord_form h ‹_›
        split
        · exact h1.update
        · exact State.memWf.update (State.memWf.update h1)
      · exact (reportCorrupt_keeps ..).form h
      · exact h
    · exact h

theorem setLease_form {cycles : Nat} (h : s.memWf) : (setLease s cycles).memWf := h.update

theorem happen_form {h : Happening} (hs : s.memWf) : (happen h s).memWf := by
  unfold happen
  split
  · exact hs.update
  · exact bitError_form hs
  · exact scrubWord_form hs
  · exact pathWord_form hs
  · exact State.onCore_form hs (fun t ht => takeOldest_form ht (fun x0 t1 ht1 => pathStore_form ht1))
  · exact pathPresence_form hs
  · exact State.onCore_form hs (fun t ht => pathControl_form ht)
  · exact supervisorRecord_form hs
  · split
    · exact hs
    · exact setLease_form hs
  · split
    · exact hs
    · exact hs.update
  · dsimp only
    exact setCore_form hs
  · split
    · exact hs
    · exact hs.update

/-! ### Turns -/

theorem fetchHalf_form {va : Word} {newLine : Bool} {r : Nat} {t1 : State} (h : s.memWf) (e : fetchHalf s va newLine = .ok (r, t1)) :
    t1.memWf := by
  unfold fetchHalf at e
  split at e
  · cases e
  · split at e
    · cases e
    · dsimp only at e
      cases e
      exact State.memWf.update (markUsed_form h)
  · dsimp only at e
    split at e
    · cases e
    · cases e
      refine fresh_form ?_
      refine markUsed_form ?_
      split
      · exact (countMigration_keeps ..).form h
      · exact h

theorem fetchWord_form {r : List Byte} {t1 : State} (h : s.memWf) (e : fetchWord s = .ok (r, t1)) : t1.memWf := by
  unfold fetchWord at e
  split at e
  · cases e
  · split at e
    · cases e
    · split at e
      · cases e
        exact fetchHalf_form h ‹_›
      · split at e
        · cases e
        · cases e
          exact fetchHalf_form (fetchHalf_form h ‹_›) ‹_›

theorem landNamed_form {rs : List (BitVec 5)} (h : s.memWf) : (landNamed rs s).memWf :=
  foldl_form (fun _ _ ht => State.memWf.update (landLoad_form ht)) h

theorem takeEffect_form {l : LateLoad} (h : s.memWf) : (takeEffect l s).memWf := by
  have he : Formed (exec (instrOf l.code) { s with ctx := l.ctx, cut := .none }) := exec_form h.update
  unfold takeEffect
  split
  · split
    · exact h
    · exact State.memWf.update (he _ ‹_›)
  · exact h

theorem settleLoad_form {i : Instr} {l : LateLoad} (h : s.memWf) : (settleLoad i s l).memWf := by
  unfold settleLoad
  split
  · exact h
  · dsimp only
    split
    · exact fresh_form h
    · split
      · exact takeEffect_form (State.memWf.update (fresh_form h))
      · exact State.memWf.update (fresh_form h)

theorem settleLate_form {i : Instr} (h : s.memWf) : (settleLate i s).memWf := foldl_form (fun _ _ ht => settleLoad_form ht) h

theorem noteLate_form {i : Instr} {code : List Byte} {before after : State} (hafter : after.memWf) :
    (noteLate i code before after).memWf := by
  unfold noteLate
  split
  · exact hafter.update
  · split
    · exact hafter
    · split
      · exact hafter
      · exact hafter.update

theorem prepare_form {i : Instr} {s0 : State} (h : s0.memWf) : (prepare i s0).memWf := by
  unfold prepare
  extract_lets s s1 s2
  have hs : s.memWf := settleLate_form h
  have hs1 : s1.memWf := by
    dsimp only [s1]
    split
    · exact hs
    · exact combinePackage_form hs
  have hs2 : s2.memWf := landNamed_form hs1
  split
  · exact landVamos_form hs2
  · exact hs2

theorem enterStep_form {st : GangStep} (h : s.memWf) : (enterStep st s).memWf := h.update

theorem sendStep_form {serial : Nat} {st : GangStep} {m : Nat × Nat} (h : s.memWf) : (sendStep serial st s m).memWf := mapStarted_form h

theorem gangStepped_form {i : Instr} {code : List Byte} {before after : State} (hafter : after.memWf) :
    (gangStepped i code before after).memWf := by
  unfold gangStepped
  split
  · split
    · split
      · exact hafter
      · split
        · dsimp only
          exact foldl_form (fun t a ht => sendStep_form ht) (mapStarted_form hafter)
        · exact mapStarted_form hafter
        · exact mapStarted_form hafter
        · exact mapStarted_form hafter
        · exact hafter
    · exact hafter
  · exact hafter

theorem trapStep_form {i : Instr} {code : List Byte} {before after : State} (hafter : after.memWf) :
    (trapStep i code before after).memWf := by
  unfold trapStep
  split
  · dsimp only
    split
    · split
      · exact hafter
      · exact foldl_form (fun t a ht => mapStarted_form ht) hafter
    · split
      · exact hafter
      · exact foldl_form (fun t a ht => mapStarted_form ht) hafter
  · exact hafter

theorem afterIssue_form {i : Instr} {code : List Byte} {before after : State} (hafter : after.memWf) :
    (afterIssue i code before after).memWf := by
  unfold afterIssue
  refine noteLate_form ?_
  refine trapStep_form ?_
  refine gangStepped_form ?_
  split
  · exact count_form hafter
  · exact hafter

theorem runInstr_form {code : List Byte} (h : s.memWf) : Formed (runInstr code s) := by
  have he : Formed (exec (instrOf code) (prepare (instrOf code) s)) := exec_form (prepare_form h)
  unfold runInstr
  dsimp only
  split
  · exact formed_next (afterIssue_form (he _ ‹_›))
  · exact formed_fault _
  · exact formed_refused _

theorem clearDue_form (h : s.memWf) : (clearDue s).memWf := by
  unfold clearDue
  split <;> exact h.update

theorem issue_form (h : s.memWf) : Formed (issue s) := by
  unfold issue
  split
  · exact formed_next h
  · split
    · exact formed_next (takeCause_form (clearDue_form h))
    · split
      · exact runInstr_form (enterStep_form h)
      · split
        · exact formed_next (takeCause_form h)
        · exact runInstr_form (fetchWord_form h ‹_›)

theorem boundary_form (h : s.memWf) : Formed (boundary s) := by
  have hat : Formed (boundary.atBoundary s) := by
    unfold boundary.atBoundary
    split
    · exact formed_next (expireHere_form h)
    · split
      · exact formed_next (pickIfIdle_form h)
      · exact issue_form (startRoutine_form h)
  have hrun {o : Out} (eq : (duePreemption s).map (fun e => runEvent e s) = some o) : Formed o := by
    obtain ⟨e, -, rfl⟩ := Option.map_eq_some_iff.mp eq
    exact runEvent_form h
  unfold boundary
  split
  · exact formed_next h
  · split
    · split
      · exact hat
      · exact formed_next (hrun ‹_› _ rfl)
    · exact hrun ‹_›
    · exact hat

theorem setCut_form {cycles : Nat} (h : s.memWf) : (setCut cycles s).memWf := by
  unfold setCut
  split
  · exact h.update
  · exact h

theorem takeCut_form (h : s.memWf) : Formed (takeCut s) := by
  unfold takeCut
  split
  · dsimp only
    split
    · exact runEvent_form h.update
    · refine formed_next ?_
      split
      · exact expireHere_form h.update
      · exact h.update
  · exact formed_next h.update

theorem andThen_form {o : Out} {f : State → Out} (ho : Formed o) (hf : ∀ t, t.memWf → Formed (f t)) : Formed (andThen o f) := by
  unfold andThen
  split
  · exact hf _ (ho _ rfl)
  · exact formed_fault _
  · exact formed_refused _

theorem passTime_form {cycles : Nat} (h : s.memWf) : (passTime cycles s).memWf := noteRestores_form h.update

theorem heldTurn_form {e : Option Event} {before after t : State} (hbefore : before.memWf) (eq : heldTurn e before after = some t) :
    t.memWf := by
  unfold heldTurn at eq
  dsimp only at eq
  split at eq
  · cases eq
  · cases eq
    split
    · exact foldl_form (fun t a ht => rousePan_form ht) hbefore.update
    · exact fresh_form (foldl_form (fun t a ht => rousePan_form ht) hbefore.update)

theorem headAlone_form {qpa : Nat} (h : s.memWf) : (headAlone s qpa).memWf := h.setPersisted (memWriteBytes_wf _ _ h.2.2.2)

theorem interruptDequeue_form {core : Nat} (h : s.memWf) : (interruptDequeue s core).memWf := by
  unfold interruptDequeue
  split
  · dsimp only
    split
    · exact headAlone_form h
    · exact h
  · exact h

theorem interruptDequeues_form (h : s.memWf) : (interruptDequeues s).memWf := foldl_form (fun _ _ ht => interruptDequeue_form ht) h

theorem coreTurn_form {n : Nat} (h : s.memWf) : Formed (coreTurn n s) := by
  unfold coreTurn
  refine andThen_form (boundary_form (setCut_form h)) (fun t ht => ?_)
  refine andThen_form (takeCut_form (passTime_form ht)) (fun t1 ht1 => ?_)
  refine formed_next ?_
  split
  · exact passTime_form (heldTurn_form h ‹_›)
  · exact ht1

theorem eventTurn_form {e : Event} (h : s.memWf) : Formed (eventTurn e s) := by
  unfold eventTurn
  extract_lets s1
  have h1 : s1.memWf := by
    dsimp only [s1]
    split
    · exact h
    · exact interruptDequeues_form (combinePackage_form h)
    · exact combinePackage_form h
  refine andThen_form (runEvent_form (ite_form h1.update h1)) fun u hu => formed_next ?_
  cases hheld : heldTurn (some e) s u with
  | none => exact hu
  | some v => exact heldTurn_form h hheld

theorem takeTurn_form {t : Turn} (h : s.memWf) : Formed (takeTurn t s) := by
  unfold takeTurn
  split
  · dsimp only
    exact coreTurn_form (switchTo_form h)
  · exact andThen_form (eventTurn_form h) (fun t ht => formed_next (passTime_form ht))
  · dsimp only
    exact formed_next (passTime_form (happen_form h))

/-! ### Step -/

theorem nextTurn_form (h : s.memWf) : (nextTurn s).2.memWf := by
  unfold nextTurn
  split
  · exact h
  · exact h.update

theorem step_form (h : s.memWf) : Formed (step s) := by
  unfold step
  split
  · exact formed_fault _
  · split
    · exact formed_fault _
    · exact takeTurn_form (nextTurn_form h)

end Sys2Proof.Machine
end

section
/-! PROOF. Every step keeps every memory in canonical form (O5). -/

namespace Sys2Proof.Machine

/-- Settles O5: every function that a step runs leaves a canonical memory canonical, by a lemma each, up to the turn that it takes. -/
theorem stepKeepsMemoryForm : Obligations.StepKeepsMemoryForm := fun _ _ h e => step_form h _ e

end Sys2Proof.Machine
end
